-- ==== Sys2Proof/Word.lean ====
section
/-!
DEFINITION. Word.lean: the word types of the VC9600 and the few closed sets of names that software
reads as codes (00 R11, R12, R13). Nothing here has an effect on a state.
-/

namespace Sys2Proof

/-- One byte of a memory, the smallest addressable unit (00 R12). -/
abbrev Byte := BitVec 8
/-- A 32-bit register word (00 R9). -/
abbrev W32 := BitVec 32
/-- A 64-bit register or memory word (00 R9). -/
abbrev W64 := BitVec 64

/-- The status codes of 00 R13. 00 R14: the device never produces another one, so the type is closed. -/
inductive Status where
  | ok | abandoned | preemptedDiscarded
  | badOpcode | lengthRange | lengthExceedsObject | staleHandle | badAlignment
  | translationFault | permission
  | integrityMismatch | uncorrectableEcc
  | barrierMismatch | matrixDivergence | groupTrap
  | watchdog | domainOff | collide
  | decompressCheck | outputOverflowUnchained
  deriving DecidableEq, Repr, Inhabited

/-- The access codes of register fields, 00 R11. -/
inductive Access where
  | ro | rw | wo | w1c | w1s | rc
  deriving DecidableEq, Repr

/-- A sparse table: key and entry, keys strictly rising. What an absent key stands for is said where
the table is a field of the state. -/
abbrev Tbl (α : Type) := List (Nat × α)

end Sys2Proof
end

