-- ==== Sys2Proof/Machine/Regs.lean ====
section
/-!
DEFINITION. Machine/Regs.lean: the register map of BAR0. One constructor of Reg per register the spec names,
with its place (00 R5 and the register rule of each chapter), its width (R9), its fields with their access
codes and reset values (R11), and one name F.<register>.<field> for every field.
-/

namespace Sys2Proof.Machine

/-- Every register of BAR0 by the name the spec gives it. -/
inductive Reg where
    | HIF_ID | HIF_FUNC | HIF_LINK | HIF_LINK_CTL | HIF_BAR_STATUS | HIF_VF_WIN | HIF_TIME | HIF_TIME_CTL
    | HIF_RATE_NOW | HIF_RATE_MIN | FE_QARG | FE_QCMD | FE_QRESULT | FE_OBJ_HANDLE | FE_OBJ_ADDR | FE_OBJ_SIZE
    | FE_OBJ_ATTR | FE_OBJ_CMD | FE_OBJ_RESULT | FE_QSTATE_SEL | FE_QSTATE | FE_PART | SCH_GARG0 | SCH_GARG1
    | SCH_GCMD | SCH_GRESULT | SCH_INTF_SEL | SCH_INTF_DATA0 | SCH_INTF_DATA1 | SCH_RESERVE | SCH_PREEMPT_CTL
    | SCH_DL_BUDGET | SCH_INTF_RING | SCH_INTF_CTL | SCH_INTF_PI | SCH_INTF_CI | SCH_SCRATCH | SCH_DISCARD
    | SC_CORE_STATUS | SC_CORE_ECC | SC_REPLAY | SC_REPLAY_RESULT | SC_PARK_CTL | SC_PARKED_COUNT
    | ACE_ENG_STATUS | ACE_ENG_STEPS | ACE_ENG_ECC | ACE_CTL | COL_CTL | COL_STATUS | COL_FLUSHES
    | COL_PASS_SEL | COL_PASS_INFO | COL_PASS_POOL | RAS_CTL | RAS_UNIT_STATUS | RAS_UNIT_TILES | TRU_ARG0
    | TRU_ARG1 | TRU_CMD | TRU_RESULT | TRU_SLOT_CFG | TRU_SLOT_STAT | TRU_ECC | SEQ_SARG | SEQ_SCMD
    | SEQ_SRESULT | SEQ_SSTATE_SEL | SEQ_SSTATE | SEQ_BATCH | SEQ_KV_POOL | SEQ_KV_TOP | SEQ_EVT_BASE
    | SEQ_EVT_CTL | SEQ_EVT_PI | SEQ_EVT_CI | SEQ_PART | SEQ_RING_CFG | SEQ_RING_TIMEOUT | SEQ_RING_STATUS
    | MEM_STACK_CTL | MEM_STACK_STATUS | MEM_REFRESH | MEM_ERR_ADDR | L2_WAYMASK | L2_MAINT_ARG0
    | L2_MAINT_ARG1 | L2_MAINT_CMD | L2_MAINT_RESULT | L2_SLICE_STATUS | ARB_WDOG_LOG | FOL_BANK | FOL_WIN_SEL
    | FOL_WIN_STATUS | XLT_AS_BASE | XLT_GRAPH_ASID | XLT_FLT_BASE | XLT_FLT_CTL | XLT_FLT_PI | XLT_FLT_CI
    | XLT_FLT_STATUS | XLT_INV_ARG0 | XLT_INV_ARG1 | XLT_INV_CMD | XLT_INV_RESULT | XLT_VM_CFG | XLT_TC_ERR
    | XLT_WALKS | INT_REC_BASE | INT_REC_CTL | INT_REC_PI | INT_REC_CI | INT_REC_STATUS | INT_CTL
    | INT_FAILSAFE | INT_STATE | INT_WINDOW_START | INT_HOLD | INT_RECOVER | INT_MISMATCH | INT_INJECT
    | PRS_STATUS | PRS_ERR | PRS_IN_BYTES | PRS_OUT_BYTES | DSP_OUT_CTL | DSP_OUT_STATUS | DSP_OUT_AS
    | DSP_AUX_CMD | DSP_AUX_RESULT | DSP_AUX_DATA | DSP_TIMING_H | DSP_TIMING_V | DSP_PIXEL_RATE
    | DSP_STREAM_LINK | DSP_STREAM_CTL | DSP_STREAM_LUM | DSP_STREAM_BG | DSP_WB_ADDR | DSP_WB_CTL | DSP_COMMIT
    | DSP_COMMIT_SEQ | DSP_COMMIT_QUEUE | DSP_COMMIT_STATUS | DSP_STREAM_STATUS | DSP_LATCH_TIME | DSP_PIPE_CTL
    | DSP_PIPE_DST | DSP_PIPE_ADDR | DSP_PIPE_SRC | DSP_PIPE_PITCH | DSP_PIPE_ALPHA | DSP_PIPE_META
    | DSP_PIPE_BUF | DSP_PIPE_STATUS | DSP_IRQ_CTL | DSP_IRQ_MASK | DSP_IRQ_STATUS | UAP_CTL | UAP_STATUS
    | UAP_PEER | UAP_PEER_ID | UAP_ERR | UAP_IRQ_CTL | UAP_IRQ_STATUS | MBX_CMD | MBX_CMD_STATUS | CCX_CMD_BASE
    | CCX_CMD_IRQ | CCX_FW_STATE | CCX_FW_ADDR | CCX_CORE_STATUS | CCX_SRAM_ECC | CCX_LOG_BASE | CCX_LOG_PI
    | CCX_LOG_CI | CCX_LOG_CTL | CCX_TRACE_EN | MBX_MODE | MBX_IRQ_CTL | MBX_TX0 | MBX_TX0_STATUS | MBX_RX
    | MBX_RX_STATUS | PWR_DOM_CTL | PWR_PAD_RELEASE | PWR_AUTO_IDLE | PWR_STATUS | PWR_LIMIT | PWR_VDD
    | PWR_TELEM | PWR_FAN | PWR_SILLAGE | PWR_WAKE_TIME | PWR_WAKE_CAUSE | BOOT_STATUS | BOOT_FUSE
    | BOOT_FLASH_ADDR | BOOT_FLASH_CMD | BOOT_FLASH_RESULT
  deriving DecidableEq, Repr

/-- Who sees a register (R8): pf, the physical function alone; fn, one window per function, all seen by the PF
and its own by a VF at window offset 0 (R33); own, the same offset for every function, each with its copy. -/
inductive Window where
  | pf | fn | own
  deriving DecidableEq, Repr

/-- Where a register stands: base is the BAR0 offset of its first copy; wCount windows (or clusters, or outputs)
wStride apart, and iCount array elements iStride apart inside each. -/
structure Place where
  base : Nat
  width : Nat
  kind : Window
  wStride : Nat
  wCount : Nat
  iStride : Nat
  iCount : Nat
  deriving DecidableEq, Repr

/-- One field of a register: bits hi..lo, its access code, its reset value; rsvd for the fields named RSVD, which
read as zero whatever was written (R10). -/
structure FieldDesc where
  hi : Nat
  lo : Nat
  acc : Access
  reset : Nat
  rsvd : Bool := false
  deriving DecidableEq, Repr

/-- A field by register and bits. -/
structure Fld where
  reg : Reg
  hi : Nat
  lo : Nat
  deriving DecidableEq, Repr

/-- The place of each register. -/
@[noinline] def Reg.place : Reg → Place
  | .HIF_ID => ⟨0x00000000, 32, .own, 0x0, 16, 0x0, 1⟩
  | .HIF_FUNC => ⟨0x00000004, 32, .own, 0x0, 16, 0x0, 1⟩
  | .HIF_LINK => ⟨0x00000008, 32, .pf, 0x0, 1, 0x0, 1⟩
  | .HIF_LINK_CTL => ⟨0x0000000c, 32, .pf, 0x0, 1, 0x0, 1⟩
  | .HIF_BAR_STATUS => ⟨0x00000010, 32, .own, 0x0, 16, 0x0, 1⟩
  | .HIF_VF_WIN => ⟨0x00000100, 64, .pf, 0x0, 1, 0x8, 16⟩
  | .HIF_TIME => ⟨0x00000200, 64, .own, 0x0, 16, 0x0, 1⟩
  | .HIF_TIME_CTL => ⟨0x00000208, 32, .pf, 0x0, 1, 0x0, 1⟩
  | .HIF_RATE_NOW => ⟨0x00000210, 32, .pf, 0x0, 1, 0x0, 1⟩
  | .HIF_RATE_MIN => ⟨0x00000214, 32, .pf, 0x0, 1, 0x0, 1⟩
  | .FE_QARG => ⟨0x00100000, 64, .fn, 0x10000, 16, 0x0, 1⟩
  | .FE_QCMD => ⟨0x00100008, 32, .fn, 0x10000, 16, 0x0, 1⟩
  | .FE_QRESULT => ⟨0x00100010, 64, .fn, 0x10000, 16, 0x0, 1⟩
  | .FE_OBJ_HANDLE => ⟨0x00100018, 32, .fn, 0x10000, 16, 0x0, 1⟩
  | .FE_OBJ_ADDR => ⟨0x00100020, 64, .fn, 0x10000, 16, 0x0, 1⟩
  | .FE_OBJ_SIZE => ⟨0x00100028, 64, .fn, 0x10000, 16, 0x0, 1⟩
  | .FE_OBJ_ATTR => ⟨0x00100030, 32, .fn, 0x10000, 16, 0x0, 1⟩
  | .FE_OBJ_CMD => ⟨0x00100034, 32, .fn, 0x10000, 16, 0x0, 1⟩
  | .FE_OBJ_RESULT => ⟨0x00100038, 64, .fn, 0x10000, 16, 0x0, 1⟩
  | .FE_QSTATE_SEL => ⟨0x00100040, 32, .fn, 0x10000, 16, 0x0, 1⟩
  | .FE_QSTATE => ⟨0x00100048, 64, .fn, 0x10000, 16, 0x0, 1⟩
  | .FE_PART => ⟨0x00100800, 64, .pf, 0x0, 1, 0x10, 16⟩
  | .SCH_GARG0 => ⟨0x00200000, 64, .fn, 0x1000, 16, 0x0, 1⟩
  | .SCH_GARG1 => ⟨0x00200008, 64, .fn, 0x1000, 16, 0x0, 1⟩
  | .SCH_GCMD => ⟨0x00200010, 32, .fn, 0x1000, 16, 0x0, 1⟩
  | .SCH_GRESULT => ⟨0x00200018, 64, .fn, 0x1000, 16, 0x0, 1⟩
  | .SCH_INTF_SEL => ⟨0x00200020, 32, .fn, 0x1000, 16, 0x0, 1⟩
  | .SCH_INTF_DATA0 => ⟨0x00200028, 64, .fn, 0x1000, 16, 0x0, 1⟩
  | .SCH_INTF_DATA1 => ⟨0x00200030, 64, .fn, 0x1000, 16, 0x0, 1⟩
  | .SCH_RESERVE => ⟨0x00210000, 32, .pf, 0x0, 1, 0x0, 1⟩
  | .SCH_PREEMPT_CTL => ⟨0x00210004, 32, .pf, 0x0, 1, 0x0, 1⟩
  | .SCH_DL_BUDGET => ⟨0x00210008, 32, .pf, 0x0, 1, 0x0, 1⟩
  | .SCH_INTF_RING => ⟨0x00210010, 64, .pf, 0x0, 1, 0x0, 1⟩
  | .SCH_INTF_CTL => ⟨0x00210018, 32, .pf, 0x0, 1, 0x0, 1⟩
  | .SCH_INTF_PI => ⟨0x0021001c, 32, .pf, 0x0, 1, 0x0, 1⟩
  | .SCH_INTF_CI => ⟨0x00210020, 32, .pf, 0x0, 1, 0x0, 1⟩
  | .SCH_SCRATCH => ⟨0x00210028, 64, .pf, 0x0, 1, 0x0, 1⟩
  | .SCH_DISCARD => ⟨0x00210030, 64, .pf, 0x0, 1, 0x0, 1⟩
  | .SC_CORE_STATUS => ⟨0x00400000, 64, .pf, 0x10000, 16, 0x1000, 8⟩
  | .SC_CORE_ECC => ⟨0x00400008, 32, .pf, 0x10000, 16, 0x1000, 8⟩
  | .SC_REPLAY => ⟨0x0040f000, 64, .own, 0x0, 16, 0x0, 1⟩
  | .SC_REPLAY_RESULT => ⟨0x0040f008, 64, .own, 0x0, 16, 0x0, 1⟩
  | .SC_PARK_CTL => ⟨0x0040f010, 32, .own, 0x0, 16, 0x0, 1⟩
  | .SC_PARKED_COUNT => ⟨0x0040f014, 32, .own, 0x0, 16, 0x0, 1⟩
  | .ACE_ENG_STATUS => ⟨0x00600000, 64, .pf, 0x0, 1, 0x100, 64⟩
  | .ACE_ENG_STEPS => ⟨0x00600008, 64, .pf, 0x0, 1, 0x100, 64⟩
  | .ACE_ENG_ECC => ⟨0x00600010, 32, .pf, 0x0, 1, 0x100, 64⟩
  | .ACE_CTL => ⟨0x00608000, 32, .pf, 0x0, 1, 0x0, 1⟩
  | .COL_CTL => ⟨0x00800000, 32, .pf, 0x0, 1, 0x0, 1⟩
  | .COL_STATUS => ⟨0x00800004, 32, .pf, 0x0, 1, 0x0, 1⟩
  | .COL_FLUSHES => ⟨0x00800008, 32, .pf, 0x0, 1, 0x0, 1⟩
  | .COL_PASS_SEL => ⟨0x00800010, 32, .pf, 0x0, 1, 0x0, 1⟩
  | .COL_PASS_INFO => ⟨0x00800018, 64, .pf, 0x0, 1, 0x0, 1⟩
  | .COL_PASS_POOL => ⟨0x00800020, 64, .pf, 0x0, 1, 0x0, 1⟩
  | .RAS_CTL => ⟨0x00900000, 32, .pf, 0x0, 1, 0x0, 1⟩
  | .RAS_UNIT_STATUS => ⟨0x00900100, 64, .pf, 0x0, 1, 0x8, 16⟩
  | .RAS_UNIT_TILES => ⟨0x00900200, 64, .pf, 0x0, 1, 0x8, 16⟩
  | .TRU_ARG0 => ⟨0x00a00000, 32, .fn, 0x1000, 16, 0x0, 1⟩
  | .TRU_ARG1 => ⟨0x00a00004, 32, .fn, 0x1000, 16, 0x0, 1⟩
  | .TRU_CMD => ⟨0x00a00008, 32, .fn, 0x1000, 16, 0x0, 1⟩
  | .TRU_RESULT => ⟨0x00a00010, 64, .fn, 0x1000, 16, 0x0, 1⟩
  | .TRU_SLOT_CFG => ⟨0x00a10000, 32, .pf, 0x0, 1, 0x10, 16⟩
  | .TRU_SLOT_STAT => ⟨0x00a10008, 64, .pf, 0x0, 1, 0x10, 16⟩
  | .TRU_ECC => ⟨0x00a10100, 32, .pf, 0x0, 1, 0x0, 1⟩
  | .SEQ_SARG => ⟨0x00b00000, 64, .fn, 0x1000, 16, 0x0, 1⟩
  | .SEQ_SCMD => ⟨0x00b00008, 32, .fn, 0x1000, 16, 0x0, 1⟩
  | .SEQ_SRESULT => ⟨0x00b00010, 64, .fn, 0x1000, 16, 0x0, 1⟩
  | .SEQ_SSTATE_SEL => ⟨0x00b00018, 32, .fn, 0x1000, 16, 0x0, 1⟩
  | .SEQ_SSTATE => ⟨0x00b00020, 64, .fn, 0x1000, 16, 0x0, 1⟩
  | .SEQ_BATCH => ⟨0x00b00028, 64, .fn, 0x1000, 16, 0x0, 1⟩
  | .SEQ_KV_POOL => ⟨0x00b00030, 32, .fn, 0x1000, 16, 0x0, 1⟩
  | .SEQ_KV_TOP => ⟨0x00b00034, 32, .fn, 0x1000, 16, 0x0, 1⟩
  | .SEQ_EVT_BASE => ⟨0x00b00038, 64, .fn, 0x1000, 16, 0x0, 1⟩
  | .SEQ_EVT_CTL => ⟨0x00b00040, 32, .fn, 0x1000, 16, 0x0, 1⟩
  | .SEQ_EVT_PI => ⟨0x00b00044, 32, .fn, 0x1000, 16, 0x0, 1⟩
  | .SEQ_EVT_CI => ⟨0x00b00048, 32, .fn, 0x1000, 16, 0x0, 1⟩
  | .SEQ_PART => ⟨0x00b10000, 64, .pf, 0x0, 1, 0x8, 16⟩
  | .SEQ_RING_CFG => ⟨0x00b10100, 32, .pf, 0x0, 1, 0x0, 1⟩
  | .SEQ_RING_TIMEOUT => ⟨0x00b10104, 32, .pf, 0x0, 1, 0x0, 1⟩
  | .SEQ_RING_STATUS => ⟨0x00b10108, 64, .pf, 0x0, 1, 0x0, 1⟩
  | .MEM_STACK_CTL => ⟨0x00c00000, 32, .pf, 0x0, 1, 0x10, 4⟩
  | .MEM_STACK_STATUS => ⟨0x00c00008, 64, .pf, 0x0, 1, 0x10, 4⟩
  | .MEM_REFRESH => ⟨0x00c00100, 32, .pf, 0x0, 1, 0x0, 1⟩
  | .MEM_ERR_ADDR => ⟨0x00c00108, 64, .pf, 0x0, 1, 0x0, 1⟩
  | .L2_WAYMASK => ⟨0x00c00200, 32, .pf, 0x0, 1, 0x4, 8⟩
  | .L2_MAINT_ARG0 => ⟨0x00c00300, 64, .pf, 0x0, 1, 0x0, 1⟩
  | .L2_MAINT_ARG1 => ⟨0x00c00308, 64, .pf, 0x0, 1, 0x0, 1⟩
  | .L2_MAINT_CMD => ⟨0x00c00310, 32, .pf, 0x0, 1, 0x0, 1⟩
  | .L2_MAINT_RESULT => ⟨0x00c00318, 64, .pf, 0x0, 1, 0x0, 1⟩
  | .L2_SLICE_STATUS => ⟨0x00c00400, 64, .pf, 0x0, 1, 0x8, 32⟩
  | .ARB_WDOG_LOG => ⟨0x00c00600, 64, .pf, 0x0, 1, 0x0, 1⟩
  | .FOL_BANK => ⟨0x00d00000, 32, .pf, 0x40, 16, 0x4, 16⟩
  | .FOL_WIN_SEL => ⟨0x00d00800, 32, .pf, 0x0, 1, 0x0, 1⟩
  | .FOL_WIN_STATUS => ⟨0x00d00804, 32, .pf, 0x0, 1, 0x0, 1⟩
  | .XLT_AS_BASE => ⟨0x00e00000, 64, .fn, 0x1000, 16, 0x0, 1⟩
  | .XLT_GRAPH_ASID => ⟨0x00e00008, 32, .fn, 0x1000, 16, 0x0, 1⟩
  | .XLT_FLT_BASE => ⟨0x00e00010, 64, .fn, 0x1000, 16, 0x0, 1⟩
  | .XLT_FLT_CTL => ⟨0x00e00018, 32, .fn, 0x1000, 16, 0x0, 1⟩
  | .XLT_FLT_PI => ⟨0x00e0001c, 32, .fn, 0x1000, 16, 0x0, 1⟩
  | .XLT_FLT_CI => ⟨0x00e00020, 32, .fn, 0x1000, 16, 0x0, 1⟩
  | .XLT_FLT_STATUS => ⟨0x00e00024, 32, .fn, 0x1000, 16, 0x0, 1⟩
  | .XLT_INV_ARG0 => ⟨0x00e00028, 64, .fn, 0x1000, 16, 0x0, 1⟩
  | .XLT_INV_ARG1 => ⟨0x00e00030, 64, .fn, 0x1000, 16, 0x0, 1⟩
  | .XLT_INV_CMD => ⟨0x00e00038, 32, .fn, 0x1000, 16, 0x0, 1⟩
  | .XLT_INV_RESULT => ⟨0x00e00040, 64, .fn, 0x1000, 16, 0x0, 1⟩
  | .XLT_VM_CFG => ⟨0x00e10000, 64, .pf, 0x0, 1, 0x10, 16⟩
  | .XLT_TC_ERR => ⟨0x00e10100, 32, .pf, 0x0, 1, 0x0, 1⟩
  | .XLT_WALKS => ⟨0x00e10108, 64, .pf, 0x0, 1, 0x0, 1⟩
  | .INT_REC_BASE => ⟨0x00f00000, 64, .fn, 0x1000, 16, 0x0, 1⟩
  | .INT_REC_CTL => ⟨0x00f00008, 32, .fn, 0x1000, 16, 0x0, 1⟩
  | .INT_REC_PI => ⟨0x00f0000c, 32, .fn, 0x1000, 16, 0x0, 1⟩
  | .INT_REC_CI => ⟨0x00f00010, 32, .fn, 0x1000, 16, 0x0, 1⟩
  | .INT_REC_STATUS => ⟨0x00f00014, 32, .fn, 0x1000, 16, 0x0, 1⟩
  | .INT_CTL => ⟨0x00f10000, 32, .pf, 0x0, 1, 0x0, 1⟩
  | .INT_FAILSAFE => ⟨0x00f10004, 32, .pf, 0x0, 1, 0x0, 1⟩
  | .INT_STATE => ⟨0x00f10008, 64, .pf, 0x0, 1, 0x0, 1⟩
  | .INT_WINDOW_START => ⟨0x00f10010, 64, .pf, 0x0, 1, 0x0, 1⟩
  | .INT_HOLD => ⟨0x00f10018, 32, .pf, 0x0, 1, 0x0, 1⟩
  | .INT_RECOVER => ⟨0x00f1001c, 32, .pf, 0x0, 1, 0x0, 1⟩
  | .INT_MISMATCH => ⟨0x00f10020, 32, .pf, 0x0, 1, 0x0, 1⟩
  | .INT_INJECT => ⟨0x00f10028, 64, .pf, 0x0, 1, 0x0, 1⟩
  | .PRS_STATUS => ⟨0x01000000, 64, .pf, 0x0, 1, 0x0, 1⟩
  | .PRS_ERR => ⟨0x01000008, 32, .pf, 0x0, 1, 0x0, 1⟩
  | .PRS_IN_BYTES => ⟨0x01000010, 64, .pf, 0x0, 1, 0x0, 1⟩
  | .PRS_OUT_BYTES => ⟨0x01000018, 64, .pf, 0x0, 1, 0x0, 1⟩
  | .DSP_OUT_CTL => ⟨0x01100000, 32, .pf, 0x0, 1, 0x100, 4⟩
  | .DSP_OUT_STATUS => ⟨0x01100004, 32, .pf, 0x0, 1, 0x100, 4⟩
  | .DSP_OUT_AS => ⟨0x01100008, 32, .pf, 0x0, 1, 0x100, 4⟩
  | .DSP_AUX_CMD => ⟨0x01100010, 32, .pf, 0x0, 1, 0x100, 4⟩
  | .DSP_AUX_RESULT => ⟨0x01100014, 32, .pf, 0x0, 1, 0x100, 4⟩
  | .DSP_AUX_DATA => ⟨0x01100020, 32, .pf, 0x100, 4, 0x4, 4⟩
  | .DSP_TIMING_H => ⟨0x01101000, 64, .pf, 0x0, 1, 0x100, 8⟩
  | .DSP_TIMING_V => ⟨0x01101008, 64, .pf, 0x0, 1, 0x100, 8⟩
  | .DSP_PIXEL_RATE => ⟨0x01101010, 32, .pf, 0x0, 1, 0x100, 8⟩
  | .DSP_STREAM_LINK => ⟨0x01101014, 32, .pf, 0x0, 1, 0x100, 8⟩
  | .DSP_STREAM_CTL => ⟨0x01101018, 32, .pf, 0x0, 1, 0x100, 8⟩
  | .DSP_STREAM_LUM => ⟨0x01101020, 64, .pf, 0x0, 1, 0x100, 8⟩
  | .DSP_STREAM_BG => ⟨0x01101028, 64, .pf, 0x0, 1, 0x100, 8⟩
  | .DSP_WB_ADDR => ⟨0x01101030, 64, .pf, 0x0, 1, 0x100, 8⟩
  | .DSP_WB_CTL => ⟨0x01101038, 32, .pf, 0x0, 1, 0x100, 8⟩
  | .DSP_COMMIT => ⟨0x0110103c, 32, .pf, 0x0, 1, 0x100, 8⟩
  | .DSP_COMMIT_SEQ => ⟨0x01101040, 64, .pf, 0x0, 1, 0x100, 8⟩
  | .DSP_COMMIT_QUEUE => ⟨0x01101048, 32, .pf, 0x0, 1, 0x100, 8⟩
  | .DSP_COMMIT_STATUS => ⟨0x0110104c, 32, .pf, 0x0, 1, 0x100, 8⟩
  | .DSP_STREAM_STATUS => ⟨0x01101050, 64, .pf, 0x0, 1, 0x100, 8⟩
  | .DSP_LATCH_TIME => ⟨0x01101058, 64, .pf, 0x0, 1, 0x100, 8⟩
  | .DSP_PIPE_CTL => ⟨0x01102000, 32, .pf, 0x0, 1, 0x40, 32⟩
  | .DSP_PIPE_DST => ⟨0x01102004, 32, .pf, 0x0, 1, 0x40, 32⟩
  | .DSP_PIPE_ADDR => ⟨0x01102008, 64, .pf, 0x0, 1, 0x40, 32⟩
  | .DSP_PIPE_SRC => ⟨0x01102010, 64, .pf, 0x0, 1, 0x40, 32⟩
  | .DSP_PIPE_PITCH => ⟨0x01102018, 32, .pf, 0x0, 1, 0x40, 32⟩
  | .DSP_PIPE_ALPHA => ⟨0x0110201c, 32, .pf, 0x0, 1, 0x40, 32⟩
  | .DSP_PIPE_META => ⟨0x01102020, 64, .pf, 0x0, 1, 0x40, 32⟩
  | .DSP_PIPE_BUF => ⟨0x01102028, 32, .pf, 0x0, 1, 0x40, 32⟩
  | .DSP_PIPE_STATUS => ⟨0x0110202c, 32, .pf, 0x0, 1, 0x40, 32⟩
  | .DSP_IRQ_CTL => ⟨0x01103000, 32, .pf, 0x0, 1, 0x0, 1⟩
  | .DSP_IRQ_MASK => ⟨0x01103004, 32, .pf, 0x0, 1, 0x0, 1⟩
  | .DSP_IRQ_STATUS => ⟨0x01103008, 32, .pf, 0x0, 1, 0x0, 1⟩
  | .UAP_CTL => ⟨0x01200000, 32, .pf, 0x0, 1, 0x100, 2⟩
  | .UAP_STATUS => ⟨0x01200004, 32, .pf, 0x0, 1, 0x100, 2⟩
  | .UAP_PEER => ⟨0x01200008, 32, .pf, 0x0, 1, 0x100, 2⟩
  | .UAP_PEER_ID => ⟨0x01200010, 64, .pf, 0x0, 1, 0x100, 2⟩
  | .UAP_ERR => ⟨0x01200018, 64, .pf, 0x0, 1, 0x100, 2⟩
  | .UAP_IRQ_CTL => ⟨0x01201000, 32, .pf, 0x0, 1, 0x0, 1⟩
  | .UAP_IRQ_STATUS => ⟨0x01201004, 32, .pf, 0x0, 1, 0x0, 1⟩
  | .MBX_CMD => ⟨0x01300000, 32, .fn, 0x1000, 16, 0x0, 1⟩
  | .MBX_CMD_STATUS => ⟨0x01300004, 32, .fn, 0x1000, 16, 0x0, 1⟩
  | .CCX_CMD_BASE => ⟨0x01300008, 64, .fn, 0x1000, 16, 0x0, 1⟩
  | .CCX_CMD_IRQ => ⟨0x01300010, 32, .fn, 0x1000, 16, 0x0, 1⟩
  | .CCX_FW_STATE => ⟨0x01310000, 32, .pf, 0x0, 1, 0x0, 1⟩
  | .CCX_FW_ADDR => ⟨0x01310008, 64, .pf, 0x0, 1, 0x0, 1⟩
  | .CCX_CORE_STATUS => ⟨0x01310010, 32, .pf, 0x0, 1, 0x4, 4⟩
  | .CCX_SRAM_ECC => ⟨0x01310020, 32, .pf, 0x0, 1, 0x0, 1⟩
  | .CCX_LOG_BASE => ⟨0x01310028, 64, .pf, 0x0, 1, 0x0, 1⟩
  | .CCX_LOG_PI => ⟨0x01310030, 32, .pf, 0x0, 1, 0x0, 1⟩
  | .CCX_LOG_CI => ⟨0x01310034, 32, .pf, 0x0, 1, 0x0, 1⟩
  | .CCX_LOG_CTL => ⟨0x01310038, 32, .pf, 0x0, 1, 0x0, 1⟩
  | .CCX_TRACE_EN => ⟨0x01310040, 32, .pf, 0x0, 1, 0x4, 8⟩
  | .MBX_MODE => ⟨0x01310100, 32, .pf, 0x0, 1, 0x0, 1⟩
  | .MBX_IRQ_CTL => ⟨0x01310104, 32, .pf, 0x0, 1, 0x0, 1⟩
  | .MBX_TX0 => ⟨0x01310200, 32, .pf, 0x0, 1, 0x0, 1⟩
  | .MBX_TX0_STATUS => ⟨0x01310204, 32, .pf, 0x0, 1, 0x0, 1⟩
  | .MBX_RX => ⟨0x01310300, 32, .pf, 0x0, 1, 0x8, 32⟩
  | .MBX_RX_STATUS => ⟨0x01310304, 32, .pf, 0x0, 1, 0x8, 32⟩
  | .PWR_DOM_CTL => ⟨0x01400000, 32, .pf, 0x0, 1, 0x4, 50⟩
  | .PWR_PAD_RELEASE => ⟨0x01400100, 32, .pf, 0x0, 1, 0x0, 1⟩
  | .PWR_AUTO_IDLE => ⟨0x01400104, 32, .pf, 0x0, 1, 0x0, 1⟩
  | .PWR_STATUS => ⟨0x01400108, 32, .pf, 0x0, 1, 0x0, 1⟩
  | .PWR_LIMIT => ⟨0x01400110, 64, .pf, 0x0, 1, 0x0, 1⟩
  | .PWR_VDD => ⟨0x01400118, 32, .pf, 0x0, 1, 0x0, 1⟩
  | .PWR_TELEM => ⟨0x01400120, 64, .pf, 0x0, 1, 0x0, 1⟩
  | .PWR_FAN => ⟨0x01400128, 32, .pf, 0x0, 1, 0x0, 1⟩
  | .PWR_SILLAGE => ⟨0x01400130, 32, .pf, 0x0, 1, 0x0, 1⟩
  | .PWR_WAKE_TIME => ⟨0x01400138, 64, .pf, 0x0, 1, 0x0, 1⟩
  | .PWR_WAKE_CAUSE => ⟨0x01400140, 32, .pf, 0x0, 1, 0x0, 1⟩
  | .BOOT_STATUS => ⟨0x01500000, 32, .pf, 0x0, 1, 0x0, 1⟩
  | .BOOT_FUSE => ⟨0x01500008, 64, .pf, 0x0, 1, 0x0, 1⟩
  | .BOOT_FLASH_ADDR => ⟨0x01500010, 32, .pf, 0x0, 1, 0x0, 1⟩
  | .BOOT_FLASH_CMD => ⟨0x01500014, 32, .pf, 0x0, 1, 0x0, 1⟩
  | .BOOT_FLASH_RESULT => ⟨0x01500018, 32, .pf, 0x0, 1, 0x0, 1⟩

/-- The power domain whose state gates accesses to a register under 18 R511; none where the register lies in the
AON domain or where no chapter places its block in one domain (log 5). w and i are the window and the index. -/
@[noinline] def Reg.domain (r : Reg) (w i : Nat) : Option Nat :=
  match r with
   | .FE_QARG | .FE_QCMD | .FE_QRESULT | .FE_OBJ_HANDLE | .FE_OBJ_ADDR | .FE_OBJ_SIZE | .FE_OBJ_ATTR
   | .FE_OBJ_CMD | .FE_OBJ_RESULT | .FE_QSTATE_SEL | .FE_QSTATE | .FE_PART | .SCH_GARG0 | .SCH_GARG1
   | .SCH_GCMD | .SCH_GRESULT | .SCH_INTF_SEL | .SCH_INTF_DATA0 | .SCH_INTF_DATA1 | .SCH_RESERVE
   | .SCH_PREEMPT_CTL | .SCH_DL_BUDGET | .SCH_INTF_RING | .SCH_INTF_CTL | .SCH_INTF_PI | .SCH_INTF_CI
   | .SCH_SCRATCH | .SCH_DISCARD | .TRU_ARG0 | .TRU_ARG1 | .TRU_CMD | .TRU_RESULT | .TRU_SLOT_CFG
   | .TRU_SLOT_STAT | .TRU_ECC | .SEQ_SARG | .SEQ_SCMD | .SEQ_SRESULT | .SEQ_SSTATE_SEL | .SEQ_SSTATE
   | .SEQ_BATCH | .SEQ_KV_POOL | .SEQ_KV_TOP | .SEQ_EVT_BASE | .SEQ_EVT_CTL | .SEQ_EVT_PI | .SEQ_EVT_CI
   | .SEQ_PART | .SEQ_RING_CFG | .SEQ_RING_TIMEOUT | .SEQ_RING_STATUS | .XLT_AS_BASE | .XLT_GRAPH_ASID
   | .XLT_FLT_BASE | .XLT_FLT_CTL | .XLT_FLT_PI | .XLT_FLT_CI | .XLT_FLT_STATUS | .XLT_INV_ARG0
   | .XLT_INV_ARG1 | .XLT_INV_CMD | .XLT_INV_RESULT | .XLT_VM_CFG | .XLT_TC_ERR | .XLT_WALKS => (some 41)
   | .SC_CORE_STATUS | .SC_CORE_ECC | .FOL_BANK => (some w)
   | .ACE_ENG_STATUS | .ACE_ENG_STEPS | .ACE_ENG_ECC => (some (16 + i / 4))
   | .COL_CTL | .COL_STATUS | .COL_FLUSHES | .COL_PASS_SEL | .COL_PASS_INFO | .COL_PASS_POOL => (some 40)
   | .RAS_UNIT_STATUS | .RAS_UNIT_TILES => (some i)
   | .PRS_STATUS | .PRS_ERR | .PRS_IN_BYTES | .PRS_OUT_BYTES => (some 43)
   | .DSP_OUT_CTL | .DSP_OUT_STATUS | .DSP_OUT_AS | .DSP_AUX_CMD | .DSP_AUX_RESULT | .DSP_AUX_DATA
   | .DSP_TIMING_H | .DSP_TIMING_V | .DSP_PIXEL_RATE | .DSP_STREAM_LINK | .DSP_STREAM_CTL
   | .DSP_STREAM_LUM | .DSP_STREAM_BG | .DSP_WB_ADDR | .DSP_WB_CTL | .DSP_COMMIT | .DSP_COMMIT_SEQ
   | .DSP_COMMIT_QUEUE | .DSP_COMMIT_STATUS | .DSP_STREAM_STATUS | .DSP_LATCH_TIME | .DSP_PIPE_CTL
   | .DSP_PIPE_DST | .DSP_PIPE_ADDR | .DSP_PIPE_SRC | .DSP_PIPE_PITCH | .DSP_PIPE_ALPHA | .DSP_PIPE_META
   | .DSP_PIPE_BUF | .DSP_PIPE_STATUS | .DSP_IRQ_CTL | .DSP_IRQ_MASK | .DSP_IRQ_STATUS => (some 42)
   | .UAP_CTL | .UAP_ERR => (some (48 + i))
   | .HIF_ID | .HIF_FUNC | .HIF_LINK | .HIF_LINK_CTL | .HIF_BAR_STATUS | .HIF_VF_WIN | .HIF_TIME
   | .HIF_TIME_CTL | .HIF_RATE_NOW | .HIF_RATE_MIN | .SC_REPLAY | .SC_REPLAY_RESULT | .SC_PARK_CTL
   | .SC_PARKED_COUNT | .ACE_CTL | .RAS_CTL | .MEM_STACK_CTL | .MEM_STACK_STATUS | .MEM_REFRESH
   | .MEM_ERR_ADDR | .L2_WAYMASK | .L2_MAINT_ARG0 | .L2_MAINT_ARG1 | .L2_MAINT_CMD | .L2_MAINT_RESULT
   | .L2_SLICE_STATUS | .ARB_WDOG_LOG | .FOL_WIN_SEL | .FOL_WIN_STATUS | .INT_REC_BASE | .INT_REC_CTL
   | .INT_REC_PI | .INT_REC_CI | .INT_REC_STATUS | .INT_CTL | .INT_FAILSAFE | .INT_STATE
   | .INT_WINDOW_START | .INT_HOLD | .INT_RECOVER | .INT_MISMATCH | .INT_INJECT | .UAP_STATUS
   | .UAP_PEER | .UAP_PEER_ID | .UAP_IRQ_CTL | .UAP_IRQ_STATUS | .MBX_CMD | .MBX_CMD_STATUS
   | .CCX_CMD_BASE | .CCX_CMD_IRQ | .CCX_FW_STATE | .CCX_FW_ADDR | .CCX_CORE_STATUS | .CCX_SRAM_ECC
   | .CCX_LOG_BASE | .CCX_LOG_PI | .CCX_LOG_CI | .CCX_LOG_CTL | .CCX_TRACE_EN | .MBX_MODE | .MBX_IRQ_CTL
   | .MBX_TX0 | .MBX_TX0_STATUS | .MBX_RX | .MBX_RX_STATUS | .PWR_DOM_CTL | .PWR_PAD_RELEASE
   | .PWR_AUTO_IDLE | .PWR_STATUS | .PWR_LIMIT | .PWR_VDD | .PWR_TELEM | .PWR_FAN | .PWR_SILLAGE
   | .PWR_WAKE_TIME | .PWR_WAKE_CAUSE | .BOOT_STATUS | .BOOT_FUSE | .BOOT_FLASH_ADDR | .BOOT_FLASH_CMD
   | .BOOT_FLASH_RESULT => none

/-- The fields of each register, high bits first, with the reset value the spec states. A reset value that depends on
the window, the index, the image or the fuses is filled in by Reg.reset, and stands here as 0 (P_LIMIT, TARGET_MV: as
under the recovery identity, 19 R537). -/
@[noinline] def Reg.fields : Reg → List FieldDesc
  | .HIF_ID => [⟨31, 16, .ro, 38400, false⟩, ⟨15, 8, .ro, 1, false⟩, ⟨7, 0, .ro, 0, false⟩]
  | .HIF_FUNC => [⟨31, 5, .ro, 0, true⟩, ⟨4, 4, .ro, 0, false⟩, ⟨3, 0, .ro, 0, false⟩]
  | .HIF_LINK => [⟨31, 28, .ro, 0, false⟩, ⟨27, 23, .ro, 0, false⟩, ⟨22, 18, .ro, 0, false⟩,
      ⟨17, 17, .ro, 0, false⟩, ⟨16, 14, .ro, 0, false⟩, ⟨13, 0, .ro, 0, true⟩]
  | .HIF_LINK_CTL => [⟨31, 31, .rw, 0, false⟩, ⟨30, 28, .rw, 2, false⟩, ⟨27, 16, .rw, 0, false⟩,
      ⟨15, 10, .rw, 0, true⟩, ⟨9, 0, .rw, 100, false⟩]
  | .HIF_BAR_STATUS => [⟨31, 2, .ro, 0, true⟩, ⟨1, 1, .w1c, 0, false⟩, ⟨0, 0, .w1c, 0, false⟩]
  | .HIF_VF_WIN => [⟨63, 59, .rw, 0, true⟩, ⟨58, 42, .rw, 0, false⟩, ⟨41, 38, .rw, 0, true⟩,
      ⟨37, 21, .rw, 0, false⟩, ⟨20, 0, .rw, 0, true⟩]
  | .HIF_TIME => [⟨63, 0, .ro, 0, false⟩]
  | .HIF_TIME_CTL => [⟨31, 2, .ro, 0, true⟩, ⟨1, 1, .ro, 0, false⟩, ⟨0, 0, .w1c, 0, false⟩]
  | .HIF_RATE_NOW => [⟨31, 12, .ro, 0, true⟩, ⟨11, 0, .ro, 0, false⟩]
  | .HIF_RATE_MIN => [⟨31, 12, .ro, 0, true⟩, ⟨11, 0, .rc, 0, false⟩]
  | .FE_QARG => [⟨63, 0, .rw, 0, false⟩]
  | .FE_QCMD => [⟨31, 4, .wo, 0, true⟩, ⟨3, 0, .wo, 0, false⟩]
  | .FE_QRESULT => [⟨63, 63, .ro, 0, false⟩, ⟨62, 40, .ro, 0, true⟩, ⟨39, 32, .ro, 0, false⟩,
      ⟨31, 0, .ro, 0, false⟩]
  | .FE_OBJ_HANDLE => [⟨31, 0, .rw, 0, false⟩]
  | .FE_OBJ_ADDR => [⟨63, 0, .rw, 0, false⟩]
  | .FE_OBJ_SIZE => [⟨63, 0, .rw, 0, false⟩]
  | .FE_OBJ_ATTR => [⟨31, 20, .rw, 0, true⟩, ⟨19, 16, .rw, 0, false⟩, ⟨15, 15, .rw, 0, true⟩,
      ⟨14, 14, .rw, 0, false⟩, ⟨13, 13, .rw, 0, false⟩, ⟨12, 12, .rw, 0, false⟩, ⟨11, 0, .rw, 0, false⟩]
  | .FE_OBJ_CMD => [⟨31, 16, .wo, 0, true⟩, ⟨15, 4, .wo, 0, true⟩, ⟨3, 0, .wo, 0, false⟩]
  | .FE_OBJ_RESULT => [⟨63, 63, .ro, 0, false⟩, ⟨62, 40, .ro, 0, true⟩, ⟨39, 32, .ro, 0, false⟩,
      ⟨31, 0, .ro, 0, false⟩]
  | .FE_QSTATE_SEL => [⟨31, 0, .rw, 0, false⟩]
  | .FE_QSTATE => [⟨63, 56, .ro, 0, false⟩, ⟨55, 52, .ro, 0, false⟩, ⟨51, 32, .ro, 0, true⟩,
      ⟨31, 0, .ro, 0, false⟩]
  | .FE_PART => [⟨63, 51, .ro, 0, true⟩, ⟨50, 42, .rw, 0, false⟩, ⟨41, 34, .rw, 0, false⟩,
      ⟨33, 25, .rw, 0, false⟩, ⟨24, 17, .rw, 0, false⟩, ⟨16, 8, .rw, 0, false⟩, ⟨7, 0, .rw, 0, false⟩]
  | .SCH_GARG0 => [⟨63, 32, .rw, 0, false⟩, ⟨31, 0, .rw, 0, false⟩]
  | .SCH_GARG1 => [⟨63, 48, .rw, 0, true⟩, ⟨47, 32, .rw, 0, false⟩, ⟨31, 0, .rw, 0, false⟩]
  | .SCH_GCMD => [⟨31, 4, .wo, 0, true⟩, ⟨3, 0, .wo, 0, false⟩]
  | .SCH_GRESULT => [⟨63, 63, .ro, 0, false⟩, ⟨62, 56, .ro, 0, true⟩, ⟨55, 48, .ro, 0, false⟩,
      ⟨47, 32, .ro, 0, false⟩, ⟨31, 0, .ro, 0, false⟩]
  | .SCH_INTF_SEL => [⟨31, 12, .rw, 0, true⟩, ⟨11, 0, .rw, 0, false⟩]
  | .SCH_INTF_DATA0 => [⟨63, 32, .ro, 0, false⟩, ⟨31, 0, .ro, 0, false⟩]
  | .SCH_INTF_DATA1 => [⟨63, 32, .ro, 0, false⟩, ⟨31, 31, .ro, 0, false⟩, ⟨30, 28, .ro, 0, true⟩,
      ⟨27, 16, .ro, 0, false⟩, ⟨15, 0, .ro, 0, false⟩]
  | .SCH_RESERVE => [⟨31, 16, .rw, 0, true⟩, ⟨15, 0, .rw, 0, false⟩]
  | .SCH_PREEMPT_CTL => [⟨31, 14, .rw, 0, true⟩, ⟨13, 0, .rw, 512, false⟩]
  | .SCH_DL_BUDGET => [⟨31, 24, .rw, 0, true⟩, ⟨23, 0, .rw, 0, false⟩]
  | .SCH_INTF_RING => [⟨63, 0, .rw, 0, false⟩]
  | .SCH_INTF_CTL => [⟨31, 31, .rw, 0, false⟩, ⟨30, 30, .w1c, 0, false⟩, ⟨29, 27, .rw, 0, true⟩,
      ⟨26, 16, .rw, 0, false⟩, ⟨15, 4, .rw, 24, false⟩, ⟨3, 0, .rw, 8, false⟩]
  | .SCH_INTF_PI => [⟨31, 0, .ro, 0, false⟩]
  | .SCH_INTF_CI => [⟨31, 0, .rw, 0, false⟩]
  | .SCH_SCRATCH => [⟨63, 40, .rw, 0, false⟩, ⟨39, 0, .rw, 0, false⟩]
  | .SCH_DISCARD => [⟨63, 32, .wo, 0, false⟩, ⟨31, 0, .wo, 0, false⟩]
  | .SC_CORE_STATUS => [⟨63, 63, .ro, 0, false⟩, ⟨62, 56, .ro, 0, false⟩, ⟨55, 47, .ro, 256, false⟩,
      ⟨46, 38, .ro, 256, false⟩, ⟨37, 30, .ro, 128, false⟩, ⟨29, 23, .ro, 0, false⟩, ⟨22, 17, .ro, 0, false⟩,
      ⟨16, 0, .ro, 0, true⟩]
  | .SC_CORE_ECC => [⟨31, 16, .ro, 0, true⟩, ⟨15, 0, .rc, 0, false⟩]
  | .SC_REPLAY => [⟨63, 52, .wo, 0, false⟩, ⟨51, 40, .wo, 0, true⟩, ⟨39, 32, .wo, 0, false⟩,
      ⟨31, 29, .wo, 0, true⟩, ⟨28, 16, .wo, 0, false⟩, ⟨15, 4, .wo, 0, true⟩, ⟨3, 0, .wo, 0, false⟩]
  | .SC_REPLAY_RESULT => [⟨63, 63, .ro, 0, false⟩, ⟨62, 40, .ro, 0, true⟩, ⟨39, 32, .ro, 0, false⟩,
      ⟨31, 14, .ro, 0, true⟩, ⟨13, 0, .ro, 0, false⟩]
  | .SC_PARK_CTL => [⟨31, 5, .rw, 0, true⟩, ⟨4, 4, .rw, 0, false⟩, ⟨3, 3, .rw, 0, false⟩, ⟨2, 2, .rw, 0, false⟩,
      ⟨1, 1, .rw, 0, false⟩, ⟨0, 0, .rw, 0, false⟩]
  | .SC_PARKED_COUNT => [⟨31, 14, .ro, 0, true⟩, ⟨13, 0, .ro, 0, false⟩]
  | .ACE_ENG_STATUS => [⟨63, 63, .ro, 0, false⟩, ⟨62, 56, .ro, 0, false⟩, ⟨55, 53, .ro, 0, false⟩,
      ⟨52, 52, .ro, 0, false⟩, ⟨51, 51, .ro, 0, false⟩, ⟨50, 50, .ro, 0, false⟩, ⟨49, 34, .ro, 0, false⟩,
      ⟨33, 22, .ro, 0, false⟩, ⟨21, 0, .ro, 0, true⟩]
  | .ACE_ENG_STEPS => [⟨63, 0, .ro, 0, false⟩]
  | .ACE_ENG_ECC => [⟨31, 16, .ro, 0, true⟩, ⟨15, 0, .rc, 0, false⟩]
  | .ACE_CTL => [⟨31, 5, .rw, 0, true⟩, ⟨4, 0, .rw, 1, false⟩]
  | .COL_CTL => [⟨31, 16, .rw, 32768, false⟩, ⟨15, 0, .rw, 64, false⟩]
  | .COL_STATUS => [⟨31, 28, .ro, 0, false⟩, ⟨27, 27, .ro, 0, false⟩, ⟨26, 16, .ro, 0, true⟩,
      ⟨15, 0, .ro, 32768, false⟩]
  | .COL_FLUSHES => [⟨31, 0, .rc, 0, false⟩]
  | .COL_PASS_SEL => [⟨31, 3, .rw, 0, true⟩, ⟨2, 0, .rw, 0, false⟩]
  | .COL_PASS_INFO => [⟨63, 63, .ro, 0, false⟩, ⟨62, 61, .ro, 0, false⟩, ⟨60, 60, .ro, 0, false⟩,
      ⟨59, 59, .ro, 0, false⟩, ⟨58, 58, .ro, 0, false⟩, ⟨57, 46, .ro, 0, false⟩, ⟨45, 32, .ro, 0, false⟩,
      ⟨31, 16, .ro, 0, false⟩, ⟨15, 0, .ro, 0, false⟩]
  | .COL_PASS_POOL => [⟨63, 42, .ro, 0, true⟩, ⟨41, 21, .ro, 0, false⟩, ⟨20, 0, .ro, 0, false⟩]
  | .RAS_CTL => [⟨31, 16, .rw, 4096, false⟩, ⟨15, 5, .rw, 0, true⟩, ⟨4, 0, .rw, 16, false⟩]
  | .RAS_UNIT_STATUS => [⟨63, 48, .ro, 0, false⟩, ⟨47, 43, .ro, 0, false⟩, ⟨42, 27, .ro, 0, false⟩,
      ⟨26, 0, .ro, 0, true⟩]
  | .RAS_UNIT_TILES => [⟨63, 0, .ro, 0, false⟩]
  | .TRU_ARG0 => [⟨31, 0, .rw, 0, false⟩]
  | .TRU_ARG1 => [⟨31, 30, .rw, 0, true⟩, ⟨29, 17, .rw, 0, false⟩, ⟨16, 4, .rw, 0, false⟩, ⟨3, 0, .rw, 0, false⟩]
  | .TRU_CMD => [⟨31, 4, .wo, 0, true⟩, ⟨3, 0, .wo, 0, false⟩]
  | .TRU_RESULT => [⟨63, 63, .ro, 0, false⟩, ⟨62, 40, .ro, 0, true⟩, ⟨39, 32, .ro, 0, false⟩,
      ⟨31, 0, .ro, 0, false⟩]
  | .TRU_SLOT_CFG => [⟨31, 31, .ro, 0, false⟩, ⟨30, 30, .ro, 0, false⟩, ⟨29, 28, .ro, 0, true⟩,
      ⟨27, 16, .ro, 0, false⟩, ⟨15, 8, .rw, 0, true⟩, ⟨7, 4, .rw, 0, false⟩, ⟨3, 2, .rw, 0, true⟩,
      ⟨1, 0, .rw, 0, false⟩]
  | .TRU_SLOT_STAT => [⟨63, 56, .ro, 0, true⟩, ⟨55, 42, .ro, 0, false⟩, ⟨41, 28, .ro, 0, false⟩,
      ⟨27, 14, .ro, 0, false⟩, ⟨13, 0, .ro, 0, false⟩]
  | .TRU_ECC => [⟨31, 16, .rc, 0, false⟩, ⟨15, 0, .rc, 0, false⟩]
  | .SEQ_SARG => [⟨63, 0, .rw, 0, false⟩]
  | .SEQ_SCMD => [⟨31, 4, .wo, 0, true⟩, ⟨3, 0, .wo, 0, false⟩]
  | .SEQ_SRESULT => [⟨63, 63, .ro, 0, false⟩, ⟨62, 40, .ro, 0, true⟩, ⟨39, 32, .ro, 0, false⟩,
      ⟨31, 0, .ro, 0, false⟩]
  | .SEQ_SSTATE_SEL => [⟨31, 0, .rw, 0, false⟩]
  | .SEQ_SSTATE => [⟨63, 61, .ro, 0, false⟩, ⟨60, 58, .ro, 0, false⟩, ⟨57, 57, .ro, 0, false⟩,
      ⟨56, 51, .ro, 0, true⟩, ⟨50, 24, .ro, 0, false⟩, ⟨23, 0, .ro, 0, false⟩]
  | .SEQ_BATCH => [⟨63, 51, .rw, 0, true⟩, ⟨50, 38, .rw, 256, false⟩, ⟨37, 21, .rw, 8192, false⟩,
      ⟨20, 6, .rw, 512, false⟩, ⟨5, 0, .rw, 0, true⟩]
  | .SEQ_KV_POOL => [⟨31, 0, .rw, 0, false⟩]
  | .SEQ_KV_TOP => [⟨31, 23, .ro, 0, true⟩, ⟨22, 0, .ro, 0, false⟩]
  | .SEQ_EVT_BASE => [⟨63, 0, .rw, 0, false⟩]
  | .SEQ_EVT_CTL => [⟨31, 31, .rw, 0, false⟩, ⟨30, 27, .rw, 0, true⟩, ⟨26, 16, .rw, 0, false⟩,
      ⟨15, 4, .rw, 0, true⟩, ⟨3, 0, .rw, 8, false⟩]
  | .SEQ_EVT_PI => [⟨31, 0, .ro, 0, false⟩]
  | .SEQ_EVT_CI => [⟨31, 0, .rw, 0, false⟩]
  | .SEQ_PART => [⟨63, 17, .rw, 0, true⟩, ⟨16, 8, .rw, 0, false⟩, ⟨7, 0, .rw, 0, false⟩]
  | .SEQ_RING_CFG => [⟨31, 31, .rw, 0, false⟩, ⟨30, 28, .rw, 0, true⟩, ⟨27, 24, .rw, 2, false⟩,
      ⟨23, 23, .rw, 0, true⟩, ⟨22, 20, .rw, 0, false⟩, ⟨19, 18, .rw, 0, true⟩, ⟨17, 16, .rw, 1, false⟩,
      ⟨15, 13, .rw, 0, true⟩, ⟨12, 8, .rw, 24, false⟩, ⟨7, 0, .rw, 0, true⟩]
  | .SEQ_RING_TIMEOUT => [⟨31, 16, .rw, 0, true⟩, ⟨15, 0, .rw, 0, false⟩]
  | .SEQ_RING_STATUS => [⟨63, 63, .ro, 0, false⟩, ⟨62, 56, .ro, 0, true⟩, ⟨55, 48, .ro, 0, false⟩,
      ⟨47, 32, .ro, 0, false⟩, ⟨31, 29, .ro, 0, false⟩, ⟨28, 0, .ro, 0, false⟩]
  | .MEM_STACK_CTL => [⟨31, 16, .rw, 0, true⟩, ⟨15, 0, .rw, 0, false⟩]
  | .MEM_STACK_STATUS => [⟨63, 62, .ro, 2, false⟩, ⟨61, 54, .ro, 0, false⟩, ⟨53, 48, .ro, 0, true⟩,
      ⟨47, 32, .rc, 0, false⟩, ⟨31, 16, .rc, 0, false⟩, ⟨15, 0, .ro, 0, true⟩]
  | .MEM_REFRESH => [⟨31, 9, .rw, 0, true⟩, ⟨8, 8, .rw, 1, false⟩, ⟨7, 4, .rw, 0, true⟩, ⟨3, 0, .rw, 4, false⟩]
  | .MEM_ERR_ADDR => [⟨63, 63, .w1c, 0, false⟩, ⟨62, 45, .ro, 0, true⟩, ⟨44, 38, .ro, 0, false⟩,
      ⟨37, 0, .ro, 0, false⟩]
  | .L2_WAYMASK => [⟨31, 16, .rw, 0, true⟩, ⟨15, 0, .rw, 65535, false⟩]
  | .L2_MAINT_ARG0 => [⟨63, 0, .rw, 0, false⟩]
  | .L2_MAINT_ARG1 => [⟨63, 0, .rw, 0, false⟩]
  | .L2_MAINT_CMD => [⟨31, 6, .wo, 0, true⟩, ⟨5, 4, .wo, 0, false⟩, ⟨3, 2, .wo, 0, true⟩, ⟨1, 0, .wo, 0, false⟩]
  | .L2_MAINT_RESULT => [⟨63, 63, .ro, 0, false⟩, ⟨62, 40, .ro, 0, true⟩, ⟨39, 32, .ro, 0, false⟩,
      ⟨31, 31, .ro, 0, false⟩, ⟨30, 0, .ro, 0, false⟩]
  | .L2_SLICE_STATUS => [⟨63, 62, .ro, 2, false⟩, ⟨61, 55, .ro, 0, false⟩, ⟨54, 48, .ro, 0, true⟩,
      ⟨47, 32, .rc, 0, false⟩, ⟨31, 16, .rc, 0, false⟩, ⟨15, 0, .rc, 0, false⟩]
  | .ARB_WDOG_LOG => [⟨63, 63, .w1c, 0, false⟩, ⟨62, 48, .ro, 0, true⟩, ⟨47, 40, .ro, 0, false⟩,
      ⟨39, 32, .ro, 0, false⟩, ⟨31, 16, .ro, 0, false⟩, ⟨15, 0, .rc, 0, false⟩]
  | .FOL_BANK => [⟨31, 31, .ro, 0, false⟩, ⟨30, 30, .rw, 0, false⟩, ⟨29, 28, .rw, 2, false⟩,
      ⟨27, 26, .ro, 2, false⟩, ⟨25, 16, .rw, 0, true⟩, ⟨15, 8, .ro, 0, false⟩, ⟨7, 0, .rw, 0, false⟩]
  | .FOL_WIN_SEL => [⟨31, 8, .rw, 0, true⟩, ⟨7, 4, .rw, 0, false⟩, ⟨3, 0, .rw, 0, false⟩]
  | .FOL_WIN_STATUS => [⟨31, 18, .ro, 0, true⟩, ⟨17, 17, .w1c, 0, false⟩, ⟨16, 16, .w1c, 0, false⟩,
      ⟨15, 0, .rc, 0, false⟩]
  | .XLT_AS_BASE => [⟨63, 12, .rw, 0, false⟩, ⟨11, 5, .rw, 0, true⟩, ⟨4, 0, .rw, 0, false⟩]
  | .XLT_GRAPH_ASID => [⟨31, 16, .rw, 0, true⟩, ⟨15, 0, .rw, 0, false⟩]
  | .XLT_FLT_BASE => [⟨63, 12, .rw, 0, false⟩, ⟨11, 4, .rw, 0, true⟩, ⟨3, 0, .rw, 6, false⟩]
  | .XLT_FLT_CTL => [⟨31, 31, .rw, 0, false⟩, ⟨30, 27, .rw, 0, true⟩, ⟨26, 16, .rw, 0, false⟩,
      ⟨15, 0, .rw, 0, true⟩]
  | .XLT_FLT_PI => [⟨31, 0, .ro, 0, false⟩]
  | .XLT_FLT_CI => [⟨31, 0, .rw, 0, false⟩]
  | .XLT_FLT_STATUS => [⟨31, 31, .w1c, 0, false⟩, ⟨30, 16, .ro, 0, true⟩, ⟨15, 0, .rc, 0, false⟩]
  | .XLT_INV_ARG0 => [⟨63, 48, .rw, 0, true⟩, ⟨47, 0, .rw, 0, false⟩]
  | .XLT_INV_ARG1 => [⟨63, 49, .rw, 0, true⟩, ⟨48, 0, .rw, 0, false⟩]
  | .XLT_INV_CMD => [⟨31, 16, .wo, 0, false⟩, ⟨15, 12, .wo, 0, false⟩, ⟨11, 4, .wo, 0, true⟩,
      ⟨3, 0, .wo, 0, false⟩]
  | .XLT_INV_RESULT => [⟨63, 63, .ro, 0, false⟩, ⟨62, 40, .ro, 0, true⟩, ⟨39, 32, .ro, 0, false⟩,
      ⟨31, 31, .ro, 0, false⟩, ⟨30, 0, .ro, 0, true⟩]
  | .XLT_VM_CFG => [⟨63, 12, .rw, 0, false⟩, ⟨11, 2, .rw, 0, true⟩, ⟨1, 1, .rw, 0, false⟩, ⟨0, 0, .rw, 0, false⟩]
  | .XLT_TC_ERR => [⟨31, 16, .ro, 0, true⟩, ⟨15, 0, .rc, 0, false⟩]
  | .XLT_WALKS => [⟨63, 32, .rc, 0, false⟩, ⟨31, 0, .rc, 0, false⟩]
  | .INT_REC_BASE => [⟨63, 12, .rw, 0, false⟩, ⟨11, 4, .rw, 0, true⟩, ⟨3, 0, .rw, 6, false⟩]
  | .INT_REC_CTL => [⟨31, 31, .rw, 0, false⟩, ⟨30, 27, .rw, 0, true⟩, ⟨26, 16, .rw, 0, false⟩,
      ⟨15, 0, .rw, 0, true⟩]
  | .INT_REC_PI => [⟨31, 0, .ro, 0, false⟩]
  | .INT_REC_CI => [⟨31, 0, .rw, 0, false⟩]
  | .INT_REC_STATUS => [⟨31, 31, .w1c, 0, false⟩, ⟨30, 16, .ro, 0, true⟩, ⟨15, 0, .rc, 0, false⟩]
  | .INT_CTL => [⟨31, 17, .rw, 0, true⟩, ⟨16, 16, .rw, 0, false⟩, ⟨15, 0, .rw, 0, false⟩]
  | .INT_FAILSAFE => [⟨31, 31, .ro, 0, false⟩, ⟨30, 28, .ro, 0, true⟩, ⟨27, 24, .ro, 0, false⟩,
      ⟨23, 1, .ro, 0, true⟩, ⟨0, 0, .wo, 0, false⟩]
  | .INT_STATE => [⟨63, 62, .ro, 0, false⟩, ⟨61, 59, .ro, 0, false⟩, ⟨58, 58, .ro, 0, true⟩,
      ⟨57, 56, .ro, 0, false⟩, ⟨55, 32, .ro, 0, true⟩, ⟨31, 0, .ro, 0, false⟩]
  | .INT_WINDOW_START => [⟨63, 0, .ro, 0, false⟩]
  | .INT_HOLD => [⟨31, 8, .ro, 0, true⟩, ⟨7, 7, .w1c, 0, false⟩, ⟨6, 6, .w1c, 0, false⟩, ⟨5, 4, .w1c, 0, false⟩,
      ⟨3, 0, .w1c, 0, false⟩]
  | .INT_RECOVER => [⟨31, 4, .wo, 0, true⟩, ⟨3, 0, .wo, 0, false⟩]
  | .INT_MISMATCH => [⟨31, 0, .rc, 0, false⟩]
  | .INT_INJECT => [⟨63, 48, .wo, 0, true⟩, ⟨47, 32, .wo, 0, false⟩, ⟨31, 24, .wo, 0, false⟩,
      ⟨23, 19, .wo, 0, true⟩, ⟨18, 16, .wo, 0, false⟩, ⟨15, 0, .wo, 0, true⟩]
  | .PRS_STATUS => [⟨63, 62, .ro, 0, false⟩, ⟨61, 60, .ro, 0, false⟩, ⟨59, 16, .ro, 0, true⟩,
      ⟨15, 0, .ro, 0, false⟩]
  | .PRS_ERR => [⟨31, 31, .w1c, 0, false⟩, ⟨30, 16, .ro, 0, true⟩, ⟨15, 8, .ro, 0, false⟩, ⟨7, 0, .ro, 0, false⟩]
  | .PRS_IN_BYTES => [⟨63, 0, .rc, 0, false⟩]
  | .PRS_OUT_BYTES => [⟨63, 0, .rc, 0, false⟩]
  | .DSP_OUT_CTL => [⟨31, 31, .rw, 0, false⟩, ⟨30, 30, .rw, 0, false⟩, ⟨29, 28, .rw, 0, true⟩,
      ⟨27, 24, .rw, 0, false⟩, ⟨23, 22, .rw, 2, false⟩, ⟨21, 0, .rw, 0, true⟩]
  | .DSP_OUT_STATUS => [⟨31, 30, .ro, 0, false⟩, ⟨29, 29, .ro, 0, false⟩, ⟨28, 28, .ro, 0, false⟩,
      ⟨27, 27, .w1c, 0, false⟩, ⟨26, 26, .w1c, 0, false⟩, ⟨25, 25, .w1c, 0, false⟩, ⟨24, 0, .ro, 0, true⟩]
  | .DSP_OUT_AS => [⟨31, 16, .rw, 0, true⟩, ⟨15, 0, .rw, 0, false⟩]
  | .DSP_AUX_CMD => [⟨31, 28, .wo, 0, false⟩, ⟨27, 8, .wo, 0, false⟩, ⟨7, 4, .wo, 0, false⟩,
      ⟨3, 0, .wo, 0, true⟩]
  | .DSP_AUX_RESULT => [⟨31, 31, .ro, 0, false⟩, ⟨30, 8, .ro, 0, true⟩, ⟨7, 5, .ro, 0, false⟩,
      ⟨4, 0, .ro, 0, false⟩]
  | .DSP_AUX_DATA => [⟨31, 0, .rw, 0, false⟩]
  | .DSP_TIMING_H => [⟨63, 48, .rw, 0, false⟩, ⟨47, 32, .rw, 0, false⟩, ⟨31, 16, .rw, 0, false⟩,
      ⟨15, 1, .rw, 0, false⟩, ⟨0, 0, .rw, 0, false⟩]
  | .DSP_TIMING_V => [⟨63, 48, .rw, 0, false⟩, ⟨47, 32, .rw, 0, false⟩, ⟨31, 16, .rw, 0, false⟩,
      ⟨15, 1, .rw, 0, false⟩, ⟨0, 0, .rw, 0, false⟩]
  | .DSP_PIXEL_RATE => [⟨31, 0, .rw, 0, false⟩]
  | .DSP_STREAM_LINK => [⟨31, 31, .rw, 0, false⟩, ⟨30, 24, .rw, 0, true⟩, ⟨23, 20, .rw, 0, false⟩,
      ⟨19, 9, .rw, 0, true⟩, ⟨8, 0, .rw, 192, false⟩]
  | .DSP_STREAM_CTL => [⟨31, 31, .rw, 0, false⟩, ⟨30, 28, .rw, 0, true⟩, ⟨27, 26, .rw, 0, false⟩,
      ⟨25, 25, .rw, 0, false⟩, ⟨24, 24, .rw, 0, false⟩, ⟨23, 22, .rw, 0, false⟩, ⟨21, 21, .rw, 0, false⟩,
      ⟨20, 0, .rw, 0, true⟩]
  | .DSP_STREAM_LUM => [⟨63, 48, .rw, 0, true⟩, ⟨47, 32, .rw, 10000, false⟩, ⟨31, 16, .rw, 1000, false⟩,
      ⟨15, 0, .rw, 203, false⟩]
  | .DSP_STREAM_BG => [⟨63, 48, .rw, 0, true⟩, ⟨47, 0, .rw, 0, false⟩]
  | .DSP_WB_ADDR => [⟨63, 0, .rw, 0, false⟩]
  | .DSP_WB_CTL => [⟨31, 31, .rw, 0, false⟩, ⟨30, 30, .rw, 0, false⟩, ⟨29, 24, .rw, 0, true⟩,
      ⟨23, 0, .rw, 0, false⟩]
  | .DSP_COMMIT => [⟨31, 2, .wo, 0, true⟩, ⟨1, 0, .wo, 0, false⟩]
  | .DSP_COMMIT_SEQ => [⟨63, 0, .rw, 0, false⟩]
  | .DSP_COMMIT_QUEUE => [⟨31, 0, .rw, 0, false⟩]
  | .DSP_COMMIT_STATUS => [⟨31, 31, .ro, 0, false⟩, ⟨30, 30, .w1c, 0, false⟩, ⟨29, 24, .ro, 0, true⟩,
      ⟨23, 16, .ro, 0, false⟩, ⟨15, 0, .rc, 0, false⟩]
  | .DSP_STREAM_STATUS => [⟨63, 32, .ro, 0, false⟩, ⟨31, 31, .ro, 0, false⟩, ⟨30, 30, .ro, 0, false⟩,
      ⟨29, 29, .ro, 0, false⟩, ⟨28, 0, .ro, 0, true⟩]
  | .DSP_LATCH_TIME => [⟨63, 0, .ro, 0, false⟩]
  | .DSP_PIPE_CTL => [⟨31, 31, .rw, 0, false⟩, ⟨30, 28, .rw, 0, false⟩, ⟨27, 23, .rw, 0, false⟩,
      ⟨22, 22, .rw, 0, false⟩, ⟨21, 21, .rw, 0, false⟩, ⟨20, 19, .rw, 0, false⟩, ⟨18, 16, .rw, 0, false⟩,
      ⟨15, 15, .rw, 0, false⟩, ⟨14, 8, .rw, 0, true⟩, ⟨7, 0, .rw, 0, false⟩]
  | .DSP_PIPE_DST => [⟨31, 16, .rw, 0, false⟩, ⟨15, 0, .rw, 0, false⟩]
  | .DSP_PIPE_ADDR => [⟨63, 0, .rw, 0, false⟩]
  | .DSP_PIPE_SRC => [⟨63, 48, .rw, 0, false⟩, ⟨47, 32, .rw, 0, false⟩, ⟨31, 16, .rw, 0, false⟩,
      ⟨15, 0, .rw, 0, false⟩]
  | .DSP_PIPE_PITCH => [⟨31, 0, .rw, 0, false⟩]
  | .DSP_PIPE_ALPHA => [⟨31, 16, .rw, 0, true⟩, ⟨15, 0, .rw, 65535, false⟩]
  | .DSP_PIPE_META => [⟨63, 0, .rw, 0, false⟩]
  | .DSP_PIPE_BUF => [⟨31, 28, .rw, 0, false⟩, ⟨27, 21, .rw, 4, false⟩, ⟨20, 15, .rw, 0, true⟩,
      ⟨14, 0, .rw, 0, false⟩]
  | .DSP_PIPE_STATUS => [⟨31, 31, .ro, 0, false⟩, ⟨30, 28, .ro, 0, false⟩, ⟨27, 27, .ro, 0, false⟩,
      ⟨26, 16, .ro, 0, true⟩, ⟨15, 0, .rc, 0, false⟩]
  | .DSP_IRQ_CTL => [⟨31, 31, .rw, 0, false⟩, ⟨30, 27, .rw, 0, true⟩, ⟨26, 16, .rw, 0, false⟩,
      ⟨15, 0, .rw, 0, true⟩]
  | .DSP_IRQ_MASK => [⟨31, 30, .ro, 0, true⟩, ⟨29, 29, .rw, 0, false⟩, ⟨28, 28, .rw, 0, false⟩,
      ⟨27, 24, .rw, 0, false⟩, ⟨23, 16, .rw, 0, false⟩, ⟨15, 8, .rw, 0, false⟩, ⟨7, 0, .rw, 0, false⟩]
  | .DSP_IRQ_STATUS => [⟨31, 30, .ro, 0, true⟩, ⟨29, 29, .w1c, 0, false⟩, ⟨28, 28, .w1c, 0, false⟩,
      ⟨27, 24, .w1c, 0, false⟩, ⟨23, 16, .w1c, 0, false⟩, ⟨15, 8, .w1c, 0, false⟩, ⟨7, 0, .w1c, 0, false⟩]
  | .UAP_CTL => [⟨31, 31, .rw, 0, false⟩, ⟨30, 30, .wo, 0, false⟩, ⟨29, 29, .wo, 0, false⟩,
      ⟨28, 0, .rw, 0, true⟩]
  | .UAP_STATUS => [⟨31, 29, .ro, 0, false⟩, ⟨28, 28, .ro, 0, false⟩, ⟨27, 27, .ro, 0, false⟩,
      ⟨26, 19, .ro, 0, false⟩, ⟨18, 18, .w1c, 0, false⟩, ⟨17, 17, .w1c, 0, false⟩, ⟨16, 16, .w1c, 0, false⟩,
      ⟨15, 0, .ro, 0, true⟩]
  | .UAP_PEER => [⟨31, 31, .ro, 0, false⟩, ⟨30, 30, .ro, 0, false⟩, ⟨29, 29, .ro, 0, false⟩,
      ⟨28, 25, .ro, 0, false⟩, ⟨24, 22, .ro, 0, false⟩, ⟨21, 0, .ro, 0, true⟩]
  | .UAP_PEER_ID => [⟨63, 0, .ro, 0, false⟩]
  | .UAP_ERR => [⟨63, 48, .rc, 0, false⟩, ⟨47, 32, .rc, 0, false⟩, ⟨31, 16, .rc, 0, false⟩,
      ⟨15, 8, .rc, 0, false⟩, ⟨7, 0, .rc, 0, false⟩]
  | .UAP_IRQ_CTL => [⟨31, 31, .rw, 0, false⟩, ⟨30, 27, .rw, 0, true⟩, ⟨26, 16, .rw, 0, false⟩,
      ⟨15, 0, .rw, 0, true⟩]
  | .UAP_IRQ_STATUS => [⟨31, 4, .ro, 0, true⟩, ⟨3, 2, .w1c, 0, false⟩, ⟨1, 0, .w1c, 0, false⟩]
  | .MBX_CMD => [⟨31, 0, .wo, 0, false⟩]
  | .MBX_CMD_STATUS => [⟨31, 31, .ro, 0, false⟩, ⟨30, 30, .w1c, 0, false⟩, ⟨29, 29, .w1c, 0, false⟩,
      ⟨28, 28, .w1c, 0, false⟩, ⟨27, 27, .rw, 0, false⟩, ⟨26, 0, .ro, 0, true⟩]
  | .CCX_CMD_BASE => [⟨63, 10, .rw, 0, false⟩, ⟨9, 0, .rw, 0, true⟩]
  | .CCX_CMD_IRQ => [⟨31, 31, .rw, 0, false⟩, ⟨30, 27, .rw, 0, true⟩, ⟨26, 16, .rw, 0, false⟩,
      ⟨15, 0, .rw, 0, true⟩]
  | .CCX_FW_STATE => [⟨31, 30, .ro, 0, false⟩, ⟨29, 0, .ro, 0, true⟩]
  | .CCX_FW_ADDR => [⟨63, 0, .rw, 0, false⟩]
  | .CCX_CORE_STATUS => [⟨31, 30, .ro, 0, false⟩, ⟨29, 16, .ro, 0, true⟩, ⟨15, 0, .rc, 0, false⟩]
  | .CCX_SRAM_ECC => [⟨31, 16, .ro, 0, true⟩, ⟨15, 0, .rc, 0, false⟩]
  | .CCX_LOG_BASE => [⟨63, 20, .rw, 0, false⟩, ⟨19, 0, .rw, 0, true⟩]
  | .CCX_LOG_PI => [⟨31, 0, .ro, 0, false⟩]
  | .CCX_LOG_CI => [⟨31, 0, .rw, 0, false⟩]
  | .CCX_LOG_CTL => [⟨31, 31, .rw, 0, false⟩, ⟨30, 29, .rw, 1, false⟩, ⟨28, 27, .rw, 0, true⟩,
      ⟨26, 16, .rw, 0, false⟩, ⟨15, 0, .rc, 0, false⟩]
  | .CCX_TRACE_EN => [⟨31, 0, .rw, 0, false⟩]
  | .MBX_MODE => [⟨31, 0, .rw, 0, false⟩]
  | .MBX_IRQ_CTL => [⟨31, 31, .rw, 0, false⟩, ⟨30, 27, .rw, 0, true⟩, ⟨26, 16, .rw, 0, false⟩,
      ⟨15, 0, .rw, 0, true⟩]
  | .MBX_TX0 => [⟨31, 0, .wo, 0, false⟩]
  | .MBX_TX0_STATUS => [⟨31, 31, .ro, 0, false⟩, ⟨30, 30, .w1c, 0, false⟩, ⟨29, 29, .w1c, 0, false⟩,
      ⟨28, 28, .w1c, 0, false⟩, ⟨27, 27, .rw, 0, false⟩, ⟨26, 0, .ro, 0, true⟩]
  | .MBX_RX => [⟨31, 0, .rc, 0, false⟩]
  | .MBX_RX_STATUS => [⟨31, 31, .ro, 0, false⟩, ⟨30, 0, .ro, 0, true⟩]
  | .PWR_DOM_CTL => [⟨31, 31, .ro, 0, false⟩, ⟨30, 29, .ro, 0, false⟩, ⟨28, 24, .ro, 0, true⟩,
      ⟨23, 16, .ro, 0, false⟩, ⟨15, 3, .rw, 0, true⟩, ⟨2, 2, .rw, 0, false⟩, ⟨1, 0, .rw, 0, false⟩]
  | .PWR_PAD_RELEASE => [⟨31, 10, .ro, 0, true⟩, ⟨9, 6, .w1c, 0, false⟩, ⟨5, 4, .w1c, 3, false⟩,
      ⟨3, 0, .w1c, 15, false⟩]
  | .PWR_AUTO_IDLE => [⟨31, 16, .rw, 0, true⟩, ⟨15, 0, .rw, 1000, false⟩]
  | .PWR_STATUS => [⟨31, 31, .w1c, 0, false⟩, ⟨30, 0, .ro, 0, true⟩]
  | .PWR_LIMIT => [⟨63, 48, .rw, 0, true⟩, ⟨47, 38, .rw, 500, false⟩, ⟨37, 28, .rw, 750, false⟩,
      ⟨27, 18, .rw, 520, false⟩, ⟨17, 11, .rw, 95, false⟩, ⟨10, 0, .rw, 0, true⟩]
  | .PWR_VDD => [⟨31, 22, .ro, 750, false⟩, ⟨21, 12, .ro, 0, false⟩, ⟨11, 8, .ro, 0, true⟩,
      ⟨7, 0, .rc, 0, false⟩]
  | .PWR_TELEM => [⟨63, 54, .ro, 0, false⟩, ⟨53, 44, .ro, 0, false⟩, ⟨43, 34, .ro, 0, false⟩,
      ⟨33, 26, .ro, 0, false⟩, ⟨25, 18, .ro, 0, false⟩, ⟨17, 0, .ro, 0, true⟩]
  | .PWR_FAN => [⟨31, 25, .rw, 0, false⟩, ⟨24, 9, .ro, 0, false⟩, ⟨8, 2, .rw, 30, false⟩, ⟨1, 0, .rw, 0, true⟩]
  | .PWR_SILLAGE => [⟨31, 31, .wo, 0, false⟩, ⟨30, 29, .ro, 0, false⟩, ⟨28, 28, .w1c, 0, false⟩,
      ⟨27, 20, .rw, 85, false⟩, ⟨19, 13, .rw, 30, false⟩, ⟨12, 10, .rw, 0, true⟩, ⟨9, 0, .rw, 100, false⟩]
  | .PWR_WAKE_TIME => [⟨63, 0, .ro, 0, false⟩]
  | .PWR_WAKE_CAUSE => [⟨31, 24, .ro, 0, false⟩, ⟨23, 16, .ro, 0, false⟩, ⟨15, 0, .ro, 0, false⟩]
  | .BOOT_STATUS => [⟨31, 30, .ro, 0, false⟩, ⟨29, 29, .ro, 0, false⟩, ⟨28, 24, .ro, 0, true⟩,
      ⟨23, 16, .ro, 0, false⟩, ⟨15, 8, .ro, 0, false⟩, ⟨7, 2, .ro, 0, true⟩, ⟨1, 0, .ro, 0, false⟩]
  | .BOOT_FUSE => [⟨63, 48, .ro, 0, false⟩, ⟨47, 8, .ro, 0, true⟩, ⟨7, 4, .ro, 0, false⟩, ⟨3, 0, .w1s, 0, false⟩]
  | .BOOT_FLASH_ADDR => [⟨31, 28, .rw, 0, true⟩, ⟨27, 0, .rw, 0, false⟩]
  | .BOOT_FLASH_CMD => [⟨31, 16, .wo, 0, true⟩, ⟨15, 8, .wo, 0, false⟩, ⟨7, 4, .wo, 0, true⟩,
      ⟨3, 0, .wo, 0, false⟩]
  | .BOOT_FLASH_RESULT => [⟨31, 31, .ro, 0, false⟩, ⟨30, 16, .ro, 0, true⟩, ⟨15, 8, .ro, 0, false⟩,
      ⟨7, 0, .ro, 0, true⟩]

namespace F

def HIF_ID.DEVICE : Fld := ⟨.HIF_ID, 31, 16⟩
def HIF_ID.MAJOR : Fld := ⟨.HIF_ID, 15, 8⟩
def HIF_ID.MINOR : Fld := ⟨.HIF_ID, 7, 0⟩
def HIF_FUNC.VF : Fld := ⟨.HIF_FUNC, 4, 4⟩
def HIF_FUNC.FUNCTION : Fld := ⟨.HIF_FUNC, 3, 0⟩
def HIF_LINK.SPEED : Fld := ⟨.HIF_LINK, 31, 28⟩
def HIF_LINK.WIDTH : Fld := ⟨.HIF_LINK, 27, 23⟩
def HIF_LINK.ACTIVE : Fld := ⟨.HIF_LINK, 22, 18⟩
def HIF_LINK.FLIT : Fld := ⟨.HIF_LINK, 17, 17⟩
def HIF_LINK.LSTATE : Fld := ⟨.HIF_LINK, 16, 14⟩
def HIF_LINK_CTL.L0P_EN : Fld := ⟨.HIF_LINK_CTL, 31, 31⟩
def HIF_LINK_CTL.L0P_MIN : Fld := ⟨.HIF_LINK_CTL, 30, 28⟩
def HIF_LINK_CTL.L1_IDLE_US : Fld := ⟨.HIF_LINK_CTL, 27, 16⟩
def HIF_LINK_CTL.LTR_US : Fld := ⟨.HIF_LINK_CTL, 9, 0⟩
def HIF_BAR_STATUS.DOMAIN_OFF : Fld := ⟨.HIF_BAR_STATUS, 1, 1⟩
def HIF_BAR_STATUS.OUTSIDE : Fld := ⟨.HIF_BAR_STATUS, 0, 0⟩
def HIF_VF_WIN.SIZE : Fld := ⟨.HIF_VF_WIN, 58, 42⟩
def HIF_VF_WIN.BASE : Fld := ⟨.HIF_VF_WIN, 37, 21⟩
def HIF_TIME.TIME : Fld := ⟨.HIF_TIME, 63, 0⟩
def HIF_TIME_CTL.SOURCE : Fld := ⟨.HIF_TIME_CTL, 1, 1⟩
def HIF_TIME_CTL.LOCK_LOST : Fld := ⟨.HIF_TIME_CTL, 0, 0⟩
def HIF_RATE_NOW.RATE : Fld := ⟨.HIF_RATE_NOW, 11, 0⟩
def HIF_RATE_MIN.MIN : Fld := ⟨.HIF_RATE_MIN, 11, 0⟩
def FE_QARG.ARG : Fld := ⟨.FE_QARG, 63, 0⟩
def FE_QCMD.OP : Fld := ⟨.FE_QCMD, 3, 0⟩
def FE_QRESULT.BUSY : Fld := ⟨.FE_QRESULT, 63, 63⟩
def FE_QRESULT.STATUS : Fld := ⟨.FE_QRESULT, 39, 32⟩
def FE_QRESULT.HANDLE : Fld := ⟨.FE_QRESULT, 31, 0⟩
def FE_OBJ_HANDLE.HANDLE : Fld := ⟨.FE_OBJ_HANDLE, 31, 0⟩
def FE_OBJ_ADDR.ADDR : Fld := ⟨.FE_OBJ_ADDR, 63, 0⟩
def FE_OBJ_SIZE.SIZE : Fld := ⟨.FE_OBJ_SIZE, 63, 0⟩
def FE_OBJ_ATTR.KIND : Fld := ⟨.FE_OBJ_ATTR, 19, 16⟩
def FE_OBJ_ATTR.SHARED : Fld := ⟨.FE_OBJ_ATTR, 14, 14⟩
def FE_OBJ_ATTR.WRITE : Fld := ⟨.FE_OBJ_ATTR, 13, 13⟩
def FE_OBJ_ATTR.READ : Fld := ⟨.FE_OBJ_ATTR, 12, 12⟩
def FE_OBJ_ATTR.CONTEXT : Fld := ⟨.FE_OBJ_ATTR, 11, 0⟩
def FE_OBJ_CMD.OP : Fld := ⟨.FE_OBJ_CMD, 3, 0⟩
def FE_OBJ_RESULT.BUSY : Fld := ⟨.FE_OBJ_RESULT, 63, 63⟩
def FE_OBJ_RESULT.STATUS : Fld := ⟨.FE_OBJ_RESULT, 39, 32⟩
def FE_OBJ_RESULT.HANDLE : Fld := ⟨.FE_OBJ_RESULT, 31, 0⟩
def FE_QSTATE_SEL.HANDLE : Fld := ⟨.FE_QSTATE_SEL, 31, 0⟩
def FE_QSTATE.LAST_STATUS : Fld := ⟨.FE_QSTATE, 63, 56⟩
def FE_QSTATE.STATE : Fld := ⟨.FE_QSTATE, 55, 52⟩
def FE_QSTATE.FETCH_INDEX : Fld := ⟨.FE_QSTATE, 31, 0⟩
def FE_PART.CTX_COUNT : Fld := ⟨.FE_PART, 50, 42⟩
def FE_PART.CTX_BASE : Fld := ⟨.FE_PART, 41, 34⟩
def FE_PART.OBJ_COUNT : Fld := ⟨.FE_PART, 33, 25⟩
def FE_PART.OBJ_BASE : Fld := ⟨.FE_PART, 24, 17⟩
def FE_PART.Q_COUNT : Fld := ⟨.FE_PART, 16, 8⟩
def FE_PART.Q_BASE : Fld := ⟨.FE_PART, 7, 0⟩
def SCH_GARG0.STAGE : Fld := ⟨.SCH_GARG0, 63, 32⟩
def SCH_GARG0.GRAPH : Fld := ⟨.SCH_GARG0, 31, 0⟩
def SCH_GARG1.COUNT : Fld := ⟨.SCH_GARG1, 47, 32⟩
def SCH_GARG1.STAGE_OFFSET : Fld := ⟨.SCH_GARG1, 31, 0⟩
def SCH_GCMD.OP : Fld := ⟨.SCH_GCMD, 3, 0⟩
def SCH_GRESULT.BUSY : Fld := ⟨.SCH_GRESULT, 63, 63⟩
def SCH_GRESULT.STATUS : Fld := ⟨.SCH_GRESULT, 55, 48⟩
def SCH_GRESULT.DETAIL : Fld := ⟨.SCH_GRESULT, 47, 32⟩
def SCH_GRESULT.VERSION : Fld := ⟨.SCH_GRESULT, 31, 0⟩
def SCH_INTF_SEL.CONTEXT : Fld := ⟨.SCH_INTF_SEL, 11, 0⟩
def SCH_INTF_DATA0.BLOCKED : Fld := ⟨.SCH_INTF_DATA0, 63, 32⟩
def SCH_INTF_DATA0.BUSY : Fld := ⟨.SCH_INTF_DATA0, 31, 0⟩
def SCH_INTF_DATA1.WINDOW_MS : Fld := ⟨.SCH_INTF_DATA1, 63, 32⟩
def SCH_INTF_DATA1.VALID : Fld := ⟨.SCH_INTF_DATA1, 31, 31⟩
def SCH_INTF_DATA1.AGGRESSOR : Fld := ⟨.SCH_INTF_DATA1, 27, 16⟩
def SCH_INTF_DATA1.SLOWDOWN : Fld := ⟨.SCH_INTF_DATA1, 15, 0⟩
def SCH_RESERVE.CLUSTERS : Fld := ⟨.SCH_RESERVE, 15, 0⟩
def SCH_PREEMPT_CTL.GRACE : Fld := ⟨.SCH_PREEMPT_CTL, 13, 0⟩
def SCH_DL_BUDGET.STEPS : Fld := ⟨.SCH_DL_BUDGET, 23, 0⟩
def SCH_INTF_RING.BASE : Fld := ⟨.SCH_INTF_RING, 63, 0⟩
def SCH_INTF_CTL.EN : Fld := ⟨.SCH_INTF_CTL, 31, 31⟩
def SCH_INTF_CTL.DROPPED : Fld := ⟨.SCH_INTF_CTL, 30, 30⟩
def SCH_INTF_CTL.VECTOR : Fld := ⟨.SCH_INTF_CTL, 26, 16⟩
def SCH_INTF_CTL.THRESH : Fld := ⟨.SCH_INTF_CTL, 15, 4⟩
def SCH_INTF_CTL.RING_LOG2 : Fld := ⟨.SCH_INTF_CTL, 3, 0⟩
def SCH_INTF_PI.PI : Fld := ⟨.SCH_INTF_PI, 31, 0⟩
def SCH_INTF_CI.CI : Fld := ⟨.SCH_INTF_CI, 31, 0⟩
def SCH_SCRATCH.SIZE : Fld := ⟨.SCH_SCRATCH, 63, 40⟩
def SCH_SCRATCH.BASE : Fld := ⟨.SCH_SCRATCH, 39, 0⟩
def SCH_DISCARD.QUEUE : Fld := ⟨.SCH_DISCARD, 63, 32⟩
def SCH_DISCARD.SEQ : Fld := ⟨.SCH_DISCARD, 31, 0⟩
def SC_CORE_STATUS.OVF : Fld := ⟨.SC_CORE_STATUS, 63, 63⟩
def SC_CORE_STATUS.PARKED : Fld := ⟨.SC_CORE_STATUS, 62, 56⟩
def SC_CORE_STATUS.VREG_FREE : Fld := ⟨.SC_CORE_STATUS, 55, 47⟩
def SC_CORE_STATUS.SREG_FREE : Fld := ⟨.SC_CORE_STATUS, 46, 38⟩
def SC_CORE_STATUS.LOCAL_FREE : Fld := ⟨.SC_CORE_STATUS, 37, 30⟩
def SC_CORE_STATUS.GROUPS : Fld := ⟨.SC_CORE_STATUS, 29, 23⟩
def SC_CORE_STATUS.BLOCKS : Fld := ⟨.SC_CORE_STATUS, 22, 17⟩
def SC_CORE_ECC.CORRECTED : Fld := ⟨.SC_CORE_ECC, 15, 0⟩
def SC_REPLAY.CONTEXT : Fld := ⟨.SC_REPLAY, 63, 52⟩
def SC_REPLAY.PARK_GEN : Fld := ⟨.SC_REPLAY, 39, 32⟩
def SC_REPLAY.PARK_ID : Fld := ⟨.SC_REPLAY, 28, 16⟩
def SC_REPLAY.OP : Fld := ⟨.SC_REPLAY, 3, 0⟩
def SC_REPLAY_RESULT.BUSY : Fld := ⟨.SC_REPLAY_RESULT, 63, 63⟩
def SC_REPLAY_RESULT.STATUS : Fld := ⟨.SC_REPLAY_RESULT, 39, 32⟩
def SC_REPLAY_RESULT.COUNT : Fld := ⟨.SC_REPLAY_RESULT, 13, 0⟩
def SC_PARK_CTL.ABORT_CMD : Fld := ⟨.SC_PARK_CTL, 4, 4⟩
def SC_PARK_CTL.ABORT_WDOG : Fld := ⟨.SC_PARK_CTL, 3, 3⟩
def SC_PARK_CTL.ABORT_GROUP : Fld := ⟨.SC_PARK_CTL, 2, 2⟩
def SC_PARK_CTL.ABORT_INTEG : Fld := ⟨.SC_PARK_CTL, 1, 1⟩
def SC_PARK_CTL.ABORT_XLT : Fld := ⟨.SC_PARK_CTL, 0, 0⟩
def SC_PARKED_COUNT.COUNT : Fld := ⟨.SC_PARKED_COUNT, 13, 0⟩
def ACE_ENG_STATUS.BOUND : Fld := ⟨.ACE_ENG_STATUS, 63, 63⟩
def ACE_ENG_STATUS.CORE : Fld := ⟨.ACE_ENG_STATUS, 62, 56⟩
def ACE_ENG_STATUS.OUTSTANDING : Fld := ⟨.ACE_ENG_STATUS, 55, 53⟩
def ACE_ENG_STATUS.ARRAY_BUSY : Fld := ⟨.ACE_ENG_STATUS, 52, 52⟩
def ACE_ENG_STATUS.MOVER_BUSY : Fld := ⟨.ACE_ENG_STATUS, 51, 51⟩
def ACE_ENG_STATUS.FAULTED : Fld := ⟨.ACE_ENG_STATUS, 50, 50⟩
def ACE_ENG_STATUS.BANKS : Fld := ⟨.ACE_ENG_STATUS, 49, 34⟩
def ACE_ENG_STATUS.CONTEXT : Fld := ⟨.ACE_ENG_STATUS, 33, 22⟩
def ACE_ENG_STEPS.BUSY : Fld := ⟨.ACE_ENG_STEPS, 63, 0⟩
def ACE_ENG_ECC.CORRECTED : Fld := ⟨.ACE_ENG_ECC, 15, 0⟩
def ACE_CTL.MIN_BANKS : Fld := ⟨.ACE_CTL, 4, 0⟩
def COL_CTL.LIST_LIMIT : Fld := ⟨.COL_CTL, 31, 16⟩
def COL_CTL.WARN_UNITS : Fld := ⟨.COL_CTL, 15, 0⟩
def COL_STATUS.OPEN : Fld := ⟨.COL_STATUS, 31, 28⟩
def COL_STATUS.FLUSHING : Fld := ⟨.COL_STATUS, 27, 27⟩
def COL_STATUS.LIST_FREE : Fld := ⟨.COL_STATUS, 15, 0⟩
def COL_FLUSHES.COUNT : Fld := ⟨.COL_FLUSHES, 31, 0⟩
def COL_PASS_SEL.PASS : Fld := ⟨.COL_PASS_SEL, 2, 0⟩
def COL_PASS_INFO.OPEN : Fld := ⟨.COL_PASS_INFO, 63, 63⟩
def COL_PASS_INFO.MODE : Fld := ⟨.COL_PASS_INFO, 62, 61⟩
def COL_PASS_INFO.FLUSHING : Fld := ⟨.COL_PASS_INFO, 60, 60⟩
def COL_PASS_INFO.WARNED : Fld := ⟨.COL_PASS_INFO, 59, 59⟩
def COL_PASS_INFO.FAILED : Fld := ⟨.COL_PASS_INFO, 58, 58⟩
def COL_PASS_INFO.CONTEXT : Fld := ⟨.COL_PASS_INFO, 57, 46⟩
def COL_PASS_INFO.QUEUE : Fld := ⟨.COL_PASS_INFO, 45, 32⟩
def COL_PASS_INFO.FLUSHES : Fld := ⟨.COL_PASS_INFO, 31, 16⟩
def COL_PASS_INFO.LISTS : Fld := ⟨.COL_PASS_INFO, 15, 0⟩
def COL_PASS_POOL.HIGH_WATER : Fld := ⟨.COL_PASS_POOL, 41, 21⟩
def COL_PASS_POOL.FREE_MAIN : Fld := ⟨.COL_PASS_POOL, 20, 0⟩
def RAS_CTL.SPLIT_RECORDS : Fld := ⟨.RAS_CTL, 31, 16⟩
def RAS_CTL.MAX_SLOTS : Fld := ⟨.RAS_CTL, 4, 0⟩
def RAS_UNIT_STATUS.BANKS : Fld := ⟨.RAS_UNIT_STATUS, 63, 48⟩
def RAS_UNIT_STATUS.SLOTS_USED : Fld := ⟨.RAS_UNIT_STATUS, 47, 43⟩
def RAS_UNIT_STATUS.FREE_LINES : Fld := ⟨.RAS_UNIT_STATUS, 42, 27⟩
def RAS_UNIT_TILES.COUNT : Fld := ⟨.RAS_UNIT_TILES, 63, 0⟩
def TRU_ARG0.HANDLE : Fld := ⟨.TRU_ARG0, 31, 0⟩
def TRU_ARG1.LAST : Fld := ⟨.TRU_ARG1, 29, 17⟩
def TRU_ARG1.FIRST : Fld := ⟨.TRU_ARG1, 16, 4⟩
def TRU_ARG1.SLOT : Fld := ⟨.TRU_ARG1, 3, 0⟩
def TRU_CMD.OP : Fld := ⟨.TRU_CMD, 3, 0⟩
def TRU_RESULT.BUSY : Fld := ⟨.TRU_RESULT, 63, 63⟩
def TRU_RESULT.STATUS : Fld := ⟨.TRU_RESULT, 39, 32⟩
def TRU_RESULT.VERSION : Fld := ⟨.TRU_RESULT, 31, 0⟩
def TRU_SLOT_CFG.BOUND : Fld := ⟨.TRU_SLOT_CFG, 31, 31⟩
def TRU_SLOT_CFG.OPEN : Fld := ⟨.TRU_SLOT_CFG, 30, 30⟩
def TRU_SLOT_CFG.CONTEXT : Fld := ⟨.TRU_SLOT_CFG, 27, 16⟩
def TRU_SLOT_CFG.FUNCTION : Fld := ⟨.TRU_SLOT_CFG, 7, 4⟩
def TRU_SLOT_CFG.MODE : Fld := ⟨.TRU_SLOT_CFG, 1, 0⟩
def TRU_SLOT_STAT.COPIED : Fld := ⟨.TRU_SLOT_STAT, 55, 42⟩
def TRU_SLOT_STAT.KEPT : Fld := ⟨.TRU_SLOT_STAT, 41, 28⟩
def TRU_SLOT_STAT.SHADED : Fld := ⟨.TRU_SLOT_STAT, 27, 14⟩
def TRU_SLOT_STAT.NOT_COMPARED : Fld := ⟨.TRU_SLOT_STAT, 13, 0⟩
def TRU_ECC.UNCORRECTED : Fld := ⟨.TRU_ECC, 31, 16⟩
def TRU_ECC.CORRECTED : Fld := ⟨.TRU_ECC, 15, 0⟩
def SEQ_SARG.ARG : Fld := ⟨.SEQ_SARG, 63, 0⟩
def SEQ_SCMD.OP : Fld := ⟨.SEQ_SCMD, 3, 0⟩
def SEQ_SRESULT.BUSY : Fld := ⟨.SEQ_SRESULT, 63, 63⟩
def SEQ_SRESULT.STATUS : Fld := ⟨.SEQ_SRESULT, 39, 32⟩
def SEQ_SRESULT.HANDLE : Fld := ⟨.SEQ_SRESULT, 31, 0⟩
def SEQ_SSTATE_SEL.HANDLE : Fld := ⟨.SEQ_SSTATE_SEL, 31, 0⟩
def SEQ_SSTATE.STATE : Fld := ⟨.SEQ_SSTATE, 63, 61⟩
def SEQ_SSTATE.REASON : Fld := ⟨.SEQ_SSTATE, 60, 58⟩
def SEQ_SSTATE.KV_WAIT : Fld := ⟨.SEQ_SSTATE, 57, 57⟩
def SEQ_SSTATE.POSITION : Fld := ⟨.SEQ_SSTATE, 50, 24⟩
def SEQ_SSTATE.GENERATED : Fld := ⟨.SEQ_SSTATE, 23, 0⟩
def SEQ_BATCH.BATCH_MAX : Fld := ⟨.SEQ_BATCH, 50, 38⟩
def SEQ_BATCH.TOKEN_BUDGET : Fld := ⟨.SEQ_BATCH, 37, 21⟩
def SEQ_BATCH.CHUNK : Fld := ⟨.SEQ_BATCH, 20, 6⟩
def SEQ_KV_POOL.HANDLE : Fld := ⟨.SEQ_KV_POOL, 31, 0⟩
def SEQ_KV_TOP.TOP : Fld := ⟨.SEQ_KV_TOP, 22, 0⟩
def SEQ_EVT_BASE.BASE : Fld := ⟨.SEQ_EVT_BASE, 63, 0⟩
def SEQ_EVT_CTL.EN : Fld := ⟨.SEQ_EVT_CTL, 31, 31⟩
def SEQ_EVT_CTL.VECTOR : Fld := ⟨.SEQ_EVT_CTL, 26, 16⟩
def SEQ_EVT_CTL.LOG2 : Fld := ⟨.SEQ_EVT_CTL, 3, 0⟩
def SEQ_EVT_PI.PI : Fld := ⟨.SEQ_EVT_PI, 31, 0⟩
def SEQ_EVT_CI.CI : Fld := ⟨.SEQ_EVT_CI, 31, 0⟩
def SEQ_PART.COUNT : Fld := ⟨.SEQ_PART, 16, 8⟩
def SEQ_PART.BASE : Fld := ⟨.SEQ_PART, 7, 0⟩
def SEQ_RING_CFG.EN : Fld := ⟨.SEQ_RING_CFG, 31, 31⟩
def SEQ_RING_CFG.N : Fld := ⟨.SEQ_RING_CFG, 27, 24⟩
def SEQ_RING_CFG.POSITION : Fld := ⟨.SEQ_RING_CFG, 22, 20⟩
def SEQ_RING_CFG.COMPRESS : Fld := ⟨.SEQ_RING_CFG, 17, 16⟩
def SEQ_RING_CFG.MSG_LOG2 : Fld := ⟨.SEQ_RING_CFG, 12, 8⟩
def SEQ_RING_TIMEOUT.MS : Fld := ⟨.SEQ_RING_TIMEOUT, 15, 0⟩
def SEQ_RING_STATUS.BUSY : Fld := ⟨.SEQ_RING_STATUS, 63, 63⟩
def SEQ_RING_STATUS.STATUS : Fld := ⟨.SEQ_RING_STATUS, 55, 48⟩
def SEQ_RING_STATUS.EXCHANGE : Fld := ⟨.SEQ_RING_STATUS, 47, 32⟩
def SEQ_RING_STATUS.HOP : Fld := ⟨.SEQ_RING_STATUS, 31, 29⟩
def SEQ_RING_STATUS.MESSAGES : Fld := ⟨.SEQ_RING_STATUS, 28, 0⟩
def MEM_STACK_CTL.SR_IDLE_US : Fld := ⟨.MEM_STACK_CTL, 15, 0⟩
def MEM_STACK_STATUS.STATE : Fld := ⟨.MEM_STACK_STATUS, 63, 62⟩
def MEM_STACK_STATUS.TEMP : Fld := ⟨.MEM_STACK_STATUS, 61, 54⟩
def MEM_STACK_STATUS.UNCORRECTED : Fld := ⟨.MEM_STACK_STATUS, 47, 32⟩
def MEM_STACK_STATUS.CORRECTED : Fld := ⟨.MEM_STACK_STATUS, 31, 16⟩
def MEM_REFRESH.MODE : Fld := ⟨.MEM_REFRESH, 8, 8⟩
def MEM_REFRESH.POSTPONE : Fld := ⟨.MEM_REFRESH, 3, 0⟩
def MEM_ERR_ADDR.VALID : Fld := ⟨.MEM_ERR_ADDR, 63, 63⟩
def MEM_ERR_ADDR.PC : Fld := ⟨.MEM_ERR_ADDR, 44, 38⟩
def MEM_ERR_ADDR.ADDRESS : Fld := ⟨.MEM_ERR_ADDR, 37, 0⟩
def L2_WAYMASK.MASK : Fld := ⟨.L2_WAYMASK, 15, 0⟩
def L2_MAINT_ARG0.ARG : Fld := ⟨.L2_MAINT_ARG0, 63, 0⟩
def L2_MAINT_ARG1.LENGTH : Fld := ⟨.L2_MAINT_ARG1, 63, 0⟩
def L2_MAINT_CMD.SCOPE : Fld := ⟨.L2_MAINT_CMD, 5, 4⟩
def L2_MAINT_CMD.OP : Fld := ⟨.L2_MAINT_CMD, 1, 0⟩
def L2_MAINT_RESULT.BUSY : Fld := ⟨.L2_MAINT_RESULT, 63, 63⟩
def L2_MAINT_RESULT.STATUS : Fld := ⟨.L2_MAINT_RESULT, 39, 32⟩
def L2_MAINT_RESULT.ESCALATED : Fld := ⟨.L2_MAINT_RESULT, 31, 31⟩
def L2_MAINT_RESULT.WRITTEN : Fld := ⟨.L2_MAINT_RESULT, 30, 0⟩
def L2_SLICE_STATUS.STATE : Fld := ⟨.L2_SLICE_STATUS, 63, 62⟩
def L2_SLICE_STATUS.MISS_BUSY : Fld := ⟨.L2_SLICE_STATUS, 61, 55⟩
def L2_SLICE_STATUS.TAG_PARITY : Fld := ⟨.L2_SLICE_STATUS, 47, 32⟩
def L2_SLICE_STATUS.UNCORRECTED : Fld := ⟨.L2_SLICE_STATUS, 31, 16⟩
def L2_SLICE_STATUS.CORRECTED : Fld := ⟨.L2_SLICE_STATUS, 15, 0⟩
def ARB_WDOG_LOG.VALID : Fld := ⟨.ARB_WDOG_LOG, 63, 63⟩
def ARB_WDOG_LOG.KIND : Fld := ⟨.ARB_WDOG_LOG, 47, 40⟩
def ARB_WDOG_LOG.INSTANCE : Fld := ⟨.ARB_WDOG_LOG, 39, 32⟩
def ARB_WDOG_LOG.REQUESTER : Fld := ⟨.ARB_WDOG_LOG, 31, 16⟩
def ARB_WDOG_LOG.COUNT : Fld := ⟨.ARB_WDOG_LOG, 15, 0⟩
def FOL_BANK.PENDING : Fld := ⟨.FOL_BANK, 31, 31⟩
def FOL_BANK.SCRUB : Fld := ⟨.FOL_BANK, 30, 30⟩
def FOL_BANK.PSTATE : Fld := ⟨.FOL_BANK, 29, 28⟩
def FOL_BANK.PNOW : Fld := ⟨.FOL_BANK, 27, 26⟩
def FOL_BANK.TARGET : Fld := ⟨.FOL_BANK, 15, 8⟩
def FOL_BANK.OWNER : Fld := ⟨.FOL_BANK, 7, 0⟩
def FOL_WIN_SEL.CLUSTER : Fld := ⟨.FOL_WIN_SEL, 7, 4⟩
def FOL_WIN_SEL.BANK : Fld := ⟨.FOL_WIN_SEL, 3, 0⟩
def FOL_WIN_STATUS.DOMAIN_OFF : Fld := ⟨.FOL_WIN_STATUS, 17, 17⟩
def FOL_WIN_STATUS.COLLIDE : Fld := ⟨.FOL_WIN_STATUS, 16, 16⟩
def FOL_WIN_STATUS.COLLISIONS : Fld := ⟨.FOL_WIN_STATUS, 15, 0⟩
def XLT_AS_BASE.BASE : Fld := ⟨.XLT_AS_BASE, 63, 12⟩
def XLT_AS_BASE.AS_LOG2 : Fld := ⟨.XLT_AS_BASE, 4, 0⟩
def XLT_GRAPH_ASID.ASID : Fld := ⟨.XLT_GRAPH_ASID, 15, 0⟩
def XLT_FLT_BASE.BASE : Fld := ⟨.XLT_FLT_BASE, 63, 12⟩
def XLT_FLT_BASE.LOG2 : Fld := ⟨.XLT_FLT_BASE, 3, 0⟩
def XLT_FLT_CTL.EN : Fld := ⟨.XLT_FLT_CTL, 31, 31⟩
def XLT_FLT_CTL.VECTOR : Fld := ⟨.XLT_FLT_CTL, 26, 16⟩
def XLT_FLT_PI.PI : Fld := ⟨.XLT_FLT_PI, 31, 0⟩
def XLT_FLT_CI.CI : Fld := ⟨.XLT_FLT_CI, 31, 0⟩
def XLT_FLT_STATUS.OVERFLOW : Fld := ⟨.XLT_FLT_STATUS, 31, 31⟩
def XLT_FLT_STATUS.DROPPED : Fld := ⟨.XLT_FLT_STATUS, 15, 0⟩
def XLT_INV_ARG0.START : Fld := ⟨.XLT_INV_ARG0, 47, 0⟩
def XLT_INV_ARG1.LENGTH : Fld := ⟨.XLT_INV_ARG1, 48, 0⟩
def XLT_INV_CMD.ASID : Fld := ⟨.XLT_INV_CMD, 31, 16⟩
def XLT_INV_CMD.VM : Fld := ⟨.XLT_INV_CMD, 15, 12⟩
def XLT_INV_CMD.OP : Fld := ⟨.XLT_INV_CMD, 3, 0⟩
def XLT_INV_RESULT.BUSY : Fld := ⟨.XLT_INV_RESULT, 63, 63⟩
def XLT_INV_RESULT.STATUS : Fld := ⟨.XLT_INV_RESULT, 39, 32⟩
def XLT_INV_RESULT.ESCALATED : Fld := ⟨.XLT_INV_RESULT, 31, 31⟩
def XLT_VM_CFG.S2_ROOT : Fld := ⟨.XLT_VM_CFG, 63, 12⟩
def XLT_VM_CFG.INV_MODE : Fld := ⟨.XLT_VM_CFG, 1, 1⟩
def XLT_VM_CFG.S2_EN : Fld := ⟨.XLT_VM_CFG, 0, 0⟩
def XLT_TC_ERR.PARITY : Fld := ⟨.XLT_TC_ERR, 15, 0⟩
def XLT_WALKS.READS : Fld := ⟨.XLT_WALKS, 63, 32⟩
def XLT_WALKS.WALKS : Fld := ⟨.XLT_WALKS, 31, 0⟩
def INT_REC_BASE.BASE : Fld := ⟨.INT_REC_BASE, 63, 12⟩
def INT_REC_BASE.LOG2 : Fld := ⟨.INT_REC_BASE, 3, 0⟩
def INT_REC_CTL.EN : Fld := ⟨.INT_REC_CTL, 31, 31⟩
def INT_REC_CTL.VECTOR : Fld := ⟨.INT_REC_CTL, 26, 16⟩
def INT_REC_PI.PI : Fld := ⟨.INT_REC_PI, 31, 0⟩
def INT_REC_CI.CI : Fld := ⟨.INT_REC_CI, 31, 0⟩
def INT_REC_STATUS.OVERFLOW : Fld := ⟨.INT_REC_STATUS, 31, 31⟩
def INT_REC_STATUS.DROPPED : Fld := ⟨.INT_REC_STATUS, 15, 0⟩
def INT_CTL.INJECT_EN : Fld := ⟨.INT_CTL, 16, 16⟩
def INT_CTL.AUTO_PACKAGE_MS : Fld := ⟨.INT_CTL, 15, 0⟩
def INT_FAILSAFE.ACTIVE : Fld := ⟨.INT_FAILSAFE, 31, 31⟩
def INT_FAILSAFE.CAUSE : Fld := ⟨.INT_FAILSAFE, 27, 24⟩
def INT_FAILSAFE.FORCE : Fld := ⟨.INT_FAILSAFE, 0, 0⟩
def INT_STATE.STATE : Fld := ⟨.INT_STATE, 63, 62⟩
def INT_STATE.DEEPEST : Fld := ⟨.INT_STATE, 61, 59⟩
def INT_STATE.COUNT : Fld := ⟨.INT_STATE, 57, 56⟩
def INT_STATE.FIRST_SERIAL : Fld := ⟨.INT_STATE, 31, 0⟩
def INT_WINDOW_START.START : Fld := ⟨.INT_WINDOW_START, 63, 0⟩
def INT_HOLD.FAULT_N : Fld := ⟨.INT_HOLD, 7, 7⟩
def INT_HOLD.FAN : Fld := ⟨.INT_HOLD, 6, 6⟩
def INT_HOLD.UAPER : Fld := ⟨.INT_HOLD, 5, 4⟩
def INT_HOLD.DISPLAY : Fld := ⟨.INT_HOLD, 3, 0⟩
def INT_RECOVER.OP : Fld := ⟨.INT_RECOVER, 3, 0⟩
def INT_MISMATCH.COUNT : Fld := ⟨.INT_MISMATCH, 31, 0⟩
def INT_INJECT.UNIT : Fld := ⟨.INT_INJECT, 47, 32⟩
def INT_INJECT.STATUS : Fld := ⟨.INT_INJECT, 31, 24⟩
def INT_INJECT.LEVEL : Fld := ⟨.INT_INJECT, 18, 16⟩
def PRS_STATUS.COMP : Fld := ⟨.PRS_STATUS, 63, 62⟩
def PRS_STATUS.DECOMP : Fld := ⟨.PRS_STATUS, 61, 60⟩
def PRS_STATUS.BANKS : Fld := ⟨.PRS_STATUS, 15, 0⟩
def PRS_ERR.VALID : Fld := ⟨.PRS_ERR, 31, 31⟩
def PRS_ERR.STATUS : Fld := ⟨.PRS_ERR, 15, 8⟩
def PRS_ERR.REASON : Fld := ⟨.PRS_ERR, 7, 0⟩
def PRS_IN_BYTES.COUNT : Fld := ⟨.PRS_IN_BYTES, 63, 0⟩
def PRS_OUT_BYTES.COUNT : Fld := ⟨.PRS_OUT_BYTES, 63, 0⟩
def DSP_OUT_CTL.EN : Fld := ⟨.DSP_OUT_CTL, 31, 31⟩
def DSP_OUT_CTL.MST : Fld := ⟨.DSP_OUT_CTL, 30, 30⟩
def DSP_OUT_CTL.RATE : Fld := ⟨.DSP_OUT_CTL, 27, 24⟩
def DSP_OUT_CTL.LANES : Fld := ⟨.DSP_OUT_CTL, 23, 22⟩
def DSP_OUT_STATUS.STATE : Fld := ⟨.DSP_OUT_STATUS, 31, 30⟩
def DSP_OUT_STATUS.HELD : Fld := ⟨.DSP_OUT_STATUS, 29, 29⟩
def DSP_OUT_STATUS.HPD : Fld := ⟨.DSP_OUT_STATUS, 28, 28⟩
def DSP_OUT_STATUS.HPD_IRQ : Fld := ⟨.DSP_OUT_STATUS, 27, 27⟩
def DSP_OUT_STATUS.HPD_CHANGE : Fld := ⟨.DSP_OUT_STATUS, 26, 26⟩
def DSP_OUT_STATUS.TRAIN_FAIL : Fld := ⟨.DSP_OUT_STATUS, 25, 25⟩
def DSP_OUT_AS.ASID : Fld := ⟨.DSP_OUT_AS, 15, 0⟩
def DSP_AUX_CMD.OP : Fld := ⟨.DSP_AUX_CMD, 31, 28⟩
def DSP_AUX_CMD.ADDRESS : Fld := ⟨.DSP_AUX_CMD, 27, 8⟩
def DSP_AUX_CMD.LEN : Fld := ⟨.DSP_AUX_CMD, 7, 4⟩
def DSP_AUX_RESULT.BUSY : Fld := ⟨.DSP_AUX_RESULT, 31, 31⟩
def DSP_AUX_RESULT.REPLY : Fld := ⟨.DSP_AUX_RESULT, 7, 5⟩
def DSP_AUX_RESULT.BYTES : Fld := ⟨.DSP_AUX_RESULT, 4, 0⟩
def DSP_AUX_DATA.DATA : Fld := ⟨.DSP_AUX_DATA, 31, 0⟩
def DSP_TIMING_H.ACTIVE : Fld := ⟨.DSP_TIMING_H, 63, 48⟩
def DSP_TIMING_H.FRONT : Fld := ⟨.DSP_TIMING_H, 47, 32⟩
def DSP_TIMING_H.SYNC : Fld := ⟨.DSP_TIMING_H, 31, 16⟩
def DSP_TIMING_H.BACK : Fld := ⟨.DSP_TIMING_H, 15, 1⟩
def DSP_TIMING_H.POL : Fld := ⟨.DSP_TIMING_H, 0, 0⟩
def DSP_TIMING_V.ACTIVE : Fld := ⟨.DSP_TIMING_V, 63, 48⟩
def DSP_TIMING_V.FRONT : Fld := ⟨.DSP_TIMING_V, 47, 32⟩
def DSP_TIMING_V.SYNC : Fld := ⟨.DSP_TIMING_V, 31, 16⟩
def DSP_TIMING_V.BACK : Fld := ⟨.DSP_TIMING_V, 15, 1⟩
def DSP_TIMING_V.POL : Fld := ⟨.DSP_TIMING_V, 0, 0⟩
def DSP_PIXEL_RATE.KHZ : Fld := ⟨.DSP_PIXEL_RATE, 31, 0⟩
def DSP_STREAM_LINK.DSC_EN : Fld := ⟨.DSP_STREAM_LINK, 31, 31⟩
def DSP_STREAM_LINK.SLICES : Fld := ⟨.DSP_STREAM_LINK, 23, 20⟩
def DSP_STREAM_LINK.DSC_BPP : Fld := ⟨.DSP_STREAM_LINK, 8, 0⟩
def DSP_STREAM_CTL.EN : Fld := ⟨.DSP_STREAM_CTL, 31, 31⟩
def DSP_STREAM_CTL.OUT_TF : Fld := ⟨.DSP_STREAM_CTL, 27, 26⟩
def DSP_STREAM_CTL.OUT_PRIM : Fld := ⟨.DSP_STREAM_CTL, 25, 25⟩
def DSP_STREAM_CTL.RANGE : Fld := ⟨.DSP_STREAM_CTL, 24, 24⟩
def DSP_STREAM_CTL.BPC : Fld := ⟨.DSP_STREAM_CTL, 23, 22⟩
def DSP_STREAM_CTL.TM_EN : Fld := ⟨.DSP_STREAM_CTL, 21, 21⟩
def DSP_STREAM_LUM.SRC_PEAK : Fld := ⟨.DSP_STREAM_LUM, 47, 32⟩
def DSP_STREAM_LUM.PEAK : Fld := ⟨.DSP_STREAM_LUM, 31, 16⟩
def DSP_STREAM_LUM.SDR_WHITE : Fld := ⟨.DSP_STREAM_LUM, 15, 0⟩
def DSP_STREAM_BG.RGB : Fld := ⟨.DSP_STREAM_BG, 47, 0⟩
def DSP_WB_ADDR.ADDR : Fld := ⟨.DSP_WB_ADDR, 63, 0⟩
def DSP_WB_CTL.EN : Fld := ⟨.DSP_WB_CTL, 31, 31⟩
def DSP_WB_CTL.FORMAT : Fld := ⟨.DSP_WB_CTL, 30, 30⟩
def DSP_WB_CTL.PITCH : Fld := ⟨.DSP_WB_CTL, 23, 0⟩
def DSP_COMMIT.OP : Fld := ⟨.DSP_COMMIT, 1, 0⟩
def DSP_COMMIT_SEQ.SEQ : Fld := ⟨.DSP_COMMIT_SEQ, 63, 0⟩
def DSP_COMMIT_QUEUE.HANDLE : Fld := ⟨.DSP_COMMIT_QUEUE, 31, 0⟩
def DSP_COMMIT_STATUS.PENDING : Fld := ⟨.DSP_COMMIT_STATUS, 31, 31⟩
def DSP_COMMIT_STATUS.LOCKED_WRITE : Fld := ⟨.DSP_COMMIT_STATUS, 30, 30⟩
def DSP_COMMIT_STATUS.STATUS : Fld := ⟨.DSP_COMMIT_STATUS, 23, 16⟩
def DSP_COMMIT_STATUS.CARRIED : Fld := ⟨.DSP_COMMIT_STATUS, 15, 0⟩
def DSP_STREAM_STATUS.FRAME : Fld := ⟨.DSP_STREAM_STATUS, 63, 32⟩
def DSP_STREAM_STATUS.ACTIVE : Fld := ⟨.DSP_STREAM_STATUS, 31, 31⟩
def DSP_STREAM_STATUS.WB_INCOMPLETE : Fld := ⟨.DSP_STREAM_STATUS, 30, 30⟩
def DSP_STREAM_STATUS.WB_FAULT : Fld := ⟨.DSP_STREAM_STATUS, 29, 29⟩
def DSP_LATCH_TIME.TIME : Fld := ⟨.DSP_LATCH_TIME, 63, 0⟩
def DSP_PIPE_CTL.EN : Fld := ⟨.DSP_PIPE_CTL, 31, 31⟩
def DSP_PIPE_CTL.STREAM : Fld := ⟨.DSP_PIPE_CTL, 30, 28⟩
def DSP_PIPE_CTL.Z : Fld := ⟨.DSP_PIPE_CTL, 27, 23⟩
def DSP_PIPE_CTL.SURFACE : Fld := ⟨.DSP_PIPE_CTL, 22, 22⟩
def DSP_PIPE_CTL.TILE32 : Fld := ⟨.DSP_PIPE_CTL, 21, 21⟩
def DSP_PIPE_CTL.ALPHA : Fld := ⟨.DSP_PIPE_CTL, 20, 19⟩
def DSP_PIPE_CTL.TF : Fld := ⟨.DSP_PIPE_CTL, 18, 16⟩
def DSP_PIPE_CTL.PRIM : Fld := ⟨.DSP_PIPE_CTL, 15, 15⟩
def DSP_PIPE_CTL.FORMAT : Fld := ⟨.DSP_PIPE_CTL, 7, 0⟩
def DSP_PIPE_DST.DST_Y : Fld := ⟨.DSP_PIPE_DST, 31, 16⟩
def DSP_PIPE_DST.DST_X : Fld := ⟨.DSP_PIPE_DST, 15, 0⟩
def DSP_PIPE_ADDR.ADDR : Fld := ⟨.DSP_PIPE_ADDR, 63, 0⟩
def DSP_PIPE_SRC.SRC_Y : Fld := ⟨.DSP_PIPE_SRC, 63, 48⟩
def DSP_PIPE_SRC.SRC_X : Fld := ⟨.DSP_PIPE_SRC, 47, 32⟩
def DSP_PIPE_SRC.HEIGHT : Fld := ⟨.DSP_PIPE_SRC, 31, 16⟩
def DSP_PIPE_SRC.WIDTH : Fld := ⟨.DSP_PIPE_SRC, 15, 0⟩
def DSP_PIPE_PITCH.PITCH : Fld := ⟨.DSP_PIPE_PITCH, 31, 0⟩
def DSP_PIPE_ALPHA.LAYER_ALPHA : Fld := ⟨.DSP_PIPE_ALPHA, 15, 0⟩
def DSP_PIPE_META.META : Fld := ⟨.DSP_PIPE_META, 63, 0⟩
def DSP_PIPE_BUF.CLUSTER : Fld := ⟨.DSP_PIPE_BUF, 31, 28⟩
def DSP_PIPE_BUF.LINES : Fld := ⟨.DSP_PIPE_BUF, 27, 21⟩
def DSP_PIPE_BUF.FOLIO_ADDR : Fld := ⟨.DSP_PIPE_BUF, 14, 0⟩
def DSP_PIPE_STATUS.ATTACHED : Fld := ⟨.DSP_PIPE_STATUS, 31, 31⟩
def DSP_PIPE_STATUS.STREAM : Fld := ⟨.DSP_PIPE_STATUS, 30, 28⟩
def DSP_PIPE_STATUS.FAULTED : Fld := ⟨.DSP_PIPE_STATUS, 27, 27⟩
def DSP_PIPE_STATUS.UNDERRUN : Fld := ⟨.DSP_PIPE_STATUS, 15, 0⟩
def DSP_IRQ_CTL.EN : Fld := ⟨.DSP_IRQ_CTL, 31, 31⟩
def DSP_IRQ_CTL.VECTOR : Fld := ⟨.DSP_IRQ_CTL, 26, 16⟩
def DSP_IRQ_MASK.FAULT : Fld := ⟨.DSP_IRQ_MASK, 29, 29⟩
def DSP_IRQ_MASK.UNDERRUN : Fld := ⟨.DSP_IRQ_MASK, 28, 28⟩
def DSP_IRQ_MASK.HPD : Fld := ⟨.DSP_IRQ_MASK, 27, 24⟩
def DSP_IRQ_MASK.WB_DONE : Fld := ⟨.DSP_IRQ_MASK, 23, 16⟩
def DSP_IRQ_MASK.TAKEN : Fld := ⟨.DSP_IRQ_MASK, 15, 8⟩
def DSP_IRQ_MASK.LATCH : Fld := ⟨.DSP_IRQ_MASK, 7, 0⟩
def DSP_IRQ_STATUS.FAULT : Fld := ⟨.DSP_IRQ_STATUS, 29, 29⟩
def DSP_IRQ_STATUS.UNDERRUN : Fld := ⟨.DSP_IRQ_STATUS, 28, 28⟩
def DSP_IRQ_STATUS.HPD : Fld := ⟨.DSP_IRQ_STATUS, 27, 24⟩
def DSP_IRQ_STATUS.WB_DONE : Fld := ⟨.DSP_IRQ_STATUS, 23, 16⟩
def DSP_IRQ_STATUS.TAKEN : Fld := ⟨.DSP_IRQ_STATUS, 15, 8⟩
def DSP_IRQ_STATUS.LATCH : Fld := ⟨.DSP_IRQ_STATUS, 7, 0⟩
def UAP_CTL.EN : Fld := ⟨.UAP_CTL, 31, 31⟩
def UAP_CTL.SLEEP_REQ : Fld := ⟨.UAP_CTL, 30, 30⟩
def UAP_CTL.WAKE : Fld := ⟨.UAP_CTL, 29, 29⟩
def UAP_STATUS.STATE : Fld := ⟨.UAP_STATUS, 31, 29⟩
def UAP_STATUS.PEER_MATCH : Fld := ⟨.UAP_STATUS, 28, 28⟩
def UAP_STATUS.REVERSED : Fld := ⟨.UAP_STATUS, 27, 27⟩
def UAP_STATUS.POLARITY : Fld := ⟨.UAP_STATUS, 26, 19⟩
def UAP_STATUS.WAKE_SEEN : Fld := ⟨.UAP_STATUS, 18, 18⟩
def UAP_STATUS.LINK_FAIL : Fld := ⟨.UAP_STATUS, 17, 17⟩
def UAP_STATUS.SLEEP_NAKED : Fld := ⟨.UAP_STATUS, 16, 16⟩
def UAP_PEER.VALID : Fld := ⟨.UAP_PEER, 31, 31⟩
def UAP_PEER.RING_EN : Fld := ⟨.UAP_PEER, 30, 30⟩
def UAP_PEER.PORT : Fld := ⟨.UAP_PEER, 29, 29⟩
def UAP_PEER.N : Fld := ⟨.UAP_PEER, 28, 25⟩
def UAP_PEER.POSITION : Fld := ⟨.UAP_PEER, 24, 22⟩
def UAP_PEER_ID.SERIAL : Fld := ⟨.UAP_PEER_ID, 63, 0⟩
def UAP_ERR.FEC_CORRECTED : Fld := ⟨.UAP_ERR, 63, 48⟩
def UAP_ERR.CRC_FAIL : Fld := ⟨.UAP_ERR, 47, 32⟩
def UAP_ERR.REPLAYS : Fld := ⟨.UAP_ERR, 31, 16⟩
def UAP_ERR.RETRAINS : Fld := ⟨.UAP_ERR, 15, 8⟩
def UAP_ERR.PROTOCOL : Fld := ⟨.UAP_ERR, 7, 0⟩
def UAP_IRQ_CTL.EN : Fld := ⟨.UAP_IRQ_CTL, 31, 31⟩
def UAP_IRQ_CTL.VECTOR : Fld := ⟨.UAP_IRQ_CTL, 26, 16⟩
def UAP_IRQ_STATUS.STATE_CHANGE : Fld := ⟨.UAP_IRQ_STATUS, 3, 2⟩
def UAP_IRQ_STATUS.WAKE : Fld := ⟨.UAP_IRQ_STATUS, 1, 0⟩
def MBX_CMD.WORD : Fld := ⟨.MBX_CMD, 31, 0⟩
def MBX_CMD_STATUS.FULL : Fld := ⟨.MBX_CMD_STATUS, 31, 31⟩
def MBX_CMD_STATUS.OVERRUN : Fld := ⟨.MBX_CMD_STATUS, 30, 30⟩
def MBX_CMD_STATUS.ABORTED : Fld := ⟨.MBX_CMD_STATUS, 29, 29⟩
def MBX_CMD_STATUS.ERR : Fld := ⟨.MBX_CMD_STATUS, 28, 28⟩
def MBX_CMD_STATUS.EMPTY_IRQ : Fld := ⟨.MBX_CMD_STATUS, 27, 27⟩
def CCX_CMD_BASE.BASE : Fld := ⟨.CCX_CMD_BASE, 63, 10⟩
def CCX_CMD_IRQ.EN : Fld := ⟨.CCX_CMD_IRQ, 31, 31⟩
def CCX_CMD_IRQ.VECTOR : Fld := ⟨.CCX_CMD_IRQ, 26, 16⟩
def CCX_FW_STATE.STATE : Fld := ⟨.CCX_FW_STATE, 31, 30⟩
def CCX_FW_ADDR.ADDR : Fld := ⟨.CCX_FW_ADDR, 63, 0⟩
def CCX_CORE_STATUS.MODE : Fld := ⟨.CCX_CORE_STATUS, 31, 30⟩
def CCX_CORE_STATUS.RESTARTS : Fld := ⟨.CCX_CORE_STATUS, 15, 0⟩
def CCX_SRAM_ECC.CORRECTED : Fld := ⟨.CCX_SRAM_ECC, 15, 0⟩
def CCX_LOG_BASE.BASE : Fld := ⟨.CCX_LOG_BASE, 63, 20⟩
def CCX_LOG_PI.PI : Fld := ⟨.CCX_LOG_PI, 31, 0⟩
def CCX_LOG_CI.CI : Fld := ⟨.CCX_LOG_CI, 31, 0⟩
def CCX_LOG_CTL.EN : Fld := ⟨.CCX_LOG_CTL, 31, 31⟩
def CCX_LOG_CTL.LEVEL_MAX : Fld := ⟨.CCX_LOG_CTL, 30, 29⟩
def CCX_LOG_CTL.VECTOR : Fld := ⟨.CCX_LOG_CTL, 26, 16⟩
def CCX_LOG_CTL.LOST : Fld := ⟨.CCX_LOG_CTL, 15, 0⟩
def CCX_TRACE_EN.EN : Fld := ⟨.CCX_TRACE_EN, 31, 0⟩
def MBX_MODE.V7 : Fld := ⟨.MBX_MODE, 31, 0⟩
def MBX_IRQ_CTL.EN : Fld := ⟨.MBX_IRQ_CTL, 31, 31⟩
def MBX_IRQ_CTL.VECTOR : Fld := ⟨.MBX_IRQ_CTL, 26, 16⟩
def MBX_TX0.WORD : Fld := ⟨.MBX_TX0, 31, 0⟩
def MBX_TX0_STATUS.FULL : Fld := ⟨.MBX_TX0_STATUS, 31, 31⟩
def MBX_TX0_STATUS.OVERRUN : Fld := ⟨.MBX_TX0_STATUS, 30, 30⟩
def MBX_TX0_STATUS.ABORTED : Fld := ⟨.MBX_TX0_STATUS, 29, 29⟩
def MBX_TX0_STATUS.ERR : Fld := ⟨.MBX_TX0_STATUS, 28, 28⟩
def MBX_TX0_STATUS.EMPTY_IRQ : Fld := ⟨.MBX_TX0_STATUS, 27, 27⟩
def MBX_RX.WORD : Fld := ⟨.MBX_RX, 31, 0⟩
def MBX_RX_STATUS.FULL : Fld := ⟨.MBX_RX_STATUS, 31, 31⟩
def PWR_DOM_CTL.PENDING : Fld := ⟨.PWR_DOM_CTL, 31, 31⟩
def PWR_DOM_CTL.NOW : Fld := ⟨.PWR_DOM_CTL, 30, 29⟩
def PWR_DOM_CTL.STATUS : Fld := ⟨.PWR_DOM_CTL, 23, 16⟩
def PWR_DOM_CTL.AUTO : Fld := ⟨.PWR_DOM_CTL, 2, 2⟩
def PWR_DOM_CTL.TARGET : Fld := ⟨.PWR_DOM_CTL, 1, 0⟩
def PWR_PAD_RELEASE.HBM : Fld := ⟨.PWR_PAD_RELEASE, 9, 6⟩
def PWR_PAD_RELEASE.UAP : Fld := ⟨.PWR_PAD_RELEASE, 5, 4⟩
def PWR_PAD_RELEASE.DPO : Fld := ⟨.PWR_PAD_RELEASE, 3, 0⟩
def PWR_AUTO_IDLE.IDLE_US : Fld := ⟨.PWR_AUTO_IDLE, 15, 0⟩
def PWR_STATUS.OFF_ACCESS : Fld := ⟨.PWR_STATUS, 31, 31⟩
def PWR_LIMIT.P_LIMIT : Fld := ⟨.PWR_LIMIT, 47, 38⟩
def PWR_LIMIT.V_MAX : Fld := ⟨.PWR_LIMIT, 37, 28⟩
def PWR_LIMIT.ICC_MAX : Fld := ⟨.PWR_LIMIT, 27, 18⟩
def PWR_LIMIT.T_THROTTLE : Fld := ⟨.PWR_LIMIT, 17, 11⟩
def PWR_VDD.TARGET_MV : Fld := ⟨.PWR_VDD, 31, 22⟩
def PWR_VDD.MEASURED_MV : Fld := ⟨.PWR_VDD, 21, 12⟩
def PWR_VDD.FAST_TRIPS : Fld := ⟨.PWR_VDD, 7, 0⟩
def PWR_TELEM.POWER_W : Fld := ⟨.PWR_TELEM, 63, 54⟩
def PWR_TELEM.CURRENT_A : Fld := ⟨.PWR_TELEM, 53, 44⟩
def PWR_TELEM.VDD_MV : Fld := ⟨.PWR_TELEM, 43, 34⟩
def PWR_TELEM.TJ_MAX : Fld := ⟨.PWR_TELEM, 33, 26⟩
def PWR_TELEM.STACK_MAX : Fld := ⟨.PWR_TELEM, 25, 18⟩
def PWR_FAN.DUTY : Fld := ⟨.PWR_FAN, 31, 25⟩
def PWR_FAN.TACH : Fld := ⟨.PWR_FAN, 24, 9⟩
def PWR_FAN.FAN_MIN : Fld := ⟨.PWR_FAN, 8, 2⟩
def PWR_SILLAGE.ENTER : Fld := ⟨.PWR_SILLAGE, 31, 31⟩
def PWR_SILLAGE.STATE : Fld := ⟨.PWR_SILLAGE, 30, 29⟩
def PWR_SILLAGE.REFUSED : Fld := ⟨.PWR_SILLAGE, 28, 28⟩
def PWR_SILLAGE.TEMP_WAKE : Fld := ⟨.PWR_SILLAGE, 27, 20⟩
def PWR_SILLAGE.FAN_DUTY : Fld := ⟨.PWR_SILLAGE, 19, 13⟩
def PWR_SILLAGE.INTERVAL_MS : Fld := ⟨.PWR_SILLAGE, 9, 0⟩
def PWR_WAKE_TIME.TIME : Fld := ⟨.PWR_WAKE_TIME, 63, 0⟩
def PWR_WAKE_CAUSE.CAUSE : Fld := ⟨.PWR_WAKE_CAUSE, 31, 24⟩
def PWR_WAKE_CAUSE.DETAIL : Fld := ⟨.PWR_WAKE_CAUSE, 23, 16⟩
def PWR_WAKE_CAUSE.SAMPLES : Fld := ⟨.PWR_WAKE_CAUSE, 15, 0⟩
def BOOT_STATUS.RESULT : Fld := ⟨.BOOT_STATUS, 31, 30⟩
def BOOT_STATUS.LINK_READY : Fld := ⟨.BOOT_STATUS, 29, 29⟩
def BOOT_STATUS.REASON : Fld := ⟨.BOOT_STATUS, 23, 16⟩
def BOOT_STATUS.SECTION : Fld := ⟨.BOOT_STATUS, 15, 8⟩
def BOOT_STATUS.KEY_SLOT : Fld := ⟨.BOOT_STATUS, 1, 0⟩
def BOOT_FUSE.VENDOR : Fld := ⟨.BOOT_FUSE, 63, 48⟩
def BOOT_FUSE.PROGRAMMED : Fld := ⟨.BOOT_FUSE, 7, 4⟩
def BOOT_FUSE.REVOKED : Fld := ⟨.BOOT_FUSE, 3, 0⟩
def BOOT_FLASH_ADDR.ADDR : Fld := ⟨.BOOT_FLASH_ADDR, 27, 0⟩
def BOOT_FLASH_CMD.COUNT : Fld := ⟨.BOOT_FLASH_CMD, 15, 8⟩
def BOOT_FLASH_CMD.OP : Fld := ⟨.BOOT_FLASH_CMD, 3, 0⟩
def BOOT_FLASH_RESULT.BUSY : Fld := ⟨.BOOT_FLASH_RESULT, 31, 31⟩
def BOOT_FLASH_RESULT.STATUS : Fld := ⟨.BOOT_FLASH_RESULT, 15, 8⟩

end F

/-- Part 1 of the list of all registers. -/
def Reg.all1 : List Reg :=
  [.HIF_ID, .HIF_FUNC, .HIF_LINK, .HIF_LINK_CTL, .HIF_BAR_STATUS, .HIF_VF_WIN,
   .HIF_TIME, .HIF_TIME_CTL, .HIF_RATE_NOW, .HIF_RATE_MIN, .FE_QARG, .FE_QCMD,
   .FE_QRESULT, .FE_OBJ_HANDLE, .FE_OBJ_ADDR, .FE_OBJ_SIZE, .FE_OBJ_ATTR, .FE_OBJ_CMD,
   .FE_OBJ_RESULT, .FE_QSTATE_SEL, .FE_QSTATE, .FE_PART, .SCH_GARG0, .SCH_GARG1,
   .SCH_GCMD]
/-- Part 2 of the list of all registers. -/
def Reg.all2 : List Reg :=
  [.SCH_GRESULT, .SCH_INTF_SEL, .SCH_INTF_DATA0, .SCH_INTF_DATA1, .SCH_RESERVE, .SCH_PREEMPT_CTL,
   .SCH_DL_BUDGET, .SCH_INTF_RING, .SCH_INTF_CTL, .SCH_INTF_PI, .SCH_INTF_CI, .SCH_SCRATCH,
   .SCH_DISCARD, .SC_CORE_STATUS, .SC_CORE_ECC, .SC_REPLAY, .SC_REPLAY_RESULT, .SC_PARK_CTL,
   .SC_PARKED_COUNT, .ACE_ENG_STATUS, .ACE_ENG_STEPS, .ACE_ENG_ECC, .ACE_CTL, .COL_CTL,
   .COL_STATUS]
/-- Part 3 of the list of all registers. -/
def Reg.all3 : List Reg :=
  [.COL_FLUSHES, .COL_PASS_SEL, .COL_PASS_INFO, .COL_PASS_POOL, .RAS_CTL, .RAS_UNIT_STATUS,
   .RAS_UNIT_TILES, .TRU_ARG0, .TRU_ARG1, .TRU_CMD, .TRU_RESULT, .TRU_SLOT_CFG,
   .TRU_SLOT_STAT, .TRU_ECC, .SEQ_SARG, .SEQ_SCMD, .SEQ_SRESULT, .SEQ_SSTATE_SEL,
   .SEQ_SSTATE, .SEQ_BATCH, .SEQ_KV_POOL, .SEQ_KV_TOP, .SEQ_EVT_BASE, .SEQ_EVT_CTL,
   .SEQ_EVT_PI]
/-- Part 4 of the list of all registers. -/
def Reg.all4 : List Reg :=
  [.SEQ_EVT_CI, .SEQ_PART, .SEQ_RING_CFG, .SEQ_RING_TIMEOUT, .SEQ_RING_STATUS, .MEM_STACK_CTL,
   .MEM_STACK_STATUS, .MEM_REFRESH, .MEM_ERR_ADDR, .L2_WAYMASK, .L2_MAINT_ARG0, .L2_MAINT_ARG1,
   .L2_MAINT_CMD, .L2_MAINT_RESULT, .L2_SLICE_STATUS, .ARB_WDOG_LOG, .FOL_BANK, .FOL_WIN_SEL,
   .FOL_WIN_STATUS, .XLT_AS_BASE, .XLT_GRAPH_ASID, .XLT_FLT_BASE, .XLT_FLT_CTL, .XLT_FLT_PI,
   .XLT_FLT_CI]
/-- Part 5 of the list of all registers. -/
def Reg.all5 : List Reg :=
  [.XLT_FLT_STATUS, .XLT_INV_ARG0, .XLT_INV_ARG1, .XLT_INV_CMD, .XLT_INV_RESULT, .XLT_VM_CFG,
   .XLT_TC_ERR, .XLT_WALKS, .INT_REC_BASE, .INT_REC_CTL, .INT_REC_PI, .INT_REC_CI,
   .INT_REC_STATUS, .INT_CTL, .INT_FAILSAFE, .INT_STATE, .INT_WINDOW_START, .INT_HOLD,
   .INT_RECOVER, .INT_MISMATCH, .INT_INJECT, .PRS_STATUS, .PRS_ERR, .PRS_IN_BYTES,
   .PRS_OUT_BYTES]
/-- Part 6 of the list of all registers. -/
def Reg.all6 : List Reg :=
  [.DSP_OUT_CTL, .DSP_OUT_STATUS, .DSP_OUT_AS, .DSP_AUX_CMD, .DSP_AUX_RESULT, .DSP_AUX_DATA,
   .DSP_TIMING_H, .DSP_TIMING_V, .DSP_PIXEL_RATE, .DSP_STREAM_LINK, .DSP_STREAM_CTL, .DSP_STREAM_LUM,
   .DSP_STREAM_BG, .DSP_WB_ADDR, .DSP_WB_CTL, .DSP_COMMIT, .DSP_COMMIT_SEQ, .DSP_COMMIT_QUEUE,
   .DSP_COMMIT_STATUS, .DSP_STREAM_STATUS, .DSP_LATCH_TIME, .DSP_PIPE_CTL, .DSP_PIPE_DST, .DSP_PIPE_ADDR,
   .DSP_PIPE_SRC]
/-- Part 7 of the list of all registers. -/
def Reg.all7 : List Reg :=
  [.DSP_PIPE_PITCH, .DSP_PIPE_ALPHA, .DSP_PIPE_META, .DSP_PIPE_BUF, .DSP_PIPE_STATUS, .DSP_IRQ_CTL,
   .DSP_IRQ_MASK, .DSP_IRQ_STATUS, .UAP_CTL, .UAP_STATUS, .UAP_PEER, .UAP_PEER_ID,
   .UAP_ERR, .UAP_IRQ_CTL, .UAP_IRQ_STATUS, .MBX_CMD, .MBX_CMD_STATUS, .CCX_CMD_BASE,
   .CCX_CMD_IRQ, .CCX_FW_STATE, .CCX_FW_ADDR, .CCX_CORE_STATUS, .CCX_SRAM_ECC, .CCX_LOG_BASE,
   .CCX_LOG_PI]
/-- Part 8 of the list of all registers. -/
def Reg.all8 : List Reg :=
  [.CCX_LOG_CI, .CCX_LOG_CTL, .CCX_TRACE_EN, .MBX_MODE, .MBX_IRQ_CTL, .MBX_TX0,
   .MBX_TX0_STATUS, .MBX_RX, .MBX_RX_STATUS, .PWR_DOM_CTL, .PWR_PAD_RELEASE, .PWR_AUTO_IDLE,
   .PWR_STATUS, .PWR_LIMIT, .PWR_VDD, .PWR_TELEM, .PWR_FAN, .PWR_SILLAGE,
   .PWR_WAKE_TIME, .PWR_WAKE_CAUSE, .BOOT_STATUS, .BOOT_FUSE, .BOOT_FLASH_ADDR, .BOOT_FLASH_CMD,
   .BOOT_FLASH_RESULT]
/-- Every register, in BAR0 order of the blocks. -/
def Reg.all : List Reg :=
  List.flatten [Reg.all1, Reg.all2, Reg.all3, Reg.all4, Reg.all5, Reg.all6, Reg.all7, Reg.all8]

/-- The number of a register in the list of Reg. -/
def Reg.num (r : Reg) : Nat := r.ctorIdx

/-- The key under which the register file holds copy (w, i) of r: w below 16, i below 64. -/
def Reg.key (r : Reg) (w i : Nat) : Nat := r.num * 1024 + w * 64 + i

/-- Word k of copy (w, i): the BAR0 offset of that copy as the PF sees it. -/
def Reg.offset (r : Reg) (w i : Nat) : Nat :=
  let p := r.place
  p.base + w * p.wStride + i * p.iStride

/-- The copy and the word (0 low, 1 high) of r that stand at BAR0 offset off of function f, if any (R5, R7, R8). -/
@[noinline] def Reg.locate (r : Reg) (f off : Nat) : Option (Nat × Nat × Nat) :=
  let p := r.place
  if off < p.base then none else
  let rel := off - p.base
  let w := if p.wStride = 0 then 0 else rel / p.wStride
  let rel := if p.wStride = 0 then rel else rel % p.wStride
  let i := if p.iStride = 0 then 0 else rel / p.iStride
  let b := if p.iStride = 0 then rel else rel % p.iStride
  if b % 4 = 0 ∧ b < p.width / 8 ∧ i < p.iCount then
    match p.kind with
    | .pf => if f = 0 ∧ w < p.wCount then some (w, i, b / 4) else none
    | .fn => if f = 0 then (if w < p.wCount then some (w, i, b / 4) else none)
             else if w = 0 then some (f, i, b / 4) else none
    | .own => some (f, i, b / 4)
  else none

/-- The register copies that exist although their array is written with gaps: HIF_VF_WIN of VFs 1 to 15 (16 R482),
MBX_RX of channels 1 and 24 to 31 (17 R506). -/
@[noinline] def Reg.exists (r : Reg) (i : Nat) : Bool :=
  match r with
  | .HIF_VF_WIN => 1 ≤ i
  | .MBX_RX | .MBX_RX_STATUS => i = 1 ∨ 24 ≤ i
  | _ => true

/-- The register, its copy and its word at BAR0 offset off as function f sees it; none at an unmapped offset (R7). -/
def findReg (f off : Nat) : Option (Reg × Nat × Nat × Nat) :=
  Reg.all.findSome? fun r =>
    match r.locate f off with
    | some (w, i, k) => if r.exists i then some (r, w, i, k) else none
    | none => none

end Sys2Proof.Machine
end

