-- ==== Sys2Proof/Machine/Table.lean ====
section
/-!
DEFINITION. Machine/Table.lean: reading and writing sparse tables and memories, and the bit-field, byte-order and
index arithmetic the chapters share (00 R12, 02 R46, 13 R65). A table keeps its keys strictly rising; a memory also
lists no byte equal to what an unlisted address reads as, so equal contents are equal data.
-/

namespace Sys2Proof.Machine

/-! ### Tables -/

/-- The entry under key k, if the table lists one. -/
def tget {α : Type} : Tbl α → Nat → Option α
  | [], _ => none
  | (k, v) :: t, q => if q = k then some v else tget t q

/-- The entry under key k, or d where the table lists none. -/
def tgetD {α : Type} (t : Tbl α) (k : Nat) (d : α) : α := (tget t k).getD d

/-- The table with v under key q. -/
def tset {α : Type} : Tbl α → Nat → α → Tbl α
  | [], q, v => [(q, v)]
  | (k, w) :: t, q, v =>
    if q < k then (q, v) :: (k, w) :: t
    else if q = k then (q, v) :: t
    else (k, w) :: tset t q v

/-- The table with nothing under key q. -/
def tdel {α : Type} : Tbl α → Nat → Tbl α
  | [], _ => []
  | (k, w) :: t, q => if q = k then tdel t q else (k, w) :: tdel t q

/-- The entry under k, taken as d where absent, changed by f. -/
def tmod {α : Type} (t : Tbl α) (k : Nat) (d : α) (f : α → α) : Tbl α := tset t k (f (tgetD t k d))

/-- The entry under k changed by f; nothing where the table lists none. -/
def tupd {α : Type} (t : Tbl α) (k : Nat) (f : α → α) : Tbl α :=
  match tget t k with
  | some v => tset t k (f v)
  | none => t

/-- Keys strictly rise. -/
def Tbl.sorted {α : Type} : Tbl α → Bool
  | [] => true
  | [_] => true
  | (a, _) :: (b, w) :: t => a < b && Tbl.sorted ((b, w) :: t)

/-! ### Sets of numbers, kept rising -/

/-- The rising list with q in it. -/
def nins : List Nat → Nat → List Nat
  | [], q => [q]
  | k :: t, q => if q < k then q :: k :: t else if q = k then k :: t else k :: nins t q

/-- The list without q. -/
def ndel (l : List Nat) (q : Nat) : List Nat := l.filter (· ≠ q)

/-! ### Memories -/

/-- The byte at a; d is what an unlisted address reads as. -/
def mget (d : Byte) (m : List Host.Cell) (a : Nat) : Byte := tgetD m a d

/-- The memory with byte b at a: writing what an unlisted address reads as removes the entry. -/
def mset (d : Byte) (m : List Host.Cell) (a : Nat) (b : Byte) : List Host.Cell :=
  if b = d then tdel m a else tset m a b

/-- n bytes from a upwards. -/
def mread (d : Byte) (m : List Host.Cell) (a : Nat) : Nat → List Byte
  | 0 => []
  | n + 1 => mget d m a :: mread d m (a + 1) n

/-- The memory with the bytes stored from a upwards. -/
def mwrite (d : Byte) (m : List Host.Cell) (a : Nat) : List Byte → List Host.Cell
  | [] => m
  | b :: bs => mwrite d (mset d m a b) (a + 1) bs

/-- Canonical form: addresses strictly rising, no entry equal to d. -/
def Memory.wf (d : Byte) (m : List Host.Cell) : Bool := Tbl.sorted m && m.all (fun c => c.2 ≠ d)

/-! ### Bytes and words (little-endian, 00 R12) -/

/-- The number whose little-endian bytes are given. -/
def leNat : List Byte → Nat
  | [] => 0
  | b :: bs => b.toNat + 256 * leNat bs

/-- The n little-endian bytes of v, modulo 256 ^ n. -/
def natLe (v : Nat) : Nat → List Byte
  | 0 => []
  | n + 1 => BitVec.ofNat 8 v :: natLe (v / 256) n

/-- n zero bytes. -/
def zeros (n : Nat) : List Byte := List.replicate n 0

/-- Lists of at most n. -/
def chunks {α : Type} (n : Nat) (l : List α) : List (List α) :=
  (List.range ((l.length + n - 1) / n)).map fun i => (l.drop (i * n)).take n

/-- Byte a of a list, 0 beyond its end. -/
def byteAt (l : List Byte) (a : Nat) : Nat := (l[a]?.getD 0).toNat

/-- The n-byte little-endian number at offset a of a list. -/
def fieldAt (l : List Byte) (a n : Nat) : Nat := leNat ((l.drop a).take n)

/-- The list with the bytes bs in place of those from offset a. -/
def putAt (l : List Byte) (a : Nat) (bs : List Byte) : List Byte := l.take a ++ bs ++ l.drop (a + bs.length)

/-- Bits hi..lo of a number. -/
def bits (v hi lo : Nat) : Nat := (v >>> lo) % 2 ^ (hi + 1 - lo)

/-- Bit i of a number. -/
def bit (v i : Nat) : Bool := bits v i i = 1

/-- The number with bits hi..lo replaced by the low bits of x. -/
def setBits (v hi lo x : Nat) : Nat :=
  let w := 2 ^ (hi + 1 - lo)
  v - (bits v hi lo) <<< lo + (x % w) <<< lo

/-- 0 or 1. -/
def b2n (b : Bool) : Nat := if b then 1 else 0

/-- Free-running 32-bit index arithmetic: (a - b) mod 2^32 (02 R46). -/
def sub32 (a b : Nat) : Nat := (a + 2 ^ 32 - b % 2 ^ 32) % 2 ^ 32

/-- The next value of a counter of n bits that saturates at all ones. -/
def satInc (v n : Nat) : Nat := if v + 1 < 2 ^ n then v + 1 else 2 ^ n - 1

/-- A generation or serial that wraps from its greatest n-bit value to 1 (02 R37, R57, 13 R405). -/
def wrapInc (v n : Nat) : Nat := if v + 1 < 2 ^ n then v + 1 else 1

/-- The smallest multiple of m not below v. -/
def roundUp (v m : Nat) : Nat := if m = 0 then v else (v + m - 1) / m * m

/-- The least number of a list, d for the empty one. -/
def minD (l : List Nat) (d : Nat) : Nat := l.foldl Nat.min d

/-- The greatest number of a list, 0 for the empty one. -/
def maxD (l : List Nat) : Nat := l.foldl Nat.max 0

/-- The first number of the list that satisfies p. -/
def firstThat (p : Nat → Bool) (l : List Nat) : Option Nat := l.find? p

/-- The numbers lo, lo + 1, ... of a range of n numbers. -/
def upFrom (lo n : Nat) : List Nat := List.range' lo n

end Sys2Proof.Machine
end

