-- ==== Sys2Proof/Machine/Float.lean ====
section
/-!
DEFINITION. Machine/Float.lean: the number formats and arithmetic of 06 (R177 to R195): encodings, IEEE operations of the
shader cores with their flags, conversions, and the arithmetic of the Accord engines. Every finite value is held exactly
as a sign, a whole significand and a power of two.
-/

namespace Sys2Proof.Machine

/-! ### Formats (R181) -/

/-- How a format writes NaN and infinity. -/
inductive Special where
  | ieee | f8a | none
  deriving DecidableEq, Repr, Inhabited

/-- A binary format: exponent bits, mantissa bits, bias, special values. -/
structure Fmt where
  eb : Nat
  mb : Nat
  bias : Nat
  sp : Special
  deriving DecidableEq, Repr, Inhabited

def Fmt.b64 : Fmt := ⟨11, 52, 1023, .ieee⟩
def Fmt.b32 : Fmt := ⟨8, 23, 127, .ieee⟩
def Fmt.b16 : Fmt := ⟨5, 10, 15, .ieee⟩
/-- B16. -/
def Fmt.bf16 : Fmt := ⟨8, 7, 127, .ieee⟩
def Fmt.f8a : Fmt := ⟨4, 3, 7, .f8a⟩
def Fmt.f8b : Fmt := ⟨5, 2, 15, .ieee⟩
def Fmt.f6 : Fmt := ⟨3, 2, 3, .none⟩
def Fmt.f4 : Fmt := ⟨2, 1, 1, .none⟩

/-- The number of bits of a format. -/
def Fmt.width (f : Fmt) : Nat := f.eb + f.mb + 1

/-- The code of the greatest finite magnitude. -/
def Fmt.maxCode (f : Fmt) : Nat :=
  match f.sp with
  | .ieee => 2 ^ (f.eb + f.mb) - 2 ^ f.mb - 1
  | .f8a => 2 ^ (f.eb + f.mb) - 2
  | .none => 2 ^ (f.eb + f.mb) - 1

/-- The canonical NaN, 0 in a format that has none. -/
def Fmt.qnan (f : Fmt) : Nat :=
  match f.sp with
  | .ieee => 2 ^ (f.eb + f.mb) - 2 ^ (f.mb - 1)
  | .f8a => 2 ^ (f.eb + f.mb) - 1
  | .none => 0

/-- The code of positive infinity; the greatest finite one where the format has none. -/
def Fmt.infCode (f : Fmt) : Nat := if f.sp = .ieee then 2 ^ (f.eb + f.mb) - 2 ^ f.mb else f.maxCode

/-- A value: NaN, an infinity, or (-1)^neg * m * 2^e. -/
inductive FVal where
  | nan
  | inf (neg : Bool)
  | num (neg : Bool) (m : Nat) (e : Int)
  deriving DecidableEq, Repr, Inhabited

/-- The sign bit of a code. -/
def Fmt.neg (f : Fmt) (w : Nat) : Bool := bit w (f.eb + f.mb)

/-- The value of a code. -/
def Fmt.decode (f : Fmt) (w : Nat) : FVal :=
  let n := f.neg w
  let ex := bits w (f.eb + f.mb - 1) f.mb
  let m := w % 2 ^ f.mb
  if f.sp = .ieee ∧ ex = 2 ^ f.eb - 1 then (if m = 0 then .inf n else .nan)
  else if f.sp = .f8a ∧ ex = 2 ^ f.eb - 1 ∧ m = 2 ^ f.mb - 1 then .nan
  else if ex = 0 then .num n m (1 - (f.bias : Int) - f.mb)
  else .num n (m + 2 ^ f.mb) ((ex : Int) - f.bias - f.mb)

/-- The code is a NaN. -/
def Fmt.isNan (f : Fmt) (w : Nat) : Bool := f.decode w = .nan

/-- The code is a signalling NaN: an IEEE NaN whose highest fraction bit is clear. -/
def Fmt.isSnan (f : Fmt) (w : Nat) : Bool := f.isNan w ∧ f.sp = .ieee ∧ ¬ bit w (f.mb - 1)

/-- A value is a subnormal of the format. -/
def Fmt.subnormal (f : Fmt) (w : Nat) : Bool := bits w (f.eb + f.mb - 1) f.mb = 0 ∧ w % 2 ^ f.mb ≠ 0

/-! ### Rounding (R178, R179) -/

/-- Rounding-direction attributes. -/
inductive Rm where
  | ties | zero | up | down
  deriving DecidableEq, Repr, Inhabited

/-- Status flags of R179 as bits: 1 inexact, 2 underflow, 4 overflow, 8 divideByZero, 16 invalid. -/
def fxInexact : Nat := 1
def fxUnderflow : Nat := 2
def fxOverflow : Nat := 4
def fxInvalid : Nat := 16

/-- m * 2^e cut at the quantum 2^q and rounded: the multiple of the quantum, and whether it is inexact. -/
def quant (rm : Rm) (neg : Bool) (m : Nat) (e q : Int) : Nat × Bool :=
  if q ≤ e then (m * 2 ^ (e - q).toNat, false)
  else
    let k := (q - e).toNat
    let w := m / 2 ^ k
    let r := m % 2 ^ k
    let up : Bool := match rm with
      | .ties => 2 * r > 2 ^ k ∨ (2 * r = 2 ^ k ∧ w % 2 = 1)
      | .zero => false
      | .up => r ≠ 0 ∧ ¬ neg
      | .down => r ≠ 0 ∧ neg
    (if up then w + 1 else w, r ≠ 0)

/-- The power of two of the leading bit. -/
def lead (m : Nat) (e : Int) : Int := (Nat.log2 m : Int) + e

/-- A sign at its place. -/
def Fmt.signed (f : Fmt) (neg : Bool) (c : Nat) : Nat := (if neg then 2 ^ (f.eb + f.mb) else 0) + c

/-- A finite value rounded to a format: its code and flags. sat asks for saturation in place of IEEE overflow (R194). -/
def Fmt.round (f : Fmt) (rm : Rm) (sat : Bool) (neg : Bool) (m : Nat) (e : Int) : Nat × Nat :=
  if m = 0 then (f.signed neg 0, 0) else
  let emin : Int := 1 - (f.bias : Int)
  let ld := lead m e
  let q := max (ld - f.mb) (emin - f.mb)
  let r := quant rm neg m e q
  let free := quant rm neg m e (ld - f.mb)
  let tiny : Bool := decide (lead free.1 (ld - f.mb) < emin)
  let c : Nat :=
    if r.1 < 2 ^ f.mb then r.1
    else if r.1 < 2 ^ (f.mb + 1) then (q + f.mb + f.bias).toNat * 2 ^ f.mb + (r.1 - 2 ^ f.mb)
    else (q + f.mb + f.bias + 1).toNat * 2 ^ f.mb
  if f.maxCode < c then
    let toInf : Bool := match rm with
      | .ties => true
      | .zero => false
      | .up => ¬ neg
      | .down => neg
    (f.signed neg (if sat ∨ f.sp ≠ .ieee ∨ ¬ toInf then f.maxCode else f.infCode), fxOverflow + fxInexact)
  else (f.signed neg c, b2n r.2 * fxInexact + b2n (tiny && r.2) * fxUnderflow)

/-- The positive rational p / q * 2^e rounded to a format: enough quotient bits and a sticky bit decide every rounding. -/
def Fmt.ratio (f : Fmt) (rm : Rm) (neg : Bool) (p q : Nat) (e : Int) : Nat × Nat :=
  if p = 0 ∨ q = 0 then (f.signed neg 0, 0)
  else
    let sh := f.mb + 4 + Nat.log2 q
    let n := p * 2 ^ sh
    f.round rm false neg (2 * (n / q) + b2n (n % q ≠ 0)) (e - sh - 1)

/-! ### IEEE operations of the shader cores (R178) -/

/-- A NaN result: the first NaN operand quietened, else the default NaN; invalid where one signals or inv says so. -/
def Fmt.nanOf (f : Fmt) (ops : List Nat) (inv : Bool) : Nat × Nat :=
  let c := match ops.find? f.isNan with
    | some w => w ||| 2 ^ (f.mb - 1)
    | none => f.qnan
  (c, b2n (inv || ops.any f.isSnan) * fxInvalid)

/-- A NaN converted between formats: payload kept, from its high end when narrowing; R195 for the vendor formats. -/
def nanConvert (a b : Fmt) (w : Nat) : Nat × Nat :=
  let inv := b2n (a.isSnan w) * fxInvalid
  match b.sp with
  | .none => (0, fxInvalid)
  | .f8a => (b.qnan, inv)
  | .ieee =>
    if b = .f8b then (b.signed (a.neg w) b.qnan, inv)
    else if a.sp = .f8a then (b.qnan, inv)
    else
      let pay := w % 2 ^ a.mb
      let m := if b.mb ≤ a.mb then pay / 2 ^ (a.mb - b.mb) else pay * 2 ^ (b.mb - a.mb)
      (b.signed (a.neg w) (2 ^ (b.eb + b.mb) - 2 ^ b.mb + (m ||| 2 ^ (b.mb - 1))), inv)

/-- A NaN result of format f delivered in format r (formatOf operations). -/
def nanTo (f r : Fmt) (v : Nat × Nat) : Nat × Nat := if f = r then v else ((nanConvert f r v.1).1, v.2)

/-- The exact sum of two finite values; an exact zero of unlike signs is +0, or -0 rounding down. -/
def sumExact (rm : Rm) (n1 : Bool) (m1 : Nat) (e1 : Int) (n2 : Bool) (m2 : Nat) (e2 : Int) : Bool × Nat × Int :=
  let e := min e1 e2
  let a := m1 * 2 ^ (e1 - e).toNat
  let b := m2 * 2 ^ (e2 - e).toNat
  if n1 = n2 then (n1, a + b, e)
  else if a = b then (decide (rm = .down), 0, e)
  else if b < a then (n1, a - b, e) else (n2, b - a, e)

/-- formatOf addition: operands of format f, one rounding to format r. -/
def Fmt.addTo (f r : Fmt) (rm : Rm) (x y : Nat) : Nat × Nat :=
  match f.decode x, f.decode y with
  | .nan, _ => nanTo f r (f.nanOf [x, y] false)
  | _, .nan => nanTo f r (f.nanOf [x, y] false)
  | .inf a, .inf b => if a = b then (r.signed a r.infCode, 0) else r.nanOf [] true
  | .inf a, _ => (r.signed a r.infCode, 0)
  | _, .inf b => (r.signed b r.infCode, 0)
  | .num a m e, .num b n g =>
    let v := sumExact rm a m e b n g
    r.round rm false v.1 v.2.1 v.2.2

/-- Addition. -/
def Fmt.add (f : Fmt) (rm : Rm) (x y : Nat) : Nat × Nat := f.addTo f rm x y

/-- The code with the other sign; a NaN stays as it is, for the payload rule (R178). -/
def Fmt.flip (f : Fmt) (y : Nat) : Nat := if f.isNan y then y else y ^^^ 2 ^ (f.eb + f.mb)

/-- formatOf multiplication. -/
def Fmt.mulTo (f r : Fmt) (rm : Rm) (x y : Nat) : Nat × Nat :=
  let n := f.neg x != f.neg y
  match f.decode x, f.decode y with
  | .nan, _ => nanTo f r (f.nanOf [x, y] false)
  | _, .nan => nanTo f r (f.nanOf [x, y] false)
  | .inf _, .num _ 0 _ => r.nanOf [] true
  | .num _ 0 _, .inf _ => r.nanOf [] true
  | .inf _, _ => (r.signed n r.infCode, 0)
  | _, .inf _ => (r.signed n r.infCode, 0)
  | .num _ m e, .num _ k g => r.round rm false n (m * k) (e + g)

/-- Multiplication. -/
def Fmt.mul (f : Fmt) (rm : Rm) (x y : Nat) : Nat × Nat := f.mulTo f rm x y

/-- Division, correctly rounded. -/
def Fmt.div (f : Fmt) (rm : Rm) (x y : Nat) : Nat × Nat :=
  let n := f.neg x != f.neg y
  match f.decode x, f.decode y with
  | .nan, _ => f.nanOf [x, y] false
  | _, .nan => f.nanOf [x, y] false
  | .inf _, .inf _ => f.nanOf [] true
  | .inf _, _ => (f.signed n f.infCode, 0)
  | _, .inf _ => (f.signed n 0, 0)
  | .num _ m e, .num _ k g =>
    if k = 0 then (if m = 0 then f.nanOf [] true else (f.signed n f.infCode, 8))
    else f.ratio rm n m k (e - g)

/-- formatOf fused multiply-add x * y + z; (0, infinity, quiet NaN) signals invalid and returns the NaN operand. -/
def Fmt.fmaTo (f r : Fmt) (rm : Rm) (x y z : Nat) : Nat × Nat :=
  let n := f.neg x != f.neg y
  let zeroInf : Bool := match f.decode x, f.decode y with
    | .inf _, .num _ 0 _ => true
    | .num _ 0 _, .inf _ => true
    | _, _ => false
  if f.isNan x ∨ f.isNan y ∨ f.isNan z then nanTo f r (f.nanOf [x, y, z] zeroInf)
  else if zeroInf then r.nanOf [] true
  else match f.decode x, f.decode y, f.decode z with
    | .num _ m e, .num _ k g, .num c w h =>
      let v := sumExact rm n (m * k) (e + g) c w h
      r.round rm false v.1 v.2.1 v.2.2
    | .num _ _ _, .num _ _ _, _ => (r.signed (f.neg z) r.infCode, 0)
    | _, _, .inf c => if c = n then (r.signed c r.infCode, 0) else r.nanOf [] true
    | _, _, _ => (r.signed n r.infCode, 0)

/-- Fused multiply-add. -/
def Fmt.fma (f : Fmt) (rm : Rm) (x y z : Nat) : Nat × Nat := f.fmaTo f rm x y z

/-- Order of two values that are no NaN: -0 is less than +0 (minimum, maximum). -/
def Fmt.less (f : Fmt) (x y : Nat) : Bool :=
  let w := 2 ^ (f.eb + f.mb)
  if f.neg x then (if f.neg y then y % w < x % w else true) else (if f.neg y then false else x % w < y % w)

/-- minimum, maximum, minimumNumber, maximumNumber. -/
def Fmt.minmax (f : Fmt) (max number : Bool) (x y : Nat) : Nat × Nat :=
  let sig := b2n (f.isSnan x || f.isSnan y) * fxInvalid
  if f.isNan x ∨ f.isNan y then
    if number ∧ ¬ f.isNan x then (x, sig)
    else if number ∧ ¬ f.isNan y then (y, sig)
    else f.nanOf [x, y] false
  else (if f.less x y = max then y else x, 0)

/-- Comparisons: less, equal, less or equal, false with a NaN, and unordered, true with one. signal says that a quiet NaN signals
invalid too. The greater ones and the negations are these with the operands exchanged or the result taken the other way. -/
inductive Cmp where
  | lt | eq | le | un
  deriving DecidableEq, Repr, Inhabited

def Fmt.cmp (f : Fmt) (c : Cmp) (signal : Bool) (x y : Nat) : Nat × Nat :=
  if f.isNan x ∨ f.isNan y then (b2n (c = .un), b2n (signal || f.isSnan x || f.isSnan y) * fxInvalid)
  else
    let w := 2 ^ (f.eb + f.mb)
    let zero := x % w = 0 ∧ y % w = 0
    let eq : Bool := zero ∨ x = y
    let lt : Bool := ¬ zero ∧ f.less x y
    (b2n (match c with | .lt => lt | .eq => eq | .le => lt || eq | .un => false), 0)

/-- totalOrder, of the magnitudes where mag is set: negative NaNs, numbers and infinities in order, positive NaNs; quiet below
signalling among the negative NaNs and above among the positive, then by payload. It signals nothing. -/
def Fmt.total (f : Fmt) (mag : Bool) (x y : Nat) : Nat × Nat :=
  let w := 2 ^ (f.eb + f.mb)
  let x := if mag then x % w else x
  let y := if mag then y % w else y
  (b2n (x = y || f.less x y), 0)

/-- roundToIntegral in the attribute's direction; the Exact form alone signals inexact. -/
def Fmt.rint (f : Fmt) (rm : Rm) (x : Nat) (exact : Bool := false) : Nat × Nat :=
  match f.decode x with
  | .nan => f.nanOf [x] false
  | .inf _ => (x, 0)
  | .num n m e => let r := quant rm n m e 0; ((f.round rm false n r.1 0).1, b2n (exact && r.2) * fxInexact)

/-- nextUp, and nextDown where down is set; signals invalid for a signalling NaN alone. -/
def Fmt.next (f : Fmt) (down : Bool) (x : Nat) : Nat × Nat :=
  let w := 2 ^ (f.eb + f.mb)
  if f.isNan x then f.nanOf [x] false
  else if x % w = 0 then (f.signed down 1, 0)
  else if f.neg x = down then (if x % w = f.infCode then x else x + 1, 0)
  else (x - 1, 0)

/-- logB as a value of the format: the exponent of the leading bit; -inf with divideByZero for zero, +inf for an infinity. -/
def Fmt.logB (f : Fmt) (x : Nat) : Nat × Nat :=
  match f.decode x with
  | .nan => f.nanOf [x] false
  | .inf _ => (f.signed false f.infCode, 0)
  | .num _ m e =>
    if m = 0 then (f.signed true f.infCode, 8)
    else
      let l := lead m e
      ((f.round .ties false (decide (l < 0)) l.natAbs 0).1, 0)

/-- scaleB(x, n) for an integer n. -/
def Fmt.scaleB (f : Fmt) (rm : Rm) (x : Nat) (n : Int) : Nat × Nat :=
  match f.decode x with
  | .nan => f.nanOf [x] false
  | .inf _ => (x, 0)
  | .num a m e => f.round rm false a m (e + max (-5000) (min 5000 n))

/-- remainder(x, y) = x - y * n, n the integer nearest x / y, ties to even; exact. -/
def Fmt.rem (f : Fmt) (x y : Nat) : Nat × Nat :=
  match f.decode x, f.decode y with
  | .nan, _ => f.nanOf [x, y] false
  | _, .nan => f.nanOf [x, y] false
  | .inf _, _ => f.nanOf [] true
  | .num _ _ _, .inf _ => (x, 0)
  | .num a m e, .num _ k g =>
    if k = 0 then f.nanOf [] true
    else
      let q := min e g
      let p := m * 2 ^ (e - q).toNat
      let d := k * 2 ^ (g - q).toNat
      let n := p / d
      let r := p % d
      if 2 * r > d ∨ (2 * r = d ∧ n % 2 = 1) then f.round .ties false (!a) (d - r) q
      else f.round .ties false a r q

/-- class: 0 signalling NaN, 1 quiet NaN, 2 -infinity, 3 -normal, 4 -subnormal, 5 -zero, 6 +zero, 7 +subnormal, 8 +normal,
9 +infinity. -/
def Fmt.cls (f : Fmt) (x : Nat) : Nat :=
  if f.isSnan x then 0 else
  match f.decode x with
  | .nan => 1
  | .inf n => if n then 2 else 9
  | .num n m _ =>
    if m = 0 then (if n then 5 else 6) else if f.subnormal x then (if n then 4 else 7) else (if n then 3 else 8)

/-! ### Conversions of the shader cores (R193 to R195) -/

/-- Conversion of a code between two formats; sat is the instruction's SAT, which the vendor targets always have. An
infinity stays one in binary32 and binary64 (R194). -/
def convert (a b : Fmt) (rm : Rm) (sat : Bool) (w : Nat) : Nat × Nat :=
  let vendor : Bool := b = .bf16 ∨ b = .f8a ∨ b = .f8b ∨ b = .f6 ∨ b = .f4
  match a.decode w with
  | .nan => nanConvert a b w
  | .inf n => (b.signed n (if b.sp = .ieee ∧ (b = .b32 ∨ b = .b64 ∨ ¬ sat) then b.infCode else b.maxCode), 0)
  | .num n m e => b.round rm (sat || vendor) n m e

/-- The signed integer of n bits as a two's-complement code. -/
def intCode (n : Nat) (neg : Bool) (m : Nat) : Nat := if neg then (2 ^ n - m % 2 ^ n) % 2 ^ n else m % 2 ^ n

/-- Floating point to a signed integer of n bits: saturating, NaN to 0; both signal invalid. -/
def toInt (f : Fmt) (n : Nat) (rm : Rm) (w : Nat) : Nat × Nat :=
  match f.decode w with
  | .nan => (0, fxInvalid)
  | .inf s => (intCode n s (if s then 2 ^ (n - 1) else 2 ^ (n - 1) - 1), fxInvalid)
  | .num s m e =>
    let r := quant rm s m e 0
    let lim := if s then 2 ^ (n - 1) else 2 ^ (n - 1) - 1
    if lim < r.1 then (intCode n s lim, fxInvalid) else (intCode n s r.1, b2n r.2 * fxInexact)

/-- A two's-complement integer of n bits to floating point. -/
def ofInt (f : Fmt) (n : Nat) (rm : Rm) (w : Nat) : Nat × Nat :=
  let neg := bit w (n - 1)
  f.round rm false neg (if neg then 2 ^ n - w % 2 ^ n else w % 2 ^ n) 0

/-! ### Approximations (R180) -/

/-- The functions of R142's approximation row. -/
inductive Approx where
  | rcp | sqrt | rsqrt | exp2 | log2 | sin | cos
  deriving DecidableEq, Repr, Inhabited

/-- The codes within one unit of an exact value that is cut to lo and to hi by rounding down and up in magnitude; k picks one. -/
def nearOne (lo hi k : Nat) : Nat :=
  if lo = hi then (if k % 3 = 0 then lo else if k % 3 = 1 then lo + 1 else lo - 1)
  else if k % 2 = 0 then lo else hi

/-- A positive value p / r * 2^e with both neighbours in binary32. -/
def ratioNear (p r : Nat) (e : Int) (k : Nat) : Nat :=
  let sh : Nat := 80
  let n := p * 2 ^ sh
  let q := n / r
  let exact : Bool := n % r = 0
  let lo := (Fmt.b32.round .zero false false q (e - sh)).1
  let lo' := (Fmt.b32.round .up false false (if exact then q else q + 1) (e - sh)).1
  nearOne lo lo' k

/-- Fraction bits of the fixed-point numbers in which exp2, log2, sine and cosine are evaluated. -/
def apxBits : Nat := 192

/-- ln 2 and 2 * pi with apxBits fraction bits. -/
def apxLn2 : Nat := 0xb17217f7d1cf79abc9e3b39803f2f6af40f343267298b62d
def apxTwoPi : Nat := 0x6487ed5110b4611a62633145c06e0e68948127044533e63a0

/-- The power series whose term k + 1 is term k times x / d k, from the term first: the sum of 64 terms. -/
def apxSeries (first x : Int) (d : Nat → Nat) : Int :=
  ((List.range 64).foldl (fun a k => (a.1 * x / ((2 : Int) ^ apxBits * d k), a.2 + a.1)) (first, (0 : Int))).2

/-- 2^x for x with apxBits fraction bits, as a significand and its power of two. -/
def apxExp2 (x : Int) : Int × Int :=
  let t := (x % 2 ^ apxBits).toNat * apxLn2 / 2 ^ apxBits
  (apxSeries (2 ^ apxBits) t (fun k => k + 1), x / 2 ^ apxBits - apxBits)

/-- log2 (m * 2^e) with apxBits fraction bits, by the series of 2 * artanh. -/
def apxLog2 (m : Nat) (e : Int) : Int :=
  let l := Nat.log2 m
  let y := m * 2 ^ (apxBits - l)
  let z := (y - 2 ^ apxBits) * 2 ^ apxBits / (y + 2 ^ apxBits)
  let z2 := z * z / 2 ^ apxBits
  let s := ((List.range 64).foldl (fun a k => (a.1 * z2 / 2 ^ apxBits, a.2 + a.1 / (2 * k + 1))) (z, 0)).2
  ((l : Int) + e) * 2 ^ apxBits + (2 * s * 2 ^ apxBits / apxLn2 : Nat)

/-- sin x, or cos x, with apxBits fraction bits, for a magnitude x with as many. -/
def apxSin (cosine : Bool) (x : Nat) : Int :=
  let r : Int := (x % apxTwoPi : Nat)
  let r2 := -(r * r / 2 ^ apxBits)
  if cosine then apxSeries (2 ^ apxBits) r2 (fun k => (2 * k + 1) * (2 * k + 2))
  else apxSeries r r2 (fun k => (2 * k + 2) * (2 * k + 3))

/-- The result for the exact value v * 2^g: the code k picks where it lies within tol * 2^h of that value, else the nearest one.
The code of an infinity counts as the power of two after the greatest finite value. -/
def apxPick (k : Nat) (v g : Int) (tol : Nat) (h : Int) : Nat :=
  let c := k % 2 ^ 32
  let a := c % 2 ^ 31
  let ex := a / 2 ^ 23
  let m : Nat := if ex = 0 then a else a % 2 ^ 23 + 2 ^ 23
  let e : Int := (max ex 1 : Nat) - 150
  let q := min (min e g) h
  let d := (if bit c 31 then -(m : Int) else m) * 2 ^ (e - q).toNat - v * 2 ^ (g - q).toNat
  if a ≤ 0x7F80_0000 ∧ d.natAbs ≤ tol * 2 ^ (h - q).toNat then c
  else (Fmt.b32.round .ties false (decide (v < 0)) v.natAbs g).1

/-- The exponent of binary32's unit in the last place at v * 2^g. -/
def apxUlp (v g : Int) : Int := max (lead v.natAbs g - 23) (-149)

/-- An approximation of binary32: its result and flags; k is the free value that picks among the results the accuracy admits
(log 9). -/
def approx (a : Approx) (x k : Nat) : Nat × Nat :=
  let f := Fmt.b32
  match f.decode x with
  | .nan => (x ||| 2 ^ 22, fxInvalid)
  | .inf n =>
    match a with
    | .rcp => (f.signed n 0, 0)
    | .sqrt => (if n then f.qnan else x, 0)
    | .rsqrt => (if n then f.qnan else 0, 0)
    | .exp2 => (if n then 0 else x, 0)
    | .log2 => (if n then f.qnan else x, 0)
    | .sin | .cos => (f.signed (bit k 31) (k % 0x3F80_0001), 0)
  | .num n m e =>
    match a with
    | .rcp => if m = 0 then (f.signed n f.infCode, 0) else (f.signed n (ratioNear 1 m (-e) k), 0)
    | .sqrt =>
      if m = 0 then (x, 0) else if n then (f.qnan, 0)
      else
        let odd := e % 2 ≠ 0
        let m' := (if odd then 2 * m else m) * 2 ^ 100
        let e' := (if odd then e - 1 else e) / 2 - 50
        let r := Nat.sqrt m'
        (nearOne (f.round .zero false false r e').1
          (f.round .up false false (if r * r = m' then r else r + 1) e').1 k, 0)
    | .rsqrt =>
      if m = 0 then (f.signed n f.infCode, 0) else if n then (f.qnan, 0)
      else
        let odd := e % 2 ≠ 0
        let m' := 2 ^ 200 / (if odd then 2 * m else m)
        let e' := -((if odd then e - 1 else e) / 2) - 100
        let r := Nat.sqrt m'
        (nearOne (f.round .zero false false r e').1 (f.round .up false false (r + 1) e').1 k, 0)
    | .exp2 =>
      if 8 ≤ lead m e ∧ m ≠ 0 then (if n then apxPick k 0 0 2 (-149) else f.infCode, 0)
      else
        let x : Int := m * 2 ^ (e + apxBits).toNat
        let v := apxExp2 (if n then -x else x)
        (apxPick k v.1 v.2 2 (apxUlp v.1 v.2), 0)
    | .log2 =>
      if m = 0 then (f.signed true f.infCode, 0) else if n then (f.qnan, 0)
      else let v := apxLog2 m e; (apxPick k v (-apxBits) 2 (apxUlp v (-apxBits)), 0)
    | .sin | .cos =>
      if 15 ≤ lead m e ∧ ¬ (m * 2 ^ (e + apxBits).toNat = 2 ^ (apxBits + 15)) ∧ m ≠ 0 then (f.signed (bit k 31) (k % 0x3F80_0001), 0)
      else
        let v := apxSin (a = .cos) (m * 2 ^ (e + apxBits).toNat)
        (apxPick k (if n ∧ a = .sin then -v else v) (-apxBits) 1 (-20), 0)

/-! ### Accord arithmetic (R184 to R190) -/

/-- An exact value of the Accord datapath, as FVal. -/
def FVal.zero : FVal := .num false 0 0

/-- An Accord input element: subnormals are flushed except in binary16 (R190). -/
def accIn (f : Fmt) (w : Nat) : FVal :=
  if f ≠ .b16 ∧ f.subnormal w then .num (f.neg w) 0 0 else f.decode w

/-- m cut toward zero to n significant bits. -/
def cutBits (n m : Nat) (e : Int) : Nat × Int :=
  let k := Nat.log2 m + 1 - n
  if m = 0 then (0, e) else (m / 2 ^ k, e + k)

/-- The product of two elements (R186, R189). -/
def accMul (x y : FVal) : FVal :=
  match x, y with
  | .nan, _ => .nan
  | _, .nan => .nan
  | .inf a, .inf b => .inf (a != b)
  | .inf a, .num b m _ => if m = 0 then .nan else .inf (a != b)
  | .num a m _, .inf b => if m = 0 then .nan else .inf (a != b)
  | .num a m e, .num b n g => let c := cutBits 13 (m * n) (e + g); .num (a != b) c.1 c.2

/-- The exact product, for block scales. -/
def exactMul (x y : FVal) : FVal :=
  match x, y with
  | .num a m e, .num b n g => .num (a != b) (m * n) (e + g)
  | .nan, _ => .nan
  | _, .nan => .nan
  | _, _ => accMul x y

/-- An adder that keeps n significant bits of its sum and 27 of its aligned operands (R187, R189). -/
def accAdd (n : Nat) (x y : FVal) : FVal :=
  match x, y with
  | .nan, _ => .nan
  | _, .nan => .nan
  | .inf a, .inf b => if a = b then .inf a else .nan
  | .inf a, _ => .inf a
  | _, .inf a => .inf a
  | .num a m e, .num b k g =>
    if m = 0 ∧ k = 0 then .num (a && b) 0 0
    else if m = 0 then (let c := cutBits n k g; .num b c.1 c.2)
    else if k = 0 then (let c := cutBits n m e; .num a c.1 c.2)
    else
      let q := max (lead m e) (lead k g) - 26
      let am := (quant .zero false m e q).1
      let bm := (quant .zero false k g q).1
      let s := sumExact .ties a am q b bm q
      let c := cutBits n s.2.1 s.2.2
      .num s.1 c.1 c.2

/-- The exact sum, for 16-element blocks. -/
def exactAdd (x y : FVal) : FVal :=
  match x, y with
  | .num a m e, .num b n g => let s := sumExact .ties a m e b n g; .num s.1 s.2.1 s.2.2
  | _, _ => accAdd 27 x y

/-- One level of the tree: adjacent pairs. -/
def treeLevel : List FVal → List FVal
  | x :: y :: t => accAdd 27 x y :: treeLevel t
  | l => l

/-- k levels of the tree. -/
def treeLevels : Nat → List FVal → List FVal
  | 0, l => l
  | k + 1, l => treeLevels k (treeLevel l)

/-- The first value of a list, zero for none. -/
def headVal (l : List FVal) : FVal := l.headD FVal.zero

/-- The accumulator's own range (R188): saturation above the binary32 maximum, flush below 2^-126. -/
def accClamp (x : FVal) : FVal :=
  match x with
  | .num a m e =>
    if m = 0 then .num a 0 0
    else if lead m e < -126 then .num a 0 0
    else if 128 ≤ lead m e then .num a (2 ^ 24 - 1) 104
    else x
  | _ => x

/-- An addition to the accumulator. -/
def accStep (acc x : FVal) : FVal := accClamp (accAdd 24 acc x)

/-- The accumulator converted to a C format (R193, R194): ties to even, saturating, subnormals flushed except in binary16. -/
def accOut (f : Fmt) (x : FVal) : Nat :=
  match x with
  | .nan => f.qnan
  | .inf n => if f.sp = .f8a then f.qnan else f.signed n f.infCode
  | .num n m e =>
    let c := (f.round .ties true n m e).1
    if f ≠ .b16 ∧ f.subnormal c then f.signed n 0 else c

/-- An E8 block scale (R184). -/
def e8Val (b : Nat) : FVal := if b = 255 then .nan else .num false 1 ((b : Int) - 127)

end Sys2Proof.Machine
end

