-- ==== Sys2Proof/Config.lean ====
section
/-!
DEFINITION. Config.lean: what the spec leaves to the part or leaves open. Every constant here is opaque: nothing in
Lean can see its value, so a statement holds whatever it is (log 2, log 4).
-/

namespace Sys2Proof

/-- The n-th free value: a value the spec leaves undefined or does not state. The state's freeCtr is the next n. -/
opaque Config.free : Nat → Nat

/-- Fused: Atdin's vendor ID (19 R541 BOOT_FUSE.VENDOR). -/
opaque Config.fuseVendor : BitVec 16
/-- Fused: which key slots hold a hash (19 R533, BOOT_FUSE.PROGRAMMED). -/
opaque Config.fuseProgrammed : BitVec 4
/-- Fused: which key slots are revoked before any write (BOOT_FUSE.REVOKED). -/
opaque Config.fuseRevoked : BitVec 4

/-- Fused: the SHA-384 of the key in each of the four slots (19 R533). -/
opaque Config.fuseKeys : List (List Byte)

/-- What the Press's compressor finds (14 R416 to R419): the bits it proposes for a chunk, as a PF1 body or as a dynamic DEFLATE block,
given the window before it, the chunk and whether the chunk is the last. One function, since one source has one coding (R419). It is
used only where the bits decode to the chunk (log 25). -/
opaque Config.pressCode : Bool → List Byte → List Byte → Bool → List Bool

end Sys2Proof
end

