-- ==== Sys2Proof/Machine/Types.lean ====
section
/-!
DEFINITION. Machine/Types.lean: the pieces of plain data the state and the commands are built of, block by block,
each with the rule of the spec that names it. No function stands here.
-/

namespace Sys2Proof.Machine

/-! ## 13: faults and recovery -/

/-- What a fault record says beside its header (13 R405 DETAIL, by KIND). -/
inductive Detail where
  /-- KIND 0. -/
  | none
  /-- KIND 1, the 32 bytes of 04 R139. -/
  | shader (bytes : List Byte)
  /-- KIND 2. -/
  | command (seq queue opcode subop index address : Nat)
  /-- KIND 3; fields not applicable hold 0xFF, 0xFFFF or 0 as the table says. -/
  | memory (address source pc slice way set bank expected found : Nat)
  /-- KIND 4, the 32 bytes of 12 R368. -/
  | translation (bytes : List Byte)
  /-- KIND 5. -/
  | system (cause aux arg value : Nat)
  deriving DecidableEq, Repr, Inhabited

/-- A fault record as a detecting unit forms it (13 R405, R554). level is the level at which the fault's cause
stands in R394: 0 for a fault that starts no recovery, 3 to 6 for a state fault, 7 for a package-level fault. -/
structure FaultRec where
  time : Nat
  unit : Nat
  status : Status
  level : Nat
  context : Option Nat
  function : Option Nat
  detail : Detail
  dataLost : Bool := false
  feLost : Bool := false
  fwLost : Bool := false
  /-- It found the sequencer's queue of 256 full: it is written nowhere (R406). -/
  lost : Bool := false
  /-- A unit of the target, where the fault lies elsewhere than in the unit that the record names (power-good lost, R394). -/
  target : Option Nat := none
  deriving DecidableEq, Repr, Inhabited

/-- A recovery in progress, or whose window is still open (13 R395 to R403). level 3 to 6; target is the unit number for
levels 3 and 4 (part 0 for a core), the cluster for level 5, 0 for the die. unit is the unit whose fault started it. -/
structure Recovery where
  level : Nat
  target : Nat
  unit : Nat
  t1 : Nat
  bound : Nat
  status : Status
  running : Bool
  /-- FE_LOST and DATA_LOST of a die recovery (R400). -/
  feLost : Bool := false
  dataLost : Bool := false
  deriving DecidableEq, Repr, Inhabited

/-- The state of 13 that no register holds. -/
structure IntState where
  /-- Records raised and not yet accepted by the sequencer, in arrival order (R406). -/
  waiting : List FaultRec := []
  /-- The next SERIAL (R405): 1 after a die-level reset. -/
  serial : Nat := 1
  /-- The open fault window (R404): start, count, SERIAL of its first fault. -/
  window : Option (Nat × Nat × Nat) := none
  recoveries : List Recovery := []
  /-- Time base value at fail-safe entry, for AUTO_PACKAGE_MS (R411). -/
  failAt : Nat := 0
  /-- Step 2 of die recovery has not ended (R400). -/
  dieStep2 : Bool := false
  /-- Slices that do not respond within their unit bound in the die recovery that runs (R400 step 3). -/
  dieDead : List Nat := []
  /-- Records delivered to firmware whose notice on channel 2 has not been stored yet, oldest first (17 R497). -/
  toFirmware : List (Nat × Nat) := []
  deriving DecidableEq, Repr, Inhabited

/-! ## 11: device memory, level-2 cache, folio banks, arbiters -/

/-- One valid way of the level-2 cache (11 R324 to R331). la is the line address, PA / 128. -/
structure Line where
  la : Nat
  dirty : Bool := false
  poisoned : Bool := false
  /-- The check carried with the line does not match its bytes (13 R385, R390). -/
  badCheck : Bool := false
  age : Nat := 0
  data : List Byte := []
  deriving DecidableEq, Repr, Inhabited

/-- What a level-2 request asks (11 R326): a read of n bytes, a write of bytes, or an atomic. The atomic's function
is the named one of 04 R124. -/
inductive L2Op where
  | read (n : Nat)
  | write (bytes : List Byte)
  | add32 (v : Nat)
  | add64 (v : Nat)
  | min32 (v : Nat) | max32 (v : Nat) | and32 (v : Nat) | or32 (v : Nat) | xor32 (v : Nat)
  | xchg32 (v : Nat) | xchg64 (v : Nat)
  | cas32 (cmp v : Nat) | cas64 (cmp v : Nat)
  deriving DecidableEq, Repr, Inhabited

/-- A request to a level-2 slice: its number (chosen by the requester), its requester class (11 R330), its device
physical address and what it asks. -/
structure L2Req where
  id : Nat
  cls : Nat
  pa : Nat
  op : L2Op
  deriving DecidableEq, Repr, Inhabited

/-- An answer of a slice: the request's number, the status its consumer receives and the bytes read (empty for a write). -/
structure L2Ans where
  id : Nat
  status : Status
  bytes : List Byte
  deriving DecidableEq, Repr, Inhabited

/-- A miss register (11 R327): its line, the primary miss and the merged requests in arrival order. -/
structure Miss where
  la : Nat
  primary : L2Req
  merged : List L2Req := []
  deriving DecidableEq, Repr, Inhabited

/-- A request queued in a pseudo-channel (11 R319): its line and how many later ones have passed it. -/
structure PcReq where
  la : Nat
  passed : Nat := 0
  deriving DecidableEq, Repr, Inhabited

/-- A maintenance operation in progress (11 R333): lines whose write-back waited for a controller when it ran. -/
structure Maint where
  op : Nat
  skipped : Bool
  parked : List Nat := []
  deriving DecidableEq, Repr, Inhabited

/-- A hand-over in progress (11 R341): the old owner's code is in OWNER, the new one in TARGET. -/
structure Handover where
  scrub : Bool
  pstate : Nat
  drained : Bool
  deriving DecidableEq, Repr, Inhabited

/-- A requester's ask at an arbiter (11 R345): its unit number (13 R391), the beats it declares, the context it works for. -/
structure Ask where
  unit : Nat
  beats : Nat
  ctx : Nat
  deriving DecidableEq, Repr, Inhabited

/-- An arbiter (11 R345 to R349): its holder, the last requester granted, the asks waiting, the ask whose transfer a
revocation discarded, and whether the present grant is the one that cannot be revoked. -/
structure Arbiter where
  holder : Option Ask := none
  last : Nat := 0
  waiting : List Ask := []
  revoked : Option Ask := none
  fixed : Bool := false
  deriving DecidableEq, Repr, Inhabited

/-- What a slice finds wrong with the way a lookup touches (11 R328, R329). -/
inductive L2Err where
  | none | corrected | uncorrectable | tagParity
  deriving DecidableEq, Repr, Inhabited

/-- The severity a stack reports with a burst (11 R323). -/
inductive HbmReport where
  | clean | corrected | uncorrectable
  deriving DecidableEq, Repr, Inhabited

/-- An HBM3E stack (11 R321, R322): self-refresh and postponed refreshes. -/
structure Stack where
  selfRefresh : Bool := false
  postponed : Nat := 0
  deriving DecidableEq, Repr, Inhabited

/-- Device memory, the level-2 cache, the folio banks and the arbiters. -/
structure Mem where
  /-- HBM contents by device physical address; an address not listed reads 0 (log 3). -/
  hbm : List Host.Cell := []
  /-- Lines (PA / 128) whose stored carry check does not match. -/
  badCheck : List Nat := []
  /-- Lines that an uncorrectable stack report marks (11 R323). -/
  poisoned : List Nat := []
  /-- Valid ways, keyed slice * 16384 + set * 16 + way. -/
  ways : Tbl Line := []
  misses : List Miss := []
  /-- Requests queued in each pseudo-channel, oldest first (11 R319). -/
  pcq : Tbl (List PcReq) := []
  /-- Requests held at a slice's input arbiter: 11 R327, R332. -/
  held : List L2Req := []
  answers : List L2Ans := []
  maint : Option Maint := none
  stackTbl : Tbl Stack := []
  /-- Dirty lines whose write-back waits for its stack's domain (11 R322), oldest first. -/
  parkedWb : List Line := []
  /-- Folio memory by cluster * 2^22 + bank * 2^18 + byte; an address not listed reads 0. -/
  folio : List Host.Cell := []
  /-- Folio lines (address / 128) whose carried check does not match. -/
  folioBad : List Nat := []
  handovers : Tbl Handover := []
  /-- Arbiters that have been used, keyed by kind * 256 + number (ARB_WDOG_LOG.KIND). -/
  arbiters : Tbl Arbiter := []
  deriving DecidableEq, Repr, Inhabited

/-! ## 16: host interface and Uaper ports -/

/-- Errors that AER reports (16 R461), of those that a command of this model meets. -/
inductive AerError where
  | poisonedTlp | completionTimeout | completerAbort | unsupportedRequest
  deriving DecidableEq, Repr, Inhabited

/-- What the device sends to the host or the board, in order: MSI-X messages, PM_PME, link requests, completions of host
reads, configuration answers and SMBus answers. -/
inductive OutMsg where
  /-- Vector v of function f. -/
  | msix (f v : Nat)
  | pmPme
  /-- A completion with data; ep is the poison bit (13 R389). -/
  | completion (bytes : List Byte) (ep : Bool)
  | unsupportedRequest
  | completerAbort
  | requestRetry
  /-- An answered configuration request. -/
  | config (bytes : List Byte)
  /-- A write TLP sent with EP set, at this host address (13 R389). -/
  | poisonedWrite (addr : Nat)
  /-- A request for a link change: L0p width or ASPM L1 (16 R462). -/
  | linkRequest (l1 : Bool) (width : Nat)
  /-- An SMBus answer: none is a NACK. -/
  | smbus (bytes : Option (List Byte))
  /-- Uncorrectable Internal Error through AER (13 R410). -/
  | aerInternal
  /-- Another error through AER (16 R461). -/
  | aer (e : AerError)
  /-- An ATS Translation Request, ATS Invalidation Completion (12 R363, R364). -/
  | atsRequest (f addr : Nat)
  | atsInvalidationDone (tag : Nat)
  /-- An AUX request on output n (15 R437); data is empty for a read. -/
  | aux (n op addr len : Nat) (data : List Byte)
  /-- An active line of stream s, number y: for each pixel its R, G and B codes (15 R444, R448). -/
  | line (s y : Nat) (codes : List Nat)
  /-- The wake pattern on port p (16 R478). -/
  | wakePattern (p : Nat)
  deriving DecidableEq, Repr, Inhabited

/-- An entry of an MSI-X table (16 R460); an absent entry is masked with address and data 0. -/
structure MsixEntry where
  addr : Nat := 0
  data : Nat := 0
  masked : Bool := true
  deriving DecidableEq, Repr, Inhabited

/-- Configuration space of one function, the part the spec names (16 R454 to R465). -/
structure FnCfg where
  msixEnable : Bool := false
  fnMask : Bool := false
  memSpace : Bool := false
  /-- log2 of the size of the PF's BAR2, none at the image's value (R457). -/
  bar2 : Option Nat := none
  relaxedOrdering : Bool := true
  /-- 0 D0, 3 D3hot. -/
  power : Nat := 0
  pmeStatus : Bool := false
  pmeEn : Bool := false
  /-- An FLR of the function is in progress: memory requests are answered as in 16 R464 step 1. -/
  inFlr : Bool := false
  deriving DecidableEq, Repr, Inhabited

/-- A configuration request (16 R454 to R465), and the message that turns the link off to L2. -/
inductive CfgReq where
  | identity
  | msixControl (enable mask : Bool)
  | command (memSpace : Bool)
  | relaxedOrdering (enable : Bool)
  /-- PMCSR: D3hot or D0, PME_En, and whether PME_Status is written 1. -/
  | power (d3 pmeEn clearPme : Bool)
  /-- NumVFs and VF Memory Space Enable. -/
  | sriov (numVFs : Nat) (memSpace : Bool)
  /-- VF Enable is set; its clearing is a command of its own. -/
  | vfEnable
  | ats (enable : Bool)
  /-- The SR-IOV capability of the PF is read (R456). -/
  | sriovRead
  /-- The size of the PF's Expansion ROM BAR, and n of its bytes from an offset (19 R538). -/
  | romSize
  | romRead (offset n : Nat)
  | turnOff
  deriving DecidableEq, Repr, Inhabited

/-- The host interface beside its registers. -/
structure Hif where
  /-- MSI-X tables, keyed f * 2048 + vector. -/
  msix : Tbl MsixEntry := []
  /-- Pending vectors, keys as msix, rising. -/
  pba : List Nat := []
  cfg : Tbl FnCfg := []
  numVFs : Nat := 0
  vfEnable : Bool := false
  vfMemSpace : Bool := false
  /-- The link is in L2 (with auxiliary power), 16 R463. -/
  inL2 : Bool := false
  /-- Host lines (address / 128), rising, whose outstanding device read has ended poisoned or in an error: the read delivers them
  with inverted checks (R459, 13 R386). -/
  badReads : List Nat := []
  /-- log2 of the size of the VF BAR2, none at the image's value (R457). -/
  vfBar2 : Option Nat := none
  /-- A rate window has completed since HIF_RATE_MIN was last read (01 R26). -/
  rateSeen : Bool := false
  /-- While the link is in L0p: the last moment at which the device sent data, and how many bytes then wait to be sent (R462). -/
  waiting : Nat × Nat := (0, 0)
  /-- Everything sent, oldest first. -/
  sent : List OutMsg := []
  deriving DecidableEq, Repr, Inhabited

/-- A Uaper flit before its CRC and parity (16 R468, R469). -/
structure Flit where
  ty : Nat
  vc : Nat := 0
  som : Bool := false
  eom : Bool := false
  slots : Nat := 0
  fseq : Nat := 0
  payload : List Byte := []
  deriving DecidableEq, Repr, Inhabited

/-- The link layer of a Uaper port (16 R470 to R479). -/
structure Port where
  /-- FSEQ of the next sequenced flit. -/
  txNext : Nat := 0
  replay : List Flit := []
  /-- How many of the newest flits of the replay buffer are still to be sent again. -/
  resend : Nat := 0
  rxLast : Nat := 4095
  nak : Bool := false
  ackDue : Bool := false
  credit0 : Nat := 0
  credit1 : Nat := 0
  /-- Freed receive buffers that have not been reported to the partner (R471). -/
  freed0 : Nat := 0
  freed1 : Nat := 0
  /-- Received slots of the message open on each VC. -/
  open0 : Option (List Byte) := none
  open1 : Option (List Byte) := none
  /-- DATA flits waiting to be sent. -/
  tx0 : List Flit := []
  tx1 : List Flit := []
  /-- LINKMGT operation codes waiting to be sent. -/
  mgmt : List Nat := []
  /-- Replays without acknowledgement progress, consecutive HOLD flits, consecutive good TRAIN flits, failures of RECOVERY. -/
  replays : Nat := 0
  holds : Nat := 0
  trains : Nat := 0
  fails : Nat := 0
  /-- Training (R474): the payload of the last TRAIN flit, consecutive identical ones that carried ACK, and after 8 of those the
  consecutive good flits. -/
  lastTrain : List Byte := []
  acked : Nat := 0
  goods : Nat := 0
  /-- SLEEP_REQ has been sent and not answered (R477). -/
  asked : Bool := false
  /-- A port in SLEEP has been woken and waits for its domain (R473). -/
  waking : Bool := false
  /-- The last flit sent, all 256 bytes, before the lanes' scrambling. -/
  lastSent : List Byte := []
  /-- Scrambling registers of the 8 lanes of each direction (16 R467). -/
  txPrbs : List Nat := []
  rxPrbs : List Nat := []
  deriving DecidableEq, Repr, Inhabited

/-! ## 17: Control Complex -/

/-- A mailbox channel (17 R499 to R501). v7 is the mode under which its word was stored. -/
structure Channel where
  word : Nat := 0
  full : Bool := false
  overrun : Bool := false
  aborted : Bool := false
  err : Bool := false
  emptyIrq : Bool := false
  v7 : Bool := false
  deriving DecidableEq, Repr, Inhabited

/-- A basic-level command in progress (17 R502): function, command word, the 64 record bytes it read. -/
structure BasicCmd where
  fn : Nat
  word : Nat
  record : List Byte
  /-- The result to be written: RESULT word and STATUS; none while the command runs. -/
  result : Option (Nat × Status) := none
  /-- The record could not be read. -/
  lost : Bool := false
  deriving DecidableEq, Repr, Inhabited

/-- A record that firmware writes to the log ring (17 R503): component, level, trace point (none for a log message), arguments. -/
structure LogMsg where
  component : Nat
  level : Nat
  point : Option Nat := none
  args : List Nat := []
  deriving DecidableEq, Repr, Inhabited

/-- A write of a core's physical memory protection (17 R488): the entry, its configuration byte and its address register. -/
structure PmpWrite where
  entry : Nat
  cfg : Nat
  addr : Nat
  deriving DecidableEq, Repr, Inhabited

/-- What a Control Complex core does to a channel, beside the word (17 R488): whether the access is made in U mode, and what M mode
has written to the core's protection entries before it. -/
structure CoreAccess where
  user : Bool := false
  pmp : List PmpWrite := []
  deriving DecidableEq, Repr, Inhabited

/-- The Control Complex beside its registers. -/
structure Ccx where
  channels : Tbl Channel := []
  /-- Channel last served by the Monitor, 8 to 23 (R502); the reset value makes it start at channel 8. -/
  lastServed : Nat := 23
  cmd : Option BasicCmd := none
  /-- SRAM, 2 MiB. -/
  sram : List Host.Cell := []
  /-- The four ENTRY addresses and the VERSION of the running firmware (R491, R508). -/
  entry : List Nat := [0, 0, 0, 0]
  version : Nat := 0
  /-- TAG of the FW_LOAD being performed (R492, R493). -/
  loading : Option Nat := none
  /-- CCX_WDOG of each core, in µs. -/
  wdog : List Nat := [0, 0, 0, 0]
  /-- The Scheduler component's queues that have entries to hand over (R496), rising. -/
  ready : List Nat := []
  /-- First failure that the boot ROM met in the load in progress: REASON and STATUS (R493); and the header it read. -/
  loadFail : Option (Nat × Status) := none
  loadHeader : List Byte := []
  /-- The SHA-384 of the signed message, formed as the image was read (17 R492). -/
  loadDigest : List Byte := []
  /-- Notices kept for a FULL channel: component, EVENT, ARG (R505). -/
  notices : List (Nat × Nat × Nat) := []
  /-- Physical memory protection entry i of core c at 16 * c + i, as (configuration, address); absent means off (R488). -/
  pmp : Tbl (Nat × Nat) := []
  deriving DecidableEq, Repr, Inhabited

/-! ## 18, 19: power and boot -/

/-- Which step a domain transition is in (18 R513). -/
inductive Phase where
  /-- Down, step 2: waiting for the quiesce condition; the wanted state. -/
  | quiescing (target : Nat)
  /-- Down, steps 3 to 5. -/
  | falling (target : Nat)
  /-- Up from OFF, waiting for power-good. -/
  | ramping
  /-- Up, power-good has risen. -/
  | initialising
  deriving DecidableEq, Repr, Inhabited

/-- The power sequencer beside its registers. -/
structure Pwr where
  phases : Tbl Phase := []
  /-- A TARGET/AUTO write held while a transition runs (18 R514): the written word. -/
  heldWrites : Tbl Nat := []
  /-- Demands that arrived during a down transition (18 R515). -/
  demands : List Nat := []
  /-- A wake event has been arbitrated since the last write of ENTER (18 R518). -/
  wakeSeen : Bool := false
  /-- Wake events reported to the arbiter and not yet arbitrated, as (code, detail) (18 R521). -/
  wakes : List (Nat × Nat) := []
  /-- Outputs whose HPD was high at entry to Sillage, and the time base value of entry (18 R520). -/
  hpdAtEntry : List Nat := []
  sillageAt : Nat := 0
  /-- The loop's last target (18 R521). -/
  loopTarget : Nat := 750
  /-- The set-point was below V_MAX in the last period (18 R523). -/
  throttled : Bool := false
  /-- The CCX cores are halted in Sillage (18 R519). -/
  ccxHalted : Bool := false
  deriving DecidableEq, Repr, Inhabited

/-- A flash operation in progress (19 R542). -/
structure FlashOp where
  op : Nat
  addr : Nat
  pages : Nat
  /-- Pages finished so far. -/
  done : Nat := 0
  /-- PERST_N arrived: the page or erase in progress finishes and the rest is abandoned. -/
  abandoned : Bool := false
  deriving DecidableEq, Repr, Inhabited

/-- The settings the boot engine holds from the configuration image (19 R531). -/
structure Image where
  vendor : Nat := 0
  subVendor : Nat := 0
  subId : Nat := 0
  classCode : Nat := 0
  revision : Nat := 0
  smbus : Nat := 0x08
  serial : Nat := 0
  maxRate : Nat := 6
  maxWidth : Nat := 16
  bar2Log2 : Nat := 28
  pLimitMax : Nat := 600
  pLimit : Nat := 500
  bootMv : Nat := 750
  bootDuty : Nat := 100
  railAmps : Nat := 520
  /-- Separate reference clocks (SRIS), and L1 substates advertised (LINK byte 3). -/
  sris : Bool := false
  l1ss : Bool := false
  /-- AVSBus address of the VDD_CORE regulator, and its slew in mV/µs (RAILS, R546). -/
  avsAddr : Nat := 0
  avsSlew : Nat := 5
  console : Nat := 0
  maxLink : List Nat := []
  sdrWhite : Nat := 203
  /-- Fail-safe colour of each output: R, G, B as 16-bit codes. -/
  failColour : List (Nat × Nat × Nat) := [(0, 0, 0), (0, 0, 0), (0, 0, 0), (0, 0, 0)]
  keyHash : List Byte := []
  minVersion : Nat := 0
  optRom : List Byte := []
  deriving DecidableEq, Repr, Inhabited

/-- Boot, flash, fuses and the pins the spec gives an effect. -/
structure Boot where
  /-- Flash contents; a byte not listed reads 0xFF, as erased (log 3). -/
  flash : List Host.Cell := []
  /-- Flash density in bytes, as SFDP reports it. -/
  density : Nat := 0x200_0000
  /-- BOOT_FLASH_DATA, 4 KiB. -/
  window : List Host.Cell := []
  op : Option FlashOp := none
  /-- The key hashes in the fuses, one for each slot (19 R533). -/
  fuseKeys : List (List Byte) := Config.fuseKeys
  /-- REVOKED bits blown since the last AON power-on, which are not yet in effect (19 R541). -/
  blown : Nat := 0
  image : Image := {}
  aonPgood : Bool := true
  corePgood : Bool := true
  /-- PERST_N is asserted. -/
  perst : Bool := false
  /-- The PCIe link may train (19 R536). -/
  linkTraining : Bool := false
  faultN : Bool := false
  wakeN : Bool := false
  thermtrip : Bool := false
  /-- Outputs whose HPD pin is high, rising (15 R436). -/
  hpd : List Nat := []
  deriving DecidableEq, Repr, Inhabited

/-! ## 12: address translation -/

/-- The access a request makes (12 R359, R368). -/
inductive Acc where
  | read | write | fetch | atomic
  deriving DecidableEq, Repr, Inhabited

/-- A request to translate: its number, the engine of 12 R366, VM, ASID, virtual address, access and the context it works for. -/
structure XReq where
  id : Nat
  engine : Nat
  vm : Nat
  asid : Nat
  va : Nat
  acc : Acc
  context : Nat
  deriving DecidableEq, Repr, Inhabited

/-- Permissions of a leaf (12 R356). -/
structure Perm where
  rd : Bool := false
  wr : Bool := false
  ex : Bool := false
  deriving DecidableEq, Repr, Inhabited

/-- Where a LEAF entry comes from, for the LEVEL of a fault (12 R368): the permissions of its stage-1 leaf, the LEVEL of that leaf
and the LEVEL of its stage-2 leaf. -/
structure LeafSrc where
  perm1 : Perm := {}
  level1 : Nat := 3
  level2 : Nat := 3
  deriving DecidableEq, Repr, Inhabited

/-- An entry of the translation cache or of a micro-cache (12 R365). log2 is the page size; page and out are byte addresses
aligned to it; dev says whether the output is device memory. -/
inductive TcEntry where
  | leaf (vm asid page log2 out : Nat) (dev : Bool) (perm : Perm) (check : Bool) (src : LeafSrc)
  | s2 (vm page log2 out : Nat) (dev : Bool) (perm : Perm)
  /-- A pointer read at a level of a stage: stage, ASID (0 for stage 2), level, the base and log2 of the span it covers, next table. -/
  | table (vm stage asid level page log2 next : Nat) (g64 : Bool)
  | asid (vm asid root : Nat)
  | ats (f page out : Nat) (perm : Perm)
  deriving DecidableEq, Repr, Inhabited

/-- What the IPA under translation is wanted for (12 R360). -/
inductive Aim where
  | asidEntry
  | table (level : Nat) (g64 : Bool)
  /-- The output of a stage-1 leaf of this size and these permissions. -/
  | output (log2 : Nat) (perm : Perm)
  deriving DecidableEq, Repr, Inhabited

/-- A walk in progress (12 R360 to R362). s2 is the stage-2 table being read: level, its host address, G64; none while the
stage-1 word itself is being read at host address readAt. -/
structure Walk where
  req : XReq
  waiting : List XReq := []
  aim : Aim
  ipa : Nat
  s2 : Option (Nat × Nat × Bool)
  readAt : Nat
  noCache : Bool := false
  deriving DecidableEq, Repr, Inhabited

/-- How a translation ends: output address, target, size; or a fault (status, reason, the address to report, the ACCESS byte
and the LEVEL byte of 12 R368). -/
inductive XOut where
  | ok (pa : Nat) (dev : Bool) (log2 : Nat) (check : Bool)
  | fault (status : Status) (reason addr access level : Nat)
  deriving DecidableEq, Repr, Inhabited

/-- A fault entry of the open batch of a function (12 R368 to R370). -/
structure FltEntry where
  slot : Nat
  vm : Nat
  asid : Nat
  page : Nat
  access : Nat
  bytes : List Byte
  merged : Nat := 0
  deriving DecidableEq, Repr, Inhabited

/-- An open fault batch: its start and its entries. -/
structure Batch where
  start : Nat
  entries : List FltEntry
  deriving DecidableEq, Repr, Inhabited

/-- Where an invalidation comes from (12 R373): XLT_INV_CMD of function f, a context's teardown, a slot's release, an ATS
request with its tag, the arming of a graph, a change of XLT_VM_CFG. -/
inductive InvSrc where
  | cmd (f : Nat)
  | teardown (ctx : Nat)
  | slot (n : Nat)
  | ats (tag : Nat)
  | graph (f : Nat)
  | vmCfg (v : Nat)
  deriving DecidableEq, Repr, Inhabited

/-- What an invalidation removes (12 R373). -/
inductive InvOp where
  | range (vm asid start len : Nat)
  | tag (vm asid : Nat)
  | vmAll (vm : Nat)
  | hostRange (f start len : Nat)
  | outputRange (start len : Nat)
  deriving DecidableEq, Repr, Inhabited

/-- An invalidation waiting or in progress. -/
structure Inv where
  src : InvSrc
  op : InvOp
  escalated : Bool := false
  deriving DecidableEq, Repr, Inhabited

/-- An entry of the graph range table (12 R378 to R381): function, object index, device physical range [lo, hi), PROTECT or
WATCH. The list keeps the order in which entries were armed, earliest first. -/
structure GRange where
  fn : Nat
  obj : Nat
  lo : Nat
  hi : Nat
  protect : Bool
  deriving DecidableEq, Repr, Inhabited

/-- Address translation beside its registers. -/
structure Xlt where
  tc : List TcEntry := []
  /-- Micro-caches, keyed by engine. -/
  micro : Tbl (List TcEntry) := []
  walks : List Walk := []
  /-- Requests waiting for an ATS completion, with the host address their walk gave. -/
  atsWait : List (XReq × Nat × Nat × Perm) := []
  /-- Functions whose ATS Control Enable bit is set. -/
  atsEnabled : List Nat := []
  /-- Host pages, by function, for which an access made within a command has sent a Translation Request. -/
  atsAsked : List (Nat × Nat) := []
  /-- A display access met a micro-cache miss while FEX is not ON: its step waits and is undone (12 R365). -/
  tcWait : Bool := false
  /-- Translations answered and not yet used: request number and outcome. -/
  answers : List (Nat × XOut) := []
  batches : Tbl Batch := []
  /-- Batch serials already used, per function: absent means none since reset. -/
  batchSerial : Tbl Nat := []
  /-- Fault ring slots written, free-running, per function. -/
  written : Tbl Nat := []
  invWaiting : List Inv := []
  /-- The invalidation in progress with the engines whose acknowledgement is outstanding. -/
  invNow : Option (Inv × List Nat) := none
  ranges : List GRange := []
  /-- Address of the last access that ended with a status other than OK: what a COMMAND record names as ADDRESS (13 R405). -/
  failAddr : Nat := 0
  deriving DecidableEq, Repr, Inhabited

/-! ## 03: scheduler, part one -/

/-- Interference sums of a context in a window (03 R102, R103): engine-busy steps, blocked steps, and the blocked steps by
aggressor context. -/
structure Intf where
  busy : Nat := 0
  blocked : Nat := 0
  by_ : Tbl Nat := []
  deriving DecidableEq, Repr, Inhabited

/-- A completed window: its number and the sums of the contexts that were busy or blocked in it (03 R103). -/
structure IntfDone where
  window : Nat
  sums : Tbl Intf
  deriving DecidableEq, Repr, Inhabited

end Sys2Proof.Machine
end

