-- ==== Sys2Proof/Machine/TypesFe.lean ====
section
/-!
DEFINITION. Machine/TypesFe.lean: plain data of the front end, the scheduler and the stored graphs (02, 03).
-/

namespace Sys2Proof.Machine

/-! ## 02: objects and queues -/

/-- An object table entry with its handle's index and generation (02 R57). The same record is what a checked entry keeps
of an object it resolved (R59). -/
structure Obj where
  idx : Nat
  gen : Nat
  base : Nat
  size : Nat
  kind : Nat
  ctx : Nat
  shared : Bool := false
  read : Bool := false
  write : Bool := false
  /-- Number of the version that a PUBLISH or PATCH of this object last made; 0 before the first (03 R91). -/
  versions : Nat := 0
  deriving DecidableEq, Repr, Inhabited

/-- The states of a queue, 02 R43. An index with no table entry is FREE. -/
inductive QState where
  | active | idleArmed | idle | stopped | drain | kill | killed
  deriving DecidableEq, Repr, Inhabited

/-- Two-phase idle (02 R47): nothing under way, ARM sent, or the shadow value that doorbell capture returned. -/
inductive Arm where
  | none | sent | returned (shadow : Nat)
  deriving DecidableEq, Repr, Inhabited

/-- A program header (04 R110), as checked. -/
structure Prog where
  base : Nat
  codeOffset : Nat
  codeSize : Nat
  vregs : Nat
  sregs : Nat
  argSize : Nat
  privateBytes : Nat
  barTimeout : Nat
  accord : Bool
  resident : Bool
  fp64 : Bool
  deriving DecidableEq, Repr, Inhabited

/-- A state object as the device reads it (08 R226): its 256 bytes and the headers of the programs it names. -/
structure DrawState where
  base : Nat
  bytes : List Byte
  pos : Prog
  frag : Option Prog
  const : Nat
  term : Nat
  deriving DecidableEq, Repr, Inhabited

/-- How far an entry has come (02 R55 to R67). -/
inductive EPhase where
  /-- Fetched, not checked. -/
  | fetched
  /-- Its check waits for this many reads (02 R60); bad: the status of the first that failed. -/
  | missing (n : Nat) (bad : Option Status)
  /-- Checked and relocated, not started; noop says that it finishes as a no-op (check 5). -/
  | checked (noop : Bool)
  /-- Started. -/
  | running
  /-- Finished with a status; it counts for SEQ. -/
  | finished (st : Status)
  /-- Rejected or failed without CONTINUE_ON_ERROR; it does not count. -/
  | failed (st : Status)
  /-- Discarded by a teardown or a die recovery. -/
  | discarded
  deriving DecidableEq, Repr, Inhabited

/-- A ring entry from its fetch until SEQ passes it: its number (02 R61), its 64 native bytes and the objects it resolved,
keyed by the byte offset of the handle. -/
structure Entry where
  seq : Nat
  raw : List Byte
  phase : EPhase := .fetched
  objs : Tbl Obj := []
  /-- Its fence record has been written. -/
  signalled : Bool := false
  /-- The state that the check of a DRAW read (08 R226), and SEQ_BATCH at the check of a SEQ_STEP (10 R294). -/
  draw : Option DrawState := none
  batch : Nat := 0
  deriving DecidableEq, Repr, Inhabited

/-- A queue (02 R38 to R48, R61 to R68). fetch counts entries from 0 without wrapping; software sees its low 32 bits. -/
structure Queue where
  gen : Nat
  fn : Nat
  ctx : Nat
  asid : Nat
  ringBase : Nat
  ringLog2 : Nat
  compl : Nat
  fenceBase : Nat
  fenceLog2 : Nat
  cls : Nat := 0
  cont : Bool := false
  legacy : Bool := false
  resident : Bool := false
  admin : Bool := false
  compVec : Nat := 0
  fenceVec : Nat := 0
  prio : Nat := 0
  state : QState := .idle
  lastStatus : Status := .ok
  shadow : Nat := 0
  pend : Bool := false
  armed : Bool := true
  arm : Arm := .none
  /-- A wake is on its way to the front end (02 R48). -/
  wake : Bool := false
  /-- A wake is on its way to the cores that hold groups waiting on the queue (04 R134). -/
  coreWake : Bool := false
  fetch : Nat := 0
  seq : Nat := 0
  /-- Time base value of the last completion write, and the value that stood before the writes of that time (15 R446). -/
  wroteAt : Nat := 0
  seqWas : Nat := 0
  fencePi : Nat := 0
  fenceCi : Nat := 0
  dropped : Nat := 0
  entries : List Entry := []
  /-- Entries that SEQ covers and whose fence records have not been written, because a record's write faulted (02 R63, R66). -/
  owed : List Entry := []
  /-- The fences up to the doorbell shadow have been signalled by a teardown or a die recovery (02 R66). -/
  swept : Bool := false
  /-- Time base value of the last doorbell that doorbell capture accepted (02 R46, 01 R27). -/
  rangAt : Nat := 0
  /-- The stopped entry's number (02 R44). -/
  stoppedAt : Option Nat := none
  deriving DecidableEq, Repr, Inhabited

/-- A context under teardown or in quarantine (02 R71). -/
inductive TdStep where
  /-- Step 1 in mode DRAIN: until this time base value. -/
  | draining (until_ : Nat)
  /-- Step 2. -/
  | preempting
  /-- Step 4: this many invalidation operations have not been acknowledged. -/
  | invalidating (left : Nat)
  deriving DecidableEq, Repr, Inhabited

/-- A teardown: its function, its step and the teardown commands (queue, entry number) that finish with it. -/
structure Teardown where
  fn : Nat
  step : TdStep
  cmds : List (Nat × Nat) := []
  deriving DecidableEq, Repr, Inhabited

/-! ## 03: started commands -/

/-- The engine classes of 03 R73. none: commands that have no items. -/
inductive Eng where
  | shader | accord | raster | collator | copy | press | none
  deriving DecidableEq, Repr, Inhabited

/-- What a started command belongs to: an entry of a queue, or a node of a launch. -/
inductive Owner where
  | entry (q seq : Nat)
  | node (launch n : Nat)
  deriving DecidableEq, Repr, Inhabited

/-- Where the decompressor stands in a stream (14 R415 to R418, RFC 1951). -/
inductive DecMode where
  /-- At the start of a block; last: the block just ended carried BFINAL. -/
  | block (last : Bool)
  /-- In a stored, RAW or RUN block: bytes left; the repeated byte of a RUN. -/
  | copy (n : Nat) (last : Bool)
  | run (n b : Nat)
  /-- In a Huffman block: code lengths of the literal/length and the distance codes. -/
  | huff (lit dist : List Nat) (last : Bool)
  /-- In an LZ block: bytes still to produce, bytes produced in the block, body bits left. -/
  | lz (left made bits : Nat)
  | trailer
  | done
  deriving DecidableEq, Repr, Inhabited

/-- A PRESS job, or a ring message, in progress (14 R415 to R426): bytes of source taken, bytes of output written after the record;
the coder state: bits in hand, the last 64 KiB of original data, original bytes so far and their running CRC; where a
decompression stands, and original bytes decoded and not yet written. -/
structure PressJob where
  src : Nat := 0
  out : Nat := 0
  bits : List Bool := []
  window : List Byte := []
  orig : Nat := 0
  crc : Nat := 0xFFFF_FFFF
  mode : DecMode := .block false
  produced : List Byte := []
  reason : Nat := 0
  deriving DecidableEq, Repr, Inhabited

/-- A started command (03 R72 to R85). Items are numbered from 0. -/
structure Task where
  owner : Owner
  /-- Queue index; the class, PRIORITY, context and ASID of that queue (03 R75). -/
  q : Nat
  fn : Nat
  ctx : Nat
  asid : Nat
  cls : Nat
  prio : Nat
  eng : Eng
  raw : List Byte
  objs : Tbl Obj := []
  total : Nat := 0
  next : Nat := 0
  live : List Nat := []
  saved : List Nat := []
  /-- Status the command will finish with. -/
  status : Status := .ok
  /-- Address of the access that failed, for the COMMAND record (13 R405). -/
  failAddr : Nat := 0
  /-- No further item is placed. -/
  stop : Bool := false
  /-- Finished by SCH_DISCARD (03 R82): R67 does not apply. -/
  discarded : Bool := false
  /-- A command without items has done its work. -/
  ended : Bool := false
  start : Nat := 0
  prog : Option Prog := none
  /-- The state that the check of a DRAW read (08 R226). -/
  draw : Option DrawState := none
  press : Option PressJob := none
  /-- WAIT SUBOP 1: a read is outstanding. -/
  reading : Bool := false
  /-- Torn down with items in flight: they run to their pre-emption points, and the command does not finish (02 R71). -/
  dropped : Bool := false
  deriving DecidableEq, Repr, Inhabited

/-- Engine-busy steps of a context since its number left quarantine (02 R69). -/
structure Util where
  shader : Nat := 0
  accord : Nat := 0
  raster : Nat := 0
  collator : Nat := 0
  copy : Nat := 0
  deriving DecidableEq, Repr, Inhabited

/-! ## 03: stored graphs -/

/-- Who launched a graph: a GRAPH_LAUNCH entry, or a step of the sequence unit for a SEQ_STEP entry. -/
inductive LOwner where
  | entry (q seq : Nat)
  | step (q seq : Nat)
  deriving DecidableEq, Repr, Inhabited

/-- A live launch (03 R98 to R101). -/
structure Launch where
  owner : LOwner
  graph : Obj
  version : Nat
  slot : Nat
  args : List Byte
  /-- The queue as it stood at the start: what the launch works with once the queue has been destroyed. -/
  home : Queue
  /-- Device address of the node counters, 2 bytes each, in the scratch pool (03 R98), and their number. -/
  scratch : Nat
  nodes : Nat
  /-- Ready nodes that have not been read and started. -/
  ready : List Nat := []
  /-- Nodes started and not finished. -/
  running : List Nat := []
  finished : List Nat := []
  /-- Nodes that have satisfied their successors: finished ones, and those of 07 R553. -/
  satisfied : List Nat := []
  /-- Nodes that have ended and whose fence record waits for space (03 R100), with their status. -/
  fenceWait : List (Nat × Status) := []
  fail : Option (Nat × Status) := none
  /-- The failing access of that node, and the time of the failure. -/
  failAddr : Nat := 0
  failTime : Nat := 0
  discarded : Bool := false
  deriving DecidableEq, Repr, Inhabited

/-- A PUBLISH or PATCH in progress for a function (03 R552): the operation, the objects it resolved, the other arguments as
they stood, and the failure its checks found. -/
structure GOp where
  op : Nat
  graph : Option Obj
  stage : Option Obj
  count : Nat
  offset : Nat
  failed : Option (Status × Nat) := none
  deriving DecidableEq, Repr, Inhabited

/-- The front end and the scheduler beside their registers. -/
structure Fe where
  queues : Tbl Queue := []
  /-- Generation of each queue index; absent means 1. -/
  qGen : Tbl Nat := []
  objs : Tbl Obj := []
  /-- Generation of each object index; absent means 1. -/
  objGen : Tbl Nat := []
  /-- Queue index taken by a CREATE whose descriptor read is outstanding, per function. -/
  creating : Tbl Nat := []
  teardowns : Tbl Teardown := []
  tasks : Tbl Task := []
  nextTask : Nat := 0
  launches : Tbl Launch := []
  nextLaunch : Nat := 0
  /-- Status of the launches of sequence-unit steps that have finished and have not been harvested, by launch. -/
  stepDone : Tbl (Status × Nat × Nat) := []
  gops : Tbl GOp := []
  /-- Last queue served by the round robin of each engine class (03 R74), keyed by class. -/
  rr : Tbl Nat := []
  util : Tbl Util := []
  deriving DecidableEq, Repr, Inhabited

end Sys2Proof.Machine
end

