-- ==== Sys2Proof/Machine/TypesSc.lean ====
section
/-!
DEFINITION. Machine/TypesSc.lean: plain data of the shader cores and the Accord engines (04, 05).
-/

namespace Sys2Proof.Machine

/-! ## 04: threads, groups, blocks -/

/-- What a live thread waits for (04 R119). -/
inductive TWait where
  | none
  /-- At barrier b. -/
  | bar (b : Nat)
  /-- At ACC_WAIT, for a token; the outcome goes to this vector register. -/
  | acc (token dst : Nat)
  /-- At a fragment instruction (its kind, register, the scalar register of its folio line, count). -/
  | frag (load : Bool) (dst sa n : Nat)
  /-- At QWAIT on a queue handle with an index; the shadow goes to this vector register. -/
  | qwait (handle dst ix : Nat)
  /-- Its next instruction waits for an operand of an outstanding access, or for the access itself. -/
  | mem
  /-- Its ACCORD is on its way to the engine, or waits for one of the four places (04 R130, 05 R170). -/
  | accord
  deriving DecidableEq, Repr, Inhabited

/-- A thread (04 R108, R119, R120, 06 R179). age counts the issues of its group that passed it over. -/
structure Thread where
  pc : Nat := 0
  live : Bool := true
  wait : TWait := .none
  flags : Nat := 0
  age : Nat := 0
  deriving DecidableEq, Repr, Inhabited

/-- A memory instruction of a cohort (04 R122 to R124). -/
inductive MOp where
  | load | store
  /-- An atomic by name: 0 add, 1 min, 2 max, 3 and, 4 or, 5 xor, 6 exchange, 7 compare and swap. -/
  | atomic (f : Nat)
  deriving DecidableEq, Repr, Inhabited

/-- The operation is an atomic. -/
def MOp.isAtomic (op : MOp) : Bool := match op with | .atomic _ => true | _ => false

/-- A memory access of one thread: thread, address, and for a store or an atomic its operands (compare value first). -/
structure MLane where
  thread : Nat
  addr : Nat
  data : Nat := 0
  cmp : Nat := 0
  deriving DecidableEq, Repr, Inhabited

/-- An outstanding memory instruction of a group: operation, access size in bytes, first destination register, its threads,
whether it addresses local memory, whether it carries the PRIVATE hint. Its threads have gone on; one that needs what it loads is
blocked until it returns (04 R119). -/
structure MReq where
  op : MOp
  size : Nat
  dst : Nat
  lanes : List MLane
  /-- Sign extension of a load narrower than a register word. -/
  sx : Bool := false
  isLocal : Bool := false
  priv : Bool := false
  pc : Nat := 0
  /-- Helper threads (08 R248): they take part without an access. -/
  idle : List Nat := []
  /-- ST_ORDERED (08 R251). -/
  ordered : Bool := false
  deriving DecidableEq, Repr, Inhabited

/-- A park (04 R136 to R139): token, generation, cause, the threads at the instruction, its program counter, the address, and
whether the access was a write. -/
structure Park where
  id : Nat
  gen : Nat
  status : Status
  mask : Nat
  pc : Nat
  addr : Nat := 0
  write : Bool := false
  /-- The accord instruction that failed after acceptance, by token (05 R168). -/
  acc : Option Nat := none
  /-- The accesses of the faulting memory instruction: REPLAY makes them outstanding again, CONTINUE drops them. -/
  reqs : List MReq := []
  deriving DecidableEq, Repr, Inhabited

/-- A thread group. Registers not listed have their written bit clear and read 0 (04 R115). Vector register r of thread t is
keyed r * 32 + t. -/
structure Group where
  /-- Group slot of its core, 0 to 63; its pipe is slot mod 4. -/
  slot : Nat
  idx : Nat
  threads : List Thread
  v : Tbl W32 := []
  sr : Tbl W32 := []
  /-- Outstanding memory instructions, oldest first. -/
  mem : List MReq := []
  park : Option Park := none
  /-- LOST of 05 R165. -/
  lost : Bool := false
  /-- The folio lines, as (first, number), of a fragment instruction that every live thread has reached and that waits for an accord
  instruction (05 R172). -/
  fragAt : Option (Nat × Nat) := none
  deriving DecidableEq, Repr, Inhabited

/-- Why a block runs. -/
inductive BKind where
  /-- Item i of a started DISPATCH or ACCORD. -/
  | item (task i : Nat)
  /-- A position group of a pass's batch. -/
  | position (pass : Nat)
  /-- A fragment group of the tile in a slot of a raster unit. -/
  | fragment (cluster slot : Nat)
  deriving DecidableEq, Repr, Inhabited

/-- Pre-emption of a block (03 R84). -/
inductive PrePhase where
  | none | requested | saving
  deriving DecidableEq, Repr, Inhabited

/-- What a pre-emption saves (03 R84): a block, or the tile in a slot of a raster unit with its groups. -/
inductive PreTarget where
  | block (b : Nat)
  | tile (cluster slot : Nat)
  deriving DecidableEq, Repr, Inhabited

/-- What a token of a block stands for, once it no longer is an accepted instruction (05 R164). -/
inductive TokenEnd where
  | reissue | skipped
  deriving DecidableEq, Repr, Inhabited

/-- A block. bx, by', bz: its place in the grid; lin: linear index. -/
structure Block where
  kind : BKind
  core : Nat
  fn : Nat
  ctx : Nat
  asid : Nat
  q : Nat
  cls : Nat
  prog : Prog
  nGroups : Nat
  localKib : Nat
  bx : Nat := 0
  by' : Nat := 0
  bz : Nat := 0
  lin : Nat := 0
  args : Nat := 0
  groups : List Group := []
  localMem : List Host.Cell := []
  /-- Barrier instances that are open: barrier and time base value of the first arrival. -/
  bars : Tbl Nat := []
  engine : Option Nat := none
  /-- Last token issued (05 R164). -/
  token : Nat := 0
  /-- Tokens that ended otherwise than DONE. -/
  ends : Tbl TokenEnd := []
  pre : PrePhase := .none
  /-- Ended at its pre-emption point without being saved (03 R82, 04 R140). -/
  discard : Bool := false
  /-- Registers v0 to v71 of exited threads of a position or fragment group, keyed by thread. -/
  outs : Tbl (List Nat) := []
  /-- Fragment group: primitive sequence number, position and coverage of each thread, and FRAG_FLAGS of its state. -/
  frags : List (Nat × Nat × Nat × Nat) := []
  fragFlags : Nat := 0
  deriving DecidableEq, Repr, Inhabited

/-! ## 04, 06: instructions without a row of their own -/

/-- The formats a shader instruction names (06 R178, R193). -/
inductive FKind where
  | b16 | b32 | b64 | bf16 | f8a | f8b | f6 | f4
  deriving DecidableEq, Repr, Inhabited

/-- The arithmetic formats of the shader cores (06 R178). -/
def FKind.arith (k : FKind) : Bool := k = .b16 || k = .b32 || k = .b64

/-- A conversion between two formats is a path of the shader cores (06 R193). -/
def FKind.path (a b : FKind) : Bool :=
  (a.arith && b.arith && a ≠ b) || (a.arith && !b.arith) || (!a.arith && (b = .b32 || b = .b64))

/-- Floating-point operations of two operands (06 R178). -/
inductive FOp where
  | add | sub | mul | min | max | minNum | maxNum | rem | scaleB | copySign
  deriving DecidableEq, Repr, Inhabited

/-- Floating-point operations of one operand (06 R178). -/
inductive FUn where
  | rint | rintExact | nextUp | nextDown | logB | neg | abs | cls
  deriving DecidableEq, Repr, Inhabited

/-- Operations that round once to another format (06 R178, the formatOf operations of IEEE 754-2019). -/
inductive FTo where
  | add | sub | mul | fma
  deriving DecidableEq, Repr, Inhabited

/-- 32-bit integer operations (04 R142). -/
inductive IOp where
  | add | sub | mul | and | or | xor | shl | shr | sar | lt | ltu | eq
  deriving DecidableEq, Repr, Inhabited

/-- An instruction of a group without a row of its own, 04 R142. The spec gives no encoding, so GROUP_ISSUE carries
the instruction that stands at the cohort's program counter (log 12). d is the destination, a, b, c the sources. -/
inductive SIns where
  | float2 (op : FOp) (k : FKind) (rm : Rm) (d a b : Nat)
  | float1 (op : FUn) (k : FKind) (rm : Rm) (d a : Nat)
  | fma (k : FKind) (rm : Rm) (d a b c : Nat)
  | fma16x2 (rm : Rm) (d a b c : Nat)
  /-- Operands of format k, result of format r. -/
  | formatOf (op : FTo) (k r : FKind) (rm : Rm) (d a b c : Nat)
  | order (mag : Bool) (k : FKind) (d a b : Nat)
  | fcmp (cmp : Cmp) (signal : Bool) (k : FKind) (d a b : Nat)
  | approx (f : Approx) (d a : Nat)
  | cvt (src dst : FKind) (rm : Rm) (sat : Bool) (d a : Nat)
  | toInt (k : FKind) (n : Nat) (rm : Rm) (d a : Nat)
  | ofInt (k : FKind) (n : Nat) (rm : Rm) (d a : Nat)
  | int (op : IOp) (d a b : Nat)
  | scalar (op : IOp) (d a b : Nat)
  | imm (d v : Nat)
  | scalarImm (d v : Nat)
  | fromScalar (d a : Nat)
  | toScalar (d a : Nat)
  | branch (target : Nat)
  | branchIf (a target : Nat)
  /-- A load, store or atomic: access size, register, address register, data register. -/
  | memory (op : MOp) (size d addr src : Nat) (sx isLocal priv : Bool)
  /-- A memory fence of scope 0 group, 1 block, 2 device, 3 system (04 R124). -/
  | fence (scope : Nat)
  /-- An undefined encoding. -/
  | undefined
  deriving DecidableEq, Repr, Inhabited

/-! ## 05: Accord engines -/

/-- A descriptor, 05 R153: its eight words, with the token, issuing group and thread mask. -/
structure AccIns where
  words : List Nat
  token : Nat
  /-- The issuing group's slot, the threads of its cohort, the register that receives the token, and the descriptor's D. -/
  group : Nat
  mask : List Nat
  dst : Nat
  d : Nat
  pc : Nat
  deriving DecidableEq, Repr, Inhabited

/-- A fault of an accepted instruction, by token (05 R168). -/
structure AccFault where
  token : Nat
  status : Status
  addr : Nat
  write : Bool
  deriving DecidableEq, Repr, Inhabited

/-- An Accord engine (05 R145): its block, accepted instructions in order, the tokens that run on the array and on the mover, the
faults that stop it, and whether it stops accepting (05 R170). -/
structure Engine where
  block : Option Nat := none
  /-- Descriptors sent and not yet accepted, oldest first. -/
  inflight : List AccIns := []
  queue : List AccIns := []
  array : Option Nat := none
  /-- The MMA whose accumulators are being written out while the other set serves the next (05 R166 step 5). -/
  out : Option Nat := none
  mover : Option Nat := none
  faults : List AccFault := []
  draining : Bool := false
  /-- The two accumulator sets, 64 x 64 words in binary32 layout each, and the one that the MMA in the array uses; 1 minus it is that of
  the MMA being written out. A set that nothing has been written to has no entry. -/
  accs : Tbl (List Nat) := []
  aset : Nat := 0
  /-- The expansion table: entries of 16 bits, as the last MMA that uses one has loaded them (05 R157). -/
  table : List Nat := []
  deriving DecidableEq, Repr, Inhabited

/-- A line of a core's overflow bank (04 R117): its address space and virtual line, its bytes, masks of the bytes held and of those
dirty, and the groups that use it, as (block, index in the block). -/
structure OvfLine where
  fn : Nat
  asid : Nat
  ctx : Nat
  line : Nat
  data : List Byte
  held : Nat := 0
  dirty : Nat := 0
  users : List (Nat × Nat) := []
  deriving DecidableEq, Repr, Inhabited

/-- The shader cores and Accord engines beside their registers. -/
structure Sc where
  /-- Device lines (PA / 128) that each core's L1 holds, the last used first (04 R107): 128 sets of 8 ways. -/
  l1 : Tbl (List Nat) := []
  /-- Lines that each core's overflow bank holds, the last used first. -/
  ovf : Tbl (List OvfLine) := []
  blocks : Tbl Block := []
  nextBlock : Nat := 1
  /-- Blocks saved under 03 R84. -/
  saved : Tbl Block := []
  /-- Position and fragment groups that have exited and whose outputs have not been taken. -/
  done : Tbl Block := []
  /-- Park tokens in use, rising, and the generation each had last. -/
  parkIds : List Nat := []
  parkGens : Tbl Nat := []
  engines : Tbl Engine := []
  /-- Round robin over group slots of each pipe: last slot issued, keyed core * 4 + pipe. -/
  pipes : Tbl Nat := []
  deriving DecidableEq, Repr, Inhabited

end Sys2Proof.Machine
end

