-- ==== Sys2Proof/Machine/TypesGfx.lean ====
section
/-!
DEFINITION. Machine/TypesGfx.lean: plain data of the Collator, the geometry stage, the raster units and the tile reuse unit
(07, 08, 09).
-/

namespace Sys2Proof.Machine

/-! ## 07, 08: passes -/

/-- An attachment entry of a surface header (08 R228). -/
structure Att where
  format : Nat
  load : Bool
  store : Nat
  data : Nat
  resolve : Nat
  clear : List Byte
  deriving DecidableEq, Repr, Inhabited

/-- A surface header as a pass read it (08 R228): its 320 bytes and the fields the rules use. Absent attachments are none. -/
structure Surface where
  bytes : List Byte
  width : Nat
  height : Nat
  samples : Nat
  meta_ : Nat
  atts : List (Option Att)
  deriving DecidableEq, Repr, Inhabited

/-- A list of a pass (07 R205, R209, R218): its first and last quire, the records in the last, and the totals. crc is the
running fold of 09 R270; side says that a primitive with SIDE_EFFECTS reached it. -/
structure QList where
  first : Nat := 0xFFFF_FFFF
  last : Nat := 0xFFFF_FFFF
  inLast : Nat := 0
  quires : Nat := 0
  records : Nat := 0
  aux : Nat := 0
  crc : Option Nat := none
  side : Bool := false
  deriving DecidableEq, Repr, Inhabited

/-- A primitive after the geometry stage (08 R237): its bounding box in pixels, its record, whether it is in its data quire
(slot) and its DRAW's ordinal. -/
structure Prim where
  draw : Nat
  seq : Nat
  box : Nat × Nat × Nat × Nat
  record : List Byte
  slot : Option Nat := none
  deriving DecidableEq, Repr, Inhabited

/-- Where a DRAW's stream of indices stands (08 R231, R233): instance, position, vertices gathered towards the next
primitive, whether the next strip triangle is odd, index of the next primitive in its instance. -/
structure Cursor where
  inst : Nat := 0
  pos : Nat := 0
  buf : List Nat := []
  odd : Bool := false
  prim : Nat := 0
  deriving DecidableEq, Repr, Inhabited

/-- A DRAW of an open pass (03 R73): who it finishes as, its command, its state and its stream; released once its geometry
stage has ended. -/
structure PassDraw where
  owner : Owner
  task : Nat
  raw : List Byte
  objs : Tbl Obj
  state : DrawState
  at_ : Cursor := {}
  released : Bool := false
  /-- An indirect DRAW whose arguments have not been read: it has its place among the pass's DRAWs and no stream yet. -/
  reading : Bool := false
  deriving DecidableEq, Repr, Inhabited

/-- A batch of the geometry stage in progress (08 R232): draw ordinal; its primitives as instance, index within the instance
and vertex indices; the position groups that wait for a core and those that run, each as its (vertex, instance) pairs. -/
structure GBatch where
  draw : Nat
  prims : List (Nat × Nat × List Nat)
  waiting : List (List (Nat × Nat)) := []
  running : List Nat := []
  groups : Tbl (List (Nat × Nat)) := []
  deriving DecidableEq, Repr, Inhabited

/-- Where a flush stands (07 R211). -/
inductive Flush where
  | none
  /-- Step 4: the data quires carried in the reserve (their old indices). -/
  | storing (carried : List Nat)
  deriving DecidableEq, Repr, Inhabited

/-- An open pass (07 R196 to R214). key: the queue index, or 2^14 plus the launch number. -/
structure Pass where
  key : Nat
  q : Nat
  fn : Nat
  ctx : Nat
  asid : Nat
  mode : Nat
  begin_ : Owner
  task : Nat
  pool : Obj
  units : Nat
  reserve : Nat
  target : Obj
  tile : Nat := 64
  reuse : Option Nat := none
  surface : Surface := { bytes := [], width := 0, height := 0, samples := 1, meta_ := 0, atts := [] }
  passTerm : Nat := 0
  serial : Nat := 0
  control : List Byte := []
  /-- List-table entries held. -/
  entries : Nat := 0
  lists : Tbl QList := []
  /-- Next main-region quire, and the most in use. -/
  nextQuire : Nat := 0
  highWater : Nat := 0
  warned : Bool := false
  seq : Nat := 0
  /-- The data quire being filled: index, DRAW ordinal, primitives in it. -/
  dataQ : Option (Nat × Nat × Nat) := none
  draws : List PassDraw := []
  batch : Option GBatch := none
  /-- Primitives that have left the geometry stage and wait for admission, in order. -/
  held : List Prim := []
  flush : Flush := .none
  flushes : Nat := 0
  /-- Tiles STORED by a flush, with the number of the flush that stored each last. -/
  stored : Tbl Nat := []
  /-- Tiles that a record or a wide primitive has reached since the last flush. -/
  touched : List Nat := []
  /-- Tiles already handed out in this pass, and those that a primitive ever reached. -/
  everOut : List Nat := []
  everHit : List Nat := []
  /-- Tiles still to be handed out, and tiles that a raster unit holds. -/
  toHand : List Nat := []
  out : List Nat := []
  /-- Load terms that have been read, by tile (09 R268). -/
  loadTerms : Tbl (List Byte) := []
  /-- Tiles still to be compared or copied at PASS_END. -/
  toCompare : List Nat := []
  toCopy : List Nat := []
  status : Status := .ok
  failed : Bool := false
  /-- Address of the access that failed the pass. -/
  failAddr : Nat := 0
  ending : Option (Owner × Nat) := none
  /-- The control block's read is outstanding. -/
  reading : Bool := false
  /-- Every batch of a ROUTE or BLOCK pass has been taken, or the final render of a GEOMETRY pass has begun. -/
  closed : Bool := false
  /-- KEPT, COPIED, SHADED and uncompared tiles of a reuse pass. -/
  kept : Nat := 0
  copied : Nat := 0
  shaded : Nat := 0
  uncompared : Nat := 0
  /-- Tiles whose reuse entry takes the signature when their last write is accepted. -/
  sign : List Nat := []
  /-- ROUTE: (sweep, next token); BLOCK: (query tile, next key block). -/
  at_ : Nat × Nat := (0, 0)
  discard : Bool := false
  deriving DecidableEq, Repr, Inhabited

/-! ## 08: tiles -/

/-- A fragment that has not been blended (08 R246, R248, R250): its number in the tile, primitive sequence number, DRAW ordinal,
pixel, coverage, face, depth of each sample; late says that its depth and stencil writes wait for its final coverage, late2
that its tests wait as well (WRITES_DEPTH). block and thread once its group has been placed. -/
structure Frag where
  id : Nat
  seq : Nat
  draw : Nat
  x : Nat
  y : Nat
  cover : Nat
  back : Bool
  zs : List Nat
  late : Bool := false
  late2 : Bool := false
  block : Nat := 0
  thread : Nat := 32
  deriving DecidableEq, Repr, Inhabited

/-- A lane of a fragment group: its fragment (none for a helper), sequence number, pixel, coverage and first register contents. -/
structure FLane where
  frag : Option Nat
  seq : Nat
  x : Nat
  y : Nat
  cover : Nat
  regs : List (Nat × Nat)
  deriving DecidableEq, Repr, Inhabited

/-- A fragment group that waits for its core: DRAW ordinal, quadrant of a split tile, lanes. -/
structure FGroup where
  draw : Nat
  quadrant : Nat
  lanes : List FLane
  deriving DecidableEq, Repr, Inhabited

/-- A record of a tile in primitive order (07 R206): its sequence number, primitive record, DRAW ordinal. -/
structure TRec where
  seq : Nat
  prim : List Byte
  draw : Nat
  deriving DecidableEq, Repr, Inhabited

/-- A tile in a raster unit (08 R242 to R258). runs are the folio lines it occupies, as (first, count), which hold its attachments one
after another in the order of R253. A saved tile keeps them in data, and in bad the numbers of its lines whose check mismatches. -/
structure RTile where
  pass : Nat
  tile : Nat
  runs : List (Nat × Nat)
  data : List Byte := []
  bad : List Nat := []
  recs : List TRec
  frags : List Frag := []
  nextFrag : Nat := 0
  groups : List FGroup := []
  cores : List (Option Nat) := [none, none, none, none]
  split : Bool := false
  /-- Its attachments have been written. -/
  written : Bool := false
  final : Bool
  pre : PrePhase := .none
  deriving DecidableEq, Repr, Inhabited

/-! ## 09: reuse -/

/-- A reuse slot beside its register (09 R274): context and ASID it is bound to, the recorded surface, the pass that holds it,
and an INVALIDATE that waits for that pass (function, first, last). -/
structure TruSlot where
  bound : Option (Nat × Nat) := none
  recorded : Option Surface := none
  recordedAt : Nat := 0
  held : Option Nat := none
  waiting : Option (Nat × Nat × Nat) := none
  deriving DecidableEq, Repr, Inhabited

/-- What SECDED finds in a reuse entry that is read (R273). -/
inductive TruEcc where
  | clean | corrected | uncorrectable
  deriving DecidableEq, Repr, Inhabited

/-- The Collator, the raster units and the tile reuse unit beside their registers. -/
structure Gfx where
  /-- Open passes by pass record, 0 to 7. -/
  passes : Tbl Pass := []
  /-- PASS_SERIAL of the next pass. -/
  serial : Nat := 1
  /-- Tiles held, keyed cluster * 16 + slot; keys from 256 on are tiles saved under 03 R84, whose saved blocks name that key
  as cluster and slot. -/
  tiles : Tbl RTile := []
  /-- Version counters by object index; absent means 0. -/
  versions : Tbl Nat := []
  slots : Tbl TruSlot := []
  /-- Valid reuse entries, keyed slot * 8192 + tile. -/
  reuse : Tbl Nat := []
  deriving DecidableEq, Repr, Inhabited

end Sys2Proof.Machine
end

