-- ==== Sys2Proof/Machine/TypesSeq.lean ====
section
/-!
DEFINITION. Machine/TypesSeq.lean: plain data of the sequence serving unit and the ring engine (10).
-/

namespace Sys2Proof.Machine

/-- The states of a slot (10 R291) beside FREE, which is an index without an entry. -/
inductive SlotState where
  | prefill | decode
  /-- HELD, with the state held before. -/
  | held (decode : Bool)
  | leaving | ended
  deriving DecidableEq, Repr, Inhabited

/-- How far the release of a slot's pages has come (10 R293). -/
inductive RelPhase where
  | none
  /-- Step 2: the invalidation has not been acknowledged. -/
  | waiting
  deriving DecidableEq, Repr, Inhabited

/-- A slot (10 R288 to R292). pages: mapped pages of the window, by page index, with their addresses. -/
structure Slot where
  gen : Nat
  fn : Nat
  ctx : Nat
  asid : Nat
  prompt : Nat
  promptLen : Nat
  maxTokens : Nat
  out : Nat
  kvBase : Nat
  kvLeaf : Nat
  kvPages : Nat
  kvUnit : Nat
  ring : Bool
  keep : Bool
  stop0 : Nat
  stop1 : Nat
  stream : Nat
  state : SlotState := .prefill
  reason : Nat := 0
  kvWait : Bool := false
  pos : Nat := 0
  generated : Nat := 0
  pages : Tbl Nat := []
  /-- A CANCEL or HOLD waits for the harvest of the running batch (R301). -/
  cancel : Bool := false
  hold : Bool := false
  rel : RelPhase := .none
  /-- RELEASE has been accepted and waits for the release of the pages. -/
  freeing : Bool := false
  deriving DecidableEq, Repr, Inhabited

/-- A row of a batch (10 R297). -/
structure SeqRow where
  slot : Nat
  pos : Nat
  count : Nat
  last : Bool
  decode : Bool
  deriving DecidableEq, Repr, Inhabited

/-- An event of a harvest that has not been written (10 R300): slot handle, GENERATED, KIND, REASON. -/
structure SeqEvent where
  handle : Nat
  generated : Nat
  kind : Nat
  reason : Nat
  deriving DecidableEq, Repr, Inhabited

/-- Where a SEQ_STEP stands. -/
inductive SeqStage where
  | forming
  | running (launch : Nat)
  | harvesting
  deriving DecidableEq, Repr, Inhabited

/-- A running SEQ_STEP (10 R295), keyed by its task. batch: SEQ_BATCH as it stood at the check. -/
structure SeqRun where
  q : Nat
  seq : Nat
  fn : Nat
  ctx : Nat
  asid : Nat
  /-- The queue as it stood when the step started. -/
  home : Queue
  ring : Bool
  batch : Nat
  left : Nat
  stage : SeqStage := .forming
  rows : List SeqRow := []
  events : List SeqEvent := []
  /-- An event of this harvest has been written. -/
  wrote : Bool := false
  deriving DecidableEq, Repr, Inhabited

/-- An entry of the exchange table (10 R307). -/
structure RingExch where
  send : Nat
  recv0 : Nat
  recv1 : Nat
  len : Nat
  cap : Nat
  signal : Nat
  progress : Nat
  tag : Nat
  deriving DecidableEq, Repr, Inhabited

/-- The ring engine during a ring step (10 R306 to R311). txEx, txHop: the next hop to transmit; txBusy: its messages have not
all left the port. rxEx, rxHop: the hop being received, with the bytes and messages received of its block; lens: length of
each block received, by exchange * 16 + hop. -/
structure Ring where
  task : Nat
  fn : Nat
  ctx : Nat
  asid : Nat
  n : Nat
  pos : Nat
  exch : List RingExch
  txEx : Nat := 0
  txHop : Nat := 1
  txBusy : Bool := false
  rxEx : Nat := 0
  rxHop : Nat := 1
  rxOpen : Bool := false
  rxIndex : Nat := 0
  rxBytes : Nat := 0
  lens : Tbl Nat := []
  /-- PROGRESS of each exchange as last read. -/
  progress : Tbl Nat := []
  /-- Time base value of the start of the exchanges, or of the last message. -/
  heard : Nat := 0
  failed : Option Status := none
  deriving DecidableEq, Repr, Inhabited

/-- The sequence serving unit beside its registers. -/
structure Seq where
  slots : Tbl Slot := []
  /-- Generation of each slot index; absent means 1. -/
  gens : Tbl Nat := []
  /-- Join order of each function: slot indices, first joined first. -/
  order : Tbl (List Nat) := []
  /-- Slot index taken by an ADMIT whose descriptor read is outstanding, per function. -/
  admitting : Tbl Nat := []
  runs : Tbl SeqRun := []
  /-- Steps formed per function since a die-level reset (R297). -/
  steps : Tbl Nat := []
  ring : Option Ring := none
  /-- Ring messages that have arrived whole at port 1 on VC 0, and ABORT messages on VC 1, oldest first. -/
  inbox : List (List Byte) := []
  aborts : List (List Byte) := []
  deriving DecidableEq, Repr, Inhabited

end Sys2Proof.Machine
end

