-- ==== Sys2Proof/Machine/TypesDsp.lean ====
section
/-!
DEFINITION. Machine/TypesDsp.lean: plain data of the display compositor (15).
-/

namespace Sys2Proof.Machine

/-- A layer line in a pipe's buffer (15 R448): its row of the rectangle, and the pixel ranges [lo, hi) that lines with a
mismatching check supply (13 R389). -/
structure FetchedLine where
  y : Nat
  bad : List (Nat × Nat) := []
  deriving DecidableEq, Repr, Inhabited

/-- The active values of a pipe's shadow registers, taken at a latch point (15 R447), and its fetch of the frame: the next row
to fetch, the complete rows in its buffer, and the row from which its pixels are transparent (R449). stream is none while the
pipe is detached. wrote: ADDR or META has been written since the last commit that covered the pipe. -/
structure Pipe where
  stream : Option Nat := none
  ctl : Nat := 0
  dst : Nat := 0
  addr : Nat := 0
  src : Nat := 0
  pitch : Nat := 0
  alpha : Nat := 0xFFFF
  meta_ : Nat := 0
  buf : Nat := 0
  next : Nat := 0
  lines : List FetchedLine := []
  wrote : Bool := false
  deriving DecidableEq, Repr, Inhabited

/-- A stream (15 R431, R445 to R451): active values of its shadow registers, the timestamp of the pending commit, the next
active line of the frame, composited lines that wait for writeback, and what replaces its pixels. -/
structure Stream where
  ctl : Nat := 0
  lum : Nat := 0
  bg : Nat := 0
  wbAddr : Nat := 0
  wbCtl : Nat := 0
  /-- Timestamp of the pending commit. -/
  committed : Option Nat := none
  /-- Timestamps of the last commit that was cancelled and of its CANCEL. -/
  cancelled : Option (Nat × Nat) := none
  line : Nat := 0
  wbLines : List (Nat × Nat × List Byte) := []
  /-- The frame's remaining writeback lines are skipped. -/
  wbSkip : Bool := false
  /-- WB_ADDR has been written since the last commit. -/
  wbWrote : Bool := false
  /-- The output has been held and no commit has been latched since (R451, 13 R412). -/
  shroud : Bool := false
  /-- Clusters recovered since the last latch point (13 R399). -/
  lost : List Nat := []
  deriving DecidableEq, Repr, Inhabited

/-- An AUX transaction (15 R437): operation, address, length, DEFER replies so far. -/
structure AuxRun where
  op : Nat
  addr : Nat
  len : Nat
  defers : Nat := 0
  deriving DecidableEq, Repr, Inhabited

/-- What firmware chooses for a DSP_MODE_SET (15 R453): output, stream, values of the registers it writes, how many banks it hands to the
output, and whether the link trains at last. -/
structure ModeSet where
  output : Nat
  stream : Nat
  outCtl : Nat
  asid : Nat
  timingH : Nat
  timingV : Nat
  rate : Nat
  link : Nat
  ctl : Nat
  lum : Nat
  banks : Nat
  trained : Bool
  deriving DecidableEq, Repr, Inhabited

/-- The compositor and the outputs beside their registers. -/
structure Dsp where
  streams : Tbl Stream := []
  pipes : Tbl Pipe := []
  aux : Tbl AuxRun := []
  deriving DecidableEq, Repr, Inhabited

/-- What COMMAND_START works on: a queue, or a launch. -/
inductive StartOf where
  | queue (i : Nat)
  | launch (l : Nat)
  deriving DecidableEq, Repr, Inhabited

/-- Where a TEX takes its level of detail from (R262). -/
inductive TexLod where
  /-- From the quad, or from gradients: the spec states no formula, so the level and the probes are free (log 16). -/
  | derived
  /-- An explicit level in a vector register. -/
  | level (r : Nat)
  deriving DecidableEq, Repr, Inhabited

end Sys2Proof.Machine
end

