-- ==== Sys2Proof/Syntax.lean ====
section
/-!
DEFINITION. Syntax.lean: the commands of the block, one constructor per row of the opcode table, each with the row's mnemonic, its rule and
its summary. The table gives operands no bits; they are the numbers and bytes that the row's rule names: f a function, i a queue or a
slot, t a started command, l a graph launch, p a pass, a pipe or a port, core and pipe a shader core and one of its four issue pipes, c and b
a cluster and a bank, c and sl a cluster and a tile slot, d a power domain, v the value written, steps the steps that the work took. What the
spec leaves to the outside of the block (an answer of the host, a sensor reading, a verified signature) is an operand too.
-/

namespace Sys2Proof

open Machine

/-- The commands. -/
inductive Instr where
  -- Registers, the rate and the time base (00, 01)
  /-- REGISTER_WRITE (R11): A BAR0 write to a register field that has no row of its own sets the field under its access code. -/
  | registerWrite (f off width value : Nat) (lost : Bool)
  /-- RATE_MONITOR_WINDOW (R21): At the end of each 1 µs window the rate monitor reports the slowest replica's handshake count. -/
  | rateMonitorWindow (rate : Nat)
  /-- HIF_RATE_MIN_READ (R26): A read of HIF_RATE_MIN returns the lowest window rate since the last read and clears it. -/
  | hifRateMinRead (f off width : Nat)
  /-- AON_PLL_LOCK_LOST (R25): The AON PLL loses lock; the time base continues from the backup oscillator, SOURCE and LOCK_LOST are set and
  a record is raised. -/
  | aonPllLockLost
  /-- AON_PLL_LOCK_REGAINED (R25): The AON PLL regains lock and SOURCE returns to 0 with the counter continuing. -/
  | aonPllLockRegained
  -- Front end: queues, doorbells, entries, objects (02)
  /-- FE_PART_WRITE (R35): A write to FE_PART sets a function's queue, object and context ranges unless a range check discards it. -/
  | fePartWrite (f v : Nat)
  /-- QUEUE_CREATE (R39): FE_QCMD CREATE sets BUSY, takes the lowest free queue index and reads the queue descriptor. -/
  | queueCreate (f : Nat)
  /-- QUEUE_DESCRIPTOR_READ_DONE (R40): The queue descriptor read returns; CREATE checks it and either refuses or initialises the queue in
  IDLE and armed. -/
  | queueDescriptorReadDone (f : Nat)
  /-- QUEUE_DESTROY (R41): FE_QCMD DESTROY frees a queue in IDLE, STOPPED or KILLED and increments its generation. -/
  | queueDestroy (f : Nat)
  /-- QUEUE_RESUME (R44): FE_QCMD RESUME returns a STOPPED queue to ACTIVE with fetch at the stopped entry. -/
  | queueResume (f : Nat)
  /-- QUEUE_RESUME_SKIP (R44): FE_QCMD RESUME_SKIP finishes the stopped command and resumes fetch after it. -/
  | queueResumeSkip (f : Nat)
  /-- QCMD_UNDEFINED_OP (R42): An FE_QCMD write with an undefined OP sets FE_QRESULT.STATUS to BAD_OPCODE. -/
  | qcmdUndefinedOp (f op : Nat)
  /-- DB_WRITE_INDEX (R46): Doorbell capture accepts a write to DB_WRITE_INDEX, timestamps it and updates the shadow or stops the queue. -/
  | dbWriteIndex (f i w : Nat)
  /-- DB_FENCE_CI (R65): A write to DB_FENCE_CI frees fence ring space so that waiting fence records may be written. -/
  | dbFenceCi (f i ci : Nat)
  /-- QUEUE_ARM_SEND (R47): When the fetch index reaches the shadow the queue goes to IDLE_ARMED and ARM is sent to doorbell capture. -/
  | queueArmSend (i : Nat)
  /-- ARM_SERVE (R47): Doorbell capture serves ARM: it clears pending, marks the queue armed and returns the shadow. -/
  | armServe (i : Nat)
  /-- ARM_RETURN_COMPARE (R47): The returned shadow reaches the front end, which compares it with the fetch index and goes ACTIVE or IDLE.
  -/
  | armReturnCompare (i : Nat)
  /-- WAKE_ARRIVE (R48): A wake from doorbell capture reaches the front end and returns the queue to ACTIVE. -/
  | wakeArrive (i : Nat)
  /-- ENTRY_FETCH (R49): The front end begins fetching the next ring entry of an ACTIVE queue. -/
  | entryFetch (i : Nat)
  /-- OBJECT_CACHE_MISS_READ_DONE (R60): A read of an object-table entry or object header returns for an entry being checked. -/
  | objectCacheMissReadDone (i : Nat) (st : Status)
  /-- INDIRECT_ARGS_READ_DONE (R53): The arguments of an indirect DRAW or DISPATCH return and are checked as if they stood in the entry. -/
  | indirectArgsReadDone (t : Nat)
  /-- COMMAND_START (R73): A checked command starts once its engine class has room and ordering allows. -/
  | commandStart (x : StartOf)
  /-- COMMAND_FINISH (R62): The last item of a started command completes and the command counts as finished. -/
  | commandFinish (t : Nat)
  -- Entries by opcode and SUBOP (02 R54)
  /-- DRAW_NON_INDEXED (R231): A DRAW SUBOP 0 entry is checked and enters its GEOMETRY pass. -/
  | drawNonIndexed (i misses : Nat)
  /-- DRAW_INDEXED (R231): A DRAW SUBOP 1 entry is checked and enters its GEOMETRY pass reading indices. -/
  | drawIndexed (i misses : Nat)
  /-- DRAW_INDIRECT (R53): A DRAW SUBOP 2 entry is checked and reads its arguments when it starts. -/
  | drawIndirect (i misses : Nat)
  /-- BIN_PASS_BEGIN (R200): A BIN PASS_BEGIN entry opens a Collator pass after its checks. -/
  | binPassBegin (i misses : Nat)
  /-- BIN_PASS_END (R201): A BIN PASS_END entry closes the queue's pass and starts its final render or frees its records. -/
  | binPassEnd (i misses : Nat)
  /-- DISPATCH_DIRECT (R108): A DISPATCH SUBOP 0 entry launches a grid of blocks. -/
  | dispatchDirect (i misses : Nat)
  /-- DISPATCH_INDIRECT (R53): A DISPATCH SUBOP 1 entry reads its grid when it starts. -/
  | dispatchIndirect (i misses : Nat)
  /-- DISPATCH_RESIDENT (R68): A DISPATCH SUBOP 2 entry launches resident blocks that serve a RESIDENT_TARGET queue. -/
  | dispatchResident (i misses : Nat)
  /-- ACCORD_COMMAND (R173): An ACCORD entry launches its program over a grid of matrix blocks. -/
  | accordCommand (i misses : Nat)
  /-- COPY (R72): A COPY SUBOP 0 entry copies bytes between objects in 64 KiB chunks. -/
  | copy (i misses : Nat)
  /-- FILL (R52): A COPY SUBOP 1 entry fills the destination with a 32-bit pattern. -/
  | fill (i misses : Nat)
  /-- PRESS_DEFLATE_COMPRESS (R421): A PRESS SUBOP 0 entry compresses its source to a DEFLATE stream. -/
  | pressDeflateCompress (i misses : Nat)
  /-- PRESS_PF1_COMPRESS (R419): A PRESS SUBOP 1 entry compresses its source to a PF1 stream. -/
  | pressPf1Compress (i misses : Nat)
  /-- PRESS_DEFLATE_DECOMPRESS (R420): A PRESS SUBOP 2 entry decompresses a DEFLATE stream. -/
  | pressDeflateDecompress (i misses : Nat)
  /-- PRESS_PF1_DECOMPRESS (R420): A PRESS SUBOP 3 entry decompresses a PF1 stream. -/
  | pressPf1Decompress (i misses : Nat)
  /-- FENCE (R52): A FENCE entry waits for every earlier entry of its queue. -/
  | fence (i misses : Nat)
  /-- WAIT_QUEUE_SEQUENCE (R556): A WAIT SUBOP 0 entry waits until another queue's completion value reaches SEQ. -/
  | waitQueueSequence (i misses : Nat)
  /-- WAIT_MEMORY_VALUE (R556): A WAIT SUBOP 1 entry starts polling a 64-bit memory word. -/
  | waitMemoryValue (i misses : Nat)
  -- Waits, teardowns, objects and completions (02)
  /-- WAIT_POLL (R556): The poll interval of a WAIT SUBOP 1 expires and the word is read again. -/
  | waitPoll (t : Nat)
  /-- WAIT_POLL_READ_DONE (R556): A WAIT SUBOP 1 read returns; the WAIT finishes if the value is at least VALUE or faults. -/
  | waitPollReadDone (t : Nat)
  /-- WAIT_TIMEOUT (R52): A WAIT's TIMEOUT_US expires and the command ends with WATCHDOG. -/
  | waitTimeout (t : Nat)
  /-- GRAPH_LAUNCH (R98): A GRAPH_LAUNCH entry takes a version and a launch record and readies the root nodes. -/
  | graphLaunch (i misses : Nat)
  /-- SEQ_STEP (R295): A SEQ_STEP entry runs formations, launches and harvests for its context's slots. -/
  | seqStep (i misses : Nat)
  /-- QUERY_CONTEXT_UTIL (R69): A QUERY SUBOP 0 entry writes a context's engine-busy counters. -/
  | queryContextUtil (i misses : Nat)
  /-- QUERY_CONTEXT_MEMORY (R557): A QUERY SUBOP 1 entry writes a context's memory and fence counts. -/
  | queryContextMemory (i misses : Nat)
  /-- QUERY_TIMESTAMP (R69): A QUERY SUBOP 2 entry writes the time base. -/
  | queryTimestamp (i misses : Nat)
  /-- QUERY_QUEUE_STATE (R69): A QUERY SUBOP 3 entry writes a queue's SEQ, state and fence index. -/
  | queryQueueState (i misses : Nat)
  /-- CONTEXT_TEARDOWN_KILL (R71): A CONTEXT_TEARDOWN SUBOP 0 entry moves the context's queues to KILL and begins teardown. -/
  | contextTeardownKill (i misses : Nat)
  /-- CONTEXT_TEARDOWN_DRAIN (R71): A CONTEXT_TEARDOWN SUBOP 1 entry moves the context's queues to DRAIN and begins teardown. -/
  | contextTeardownDrain (i misses : Nat)
  /-- DRAIN_TIMEOUT (R71): DRAIN_TIMEOUT_US expires and the context's draining queues go to KILL. -/
  | drainTimeout (c : Nat)
  /-- TEARDOWN_PREEMPT_DONE (R71): The context's in-flight work has been pre-empted and discarded; teardown signals fences and issues
  invalidations. -/
  | teardownPreemptDone (c : Nat)
  /-- TEARDOWN_QUARANTINE_END (R71): All invalidation acknowledgements have arrived; queues go to KILLED, records are rewritten and
  quarantine ends. -/
  | teardownQuarantineEnd (c : Nat)
  /-- OBJECT_CREATE (R555): FE_OBJ_CMD CREATE checks the object registers and allocates the lowest free object index. -/
  | objectCreate (f : Nat) (rsvd : Bool)
  /-- OBJECT_DESTROY (R58): FE_OBJ_CMD DESTROY frees the named object and increments its generation. -/
  | objectDestroy (f : Nat) (rsvd : Bool)
  /-- OBJ_CMD_UNDEFINED_OP (R555): An FE_OBJ_CMD write with an undefined OP reports BAD_OPCODE. -/
  | objCmdUndefinedOp (f op : Nat)
  /-- COMPLETION_WRITE (R63): The completion-write arbiter writes a run's completion record, fence records and interrupts. -/
  | completionWrite (i : Nat)
  -- Placement and pre-emption (03)
  /-- ITEM_PLACE (R74): An engine with room takes the highest-ranked ready item and places it on the lowest qualifying core. -/
  | itemPlace (e : Eng)
  /-- PREEMPT_GRACE_EXPIRY (R84): GRACE expires and the block or tile is saved as it stands. -/
  | preemptGraceExpiry (x : PreTarget)
  /-- PREEMPT_SAVE_DONE (R84): A pre-empted item's state has been saved and its resources are released. -/
  | preemptSaveDone (x : PreTarget)
  /-- SCH_DISCARD (R82): A firmware write to SCH_DISCARD discards a started command, which finishes with PREEMPTED_DISCARDED. -/
  | schDiscard (h n : Nat)
  /-- DEADLINE_BUDGET_EXPIRY (R83): A class 1 or 2 group reaches SCH_DL_BUDGET and is ended, its command finishing with WATCHDOG. -/
  | deadlineBudgetExpiry (core slot : Nat)
  -- Stored graphs and interference (03)
  /-- GRAPH_PUBLISH (R91): SCH_GCMD PUBLISH starts reading and checking a graph to make map 0 current. -/
  | graphPublish (f : Nat)
  /-- GRAPH_PATCH (R92): SCH_GCMD PATCH starts copying staged node records into a new version. -/
  | graphPatch (f : Nat)
  /-- GCMD_UNDEFINED_OP (R90): An SCH_GCMD write with an undefined OP reports BAD_OPCODE. -/
  | gcmdUndefinedOp (f op : Nat)
  /-- GRAPH_OP_COMPLETE (R552): PUBLISH or PATCH takes effect in one graph-arbiter step as BUSY returns to 0. -/
  | graphOpComplete (f : Nat)
  /-- GRAPH_NODE_FINISH (R99): A graph node finishes and its successors' counters are decremented. -/
  | graphNodeFinish (l n : Nat)
  /-- INTERFERENCE_WINDOW_END (R103): At the end of each 1 ms window the scheduler forms BUSY, BLOCKED, SLOWDOWN and AGGRESSOR per context.
  -/
  | interferenceWindowEnd
  -- Shader cores (04)
  /-- GROUP_ISSUE (R119): A pipe issues one cohort of a ready group for an instruction without a row of its own. -/
  | groupIssue (core pipe ecc : Nat) (x : SIns)
  /-- EXIT (R121): A thread executes EXIT; a group or block whose last thread exits releases its resources. -/
  | exit (core pipe steps : Nat)
  /-- TRAP (R136): A thread executes TRAP and the group is fault-parked with GROUP_TRAP. -/
  | trap (core pipe : Nat)
  /-- MEMORY_ACCESS_RETURN (R122): A load, store or atomic's line requests complete for a cohort. -/
  | memoryAccessReturn (core slot n ecc : Nat) (refetch : Bool)
  /-- BAR_WAIT (R125): A thread arrives at barrier b and blocks until the instance completes. -/
  | barWait (core pipe n : Nat)
  /-- BARRIER_MISMATCH_DETECT (R127): Every live thread waits at different barrier instances; the block's waiting groups are parked with
  BARRIER_MISMATCH. -/
  | barrierMismatchDetect (b : Nat)
  /-- BARRIER_TIMEOUT (R128): A barrier instance stays open for BAR_TIMEOUT x 1,024 steps and its waiting groups park with WATCHDOG. -/
  | barrierTimeout (b n : Nat)
  /-- ACCORD_INSTRUCTION (R129): A cohort issues ACCORD, sending a descriptor to the bound engine. -/
  | accordInstruction (core pipe dst d : Nat)
  /-- ACC_WAIT (R130): Threads block until the token's accord instruction completes and then receive its outcome. -/
  | accWait (core pipe dst src : Nat)
  /-- ACC_LOAD_FRAG (R131): Once every live thread stands at it, lines move from a folio tile to vector registers. -/
  | accLoadFrag (core pipe d a n : Nat)
  /-- ACC_STORE_FRAG (R131): Once every live thread stands at it, vector registers move to a folio tile. -/
  | accStoreFrag (core pipe d a n : Nat)
  /-- MATRIX_DIVERGENCE_DETECT (R131): A group that cannot reconverge at a fragment instruction is parked with MATRIX_DIVERGENCE. -/
  | matrixDivergenceDetect (core slot : Nat)
  /-- ACC_INFO (R165): ACC_INFO returns the bound engine and banks and clears LOST for the group. -/
  | accInfo (core pipe d : Nat)
  /-- ACC_ARG (R173): ACC_ARG returns a word of the ACCORD launch record. -/
  | accArg (core pipe d n : Nat)
  /-- QWAIT (R133): QWAIT returns the queue's shadow or blocks until a doorbell changes it. -/
  | qwait (core pipe d q ix : Nat)
  /-- QWAIT_WAKE (R134): A doorbell's wake reaches the cores and unblocks groups waiting on the queue. -/
  | qwaitWake (q : Nat)
  /-- QCOMPLETE (R135): QCOMPLETE writes a resident queue's completion SEQ and may raise its vector. -/
  | qcomplete (core pipe q n flags : Nat)
  /-- FSTAT (R179): FSTAT returns and clears a thread's sticky floating-point flags. -/
  | fstat (core pipe d : Nat)
  /-- TEX (R262): TEX samples an image through its sampler descriptor and writes four channels. -/
  | tex (core pipe d c im sm : Nat) (lod : TexLod)
  /-- DISCARD (R248): A fragment thread ends with coverage 0. -/
  | discard (core pipe steps : Nat)
  /-- ST_ORDERED (R251): An ordered image store takes effect after lower-sequence stores at the same pixel. -/
  | stOrdered (core pipe n addr src : Nat)
  /-- RU_PROBE (R280): RU_PROBE folds a region's carry checks into a signature and compares it with the reuse entry. -/
  | ruProbe (core pipe r d : Nat) (ecc : TruEcc)
  /-- RU_COMMIT (R281): RU_COMMIT writes a signature to a compute reuse entry and sets VALID. -/
  | ruCommit (core pipe d : Nat)
  /-- SC_REPLAY_REPLAY (R140): SC_REPLAY REPLAY re-executes a parked group's faulting instruction. -/
  | scReplayReplay (f id gen : Nat)
  /-- SC_REPLAY_CONTINUE (R140): SC_REPLAY CONTINUE resumes a parked group after its faulting instruction. -/
  | scReplayContinue (f id gen : Nat)
  /-- SC_REPLAY_ABORT (R140): SC_REPLAY ABORT ends a parked group's command with the recorded status. -/
  | scReplayAbort (f id gen : Nat)
  /-- SC_REPLAY_CONTEXT (R140): SC_REPLAY REPLAY_CONTEXT replays every translation-faulted group of a context. -/
  | scReplayContext (f ctx : Nat)
  /-- SC_REPLAY_UNDEFINED_OP (R140): An SC_REPLAY write with an undefined OP reports BAD_OPCODE. -/
  | scReplayUndefinedOp (f op : Nat)
  /-- SHADER_ECC_UNCORRECTABLE (R116): An uncorrectable register-file or local-memory error raises a core-level state fault. -/
  | shaderEccUncorrectable (core : Nat)
  -- Accord engines (05)
  /-- ACCORD_DESCRIPTOR_ARRIVE (R154): A descriptor reaches the engine, is checked and is accepted with a token or parks the group. -/
  | accordDescriptorArrive (e : Nat)
  /-- MMA_START (R155): The array starts the next accepted MMA once ordering against the mover allows. -/
  | mmaStart (e : Nat)
  /-- MMA_COMPLETE (R166): An MMA finishes writing its C tile and its completion reaches the waiters. -/
  | mmaComplete (e ecc : Nat)
  /-- MOVER_START (R155): The mover starts the next accepted LOAD or STORE once ordering allows. -/
  | moverStart (e : Nat)
  /-- MOVER_COMPLETE (R160): A LOAD or STORE has moved all its lines. -/
  | moverComplete (e : Nat)
  /-- ACCUMULATOR_ECC_ERROR (R172): An uncorrectable accumulator error raises a core-level state fault. -/
  | accumulatorEccError (e : Nat)
  -- Geometry and Collator (06, 07)
  /-- CONTROL_BLOCK_READ_DONE (R200): A ROUTE or BLOCK PASS_BEGIN's control block returns and is checked. -/
  | controlBlockReadDone (p : Nat)
  /-- GEOMETRY_STAGE_BATCH (R232): The geometry stage takes a batch of primitives and shades their positions in position groups. -/
  | geometryStageBatch
  /-- GEOMETRY_BATCH_ADMIT (R210): The Collator admits a GEOMETRY batch's primitives and writes their list records. -/
  | geometryBatchAdmit (steps : Nat)
  /-- FLUSH_TILES_STORED (R211): The last flushed tile is stored; the lists are reset, the main region freed and admission resumes. -/
  | flushTilesStored (p : Nat)
  /-- ROUTE_BATCH (R216): The Collator lists a batch of 64 tokens' choices into expert lists. -/
  | routeBatch (steps : Nat)
  /-- BLOCK_BATCH (R221): The Collator tests one query tile against 64 key blocks and lists allowed pairs. -/
  | blockBatch (steps : Nat)
  /-- PASS_END_FINISH (R201): Every tile of a GEOMETRY pass is stored and its PASS_BEGIN, DRAWs and PASS_END finish. -/
  | passEndFinish (p : Nat)
  -- Raster (08)
  /-- TILE_HANDOUT (R242): A tile is handed to a raster unit with a free tile slot and initialised. -/
  | tileHandout
  /-- TILE_RECORD_RUN (R246): The raster unit processes a run of records, resolving visibility and launching fragment groups. -/
  | tileRecordRun (c sl : Nat)
  /-- FRAGMENT_OUTPUT_BLEND (R250): A fragment output is blended once every earlier-sequenced output at its samples has been applied. -/
  | fragmentOutputBlend (c sl : Nat)
  /-- TILE_WRITE_OUT (R252): A tile's last record is processed and each attachment is written out compressed. -/
  | tileWriteOut (c sl : Nat)
  /-- TILE_WRITE_OUT_ACCEPTED (R252): The tile's last line is accepted by the level-2 cache and its slot is freed. -/
  | tileWriteOutAccepted (c sl steps : Nat)
  -- Tile reuse (09)
  /-- TRU_BUMP (R285): TRU_CMD BUMP increments an object's version counter. -/
  | truBump (f : Nat)
  /-- TRU_INVALIDATE (R285): TRU_CMD INVALIDATE clears a range of a slot's entries, waiting if a pass holds the slot. -/
  | truInvalidate (f : Nat)
  /-- TRU_CMD_UNDEFINED_OP (R285): A TRU_CMD write with an undefined OP reports BAD_OPCODE. -/
  | truCmdUndefinedOp (f op : Nat)
  /-- TRU_SLOT_CFG_WRITE (R274): A TRU_SLOT_CFG write that changes MODE or FUNCTION unbinds the slot and clears its entries. -/
  | truSlotCfgWrite (sl v : Nat)
  /-- LOAD_TERM_READ_DONE (R276): A tile's load-term metadata and checks have been read. -/
  | loadTermReadDone (p : Nat)
  /-- REUSE_TILE_LOOKUP (R276): At PASS_END the TRU compares one tile's signature with its entry and chooses KEPT, COPIED or shading. -/
  | reuseTileLookup (p : Nat) (ecc : TruEcc)
  /-- REUSE_TILE_COPY (R277): A raster unit copies a matching tile's stored lines from the recorded surface. -/
  | reuseTileCopy (c p : Nat)
  -- Sequence serving and the ring (10)
  /-- SEQ_ADMIT (R290): SEQ_SCMD ADMIT takes the lowest free slot and reads the slot descriptor. -/
  | seqAdmit (f : Nat)
  /-- SEQ_ADMIT_READ_DONE (R290): The slot descriptor returns; ADMIT checks it and puts the slot in PREFILL or refuses. -/
  | seqAdmitReadDone (f : Nat)
  /-- SEQ_CANCEL (R301): SEQ_SCMD CANCEL moves a slot to LEAVING with reason CANCELLED. -/
  | seqCancel (f : Nat)
  /-- SEQ_HOLD (R301): SEQ_SCMD HOLD moves a PREFILL or DECODE slot to HELD. -/
  | seqHold (f : Nat)
  /-- SEQ_RESUME (R301): SEQ_SCMD RESUME returns a HELD slot to its former state at the end of the join order. -/
  | seqResume (f : Nat)
  /-- SEQ_RELEASE (R301): SEQ_SCMD RELEASE returns an ENDED slot to FREE. -/
  | seqRelease (f : Nat)
  /-- SEQ_ADD_PAGES (R301): SEQ_SCMD ADD_PAGES raises the KV pool's TOP. -/
  | seqAddPages (f : Nat)
  /-- SEQ_REMOVE_PAGES (R301): SEQ_SCMD REMOVE_PAGES lowers the KV pool's TOP. -/
  | seqRemovePages (f : Nat)
  /-- SEQ_SCMD_UNDEFINED_OP (R312): An SEQ_SCMD write with an undefined OP reports BAD_OPCODE. -/
  | seqScmdUndefinedOp (f op : Nat)
  /-- SEQ_KV_POOL_WRITE (R312): A write to SEQ_KV_POOL names the pool object unless TOP or mapped pages forbid it. -/
  | seqKvPoolWrite (f v : Nat)
  /-- SEQ_FORMATION (R296): A formation builds a batch from candidate slots, maps KV pages, writes the step record and launches the graph.
  -/
  | seqFormation (t : Nat)
  /-- SEQ_HARVEST (R299): The step's launch finishes and each row's token is appended and end conditions tested. -/
  | seqHarvest (t : Nat)
  /-- SEQ_EVT_CI (R300): A write to SEQ_EVT_CI frees event ring space so that a waiting harvest continues. -/
  | seqEvtCi (f v : Nat)
  /-- SLOT_PAGE_RELEASE (R293): A leaving slot's leaf entries are written not present and their range invalidated. -/
  | slotPageRelease (i : Nat)
  /-- SLOT_RELEASE_ACKS_DONE (R293): All acknowledgements of a slot release have arrived and its pages are pushed on the pool. -/
  | slotReleaseAcksDone (i : Nat)
  /-- SEQ_RING_CFG_WRITE (R475): A write to SEQ_RING_CFG sets the ring configuration and sends IDENT on UP ports, unless discarded. -/
  | seqRingCfgWrite (v : Nat)
  /-- RING_HOP_TRANSMIT (R308): The ring engine starts transmitting a hop's block once its conditions hold. -/
  | ringHopTransmit
  /-- RING_MESSAGE_RECEIVE (R309): A ring message arrives, is checked and written to the receive buffer; ARRIVED follows the last one. -/
  | ringMessageReceive
  /-- RING_PROGRESS_POLL (R308): Every 256 steps the engine rereads PROGRESS while a condition is unmet. -/
  | ringProgressPoll
  /-- RING_ABORT_RECEIVE (R310): An ABORT message arrives and fails the exchange with its STATUS. -/
  | ringAbortReceive
  /-- RING_WATCHDOG_EXPIRY (R311): No ring message arrived for MS ms while a receive was outstanding. -/
  | ringWatchdogExpiry
  -- Level-2 cache and HBM (11)
  /-- L2_REQUEST_LOOKUP (R326): A level-2 slice looks up a request, hitting or allocating a miss register. -/
  | l2RequestLookup (r : L2Req) (e : L2Err)
  /-- L2_MISS_FILL (R320): A miss's line returns from HBM, is verified and answers every merged request. -/
  | l2MissFill (la : Nat) (rep : HbmReport)
  /-- HBM_REFRESH (R321): A stack's refresh interval elapses and a refresh is issued or postponed. -/
  | hbmRefresh (k : Nat)
  /-- HBM_SELF_REFRESH_ENTRY (R322): A stack idle for SR_IDLE_US enters self-refresh. -/
  | hbmSelfRefreshEntry (k : Nat)
  /-- HBM_SELF_REFRESH_EXIT (R322): An access to a stack in self-refresh makes it exit. -/
  | hbmSelfRefreshExit (k : Nat)
  /-- L2_INVALIDATE_DONE (R332): A slice's 4,096-step invalidation completes and waiting requests proceed. -/
  | l2InvalidateDone (slice : Nat)
  /-- L2_MAINT_CLEAN (R333): L2_MAINT_CMD CLEAN writes back dirty lines of its scope. -/
  | l2MaintClean (scope : Nat)
  /-- L2_MAINT_INVALIDATE (R333): L2_MAINT_CMD INVALIDATE discards every line of its scope. -/
  | l2MaintInvalidate (scope : Nat)
  /-- L2_MAINT_CLEAN_INVALIDATE (R333): L2_MAINT_CMD CLEAN_INVALIDATE writes back and discards every line of its scope. -/
  | l2MaintCleanInvalidate (scope : Nat)
  /-- L2_MAINT_UNDEFINED_OP (R334): An L2_MAINT_CMD with OP 0 or SCOPE 3 fails with BAD_OPCODE. -/
  | l2MaintUndefinedOp (op scope : Nat)
  /-- L2_MAINT_DONE (R333): Every line written back by a maintenance operation has been accepted. -/
  | l2MaintDone
  -- Folio banks (11)
  /-- FOL_BANK_WRITE (R340): A FOL_BANK write starts, cancels or refuses a hand-over, or applies PSTATE. -/
  | folBankWrite (c b v : Nat)
  /-- FOL_HANDOVER_DRAINED (R341): The old owner has drained, and scrub, power-up and ownership change follow. -/
  | folHandoverDrained (c b : Nat)
  /-- FOL_HANDOVER_COMPLETE (R341): OWNER takes the new code and PENDING clears. -/
  | folHandoverComplete (c b : Nat)
  /-- FOL_WINDOW_WRITE (R337): A host write through the plain FOL window writes a bank word or loses a collision. -/
  | folWindowWrite (off v : Nat) (wide lost : Bool)
  /-- FOL_SET_ALIAS_WRITE (R338): A write through the set alias ORs data into a bank word. -/
  | folSetAliasWrite (off v : Nat) (wide lost : Bool)
  /-- FOL_CLEAR_ALIAS_WRITE (R338): A write through the clear alias ANDs NOT data into a bank word. -/
  | folClearAliasWrite (off v : Nat) (wide lost : Bool)
  -- Arbiters (11)
  /-- ARBITER_GRANT (R345): An arbiter moves its grant to the next requester by round robin. -/
  | arbiterGrant (kind inst : Nat) (asks : List Ask)
  /-- ARBITER_REVOKE (R348): The compositor's fetch port revokes a grant and is granted in its place. -/
  | arbiterRevoke (kind inst unit beats : Nat)
  /-- ARBITER_WATCHDOG (R349): A grant held 2^20 steps while another waits is withdrawn and the holder's unit is reset. -/
  | arbiterWatchdog (kind inst : Nat)
  -- Address translation (12)
  /-- TRANSLATION_LOOKUP (R365): A micro-cache or translation-cache lookup translates a request or starts a walk. -/
  | translationLookup (r : XReq) (micro tc : List Nat)
  /-- WALK_READ_DONE (R360): A walk read returns and the walk continues, completes or faults. -/
  | walkReadDone (n : Nat) (error : Bool)
  /-- FAULT_BATCH_CLOSE (R370): A fault batch closes at its 64th entry or 20 µs; PI advances and the vector is sent. -/
  | faultBatchClose (f : Nat)
  /-- ATS_TRANSLATION_COMPLETION (R363): An ATS Translation Completion returns and the access proceeds translated or faults. -/
  | atsTranslationCompletion (f page : Nat) (ok : Bool) (out : Nat) (p : Perm)
  /-- ATS_INVALIDATION_REQUEST (R364): An ATS Invalidation Request enters the invalidation arbiter. -/
  | atsInvalidationRequest (f start len tag : Nat)
  /-- XLT_INV_RANGE (R373): XLT_INV_CMD RANGE invalidates translations of an ASID range. -/
  | xltInvRange (f asid : Nat)
  /-- XLT_INV_TAG (R375): XLT_INV_CMD TAG clears every entry of an ASID at once. -/
  | xltInvTag (f asid : Nat)
  /-- XLT_INV_VM_ALL (R373): XLT_INV_CMD VM_ALL invalidates every entry of a VM. -/
  | xltInvVmAll (f vm : Nat)
  /-- XLT_INV_UNDEFINED_OP (R382): An XLT_INV_CMD write with an undefined OP reports BAD_OPCODE. -/
  | xltInvUndefinedOp (f : Nat)
  /-- INVALIDATION_GRANT (R374): An invalidation wins the arbiter, is broadcast and swept. -/
  | invalidationGrant (n : Nat)
  /-- INVALIDATION_ENGINE_ACK (R374): An engine has drained and acknowledges; the last acknowledgement posts the result. -/
  | invalidationEngineAck (e : Nat)
  /-- XLT_VM_CFG_WRITE (R382): A write changing S2_EN or S2_ROOT performs VM_ALL for the VM. -/
  | xltVmCfgWrite (v value : Nat)
  -- Integrity, faults and fail-safe (13)
  /-- FAULT_RECORD_ACCEPT (R406): The recovery sequencer accepts a fault record, classifies it and starts recovery or escalation. -/
  | faultRecordAccept (stuck : Option Nat) (dead : List Nat)
  /-- DIE_RECOVERY_FE_TIMEOUT (R400): Step 2 of die recovery has not ended 65,536 steps after it began and is abandoned with FE_LOST. -/
  | dieRecoveryFeTimeout
  /-- RECOVERY_COMPLETE (R401): A recovery completes and a RECOVERY_DONE record is written. -/
  | recoveryComplete (n : Nat)
  /-- RECOVERY_WINDOW_EXPIRY (R402): A recovery's window ends before it completes and fail-safe is entered with OVERRUN. -/
  | recoveryWindowExpiry (n : Nat)
  /-- FAULT_WINDOW_EXPIRY (R404): The 1 s fault window ends and its count no longer applies. -/
  | faultWindowExpiry
  /-- INT_FAILSAFE_FORCE (R408): A write of FORCE enters fail-safe with cause HOST. -/
  | intFailsafeForce
  /-- INT_RECOVER_PACKAGE (R411): A PF write of PACKAGE during fail-safe starts package-level recovery. -/
  | intRecoverPackage
  /-- AUTO_PACKAGE_EXPIRY (R411): AUTO_PACKAGE_MS elapses after fail-safe entry and package-level recovery starts. -/
  | autoPackageExpiry
  /-- INT_HOLD_WRITE (R412): A PF write clears output holds after package recovery. -/
  | intHoldWrite (v : Nat)
  /-- INT_INJECT_WRITE (R413): An accepted INT_INJECT write acts as a fault detected by the named unit. -/
  | intInjectWrite (v : Nat)
  -- Press (14)
  /-- PRESS_COMPRESS_SLICE (R426): The compressor processes one 64 KiB slice of a command or ring message. -/
  | pressCompressSlice (t steps : Nat)
  /-- PRESS_DECOMPRESS_SLICE (R426): The decompressor processes one slice of a command or ring message. -/
  | pressDecompressSlice (t limit steps : Nat)
  -- Display (15)
  /-- DSP_COMMIT (R445): DSP_COMMIT COMMIT checks a stream's shadow registers and sets PENDING. -/
  | dspCommit (x : Nat)
  /-- DSP_COMMIT_CANCEL (R445): DSP_COMMIT CANCEL clears a pending commit. -/
  | dspCommitCancel (x : Nat)
  /-- LATCH_POINT (R447): At a stream's latch point a pending commit takes effect, is carried or dropped. -/
  | latchPoint (x : Nat)
  /-- PIPE_LINE_FETCH (R448): An attached pipe fetches its next layer line, with revocation when running short. -/
  | pipeLineFetch (p : Nat)
  /-- SCANOUT_LINE (R448): The compositor composites and sends a line, counting underruns. -/
  | scanoutLine (x : Nat)
  /-- WRITEBACK_LINE (R450): A composited line is written back to memory, or the frame's writeback is skipped. -/
  | writebackLine (x : Nat)
  /-- HPD_PLUG (R436): HPD rises and an enabled output starts TRAINING. -/
  | hpdPlug (n : Nat)
  /-- HPD_UNPLUG (R436): HPD falls for an unplug and an ACTIVE output goes to LINK_LOST. -/
  | hpdUnplug (n : Nat)
  /-- HPD_IRQ_PULSE (R436): An HPD IRQ pulse is received and may report lost lock. -/
  | hpdIrqPulse (n : Nat) (lost : Bool)
  /-- DSP_OUT_CTL_WRITE (R436): A write to DSP_OUT_CTL enables or disables the link. -/
  | dspOutCtlWrite (n v : Nat)
  /-- LINK_TRAINING_DONE (R436): Link training succeeds to ACTIVE or fails to DISABLED with TRAIN_FAIL. -/
  | linkTrainingDone (n : Nat) (ok : Bool)
  /-- AUX_NATIVE_READ (R437): DSP_AUX_CMD native read starts an AUX transaction. -/
  | auxNativeRead (n addr len : Nat)
  /-- AUX_NATIVE_WRITE (R437): DSP_AUX_CMD native write starts an AUX transaction. -/
  | auxNativeWrite (n addr len : Nat)
  /-- AUX_I2C_READ (R437): DSP_AUX_CMD I2C read starts an AUX transaction. -/
  | auxI2cRead (n addr len : Nat)
  /-- AUX_I2C_WRITE (R437): DSP_AUX_CMD I2C write starts an AUX transaction. -/
  | auxI2cWrite (n addr len : Nat)
  /-- AUX_REPLY (R437): An AUX reply arrives; DEFER is retried up to 7 times. -/
  | auxReply (n reply : Nat) (data : List Byte) (count : Nat)
  /-- AUX_TIMEOUT (R437): No AUX reply arrives in time and TIMEOUT is reported. -/
  | auxTimeout (n : Nat)
  -- Host interface (16)
  /-- BAR2_READ (R458): A host read through BAR2 is served through the level-2 cache or refused. -/
  | bar2Read (f o n : Nat)
  /-- BAR2_WRITE (R458): A host write through BAR2 is stored, compared with the graph table, or discarded. -/
  | bar2Write (f o : Nat) (data : List (Option Byte))
  /-- DEVICE_READ_COMPLETION (R459): A completion, error or timeout ends a device read of host memory. -/
  | deviceReadCompletion (l : Nat) (e : Option AerError)
  /-- MSIX_PENDING_SEND (R460): A pending vector's message is sent once it is unmasked and enabled. -/
  | msixPendingSend (f v : Nat)
  /-- PCIE_CONFIG_REQUEST (R536): A configuration request is answered, with Request Retry Status until the identity is settled. -/
  | pcieConfigRequest (f : Nat) (r : CfgReq)
  /-- RESIZABLE_BAR_CONTROL_WRITE (R457): A Resizable BAR Control write resizes BAR2 unless Memory Space Enable is set. -/
  | resizableBarControlWrite (vf : Bool) (log2 : Nat)
  /-- L0P_WINDOW (R462): A 100 µs window ends and the device may request a narrower L0p width. -/
  | l0pWindow (up down : Nat) (granted : Bool)
  /-- L1_IDLE_EXPIRY (R462): L1_IDLE_US of idleness elapses and the device requests ASPM L1. -/
  | l1IdleExpiry (granted : Bool)
  /-- WAKE_EVENT (R521): A wake event is arbitrated at the AON wake arbiter and acts on PCIe and Sillage. -/
  | wakeEvent (code detail : Nat)
  /-- VF_FLR (R464): An FLR of a VF tears down its contexts and frees its resources. -/
  | vfFlr (f : Nat)
  /-- VF_ENABLE_CLEAR (R464): Clearing VF Enable performs an FLR of every existing VF. -/
  | vfEnableClear
  /-- PF_FLR (R465): An FLR of the PF resets every VF and performs die-level recovery steps. -/
  | pfFlr
  /-- HIF_VF_WIN_WRITE (R482): A write to HIF_VF_WIN sets a VF's BAR2 window unless a check discards it. -/
  | hifVfWinWrite (f v : Nat)
  -- Uaper (16)
  /-- UAP_FLIT_RECEIVE (R472): A Uaper flit is received, decoded, acknowledged or NAKed and dispatched by type. -/
  | uapFlitReceive (p : Nat) (raw : List Byte)
  /-- UAP_FLIT_TRANSMIT (R467): A port transmits a flit when it has credit and replay room. -/
  | uapFlitTransmit (p : Nat)
  /-- UAP_REPLAY_TIMER (R472): 2 µs pass without acknowledgement and the sender replays. -/
  | uapReplayTimer (p : Nat)
  /-- UAP_TRAINING_COMPLETE (R474): Training or RECOVERY completes and the port enters UP or fails. -/
  | uapTrainingComplete (p : Nat) (ok reversed : Bool) (polarity : Nat)
  /-- UAP_CTL_EN_WRITE (R473): A write of EN starts training or takes the port DOWN. -/
  | uapCtlEnWrite (p : Nat) (en : Bool)
  /-- UAP_SLEEP_REQ (R477): UAP_CTL SLEEP_REQ sends a SLEEP_REQ flit to the partner. -/
  | uapSleepReq (p : Nat)
  /-- UAP_WAKE (R478): UAP_CTL WAKE sends the wake pattern from a sleeping port. -/
  | uapWake (p : Nat)
  /-- UAP_WAKE_PATTERN_DETECT (R478): Four consecutive wake bursts on lane 0 report a wake event. -/
  | uapWakePatternDetect (p : Nat)
  -- Control Complex and mailboxes (17)
  /-- MAILBOX_SEND (R499): A sender write stores a word in an empty channel or sets OVERRUN. -/
  | mailboxSend (c word : Nat) (a : CoreAccess)
  /-- MAILBOX_RECEIVE_READ (R499): A receiver read returns the word and clears FULL. -/
  | mailboxReceiveRead (c : Nat) (a : CoreAccess)
  /-- FW_LOAD (R492): FW_LOAD on channel 0 makes the boot ROM read, hash and verify a firmware image. -/
  | fwLoad
  /-- FW_LOAD_DONE (R493): Verification ends; firmware starts or SRAM is zeroed, and the reply is posted on channel 1. -/
  | fwLoadDone
  /-- CCX_WATCHDOG_EXPIRY (R494): A CCX core's watchdog expires and the core is recovered at unit level. -/
  | ccxWatchdogExpiry (c : Nat)
  /-- CCX_SRAM_ECC_ERROR (R487): An uncorrectable SRAM error restarts every core in the boot ROM with FW_LOST. -/
  | ccxSramEccError (c : Nat) (corrected : Bool)
  /-- BASIC_COMMAND_TAKE (R502): The Monitor takes a waiting command word and reads its record. -/
  | basicCommandTake
  /-- BASIC_COMMAND_DONE (R502): The Monitor writes the command's result, DONE and the function's vector. -/
  | basicCommandDone (logs : List LogMsg)
  /-- BASIC_UNDEFINED_OPCODE (R507): An unlisted basic-level opcode ends with BAD_OPCODE. -/
  | basicUndefinedOpcode
  /-- FW_INFO (R508): FW_INFO returns the firmware version and state. -/
  | fwInfo
  /-- LOG_CONFIG (R508): LOG_CONFIG writes the log base, level and trace enables. -/
  | logConfig
  -- Basic-level commands (17 R507)
  /-- FE_POLICY (R36): FE_POLICY writes FE_PART for all functions. -/
  | fePolicy
  /-- SCH_POLICY (R106): SCH_POLICY sets and locks the scheduler registers. -/
  | schPolicy
  /-- SC_POLICY (R144): SC_POLICY writes SC_PARK_CTL of every function. -/
  | scPolicy
  /-- ACE_POLICY (R176): ACE_POLICY writes ACE_CTL. -/
  | acePolicy
  /-- COL_POLICY (R225): COL_POLICY writes COL_CTL. -/
  | colPolicy
  /-- RAS_POLICY (R266): RAS_POLICY writes RAS_CTL. -/
  | rasPolicy
  /-- TRU_POLICY (R287): TRU_POLICY writes every TRU_SLOT_CFG. -/
  | truPolicy
  /-- SEQ_POLICY (R314): SEQ_POLICY writes SEQ_PART, SEQ_BATCH and SEQ_RING_TIMEOUT. -/
  | seqPolicy
  /-- MEM_POLICY (R351): MEM_POLICY writes the stack, refresh and way-mask registers. -/
  | memPolicy
  /-- FOL_POLICY (R351): FOL_POLICY hands banks to raster units and Accord engines. -/
  | folPolicy
  /-- XLT_POLICY (R384): XLT_POLICY writes INV_MODE and fault ring settings. -/
  | xltPolicy
  /-- INT_POLICY (R414): INT_POLICY writes INT_CTL and enables record rings. -/
  | intPolicy
  /-- PRS_POLICY (R430): PRS_POLICY hands bank 15 of masked clusters to the Press. -/
  | prsPolicy
  /-- HIF_POLICY (R484): HIF_POLICY writes HIF_LINK_CTL and the VF windows. -/
  | hifPolicy
  /-- UAP_POLICY (R484): UAP_POLICY enables both ports and their interrupt. -/
  | uapPolicy
  /-- DSP_MODE_SET (R453): DSP_MODE_SET configures, trains and commits an output stream. -/
  | dspModeSet (m : ModeSet)
  /-- PWR_PROFILE (R529): PWR_PROFILE writes power limits, fan, Sillage and AUTO settings. -/
  | pwrProfile
  -- Scheduler and Liaison components (17)
  /-- SCHEDULER_PICKUP (R496): The Scheduler component takes a class 1-3 command and hands it to the scheduler on channel 4. -/
  | schedulerPickup
  /-- LIAISON_REQUEST (R497): The Liaison writes channel 5 to request fail-safe or package recovery. -/
  | liaisonRequest (v : Nat)
  -- Power (18)
  /-- POWER_LOOP_PERIOD (R523): Every 100 µs the Power component adjusts the VDD_CORE set-point. -/
  | powerLoopPeriod (logs : List LogMsg)
  /-- THERMAL_LOOP_PERIOD (R526): Every 1 ms the Thermal component sets the fan duty. -/
  | thermalLoopPeriod (warn fanFault : Bool) (logs : List LogMsg)
  /-- VDD_FAST_TRIP (R524): A 1 µs window with current above ICC_MAX lowers the set-point by 25 mV. -/
  | vddFastTrip (amps : Nat)
  /-- TELEMETRY_WINDOW (R525): Each 1 µs window replaces the telemetry values. -/
  | telemetryWindow (power current mv tj : Nat) (temps : List Nat) (tach : Nat)
  /-- PWR_LIMIT_WRITE (R528): A host write to PWR_LIMIT or PWR_FAN takes effect only before firmware runs. -/
  | pwrLimitWrite (fan : Bool) (v : Nat)
  /-- PWR_DOM_CTL_WRITE (R514): A TARGET or AUTO write requests, holds, cancels or refuses a domain transition. -/
  | pwrDomCtlWrite (d v : Nat)
  /-- DOMAIN_QUIESCED (R512): A domain's quiesce condition holds and its down transition proceeds. -/
  | domainQuiesced (d : Nat)
  /-- DOMAIN_DOWN_DONE (R513): A down transition ends and NOW takes RETENTION or OFF. -/
  | domainDownDone (d : Nat)
  /-- POWER_GOOD_RISE (R513): Power-good rises and the domain's initialisation runs. -/
  | powerGoodRise (d : Nat)
  /-- POWER_GOOD_TIMEOUT (R515): Power-good fails to rise; the domain stays OFF and a POWER_GOOD record is written. -/
  | powerGoodTimeout (d : Nat)
  /-- DOMAIN_UP_DONE (R513): An up transition ends and NOW becomes ON. -/
  | domainUpDone (d : Nat)
  /-- POWER_GOOD_LOST (R394): Power-good is lost from an ON domain, a state fault at cluster or die level. -/
  | powerGoodLost (d : Nat)
  /-- AUTO_IDLE_EXPIRY (R515): An AUTO domain quiet for IDLE_US goes OFF. -/
  | autoIdleExpiry (d : Nat)
  /-- PWR_PAD_RELEASE_WRITE (R516): A write releases the latched pads of an ON domain. -/
  | pwrPadReleaseWrite (v : Nat)
  /-- SILLAGE_ENTER (R519): A write of ENTER is refused or starts entry to Sillage. -/
  | sillageEnter (v : Nat)
  /-- SILLAGE_ENTRY_DONE (R519): HBM is in retention, the rail at 550 mV and cores halted; the state becomes SILLAGE. -/
  | sillageEntryDone
  /-- SILLAGE_SAMPLE (R520): At each interval the sequencer samples sensors and may wake or enter fail-safe. -/
  | sillageSample (tj stack tach : Nat) (hpd : List Nat)
  /-- WAKE_SEQUENCE_DONE (R521): The wake sequence completes and the state returns to RUN. -/
  | wakeSequenceDone
  -- Boot, pins, flash and SMBus (19)
  /-- AON_PGOOD_RISE (R534): AON_PGOOD rises; the time base restarts and the boot engine reads the image. -/
  | aonPgoodRise
  /-- IMAGE_LINK_READY (R534): IDENT and LINK pass their CRCs and LINK_READY is set. -/
  | imageLinkReady (speed width : Nat) (flit : Bool)
  /-- IMAGE_VERIFY_DONE (R535): The image checks and signature settle a valid image or the recovery identity. -/
  | imageVerifyDone (flashErr : Bool) (speed width : Nat) (flit : Bool)
  /-- PERST_N_ASSERT (R539): PERST_N asserted performs package-level reset. -/
  | perstNAssert
  /-- PERST_N_DEASSERT (R536): PERST_N deasserted lets PCIe training start once LINK_READY is set. -/
  | perstNDeassert (speed width : Nat) (flit : Bool)
  /-- CORE_PGOOD_RISE (R540): CORE_PGOOD rises and the reset domains go ON. -/
  | corePgoodRise
  /-- CORE_PGOOD_FALL (R540): CORE_PGOOD falls with AON_PGOOD high and fail-safe is entered with SUPPLY. -/
  | corePgoodFall
  /-- SUPPLY_OUT_OF_RANGE (R408): VDD_CORE at the die leaves 0.55-0.90 V and fail-safe is entered with SUPPLY. -/
  | supplyOutOfRange (mv : Nat)
  /-- JUNCTION_OVER_TEMPERATURE (R408): A junction sensor above 105 °C enters fail-safe with TEMPERATURE. -/
  | junctionOverTemperature (t : Nat)
  /-- THERMTRIP_ASSERT (R547): A sensor at or above its trip point asserts THERMTRIP_N until AON power is removed. -/
  | thermtripAssert (tj stack : Nat)
  /-- FLASH_READ (R542): BOOT_FLASH_CMD READ copies flash pages into the window. -/
  | flashRead (count : Nat)
  /-- FLASH_PROGRAM (R542): BOOT_FLASH_CMD PROGRAM writes window pages to flash. -/
  | flashProgram (count : Nat)
  /-- FLASH_ERASE (R542): BOOT_FLASH_CMD ERASE erases 64 KiB of flash. -/
  | flashErase
  /-- FLASH_UNDEFINED_OP (R542): A BOOT_FLASH_CMD with OP other than 1-3 fails with BAD_OPCODE. -/
  | flashUndefinedOp (op : Nat)
  /-- FLASH_OP_DONE (R542): The flash reports a page program, erase or read finished or failed. -/
  | flashOpDone (fail : Bool)
  /-- FLASH_OP_TIMEOUT (R542): A page program exceeds 5 ms or an erase 2 s and the operation ends with WATCHDOG. -/
  | flashOpTimeout
  /-- BOOT_FUSE_REVOKE_WRITE (R541): A W1S write to REVOKED blows key-slot revocation fuses. -/
  | bootFuseRevokeWrite (mask : Nat)
  /-- SMBUS_MAILBOX_WRITE (R543): SMBus command 0x06 stores a word on channel 6 or is NACKed. -/
  | smbusMailboxWrite (bytes : List Byte)
  /-- SMBUS_MAILBOX_READ (R543): SMBus command 0x07 returns channel 7's word and clears FULL. -/
  | smbusMailboxRead
  /-- SMBUS_TELEMETRY_READ (R543): SMBus command 0x10 returns PWR_TELEM. -/
  | smbusTelemetryRead
  /-- SMBUS_BOOT_STATUS_READ (R543): SMBus command 0x11 returns the high byte of BOOT_STATUS. -/
  | smbusBootStatusRead
  /-- AON_PGOOD_FALL (R545): A fall of AON_PGOOD is an AON power-off that loses everything, time base and image settings included. -/
  | aonPgoodFall
  -- Copy engines (02)
  /-- COPY_CHUNK_DONE (R72): A copy engine finishes one 64 KiB chunk of a COPY or fill, reaching its pre-emption point and freeing the
  engine for the next item. -/
  | copyChunkDone (t i steps : Nat)
  deriving DecidableEq, Repr

end Sys2Proof
end

