-- ==== Sys2Proof/Decode.lean ====
section
/-!
DEFINITION. Decode.lean: the block has no instruction decoder, and no row of the opcode table has bits.
-/

namespace Sys2Proof

/-- The command that a word spells by the table's bits: the table gives no row any, so no word spells one. -/
def decodeTableWord (_nbits _w : Nat) : Option Instr := none

end Sys2Proof
end

