-- ==== Sys2Proof/Machine/State.lean ====
section
/-!
DEFINITION. Machine/State.lean: the state of the block.
-/

namespace Sys2Proof.Machine

/-- Everything the spec gives the block, as plain data. -/
structure State where
  /-- The commands that wait, first in, first out. -/
  pending : List Instr := []
  /-- The time base, in ns (01 R24, HIF_TIME). -/
  time : Nat := 0
  /-- The model's own: the number of the next free value (log 2). -/
  freeCtr : Nat := 0
  /-- The register file of BAR0: a copy of a register that is not listed holds its reset value (Reg.reset). -/
  regs : Tbl W64 := []
  /-- Host memory as the device's requests see it; an unlisted byte reads 0 (log 3). -/
  hostMem : List Host.Cell := []
  /-- Fault records, recoveries, the fault window (13). -/
  int : IntState := {}
  /-- HBM, the level-2 cache, folio memory, arbiters (11). -/
  mem : Mem := {}
  /-- The PCIe side: MSI-X tables, configuration space, what has been sent (16). -/
  hif : Hif := {}
  /-- The Uaper ports' link layers (16). -/
  ports : Tbl Port := []
  /-- The Control Complex: channels, SRAM, firmware (17). -/
  ccx : Ccx := {}
  /-- The power sequencer (18). -/
  pwr : Pwr := {}
  /-- Boot, flash, fuses and pins (19). -/
  boot : Boot := {}
  /-- Translation: caches, walks, invalidations, graph ranges (12). -/
  xlt : Xlt := {}
  /-- Queues, objects, contexts, started commands, launches (02, 03). -/
  fe : Fe := {}
  /-- Blocks, thread groups, engines, parked groups (04, 05). -/
  sc : Sc := {}
  /-- Passes, tiles, reuse table (06 to 09). -/
  gfx : Gfx := {}
  /-- Sequence slots, steps and the ring (10). -/
  seq : Seq := {}
  /-- The compositor's pipes, streams and AUX transactions (15). -/
  dsp : Dsp := {}
  /-- Interference sums by window, numbered in ms, then by context; and the last completed window (03 R102, R103). -/
  intf : Tbl (Tbl Intf) := []
  intfDone : Option IntfDone := none
  deriving DecidableEq, Repr

/-- Reasons for which a run stops. -/
inductive Fault where
  /-- Raised by no command: the spec gives each an effect. Safe. -/
  | unreachable
  deriving DecidableEq, Repr

/-- Reasons for which the model refuses a command. -/
inductive Refusal where
  /-- A command without a meaning; no arm of exec is one. Safe. -/
  | notModelled (mnemonic : String)
  deriving DecidableEq, Repr

/-- What a command answers. -/
abbrev Out := Host.Outcome State Fault Refusal

/-- The state right after the AON power-on reset with the supplies good and PERST_N high, before the image is settled (19 R539, log 6):
every table is empty, and every register holds its reset value. -/
def State.reset : State := {}

end Sys2Proof.Machine
end

