-- ==== Sys2Proof/Machine/Ops.lean ====
section
/-!
DEFINITION. Machine/Ops.lean: the named operations every chapter uses: registers and their fields, status codes, free
values, host memory, MSI-X vectors, fault records, power domains, fail-safe.
-/

namespace Sys2Proof.Machine

/-! ### Status codes (00 R13) -/

/-- The code of each status. -/
def Status.code : Status → Nat
  | .ok => 0x00 | .abandoned => 0x01 | .preemptedDiscarded => 0x02
  | .badOpcode => 0x10 | .lengthRange => 0x11 | .lengthExceedsObject => 0x12
  | .staleHandle => 0x13 | .badAlignment => 0x14
  | .translationFault => 0x20 | .permission => 0x21
  | .integrityMismatch => 0x30 | .uncorrectableEcc => 0x31
  | .barrierMismatch => 0x40 | .matrixDivergence => 0x41 | .groupTrap => 0x42
  | .watchdog => 0x50 | .domainOff => 0x51 | .collide => 0x52
  | .decompressCheck => 0x60 | .outputOverflowUnchained => 0x61

/-- Every status of the table. -/
def Status.table : List Status :=
  [.ok, .abandoned, .preemptedDiscarded, .badOpcode, .lengthRange, .lengthExceedsObject, .staleHandle,
   .badAlignment, .translationFault, .permission, .integrityMismatch, .uncorrectableEcc, .barrierMismatch,
   .matrixDivergence, .groupTrap, .watchdog, .domainOff, .collide, .decompressCheck, .outputOverflowUnchained]

/-- The status with a code, none for a code absent from R13. -/
def Status.ofCode (c : Nat) : Option Status := Status.table.find? (fun s => Status.code s = c)

/-! ### Registers -/

/-- Domains that are ON after reset: FEX, L2Q0 to L2Q3, HBM0 to HBM3 (18 R510). -/
def resetOn (d : Nat) : Bool := d = 41 ∨ (32 ≤ d ∧ d ≤ 39)

/-- The reset value of copy (w, i) of a register: the fields' reset values, and those that depend on the copy, the domain
or the fuses. -/
def Reg.reset (r : Reg) (w i : Nat) : Nat :=
  let base := (Reg.fields r).foldl (fun v f => v + f.reset <<< f.lo) 0
  match r with
  | .FE_PART => if i = 0 then 256 <<< 42 + 256 <<< 25 + 256 <<< 8 else 0
  | .SEQ_PART => if i = 0 then 256 <<< 8 else 0
  | .PWR_DOM_CTL => if resetOn i then 0 else 2 <<< 29 + 2
  | .BOOT_FUSE => Config.fuseVendor.toNat <<< 48 + Config.fuseProgrammed.toNat <<< 4 + Config.fuseRevoked.toNat
  | .HIF_FUNC => (if w = 0 then 0 else 16) + w
  | _ => base

/-- The value copy (w, i) of a register holds. No register has a copy beyond 16 windows or 64 elements. -/
def rget (s : State) (r : Reg) (w : Nat := 0) (i : Nat := 0) : Nat :=
  if 16 ≤ w ∨ 64 ≤ i then r.reset w i else
  match tget s.regs (r.key w i) with
  | some v => v.toNat
  | none => r.reset w i

/-- The state with copy (w, i) of a register holding v; a copy at its reset value is not listed. -/
def rset (s : State) (r : Reg) (v : Nat) (w : Nat := 0) (i : Nat := 0) : State :=
  if 16 ≤ w ∨ 64 ≤ i then s else
  let v := v % 2 ^ 64
  { s with regs := if v = r.reset w i then tdel s.regs (r.key w i)
                   else tset s.regs (r.key w i) (BitVec.ofNat 64 v) }

/-- A field's value. -/
def fget (s : State) (f : Fld) (w : Nat := 0) (i : Nat := 0) : Nat := bits (rget s f.reg w i) f.hi f.lo

/-- A one-bit field as a truth value. -/
def flag (s : State) (f : Fld) (w : Nat := 0) (i : Nat := 0) : Bool := fget s f w i = 1

/-- The state with a field set. -/
def fset (s : State) (f : Fld) (v : Nat) (w : Nat := 0) (i : Nat := 0) : State :=
  rset s f.reg (setBits (rget s f.reg w i) f.hi f.lo v) w i

/-- A counting field goes up by n and stays at all ones. -/
def fcount (s : State) (f : Fld) (w : Nat := 0) (i : Nat := 0) (n : Nat := 1) : State :=
  fset s f (Nat.min (fget s f w i + n) (2 ^ (f.hi + 1 - f.lo) - 1)) w i

/-- The mask of the bits of r whose access code satisfies p. -/
def Reg.mask (r : Reg) (p : Access → Bool) : Nat :=
  (Reg.fields r).foldl (fun m f => if p f.acc then m + (2 ^ (f.hi + 1 - f.lo) - 1) <<< f.lo else m) 0

/-- Bits of v outside m. -/
def without (v m : Nat) : Nat := v - (v &&& m)

/-- What a write of v to the bits in words leaves in a register that held old (R9, R10, R11): RW and WO bits take v, a 1
clears a W1C bit and sets a W1S bit, RO and RC bits stay. -/
def Reg.written (r : Reg) (old v words : Nat) : Nat :=
  let rw := r.mask (fun a => a = .rw ∨ a = .wo) &&& words
  let c := r.mask (· = .w1c) &&& words
  let s1 := r.mask (· = .w1s) &&& words
  (without (without old rw) (v &&& c)) ||| (v &&& rw) ||| (v &&& s1)

/-- The bits of a register that a read returns: WO fields and fields named RSVD read as zero (R10, R11). -/
def Reg.readMask (r : Reg) : Nat :=
  (Reg.fields r).foldl (fun m f => if f.rsvd ∨ f.acc = .wo then m else m + (2 ^ (f.hi + 1 - f.lo) - 1) <<< f.lo) 0

/-- The state after a read of the bits in words of a register: RC fields are cleared (R11), and after HIF_RATE_MIN the next window is
the first (01 R26). -/
def readClears (s : State) (r : Reg) (w : Nat := 0) (i : Nat := 0) (words : Nat := 2 ^ 64 - 1) : State :=
  let s := if r = .HIF_RATE_MIN then { s with hif := { s.hif with rateSeen := false } } else s
  rset s r (without (rget s r w i) (r.mask (· = .rc) &&& words)) w i

/-! ### Free values -/

/-- The next free value below n (0 where n is 0), and the state with it used up. -/
def takeFree (s : State) (n : Nat) : Nat × State :=
  (Config.free s.freeCtr % n, { s with freeCtr := s.freeCtr + 1 })

/-! ### Interference windows (03 R102, R103) -/

/-- The 1 ms window that holds the time base value of this step: half-open, from a multiple of 1 ms (01 R27, R29, R30). -/
def intfWindow (s : State) : Nat := s.time / 1000000

/-- Changes what a context has summed up in the window that holds this step. -/
def onIntf (s : State) (c : Nat) (f : Intf → Intf) : State :=
  { s with intf := tmod s.intf (intfWindow s) [] fun t => tmod t c {} f }

/-! ### Power domains and fail-safe -/

/-- NOW of a domain: 0 ON, 1 RETENTION, 2 OFF (18 R527). -/
def domNow (s : State) (d : Nat) : Nat := fget s F.PWR_DOM_CTL.NOW 0 d

/-- The domain is ON. -/
def domOn (s : State) (d : Nat) : Bool := domNow s d = 0

/-- A domain takes new work: it is ON and no transition is requested (18 R512). -/
def domOpen (s : State) (d : Nat) : Bool := domOn s d ∧ fget s F.PWR_DOM_CTL.PENDING 0 d = 0

/-- The device is in fail-safe (13 R408). -/
def failsafe (s : State) : Bool := flag s F.INT_FAILSAFE.ACTIVE

/-- The device has taken the recovery identity (19 R537). -/
def recoveryId (s : State) : Bool := fget s F.BOOT_STATUS.RESULT = 2

/-- What an event does, while the AON domain is powered: after a fall of AON_PGOOD nothing happens but what the pins do
(19 R545). -/
def powered (s t : State) : Out := .next (if s.boot.aonPgood then t else s)

/-- Firmware is RUNNING (17 R490). -/
def fwRunning (s : State) : Bool := fget s F.CCX_FW_STATE.STATE = 2

/-! ### Units and recoveries (13 R391 to R403) -/

/-- The containment chain of a unit, lowest level first, as (level, target) (13 R392): targets are the unit number for levels
3 and 4, the cluster for level 5, 0 for the die. -/
def chainOf (u : Nat) : List (Nat × Nat) :=
  let b := u % 4096
  if b < 0x80 then [(3, u), (4, b), (5, b / 8), (6, 0)]
  else if b < 0xC0 then [(3, u), (4, b), (5, (b - 0x80) / 4), (6, 0)]
  else if b < 0xE0 then [(3, b), (5, b % 16), (6, 0)]
  else [(3, u), (6, 0)]

/-- The target of a recovery contains the unit. -/
def Recovery.holds (r : Recovery) (u : Nat) : Bool := (r.level, r.target) ∈ chainOf u

/-- The unit is under recovery: it accepts nothing until the recovery completes (13 R396). -/
def recovering (s : State) (u : Nat) : Bool := s.int.recoveries.any fun r => r.running && r.holds u

/-- A die recovery runs. -/
def dieRunning (s : State) : Bool := s.int.recoveries.any fun r => r.running && decide (r.level = 6)

/-! ### Host memory and what is sent -/

/-- n bytes of host memory. -/
def hostRead (s : State) (a n : Nat) : List Byte := mread 0 s.hostMem a n

/-- The PCIe link is back in L0, or in L0p where fewer than its negotiated lanes are active. -/
def linkWake (s : State) : State :=
  fset s F.HIF_LINK.LSTATE (if fget s F.HIF_LINK.ACTIVE < fget s F.HIF_LINK.WIDTH then 1 else 0)

/-- The device sends a request with n bytes of data (16 R462): a link in L1 or a substate exits it first, and a link in L0p goes back to
its full width at the request that finds more than 4 KiB waiting. What is sent at one moment waits together (log 80). -/
def linkSend (s : State) (n : Nat) : State :=
  match fget s F.HIF_LINK.LSTATE with
  | 1 =>
    let w := (if s.hif.waiting.1 = s.time then s.hif.waiting.2 else 0) + n
    let s := { s with hif := { s.hif with waiting := (s.time, w) } }
    if 4096 < w then linkWake (fset s F.HIF_LINK.ACTIVE (fget s F.HIF_LINK.WIDTH)) else s
  | 2 | 3 | 4 => linkWake s
  | _ => s

/-- Host memory with the bytes written. In fail-safe no write of the device takes effect (13 R409, R410). -/
def hostWrite (s : State) (a : Nat) (bs : List Byte) : State :=
  if failsafe s then s else
    let s := linkSend s bs.length
    { s with hostMem := mwrite 0 s.hostMem a bs }

/-- The message is sent. -/
def send (s : State) (m : OutMsg) : State := { s with hif := { s.hif with sent := s.hif.sent ++ [m] } }

/-- Configuration of a function. -/
def fnCfg (s : State) (f : Nat) : FnCfg := tgetD s.hif.cfg f {}

/-- The function exists: the PF, or a VF within NumVFs while VF Enable is 1 (16 R456). -/
def fnExists (s : State) (f : Nat) : Bool := f = 0 ∨ (s.hif.vfEnable ∧ 1 ≤ f ∧ f ≤ s.hif.numVFs)

/-- The vectors of a function: 2,048 for the PF, 128 for a VF (16 R460). -/
def vectorCount (f : Nat) : Nat := if f = 0 then 2048 else 128

/-- Vector v of function f may be sent now. -/
def msixOpen (s : State) (f v : Nat) : Bool :=
  (fnCfg s f).msixEnable ∧ ¬ (fnCfg s f).fnMask ∧ ¬ (tgetD s.hif.msix (f * 2048 + v) {}).masked

/-- A vector is raised (16 R460): sent, or its pending bit set while it is masked or MSI-X is off; a vector raised while
pending sends nothing more. Nothing is sent in fail-safe (13 R410). -/
def msixRaise (s : State) (f v : Nat) : State :=
  if failsafe s ∨ recoveryId s then s
  else if vectorCount f ≤ v then s
  else if msixOpen s f v ∧ (f * 2048 + v) ∉ s.hif.pba then send (linkSend s 4) (.msix f v)
  else { s with hif := { s.hif with pba := nins s.hif.pba (f * 2048 + v) } }

/-! ### Fault records -/

/-- A unit raises a fault record (13 R405, R406): it waits for the sequencer, whose queue holds 256, with the time base value of this
step (R27). -/
def raise (s : State) (r : FaultRec) : State :=
  { s with int := { s.int with waiting := s.int.waiting ++
      [{ r with time := s.time, lost := decide (256 ≤ s.int.waiting.countP fun x => !x.lost) }] } }

/-- A record of 13 R554 that names neither context nor function. -/
def raiseBare (s : State) (unit : Nat) (st : Status) (level : Nat) (d : Detail) : State :=
  raise s { time := 0, unit := unit, status := st, level := level, context := none, function := none, detail := d }

/-- A record of a unit that names a context and its function and starts no recovery. -/
def raiseFor (s : State) (unit : Nat) (st : Status) (ctx fn : Nat) (d : Detail) : State :=
  raise s { time := 0, unit := unit, status := st, level := 0, context := some ctx, function := some fn, detail := d }

/-- A carry-check mismatch is counted (13 R413 INT_MISMATCH). -/
def countMismatch (s : State) : State := fcount s F.INT_MISMATCH.COUNT

end Sys2Proof.Machine
end

