-- ==== Sys2Proof/Machine/Mbox.lean ====
section
/-!
DEFINITION. Machine/Mbox.lean: what every family shares with the Control Complex and the power sequencer: the mailbox
channels (17 R498 to R501), power-domain demands (18 R513 to R515), and the gate every register write passes
(13 R410, 18 R511).
-/

namespace Sys2Proof.Machine

/-! ### Gates -/

/-- The register lies in the HIF or the INT block, which fail-safe leaves reachable (13 R410). -/
def Reg.inFailsafe (r : Reg) : Bool := r.place.base / 2 ^ 20 = 0 ∨ r.place.base / 2 ^ 20 = 15

/-- The register lies in the HIF or the BOOT block, all that BAR0 maps under the recovery identity (19 R537). -/
def Reg.inRecoveryId (r : Reg) : Bool := r.place.base / 2 ^ 20 = 0 ∨ r.place.base / 2 ^ 20 = 0x15

/-- Copy w of the register stands in the window of a function whose FLR runs: its writes are discarded (16 R464). -/
def flrWindow (s : State) (r : Reg) (w : Nat) : Bool := decide (r.place.kind ≠ .pf) && (fnCfg s w).inFlr

/-- A BAR0 write to copy (w, i) of a register: discarded in fail-safe outside HIF and INT (13 R410), under the recovery
identity outside what BAR0 then maps (19 R537, 00 R7), and while an FLR of its function runs (16 R464); discarded with
OFF_ACCESS set where the register's domain is not ON (18 R511); else k is what it does. -/
def busWrite (s : State) (r : Reg) (w i : Nat) (k : State → State) : Out :=
  if (failsafe s ∧ ¬ r.inFailsafe) ∨ (recoveryId s ∧ ¬ r.inRecoveryId) ∨ flrWindow s r w then .next s
  else match r.domain w i with
    | some d => if domOn s d then powered s (k s) else powered s (fset s F.PWR_STATUS.OFF_ACCESS 1)
    | none => powered s (k s)

/-- Registers that satisfy keep stay; every other copy returns to its reset value. -/
def keepRegs (s : State) (keep : Reg → Nat → Nat → Bool) : State :=
  { s with regs := s.regs.filter fun e => Reg.all.any fun r => decide (r.num = e.1 / 1024) && keep r (e.1 / 64 % 16) (e.1 % 64) }

/-- A step of an engine: in fail-safe and while the die recovers every engine has stopped (13 R400, R409), and the event has no
effect. -/
def engineStep (s : State) (k : State → State) : Out := if failsafe s ∨ dieRunning s then .next s else powered s (k s)

/-- A step of a unit: while the unit is under recovery, what it would take on is held and the step comes again (13 R396). -/
def unitStep (s : State) (u : Nat) (k : State → State) : Out := engineStep s fun s => if recovering s u then s else k s

/-! ### Channels -/

/-- Changes the Control Complex. -/
def onCcx (s : State) (f : Ccx → Ccx) : State := { s with ccx := f s.ccx }

/-- A channel. -/
def chan (s : State) (c : Nat) : Channel := tgetD s.ccx.channels c {}

/-- FULL and the word of a channel change, and with them the views the host has of it (17 R506). -/
def chSet (s : State) (c word : Nat) (full : Bool) (v7 : Bool) : State :=
  let s := onCcx s fun x => { x with channels := tmod x.channels c {} fun h =>
    { h with word := word, full := full, v7 := v7 } }
  if c = 0 then fset s F.MBX_TX0_STATUS.FULL (b2n full)
  else if 8 ≤ c ∧ c < 24 then fset s F.MBX_CMD_STATUS.FULL (b2n full) (c - 8)
  else fset (rset s .MBX_RX (if full then word else 0) 0 c) F.MBX_RX_STATUS.FULL (b2n full) 0 c

/-- The function that sends on a channel, where the host does. -/
def chHost (c : Nat) : Option Nat := if c = 0 then some 0 else if 8 ≤ c ∧ c < 24 then some (c - 8) else none

/-- The vector of the sender of a channel is raised, where its sender is the host and has it enabled (17 R506). -/
def chSenderIrq (s : State) (c : Nat) : State :=
  match chHost c with
  | some f => if flag s F.CCX_CMD_IRQ.EN f then msixRaise s f (fget s F.CCX_CMD_IRQ.VECTOR f) else s
  | none => s

/-- OVERRUN in the sender's status. -/
def chOverrun (s : State) (c : Nat) : State :=
  if c = 0 then chSenderIrq (fset s F.MBX_TX0_STATUS.OVERRUN 1) c
  else if 8 ≤ c ∧ c < 24 then chSenderIrq (fset s F.MBX_CMD_STATUS.OVERRUN 1 (c - 8)) c
  else onCcx s fun x => { x with channels := tmod x.channels c {} fun h => { h with overrun := true } }

/-- ABORTED in the sender's status, and its interrupt (17 R501). -/
def chAborted (s : State) (c : Nat) : State :=
  if c = 0 then chSenderIrq (fset s F.MBX_TX0_STATUS.ABORTED 1) c
  else if 8 ≤ c ∧ c < 24 then chSenderIrq (fset s F.MBX_CMD_STATUS.ABORTED 1 (c - 8)) c
  else onCcx s fun x => { x with channels := tmod x.channels c {} fun h => { h with aborted := true } }

/-- The receiver's domain is ON (17 R498). -/
def chReceiverOn (s : State) (c : Nat) : Bool := c ≠ 4 ∨ domOn s 41

/-- A sender write (17 R499 to R501). An error response to a core has no effect on the channel (R500). -/
def chSend (s : State) (c word : Nat) : State :=
  let v7 := bit (rget s .MBX_MODE) c
  if ¬ chReceiverOn s c then (if v7 then chAborted s c else s)
  else if (chan s c).full then chOverrun s c
  else
    let s := chSet s c word true v7
    if (c = 1 ∨ 24 ≤ c) ∧ flag s F.MBX_IRQ_CTL.EN then msixRaise s 0 (fget s F.MBX_IRQ_CTL.VECTOR) else s

/-- FULL falls by a receiver read; EMPTY_IRQ interrupts the sender. -/
def chEmpty (s : State) (c : Nat) : State :=
  let s := chSet s c 0 false (chan s c).v7
  let irq := match chHost c with
    | some f => if c = 0 then flag s F.MBX_TX0_STATUS.EMPTY_IRQ else flag s F.MBX_CMD_STATUS.EMPTY_IRQ f
    | none => false
  if irq then chSenderIrq s c else s

/-- A receiver read of the data: the word, 0 from an empty channel, and the state. -/
def chRead (s : State) (c : Nat) : Nat × State :=
  if (chan s c).full then ((chan s c).word, chEmpty s c) else (0, s)

/-- The receiver of a channel is reset: in compatibility mode its word is discarded (17 R501), natively it stays (R500). -/
def chReset (s : State) (c : Nat) : State :=
  if (chan s c).full ∧ (chan s c).v7 then chAborted (chSet s c 0 false true) c else s

/-- A Control Complex component runs: firmware is RUNNING and its cores are not halted. -/
def fwActive (s : State) : Bool := fwRunning s && !s.pwr.ccxHalted && !failsafe s

/-- A notice of component c (R505): sent, or kept as the newest of its EVENT while the channel is FULL. -/
def notice (s : State) (c event arg : Nat) : State :=
  if (chan s (24 + c)).full then
    onCcx s fun x => { x with notices := (x.notices.filter fun n => ¬ (n.1 = c ∧ n.2.1 = event)) ++ [(c, event, arg)] }
  else chSend s (24 + c) (event <<< 24 + arg % 2 ^ 24)

/-! ### The log ring (17 R503, R504) -/

/-- A record is written when its level is enabled, and for a trace point when its bit is set. -/
def logWanted (s : State) (m : LogMsg) : Bool :=
  let lim := fget s F.CCX_LOG_CTL.LEVEL_MAX
  flag s F.CCX_LOG_CTL.EN && (match m.point with
    | some p => decide (p < 256) && decide (lim = 3) && decide (m.component = p / 32) && bit (rget s .CCX_TRACE_EN 0 (p / 32)) (p % 32)
    | none => decide (m.component < 8 ∧ m.level ≤ lim))

/-- A record overwrites one that the host has not consumed: LOST counts it, and the Log component says so (R505). -/
def logLost (s : State) : State :=
  let s := fcount s F.CCX_LOG_CTL.LOST
  notice s 6 7 (fget s F.CCX_LOG_CTL.LOST)

/-- A record is formed and written. -/
def logWrite (s : State) (m : LogMsg) : State :=
  if ¬ logWanted s m then s else
  let pi := fget s F.CCX_LOG_PI.PI
  let ci := fget s F.CCX_LOG_CI.CI
  let b := natLe s.time 8 ++ natLe pi 4 ++ natLe m.component 1 ++ natLe (if m.point.isSome then 3 else m.level) 1
    ++ natLe (m.point.getD 0xFFFF) 2 ++ (List.range 4).flatMap fun k => natLe (m.args.getD k 0) 4
  let s := if 32768 ≤ sub32 pi ci then logLost s else s
  let s := hostWrite s (fget s F.CCX_LOG_BASE.BASE * 2 ^ 20 + 32 * (pi % 32768)) b
  let s := fset s F.CCX_LOG_PI.PI (pi + 1)
  if sub32 (pi + 1) ci = 16384 then msixRaise s 0 (fget s F.CCX_LOG_CTL.VECTOR) else s

/-- The records that a step of firmware forms, in order. -/
def logAll (s : State) (l : List LogMsg) : State := l.foldl logWrite s

/-! ### Domains -/

/-- Changes the power sequencer. -/
def onPwr (s : State) (f : Pwr → Pwr) : State := { s with pwr := f s.pwr }

/-- An up transition of a domain begins (18 R513 step 1). -/
def domUp (s : State) (d : Nat) : State :=
  onPwr (fset s F.PWR_DOM_CTL.PENDING 1 0 d) fun p => { p with phases := tset p.phases d .ramping }

/-- A demand for an AUTO domain (18 R515): it is brought ON; during a transition the demand is kept and served at its end. -/
def demand (s : State) (d : Nat) : State :=
  if ¬ flag s F.PWR_DOM_CTL.AUTO 0 d ∨ domOn s d ∧ (tget s.pwr.phases d).isNone then s
  else match tget s.pwr.phases d with
    | none => domUp s d
    | some _ => onPwr s fun p => { p with demands := nins p.demands d }

end Sys2Proof.Machine
end

