-- ==== Sys2Proof/Machine/L2.lean ====
section
/-!
DEFINITION. Machine/L2.lean: the path by which every device agent reaches device memory (11 R316 to R332): placement,
the ways of a slice, fills, victims, write-backs, and whole reads and writes of a byte range through the cache.
-/

namespace Sys2Proof.Machine

/-- First address beyond device memory (11 R316). -/
def deviceLimit : Nat := 0x2E_8000_0000

/-- Pseudo-channel of a device physical address (11 R317). -/
def paChannel (pa : Nat) : Nat :=
  let u := pa / 256
  (u % 128) ^^^ (u / 128 % 128) ^^^ (u / 16384 % 128)

/-- Offset within the pseudo-channel (11 R317). -/
def paOffset (pa : Nat) : Nat := 256 * (pa / 256 / 128) + pa % 256

/-- The line number w within the pseudo-channel (11 R318). -/
def paLine (pa : Nat) : Nat := paOffset pa / 128

/-- Offset of the carry check of a line in its pseudo-channel (11 R318). -/
def checkOffset (pa : Nat) : Nat := 0x5D00_0000 + 4 * paLine pa

/-- The stack of an address (11 R315). -/
def paStack (pa : Nat) : Nat := paChannel pa / 32

/-- The slice of an address (11 R325). -/
def paSlice (pa : Nat) : Nat := 8 * (paChannel pa / 32) + paChannel pa % 8

/-- The set of an address within its slice (11 R325). -/
def paSet (pa : Nat) : Nat := (paLine pa % 1024) ^^^ ((paChannel pa / 8 % 4) <<< 8)

/-- The key of way n of the set of a line. -/
def wayKey (pa n : Nat) : Nat := paSlice pa * 16384 + paSet pa * 16 + n

/-- The slice answers requests: its quadrant is ON (11 R332). -/
def sliceOn (s : State) (slice : Nat) : Bool := domOn s (32 + slice / 8)

/-- The stack's domain is ON (11 R322). -/
def stackOn (s : State) (stack : Nat) : Bool := domOn s (36 + stack)

/-- What the fabric and the slice answer before any lookup (11 R316, R322, R332), none where the request goes on. -/
def l2Refusal (s : State) (pa n : Nat) : Option Status :=
  if deviceLimit < pa + n then some .permission
  else if ¬ sliceOn s (paSlice pa) ∨ ¬ stackOn s (paStack pa) then some .domainOff
  else none

/-- The way that holds a line. -/
def wayOf (s : State) (la : Nat) : Option Nat :=
  (List.range 16).find? fun n =>
    match tget s.mem.ways (wayKey (la * 128) n) with
    | some l => l.la = la
    | none => false

/-- Changes the memory part of the state. -/
def onMem (s : State) (f : Mem → Mem) : State := { s with mem := f s.mem }

/-- A stack's own state. -/
def stackOf (s : State) (k : Nat) : Stack := tgetD s.mem.stackTbl k {}

/-- The pads of a stack are latched: its controller keeps it in self-refresh (18 R516). -/
def stackPads (s : State) (k : Nat) : Bool := bit (fget s F.PWR_PAD_RELEASE.HBM) k

/-- An access makes a stack leave self-refresh (11 R322). -/
def stackWake (s : State) (k : Nat) : State :=
  if (stackOf s k).selfRefresh ∧ ¬ stackPads s k then
    fset (onMem s fun m => { m with stackTbl := tset m.stackTbl k { stackOf s k with selfRefresh := false } })
      F.MEM_STACK_STATUS.STATE 0 0 k
  else s

/-- The line as HBM delivers it, with its marks (11 R323). -/
def hbmLine (s : State) (la : Nat) : Line :=
  { la := la, poisoned := la ∈ s.mem.poisoned, badCheck := la ∈ s.mem.badCheck,
    data := mread 0 s.mem.hbm (la * 128) 128 }

/-- A line is stored in HBM; a poisoned one with its check inverted, so that a later read mismatches (11 R328). -/
def hbmStore (s : State) (l : Line) : State :=
  onMem s fun m => { m with
    hbm := mwrite 0 m.hbm (l.la * 128) l.data
    badCheck := if l.poisoned ∨ l.badCheck then nins m.badCheck l.la else ndel m.badCheck l.la
    poisoned := ndel m.poisoned l.la }

/-- A dirty line is written back; it waits while its stack's domain is not ON (11 R322). -/
def writeBack (s : State) (l : Line) : State :=
  if stackOn s (paStack (l.la * 128)) then hbmStore (stackWake s (paStack (l.la * 128))) l
  else onMem s fun m => { m with parkedWb := m.parkedWb ++ [l] }

/-- An access to way n of a line's set: its age becomes 0 and the set's other ways grow older, up to 15 (11 R331). -/
def touch (s : State) (la n : Nat) : State :=
  onMem s fun m => { m with ways := (List.range 16).foldl (fun t k =>
    tupd t (wayKey (la * 128) k) fun l => { l with age := if k = n then 0 else Nat.min (l.age + 1) 15 }) m.ways }

/-- The victim way for a fill of a class: the lowest invalid way of the mask, else its oldest, the lowest on a tie
(11 R331); none where the mask is 0 (R330). -/
def victim (s : State) (cls la : Nat) : Option Nat :=
  let ways := (List.range 16).filter fun n => bit (fget s F.L2_WAYMASK.MASK 0 cls) n
  match ways.find? (fun n => (tget s.mem.ways (wayKey (la * 128) n)).isNone) with
  | some n => some n
  | none =>
    let age n := (tgetD s.mem.ways (wayKey (la * 128) n) { la := 0 }).age
    ways.find? fun n => ways.all fun k => age k ≤ age n

/-- The way of a line takes new contents; ages stay. -/
def setWay (s : State) (n : Nat) (l : Line) : State :=
  onMem s fun m => { m with ways := tset m.ways (wayKey (l.la * 128) n) l }

/-- A line takes a way of its set for a class, no age but its own changed; a dirty victim is written back first (11 R331). Where the
class allocates nothing (R330) a dirty line goes straight to memory. -/
def place (s : State) (cls : Nat) (l : Line) : State :=
  match wayOf s l.la with
  | some n => setWay s n l
  | none =>
    match victim s cls l.la with
    | none => if l.dirty then writeBack s l else s
    | some n =>
      setWay (match tget s.mem.ways (wayKey (l.la * 128) n) with
        | some old => if old.dirty then writeBack s old else s
        | none => s) n l

/-- The way of a line is accessed, where it has one. -/
def accessed (s : State) (la : Nat) : State :=
  match wayOf s la with
  | some n => touch s la n
  | none => s

/-- A line is put into the cache for a class by an access. -/
def install (s : State) (cls : Nat) (l : Line) : State := accessed (place s cls l) l.la

/-- The present copy of a line: the cache's where it holds it, else HBM's. -/
def lineNow (s : State) (la : Nat) : Line :=
  match wayOf s la with
  | some n => tgetD s.mem.ways (wayKey (la * 128) n) (hbmLine s la)
  | none => hbmLine s la

/-- The line is brought into the cache for a class, if its mask allows; ages stay. -/
def fillLine (s : State) (cls la : Nat) : State :=
  match wayOf s la with
  | some _ => s
  | none => place (stackWake s (paStack (la * 128))) cls (hbmLine s la)

/-- An access to a line brings it into the cache for a class, if its mask allows, and uses its way once (11 R331). -/
def fetchLine (s : State) (cls la : Nat) : State := accessed (fillLine s cls la) la

/-- A line that the present access has fetched takes new contents: in its way, or, where the class allocates nothing, in memory. -/
def storeLine (s : State) (l : Line) : State :=
  match wayOf s l.la with
  | some n => setWay s n l
  | none => writeBack s l

/-- What a consumer learns of a line (11 R323, R328, 13 R390): a poisoned line first, then its carry check. -/
def lineStatus (l : Line) : Status :=
  if l.poisoned then .uncorrectableEcc else if l.badCheck then .integrityMismatch else .ok

/-- The lines that [pa, pa + n) touches. -/
def linesOf (pa n : Nat) : List Nat := if n = 0 then [] else upFrom (pa / 128) ((pa + n - 1) / 128 - pa / 128 + 1)

/-- A read of n bytes through the level-2 cache: the first refusal or bad line decides the status, and the bytes are those
the lines hold. -/
def devRead (s : State) (cls pa n : Nat) : Status × List Byte × State :=
  let r := (linesOf pa n).foldl (fun (st, bs, s) la =>
    match l2Refusal s (la * 128) 128 with
    | some e => (if st = .ok then e else st, bs ++ zeros 128, s)
    | none =>
      let s := fetchLine s cls la
      let l := lineNow s la
      let e := lineStatus l
      (if st = .ok then e else st, bs ++ l.data, if e = .integrityMismatch then countMismatch s else s))
    ((if deviceLimit < pa + n then Status.permission else .ok), ([] : List Byte), s)
  (r.1, (r.2.1.drop (pa % 128)).take n, r.2.2)

/-- The bytes of the range [pa, pa + bs.length) that fall into line la, as (offset in the line, bytes). -/
def slicePart (pa : Nat) (bs : List Byte) (la : Nat) : Nat × List Byte :=
  if la * 128 ≤ pa then (pa - la * 128, bs.take (128 - (pa - la * 128)))
  else (0, (bs.drop (la * 128 - pa)).take 128)

/-- The bytes of a line that segments, as (offset, bytes), cover, as a mask. -/
def segMask (segs : List (Nat × List Byte)) : Nat := segs.foldl (fun m x => m ||| ((2 ^ x.2.length - 1) <<< x.1)) 0

/-- A line's bytes with segments in place, one after another. -/
def putSegs (data : List Byte) (segs : List (Nat × List Byte)) : List Byte := segs.foldl (fun d x => putAt d x.1 x.2) data

/-- One line of a write, in segments (11 R326): a full line is stored with the check it carries, a part is merged into the verified
line; a line that fails its check is stored poisoned and a MEMORY record is written (13 R390). bad says that the writer's line
carries a mismatching check. -/
def writeSegs (s : State) (cls la : Nat) (segs : List (Nat × List Byte)) (bad : Bool := false) : State :=
  if segMask segs = 2 ^ 128 - 1 then
    install (if (wayOf s la).isSome then s else stackWake s (paStack (la * 128))) cls
      { la := la, dirty := true, badCheck := bad, data := putSegs (zeros 128) segs }
  else
    let s := fetchLine s cls la
    let l := lineNow s la
    let merged := putSegs l.data segs
    if lineStatus l = .ok then storeLine s { l with dirty := true, badCheck := bad, data := merged }
    else
      let s := storeLine s { l with dirty := true, poisoned := true, badCheck := false, data := merged }
      let s := if l.badCheck ∧ ¬ l.poisoned then countMismatch s else s
      raiseBare s (0xE0 + paSlice (la * 128)) (lineStatus l) 0
        (.memory (la * 128) 3 0xFF (paSlice (la * 128)) 0xFF 0xFFFF 0xFFFF 0 0)

/-- One line of a write of consecutive bytes. -/
def writeLine (s : State) (cls la off : Nat) (bs : List Byte) (bad : Bool := false) : State := writeSegs s cls la [(off, bs)] bad

/-- A write through the level-2 cache, each access treated line by line; nothing is written where a line is refused or the
device is in fail-safe (13 R409). -/
def devWrite (s : State) (cls pa : Nat) (bs : List Byte) (bad : Bool := false) : Status × State :=
  if failsafe s then (.ok, s) else
  if deviceLimit < pa + bs.length then (.permission, s) else
  (linesOf pa bs.length).foldl (fun (st, s) la =>
    match l2Refusal s (la * 128) 128 with
    | some e => (if st = Status.ok then e else st, s)
    | none =>
      let p := slicePart pa bs la
      (st, writeLine s cls la p.1 p.2 bad)) (.ok, s)

/-- A device read of host memory: lines whose completion was poisoned or an error come with mismatching checks (13 R386,
16 R459), which the consumer finds. The marks are used up. -/
def hostLines (s : State) (a n : Nat) : Bool × State :=
  let s := linkSend s 0
  let hit := (linesOf a n).filter fun l => l ∈ s.hif.badReads
  if hit = [] then (false, s)
  else (true, { s with hif := { s.hif with badReads := s.hif.badReads.filter fun l => l ∉ hit } })

/-- Reads n bytes of device memory (dev) or of host memory. -/
def anyRead (s : State) (cls : Nat) (dev : Bool) (a n : Nat) : Status × List Byte × State :=
  if dev then devRead s cls a n
  else
    let h := hostLines s a n
    (if h.1 then .integrityMismatch else .ok, hostRead s a n, if h.1 then countMismatch h.2 else h.2)

/-- Writes bytes to device memory (dev) or to host memory. A line whose check mismatches leaves for host memory poisoned
(13 R389). -/
def anyWrite (s : State) (cls : Nat) (dev : Bool) (a : Nat) (bs : List Byte) (bad : Bool := false) : Status × State :=
  if dev then devWrite s cls a bs bad
  else if bad then (.integrityMismatch, send (countMismatch s) (.poisonedWrite a))
  else (.ok, hostWrite s a bs)

/-! ### Atomics at the slice (11 R326, 04 R124) -/

/-- The width of an atomic in bytes; 0 for the other operations. -/
def L2Op.width : L2Op → Nat
  | .read _ | .write _ => 0
  | .add64 _ | .xchg64 _ | .cas64 _ _ => 8
  | _ => 4

/-- The value an atomic leaves in place of old. -/
def L2Op.apply (o : L2Op) (old : Nat) : Nat :=
  match o with
  | .read _ | .write _ => old
  | .add32 v => (old + v) % 2 ^ 32
  | .add64 v => (old + v) % 2 ^ 64
  | .min32 v => Nat.min old v
  | .max32 v => Nat.max old v
  | .and32 v => old &&& v
  | .or32 v => old ||| v
  | .xor32 v => old ^^^ v
  | .xchg32 v | .xchg64 v => v
  | .cas32 c v | .cas64 c v => if old = c then v else old

/-- A line of device memory is changed by one access at its slice (11 R326): its bytes before. A line that fails its check is not
changed; in fail-safe nothing is written (13 R409). -/
def devModify (s : State) (cls la : Nat) (f : List Byte → List Byte) : Status × List Byte × State :=
  match l2Refusal s (la * 128) 128 with
  | some e => (e, zeros 128, s)
  | none =>
    let s := fetchLine s cls la
    let l := lineNow s la
    match lineStatus l with
    | .ok => (.ok, l.data, if failsafe s then s else storeLine s { l with dirty := true, badCheck := false, data := f l.data })
    | e => (e, l.data, if e = .integrityMismatch then countMismatch s else s)

/-- An atomic on device memory: the old value, and the state with the new one. -/
def devAtomic (s : State) (cls pa : Nat) (o : L2Op) : Status × Nat × State :=
  let off := pa % 128
  let r := devModify s cls (pa / 128) fun d => putAt d off (natLe (o.apply (fieldAt d off o.width)) o.width)
  (r.1, if r.1 = .ok then fieldAt r.2.1 off o.width else 0, r.2.2)

end Sys2Proof.Machine
end

