-- ==== Sys2Proof/Machine/Xlt.lean ====
section
/-!
DEFINITION. Machine/Xlt.lean: two-stage address translation (12 R352 to R384): the tables and their checks, walks read by
read and whole, the caches, the fault ring, invalidation, the graph range table; and the meanings of their commands.
-/

namespace Sys2Proof.Machine

/-- Changes the translation part of the state. -/
def onXlt (s : State) (f : Xlt → Xlt) : State := { s with xlt := f s.xlt }

/-! ### Table entries (12 R356 to R358) -/

/-- Index bits of an address at a level (12 R357). -/
def levelIndex (a level : Nat) (g64 : Bool) : Nat :=
  match level with
  | 0 => bits a 47 39
  | 1 => bits a 38 30
  | 2 => bits a 29 21
  | _ => if g64 then bits a 20 16 else bits a 20 12

/-- log2 of the bytes an entry of a level covers. -/
def levelLog2 (level : Nat) (g64 : Bool) : Nat :=
  match level with
  | 0 => 39
  | 1 => 30
  | 2 => 21
  | _ => if g64 then 16 else 12

/-- ADDR of an entry, as a byte address. -/
def entryAddr (v : Nat) : Nat := bits v 51 8 <<< 8

/-- Permissions of a leaf. -/
def entryPerm (v : Nat) : Perm := { rd := bit v 3, wr := bit v 4, ex := bit v 5 }

/-- The present entry v of a level of a stage is MALFORMED (12 R358). -/
def entryBad (v stage level : Nat) (g64 : Bool) : Bool :=
  let tbl := bit v 1
  let align := if tbl then (if bit v 2 then 8 else 12) else levelLog2 level g64
  bit v 7 ∨ bits v 63 52 ≠ 0
  ∨ (level = 0 ∧ ¬ tbl) ∨ (3 ≤ level ∧ tbl)
  ∨ (bit v 2 ∧ ¬ (level = 2 ∧ tbl))
  ∨ (bit v 6 ∧ ¬ (stage = 2 ∧ ¬ tbl))
  ∨ (tbl ∧ (bit v 3 ∨ bit v 4 ∨ bit v 5 ∨ bit v 6))
  ∨ entryAddr v % 2 ^ align ≠ 0

/-! ### Permissions (12 R359) -/

/-- The ACCESS byte of a request (12 R368). -/
def accByte : Acc → Nat
  | .read => 1 | .write => 2 | .fetch => 4 | .atomic => 11

/-- The first missing permission: its reason code (12 R359). -/
def permFault (p : Perm) (a : Acc) : Option Nat :=
  match a with
  | .read => if p.rd then none else some 8
  | .write => if p.wr then none else some 9
  | .atomic => if ¬ p.rd then some 8 else if ¬ p.wr then some 9 else none
  | .fetch => if p.ex then none else some 10

/-- The permissions both grant. -/
def permBoth (a b : Perm) : Perm := { rd := a.rd ∧ b.rd, wr := a.wr ∧ b.wr, ex := a.ex ∧ b.ex }

/-- Every permission. -/
def permAll : Perm := { rd := true, wr := true, ex := true }

/-! ### Caches (12 R365) -/

/-- An output page that meets any range of the graph range table is marked CHECK (12 R380). -/
def meetsRange (s : State) (pa n : Nat) : Bool := s.xlt.ranges.any fun g => pa < g.hi ∧ g.lo < pa + n

/-- The LEAF entry of a list that translates va of a space. -/
def leafFor (l : List TcEntry) (vm asid va : Nat) : Option TcEntry :=
  l.find? fun e => match e with
    | .leaf v a page log2 _ _ _ _ _ => v = vm ∧ a = asid ∧ page ≤ va ∧ va < page + 2 ^ log2
    | _ => false

/-- The micro-cache of an engine. -/
def microOf (s : State) (e : Nat) : List TcEntry := tgetD s.xlt.micro e []

/-- Entries of the translation cache and of a micro-cache. The oldest entry gives way in a full one (log 137). -/
def tcSize : Nat := 262144
def microSize : Nat := 512

/-- An entry is put into the translation cache. -/
def cache (s : State) (e : TcEntry) : State := onXlt s fun x => { x with tc := (e :: x.tc).take tcSize }

/-- A LEAF is put into an engine's micro-cache. -/
def cacheMicro (s : State) (engine : Nat) (e : TcEntry) : State :=
  onXlt s fun x => { x with micro := tmod x.micro engine [] fun l => (e :: l).take microSize }

/-- A LEAF is put into the translation cache and the engine's micro-cache. -/
def cacheLeaf (s : State) (engine : Nat) (e : TcEntry) : State := cacheMicro (cache s e) engine e

/-! ### Walks (12 R354 to R362) -/

/-- How a walk goes on: it reads a word, or it has ended. -/
inductive WNext where
  | reading (w : Walk)
  | done (x : XOut)
  deriving DecidableEq, Repr

/-- The access that a fault on the way reports: a table read adds the walk bit to a read (12 R360). -/
def walkAccess (w : Walk) : Nat :=
  match w.aim with
  | .output _ _ => accByte w.req.acc
  | _ => 0x11

/-- The address that a stage-2 fault reports (12 R368). -/
def walkAddr (w : Walk) : Nat :=
  match w.aim with
  | .output _ _ => w.req.va
  | _ => w.ipa

/-- The level of the stage-1 entry a walk is at. -/
def aimLevel (a : Aim) : Nat :=
  match a with
  | .table l _ => l
  | .output log2 _ => if log2 = 48 then 0 else if log2 = 30 then 1 else if log2 = 21 then 2 else 3
  | .asidEntry => 0

/-- The output is usable (12 R355, R316): a device address lies below the limit. -/
def outOfRange (dev : Bool) (pa : Nat) : Bool := dev ∧ deviceLimit ≤ pa

/-- LEVEL of a missing permission (12 R368): the leaf that lacks it, stage 1 first. -/
def lackLevel (x : LeafSrc) (a : Acc) : Nat := if (permFault x.perm1 a).isSome then x.level1 else x.level2

/-- The IPA of a walk has been translated to out (target dev) by a stage-2 leaf of level l2, size log2 and permissions p. -/
def resolved (s : State) (w : Walk) (out : Nat) (dev : Bool) (log2 : Nat) (p : Perm) (l2 : Nat) : WNext × State :=
  let level := if log2 = 48 then aimLevel w.aim else l2 + 128
  match w.aim with
  | .output log1 p1 =>
    let perm := permBoth p1 p
    let src : LeafSrc := { perm1 := p1, level1 := aimLevel w.aim, level2 := level }
    if outOfRange dev out then (.done (.fault .permission 13 w.req.va (accByte w.req.acc) level), s)
    else match permFault perm w.req.acc with
    | some r => (.done (.fault .permission r w.req.va (accByte w.req.acc) (lackLevel src w.req.acc)), s)
    | none =>
      let size := Nat.min log1 log2
      let page := w.req.va / 2 ^ size * 2 ^ size
      let outp := out / 2 ^ size * 2 ^ size
      let chk := dev ∧ meetsRange s outp (2 ^ size)
      let e := TcEntry.leaf w.req.vm w.req.asid page size outp dev perm chk src
      (.done (.ok out dev size chk), if w.noCache then s else cacheLeaf s w.req.engine e)
  | _ =>
    let addr := if log2 = 48 then w.req.va else w.ipa
    if outOfRange dev out then (.done (.fault .permission 13 addr 0x11 level), s)
    else if ¬ p.rd then (.done (.fault .permission 8 w.ipa 0x11 (l2 + 128)), s)
    else if dev then (.done (.fault .permission 12 addr 0x11 level), s)
    else (.reading { w with s2 := none, readAt := out }, s)

/-- Starts the translation of a walk's IPA: directly with S2_EN 0 (12 R355), else from the deepest cached entry or the root. -/
def resolveIpa (s : State) (w : Walk) : WNext × State :=
  let ipa := w.ipa % 2 ^ 48
  let w := { w with ipa := ipa }
  if ¬ flag s F.XLT_VM_CFG.S2_EN 0 w.req.vm then
    if bit ipa 47 then
      if bits ipa 46 38 ≠ 0 then
        (.done (.fault .permission 13 w.req.va (walkAccess w) (aimLevel w.aim)), s)
      else resolved s w (ipa % 2 ^ 38) true 48 permAll 0
    else resolved s w ipa false 48 permAll 0
  else
    match s.xlt.tc.findSome? (fun e => match e with
      | .s2 v page log2 out dev p => if v = w.req.vm ∧ page ≤ ipa ∧ ipa < page + 2 ^ log2 then some (page, log2, out, dev, p) else none
      | _ => none) with
    | some (page, log2, out, dev, p) => resolved s w (out + (ipa - page)) dev log2 p (if log2 = 30 then 1 else if log2 = 21 then 2 else 3)
    | none =>
      let deeper (l : Nat) := s.xlt.tc.findSome? fun e => match e with
        | .table v 2 _ level page log2 next g => if v = w.req.vm ∧ level = l ∧ page ≤ ipa ∧ ipa < page + 2 ^ log2 then some (next, g) else none
        | _ => none
      let start := match deeper 3 with
        | some (t, g) => (3, t, g)
        | none => match deeper 2 with
          | some (t, g) => (2, t, g)
          | none => match deeper 1 with
            | some (t, g) => (1, t, g)
            | none => (0, fget s F.XLT_VM_CFG.S2_ROOT 0 w.req.vm * 4096, false)
      let at_ := start.2.1 + 8 * levelIndex ipa start.1 start.2.2
      (.reading { w with s2 := some start, readAt := at_ }, s)

/-- Goes on to read the stage-1 table of a level at its IPA. -/
def stage1Table (s : State) (w : Walk) (level table : Nat) (g64 : Bool) : WNext × State :=
  resolveIpa s { w with aim := .table level g64, ipa := table + 8 * levelIndex w.req.va level g64 }

/-- The words a walk has read (the second is used by the ASID-table entry alone) take it one read further. -/
def walkWord (s : State) (w : Walk) (v v2 : Nat) : WNext × State :=
  let s := fcount s F.XLT_WALKS.READS
  let keep (e : TcEntry) (s : State) := if w.noCache then s else cache s e
  match w.s2 with
  | some (level, _, g64) =>
    let bad r := (WNext.done (.fault .translationFault r (walkAddr w) (walkAccess w) (level + 128)), s)
    if ¬ bit v 0 then bad 0
    else if entryBad v 2 level g64 then bad 1
    else if bit v 1 then
      let g := bit v 2
      let log2 := levelLog2 level g64
      let page := w.ipa / 2 ^ log2 * 2 ^ log2
      let s := keep (.table w.req.vm 2 0 (level + 1) page log2 (entryAddr v) g) s
      (.reading { w with s2 := some (level + 1, entryAddr v, g)
                         readAt := entryAddr v + 8 * levelIndex w.ipa (level + 1) g }, s)
    else
      let log2 := levelLog2 level g64
      let page := w.ipa / 2 ^ log2 * 2 ^ log2
      let s := keep (.s2 w.req.vm page log2 (entryAddr v) (bit v 6) (entryPerm v)) s
      resolved s w (entryAddr v + (w.ipa - page)) (bit v 6) log2 (entryPerm v) level
  | none =>
    match w.aim with
    | .asidEntry =>
      let bad r := (WNext.done (.fault .translationFault r w.req.va (accByte w.req.acc) 0), s)
      if ¬ bit v 0 then bad 3
      else if bits v 11 1 ≠ 0 ∨ v2 ≠ 0 then bad 1
      else stage1Table (keep (.asid w.req.vm w.req.asid (bits v 63 12 * 4096)) s) w 0 (bits v 63 12 * 4096) false
    | .table level g64 =>
      let bad r := (WNext.done (.fault .translationFault r w.req.va (accByte w.req.acc) level), s)
      if ¬ bit v 0 then bad 0
      else if entryBad v 1 level g64 then bad 1
      else
        let log2 := levelLog2 level g64
        let page := w.req.va / 2 ^ log2 * 2 ^ log2
        if bit v 1 then
          let s := keep (.table w.req.vm 1 w.req.asid (level + 1) page log2 (entryAddr v) (bit v 2)) s
          stage1Table s w (level + 1) (entryAddr v) (bit v 2)
        else resolveIpa s { w with aim := .output log2 (entryPerm v), ipa := entryAddr v + (w.req.va - page) }
    | .output _ _ => (.done (.fault .translationFault 4 w.req.va (accByte w.req.acc) 0), s)

/-- The walk for a request that misses every LEAF: from the deepest cached stage-1 pointer, the cached ASID root, or the
ASID table (12 R354, R360). -/
def walkStart (s : State) (r : XReq) : WNext × State :=
  let w : Walk := { req := r, aim := .asidEntry, ipa := 0, s2 := none, readAt := 0 }
  let deeper (l : Nat) := s.xlt.tc.findSome? fun e => match e with
    | .table v 1 a level page log2 next g =>
      if v = r.vm ∧ a = r.asid ∧ level = l ∧ page ≤ r.va ∧ r.va < page + 2 ^ log2 then some (next, g) else none
    | _ => none
  match deeper 3 with
  | some (t, g) => stage1Table s w 3 t g
  | none => match deeper 2 with
    | some (t, g) => stage1Table s w 2 t g
    | none => match deeper 1 with
      | some (t, g) => stage1Table s w 1 t g
      | none =>
        match s.xlt.tc.findSome? (fun e => match e with
          | .asid v a root => if v = r.vm ∧ a = r.asid then some root else none
          | _ => none) with
        | some root => stage1Table s w 0 root false
        | none => resolveIpa s { w with ipa := fget s F.XLT_AS_BASE.BASE r.vm * 4096 + 16 * r.asid }

/-- The words at a walk's read address, from host memory (12 R360: every table resolves to host memory). -/
def walkFetch (s : State) (w : Walk) : Nat × Nat :=
  (leNat (hostRead s w.readAt 8), leNat (hostRead s (w.readAt + 8) 8))

/-- LEVEL of a fault of the walk's present read (12 R368). -/
def walkLevel (w : Walk) : Nat := match w.s2 with | some (l, _, _) => l + 128 | none => aimLevel w.aim

/-- A walk carried to its end; 40 reads are more than any walk makes (12 R360: at most 29). -/
def walkRun : Nat → WNext × State → XOut × State
  | 0, (_, s) => (.fault .translationFault 4 0 0 0, s)
  | n + 1, (x, s) =>
    match x with
    | .done o => (o, fcount s F.XLT_WALKS.WALKS)
    | .reading w =>
      let h := hostLines s w.readAt 16
      if h.1 then (.fault .translationFault 4 (walkAddr w) (walkAccess w) (walkLevel w), h.2) else
      let v := walkFetch s w
      walkRun n (walkWord s w v.1 v.2)

/-- The outcome of a LEAF entry for a request. -/
def leafOut (e : TcEntry) (r : XReq) : XOut :=
  match e with
  | .leaf _ _ page log2 out dev p chk src =>
    match permFault p r.acc with
    | some c => .fault .permission c r.va (accByte r.acc) (lackLevel src r.acc)
    | none => .ok (out + (r.va - page)) dev log2 chk
  | _ => .fault .translationFault 0 r.va (accByte r.acc) 0

/-- What a request meets before any table: a non-canonical address, an ASID beyond the table (12 R353, R354). -/
def preFault (s : State) (r : XReq) : Option XOut :=
  if 2 ^ 48 ≤ r.va then some (.fault .translationFault 2 r.va (accByte r.acc) 0)
  else if 2 ^ fget s F.XLT_AS_BASE.AS_LOG2 r.vm ≤ r.asid then some (.fault .translationFault 3 r.va (accByte r.acc) 0)
  else none

/-- The LEAF entry a request finds: its engine's micro-cache first, then the translation cache, which fills the micro-cache. -/
def leafHit (s : State) (r : XReq) : Option TcEntry × State :=
  match leafFor (microOf s r.engine) r.vm r.asid r.va with
  | some e => (some e, s)
  | none =>
    match leafFor s.xlt.tc r.vm r.asid r.va with
    | some e => (some e, cacheMicro s r.engine e)
    | none => (none, s)

/-- The ATS entry of a function for the host page of an address. -/
def atsFor (s : State) (f pa : Nat) : Option (Nat × Perm) :=
  s.xlt.tc.findSome? fun e => match e with
    | .ats g page out p => if g = f ∧ page = pa / 4096 * 4096 then some (out, p) else none
    | _ => none

/-- The function's data accesses to host memory use ATS (12 R363). -/
def atsUsed (s : State) (r : XReq) : Bool := r.vm ∈ s.xlt.atsEnabled ∧ r.acc ≠ .fetch

/-- What an ATS entry makes of a request whose output is the host address pa (12 R363). -/
def atsOut (r : XReq) (pa log2 out : Nat) (p : Perm) : XOut :=
  match permFault p r.acc with
  | some _ => .fault .permission 5 r.va (accByte r.acc) 0
  | none => .ok (out + pa % 4096) false log2 false

/-- ATS for an access made within a command (log 69): a cached entry decides; without one a Translation Request is sent and the
access goes on untranslated. -/
def atsWhole (r : XReq) (a : XOut × State) : XOut × State :=
  match a.1 with
  | .ok pa false log2 _ =>
    if ¬ atsUsed a.2 r then a
    else match atsFor a.2 r.vm pa with
      | some (out, p) => (atsOut r pa log2 out p, a.2)
      | none =>
        let page := pa / 4096 * 4096
        if (r.vm, page) ∈ a.2.xlt.atsAsked then a
        else (a.1, send (onXlt a.2 fun t => { t with atsAsked := t.atsAsked ++ [(r.vm, page)] }) (.atsRequest r.vm page))
  | _ => a

/-- A request translated whole, for a command that makes the access within its own step. -/
def translate (s : State) (r : XReq) : XOut × State :=
  match preFault s r with
  | some x => (x, s)
  | none =>
    let s := if 211 ≤ r.engine ∧ r.engine ≤ 214 ∧ domOn s 41 = false ∧ leafFor (microOf s r.engine) r.vm r.asid r.va = none then
        onXlt s fun x => { x with tcWait := true }
      else s
    atsWhole r (match leafHit s r with
      | (some e, s) => (leafOut e r, s)
      | (none, s) => walkRun 40 (walkStart s r))

/-- A step of a display output: one that needs the translation cache while FEX is not ON waits, and changes nothing (12 R365). -/
def displayStep (s : State) (k : State → State) : State :=
  let t := k s
  if t.xlt.tcWait then s else t

/-! ### Faults (12 R367 to R371) -/

/-- The power domain of an engine (12 R366, 18 R509); the copy engines are taken to lie in FEX (log 7). -/
def engineDomain (e : Nat) : Nat :=
  if e < 128 then e / 8
  else if e < 192 then 16 + (e - 128) / 4
  else if e < 208 then e - 192
  else if e < 210 then 40
  else if e = 210 then 41
  else if e < 215 then 42
  else if e = 215 then 43
  else if e < 220 then 41
  else 48 + (e - 220)

/-- The 32 bytes of a fault entry (12 R368). -/
def fltBytes (s : State) (r : XReq) (st : Status) (reason addr access level merged batch : Nat) : List Byte :=
  natLe addr 8 ++ natLe s.time 8 ++ natLe r.asid 2 ++ natLe (r.context % 4096) 2 ++ natLe r.engine 2
    ++ natLe (Status.code st) 1 ++ natLe reason 1 ++ natLe access 1 ++ natLe level 1 ++ natLe merged 2 ++ natLe batch 4

/-- The serial of a function's open or next batch. -/
def batchNo (s : State) (f : Nat) : Nat := tgetD s.xlt.batchSerial f 0 + 1

/-- A slot's host address in the fault ring of a function. -/
def fltSlot (s : State) (f slot : Nat) : Nat :=
  fget s F.XLT_FLT_BASE.BASE f * 4096 + 32 * (slot % 2 ^ fget s F.XLT_FLT_BASE.LOG2 f)

/-- A batch closes (12 R370): entries with merged faults are written again, PI advances past the batch and VECTOR is sent. -/
def closeBatch (s : State) (f : Nat) : State :=
  match tget s.xlt.batches f with
  | none => s
  | some b =>
    let s := b.entries.foldl (fun s e =>
      if e.merged = 0 then s else hostWrite s (fltSlot s f e.slot) (putAt e.bytes 26 (natLe e.merged 2))) s
    let pi := (fget s F.XLT_FLT_PI.PI f + b.entries.length) % 2 ^ 32
    let s := fset s F.XLT_FLT_PI.PI pi f
    let s := onXlt s fun x => { x with batches := tdel x.batches f, batchSerial := tset x.batchSerial f (batchNo s f) }
    msixRaise s f (fget s F.XLT_FLT_CTL.VECTOR f)

/-- A fault enters its function's ring (12 R369 to R371): it merges, takes a slot, or is dropped at a full ring. With it, the
serial of its batch, or 0 where it is in none. -/
def fltRing (s : State) (r : XReq) (st : Status) (reason addr access level : Nat) : Nat × State :=
  let f := r.vm
  if ¬ flag s F.XLT_FLT_CTL.EN f then (0, s) else
  let s := match tget s.xlt.batches f with
    | some b => if b.start + 20000 ≤ s.time then closeBatch s f else s
    | none => s
  let page := addr / 4096
  let b := tget s.xlt.batches f
  if (match b with
      | some b => b.entries.any fun e => e.vm = f ∧ e.asid = r.asid ∧ e.page = page ∧ e.access = access
      | none => false) then
    (batchNo s f, onXlt s fun x => { x with batches := tupd x.batches f fun b => { b with entries := b.entries.map fun e =>
      if e.vm = f ∧ e.asid = r.asid ∧ e.page = page ∧ e.access = access
      then { e with merged := satInc e.merged 16 } else e } })
  else
    let w := tgetD s.xlt.written f 0
    if 2 ^ fget s F.XLT_FLT_BASE.LOG2 f ≤ sub32 w (fget s F.XLT_FLT_CI.CI f) then
      (0, fcount (fset s F.XLT_FLT_STATUS.OVERFLOW 1 f) F.XLT_FLT_STATUS.DROPPED f)
    else
      let bs := fltBytes s r st reason addr access level 0 (batchNo s f)
      let n := batchNo s f
      let s := hostWrite s (fltSlot s f w) bs
      let e : FltEntry := { slot := w, vm := f, asid := r.asid, page := page, access := access, bytes := bs }
      let nb : Batch := match b with
        | some b => { b with entries := b.entries ++ [e] }
        | none => { start := s.time, entries := [e] }
      let s := onXlt s fun x => { x with batches := tset x.batches f nb, written := tset x.written f ((w + 1) % 2 ^ 32) }
      (n, if nb.entries.length = 64 then closeBatch s f else s)

/-- A translation fault (12 R367): an entry of the function's ring, and a fault record of kind TRANSLATION that the translation
unit writes (log 112). The records of display outputs carry CONTEXT NONE (15 R433). -/
def xltFault (s : State) (r : XReq) (x : XOut) : State :=
  match x with
  | .ok _ _ _ _ => s
  | .fault st reason addr access level =>
    let ctx := if 211 ≤ r.engine ∧ r.engine ≤ 214 then none else some r.context
    let f := fltRing s r st reason addr access level
    raise f.2 { time := 0, unit := 0x116, status := st, level := 0, context := ctx, function := some r.vm,
                detail := .translation (fltBytes s r st reason addr access level 0 f.1) }

/-! ### The graph range table (12 R378 to R381) -/

/-- DIRTY of the graph whose object begins at device address lo is set: bit 1 of STATE in its header (03 R87). -/
def setDirty (s : State) (lo : Nat) : State :=
  let v := (devRead s 7 (lo + 20) 1)
  (devWrite v.2.2 7 (lo + 20) [BitVec.ofNat 8 (byteAt v.2.1 0 ||| 2)]).2

/-- What the comparison of a write with the table finds (12 R380): PROTECT first, else the WATCH ranges met. -/
def rangeHit (s : State) (pa n : Nat) : Bool × List GRange :=
  let met := s.xlt.ranges.filter fun g => pa < g.hi ∧ g.lo < pa + n
  (met.any (·.protect), met.filter fun g => ¬ g.protect)

/-! ### Accesses in an address space -/

/-- An access at an address has failed (13 R405). -/
def failedAt (s : State) (a : Nat) : State := onXlt s fun x => { x with failAddr := a }

/-- The address that a COMMAND record names for a status: that of the failing access, or 0 for a status that no access gives. -/
def accessAddr (s : State) (st : Status) : Nat :=
  match st with
  | .translationFault | .permission | .integrityMismatch | .uncorrectableEcc | .domainOff => s.xlt.failAddr
  | _ => 0

/-- Chunks of [va, va + n) that lie in one 4 KiB page each: virtual address and length. -/
def pageParts (va n : Nat) : List (Nat × Nat) :=
  if n = 0 then [] else
  (upFrom (va / 4096) ((va + n - 1) / 4096 - va / 4096 + 1)).map fun p =>
    let lo := Nat.max va (p * 4096)
    (lo, Nat.min (va + n) ((p + 1) * 4096) - lo)

/-- A virtual read of n bytes by an engine: translated page by page, a fault recorded and returned as its status. -/
def vread (s : State) (engine cls vm asid ctx va n : Nat) (acc : Acc := .read) : Status × List Byte × State :=
  (pageParts va n).foldl (fun (st, bs, s) p =>
    if st ≠ Status.ok then (st, bs ++ zeros p.2, s) else
    let r : XReq := { id := 0, engine := engine, vm := vm, asid := asid, va := p.1, acc := acc, context := ctx }
    match translate s r with
    | (.ok pa dev _ _, s) =>
      let x := anyRead s cls dev pa p.2
      (x.1, bs ++ x.2.1, if x.1 = .ok then x.2.2 else failedAt x.2.2 p.1)
    | (.fault e q a c l, s) => (e, bs ++ zeros p.2, failedAt (xltFault s r (.fault e q a c l)) p.1)) (.ok, [], s)

/-- A virtual write by an engine: each page is translated, compared with the graph range table where its entry is marked
CHECK (12 R380), and stored. -/
def vwrite (s : State) (engine cls vm asid ctx va : Nat) (bs : List Byte) (bad : Bool := false) : Status × State :=
  (pageParts va bs.length).foldl (fun (st, s) p =>
    if st ≠ Status.ok then (st, s) else
    let r : XReq := { id := 0, engine := engine, vm := vm, asid := asid, va := p.1, acc := .write, context := ctx }
    let part := (bs.drop (p.1 - va)).take p.2
    match translate s r with
    | (.ok pa dev _ chk, s) =>
      let hit := if chk ∧ dev then rangeHit s pa p.2 else (false, [])
      if hit.1 then
        let x := XOut.fault .permission 11 p.1 2 0
        (.permission, failedAt (xltFault s r x) p.1)
      else
        let w := anyWrite s cls dev pa part bad
        (w.1, if w.1 = .ok then hit.2.foldl (fun s g => setDirty s g.lo) w.2 else failedAt w.2 p.1)
    | (.fault e q a c l, s) => (e, failedAt (xltFault s r (.fault e q a c l)) p.1)) (.ok, s)

/-- A line read at an aligned virtual address with its check carried along unverified (13 R387): its bytes and whether the
check mismatches. A poisoned line is delivered with its status. -/
def vline (s : State) (engine cls vm asid ctx va : Nat) : Status × List Byte × Bool × State :=
  let r : XReq := { id := 0, engine := engine, vm := vm, asid := asid, va := va, acc := .read, context := ctx }
  match translate s r with
  | (.ok pa true _ _, s) =>
    match l2Refusal s pa 128 with
    | some e => (e, zeros 128, false, failedAt s va)
    | none =>
      let s := fetchLine s cls (pa / 128)
      let l := lineNow s (pa / 128)
      (if l.poisoned then .uncorrectableEcc else .ok, l.data, l.badCheck, if l.poisoned then failedAt s va else s)
  | (.ok pa false _ _, s) =>
    let h := hostLines s pa 128
    (.ok, hostRead s pa 128, h.1, h.2)
  | (.fault e q a c l, s) => (e, zeros 128, false, failedAt (xltFault s r (.fault e q a c l)) va)

/-- A line at an aligned virtual address is written in segments, as (offset, bytes), by one access (04 R122): translated, each segment
compared with the graph range table (12 R380), and stored. -/
def vstore (s : State) (engine cls vm asid ctx va : Nat) (segs : List (Nat × List Byte)) : Status × State :=
  let r : XReq := { id := 0, engine := engine, vm := vm, asid := asid, va := va, acc := .write, context := ctx }
  match translate s r with
  | (.ok pa dev _ chk, s) =>
    let hits := if chk ∧ dev then segs.map fun x => rangeHit s (pa + x.1) x.2.length else []
    if hits.any Prod.fst then (.permission, failedAt (xltFault s r (.fault .permission 11 va 2 0)) va)
    else if ¬ dev then (.ok, segs.foldl (fun s x => hostWrite s (pa + x.1) x.2) s)
    else match l2Refusal s pa 128 with
      | some e => (e, failedAt s va)
      | none =>
        let s := if failsafe s then s else writeSegs s cls (pa / 128) segs
        (.ok, hits.foldl (fun s h => h.2.foldl (fun s g => setDirty s g.lo) s) s)
  | (.fault e q a c l, s) => (e, failedAt (xltFault s r (.fault e q a c l)) va)

/-- A line at an aligned virtual address is changed by one access, in the places that spans, as (offset, length), name: its bytes before
(11 R326). acc is what it is translated as: an atomic, or a write that covers bytes in part. -/
def vmodify (s : State) (engine cls vm asid ctx va : Nat) (spans : List (Nat × Nat)) (f : List Byte → List Byte) (acc : Acc := .atomic) :
    Status × List Byte × State :=
  let r : XReq := { id := 0, engine := engine, vm := vm, asid := asid, va := va, acc := acc, context := ctx }
  match translate s r with
  | (.ok pa dev _ chk, s) =>
    let hits := if chk ∧ dev then spans.map fun x => rangeHit s (pa + x.1) x.2 else []
    if hits.any Prod.fst then (.permission, zeros 128, failedAt (xltFault s r (.fault .permission 11 va (accByte acc) 0)) va)
    else if ¬ dev then
      let h := hostLines s pa 128
      let old := hostRead s pa 128
      if h.1 then (.integrityMismatch, old, failedAt (countMismatch h.2) va)
      else (.ok, old, spans.foldl (fun s x => hostWrite s (pa + x.1) (((f old).drop x.1).take x.2)) h.2)
    else
      let w := devModify s cls (pa / 128) f
      (w.1, w.2.1, if w.1 = .ok then hits.foldl (fun s h => h.2.foldl (fun s g => setDirty s g.lo) s) w.2.2 else failedAt w.2.2 va)
  | (.fault e q a c l, s) => (e, zeros 128, failedAt (xltFault s r (.fault e q a c l)) va)

/-- An intermediate physical address resolved for a read or write of the function's own structures (02 R38): stage 1 is
bypassed and stage 2 applies where it is on. -/
def ipaTarget (s : State) (vm ipa : Nat) (acc : Acc) : XOut × State :=
  let r : XReq := { id := 0, engine := 210, vm := vm, asid := 0, va := ipa, acc := acc, context := 0 }
  if 2 ^ 48 ≤ ipa then (.fault .translationFault 2 ipa (accByte acc) 0, s)
  else match resolveIpa s { req := r, aim := .output 48 permAll, ipa := ipa, s2 := none, readAt := 0, noCache := true } with
    | (.done x, s) => (x, s)
    | (.reading w, s) => walkRun 40 (.reading w, s)

/-- The IPA of a table entry resolved to its host address, as a walk resolves it (12 R360): the fault, or the address. -/
def tableTarget : Nat → WNext × State → Except XOut Nat × State
  | 0, (_, s) => (.error (.fault .translationFault 4 0 0 0), s)
  | n + 1, (x, s) =>
    match x with
    | .done o => (.error o, s)
    | .reading w =>
      if w.s2.isNone then (.ok w.readAt, s) else
      let h := hostLines s w.readAt 16
      if h.1 then (.error (.fault .translationFault 4 (walkAddr w) (walkAccess w) (walkLevel w)), h.2) else
      let v := walkFetch s w
      tableTarget n (walkWord s w v.1 v.2)

/-- n bytes read at an IPA. -/
def ipaRead (s : State) (vm ipa n : Nat) : Status × List Byte × State :=
  (pageParts ipa n).foldl (fun (st, bs, s) p =>
    if st ≠ Status.ok then (st, bs ++ zeros p.2, s) else
    match ipaTarget s vm p.1 .read with
    | (.ok pa dev _ _, s) =>
      let x := anyRead s 7 dev pa p.2
      (x.1, bs ++ x.2.1, if x.1 = .ok then x.2.2 else failedAt x.2.2 p.1)
    | (.fault e q a c l, s) =>
      (e, bs ++ zeros p.2, failedAt (xltFault s { id := 0, engine := 210, vm := vm, asid := 0, va := p.1, acc := .read, context := 0 }
        (.fault e q a c l)) p.1)) (.ok, [], s)

/-! ### Commands -/

/-- A translation is answered: the fault is recorded, the outcome waits for its requester. -/
def xAnswer (s : State) (r : XReq) (x : XOut) : State :=
  onXlt (xltFault s r x) fun t => { t with answers := t.answers ++ [(r.id, x)] }

/-- A translated access whose output is host memory goes through ATS where the function has it enabled (12 R363): answered
from a cached entry, or held with a Translation Request sent. -/
def atsStep (s : State) (r : XReq) (x : XOut) : State :=
  match x with
  | .ok pa false log2 _ =>
    if atsUsed s r then
      match atsFor s r.vm pa with
      | some (out, p) => xAnswer s r (atsOut r pa log2 out p)
      | none =>
        send (onXlt s fun t => { t with atsWait := t.atsWait ++ [(r, pa, log2, permAll)] })
          (.atsRequest r.vm (pa / 4096 * 4096))
    else xAnswer s r x
  | _ => xAnswer s r x

/-- A list without the entries at some places. -/
def dropAt {α : Type} (l : List α) (bad : List Nat) : List α := (l.zipIdx.filter fun e => decide (e.2 ∉ bad)).map Prod.fst

/-- Entries that a lookup finds with a parity error, as places in its engine's micro-cache and in the translation cache, are
invalidated, and each is counted (12 R365). -/
def parityDrop (s : State) (engine : Nat) (micro tc : List Nat) : State :=
  if micro = [] ∧ tc = [] then s else
  let t := onXlt s fun x => { x with tc := dropAt x.tc tc, micro := tupd x.micro engine fun l => dropAt l micro }
  let n := s.xlt.tc.length - t.xlt.tc.length + ((microOf s engine).length - (microOf t engine).length)
  fcount t F.XLT_TC_ERR.PARITY 0 0 n

/-- TRANSLATION_LOOKUP (12 R352 to R365): a hit answers at once; a miss joins a walk in progress to the same page and space,
or starts one when a walker is free. A request that needs the translation cache waits while FEX is not ON: its lookup comes again.
A request that finds no walker waits on the last one. micro and tc name the entries it reads that have a parity error. -/
def translationLookup (r : XReq) (micro tc : List Nat) (s : State) : State :=
  if domOn s 41 = false ∧ leafFor (microOf s r.engine) r.vm r.asid r.va = none then s else
  match preFault s r with
  | some x => (xAnswer s r x)
  | none =>
    let s := parityDrop s r.engine micro tc
    match leafHit s r with
    | (some e, s) => (atsStep s r (leafOut e r))
    | (none, s) =>
      let same (w : Walk) : Bool := w.req.vm = r.vm ∧ w.req.asid = r.asid ∧ w.req.va / 4096 = r.va / 4096
      if s.xlt.walks.any same ∨ 64 ≤ s.xlt.walks.length then
        let join (w : Walk) : Bool := same w ∨ (¬ s.xlt.walks.any same ∧ s.xlt.walks.getLast? = some w)
        let ws := s.xlt.walks.map fun w => if join w then { w with waiting := w.waiting ++ [r] } else w
        (onXlt s fun x => { x with walks := ws })
      else
        match walkStart s r with
        | (.reading w, s) => (onXlt s fun x => { x with walks := x.walks ++ [w] })
        | (.done x, s) => (atsStep (fcount s F.XLT_WALKS.WALKS) r x)

/-- TRANSLATION_LOOKUP. -/
def execTranslationLookup (r : XReq) (micro tc : List Nat) (s : State) : Out := unitStep s 0x116 fun s => translationLookup r micro tc s

/-- A walk ends: its request and those that waited for it are answered; one that waited for a free walker only, or that needs
another permission, is looked up in its own right. -/
def walkEnd (s : State) (w : Walk) (x : XOut) : State :=
  let s := fcount s F.XLT_WALKS.WALKS
  let s := atsStep s w.req x
  w.waiting.foldl (fun s r =>
    if r.vm = w.req.vm ∧ r.asid = w.req.asid ∧ r.va / 4096 = w.req.va / 4096 ∧ r.acc = w.req.acc then
      match x with
      | .ok pa dev log2 chk => atsStep s r (.ok (pa / 4096 * 4096 + r.va % 4096) dev log2 chk)
      | .fault e q a c l => xAnswer s r (.fault e q (if a = w.req.va then r.va else a) c l)
    else
      let y := translate s r
      atsStep y.2 r y.1) s

/-- WALK_READ_DONE (12 R360, R361): walk number n goes on with the word it reads, or faults with WALK_ERROR where the read
ended in an error or delivered poisoned data. -/
def walkReadDone (n : Nat) (error : Bool) (s : State) : State :=
  match s.xlt.walks[n]? with
  | none => s
  | some w =>
    let drop s := onXlt s fun x => { x with walks := x.walks.eraseIdx n }
    if error then
      (walkEnd (drop s) w (.fault .translationFault 4 (walkAddr w) (walkAccess w) (walkLevel w)))
    else
      let v := walkFetch s w
      match walkWord s w v.1 v.2 with
      | (.reading w', s) => (onXlt s fun x => { x with walks := x.walks.set n w' })
      | (.done x, s) => (walkEnd (drop s) w x)

/-- WALK_READ_DONE. -/
def execWalkReadDone (n : Nat) (error : Bool) (s : State) : Out := unitStep s 0x116 fun s => walkReadDone n error s

/-- FAULT_BATCH_CLOSE (12 R370). -/
def faultBatchClose (f : Nat) (s : State) : State :=
  match tget s.xlt.batches f with
  | some b => if b.start + 20000 ≤ s.time then closeBatch s f else s
  | none => s

/-- FAULT_BATCH_CLOSE. -/
def execFaultBatchClose (f : Nat) (s : State) : Out := unitStep s 0x116 fun s => faultBatchClose f s

/-- ATS_TRANSLATION_COMPLETION (12 R363): for the oldest request waiting on that host page of the function: ok says the
completion was successful, out and p what it grants. Where an access within a command asked, the completion is cached alone. -/
def atsTranslationCompletion (f page : Nat) (ok : Bool) (out : Nat) (p : Perm) (s : State) : State :=
  let grants := ok ∧ (p.rd ∨ p.wr)
  match s.xlt.atsWait.find? (fun w => w.1.vm = f ∧ w.2.1 / 4096 * 4096 = page) with
  | none =>
    if (f, page) ∉ s.xlt.atsAsked then s else
    let s := onXlt s fun x => { x with atsAsked := x.atsAsked.erase (f, page) }
    if grants then cache s (.ats f page out p) else s
  | some (r, pa, log2, q) =>
    let s := onXlt s fun x => { x with atsWait := x.atsWait.erase (r, pa, log2, q) }
    if ¬ grants then (xAnswer s r (.fault .translationFault 5 r.va (accByte r.acc) 0))
    else xAnswer (cache s (.ats f page out p)) r (atsOut r pa log2 out p)

/-- ATS_TRANSLATION_COMPLETION. -/
def execAtsTranslationCompletion (f page : Nat) (ok : Bool) (out : Nat) (p : Perm) (s : State) : Out := engineStep s fun s => atsTranslationCompletion f page ok out p s

/-! ### Invalidation (12 R373 to R377) -/

/-- An invalidation joins the arbiter. -/
def invRequest (s : State) (i : Inv) : State := onXlt s fun x => { x with invWaiting := x.invWaiting ++ [i] }

/-- The entry is removed by the operation (12 R373). -/
def invHits (s : State) (o : InvOp) (e : TcEntry) : Bool :=
  match o, e with
  | .range vm asid st len, .leaf v a page log2 _ _ _ _ _ => v = vm ∧ a = asid ∧ page < st + len ∧ st < page + 2 ^ log2
  | .range vm asid st len, .table v 1 a _ page log2 _ _ => v = vm ∧ a = asid ∧ page < st + len ∧ st < page + 2 ^ log2
  | .range vm asid st len, .asid v a _ => v = vm ∧ a = asid ∧ st = 0 ∧ 2 ^ 48 ≤ len  -- its span is the whole space (R377)
  | .tag vm asid, .leaf v a _ _ _ _ _ _ _ => v = vm ∧ a = asid
  | .tag vm asid, .table v 1 a _ _ _ _ _ => v = vm ∧ a = asid
  | .tag vm asid, .asid v a _ => v = vm ∧ a = asid
  | .vmAll vm, .leaf v _ _ _ _ _ _ _ _ => v = vm
  | .vmAll vm, .s2 v _ _ _ _ _ => v = vm
  | .vmAll vm, .table v _ _ _ _ _ _ _ => v = vm
  | .vmAll vm, .asid v _ _ => v = vm
  | .hostRange f st len, .ats g page _ _ => g = f ∧ page < st + len ∧ st < page + 4096
  | .hostRange f st len, .leaf v _ _ log2 out dev _ _ _ =>
    v = f ∧ ¬ dev ∧ f ∈ s.xlt.atsEnabled ∧ out < st + len ∧ st < out + 2 ^ log2
  | .outputRange st len, .leaf _ _ _ log2 out dev _ _ _ => dev ∧ out < st + len ∧ st < out + 2 ^ log2
  | _, _ => false

/-- The address of a walk is covered by the operation (12 R362). -/
def invCovers (o : InvOp) (w : Walk) : Bool :=
  match o with
  | .range vm asid st len => w.req.vm = vm ∧ w.req.asid = asid ∧ st ≤ w.req.va ∧ w.req.va < st + len
  | .tag vm asid => w.req.vm = vm ∧ w.req.asid = asid
  | .vmAll vm => w.req.vm = vm
  | .hostRange f _ _ => w.req.vm = f
  | .outputRange _ _ => true

/-- Entries leave every cache at once and walks in progress are marked. -/
def invSweep (s : State) (o : InvOp) : State :=
  onXlt s fun x => { x with
    tc := x.tc.filter fun e => ¬ invHits s o e
    micro := x.micro.map fun m => (m.1, m.2.filter fun e => ¬ invHits s o e)
    walks := x.walks.map fun w => if invCovers o w then { w with noCache := true } else w }

/-- The result of an invalidation is posted where its source expects it. -/
def invPost (s : State) (i : Inv) : State :=
  let s := onXlt s fun x => { x with invNow := none }
  match i.src with
  | .cmd f => rset s .XLT_INV_RESULT (if i.escalated then 2 ^ 31 else 0) f
  | .ats tag => send s (.atsInvalidationDone tag)
  | _ => s

/-- XLT_INV_RESULT of a command that ends at once. -/
def invResult (s : State) (f : Nat) (st : Status) : State := rset s .XLT_INV_RESULT (Status.code st <<< 32) f

/-- BUSY of an accepted invalidation command. -/
def invBusy (s : State) (f : Nat) : State := fset s F.XLT_INV_RESULT.BUSY 1 f

/-- XLT_INV_RANGE (12 R376, R382, R383). -/
def xltInvRange (f asid : Nat) (s : State) : State :=
  if flag s F.XLT_INV_RESULT.BUSY f then s else
  let start := fget s F.XLT_INV_ARG0.START f
  let len := fget s F.XLT_INV_ARG1.LENGTH f
  if start % 4096 ≠ 0 ∨ len % 4096 ≠ 0 then (invResult s f .badAlignment)
  else if 2 ^ 48 < start + len then (invResult s f .lengthRange)
  else if len = 0 then (invResult s f .ok)
  else if flag s F.XLT_VM_CFG.INV_MODE 0 f then
    (invRequest (invBusy s f) { src := .cmd f, op := .tag f asid, escalated := true })
  else (invRequest (invBusy s f) { src := .cmd f, op := .range f asid start len })

/-- XLT_INV_RANGE. -/
def execXltInvRange (f asid : Nat) (s : State) : Out := busWrite s .XLT_INV_CMD f 0 fun s => xltInvRange f asid s

/-- XLT_INV_TAG (12 R375, R376). ESCALATED reports a conversion under R376. -/
def xltInvTag (f asid : Nat) (s : State) : State :=
  if flag s F.XLT_INV_RESULT.BUSY f then s
  else if flag s F.XLT_VM_CFG.INV_MODE 0 f then
    (invRequest (invBusy s f) { src := .cmd f, op := .tag f asid })
  else (invRequest (invBusy s f) { src := .cmd f, op := .range f asid 0 (2 ^ 48), escalated := true })

/-- XLT_INV_TAG. -/
def execXltInvTag (f asid : Nat) (s : State) : Out := busWrite s .XLT_INV_CMD f 0 fun s => xltInvTag f asid s

/-- XLT_INV_VM_ALL (12 R373, R377, R382): a VF gets PERMISSION. -/
def xltInvVmAll (f vm : Nat) (s : State) : State :=
  if flag s F.XLT_INV_RESULT.BUSY f then s
  else if f ≠ 0 then (invResult s f .permission)
  else (invRequest (invBusy s f) { src := .cmd f, op := .vmAll vm })

/-- XLT_INV_VM_ALL. -/
def execXltInvVmAll (f vm : Nat) (s : State) : Out := busWrite s .XLT_INV_CMD f 0 fun s => xltInvVmAll f vm s

/-- XLT_INV_UNDEFINED_OP (12 R382). -/
def xltInvUndefinedOp (f : Nat) (s : State) : State :=
  (if flag s F.XLT_INV_RESULT.BUSY f then s else invResult s f .badOpcode)

/-- XLT_INV_UNDEFINED_OP. -/
def execXltInvUndefinedOp (f : Nat) (s : State) : Out := busWrite s .XLT_INV_CMD f 0 fun s => xltInvUndefinedOp f s

/-- ATS_INVALIDATION_REQUEST (12 R364). -/
def atsInvalidationRequest (f start len tag : Nat) (s : State) : State :=
  (invRequest s { src := .ats tag, op := .hostRange f start len })

/-- ATS_INVALIDATION_REQUEST. -/
def execAtsInvalidationRequest (f start len tag : Nat) (s : State) : Out := engineStep s fun s => atsInvalidationRequest f start len tag s

/-- INVALIDATION_GRANT (12 R373 to R375): waiting operation n wins the arbiter while none is in progress; its entries are
swept, and the engines whose domain is ON owe an acknowledgement. -/
def invalidationGrant (n : Nat) (s : State) : State :=
  match s.xlt.invNow, s.xlt.invWaiting[n]? with
  | none, some i =>
    let s := invSweep s i.op
    let owe := (List.range 222).filter fun e => domOn s (engineDomain e)
    let s := onXlt s fun x => { x with invWaiting := x.invWaiting.eraseIdx n, invNow := some (i, owe) }
    (if owe = [] then invPost s i else s)
  | _, _ => s

/-- INVALIDATION_GRANT. -/
def execInvalidationGrant (n : Nat) (s : State) : Out := unitStep s 0x116 fun s => invalidationGrant n s

/-- INVALIDATION_ENGINE_ACK (12 R374, R375): the last acknowledgement posts the result. -/
def invalidationEngineAck (e : Nat) (s : State) : State :=
  match s.xlt.invNow with
  | none => s
  | some (i, owe) =>
    let rest := owe.filter (· ≠ e)
    let s := onXlt s fun x => { x with invNow := some (i, rest) }
    (if rest = [] then invPost s i else s)

/-- INVALIDATION_ENGINE_ACK. -/
def execInvalidationEngineAck (e : Nat) (s : State) : Out := unitStep s 0x116 fun s => invalidationEngineAck e s

/-- XLT_VM_CFG_WRITE (12 R382): a change of S2_EN or S2_ROOT performs VM_ALL for the VM before later requests are translated. -/
def xltVmCfgWrite (v value : Nat) (s : State) : State :=
  let old := rget s .XLT_VM_CFG 0 v
  let new := Reg.written .XLT_VM_CFG old value (2 ^ 64 - 1)
  let s := rset s .XLT_VM_CFG new 0 v
  if bits old 63 12 = bits new 63 12 ∧ bit old 0 = bit new 0 then s
  else (invRequest (invSweep s (.vmAll v)) { src := .vmCfg v, op := .vmAll v })

/-- XLT_VM_CFG_WRITE. -/
def execXltVmCfgWrite (v value : Nat) (s : State) : Out := busWrite s .XLT_VM_CFG 0 v fun s => xltVmCfgWrite v value s

/-- What a write that the graph range table protects leaves behind when it comes through BAR2 (12 R380, 13 R554). -/
def protectedWrite (s : State) (addr : Nat) : State :=
  raiseBare s 0x126 .permission 0 (.system 3 0 0 addr)

end Sys2Proof.Machine
end

