-- ==== Sys2Proof/Machine/Fe.lean ====
section
/-!
DEFINITION. Machine/Fe.lean: queues, objects and doorbells (02 R33 to R49, R551, R57, R58, R555), and what every command's
end does to its queue: stops, completion records, fences (R61 to R67, R556).
-/

namespace Sys2Proof.Machine

/-- Changes the front end's part of the state. -/
def onFe (s : State) (f : Fe → Fe) : State := { s with fe := f s.fe }

/-! ### Partitions and handles (02 R34 to R37, R57) -/

/-- The index lies in the queue range of a function. -/
def inQ (s : State) (f i : Nat) : Bool :=
  64 * fget s F.FE_PART.Q_BASE 0 f ≤ i ∧ i < 64 * (fget s F.FE_PART.Q_BASE 0 f + fget s F.FE_PART.Q_COUNT 0 f)
/-- The index lies in the object range of a function. -/
def inObj (s : State) (f i : Nat) : Bool :=
  256 * fget s F.FE_PART.OBJ_BASE 0 f ≤ i ∧ i < 256 * (fget s F.FE_PART.OBJ_BASE 0 f + fget s F.FE_PART.OBJ_COUNT 0 f)
/-- The context number lies in the context range of a function. -/
def inCtx (s : State) (f c : Nat) : Bool :=
  16 * fget s F.FE_PART.CTX_BASE 0 f ≤ c ∧ c < 16 * (fget s F.FE_PART.CTX_BASE 0 f + fget s F.FE_PART.CTX_COUNT 0 f)

/-- The queue of an index; none where it is FREE. -/
def queueAt (s : State) (i : Nat) : Option Queue := tget s.fe.queues i
/-- The handle of a queue index with a generation (02 R37). -/
def qHandle (i gen : Nat) : Nat := gen * 2 ^ 14 + i
/-- The handle of an object index with a generation (02 R57). -/
def oHandle (i gen : Nat) : Nat := gen * 2 ^ 16 + i

/-- The live queue of function f that a handle names. -/
def queueOf (s : State) (f h : Nat) : Option (Nat × Queue) :=
  match queueAt s (h % 2 ^ 14) with
  | some q => if h ≠ 0 ∧ q.gen = h / 2 ^ 14 ∧ q.fn = f ∧ inQ s f (h % 2 ^ 14) then some (h % 2 ^ 14, q) else none
  | none => none

/-- The live object that a handle names within the partition of function f. -/
def objectOf (s : State) (f h : Nat) : Option Obj :=
  match tget s.fe.objs (h % 2 ^ 16) with
  | some o => if h ≠ 0 ∧ o.gen = h / 2 ^ 16 ∧ inObj s f (h % 2 ^ 16) then some o else none
  | none => none

/-- The context is under teardown or in quarantine (02 R71). -/
def ctxGone (s : State) (c : Nat) : Bool := (tget s.fe.teardowns c).isSome

/-- Changes a queue. -/
def onQueue (s : State) (i : Nat) (f : Queue → Queue) : State :=
  onFe s fun x => { x with queues := tupd x.queues i f }

/-- The unit number of the front end (13 R391). -/
def feUnit : Nat := 0x112

/-! ### FE_PART (02 R34, R35) -/

/-- Two ranges [a, a + m) and [b, b + n) have a number in common. -/
def rangesMeet (a m b n : Nat) : Bool := m ≠ 0 ∧ n ≠ 0 ∧ a < b + n ∧ b < a + m

/-- A written FE_PART value is one the device discards (02 R35). -/
def partBad (s : State) (f v : Nat) : Bool :=
  let qb := bits v 7 0; let qn := bits v 16 8
  let ob := bits v 24 17; let on := bits v 33 25
  let cb := bits v 41 34; let cn := bits v 50 42
  let others := (List.range 16).filter (· ≠ f)
  256 < qb + qn ∨ 256 < ob + on ∨ 256 < cb + cn
  ∨ others.any (fun g =>
      rangesMeet qb qn (fget s F.FE_PART.Q_BASE 0 g) (fget s F.FE_PART.Q_COUNT 0 g)
      ∨ rangesMeet ob on (fget s F.FE_PART.OBJ_BASE 0 g) (fget s F.FE_PART.OBJ_COUNT 0 g)
      ∨ rangesMeet cb cn (fget s F.FE_PART.CTX_BASE 0 g) (fget s F.FE_PART.CTX_COUNT 0 g))
  ∨ s.fe.queues.any (fun e => e.2.fn = f ∧ ¬ (64 * qb ≤ e.1 ∧ e.1 < 64 * (qb + qn)))
  ∨ s.fe.queues.any (fun e => e.2.fn = f ∧ ¬ (16 * cb ≤ e.2.ctx ∧ e.2.ctx < 16 * (cb + cn)))
  ∨ s.fe.objs.any (fun e => inObj s f e.1 ∧ ¬ (256 * ob ≤ e.1 ∧ e.1 < 256 * (ob + on)))
  ∨ s.fe.objs.any (fun e => inObj s f e.1 ∧ ¬ (16 * cb ≤ e.2.ctx ∧ e.2.ctx < 16 * (cb + cn)))
  ∨ s.fe.teardowns.any (fun e => e.2.fn = f ∧ ¬ (16 * cb ≤ e.1 ∧ e.1 < 16 * (cb + cn)))
  ∨ s.seq.slots.any (fun e => e.2.fn = f ∧ ¬ (16 * cb ≤ e.2.ctx ∧ e.2.ctx < 16 * (cb + cn)))

/-- FE_PART_WRITE (02 R35): PF only. -/
def execFePartWrite (f v : Nat) (s : State) : Out :=
  busWrite s .FE_PART 0 f fun s =>
    let v := bits v 50 0
    if partBad s f v then s else rset s .FE_PART v 0 f

/-! ### Stops and fault records (02 R43, R67) -/

/-- A COMMAND record of a queue (13 R405). -/
def commandRecord (s : State) (i : Nat) (q : Queue) (st : Status) (seq op sub index addr : Nat) : State :=
  raise s { time := 0, unit := feUnit, status := st, level := 0, context := some q.ctx, function := some q.fn,
            detail := .command seq (qHandle i q.gen) op sub index addr }

/-- The state of a queue that stops; a queue under teardown keeps its state (02 R43). -/
def stopState (x : QState) : QState :=
  match x with
  | .drain => .drain
  | .kill => .kill
  | .killed => .killed
  | _ => .stopped

/-- A stop caused by no entry (02 R67): a doorbell beyond the ring, a fault on a completion or fence write. -/
def stopNoEntry (s : State) (i : Nat) (st : Status) (addr : Nat) : State :=
  match queueAt s i with
  | none => s
  | some q =>
    let s := commandRecord s i q st 0 0 0 0xFFFF addr
    onQueue s i fun q => { q with state := stopState q.state, lastStatus := st, arm := .none }

/-- A completion write of a queue faults: it stops (12 R372), or, being killed, leaves a record only. -/
def writeFault (s : State) (i : Nat) (st : Status) (addr : Nat) : State :=
  match queueAt s i with
  | none => s
  | some q => if q.state = .killed then commandRecord s i q st 0 0 0 0xFFFF addr else stopNoEntry s i st addr

/-- Changes entry seq of a queue. -/
def onEntry (s : State) (i seq : Nat) (f : Entry → Entry) : State :=
  onQueue s i fun q => { q with entries := q.entries.map fun e => if e.seq = seq then f e else e }

/-- Entry seq of a queue. -/
def entryAt (s : State) (i seq : Nat) : Option Entry :=
  match queueAt s i with
  | some q => q.entries.find? (fun e => e.seq = seq)
  | none => none

/-- An entry ends with a status other than OK in a queue without CONTINUE_ON_ERROR, or its fetch fails (02 R67): the queue
stops, a COMMAND record is written, and the lowest such entry is the stopped entry. -/
def entryFail (s : State) (i seq : Nat) (st : Status) (addr : Nat) (index : Nat := 0xFFFF) : State :=
  match queueAt s i with
  | none => s
  | some q =>
    let raw := match q.entries.find? (fun e => e.seq = seq) with | some e => e.raw | none => []
    let s := commandRecord s i q st seq (byteAt raw 0) (byteAt raw 1) index addr
    let lower : Bool := match q.stoppedAt with | some n => decide (seq < n) | none => true
    let s := onEntry s i seq fun e => { e with phase := .failed st }
    onQueue s i fun q => { q with
      state := stopState q.state
      arm := .none
      stoppedAt := if lower then some seq else q.stoppedAt
      lastStatus := if lower then st else q.lastStatus }

/-- The entry has started and not finished. -/
def isRunning (e : Entry) : Bool := match e.phase with | .running => true | _ => false

/-- A queue in DRAIN whose started commands have all ended goes to KILL (02 R71). -/
def drainCheck (s : State) (i : Nat) : State :=
  onQueue s i fun q => if q.state = .drain ∧ ¬ q.entries.any isRunning then { q with state := .kill } else q

/-- An entry is rejected or its command ends (02 R62, R67). A discard by SCH_DISCARD is exempt from R67 (03 R82). -/
def entryEnd (s : State) (i seq : Nat) (st : Status) (addr : Nat := 0) (index : Nat := 0xFFFF) : State :=
  match queueAt s i with
  | none => s
  | some q =>
    let s :=
      if st = .ok ∨ st = .preemptedDiscarded then onEntry s i seq fun e => { e with phase := .finished st }
      else if q.cont then
        onQueue (onEntry s i seq fun e => { e with phase := .finished st }) i fun q => { q with lastStatus := st }
      else entryFail s i seq st addr index
    drainCheck s i

/-! ### Waits (02 R556) -/

/-- A started command without items has ended: its task leaves the scheduler, and its entry ends. A node waits for
GRAPH_NODE_FINISH. -/
def endBare (s : State) (t : Nat) (st : Status) (addr : Nat := 0) (index : Nat := 0xFFFF) : State :=
  match tget s.fe.tasks t with
  | none => s
  | some k =>
    let st := if k.discarded then Status.preemptedDiscarded else st
    match k.owner with
    | .entry i seq => entryEnd (onFe s fun x => { x with tasks := tdel x.tasks t }) i seq st addr index
    | .node _ _ =>
      if k.ended then s
      else onFe s fun x => { x with tasks := tset x.tasks t { k with eng := .none, status := st, failAddr := addr, ended := true } }

/-- The task is a WAIT SUBOP 0 for queue index i. -/
def waitsFor (k : Task) (i : Nat) : Bool :=
  k.eng = .none ∧ ¬ k.ended ∧ byteAt k.raw 0 = 8 ∧ byteAt k.raw 1 = 0 ∧ fieldAt k.raw 8 4 % 2 ^ 14 = i

/-- WAITs for queue i whose SEQ its completion value has reached finish with OK. -/
def waitsReached (s : State) (i : Nat) : State :=
  match queueAt s i with
  | none => s
  | some q => (s.fe.tasks.filter fun e => waitsFor e.2 i ∧ fieldAt e.2.raw 16 8 ≤ q.seq).foldl
      (fun s e => endBare s e.1 .ok) s

/-- The queue has entered KILLED or FREE: WAITs on it that have not been satisfied finish with ABANDONED. -/
def waitsAbandoned (s : State) (i : Nat) : State :=
  (s.fe.tasks.filter fun e => waitsFor e.2 i).foldl (fun s e => endBare s e.1 .abandoned) s

/-! ### Fences and completion (02 R61 to R66) -/

/-- Virtual write of the front end for a queue. -/
def feWrite (s : State) (q : Queue) (va : Nat) (bs : List Byte) : Status × State :=
  vwrite s 210 7 q.fn q.asid q.ctx va bs

/-- Virtual read of the front end for a queue. -/
def feRead (s : State) (q : Queue) (va n : Nat) : Status × List Byte × State :=
  vread s 210 7 q.fn q.asid q.ctx va n

/-- Bytes 8 to 15 of the completion record as they now stand. -/
def complTail (q : Queue) : List Byte := natLe q.fencePi 4 ++ natLe q.dropped 4

/-- The fence record bytes (02 R64). -/
def fenceBytes (s : State) (i : Nat) (q : Queue) (cookie seq : Nat) (st : Status) (kind : Nat) : List Byte :=
  natLe cookie 8 ++ natLe seq 8 ++ natLe s.time 8 ++ natLe (qHandle i q.gen) 4 ++ natLe (Status.code st) 1
    ++ natLe kind 1 ++ natLe (q.ctx % 4096) 2

/-- The fence ring has room (02 R65). -/
def fenceRoom (q : Queue) : Bool := sub32 q.fencePi q.fenceCi < 2 ^ q.fenceLog2

/-- A fence record is written at FENCE_PI, which then advances; a write that faults stops the queue and leaves FENCE_PI
(02 R64, 12 R372). -/
def fenceWrite (s : State) (i : Nat) (cookie seq : Nat) (st : Status) (kind : Nat) : State :=
  match queueAt s i with
  | none => s
  | some q =>
    let va := q.fenceBase + 32 * (q.fencePi % 2 ^ q.fenceLog2)
    let w := feWrite s q va (fenceBytes s i q cookie seq st kind)
    if w.1 = .ok then onQueue w.2 i fun q => { q with fencePi := (q.fencePi + 1) % 2 ^ 32 } else stopNoEntry w.2 i w.1 va

/-- FENCE_PI of a queue. -/
def fencePiOf (s : State) (i : Nat) : Option Nat := (queueAt s i).map fun q => q.fencePi

/-- FLAGS.FENCE of an entry. -/
def wantsFence (e : Entry) : Bool := bit (byteAt e.raw 2) 0
/-- FLAGS.IRQ of an entry. -/
def wantsIrq (e : Entry) : Bool := bit (byteAt e.raw 2) 1
/-- COOKIE of an entry. -/
def cookieOf (e : Entry) : Nat := fieldAt e.raw 56 8

/-- The KIND of the record that a finished entry owes: 1 for an error under CONTINUE_ON_ERROR, 0 for its FENCE flag
(02 R64, R67). -/
def fenceKind (cont : Bool) (e : Entry) : Option Nat :=
  if e.signalled then none else
  match e.phase with
  | .finished st =>
    if cont ∧ st ≠ .ok ∧ st ≠ .preemptedDiscarded then some 1 else if wantsFence e then some 0 else none
  | _ => none

/-- The cookie a record carries: KIND 1 and 2 records of entries without FENCE carry the number (02 R64). -/
def fenceCookie (e : Entry) (kind : Nat) : Nat := if kind ≠ 0 ∧ ¬ wantsFence e then e.seq else cookieOf e

/-- The run of a queue: finished entries from its front on, as far as the fence ring has room for their records. -/
def runOf (q : Queue) : List Entry → Nat → Nat → List Entry
  | [], _, _ => []
  | e :: t, next, room =>
    match e.phase with
    | .finished _ =>
      if e.seq ≠ next then [] else
      match fenceKind q.cont e with
      | some _ => if room = 0 then [] else e :: runOf q t (next + 1) (room - 1)
      | none => e :: runOf q t (next + 1) room
    | _ => []

/-- The finished run that the next completion write of a queue covers. -/
def runNow (q : Queue) : List Entry :=
  runOf q q.entries (q.seq + 1) (2 ^ q.fenceLog2 - sub32 q.fencePi q.fenceCi - q.owed.length)

/-- H of R46: the index of the oldest unfinished entry. An entry whose fence record waits for room is unfinished (R65). -/
def oldest (q : Queue) : Nat := q.seq + (runNow q).length

/-- The status of a finished entry. -/
def endStatus (e : Entry) : Status := match e.phase with | .finished st => st | _ => .ok

/-- Writes bytes 8 to 15 of the completion record, after fence records (02 R63). -/
def tailWrite (s : State) (i : Nat) : State :=
  match queueAt s i with
  | none => s
  | some q =>
    let w := feWrite s q (q.compl + 8) (complTail q)
    if w.1 = .ok then w.2 else stopNoEntry w.2 i w.1 (q.compl + 8)

/-- The completion value of a queue takes a new value at this time. -/
def seqWritten (s : State) (i v : Nat) : State :=
  onQueue s i fun q => { q with seq := v, wroteAt := s.time, seqWas := if q.wroteAt = s.time then q.seqWas else q.seq }

/-- The fence records that covered entries are owed, in order. The first that finds no room or whose write faults stays owed with
those behind it, and is written after the queue has been resumed: each fence is signalled exactly once (R64, R66, log 116). -/
def writeOwed (i : Nat) : List Entry → State → State
  | [], s => s
  | e :: t, s =>
    match queueAt s i with
    | none => s
    | some q =>
      let keep (s : State) : State := onQueue s i fun q => { q with owed := e :: t }
      let k := (fenceKind q.cont e).getD 0
      let w := fenceWrite s i (fenceCookie e k) e.seq (endStatus e) k
      if ¬ fenceRoom q then keep s
      else if fencePiOf w i = some q.fencePi then keep w
      else writeOwed i t w

/-- The completion write that covers a run of a queue (02 R63): the record with SEQ, then the fence records that are owed, in order;
where one has been written, bytes 8 to 15 again and the fence vector; then the completion vector, and the WAITs that the new value
satisfies. A stopped queue's record that has faulted waits for its resumption. -/
def coverRun (i : Nat) (run : List Entry) (s : State) : State :=
  match queueAt s i with
  | none => s
  | some q =>
    let last := match run.getLast? with | some e => e.seq | none => q.seq
    let w := feWrite s q q.compl (natLe last 8 ++ complTail q)
    if w.1 ≠ .ok then writeFault w.2 i w.1 q.compl
    else
      let s := onQueue (seqWritten w.2 i last) i fun q => { q with entries := q.entries.filter fun e => last < e.seq, owed := [] }
      let owed := q.owed ++ run.filter fun e => (fenceKind q.cont e).isSome
      let s := if q.state = .stopped ∧ q.owed ≠ [] then onQueue s i fun q => { q with owed := owed } else writeOwed i owed s
      let s := if fencePiOf s i = some q.fencePi then s else msixRaise (tailWrite s i) q.fn q.fenceVec
      let s := if run.any wantsIrq then msixRaise s q.fn q.compVec else s
      waitsReached s i

/-- COMPLETION_WRITE (02 R63): nothing while no run has finished and no record is owed. -/
def completionWrite (i : Nat) (s : State) : State :=
  match queueAt s i with
  | none => s
  | some q => if runNow q = [] ∧ (q.owed = [] ∨ q.state = .stopped) then s else coverRun i (runNow q) s

/-- COMPLETION_WRITE. -/
def execCompletionWrite (i : Nat) (s : State) : Out := unitStep s 0x112 (completionWrite i)

/-! ### FE_QCMD (02 R38 to R44) -/

/-- FE_QRESULT of an operation that has ended. -/
def qResult (s : State) (f : Nat) (st : Status) (h : Nat) : State :=
  rset s .FE_QRESULT (Status.code st <<< 32 + h % 2 ^ 32) f

/-- The lowest free queue index in the partition of a function. -/
def freeQueue (s : State) (f : Nat) : Option Nat :=
  (upFrom (64 * fget s F.FE_PART.Q_BASE 0 f) (64 * fget s F.FE_PART.Q_COUNT 0 f)).find? fun i => (queueAt s i).isNone

/-- An accepted FE_QCMD write: discarded while BUSY is 1 (02 R42). -/
def qCmd (s : State) (f : Nat) (k : State → State) : Out :=
  busWrite s .FE_QCMD f 0 fun s => if flag s F.FE_QRESULT.BUSY f then s else k s

/-- QUEUE_CREATE (02 R39, R551): with no free index LENGTH_RANGE; else BUSY, and the descriptor read is outstanding; STATUS and
HANDLE stay until it ends. -/
def execQueueCreate (f : Nat) (s : State) : Out :=
  qCmd s f fun s =>
    match freeQueue s f with
    | none => qResult s f .lengthRange 0
    | some i => onFe (fset s F.FE_QRESULT.BUSY 1 f) fun x => { x with creating := tset x.creating f i }

/-- The checks on a descriptor, after its read (02 R39 order 4 to 8). -/
def descCheck (s : State) (f : Nat) (d : List Byte) : Option Status :=
  let c := fieldAt d 12 2
  let flags := fieldAt d 34 2
  let cls := byteAt d 33
  let size := vectorCount f
  if (d.drop 9).take 3 ≠ zeros 3 ∨ c / 4096 ≠ 0 ∨ flags / 16 ≠ 0 ∨ (d.drop 41).take 23 ≠ zeros 23 ∨ 3 < cls then
    some .badOpcode
  else if (cls ≠ 0 ∧ f ≠ 0) ∨ c = 0 ∨ ¬ inCtx s f c
      ∨ (bit flags 3 ∧ f ≠ 0 ∧ c ≠ 16 * fget s F.FE_PART.CTX_BASE 0 f) then some .permission
  else if ctxGone s c then some .staleHandle
  else if byteAt d 8 < 6 ∨ 20 < byteAt d 8 ∨ byteAt d 32 < 7 ∨ 16 < byteAt d 32
      ∨ size ≤ fieldAt d 36 2 ∨ size ≤ fieldAt d 38 2 then some .lengthRange
  else if fieldAt d 0 8 % 4096 ≠ 0 ∨ fieldAt d 16 8 % 16 ≠ 0 ∨ fieldAt d 24 8 % 4096 ≠ 0 then some .badAlignment
  else none

/-- The queue that a checked descriptor describes: IDLE and armed (02 R40). -/
def queueFrom (f gen : Nat) (d : List Byte) : Queue :=
  let flags := fieldAt d 34 2
  { gen := gen, fn := f, ctx := fieldAt d 12 2, asid := fieldAt d 14 2, ringBase := fieldAt d 0 8, ringLog2 := byteAt d 8,
    compl := fieldAt d 16 8, fenceBase := fieldAt d 24 8, fenceLog2 := byteAt d 32, cls := byteAt d 33,
    cont := bit flags 0, legacy := bit flags 1, resident := bit flags 2, admin := bit flags 3,
    compVec := fieldAt d 36 2, fenceVec := fieldAt d 38 2, prio := byteAt d 40 }

/-- QUEUE_DESCRIPTOR_READ_DONE (02 R38 to R40). -/
def execQueueDescriptorReadDone (f : Nat) (s : State) : Out :=
  unitStep s 0x112 fun s =>
    match tget s.fe.creating f with
    | none => s
    | some i =>
      let s := onFe s fun x => { x with creating := tdel x.creating f }
      let r := ipaRead s f (rget s .FE_QARG f) 64
      let s := r.2.2
      let refuse st := qResult s f st 0
      if r.1 ≠ .ok then refuse r.1
      else match descCheck s f r.2.1 with
        | some st => refuse st
        | none =>
          let gen := tgetD s.fe.qGen i 1
          let q := queueFrom f gen r.2.1
          let s := onFe s fun x => { x with queues := tset x.queues i q }
          let w := feWrite s q q.compl (zeros 16)
          let s := qResult w.2 f .ok (qHandle i gen)
          if w.1 = .ok then s else stopNoEntry s i w.1 q.compl

/-- The handle that FE_QARG names, for the operations other than CREATE. -/
def qArg (s : State) (f : Nat) : Nat := rget s .FE_QARG f % 2 ^ 32


/-- Both resumptions (02 R44): the fetch index goes to n entries, the shadow with it; of the entries above n, those that had
started stay known, so that fetch passes over them, and the others are forgotten. -/
def resumeAt (s : State) (i n : Nat) : State :=
  onQueue s i fun q => { q with
    state := .active, fetch := n, shadow := n % 2 ^ 32, stoppedAt := none
    entries := q.entries.filter fun e =>
      match e.phase with
      | .running => true
      | .finished _ => true
      | _ => decide (e.seq ≤ n) }

/-- The number of the stopped entry; a queue stopped by no entry resumes where its fetch stands. -/
def stoppedSeq (q : Queue) : Nat := q.stoppedAt.getD (q.fetch + 1)

/-- QUEUE_RESUME (02 R44). -/
def execQueueResume (f : Nat) (s : State) : Out :=
  qCmd s f fun s =>
    let h := qArg s f
    match queueOf s f h with
    | none => qResult s f .staleHandle h
    | some (i, q) =>
      if q.state = .stopped then qResult (resumeAt s i (stoppedSeq q - 1)) f .ok h
      else qResult s f .permission h

/-- QUEUE_RESUME_SKIP (02 R44): the stopped command counts as finished with its status. -/
def execQueueResumeSkip (f : Nat) (s : State) : Out :=
  qCmd s f fun s =>
    let h := qArg s f
    match queueOf s f h with
    | none => qResult s f .staleHandle h
    | some (i, q) =>
      if q.state = .stopped then
        match q.stoppedAt with
        | none => qResult (resumeAt s i q.fetch) f .ok h
        | some n =>
          let s := onEntry s i n fun e => { e with phase := match e.phase with | .failed st => .finished st | p => p }
          qResult (resumeAt s i n) f .ok h
      else qResult s f .permission h

/-- QCMD_UNDEFINED_OP (02 R42, FE_QCMD): an OP of 1 to 4 is no such write. HANDLE is 0, since the write names no operation (log 117). -/
def execQcmdUndefinedOp (f op : Nat) (s : State) : Out :=
  qCmd s f fun s =>
    if 1 ≤ op % 16 ∧ op % 16 ≤ 4 then s else qResult s f .badOpcode 0

/-! ### Doorbells (02 R45 to R48) -/

/-- Doorbell capture posts the lowest pending queue of class 1 to 3 on channel 3 while the channel is empty (17 R496). -/
def notifyScheduler (s : State) : State :=
  if (chan s 3).full then s
  else match s.fe.queues.find? (fun e => e.2.cls ≠ 0 ∧ e.2.pend) with
    | none => s
    | some (i, _) => chSend (onQueue s i fun q => { q with pend := false }) 3 i

/-- DB_WRITE_INDEX (02 R46): function f writes W to the page of queue index i; the write is timestamped, then the first matching row
applies. A resident queue's groups are woken (R68). -/
def execDbWriteIndex (f i w : Nat) (s : State) : Out :=
  engineStep s fun s =>
    match queueAt s i with
    | none => s
    | some q =>
      if ¬ (fnExists s f ∧ inQ s f i) ∨ (fnCfg s f).inFlr then s else
      let w := w % 2 ^ 32
      let s := onQueue s i fun q => { q with rangAt := s.time }
      match q.state with
      | .drain | .kill | .killed => s
      | _ =>
        let d := sub32 w q.shadow
        if 2 ^ 31 ≤ d ∨ d = 0 then s
        else if 2 ^ q.ringLog2 < sub32 w (oldest q) then stopNoEntry s i .lengthRange w
        else
          let s := onQueue s i fun q => { q with
            shadow := w, pend := true, wake := q.wake || q.armed, armed := false, coreWake := q.coreWake || q.resident }
          demand (if q.cls = 0 then s else notifyScheduler s) 41

/-- DB_FENCE_CI (02 R45, R65): space is freed; the records that waited are written with their run, or by the launch that
waits for them. -/
def dbFenceCi (f i ci : Nat) (s : State) : State :=
  match queueAt s i with
  | none => s
  | some _ => if inQ s f i then onQueue s i fun q => { q with fenceCi := ci % 2 ^ 32 } else s

/-- QUEUE_ARM_SEND (02 R47 step 1). -/
def execQueueArmSend (i : Nat) (s : State) : Out :=
  unitStep s 0x112 fun s =>
    match queueAt s i with
    | none => s
    | some q =>
      if q.state = .active ∧ q.fetch % 2 ^ 32 = q.shadow ∧ domOn s 41 then
        onQueue s i fun q => { q with state := .idleArmed, arm := .sent }
      else s

/-- ARM_SERVE (02 R47 step 2). -/
def execArmServe (i : Nat) (s : State) : Out :=
  engineStep s fun s => onQueue s i fun q =>
    if q.arm = .sent then { q with arm := .returned q.shadow, pend := false, armed := true } else q

/-- ARM_RETURN_COMPARE (02 R47 step 4, R48): a wake that is on its way takes precedence. -/
def execArmReturnCompare (i : Nat) (s : State) : Out :=
  unitStep s 0x112 fun s => onQueue s i fun q =>
    match q.arm with
    | .returned v =>
      if q.state = .idleArmed then
        if q.wake ∨ v ≠ q.fetch % 2 ^ 32 then { q with state := .active, arm := .none, wake := false }
        else { q with state := .idle, arm := .none }
      else { q with arm := .none }
    | _ => q

/-- WAKE_ARRIVE (02 R48). -/
def execWakeArrive (i : Nat) (s : State) : Out :=
  unitStep s 0x112 fun s => onQueue s i fun q =>
    if q.wake ∧ domOpen s 41 then
      { q with wake := false, state := if q.state = .idle ∨ q.state = .idleArmed then .active else q.state }
    else q

/-! ### Objects (02 R57, R58, R555) -/

/-- FE_OBJ_RESULT of an operation that has ended. -/
def oResult (s : State) (f : Nat) (st : Status) (h : Nat) : State :=
  rset s .FE_OBJ_RESULT (Status.code st <<< 32 + h % 2 ^ 32) f

/-- An accepted FE_OBJ_CMD write. -/
def oCmd (s : State) (f : Nat) (k : State → State) : Out :=
  busWrite s .FE_OBJ_CMD f 0 fun s => if flag s F.FE_OBJ_RESULT.BUSY f then s else k s

/-- The lowest free object index in the partition of a function. -/
def freeObj (s : State) (f : Nat) : Option Nat :=
  (upFrom (256 * fget s F.FE_PART.OBJ_BASE 0 f) (256 * fget s F.FE_PART.OBJ_COUNT 0 f)).find?
    fun i => (tget s.fe.objs i).isNone

/-- OBJECT_CREATE (02 R555). rsvd says that a RSVD bit of the written FE_OBJ_CMD is nonzero. -/
def execObjectCreate (f : Nat) (rsvd : Bool) (s : State) : Out :=
  oCmd s f fun s =>
    let attr := rget s .FE_OBJ_ATTR f
    let size := rget s .FE_OBJ_SIZE f
    let addr := rget s .FE_OBJ_ADDR f
    let c := bits attr 11 0
    let refuse st := oResult s f st 0
    if rsvd ∨ bits attr 31 20 ≠ 0 ∨ bit attr 15 ∨ 5 < bits attr 19 16 then refuse .badOpcode
    else if c = 0 ∨ ¬ inCtx s f c ∨ ctxGone s c then refuse .permission
    else if size = 0 ∨ 2 ^ 48 < size then refuse .lengthRange
    else match freeObj s f with
      | none => refuse .lengthRange
      | some i =>
        if addr % 256 ≠ 0 then refuse .badAlignment
        else
          let gen := tgetD s.fe.objGen i 1
          let o : Obj := { idx := i, gen := gen, base := addr, size := size, kind := bits attr 19 16, ctx := c,
                           shared := bit attr 14, write := bit attr 13, read := bit attr 12 }
          -- the index's version counter starts again (09 R271)
          let s := { s with gfx := { s.gfx with versions := tdel s.gfx.versions i } }
          oResult (onFe s fun x => { x with objs := tset x.objs i o }) f .ok (oHandle i gen)

/-- OBJ_CMD_UNDEFINED_OP (02 R555, R58): an OP of 1 or 2 with RSVD 0 is no such write. -/
def execObjCmdUndefinedOp (f op : Nat) (s : State) : Out :=
  oCmd s f fun s => if op = 1 ∨ op = 2 then s else oResult s f .badOpcode 0

/-! ### WAIT polling and WAIT timeout (02 R52, R556) -/

/-- The object and offset of a WAIT SUBOP 1, as a virtual address. -/
def waitAddr (k : Task) : Nat := (match tget k.objs 8 with | some o => o.base | none => 0) + fieldAt k.raw 24 8

/-- The task is a WAIT of a SUBOP that has not ended. -/
def isWait (k : Task) (sub : Nat) : Bool := k.eng = .none ∧ ¬ k.ended ∧ byteAt k.raw 0 = 8 ∧ byteAt k.raw 1 = sub

/-- WAIT_POLL (02 R556): the word is read again. -/
def execWaitPoll (t : Nat) (s : State) : Out :=
  unitStep s 0x112 fun s =>
    match tget s.fe.tasks t with
    | none => s
    | some k => if isWait k 1 ∧ ¬ k.reading then onFe s fun x => { x with tasks := tset x.tasks t { k with reading := true } } else s

/-- WAIT_POLL_READ_DONE (02 R556): OK at a value not below VALUE; the fault's status where the read faults. -/
def execWaitPollReadDone (t : Nat) (s : State) : Out :=
  unitStep s 0x112 fun s =>
    match tget s.fe.tasks t with
    | none => s
    | some k =>
      if ¬ (isWait k 1 ∧ k.reading) then s else
      let r := vread s 210 7 k.fn k.asid k.ctx (waitAddr k) 8
      let s := onFe r.2.2 fun x => { x with tasks := tset x.tasks t { k with reading := false } }
      if r.1 ≠ .ok then endBare s t r.1 (waitAddr k)
      else if fieldAt k.raw 16 8 ≤ leNat r.2.1 then endBare s t .ok
      else s

/-- WAIT_TIMEOUT (02 R52): TIMEOUT_US after the command's start it ends with WATCHDOG. -/
def execWaitTimeout (t : Nat) (s : State) : Out :=
  unitStep s 0x112 fun s =>
    match tget s.fe.tasks t with
    | none => s
    | some k => if (isWait k 0 ∨ isWait k 1) ∧ fieldAt k.raw 32 4 ≠ 0 ∧ k.start + 1000 * fieldAt k.raw 32 4 ≤ s.time then endBare s t .watchdog else s

end Sys2Proof.Machine
end

