-- ==== Sys2Proof/Machine/Memory.lean ====
section
/-!
DEFINITION. Machine/Memory.lean: the meanings of the level-2 cache, HBM3E, maintenance and arbiter commands
(11 R315 to R335, R345 to R349).
-/

namespace Sys2Proof.Machine

/-! ### Level-2 requests -/

/-- A slice answers a request. -/
def answer (s : State) (id : Nat) (st : Status) (bs : List Byte) : State :=
  onMem s fun m => { m with answers := m.answers ++ [{ id := id, status := st, bytes := bs }] }

/-- MISS_BUSY of a slice follows its miss registers (11 R350 L2_SLICE_STATUS). -/
def missBusy (s : State) (slice : Nat) : State :=
  fset s F.L2_SLICE_STATUS.MISS_BUSY (s.mem.misses.countP fun m => paSlice (m.la * 128) = slice) 0 slice

/-- A request is served on the lines the cache now holds (11 R326). -/
def serve (s : State) (r : L2Req) : State :=
  match r.op with
  | .read n => let x := devRead s r.cls r.pa n; answer x.2.2 r.id x.1 x.2.1
  | .write bs => let x := devWrite s r.cls r.pa bs; answer x.2 r.id x.1 []
  | op => let x := devAtomic s r.cls r.pa op; answer x.2.2 r.id x.1 (natLe x.2.1 op.width)

/-- The way of a hit is damaged (11 R328, R329): a corrected error is counted; an uncorrectable one poisons the line; a tag
parity error drops a clean way and is counted, and on a dirty way is a unit-level fault of the slice. -/
def wayError (s : State) (la n : Nat) (e : L2Err) : State :=
  let k := wayKey (la * 128) n
  let slice := paSlice (la * 128)
  match e with
  | .none => s
  | .corrected => fcount s F.L2_SLICE_STATUS.CORRECTED 0 slice
  | .uncorrectable =>
    fcount (onMem s fun m => { m with ways := tupd m.ways k fun l => { l with poisoned := true } })
      F.L2_SLICE_STATUS.UNCORRECTED 0 slice
  | .tagParity =>
    match tget s.mem.ways k with
    | some l =>
      if l.dirty then
        let set := paSet (la * 128)
        -- the line is lost (13 R397): memory keeps its earlier value
        raise (fcount (onMem s fun m => { m with ways := tdel m.ways k }) F.L2_SLICE_STATUS.TAG_PARITY 0 slice)
          { time := 0, unit := 0xE0 + slice, status := .uncorrectableEcc, level := 3, context := none, dataLost := true,
            function := none, detail := .memory 0 2 0xFF slice n set 0xFFFF 0 0 }
      else fcount (onMem s fun m => { m with ways := tdel m.ways k }) F.L2_SLICE_STATUS.TAG_PARITY 0 slice
    | none => s

/-- Whether a request needs no fill: a full-line write stores its line without reading memory (11 R326). -/
def fullLine (r : L2Req) : Bool :=
  match r.op with
  | .write bs => bs.length = 128 ∧ r.pa % 128 = 0
  | _ => false

/-! ### Pseudo-channel queues (11 R319) -/

/-- The requests queued in a pseudo-channel, oldest first. -/
def pcQueue (s : State) (c : Nat) : List PcReq := tgetD s.mem.pcq c []

/-- A line is queued or waits to be. -/
def pcHas (s : State) (la : Nat) : Bool := (pcQueue s (paChannel (la * 128))).any fun r => r.la = la

/-- Misses of a pseudo-channel enter its queue in the order of their miss registers while it has room. -/
def pcAdmit (s : State) (c : Nat) : State :=
  let new := (s.mem.misses.filter fun m => paChannel (m.la * 128) = c ∧ ¬ pcHas s m.la).map fun m => ({ la := m.la } : PcReq)
  let q := pcQueue s c
  onMem s fun m => { m with pcq := match q ++ new.take (64 - q.length) with | [] => tdel m.pcq c | l => tset m.pcq c l }

/-- A queued line may be served next: no earlier request of its 256-byte unit waits, and none that has been passed 16 times. -/
def pcMay (s : State) (la : Nat) : Bool :=
  let q := pcQueue s (paChannel (la * 128))
  q.any (fun r => r.la = la) && (q.takeWhile fun r => r.la ≠ la).all fun r => decide (r.la / 2 ≠ la / 2 ∧ r.passed < 16)

/-- A queued line is served: every earlier request has been passed once more. -/
def pcServe (s : State) (la : Nat) : State :=
  let c := paChannel (la * 128)
  let q := pcQueue s c
  let early := (q.takeWhile fun r => r.la ≠ la).map fun r => { r with passed := r.passed + 1 }
  let late := (q.dropWhile fun r => r.la ≠ la).drop 1
  onMem s fun m => { m with pcq := match early ++ late with | [] => tdel m.pcq c | l => tset m.pcq c l }

/-- A slice looks up a request (11 R326, R327, R330, R332); one to a line whose miss register is in use joins it, whatever it is, so that
requests to a line are answered in arrival order. -/
def lookup (s : State) (r : L2Req) (e : L2Err) : State :=
  let la := r.pa / 128
  let slice := paSlice r.pa
  match l2Refusal s r.pa 1 with
  | some st => answer s r.id st []
  | none =>
    if fget s F.L2_SLICE_STATUS.STATE 0 slice = 1 ∨ recovering s (0xE0 + slice) then onMem s fun m => { m with held := m.held ++ [r] }
    else
    let hold (s : State) : State := onMem s fun x => { x with held := x.held ++ [r] }
    match s.mem.misses.find? (fun m => m.la = la) with
    | some m =>
      if m.merged.length < 8 then
        onMem s fun x => { x with misses := x.misses.map fun q =>
          if q.la = la then { q with merged := q.merged ++ [r] } else q }
      else hold s
    | none =>
      let s := match wayOf s la with
        | some n => wayError s la n e
        | none => s
      if (wayOf s la).isSome ∨ fullLine r then serve s r
      else if fget s F.L2_SLICE_STATUS.MISS_BUSY 0 slice < 64 then
        pcAdmit (missBusy (onMem s fun x => { x with misses := x.misses ++ [{ la := la, primary := r }] }) slice) (paChannel r.pa)
      else hold s

/-- Requests held at a slice's input that satisfy p are looked up again, in arrival order. -/
def retryHeld (s : State) (p : L2Req → Bool) : State :=
  let go := s.mem.held.filter p
  let s := onMem s fun m => { m with held := m.held.filter fun r => ¬ p r }
  go.foldl (fun s r => lookup s r .none) s

/-- L2_REQUEST_LOOKUP. -/
def l2RequestLookup (r : L2Req) (e : L2Err) (s : State) : State := (lookup s r e)

/-- L2_REQUEST_LOOKUP. -/
def execL2RequestLookup (r : L2Req) (e : L2Err) (s : State) : Out := engineStep s fun s => l2RequestLookup r e s

/-- A stack's queues have emptied: the refreshes it postponed are caught up (11 R321). -/
def catchUp (s : State) (k : Nat) : State :=
  if (s.mem.misses.any fun m => decide (paStack (m.la * 128) = k)) ∨ (stackOf s k).postponed = 0 then s
  else onMem s fun m => { m with stackTbl := tset m.stackTbl k { stackOf s k with postponed := 0 } }

/-- L2_MISS_FILL (11 R319, R320, R323, R327): the pseudo-channel serves a queued line that it may serve, the stack's report is counted
or marks the line that this read delivers, the line is filled, and the merged requests are answered in arrival order. A fill for a line
with no miss register is none; none arrives from a stack whose latched pads keep it in self-refresh (18 R516), and none while the
controller or the slice is under recovery, which holds what it has accepted (13 R396). -/
def l2MissFill (la : Nat) (rep : HbmReport) (s : State) : State :=
  match s.mem.misses.find? (fun m => m.la = la) with
  | none => s
  | some m =>
    let pa := la * 128
    let k := paStack pa
    if (stackOf s k).selfRefresh ∧ stackPads s k ∨ ¬ pcMay s la ∨ recovering s (0x100 + k) ∨ recovering s (0xE0 + paSlice pa) then s else
    let s := pcServe s la
    let s := match rep with
      | .clean => s
      | .corrected => fcount s F.MEM_STACK_STATUS.CORRECTED 0 k
      | .uncorrectable =>
        let s := fcount (onMem s fun x => { x with poisoned := nins x.poisoned la }) F.MEM_STACK_STATUS.UNCORRECTED 0 k
        rset s .MEM_ERR_ADDR (2 ^ 63 + paChannel pa <<< 38 + pa)
    let s := fillLine s m.primary.cls la
    let s := (m.primary :: m.merged).foldl serve s
    let s := onMem s fun x => { x with misses := x.misses.filter fun q => q.la ≠ la, poisoned := ndel x.poisoned la }
    let s := pcAdmit (missBusy s (paSlice pa)) (paChannel pa)
    catchUp (retryHeld s fun r => paSlice r.pa = paSlice pa) k

/-- L2_MISS_FILL. -/
def execL2MissFill (la : Nat) (rep : HbmReport) (s : State) : Out := engineStep s fun s => l2MissFill la rep s

/-! ### Stacks -/

/-- The stack has requests queued: a miss register of its quadrant is in use. -/
def stackBusy (s : State) (k : Nat) : Bool := s.mem.misses.any fun m => paStack (m.la * 128) = k

/-- HBM_REFRESH (11 R321): postponed while requests are queued and POSTPONE allows; where it allows no more, this one is issued and those
postponed stay so until the queue empties. -/
def hbmRefresh (k : Nat) (s : State) : State :=
  let st := stackOf s k
  let p := if ¬ stackBusy s k then 0 else if st.postponed < fget s F.MEM_REFRESH.POSTPONE then st.postponed + 1 else st.postponed
  onMem s fun m => { m with stackTbl := tset m.stackTbl k { st with postponed := p } }

/-- HBM_REFRESH. -/
def execHbmRefresh (k : Nat) (s : State) : Out := unitStep s (0x100 + k) fun s => hbmRefresh k s

/-- HBM_SELF_REFRESH_ENTRY (11 R322): the controller has been idle for SR_IDLE_US, 0 meaning never; contents are kept. -/
def hbmSelfRefreshEntry (k : Nat) (s : State) : State :=
  if stackOn s k ∧ ¬ stackBusy s k ∧ fget s F.MEM_STACK_CTL.SR_IDLE_US 0 k ≠ 0 then
    fset (onMem s fun m => { m with stackTbl := tset m.stackTbl k { stackOf s k with selfRefresh := true } })
      F.MEM_STACK_STATUS.STATE 1 0 k
  else s

/-- HBM_SELF_REFRESH_ENTRY. -/
def execHbmSelfRefreshEntry (k : Nat) (s : State) : Out := unitStep s (0x100 + k) fun s => hbmSelfRefreshEntry k s

/-- HBM_SELF_REFRESH_EXIT (11 R322). -/
def hbmSelfRefreshExit (k : Nat) (s : State) : State := (if stackOn s k then stackWake s k else s)

/-- HBM_SELF_REFRESH_EXIT. -/
def execHbmSelfRefreshExit (k : Nat) (s : State) : Out := unitStep s (0x100 + k) fun s => hbmSelfRefreshExit k s

/-- L2_INVALIDATE_DONE (11 R332): the slice becomes ready and the requests it held proceed. -/
def l2InvalidateDone (slice : Nat) (s : State) : State :=
  (if fget s F.L2_SLICE_STATUS.STATE 0 slice = 1 then
    retryHeld (fset s F.L2_SLICE_STATUS.STATE 0 0 slice) fun r => paSlice r.pa = slice else s)

/-- L2_INVALIDATE_DONE. -/
def execL2InvalidateDone (slice : Nat) (s : State) : Out := engineStep s fun s => l2InvalidateDone slice s

/-! ### Maintenance (11 R333 to R335) -/

/-- CLEAN, INVALIDATE or both on one way (op 1, 2, 3): lines written back, and the state. -/
def maintWay (op : Nat) (x : Nat × State) (k : Nat) : Nat × State :=
  match tget x.2.mem.ways k with
  | none => x
  | some l =>
    let s := if l.dirty ∧ op ≠ 2 then writeBack x.2 l else x.2
    let n := if l.dirty ∧ op ≠ 2 then x.1 + 1 else x.1
    if op = 1 then (n, onMem s fun m => { m with ways := tset m.ways k { l with dirty := false } })
    else (n, onMem s fun m => { m with ways := tdel m.ways k })

/-- The maintenance operation on every held way whose key satisfies p. -/
def maintWays (s : State) (op : Nat) (p : Nat → Line → Bool) : Nat × State :=
  ((s.mem.ways.filter fun e => p e.1 e.2).map Prod.fst).foldl (maintWay op) (0, s)

/-- The first condition of 11 R334 that holds for an operation of a scope. -/
def maintCheck (s : State) (op scope : Nat) : Option Status :=
  let a := rget s .L2_MAINT_ARG0
  let n := rget s .L2_MAINT_ARG1
  let start := a % 2 ^ 38
  if op = 0 ∨ scope = 3 then some .badOpcode
  else if scope = 0 ∧ (start % 128 ≠ 0 ∨ n % 128 ≠ 0) then some .badAlignment
  else if scope = 0 ∧ deviceLimit < start + n then some .lengthRange
  else if scope = 1 ∧ (31 < bits a 63 0 % 2 ^ 8 ∨ bits a 27 18 < bits a 17 8) then some .lengthRange
  else if scope = 0 ∧ (List.range 32).any (fun q => ¬ sliceOn s q ∧ (16 * 2 ^ 20 < n ∨
      (linesOf start (Nat.min n (16 * 2 ^ 20))).any fun la => paSlice (la * 128) = q)) then some .domainOff
  else if scope = 1 ∧ ¬ sliceOn s (a % 32) then some .domainOff
  else none

/-- A maintenance command (11 R333): discarded while one is in progress (R42); refused by R334 with no effect; else its
covered lines are treated and BUSY stands until the write-backs are accepted. -/
def maintain (op scope : Nat) (s : State) : State :=
  if flag s F.L2_MAINT_RESULT.BUSY then s else
  let a := rget s .L2_MAINT_ARG0
  let n := rget s .L2_MAINT_ARG1
  let done st := rset s .L2_MAINT_RESULT (Status.code st <<< 32)
  match maintCheck s op scope with
  | some e => done e
  | none =>
    if scope = 0 ∧ n = 0 then done .ok
    else
      let all := scope = 2 ∨ (scope = 0 ∧ 16 * 2 ^ 20 < n)
      let cover (k : Nat) (l : Line) : Bool :=
        if all then sliceOn s (k / 16384)
        else if scope = 0 then a % 2 ^ 38 ≤ l.la * 128 ∧ l.la * 128 < a % 2 ^ 38 + n
        else k / 16384 = a % 32 ∧ bits a 17 8 ≤ k / 16 % 1024 ∧ k / 16 % 1024 ≤ bits a 27 18 ∧ bit (bits a 47 32) (k % 16)
      let r := maintWays s op cover
      let skipped := all ∧ (List.range 32).any fun q => domNow s (32 + q / 8) = 1
      let parked := (r.2.mem.parkedWb.drop s.mem.parkedWb.length).map fun l => l.la
      let s := onMem r.2 fun m => { m with maint := some { op := op, skipped := skipped, parked := parked } }
      rset s .L2_MAINT_RESULT (2 ^ 63 + (if all ∧ scope = 0 then 2 ^ 31 else 0) + Nat.min r.1 (2 ^ 31 - 1))

/-- L2_MAINT_CLEAN. -/
def l2MaintClean (scope : Nat) (s : State) : State := (maintain 1 scope s)

/-- L2_MAINT_CLEAN. -/
def execL2MaintClean (scope : Nat) (s : State) : Out := busWrite s .L2_MAINT_CMD 0 0 fun s => l2MaintClean scope s
/-- L2_MAINT_INVALIDATE. -/
def l2MaintInvalidate (scope : Nat) (s : State) : State := (maintain 2 scope s)

/-- L2_MAINT_INVALIDATE. -/
def execL2MaintInvalidate (scope : Nat) (s : State) : Out := busWrite s .L2_MAINT_CMD 0 0 fun s => l2MaintInvalidate scope s
/-- L2_MAINT_CLEAN_INVALIDATE. -/
def l2MaintCleanInvalidate (scope : Nat) (s : State) : State := (maintain 3 scope s)

/-- L2_MAINT_CLEAN_INVALIDATE. -/
def execL2MaintCleanInvalidate (scope : Nat) (s : State) : Out := busWrite s .L2_MAINT_CMD 0 0 fun s => l2MaintCleanInvalidate scope s
/-- L2_MAINT_UNDEFINED_OP: OP 0, or SCOPE 3 with any OP (11 R334); anything else is no such command and has no effect here. -/
def l2MaintUndefinedOp (op scope : Nat) (s : State) : State :=
  (if op = 0 ∨ scope = 3 then maintain op scope s else s)

/-- L2_MAINT_UNDEFINED_OP. -/
def execL2MaintUndefinedOp (op scope : Nat) (s : State) : Out := busWrite s .L2_MAINT_CMD 0 0 fun s => l2MaintUndefinedOp op scope s

/-- L2_MAINT_DONE (11 R333, R334): once the controllers have accepted every line written back, BUSY falls; an ALL that skipped a slice in
RETENTION ends with DOMAIN_OFF. -/
def l2MaintDone (s : State) : State :=
  match s.mem.maint with
  | none => s
  | some m =>
    if s.mem.parkedWb.any fun l => m.parked.contains l.la then s else
    let s := fset (fset s F.L2_MAINT_RESULT.BUSY 0) F.L2_MAINT_RESULT.STATUS
      (Status.code (if m.skipped then .domainOff else .ok))
    (onMem s fun x => { x with maint := none })

/-- L2_MAINT_DONE. -/
def execL2MaintDone (s : State) : Out := engineStep s fun s => l2MaintDone s

/-! ### Arbiters (11 R345 to R349) -/

/-- n blocked steps are charged to a context, with the aggressor it lost to, in the window of the time base value at which the arbiter
refuses (03 R102, 01 R27); a refusal in favour of the same context is not counted. -/
def chargeBlocked (s : State) (ctx aggressor n : Nat) : State :=
  if ctx = aggressor then s
  else onIntf s ctx fun x => { x with blocked := x.blocked + n, by_ := tmod x.by_ aggressor 0 (· + n) }

/-- The key of an arbiter. -/
def arbKey (kind inst : Nat) : Nat := kind * 256 + inst

/-- Changes an arbiter. -/
def onArb (s : State) (k : Nat) (f : Arbiter → Arbiter) : State :=
  onMem s fun m => { m with arbiters := tmod m.arbiters k {} f }

/-- The asks in ascending unit number, one per unit: a unit already waiting keeps its place (11 R347). -/
def addAsk (l : List Ask) (a : Ask) : List Ask :=
  if l.any (fun x => x.unit = a.unit) then l
  else l.filter (fun x => x.unit < a.unit) ++ [a] ++ l.filter (fun x => a.unit < x.unit)

/-- The next ask by round robin: the lowest above the last granted, else the lowest. -/
def nextAsk (last : Nat) (l : List Ask) : Option Ask :=
  match l.find? (fun a => last < a.unit) with
  | some a => some a
  | none => l.head?

/-- ARBITER_GRANT (11 R345, R346, R348): new asks join, the holder of a revoked grant comes first with a grant that cannot be
revoked again, else round robin; with nobody asking the grant stays parked. Every ask refused in favour of another context
is charged a blocked step. -/
def arbiterGrant (kind inst : Nat) (asks : List Ask) (s : State) : State :=
  let k := arbKey kind inst
  let a := tgetD s.mem.arbiters k {}
  let waiting := asks.foldl addAsk a.waiting
  match (match a.revoked with | some h => some (h, true) | none => (nextAsk a.last waiting).map (·, false)) with
  | none => (onArb s k fun x => { x with waiting := waiting })
  | some (w, fixed) =>
    let rest := waiting.filter fun x => x.unit ≠ w.unit
    let s := onArb s k fun x =>
      { x with holder := some w, last := w.unit, waiting := rest, revoked := none, fixed := fixed }
    (rest.foldl (fun s x => chargeBlocked s x.ctx w.ctx 1) s)

/-- ARBITER_GRANT. -/
def execArbiterGrant (kind inst : Nat) (asks : List Ask) (s : State) : Out := engineStep s fun s => arbiterGrant kind inst asks s

/-- ARBITER_REVOKE (11 R348): at a level-2 slice input or a pseudo-channel queue, the compositor takes the grant; the
holder's transfer is discarded and it is next. A grant that follows a revocation is not revoked. The holder is charged the
steps from the withdrawal to its grant, with aggressor context 0. -/
def arbiterRevoke (kind inst unit beats : Nat) (s : State) : State :=
  let k := arbKey kind inst
  let a := tgetD s.mem.arbiters k {}
  match a.holder with
  | none => s
  | some h =>
    if 1 < kind ∨ a.fixed ∨ a.revoked.isSome then s
    else
      let s := onArb s k fun x => { x with holder := some { unit := unit, beats := beats, ctx := 0 },
                                           last := h.unit, revoked := some h }
      (chargeBlocked s h.ctx 0 (beats + 2))

/-- ARBITER_REVOKE. -/
def execArbiterRevoke (kind inst unit beats : Nat) (s : State) : Out := engineStep s fun s => arbiterRevoke kind inst unit beats s

/-- ARBITER_WATCHDOG (11 R349): the grant is withdrawn, the event logged, and the holder's unit is the target of a unit-level
fault with WATCHDOG (13 R554). -/
def arbiterWatchdog (kind inst : Nat) (s : State) : State :=
  let k := arbKey kind inst
  let a := tgetD s.mem.arbiters k {}
  match a.holder with
  | none => s
  | some h =>
    if a.waiting = [] then s
    else
      let n := Nat.min (fget s F.ARB_WDOG_LOG.COUNT + 1) 0xFFFF
      let s := onArb s k fun x => { x with holder := none }
      let s := rset s .ARB_WDOG_LOG (2 ^ 63 + kind <<< 40 + inst <<< 32 + h.unit % 2 ^ 16 <<< 16 + n)
      (raiseBare s h.unit .watchdog 3 (.system 1 (kind * 256 + inst) h.unit 0))

/-- ARBITER_WATCHDOG. -/
def execArbiterWatchdog (kind inst : Nat) (s : State) : Out := engineStep s fun s => arbiterWatchdog kind inst s

/-- The turn hint of a waiting requester (11 R347): the beats declared ahead of it with one step for each grant, from the
holder's remaining beats, a revoked holder first; it saturates at 1,023. -/
def turnHint (a : Arbiter) (unit remaining : Nat) : Nat :=
  let order := a.revoked.toList ++ a.waiting.filter (fun x => a.last < x.unit) ++ a.waiting.filter (fun x => x.unit ≤ a.last)
  let ahead := order.takeWhile fun x => x.unit ≠ unit
  Nat.min 1023 (remaining + 1 + (ahead.map fun x => x.beats + 1).sum)

end Sys2Proof.Machine
end

