-- ==== Sys2Proof/Machine/Sched.lean ====
section
/-!
DEFINITION. Machine/Sched.lean: started commands and their items (03 R72 to R85): rank, accounting, the end of an item, the
end of a command's work, version counters (09 R271), and the copy engines.
-/

namespace Sys2Proof.Machine

/-- Changes the graphics part of the state. -/
def onGfx (s : State) (f : Gfx → Gfx) : State := { s with gfx := f s.gfx }

/-- A started command. -/
def taskAt (s : State) (t : Nat) : Option Task := tget s.fe.tasks t
/-- Changes a started command. -/
def onTask (s : State) (t : Nat) (f : Task → Task) : State := onFe s fun x => { x with tasks := tupd x.tasks t f }

/-! ### Rank (R74, R75) -/

/-- A list with x put before the first element whose score is greater. -/
def insertBy {α : Type} (f : α → Nat) (x : α) : List α → List α
  | [] => [x]
  | y :: t => if f x < f y then x :: y :: t else y :: insertBy f x t

/-- A list in ascending score; equal scores keep their order. -/
def sortBy {α : Type} (f : α → Nat) (l : List α) : List α := l.foldl (fun acc x => insertBy f x acc) []

/-- Rank of a queue class: display composition, deadline render, hypervisor, normal. -/
def classRank (c : Nat) : Nat := if c = 0 then 3 else c - 1

/-- The turn of a queue in the round robin: a launch counts as one queue (R75). -/
def turnKey (k : Task) : Nat := match k.owner with | .entry q _ => q | .node l _ => 2 ^ 14 + l

/-- Score of (class, PRIORITY, turn) when turn last was served last. -/
def rankScore (cls prio turn last : Nat) : Nat :=
  classRank cls * 2 ^ 40 + (15 - Nat.min prio 15) * 2 ^ 32 + (turn + 2 ^ 30 - last - 1) % 2 ^ 30

/-- Number of an engine class, for its round robin. -/
def engNum : Eng → Nat
  | .shader => 0 | .accord => 1 | .raster => 2 | .collator => 3 | .copy => 4 | .press => 5 | .none => 6

/-- The round robin of an engine class: the turn served last. -/
def lastTurn (s : State) (e : Eng) : Nat := tgetD s.fe.rr (engNum e) (2 ^ 30 - 1)
/-- A turn is served. -/
def serveTurn (s : State) (e : Eng) (turn : Nat) : State := onFe s fun x => { x with rr := tset x.rr (engNum e) turn }

/-- An item of the command is ready. -/
def itemReady (k : Task) : Bool := ¬ k.stop ∧ (k.saved ≠ [] ∨ k.next < k.total)

/-- Commands of a class with an item ready, best rank first. -/
def readyTasks (s : State) (e : Eng) : List (Nat × Task) :=
  sortBy (fun x => rankScore x.2.cls x.2.prio (turnKey x.2) (lastTurn s e))
    (s.fe.tasks.filter fun x => x.2.eng = e ∧ itemReady x.2)

/-- Started commands that a class holds (R73). -/
def classLoad (s : State) (e : Eng) : Nat := s.fe.tasks.countP fun x => x.2.eng = e

/-- Every ready command of a class that satisfies p, the winner t apart, is charged a blocked step: it has lost the engine that the
winner k takes (R102). -/
def chargeLosers (s : State) (e : Eng) (t : Nat) (k : Task) (p : Task → Bool) : State :=
  ((readyTasks s e).filter fun x => x.1 ≠ t ∧ p x.2).foldl (fun s x => chargeBlocked s x.2.ctx k.ctx 1) s

/-! ### Items -/

/-- The next item of a command is taken: a saved one first. -/
def takeItem (k : Task) : Nat × Task :=
  match k.saved with
  | i :: t => (i, { k with saved := t, live := k.live ++ [i] })
  | [] => (k.next, { k with next := k.next + 1, live := k.live ++ [k.next] })

/-- An item ends. -/
def itemDone (s : State) (t i : Nat) : State := onTask s t fun k => { k with live := k.live.filter (· ≠ i) }

/-- An item has been saved (R84). -/
def itemSaved (s : State) (t i : Nat) : State :=
  onTask s t fun k => { k with live := k.live.filter (· ≠ i), saved := if k.stop then k.saved else k.saved ++ [i] }

/-- The command fails: its first failure is the status it finishes with, and no further item is placed. -/
def taskFail (s : State) (t : Nat) (st : Status) (addr : Nat := 0) : State :=
  onTask s t fun k => { k with
    status := if k.status = .ok then st else k.status
    failAddr := if k.status = .ok then addr else k.failAddr
    stop := true, saved := [] }

/-- Every item of the command has ended. -/
def taskDrained (k : Task) : Bool := k.live = [] ∧ (k.stop ∨ (k.saved = [] ∧ k.total ≤ k.next))

/-! ### Passes -/

/-- Changes an open pass. -/
def onPass (s : State) (p : Nat) (f : Pass → Pass) : State := onGfx s fun g => { g with passes := tupd g.passes p f }

/-- A command of a pass fails (07 R202): binning stops, no further tile is handed out, and the pass ends with the first fault's
status. Its DRAWs hold no Collator place any more (03 R73). -/
def passFail (s : State) (p : Nat) (st : Status) (addr : Nat := 0) : State :=
  let tasks : List Nat := match tget s.gfx.passes p with | some x => x.draws.map fun d => d.task | none => []
  let s := tasks.foldl (fun s t => onTask s t fun k => { k with eng := .none }) s
  onPass s p fun x => { x with
    status := if x.failed then x.status else st
    failAddr := if x.failed then x.failAddr else addr
    failed := true, toHand := [], toCompare := [], toCopy := [], held := []
    draws := x.draws.map fun d => { d with released := true } }

/-! ### Busy steps (02 R69, 03 R103) -/

/-- Engine-busy steps of a context. -/
def busySteps (s : State) (c : Nat) (e : Eng) (n : Nat) : State :=
  let s := onFe s fun x => { x with util := tmod x.util c {} fun u =>
    match e with
    | .shader => { u with shader := u.shader + n }
    | .accord => { u with accord := u.accord + n }
    | .raster => { u with raster := u.raster + n }
    | .collator => { u with collator := u.collator + n }
    | .copy => { u with copy := u.copy + n }
    | .press => { u with copy := u.copy + n }
    | .none => u }
  onIntf s c fun x => { x with busy := x.busy + n }

/-! ### Version counters (09 R271) -/

/-- The version counter of an object index goes up by one. -/
def bumpVersion (s : State) (o : Nat) : State :=
  onGfx s fun g => { g with versions := tmod g.versions o 0 fun v => (v + 1) % 2 ^ 32 }

/-- The object that a command resolved at a payload offset. -/
def objAt (k : Task) (off : Nat) : Option Obj := tget k.objs off

/-- The counters of the objects that a finishing command wrote. -/
def bumpFor (s : State) (k : Task) : State :=
  let offs := match byteAt k.raw 0 with
    | 4 => [20]
    | 5 => [12]
    | 6 => [12, 16]
    | 11 => [8]
    | _ => []
  offs.foldl (fun s o => match objAt k o with | some x => bumpVersion s x.idx | none => s) s

/-! ### Address space of a command -/

/-- Engine number of a copy engine for a chunk (12 R366). -/
def copyEngine (i : Nat) : Nat := 216 + i % 4

/-- Base address of an operand object. -/
def objBase (k : Task) (off : Nat) : Nat := match objAt k off with | some o => o.base | none => 0

/-! ### Copy engines (02 R52, 03 R72, 13 R387) -/

/-- Bytes of chunk i of a copy of n bytes: start and length. -/
def chunkOf (n i : Nat) : Nat × Nat := (65536 * i, Nat.min 65536 (n - 65536 * i))

/-- The fill pattern over a range that starts at a multiple of 4. -/
def fillBytes (v : Nat) (n : Nat) : List Byte := (List.replicate (n / 4) (natLe v 4)).flatten

/-- Line by line, with each line's check carried along. -/
def copyLines (k : Task) (eng : Nat) : Nat → Nat → Nat → State → Status × State
  | _, _, 0, s => (.ok, s)
  | src, dst, n + 1, s =>
    let r := vline s eng 6 k.fn k.asid k.ctx src
    if r.1 ≠ .ok then (r.1, r.2.2.2)
    else
      let w := vwrite r.2.2.2 eng 6 k.fn k.asid k.ctx dst r.2.1 r.2.2.1
      if w.1 ≠ .ok then w else copyLines k eng (src + 128) (dst + 128) n w.2

/-- One chunk of a COPY or a fill: its status and effect. -/
def copyChunk (s : State) (k : Task) (i : Nat) : Status × State :=
  let c := chunkOf (fieldAt k.raw 32 8) i
  let eng := copyEngine i
  let dst := objBase k 12 + fieldAt k.raw 24 8 + c.1
  if byteAt k.raw 1 = 1 then vwrite s eng 6 k.fn k.asid k.ctx dst (fillBytes (fieldAt k.raw 40 4) c.2)
  else
    let src := objBase k 8 + fieldAt k.raw 16 8 + c.1
    if src % 128 = 0 ∧ dst % 128 = 0 ∧ c.2 % 128 = 0 then copyLines k eng src dst (c.2 / 128) s
    else
      let r := vread s eng 6 k.fn k.asid k.ctx src c.2
      if r.1 ≠ .ok then (r.1, r.2.2) else vwrite r.2.2 eng 6 k.fn k.asid k.ctx dst r.2.1

/-- COPY_CHUNK_DONE (03 R72, R84): item i of a started COPY or fill. steps: engine-busy steps it took. A chunk in flight runs to its end,
its pre-emption point, also where its command is discarded. A fault ends the command with its status (12 R372). -/
def execCopyChunkDone (t i steps : Nat) (s : State) : Out :=
  unitStep s (0x118 + i % 4) fun s =>
    match taskAt s t with
    | none => s
    | some k =>
      if k.eng ≠ .copy ∨ i ∉ k.live then s else
      let r := copyChunk s k i
      let s := busySteps (itemDone r.2 t i) k.ctx .copy steps
      if r.1 = .ok then s else taskFail s t r.1 s.xlt.failAddr

end Sys2Proof.Machine
end

