-- ==== Sys2Proof/Machine/Shader.lean ====
section
/-!
DEFINITION. Machine/Shader.lean: shader cores (04 R107 to R144): program headers, occupancy and placement, issue, barriers,
memory accesses, fault parking and replay, and what every group's end does. Accord instructions of a group stand in
Accord.lean.
-/

namespace Sys2Proof.Machine

/-- Changes the shader and Accord part of the state. -/
def onSc (s : State) (f : Sc → Sc) : State := { s with sc := f s.sc }
/-- A resident block. -/
def blockAt (s : State) (b : Nat) : Option Block := tget s.sc.blocks b
/-- Changes a resident block. -/
def onBlock (s : State) (b : Nat) (f : Block → Block) : State := onSc s fun x => { x with blocks := tupd x.blocks b f }
/-- Changes the group in a slot of a block. -/
def onGroup (s : State) (b slot : Nat) (f : Group → Group) : State :=
  onBlock s b fun k => { k with groups := k.groups.map fun g => if g.slot = slot then f g else g }
/-- Changes a resident or saved block. -/
def onBlockAny (s : State) (b : Nat) (f : Block → Block) : State :=
  onSc s fun x => { x with blocks := tupd x.blocks b f, saved := tupd x.saved b f }
/-- Changes an Accord engine. -/
def onEngine (s : State) (e : Nat) (f : Engine → Engine) : State :=
  onSc s fun x => { x with engines := tmod x.engines e {} f }
/-- An Accord engine. -/
def engineAt (s : State) (e : Nat) : Engine := tgetD s.sc.engines e {}

/-- Bytes of an instruction: code sizes are multiples of 16 (04 R110, log 12). -/
def insBytes : Nat := 16

/-! ### Program headers (R110, R111) -/

/-- The header of a program object of a size, none where it breaks R110. -/
def progOf (base size : Nat) (h : List Byte) : Option Prog :=
  let off := fieldAt h 0 4
  let n := fieldAt h 4 4
  let flags := byteAt h 24
  if off % 128 = 0 ∧ 16 ≤ n ∧ n ≤ 2 ^ 24 ∧ n % 16 = 0 ∧ off + n ≤ size
      ∧ 1 ≤ fieldAt h 8 2 ∧ fieldAt h 8 2 ≤ 255 ∧ 8 ≤ fieldAt h 10 2 ∧ fieldAt h 10 2 ≤ 128
      ∧ fieldAt h 12 4 % 4 = 0 ∧ fieldAt h 12 4 ≤ 65536 ∧ fieldAt h 16 4 % 16 = 0 ∧ fieldAt h 16 4 ≤ 65536
      ∧ flags < 8 ∧ byteAt h 25 = 1 ∧ (h.drop 26).take 38 = zeros 38 then
    some { base := base, codeOffset := off, codeSize := n, vregs := fieldAt h 8 2, sregs := fieldAt h 10 2,
           argSize := fieldAt h 12 4, privateBytes := fieldAt h 16 4, barTimeout := fieldAt h 20 4,
           accord := bit flags 0, resident := bit flags 1, fp64 := bit flags 2 }
  else none

/-- The header of a program object as an engine reads it. -/
def readProg (s : State) (fn asid ctx : Nat) (o : Obj) : Status × Option Prog × State :=
  let r := vread s 210 7 fn asid ctx o.base 64
  (r.1, progOf o.base o.size r.2.1, r.2.2)

/-! ### Occupancy (R107, R112 to R114, R118) -/

/-- Units of 8 vector registers that a group holds. -/
def vUnits (p : Prog) : Nat := (p.vregs + 7) / 8
/-- Units of 16 scalar registers that a group holds. -/
def sUnits (p : Prog) : Nat := (p.sregs + 15) / 16

/-- The blocks resident on a core. -/
def coreBlocks (s : State) (c : Nat) : List (Nat × Block) := s.sc.blocks.filter fun e => e.2.core = c
/-- Free vector registers of a core in units of 8. -/
def vregFree (s : State) (c : Nat) : Nat := 256 - ((coreBlocks s c).map fun e => e.2.groups.length * vUnits e.2.prog).sum
/-- Free scalar registers of a core in units of 16. -/
def sregFree (s : State) (c : Nat) : Nat := 256 - ((coreBlocks s c).map fun e => e.2.groups.length * sUnits e.2.prog).sum
/-- Free local memory of a core in KiB. -/
def localFree (s : State) (c : Nat) : Nat := 128 - ((coreBlocks s c).map fun e => e.2.localKib).sum
/-- Group slots in use on a core. -/
def slotsUsed (s : State) (c : Nat) : List Nat := (coreBlocks s c).flatMap fun e => e.2.groups.map fun g => g.slot
/-- The lowest n free group slots of a core (R109). -/
def freeSlots (s : State) (c n : Nat) : List Nat := ((List.range 64).filter fun k => k ∉ slotsUsed s c).take n

/-- A core can hold n groups of a program with this local memory (R118). -/
def coreHolds (s : State) (c : Nat) (p : Prog) (n localKib : Nat) : Bool :=
  domOpen s (c / 8) ∧ ¬ recovering s c ∧ n * vUnits p ≤ vregFree s c ∧ n * sUnits p ≤ sregFree s c ∧ localKib ≤ localFree s c
    ∧ n ≤ 64 - (slotsUsed s c).length ∧ (coreBlocks s c).length < 32

/-- The class of a pass's queue. -/
def passCls (s : State) (x : Pass) : Nat := match taskAt s x.task with | some k => k.cls | none => 0
/-- A queue class of deadline work. -/
def isDeadline (cls : Nat) : Bool := cls = 1 ∨ cls = 2

/-- Position groups of a pass wait for a core. -/
def positionWaits (s : State) (p : Nat) (x : Pass) : Bool :=
  x.batch.isSome && !x.discard && (s.sc.saved.any (fun e => decide (e.2.kind = .position p))
    || (match x.batch with | some b => decide (b.waiting ≠ []) && !x.failed | none => false))

/-- Fragment groups of the tile in a slot, by key, wait for a core. -/
def fragmentWaits (s : State) (key : Nat) (t : RTile) : Bool :=
  decide (key < 256) && decide (t.pre ≠ .saving)
    && (decide (t.groups ≠ []) || s.sc.saved.any fun e => decide (e.2.kind = .fragment (key / 16) (key % 16)))

/-- Deadline work is ready for the cores of cluster k: items of commands, position groups, and fragment groups of its own raster unit's
tiles (03 R72, R76). -/
def deadlineReady (s : State) (k : Nat) : Bool :=
  s.fe.tasks.any (fun x => (x.2.eng == .shader || x.2.eng == .accord) && itemReady x.2 && isDeadline x.2.cls)
    || s.gfx.passes.any (fun e => isDeadline (passCls s e.2) && positionWaits s e.1 e.2)
    || s.gfx.tiles.any fun e => decide (e.1 / 16 = k) && fragmentWaits s e.1 e.2
        && (match tget s.gfx.passes e.2.pass with | some x => isDeadline (passCls s x) | none => false)

/-- A cluster may take an item of a queue class (R80, R76). -/
def clusterFor (s : State) (k cls : Nat) : Bool :=
  let m := fget s F.SCH_RESERVE.CLUSTERS
  if isDeadline cls then decide (m = 0) || bit m k else ¬ (bit m k ∧ deadlineReady s k)

/-- The lowest-numbered core that can hold the groups (R76). -/
def coreFor (s : State) (cls : Nat) (p : Prog) (n localKib : Nat) : Option Nat :=
  (List.range 128).find? fun c => clusterFor s (c / 8) cls ∧ coreHolds s c p n localKib

/-! ### Accord engines and their banks (05 R146, R149) -/

/-- Engine e owns bank b of its cluster: OWNER names it, until a hand-over completes (11 R341). -/
def ownsBank (s : State) (e b : Nat) : Bool := fget s F.FOL_BANK.OWNER (e / 4) b = 2 + e % 4
/-- The engine may start a new use of the bank: it owns it and hands it over to nobody. -/
def mayUseBank (s : State) (e b : Nat) : Bool := ownsBank s e b ∧ ¬ flag s F.FOL_BANK.PENDING (e / 4) b
/-- The banks that an engine owns, as a mask. -/
def ownedBanks (s : State) (e : Nat) : Nat :=
  ((List.range 16).filter fun b => ownsBank s e b).foldl (fun m b => m + 2 ^ b) 0
/-- The engine is free (R146). -/
def engineFree (s : State) (e : Nat) : Bool :=
  (engineAt s e).block.isNone ∧ domOpen s (16 + e / 4) ∧ ¬ recovering s (0x80 + e)
    ∧ fget s F.ACE_CTL.MIN_BANKS ≤ (List.range 16).countP fun b => ownsBank s e b
/-- The lowest-numbered free engine of a cluster. -/
def freeEngine (s : State) (k : Nat) : Option Nat := (upFrom (4 * k) 4).find? fun e => engineFree s e

/-- The lowest-numbered core that can hold an Accord block (R77). -/
def accordCoreFor (s : State) (cls : Nat) (p : Prog) (n localKib : Nat) : Option Nat :=
  (List.range 128).find? fun c =>
    clusterFor s (c / 8) cls ∧ (freeEngine s (c / 8)).isSome ∧ coreHolds s c p n localKib

/-! ### Blocks -/

/-- Registers at a group's first instruction (R108). -/
def startGroup (slot idx bx by' bz lin args : Nat) : Group :=
  let w (n : Nat) : W32 := BitVec.ofNat 32 n
  { slot := slot, idx := idx, threads := List.replicate 32 {},
    v := (List.range 32).map fun t => (t, w (32 * idx + t)),
    sr := [(0, w bx), (1, w by'), (2, w bz), (3, w idx), (4, w args), (5, w (args / 2 ^ 32)), (6, w lin)] }

/-- The groups of a new block on a core. -/
def startGroups (s : State) (c n bx by' bz lin args : Nat) : List Group :=
  (freeSlots s c n).zipIdx.map fun x => startGroup x.1 x.2 bx by' bz lin args

/-- A block needs an Accord engine: its program declares it, or it is an item of an ACCORD command (R77). -/
def needsEngine (s : State) (k : Block) : Bool :=
  k.prog.accord || (match k.kind with
    | .item t _ => (match taskAt s t with | some x => decide (x.eng = .accord) | none => false)
    | _ => false)

/-- A block enters a core; one that needs an engine is bound to the lowest free one of the cluster. -/
def enterBlock (s : State) (b : Nat) (k : Block) : State :=
  let e := if needsEngine s k then freeEngine s (k.core / 8) else none
  let s := onSc s fun x => { x with blocks := tset x.blocks b { k with engine := e } }
  match e with
  | some e => onEngine s e fun _ => { block := some b }
  | none => s

/-- A new block takes the next number. -/
def newBlock (s : State) (k : Block) : Nat × State :=
  (s.sc.nextBlock, enterBlock (onSc s fun x => { x with nextBlock := x.nextBlock + 1 }) s.sc.nextBlock k)

/-- A core owns an overflow bank and does not drain it (R117, 11 R341). -/
def ovfBank (s : State) (c : Nat) : Bool :=
  (List.range 16).any fun b => fget s F.FOL_BANK.OWNER (c / 8) b = 8 + c % 8 ∧ ¬ flag s F.FOL_BANK.PENDING (c / 8) b

/-- The lines of a core's overflow bank. -/
def ovfLines (s : State) (c : Nat) : List OvfLine := tgetD s.sc.ovf c []
/-- They change. -/
def setOvf (s : State) (c : Nat) (l : List OvfLine) : State :=
  onSc s fun x => { x with ovf := if l = [] then tdel x.ovf c else tset x.ovf c l }

/-- The bytes of a mask as segments of a line, as (offset, bytes). -/
def maskSegs (m : Nat) (data : List Byte) : List (Nat × List Byte) :=
  ((List.range 128).filter fun i => bit m i).map fun i => (i, (data.drop i).take 1)

/-- What core c holds in its L1 and its overflow bank is lost. -/
def coreClear (s : State) (c : Nat) : State := onSc s fun x => { x with l1 := tdel x.l1 c, ovf := tdel x.ovf c }

/-- A line's dirty bytes go to the level-2 cache. -/
def ovfWrite (s : State) (c : Nat) (l : OvfLine) : Status × State :=
  if l.dirty = 0 then (.ok, s) else vstore s c 0 l.fn l.asid l.ctx (128 * l.line) (maskSegs l.dirty l.data)

/-- Lines of a core that satisfy p are written and are clean then. -/
def ovfFlush (s : State) (c : Nat) (p : OvfLine → Bool) : Status × State :=
  let r := (ovfLines s c).foldl (fun (a : Status × List OvfLine × State) l =>
    if p l then
      let w := ovfWrite a.2.2 c l
      (if a.1 = Status.ok then w.1 else a.1, a.2.1 ++ [{ l with dirty := 0 }], w.2)
    else (a.1, a.2.1 ++ [l], a.2.2)) (Status.ok, [], s)
  (r.1, setOvf r.2.2 c r.2.1)

/-- Groups that satisfy p use no line of a core's bank any more; a line without a user is dropped. -/
def ovfLeave (s : State) (c : Nat) (p : Nat × Nat → Bool) : State :=
  if ovfLines s c = [] then s else
  setOvf s c (((ovfLines s c).map fun l => { l with users := l.users.filter fun u => ¬ p u }).filter fun l => l.users ≠ [])

/-- A group leaves the core: its dirty lines are written to the level-2 cache (R117). -/
def flushPriv (s : State) (b : Nat) (k : Block) (g : Group) : Status × State :=
  let r := ovfFlush s k.core fun l => l.users.contains (b, g.idx)
  (r.1, ovfLeave r.2 k.core fun u => u = (b, g.idx))

/-- The park tokens of a block's groups are freed (R138). -/
def freeParks (s : State) (k : Block) : State :=
  onSc s fun x => { x with parkIds := x.parkIds.filter fun n => ¬ k.groups.any fun g =>
    match g.park with | some p => p.id = n | none => false }

/-- A block leaves its core: its park tokens are freed and its engine is unbound. -/
def removeBlock (s : State) (b : Nat) : State :=
  match blockAt s b with
  | none => s
  | some k =>
    let s := onSc (ovfLeave (freeParks s k) k.core fun u => u.1 = b) fun x => { x with blocks := tdel x.blocks b }
    match k.engine with
    | some e => onEngine s e fun x => { accs := x.accs, table := x.table }
    | none => s

/-- A block leaves the command, batch or tile it works for. -/
def leaveOwner (s : State) (b : Nat) (k : Block) : State :=
  match k.kind with
  | .item t i => itemDone s t i
  | .position p => onPass s p fun x => { x with batch := x.batch.map fun y => { y with running := y.running.filter (· ≠ b) } }
  | .fragment c sl => onGfx s fun g => { g with tiles := tupd g.tiles (c * 16 + sl) fun x =>
      { x with frags := x.frags.filter fun f => f.block ≠ b } }

/-- A block is discarded: nothing of it is kept. -/
def dropBlock (s : State) (b : Nat) : State :=
  match blockAt s b with
  | none => s
  | some k => leaveOwner (removeBlock s b) b k

/-- A saved block is discarded, its tokens freed. -/
def dropSaved (s : State) (b : Nat) : State :=
  match tget s.sc.saved b with
  | none => s
  | some k => leaveOwner (onSc (freeParks s k) fun x => { x with saved := tdel x.saved b }) b k

/-- The block works for an owner that t and p describe: item of task t, group of pass p. -/
def blockOf (s : State) (t p : Option Nat) (k : Block) : Bool :=
  match k.kind with
  | .item u _ => t = some u
  | .position q => p = some q
  | .fragment c sl => match tget s.gfx.tiles (c * 16 + sl) with | some x => p = some x.pass | none => false

/-- Blocks that satisfy p are to be discarded at their pre-emption points (03 R82, R84); saved ones are discarded at once. -/
def discardBlocks (s : State) (p : Block → Bool) : State :=
  let s := (s.sc.saved.filter fun e => p e.2).foldl (fun s e => dropSaved s e.1) s
  let mark (e : Nat × Block) : Nat × Block :=
    if p e.2 then (e.1, { e.2 with discard := true, pre := if e.2.pre = .none then .requested else e.2.pre }) else e
  onSc s fun x => { x with blocks := x.blocks.map mark }

/-- The items in flight of a command, or the groups of a pass, are to be discarded. -/
def discardItems (s : State) (t p : Option Nat) : State := discardBlocks s (blockOf s t p)

/-- The command of a block ends with a status; its other items are discarded (R140 ABORT, R141). -/
def abortOwner (s : State) (k : Block) (st : Status) (addr : Nat := 0) : State :=
  match k.kind with
  | .item t _ => discardItems (taskFail s t st addr) (some t) none
  | .position p => discardItems (passFail s p st addr) none (some p)
  | .fragment c sl =>
    match tget s.gfx.tiles (c * 16 + sl) with
    | some x => discardItems (passFail s x.pass st addr) none (some x.pass)
    | none => s

/-! ### Threads and registers -/

/-- Thread t of a group. -/
def thr (g : Group) (t : Nat) : Thread := (g.threads[t]?).getD { live := false }
/-- Changes the threads in a list. -/
def onThreads (g : Group) (ts : List Nat) (f : Thread → Thread) : Group :=
  { g with threads := g.threads.mapIdx fun i h => if i ∈ ts then f h else h }
/-- The live threads that satisfy p. -/
def liveThat (g : Group) (p : Thread → Bool) : List Nat :=
  (List.range 32).filter fun t => (thr g t).live ∧ p (thr g t)
/-- Vector register r of thread t. -/
def vr (g : Group) (r t : Nat) : Nat := (tgetD g.v (r * 32 + t) 0).toNat
/-- n words from register r up, of thread t. -/
def vrN (g : Group) (r t n : Nat) : Nat := (List.range n).foldl (fun a i => a + vr g (r + i) t * 2 ^ (32 * i)) 0
/-- Scalar register r. -/
def sreg (g : Group) (r : Nat) : Nat := (tgetD g.sr r 0).toNat
/-- A vector register is written. -/
def setV (g : Group) (r t x : Nat) : Group := { g with v := tset g.v (r * 32 + t) (BitVec.ofNat 32 x) }
/-- n words of a value are written from register r up. -/
def setVN (g : Group) (r t n x : Nat) : Group := (List.range n).foldl (fun g i => setV g (r + i) t (x / 2 ^ (32 * i))) g
/-- A scalar register is written. -/
def setS (g : Group) (r x : Nat) : Group := { g with sr := tset g.sr r (BitVec.ofNat 32 x) }
/-- The threads go on to the next instruction. -/
def advance (g : Group) (ts : List Nat) : Group :=
  onThreads g ts fun h => { h with pc := h.pc + insBytes, wait := .none }
/-- A list of threads as a mask. -/
def maskOf (ts : List Nat) : Nat := ts.foldl (fun m t => m + 2 ^ t) 0
/-- The threads of a mask. -/
def maskThreads (m : Nat) : List Nat := (List.range 32).filter fun t => bit m t

/-! ### Issue (R109, R119, R120) -/

/-- The cohort that issues next and its program counter. -/
def cohortOf (g : Group) : Option (Nat × List Nat) :=
  if g.park.isSome then none else
  let r := liveThat g fun h => decide (h.wait = .none)
  let aged := r.filter fun t => 31 ≤ (thr g t).age
  match (if aged = [] then r else aged).map fun t => (thr g t).pc with
  | [] => none
  | p :: ps =>
    let pc := ps.foldl Nat.min p
    some (pc, r.filter fun t => (thr g t).pc = pc)

/-- What an instruction finds when its cohort issues. -/
structure Issue where
  b : Nat
  blk : Block
  g : Group
  pc : Nat
  ts : List Nat

/-- The group lacks one of the vector registers or scalar registers given as (first, number): such an instruction does not exist
(R112, log 12). -/
def Issue.lacks (i : Issue) (v sr : List (Nat × Nat)) : Bool :=
  v.any (fun r => decide (8 * ((i.blk.prog.vregs + 7) / 8) < r.1 + r.2))
    || sr.any (fun r => decide (16 * ((i.blk.prog.sregs + 15) / 16) < r.1 + r.2))

/-- The groups of a pipe that have an instruction ready, as (slot, issue). -/
def pipeReady (s : State) (core pipe : Nat) : List (Nat × Issue) :=
  (coreBlocks s core).flatMap fun e =>
    if e.2.pre = .saving then [] else
    e.2.groups.filterMap fun g =>
      if g.slot % 4 ≠ pipe then none else
      match cohortOf g with
      | none => none
      | some c => some (g.slot, { b := e.1, blk := e.2, g := g, pc := c.1, ts := c.2 })

/-- The next group of a pipe by round robin over group slots. -/
def pipeNext (s : State) (core pipe : Nat) : Option Issue :=
  let last := tgetD s.sc.pipes (core * 4 + pipe) 63
  match sortBy (fun x => (x.1 + 64 - last - 1) % 64) (pipeReady s core pipe) with
  | [] => none
  | x :: _ => some x.2

/-- Words of an access of a size. -/
def sizeWords (n : Nat) : Nat := (n + 3) / 4

/-- Threads that an outstanding access concerns. -/
def MReq.threads (q : MReq) : List Nat := q.lanes.map (fun l => l.thread) ++ q.idle

/-- An instruction of thread t that names vector registers as (first, number) waits for an outstanding access of the group: for a
register that the access loads, or where all is set for the access itself. -/
def operandWaits (g : Group) (ops : List (Nat × Nat)) (all : Bool) (t : Nat) : Bool :=
  g.mem.any fun q => q.threads.contains t
    && (all || (q.op != .store && ops.any fun r => decide (r.1 < q.dst + sizeWords q.size ∧ q.dst < r.1 + r.2)))

/-- A pipe issues one cohort: the threads passed over grow older, and k is the instruction. ops and all are what it waits for: threads
whose next instruction it is and that must wait are found blocked (R119), and nothing issues. -/
def issue (s : State) (core pipe : Nat) (ops : List (Nat × Nat)) (all : Bool) (k : State → Issue → State) : Out :=
  engineStep s fun s =>
    match pipeNext s core pipe with
    | none => s
    | some i =>
      if i.ts.any (operandWaits i.g ops all) then
        onGroup s i.b i.g.slot fun g => onThreads g (i.ts.filter (operandWaits g ops all)) fun h => { h with wait := .mem }
      else
      let ready := liveThat i.g fun h => decide (h.wait = .none)
      let g := onThreads i.g ready fun h => { h with age := h.age + 1 }
      let g := onThreads g i.ts fun h => { h with age := 0 }
      let s := onSc s fun x => { x with pipes := tset x.pipes (core * 4 + pipe) g.slot }
      k (onGroup s i.b g.slot fun _ => g) { i with g := g }

/-- The group of an issue after its instruction, put back. -/
def put (s : State) (i : Issue) (g : Group) : State := onGroup s i.b i.g.slot fun _ => g

/-! ### Fault parking (R136 to R141) -/

/-- The bit of SC_PARK_CTL that covers a status. -/
def parkBit (st : Status) : Nat :=
  match st with
  | .translationFault | .permission => 0
  | .integrityMismatch | .uncorrectableEcc => 1
  | .barrierMismatch | .matrixDivergence | .groupTrap => 2
  | .watchdog => 3
  | _ => 4

/-- The lowest number from n on that a rising list does not hold. -/
def lowestNot : List Nat → Nat → Nat
  | [], n => n
  | k :: t, n => if k = n then lowestNot t (n + 1) else if k < n then lowestNot t n else n

/-- The shader detail part of a park's fault record (R139). -/
def parkBytes (addr mask pc id gen : Nat) (st : Status) (core : Nat) (write aborted : Bool) (lin : Nat) : List Byte :=
  natLe addr 8 ++ natLe mask 4 ++ natLe pc 4 ++ natLe id 2 ++ natLe gen 1 ++ natLe (Status.code st) 1 ++ natLe core 2
    ++ natLe (b2n write + 2 * b2n aborted) 1 ++ zeros 1 ++ natLe lin 8

/-- A group faults: parked with a token, or its command aborted where SC_PARK_CTL says so or no token is free. record says
that a fault record is written; reqs are the accesses of a memory instruction that faults. -/
def parkGroup (s : State) (b slot : Nat) (st : Status) (ts : List Nat) (pc : Nat) (addr : Nat := 0) (write : Bool := false)
    (acc : Option Nat := none) (record : Bool := true) (reqs : List MReq := []) : State :=
  match blockAt s b with
  | none => s
  | some k =>
    let id := lowestNot s.sc.parkIds 0
    let abort : Bool := bit (rget s .SC_PARK_CTL k.fn) (parkBit st) || decide (8192 ≤ id)
    let gen := (tgetD s.sc.parkGens id 255 + 1) % 256
    let rec_ (s : State) : State :=
      if record then
        raise s { time := 0, unit := k.core, status := st, level := 0, context := some k.ctx, function := some k.fn,
                  detail := .shader (parkBytes addr (maskOf ts) pc (if abort then 0xFFFF else id) (if abort then 0 else gen)
                    st k.core write abort k.lin) }
      else s
    let s := rec_ s
    if abort then abortOwner s k st addr
    else
      let s := onSc s fun x => { x with parkIds := nins x.parkIds id, parkGens := tset x.parkGens id gen }
      let again (w : TWait) : TWait := if acc.isSome then w else match w with | .accord => .none | w => w
      onGroup s b slot fun g =>
        { onThreads g ts fun h => { h with wait := again h.wait } with
          park := some { id := id, gen := gen, status := st, mask := maskOf ts, pc := pc, addr := addr, write := write,
                         acc := acc, reqs := reqs } }

/-- The faulting instruction of an issue parks its group. -/
def parkAt (s : State) (i : Issue) (st : Status) (addr : Nat := 0) : State := parkGroup s i.b i.g.slot st i.ts i.pc addr

/-! ### Barriers (R125 to R128) -/

/-- Live threads of a block. -/
def liveCount (k : Block) : Nat := (k.groups.map fun g => (liveThat g fun _ => true).length).sum
/-- Threads of a group that have arrived at barrier n; a parked group's have not. -/
def arrivedAt (n : Nat) (g : Group) : List Nat :=
  if g.park.isSome then [] else liveThat g fun h => decide (h.wait = .bar n)

/-- A barrier instance completes once its arrivals are the live threads (R125, R126); one that nobody waits at is free. -/
def barCheck (b : Nat) (s : State) (n : Nat) : State :=
  match blockAt s b with
  | none => s
  | some k =>
    let arrived := (k.groups.map fun g => (arrivedAt n g).length).sum
    if arrived = liveCount k then
      onBlock s b fun k => { k with bars := tdel k.bars n, groups := k.groups.map fun g => advance g (arrivedAt n g) }
    else if k.groups.all (fun g => liveThat g (fun h => decide (h.wait = .bar n)) = []) then
      onBlock s b fun k => { k with bars := tdel k.bars n }
    else s

/-- Every open instance of a block is looked at. -/
def barChecks (s : State) (b : Nat) : State :=
  match blockAt s b with
  | none => s
  | some k => (k.bars.map Prod.fst).foldl (barCheck b) s

/-! ### Fragment instructions of matrix regions (R131, R132, 05 R162) -/

/-- Folio address of line l of a cluster. -/
def folAddr (cluster l : Nat) : Nat := cluster * 2 ^ 22 + l * 128

/-- A folio line is read with its check. -/
def folRead (s : State) (cluster l : Nat) : List Byte × Bool :=
  (mread 0 s.mem.folio (folAddr cluster l) 128, folAddr cluster l / 128 ∈ s.mem.folioBad)

/-- A folio line is written with a check; bad says that it mismatches. -/
def folWrite (s : State) (cluster l : Nat) (bs : List Byte) (bad : Bool := false) : State :=
  onMem s fun m => { m with
    folio := mwrite 0 m.folio (folAddr cluster l) bs
    folioBad := if bad then nins m.folioBad (folAddr cluster l / 128) else ndel m.folioBad (folAddr cluster l / 128) }

/-- Element width in bits of an Accord format code, 0 for an unknown one (05 R147). -/
def accBits (c : Nat) : Nat :=
  if c = 1 ∨ c = 2 then 16 else if c = 3 ∨ c = 4 ∨ c = 7 ∨ c = 9 then 8 else if c = 5 then 6
  else if c = 6 ∨ c = 8 then 4 else if c = 10 then 32 else 0

/-- Elements of a panel per line and row (05 R150). -/
def perLine (bits : Nat) : Nat := if bits = 16 then 1 else if bits = 4 then 4 else 2

/-- Lines of a panel of n elements along K. -/
def panelLines (bits n : Nat) : Nat := (n + perLine bits - 1) / perLine bits

/-- Group size along K (05 R153 GROUP). -/
def groupOf (w1 : Nat) : Nat := 32 * 2 ^ bits w1 13 12

/-- Word n of a descriptor. -/
def word (i : AccIns) (n : Nat) : Nat := i.words.getD n 0

/-- Lines of a block-scale panel with levels levels (05 R152). -/
def scaleLines (levels k : Nat) : Nat :=
  if levels = 0 then 0 else ((k + 15) / 16 + 1) / 2 + (if levels = 2 then ((k + 255) / 256 + 1) / 2 else 0)

/-- Lines of the panel that B_S names (05 R152). -/
def bsLines (i : AccIns) : Nat :=
  let w1 := word i 1
  let k := bits (word i 2) 12 0
  if bits w1 11 8 = 1 then (if bits (word i 0) 31 24 = 8 then 1 else 4)
  else if bits w1 11 8 = 2 then (k + groupOf w1 - 1) / groupOf w1 + ((k + groupOf w1 - 1) / groupOf w1 + 1) / 2
  else scaleLines (bits (word i 0) 11 10) k

/-- The lines of n from address a. -/
def lineRange (a n : Nat) : Nat × Nat := (a, n)
/-- Two line ranges share a line. -/
def linesMeet (x y : Nat × Nat) : Bool := x.2 ≠ 0 ∧ y.2 ≠ 0 ∧ x.1 < y.1 + y.2 ∧ y.1 < x.1 + x.2

/-- Lines of the folio side of a LOAD or STORE (05 R160). -/
def moveLines (i : AccIns) : Nat :=
  let b := accBits (bits (word i 0) 23 16)
  let n := bits (word i 2) 12 0
  match bits (word i 0) 11 10 with
  | 0 => panelLines b n
  | 1 => (64 * 64 * b / 8 + 127) / 128
  | _ => n

/-- The folio lines an instruction reads. -/
def readLines (i : AccIns) : List (Nat × Nat) :=
  let w0 := word i 0
  let k := bits (word i 2) 12 0
  match bits w0 3 0 with
  | 1 =>
    [lineRange (bits (word i 3) 14 0) (panelLines (accBits (bits w0 23 16)) k),
     lineRange (bits (word i 3) 30 16) (panelLines (accBits (bits w0 31 24)) k),
     lineRange (bits (word i 4) 30 16) (scaleLines (bits w0 9 8) k),
     lineRange (bits (word i 5) 14 0) (bsLines i)]
      ++ (if bit w0 4 then [lineRange (bits (word i 4) 14 0) (32 * accBits (bits (word i 1) 23 16) / 8)] else [])
  | 3 => [lineRange (bits (word i 3) 14 0) (moveLines i)]
  | _ => []

/-- The folio lines an instruction writes. -/
def writeLines (i : AccIns) : List (Nat × Nat) :=
  match bits (word i 0) 3 0 with
  | 1 => [lineRange (bits (word i 4) 14 0) (32 * accBits (bits (word i 1) 23 16) / 8)]
  | 2 => [lineRange (bits (word i 3) 14 0) (moveLines i)]
  | _ => []

/-- A fragment instruction executes (R131, R132): once every live thread of the group stands at it and no outstanding accord
instruction of the block writes the tile, or for a store reads it. Its folio line is what the scalar register holds once every thread is
there; an instruction in progress goes on while the bank waits to change hands (05 R172). -/
def fragTry (b : Nat) (s : State) (slot : Nat) : State :=
  match blockAt s b with
  | none => s
  | some k =>
    match k.groups.find? (fun g => g.slot = slot) with
    | none => s
    | some g =>
      if g.park.isSome then s else
      let live := liveThat g fun _ => true
      match live with
      | [] => s
      | t0 :: _ =>
        let h0 := thr g t0
        match h0.wait with
        | .frag load dst sa n =>
          if ¬ live.all (fun t => (thr g t).wait = h0.wait ∧ (thr g t).pc = h0.pc) then s else
          let line := match g.fragAt with | some r => r.1 | none => sreg g sa
          match k.engine with
          | none => parkGroup s b slot .badOpcode live h0.pc
          | some e =>
            let begun := g.fragAt.isSome
            let s := onGroup s b slot fun g => { g with fragAt := none }
            let g := { g with fragAt := none }
            if ¬ (upFrom line n).all (fun l => l ≤ 0x7FFF ∧ ownsBank s e (l / 2048)) then
              parkGroup s b slot .permission live h0.pc
            -- a bank being handed over gets no new use (11 R341); the instruction waits until the bank has changed hands
            else if ¬ begun ∧ ¬ (upFrom line n).all (fun l => mayUseBank s e (l / 2048)) then s
            else
              let busy := (engineAt s e).queue.any fun i =>
                (writeLines i).any (linesMeet (line, n)) || (!load && (readLines i).any (linesMeet (line, n)))
              if busy then onGroup s b slot fun g => { g with fragAt := some (line, n) }
              else if load then
                if (upFrom line n).any (fun l => (folRead s (e / 4) l).2) then
                  parkGroup (countMismatch s) b slot .integrityMismatch live h0.pc
                else
                  let g' := (List.range n).foldl (fun g i =>
                    live.foldl (fun g t => setV g (dst + i) t (fieldAt (folRead s (e / 4) (line + i)).1 (4 * t) 4)) g) g
                  onGroup s b slot fun _ => advance g' live
              else
                let s := (List.range n).foldl (fun s i =>
                  let old := (folRead s (e / 4) (line + i)).1
                  let new := live.foldl (fun l t => putAt l (4 * t) (natLe (vr g (dst + i) t) 4)) old
                  folWrite s (e / 4) (line + i) new) s
                onGroup s b slot fun g => advance g live
        | _ => s

/-- Every group of a block tries its fragment instruction. -/
def fragTries (s : State) (b : Nat) : State :=
  match blockAt s b with
  | none => s
  | some k => (k.groups.map fun g => g.slot).foldl (fragTry b) s

/-! ### The end of groups and blocks (R121, 05 R169) -/

/-- A group has exited: no thread lives and it is not parked. -/
def groupDead (g : Group) : Bool := g.park.isNone ∧ liveThat g (fun _ => true) = []

/-- The engine of a block holds no accepted instruction. -/
def engineIdle (s : State) (k : Block) : Bool :=
  match k.engine with
  | some e => (engineAt s e).queue = [] ∧ (engineAt s e).array = none ∧ (engineAt s e).out = none ∧ (engineAt s e).mover = none
  | none => true

/-- A block exits with its last group; position and fragment groups leave their outputs behind. -/
def endBlock (s : State) (b : Nat) (k : Block) (steps : Nat) : State :=
  let s := busySteps (removeBlock s b) k.ctx .shader steps
  match k.kind with
  | .item t i => itemDone s t i
  | .position _ => leaveOwner (onSc s fun x => { x with done := tset x.done b k }) b k
  | .fragment _ _ => onSc s fun x => { x with done := tset x.done b k }

/-- Groups whose threads have all exited release what they hold; the last one waits for the engine. steps: engine-busy steps
of the block, counted when it ends. -/
def settle (s : State) (b steps : Nat) : State :=
  match blockAt s b with
  | none => s
  | some k =>
    let dead := k.groups.filter groupDead
    if dead = [] then s else
    let stay := if dead.length = k.groups.length ∧ ¬ engineIdle s k then k.groups.drop (k.groups.length - 1) else []
    let leave := dead.filter fun g => ¬ stay.any fun x => x.slot = g.slot
    let r := leave.foldl (fun (st, s) g =>
      let w := flushPriv s b k g
      (if st = Status.ok then w.1 else st, w.2)) (Status.ok, s)
    let k' := { k with groups := k.groups.filter fun g => ¬ leave.any fun x => x.slot = g.slot }
    let s := onBlock r.2 b fun _ => k'
    let s := if r.1 = .ok then s else match k.kind with | .item t _ => taskFail s t r.1 s.xlt.failAddr | _ => s
    if k'.groups = [] then endBlock s b k' steps else s

/-- EXIT (R121, R126), or with discard the DISCARD of 08 R248, which leaves no outputs: steps is what SC counts as the block's busy
steps if this ends it. -/
def exitThreads (s : State) (i : Issue) (steps : Nat) (discard : Bool := false) : State :=
  let keep : Bool := match i.blk.kind with | .item _ _ => false | _ => true
  let s := put s i (onThreads i.g i.ts fun h => { h with live := false })
  let out (o : Tbl (List Nat)) (t : Nat) : Tbl (List Nat) := tset o (32 * i.g.idx + t) (if discard then [] else (List.range 72).map fun r => vr i.g r t)
  let s := if keep then onBlock s i.b fun k => { k with outs := i.ts.foldl out k.outs } else s
  settle (fragTry i.b (barChecks s i.b) i.g.slot) i.b steps

/-- EXIT. -/
def execExit (core pipe steps : Nat) (s : State) : Out := issue s core pipe [] true fun s i => exitThreads s i steps

/-- TRAP (R136). -/
def execTrap (core pipe : Nat) (s : State) : Out := issue s core pipe [] false fun s i => parkAt s i .groupTrap

/-! ### Instructions without a row (R112, R113, R142; 06 R178 to R180) -/

/-- The format of a kind. -/
def FKind.fmt : FKind → Fmt
  | .b16 => Fmt.b16 | .b32 => Fmt.b32 | .b64 => Fmt.b64 | .bf16 => Fmt.bf16
  | .f8a => Fmt.f8a | .f8b => Fmt.f8b | .f6 => Fmt.f6 | .f4 => Fmt.f4

/-- Registers a value of a kind occupies. -/
def FKind.words (k : FKind) : Nat := if k = .b64 then 2 else 1

/-- Vector operands, as (register, words). -/
def SIns.vregs : SIns → List (Nat × Nat)
  | .float2 op k _ d a b => [(d, k.words), (a, k.words), (b, if op = .scaleB then 1 else k.words)]
  | .float1 op k _ d a => [(d, if op = .cls then 1 else k.words), (a, k.words)]
  | .fma k _ d a b c => [(d, k.words), (a, k.words), (b, k.words), (c, k.words)]
  | .fma16x2 _ d a b c => [(d, 1), (a, 1), (b, 1), (c, 1)]
  | .formatOf op k r _ d a b c =>
    [(d, r.words), (a, k.words), (b, k.words)] ++ (if op = .fma then [(c, k.words)] else [])
  | .order _ k d a b => [(d, 1), (a, k.words), (b, k.words)]
  | .fcmp _ _ k d a b => [(d, 1), (a, k.words), (b, k.words)]
  | .approx _ d a => [(d, 1), (a, 1)]
  | .cvt x y _ _ d a => [(d, y.words), (a, x.words)]
  | .toInt k _ _ d a => [(d, 1), (a, k.words)]
  | .ofInt k _ _ d a => [(d, k.words), (a, 1)]
  | .int _ d a b => [(d, 1), (a, 1), (b, 1)]
  | .imm d _ => [(d, 1)]
  | .fromScalar d _ => [(d, 1)]
  | .toScalar _ a => [(a, 1)]
  | .branchIf a _ => [(a, 1)]
  | .memory op n d a x _ loc _ =>
    let w := sizeWords n
    (a, if loc then 1 else 2) :: (match op with
      | .load => [(d, w)]
      | .store => [(x, w)]
      | .atomic f => [(d, w), (x, if f = 7 then 2 * w else w)])
  | _ => []

/-- Scalar operands. -/
def SIns.sregs : SIns → List Nat
  | .scalar _ d a b => [d, a, b]
  | .scalarImm d _ => [d]
  | .fromScalar _ a => [a]
  | .toScalar d _ => [d]
  | _ => []

/-- The instruction exists (R112, R124): no 64-bit value in an odd register, no register beyond those the group holds, a
defined access size and atomic, arithmetic in the formats of 06 R178, and conversions on the paths of 06 R193. -/
def SIns.exists (i : SIns) (p : Prog) : Bool :=
  i.vregs.all (fun r => r.1 + r.2 ≤ 8 * vUnits p ∧ (r.2 ≤ 1 ∨ r.1 % 2 = 0)) &&
  i.sregs.all (fun r => r < 16 * sUnits p) &&
  (match i with
   | .undefined => false
   | .memory op n _ _ _ _ _ _ =>
     match op with
     | .atomic f => decide (f < 8) && (n = 1 || n = 2 || n = 4 || n = 8 || n = 16)
     | _ => n = 1 || n = 2 || n = 4 || n = 8 || n = 16
   | .float2 _ k _ _ _ _ => k.arith
   | .float1 _ k _ _ _ => k.arith
   | .fma k _ _ _ _ _ => k.arith
   | .formatOf _ k r _ _ _ _ _ => k.arith && r.arith
   | .order _ k _ _ _ => k.arith
   | .fcmp _ _ k _ _ _ => k.arith
   | .cvt a b _ _ _ _ => a.path b
   | .toInt k n _ _ _ => k.arith && (n = 32 || n = 16 || n = 8 || n = 4)
   | .ofInt k n _ _ _ => k.arith && (n = 32 || n = 16 || n = 8 || n = 4)
   | _ => true)

/-- A signed number of 32 bits. -/
def int32 (x : Nat) : Int := if bit x 31 then (x % 2 ^ 32 : Nat) - (2 : Int) ^ 32 else (x % 2 ^ 32 : Nat)

/-- An integer operation; none where the spec states no result: a shift by 32 or more. -/
def IOp.apply (o : IOp) (x y : Nat) : Option Nat :=
  match o with
  | .add => some ((x + y) % 2 ^ 32)
  | .sub => some (sub32 x y)
  | .mul => some (x * y % 2 ^ 32)
  | .and => some (x &&& y)
  | .or => some (x ||| y)
  | .xor => some (x ^^^ y)
  | .shl => if y < 32 then some (x <<< y % 2 ^ 32) else none
  | .shr => if y < 32 then some (x >>> y) else none
  | .sar => if y < 32 then some (((int32 x) / 2 ^ y) % 2 ^ 32).toNat else none
  | .lt => some (b2n (int32 x < int32 y))
  | .ltu => some (b2n (x < y))
  | .eq => some (b2n (x = y))

/-- A floating-point operation of two operands: result and flags. -/
def FOp.apply (o : FOp) (f : Fmt) (rm : Rm) (x y : Nat) : Nat × Nat :=
  match o with
  | .add => f.add rm x y
  | .sub => f.add rm x (f.flip y)
  | .mul => f.mul rm x y
  | .min => f.minmax false false x y
  | .max => f.minmax true false x y
  | .minNum => f.minmax false true x y
  | .maxNum => f.minmax true true x y
  | .rem => f.rem x y
  | .scaleB => f.scaleB rm x (int32 y)
  | .copySign => (x % 2 ^ (f.eb + f.mb) + 2 ^ (f.eb + f.mb) * b2n (f.neg y), 0)

/-- A floating-point operation of one operand. -/
def FUn.apply (o : FUn) (f : Fmt) (rm : Rm) (x : Nat) : Nat × Nat :=
  match o with
  | .rint => f.rint rm x
  | .rintExact => f.rint rm x true
  | .nextUp => f.next false x
  | .nextDown => f.next true x
  | .logB => f.logB x
  | .neg => (x ^^^ 2 ^ (f.eb + f.mb), 0)
  | .abs => (x % 2 ^ (f.eb + f.mb), 0)
  | .cls => (f.cls x, 0)

/-- An operation that rounds once, to format r. -/
def FTo.apply (o : FTo) (f r : Fmt) (rm : Rm) (x y z : Nat) : Nat × Nat :=
  match o with
  | .add => f.addTo r rm x y
  | .sub => f.addTo r rm x (f.flip y)
  | .mul => f.mulTo r rm x y
  | .fma => f.fmaTo r rm x y z

/-- The value of a thread's operand in a format. -/
def opnd (g : Group) (k : FKind) (r t : Nat) : Nat := vrN g r t k.words % 2 ^ k.fmt.width

/-- Each thread of a cohort writes a result and gathers flags. -/
def perThread (g : Group) (ts : List Nat) (d n : Nat) (f : Nat → Nat × Nat) : Group :=
  ts.foldl (fun acc t =>
    let r := f t
    onThreads (setVN acc d t n r.1) [t] fun h => { h with flags := h.flags ||| r.2 }) g

/-- Each thread of a cohort writes a result for which it may need a free value. -/
def perThreadFree (s : State) (i : Issue) (d : Nat) (f : Nat → Nat → Nat × Nat) (need : Nat → Bool) : Group × State :=
  i.ts.foldl (fun (g, s) t =>
    if need t then
      let k := takeFree s (2 ^ 32)
      let r := f t k.1
      (onThreads (setV g d t r.1) [t] fun h => { h with flags := h.flags ||| r.2 }, k.2)
    else
      let r := f t 0
      (onThreads (setV g d t r.1) [t] fun h => { h with flags := h.flags ||| r.2 }, s)) (i.g, s)

/-- The lanes of a memory instruction. -/
def lanesOf (i : Issue) (op : MOp) (n addr src : Nat) (loc : Bool) : List MLane :=
  i.ts.map fun t =>
    let w := sizeWords n
    { thread := t, addr := vrN i.g addr t (if loc then 1 else 2),
      cmp := vrN i.g src t w,
      data := match op with
        | .atomic 7 => vrN i.g (src + w) t w
        | _ => vrN i.g src t w }

/-- The thread is a helper of its fragment group (08 R248). -/
def isHelper (k : Block) (t : Nat) : Bool :=
  match k.kind with
  | .fragment _ _ => (k.frags.getD t (0, 0, 0, 0)).2.2.2 = 0
  | _ => false

/-- An image store in a fragment program whose state lacks SIDE_EFFECTS (08 R248); PRIVATE stores are no image stores. -/
def storeBarred (k : Block) (op : MOp) (loc priv : Bool) : Bool :=
  match k.kind with
  | .fragment _ _ => op = .store ∧ ¬ loc ∧ ¬ priv ∧ ¬ bit k.fragFlags 2
  | _ => false

/-- A memory instruction issues (R119, R122): its lines are outstanding and its threads go on. -/
def issueMem (s : State) (i : Issue) (op : MOp) (n d addr src : Nat) (sx loc priv : Bool) (ordered : Bool := false) : State :=
  if storeBarred i.blk op loc priv then parkAt s i .badOpcode else
  let idle : List Nat := if op = .load then [] else i.ts.filter (isHelper i.blk)
  let lanes := (lanesOf i op n addr src loc).filter fun l => l.thread ∉ idle
  let hint : Bool := priv && !op.isAtomic
  let q : MReq := { op := op, size := n, dst := d, lanes := lanes, sx := sx, isLocal := loc, priv := hint, pc := i.pc,
                    idle := idle, ordered := ordered }
  put s i { advance i.g i.ts with mem := i.g.mem ++ [q] }

/-- GROUP_ISSUE (R119, R142): the cohort performs an instruction. -/
def groupIssue (s : State) (i : Issue) (x : SIns) : State :=
  if ¬ x.exists i.blk.prog then parkAt s i .badOpcode else
  let g := i.g
  let fin (g : Group) : State := put s i (advance g i.ts)
  let finS (r : Group × State) : State := put r.2 i (advance r.1 i.ts)
  match x with
  | .float2 op k rm d a b =>
    fin (perThread g i.ts d k.words fun t =>
      op.apply k.fmt rm (opnd g k a t) (if op = .scaleB then vr g b t else opnd g k b t))
  | .float1 op k rm d a =>
    fin (perThread g i.ts d (if op = .cls then 1 else k.words) fun t => op.apply k.fmt rm (opnd g k a t))
  | .fma k rm d a b c =>
    fin (perThread g i.ts d k.words fun t => k.fmt.fma rm (opnd g k a t) (opnd g k b t) (opnd g k c t))
  | .fma16x2 rm d a b c =>
    fin (perThread g i.ts d 1 fun t =>
      let half (r h : Nat) := vr g r t / 2 ^ (16 * h) % 2 ^ 16
      let lo := Fmt.b16.fma rm (half a 0) (half b 0) (half c 0)
      let hi := Fmt.b16.fma rm (half a 1) (half b 1) (half c 1)
      (lo.1 + hi.1 * 2 ^ 16, lo.2 ||| hi.2))
  | .formatOf op k r rm d a b c =>
    fin (perThread g i.ts d r.words fun t => op.apply k.fmt r.fmt rm (opnd g k a t) (opnd g k b t) (opnd g k c t))
  | .order mag k d a b => fin (perThread g i.ts d 1 fun t => k.fmt.total mag (opnd g k a t) (opnd g k b t))
  | .fcmp c sg k d a b => fin (perThread g i.ts d 1 fun t => k.fmt.cmp c sg (opnd g k a t) (opnd g k b t))
  | .approx f d a => finS (perThreadFree s i d (fun t k => approx f (vr g a t) k) fun _ => true)
  | .cvt p q rm sat d a => fin (perThread g i.ts d q.words fun t => convert p.fmt q.fmt rm sat (opnd g p a t))
  | .toInt k n rm d a => fin (perThread g i.ts d 1 fun t => toInt k.fmt n rm (opnd g k a t))
  | .ofInt k n rm d a => fin (perThread g i.ts d k.words fun t => ofInt k.fmt n rm (vr g a t % 2 ^ n))
  | .int op d a b =>
    finS (perThreadFree s i d (fun t k => ((op.apply (vr g a t) (vr g b t)).getD k, 0))
      fun t => (op.apply (vr g a t) (vr g b t)).isNone)
  | .scalar op d a b =>
    match op.apply (sreg g a) (sreg g b) with
    | some v => fin (setS g d v)
    | none => let k := takeFree s (2 ^ 32); finS (setS g d k.1, k.2)
  | .imm d v => fin (perThread g i.ts d 1 fun _ => (v, 0))
  | .scalarImm d v => fin (setS g d v)
  | .fromScalar d a => fin (perThread g i.ts d 1 fun _ => (sreg g a, 0))
  | .toScalar d a => fin (setS g d (vr g a (i.ts.headD 0)))
  | .branch p => put s i (onThreads g i.ts fun h => { h with pc := p })
  | .branchIf a p =>
    let taken := i.ts.filter fun t => vr g a t ≠ 0
    let rest := i.ts.filter fun t => vr g a t = 0
    put s i (onThreads (advance g rest) taken fun h => { h with pc := p })
  | .memory op n d addr src sx loc priv => issueMem s i op n d addr src sx loc priv
  | .fence _ => fin g
  | .undefined => parkAt s i .badOpcode

/-- Errors of a core's register files, local memory or L1 that its codes correct are counted (R116). -/
def coreEcc (s : State) (core n : Nat) : State := if n = 0 then s else fcount s F.SC_CORE_ECC.CORRECTED (core / 8) (core % 8) n

/-- The instruction waits for every outstanding access of its threads: a fence (R124). -/
def SIns.isFence (x : SIns) : Bool := match x with | .fence _ => true | _ => false

/-- GROUP_ISSUE; ecc: errors that the register files' and local memory's codes correct as it issues. -/
def execGroupIssue (core pipe ecc : Nat) (x : SIns) (s : State) : Out :=
  issue s core pipe x.vregs x.isFence fun s i => groupIssue (coreEcc s core ecc) i x

/-- FSTAT (06 R179): the flags to the register, then cleared. -/
def execFstat (core pipe d : Nat) (s : State) : Out :=
  issue s core pipe [(d, 1)] false fun s i =>
    if i.lacks [(d, 1)] [] then parkAt s i .badOpcode else
    let g := i.ts.foldl (fun g t => setV g d t (thr i.g t).flags) i.g
    put s i (advance (onThreads g i.ts fun h => { h with flags := 0 }) i.ts)

/-! ### Memory accesses (R107, R117, R122 to R124) -/

/-- The access class of a memory operation for translation. -/
def MOp.acc : MOp → Acc
  | .load => .read | .store => .write | .atomic _ => .atomic

/-- The L1 of a core holds a device line. -/
def l1Holds (s : State) (c la : Nat) : Bool := (tgetD s.sc.l1 c []).contains la

/-- A line is the last used of its set; of nine the one used least recently leaves (log 127). -/
def l1Use (s : State) (c la : Nat) : State :=
  let used (l : List Nat) : List Nat :=
    let keep := (l.filter fun y => y ≠ la ∧ y % 128 = la % 128).take 7
    la :: l.filter fun y => decide (y ≠ la) && (decide (y % 128 ≠ la % 128) || keep.contains y)
  onSc s fun x => { x with l1 := tmod x.l1 c [] used }

/-- Lines leave a core's L1. -/
def l1Drop (s : State) (c : Nat) (p : Nat → Bool) : State :=
  if tgetD s.sc.l1 c [] = [] then s else
  onSc s fun x => { x with l1 := tmod x.l1 c [] fun l => l.filter fun y => ¬ p y }

/-- A line at an aligned virtual address is read through the L1 of a core (R107, R122): a hit takes the present copy of the line, a miss
fills it and verifies its check (R124). Host lines are not held (log 127). refetch: an uncorrectable error has been found in the L1's
copy, which is dropped first (R116). -/
def vload (s : State) (core vm asid ctx va : Nat) (refetch : Bool := false) : Status × List Byte × State :=
  let r : XReq := { id := 0, engine := core, vm := vm, asid := asid, va := va, acc := .read, context := ctx }
  match translate s r with
  | (.ok pa true _ _, s) =>
    let la := pa / 128
    let s := if refetch then l1Drop s core (· == la) else s
    if l1Holds s core la then (.ok, (lineNow s la).data, l1Use s core la)
    else match l2Refusal s pa 128 with
      | some e => (e, zeros 128, failedAt s va)
      | none =>
        let s := fetchLine s 0 la
        let l := lineNow s la
        match lineStatus l with
        | .ok => (.ok, l.data, l1Use s core la)
        | e => (e, l.data, failedAt (if e = .integrityMismatch then countMismatch s else s) va)
  | (.ok pa false _ _, s) =>
    let h := hostLines s pa 128
    (if h.1 then .integrityMismatch else .ok, hostRead s pa 128, if h.1 then failedAt (countMismatch h.2) va else h.2)
  | (.fault e q a c l, s) => (e, zeros 128, failedAt (xltFault s r (.fault e q a c l)) va)

/-! The overflow bank -/

/-- The line of an address space at a virtual line that a bank holds. -/
def ovfFind (s : State) (k : Block) (line : Nat) : Option OvfLine :=
  (ovfLines s k.core).find? fun l => l.fn = k.fn ∧ l.asid = k.asid ∧ l.line = line

/-- A line is the last used of a bank of 2,048 lines; the one used least recently leaves, written back where it is dirty (R117, log
128): the status of that write. -/
def ovfPut (s : State) (c : Nat) (l : OvfLine) : Status × State :=
  let rest := (ovfLines s c).filter fun x => ¬ (x.fn = l.fn ∧ x.asid = l.asid ∧ x.line = l.line)
  match (if 2048 ≤ rest.length then rest.getLast? else none) with
  | none => (.ok, setOvf s c (l :: rest))
  | some old =>
    let w := ovfWrite s c old
    (w.1, if w.1 = .ok then setOvf w.2 c (l :: rest.dropLast) else w.2)

/-- The line that an access of group g of block b uses, as the bank holds it or empty. -/
def ovfLine (s : State) (b : Nat) (k : Block) (g line : Nat) : OvfLine :=
  let l := (ovfFind s k line).getD { fn := k.fn, asid := k.asid, ctx := k.ctx, line := line, data := zeros 128 }
  { l with users := if l.users.contains (b, g) then l.users else l.users ++ [(b, g)] }

/-- A PRIVATE line is read: what the bank does not hold of it comes from the level-2 cache. -/
def ovfRead (s : State) (b : Nat) (k : Block) (g line : Nat) : Status × List Byte × State :=
  let l := ovfLine s b k g line
  if l.held = 2 ^ 128 - 1 then
    let w := ovfPut s k.core l
    (w.1, l.data, w.2)
  else
    let r := vread s k.core 0 k.fn k.asid k.ctx (128 * line) 128
    if r.1 ≠ .ok then r else
    let data := putSegs r.2.1 (maskSegs l.held l.data)
    let w := ovfPut r.2.2 k.core { l with data := data, held := 2 ^ 128 - 1 }
    (w.1, data, w.2)

/-- PRIVATE bytes are stored: they stand in the bank. -/
def ovfStore (s : State) (b : Nat) (k : Block) (g line : Nat) (segs : List (Nat × List Byte)) : Status × State :=
  let l := ovfLine s b k g line
  let m := segMask segs
  ovfPut s k.core { l with data := putSegs l.data segs, held := l.held ||| m, dirty := l.dirty ||| m }

/-! Requests -/

/-- What the translation of a line has answered: its virtual line, physical address, whether that is device memory, and CHECK. -/
abbrev LineMap := List (Nat × Nat × Bool × Bool)

/-- The fault of a translated device access, by its bytes: refused by the fabric or its slice, or, with the translation fault to be
recorded, a protected graph (12 R380). -/
def laneDevice (s : State) (q : MReq) (va pa : Nat) (chk : Bool) : Option (Status × Option XOut) :=
  match l2Refusal s pa q.size with
  | some e => some (e, none)
  | none =>
    if q.op.acc ≠ .read ∧ chk ∧ (rangeHit s pa q.size).1 then
      some (.permission, some (.fault .permission 11 va (accByte q.op.acc) 0))
    else none

/-- Of a misalignment and another cause the one with the lower code counts (R139); a translation fault that counts is recorded. -/
def laneCause (s : State) (r : XReq) (odd : Bool) (c : Option (Status × Option XOut)) : Option Status × State :=
  match c with
  | none => (if odd then some .badAlignment else none, s)
  | some (e, x) =>
    if odd ∧ Status.code .badAlignment < Status.code e then (some .badAlignment, s)
    else (some e, match x with | some x => xltFault s r x | none => s)

/-- A lane is checked before anything happens (R114, R123): its alignment, and its place in local memory or the translation of its line,
looked up once for the lanes of the line. -/
def laneCheck (s : State) (k : Block) (q : MReq) (m : LineMap) (l : MLane) : Option Status × LineMap × State :=
  let r : XReq := { id := 0, engine := k.core, vm := k.fn, asid := k.asid, va := l.addr, acc := q.op.acc, context := k.ctx }
  let odd : Bool := l.addr % q.size ≠ 0
  let done (s : State) (m : LineMap) (c : Option (Status × Option XOut)) : Option Status × LineMap × State :=
    let x := laneCause s r odd c
    (x.1, m, x.2)
  if q.isLocal then done s m (if k.localKib * 1024 < l.addr + q.size then some (.permission, none) else none)
  else match m.find? fun e => e.1 = l.addr / 128 with
    | some e => done s m (if e.2.2.1 then laneDevice s q l.addr (e.2.1 + l.addr % 128) e.2.2.2 else none)
    | none =>
      match translate s r with
      | (.ok pa dev _ chk, s) =>
        done s ((l.addr / 128, pa - l.addr % 128, dev, chk) :: m) (if dev then laneDevice s q l.addr pa chk else none)
      | (x, s) => match x with
        | .fault e a b c d => done s m (some (e, some (.fault e a b c d)))
        | .ok _ _ _ _ => done s m none

/-- The first lane that faults, with its status. -/
def lanesCheck (k : Block) (q : MReq) : List MLane → LineMap → State → Option (Status × Nat) × State
  | [], _, s => (none, s)
  | l :: t, m, s =>
    match laneCheck s k q m l with
    | (some e, _, s) => (some (e, l.addr), s)
    | (none, m, s) => lanesCheck k q t m s

/-- What an atomic leaves in place of old, in w bits (R124). -/
def atomicApply (f w old data cmp : Nat) : Nat :=
  let d := data % 2 ^ w
  match f with
  | 0 => (old + d) % 2 ^ w
  | 1 => Nat.min old d
  | 2 => Nat.max old d
  | 3 => old &&& d
  | 4 => old ||| d
  | 5 => old ^^^ d
  | 6 => d
  | _ => if old = cmp % 2 ^ w then d else old

/-- What a load leaves in its registers. -/
def loadValue (q : MReq) (v : Nat) : Nat :=
  if q.sx ∧ q.size < 4 ∧ bit v (8 * q.size - 1) then v + (2 ^ 32 - 2 ^ (8 * q.size)) else v

/-- The lines of a memory instruction, in the order of their lowest thread, each with its lanes: one request each (R122). -/
def reqLines (lanes : List MLane) : List (Nat × List MLane) :=
  ((lanes.map fun l => l.addr / 128).eraseDups).map fun n => (n, lanes.filter fun l => l.addr / 128 = n)

/-- A line's lanes perform an atomic one after another (R124): what each thread receives, and the line's bytes. -/
def atomicLanes (f size : Nat) (at_ : Nat → Nat) (lanes : List MLane) (data : List Byte) : List (Nat × Nat) × List Byte :=
  lanes.foldl (fun (a : List (Nat × Nat) × List Byte) l =>
    let old := fieldAt a.2 (at_ l.addr) size
    (a.1 ++ [(l.thread, old)], putAt a.2 (at_ l.addr) (natLe (atomicApply f (8 * size) old l.data l.cmp) size))) ([], data)

/-- What a request leaves: the first failure, with its address, or the value that each thread receives. -/
abbrev ReqOut := Option (Status × Nat) × List (Nat × Nat) × State

/-- The lines of a load are read; refetch: the L1's copies are bad. -/
def loadLines (b : Nat) (k : Block) (g : Nat) (q : MReq) (refetch : Bool) : List (Nat × List MLane) → State → ReqOut
  | [], s => (none, [], s)
  | (n, lanes) :: t, s =>
    let r := if q.priv ∧ ovfBank s k.core then ovfRead s b k g n else vload s k.core k.fn k.asid k.ctx (128 * n) refetch
    if r.1 ≠ .ok then (some (r.1, match lanes with | l :: _ => l.addr | [] => 0), [], r.2.2)
    else
      let x := loadLines b k g q refetch t r.2.2
      (x.1, lanes.map (fun l => (l.thread, loadValue q (fieldAt r.2.1 (l.addr % 128) q.size))) ++ x.2.1, x.2.2)

/-- The lines of a store are written. -/
def storeLines (b : Nat) (k : Block) (g : Nat) (q : MReq) : List (Nat × List MLane) → State → ReqOut
  | [], s => (none, [], s)
  | (n, lanes) :: t, s =>
    let segs := lanes.map fun l => (l.addr % 128, natLe l.data q.size)
    let w := if q.priv ∧ ovfBank s k.core then ovfStore s b k g n segs else vstore s k.core 0 k.fn k.asid k.ctx (128 * n) segs
    if w.1 ≠ .ok then (some (w.1, match lanes with | l :: _ => l.addr | [] => 0), [], w.2) else storeLines b k g q t w.2

/-- The lines of an atomic are changed, each at its slice. -/
def atomicLines (k : Block) (q : MReq) (f : Nat) : List (Nat × List MLane) → State → ReqOut
  | [], s => (none, [], s)
  | (n, lanes) :: t, s =>
    let run := atomicLanes f q.size (· % 128) lanes
    let w := vmodify s k.core 0 k.fn k.asid k.ctx (128 * n) (lanes.map fun l => (l.addr % 128, q.size)) fun d => (run d).2
    if w.1 ≠ .ok then (some (w.1, match lanes with | l :: _ => l.addr | [] => 0), [], w.2.2)
    else
      let x := atomicLines k q f t w.2.2
      (x.1, (run w.2.1).1 ++ x.2.1, x.2.2)

/-- A checked request takes effect. -/
def reqRun (s : State) (b : Nat) (k : Block) (g : Nat) (q : MReq) (refetch : Bool) : ReqOut :=
  let lines := reqLines q.lanes
  if q.isLocal then
    match q.op with
    | .load => (none, q.lanes.map fun l => (l.thread, loadValue q (leNat (mread 0 k.localMem l.addr q.size))), s)
    | .store =>
      let m := q.lanes.foldl (fun m l => mwrite 0 m l.addr (natLe l.data q.size)) k.localMem
      (none, [], onBlock s b fun k => { k with localMem := m })
    | .atomic f =>
      let r := q.lanes.foldl (fun (a : List (Nat × Nat) × List Host.Cell) l =>
        let old := leNat (mread 0 a.2 l.addr q.size)
        (a.1 ++ [(l.thread, old)], mwrite 0 a.2 l.addr (natLe (atomicApply f (8 * q.size) old l.data l.cmp) q.size))) ([], k.localMem)
      (none, r.1, onBlock s b fun k => { k with localMem := r.2 })
  else match q.op with
    | .load => loadLines b k g q refetch lines s
    | .store => storeLines b k g q lines s
    | .atomic f => atomicLines k q f lines s

/-- The block and group in a slot of a core. -/
def groupIn (s : State) (core slot : Nat) : Option (Nat × Block × Group) :=
  (coreBlocks s core).findSome? fun e => (e.2.groups.find? fun g => g.slot = slot).map fun g => (e.1, e.2, g)

/-- Sequence number a comes before b (07 R207). -/
def seqBefore (a b : Nat) : Bool := sub32 b a ≠ 0 ∧ sub32 b a < 2 ^ 31

/-- The outputs of a fragment's thread once it has exited; the empty list where DISCARD ended it. -/
def fragOuts (s : State) (f : Frag) : Option (List Nat) :=
  match (match tget s.sc.blocks f.block with | some k => some k | none => tget s.sc.done f.block) with
  | some k => tget k.outs f.thread
  | none => none

/-- A fragment of lower sequence at the pixel of a thread has not exited (08 R251). -/
def orderedWaits (s : State) (k : Block) (t : Nat) : Bool :=
  match k.kind with
  | .fragment c sl =>
    let me := k.frags.getD t (0, 0, 0, 0)
    match tget s.gfx.tiles (c * 16 + sl) with
    | some x => x.frags.any fun f => f.x = me.2.1 ∧ f.y = me.2.2.1 ∧ seqBefore f.seq me.1 ∧ (fragOuts s f).isNone
    | none => false
  | _ => false

/-- What a request can do now: an ordered store leaves out the threads that must wait, and all of it waits if they all must. -/
def orderedPart (s : State) (k : Block) (q : MReq) : MReq × Option MReq :=
  if ¬ q.ordered then (q, none) else
  let later := q.lanes.filter fun l => orderedWaits s k l.thread
  if later = [] then (q, none)
  else ({ q with lanes := q.lanes.filter fun l => ¬ orderedWaits s k l.thread }, some { q with lanes := later, idle := [] })

/-- An older access of one of its threads shares a byte with the request: they take effect in program order (R124). -/
def olderMeets (old : List MReq) (q : MReq) : Bool :=
  old.any fun o => o.isLocal == q.isLocal && o.lanes.any fun a => q.lanes.any fun l =>
    decide (a.thread = l.thread ∧ a.addr < l.addr + q.size ∧ l.addr < a.addr + o.size)

/-- Threads whose operand has arrived are no longer blocked. -/
def unblock (g : Group) (ts : List Nat) : Group :=
  onThreads g ts fun h => { h with wait := match h.wait with | .mem => .none | w => w }

/-- The requests of a group once request n has been taken, of which a part may stay. -/
def restOf (mem : List MReq) (n : Nat) (left : Option MReq) : List MReq :=
  match left with
  | some r => mem.set n r
  | none => mem.eraseIdx n

/-- MEMORY_ACCESS_RETURN (R122 to R124): request n of the group in a slot completes. Its lines are all translated and checked first, and a
load reads them all first, so that a fault has no effect. While the group is parked a request that would fault stays outstanding.
ecc: errors corrected in the L1 and local memory; refetch: the L1's copies had uncorrectable errors (R116). -/
def memReturn (s : State) (core slot n ecc : Nat) (refetch : Bool) : State :=
  match groupIn s core slot with
  | none => s
  | some (b, k, g) =>
    match g.mem[n]? with
    | none => s
    | some q0 =>
      if k.pre = .saving ∨ olderMeets (g.mem.take n) q0 then s else
      let s0 := s
      let o := orderedPart s k q0
      let q := o.1
      if q.threads = [] then s else
      let wr := q.op != .load
      let s := onGroup (coreEcc s core ecc) b slot fun g => { g with mem := restOf g.mem n o.2 }
      let park (s : State) (f : Status × Nat) : State :=
        if g.park.isSome then s0 else parkGroup s b slot f.1 q.threads q.pc f.2 wr none true [q]
      match lanesCheck k q q.lanes [] s with
      | (some f, s) => park s f
      | (none, s) =>
        match reqRun s b k g.idx q refetch with
        | (some f, _, s) => park s f
        | (none, vals, s) =>
          let none_ := takeFree s (2 ^ 64)
          let vals := if q.op.isAtomic then vals ++ q.idle.map fun t => (t, none_.1) else vals
          onGroup (if q.op.isAtomic ∧ q.idle ≠ [] then none_.2 else s) b slot fun g =>
            unblock (vals.foldl (fun g x => setVN g q.dst x.1 (sizeWords q.size) x.2) g) q.threads

/-- MEMORY_ACCESS_RETURN. -/
def execMemoryAccessReturn (core slot n ecc : Nat) (refetch : Bool) (s : State) : Out :=
  engineStep s fun s => memReturn s core slot n ecc refetch

/-! ### Barrier rows -/

/-- BAR_WAIT (R125): the first arrival opens an instance. -/
def execBarWait (core pipe n : Nat) (s : State) : Out :=
  issue s core pipe [] false fun s i =>
    if 16 ≤ n then parkAt s i .badOpcode else
    let s := put s i (onThreads i.g i.ts fun h => { h with wait := .bar n })
    let s := onBlock s i.b fun k => { k with bars := if (tget k.bars n).isSome then k.bars else tset k.bars n s.time }
    barCheck i.b s n

/-- The threads of a group that wait at a barrier. -/
def atBarrier (g : Group) : List Nat := liveThat g fun h => match h.wait with | .bar _ => true | _ => false

/-- Groups of a block are parked together, one fault record naming the lowest (R127, R128); a park's threads are those at the program
counter that it names (R139). -/
def parkAll (s : State) (b : Nat) (st : Status) (single : Bool) (who : Group → List Nat) : State :=
  match blockAt s b with
  | none => s
  | some k =>
    let gs := sortBy (fun g => g.idx) (k.groups.filter fun g => g.park.isNone ∧ who g ≠ [])
    gs.zipIdx.foldl (fun s x =>
      let pc := (thr x.1 ((who x.1).headD 0)).pc
      parkGroup s b x.1.slot st ((who x.1).filter fun t => (thr x.1 t).pc = pc) pc 0 false none (!single || x.2 == 0)) s

/-- BARRIER_MISMATCH_DETECT (R127). -/
def execBarrierMismatchDetect (b : Nat) (s : State) : Out :=
  engineStep s fun s =>
    match blockAt s b with
    | none => s
    | some k =>
      let all : Bool := k.groups.all fun g => g.park.isNone ∧ liveThat g (fun _ => true) = atBarrier g
      let open_ := (List.range 16).filter fun n => k.groups.any fun g => liveThat g (fun h => decide (h.wait = .bar n)) ≠ []
      if all ∧ 1 < open_.length then parkAll s b .barrierMismatch true atBarrier else s

/-- BARRIER_TIMEOUT (R128). -/
def execBarrierTimeout (b n : Nat) (s : State) : Out :=
  engineStep s fun s =>
    match blockAt s b with
    | none => s
    | some k =>
      if k.prog.barTimeout = 0 ∨ (tget k.bars n).isNone then s
      else parkAll s b .watchdog false fun g => liveThat g fun h => decide (h.wait = .bar n)

/-! ### Resident tasks (R133 to R135) -/

/-- The live resident queue that a handle in a scalar register names for a block. -/
def residentQueue (s : State) (k : Block) (h : Nat) : Option (Nat × Queue) :=
  match queueOf s k.fn h with
  | some x => if x.2.resident then some x else none
  | none => none

/-- QWAIT (R133): handle in s[q], index in s[ix], result to v[d]. -/
def execQwait (core pipe d q ix : Nat) (s : State) : Out :=
  issue s core pipe [(d, 1)] false fun s i =>
    let h := sreg i.g q
    if i.lacks [(d, 1)] [(q, 1), (ix, 1)] then parkAt s i .badOpcode else
    match residentQueue s i.blk h with
    | none => parkAt s i .staleHandle
    | some x =>
      if x.2.shadow ≠ sreg i.g ix then
        put s i (advance (i.ts.foldl (fun g t => setV g d t x.2.shadow) i.g) i.ts)
      else put s i (onThreads i.g i.ts fun t => { t with wait := .qwait h d (sreg i.g ix) })

/-- Threads of a group that wait on a queue, by its handle, receive its shadow where that differs from their index. -/
def wakeGroup (handle shadow : Nat) (g : Group) : Group :=
  (List.range 32).foldl (fun g t =>
    match (thr g t).wait with
    | .qwait h d ix => if (thr g t).live ∧ h = handle ∧ shadow ≠ ix then advance (setV g d t shadow) [t] else g
    | _ => g) g

/-- QWAIT_WAKE (R134): the wake of a queue reaches the cores; it waits while FEX is not ON. -/
def execQwaitWake (q : Nat) (s : State) : Out :=
  engineStep s fun s =>
    match queueAt s q with
    | none => s
    | some x =>
      if ¬ (x.coreWake ∧ domOn s 41) then s else
      let wake (k : Block) : Block := { k with groups := k.groups.map fun g => wakeGroup (q + x.gen * 2 ^ 14) x.shadow g }
      let s := onQueue s q fun y => { y with coreWake := false }
      onSc s fun y => { y with blocks := y.blocks.map fun e => (e.1, wake e.2), saved := y.saved.map fun e => (e.1, wake e.2) }

/-- The front end writes n as the SEQ of a resident queue's completion record; a lower value is dropped (02 R68). -/
def residentComplete (s : State) (q n : Nat) (irq : Bool) : State :=
  match queueAt s q with
  | none => s
  | some x =>
    if n < x.seq then s else
    let w := feWrite s x x.compl (natLe n 8 ++ complTail x)
    if w.1 ≠ .ok then stopNoEntry w.2 q w.1 x.compl
    else
      let s := onQueue w.2 q fun y => { y with seq := n }
      waitsReached (if irq then msixRaise s x.fn x.compVec else s) q

/-- QCOMPLETE (R135): handle in s[q], SEQ in s[n] and s[n + 1], flags the instruction's flag operand. -/
def execQcomplete (core pipe q n flags : Nat) (s : State) : Out :=
  issue s core pipe [] false fun s i =>
    if n % 2 = 1 ∨ i.lacks [] [(q, 1), (n, 2)] then parkAt s i .badOpcode else
    match residentQueue s i.blk (sreg i.g q) with
    | none => parkAt s i .staleHandle
    | some x =>
      residentComplete (put s i (advance i.g i.ts)) x.1 (sreg i.g n + sreg i.g (n + 1) * 2 ^ 32) (bit flags 0)

/-! ### Replay (R140) -/

/-- Parked groups, resident or saved: block number, whether saved, block, group, park. -/
def parkedGroups (s : State) : List (Nat × Bool × Block × Group × Park) :=
  let of (saved : Bool) (l : Tbl Block) := l.flatMap fun e => e.2.groups.filterMap fun g =>
    g.park.map fun p => (e.1, saved, e.2, g, p)
  of false s.sc.blocks ++ of true s.sc.saved

/-- Changes a group of a resident or saved block. -/
def onGroupAny (s : State) (b slot : Nat) (f : Group → Group) : State :=
  onBlockAny s b fun k => { k with groups := k.groups.map fun g => if g.slot = slot then f g else g }

/-- The outcome of a token reaches the threads that wait for it (05 R164). -/
def tokenDone (s : State) (b tok outcome : Nat) : State :=
  let one (g : Group) : Group := (List.range 32).foldl (fun g t =>
    match (thr g t).wait with
    | .acc k d => if (thr g t).live ∧ k = tok then advance (setV g d t outcome) [t] else g
    | _ => g) g
  onBlockAny s b fun k => { k with groups := k.groups.map one }

/-- The accepted instruction of an engine with a token. -/
def insOf (x : Engine) (tok : Nat) : Option AccIns := x.queue.find? fun i => i.token = tok

/-- A fault of an accepted instruction parks its issuing group at the ACCORD instruction (05 R168), unless the group is parked already:
then the engine stays stopped, and the fault parks the group once it goes on. Where the group has exited, the block's first group stands
for it. -/
def faultTry (b : Nat) (s : State) (f : AccFault) : State :=
  match blockAt s b with
  | none => s
  | some k =>
    match k.engine.bind fun e => insOf (engineAt s e) f.token with
    | none => s
    | some i =>
      match (k.groups.filter fun g => g.slot = i.group) ++ k.groups with
      | [] => s
      | g :: _ =>
        if g.park.isSome ∨ k.groups.any (fun g => g.park.any fun p => p.acc = some f.token) then s
        else parkGroup s b g.slot f.status (i.mask.take 1) i.pc f.addr f.write (some f.token)

/-- The faults that stop the engine of a block. -/
def faultTries (s : State) (b : Nat) : State :=
  match (blockAt s b).bind fun k => k.engine with
  | some e => (engineAt s e).faults.foldl (faultTry b) s
  | none => s

/-- The token is freed and the group goes on (R140): at the faulting instruction, or with skip after it. The accesses of a memory
instruction are outstanding again, or with skip dropped. An accord instruction that failed after its acceptance runs again, or with skip
ends (05 R168); one whose block has been saved since then has been discarded with its token (05 R170), and only the group goes on. What
waited for the instruction is tried again, and a block whose groups have exited ends. -/
def unpark (s : State) (b : Nat) (k : Block) (g : Group) (p : Park) (skip : Bool) : State :=
  let s := onSc s fun x => { x with parkIds := ndel x.parkIds p.id }
  let s := match p.acc with
    | some tok =>
      let s := onGroupAny s b g.slot fun g => { g with park := none }
      match k.engine with
      | none => s
      | some e =>
        let s := onEngine s e fun x => { x with faults := x.faults.filter fun f => f.token ≠ tok, queue := if skip then x.queue.filter fun i => i.token ≠ tok else x.queue }
        if skip then tokenDone (onBlock s b fun k => { k with ends := tset k.ends tok .skipped }) b tok 2 else s
    | none =>
      onGroupAny s b g.slot fun g =>
        if p.reqs ≠ [] then { (if skip then unblock g (p.reqs.flatMap MReq.threads) else g) with park := none, mem := if skip then g.mem else p.reqs ++ g.mem }
        else { (if skip then advance g (maskThreads p.mask) else g) with park := none }
  settle (fragTries (barChecks (faultTries s b) b) b) b 0

/-- SC_REPLAY_RESULT of an operation. -/
def replayResult (s : State) (f : Nat) (st : Status) (n : Nat) : State :=
  rset s .SC_REPLAY_RESULT (Status.code st <<< 32 + n) f

/-- A token operation of function f: the group that PARK_ID and PARK_GEN name, else STALE_HANDLE. -/
def replayOne (s : State) (f id gen : Nat) (k : State → (Nat × Bool × Block × Group × Park) → State) : Out :=
  busWrite s .SC_REPLAY f 0 fun s =>
    if flag s F.SC_REPLAY_RESULT.BUSY f then s else
    match (parkedGroups s).find? (fun x => x.2.2.2.2.id = id % 2 ^ 13 ∧ x.2.2.2.2.gen = gen % 256 ∧ (f = 0 ∨ x.2.2.1.fn = f)) with
    | none => replayResult s f .staleHandle 0
    | some x => replayResult (k s x) f .ok 1

/-- SC_REPLAY_REPLAY. -/
def execScReplayReplay (f id gen : Nat) (s : State) : Out :=
  replayOne s f id gen fun s x => unpark s x.1 x.2.2.1 x.2.2.2.1 x.2.2.2.2 false

/-- SC_REPLAY_CONTINUE. -/
def execScReplayContinue (f id gen : Nat) (s : State) : Out :=
  replayOne s f id gen fun s x => unpark s x.1 x.2.2.1 x.2.2.2.1 x.2.2.2.2 true

/-- SC_REPLAY_ABORT. -/
def execScReplayAbort (f id gen : Nat) (s : State) : Out :=
  replayOne s f id gen fun s x => abortOwner s x.2.2.1 x.2.2.2.2.status x.2.2.2.2.addr

/-- SC_REPLAY_CONTEXT. -/
def execScReplayContext (f ctx : Nat) (s : State) : Out :=
  busWrite s .SC_REPLAY f 0 fun s =>
    if flag s F.SC_REPLAY_RESULT.BUSY f then s
    else if ¬ inCtx s f (ctx % 4096) then replayResult s f .permission 0
    else
      let go := (parkedGroups s).filter fun x => x.2.2.1.ctx = ctx % 4096 ∧ (f = 0 ∨ x.2.2.1.fn = f)
        ∧ (x.2.2.2.2.status = .translationFault ∨ x.2.2.2.2.status = .permission)
      replayResult (go.foldl (fun s x => unpark s x.1 x.2.2.1 x.2.2.2.1 x.2.2.2.2 false) s) f .ok go.length

/-- SC_REPLAY_UNDEFINED_OP: an OP of 1 to 4 is no such write. -/
def execScReplayUndefinedOp (f op : Nat) (s : State) : Out :=
  busWrite s .SC_REPLAY f 0 fun s =>
    if flag s F.SC_REPLAY_RESULT.BUSY f ∨ (1 ≤ op % 16 ∧ op % 16 ≤ 4) then s else replayResult s f .badOpcode 0

/-- SHADER_ECC_UNCORRECTABLE (R116): a core-level state fault of the core. -/
def execShaderEccUncorrectable (core : Nat) (s : State) : Out :=
  engineStep s fun s =>
    if core < 128 ∧ domOn s (core / 8) then
      raiseBare s core .uncorrectableEcc 4 (.memory 0 4 0xFF 0xFF 0xFF 0xFFFF 0xFFFF 0 0)
    else s

/-- DEADLINE_BUDGET_EXPIRY (03 R83): the group in a slot of a core reaches SCH_DL_BUDGET; it is ended and its command
finishes with WATCHDOG. -/
def execDeadlineBudgetExpiry (core slot : Nat) (s : State) : Out :=
  engineStep s fun s =>
    match groupIn s core slot with
    | none => s
    | some (b, k, _) =>
      if fget s F.SCH_DL_BUDGET.STEPS = 0 ∨ ¬ (k.cls = 1 ∨ k.cls = 2) then s else
      let s := match k.kind with
        | .item t _ => taskFail s t .watchdog
        | .position p => passFail s p .watchdog
        | .fragment c sl => match tget s.gfx.tiles (c * 16 + sl) with | some x => passFail s x.pass .watchdog | none => s
      let mine (n : Nat) (g : Group) : Bool :=
        decide (g.slot = slot) && (match g.park with | some p => decide (p.id = n) | none => false)
      let s := onSc s fun x => { x with parkIds := x.parkIds.filter fun n => ¬ k.groups.any (mine n) }
      match k.kind with
      | .item _ _ =>
        let s := onGroup s b slot fun g => { g with park := none, mem := [], threads := g.threads.map fun h => { h with live := false } }
        settle (barChecks s b) b 0
      -- a position or fragment group leaves no output behind
      | _ => dropBlock s b

/-! ### Placement (03 R74 to R81) -/

/-- The program of a task, read and checked when its first item is placed (R111). -/
def taskProg (s : State) (t : Nat) (k : Task) : Option (Prog × Task) × State :=
  match k.prog with
  | some p => (some (p, k), s)
  | none =>
    match objAt k 8 with
    | none => (none, taskFail s t .staleHandle)
    | some o =>
      let r := readProg s k.fn k.asid k.ctx o
      if r.1 ≠ .ok then (none, taskFail r.2.2 t r.1 r.2.2.xlt.failAddr)
      else match r.2.1 with
        | none => (none, taskFail r.2.2 t .badOpcode)
        | some p => (some (p, { k with prog := some p }), onTask r.2.2 t fun k => { k with prog := some p })

/-- Groups and local memory of a block of a task. -/
def blockShape (k : Task) : Nat × Nat :=
  if byteAt k.raw 0 = 4 then (4, 0) else (fieldAt k.raw 28 2, fieldAt k.raw 30 2)

/-- Blocks of a task in X and Y (02 R52, 05 R173). -/
def gridXY (k : Task) : Nat × Nat :=
  if byteAt k.raw 0 = 4 then ((fieldAt k.raw 28 4 + 63) / 64, (fieldAt k.raw 24 4 + 63) / 64)
  else (fieldAt k.raw 16 4, fieldAt k.raw 20 4)

/-- Item i of a task enters a core. -/
def placeNew (s : State) (t i : Nat) (k : Task) (p : Prog) (c : Nat) : State :=
  let sh := blockShape k
  let g := gridXY k
  let args := if byteAt k.raw 0 = 3 then objBase k 12 else 0
  let bx := i % g.1
  let by' := i / g.1 % g.2
  let bz := i / (g.1 * g.2)
  (newBlock s { kind := .item t i, core := c, fn := k.fn, ctx := k.ctx, asid := k.asid, q := k.q, cls := k.cls, prog := p,
                nGroups := sh.1, localKib := sh.2, bx := bx, by' := by', bz := bz, lin := i, args := args,
                groups := startGroups s c sh.1 bx by' bz i args }).2

/-- A saved block returns to a core (R85): its groups take the lowest free slots, and under Accord LOST is set (05 R170). -/
def restoreBlock (s : State) (b : Nat) (k : Block) (c : Nat) : State :=
  let slots := freeSlots s c k.groups.length
  let gs := (k.groups.zip slots).map fun x => { x.1 with slot := x.2, lost := x.1.lost || needsEngine s k, fragAt := none }
  let s := enterBlock (onSc s fun x => { x with saved := tdel x.saved b }) b { k with core := c, pre := .none, groups := gs }
  fragTries (barChecks s b) b

/-- The saved block of an item. -/
def savedItem (s : State) (t i : Nat) : Option (Nat × Block) := s.sc.saved.find? fun e => decide (e.2.kind = .item t i)

/-- Groups of the next item of a task. -/
def nextGroups (s : State) (t : Nat) (k : Task) : Nat :=
  match k.saved with
  | i :: _ => match savedItem s t i with | some x => x.2.groups.length | none => (blockShape k).1
  | [] => (blockShape k).1

/-- The item of a task needs an Accord engine. -/
def taskEngine (k : Task) (p : Prog) : Bool := p.accord || k.eng == .accord

/-- The core for the next item of a task. -/
def nextCore (s : State) (t : Nat) (k : Task) (p : Prog) : Option Nat :=
  if taskEngine k p then accordCoreFor s k.cls p (nextGroups s t k) (blockShape k).2
  else coreFor s k.cls p (nextGroups s t k) (blockShape k).2

/-- The core for a group of a tile in cluster c: the one its quadrant is bound to (08 R249), else the lowest of the cluster that can hold
it. -/
def fragCore (s : State) (c : Nat) (t : RTile) (quadrant cls : Nat) (p : Prog) : Option Nat :=
  let may (k : Nat) : Bool := clusterFor s c cls && coreHolds s k p 1 0
  match t.cores.getD quadrant none with
  | some k => if may k then some k else none
  | none => (upFrom (8 * c) 8).find? may

/-- The quadrant of a pixel in a split tile (08 R249). -/
def quadrantAt (x : Pass) (t : RTile) (px py : Nat) : Nat :=
  if ¬ t.split then 0 else
  let across := (x.surface.width + x.tile - 1) / x.tile
  (if t.tile % across * x.tile + x.tile / 2 ≤ px then 1 else 0) + (if t.tile / across * x.tile + x.tile / 2 ≤ py then 2 else 0)

/-- The next saved or waiting group of a tile: its quadrant and program. -/
def nextFragment (s : State) (key : Nat) (x : Pass) (t : RTile) : Option (Nat × Prog) :=
  match s.sc.saved.find? fun e => e.2.kind = .fragment (key / 16) (key % 16) with
  | some e => let f := e.2.frags.getD 0 (0, 0, 0, 0); some (quadrantAt x t f.2.1 f.2.2.1, e.2.prog)
  | none =>
    match t.groups with
    | g :: _ => (x.draws[g.draw]?.bind fun d => d.state.frag).map fun p => (g.quadrant, p)
    | [] => none

/-- The program of the next saved or waiting position group of a pass. -/
def nextPosition (s : State) (p : Nat) (x : Pass) : Option Prog :=
  match s.sc.saved.find? fun e => e.2.kind = .position p with
  | some e => some e.2.prog
  | none =>
    match x.batch with
    | some b => match b.waiting with | _ :: _ => x.draws[b.draw]?.map fun d => d.state.pos | [] => none
    | none => none

/-! ### Requests for cores -/

/-- What asks for a core: a command's next item, a pass's next position group, a tile's next fragment group. -/
inductive CoreReq where
  | task (t : Nat) (k : Task)
  | position (p : Nat) (x : Pass)
  | tile (key : Nat) (x : Pass) (t : RTile)
  deriving DecidableEq, Repr

/-- Everything that asks. -/
def coreReqs (s : State) : List CoreReq :=
  ((readyTasks s .shader ++ readyTasks s .accord).map fun e => .task e.1 e.2)
    ++ (s.gfx.passes.filter fun e => positionWaits s e.1 e.2).map (fun e => .position e.1 e.2)
    ++ s.gfx.tiles.filterMap fun e =>
      if fragmentWaits s e.1 e.2 then (tget s.gfx.passes e.2.pass).map fun x => .tile e.1 x e.2 else none

/-- Its context. -/
def CoreReq.ctx : CoreReq → Nat
  | .task _ k => k.ctx
  | .position _ x => x.ctx
  | .tile _ x _ => x.ctx

/-- A command's program, read ahead of its first placement where need be. -/
def progPeek (s : State) (k : Task) : Option Prog :=
  match k.prog with
  | some p => some p
  | none => (objAt k 8).bind fun o => (readProg s k.fn k.asid k.ctx o).2.1

/-- The core that it would take. -/
def reqCore (s : State) : CoreReq → Option Nat
  | .task t k => (progPeek s k).bind fun p => nextCore s t k p
  | .position p x => (nextPosition s p x).bind fun g => coreFor s (passCls s x) g 1 0
  | .tile key x t => (nextFragment s key x t).bind fun g => fragCore s (key / 16) t g.1 (passCls s x) g.2

/-- A placement has been made for a context: each request, as it stood before, that had a core then and has none now is charged a
blocked step (R102). -/
def chargeCores (before s : State) (ctx : Nat) : State :=
  if (before.sc.blocks.length = s.sc.blocks.length) then s else
  (coreReqs before).foldl (fun s r => if (reqCore before r).isSome ∧ (reqCore s r).isNone then chargeBlocked s r.ctx ctx 1 else s) s

/-- The first ready command, in rank order, whose item finds a core places it (R79). -/
def placeFirst (e : Eng) : List (Nat × Task) → State → State
  | [], s => s
  | (t, k) :: rest, s =>
    match taskProg s t k with
    | (none, s) => s
    | (some (p, k), s) =>
      match nextCore s t k p with
      | none => placeFirst e rest s
      | some c =>
        let x := takeItem k
        let s' := onTask (serveTurn s e (turnKey k)) t fun _ => x.2
        match savedItem s t x.1 with
        | some b => chargeCores s (restoreBlock s' b.1 b.2 c) k.ctx
        | none => chargeCores s (placeNew s' t x.1 k p c) k.ctx

/-! ### Pre-emption (R80, R81, R84) -/

/-- Work that gives way to a class. -/
def givesWay (cls : Nat) (k : Block) : Bool := classRank cls < classRank k.cls

/-- The state without the work of core c that gives way to a class. -/
def evicted (s : State) (c cls : Nat) : State :=
  (coreBlocks s c).foldl (fun s e => if givesWay cls e.2 then removeBlock s e.1 else s) s

/-- Work of core c that gives way is asked to: blocks, and whole tiles with their groups. -/
def askCore (s : State) (c cls : Nat) : State :=
  let s := (coreBlocks s c).foldl (fun s e =>
    match e.2.kind with
    | .fragment k sl => if givesWay cls e.2 then onGfx s fun g => { g with tiles := tupd g.tiles (k * 16 + sl) fun t =>
        if t.pre = .none then { t with pre := .requested } else t } else s
    | _ => s) s
  let ask (b : Nat × Block) : Nat × Block :=
    match b.2.kind with
    | .fragment _ _ => b
    | _ => if b.2.core = c ∧ givesWay cls b.2 ∧ b.2.pre = .none then (b.1, { b.2 with pre := .requested }) else b
  onSc s fun x => { x with blocks := x.blocks.map ask }

/-- A block has been asked to give way. -/
def asked (s : State) (k : Block) : Bool :=
  match k.kind with
  | .fragment c sl => match tget s.gfx.tiles (c * 16 + sl) with | some t => decide (t.pre ≠ .none) | none => false
  | _ => decide (k.pre ≠ .none)

/-- An item of a class finds no core: the work that gives way to it is asked to on the lowest core that may serve it and can hold it
without that work (R80, R81); while such a request is under way there is no second one (log 129). can says that a core holds the item. -/
def preemptFor (s : State) (cls : Nat) (can : State → Nat → Bool) : State :=
  let serves (c : Nat) : Bool := clusterFor s (c / 8) cls && domOpen s (c / 8) && (coreBlocks s c).any (fun e => givesWay cls e.2)
    && can (evicted s c cls) c
  match (List.range 128).filter serves with
  | [] => s
  | l => if l.any fun c => (coreBlocks s c).any fun e => givesWay cls e.2 && asked s e.2 then s else askCore s (l.headD 0) cls

/-- The best-ranked ready command of a class that finds no core has work pre-empted. -/
def requestPreempt (s : State) (e : Eng) : State :=
  match (readyTasks s e).find? fun x => (reqCore s (.task x.1 x.2)).isNone && (progPeek s x.2).isSome with
  | none => s
  | some (t, k) =>
    match progPeek s k with
    | none => s
    | some p => preemptFor s k.cls fun s c => coreHolds s c p (nextGroups s t k) (blockShape k).2
        && (!taskEngine k p || (freeEngine s (c / 8)).isSome)

/-- Live items of the commands of a class that satisfy p. -/
def liveItems (s : State) (e : Eng) (p : Task → Bool) : Nat :=
  ((s.fe.tasks.filter fun x => x.2.eng = e ∧ p x.2).map fun x => x.2.live.length).sum

/-- A PRESS command compresses. -/
def compresses (k : Task) : Bool := byteAt k.raw 1 < 2

/-- ITEM_PLACE (R74 to R81): an engine class places one item. The copy class has four engines; the Press one compressor and
one decompressor; commands that lose the last free one are charged (R102). Tiles and batches are placed by their own rows. -/
def itemPlace (s : State) (e : Eng) : State :=
  let take (x : Option (Nat × Task)) (lost : Task → Task → Bool) : State :=
    match x with
    | none => s
    | some (t, k) => onTask (chargeLosers (serveTurn s e (turnKey k)) e t k (lost k)) t fun k => (takeItem k).2
  match e with
  | .shader | .accord => requestPreempt (placeFirst e (readyTasks s e) s) e
  | .copy =>
    let n := liveItems s .copy fun _ => true
    if n < 4 then take (readyTasks s .copy).head? fun _ _ => n = 3 else s
  | .press =>
    -- a slice waits for its domain (14 R427, 18 R515)
    if ¬ domOpen s 43 then (if (readyTasks s .press) = [] then s else demand s 43) else
    take ((readyTasks s .press).find? fun x => liveItems s .press (fun k => compresses k = compresses x.2) = 0)
      fun k y => compresses k = compresses y
  | _ => s

end Sys2Proof.Machine
end

