-- ==== Sys2Proof/Machine/Accord.lean ====
section
/-!
DEFINITION. Machine/Accord.lean: the Accord engines (05 R145 to R176): the accord and fragment instructions of a group, the
check and acceptance of descriptors, the array, the mover, and their faults.
-/

namespace Sys2Proof.Machine

/-! ### Instructions of a group (04 R129 to R132, 05 R162 to R165, R173) -/

/-- The next token of a block (05 R164). -/
def nextToken (t : Nat) : Nat := if t + 1 < 2 ^ 32 then t + 1 else 1

/-- ACCORD s[d] (04 R129): the descriptor leaves for the engine, and its cohort waits for a token; while LOST is set it gets
one that reports REISSUE (05 R170). -/
def execAccordInstruction (core pipe dst d : Nat) (s : State) : Out :=
  issue s core pipe [(dst, 1)] false fun s i =>
    match i.blk.engine with
    | none => parkAt s i .badOpcode
    | some e =>
      if ¬ i.blk.prog.accord ∨ i.lacks [(dst, 1)] [(d, 8)] then parkAt s i .badOpcode
      else if i.g.lost then
        let tok := nextToken i.blk.token
        let s := onBlock s i.b fun k => { k with token := tok, ends := tset k.ends tok .reissue }
        put s i (advance (i.ts.foldl (fun g t => setV g dst t tok) i.g) i.ts)
      else
        let ins : AccIns := { words := (List.range 8).map fun n => sreg i.g (d + n), token := 0, group := i.g.slot,
                              mask := i.ts, dst := dst, d := d, pc := i.pc }
        onEngine (put s i (onThreads i.g i.ts fun h => { h with wait := .accord })) e fun x =>
          { x with inflight := x.inflight ++ [ins] }

/-- What a thread finds at ACC_WAIT: none while the instruction is outstanding, some none for a token not yet issued. -/
def tokenState (s : State) (k : Block) (tok : Nat) : Option (Option Nat) :=
  if tok = 0 then some (some 0)
  else if 0 < sub32 tok k.token ∧ sub32 tok k.token < 2 ^ 31 then some none
  else match tget k.ends tok with
    | some .reissue => some (some 1)
    | some .skipped => some (some 2)
    | none =>
      match k.engine with
      | some e => if (engineAt s e).queue.any (fun i => i.token = tok) then none else some (some 0)
      | none => some (some 0)

/-- ACC_WAIT (05 R164): each thread's token stands in v[src]; its outcome goes to v[dst]. -/
def execAccWait (core pipe dst src : Nat) (s : State) : Out :=
  issue s core pipe [(dst, 1), (src, 1)] false fun s i =>
    if i.lacks [(dst, 1), (src, 1)] [] ∨ i.ts.any (fun t => tokenState s i.blk (vr i.g src t) = some none) then parkAt s i .badOpcode
    else
      put s i (i.ts.foldl (fun g t =>
        match tokenState s i.blk (vr i.g src t) with
        | some (some o) => advance (setV g dst t o) [t]
        | _ => onThreads g [t] fun h => { h with wait := .acc (vr i.g src t) dst }) i.g)

/-- A fragment instruction is reached (04 R131, 05 R162): n lines from the address that s[a] holds when it executes. -/
def reachFrag (s : State) (i : Issue) (load : Bool) (d a n : Nat) : State :=
  if n = 0 ∨ 8 < n ∨ i.blk.engine = none ∨ i.lacks [(d, n)] [(a, 1)] then parkAt s i .badOpcode
  else
    fragTry i.b (put s i (onThreads i.g i.ts fun h => { h with wait := .frag load d a n })) i.g.slot

/-- ACC_LOAD_FRAG. -/
def execAccLoadFrag (core pipe d a n : Nat) (s : State) : Out :=
  issue s core pipe [(d, n)] false fun s i => reachFrag s i true d a n
/-- ACC_STORE_FRAG. -/
def execAccStoreFrag (core pipe d a n : Nat) (s : State) : Out :=
  issue s core pipe [(d, n)] false fun s i => reachFrag s i false d a n

/-- A thread is blocked as R131 counts it, at pc or elsewhere. -/
def matrixBlocked (h : Thread) (pc : Nat) : Bool :=
  match h.wait with
  | .bar _ | .acc _ _ | .qwait _ _ _ => true
  | .frag _ _ _ _ => h.pc ≠ pc
  | _ => false

/-- MATRIX_DIVERGENCE_DETECT (04 R131): the group in a slot of a core has threads at a fragment instruction, and every other
live thread is blocked. -/
def execMatrixDivergenceDetect (core slot : Nat) (s : State) : Out :=
  engineStep s fun s =>
    match groupIn s core slot with
    | none => s
    | some (b, _, g) =>
      if g.park.isSome then s else
      let live := liveThat g fun _ => true
      let frag := live.filter fun t => match (thr g t).wait with | .frag _ _ _ _ => true | _ => false
      match frag with
      | [] => s
      | t0 :: ts =>
        let pc := ts.foldl (fun p t => Nat.min p (thr g t).pc) (thr g t0).pc
        let here := frag.filter fun t => (thr g t).pc = pc
        let rest := live.filter fun t => t ∉ here
        if rest ≠ [] ∧ rest.all (fun t => matrixBlocked (thr g t) pc) then parkGroup s b slot .matrixDivergence here pc
        else s

/-- ACC_INFO (05 R165): into s[d]; LOST is cleared for the group. -/
def execAccInfo (core pipe d : Nat) (s : State) : Out :=
  issue s core pipe [] false fun s i =>
    let v := match i.blk.engine with
      | none => 0
      | some e => b2n i.g.lost <<< 31 + (e / 4) <<< 24 + e <<< 16 + ownedBanks s e
    if i.lacks [] [(d, 1)] then parkAt s i .badOpcode else put s i { advance (setS i.g d v) i.ts with lost := false }

/-- The launch record of an ACCORD command (05 R173). -/
def accordArgs (k : Task) : List Nat :=
  let lo (off : Nat) : List Nat := [objBase k off % 2 ^ 32, objBase k off / 2 ^ 32]
  let size := match objAt k 40 with | some o => o.size | none => 0
  lo 12 ++ lo 16 ++ lo 20 ++ lo 40 ++ [fieldAt k.raw 24 4, fieldAt k.raw 28 4, fieldAt k.raw 32 4, fieldAt k.raw 36 3,
    size % 2 ^ 32, size / 2 ^ 32, 0, 0]

/-- ACC_ARG (05 R173): word n of the launch record into s[d]. -/
def execAccArg (core pipe d n : Nat) (s : State) : Out :=
  issue s core pipe [] false fun s i =>
    match i.blk.kind with
    | .item t _ =>
      match taskAt s t with
      | some k =>
        if byteAt k.raw 0 = 4 ∧ n < 16 ∧ ¬ i.lacks [] [(d, 1)] then put s i (advance (setS i.g d ((accordArgs k).getD n 0)) i.ts)
        else parkAt s i .badOpcode
      | none => parkAt s i .badOpcode
    | _ => parkAt s i .badOpcode

/-! ### Descriptors (05 R147, R149, R153, R154) -/

/-- The bits of a word outside a mask are zero. -/
def onlyBits (w mask : Nat) : Bool := without (w % 2 ^ 32) mask = 0

/-- An F6 or F4 code. -/
def isF64 (c : Nat) : Bool := c = 5 ∨ c = 6
/-- An I8 or I4 code. -/
def isInt (c : Nat) : Bool := c = 7 ∨ c = 8

/-- First check of an MMA descriptor. -/
def mmaBad (i : AccIns) : Bool :=
  let w0 := word i 0
  let w1 := word i 1
  let k := bits (word i 2) 12 0
  let a := bits w0 23 16
  let b := bits w0 31 24
  let ef := bits w1 7 0
  let ex := bits w1 11 8
  let c := bits w1 23 16
  let sa := bits w0 9 8
  let sb := bits w0 11 10
  let ct := lineRange (bits (word i 4) 14 0) (32 * accBits c / 8)
  ¬ (onlyBits w0 0xFFFF0F1F ∧ onlyBits w1 0x00FF3FFF ∧ onlyBits (word i 2) 0x1FFF ∧ onlyBits (word i 3) 0x7FFF7FFF
      ∧ onlyBits (word i 4) 0x7FFF7FFF ∧ onlyBits (word i 5) 0x7FFF ∧ word i 6 = 0 ∧ word i 7 = 0)
  ∨ ¬ (1 ≤ a ∧ a ≤ 6) ∨ ¬ (1 ≤ b ∧ b ≤ 8) ∨ ¬ ((1 ≤ c ∧ c ≤ 4) ∨ c = 10)
  ∨ k < 64 ∨ 4096 < k ∨ k % 64 ≠ 0 ∨ bits w1 13 12 = 3 ∨ 2 < ex ∨ sa = 3 ∨ sb = 3
  ∨ (decide (ex ≠ 0) != isInt b) ∨ ¬ (if ex = 0 then ef = 0 else 1 ≤ ef ∧ ef ≤ 4)
  ∨ (decide (sa ≠ 0) != isF64 a) ∨ (decide (sb ≠ 0) != isF64 b)
  ∨ ((readLines i).take 4).any (linesMeet ct)

/-- First check of a LOAD or STORE descriptor. A panel holds elements of at most 16 bits. -/
def moveBad (i : AccIns) : Bool :=
  let w0 := word i 0
  let lay := bits w0 11 10
  let f := bits w0 23 16
  let n := bits (word i 2) 12 0
  let rows := bits (word i 1) 6 0
  ¬ (onlyBits w0 0x00FF0C1F ∧ onlyBits (word i 1) 0x7F ∧ onlyBits (word i 2) 0x1FFF ∧ onlyBits (word i 3) 0x7FFF ∧ word i 7 = 0)
  ∨ lay = 3 ∨ (bit w0 4 ∧ lay ≠ 0) ∨ (lay ≠ 2 ∧ ¬ (1 ≤ f ∧ f ≤ 10)) ∨ (lay = 0 ∧ f = 10)
  ∨ rows = 0 ∨ 64 < rows ∨ n = 0 ∨ (if lay = 1 then 64 < n else 4096 < n)

/-- ADDRESS of a LOAD or STORE. -/
def moveAddr (i : AccIns) : Nat := word i 4 + word i 5 * 2 ^ 32

/-- The first check of R154 that fails. -/
def descBad (s : State) (e : Nat) (i : AccIns) : Option Status :=
  let op := bits (word i 0) 3 0
  if i.d % 8 ≠ 0 ∨ op = 0 ∨ 3 < op ∨ (if op = 1 then mmaBad i else moveBad i) then some .badOpcode
  else if (readLines i ++ writeLines i).any (fun r => (upFrom r.1 r.2).any fun l => 0x7FFF < l ∨ ¬ ownsBank s e (l / 2048)) then
    some .permission
  else if op ≠ 1 ∧ moveAddr i % 4 ≠ 0 then some .badAlignment
  else none

/-- A descriptor waits on its way: its group is parked for another cause, or it is good but names a line of a bank that is being handed
over, which gets no new use until it has changed hands (11 R341, 05 R172). -/
def descWaits (s : State) (e : Nat) (k : Block) (i : AccIns) : Bool :=
  k.groups.any (fun g => g.slot = i.group ∧ g.park.isSome)
    || ((descBad s e i).isNone
      && (readLines i ++ writeLines i).any fun r => (upFrom r.1 r.2).any fun l => !mayUseBank s e (l / 2048))

/-- ACCORD_DESCRIPTOR_ARRIVE (05 R154, 04 R130): the oldest descriptor on its way to engine e that need not wait is checked and
accepted with the next token, or parks its group. All wait while four are outstanding or the engine accepts nothing. -/
def execAccordDescriptorArrive (e : Nat) (s : State) : Out :=
  unitStep s (0x80 + e) fun s =>
    let x := engineAt s e
    match x.block with
    | none => s
    | some b =>
      match blockAt s b with
      | none => s
      | some k =>
        if x.draining ∨ 4 ≤ x.queue.length then s else
        match x.inflight.find? (fun i => !descWaits s e k i) with
        | none => s
        | some i =>
          let rest := x.inflight.erase i
          match descBad s e i with
          | some st =>
            parkGroup (onEngine s e fun x => { x with inflight := rest }) b i.group st i.mask i.pc
          | none =>
            let tok := nextToken k.token
            let s := onEngine s e fun x => { x with inflight := rest, queue := x.queue ++ [{ i with token := tok }] }
            let s := onBlock s b fun k => { k with token := tok, ends := tdel k.ends tok }
            onGroup s b i.group fun g => advance (i.mask.foldl (fun g t => setV g i.dst t tok) g) i.mask

/-! ### Starts (05 R155) -/

/-- The instruction runs on the array. -/
def isMma (i : AccIns) : Bool := bits (word i 0) 3 0 = 1

/-- The first instruction of a unit that does not run yet, with the instructions accepted before it. -/
def firstOf (mma : Bool) (runs : List Nat) : List AccIns → List AccIns → Option (AccIns × List AccIns)
  | [], _ => none
  | i :: t, before =>
    if isMma i = mma ∧ ¬ runs.contains i.token then some (i, before) else firstOf mma runs t (before ++ [i])

/-- The lookup table that an MMA loads at its start (05 R157): its first line and number of lines, 0 for none. -/
def tableLines (i : AccIns) : Nat × Nat :=
  if bits (word i 1) 11 8 = 1 then (bits (word i 5) 14 0, bsLines i) else (0, 0)

/-- Instruction i may not start while j of the other unit, accepted earlier, is outstanding. -/
def holdsBack (j i : AccIns) : Bool :=
  (writeLines j).any (fun x => (readLines i).any (linesMeet x) || (writeLines i).any (linesMeet x))
    || (readLines j).any fun x => (writeLines i).any (linesMeet x)

/-- The instruction of a unit that may start now. An MMA starts while the one before it is written out (R166 step 5), unless it would
load its table from lines that that one writes. -/
def startable (x : Engine) (mma : Bool) : Option AccIns :=
  if x.faults ≠ [] ∨ x.draining ∨ (if mma then x.array.isSome ∧ x.out.isSome else x.mover.isSome) then none
  else match firstOf mma (x.array.toList ++ x.out.toList) x.queue [] with
    | none => none
    | some (i, before) =>
      if before.any fun j => if isMma j = mma then mma && (writeLines j).any (linesMeet (tableLines i)) else holdsBack j i then none
      else some i

/-- MOVER_START (05 R155). -/
def execMoverStart (e : Nat) (s : State) : Out :=
  unitStep s (0x80 + e) fun s =>
    match startable (engineAt s e) false with
    | none => s
    | some i => onEngine s e fun x => { x with mover := some i.token }

/-! ### Ends and faults (05 R168) -/

/-- The unit that runs an instruction is free of it. -/
def Engine.free (x : Engine) (tok : Nat) : Engine :=
  { x with array := x.array.filter (· ≠ tok), out := x.out.filter (· ≠ tok), mover := x.mover.filter (· ≠ tok) }

/-- An accepted instruction faults: the engine stops, and the instruction's issuing group is parked. -/
def accFault (s : State) (e b : Nat) (i : AccIns) (st : Status) (addr : Nat) (write : Bool) : State :=
  faultTries (onEngine s e fun x =>
    { x.free i.token with faults := x.faults ++ [{ token := i.token, status := st, addr := addr, write := write }] }) b

/-- An accepted instruction completes: its token's waiters are released, and fragments and exits that waited go on. -/
def accDone (s : State) (e b : Nat) (i : AccIns) : State :=
  let s := onEngine s e fun x => { x.free i.token with queue := x.queue.filter fun j => j.token ≠ i.token }
  settle (fragTries (tokenDone s b i.token 0) b) b 0

/-! ### The array (05 R148, R156 to R159, R166; 06 R184 to R190) -/

/-- The format of an Accord code. -/
def accFmt (c : Nat) : Fmt :=
  if c = 1 then Fmt.b16 else if c = 2 then Fmt.bf16 else if c = 3 then Fmt.f8a else if c = 4 then Fmt.f8b
  else if c = 5 then Fmt.f6 else if c = 6 then Fmt.f4 else Fmt.b32

/-- Element k of row r of a panel of b-bit elements at line base (05 R150). -/
def panelElem (s : State) (cluster base b r k : Nat) : Nat :=
  let h := fieldAt (folRead s cluster (base + k / perLine b)).1 (2 * r) 2
  h >>> (b * (k % perLine b)) % 2 ^ b

/-- A two's-complement number of b bits. -/
def signedOf (b x : Nat) : Int := if bit x (b - 1) then (x : Int) - 2 ^ b else x

/-- An integer as an exact value. -/
def intVal (z : Int) : FVal := .num (decide (z < 0)) z.natAbs 0

/-- Element k of row m of A. -/
def aElem (s : State) (cl : Nat) (i : AccIns) (m k : Nat) : FVal :=
  let f := bits (word i 0) 23 16
  accIn (accFmt f) (panelElem s cl (bits (word i 3) 14 0) (accBits f) m k)

/-- Element k of column n of B, expanded (05 R157, R158); table is the engine's expansion table. -/
def bElem (s : State) (cl : Nat) (table : List Nat) (i : AccIns) (n k : Nat) : FVal :=
  let f := bits (word i 0) 31 24
  let b := accBits f
  let q := panelElem s cl (bits (word i 3) 30 16) b n k
  let ef := bits (word i 1) 7 0
  let bs := bits (word i 5) 14 0
  match bits (word i 1) 11 8 with
  | 0 => accIn (accFmt f) q
  | 1 => accIn (accFmt ef) (table.getD q 0 % 2 ^ accBits ef)
  | _ =>
    let g := groupOf (word i 1)
    let groups := (bits (word i 2) 12 0 + g - 1) / g
    let sc := panelElem s cl bs 16 n (k / g)
    let z := panelElem s cl (bs + groups) 8 n (k / g)
    let v := intVal (signedOf b q - signedOf 8 z)
    accIn (accFmt ef) (accOut (accFmt ef) (exactMul v (Fmt.b16.decode sc)))

/-- The scale of a 16-element block of an operand: levels SCL, panel at base, K, row r, block j (05 R159). -/
def blockScale (s : State) (cl levels base kk r j : Nat) : FVal :=
  if levels = 0 then .num false 1 0 else
  let e := e8Val (panelElem s cl base 8 r j)
  if levels = 1 then e
  else exactMul e (Fmt.f8a.decode (panelElem s cl (base + ((kk + 15) / 16 + 1) / 2) 8 r (j / 16)))

/-- The sum of slice j of output (m, n) (06 R185). -/
def sliceSum (s : State) (cl : Nat) (table : List Nat) (i : AccIns) (m n j : Nat) : FVal :=
  let prod (k : Nat) : FVal := accMul (aElem s cl i m k) (bElem s cl table i n k)
  let sa := bits (word i 0) 9 8
  let sb := bits (word i 0) 11 10
  if sa = 0 ∧ sb = 0 then headVal (treeLevels 6 ((upFrom (64 * j) 64).map prod))
  else
    let kk := bits (word i 2) 12 0
    let block (t : Nat) : FVal :=
      let c := 4 * j + t
      let sum := ((upFrom (16 * c) 16).map prod).foldl exactAdd FVal.zero
      exactMul sum (exactMul (blockScale s cl sa (bits (word i 4) 30 16) kk m c)
        (blockScale s cl sb (bits (word i 5) 14 0) kk n c))
    headVal (treeLevels 2 ((List.range 4).map block))

/-- The accumulator of output (m, n) of an MMA at its end (05 R156), a word in binary32 layout. -/
def mmaElem (s : State) (cl : Nat) (table : List Nat) (i : AccIns) (m n : Nat) : Nat :=
  let c := bits (word i 1) 23 16
  let acc := (List.range (bits (word i 2) 12 0 / 64)).foldl (fun a j => accStep a (sliceSum s cl table i m n j)) FVal.zero
  let acc := if bit (word i 0) 4 then
      let off := (64 * m + n) * (accBits c / 8)
      accStep acc (accIn (accFmt c)
        (fieldAt (folRead s cl (bits (word i 4) 14 0 + off / 128)).1 (off % 128) (accBits c / 8)))
    else acc
  accOut Fmt.b32 acc

/-- Line l of the C tile that an accumulator set gives, converted to C_FMT. -/
def mmaLine (acc : List Nat) (i : AccIns) (l : Nat) : List Byte :=
  let c := bits (word i 1) 23 16
  let w := accBits c / 8
  let row := (acc.drop (l * (128 / w))).take (128 / w)
  row.flatMap fun x => natLe (accOut (accFmt c) (accIn Fmt.b32 x)) w

/-- The array steps per k in halves (05 R147, R148). -/
def halfSteps (c : Nat) : Nat := if c = 1 ∨ c = 2 then 4 else if c = 6 then 1 else 2

/-- Steps for which an MMA occupies the array (05 R166). -/
def mmaSteps (i : AccIns) : Nat :=
  let b := if bits (word i 1) 11 8 = 0 then bits (word i 0) 31 24 else bits (word i 1) 7 0
  64 + max (bits (word i 2) 12 0 * max (halfSteps (bits (word i 0) 23 16)) (halfSteps b) / 2) 128

/-- Some line of the ranges carries a check that mismatches. -/
def linesBad (s : State) (cl : Nat) (l : List (Nat × Nat)) : Bool :=
  l.any fun r => (upFrom r.1 r.2).any fun n => (folRead s cl n).2

/-- The MMA in the array of engine e reduces its last slice (R166 step 4): its accumulators are full and it goes to be written out,
unless a line it has consumed fails its check (R161, R168). The array is free. -/
def mmaReduce (s : State) (e : Nat) : State :=
  let x := engineAt s e
  let cl := e / 4
  match x.block, x.array.bind (insOf x) with
  | some b, some i =>
    let s := fset s F.ACE_ENG_STEPS.BUSY ((fget s F.ACE_ENG_STEPS.BUSY 0 e + mmaSteps i) % 2 ^ 64) 0 e
    let s := match blockAt s b with | some k => busySteps s k.ctx .accord (mmaSteps i) | none => s
    if linesBad s cl ((readLines i).filter fun r => r ≠ tableLines i) then accFault (countMismatch s) e b i .integrityMismatch 0 false
    else
      let acc := (List.range 4096).map fun n => mmaElem s cl x.table i (n / 64) (n % 64)
      onEngine s e fun x => { x with array := none, out := some i.token, accs := tset x.accs x.aset acc }
  | _, _ => s

/-- MMA_START (05 R155, R157): the MMA takes the accumulator set that the one before it does not use and loads its lookup table, unless
a line of that fails its check. One that is still in the array then goes to be written out. -/
def execMmaStart (e : Nat) (s : State) : Out :=
  unitStep s (0x80 + e) fun s =>
    match startable (engineAt s e) true with
    | none => s
    | some i =>
      let s := mmaReduce s e
      let x := engineAt s e
      match x.block with
      | none => s
      | some b =>
        if x.faults ≠ [] then s
        else if linesBad s (e / 4) [tableLines i] then accFault (countMismatch s) e b i .integrityMismatch 0 false
        else
          let line (l : Nat) : List Nat :=
            (List.range 64).map fun n => fieldAt (folRead s (e / 4) ((tableLines i).1 + l)).1 (2 * n) 2
          let table := if (tableLines i).2 = 0 then x.table else (List.range (tableLines i).2).flatMap line
          onEngine s e fun x => { x with array := some i.token, aset := 1 - x.aset, table := table }

/-- MMA_COMPLETE (05 R156, R166, R168): the C tile of the oldest MMA that runs is written. ecc is the number of errors corrected in
its accumulator words (R172). -/
def execMmaComplete (e ecc : Nat) (s : State) : Out :=
  engineStep s fun s =>
    let s := if (engineAt s e).out.isSome then s else mmaReduce s e
    let x := engineAt s e
    match x.block, x.out.bind (insOf x) with
    | some b, some i =>
      let s := if ecc = 0 then s else fcount s F.ACE_ENG_ECC.CORRECTED 0 e ecc
      let acc := tgetD x.accs (if x.array.isSome then 1 - x.aset else x.aset) []
      let base := bits (word i 4) 14 0
      let out := (List.range (32 * accBits (bits (word i 1) 23 16) / 8)).map fun l => (base + l, mmaLine acc i l)
      accDone (out.foldl (fun s x => folWrite s (e / 4) x.1 x.2) s) e b i
    | _, _ => s

/-! ### The mover (05 R160, R161, R168) -/

/-- Rows of a move in memory: their number, the elements of each, and whether a row runs along the panel's rows. -/
def moveShape (i : AccIns) : Nat × Nat × Bool :=
  let rows := bits (word i 1) 6 0
  let n := bits (word i 2) 12 0
  if bits (word i 0) 11 10 = 0 ∧ bit (word i 0) 4 then (n, rows, true) else (rows, n, false)

/-- The bytes of memory row r of a move: first address, bit offset in it, bytes. -/
def moveRow (i : AccIns) (r : Nat) : Nat × Nat × Nat :=
  let b := accBits (bits (word i 0) 23 16)
  let start := r * word i 6 * b
  let n := (moveShape i).2.1 * b
  (moveAddr i + start / 8, start % 8, (start % 8 + n + 7) / 8)

/-- Every byte range that a move touches. -/
def moveRanges (i : AccIns) : List (Nat × Nat) :=
  if bits (word i 0) 11 10 = 2 then [(moveAddr i, 128 * bits (word i 2) 12 0)]
  else (List.range (moveShape i).1).map fun r => ((moveRow i r).1, (moveRow i r).2.2)

/-- Every page of a range is translated and checked: the first fault and its address. -/
def probe (s : State) (engine vm asid ctx va n : Nat) (acc : Acc) : Option (Status × Nat) × State :=
  (pageParts va n).foldl (fun (f, s) p =>
    match f with
    | some x => (some x, s)
    | none =>
      let r : XReq := { id := 0, engine := engine, vm := vm, asid := asid, va := p.1, acc := acc, context := ctx }
      match translate s r with
      | (.ok pa dev _ chk, s) =>
        if acc = .write ∧ dev ∧ chk ∧ (rangeHit s pa p.2).1 then
          (some (.permission, p.1), xltFault s r (.fault .permission 11 p.1 2 0))
        else (none, s)
      | (.fault e q a c l, s) => (some (e, p.1), xltFault s r (.fault e q a c l))) (none, s)

/-- Every range is probed. -/
def probeAll (s : State) (engine : Nat) (k : Block) (acc : Acc) (l : List (Nat × Nat)) : Option (Status × Nat) × State :=
  l.foldl (fun (f, s) r => match f with
    | some x => (some x, s)
    | none => probe s engine k.fn k.asid k.ctx r.1 r.2 acc) (none, s)

/-- The ranges are read in order: the first failure, or each one's bytes. -/
def readRanges (s : State) (engine : Nat) (k : Block) : List (Nat × Nat) → Option (Status × Nat) × List (List Byte) × State
  | [] => (none, [], s)
  | r :: t =>
    let x := vread s engine 1 k.fn k.asid k.ctx r.1 r.2
    if x.1 ≠ .ok then (some (x.1, r.1), [], x.2.2)
    else
      let y := readRanges x.2.2 engine k t
      (y.1, x.2.1 :: y.2.1, y.2.2)

/-- Element j of the bytes of a memory row. -/
def rowElem (bs : List Byte) (off b j : Nat) : Nat := fieldAt bs ((off + j * b) / 8) 5 >>> ((off + j * b) % 8) % 2 ^ b

/-- The element (row, index) that a move reads from its memory rows; 0 beyond ROWS and K. -/
def movedElem (i : AccIns) (rows : List (List Byte)) (r k : Nat) : Nat :=
  let b := accBits (bits (word i 0) 23 16)
  let sh := moveShape i
  let p := if sh.2.2 then (k, r) else (r, k)
  if p.1 < sh.1 ∧ p.2 < sh.2.1 then rowElem (rows.getD p.1 []) (moveRow i p.1).2.1 b p.2 else 0

/-- A panel line of a LOAD. -/
def loadedPanel (i : AccIns) (rows : List (List Byte)) (l : Nat) : List Byte :=
  let b := accBits (bits (word i 0) 23 16)
  ((List.range 64).map fun r => natLe ((List.range (perLine b)).foldl (fun a x =>
    a + movedElem i rows r (l * perLine b + x) * 2 ^ (b * x)) 0) 2).flatten

/-- A tile as one number with the elements of a LOAD in place: rows from ROWS up are zero, columns beyond are kept. -/
def loadedTile (i : AccIns) (rows : List (List Byte)) (old : Nat) : Nat :=
  let b := accBits (bits (word i 0) 23 16)
  (List.range 4096).foldl (fun v x =>
    let r := x / 64
    let c := x % 64
    if (moveShape i).1 ≤ r ∨ c < (moveShape i).2.1 then setBits v (b * x + b - 1) (b * x) (movedElem i rows r c) else v) old

/-- A LOAD moves its lines into folio memory. -/
def doLoad (s : State) (cl : Nat) (i : AccIns) (rows : List (List Byte)) : State :=
  let base := bits (word i 3) 14 0
  let n := moveLines i
  match bits (word i 0) 11 10 with
  | 0 => (List.range n).foldl (fun s l => folWrite s cl (base + l) (loadedPanel i rows l)) s
  | 1 =>
    let old := leNat ((List.range n).flatMap fun l => (folRead s cl (base + l)).1)
    -- the lines are whole in the loaded tile, or their old columns have been verified (MOVER_COMPLETE)
    let new := natLe (loadedTile i rows old) (128 * n)
    (List.range n).foldl (fun s l => folWrite s cl (base + l) ((new.drop (128 * l)).take 128)) s
  | _ => (List.range n).foldl (fun s l => folWrite s cl (base + l) (((rows.headD []).drop (128 * l)).take 128)) s

/-- Element (r, k) of the folio side of a STORE. -/
def storedElem (s : State) (cl : Nat) (i : AccIns) (r k : Nat) : Nat :=
  let b := accBits (bits (word i 0) 23 16)
  let base := bits (word i 3) 14 0
  if bits (word i 0) 11 10 = 0 then panelElem s cl base b r k
  else
    let x := (64 * r + k) * b
    let line (n : Nat) : List Byte := (folRead s cl (base + n)).1
    fieldAt (line (x / 1024) ++ line (x / 1024 + 1)) (x / 8 % 128) 5 >>> (x % 8) % 2 ^ b

/-- Folio lines that elements j0 to j1 - 1 of memory row r of a STORE stand in. -/
def elemLines (i : AccIns) (r j0 j1 : Nat) : List Nat :=
  let b := accBits (bits (word i 0) 23 16)
  let base := bits (word i 3) 14 0
  if j1 ≤ j0 then []
  else if bits (word i 0) 11 10 = 1 then
    let lo := (64 * r + j0) * b / 1024
    upFrom (base + lo) (((64 * r + j1) * b + 1023) / 1024 - lo)
  else if (moveShape i).2.2 then [base + r / perLine b]
  else upFrom (base + j0 / perLine b) ((j1 - 1) / perLine b + 1 - j0 / perLine b)

/-- The part of memory row r of a move that lies in memory line m: its first bit in the line, its number of bits, the first element
that has a bit there, the bits of it that lie before, and the element after the last. -/
def rowIn (i : AccIns) (m r : Nat) : Nat × Nat × Nat × Nat × Nat :=
  let b := accBits (bits (word i 0) 23 16)
  let start := 8 * moveAddr i + r * word i 6 * b
  let stop := start + (moveShape i).2.1 * b
  let lo := Nat.max start (1024 * m)
  let hi := Nat.min stop (1024 * (m + 1))
  (lo - 1024 * m, hi - lo, (lo - start) / b, (lo - start) % b, (hi - start + b - 1) / b)

/-- The memory lines that the rows of a move touch, in the order of the rows. -/
def rowsLines (i : AccIns) : List Nat :=
  ((moveRanges i).foldl (fun l r => (linesOf r.1 r.2).foldl (fun l m => if l.head? = some m then l else m :: l) l) []).reverse

/-- Memory line m of a STORE: the rows that have bits in it, as (first bit, bits, value), and the folio lines they stand in. -/
def lineParts (s : State) (cl : Nat) (i : AccIns) (m : Nat) : List (Nat × Nat × Nat) × List Nat :=
  let b := accBits (bits (word i 0) 23 16)
  let sh := moveShape i
  let rows := (List.range sh.1).filter fun r => 0 < (rowIn i m r).2.1
  (rows.map fun r =>
    let p := rowIn i m r
    let v := (upFrom p.2.2.1 (p.2.2.2.2 - p.2.2.1)).foldl (fun a j =>
      a + (if sh.2.2 then storedElem s cl i j r else storedElem s cl i r j) * 2 ^ (b * (j - p.2.2.1))) 0
    (p.1, p.2.1, v >>> p.2.2.2.1 % 2 ^ p.2.1),
   rows.flatMap fun r => elemLines i r (rowIn i m r).2.2.1 (rowIn i m r).2.2.2.2)

/-- The memory lines of a STORE are written in order, up to the first that consumes a folio line whose check mismatches (R168). Bits
of a byte that hold no element keep their value. -/
def storeRows (s : State) (eng cl : Nat) (k : Block) (i : AccIns) : List Nat → Option (Status × Nat) × State
  | [] => (none, s)
  | m :: t =>
    let p := lineParts s cl i m
    if p.2.any (fun l => (folRead s cl l).2) then (some (.integrityMismatch, 0), countMismatch s) else
    let put (old : List Byte) : List Byte :=
      natLe (p.1.foldl (fun v r => setBits v (r.1 + r.2.1 - 1) r.1 r.2.2) (leNat old)) 128
    let spans := p.1.map fun r => (r.1 / 8, (r.1 + r.2.1 + 7) / 8 - r.1 / 8)
    let whole : Bool := p.1.all fun r => decide (r.1 % 8 = 0 ∧ r.2.1 % 8 = 0)
    let w :=
      if whole then vstore s eng 1 k.fn k.asid k.ctx (128 * m) (spans.map fun x => (x.1, ((put (zeros 128)).drop x.1).take x.2))
      else let x := vmodify s eng 1 k.fn k.asid k.ctx (128 * m) spans put .write; (x.1, x.2.2)
    if w.1 ≠ .ok then (some (w.1, 128 * m), w.2) else storeRows w.2 eng cl k i t

/-- The raw lines of a STORE are written in order, each with its own check (13 R387); a line that fails it stops the STORE. -/
def storeRaw (s : State) (eng cl : Nat) (k : Block) (i : AccIns) : List Nat → Option (Status × Nat) × State
  | [] => (none, s)
  | l :: t =>
    let line := folRead s cl (bits (word i 3) 14 0 + l)
    let a := moveAddr i + 128 * l
    if line.2 then (some (.integrityMismatch, 0), countMismatch s)
    else
      let w := vwrite s eng 1 k.fn k.asid k.ctx a line.1
      if w.1 ≠ .ok then (some (w.1, a), w.2) else storeRaw w.2 eng cl k i t

/-- MOVER_COMPLETE (05 R160, R161, R168). Every page is translated first. A STORE that meets a line that fails its check has written
the memory rows before it. -/
def execMoverComplete (e : Nat) (s : State) : Out :=
  engineStep s fun s =>
    let x := engineAt s e
    match x.block, x.mover with
    | some b, some tok =>
      match insOf x tok, blockAt s b with
      | some i, some k =>
        let cl := e / 4
        let eng := 128 + e
        let load : Bool := bits (word i 0) 3 0 = 2
        let p := probeAll s eng k (if load then .read else .write) (moveRanges i)
        match p with
        | (some f, s) => accFault s e b i f.1 f.2 (!load)
        | (none, s) =>
          if load then
            let kept : Bool := bits (word i 0) 11 10 = 1 ∧ (moveShape i).2.1 < 64
            if kept ∧ linesBad s cl (writeLines i) then accFault (countMismatch s) e b i .integrityMismatch 0 false else
            match readRanges s eng k (moveRanges i) with
            | (some f, _, s) => accFault s e b i f.1 f.2 false
            | (none, rows, s) => accDone (doLoad s cl i rows) e b i
          else
            let r :=
              if bits (word i 0) 11 10 = 2 then storeRaw s eng cl k i (List.range (bits (word i 2) 12 0))
              else storeRows s eng cl k i (rowsLines i)
            match r with
            | (some f, s) => accFault s e b i f.1 f.2 true
            | (none, s) => accDone s e b i
      | _, _ => s
    | _, _ => s

/-- ACCUMULATOR_ECC_ERROR (05 R172): a core-level state fault of the engine. -/
def execAccumulatorEccError (e : Nat) (s : State) : Out :=
  engineStep s fun s =>
    if e < 64 ∧ domOn s (16 + e / 4) then
      raiseBare s (0x80 + e) .uncorrectableEcc 4 (.memory 0 5 0xFF 0xFF 0xFF 0xFFFF 0xFFFF 0 0)
    else s

end Sys2Proof.Machine
end

