-- ==== Sys2Proof/Machine/Crypto.lean ====
section
/-!
DEFINITION. Machine/Crypto.lean: SHA-384 (FIPS 180-4) and the verification of an ECDSA signature on P-384 (FIPS 186), by which
the boot ROM accepts a configuration image and a firmware image (17 R492, 19 R532 to R535).
-/

namespace Sys2Proof.Machine

/-- A big-endian number. -/
def beNat (l : List Byte) : Nat := l.foldl (fun n b => n * 256 + b.toNat) 0
/-- A number in n big-endian bytes. -/
def natBe (x n : Nat) : List Byte := (natLe x n).reverse

/-! ### SHA-384 -/

/-- The constants of the rounds. -/
def shaK : List Nat :=
  [0x428A2F98D728AE22, 0x7137449123EF65CD, 0xB5C0FBCFEC4D3B2F, 0xE9B5DBA58189DBBC] ++
  [0x3956C25BF348B538, 0x59F111F1B605D019, 0x923F82A4AF194F9B, 0xAB1C5ED5DA6D8118] ++
  [0xD807AA98A3030242, 0x12835B0145706FBE, 0x243185BE4EE4B28C, 0x550C7DC3D5FFB4E2] ++
  [0x72BE5D74F27B896F, 0x80DEB1FE3B1696B1, 0x9BDC06A725C71235, 0xC19BF174CF692694] ++
  [0xE49B69C19EF14AD2, 0xEFBE4786384F25E3, 0x0FC19DC68B8CD5B5, 0x240CA1CC77AC9C65] ++
  [0x2DE92C6F592B0275, 0x4A7484AA6EA6E483, 0x5CB0A9DCBD41FBD4, 0x76F988DA831153B5] ++
  [0x983E5152EE66DFAB, 0xA831C66D2DB43210, 0xB00327C898FB213F, 0xBF597FC7BEEF0EE4] ++
  [0xC6E00BF33DA88FC2, 0xD5A79147930AA725, 0x06CA6351E003826F, 0x142929670A0E6E70] ++
  [0x27B70A8546D22FFC, 0x2E1B21385C26C926, 0x4D2C6DFC5AC42AED, 0x53380D139D95B3DF] ++
  [0x650A73548BAF63DE, 0x766A0ABB3C77B2A8, 0x81C2C92E47EDAEE6, 0x92722C851482353B] ++
  [0xA2BFE8A14CF10364, 0xA81A664BBC423001, 0xC24B8B70D0F89791, 0xC76C51A30654BE30] ++
  [0xD192E819D6EF5218, 0xD69906245565A910, 0xF40E35855771202A, 0x106AA07032BBD1B8] ++
  [0x19A4C116B8D2D0C8, 0x1E376C085141AB53, 0x2748774CDF8EEB99, 0x34B0BCB5E19B48A8] ++
  [0x391C0CB3C5C95A63, 0x4ED8AA4AE3418ACB, 0x5B9CCA4F7763E373, 0x682E6FF3D6B2B8A3] ++
  [0x748F82EE5DEFB2FC, 0x78A5636F43172F60, 0x84C87814A1F0AB72, 0x8CC702081A6439EC] ++
  [0x90BEFFFA23631E28, 0xA4506CEBDE82BDE9, 0xBEF9A3F7B2C67915, 0xC67178F2E372532B] ++
  [0xCA273ECEEA26619C, 0xD186B8C721C0C207, 0xEADA7DD6CDE0EB1E, 0xF57D4F7FEE6ED178] ++
  [0x06F067AA72176FBA, 0x0A637DC5A2C898A6, 0x113F9804BEF90DAE, 0x1B710B35131C471B] ++
  [0x28DB77F523047D84, 0x32CAAB7B40C72493, 0x3C9EBE0A15C9BEBC, 0x431D67C49C100D4C] ++
  [0x4CC5D4BECB3E42B6, 0x597F299CFC657E2A, 0x5FCB6FAB3AD6FAEC, 0x6C44198C4A475817]

/-- The hash before the first block. -/
def shaInit : List Nat :=
  [0xCBBB9D5DC1059ED8, 0x629A292A367CD507, 0x9159015A3070DD17, 0x152FECD8F70E5939] ++ [0x67332667FFC00B31, 0x8EB44A8768581511, 0xDB0C2E0D64F98FA7, 0x47B5481DBEFA4FA4]

/-- A 64-bit word rotated right. -/
def rotr64 (x n : Nat) : Nat := (x >>> n ||| x <<< (64 - n)) % 2 ^ 64
def shaUp0 (x : Nat) : Nat := rotr64 x 28 ^^^ rotr64 x 34 ^^^ rotr64 x 39
def shaUp1 (x : Nat) : Nat := rotr64 x 14 ^^^ rotr64 x 18 ^^^ rotr64 x 41
def shaLow0 (x : Nat) : Nat := rotr64 x 1 ^^^ rotr64 x 8 ^^^ x >>> 7
def shaLow1 (x : Nat) : Nat := rotr64 x 19 ^^^ rotr64 x 61 ^^^ x >>> 6
def shaCh (e f g : Nat) : Nat := (e &&& f) ^^^ ((2 ^ 64 - 1 ^^^ e) &&& g)
def shaMaj (a b c : Nat) : Nat := (a &&& b) ^^^ (a &&& c) ^^^ (b &&& c)

/-- One round: the eight working words and the next sixteen words of the message schedule. -/
def shaRound (x : List Nat × List Nat) (k : Nat) : List Nat × List Nat :=
  let v (i : Nat) : Nat := x.1.getD i 0
  let w (i : Nat) : Nat := x.2.getD i 0
  let t1 := (v 7 + shaUp1 (v 4) + shaCh (v 4) (v 5) (v 6) + k + w 0) % 2 ^ 64
  let t2 := (shaUp0 (v 0) + shaMaj (v 0) (v 1) (v 2)) % 2 ^ 64
  let next := (shaLow1 (w 14) + w 9 + shaLow0 (w 1) + w 0) % 2 ^ 64
  ([(t1 + t2) % 2 ^ 64, v 0, v 1, v 2] ++ [(v 3 + t1) % 2 ^ 64, v 4, v 5, v 6], x.2.tail ++ [next])

/-- The hash after a block of 128 bytes. -/
def shaBlock (h : List Nat) (block : List Byte) : List Nat :=
  let w := (List.range 16).map fun j => beNat ((block.drop (8 * j)).take 8)
  (h.zip (shaK.foldl shaRound (h, w)).1).map fun x => (x.1 + x.2) % 2 ^ 64

/-- A message padded to whole blocks. -/
def shaPad (m : List Byte) : List Byte :=
  m ++ [0x80] ++ zeros ((239 - m.length % 128) % 128) ++ natBe (8 * m.length) 16

/-- SHA-384 of a message, 48 bytes. -/
def sha384 (m : List Byte) : List Byte :=
  (((chunks 128 (shaPad m)).foldl shaBlock shaInit).take 6).flatMap fun x => natBe x 8

/-! ### P-384 -/

/-- The field's prime. -/
def p384 : Nat := 2 ^ 384 - 2 ^ 128 - 2 ^ 96 + 2 ^ 32 - 1
/-- The order of the base point. -/
def p384Order : Nat :=
  0xFFFFFFFFFFFFFFFFFFFFFFFFFFFFFFFFFFFFFFFFFFFFFFFFC7634D81F4372DDF581A0DB248B0A77AECEC196ACCC52973
/-- b of the curve y^2 = x^3 - 3 x + b. -/
def p384B : Nat :=
  0xB3312FA7E23EE7E4988E056BE3F82D19181D9C6EFE8141120314088F5013875AC656398D8A2ED19D2A85C8EDD3EC2AEF
/-- The base point. -/
def p384Gx : Nat :=
  0xAA87CA22BE8B05378EB1C71EF320AD746E1D3B628BA79B9859F741E082542A385502F25DBF55296C3A545E3872760AB7
def p384Gy : Nat :=
  0x3617DE4A96262C6F5D9E98BF9292DC29F8F41DBD289A147CE9DA3113B5F0B8C00A60B1CE1D7E819D7A431D7C90EA0E5F

/-- A point in Jacobian coordinates; z = 0 is the point at infinity. -/
structure EcPoint where
  x : Nat
  y : Nat
  z : Nat
  deriving DecidableEq, Repr, Inhabited

/-- The point at infinity. -/
def ecZero : EcPoint := { x := 1, y := 1, z := 0 }

/-- Subtraction in the field. -/
def fpSub (a b : Nat) : Nat := (a + p384 - b % p384) % p384

/-- Twice a point. -/
def ecDouble (q : EcPoint) : EcPoint :=
  if q.z = 0 ∨ q.y = 0 then ecZero else
  let d := q.z * q.z % p384
  let g := q.y * q.y % p384
  let b := q.x * g % p384
  let a := 3 * (fpSub q.x d * ((q.x + d) % p384)) % p384
  let x := fpSub (a * a) (8 * b)
  { x := x, y := fpSub (a * fpSub (4 * b) x) (8 * (g * g)), z := 2 * (q.y * q.z) % p384 }

/-- The sum of two points. -/
def ecAdd (q t : EcPoint) : EcPoint :=
  if q.z = 0 then t else if t.z = 0 then q else
  let qq := q.z * q.z % p384
  let tt := t.z * t.z % p384
  let u1 := q.x * tt % p384
  let u2 := t.x * qq % p384
  let s1 := q.y * t.z % p384 * tt % p384
  let s2 := t.y * q.z % p384 * qq % p384
  let h := fpSub u2 u1
  let r := fpSub s2 s1
  if h = 0 then (if r = 0 then ecDouble q else ecZero) else
  let hh := h * h % p384
  let hhh := h * hh % p384
  let v := u1 * hh % p384
  let x := fpSub (fpSub (r * r) hhh) (2 * v)
  { x := x, y := fpSub (r * fpSub v x) (s1 * hhh), z := q.z * t.z % p384 * h % p384 }

/-- a^e modulo m, for e below 2^384. -/
def powMod (a e m : Nat) : Nat :=
  (List.range 384).foldl (fun r i => if e >>> (383 - i) % 2 = 1 then r * r % m * a % m else r * r % m) 1

/-- a G + b Q, for a and b below 2^384. -/
def ecMul2 (a b : Nat) (q : EcPoint) : EcPoint :=
  let g : EcPoint := { x := p384Gx, y := p384Gy, z := 1 }
  (List.range 384).foldl (fun r i =>
    let r := ecDouble r
    let r := if a >>> (383 - i) % 2 = 1 then ecAdd r g else r
    if b >>> (383 - i) % 2 = 1 then ecAdd r q else r) ecZero

/-- (x, y) is a point of the curve. -/
def onCurve (x y : Nat) : Bool :=
  decide (x < p384) && decide (y < p384) && decide (y * y % p384 = fpSub (x * x * x + p384B) (3 * x))

/-- A public key as 0x04, X, Y verifies a signature r, s, big-endian, over a digest of 48 bytes (FIPS 186). -/
def ecdsaOk (key digest sig : List Byte) : Bool :=
  let x := beNat ((key.drop 1).take 48)
  let y := beNat ((key.drop 49).take 48)
  let r := beNat (sig.take 48)
  let t := beNat ((sig.drop 48).take 48)
  let inRange (k : Nat) : Bool := decide (1 ≤ k) && decide (k < p384Order)
  decide (byteAt key 0 = 4) && onCurve x y && inRange r && inRange t &&
    (let w := powMod t (p384Order - 2) p384Order
     let q := ecMul2 (beNat digest * w % p384Order) (r * w % p384Order) { x := x, y := y, z := 1 }
     q.z != 0 && decide (q.x * powMod (q.z * q.z % p384) (p384 - 2) p384 % p384 % p384Order = r))

end Sys2Proof.Machine
end

