-- ==== Sys2Proof/Machine/Pmp.lean ====
section
/-!
DEFINITION. Machine/Pmp.lean: physical memory protection of the Control Complex cores (17 R488), as the RISC-V privileged
architecture defines it: 16 entries, a granularity of 4 KiB, TOR and NAPOT.
-/

namespace Sys2Proof.Machine

/-- An entry of a core: its configuration byte (R, W, X in bits 0 to 2, A in bits 4:3, L in bit 7) and its address register. -/
def pmpEntry (s : State) (core i : Nat) : Nat × Nat := tgetD s.ccx.pmp (16 * core + i) (0, 0)

/-- A of a configuration byte: 0 OFF, 1 TOR, 3 NAPOT. -/
def pmpA (cfg : Nat) : Nat := bits cfg 4 3

/-- A locked entry. -/
def pmpLocked (s : State) (core i : Nat) : Bool := bit (pmpEntry s core i).1 7

/-- Trailing ones of an address register. -/
def trailingOnes : Nat → Nat → Nat
  | 0, _ => 0
  | n + 1, a => if a % 2 = 1 then trailingOnes n (a / 2) + 1 else 0

/-- The bytes that an entry covers, as (first, end); the bits of an address register below the granularity read as 0 in TOR and as
1 in NAPOT. -/
def pmpRange (s : State) (core i : Nat) : Nat × Nat :=
  let e := pmpEntry s core i
  let cut (a : Nat) : Nat := a / 1024 * 4096
  if pmpA e.1 = 1 then ((if i = 0 then 0 else cut (pmpEntry s core (i - 1)).2), cut e.2)
  else if pmpA e.1 = 3 then
    let a := e.2 / 512 * 512 + 511
    let k := 2 ^ (trailingOnes 54 a + 1)
    (a / k * k * 4, a / k * k * 4 + k * 4)
  else (0, 0)

/-- The lowest entry that covers a byte of an access, and whether it covers all of them. -/
def pmpMatch (s : State) (core addr len : Nat) : Option (Nat × Bool) :=
  (List.range 16).findSome? fun i =>
    let r := pmpRange s core i
    if addr < r.2 ∧ r.1 < addr + len then some (i, decide (r.1 ≤ addr ∧ addr + len ≤ r.2)) else none

/-- A core may make an access in U mode, or in M mode, which locked entries alone bind. -/
def pmpAllows (s : State) (core : Nat) (user write : Bool) (addr len : Nat) : Bool :=
  match pmpMatch s core addr len with
  | none => !user
  | some (i, whole) =>
    let cfg := (pmpEntry s core i).1
    whole && (bit cfg (b2n write) || (!user && !bit cfg 7))

/-- M mode writes an entry. A locked entry keeps its value until the core is reset, and so does the address register below a locked
TOR entry. A configuration that the core does not have (NA4, write without read) leaves the entry as it is (log 136). -/
def pmpWrite (core : Nat) (s : State) (w : PmpWrite) : State :=
  let e := pmpEntry s core w.entry
  let next := (pmpEntry s core (w.entry + 1)).1
  if 16 ≤ w.entry ∨ bit e.1 7 then s
  else
    let cfg := if pmpA w.cfg = 2 ∨ (bit w.cfg 1 ∧ ¬ bit w.cfg 0) then e.1 else w.cfg % 256
    let addr := if w.entry < 15 ∧ bit next 7 ∧ pmpA next = 1 then e.2 else w.addr % 2 ^ 54
    onCcx s fun x => { x with pmp := tset x.pmp (16 * core + w.entry) (cfg, addr) }

/-- A core is reset: every entry is off and unlocked. -/
def pmpReset (s : State) (core : Nat) : State :=
  onCcx s fun x => { x with pmp := x.pmp.filter fun e => e.1 / 16 ≠ core }

/-- The core of a component (R489). -/
def componentCore (c : Nat) : Nat := [0, 1, 1, 2, 3, 3, 3, 0].getD c 0

/-- The core that sends on a channel, and the one that receives, where a core does (R498). -/
def chSender (c : Nat) : Option Nat :=
  if c = 1 ∨ c = 5 then some 0 else if c = 4 then some 2 else if c = 7 then some 3
  else if 24 ≤ c ∧ c < 32 then some (componentCore (c - 24)) else none
def chReceiver (c : Nat) : Option Nat :=
  if c = 0 ∨ c = 2 ∨ (8 ≤ c ∧ c < 24) then some 0 else if c = 3 then some 2 else if c = 6 then some 3 else none

/-- The address of a channel's aperture (R486). -/
def chAperture (c : Nat) : Nat := 0x1400_0000 + 0x40 * c

/-- A core's access to a channel is allowed: secure channels refuse U mode whatever the entries say (R488). -/
def chAllows (s : State) (core c : Nat) (user write : Bool) : Bool :=
  !(user && decide (c < 8)) && pmpAllows s core user write (chAperture c) 4

end Sys2Proof.Machine
end

