-- ==== Sys2Proof/Machine/Gfx.lean ====
section
/-!
DEFINITION. Machine/Gfx.lean: surface headers, pixel formats and their conversions, the order of a tile's data and its
lossless codec (08 R228 to R230, R253, R254), and the carry check (13 R385).
-/

namespace Sys2Proof.Machine

/-! ### Checks (13 R385, 09 R267) -/

/-- One step of a reflected CRC for a byte. -/
def crcByte (poly : Nat) (c : Nat) (b : Byte) : Nat :=
  (List.range 8).foldl (fun c _ => if c % 2 = 1 then c / 2 ^^^ poly else c / 2) (c ^^^ b.toNat)

/-- A reflected CRC of n bits with all-ones initial value and final inversion. -/
def crc (n poly : Nat) (bs : List Byte) : Nat := bs.foldl (crcByte poly) (2 ^ n - 1) ^^^ (2 ^ n - 1)

/-- CRC-32C. -/
def crc32c (bs : List Byte) : Nat := crc 32 0x82F63B78 bs

/-- One step of the running CRC-64 of 09 R267 over bytes; the running value starts at all ones and is inverted at its end. -/
def crc64Step (c : Nat) (bs : List Byte) : Nat := bs.foldl (crcByte 0xC96C5795D7870F42) c
/-- The CRC-64 of bytes. -/
def crc64 (bs : List Byte) : Nat := crc64Step (2 ^ 64 - 1) bs ^^^ (2 ^ 64 - 1)

/-- The check a line carries: its CRC, inverted where it mismatches. -/
def carried (data : List Byte) (bad : Bool) : Nat := if bad then crc32c data ^^^ 0xFFFF_FFFF else crc32c data

/-! ### Formats (08 R230) -/

/-- A channel of a stored element. -/
inductive Chan where
  | unorm (n : Nat) | srgb | f16 | f32 | uint | uf (mant : Nat)
  deriving DecidableEq, Repr

/-- Bits of a channel. -/
def Chan.bits : Chan → Nat
  | .unorm n => n | .srgb => 8 | .f16 => 16 | .f32 => 32 | .uint => 32 | .uf m => m + 5

/-- The channels of a format code, low bits first; depth formats give their depth part. Empty for an undefined code. -/
def fmtChans (c : Nat) : List Chan :=
  match c with
  | 0x01 => [.unorm 8]
  | 0x02 => [.unorm 8, .unorm 8]
  | 0x03 => [.unorm 8, .unorm 8, .unorm 8, .unorm 8]
  | 0x04 => [.srgb, .srgb, .srgb, .unorm 8]
  | 0x05 => [.unorm 10, .unorm 10, .unorm 10, .unorm 2]
  | 0x06 => [.f16]
  | 0x07 => [.f16, .f16]
  | 0x08 => [.f16, .f16, .f16, .f16]
  | 0x09 => [.f32]
  | 0x0A => [.f32, .f32]
  | 0x0B => [.f32, .f32, .f32, .f32]
  | 0x0C => [.uint]
  | 0x0D => [.unorm 16, .unorm 16, .unorm 16, .unorm 16]
  | 0x0E => [.uf 6, .uf 6, .uf 5]
  | 0x20 => [.f32]
  | 0x21 => [.unorm 24]
  | 0x22 => [.f32]
  | _ => []

/-- Bytes of an element. -/
def fmtBytes (c : Nat) : Nat :=
  match c with
  | 0x01 => 1 | 0x02 => 2 | 0x06 => 2
  | 0x08 => 8 | 0x0A => 8 | 0x0D => 8 | 0x22 => 8
  | 0x0B => 16
  | 0 => 0
  | _ => 4

/-- A format that a colour target may have. -/
def isColour (c : Nat) : Bool := (3 ≤ c ∧ c ≤ 5) ∨ (7 ≤ c ∧ c ≤ 14)
/-- A depth format. -/
def isDepth (c : Nat) : Bool := 0x20 ≤ c ∧ c ≤ 0x22
/-- A format with stencil. -/
def hasStencil (c : Nat) : Bool := c = 0x21 ∨ c = 0x22

/-- The greatest n with n ^ 5 not above m, by bits from bit k down. -/
def root5 (m : Nat) : Nat → Nat → Nat
  | 0, n => n
  | k + 1, n => if (n + 2 ^ k) ^ 5 ≤ m then root5 m k (n + 2 ^ k) else root5 m k n

/-- The linear value of an sRGB byte in binary32, nearest (IEC 61966-2-1). -/
def srgbDecode (k : Nat) : Nat :=
  if k ≤ 10 then (Fmt.b32.ratio .ties false (k * 100) (255 * 1292) 0).1
  else
    let p := k * 1000 + 55 * 255
    let q := 255 * 1055
    let n := root5 (p ^ 12 * 2 ^ 300 / q ^ 12) 64 0
    (Fmt.b32.round .ties false false (2 * n + 1) (-61)).1

/-- A finite binary32 code as sign and p / q. -/
def asRatio (x : Nat) : Bool × Nat × Nat :=
  match Fmt.b32.decode x with
  | .num n m e => if 0 ≤ e then (n, m * 2 ^ e.toNat, 1) else (n, m, 2 ^ (-e).toNat)
  | _ => (false, 0, 1)

/-- A NaN, an infinity or a value clamped to [0, 1], as p / q: what a conversion to UNORM takes. -/
def clamp01 (x : Nat) : Nat × Nat :=
  match Fmt.b32.decode x with
  | .nan => (0, 1)
  | .inf n => if n then (0, 1) else (1, 1)
  | .num n _ _ =>
    let r := asRatio x
    if n then (0, 1) else if r.2.2 ≤ r.2.1 then (1, 1) else r.2

/-- p / q times n, rounded to nearest with ties to even. -/
def nearest (p q n : Nat) : Nat :=
  let w := p * n / q
  let r := p * n % q
  if q < 2 * r ∨ (2 * r = q ∧ w % 2 = 1) then w + 1 else w

/-- The sRGB byte of a linear value p / q in [0, 1]: the nearest of the encoded value. -/
def srgbEncode (p q : Nat) : Nat :=
  if p * 10000000 ≤ q * 31308 then nearest (p * 1292) (q * 100) 255
  else
    ((List.range 256).filter fun k =>
      if k = 0 then true
      else
        let a := (2 * k - 1) * 1000 + 55 * 510
        let b := 510 * 1055
        a ^ 12 * q ^ 5 ≤ p ^ 5 * b ^ 12).length - 1

/-- An unsigned float of 5 exponent bits and m mantissa bits. -/
def ufFmt (m : Nat) : Fmt := ⟨5, m, 15, .ieee⟩

/-- The stored code of a binary32 channel value (08 R230). -/
def Chan.encode (c : Chan) (x : Nat) : Nat :=
  match c with
  | .unorm n => let r := clamp01 x; nearest r.1 r.2 (2 ^ n - 1)
  | .srgb => let r := clamp01 x; srgbEncode r.1 r.2
  | .f16 => (convert Fmt.b32 Fmt.b16 .ties false x).1
  | .f32 => x % 2 ^ 32
  | .uint => x % 2 ^ 32
  | .uf m =>
    if Fmt.b32.isNan x then 2 ^ (m + 5) - 1
    else if Fmt.b32.neg x then 0
    else match Fmt.b32.decode x with
      | .inf _ => 31 * 2 ^ m
      | .num _ k e => ((ufFmt m).round .ties false false k e).1
      | .nan => 0

/-- The binary32 value of a stored code. -/
def Chan.decode (c : Chan) (v : Nat) : Nat :=
  match c with
  | .unorm n => (Fmt.b32.ratio .ties false v (2 ^ n - 1) 0).1
  | .srgb => srgbDecode v
  | .f16 => (convert Fmt.b16 Fmt.b32 .ties false v).1
  | .f32 => v
  | .uint => v
  | .uf m =>
    match (ufFmt m).decode v with
    | .nan => Fmt.b32.qnan
    | .inf _ => Fmt.b32.infCode
    | .num _ k e => (Fmt.b32.round .ties false false k e).1

/-- The stored channels of an element, from a bit offset. -/
def decodeChans : List Chan → Nat → List Nat
  | [], _ => []
  | c :: t, v => c.decode (v % 2 ^ c.bits) :: decodeChans t (v / 2 ^ c.bits)

/-- The element of channel values. -/
def encodeChans : List Chan → List Nat → Nat
  | c :: t, x :: xs => c.encode x + 2 ^ c.bits * encodeChans t xs
  | _, _ => 0

/-- Four binary32 channels of an element; a channel that the format lacks takes the value missing. -/
def decodeElem (code v missing : Nat) : List Nat :=
  let l := decodeChans (fmtChans code) v
  l ++ List.replicate (4 - l.length) missing

/-- The element of four binary32 channels. -/
def encodeElem (code : Nat) (xs : List Nat) : Nat := encodeChans (fmtChans code) xs

/-! ### Surface headers (08 R228, R229) -/

/-- Attachment i of a surface header; none where it is unused. -/
def attOf (h : List Byte) (i : Nat) : Option Att :=
  let b := h.drop (64 + 48 * i)
  let used : Bool := if i < 4 then decide (i < byteAt h 5) else decide (byteAt b 0 ≠ 0)
  if used then
    some { format := byteAt b 0, load := byteAt b 1 = 1, store := byteAt b 2, data := fieldAt b 8 8, resolve := fieldAt b 16 8,
           clear := (b.drop 32).take 16 }
  else none

/-- The surface that a header describes. -/
def surfaceOf (h : List Byte) : Surface :=
  { bytes := h, width := fieldAt h 0 2, height := fieldAt h 2 2, samples := byteAt h 4, meta_ := fieldAt h 8 8,
    atts := (List.range 5).map (attOf h) }

/-- Attachments in use, with their index. -/
def Surface.used (f : Surface) : List (Nat × Att) :=
  f.atts.zipIdx.filterMap fun x => x.1.map fun a => (x.2, a)

/-- Bytes of an attachment's tile of size t (R229). -/
def Surface.attBytes (f : Surface) (t : Nat) (a : Att) : Nat := t * t * f.samples * fmtBytes a.format
/-- Folio tile size (R229). -/
def Surface.tileBytes (f : Surface) (t : Nat) : Nat := (f.used.map fun x => f.attBytes t x.2).sum
/-- Tiles across and in all (07 R200). -/
def Surface.across (f : Surface) (t : Nat) : Nat := (f.width + t - 1) / t
def Surface.tiles (f : Surface) (t : Nat) : Nat := f.across t * ((f.height + t - 1) / t)

/-- First offset of attachment i in a tile's data. -/
def Surface.attStart (f : Surface) (t i : Nat) : Nat :=
  ((f.used.filter fun x => x.1 < i).map fun x => f.attBytes t x.2).sum

/-- A defined code in its position, with every reserved field 0: else check 1 of R228 fails. -/
def attBad (h : List Byte) (i : Nat) (samples : Nat) : Bool :=
  let b := (h.drop (64 + 48 * i)).take 48
  match attOf h i with
  | none => b ≠ zeros 48
  | some a =>
    ¬ (if i < 4 then isColour a.format else isDepth a.format) ∨ 1 < byteAt b 1 ∨ 2 < a.store
    ∨ (a.store = 1 ∧ (i = 4 ∨ samples = 1)) ∨ (b.drop 3).take 5 ≠ zeros 5 ∨ (b.drop 24).take 8 ≠ zeros 8
    ∨ a.clear.drop (fmtBytes a.format) ≠ zeros (16 - fmtBytes a.format)

/-- A range [a, a + n) that ends beyond a size. -/
def beyond (a n size : Nat) : Bool := size < a + n

/-- The failures of a header of 320 bytes, as (class of R200, status), for a tile size and the object's size. -/
def surfaceFails (h : List Byte) (t size : Nat) : List (Nat × Status) :=
  let f := surfaceOf h
  let n := f.tiles t
  let one (b : Bool) (c : Nat) (st : Status) : List (Nat × Status) := if b then [(c, st)] else []
  one ((h.drop 6).take 2 ≠ zeros 2 ∨ (h.drop 16).take 48 ≠ zeros 48 ∨ (h.drop 304).take 16 ≠ zeros 16
      ∨ (List.range 5).any fun i => attBad h i f.samples) 1 .badOpcode
  ++ one (f.width = 0 ∨ 16384 < f.width ∨ f.height = 0 ∨ 16384 < f.height
      ∨ ¬ (f.samples = 1 ∨ f.samples = 2 ∨ f.samples = 4 ∨ f.samples = 8) ∨ 4 < byteAt h 5 ∨ 512 * 1024 < f.tileBytes t) 6 .lengthRange
  ++ one (f.meta_ % 128 ≠ 0 ∨ f.used.any fun x => x.2.data % 4096 ≠ 0 ∨ (x.2.store = 1 ∧ x.2.resolve % 4096 ≠ 0)) 7 .badAlignment
  ++ one (beyond f.meta_ (160 * n) size ∨ f.used.any fun x => beyond x.2.data (n * f.attBytes t x.2) size
      ∨ (x.2.store = 1 ∧ beyond x.2.resolve (n * t * t * fmtBytes x.2.format) size)) 8 .lengthExceedsObject

/-! ### Tile data (R253) -/

/-- Index of an element in an attachment's tile: by sample, 8 by 8 block, pixel. -/
def elemIndex (t sample x y : Nat) : Nat :=
  sample * t * t + ((y / 8) * (t / 8) + x / 8) * 64 + (y % 8) * 8 + x % 8

/-- The element of a sample in an attachment's bytes. -/
def tileElem (data : List Byte) (start e idx : Nat) : Nat := fieldAt data (start + idx * e) e

/-- The bytes with an element in place. -/
def putElem (data : List Byte) (start e idx v : Nat) : List Byte := putAt data (start + idx * e) (natLe v e)

/-! ### The codec (R254) -/

/-- Bits packed from bit 0 of each byte, n values of w bits, padded to a byte. -/
def packBits (w : Nat) (vs : List Nat) : List Byte :=
  natLe (vs.zipIdx.foldl (fun a x => a + x.1 * 2 ^ (w * x.2)) 0) ((w * vs.length + 7) / 8)

/-- Zigzag code of a 32-bit residual. -/
def zigzag (d : Nat) : Nat := (2 * d % 2 ^ 32) ^^^ (if bit d 31 then 2 ^ 32 - 1 else 0)
/-- The residual of a zigzag code. -/
def unzigzag (c : Nat) : Nat := if c % 2 = 1 then 2 ^ 32 - 1 - c / 2 else c / 2

/-- Significant bits of a number. -/
def bitCount (n : Nat) : Nat := if n = 0 then 0 else Nat.log2 n + 1

/-- A plane of words coded as R254 says. -/
def deltaPlane (ws : List Nat) : List Byte :=
  let ds := (ws.zip (ws.drop 1)).map fun p => zigzag (sub32 p.2 p.1)
  let w := bitCount (maxD ds)
  natLe w 1 ++ natLe (ws.headD 0) 4 ++ packBits w ds

/-- Words of the planes of a block of 64 elements of e bytes. -/
def planesOf (e : Nat) (block : List Byte) : List (List Nat) :=
  if e < 4 then [(List.range 64).map fun i => fieldAt block (i * e) e]
  else (List.range (e / 4)).map fun p => (List.range 64).map fun i => fieldAt block (i * e + 4 * p) 4

/-- The DELTA form of a block. -/
def deltaBlock (e : Nat) (block : List Byte) : List Byte := ((planesOf e block).map deltaPlane).flatten

/-- The bytes padded with zeros to a multiple of m. -/
def padTo (m : Nat) (bs : List Byte) : List Byte := bs ++ zeros (roundUp bs.length m - bs.length)

/-- A block's length byte and data: 0 for the CLEAR element throughout, DELTA, or raw. -/
def encodeBlock (e : Nat) (clear : List Byte) (block : List Byte) : Nat × List Byte :=
  if block = (List.replicate 64 (clear.take e)).flatten then (0, [])
  else
    let d := padTo 32 (deltaBlock e block)
    if 64 * e ≤ d.length ∨ 254 < d.length / 32 then (255, padTo 32 block) else (d.length / 32, d)

/-- The blocks of an attachment's tile. -/
def blocksOf (e : Nat) (data : List Byte) : List (List Byte) :=
  (List.range (data.length / (64 * e))).map fun i => (data.drop (i * 64 * e)).take (64 * e)

/-- An attachment's tile as it is stored: MODE, LINES and data (R254). -/
def encodeTile (e : Nat) (clear data : List Byte) : Nat × Nat × List Byte :=
  if data = (List.replicate (data.length / e) (clear.take e)).flatten then (2, 0, [])
  else
    let bs := (blocksOf e data).map (encodeBlock e clear)
    let out := padTo 128 (padTo 128 (bs.map fun b => BitVec.ofNat 8 b.1) ++ (bs.map Prod.snd).flatten)
    if data.length ≤ out.length then (0, data.length / 128, data) else (1, out.length / 128, out)

/-- The 32-byte metadata entry of a stored tile. -/
def metaEntry (clear : List Byte) (mode lines : Nat) : List Byte :=
  clear ++ natLe (mode * 2 ^ 30 + lines) 4 ++ zeros 12

/-- n values of w bits unpacked. -/
def unpackBits (w n : Nat) (bs : List Byte) : List Nat :=
  let v := leNat (bs.take ((w * n + 7) / 8))
  (List.range n).map fun i => v >>> (w * i) % 2 ^ w

/-- The words of one DELTA plane, and the bytes after it. -/
def undeltaPlane (bs : List Byte) : List Nat × List Byte :=
  let w := Nat.min 32 (byteAt bs 0)
  let first := fieldAt bs 1 4
  let ds := unpackBits w 63 (bs.drop 5)
  let ws := ds.foldl (fun (acc : List Nat × Nat) d =>
    let x := (acc.2 + unzigzag d) % 2 ^ 32
    (acc.1 ++ [x], x)) ([first], first)
  (ws.1, bs.drop (5 + (63 * w + 7) / 8))

/-- n DELTA planes. -/
def undeltaPlanes : Nat → List Byte → List (List Nat)
  | 0, _ => []
  | n + 1, bs => let p := undeltaPlane bs; p.1 :: undeltaPlanes n p.2

/-- A DELTA block's 64 elements. -/
def undeltaBlock (e : Nat) (bs : List Byte) : List Byte :=
  let ps := undeltaPlanes (if e < 4 then 1 else e / 4) bs
  (List.range 64).flatMap fun i => ps.flatMap fun p => natLe (p.getD i 0) (if e < 4 then e else 4)

/-- The blocks of a BLOCKS tile, from its length bytes and the data after the table. -/
def decodeBlocks (e : Nat) (clear : List Byte) : List Nat → List Byte → List Byte
  | [], _ => []
  | n :: t, bs =>
    if n = 0 then (List.replicate 64 (clear.take e)).flatten ++ decodeBlocks e clear t bs
    else if n = 255 then padTo (64 * e) (bs.take (64 * e)) ++ decodeBlocks e clear t (bs.drop (roundUp (64 * e) 32))
    else undeltaBlock e (bs.take (32 * n)) ++ decodeBlocks e clear t (bs.drop (32 * n))

/-- An attachment's tile of n bytes from its metadata entry and stored lines. -/
def decodeTile (e n : Nat) (entry stored : List Byte) : List Byte :=
  let clear := entry.take 16
  match bits (fieldAt entry 16 4) 31 30 with
  | 1 =>
    let blocks := n / (64 * e)
    decodeBlocks e clear ((stored.take blocks).map BitVec.toNat) (stored.drop (roundUp blocks 128))
  | 2 => (List.replicate (n / e) (clear.take e)).flatten
  | _ => stored.take n

/-- Bytes that a metadata entry says are stored for a tile of n bytes (09 R268). -/
def storedBytes (n : Nat) (entry : List Byte) : Nat :=
  match bits (fieldAt entry 16 4) 31 30 with
  | 1 => Nat.min n (128 * (fieldAt entry 16 4 % 2 ^ 16))
  | 2 => 0
  | _ => n

/-! ### Exact arithmetic on binary32 values -/

/-- A dyadic number m * 2 ^ e. -/
structure Dy where
  m : Int
  e : Int
  deriving DecidableEq, Repr

/-- The value of a finite code, 0 for the others. -/
def Dy.of (f : Fmt) (x : Nat) : Dy :=
  match f.decode x with
  | .num n m e => ⟨if n then -(m : Int) else m, e⟩
  | _ => ⟨0, 0⟩
/-- An integer times 2 ^ e. -/
def Dy.int (m : Int) (e : Int := 0) : Dy := ⟨m, e⟩
def Dy.add (a b : Dy) : Dy :=
  let e := min a.e b.e
  ⟨a.m * 2 ^ (a.e - e).toNat + b.m * 2 ^ (b.e - e).toNat, e⟩
def Dy.neg (a : Dy) : Dy := ⟨-a.m, a.e⟩
def Dy.sub (a b : Dy) : Dy := a.add b.neg
def Dy.mul (a b : Dy) : Dy := ⟨a.m * b.m, a.e + b.e⟩
/-- Its sign: negative. -/
def Dy.lt0 (a : Dy) : Bool := a.m < 0
/-- a / b rounded to a format in a direction; zero over zero is zero. -/
def Dy.div (f : Fmt) (rm : Rm) (a b : Dy) : Nat :=
  (f.ratio rm (decide (a.m < 0) != decide (b.m < 0)) a.m.natAbs b.m.natAbs (a.e - b.e)).1
/-- Rounded to a format. -/
def Dy.code (f : Fmt) (rm : Rm) (a : Dy) : Nat := (f.round rm false (decide (a.m < 0)) a.m.natAbs a.e).1

/-! ### Binary32 shorthands -/

/-- Sum, product, fused product and quotient of binary32 values, ties to even. -/
def fAdd (x y : Nat) : Nat := (Fmt.b32.add .ties x y).1
def fMul (x y : Nat) : Nat := (Fmt.b32.mul .ties x y).1
def fFma (x y z : Nat) : Nat := (Fmt.b32.fma .ties x y z).1
def fDiv (x y : Nat) : Nat := (Fmt.b32.div .ties x y).1
def fSub (x y : Nat) : Nat := (FOp.sub.apply Fmt.b32 .ties x y).1
/-- 1 and 0. -/
def fOne : Nat := 0x3F800000
/-- x < y. -/
def fLess (x y : Nat) : Bool := (Fmt.b32.cmp .lt false x y).1 = 1
/-- Clamped to [0, 1]; a NaN becomes 0. -/
def fClamp (x : Nat) : Nat :=
  if Fmt.b32.isNan x then 0 else if fLess x 0 ∨ Fmt.b32.neg x then 0 else if fLess fOne x then fOne else x
/-- An integer as binary32. -/
def fInt (z : Int) (e : Int := 0) : Nat := Dy.code Fmt.b32 .ties ⟨z, e⟩

end Sys2Proof.Machine
end

