-- ==== Sys2Proof/Machine/Geometry.lean ====
section
/-!
DEFINITION. Machine/Geometry.lean: the arithmetic of the geometry stage (08 R231 to R241): the vertex stream, assembly,
clipping, the viewport, culling, primitive records and the tiles that a primitive meets.
-/

namespace Sys2Proof.Machine

/-! ### State objects (R226) -/

/-- Field access of a state object. -/
def DrawState.stride (d : DrawState) : Nat := fieldAt d.bytes 12 2
def DrawState.indexSize (d : DrawState) : Nat := byteAt d.bytes 14
def DrawState.topology (d : DrawState) : Nat := byteAt d.bytes 15
def DrawState.raster (d : DrawState) : Nat := byteAt d.bytes 16
def DrawState.fragFlags (d : DrawState) : Nat := byteAt d.bytes 17
def DrawState.vary (d : DrawState) : Nat := byteAt d.bytes 18
def DrawState.depth (d : DrawState) : Nat := byteAt d.bytes 19
/-- Coefficient i of VIEWPORT: SX, OX, SY, OY, SZ, OZ. -/
def DrawState.view (d : DrawState) (i : Nat) : Nat := fieldAt d.bytes (36 + 4 * i) 4
/-- X0, Y0, X1, Y1 of SCISSOR. -/
def DrawState.scissor (d : DrawState) (i : Nat) : Nat := fieldAt d.bytes (64 + 2 * i) 2
/-- Byte b of the stencil state of a face. -/
def DrawState.stencil (d : DrawState) (back : Bool) (b : Nat) : Nat := byteAt d.bytes (20 + 8 * b2n back + b)
/-- Byte b of the BLEND entry of colour target i. -/
def DrawState.blend (d : DrawState) (i b : Nat) : Nat := byteAt d.bytes (96 + 8 * i + b)

/-- Bytes of a primitive record (R237). -/
def recordSize (vary : Nat) : Nat := 64 + 12 * vary
/-- Records of a data quire. -/
def quireCap (vary : Nat) : Nat := Nat.min 128 (3840 / recordSize vary)

/-! ### The vertex stream (R231, R233) -/

/-- What one stream position does: a vertex joins, primitives come out. A primitive is its vertices. -/
def streamVertex (top v : Nat) (c : Cursor) : Cursor × Option (List Nat) :=
  let b := c.buf ++ [v]
  match top with
  | 0 => ({ c with buf := [] }, some b)
  | 1 => if b.length = 2 then ({ c with buf := [] }, some b) else ({ c with buf := b }, none)
  | 2 => if b.length = 2 then ({ c with buf := [v] }, some b) else ({ c with buf := b }, none)
  | 3 => if b.length = 3 then ({ c with buf := [] }, some b) else ({ c with buf := b }, none)
  | 4 =>
    match b with
    | [x, y, z] => ({ c with buf := [y, z], odd := !c.odd }, some (if c.odd then [y, x, z] else [x, y, z]))
    | _ => ({ c with buf := b }, none)
  | _ =>
    match b with
    | [x, _, z] => ({ c with buf := [x, z] }, some b)
    | _ => ({ c with buf := b }, none)

/-- A restart index ends the strip or fan. -/
def streamRestart (c : Cursor) : Cursor := { c with buf := [], odd := false }

/-! ### Vertices -/

/-- A shaded vertex: clip-space position and varyings, binary32. -/
structure Vtx where
  x : Nat
  y : Nat
  z : Nat
  w : Nat
  vary : List Nat
  deriving DecidableEq, Repr, Inhabited

/-- A finite value for one that is infinite or not a number: the spec states no result for such a position (log 13). -/
def finite (free v : Nat) : Nat :=
  if bits v 30 23 = 255 then (if bits free 30 23 = 255 then free - 2 ^ 30 else free) % 2 ^ 32 else v

/-- The vertex that a thread's output registers hold. -/
def vtxOf (free : Nat) (vary : Nat) (outs : List Nat) : Vtx :=
  let r (i : Nat) := outs.getD i 0
  { x := finite free (r 0), y := finite free (r 1), z := finite free (r 2), w := finite free (r 3),
    vary := (List.range vary).map fun j => r (4 + j) }

/-- A binary32 code as an exact number. -/
def dy (v : Nat) : Dy := Dy.of Fmt.b32 v

/-- The point at num / den of the way from a to b, a component rounded down or up as the free bit says. -/
def mixCode (free : Nat) (num den : Dy) (a b : Nat) : Nat :=
  let top := ((dy a).mul (den.sub num)).add ((dy b).mul num)
  Dy.div Fmt.b32 (if free % 2 = 1 then .up else .down) top den

/-- The vertex where the edge from a to b meets a plane; da and db are its distances there, of opposite signs. -/
def mixVtx (free : Nat) (da db : Dy) (a b : Vtx) : Vtx :=
  let m (i : Nat) := mixCode (free >>> i) da (da.sub db)
  { x := m 0 a.x b.x, y := m 1 a.y b.y, z := m 2 a.z b.z, w := m 3 a.w b.w,
    vary := (a.vary.zip b.vary).zipIdx.map fun p => m (4 + p.2) p.1.1 p.1.2 }

/-- A polygon clipped to the side of a plane where the distance is not negative. -/
def clipPlane (free : Nat) (dist : Vtx → Dy) (vs : List Vtx) : List Vtx :=
  match vs.getLast? with
  | none => []
  | some last =>
    (vs.foldl (fun (acc : List Vtx × Vtx) v =>
      let dp := dist acc.2
      let dv := dist v
      let cut : List Vtx := if dp.lt0 != dv.lt0 then [mixVtx (if dp.lt0 then free else free >>> 128) dp dv acc.2 v] else []
      (acc.1 ++ cut ++ (if dv.lt0 then [] else [v]), v)) ([], last)).1

/-- The planes of R234: depth first, then the guard band, taken before the division by w. -/
def clipPlanes (d : DrawState) : List (Vtx → Dy) :=
  let c (i : Nat) := dy (d.view i)
  let band := Dy.int 32768
  let depth : List (Vtx → Dy) :=
    if bit d.raster 3 then [fun v => (dy v.w).sub (Dy.int 1 (-20))]
    else [fun v => dy v.z, fun v => (dy v.w).sub (dy v.z)]
  let x (v : Vtx) : Dy := ((dy v.x).mul (c 0)).add ((dy v.w).mul (c 1))
  let y (v : Vtx) : Dy := ((dy v.y).mul (c 2)).add ((dy v.w).mul (c 3))
  let w (v : Vtx) : Dy := (dy v.w).mul band
  depth ++ [fun v => (x v).add (w v), fun v => (w v).sub (x v), fun v => (y v).add (w v), fun v => (w v).sub (y v)]

/-- A triangle clipped and split into a fan from its first vertex. -/
def clipTri (free : Nat) (d : DrawState) (t : List Vtx) : List (List Vtx) :=
  match (clipPlanes d).zipIdx.foldl (fun vs p => clipPlane (free >>> (256 * p.2)) p.1 vs) t with
  | v0 :: rest => (rest.zip (rest.drop 1)).map fun p => [v0, p.1, p.2]
  | [] => []

/-! ### The viewport (R235) -/

/-- A screen coordinate x / w * scale + offset in binary32. -/
def screen (x w scale offset : Nat) : Nat := fAdd (fMul (fDiv x w) scale) offset

/-- The nearest multiple of 1/256, ties to even, as an integer; free stands for what no screen coordinate states. -/
def snap (free v : Nat) : Int :=
  match Fmt.b32.decode v with
  | .num n m e => let q := (quant .ties n m (e + 8) 0).1; if n then -(q : Int) else q
  | _ => (free % 2 ^ 24 : Nat) - 2 ^ 23

/-- A vertex on screen: x and y in 1/256 pixel, z_s, w and varyings. -/
structure SVtx where
  x : Int
  y : Int
  z : Nat
  w : Nat
  vary : List Nat
  deriving DecidableEq, Repr, Inhabited

/-- A vertex after the viewport transform. -/
def toScreen (free : Nat) (d : DrawState) (v : Vtx) : SVtx :=
  { x := snap free (screen v.x v.w (d.view 0) (d.view 1)), y := snap free (screen v.y v.w (d.view 2) (d.view 3)),
    z := screen v.z v.w (d.view 4) (d.view 5), w := v.w, vary := v.vary }

/-! ### Points and lines (R233) -/

/-- A clip-space vertex moved by o half pixels on screen along x or y. -/
def shift (d : DrawState) (alongX : Bool) (o : Dy) (v : Vtx) : Vtx :=
  if alongX then { v with x := ((dy v.x).add (dy (Dy.div Fmt.b32 .ties (o.mul (dy v.w)) (dy (d.view 0))))).code Fmt.b32 .ties }
  else { v with y := ((dy v.y).add (dy (Dy.div Fmt.b32 .ties (o.mul (dy v.w)) (dy (d.view 2))))).code Fmt.b32 .ties }

/-- The triangles of an assembled primitive. A line's rectangle and a point's square are wound like a front face, which
the spec leaves open (log 14). -/
def trisOf (free : Nat) (d : DrawState) (vs : List Vtx) : List (List Vtx) :=
  match vs with
  | [a, b] =>
    let p := toScreen free d a
    let q := toScreen free d b
    let xMajor : Bool := decide ((q.y - p.y).natAbs ≤ (q.x - p.x).natAbs)
    let back : Bool := if xMajor then decide (q.x < p.x) else decide (p.y ≤ q.y)
    let lo := Dy.int (-1) (-1)
    let hi := Dy.int 1 (-1)
    let o1 := if back then hi else lo
    let o2 := if back then lo else hi
    let m (o : Dy) (v : Vtx) := shift d (!xMajor) o v
    [[m o1 a, m o2 a, m o2 b], [m o1 a, m o2 b, m o1 b]]
  | [a] =>
    let half := (dy (fieldAt d.bytes 60 4)).mul (Dy.int 1 (-1))
    let m (sx sy : Bool) : Vtx := shift d false (if sy then half else half.neg) (shift d true (if sx then half else half.neg) a)
    [[m true false, m false false, m false true], [m false true, m true true, m true false]]
  | _ => [vs]

/-! ### Culling and records (R236 to R238) -/

/-- Twice the signed area in (1/256 pixel) squared; with y downwards, negative is counter-clockwise on screen. -/
def area2 (a b c : SVtx) : Int := (b.x - a.x) * (c.y - a.y) - (c.x - a.x) * (b.y - a.y)

/-- The triangle faces away. -/
def backFacing (d : DrawState) (a b c : SVtx) : Bool := decide (area2 a b c < 0) == bit d.raster 2

/-- Least and greatest of three. -/
def min3 (a b c : Int) : Int := min a (min b c)
def max3 (a b c : Int) : Int := max a (max b c)

/-- The pixels of the bounding box, inclusive: X0, Y0, X1, Y1. -/
def boxOf (a b c : SVtx) : Int × Int × Int × Int :=
  (min3 a.x b.x c.x / 256, min3 a.y b.y c.y / 256, max3 a.x b.x c.x / 256, max3 a.y b.y c.y / 256)

/-- The box meets pixels [x0, x1) by [y0, y1). -/
def boxMeets (b : Int × Int × Int × Int) (x0 y0 x1 y1 : Nat) : Bool :=
  b.1 < x1 ∧ x0 ≤ b.2.2.1 ∧ b.2.1 < y1 ∧ y0 ≤ b.2.2.2 ∧ x0 < x1 ∧ y0 < y1

/-- The primitive is culled (R236). -/
def culled (d : DrawState) (f : Surface) (a b c : SVtx) : Bool :=
  let cull := d.raster % 4
  area2 a b c = 0 ∨ (cull = 1 ∧ ¬ backFacing d a b c) ∨ (cull = 2 ∧ backFacing d a b c)
    ∨ ¬ boxMeets (boxOf a b c) 0 0 f.width f.height
    ∨ (bit d.raster 4 ∧ ¬ boxMeets (boxOf a b c) (d.scissor 0) (d.scissor 1) (d.scissor 2) (d.scissor 3))

/-- A pixel coordinate within [0, n). -/
def clampPix (v : Int) (n : Nat) : Nat := Nat.min v.toNat (n - 1)

/-- binary64 helpers. -/
def dAdd (x y : Nat) : Nat := (Fmt.b64.add .ties x y).1
def dSub (x y : Nat) : Nat := (FOp.sub.apply Fmt.b64 .ties x y).1
def dMul (x y : Nat) : Nat := (Fmt.b64.mul .ties x y).1
def dDiv (x y : Nat) : Nat := (Fmt.b64.div .ties x y).1
def dOf (x : Nat) : Nat := (convert Fmt.b32 Fmt.b64 .ties false x).1
def dTo (x : Nat) : Nat := (convert Fmt.b64 Fmt.b32 .ties false x).1
/-- A coordinate in 1/256 pixel as a binary64 number of pixels. -/
def dPix (v : Int) : Nat := Dy.code Fmt.b64 .ties ⟨v, -8⟩

/-- The plane of a value over the snapped vertices, in binary64 rounded once to binary32 (R238). f0, f1, f2 in binary64. -/
def planeOf (a b c : SVtx) (f0 f1 f2 : Nat) : List Nat :=
  let x1 := dPix (b.x - a.x); let y1 := dPix (b.y - a.y)
  let x2 := dPix (c.x - a.x); let y2 := dPix (c.y - a.y)
  let g1 := dSub f1 f0; let g2 := dSub f2 f0
  let det := dSub (dMul x1 y2) (dMul x2 y1)
  let ca := dDiv (dSub (dMul g1 y2) (dMul g2 y1)) det
  let cb := dDiv (dSub (dMul x1 g2) (dMul x2 g1)) det
  let cc := dSub (dSub f0 (dMul ca (dPix a.x))) (dMul cb (dPix a.y))
  [dTo ca, dTo cb, dTo cc]

/-- A plane's twelve bytes. -/
def planeBytes (p : List Nat) : List Byte := p.flatMap fun v => natLe v 4

/-- A signed 32-bit field. -/
def int4 (v : Int) : List Byte := natLe (v % 2 ^ 32).toNat 4

/-- A primitive's record (R237). -/
def recordOf (d : DrawState) (f : Surface) (primId inst : Nat) (a b c : SVtx) : List Byte :=
  let box := boxOf a b c
  let plane (g : SVtx → Nat) : List Byte := planeBytes (planeOf a b c (g a) (g b) (g c))
  natLe primId 4 ++ natLe (inst % 2 ^ 28 + 2 ^ 28 * b2n (backFacing d a b c)) 4
    ++ natLe (clampPix box.1 f.width) 2 ++ natLe (clampPix box.2.1 f.height) 2
    ++ natLe (clampPix box.2.2.1 f.width) 2 ++ natLe (clampPix box.2.2.2 f.height) 2
    ++ int4 a.x ++ int4 a.y ++ int4 b.x ++ int4 b.y ++ int4 c.x ++ int4 c.y
    ++ plane (fun v => dOf v.z) ++ plane (fun v => dDiv (dOf fOne) (dOf v.w))
    ++ (List.range d.vary).flatMap fun j => plane fun v => dDiv (dOf (v.vary.getD j 0)) (dOf v.w)

/-- The bounding box of a record. -/
def recBox (r : List Byte) : Nat × Nat × Nat × Nat := (fieldAt r 8 2, fieldAt r 10 2, fieldAt r 12 2, fieldAt r 14 2)

/-- The primitives that survive of one assembled primitive, as records. -/
def primRecords (free : Nat) (d : DrawState) (f : Surface) (primId inst : Nat) (vs : List Vtx) : List (List Byte) :=
  (trisOf free d vs).flatMap fun t => (clipTri free d t).filterMap fun u =>
    match u.map (toScreen free d) with
    | [a, b, c] => if culled d f a b c then none else some (recordOf d f primId inst a b c)
    | _ => none

/-! ### Edges and tiles (R240, R241) -/

/-- A signed 32-bit field of a record. -/
def recInt (r : List Byte) (a : Nat) : Int := int32 (fieldAt r a 4)
/-- Vertex k of a record in 1/256 pixel. -/
def recVtx (r : List Byte) (k : Nat) : Int × Int := (recInt r (16 + 8 * k), recInt r (20 + 8 * k))

/-- The vertices of a record, turned so that the inner side of every edge is positive. -/
def recTri (r : List Byte) : List (Int × Int) :=
  let a := recVtx r 0; let b := recVtx r 1; let c := recVtx r 2
  if (b.1 - a.1) * (c.2 - a.2) - (c.1 - a.1) * (b.2 - a.2) < 0 then [a, c, b] else [a, b, c]

/-- The edges of a turned triangle. -/
def edgesOf (t : List (Int × Int)) : List ((Int × Int) × (Int × Int)) := t.zip (t.drop 1 ++ t.take 1)

/-- The edge function at a point: positive inside. -/
def edgeAt (e : (Int × Int) × (Int × Int)) (x y : Int) : Int :=
  (e.2.1 - e.1.1) * (y - e.1.2) - (x - e.1.1) * (e.2.2 - e.1.2)

/-- A left or a top edge (R240): the triangle lies to its right, or below it. -/
def ownsEdge (e : (Int × Int) × (Int × Int)) : Bool := e.2.2 < e.1.2 ∨ (e.2.2 = e.1.2 ∧ e.1.1 < e.2.1)

/-- A point in 1/256 pixel is covered (R240). -/
def covers (t : List (Int × Int)) (x y : Int) : Bool :=
  (edgesOf t).all fun e => 0 < edgeAt e x y ∨ (edgeAt e x y = 0 ∧ ownsEdge e)

/-- The box of a record meets tile (a, b) of size t. -/
def boxTile (box : Nat × Nat × Nat × Nat) (t a b : Nat) : Bool :=
  box.1 < (a + 1) * t ∧ a * t ≤ box.2.2.1 ∧ box.2.1 < (b + 1) * t ∧ b * t ≤ box.2.2.2

/-- The tiles that a box meets, row-major (R208). -/
def boxTiles (box : Nat × Nat × Nat × Nat) (t across : Nat) : List Nat :=
  (upFrom (box.2.1 / t) (box.2.2.2 / t + 1 - box.2.1 / t)).flatMap fun b =>
    (upFrom (box.1 / t) (box.2.2.1 / t + 1 - box.1 / t)).map fun a => b * across + a

/-- The conservative test of R241 for the edges. -/
def edgesTouch (r : List Byte) (t a b : Nat) : Bool :=
  let x0 : Int := ((a * t : Nat) : Int) * 256
  let y0 : Int := ((b * t : Nat) : Int) * 256
  let n : Int := (t : Int) * 256
  (edgesOf (recTri r)).all fun e =>
    0 ≤ edgeAt e x0 y0 ∨ 0 ≤ edgeAt e (x0 + n) y0 ∨ 0 ≤ edgeAt e x0 (y0 + n) ∨ 0 ≤ edgeAt e (x0 + n) (y0 + n)

/-- The primitive is wide (R208). -/
def isWide (box : Nat × Nat × Nat × Nat) (t across : Nat) : Bool := 8 < (boxTiles box t across).length

/-- The tiles whose lists receive the record of a primitive that is not wide. -/
def listTiles (r : List Byte) (t across : Nat) : List Nat :=
  (boxTiles (recBox r) t across).filter fun n => edgesTouch r t (n % across) (n / across)

end Sys2Proof.Machine
end

