-- ==== Sys2Proof/Machine/Collator.lean ====
section
/-!
DEFINITION. Machine/Collator.lean: the Collator (07 R196 to R225) and the state side of the geometry stage (08 R231, R232):
passes, quires, the three modes, flushes and the end of a pass.
-/

namespace Sys2Proof.Machine

/-- An open pass. -/
def passAt (s : State) (p : Nat) : Option Pass := tget s.gfx.passes p

/-! ### Reuse slots (09 R273, R274) -/

/-- A reuse slot. -/
def truSlot (s : State) (sl : Nat) : TruSlot := tgetD s.gfx.slots sl {}
/-- Changes a reuse slot. -/
def onSlot (s : State) (sl : Nat) (f : TruSlot → TruSlot) : State :=
  onGfx s fun g => { g with slots := tmod g.slots sl {} f }
/-- Entries first to last of a slot are cleared to not VALID. -/
def truClear (s : State) (sl first last : Nat) : State :=
  onGfx s fun g => { g with reuse := g.reuse.filter fun e => ¬ (sl * 8192 + first ≤ e.1 ∧ e.1 ≤ sl * 8192 + last) }
/-- The slot is unbound and all its entries cleared. -/
def truUnbind (s : State) (sl : Nat) : State :=
  onSlot (truClear s sl 0 8191) sl fun x => { x with bound := none, recorded := none, recordedAt := 0 }
/-- The slots that are bound to a context. -/
def truBound (s : State) (c : Nat) : List Nat :=
  (List.range 16).filter fun sl => match (truSlot s sl).bound with | some b => decide (b.1 = c) | none => false
/-- The function an operation register belongs to reports its end. -/
def truResult (s : State) (f : Nat) (st : Status) (version : Nat) : State :=
  rset s .TRU_RESULT (Status.code st <<< 32 + version % 2 ^ 32) f

/-- The pass that held a slot has ended (R274, R277, R284, R285). -/
def truPassEnd (s : State) (x : Pass) (sl : Nat) : State :=
  let s := if x.failed ∨ x.discard then truUnbind s sl
           else onSlot s sl fun y => { y with recorded := some x.surface, recordedAt := x.target.base }
  let s := fset s F.TRU_SLOT_STAT.COPIED x.copied 0 sl
  let s := fset s F.TRU_SLOT_STAT.KEPT x.kept 0 sl
  let s := fset s F.TRU_SLOT_STAT.SHADED x.shaded 0 sl
  let s := fset s F.TRU_SLOT_STAT.NOT_COMPARED x.uncompared 0 sl
  let w := (truSlot s sl).waiting
  let s := onSlot s sl fun y => { y with held := none, waiting := none }
  match w with
  | some (f, a, b) => truResult (truClear s sl a b) f .ok 0
  | none => s

/-! ### Quires (R204 to R206, R209) -/

/-- Quires of the main region. -/
def Pass.mainQuires (x : Pass) : Nat := 16 * (x.units - x.reserve)
/-- Free quires of the main region. -/
def Pass.free (x : Pass) : Nat := x.mainQuires - x.nextQuire
/-- Address of a quire. -/
def Pass.quire (x : Pass) (i : Nat) : Nat := x.pool.base + 4096 * i
/-- List-table entries that are free. -/
def listFree (s : State) : Nat := 32768 - (s.gfx.passes.map fun e => e.2.entries).sum

/-- The Collator's own accesses: a fault fails the pass (R202). -/
def colWrite (s : State) (p va : Nat) (bs : List Byte) : State :=
  match passAt s p with
  | none => s
  | some x =>
    if x.failed then s else
    let w := vwrite s 209 3 x.fn x.asid x.ctx va bs
    if w.1 = .ok then w.2 else passFail w.2 p w.1 va

/-- A read of the Collator or, with eng 208, of the geometry stage. -/
def colRead (s : State) (eng p va n : Nat) : Option (List Byte) × State :=
  match passAt s p with
  | none => (none, s)
  | some x =>
    let r := vread s eng 3 x.fn x.asid x.ctx va n
    if r.1 = .ok then (some r.2.1, r.2.2) else (none, passFail r.2.2 p r.1 va)

/-- A quire header (R205). -/
def quireHeader (list count kind serial first : Nat) : List Byte :=
  natLe 0xFFFF_FFFF 4 ++ natLe list 4 ++ natLe count 2 ++ natLe kind 1 ++ zeros 1 ++ natLe serial 4 ++ natLe first 4 ++ zeros 44

/-- The next quire of the main region is allocated (R204); WARNED is set where its free part has become small (R224). -/
def quireAlloc (s : State) (p : Nat) : Nat × State :=
  match passAt s p with
  | none => (0, s)
  | some x =>
    let warn := fget s F.COL_CTL.WARN_UNITS
    (x.nextQuire, onPass s p fun x => { x with
      nextQuire := x.nextQuire + 1
      highWater := Nat.max x.highWater (x.nextQuire + 1)
      warned := x.warned || (decide (warn ≠ 0) && decide (x.mainQuires - (x.nextQuire + 1) < 16 * warn)) })

/-- A list of a pass. -/
def listOf (x : Pass) (n : Nat) : QList := tgetD x.lists n {}
/-- The list needs a new quire for its next record (R209). -/
def listFull (l : QList) : Bool := l.quires = 0 ∨ l.inLast = 504

/-- A record is appended to a list (R206, R209). -/
def listAppend (s : State) (p n rec_ first : Nat) : State :=
  match passAt s p with
  | none => s
  | some x =>
    let l := listOf x n
    if listFull l then
      let a := quireAlloc s p
      let s := if l.quires = 0 then a.2 else colWrite a.2 p (x.quire l.last) (natLe a.1 4)
      let s := colWrite s p (x.quire a.1) (quireHeader n 1 x.mode x.serial first ++ natLe rec_ 8)
      onPass s p fun x => { x with lists := tset x.lists n { l with
        first := if l.quires = 0 then a.1 else l.first
        last := a.1, inLast := 1, quires := l.quires + 1, records := l.records + 1 } }
    else
      let s := colWrite s p (x.quire l.last + 64 + 8 * l.inLast) (natLe rec_ 8)
      let s := colWrite s p (x.quire l.last + 8) (natLe (l.inLast + 1) 2)
      onPass s p fun x => { x with lists := tset x.lists n { l with inLast := l.inLast + 1, records := l.records + 1 } }

/-! ### Ranking of batches (03 R74) -/

/-- The started PASS_BEGIN of a pass gives its rank. -/
def passScore (s : State) (e : Eng) (x : Pass) : Nat :=
  match taskAt s x.task with
  | some k => rankScore k.cls k.prio (turnKey k) (lastTurn s e)
  | none => 0

/-- Open passes that satisfy a condition, best rank first. -/
def passesBy (s : State) (e : Eng) (ready : Pass → Bool) : List (Nat × Pass) :=
  sortBy (fun x => passScore s e x.2) (s.gfx.passes.filter fun x => ready x.2)

/-- A pass is served: its turn, and the blocked steps of the others (03 R102). -/
def servePass (s : State) (e : Eng) (x : Pass) (losers : List (Nat × Pass)) : State :=
  let s := match taskAt s x.task with | some k => serveTurn s e (turnKey k) | none => s
  (losers.filter fun y => y.2.task ≠ x.task).foldl (fun s y => chargeBlocked s y.2.ctx x.ctx 1) s


/-! ### Starting a pass (R199, R200) -/

/-- How a PASS_BEGIN starts. -/
inductive PStart where
  | wait
  | fail (st : Status) (addr : Nat)
  | ok
  deriving DecidableEq, Repr, Inhabited

/-- The failure of the lowest class. -/
def firstFail (l : List (Nat × Status)) : Option Status := (sortBy Prod.fst l).head?.map Prod.snd

/-- A failure where b holds. -/
def failIf (b : Bool) (c : Nat) (st : Status) : List (Nat × Status) := if b then [(c, st)] else []

/-- The tile edge that TILE names. -/
def tileSize (code : Nat) : Nat := if code = 1 then 32 else 64

/-- The pass term (09 R268). -/
def passTermOf (h : List Byte) (tile : Nat) : Nat :=
  let h := putAt h 8 (zeros 8)
  let h := (List.range 5).foldl (fun h i => putAt h (64 + 48 * i + 8) (zeros 16)) h
  crc64 (h ++ natLe tile 1)

/-- The running fold of a tile before its first primitive (09 R269). -/
def foldStart (term : Nat) : Nat := crc64Step (2 ^ 64 - 1) (natLe term 8)

/-- The next PASS_SERIAL is used up (R205). -/
def takeSerial (s : State) : Nat × State :=
  (s.gfx.serial, onGfx s fun g => { g with serial := wrapInc g.serial 32 })

/-- Checks 1 and 2 of R200, with the additions of 09 R275. -/
def beginFails (s : State) (k : Task) : List (Nat × Status) :=
  let reuse := byteAt k.raw 18
  let geo : Bool := byteAt k.raw 16 = 0
  failIf (1 < byteAt k.raw 17 ∨ bits reuse 6 4 ≠ 0 ∨ (¬ geo ∧ (byteAt k.raw 17 ≠ 0 ∨ reuse ≠ 0))) 1 .badOpcode
  ++ failIf (s.gfx.passes.any fun e => decide (e.2.pool.idx = (tgetD k.objs 8 default).idx)) 2 .permission
  ++ failIf (bit reuse 7 ∧ (fget s F.TRU_SLOT_CFG.MODE 0 (reuse % 16) ≠ 1 ∨ fget s F.TRU_SLOT_CFG.FUNCTION 0 (reuse % 16) ≠ k.fn))
      2 .permission
  ++ failIf (objBase k 8 % 4096 ≠ 0) 7 .badAlignment

/-- The pass record of a started PASS_BEGIN. -/
def passFor (t key : Nat) (k : Task) : Pass :=
  { key := key, q := k.q, fn := k.fn, ctx := k.ctx, asid := k.asid, mode := byteAt k.raw 16, begin_ := k.owner, task := t,
    pool := tgetD k.objs 8 default, units := fieldAt k.raw 20 4,
    reserve := if fieldAt k.raw 24 4 = 0 then 16 else fieldAt k.raw 24 4, target := tgetD k.objs 12 default,
    tile := tileSize (byteAt k.raw 17) }

/-- The turn key of an owner names its pass (R553): the queue, or the launch. -/
def ownerKey (o : Owner) : Nat := match o with | .entry q _ => q | .node l _ => 2 ^ 14 + l

/-- The open pass of a queue or launch. -/
def passOf (s : State) (key : Nat) : Option (Nat × Pass) := s.gfx.passes.find? fun e => e.2.key = key ∧ ¬ e.2.discard

/-- The slot of a reuse pass is held and, for another context or ASID, bound anew (09 R274, R275). -/
def truHold (s : State) (p : Nat) (x : Pass) : State :=
  match x.reuse with
  | none => s
  | some sl =>
    let me := (x.ctx, x.asid)
    let s := if (truSlot s sl).bound = some me then s else onSlot (truUnbind s sl) sl fun y => { y with bound := some me }
    onSlot s sl fun y => { y with held := some p }

/-- PASS_BEGIN t starts (R199, R200): it waits, fails, or opens a pass; a ROUTE or BLOCK pass reads its control block first. -/
def passBegin (s : State) (t : Nat) (k : Task) : PStart × State :=
  match (List.range 8).find? (fun p => (passAt s p).isNone) with
  | none => (.wait, s)
  | some p =>
    let x := passFor t (ownerKey k.owner) k
    let fails := beginFails s k
    if x.mode ≠ 0 then
      match firstFail (fails.filter fun f => f.1 < 3) with
      | some st => (.fail st 0, s)
      | none => (.ok, onGfx s fun g => { g with passes := tset g.passes p { x with reading := true } })
    else
      match firstFail (fails.filter fun f => f.1 < 3) with
      | some st => (.fail st 0, s)
      | none =>
        let r := vread s 209 3 x.fn x.asid x.ctx x.target.base 320
        let s := r.2.2
        if r.1 ≠ .ok then (.fail r.1 s.xlt.failAddr, s) else
        let f := surfaceOf r.2.1
        let n := f.tiles x.tile
        let reuse := byteAt k.raw 18
        let more := surfaceFails r.2.1 x.tile x.target.size
          ++ failIf (32767 < n ∨ fget s F.COL_CTL.LIST_LIMIT < n + 1 ∨ (bit reuse 7 ∧ 8192 < n)) 6 .lengthRange
        match firstFail (fails ++ more) with
        | some st => (.fail st 0, s)
        | none =>
          let sl := reuse % 16
          if listFree s < n + 1 ∨ (bit reuse 7 ∧ (truSlot s sl).held.isSome) then (.wait, s) else
          let ser := takeSerial s
          let x := { x with surface := f, serial := ser.1, entries := n + 1, reuse := if bit reuse 7 then some sl else none,
                            passTerm := passTermOf r.2.1 (byteAt k.raw 17) }
          (.ok, truHold (onGfx ser.2 fun g => { g with passes := tset g.passes p x }) p x)

/-! ### The control block (R200, R215, R219) -/

/-- The regions of TARGET that a control block names, as (offset, bytes, alignment). -/
def ctlRegions (mode : Nat) (c : List Byte) : List (Nat × Nat × Nat) :=
  if mode = 1 then
    let n := fieldAt c 0 4
    [(fieldAt c 16 8, 32 * n, 32), (fieldAt c 24 8, 16 * fieldAt c 4 2, 16), (fieldAt c 32 8, n, 1)]
  else
    let q := fieldAt c 0 4
    let k := fieldAt c 4 4
    [(fieldAt c 24 8, 16 * q, 16), (fieldAt c 32 8, 16 * k, 16), (fieldAt c 48 8, 16 * q, 16)]
      ++ (if bit (byteAt c 12) 2 then [(fieldAt c 40 8, q * ((k + 1023) / 1024 * 128), 128)] else [])

/-- Two regions of a list share a byte. -/
def anyOverlap : List (Nat × Nat × Nat) → Bool
  | [] => false
  | r :: t => t.any (fun u => decide (r.1 < u.1 + u.2.1 ∧ u.1 < r.1 + r.2.1 ∧ r.2.1 ≠ 0 ∧ u.2.1 ≠ 0)) || anyOverlap t

/-- Records that a list may hold. -/
def listCap (x : Pass) : Nat :=
  if x.mode = 1 then (if fieldAt x.control 8 4 = 0 then fieldAt x.control 0 4 else fieldAt x.control 8 4)
  else if fieldAt x.control 16 4 = 0 then fieldAt x.control 4 4 else fieldAt x.control 16 4

/-- Lists of a ROUTE or BLOCK pass. -/
def listCount (x : Pass) : Nat := if x.mode = 1 then fieldAt x.control 4 2 else fieldAt x.control 0 4

/-- Checks 3 to 8 of R200; check 5 is no failure and is looked at between. -/
def ctlFails (s : State) (x : Pass) : List (Nat × Status) :=
  let c := x.control
  let regions := ctlRegions x.mode c
  let rsvd : Bool := if x.mode = 1 then byteAt c 7 / 2 ≠ 0 ∨ (c.drop 12).take 4 ≠ zeros 4 ∨ c.drop 40 ≠ zeros 24
    else byteAt c 12 / 8 ≠ 0 ∨ (c.drop 13).take 3 ≠ zeros 3 ∨ (c.drop 20).take 4 ≠ zeros 4 ∨ c.drop 56 ≠ zeros 8
  let ones : Bool := if x.mode = 1 then fieldAt c 0 4 = 2 ^ 32 - 1 ∨ fieldAt c 4 2 = 65535 ∨ byteAt c 6 = 255 ∨ fieldAt c 8 4 = 2 ^ 32 - 1
    else fieldAt c 0 4 = 2 ^ 32 - 1 ∨ fieldAt c 4 4 = 2 ^ 32 - 1 ∨ fieldAt c 16 4 = 2 ^ 32 - 1
  let range : Bool := if x.mode = 1 then 2 ^ 24 < fieldAt c 0 4 ∨ fieldAt c 4 2 = 0 ∨ 256 < fieldAt c 4 2 ∨ byteAt c 6 = 0 ∨ 8 < byteAt c 6
      ∨ 2 ^ 24 < fieldAt c 8 4 ∨ fget s F.COL_CTL.LIST_LIMIT < fieldAt c 4 2
    else 2 ^ 20 < fieldAt c 0 4 ∨ 2 ^ 20 < fieldAt c 4 4 ∨ fieldAt c 4 4 < fieldAt c 16 4
  let worst : Bool := x.mainQuires < listCount x * ((listCap x + 503) / 504)
  failIf (rsvd ∨ anyOverlap ((0, 64, 1) :: regions)) 3 .badOpcode ++ failIf ones 4 .lengthRange
  ++ failIf (range ∨ worst) 6 .lengthRange
  ++ failIf (x.pool.base % 4096 ≠ 0 ∨ regions.any fun r => r.1 % r.2.2 ≠ 0) 7 .badAlignment
  ++ failIf (regions.any fun r => x.target.size < r.1 + r.2.1) 8 .lengthExceedsObject

/-- TOKENS, QTILES or KBLOCKS is 0. -/
def ctlZero (x : Pass) : Bool := fieldAt x.control 0 4 = 0 ∨ (x.mode = 2 ∧ fieldAt x.control 4 4 = 0)

/-- An output-table entry (R218). -/
def tableEntry (l : QList) : List Byte := natLe l.first 4 ++ natLe l.quires 4 ++ natLe l.records 4 ++ natLe l.aux 4

/-- Offset of the output table. -/
def tableOffset (x : Pass) : Nat := if x.mode = 1 then fieldAt x.control 24 8 else fieldAt x.control 48 8

/-- The output-table entry of a list is written. -/
def writeTable (p : Nat) (s : State) (n : Nat) : State :=
  match passAt s p with
  | none => s
  | some x => colWrite s p (x.target.base + tableOffset x + 16 * n) (tableEntry (listOf x n))

/-- PASS_BEGIN of a ROUTE or BLOCK pass finishes, with the pass's status (R201, R202). -/
def beginEnd (s : State) (p : Nat) : State :=
  match passAt s p with
  | none => s
  | some x =>
    let s := onPass s p fun x => { x with closed := true }
    endBare (bumpVersion s x.target.idx) x.task x.status x.failAddr

/-- A PASS_BEGIN that finds too few list-table entries waits unstarted (R199): it holds no pass record and no place, and is to start
again. -/
def passUnstart (s : State) (p : Nat) (x : Pass) : State :=
  let s := onGfx s fun g => { g with passes := tdel g.passes p }
  onFe s fun y => { y with
    tasks := tdel y.tasks x.task
    queues := match x.begin_ with
      | .entry q n => tupd y.queues q fun k => { k with entries := k.entries.map fun e => if e.seq = n then { e with phase := .checked false } else e }
      | .node _ _ => y.queues
    launches := match x.begin_ with
      | .node l n => tupd y.launches l fun z => { z with
          running := ndel z.running n, ready := if z.fail.isSome ∨ z.discarded then [] else n :: z.ready }
      | .entry _ _ => y.launches }

/-- CONTROL_BLOCK_READ_DONE (R199, R200). -/
def execControlBlockReadDone (p : Nat) (s : State) : Out :=
  unitStep s 0x111 fun s =>
    match passAt s p with
    | none => s
    | some x =>
      if ¬ x.reading ∨ x.discard then s else
      let drop (s : State) (st : Status) (addr : Nat) : State :=
        endBare (onGfx s fun g => { g with passes := tdel g.passes p }) x.task st addr
      let r := vread s 209 3 x.fn x.asid x.ctx x.target.base 64
      let s := r.2.2
      if r.1 ≠ .ok then drop s r.1 s.xlt.failAddr else
      let x := { x with control := r.2.1 }
      let fails := ctlFails s x
      match firstFail (fails.filter fun f => f.1 < 5) with
      | some st => drop s st 0
      | none =>
        match (if ctlZero x then none else firstFail fails) with
        | some st => drop s st 0
        | none =>
          let need := if x.mode = 1 then listCount x else 1
          if listFree s < need then passUnstart s p x else
          let ser := takeSerial s
          let x := { x with reading := false, serial := ser.1, entries := need }
          let s := onPass ser.2 p fun _ => x
          if ctlZero x then
            let s := (List.range (listCount x)).foldl (writeTable p) s
            let s := if x.mode = 1 then colWrite s p (x.target.base + fieldAt x.control 32 8) (zeros (fieldAt x.control 0 4)) else s
            beginEnd s p
          else s

/-! ### ROUTE (R215 to R217) -/

/-- One choice of a token, in its place of the processing order: the drop bits with what it adds. -/
def routeChoice (p t : Nat) (words : List Nat) (acc : Nat × State) (r : Nat) : Nat × State :=
  match passAt acc.2 p with
  | none => acc
  | some x =>
    let w := words.getD r 0
    let e := w % 65536
    if e = 0xFFFF then acc
    else if fieldAt x.control 4 2 ≤ e ∨ (words.take r).any fun u => u % 65536 = e then (acc.1 ||| 2 ^ r, acc.2)
    else if (listOf x e).records < listCap x then (acc.1, listAppend acc.2 p e (r * 2 ^ 48 + w / 65536 * 2 ^ 32 + t) 0)
    else (acc.1 ||| 2 ^ r, onPass acc.2 p fun x => { x with lists := tmod x.lists e {} fun l => { l with aux := l.aux + 1 } })

/-- One token of a sweep. -/
def routeToken (p sweep : Nat) (s : State) (t : Nat) : State :=
  match passAt s p with
  | none => s
  | some x =>
    if x.failed then s else
    let drop := x.target.base + fieldAt x.control 32 8 + t
    let r := colRead s 209 p (x.target.base + fieldAt x.control 16 8 + 32 * t) 32
    match r.1 with
    | none => r.2
    | some bs =>
      let words := (List.range 8).map fun i => fieldAt bs (4 * i) 4
      let first : Bool := bit (byteAt x.control 7) 0
      let old := if sweep = 0 then (some [0], r.2) else colRead r.2 209 p drop 1
      let ranks := if first then [sweep] else List.range (byteAt x.control 6)
      let c := ranks.foldl (routeChoice p t words) (byteAt (old.1.getD []) 0, old.2)
      colWrite c.2 p drop (natLe c.1 1)

/-- The kinds of batch. -/
inductive ColWork where
  | route | block | stage | admission
  deriving DecidableEq, Repr, Inhabited

/-- The batch of a pass has been shaded. -/
def batchDone (x : Pass) : Bool := match x.batch with | some b => b.waiting = [] ∧ b.running = [] | none => false

/-- The stream of a DRAW has been read to its end. -/
def PassDraw.over (d : PassDraw) : Bool := !d.reading && decide (fieldAt d.raw 24 4 ≤ d.at_.inst)

/-- Index of the DRAW whose stream is read next: DRAWs come in order, so one whose arguments have not been read holds back those behind
it. -/
def nextDraw (x : Pass) : Option Nat :=
  match (List.range x.draws.length).find? fun i => match x.draws[i]? with | some d => !d.released && !d.over | none => false with
  | some i => match x.draws[i]? with | some d => if d.reading then none else some i | none => none
  | none => none

/-- The batch that a pass has ready (R207 to R209, R216, R221, 08 R231). -/
def passWork (x : Pass) : Option ColWork :=
  if x.discard then none
  else if x.mode ≠ 0 then (if x.reading ∨ x.closed then none else if x.mode = 1 then some .route else some .block)
  else if batchDone x ∨ x.held ≠ [] then (if x.flush = .none then some .admission else none)
  else if ¬ x.failed ∧ x.batch.isNone ∧ (nextDraw x).isSome then some .stage
  else none

/-- The Collator takes one batch: that of the best-ranked pass which has one ready, of whatever kind (03 R74). f does it, if it is of
the kind asked for. -/
def colBatch (s : State) (w : ColWork) (f : State → Nat → Pass → State) : Out :=
  unitStep s (if w = .stage then 0x110 else 0x111) fun s =>
    let ready := passesBy s .collator fun x => (passWork x).isSome
    match ready with
    | [] => s
    | (p, x) :: _ => if passWork x ≠ some w then s else f (servePass s .collator x ready) p x

/-- ROUTE_BATCH (R216, R217): a ROUTE pass takes its next 64 tokens. steps: Collator steps it took. -/
def execRouteBatch (steps : Nat) (s : State) : Out :=
  colBatch s .route fun s p x =>
      let s := busySteps s x.ctx .collator steps
      let n := fieldAt x.control 0 4
      let sweeps := if bit (byteAt x.control 7) 0 then byteAt x.control 6 else 1
      let m := Nat.min 64 (n - x.at_.2)
      let s := (upFrom x.at_.2 m).foldl (routeToken p x.at_.1) s
      let s := onPass s p fun y => { y with at_ := if x.at_.2 + m < n then (x.at_.1, x.at_.2 + m) else (x.at_.1 + 1, 0) }
      match passAt s p with
      | none => s
      | some y =>
        if y.failed then beginEnd s p
        else if y.at_.1 < sweeps then s
        else beginEnd ((List.range (listCount y)).foldl (writeTable p) s) p

/-! ### BLOCK (R219 to R221) -/

/-- The test of R220 on a query record and a key record: none where the pair is not listed, else PARTIAL. -/
def blockPair (rules window : Nat) (allowed : Bool) (q k : List Byte) : Option Bool :=
  let global : Bool := bit (fieldAt q 10 2) 0 || bit (fieldAt k 10 2) 0
  let w : Int := if global then 0 else window
  let fq : Int := fieldAt q 0 4
  let lq : Int := fieldAt q 4 4
  let fk : Int := fieldAt k 0 4
  let lk : Int := fieldAt k 4 4
  let a := fq - lk
  let b := lq - fk
  if bit rules 1 ∧ fieldAt q 8 2 ≠ fieldAt k 8 2 ∧ ¬ global then none
  else if bit rules 2 ∧ ¬ allowed then none
  else if lq < fq ∨ lk < fk then none
  else if bit rules 0 then
    if w = 0 then (if 0 ≤ b then some (decide (a < 0)) else none)
    else if 0 ≤ b ∧ a < w then some (!(decide (0 ≤ a) && decide (b < w))) else none
  else if w = 0 then some false
  else if a < w ∧ -w < b then some (!(decide (-w < a) && decide (b < w))) else none

/-- One key block of a query tile. -/
def blockKey (p q : Nat) (qrec : List Byte) (s : State) (j : Nat) : State :=
  match passAt s p with
  | none => s
  | some x =>
    if x.failed then s else
    let c := x.control
    let kb := fieldAt c 4 4
    let r := colRead s 209 p (x.target.base + fieldAt c 32 8 + 16 * j) 16
    match r.1 with
    | none => r.2
    | some krec =>
      let m := if bit (byteAt c 12) 2
        then colRead r.2 209 p (x.target.base + fieldAt c 40 8 + q * ((kb + 1023) / 1024 * 128) + j / 8) 1 else (some [1], r.2)
      match m.1 with
      | none => m.2
      | some byte =>
        match blockPair (byteAt c 12) (fieldAt c 8 4) (bit (byteAt byte 0) (j % 8)) qrec krec with
        | none => m.2
        | some part =>
          if (listOf x q).records < listCap x then listAppend m.2 p q (b2n part * 2 ^ 32 + j) 0
          else onPass m.2 p fun x => { x with lists := tmod x.lists q {} fun l => { l with aux := l.aux + 1 } }

/-- BLOCK_BATCH (R221): a BLOCK pass tests its query tile against the next 64 key blocks. -/
def execBlockBatch (steps : Nat) (s : State) : Out :=
  colBatch s .block fun s p x =>
      let s := busySteps s x.ctx .collator steps
      let q := x.at_.1
      let kb := fieldAt x.control 4 4
      let m := Nat.min 64 (kb - x.at_.2)
      let r := colRead s 209 p (x.target.base + fieldAt x.control 24 8 + 16 * q) 16
      let s := match r.1 with
        | none => r.2
        | some qrec => (upFrom x.at_.2 m).foldl (blockKey p q qrec) r.2
      let last : Bool := decide (kb ≤ x.at_.2 + m)
      let s := if last then
          onPass (writeTable p s q) p fun y => { y with at_ := (q + 1, 0), lists := tdel y.lists q }
        else onPass s p fun y => { y with at_ := (q, x.at_.2 + m) }
      match passAt s p with
      | none => s
      | some y => if y.failed ∨ listCount y ≤ y.at_.1 then beginEnd s p else s

/-! ### GEOMETRY: batches (08 R231, R232) -/

/-- A DRAW's fields: INSTANCES, COUNT, FIRST, FIRST_INSTANCE. -/
def PassDraw.count (d : PassDraw) : Nat := fieldAt d.raw 20 4
def PassDraw.instances (d : PassDraw) : Nat := fieldAt d.raw 24 4
def PassDraw.first (d : PassDraw) : Nat := fieldAt d.raw 28 4
def PassDraw.firstInstance (d : PassDraw) : Nat := fieldAt d.raw 32 4
/-- The DRAW reads indices. -/
def PassDraw.indexed (d : PassDraw) : Bool := (tget d.objs 16).isSome

/-- Base of an object that a DRAW resolved. -/
def PassDraw.base (d : PassDraw) (off : Nat) : Nat := match tget d.objs off with | some o => o.base | none => 0
/-- Size of an object that a DRAW resolved. -/
def PassDraw.size (d : PassDraw) (off : Nat) : Nat := match tget d.objs off with | some o => o.size | none => 0

/-- Reads at most fuel positions of a DRAW's stream until 64 primitives are gathered: the primitives as instance, index within
the instance and vertices, and the DRAW with its cursor moved. -/
def gather (p : Nat) : Nat → PassDraw → List (Nat × Nat × List Nat) → State → List (Nat × Nat × List Nat) × PassDraw × State
  | 0, d, acc, s => (acc, d, s)
  | fuel + 1, d, acc, s =>
    if d.over ∨ 64 ≤ acc.length then (acc, d, s) else
    let c := d.at_
    let x := d.state.indexSize
    let r := if d.indexed then colRead s 208 p (d.base 16 + (d.first + c.pos) * x) x
             else (some (natLe (d.first + c.pos) 4), s)
    match r.1 with
    | none => (acc, d, r.2)
    | some bs =>
      let v := leNat bs
      let ended : Bool := d.indexed ∧ bit d.state.raster 5 ∧ v = 2 ^ (8 * x) - 1
      let st := if ended then (streamRestart c, none) else streamVertex d.state.topology v c
      let inst := d.firstInstance + c.inst
      let acc' := match st.2 with | some vs => acc ++ [(inst, c.prim, vs)] | none => acc
      let c' := { st.1 with prim := c.prim + b2n st.2.isSome }
      let c'' := if c.pos + 1 < d.count then { c' with pos := c.pos + 1 } else { inst := c.inst + 1 }
      gather p fuel { d with at_ := c'' } acc' r.2

/-- Registers of a position group at its first instruction (08 R232). -/
def positionGroup (d : PassDraw) (ordinal slot : Nat) (vs : List ((Nat × Nat) × List Byte)) : Group :=
  let w (n : Nat) : W32 := BitVec.ofNat 32 n
  let n := d.state.stride / 4
  let row (r : Nat) (f : (Nat × Nat) × List Byte → Nat) : Tbl W32 := vs.zipIdx.map fun x => (r * 32 + x.2, w (f x.1))
  { slot := slot, idx := 0,
    threads := (List.range 32).map fun t => { live := decide (t < vs.length) },
    v := row 0 (fun x => x.1.1) ++ row 1 (fun x => x.1.2) ++ (List.range n).flatMap fun j => row (8 + j) fun x => fieldAt x.2 (4 * j) 4,
    sr := [(4, w d.state.const), (5, w (d.state.const / 2 ^ 32)), (6, w ordinal)] }

/-- The bytes of a vertex. One that reaches beyond the object reads as zeros throughout (02 R54; that its bytes before the end do so too
is the model's choice, log 130). -/
def vertexBytes (s : State) (p : Nat) (d : PassDraw) (v : Nat) : Option (List Byte) × State :=
  let n := d.state.stride
  if d.size 12 < (v + 1) * n then (some (zeros n), s) else colRead s 208 p (d.base 12 + v * n) n

/-- The vertices of a position group are fetched. -/
def fetchVertices (p : Nat) (d : PassDraw) : List (Nat × Nat) → State → Option (List ((Nat × Nat) × List Byte)) × State
  | [], s => (some [], s)
  | v :: t, s =>
    match vertexBytes s p d v.1 with
    | (none, s) => (none, s)
    | (some bs, s) =>
      match fetchVertices p d t s with
      | (none, s) => (none, s)
      | (some l, s) => (some ((v, bs) :: l), s)

/-- The first saved or waiting position group of a pass enters a core under R76, where one can hold it; otherwise lower work is asked to
give way (03 R80, R81). -/
def placePosition (p : Nat) (s : State) : State :=
  match passAt s p with
  | none => s
  | some x =>
    let core : Option Nat := (nextPosition s p x).bind fun g => coreFor s (passCls s x) g 1 0
    let ask (s : State) (g : Prog) : State := preemptFor s (passCls s x) fun s c => coreHolds s c g 1 0
    match x.batch, s.sc.saved.find? (fun e => e.2.kind = .position p) with
    | none, _ => s
    | some _, some e =>
      match core with
      | some c => chargeCores s (restoreBlock s e.1 e.2 c) x.ctx
      | none => ask s e.2.prog
    | some bt, none =>
      match bt.waiting, x.draws[bt.draw]? with
      | g :: rest, some d =>
        if x.failed ∨ x.discard then onPass s p fun x => { x with batch := some { bt with waiting := [] } } else
        match core with
        | none => ask s d.state.pos
        | some c =>
          let before := s
          match fetchVertices p d g s with
          | (none, s) => onPass s p fun x => { x with batch := some { bt with waiting := [] } }
          | (some vs, s) =>
            let slot := (freeSlots s c 1).headD 0
            let n := newBlock s { kind := .position p, core := c, fn := x.fn, ctx := x.ctx, asid := x.asid, q := x.q, cls := passCls s x,
                                  prog := d.state.pos, nGroups := 1, localKib := 0, groups := [positionGroup d bt.draw slot vs] }
            chargeCores before (onPass n.2 p fun x => { x with batch := some { bt with
              waiting := rest, running := bt.running ++ [n.1], groups := tset bt.groups n.1 g } }) x.ctx
      | _, _ => s

/-- Every waiting position group tries. -/
def placePositions (s : State) (p : Nat) : State := (List.range 8).foldl (fun s _ => placePosition p s) s

/-- A DRAW releases its Collator place (03 R73). -/
def releaseDraw (s : State) (p : Nat) (d : Nat) : State :=
  match passAt s p with
  | none => s
  | some x =>
    match x.draws[d]? with
    | none => s
    | some y =>
      onTask (onPass s p fun x => { x with draws := x.draws.mapIdx fun i z => if i = d then { z with released := true } else z })
        y.task fun k => { k with eng := .none }

/-- DRAWs whose stream is over and none of whose primitives waits are released. -/
def releaseDraws (s : State) (p : Nat) : State :=
  match passAt s p with
  | none => s
  | some x =>
    (List.range x.draws.length).foldl (fun s i =>
      match x.draws[i]? with
      | none => s
      | some d =>
        let busy : Bool := (match x.batch with | some b => decide (b.draw = i) | none => false) || x.held.any fun h => h.draw = i
        if d.released ∨ (x.failed ∧ ¬ busy) ∨ (d.over ∧ ¬ busy) then releaseDraw s p i else s) s


/-- The final render of a GEOMETRY pass begins once its PASS_END has started and every DRAW has been binned (R213, R214). With
reuse, every tile is compared first (09 R276). -/
def tryClose (s : State) (p : Nat) : State :=
  match passAt s p with
  | none => s
  | some x =>
    if x.ending.isSome ∧ ¬ x.closed ∧ x.draws.all (fun d => d.released) ∧ x.batch.isNone ∧ x.held = [] ∧ x.flush = .none then
      onPass s p fun x => { x with
        closed := true
        toHand := if x.failed ∨ x.reuse.isSome then [] else x.touched
        toCompare := if x.failed ∨ x.reuse.isNone then [] else List.range (x.surface.tiles x.tile) }
    else s

/-- GEOMETRY_STAGE_BATCH (08 R231, R232): a pass with stream left gathers up to 64 primitives, and the position groups of their
distinct vertices are placed as far as cores can hold them. -/
def execGeometryStageBatch (s : State) : Out :=
  if ¬ domOpen s 40 then .next s else
  colBatch s .stage fun s p x =>
      match nextDraw x with
      | none => s
      | some i =>
        let g := gather p 256 (x.draws.getD i default) [] s
        let s := onPass g.2.2 p fun x => { x with draws := x.draws.mapIdx fun j d => if j = i then { d with at_ := g.2.1.at_ } else d }
        let pairs := (g.1.flatMap fun a => a.2.2.map fun v => (v, a.1)).eraseDups
        let s := if g.1 = [] then s
          else onPass s p fun x => { x with batch := if x.failed then none else some { draw := i, prims := g.1, waiting := chunks 32 pairs } }
        tryClose (releaseDraws (placePositions s p) p) p

/-! ### GEOMETRY: admission (R207 to R213) -/

/-- The outputs of a (vertex, instance) pair of a shaded batch. -/
def outsOf (s : State) (b : GBatch) (v : Nat × Nat) : List Nat :=
  match b.groups.findSome? (fun g => (g.2.findIdx? (· = v)).map fun t => (g.1, t)) with
  | some (k, t) => match tget s.sc.done k with | some blk => tgetD blk.outs t [] | none => []
  | none => []

/-- The shaded batch becomes primitives that wait for admission, numbered in order (R207); its groups' outputs are taken. -/
def assemble (s : State) (p : Nat) (x : Pass) (b : GBatch) : State :=
  match x.draws[b.draw]? with
  | none => s
  | some d =>
    let r := b.prims.foldl (fun (acc : List (List Byte) × State) a =>
      let f := Config.free acc.2.freeCtr
      let vs := a.2.2.map fun v => vtxOf f d.state.vary (outsOf s b (v, a.1))
      (acc.1 ++ primRecords f d.state x.surface a.2.1 a.1 vs, { acc.2 with freeCtr := acc.2.freeCtr + 1 })) ([], s)
    let prims := r.1.zipIdx.map fun y => ({ draw := b.draw, seq := (x.seq + y.2) % 2 ^ 32, box := recBox y.1, record := y.1 } : Prim)
    let s := onSc r.2 fun y => { y with done := y.done.filter fun e => (tget b.groups e.1).isNone }
    onPass s p fun x => { x with batch := none, held := if x.failed then [] else x.held ++ prims, seq := (x.seq + prims.length) % 2 ^ 32 }

/-- The lists that a primitive joins: the wide list, or tiles (R208). -/
def primLists (x : Pass) (r : Prim) : List Nat :=
  let across := x.surface.across x.tile
  if isWide r.box x.tile across then [0xFFFF_FFFF] else listTiles r.record x.tile across

/-- The tiles that a primitive reaches (09 R269). -/
def primTiles (x : Pass) (r : Prim) : List Nat :=
  let across := x.surface.across x.tile
  if isWide r.box x.tile across then boxTiles r.box x.tile across else listTiles r.record x.tile across

/-- The primitive opens a data quire (R209, 08 R237). -/
def opensData (x : Pass) (r : Prim) : Bool :=
  r.slot.isNone && (match x.dataQ, x.draws[r.draw]? with
    | some (_, d, n), some y => d ≠ r.draw || quireCap y.state.vary ≤ n
    | _, _ => true)

/-- New quires that a primitive needs. -/
def primNeed (x : Pass) (r : Prim) : Nat := (primLists x r).countP (fun n => listFull (listOf x n)) + b2n (opensData x r)

/-- Bytes 64 to 255 of a data quire (08 R237). -/
def dataHeader (x : Pass) (d : PassDraw) (ordinal : Nat) : List Byte :=
  natLe d.state.base 8 ++ natLe ordinal 4 ++ natLe (recordSize d.state.vary) 2 ++ natLe d.state.vary 2 ++ natLe (x.ctx % 4096) 2
    ++ zeros 174

/-- Primitives written into a data quire from slot n on, as many as fit: they get their slots. -/
def slotHeld (draw cap : Nat) : Nat → List Prim → List Prim
  | _, [] => []
  | n, r :: t => if r.draw = draw ∧ r.slot.isNone ∧ n < cap then { r with slot := some n } :: slotHeld draw cap (n + 1) t else r :: t

/-- The first held primitive and those of its DRAW behind it are written to a data quire (08 R237). -/
def writeData (s : State) (p : Nat) : State :=
  match passAt s p with
  | none => s
  | some x =>
    match x.held with
    | [] => s
    | r :: _ =>
      if r.slot.isSome then s else
      match x.draws[r.draw]? with
      | none => s
      | some d =>
        let cap := quireCap d.state.vary
        let size := recordSize d.state.vary
        let a := if opensData x r then quireAlloc s p else ((match x.dataQ with | some q => q.1 | none => 0), s)
        let n0 := if opensData x r then 0 else (match x.dataQ with | some q => q.2.2 | none => 0)
        let held := slotHeld r.draw cap n0 x.held
        let news := (held.zip x.held).filterMap fun h => if h.2.slot.isNone then h.1.slot.map fun k => (k, h.1.record) else none
        let s := if opensData x r then
            colWrite a.2 p (x.quire a.1) (quireHeader 0xFFFF_FFFE 0 3 x.serial r.seq ++ dataHeader x d r.draw) else a.2
        let s := news.foldl (fun s k => colWrite s p (x.quire a.1 + 256 + k.1 * size) k.2) s
        let s := colWrite s p (x.quire a.1 + 8) (natLe (n0 + news.length) 2)
        onPass s p fun x => { x with held := if x.failed then [] else held, dataQ := some (a.1, r.draw, n0 + news.length) }

/-- A flush begins (R211 steps 1 to 4): the data quire that holds primitives not yet admitted is copied to the reserve, and every
tile reached since the last flush is to be handed out. -/
def flushBegin (s : State) (p : Nat) : State :=
  match passAt s p with
  | none => s
  | some x =>
    let carried := match x.dataQ with
      | some q => if x.held.any fun h => h.slot.isSome then [q.1] else []
      | none => []
    let s := carried.zipIdx.foldl (fun s q =>
      let r := colRead s 209 p (x.quire q.1) 4096
      match r.1 with
      | some bs => colWrite r.2 p (x.quire (x.mainQuires + q.2)) bs
      | none => r.2) s
    let s := fcount s F.COL_FLUSHES.COUNT
    onPass s p fun x => if x.failed then x else { x with
      flush := .storing carried, flushes := x.flushes + 1, toHand := x.touched
      uncompared := x.uncompared + (x.touched.filter fun n => ¬ x.everOut.contains n).length }

/-- The fold of a primitive into the signature of a tile (09 R269, R270). -/
def foldTile (x : Pass) (d : PassDraw) (r : Prim) (l : QList) : QList :=
  match x.reuse with
  | none => l
  | some _ => { l with crc := some (crc64Step (l.crc.getD (foldStart x.passTerm)) (natLe (crc32c r.record) 4 ++ natLe d.state.term 4)),
                       side := l.side || bit d.state.fragFlags 2 }

/-- The first held primitive is admitted (R208 to R210, R213). -/
def admitOne (s : State) (p : Nat) : State :=
  match passAt (writeData s p) p with
  | none => s
  | some x =>
    let s := writeData s p
    match x.held with
    | [] => s
    | r :: rest =>
      match x.draws[r.draw]?, x.dataQ, r.slot with
      | some d, some q, some slot =>
        let rec_ := r.seq * 2 ^ 32 + slot * 2 ^ 20 + q.1
        let s := (primLists x r).foldl (fun s n =>
          match tget x.stored n with
          | some fl => listAppend (if (listOf x n).records = 0 then listAppend s p n (fl * 2 ^ 32 + 2 ^ 28) fl else s) p n rec_ r.seq
          | none => listAppend s p n rec_ r.seq) s
        let tiles := primTiles x r
        onPass s p fun x => { x with
          held := if x.failed then [] else rest
          touched := tiles.foldl nins x.touched
          everHit := tiles.foldl nins x.everHit
          lists := tiles.foldl (fun l n => tmod l n {} (foldTile x d r)) x.lists }
      | _, _, _ => onPass s p fun x => { x with held := rest }

/-- Held primitives are admitted until none is left or one starts a flush. -/
def admitAll (p : Nat) : Nat → State → State
  | 0, s => s
  | n + 1, s =>
    match passAt s p with
    | none => s
    | some x =>
      if x.failed ∨ x.flush ≠ .none then s else
      match x.held with
      | [] => s
      | r :: _ => if primNeed x r ≤ x.free then admitAll p n (admitOne s p) else flushBegin s p

/-- GEOMETRY_BATCH_ADMIT (R207 to R210): a pass whose batch has been shaded, or that holds primitives, admits them. -/
def execGeometryBatchAdmit (steps : Nat) (s : State) : Out :=
  colBatch s .admission fun s p x =>
      let s := busySteps s x.ctx .collator steps
      let s := match x.batch with
        | some b => if batchDone x then assemble s p x b else s
        | none => s
      let n := match passAt s p with | some y => y.held.length | none => 0
      tryClose (releaseDraws (admitAll p n s) p) p

/-- FLUSH_TILES_STORED (R211 steps 5 to 7). -/
def execFlushTilesStored (p : Nat) (s : State) : Out :=
  unitStep s 0x111 fun s =>
    match passAt s p with
    | none => s
    | some x =>
      match x.flush with
      | .none => s
      | .storing carried =>
        if x.toHand ≠ [] ∨ x.out ≠ [] then s else
        let keep (e : Nat × QList) : Nat × QList := (e.1, { crc := e.2.crc, side := e.2.side })
        let s := onPass s p fun x => { x with
          flush := .none, touched := [], stored := x.touched.foldl (fun t n => tset t n x.flushes) x.stored
          lists := (x.lists.map keep).filter fun e => e.2 ≠ {}
          nextQuire := carried.length
          dataQ := match x.dataQ with | some q => if carried = [] then none else some (0, q.2) | none => none }
        let s := carried.zipIdx.foldl (fun s q =>
          let r := colRead s 209 p (x.quire (x.mainQuires + q.2)) 4096
          match r.1 with
          | some bs => colWrite r.2 p (x.quire q.2) bs
          | none => r.2) s
        tryClose s p

/-! ### The end of a pass (R201 to R203) -/

/-- The pass record and its list-table entries are freed. -/
def passFree (s : State) (p : Nat) : State :=
  match passAt s p with
  | none => s
  | some x =>
    let s := match x.reuse with | some sl => truPassEnd s x sl | none => s
    let s := onSc s fun y => { y with done := y.done.filter fun e => e.2.kind ≠ .position p }
    onGfx s fun g => { g with passes := tdel g.passes p }

/-- A started command of a discarded pass is gone; a node has ended, and its launch settles without it (R553). -/
def passTaskEnd (s : State) (t : Nat) : State :=
  match taskAt s t with
  | none => s
  | some k =>
    match k.owner with
    | .entry _ _ => onFe s fun y => { y with tasks := tdel y.tasks t }
    | .node _ _ => endBare s t .preemptedDiscarded

/-- A pass is discarded (R203): its groups end at their pre-emption points, and nothing more is handed out or written. -/
def passDiscard (s : State) (p : Nat) : State :=
  match passAt s p with
  | none => s
  | some x =>
    if x.discard then s else
    let s := onPass s p fun x => { x with discard := true, toHand := [], toCompare := [], toCopy := [], held := [] }
    let s := discardItems s none (some p)
    let tasks : List Nat := x.task :: x.draws.map (fun d => d.task) ++ (match x.ending with | some e => [e.2] | none => [])
    tasks.foldl passTaskEnd s

/-- Nothing of a discarded pass is left in a core or raster unit. -/
def passIdle (x : Pass) : Bool := decide (x.out = []) && (match x.batch with | some b => decide (b.running = []) | none => true)

end Sys2Proof.Machine
end

