-- ==== Sys2Proof/Machine/Raster.lean ====
section
/-!
DEFINITION. Machine/Raster.lean: the raster units (08 R242 to R258): tiles in folio memory, visibility, fragment groups, blending,
write-out, the end of a GEOMETRY pass; and the saving of pre-empted blocks and tiles (03 R84, R85).
-/

namespace Sys2Proof.Machine

/-- The tile in a slot of a raster unit. -/
def tileAt (s : State) (c sl : Nat) : Option RTile := tget s.gfx.tiles (c * 16 + sl)
/-- Changes a tile. -/
def onTile (s : State) (c sl : Nat) (f : RTile → RTile) : State :=
  onGfx s fun g => { g with tiles := tupd g.tiles (c * 16 + sl) f }
/-- The tiles that a raster unit holds. -/
def unitTiles (s : State) (c : Nat) : List (Nat × RTile) := s.gfx.tiles.filter fun e => e.1 / 16 = c

/-! ### Folio lines (R242, R243) -/

/-- A raster unit owns the bank. -/
def rasOwns (s : State) (c b : Nat) : Bool := fget s F.FOL_BANK.OWNER c b = 1
/-- The lines of a raster unit's banks, in ascending order: the sequence of R242. -/
def rasLines (s : State) (c : Nat) : List Nat :=
  ((List.range 16).filter fun b => rasOwns s c b).flatMap fun b => upFrom (2048 * b) 2048
/-- The line is not free: a tile occupies it, or its bank is being handed over (R243). -/
def lineTaken (s : State) (c l : Nat) : Bool :=
  flag s F.FOL_BANK.PENDING c (l / 2048) || (unitTiles s c).any fun e => e.2.runs.any fun r => r.1 ≤ l ∧ l < r.1 + r.2

/-- The first n consecutive free lines of a sequence. -/
def freeRun (taken : Nat → Bool) (n : Nat) : List Nat → List Nat → Option (List Nat)
  | run, [] => if n ≤ run.length then some run.reverse else none
  | run, l :: t => if n ≤ run.length then some run.reverse else if taken l then freeRun taken n [] t else freeRun taken n (l :: run) t

/-- A rising list of lines as runs. -/
def runsOf : List Nat → List (Nat × Nat)
  | [] => []
  | l :: t => match runsOf t with
    | (a, n) :: r => if a = l + 1 then (l, n + 1) :: r else (l, 1) :: (a, n) :: r
    | [] => [(l, 1)]

/-- A free slot of a raster unit for tiles of a number of lines: its number and the lines (R242). -/
def tileSlot (s : State) (c lines : Nat) : Option (Nat × List (Nat × Nat)) :=
  if ¬ domOpen s c ∨ fget s F.RAS_CTL.MAX_SLOTS ≤ (unitTiles s c).length then none else
  match (List.range 16).find? (fun k => (tileAt s c k).isNone), freeRun (lineTaken s c) lines [] (rasLines s c) with
  | some k, some l => some (k, runsOf l)
  | _, _ => none

/-- A tile of a class 1 or 2 pass waits for a raster unit. -/
def rasDeadline (s : State) : Bool :=
  s.gfx.passes.any fun e => e.2.toHand ≠ [] ∧ (passCls s e.2 = 1 ∨ passCls s e.2 = 2)

/-- A cluster's raster unit may take a tile of a queue class (03 R80). -/
def clusterRas (s : State) (c cls : Nat) : Bool :=
  let m := fget s F.SCH_RESERVE.CLUSTERS
  if cls = 1 ∨ cls = 2 then decide (m = 0) || bit m c else !(bit m c && rasDeadline s)

/-- Lines of a pass's tile. -/
def tileLines (x : Pass) : Nat := (x.surface.tileBytes x.tile + 127) / 128

/-- The lowest cluster whose raster unit has a free slot for a pass (03 R78). -/
def rasterFor (s : State) (x : Pass) : Option (Nat × Nat × List (Nat × Nat)) :=
  (List.range 16).findSome? fun c =>
    if clusterRas s c (passCls s x) ∧ ¬ recovering s (0xC0 + c) then (tileSlot s c (tileLines x)).map fun k => (c, k) else none

/-- The folio lines of a tile, in order. -/
def RTile.lines (t : RTile) : List Nat := t.runs.flatMap fun r => upFrom r.1 r.2
/-- The bytes that the lines of a tile in cluster c hold. -/
def tileData (s : State) (c : Nat) (t : RTile) : List Byte := t.lines.flatMap fun l => (folRead s c l).1
/-- The numbers of the lines of a tile whose check mismatches. -/
def tileBad (s : State) (c : Nat) (t : RTile) : List Nat :=
  (t.lines.zipIdx.filter fun l => (folRead s c l.1).2).map Prod.snd
/-- The lines of a tile take bytes, each line that changes with a new check; bad names the lines whose check mismatches. -/
def putTile (s : State) (c : Nat) (t : RTile) (old new : List Byte) (bad : List Nat := []) : State :=
  t.lines.zipIdx.foldl (fun s l =>
    let line := (new.drop (128 * l.2)).take 128
    if line = (old.drop (128 * l.2)).take 128 ∧ bad = [] then s
    else folWrite s c l.1 (line ++ zeros (128 - line.length)) (decide (l.2 ∈ bad))) s

/-- The raster unit works on the tile in a slot: f gets the tile with its bytes and gives the new tile and bytes. A line whose check
mismatches fails the pass (13 R388, R390). -/
def workTile (s : State) (c sl : Nat) (f : RTile → RTile) : State :=
  match tileAt s c sl with
  | none => s
  | some t =>
    if tileBad s c t ≠ [] then passFail (countMismatch s) t.pass .integrityMismatch
    else
      let old := tileData s c t
      let t' := f { t with data := old }
      onTile (putTile s c t old t'.data) c sl fun _ => { t' with data := [] }

/-! ### Reading a tile's inputs -/

/-- Accesses of the raster unit of cluster c for a pass; a fault fails the pass (07 R202). -/
def rasRead (s : State) (c p va n : Nat) : Option (List Byte) × State :=
  match passAt s p with
  | none => (none, s)
  | some x =>
    let r := vread s (192 + c) 2 x.fn x.asid x.ctx va n
    if r.1 = .ok then (some r.2.1, r.2.2) else (none, passFail r.2.2 p r.1 va)

/-- A write of the raster unit of cluster c. -/
def rasWrite (s : State) (c p va : Nat) (bs : List Byte) : State :=
  match passAt s p with
  | none => s
  | some x =>
    let w := vwrite s (192 + c) 2 x.fn x.asid x.ctx va bs
    if w.1 = .ok then w.2 else passFail w.2 p w.1 va

/-- Address of a metadata entry (R229). -/
def metaAddr (o : Obj) (f : Surface) (i n : Nat) : Nat := o.base + f.meta_ + 32 * (5 * n + i)
/-- Address of a tile in an attachment's data region. -/
def dataAddr (o : Obj) (f : Surface) (t n : Nat) (a : Att) : Nat := o.base + a.data + n * f.attBytes t a

/-- An attachment's tile is read through its metadata (R254). -/
def loadAtt (s : State) (c p : Nat) (x : Pass) (n i : Nat) (a : Att) : Option (List Byte) × State :=
  let size := x.surface.attBytes x.tile a
  let m := rasRead s c p (metaAddr x.target x.surface i n) 32
  match m.1 with
  | none => m
  | some entry =>
    let d := rasRead m.2 c p (dataAddr x.target x.surface x.tile n a) (storedBytes size entry)
    match d.1 with
    | none => d
    | some bs => (some (decodeTile (fmtBytes a.format) size entry bs), d.2)

/-- A tile's initial contents, attachment by attachment (R244). -/
def initTile (c p : Nat) (x : Pass) (n : Nat) : List (Nat × Att) → State → Option (List Byte) × State
  | [], s => (some [], s)
  | (i, a) :: t, s =>
    let e := fmtBytes a.format
    let r := if (tget x.stored n).isSome ∨ a.load then loadAtt s c p x n i a
             else (some ((List.replicate (x.surface.attBytes x.tile a / e) (a.clear.take e)).flatten), s)
    match r.1 with
    | none => r
    | some bs =>
      let q := initTile c p x n t r.2
      (q.1.map fun l => bs ++ l, q.2)

/-- The records of a list, quire by quire (07 R205, R206). -/
def readList (c p : Nat) (x : Pass) : Nat → Nat → State → Option (List Nat) × State
  | 0, _, s => (some [], s)
  | k + 1, q, s =>
    let r := rasRead s c p (x.quire q) 4096
    match r.1 with
    | none => (none, r.2)
    | some bs =>
      let here := (List.range (Nat.min 504 (fieldAt bs 8 2))).map fun i => fieldAt bs (64 + 8 * i) 8
      let rest := if fieldAt bs 0 4 = 0xFFFF_FFFF then (some [], r.2) else readList c p x k (fieldAt bs 0 4) r.2
      (rest.1.map fun l => here ++ l, rest.2)

/-- Two lists of records in primitive order joined into one. -/
def mergeRecs : Nat → List Nat → List Nat → List Nat
  | 0, a, b => a ++ b
  | _, [], b => b
  | _, a, [] => a
  | k + 1, x :: a, y :: b =>
    if seqBefore (y / 2 ^ 32) (x / 2 ^ 32) then y :: mergeRecs k (x :: a) b else x :: mergeRecs k a (y :: b)

/-- The primitive of a record: its DRAW ordinal and its bytes (08 R237). -/
def fetchPrim (s : State) (c p : Nat) (x : Pass) (r : Nat) : Option TRec × State :=
  let q := x.quire (r % 2 ^ 20)
  let h := rasRead s c p q 128
  match h.1 with
  | none => (none, h.2)
  | some head =>
    let size := fieldAt head 76 2
    let d := rasRead h.2 c p (q + 256 + (r / 2 ^ 20 % 128) * size) size
    (d.1.map fun bs => { seq := r / 2 ^ 32, prim := bs, draw := fieldAt head 72 4 }, d.2)

/-- The primitives of records; wide ones only where their box meets the tile. -/
def fetchPrims (c p : Nat) (x : Pass) (n : Nat) : List Nat → State → Option (List TRec) × State
  | [], s => (some [], s)
  | r :: t, s =>
    if bits r 31 28 ≠ 0 then fetchPrims c p x n t s else
    match fetchPrim s c p x r with
    | (none, s) => (none, s)
    | (some q, s) =>
      let across := x.surface.across x.tile
      let rest := fetchPrims c p x n t s
      (rest.1.map fun l => if boxTile (recBox q.prim) x.tile (n % across) (n / across) then q :: l else l, rest.2)

/-- A tile's records, from its list and the wide list. -/
def tileRecs (s : State) (c p : Nat) (x : Pass) (n : Nat) : Option (List TRec) × State :=
  let l := listOf x n
  let w := listOf x 0xFFFF_FFFF
  match (if l.quires = 0 then (some [], s) else readList c p x l.quires l.first s) with
  | (none, s) => (none, s)
  | (some a, s) =>
    match (if w.quires = 0 then (some [], s) else readList c p x w.quires w.first s) with
    | (none, s) => (none, s)
    | (some b, s) =>
      let a := a.filter fun r => bits r 31 28 = 0
      fetchPrims c p x n (mergeRecs (a.length + b.length) a b) s

/-! ### TILE_HANDOUT (R242, R244, 03 R78, R85) -/

/-- The next tile of a pass that may be handed out: with reuse, its load term has been read (09 R276). -/
def nextTile (x : Pass) : Option Nat :=
  x.toHand.find? fun n => x.reuse.isNone ∨ x.everOut.contains n ∨ (tget x.loadTerms n).isSome

/-- A saved tile of a pass, by key. -/
def savedTile (s : State) (p : Nat) : Option (Nat × RTile) :=
  s.gfx.tiles.find? fun e => 256 ≤ e.1 ∧ e.2.pass = p ∧ e.2.pre = .none

/-- The saved groups of a tile, and those that have exited and whose outputs have not been taken, follow it to another place. -/
def moveGroups (s : State) (a b : BKind) : State :=
  let move (e : Nat × Block) : Nat × Block := if e.2.kind = a then (e.1, { e.2 with kind := b }) else e
  onSc s fun y => { y with saved := y.saved.map move, done := y.done.map move }

/-- A saved tile returns to a slot (03 R85); its groups follow it. -/
def restoreTile (s : State) (key : Nat) (x : RTile) (c sl : Nat) (runs : List (Nat × Nat)) : State :=
  let t := { x with runs := runs, cores := [none, none, none, none], data := [], bad := [] }
  let s := onGfx s fun g => { g with tiles := tset (tdel g.tiles key) (c * 16 + sl) t }
  moveGroups (putTile s c t [] x.data x.bad) (.fragment (key / 16) (key % 16)) (.fragment c sl)

/-- A tile enters a slot. -/
def handTile (s : State) (p : Nat) (x : Pass) (n c sl : Nat) (runs : List (Nat × Nat)) : State :=
  let s := onPass s p fun x => { x with toHand := x.toHand.filter (· ≠ n) }
  match initTile c p x n x.surface.used s with
  | (none, s) => s
  | (some data, s) =>
    match tileRecs s c p x n with
    | (none, s) => s
    | (some recs, s) =>
      let limit := fget s F.RAS_CTL.SPLIT_RECORDS
      let t : RTile := { pass := p, tile := n, runs := runs, recs := recs,
                         split := decide (limit ≠ 0) && decide (limit < recs.length), final := x.closed }
      let s := onGfx (putTile s c t [] data) fun g => { g with
        tiles := tset g.tiles (c * 16 + sl) t
        reuse := match x.reuse with | some k => tdel g.reuse (k * 8192 + n) | none => g.reuse }
      onPass s p fun x => { x with out := nins x.out n, everOut := nins x.everOut n }

/-- The best-ranked tile finds no raster unit: a tile of a lower class that would make room for it is asked to give way (03 R80, R81),
unless one has been asked already (log 129). -/
def requestTile (s : State) (x : Pass) : State :=
  let cls := passCls s x
  let makesRoom (e : Nat × RTile) : Bool :=
    e.1 < 256 && (match passAt s e.2.pass with | some y => decide (classRank cls < classRank (passCls s y)) | none => false)
      && (rasterFor (onGfx s fun g => { g with tiles := tdel g.tiles e.1 }) x).isSome
  match s.gfx.tiles.filter makesRoom with
  | [] => s
  | e :: l =>
    if (e :: l).any fun y => decide (y.2.pre ≠ .none) then s
    else onTile s (e.1 / 16) (e.1 % 16) fun t => { t with pre := .requested }

/-- Passes with a tile ready for a raster unit, best rank first. -/
def tilesReady (s : State) : List (Nat × Pass) :=
  sortBy (fun x => passScore s .raster x.2)
    (s.gfx.passes.filter fun e => ¬ e.2.discard ∧ ((savedTile s e.1).isSome ∨ (¬ e.2.failed ∧ (nextTile e.2).isSome)))

/-- The first pass in rank order whose tile finds a raster unit hands it out; a pass that has lost the last place it could take is charged
a blocked step (03 R102). -/
def handFirst (all : List (Nat × Pass)) : List (Nat × Pass) → State → State
  | [], s => s
  | (p, x) :: rest, s =>
    match rasterFor s x with
    | none => handFirst all rest s
    | some (c, sl, runs) =>
      let served := servePass s .raster x []
      let done (s' : State) : State := (all.filter fun y => y.1 ≠ p ∧ (rasterFor s y.2).isSome ∧ (rasterFor s' y.2).isNone).foldl
        (fun s y => chargeBlocked s y.2.ctx x.ctx 1) s'
      match savedTile s p, nextTile x with
      | some e, _ => done (restoreTile served e.1 e.2 c sl runs)
      | none, some n => done (handTile served p x n c sl runs)
      | none, none => handFirst all rest s

/-- TILE_HANDOUT. -/
def execTileHandout (s : State) : Out :=
  engineStep s fun s =>
    let s := handFirst (tilesReady s) (tilesReady s) s
    match (tilesReady s).find? fun x => (rasterFor s x.2).isNone with
    | some (_, x) => requestTile s x
    | none => s

/-! ### Coverage and depth (R239, R240, R247) -/

/-- Sample positions in 1/16 pixel. -/
def samplePos (samples : Nat) : List (Nat × Nat) :=
  match samples with
  | 1 => [(8, 8)]
  | 2 => [(4, 4), (12, 12)]
  | 4 => [(6, 2), (14, 6), (2, 10), (10, 14)]
  | _ => [(7, 3), (3, 6), (12, 5), (9, 9), (5, 13), (1, 10), (14, 14), (11, 1)]

/-- The plane at offset a of a record, at a point in 1/16 pixel (R238). -/
def planeAt (r : List Byte) (a : Nat) (x y : Int) : Nat :=
  fFma (fieldAt r a 4) (fInt x (-4)) (fFma (fieldAt r (a + 4) 4) (fInt y (-4)) (fieldAt r (a + 8) 4))

/-- z_s of a record at a point (R235). -/
def zAt (d : DrawState) (r : List Byte) (x y : Int) : Nat :=
  let z := planeAt r 40 x y
  if bit d.raster 3 then fClamp z else z

/-- Sample k of a pixel, in 1/16 pixel. -/
def sampleAt (samples px py k : Nat) : Int × Int :=
  let o := (samplePos samples).getD k (8, 8)
  (((px * 16 + o.1 : Nat) : Int), ((py * 16 + o.2 : Nat) : Int))

/-- The coverage mask of a pixel (R240). -/
def pixelCover (d : DrawState) (f : Surface) (tri : List (Int × Int)) (px py : Nat) : Nat :=
  let inside : Bool := decide (px < f.width ∧ py < f.height)
    && (!bit d.raster 4 || decide (d.scissor 0 ≤ px ∧ px < d.scissor 2 ∧ d.scissor 1 ≤ py ∧ py < d.scissor 3))
  if ¬ inside then 0 else
  (List.range f.samples).foldl (fun m k =>
    let q := sampleAt f.samples px py k
    if covers tri (q.1 * 16) (q.2 * 16) then m + 2 ^ k else m) 0

/-- The unit r of the depth bias; free stands for it where the largest z_s is 0, which has no exponent (log 17). The z_s of a vertex is
what the depth plane gives there, before any clamp: the record holds no other (log 132). -/
def biasUnit (format free : Nat) (r : List Byte) : Nat :=
  if format = 0x21 then Dy.code Fmt.b32 .ties ⟨1, -24⟩
  else
    let zs := (List.range 3).map fun k =>
      let v := recVtx r k
      fFma (fieldAt r 40 4) (fInt v.1 (-8)) (fFma (fieldAt r 44 4) (fInt v.2 (-8)) (fieldAt r 48 4)) % 2 ^ 31
    match Fmt.b32.decode (maxD zs) with
    | .num _ m e => if m = 0 then free % 2 ^ 31 else Dy.code Fmt.b32 .ties ⟨1, lead m e - 23⟩
    | _ => free % 2 ^ 31

/-- The greater of two binary32 magnitudes. -/
def maxAbs (a b : Nat) : Nat := Nat.max (a % 2 ^ 31) (b % 2 ^ 31)

/-- The depth that a sample is tested with (R247): z_s biased and clamped. -/
def depthOf (format free : Nat) (d : DrawState) (r : List Byte) (x y : Int) : Nat :=
  let bias := fAdd (fMul (fieldAt d.bytes 72 4) (biasUnit format free r))
    (fMul (fieldAt d.bytes 76 4) (maxAbs (fieldAt r 40 4) (fieldAt r 44 4)))
  fClamp (fAdd (zAt d r x y) bias)

/-- The stored code of a depth, and the depth part of an element. -/
def depthCode (format z : Nat) : Nat := if format = 0x21 then (Chan.unorm 24).encode z else z
def depthPart (format v : Nat) : Nat := if format = 0x21 then v % 2 ^ 24 else v % 2 ^ 32
/-- The stencil part of an element. -/
def stencilPart (format v : Nat) : Nat := if format = 0x21 then v / 2 ^ 24 % 256 else v / 2 ^ 32 % 256
/-- An element of a depth and a stencil value. -/
def depthElem (format z st : Nat) : Nat :=
  if format = 0x21 then z % 2 ^ 24 + st % 256 * 2 ^ 24 else if format = 0x22 then z % 2 ^ 32 + st % 256 * 2 ^ 32 else z % 2 ^ 32

/-- A comparison code (R247). A NaN is none of less, equal and greater. -/
def cmpCode (code : Nat) (less equal greater : Bool) : Bool :=
  match code with
  | 0 => false
  | 1 => less
  | 2 => equal
  | 3 => less || equal
  | 4 => greater
  | 5 => !equal
  | 6 => greater || equal
  | _ => true

/-- A new depth compares with a stored one: as codes of D24S8, as binary32 numbers of D32F. -/
def cmpDepth (format code new old : Nat) : Bool :=
  if format = 0x21 then cmpCode code (new < old) (new = old) (old < new)
  else cmpCode code (fLess new old) ((Fmt.b32.cmp .eq false new old).1 = 1) (fLess old new)

/-- A stencil operation on a stored value (R247). -/
def stencilOp (code ref v : Nat) : Nat :=
  match code with
  | 0 => v
  | 1 => 0
  | 2 => ref
  | 3 => Nat.min 255 (v + 1)
  | 4 => v - 1
  | 5 => 255 - v
  | 6 => (v + 1) % 256
  | _ => (v + 255) % 256

/-- What the tests of a sample say (R247): whether it passes, and the depth-stencil element that would be stored. -/
def testSample (d : DrawState) (format : Nat) (back : Bool) (z elem : Nat) : Bool × Nat :=
  if format = 0 then (true, elem) else
  let st := stencilPart format elem
  let k (b : Nat) := d.stencil back b
  let sten : Bool := hasStencil format && bit (k 7) 0
  let refv := k 6 &&& k 4
  let sv := st &&& k 4
  let sPass : Bool := !sten || cmpCode (k 0) (refv < sv) (refv = sv) (sv < refv)
  let old := depthPart format elem
  let new := depthCode format z
  let test := bit d.depth 3
  let dPass : Bool := !test || cmpDepth format (d.depth % 8) new old
  let op := if ¬ sPass then k 1 else if ¬ dPass then k 2 else k 3
  let stNew := if sten then (without st (k 5)) ||| (stencilOp op (k 6) st &&& k 5) else st
  let zNew := if sPass ∧ dPass ∧ test ∧ bit d.depth 4 then new else old
  (sPass && dPass, depthElem format zNew stNew)

/-! ### Records (R245, R246) -/

/-- The colour attachments of a surface and their index. -/
def Surface.colours (f : Surface) : List (Nat × Att) := f.used.filter fun x => x.1 < 4
/-- The depth attachment. -/
def Surface.depthAtt (f : Surface) : Option Att := (f.used.find? fun x => x.1 = 4).map Prod.snd

/-- A primitive of this state is OPAQUE (R245). -/
def opaqueState (d : DrawState) (f : Surface) : Bool :=
  d.fragFlags % 8 = 0 ∧ (d.frag.isNone ∨ f.colours.all fun x => ¬ bit (d.blend x.1 0) 0 ∧ bits (d.blend x.1 0) 7 4 = 15)

/-- The format and first offset of the depth attachment in a tile; format 0 where there is none. -/
def depthSpot (x : Pass) : Nat × Nat × Nat :=
  match x.surface.depthAtt with
  | some a => (a.format, x.surface.attStart x.tile 4, fmtBytes a.format)
  | none => (0, 0, 0)

/-- The pixels of a tile that a record's box meets, relative to the tile. -/
def tilePixels (x : Pass) (n : Nat) (r : List Byte) : List (Nat × Nat) :=
  let across := x.surface.across x.tile
  let ox := n % across * x.tile
  let oy := n / across * x.tile
  let b := recBox r
  (List.range x.tile).flatMap fun j =>
    if b.2.1 ≤ oy + j ∧ oy + j ≤ b.2.2.2 then
      ((List.range x.tile).filter fun i => b.1 ≤ ox + i ∧ ox + i ≤ b.2.2.1).map fun i => (i, j)
    else []

/-- Tile origin in pixels. -/
def tileOrigin (x : Pass) (n : Nat) : Nat × Nat :=
  (n % x.surface.across x.tile * x.tile, n / x.surface.across x.tile * x.tile)

/-- One covered sample of a primitive is tested; write says whether the outcome is stored. -/
def sampleTest (x : Pass) (d : DrawState) (free : Nat) (r : TRec) (n i j k : Nat) (data : List Byte) : Bool × Nat × Nat :=
  let dep := depthSpot x
  let o := tileOrigin x n
  let q := sampleAt x.surface.samples (o.1 + i) (o.2 + j) k
  let z := depthOf dep.1 free d r.prim q.1 q.2
  let elem := tileElem data dep.2.1 dep.2.2 (elemIndex x.tile k i j)
  let t := testSample d dep.1 (bit (fieldAt r.prim 4 4) 28) z elem
  (t.1, t.2, z)

/-- A depth-stencil element is stored. -/
def putDepth (x : Pass) (i j k v : Nat) (data : List Byte) : List Byte :=
  let dep := depthSpot x
  if dep.1 = 0 then data else putElem data dep.2.1 dep.2.2 (elemIndex x.tile k i j) v

/-- The covered samples of a pixel go through the tests: the samples that pass, their depths, the new data. A failing sample's
stencil is stored at once; a passing one's element only where now says so. -/
def pixelTests (x : Pass) (d : DrawState) (free : Nat) (r : TRec) (n i j cover : Nat) (now : Bool) (data : List Byte) :
    Nat × List Nat × List Byte :=
  (List.range x.surface.samples).foldl (fun (acc : Nat × List Nat × List Byte) k =>
    if ¬ bit cover k then (acc.1, acc.2.1 ++ [0], acc.2.2) else
    let t := sampleTest x d free r n i j k acc.2.2
    (if t.1 then acc.1 + 2 ^ k else acc.1, acc.2.1 ++ [t.2.2], if t.1 ∧ ¬ now then acc.2.2 else putDepth x i j k t.2.1 acc.2.2))
    (0, [], data)

/-- The visible primitive of each pixel's samples: key (j * t + i) * 8 + sample, value index of the record in the run. -/
abbrev Visible := Tbl Nat

/-- One OPAQUE primitive of a run (R246 step 1). One without a fragment program changes depth and stencil and has no colour: what was
visible at a sample stays so. -/
def opaquePrim (x : Pass) (n free : Nat) (acc : Visible × List Byte) (q : TRec × Nat) : Visible × List Byte :=
  match x.draws[q.1.draw]? with
  | none => acc
  | some d =>
    let o := tileOrigin x n
    let tri := recTri q.1.prim
    (tilePixels x n q.1.prim).foldl (fun (acc : Visible × List Byte) ij =>
      let c := pixelCover d.state x.surface tri (o.1 + ij.1) (o.2 + ij.2)
      if c = 0 then acc else
      let t := pixelTests x d.state free q.1 n ij.1 ij.2 c true acc.2
      let vis := (List.range x.surface.samples).foldl (fun v k =>
        if bit t.1 k ∧ d.state.frag.isSome then tset v ((ij.2 * x.tile + ij.1) * 8 + k) q.2 else v) acc.1
      (vis, t.2.2)) acc

/-! ### Fragments (R246, R248) -/

/-- A fragment before its group: pixel relative to the tile, coverage, depths, shading position in 1/16 pixel. -/
structure Cand where
  i : Nat
  j : Nat
  cover : Nat
  zs : List Nat
  pos : Nat
  deriving DecidableEq, Repr, Inhabited

/-- The fragments of a coverage: one, or one per sample under SAMPLE_RATE. pos is 8 for the pixel centre, else the sample. -/
def candsOf (d : DrawState) (samples i j cover : Nat) (zs : List Nat) : List Cand :=
  if bit d.fragFlags 3 then
    ((List.range samples).filter fun k => bit cover k).map fun k => { i := i, j := j, cover := 2 ^ k, zs := zs, pos := k }
  else [{ i := i, j := j, cover := cover, zs := zs, pos := 8 }]

/-- The registers of a lane (R248). -/
def laneRegs (x : Pass) (d : DrawState) (r : TRec) (px py cover pos : Nat) (helper : Bool) : List (Nat × Nat) :=
  let q := if pos = 8 then (((px * 16 + 8 : Nat) : Int), ((py * 16 + 8 : Nat) : Int)) else sampleAt x.surface.samples px py pos
  let w := planeAt r.prim 52 q.1 q.2
  [(0, px + py * 2 ^ 16), (1, fieldAt r.prim 0 4),
   (2, cover + 256 * b2n (bit (fieldAt r.prim 4 4) 28) + 512 * b2n helper),
   (3, zAt d r.prim q.1 q.2), (6, fieldAt r.prim 4 4 % 2 ^ 28)]
    ++ (List.range d.vary).map fun v => (24 + v, fDiv (planeAt r.prim (64 + 12 * v) q.1 q.2) w)

/-- The quads of one primitive at one shading position, as lanes; frag numbers follow from first on in the order of cands. -/
def quadsOf (x : Pass) (n : Nat) (d : DrawState) (r : TRec) (cands : List (Cand × Nat)) : List (List FLane) :=
  let o := tileOrigin x n
  let keys := (cands.map fun c => (c.1.pos, c.1.j / 2, c.1.i / 2)).eraseDups
  keys.map fun key =>
    (List.range 4).map fun l =>
      let i := 2 * key.2.2 + l % 2
      let j := 2 * key.2.1 + l / 2
      let px := o.1 + i
      let py := o.2 + j
      match cands.find? (fun c => c.1.pos = key.1 ∧ c.1.i = i ∧ c.1.j = j) with
      | some c => { frag := some c.2, seq := r.seq, x := px, y := py, cover := c.1.cover,
                    regs := laneRegs x d r px py c.1.cover key.1 false }
      | none => { frag := none, seq := r.seq, x := px, y := py, cover := 0, regs := laneRegs x d r px py 0 key.1 true }

/-- The quadrant of a lane's pixel in a split tile (R249). -/
def quadrantOf (x : Pass) (n : Nat) (l : FLane) : Nat :=
  let o := tileOrigin x n
  (if o.1 + x.tile / 2 ≤ l.x then 1 else 0) + (if o.2 + x.tile / 2 ≤ l.y then 2 else 0)

/-- Consecutive quads of one DRAW and quadrant are packed, 8 to a group (R248, R249). -/
def packQuads (x : Pass) (t : RTile) (draw : Nat) (quads : List (List FLane)) : List FGroup :=
  let quad (q : List FLane) : Nat := if t.split then quadrantOf x t.tile (q.headD default) else 0
  (List.range 4).flatMap fun k =>
    (chunks 8 (quads.filter fun q => quad q = k)).map fun g => { draw := draw, quadrant := k, lanes := g.flatten }

/-- The fragments of a primitive join its tile; the quads they make. -/
def addFrags (x : Pass) (d : DrawState) (r : TRec) (cands : List Cand) (late late2 : Bool) (acc : RTile × List (List FLane)) :
    RTile × List (List FLane) :=
  let t := acc.1
  let o := tileOrigin x t.tile
  let num := cands.zipIdx.map fun c => (c.1, t.nextFrag + c.2)
  let back := bit (fieldAt r.prim 4 4) 28
  let mk (c : Cand × Nat) : Frag :=
    { id := c.2, seq := r.seq, draw := r.draw, x := o.1 + c.1.i, y := o.2 + c.1.j, cover := c.1.cover, back := back,
      zs := c.1.zs, late := late, late2 := late2 }
  let frags := num.map mk
  if d.frag.isNone then acc
  else ({ t with frags := t.frags ++ frags, nextFrag := t.nextFrag + cands.length }, acc.2 ++ quadsOf x t.tile d r num)

/-- The quads of a run become groups, DRAW by DRAW. -/
def addGroups (x : Pass) (draw : Nat) (acc : RTile × List (List FLane)) : RTile :=
  { acc.1 with groups := acc.1.groups ++ packQuads x acc.1 draw acc.2 }

/-- The visible samples of a run's primitive become fragments (R246 step 2). -/
def visibleCands (x : Pass) (d : DrawState) (vis : Visible) (idx : Nat) : List Cand :=
  (List.range (x.tile * x.tile)).flatMap fun px =>
    let cover := (List.range x.surface.samples).foldl (fun m k => if tget vis (px * 8 + k) = some idx then m + 2 ^ k else m) 0
    if cover = 0 then [] else candsOf d x.surface.samples (px % x.tile) (px / x.tile) cover []

/-- A run of OPAQUE primitives (R246 steps 1 and 2). -/
def opaqueRun (x : Pass) (t : RTile) (free : Nat) (run : List TRec) : RTile :=
  let v := run.zipIdx.foldl (opaquePrim x t.tile free) ([], t.data)
  let t := { t with data := v.2 }
  let draws := (run.map fun r => r.draw).eraseDups
  draws.foldl (fun t dn =>
    match x.draws[dn]? with
    | none => t
    | some d =>
      let mine := run.zipIdx.filter fun q => q.1.draw = dn
      addGroups x dn (mine.foldl (fun acc q => addFrags x d.state q.1 (visibleCands x d.state v.1 q.2) false false acc) (t, []))) t

/-- An ORDERED primitive (R246 step 3): its tests run before shading unless WRITES_DEPTH is set, and under DISCARDS what the
passing samples store waits for the final coverage. -/
def orderedPrim (x : Pass) (t : RTile) (free : Nat) (r : TRec) : RTile :=
  match x.draws[r.draw]? with
  | none => t
  | some d =>
    let late2 := bit d.state.fragFlags 1 && d.state.frag.isSome
    let late := bit d.state.fragFlags 0 && d.state.frag.isSome
    let o := tileOrigin x t.tile
    let tri := recTri r.prim
    let step (acc : List Cand × List Byte) (ij : Nat × Nat) : List Cand × List Byte :=
      let c := pixelCover d.state x.surface tri (o.1 + ij.1) (o.2 + ij.2)
      if c = 0 then acc
      else if late2 then (acc.1 ++ candsOf d.state x.surface.samples ij.1 ij.2 c [], acc.2)
      else
        let q := pixelTests x d.state free r t.tile ij.1 ij.2 c (!late) acc.2
        (if q.1 = 0 then acc.1 else acc.1 ++ candsOf d.state x.surface.samples ij.1 ij.2 q.1 q.2.1, q.2.2)
    let v := (tilePixels x t.tile r.prim).foldl step ([], t.data)
    addGroups x r.draw (addFrags x d.state r v.1 late late2 ({ t with data := v.2 }, []))

/-- The state of a record's DRAW makes it OPAQUE. -/
def recOpaque (x : Pass) (r : TRec) : Bool :=
  match x.draws[r.draw]? with | some d => opaqueState d.state x.surface | none => true

/-! ### Placing fragment groups (R249, 03 R78) -/

/-- Registers of a fragment group at its first instruction (R248). -/
def fragmentGroup (x : Pass) (d : PassDraw) (n slot : Nat) (g : FGroup) : Group :=
  let w (n : Nat) : W32 := BitVec.ofNat 32 n
  let o := tileOrigin x n
  let put (v : Tbl W32) (l : FLane × Nat) : Tbl W32 := l.1.regs.foldl (fun v r => tset v (r.1 * 32 + l.2) (w r.2)) v
  { slot := slot, idx := 0,
    threads := (List.range 32).map fun t => { live := decide (t < g.lanes.length) },
    v := g.lanes.zipIdx.foldl put [],
    sr := [(0, w o.1), (1, w o.2), (4, w d.state.const), (5, w (d.state.const / 2 ^ 32)), (6, w g.draw)] }


/-- The core of a quadrant is bound. -/
def bindCore (t : RTile) (quadrant k : Nat) : RTile := { t with cores := t.cores.set quadrant (some k) }

/-- The first saved or waiting group of a tile enters a core of its cluster: the one its quadrant is bound to, or, for the first of the
quadrant, the lowest that can hold it; otherwise lower work there is asked to give way (03 R80, R81). -/
def placeFragment (c sl : Nat) (s : State) : State :=
  match tileAt s c sl with
  | none => s
  | some t =>
    match passAt s t.pass with
    | none => s
    | some x =>
      if t.pre = .saving ∨ 16 ≤ c then s else
      match nextFragment s (c * 16 + sl) x t with
      | none => s
      | some (quadrant, prog) =>
        match fragCore s c t quadrant (passCls s x) prog with
        | none => preemptFor s (passCls s x) fun s k =>
            decide (k / 8 = c) && (match t.cores.getD quadrant none with | some b => decide (k = b) | none => true) && coreHolds s k prog 1 0
        | some k =>
          let before := s
          match s.sc.saved.find? (fun e => e.2.kind = .fragment c sl), t.groups with
          | some e, _ => chargeCores before (onTile (restoreBlock s e.1 e.2 k) c sl fun t => bindCore t quadrant k) x.ctx
          | none, g :: rest =>
            match x.draws[g.draw]? with
            | none => s
            | some d =>
              let slot := (freeSlots s k 1).headD 0
              let b := newBlock s { kind := .fragment c sl, core := k, fn := x.fn, ctx := x.ctx, asid := x.asid, q := x.q,
                                    cls := passCls s x, prog := prog, nGroups := 1, localKib := 0,
                                    groups := [fragmentGroup x d t.tile slot g], fragFlags := d.state.fragFlags,
                                    frags := g.lanes.map fun l => (l.seq, l.x, l.y, l.cover) }
              let place (f : Frag) : Frag :=
                match g.lanes.findIdx? (fun l => l.frag = some f.id) with
                | some i => { f with block := b.1, thread := i }
                | none => f
              chargeCores before (onTile b.2 c sl fun t => { bindCore t quadrant k with groups := rest, frags := t.frags.map place }) x.ctx
          | none, [] => s

/-- Every tile in a raster unit tries its first waiting group, in the rank order of the passes (03 R79). -/
def placeFragments (s : State) : State :=
  let score (e : Nat × RTile) : Nat := match passAt s e.2.pass with | some x => passScore s .raster x | none => 0
  ((sortBy score s.gfx.tiles).map Prod.fst).foldl (fun s k => placeFragment (k / 16) (k % 16) s) s

/-- ITEM_PLACE (03 R74 to R81): an engine class places one item; the Collator's position groups and the raster units' fragment
groups that wait are placed as far as cores can hold them. -/
def execItemPlace (e : Eng) (s : State) : Out :=
  unitStep s 0x113 fun s =>
    match e with
    | .collator => ((passesBy s .collator fun _ => true).map Prod.fst).foldl placePositions s
    | .raster => placeFragments s
    | _ => itemPlace s e

/-- The raster unit reads the state objects of the DRAWs of a run again (R227); true: one of them is no longer what its check read,
which makes the tile's contents undefined. -/
def statesChanged (s : State) (c p : Nat) (ds : List PassDraw) : Bool × State :=
  ds.foldl (fun a d =>
    let r := rasRead a.2 c p d.state.base d.state.bytes.length
    (a.1 || decide (r.1 ≠ some d.state.bytes), r.2)) (false, s)

/-- TILE_RECORD_RUN (R246): the tile in a slot processes its next run of OPAQUE records, or one ORDERED record, once no fragment's
depth and stencil are outstanding. A state object written since its check leaves a free value in the tile (R227). -/
def execTileRecordRun (c sl : Nat) (s : State) : Out :=
  unitStep s (0xC0 + c) fun s =>
    match tileAt s c sl with
    | none => s
    | some t =>
      match t.recs, passAt s t.pass with
      | r :: rest, some x =>
        if 16 ≤ c ∨ t.pre = .saving ∨ t.frags.any (fun f => f.late ∨ f.late2) then s else
        let free := Config.free s.freeCtr
        let s := { s with freeCtr := s.freeCtr + 1 }
        let run := if recOpaque x r then t.recs.takeWhile (recOpaque x) else [r]
        let v := statesChanged s c t.pass ((run.map fun r => r.draw).eraseDups.filterMap fun n => x.draws[n]?)
        let s := workTile v.2 c sl fun t =>
          let t := if recOpaque x r then opaqueRun x { t with recs := t.recs.drop run.length } free run
            else orderedPrim x { t with recs := rest } free r
          if v.1 then { t with data := natLe free t.data.length } else t
        placeFragment c sl s
      | _, _ => s

/-! ### Blending (R250) -/

/-- A blend factor for channel ch: source, destination, constant channels. -/
def blendFactor (code ch : Nat) (src dst const : List Nat) : Nat :=
  let sa := src.getD 3 0
  let da := dst.getD 3 0
  let inv (v : Nat) : Nat := fSub fOne v
  match code with
  | 0 => 0
  | 1 => fOne
  | 2 => src.getD ch 0
  | 3 => inv (src.getD ch 0)
  | 4 => dst.getD ch 0
  | 5 => inv (dst.getD ch 0)
  | 6 => sa
  | 7 => inv sa
  | 8 => da
  | 9 => inv da
  | 10 => const.getD ch 0
  | 11 => inv (const.getD ch 0)
  | _ => if ch = 3 then fOne else (Fmt.b32.minmax false false sa (inv da)).1

/-- A blended channel. -/
def blendChan (d : DrawState) (i ch : Nat) (src dst : List Nat) : Nat :=
  let const := (List.range 4).map fun k => fieldAt d.bytes (80 + 4 * k) 4
  let codes := d.blend i (if ch = 3 then 2 else 1)
  let op := if ch = 3 then bits (d.blend i 3) 5 3 else bits (d.blend i 3) 2 0
  let sv := src.getD ch 0
  let dv := dst.getD ch 0
  let a := fMul sv (blendFactor (codes % 16) ch src dst const)
  let b := fMul dv (blendFactor (codes / 16 % 16) ch src dst const)
  match op with
  | 0 => fAdd a b
  | 1 => fSub a b
  | 2 => fSub b a
  | 3 => (Fmt.b32.minmax false false sv dv).1
  | _ => (Fmt.b32.minmax true false sv dv).1

/-- Channels of a new element under a write mask, the others as they stand. -/
def maskChans : List Chan → Nat → Nat → Nat → Nat → Nat
  | [], _, _, _, _ => 0
  | c :: t, ch, mask, old, new =>
    (if bit mask ch then new else old) % 2 ^ c.bits + 2 ^ c.bits * maskChans t (ch + 1) mask (old / 2 ^ c.bits) (new / 2 ^ c.bits)

/-- One sample of one colour target takes a fragment's output. -/
def blendSample (x : Pass) (d : DrawState) (free i j k : Nat) (outs : List Nat) (data : List Byte) (ia : Nat × Att) : List Byte :=
  let fmt := ia.2.format
  let start := x.surface.attStart x.tile ia.1
  let idx := elemIndex x.tile k i j
  let old := tileElem data start (fmtBytes fmt) idx
  let src := (List.range 4).map fun c => outs.getD (8 + 4 * ia.1 + c) 0
  let dst := decodeElem fmt old free
  let res := if bit (d.blend ia.1 0) 0 then (List.range 4).map fun c => blendChan d ia.1 c src dst else src
  putElem data start (fmtBytes fmt) idx (maskChans (fmtChans fmt) 0 (bits (d.blend ia.1 0) 7 4) old (encodeElem fmt res))

/-- A fragment's output is applied to its tile (R246, R250). -/
def blendFrag (x : Pass) (t : RTile) (f : Frag) (free : Nat) (outs : List Nat) : RTile :=
  let t := { t with frags := t.frags.filter fun g => g.id ≠ f.id }
  match x.draws[f.draw]? with
  | none => t
  | some d =>
    let o := tileOrigin x t.tile
    let i := f.x - o.1
    let j := f.y - o.2
    let final := if outs = [] then 0 else if bit d.state.fragFlags 0 then f.cover &&& (outs.getD 2 0 % 256) else f.cover
    let dep := depthSpot x
    let data := (List.range x.surface.samples).foldl (fun data k =>
      if ¬ bit final k then data else
      let elem := tileElem data dep.2.1 dep.2.2 (elemIndex x.tile k i j)
      let z := if f.late2 then fClamp (outs.getD 7 0) else f.zs.getD k 0
      let r := if f.late ∨ f.late2 then testSample d.state dep.1 f.back z elem else (true, elem)
      let data := if f.late ∨ f.late2 then putDepth x i j k r.2 data else data
      if r.1 then x.surface.colours.foldl (blendSample x d.state free i j k outs) data else data) t.data
    { t with data := data }

/-- Fragment a comes before fragment b at a sample. -/
def fragFirst (a b : Frag) : Bool := a.x = b.x ∧ a.y = b.y ∧ a.cover &&& b.cover ≠ 0 ∧ seqBefore a.seq b.seq

/-- Outputs of fragment groups of a tile that no fragment waits for any more are forgotten. -/
def dropDone (s : State) (c sl : Nat) : State :=
  match tileAt s c sl with
  | none => s
  | some t => onSc s fun y => { y with done := y.done.filter fun e => e.2.kind ≠ .fragment c sl ∨ t.frags.any fun f => f.block = e.1 }

/-- FRAGMENT_OUTPUT_BLEND (R250): the first fragment of the tile whose output is ready and that waits for no earlier one. -/
def execFragmentOutputBlend (c sl : Nat) (s : State) : Out :=
  unitStep s (0xC0 + c) fun s =>
    match tileAt s c sl with
    | none => s
    | some t =>
      match passAt s t.pass with
      | none => s
      | some x =>
        if 16 ≤ c ∨ t.pre = .saving then s else
        match t.frags.find? (fun f => (fragOuts s f).isSome ∧ ¬ t.frags.any fun g => fragFirst g f) with
        | none => s
        | some f =>
          let k := takeFree s (2 ^ 32)
          dropDone (workTile k.2 c sl fun t => blendFrag x t f k.1 ((fragOuts s f).getD [])) c sl

/-! ### Fragment instructions (R248, R251) -/

/-- DISCARD (R248): the threads end with coverage 0. -/
def execDiscard (core pipe steps : Nat) (s : State) : Out :=
  issue s core pipe [] true fun s i =>
    match i.blk.kind with
    | .fragment _ _ => if bit i.blk.fragFlags 0 then exitThreads s i steps true else parkAt s i .badOpcode
    | _ => parkAt s i .badOpcode

/-- ST_ORDERED (R251): size, address register, data register. -/
def execStOrdered (core pipe n addr src : Nat) (s : State) : Out :=
  issue s core pipe [(addr, 2), (src, sizeWords n)] false fun s i =>
    if (SIns.memory .store n 0 addr src false false false).exists i.blk.prog then
      issueMem s i .store n 0 addr src false false false true
    else parkAt s i .badOpcode

/-! ### Write-out (R252 to R254, R257) -/

/-- A stored attachment tile: data region and metadata. -/
def storeAtt (s : State) (c p : Nat) (x : Pass) (n i : Nat) (a : Att) (data : List Byte) : State :=
  let e := encodeTile (fmtBytes a.format) a.clear data
  let s := rasWrite s c p (dataAddr x.target x.surface x.tile n a) e.2.2
  rasWrite s c p (metaAddr x.target x.surface i n) (metaEntry a.clear e.1 e.2.1)

/-- The average of a pixel's samples, or sample 0 of RED32_UINT (R252). -/
def resolvePixel (x : Pass) (a : Att) (data : List Byte) (px : Nat) : List Byte :=
  let e := fmtBytes a.format
  let t2 := x.tile * x.tile
  let at_ (k : Nat) : Nat := fieldAt data ((k * t2 + px) * e) e
  if a.format = 0x0C then natLe (at_ 0) e
  else
    let n := x.surface.samples
    let chans := (fmtChans a.format).length
    let sum := (upFrom 1 (n - 1)).foldl (fun acc k => (acc.zip (decodeElem a.format (at_ k) 0)).map fun p => fAdd p.1 p.2)
      (decodeElem a.format (at_ 0) 0)
    natLe (encodeElem a.format ((sum.take chans).map fun v => fDiv v (fInt n))) e

/-- The resolve region's tile. -/
def resolveAtt (s : State) (c p : Nat) (x : Pass) (n : Nat) (a : Att) (data : List Byte) : State :=
  let size := x.tile * x.tile * fmtBytes a.format
  rasWrite s c p (x.target.base + a.resolve + n * size) ((List.range (x.tile * x.tile)).flatMap (resolvePixel x a data))

/-- An attachment is written under its STORE_OP (R252). -/
def writeAtt (c p : Nat) (x : Pass) (t : RTile) (bytes : List Byte) (s : State) (ia : Nat × Att) : State :=
  let data := (bytes.drop (x.surface.attStart x.tile ia.1)).take (x.surface.attBytes x.tile ia.2)
  let s := if ia.2.store = 1 then resolveAtt s c p x t.tile ia.2 data else s
  if ia.2.store = 0 ∨ ¬ t.final then storeAtt s c p x t.tile ia.1 ia.2 data else s

/-- No group of the tile is resident or saved. -/
def tileQuiet (s : State) (c sl : Nat) (t : RTile) : Bool :=
  t.recs = [] ∧ t.groups = [] ∧ t.frags = [] ∧ ¬ s.sc.blocks.any (fun e => e.2.kind = .fragment c sl)
    ∧ ¬ s.sc.saved.any fun e => e.2.kind = .fragment c sl

/-- The tile leaves its slot. -/
def freeTile (s : State) (c sl : Nat) (t : RTile) : State :=
  let s := onSc s fun y => { y with done := y.done.filter fun e => e.2.kind ≠ .fragment c sl }
  onPass (onGfx s fun g => { g with tiles := tdel g.tiles (c * 16 + sl) }) t.pass fun x => { x with out := ndel x.out t.tile }

/-- A tile of a discarded pass leaves once its groups have ended. -/
def dropTile (s : State) (c sl : Nat) (t : RTile) : State :=
  if s.sc.blocks.any (fun e => e.2.kind = .fragment c sl) ∨ s.sc.saved.any (fun e => e.2.kind = .fragment c sl) then s
  else freeTile s c sl t

/-- TILE_WRITE_OUT (R252, R258). -/
def execTileWriteOut (c sl : Nat) (s : State) : Out :=
  unitStep s (0xC0 + c) fun s =>
    match tileAt s c sl with
    | none => s
    | some t =>
      match passAt s t.pass with
      | none => freeTile s c sl t
      | some x =>
        if x.discard then dropTile s c sl t
        else if 16 ≤ c ∨ t.written ∨ t.pre = .saving ∨ ¬ tileQuiet s c sl t then s
        else
          -- a line whose check mismatches fails the pass (13 R388, R390)
          let s := if tileBad s c t ≠ [] then passFail (countMismatch s) t.pass .integrityMismatch
            else x.surface.used.foldl (writeAtt c t.pass x t (tileData s c t)) s
          onTile s c sl fun t => { t with written := true }

/-- The final signature of a tile (09 R269). -/
def signature (x : Pass) (n : Nat) : Nat :=
  let run := (listOf x n).crc.getD (foldStart x.passTerm)
  crc64Step run (tgetD x.loadTerms n []) ^^^ (2 ^ 64 - 1)

/-- A tile's reuse entry takes its signature. -/
def truSet (s : State) (x : Pass) (n : Nat) : State :=
  match x.reuse with
  | none => s
  | some sl => onGfx s fun g => { g with reuse := tset g.reuse (sl * 8192 + n) (signature x n) }

/-- TILE_WRITE_OUT_ACCEPTED (R252, 09 R276). steps: busy steps of the raster unit. -/
def execTileWriteOutAccepted (c sl steps : Nat) (s : State) : Out :=
  unitStep s (0xC0 + c) fun s =>
    match tileAt s c sl with
    | none => s
    | some t =>
      if ¬ t.written then s else
      let s := fset s F.RAS_UNIT_TILES.COUNT (fget s F.RAS_UNIT_TILES.COUNT 0 c + 1) 0 c
      match passAt s t.pass with
      | none => freeTile s c sl t
      | some x =>
        let s := busySteps s x.ctx .raster steps
        freeTile (if t.final ∧ ¬ x.failed ∧ x.sign.contains t.tile then truSet s x t.tile else s) c sl t

/-- The lowest cluster that owns a folio bank (R257). -/
def ownerCluster (s : State) : Nat :=
  ((List.range 16).find? fun c => (List.range 16).any fun b => fget s F.FOL_BANK.OWNER c b ≠ 0).getD 0

/-- A tile that was never handed out is written as R257 says. -/
def writeUntouched (p n : Nat) (s : State) : State :=
  match passAt s p with
  | none => s
  | some x =>
    let c := ownerCluster s
    x.surface.used.foldl (fun s ia =>
      let e := fmtBytes ia.2.format
      if ia.2.load then s else
      let s := rasWrite s c p (metaAddr x.target x.surface ia.1 n) (metaEntry ia.2.clear 2 0)
      if ia.2.store = 1 then
        let size := x.tile * x.tile * e
        rasWrite s c p (x.target.base + ia.2.resolve + n * size) (List.replicate (x.tile * x.tile) (ia.2.clear.take e)).flatten
      else s) s

/-! ### The end of a GEOMETRY pass (07 R201, R202, R203) -/

/-- Every started command of the pass ends: PASS_BEGIN and the DRAWs with OK, the PASS_END with the pass's status. -/
def passFinish (s : State) (p : Nat) (x : Pass) : State :=
  let s := bumpVersion (passFree s p) x.target.idx
  let s := endBare s x.task .ok
  let s := x.draws.foldl (fun s d => endBare s d.task .ok) s
  match x.ending with
  | some e => endBare s e.2 x.status x.failAddr
  | none => s

/-- PASS_END_FINISH (07 R201 to R203): every tile is stored, the tiles never handed out are written, and the pass's commands
finish; a discarded pass frees its record. -/
def execPassEndFinish (p : Nat) (s : State) : Out :=
  unitStep s 0x111 fun s =>
    match passAt s p with
    | none => s
    | some x =>
      if x.discard then (if passIdle x then passFree s p else s)
      else if x.mode ≠ 0 then s
      else
        let s := if x.failed ∧ passIdle x then onPass s p fun x => { x with batch := none, held := [], flush := .none } else s
        let s := tryClose s p
        match passAt s p with
        | none => s
        | some x =>
          if ¬ (x.closed ∧ x.toHand = [] ∧ x.out = [] ∧ x.toCompare = [] ∧ x.toCopy = []) then s else
          let rest := if x.failed ∨ x.reuse.isSome then []
            else (List.range (x.surface.tiles x.tile)).filter fun n => ¬ x.everOut.contains n
          let s := rest.foldl (fun s n => writeUntouched p n s) s
          match passAt s p with
          | some x => passFinish s p x
          | none => s

/-! ### Saving pre-empted work (03 R84, R85) -/

/-- The requested pre-emption point of a block has come without its groups having exited: it is saved as it stands, or, where it
is to be discarded, ended. -/
def graceBlock (s : State) (b : Nat) : State :=
  match blockAt s b with
  | none => s
  | some k =>
    -- a fragment group is saved with its tile
    if k.pre ≠ .requested ∨ (¬ k.discard ∧ (match k.kind with | .fragment _ _ => true | _ => false : Bool)) then s
    else
      let s := onBlock s b fun k => { k with pre := .saving }
      match k.engine with
      | some e => onEngine s e fun x => { x with draining := true }
      | none => if k.discard then dropBlock s b else s

/-- PREEMPT_GRACE_EXPIRY (03 R84): GRACE has passed for a block, or for a tile with its groups. -/
def execPreemptGraceExpiry (x : PreTarget) (s : State) : Out :=
  engineStep s fun s =>
    match x with
    | .block b => graceBlock s b
    | .tile c sl =>
      match tileAt s c sl with
      | none => s
      | some t =>
        if t.pre ≠ .requested then s else
        let s := onTile s c sl fun t => { t with pre := .saving }
        let mark (e : Nat × Block) : Nat × Block :=
          if e.2.kind = .fragment c sl then (e.1, { e.2 with pre := .saving }) else e
        onSc s fun y => { y with blocks := y.blocks.map mark }

/-- A group as it is saved: its outstanding accesses go on after it has been restored, and an ACCORD on its way is issued again. -/
def savedGroup (g : Group) : Group :=
  let back (w : TWait) : TWait := match w with | .accord => .none | w => w
  { g with fragAt := none, threads := g.threads.map fun h => { h with wait := back h.wait } }

/-- The engine of a block has finished the instructions that run (05 R170). -/
def engineStill (s : State) (k : Block) : Bool :=
  match k.engine with
  | some e => (engineAt s e).array = none ∧ (engineAt s e).out = none ∧ (engineAt s e).mover = none
  | none => true

/-- Accepted instructions that have not started are discarded: their tokens report REISSUE (05 R170). -/
def discardTokens (s : State) (b : Nat) (k : Block) : State :=
  match k.engine with
  | some e => (engineAt s e).queue.foldl (fun s i =>
      tokenDone (onBlock s b fun k => { k with ends := tset k.ends i.token .reissue }) b i.token 1) s
  | none => s

/-- A block is saved, or where it is to be discarded dropped; key is the place its kind takes. -/
def saveBlock (s : State) (b : Nat) (kind : BKind → BKind) : State :=
  match blockAt s b with
  | none => s
  | some k =>
    if k.discard then dropBlock s b else
    let s := discardTokens s b k
    let r := k.groups.foldl (fun (st, s) g =>
      let w := flushPriv s b k g
      (if st = Status.ok then w.1 else st, w.2)) (Status.ok, s)
    let s := match r.1, k.kind with
      | .ok, _ => r.2
      | st, .item t _ => taskFail r.2 t st r.2.xlt.failAddr
      | _, _ => r.2
    match blockAt s b with
    | none => s
    | some k =>
      let s := onSc s fun y => { y with
        blocks := tdel y.blocks b
        saved := tset y.saved b { k with pre := .none, engine := none, kind := kind k.kind, groups := k.groups.map savedGroup } }
      let s := match k.engine with
        | some e => onEngine s e fun x => { accs := x.accs, table := x.table }
        | none => s
      match k.kind with
      | .item t i => itemSaved s t i
      | _ => s

/-- PREEMPT_SAVE_DONE (03 R84): the save is complete and the item's resources are released. A DISPATCH block gives up its place
once its engine is still; a tile is saved whole. -/
def execPreemptSaveDone (x : PreTarget) (s : State) : Out :=
  engineStep s fun s =>
    match x with
    | .block b =>
      match blockAt s b with
      | none => s
      | some k => if k.pre = .saving ∧ engineStill s k then saveBlock s b id else s
    | .tile c sl =>
      match tileAt s c sl with
      | none => s
      | some t =>
        if t.pre ≠ .saving ∨ 16 ≤ c then s else
        match (upFrom 256 4096).find? (fun k => (tget s.gfx.tiles k).isNone) with
        | none => s
        | some key =>
          let mine := s.sc.blocks.filter fun e => e.2.kind = .fragment c sl
          let s := mine.foldl (fun s e => saveBlock s e.1 fun _ => .fragment (key / 16) (key % 16)) s
          match tileAt s c sl with
          | none => s
          | some t =>
            let kept := { t with pre := .none, runs := [], cores := [none, none, none, none], data := tileData s c t, bad := tileBad s c t }
            moveGroups (onGfx s fun g => { g with tiles := tset (tdel g.tiles (c * 16 + sl)) key kept })
              (.fragment c sl) (.fragment (key / 16) (key % 16))

end Sys2Proof.Machine
end

