-- ==== Sys2Proof/Machine/Check.lean ====
section
/-!
DEFINITION. Machine/Check.lean: the checks on an entry, or on a node of a graph, before it runs (02 R50 to R55, R56, R59, R60;
04 R110, 05 R173, 08 R226, 10 R294, 14 R421, R422; 03 R97). The failures are gathered by class and the lowest class decides.
-/

namespace Sys2Proof.Machine

/-- In whose name an entry is checked: queue index, the queue, and the key of the pass state that it belongs to. -/
structure Who where
  i : Nat
  q : Queue
  key : Nat
  node : Bool
  deriving DecidableEq, Repr, Inhabited

/-- A handle of a form: payload offset, required, KIND, READ and WRITE needed. -/
structure HForm where
  off : Nat
  req : Bool := true
  kind : Option Nat := none
  rd : Bool := false
  wr : Bool := false
  deriving DecidableEq, Repr, Inhabited

/-- What a check finds beside its failures: the objects resolved, whether the command is a no-op, and the state of a DRAW. -/
structure Checked where
  fails : List (Nat × Status) := []
  objs : Tbl Obj := []
  zero : Bool := false
  draw : Option DrawState := none
  deriving DecidableEq, Repr, Inhabited

/-- OPCODE of an entry. -/
def opOf (raw : List Byte) : Nat := byteAt raw 0
/-- SUBOP of an entry. -/
def subOf (raw : List Byte) : Nat := byteAt raw 1
/-- ORDER of an entry. -/
def orderOf (raw : List Byte) : Bool := bit (byteAt raw 2) 2

/-- OPCODE and SUBOP are defined (R51). -/
def opDefined (raw : List Byte) : Bool :=
  match opOf raw with
  | 1 => subOf raw < 3
  | 2 => subOf raw < 2
  | 3 => subOf raw < 3
  | 4 => subOf raw = 0
  | 5 => subOf raw < 2
  | 6 => subOf raw < 4
  | 7 => subOf raw = 0
  | 8 => subOf raw < 2
  | 9 => subOf raw = 0
  | 10 => subOf raw = 0
  | 11 => subOf raw < 4
  | 12 => subOf raw < 2
  | _ => false

/-- A legacy entry accepted by a legacy queue (R56). -/
def legacyOp (raw : List Byte) : Bool := opOf raw = 1 ∨ opOf raw = 3 ∨ opOf raw = 5 ∨ opOf raw = 7 ∨ opOf raw = 8

/-- The native form of a legacy entry with its number (R56). -/
def fromLegacy (bs : List Byte) (seq : Nat) : List Byte :=
  bs.take 4 ++ zeros 4 ++ ((bs.drop 4).take 28) ++ zeros 20 ++ natLe seq 8

/-- Payload bytes that are RSVD for an entry's class (R52), as (offset, bytes). WAIT_QUEUE is a field of the resident SUBOP only: in
the others bytes 40 to 43 count as not listed, so as RSVD (log 118). -/
def rsvdOf (raw : List Byte) : List (Nat × Nat) :=
  match opOf raw, subOf raw with
  | 1, _ => [(44, 12)]
  | 2, 0 => [(19, 1), (28, 28)]
  | 2, _ => [(8, 48)]
  | 3, 2 => [(44, 12)]
  | 3, _ => [(40, 16)]
  | 4, _ => [(39, 1), (44, 12)]
  | 5, _ => [(44, 12)]
  | 7, _ => [(8, 48)]
  | 8, 0 => [(12, 4), (24, 8), (36, 20)]
  | 8, _ => [(12, 4), (36, 20)]
  | 9, _ => [(24, 32)]
  | 10, _ => [(29, 27)]
  | 11, 3 => [(12, 4), (26, 2), (32, 24)]
  | 11, _ => [(12, 4), (26, 30)]
  | 12, _ => [(10, 2), (16, 40)]
  | _, _ => []

/-- A format code that may stand for A, B or C (05 R147). -/
def fmtA (c : Nat) : Bool := 1 ≤ c ∧ c ≤ 6
def fmtB (c : Nat) : Bool := 1 ≤ c ∧ c ≤ 8
def fmtC (c : Nat) : Bool := (1 ≤ c ∧ c ≤ 4) ∨ c = 10

/-- RSVD bits and undefined codes of a class (check 1). -/
def badBits (raw : List Byte) : Bool :=
  match opOf raw with
  | 2 => subOf raw = 0 ∧ 2 < byteAt raw 16
  | 4 => !(fmtA (byteAt raw 36) && fmtB (byteAt raw 37) && fmtC (byteAt raw 38))
  | 6 => 4 ≤ fieldAt raw 20 4
  | 10 => 2 ≤ byteAt raw 28
  | 11 => 16 ≤ byteAt raw 25
  | 12 => 16 ≤ byteAt raw 9
  | _ => false

/-- The handles of a class with the rights of R55. -/
def handlesOf (raw : List Byte) : List HForm :=
  match opOf raw with
  | 1 => [{ off := 8, kind := some 2, rd := true }, { off := 12, rd := true }, { off := 16, req := decide (subOf raw = 1), rd := true },
          { off := 36, req := decide (subOf raw = 2), rd := true }]
  | 2 => if subOf raw = 0 then
      [{ off := 8, kind := some 4, rd := true, wr := true },
       { off := 12, kind := some (if byteAt raw 16 = 0 then 3 else 0), rd := true, wr := true }] else []
  | 3 => [{ off := 8, kind := some 1, rd := true }, { off := 12, req := false, rd := true },
          { off := 32, req := decide (subOf raw = 1), rd := true }]
  | 4 =>
    let expand : Bool := byteAt raw 37 = 7 ∨ byteAt raw 37 = 8 ∨ byteAt raw 36 = 5 ∨ byteAt raw 36 = 6 ∨ byteAt raw 37 = 5 ∨ byteAt raw 37 = 6
    [{ off := 8, kind := some 1, rd := true }, { off := 12, rd := true }, { off := 16, rd := true }, { off := 20, rd := true, wr := true },
     { off := 40, req := expand, rd := true }]
  | 5 => [{ off := 8, req := decide (subOf raw = 0), rd := true }, { off := 12, wr := true }]
  | 6 => [{ off := 8, rd := true }, { off := 12, wr := true }, { off := 16, req := false, wr := true }]
  | 8 => if subOf raw = 1 then [{ off := 8, rd := true }] else []
  | 9 => [{ off := 8, kind := some 5, rd := true }, { off := 12, req := false, rd := true }]
  | 10 => [{ off := 8, kind := some 5, rd := true }, { off := 16, kind := some 0, rd := true, wr := true },
           { off := 20, req := bit (byteAt raw 28) 0, rd := true, wr := true }]
  | 11 => [{ off := 8, wr := true }]
  | _ => []

/-- Count, length, offset and timeout fields (check 4), as (offset, bytes); those that R53 ignores are left out. FIRST and
FIRST_INSTANCE of a DRAW are indices and none of these (log 119). -/
def countsOf (raw : List Byte) : List (Nat × Nat) :=
  match opOf raw with
  | 1 => if subOf raw = 2 then [(40, 4)] else [(20, 4), (24, 4), (40, 4)]
  | 2 => if subOf raw = 0 then [(20, 4), (24, 4)] else []
  | 3 => (if subOf raw = 1 then [] else [(16, 4), (20, 4), (24, 4)]) ++ [(28, 2), (30, 2), (36, 4)]
  | 4 => [(24, 4), (28, 4), (32, 4)]
  | 5 => [(16, 8), (24, 8), (32, 8)]
  | 6 => [(24, 8), (32, 8), (40, 8), (48, 8)]
  | 8 => if subOf raw = 1 then [(24, 8), (32, 4)] else [(32, 4)]
  | 9 => [(20, 4)]
  | 10 => [(12, 4), (24, 4)]
  | 11 => [(16, 8)]
  | 12 => [(12, 4)]
  | _ => []

/-- Fields whose 0 makes a no-op (check 5). -/
def zerosOf (raw : List Byte) : List (Nat × Nat) :=
  match opOf raw with
  | 1 => if subOf raw = 2 then [] else [(20, 4), (24, 4)]
  | 3 => if subOf raw = 1 then [] else [(16, 4), (20, 4), (24, 4)]
  | 4 => [(24, 4), (28, 4), (32, 4)]
  | 5 => [(32, 8)]
  | 6 => [(32, 8)]
  | 10 => [(12, 4)]
  | _ => []

/-- The uncompressed side of a PRESS lies in folio memory: payload offset of that side's handle. -/
def folioSide (raw : List Byte) : Option Nat :=
  if bit (byteAt raw 20) 0 then some (if subOf raw < 2 then 8 else 12) else none

/-- Two byte ranges of PRESS operands lie in one object and overlap (14 R421); the folio side is no such range (log 22). -/
def pressOverlap (raw : List Byte) (objs : Tbl Obj) : Bool :=
  let ranges := [(8, fieldAt raw 24 8, fieldAt raw 32 8), (12, fieldAt raw 40 8, fieldAt raw 48 8),
                 (16, 0, (match tget objs 16 with | some o => o.size | none => 0))].filter fun r => folioSide raw ≠ some r.1
  let meet (a b : Nat × Nat × Nat) : Bool :=
    match tget objs a.1, tget objs b.1 with
    | some x, some y => x.idx = y.idx ∧ rangesMeet a.2.1 a.2.2 b.2.1 b.2.2
    | _, _ => false
  ranges.any fun a => ranges.any fun b => decide (a.1 < b.1) && meet a b

/-- A timeout field outside 0 and 1 to 1,000,000. -/
def badTimeout (v : Nat) : Bool := 1000000 < v

/-- Ranges of R52 (check 6). -/
def badRange (raw : List Byte) (objs : Tbl Obj) : Bool :=
  match opOf raw with
  | 2 =>
    let units := fieldAt raw 20 4
    let res := if fieldAt raw 24 4 = 0 then 16 else fieldAt raw 24 4
    subOf raw = 0 ∧ (units < 256 ∨ 65536 < units ∨ 255 < res ∨ units < res + 1)
  | 3 => fieldAt raw 28 2 = 0 ∨ 32 < fieldAt raw 28 2 ∨ 128 < fieldAt raw 30 2
  | 6 => (bit (byteAt raw 20) 1 ∧ fieldAt raw 48 8 < 32) ∨ pressOverlap raw objs
  | 8 => badTimeout (fieldAt raw 32 4)
  | 10 =>
    let x := fieldAt raw 24 4
    (if bit (byteAt raw 28) 0 then x = 0 ∨ 65536 < x ∨ fieldAt raw 12 4 ≠ 1 else x ≠ 0)
  | 12 => badTimeout (fieldAt raw 12 4)
  | _ => false

/-- Alignment of R52 (check 7). -/
def badAlign (raw : List Byte) : Bool :=
  match opOf raw with
  | 1 => fieldAt raw 40 4 % 4 ≠ 0
  | 3 => fieldAt raw 36 4 % 4 ≠ 0
  | 5 => subOf raw = 1 ∧ (fieldAt raw 24 8 % 4 ≠ 0 ∨ fieldAt raw 32 8 % 4 ≠ 0)
  | 6 =>
    match folioSide raw with
    | some o =>
      let off := fieldAt raw (if o = 8 then 24 else 40) 8
      let len := fieldAt raw (if o = 8 then 32 else 48) 8
      2 ^ 19 ≤ off ∨ len % 128 ≠ 0 ∨ 2 ^ 22 < len
    | none => false
  | 8 => subOf raw = 1 ∧ fieldAt raw 24 8 % 8 ≠ 0
  | 9 => fieldAt raw 20 4 % 4 ≠ 0
  | 11 => fieldAt raw 16 8 % 64 ≠ 0
  | _ => false

/-- Size of the object resolved at an offset, 0 for a null handle. -/
def sizeAt (objs : Tbl Obj) (off : Nat) : Nat := match tget objs off with | some o => o.size | none => 0

/-- Bytes of a matrix of n elements of a format. -/
def matBytes (n c : Nat) : Nat := (n * accBits c + 7) / 8

/-- Bytes of a formation's step buffer (10 R294). -/
def stepBufBytes (batchMax : Nat) : Nat := 128 + (32 * batchMax + 127) / 128 * 128 + (8 * batchMax + 127) / 128 * 128

/-- Length against object (check 8), as far as the entry alone decides it. -/
def tooLong (s : State) (fn : Nat) (raw : List Byte) (objs : Tbl Obj) : Bool :=
  match opOf raw with
  | 1 => subOf raw = 2 ∧ sizeAt objs 36 < fieldAt raw 40 4 + 20
  | 2 => subOf raw = 0 ∧ sizeAt objs 8 < fieldAt raw 20 4 * 65536
  | 3 => subOf raw = 1 ∧ sizeAt objs 32 < fieldAt raw 36 4 + 12
  | 4 =>
    let m := fieldAt raw 24 4
    let n := fieldAt raw 28 4
    let k := fieldAt raw 32 4
    sizeAt objs 12 < matBytes (m * k) (byteAt raw 36) ∨ sizeAt objs 16 < matBytes (k * n) (byteAt raw 37)
      ∨ sizeAt objs 20 < matBytes (m * n) (byteAt raw 38)
  | 5 => (subOf raw = 0 ∧ sizeAt objs 8 < fieldAt raw 16 8 + fieldAt raw 32 8) ∨ sizeAt objs 12 < fieldAt raw 24 8 + fieldAt raw 32 8
  | 6 => (folioSide raw ≠ some 8 ∧ sizeAt objs 8 < fieldAt raw 24 8 + fieldAt raw 32 8)
      ∨ (folioSide raw ≠ some 12 ∧ sizeAt objs 12 < fieldAt raw 40 8 + fieldAt raw 48 8)
  | 8 => subOf raw = 1 ∧ sizeAt objs 8 < fieldAt raw 24 8 + 8
  | 10 => sizeAt objs 16 < stepBufBytes (fget s F.SEQ_BATCH.BATCH_MAX fn)
      ∨ (bit (byteAt raw 28) 0 ∧ sizeAt objs 20 < fieldAt raw 24 4 * 64)
  | 11 => sizeAt objs 8 < fieldAt raw 16 8 + 64
  | _ => false

/-! ### Handles -/

/-- The object of a form's handle with its failures (checks 2 and 3). -/
def resolve (s : State) (w : Who) (h : Nat) (f : HForm) : Option Obj × List (Nat × Status) :=
  if h = 0 then (none, failIf f.req 2 .staleHandle)
  else match objectOf s w.q.fn h with
    | none => (none, [(2, .staleHandle)])
    | some o =>
      let kindBad : Bool := match f.kind with | some k => decide (o.kind ≠ k) | none => false
      let bad : Bool := kindBad ∨ (o.ctx ≠ w.q.ctx ∧ ¬ o.shared) ∨ (f.rd ∧ ¬ o.read) ∨ (f.wr ∧ ¬ o.write)
      (some o, failIf bad 3 .permission)

/-- Every handle of an entry. -/
def resolveAll (s : State) (w : Who) (raw : List Byte) : List HForm → Checked → Checked
  | [], c => c
  | f :: t, c =>
    let r := resolve s w (fieldAt raw f.off 4) f
    resolveAll s w raw t { c with
      fails := c.fails ++ r.2
      objs := match r.1 with | some o => tset c.objs f.off o | none => c.objs }

/-! ### Pass rules (07 R196, R197, R553) -/

/-- The mode of the open pass that the entry would belong to; none outside a pass. A PASS_END that has been checked closes it
for the entries behind it. -/
def insideMode (s : State) (w : Who) (seq : Nat) : Option Nat :=
  let closing : Bool := w.q.entries.any fun e => decide (e.seq < seq) && opOf e.raw == 2 && subOf e.raw == 1 && e.phase == .checked false
  if ¬ w.node ∧ closing then none
  else match passOf s w.key with
    | some (_, x) => if x.ending.isSome then none else some x.mode
    | none => none

/-- The entry is not accepted where it stands (BAD_OPCODE at check 1). -/
def badInPass (s : State) (w : Who) (seq : Nat) (raw : List Byte) : Bool :=
  match insideMode s w seq with
  | none => (opOf raw = 2 ∧ subOf raw = 1) ∨ opOf raw = 1
  | some m =>
    if opOf raw = 2 then subOf raw = 0 ∨ (m = 0 ∧ orderOf raw ∧ ¬ w.node)
    else if m = 0 then ¬ w.node ∧ (¬ (opOf raw = 1 ∨ (opOf raw = 8 ∧ subOf raw = 1)) ∨ orderOf raw)
    else opOf raw = 1

/-! ### Contents (08 R226, R60) -/

/-- Object contents the front end reads in the queue's address space. -/
def contents (s : State) (w : Who) (o : Obj) (off n : Nat) : Status × List Byte × State := feRead s w.q (o.base + off) n

/-- A binary32 value lies in [0.125, 256]. -/
def pointSizeOk (v : Nat) : Bool := 0x3E000000 ≤ v ∧ v ≤ 0x43800000

/-- RSVD fields and undefined codes of a state object (check 1). -/
def stateBad (b : List Byte) : Bool :=
  bits (byteAt b 16) 1 0 = 3 ∨ 64 ≤ byteAt b 16 ∨ 16 ≤ byteAt b 17 ∨ 32 ≤ byteAt b 19 ∨ 5 < byteAt b 15
    ∨ (List.range 2).any (fun i => (List.range 4).any (fun j => decide (7 < byteAt b (20 + 8 * i + j))) || decide (2 ≤ byteAt b (27 + 8 * i)))
    ∨ (List.range 4).any (fun i =>
        let e (j : Nat) := byteAt b (96 + 8 * i + j)
        decide (bits (e 0) 3 1 ≠ 0 ∨ 12 < e 1 % 16 ∨ 12 < e 1 / 16 ∨ 12 < e 2 % 16 ∨ 12 < e 2 / 16 ∨ 4 < e 3 % 8 ∨ 4 < e 3 / 8
          ∨ fieldAt b (100 + 8 * i) 4 ≠ 0))
    ∨ b.drop 128 ≠ zeros 128

/-- Values of a state object outside their ranges (check 6). -/
def stateRange (b : List Byte) : Bool :=
  let v := fieldAt b 12 2
  v < 4 ∨ 128 < v ∨ v % 4 ≠ 0 ∨ (byteAt b 14 ≠ 2 ∧ byteAt b 14 ≠ 4) ∨ 64 < byteAt b 18 ∨ ¬ pointSizeOk (fieldAt b 60 4)

/-- A handle with the version of its object, for the draw term; zeros for a null one (09 R268). -/
def termOf (s : State) (h : Nat) : List Byte :=
  if h = 0 then zeros 8 else natLe h 4 ++ natLe (tgetD s.gfx.versions (h % 2 ^ 16) 0) 4

/-- A program that a state object names: its failures and header. -/
def stateProg (s : State) (w : Who) (h : Nat) (req : Bool) (need : Nat) : List (Nat × Status) × Option Prog × State :=
  let r := resolve s w h { off := 0, req := req, kind := some 1, rd := true }
  match r.1 with
  | none => (r.2, none, s)
  | some o =>
    if r.2 ≠ [] then (r.2, none, s) else
    let x := readProg s w.q.fn w.q.asid w.q.ctx o
    if x.1 ≠ .ok then ([(1, x.1)], none, x.2.2)
    else match x.2.1 with
      | none => ([(1, .badOpcode)], none, x.2.2)
      | some p => (failIf (p.vregs < need) 6 .lengthRange, some p, x.2.2)

/-- A target of the pass in format RED32_UINT would be blended by a state object with these bytes (08 R250). -/
def blendsUint (s : State) (w : Who) (b : List Byte) : Bool :=
  match passOf s w.key with
  | some (_, x) => (List.range 4).any fun i => bit (byteAt b (96 + 8 * i)) 0 &&
      (match x.surface.atts[i]? with | some (some a) => decide (a.format = 0x0C) | _ => false)
  | none => false

/-- The state object of a DRAW is read with the headers of its programs (08 R226). -/
def drawState (s : State) (w : Who) (o : Obj) : List (Nat × Status) × Option DrawState × State :=
  if o.size < 256 then ([(8, .lengthExceedsObject)], none, s) else
  let r := contents s w o 0 256
  if r.1 ≠ .ok then ([(1, r.1)], none, r.2.2) else
  let b := r.2.1
  let v := fieldAt b 12 2
  let vary := byteAt b 18
  let pos := stateProg r.2.2 w (fieldAt b 0 4) true (Nat.max (8 + v / 4) (4 + vary))
  let frag := stateProg pos.2.2 w (fieldAt b 4 4) false (24 + vary)
  let const := resolve s w (fieldAt b 8 4) { off := 0, req := false, rd := true }
  let fails := failIf (stateBad b || blendsUint s w b) 1 .badOpcode ++ pos.1 ++ frag.1 ++ const.2 ++ failIf (stateRange b) 6 .lengthRange
  let s := frag.2.2
  match pos.2.1 with
  | none => (fails, none, s)
  | some p =>
    let term := crc32c (natLe (crc32c (b.take 128)) 4 ++ natLe (crc32c (b.drop 128)) 4
      ++ termOf s (fieldAt b 0 4) ++ termOf s (fieldAt b 4 4) ++ termOf s (fieldAt b 8 4))
    (fails, some { base := o.base, bytes := b, pos := p, frag := frag.2.1,
                   const := match const.1 with | some c => c.base | none => 0, term := term }, s)

/-- Vertices or indices of a DRAW against its objects (check 8). -/
def drawLong (raw : List Byte) (objs : Tbl Obj) (d : DrawState) (indexed : Bool) : Bool :=
  let n := fieldAt raw 28 4 + fieldAt raw 20 4
  if indexed then sizeAt objs 16 < n * d.indexSize else sizeAt objs 12 < n * d.stride

/-- A DRAW reads indices: SUBOP 1, and SUBOP 2 where INDEX is not null (log 22). -/
def drawIndexed (raw : List Byte) : Bool := subOf raw = 1 ∨ (subOf raw = 2 ∧ fieldAt raw 16 4 ≠ 0)

/-- The version of a graph in its header, found by number: its slot (03 R87, R97); none where the graph is not PUBLISHED, is
DIRTY, or holds no such live version. -/
def graphSlot (h : List Byte) (version : Nat) : Option Nat :=
  let want := if version = 0 then fieldAt h 16 4 else version
  if bits (fieldAt h 20 4) 1 0 ≠ 1 then none
  else (List.range 16).find? fun v => fieldAt h (24 + 8 * v) 4 = want ∧ byteAt h (30 + 8 * v) ≠ 0 ∧ want ≠ 0


/-- Failures that need the contents of an object the entry names, and the state of a DRAW. -/
def contentFails (s : State) (w : Who) (raw : List Byte) (c : Checked) : List (Nat × Status) × Option DrawState × State :=
  let own (off : Nat) : Bool := (resolve s w (fieldAt raw off 4) ((handlesOf raw).find? (fun f => f.off = off) |>.getD default)).2 = []
  match opOf raw, tget c.objs 8 with
  | 1, some o =>
    if own 8 then
      let r := drawState s w o
      match r.2.1 with
      | some d => (r.1 ++ failIf (subOf raw ≠ 2 ∧ drawLong raw c.objs d (drawIndexed raw)) 8 .lengthExceedsObject, some d, r.2.2)
      | none => r
    else ([], none, s)
  | 3, some o =>
    if own 8 then
      let r := contents s w o 0 64
      (if r.1 ≠ .ok then [(8, r.1)] else failIf (sizeAt c.objs 12 < fieldAt r.2.1 12 4) 8 .lengthExceedsObject, none, r.2.2)
    else ([], none, s)
  | 9, some o =>
    if own 8 then
      let r := contents s w o 0 256
      (if r.1 ≠ .ok then [(2, r.1)]
       else failIf (graphSlot r.2.1 (fieldAt raw 16 4)).isNone 2 .staleHandle
         ++ failIf (fieldAt r.2.1 8 4 ≠ 0 ∧ (tget c.objs 12).isNone) 2 .staleHandle
         ++ failIf ((tget c.objs 12).isSome ∧ sizeAt c.objs 12 < fieldAt raw 20 4 + fieldAt r.2.1 8 4) 8 .lengthExceedsObject, none, r.2.2)
    else ([], none, s)
  | 10, some o =>
    if own 8 then
      let r := contents s w o 0 256
      (if r.1 ≠ .ok then [(6, r.1)] else failIf (64 < fieldAt r.2.1 8 4) 6 .lengthRange, none, r.2.2)
    else ([], none, s)
  | _, _ => ([], none, s)

/-- Failures that queues and contexts decide (checks 2 and 3). -/
def otherFails (s : State) (w : Who) (raw : List Byte) : List (Nat × Status) :=
  match opOf raw with
  | 3 =>
    let ok : Bool := match queueOf s w.q.fn (fieldAt raw 40 4) with | some (_, q) => q.resident | none => false
    failIf (subOf raw = 2 ∧ ¬ ok) 2 .staleHandle
  | 8 => failIf (subOf raw = 0 ∧ (queueOf s w.q.fn (fieldAt raw 8 4)).isNone) 2 .staleHandle
  | 11 =>
    let c := fieldAt raw 24 2 % 4096
    failIf (subOf raw = 3 ∧ fieldAt raw 28 4 ≠ 0 ∧ (queueOf s w.q.fn (fieldAt raw 28 4)).isNone) 2 .staleHandle
      ++ failIf (c = 0 ∨ ¬ inCtx s w.q.fn c) 3 .permission
  | 12 =>
    let c := fieldAt raw 8 2 % 4096
    failIf (¬ w.q.admin ∨ c = 0 ∨ ¬ inCtx s w.q.fn c ∨ c = w.q.ctx) 3 .permission
  | _ => []

/-- The field holds all ones in its full width. -/
def allOnes (raw : List Byte) (f : Nat × Nat) : Bool := fieldAt raw f.1 f.2 = 256 ^ f.2 - 1

/-- The checks on an entry, or node (R55): everything found, and the state after the reads the checks make. -/
def checkEntry (s : State) (w : Who) (seq : Nat) (raw : List Byte) : Checked × State :=
  if ¬ opDefined raw ∨ (w.q.legacy ∧ ¬ legacyOp raw) then ({ fails := [(1, .badOpcode)] }, s) else
  let c := resolveAll s w raw (handlesOf raw) {}
  let rsvd : Bool := 8 ≤ fieldAt raw 2 2 ∨ fieldAt raw 4 4 ≠ 0 ∨ (rsvdOf raw).any (fun r => decide ((raw.drop r.1).take r.2 ≠ zeros r.2))
  let x := contentFails (failedAt s 0) w raw c
  ({ c with
     fails := failIf (rsvd || badBits raw || badInPass s w seq raw) 1 .badOpcode ++ c.fails ++ otherFails s w raw
       ++ failIf ((countsOf raw).any (allOnes raw)) 4 .lengthRange ++ failIf (badRange raw c.objs) 6 .lengthRange
       ++ failIf (badAlign raw) 7 .badAlignment ++ failIf (tooLong s w.q.fn raw c.objs) 8 .lengthExceedsObject ++ x.1
     zero := (zerosOf raw).any fun f => fieldAt raw f.1 f.2 = 0
     objs := if opOf raw = 1 ∧ ¬ drawIndexed raw then tdel c.objs 16 else c.objs
     draw := x.2.1 }, x.2.2)

/-- A read of an object-table entry that failed fails the check that needs the entry, which is check 2 (R60). -/
def Checked.missed (c : Checked) (bad : Option Status) : Checked :=
  match bad with | some st => { c with fails := (2, st) :: c.fails } | none => c

/-- What a check decides: a rejection, or how the command goes on; a failure of a class above 5 does not count against a
no-op. -/
def Checked.rejects (c : Checked) : Option Status := firstFail (c.fails.filter fun f => !c.zero || decide (f.1 < 5))

/-- The values that an indirect command has read, checked as if they stood in the entry (R53): failures and the no-op case. -/
def indirectFails (raw : List Byte) (objs : Tbl Obj) (d : Option DrawState) : List (Nat × Status) × Bool :=
  let fields := if opOf raw = 1 then [(20, 4), (24, 4)] else [(16, 4), (20, 4), (24, 4)]
  let zero : Bool := fields.any fun f => decide (fieldAt raw f.1 f.2 = 0)
  let long : Bool := match d with | some d => drawLong raw objs d (drawIndexed raw) | none => false
  (failIf (fields.any (allOnes raw)) 4 .lengthRange ++ (if zero then [] else failIf long 8 .lengthExceedsObject), zero)

end Sys2Proof.Machine
end

