-- ==== Sys2Proof/Machine/Graph.lean ====
section
/-!
DEFINITION. Machine/Graph.lean: stored graphs (03 R87 to R101, R552; 12 R378 to R381): the structural check, PUBLISH and PATCH,
the life of a launch and the reading of its nodes.
-/

namespace Sys2Proof.Machine

/-! ### Layout (R87, R88) -/

/-- Offset of entry n of version map v. -/
def mapOff (c v n : Nat) : Nat := 256 + 4 * c * v + 4 * n
/-- Offset of the slot masks. -/
def masksOff (c : Nat) : Nat := 256 + 64 * c
/-- Offset of arena slot i of a graph of c nodes and S arena slots. -/
def arenaOff (c slots i : Nat) : Nat := masksOff c + roundUp (2 * slots) 128 + 128 * i
/-- Bytes that the object of a graph needs. -/
def graphBytes (c slots : Nat) : Nat := arenaOff c slots slots

/-- The range-table entry of a graph. -/
def graphRange (s : State) (fn idx : Nat) : Option GRange := s.xlt.ranges.find? fun g => g.fn = fn ∧ g.obj = idx

/-- The scheduler reads a graph at its device addresses. -/
def graphRead (s : State) (lo off n : Nat) : Status × List Byte × State :=
  let r := devRead s 7 (lo + off) n
  (r.1, r.2.1, if r.1 = .ok then r.2.2 else failedAt r.2.2 (lo + off))
/-- The scheduler's own writes to a graph, which the range table does not compare (12 R380). -/
def graphWrite (s : State) (lo off : Nat) (bs : List Byte) : State := (devWrite s 7 (lo + off) bs).2

/-- SUCC entries in use of a node record. -/
def succsOf (r : List Byte) : List Nat := (List.range (byteAt r 66)).map fun i => fieldAt r (76 + 2 * i) 2

/-! ### The structural check (R89) -/

/-- The opcode and flags that a node may have (R88), RSVD fields and ARG_SUBST. -/
def nodeBad (c args : Nat) (r : List Byte) : Bool :=
  let op := byteAt r 0
  let subst := (List.range 4).map fun i => fieldAt r (68 + 2 * i) 2
  let succ := succsOf r
  op = 0 ∨ 8 < op ∨ 2 ≤ fieldAt r 2 2 ∨ fieldAt r 4 4 ≠ 0 ∨ 16 < byteAt r 66 ∨ byteAt r 67 ≠ 0 ∨ (r.drop 108).take 20 ≠ zeros 20
    ∨ (rsvdOf r).any (fun x => decide ((r.drop x.1).take x.2 ≠ zeros x.2)) ∨ (op = 6 ∧ 4 ≤ fieldAt r 20 4)
    ∨ (op = 2 ∧ subOf r = 0 ∧ bits (byteAt r 18) 6 4 ≠ 0)
    ∨ subst.any (fun x => decide (x / 4096 = 1 ∨ (x / 4096 ≠ 0 ∧ args < 4 * (x % 4096) + 4)))
    ∨ succ.any (fun n => decide (c ≤ n)) ∨ succ.eraseDups.length ≠ succ.length
    ∨ (upFrom (byteAt r 66) (16 - byteAt r 66)).any fun i => decide (fieldAt r (76 + 2 * i) 2 ≠ 0xFFFF)

/-- Times that node n is named as a successor. -/
def named (rs : List (List Byte)) (n : Nat) : Nat := (rs.map fun r => (succsOf r).countP fun k => k = n).sum

/-- Nodes of a set that neither all leave it backwards nor forwards: what is left lies on a cycle or between cycles. -/
def trimOnce (rs : List (List Byte)) (left : List Nat) : List Nat :=
  left.filter fun n => (succsOf (rs.getD n [])).any (fun k => left.contains k)
    && left.any fun m => (succsOf (rs.getD m [])).contains n

/-- Trimming as often as there are nodes. -/
def trim (rs : List (List Byte)) : Nat → List Nat → List Nat
  | 0, l => l
  | n + 1, l => if (trimOnce rs l).length = l.length then l else trim rs n (trimOnce rs l)

/-- The header limits of R87. -/
def headerBad (h : List Byte) : Bool :=
  let c := fieldAt h 0 2
  let sl := fieldAt h 4 4
  c = 0 ∨ fieldAt h 2 2 ≠ 0 ∨ sl < c ∨ 2 ^ 20 < sl ∨ fieldAt h 8 4 % 4 ≠ 0 ∨ 65536 < fieldAt h 8 4 ∨ fieldAt h 12 4 ≠ 0
    ∨ (h.drop 152).take 104 ≠ zeros 104

/-- The first failing node of a version with these records, 0xFFFF for the header (R89). -/
def graphFail (h : List Byte) (rs : List (List Byte)) : Option Nat :=
  let c := fieldAt h 0 2
  if headerBad h then some 0xFFFF
  else
    let cyc := trim rs c (List.range c)
    (List.range c).find? fun n =>
      nodeBad c (fieldAt h 8 4) (rs.getD n []) || decide (fieldAt (rs.getD n []) 64 2 ≠ named rs n) || cyc.contains n

/-! ### Reading a graph -/

/-- The records of nodes whose arena slots are given, read by r (an offset and a length). -/
def readRecords (r : State → Nat → Nat → Status × List Byte × State) (c slots : Nat) : List Nat → State → Status × List (List Byte) × State
  | [], s => (.ok, [], s)
  | i :: t, s =>
    let x := r s (arenaOff c slots i) 128
    if x.1 ≠ .ok then (x.1, [], x.2.2)
    else
      let y := readRecords r c slots t x.2.2
      (y.1, x.2.1 :: y.2.1, y.2.2)

/-- The arena slots that map v names. -/
def mapSlots (c v : Nat) (map : List Byte) : List Nat := (List.range c).map fun n => fieldAt map (4 * n + 0 * v) 4

/-! ### PUBLISH and PATCH (R90 to R92, R552) -/

/-- XLT_GRAPH_ASID of a function. -/
def graphAsid (s : State) (f : Nat) : Nat := fget s F.XLT_GRAPH_ASID.ASID f

/-- A read in the address space of a graph operation. -/
def gopRead (f ctx base : Nat) (s : State) (off n : Nat) : Status × List Byte × State :=
  vread s 210 7 f (graphAsid s f) ctx (base + off) n

/-- The device address of a byte of a graph, where it is in device memory (12 R378). -/
def graphAddr (s : State) (f ctx va : Nat) : Option Nat × State :=
  match translate s { id := 0, engine := 210, vm := f, asid := graphAsid s f, va := va, acc := .read, context := ctx } with
  | (.ok pa true _ _, s) => (some pa, s)
  | (_, s) => (none, s)

/-- The launches that hold a graph. -/
def liveOf (s : State) (fn idx : Nat) : List (Nat × Launch) :=
  s.fe.launches.filter fun e => e.2.graph.idx = idx ∧ inObj s fn idx

/-- Check 3 of R55 on a graph operation's object (log 23). -/
def gopRights (g : Obj) (stage : Option Obj) : Bool :=
  let stageOk : Bool := match stage with | some o => o.kind = 0 ∧ o.read ∧ (o.shared ∨ o.ctx = g.ctx) | none => true
  g.kind = 5 ∧ g.read ∧ g.write ∧ stageOk

/-- SCH_GRESULT of an operation that has ended. -/
def gResult (s : State) (f : Nat) (st : Status) (detail version : Nat) : State :=
  rset s .SCH_GRESULT (Status.code st <<< 48 + (detail % 2 ^ 16) <<< 32 + version % 2 ^ 32) f

/-- A PUBLISH's checks beyond the handles: the failure with its DETAIL, or the header and the device range. -/
def publishCheck (s : State) (f : Nat) (g : Obj) : (Status × Nat) × List Byte × GRange × State :=
  let none_ : GRange := { fn := f, obj := g.idx, lo := 0, hi := 0, protect := false }
  if g.size < 256 then ((.lengthExceedsObject, 0), [], none_, s) else
  let r := gopRead f g.ctx g.base s 0 256
  let h := r.2.1
  let c := fieldAt h 0 2
  if r.1 ≠ .ok then ((r.1, 0), [], none_, r.2.2)
  else if g.size < graphBytes c (fieldAt h 4 4) then ((.lengthExceedsObject, 0), [], none_, r.2.2)
  else if headerBad h then ((.badOpcode, 0xFFFF), [], none_, r.2.2)
  else
    let x := readRecords (gopRead f g.ctx g.base) c (fieldAt h 4 4) (List.range c) r.2.2
    if x.1 ≠ .ok then ((x.1, 0), [], none_, x.2.2)
    else match graphFail h x.2.1 with
      | some n => ((.badOpcode, n), [], none_, x.2.2)
      | none =>
        match graphAddr x.2.2 f g.ctx g.base with
        | (none, s) => ((.permission, 0), [], none_, s)
        | (some lo, s) =>
          match graphAddr s f g.ctx (g.base + g.size - 1) with
          | (none, s) => ((.permission, 0), [], none_, s)
          | (some hi, s) =>
            if hi = lo + (g.size - 1) then ((.ok, 0), h, { none_ with lo := lo, hi := hi + 1 }, s)
            else ((.permission, 0), [], none_, s)

/-- Arming, step 1 (12 R379): an entry set to WATCH; where the table is full, the earliest WATCH entry gives way and its graph
is made DIRTY. -/
def armRange (s : State) (g : GRange) : State :=
  let rest := s.xlt.ranges.filter fun x => ¬ (x.fn = g.fn ∧ x.obj = g.obj)
  if rest.length < 8192 then onXlt s fun x => { x with ranges := rest ++ [g] }
  else match rest.find? fun x => !x.protect with
    | none => s
    | some v => onXlt (setDirty s v.lo) fun x => { x with ranges := (rest.filter fun y => y ≠ v) ++ [g] }

/-- An accepted SCH_GCMD write: discarded while BUSY is 1. -/
def gCmd (s : State) (f : Nat) (k : State → State) : Out :=
  busWrite s .SCH_GCMD f 0 fun s => if flag s F.SCH_GRESULT.BUSY f then s else k s

/-- Both operations begin: BUSY, and the objects as their handles stand. STATUS, DETAIL and VERSION keep their values while BUSY is 1,
as R551 has it for the front end (log 121). -/
def gopBegin (s : State) (f op : Nat) : GOp × State :=
  ({ op := op, graph := objectOf s f (fget s F.SCH_GARG0.GRAPH f), stage := if op = 2 then objectOf s f (fget s F.SCH_GARG0.STAGE f) else none,
     count := fget s F.SCH_GARG1.COUNT f, offset := fget s F.SCH_GARG1.STAGE_OFFSET f }, fset s F.SCH_GRESULT.BUSY 1 f)

/-- GRAPH_PUBLISH (R90, R91, R552): the graph is read and checked, and where it passes, arming begins. -/
def execGraphPublish (f : Nat) (s : State) : Out :=
  gCmd s f fun s =>
    let b := gopBegin s f 1
    let done (s : State) (e : Option (Status × Nat)) : State :=
      onFe s fun x => { x with gops := tset x.gops f { b.1 with failed := e } }
    match b.1.graph with
    | none => done b.2 (some (.staleHandle, 0))
    | some g =>
      if ¬ gopRights g none ∨ liveOf b.2 f g.idx ≠ [] then done b.2 (some (.permission, 0)) else
      let r := publishCheck b.2 f g
      if r.1.1 ≠ .ok then done r.2.2.2 (some r.1)
      else
        let s := armRange r.2.2.2 r.2.2.1
        done (invRequest s { src := .graph f, op := .outputRange r.2.2.1.lo (r.2.2.1.hi - r.2.2.1.lo) }) none

/-- GRAPH_PATCH (R90, R92, R552). -/
def execGraphPatch (f : Nat) (s : State) : Out :=
  gCmd s f fun s =>
    let b := gopBegin s f 2
    onFe b.2 fun x => { x with gops := tset x.gops f b.1 }

/-- GCMD_UNDEFINED_OP (R90): an OP of 1 or 2 is no such write. -/
def execGcmdUndefinedOp (f op : Nat) (s : State) : Out :=
  gCmd s f fun s => if op % 16 = 1 ∨ op % 16 = 2 then s else gResult s f .badOpcode 0 0

/-- The number of the version that the object at an index last got (R91). -/
def versionsOf (s : State) (idx : Nat) : Nat := match tget s.fe.objs idx with | some o => o.versions | none => 0

/-- A version number is used. -/
def versionMade (s : State) (idx v : Nat) : State := onFe s fun x => { x with objs := tupd x.objs idx fun o => { o with versions := v } }

/-- PUBLISH takes effect (R91): version slots freed, map 0 built and made current, masks, STATE. R90 refuses a PATCH whose number
would be 0xFFFF_FFFF and no PUBLISH: after that number a PUBLISH starts at 1 again (log 125). -/
def publishEffect (s : State) (f lo idx : Nat) : State :=
  let h := (graphRead s lo 0 256).2.1
  let c := fieldAt h 0 2
  let sl := fieldAt h 4 4
  let v := wrapInc (versionsOf s idx) 32
  let s := graphWrite s lo 24 (natLe v 4 ++ zeros 2 ++ natLe 1 1 ++ zeros 121)
  let s := graphWrite s lo (mapOff c 0 0) ((List.range c).flatMap fun n => natLe n 4)
  let s := graphWrite s lo (masksOff c) (((List.range sl).flatMap fun i => natLe (b2n (decide (i < c))) 2))
  gResult (versionMade (graphWrite s lo 16 (natLe v 4 ++ natLe 1 4)) idx v) f .ok 0 v

/-- The staged records of a PATCH, as (node, record). -/
def staged (bs : List Byte) (n : Nat) : List (Nat × List Byte) :=
  (List.range n).map fun i => (fieldAt bs (132 * i) 4, (bs.drop (132 * i + 4)).take 128)

/-- The free arena slots, lowest first. -/
def freeArena (masks : List Byte) (slots : Nat) : List Nat := (List.range slots).filter fun i => fieldAt masks (2 * i) 2 = 0

/-- PATCH is performed (R90, R92): the first failing condition with its DETAIL, or the new version. What R90 leaves open is fixed as
follows: a misaligned STAGE_OFFSET is tested after the LENGTH_RANGE row (log 122), DETAIL is 0 after a failure other than R89's (log
123), and the lowest free version slot and arena slots are taken (log 124). -/
def patchRun (s : State) (f lo : Nat) (g st : Obj) (count off : Nat) : (Status × Nat × Nat) × State :=
  let hr := graphRead s lo 0 256
  if hr.1 ≠ .ok then ((hr.1, 0, 0), hr.2.2) else
  let h := hr.2.1
  let c := fieldAt h 0 2
  let sl := fieldAt h 4 4
  let s := hr.2.2
  if bits (fieldAt h 20 4) 1 0 ≠ 1 then ((.staleHandle, 0, 0), s)
  else if g.size < graphBytes c sl ∨ st.size < off + 132 * count then ((.lengthExceedsObject, 0, 0), s)
  else
    let mr := graphRead s lo (masksOff c) (2 * sl)
    let slot := (List.range 16).find? fun v => byteAt h (30 + 8 * v) = 0
    let arena := freeArena mr.2.1 sl
    let v := versionsOf s g.idx + 1
    if mr.1 ≠ .ok then ((mr.1, 0, 0), mr.2.2)
    else match slot with
    | none => ((.lengthRange, 0, 0), mr.2.2)
    | some slot =>
      if count = 0 ∨ 4096 < count ∨ arena.length < count ∨ v = 2 ^ 32 - 1 then ((.lengthRange, 0, 0), mr.2.2)
      else if off % 4 ≠ 0 then ((.badAlignment, 0, 0), mr.2.2)
      else
        let sr := gopRead f st.ctx st.base mr.2.2 off (132 * count)
        if sr.1 ≠ .ok then ((sr.1, 0, 0), sr.2.2) else
        let news := staged sr.2.1 count
        let idx := news.map Prod.fst
        if idx.any (fun n => decide (c ≤ n)) ∨ idx.eraseDups.length ≠ count then ((.badOpcode, 0, 0), sr.2.2) else
        let cur := ((List.range 16).find? fun k => byteAt h (30 + 8 * k) = 1).getD 0
        let map := graphRead sr.2.2 lo (mapOff c cur 0) (4 * c)
        let old := mapSlots c cur map.2.1
        let rs := readRecords (fun s o n => graphRead s lo o n) c sl old map.2.2
        let place := (news.zip arena).map fun x => (x.1.1, x.2, x.1.2)
        let find (n : Nat) := place.find? fun x => x.1 = n
        let recs := rs.2.1.zipIdx.map fun x => match find x.2 with | some y => y.2.2 | none => x.1
        if map.1 ≠ .ok then ((map.1, 0, 0), map.2.2)
        else if rs.1 ≠ .ok then ((rs.1, 0, 0), rs.2.2)
        else match graphFail h recs with
        | some n => ((.badOpcode, n, 0), rs.2.2)
        | none =>
          let newMap := old.zipIdx.map fun x => match find x.2 with | some y => y.2.1 | none => x.1
          let s := place.foldl (fun s x => graphWrite s lo (arenaOff c sl x.2.1) x.2.2) rs.2.2
          let s := graphWrite s lo (mapOff c slot 0) (newMap.flatMap fun i => natLe i 4)
          -- the old current version becomes retiring, or is reclaimed where no launch holds it (R94)
          let gone : Bool := fieldAt h (28 + 8 * cur) 2 = 0
          let s := if gone then graphWrite s lo (24 + 8 * cur) (zeros 8) else graphWrite s lo (30 + 8 * cur) (natLe 2 1)
          let masks := (List.range sl).flatMap fun i =>
            let m := fieldAt mr.2.1 (2 * i) 2
            let m := if gone then setBits m cur cur 0 else m
            natLe (if newMap.contains i then setBits m slot slot 1 else m) 2
          let s := graphWrite s lo (masksOff c) masks
          let s := graphWrite s lo (24 + 8 * slot) (natLe v 4 ++ zeros 2 ++ natLe 1 1 ++ zeros 1)
          ((.ok, 0, v), versionMade (graphWrite s lo 16 (natLe v 4)) g.idx v)

/-- The arming invalidation of a function's PUBLISH has not been acknowledged everywhere. -/
def arming (s : State) (f : Nat) : Bool :=
  s.xlt.invWaiting.any (fun i => i.src == .graph f) || (match s.xlt.invNow with | some (i, _) => i.src == .graph f | none => false)

/-- GRAPH_OP_COMPLETE (R552): the operation of function f takes effect in the step in which BUSY falls. -/
def execGraphOpComplete (f : Nat) (s : State) : Out :=
  unitStep s 0x113 fun s =>
    match tget s.fe.gops f with
    | none => s
    | some op =>
      if arming s f then s else
      let s := onFe s fun x => { x with gops := tdel x.gops f }
      match op.failed, op.graph with
      | some e, _ => gResult s f e.1 e.2 0
      | none, none => gResult s f .staleHandle 0 0
      | none, some g =>
        if op.op = 1 then
          match graphRange s f g.idx with
          | none => gResult s f .permission 0 0
          | some r => if liveOf s f g.idx = [] then publishEffect s f r.lo g.idx else gResult s f .permission 0 0
        else match op.stage with
          | none => gResult s f .staleHandle 0 0
          | some st =>
            if ¬ gopRights g (some st) then gResult s f .permission 0 0 else
            match graphRange s f g.idx with
            | none => gResult s f .staleHandle 0 0
            | some r =>
              let x := patchRun s f r.lo g st op.count op.offset
              gResult x.2 f x.1.1 x.1.2.1 x.1.2.2

/-! ### Launches (R97 to R101) -/

/-- Changes a launch. -/
def onLaunch (s : State) (l : Nat) (f : Launch → Launch) : State := onFe s fun x => { x with launches := tupd x.launches l f }

/-- How a launch starts. -/
inductive LStart where
  | wait
  | fail (st : Status) (addr : Nat)
  | ok (l : Nat)
  deriving DecidableEq, Repr, Inhabited

/-- Where the arguments of a launch come from: a virtual address, or bytes at hand (10 R298). -/
inductive LArgs where
  | at_ (va : Nat)
  | bytes (l : List Byte)
  deriving DecidableEq, Repr, Inhabited

/-- Device address of 2 * n bytes of the scratch pool that no live launch holds, the lowest (R98, log 44); none where there is no room. -/
def scratchFree (s : State) (n : Nat) : Option Nat :=
  let lo := fget s F.SCH_SCRATCH.BASE * 256
  let hi := lo + fget s F.SCH_SCRATCH.SIZE * 65536
  let held := s.fe.launches.map fun e => (e.2.scratch, 2 * e.2.nodes)
  (sortBy (fun a => a) (lo :: held.map fun h => h.1 + h.2)).find? fun a =>
    decide (lo ≤ a ∧ a + 2 * n ≤ hi) && held.all fun h => !rangesMeet a (2 * n) h.1 h.2

/-- The live-launch count of a version slot changes. -/
def liveCount_ (s : State) (lo slot n : Nat) : State := graphWrite s lo (28 + 8 * slot) (natLe n 2)

/-- A launch wins the graph arbiter (R93, R97 to R99, 12 R381). -/
def launchStart (s : State) (owner : LOwner) (q : Queue) (g : Obj) (version : Nat) (args : LArgs) : LStart × State :=
  match graphRange s q.fn g.idx with
  | none => (.fail .staleHandle 0, s)
  | some r =>
    let hr := feRead s q g.base 256
    let h := hr.2.1
    if hr.1 ≠ .ok then (.fail hr.1 hr.2.2.xlt.failAddr, hr.2.2) else
    match graphSlot h version with
    | none => (.fail .staleHandle 0, hr.2.2)
    | some slot =>
      let c := fieldAt h 0 2
      let n := fieldAt h (28 + 8 * slot) 2
      let s := hr.2.2
      match (if n = 65535 ∨ 4096 ≤ s.fe.launches.length then none else scratchFree s c) with
      | none => (.wait, s)
      | some scratch =>
      let ar := match args with
        | .at_ va => feRead s q va (fieldAt h 8 4)
        | .bytes l => (.ok, l.take (fieldAt h 8 4), s)
      if ar.1 ≠ .ok then (.fail ar.1 ar.2.2.xlt.failAddr, ar.2.2) else
      let mr := feRead ar.2.2 q (g.base + mapOff c slot 0) (4 * c)
      if mr.1 ≠ .ok then (.fail mr.1 mr.2.2.xlt.failAddr, mr.2.2) else
      let rr := readRecords (fun s o n => feRead s q (g.base + o) n) c (fieldAt h 4 4) (mapSlots c slot mr.2.1) mr.2.2
      if rr.1 ≠ .ok then (.fail rr.1 rr.2.2.xlt.failAddr, rr.2.2)
      else
        let counters := rr.2.1.map fun b => fieldAt b 64 2
        let s := liveCount_ rr.2.2 r.lo slot (n + 1)
        let s := graphWrite s scratch 0 (counters.flatMap fun k => natLe k 2)
        let s := onXlt s fun x => { x with ranges := x.ranges.map fun y => if y = r then { y with protect := true } else y }
        let l := s.fe.nextLaunch
        (.ok l, onFe s fun x => { x with
          nextLaunch := l + 1
          launches := tset x.launches l (Launch.mk owner g (fieldAt h (24 + 8 * slot) 4) slot ar.2.1 q scratch c
            ((List.range c).filter fun n => counters.getD n 1 = 0) [] [] [] [] none 0 0 false) })

/-- The queue that a launch belongs to. -/
def launchQueue (x : Launch) : Nat × Nat := match x.owner with | .entry q n => (q, n) | .step q n => (q, n)

/-- The live-launch count of a launch is released and its record freed; a retiring version whose count reaches 0 is reclaimed,
and where no launch of the graph is left its range turns back to WATCH (R94, 12 R381). -/
def launchRelease (s : State) (l : Nat) : State :=
  match tget s.fe.launches l with
  | none => s
  | some x =>
    let s := onFe s fun y => { y with launches := tdel y.launches l }
    let s := match passOf s (2 ^ 14 + l) with | some (p, _) => passDiscard s p | none => s
    let s := onFe s fun y => { y with tasks := y.tasks.filter fun e =>
      !e.2.ended || (match e.2.owner with | .node m _ => decide (m ≠ l) | .entry _ _ => true) }
    match s.xlt.ranges.find? fun r => r.obj = x.graph.idx with
    | none => s
    | some r =>
      let h := (graphRead s r.lo 0 256).2.1
      let c := fieldAt h 0 2
      let sl := fieldAt h 4 4
      let n := fieldAt h (28 + 8 * x.slot) 2 - 1
      let s := liveCount_ s r.lo x.slot n
      let s := if n = 0 ∧ byteAt h (30 + 8 * x.slot) = 2 then
          let masks := (graphRead s r.lo (masksOff c) (2 * sl)).2.1
          let s := graphWrite s r.lo (24 + 8 * x.slot) (zeros 8)
          graphWrite s r.lo (masksOff c) ((List.range sl).flatMap fun i => natLe (setBits (fieldAt masks (2 * i) 2) x.slot x.slot 0) 2)
        else s
      if s.fe.launches.any fun e => e.2.graph.idx = x.graph.idx then s
      else onXlt s fun y => { y with ranges := y.ranges.map fun z => if z = r then { z with protect := false } else z }

/-- The task of an owner. -/
def ownerTask (s : State) (o : Owner) : Option (Nat × Task) := s.fe.tasks.find? fun e => e.2.owner = o

/-- A launch whose started nodes have all ended, and of which no node is to start, finishes with its status (R101). -/
def launchSettle (s : State) (l : Nat) : State :=
  match tget s.fe.launches l with
  | none => s
  | some x =>
    if x.running ≠ [] ∨ x.fenceWait ≠ [] ∨ x.ready ≠ [] then s else
    let st := if x.discarded then .preemptedDiscarded else match x.fail with | some e => e.2 | none => .ok
    let s := launchRelease s l
    match x.owner with
    | .entry q n =>
      match ownerTask s (.entry q n) with
      | some (t, _) => endBare s t st x.failAddr (match x.fail with | some e => e.1 | none => 0xFFFF)
      | none => s
    | .step _ _ => onFe s fun y => { y with
        stepDone := tset y.stepDone l (st, x.failAddr, match x.fail with | some e => e.1 | none => 0xFFFF) }

/-- The open pass of a launch that fails or is discarded is discarded (07 R553); with failed set one whose PASS_END has started goes on
to its end, since nodes already started finish (R101, log 131). -/
def launchPass (s : State) (l : Nat) (failed : Bool) : State :=
  match passOf s (2 ^ 14 + l) with
  | some (p, x) => if failed ∧ x.ending.isSome then s else passDiscard s p
  | none => s

/-- No further node of a launch starts (R101). The first failure counts, and of those of one moment the lowest node's. -/
def launchFail (s : State) (l n : Nat) (st : Status) (addr : Nat := 0) : State :=
  launchPass (onLaunch s l fun x =>
    let first : Bool := match x.fail with | none => true | some e => decide (x.failTime = s.time ∧ n < e.1)
    if first then { x with fail := some (n, st), failAddr := addr, failTime := s.time, ready := [] } else { x with ready := [] }) l true

/-- The counter of node k of a launch goes down by one in the scratch pool: its new value. -/
def counterDown (s : State) (x : Launch) (k : Nat) : Nat × State :=
  let r := graphRead s x.scratch (2 * k) 2
  let v := leNat r.2.1 - 1
  (v, graphWrite r.2.2 x.scratch (2 * k) (natLe v 2))

/-- A node satisfies its successors (R99): their counters go down, and those that reach 0 become ready. -/
def nodeSatisfy (s : State) (l n : Nat) (succ : List Nat) : State :=
  match tget s.fe.launches l with
  | none => s
  | some x =>
    if x.satisfied.contains n then s else
    let r := succ.foldl (fun (a : List Nat × State) k =>
      let c := counterDown a.2 x k
      (if c.1 = 0 then a.1 ++ [k] else a.1, c.2)) ([], s)
    onLaunch r.2 l fun y => { y with
      satisfied := nins y.satisfied n
      ready := if y.fail.isSome ∨ y.discarded then [] else y.ready ++ r.1 }

/-- A ready node is read from its arena slot, in the address space of the launching queue (R99, 12 R352, R372). -/
def nodeFetch (s : State) (q : Queue) (x : Launch) (n : Nat) : Status × List Byte × State :=
  let hr := feRead s q x.graph.base 8
  if hr.1 ≠ .ok then (hr.1, zeros 128, hr.2.2) else
  let c := fieldAt hr.2.1 0 2
  let mr := feRead hr.2.2 q (x.graph.base + mapOff c x.slot n) 4
  if mr.1 ≠ .ok then (mr.1, zeros 128, mr.2.2)
  else feRead mr.2.2 q (x.graph.base + arenaOff c (fieldAt hr.2.1 4 4) (leNat mr.2.1)) 128

/-- The record of node n of a live launch at its device address, which nothing has written since it was read (R95). -/
def nodeRead (s : State) (x : Launch) (n : Nat) : Status × List Byte × State :=
  match s.xlt.ranges.find? fun r => r.obj = x.graph.idx with
  | none => (.staleHandle, zeros 128, s)
  | some r =>
    let hr := graphRead s r.lo 0 256
    let c := fieldAt hr.2.1 0 2
    let mr := graphRead hr.2.2 r.lo (mapOff c x.slot n) 4
    let b := graphRead mr.2.2 r.lo (arenaOff c (fieldAt hr.2.1 4 4) (leNat mr.2.1)) 128
    (if hr.1 ≠ .ok then hr.1 else if mr.1 ≠ .ok then mr.1 else b.1, b.2.1, b.2.2)

/-- The ENTRY of a node record with its ARG_SUBST words replaced (R88, R99). -/
def substitute (r : List Byte) (args : List Byte) : List Byte :=
  (List.range 4).foldl (fun e i =>
    let x := fieldAt r (68 + 2 * i) 2
    if x / 4096 = 0 then e else putAt e (4 * (x / 4096)) (natLe (fieldAt args (4 * (x % 4096)) 4) 4)) (r.take 64)

end Sys2Proof.Machine
end

