-- ==== Sys2Proof/Machine/SeqOps.lean ====
section
/-!
DEFINITION. Machine/SeqOps.lean: slots, their pages and the KV pool (10 R288 to R293, R301, R304): what the front end's
teardown and the sequence unit share.
-/

namespace Sys2Proof.Machine

/-- Changes the sequence serving unit. -/
def onSeq (s : State) (f : Seq → Seq) : State := { s with seq := f s.seq }
/-- Changes a slot. -/
def onSlotS (s : State) (i : Nat) (f : Slot → Slot) : State := onSeq s fun x => { x with slots := tupd x.slots i f }
/-- A slot that is not FREE. -/
def slotAt (s : State) (i : Nat) : Option Slot := tget s.seq.slots i

/-- The slot index lies in the partition of a function. -/
def inSlots (s : State) (f i : Nat) : Bool :=
  16 * fget s F.SEQ_PART.BASE 0 f ≤ i ∧ i < 16 * (fget s F.SEQ_PART.BASE 0 f + fget s F.SEQ_PART.COUNT 0 f)

/-- A slot handle (R288). -/
def sHandle (i gen : Nat) : Nat := gen * 4096 + i

/-- The live slot of function f that a handle names. -/
def slotOf (s : State) (f h : Nat) : Option (Nat × Slot) :=
  match slotAt s (h % 4096) with
  | some x => if h ≠ 0 ∧ x.gen = h / 4096 ∧ x.fn = f then some (h % 4096, x) else none
  | none => none

/-- A slot returns to FREE: its generation goes up (R288). -/
def slotFree (s : State) (i : Nat) : State :=
  match slotAt s i with
  | none => s
  | some x => onSeq s fun y => { y with
      slots := tdel y.slots i
      gens := tset y.gens i (wrapInc x.gen 20)
      order := tmod y.order x.fn [] fun l => ndel l i }

/-- A slot leaves (R291): to LEAVING, or at once to ENDED with KEEP_KV. -/
def slotLeave (s : State) (i reason : Nat) : State :=
  match slotAt s i with
  | none => s
  | some x =>
    let s := onSlotS s i fun y => { y with state := if x.keep then .ended else .leaving, reason := reason, cancel := false, hold := false }
    onSeq s fun y => { y with order := tmod y.order x.fn [] fun l => ndel l i }

/-- HOLD takes effect. -/
def slotHold (s : State) (i : Nat) : State :=
  match slotAt s i with
  | none => s
  | some x =>
    match x.state with
    | .prefill | .decode =>
      let s := onSlotS s i fun y => { y with state := .held (decide (x.state = .decode)), hold := false }
      onSeq s fun y => { y with order := tmod y.order x.fn [] fun l => ndel l i }
    | _ => s

/-- Pending CANCEL and HOLD of a slot take effect (R301, R302). -/
def slotPending (s : State) (i : Nat) : State :=
  match slotAt s i with
  | none => s
  | some x => if x.cancel then slotLeave s i 4 else if x.hold then slotHold s i else s

/-! ### Pages (R292, R293) -/

/-- The leaf entry of a 64 KiB page: present, read and write. -/
def kvLeafWord (page : Nat) : Nat := page + 0x19

/-- A leaf entry of a slot's window is written; an IPA in device memory is refused (R292). -/
def leafWrite (s : State) (x : Slot) (i word : Nat) : Status × State :=
  let q : XReq := { id := 0, engine := 210, vm := x.fn, asid := x.asid, va := x.kvBase + 65536 * i, acc := .write, context := x.ctx }
  let r := tableTarget 40 (resolveIpa s { req := q, aim := .table 3 true, ipa := x.kvLeaf + 8 * i, s2 := none, readAt := 0, noCache := true })
  match r.1 with
  | .ok a => (.ok, hostWrite r.2 a (natLe word 8))
  | .error (.fault st a b c d) => (st, failedAt (xltFault r.2 q (.fault st a b c d)) (x.kvLeaf + 8 * i))
  | .error (.ok _ _ _ _) => (.ok, r.2)

/-- The KV pool object of a function; none acts as an empty pool (R312). -/
def kvPool (s : State) (f : Nat) : Option Obj :=
  match objectOf s f (fget s F.SEQ_KV_POOL.HANDLE f) with
  | some o => if o.read ∧ o.write ∧ o.kind = 0 then some o else none
  | none => none

/-- The top page of a function's pool is popped, in the address space of a slot. -/
def poolPop (s : State) (x : Slot) : Status × Nat × State :=
  let top := fget s F.SEQ_KV_TOP.TOP x.fn
  match kvPool s x.fn with
  | none => (.staleHandle, 0, s)
  | some o =>
    let r := vread s 210 7 x.fn x.asid x.ctx (o.base + 8 * (top - 1)) 8
    if r.1 = .ok then (.ok, leNat r.2.1, fset r.2.2 F.SEQ_KV_TOP.TOP (top - 1) x.fn) else (r.1, 0, r.2.2)

/-- A page is pushed. -/
def poolPush (x : Slot) (s : State) (page : Nat) : State :=
  let top := fget s F.SEQ_KV_TOP.TOP x.fn
  match kvPool s x.fn with
  | none => s
  | some o =>
    let w := vwrite s 210 7 x.fn x.asid x.ctx (o.base + 8 * top) (natLe page 8)
    if w.1 = .ok then fset w.2 F.SEQ_KV_TOP.TOP (top + 1) x.fn else w.2

/-- Every mapped leaf entry of a slot is written not present. -/
def unmapAll (s : State) (x : Slot) : State := x.pages.foldl (fun s p => (leafWrite s x p.1 0).2) s

/-- A slot of the function holds a page. -/
def holdsPage (s : State) (f : Nat) : Bool := s.seq.slots.any fun e => e.2.fn = f ∧ e.2.pages ≠ []

/-- The object is named by SEQ_KV_POOL of a function whose pool or slots hold pages (02 R58). -/
def poolUses (s : State) (o : Obj) : Bool :=
  (List.range 16).any fun f => fget s F.SEQ_KV_POOL.HANDLE f = oHandle o.idx o.gen ∧ (fget s F.SEQ_KV_TOP.TOP f ≠ 0 ∨ (holdsPage s f : Bool))

/-! ### The ring engine's end -/

/-- A ring step is over: SEQ_RING_STATUS reports the status of its exchanges, OK where none of R310's causes arose (log 134). A
message that has arrived since waits for the next ring step (log 135). -/
def ringStop (s : State) : State :=
  let st := match s.seq.ring with | some g => g.failed.getD .ok | none => .ok
  let s := fset s F.SEQ_RING_STATUS.BUSY 0
  let s := fset s F.SEQ_RING_STATUS.STATUS (Status.code st)
  onSeq s fun x => { x with ring := none, aborts := [] }

/-- A SEQ_STEP's run is gone; slots of its batch take their pending CANCEL or HOLD (R302). -/
def runDrop (s : State) (t : Nat) : State :=
  match tget s.seq.runs t with
  | none => s
  | some r =>
    let s := onSeq s fun x => { x with runs := tdel x.runs t }
    let s := if r.ring then ringStop s else s
    r.rows.foldl (fun s w => slotPending s w.slot) s

end Sys2Proof.Machine
end

