-- ==== Sys2Proof/Machine/Entries.lean ====
section
/-!
DEFINITION. Machine/Entries.lean: ring entries from fetch to finish (02 R49 to R71), what each command does when it starts, nodes of
a launch (03 R99 to R101), SCH_DISCARD (03 R82) and the teardown of a context (02 R70, R71).
-/

namespace Sys2Proof.Machine

/-! ### Starting a command -/

/-- How a command begins: it waits unstarted, it is running, or it has ended at once. -/
inductive Begin where
  | wait
  | started
  | ended (st : Status) (addr : Nat)
  deriving DecidableEq, Repr, Inhabited

/-- What a start works from: the checked command. -/
structure Cmd where
  who : Who
  owner : Owner
  raw : List Byte
  objs : Tbl Obj
  draw : Option DrawState := none
  batch : Nat := 0
  deriving DecidableEq, Repr, Inhabited

/-- The command as a task of an engine class with a number of items. -/
def Cmd.task (c : Cmd) (s : State) (e : Eng) (total : Nat) : Task :=
  { owner := c.owner, q := c.who.i, fn := c.who.q.fn, ctx := c.who.q.ctx, asid := c.who.q.asid, cls := c.who.q.cls, prio := c.who.q.prio,
    eng := e, raw := c.raw, objs := c.objs, draw := c.draw, total := total, start := s.time }

/-- A started command is held. -/
def addTask (s : State) (k : Task) : Nat × State :=
  (s.fe.nextTask, onFe s fun x => { x with nextTask := x.nextTask + 1, tasks := tset x.tasks x.nextTask k })

/-- The class has room for another started command (03 R73). -/
def room (s : State) (e : Eng) : Bool := e = .none ∨ classLoad s e < 256

/-- The command starts as a task, where its class has room. -/
def startTask (s : State) (c : Cmd) (e : Eng) (total : Nat) : Begin × State :=
  if room s e then (.started, (addTask s (c.task s e total)).2) else (.wait, s)

/-- Base of an object of a command. -/
def Cmd.base (c : Cmd) (off : Nat) : Nat := match tget c.objs off with | some o => o.base | none => 0

/-- A DRAW joins its pass when it starts, in its place of the primitive order (07 R196, R202, R553, 03 R73); the stream of an indirect one
begins once its arguments have been read. -/
def drawEnter (s : State) (t : Nat) (k : Task) (key : Nat) (d : DrawState) : State :=
  match passOf s key with
  | none => s
  | some (p, x) =>
    let s := onPass s p fun x => { x with draws := x.draws ++ [
      { owner := k.owner, task := t, raw := k.raw, objs := k.objs, state := d, released := x.failed, reading := k.reading }] }
    if x.failed then onTask s t fun k => { k with eng := .none } else s

/-- The place of DRAW t in its pass changes, and the pass goes on where it may. -/
def onDraw (s : State) (t : Nat) (f : PassDraw → PassDraw) : State :=
  s.gfx.passes.foldl (fun s e =>
    if e.2.draws.any fun d => d.task = t then
      tryClose (releaseDraws (onPass s e.1 fun x => { x with draws := x.draws.map fun d => if d.task = t then f d else d }) e.1) e.1
    else s) s

/-- DRAW. -/
def startDraw (s : State) (c : Cmd) : Begin × State :=
  match c.draw, passOf s c.who.key with
  | some d, some _ =>
    if ¬ room s .collator then (.wait, s) else
    let k := { c.task s .collator 0 with reading := decide (subOf c.raw = 2) }
    let a := addTask s k
    (.started, drawEnter a.2 a.1 k c.who.key d)
  | _, _ => (.ended .badOpcode 0, s)

/-- BIN PASS_BEGIN (07 R199, R200); a queue or launch holds one pass at a time (R196). -/
def startPassBegin (s : State) (c : Cmd) : Begin × State :=
  let e : Eng := if byteAt c.raw 16 = 0 then .raster else .collator
  if (passOf s c.who.key).isSome ∨ ¬ room s e then (.wait, s) else
  let k := c.task s e 0
  let a := addTask s k
  match passBegin a.2 a.1 k with
  | (.wait, _) => (.wait, s)
  | (.fail st addr, s) => (.ended st addr, onFe s fun x => { x with tasks := tdel x.tasks a.1 })
  | (.ok, s) => (.started, demand s 40)

/-- BIN PASS_END (07 R201): a GEOMETRY pass begins its final render; a ROUTE or BLOCK pass, all of whose earlier entries have
finished, frees its record. -/
def startPassEnd (s : State) (c : Cmd) : Begin × State :=
  match passOf s c.who.key with
  | none => (.ended .badOpcode 0, s)
  | some (p, x) =>
    if x.mode = 0 then
      let a := addTask s (c.task s .none 0)
      (.started, tryClose (onPass a.2 p fun x => { x with ending := some (c.owner, a.1) }) p)
    else if ¬ x.closed then (.wait, s)
    else (.ended .ok 0, passFree s p)

/-- Blocks of a DISPATCH. -/
def gridBlocks (raw : List Byte) : Nat := fieldAt raw 16 4 * fieldAt raw 20 4 * fieldAt raw 24 4

/-- DISPATCH: an indirect one reads its grid first (R53). -/
def startDispatch (s : State) (c : Cmd) : Begin × State :=
  if ¬ room s .shader then (.wait, s) else
  let indirect : Bool := subOf c.raw = 1
  (.started, (addTask s { c.task s .shader (if indirect then 0 else gridBlocks c.raw) with reading := indirect }).2)

/-- Every line of the folio range of a PRESS lies in a bank that the Press owns (14 R422). -/
def pressOwns (s : State) (raw : List Byte) : Bool :=
  match folioSide raw with
  | none => true
  | some o =>
    let off := fieldAt raw (if o = 8 then 24 else 40) 8
    let n := fieldAt raw (if o = 8 then 32 else 48) 8 / 128
    let cluster := off / 2 ^ 15
    let first := off % 2 ^ 15
    n = 0 ∨ (first + n ≤ 2 ^ 15 ∧ (upFrom (first / 2048) ((first + n - 1) / 2048 - first / 2048 + 1)).all fun b =>
      decide (fget s F.FOL_BANK.OWNER cluster b = 0x10))

/-- PRESS: its slices are its items, and one is ready while the job goes on. -/
def startPress (s : State) (c : Cmd) : Begin × State :=
  if ¬ room s .press then (.wait, s)
  else if ¬ pressOwns s c.raw then (.ended .permission 0, s)
  else (.started, (addTask s { c.task s .press 1 with press := some {} }).2)

/-- WAIT (R556). -/
def startWait (s : State) (c : Cmd) : Begin × State :=
  if subOf c.raw = 1 then (.started, (addTask s { c.task s .none 0 with reading := true }).2)
  else match queueOf s c.who.q.fn (fieldAt c.raw 8 4) with
    | none => (.ended .abandoned 0, s)
    | some (_, q) =>
      if fieldAt c.raw 16 8 ≤ q.seq then (.ended .ok 0, s)
      else if q.state = .killed then (.ended .abandoned 0, s)
      else startTask s c .none 0

/-- GRAPH_LAUNCH (03 R97, R98). -/
def startLaunch (s : State) (c : Cmd) : Begin × State :=
  match c.owner, tget c.objs 8 with
  | .entry q n, some g =>
    match launchStart s (.entry q n) c.who.q g (fieldAt c.raw 16 4) (.at_ (c.base 12 + fieldAt c.raw 20 4)) with
    | (.wait, s) => (.wait, s)
    | (.fail st a, s) => (.ended st a, s)
    | (.ok _, s) => startTask s c .none 0
  | _, _ => (.ended .badOpcode 0, s)

/-- Both ports are UP with PEER_MATCH (16 R476). -/
def ringReady (s : State) : Bool :=
  flag s F.SEQ_RING_CFG.EN ∧ domOn s 48 ∧ domOn s 49
    ∧ [0, 1].all fun p => fget s F.UAP_STATUS.STATE 0 p = 2 ∧ flag s F.UAP_STATUS.PEER_MATCH 0 p

/-- A ring step that needs a port in SLEEP wakes it (16 R473, R478). -/
def ringWake (s : State) : State :=
  if ¬ flag s F.SEQ_RING_CFG.EN then s else
  [0, 1].foldl (fun s p =>
    if fget s F.UAP_STATUS.STATE 0 p = 4 then
      demand (send { s with ports := tmod s.ports p {} fun x => { x with waking := true } } (.wakePattern p)) (48 + p)
    else s) s

/-- SEQ_STEP (10 R295, R305): a second one of its context waits, and a second ring step; a ring step needs its ring. -/
def startStep (s : State) (c : Cmd) : Begin × State :=
  let ring := bit (byteAt c.raw 28) 0
  match c.owner with
  | .node _ _ => (.ended .badOpcode 0, s)
  | .entry q n =>
    if s.seq.runs.any (fun e => decide (e.2.ctx = c.who.q.ctx) || (ring && e.2.ring)) then (.wait, s)
    else if ring ∧ ¬ ringReady s then (.ended .domainOff 0, ringWake s)
    else
      let a := addTask s (c.task s .none 0)
      let r : SeqRun := { q := q, seq := n, fn := c.who.q.fn, ctx := c.who.q.ctx, asid := c.who.q.asid, home := c.who.q, ring := ring,
                          batch := c.batch, left := fieldAt c.raw 12 4 }
      let s := if ring then rset a.2 .SEQ_RING_STATUS (2 ^ 63 + fget s F.SEQ_RING_STATUS.STATUS <<< 48) else a.2
      (.started, onSeq s fun x => { x with runs := tset x.runs a.1 r })

/-! ### QUERY (R69, R557) -/

/-- FE_QSTATE of a queue (R43, FE_QSTATE). -/
def stateCode : QState → Nat
  | .active => 1 | .idleArmed => 2 | .idle => 3 | .stopped => 4 | .drain => 5 | .kill => 6 | .killed => 7

/-- The word of FE_QSTATE. -/
def qStateWord (q : Queue) : Nat := Status.code q.lastStatus <<< 56 + stateCode q.state <<< 52 + q.fetch % 2 ^ 32

/-- Entries of a queue above a number that are known. -/
def knows (q : Queue) (n : Nat) : Bool := q.entries.any fun e => e.seq = n

/-- The bytes of the entry numbered n as they stand in the ring, in native form (R46, R56). -/
def ringEntry (s : State) (q : Queue) (n : Nat) : Status × List Byte × State :=
  let size := if q.legacy then 32 else 64
  let r := feRead s q (q.ringBase + size * ((n - 1) % 2 ^ q.ringLog2)) size
  (r.1, if q.legacy then fromLegacy r.2.1 n else r.2.1, r.2.2)

/-- Numbers of the entries of a queue that have not been fetched, up to the doorbell shadow. -/
def unfetched (q : Queue) : List Nat :=
  let lo := if q.resident then q.seq else q.fetch
  upFrom (lo + 1) (sub32 q.shadow (lo % 2 ^ 32))

/-- Unsignalled fences of a queue (R71 step 3, R66): number and cookie. An unfetched entry whose read faults names no fence: what it
would have asked for is not known (log 120). -/
def fencesOf (s : State) (q : Queue) : List (Nat × Nat) × State :=
  let known := ((q.owed ++ q.entries).filter fun e => wantsFence e ∧ ¬ e.signalled).map fun e => (e.seq, cookieOf e)
  if q.swept then ([], s) else
  (unfetched q).foldl (fun a n =>
    if knows q n then a else
    let r := ringEntry a.2 q n
    (if r.1 = .ok ∧ bit (byteAt r.2.1 2) 0 then a.1 ++ [(n, fieldAt r.2.1 56 8)] else a.1, r.2.2)) (known, s)

/-- Queues of a context that are not FREE. -/
def ctxQueues (s : State) (c : Nat) : List (Nat × Queue) := s.fe.queues.filter fun e => e.2.ctx = c

/-- A bank is held for a context (log 24). -/
def bankHeld (s : State) (c w b : Nat) : Bool :=
  let o := fget s F.FOL_BANK.OWNER w b
  if o = 1 then (unitTiles s w).any fun e =>
      (match passAt s e.2.pass with | some x => decide (x.ctx = c) | none => false)
        && e.2.runs.any fun r => decide (r.1 < (b + 1) * 2048 ∧ b * 2048 < r.1 + r.2)
  else if 2 ≤ o ∧ o ≤ 5 then
    match (engineAt s (4 * w + (o - 2))).block with
    | some k => (match blockAt s k with | some x => decide (x.ctx = c) | none => false)
    | none => false
  else if 8 ≤ o ∧ o ≤ 15 then (ovfLines s (8 * w + (o - 8))).any fun l => decide (l.ctx = c)
  else if o = 16 then s.fe.tasks.any fun e => decide (e.2.ctx = c ∧ e.2.eng = .press) && (folioSide e.2.raw).isSome
  else false

/-- Folio banks held for a context. -/
def banksHeld (s : State) (c : Nat) : Nat :=
  ((List.range 16).map fun w => (List.range 16).countP fun b => bankHeld s c w b).sum

/-- Quires that the open passes of a context hold. -/
def quiresHeld (s : State) (c : Nat) : Nat :=
  ((s.gfx.passes.filter fun e => e.2.ctx = c).map fun e =>
    e.2.nextQuire + (match e.2.flush with | .storing l => l.length | .none => 0)).sum

/-- The context is in quarantine (R71 steps 4 and 5). -/
def inQuarantine (s : State) (c : Nat) : Bool :=
  match tget s.fe.teardowns c with
  | some t => (match t.step with | .invalidating _ => true | _ => false)
  | none => false

/-- The record words of a QUERY. -/
def queryWords (s : State) (c : Cmd) : List Nat × State :=
  let ctx := fieldAt c.raw 24 2 % 4096
  match subOf c.raw with
  | 0 =>
    let u := tgetD s.fe.util ctx {}
    ([s.time, u.shader, u.accord, u.raster, u.collator, u.copy, (ctxQueues s ctx).length, 0], s)
  | 1 =>
    let objs := s.fe.objs.filter fun e => e.2.ctx = ctx
    let f := (ctxQueues s ctx).foldl (fun (a : Nat × State) e => let r := fencesOf a.2 e.2; (a.1 + r.1.length, r.2)) (0, s)
    ([s.time, (objs.map fun e => e.2.size).sum, objs.length, 4096 * quiresHeld s ctx, banksHeld s ctx, f.1, b2n (inQuarantine s ctx), 0], f.2)
  | 2 => ([s.time, 0, 0, 0, 0, 0, 0, 0], s)
  | _ =>
    let q := match queueOf s c.who.q.fn (fieldAt c.raw 28 4) with | some (_, q) => q | none => c.who.q
    ([s.time, q.seq, qStateWord q, q.fencePi, 0, 0, 0, 0], s)

/-- QUERY writes its record. -/
def startQuery (s : State) (c : Cmd) : Begin × State :=
  let w := queryWords s c
  let va := c.base 8 + fieldAt c.raw 16 8
  let r := feWrite w.2 c.who.q va (w.1.flatMap fun x => natLe x 8)
  (.ended r.1 va, match tget c.objs 8 with | some o => bumpVersion r.2 o.idx | none => r.2)

/-! ### QUEUE_DESTROY (R41) -/

/-- The key under which the work of a destroyed queue goes on: no queue has it, so that the end of that work reaches no later queue of the
index (log 126). -/
def orphanKey (i gen : Nat) : Nat := 2 ^ 32 + qHandle i gen

/-- What is under way for queue index i goes on under another key: started commands, launches, steps, teardown commands. -/
def orphanWork (s : State) (i key : Nat) : State :=
  let at_ (j : Nat) : Nat := if j = i then key else j
  let s := onFe s fun x => { x with
    tasks := x.tasks.map fun e => (e.1, { e.2 with owner := match e.2.owner with | .entry j n => .entry (at_ j) n | o => o })
    launches := x.launches.map fun e => (e.1, { e.2 with owner := match e.2.owner with | .entry j n => .entry (at_ j) n | .step j n => .step (at_ j) n })
    teardowns := x.teardowns.map fun e => (e.1, { e.2 with cmds := e.2.cmds.map fun c => (at_ c.1, c.2) }) }
  onSeq s fun x => { x with runs := x.runs.map fun e => (e.1, { e.2 with q := at_ e.2.q }) }

/-- A queue is freed (R41, 07 R203): its open pass is discarded, and the WAITs that await it end with ABANDONED (R556). -/
def queueFree (s : State) (i : Nat) (q : Queue) : State :=
  let s := match passOf s i with | some (p, _) => passDiscard s p | none => s
  let s := onFe (orphanWork s i (orphanKey i q.gen)) fun x => { x with queues := tdel x.queues i, qGen := tset x.qGen i (wrapInc q.gen 18) }
  waitsAbandoned s i

/-- QUEUE_DESTROY (R41). -/
def execQueueDestroy (f : Nat) (s : State) : Out :=
  qCmd s f fun s =>
    let h := qArg s f
    match queueOf s f h with
    | none => qResult s f .staleHandle h
    | some (i, q) =>
      if q.state = .idle ∨ q.state = .stopped ∨ q.state = .killed then qResult (queueFree s i q) f .ok h
      else qResult s f .permission h

/-! ### Discarding started commands -/

/-- A launch is discarded: no further node starts (03 R82), and its open pass is discarded (07 R553). -/
def launchDiscard (s : State) (l : Nat) : State := launchPass (onLaunch s l fun x => { x with discarded := true, ready := [] }) l false

/-- The launch of a GRAPH_LAUNCH entry or of a sequence-unit step. -/
def launchOf (s : State) (q n : Nat) : Option Nat :=
  (s.fe.launches.find? fun e => launchQueue e.2 = (q, n)).map Prod.fst

/-- No further item of the command is placed, and its items in flight are discarded at their pre-emption points (03 R82). -/
def discardTask (s : State) (t : Nat) : State :=
  match taskAt s t with
  | none => s
  | some k =>
    let s := onTask s t fun k => { k with stop := true, discarded := true, saved := [] }
    match k.eng with
    | .shader | .accord => discardItems s (some t) none
    | .copy | .press => s
    | .raster => match s.gfx.passes.find? (fun e => e.2.task = t) with | some (p, _) => passFail s p .preemptedDiscarded | none => s
    | .collator | .none =>
      if opOf k.raw = 2 then
        match s.gfx.passes.find? (fun e => decide (e.2.task = t) || (match e.2.ending with | some x => decide (x.2 = t) | none => false)) with
        | some (p, _) => passFail s p .preemptedDiscarded
        | none => s
      else if opOf k.raw = 1 then
        let mine (x : Pass) (i : Nat) : Bool := match x.draws[i]? with | some d => decide (d.task = t) | none => false
        let s := s.gfx.passes.foldl (fun s e =>
          let now : Bool := match e.2.batch with | some b => mine e.2 b.draw | none => false
          let s := onPass s e.1 fun x => { x with
            held := x.held.filter fun r => !mine x r.draw
            batch := if now then x.batch.map fun b => { b with prims := [], waiting := [] } else x.batch }
          if now then discardBlocks s fun k => decide (k.kind = .position e.1) else s) s
        onDraw s t fun d => { d with reading := false, at_ := { d.at_ with inst := 2 ^ 32 } }
      else endBare s t .preemptedDiscarded

/-- Every started node of a launch is discarded, and the launch settles as they end. -/
def discardLaunch (s : State) (l : Nat) : State :=
  let nodes := s.fe.tasks.filter fun e => match e.2.owner with | .node m _ => decide (m = l) | .entry _ _ => false
  (nodes.map Prod.fst).foldl (fun s t => match taskAt s t with | some k => if k.ended then s else discardTask s t | none => s) (launchDiscard s l)

/-- A command started by an entry is discarded by SCH_DISCARD (03 R82). -/
def discardCommand (s : State) (t : Nat) (k : Task) : State :=
  match k.owner with
  | .node _ _ => s
  | .entry q n =>
    if opOf k.raw = 9 then
      match launchOf s q n with
      | some l => launchSettle (discardLaunch (onTask s t fun k => { k with discarded := true }) l) l
      | none => endBare s t .preemptedDiscarded
    else if opOf k.raw = 10 then
      let s := match launchOf s q n with | some l => launchSettle (discardLaunch s l) l | none => s
      endBare (runDrop s t) t .preemptedDiscarded
    else if opOf k.raw = 12 then endBare s t .preemptedDiscarded
    else discardTask s t

/-- SCH_DISCARD (03 R82): the command of a queue whose low 32 sequence bits are given. -/
def execSchDiscard (h n : Nat) (s : State) : Out :=
  busWrite s .SCH_DISCARD 0 0 fun s =>
    if ¬ fwActive s then s else
    match queueAt s (h % 2 ^ 14) with
    | none => s
    | some q =>
      if h = 0 ∨ q.gen ≠ h / 2 ^ 14 then s else
      match s.fe.tasks.find? (fun e => match e.2.owner with | .entry i m => decide (i = h % 2 ^ 14 ∧ m % 2 ^ 32 = n % 2 ^ 32) | .node _ _ => false) with
      | some (t, k) =>
        let s := discardCommand s t k
        if k.cls = 1 ∨ k.cls = 2 then notice s 3 4 k.q else s
      | none => s

/-! ### Teardown (R70, R71) -/

/-- The copies and Press jobs of a context that have a chunk in flight run to the end of that chunk, their pre-emption point (03 R84); every
other started command of the context is gone. -/
def dropTasks (s : State) (c : Nat) : State :=
  let stays (k : Task) : Bool := (k.eng == .copy || k.eng == .press) && k.live != []
  onFe s fun x => { x with tasks :=
    (x.tasks.filter fun e => decide (e.2.ctx ≠ c) || stays e.2).map fun e =>
      if e.2.ctx = c then (e.1, { e.2 with stop := true, discarded := true, dropped := true, saved := [] }) else e }

/-- In-flight work of a context is discarded without finishing (R71 step 2, 10 R304). -/
def tdPreempt (s : State) (c : Nat) : State :=
  -- slots: the running step, and the leaf entries of every mapped page
  let s := (s.seq.runs.filter fun e => e.2.ctx = c).foldl (fun s e => runDrop s e.1) s
  let s := (s.seq.slots.filter fun e => e.2.ctx = c).foldl (fun s e => unmapAll s e.2) s
  -- passes and launches
  let s := (s.gfx.passes.filter fun e => e.2.ctx = c).foldl (fun s e => passDiscard s e.1) s
  let s := (s.fe.launches.filter fun e => e.2.home.ctx = c).foldl (fun s e => launchRelease s e.1) s
  -- items, then the tasks themselves
  let tasks := s.fe.tasks.filter fun e => e.2.ctx = c
  let s := tasks.foldl (fun s e => discardItems s (some e.1) none) s
  let s := (truBound s c).foldl truUnbind (dropTasks s c)
  let s := (ctxQueues s c).foldl (fun s e => onQueue s e.1 fun q => { q with
    entries := q.entries.map fun x => if isRunning x then { x with phase := .discarded } else x }) s
  onFe s fun x => { x with teardowns := tupd x.teardowns c fun t => { t with step := .preempting } }

/-- The sweep of R71 step 1: every queue of the context goes to KILL or DRAIN. -/
def tdSweep (s : State) (c : Nat) (drain : Bool) : State :=
  (ctxQueues s c).foldl (fun s e =>
    let live : Bool := match e.2.state with | .active | .idleArmed | .idle | .stopped => true | _ => false
    if live then drainCheck (onQueue s e.1 fun q => { q with state := if drain then .drain else .kill, arm := .none }) e.1 else s) s

/-- No queue of the context drains. -/
def tdDrained (s : State) (c : Nat) : Bool := (ctxQueues s c).all fun e => decide (e.2.state ≠ .drain)

/-- CONTEXT_TEARDOWN is accepted (R70, R71). -/
def startTeardown (s : State) (c : Cmd) : Begin × State :=
  match c.owner with
  | .node _ _ => (.ended .badOpcode 0, s)
  | .entry q n =>
    let ctx := fieldAt c.raw 8 2 % 4096
    let us := if fieldAt c.raw 12 4 = 0 then 1000 else fieldAt c.raw 12 4
    let s := (addTask s (c.task s .none 0)).2
    match tget s.fe.teardowns ctx with
    | some t => (.started, onFe s fun x => { x with teardowns := tset x.teardowns ctx { t with cmds := t.cmds ++ [(q, n)] } })
    | none =>
      let drain : Bool := subOf c.raw = 1
      let td : Teardown := { fn := c.who.q.fn, step := .draining (s.time + 1000 * us), cmds := [(q, n)] }
      let s := tdSweep (onFe s fun x => { x with teardowns := tset x.teardowns ctx td }) ctx drain
      (.started, if drain ∧ ¬ tdDrained s ctx then s else tdPreempt s ctx)

/-- DRAIN_TIMEOUT (R71 step 1). -/
def execDrainTimeout (c : Nat) (s : State) : Out :=
  unitStep s 0x112 fun s =>
    match tget s.fe.teardowns c with
    | some { step := .draining until_, .. } =>
      if s.time < until_ then s else
      let s := (ctxQueues s c).foldl (fun s e => onQueue s e.1 fun q => if q.state = .drain then { q with state := .kill } else q) s
      tdPreempt s c
    | _ => s

/-- Nothing of the context runs on an engine. -/
def tdIdle (s : State) (c : Nat) : Bool :=
  s.sc.blocks.all (fun e => e.2.ctx ≠ c) ∧ s.sc.saved.all (fun e => e.2.ctx ≠ c) ∧ s.gfx.passes.all (fun e => e.2.ctx ≠ c)
    ∧ s.fe.tasks.all fun e => e.2.ctx ≠ c ∨ ¬ e.2.dropped ∨ e.2.live = []

/-- Step 3 for one queue: its unsignalled fences, each with a KIND 2 record or, where the ring is full, counted as dropped. -/
def tdFences (s : State) (i : Nat) (st : Status := .abandoned) : State :=
  match queueAt s i with
  | none => s
  | some q =>
    let f := fencesOf s q
    let swept (s : State) : State := onQueue s i fun q => { q with
      swept := true, owed := q.owed.filter fun e => !wantsFence e, entries := q.entries.map fun e => { e with signalled := e.signalled || wantsFence e } }
    if f.1 = [] then swept f.2 else
    let s := f.1.foldl (fun s x =>
      match queueAt s i with
      | none => s
      | some q => if fenceRoom q then fenceWrite s i x.2 x.1 st 2
                  else onEntry (onQueue s i fun q => { q with dropped := (q.dropped + 1) % 2 ^ 32 }) i x.1 fun e => { e with phase := .fetched }) f.2
    msixRaise (tailWrite (swept s) i) q.fn q.fenceVec

/-- Address spaces of a context, those of its queues and slots, in ascending ASID order (12 R376). -/
def ctxSpaces (s : State) (c : Nat) : List (Nat × Nat) :=
  sortBy (fun x => x.2)
    (((ctxQueues s c).map fun e => (e.2.fn, e.2.asid)) ++ ((s.seq.slots.filter fun e => e.2.ctx = c).map fun e => (e.2.fn, e.2.asid))).eraseDups

/-- TEARDOWN_PREEMPT_DONE (R71 steps 3 and 4). -/
def execTeardownPreemptDone (c : Nat) (s : State) : Out :=
  unitStep s 0x112 fun s =>
    match tget s.fe.teardowns c with
    | none => s
    | some t =>
      let ready : Option State := match t.step with
        | .draining _ => if tdDrained s c then some (tdPreempt s c) else none
        | .preempting => some s
        | .invalidating _ => none
      match ready with
      | none => s
      | some s =>
        if ¬ tdIdle s c then s else
        let s := onFe s fun x => { x with tasks := x.tasks.filter fun e => ¬ (e.2.ctx = c ∧ e.2.dropped) }
        let s := (ctxQueues s c).foldl (fun s e => tdFences s e.1) s
        let spaces := ctxSpaces s c
        let s := spaces.foldl (fun s x => invRequest s { src := .teardown c, op := .range x.1 x.2 0 (2 ^ 48) }) s
        onFe s fun x => { x with teardowns := tupd x.teardowns c fun t => { t with step := .invalidating spaces.length } }

/-- Invalidations of a teardown that have not been acknowledged. -/
def tdInvs (s : State) (c : Nat) : Nat :=
  s.xlt.invWaiting.countP (fun i => i.src == .teardown c) + (match s.xlt.invNow with | some (i, _) => b2n (i.src == .teardown c) | none => 0)

/-- A queue goes to KILLED and its completion record is written once more, with SEQ over the entries that finished (R71 step 5); an
entry whose KIND 1 record finds the ring full has not (R65). -/
def killQueue (s : State) (i : Nat) : State :=
  let s := onQueue s i fun q => { q with state := .killed, arm := .none }
  match queueAt s i with
  | none => s
  | some q => waitsAbandoned (coverRun i (runNow q) s) i

/-- Slots of a torn-down context: their pages are pushed and they become FREE (10 R304). -/
def tdSlots (s : State) (c : Nat) : State :=
  (s.seq.slots.filter fun e => e.2.ctx = c).foldl (fun s e => slotFree (e.2.pages.foldl (fun s p => poolPush e.2 s p.2) s) e.1) s

/-! ### Function level reset of a VF (16 R464) -/

/-- Contexts of the partition of a function that are in use, rising. -/
def fnContexts (s : State) (f : Nat) : List Nat :=
  let used := (s.fe.queues.map fun e => e.2.ctx) ++ (s.seq.slots.map fun e => e.2.ctx) ++ (s.fe.objs.map fun e => e.2.ctx)
  (used.filter (inCtx s f)).foldl nins []

/-- Step 3: queues, objects, slots, reuse slots and what else belongs to the function is free. -/
def freeFunction (s : State) (f : Nat) : State :=
  let s := (s.fe.queues.filter fun e => e.2.fn = f).foldl (fun s e =>
    onFe s fun x => { x with queues := tdel x.queues e.1, qGen := tset x.qGen e.1 (wrapInc e.2.gen 18) }) s
  let objs := s.fe.objs.filter fun e => inObj s f e.1
  let s := objs.foldl (fun s e => onFe s fun x => { x with objs := tdel x.objs e.1, objGen := tset x.objGen e.1 (wrapInc e.2.gen 16) }) s
  let s := (s.seq.slots.filter fun e => e.2.fn = f).foldl (fun s e => slotFree s e.1) s
  let s := (List.range 16).foldl (fun s sl => if fget s F.TRU_SLOT_CFG.FUNCTION 0 sl = f then truUnbind s sl else s) s
  let s := onFe s fun x => { x with creating := tdel x.creating f, gops := tdel x.gops f }
  let s := onSeq s fun x => { x with admitting := tdel x.admitting f }
  onXlt s fun x => { x with
    ranges := x.ranges.filter fun g => g.fn ≠ f
    batches := tdel x.batches f, batchSerial := tdel x.batchSerial f, written := tdel x.written f
    atsEnabled := ndel x.atsEnabled f }

/-- Step 4: the function's windows, its channel and its MSI-X table are as after reset. -/
def resetWindows (s : State) (f : Nat) : State :=
  let s := keepRegs s fun r w _ => decide (r.place.kind = .pf ∨ w ≠ f)
  let s := onCcx s fun x => { x with channels := tdel x.channels (8 + f) }
  { s with hif := { s.hif with
      msix := s.hif.msix.filter fun e => e.1 / 2048 ≠ f
      pba := s.hif.pba.filter fun k => k / 2048 ≠ f
      cfg := tupd s.hif.cfg f fun c => { c with inFlr := false } } }

/-- Steps 3 and 4 of an FLR in progress, once no context of the function is under teardown. -/
def flrEnd (s : State) (f : Nat) : State :=
  if (fnCfg s f).inFlr ∧ ¬ (s.fe.teardowns.any fun e => e.2.fn = f) then resetWindows (freeFunction s f) f else s

/-- Step 2 for one context: its teardown in mode KILL begins; one in progress in mode DRAIN goes over to KILL. -/
def flrContext (f : Nat) (s : State) (c : Nat) : State :=
  match tget s.fe.teardowns c with
  | some { step := .draining _, .. } =>
    tdPreempt ((ctxQueues s c).foldl (fun s e => onQueue s e.1 fun q => if q.state = .drain then { q with state := .kill } else q) s) c
  | some _ => s
  | none =>
    let td : Teardown := { fn := f, step := .preempting }
    tdPreempt (tdSweep (onFe s fun x => { x with teardowns := tset x.teardowns c td }) c false) c

/-- An FLR of VF f begins: its memory requests are answered as in step 1 from here, its configuration is as after reset, and every context
of its partition in use is torn down. It ends at once where there is none. -/
def flrStart (s : State) (f : Nat) : State :=
  if (fnCfg s f).inFlr then s else
  let s := { s with hif := { s.hif with cfg := tset s.hif.cfg f { inFlr := true } } }
  flrEnd ((fnContexts s f).foldl (flrContext f) s) f

/-- TEARDOWN_QUARANTINE_END (R71 step 5). -/
def execTeardownQuarantineEnd (c : Nat) (s : State) : Out :=
  unitStep s 0x112 fun s =>
    match tget s.fe.teardowns c with
    | some { step := .invalidating _, cmds := cmds, fn := f } =>
      if tdInvs s c ≠ 0 then s else
      let s := (ctxQueues s c).foldl (fun s e => killQueue s e.1) s
      let s := tdSlots s c
      let s := onFe s fun x => { x with teardowns := tdel x.teardowns c, util := tdel x.util c }
      flrEnd (cmds.foldl (fun s x => match ownerTask s (.entry x.1 x.2) with | some (t, _) => endBare s t .ok | none => s) s) f
    | _ => s

/-! ### Starts of every class -/

/-- A checked command starts as its opcode class says. -/
def beginCmd (s : State) (c : Cmd) : Begin × State :=
  match opOf c.raw with
  | 1 => startDraw s c
  | 2 => if subOf c.raw = 0 then startPassBegin s c else startPassEnd s c
  | 3 => startDispatch s c
  | 4 => startTask s c .accord (((fieldAt c.raw 28 4 + 63) / 64) * ((fieldAt c.raw 24 4 + 63) / 64))
  | 5 => startTask s c .copy ((fieldAt c.raw 32 8 + 65535) / 65536)
  | 6 => startPress s c
  | 7 => (.ended .ok 0, s)
  | 8 => startWait s c
  | 9 => startLaunch s c
  | 10 => startStep s c
  | 11 => startQuery s c
  | _ => startTeardown s c

/-! ### Entries of a queue -/

/-- The entry has not started. -/
def unstarted (e : Entry) : Bool := match e.phase with | .fetched | .missing _ _ | .checked _ => true | _ => false
/-- The entry has not been checked. -/
def unchecked (e : Entry) : Bool := match e.phase with | .fetched | .missing _ _ => true | _ => false

/-- The front end may work on an entry of a queue (R43, R67): a stopped queue issues none beyond the stopped one. -/
def issuable (q : Queue) (n : Nat) : Bool :=
  match q.state with
  | .active | .idleArmed | .idle => true
  | .stopped => (match q.stoppedAt with | some m => decide (n < m) | none => false)
  | _ => false

/-- Every earlier entry of the queue has finished, its fence record not waiting for room (R50, R65). -/
def earlierDone (q : Queue) (n : Nat) : Bool := n ≤ oldest q + 1

/-- The entry starts only when every earlier one has finished: ORDER, FENCE, and the PASS_END of a ROUTE or BLOCK pass. -/
def ordered (s : State) (i : Nat) (raw : List Byte) : Bool :=
  orderOf raw || opOf raw == 7 || (opOf raw == 2 && subOf raw == 1 && (match passOf s i with | some (_, x) => decide (x.mode ≠ 0) | none => false))

/-- An earlier indirect command of the queue has not read its arguments. -/
def argsOpen (s : State) (i n : Nat) : Bool := s.fe.tasks.any fun e =>
  e.2.reading && e.2.eng != .none && (match e.2.owner with | .entry j m => decide (j = i ∧ m < n) | .node _ _ => false)

/-- The next entry of a queue starts, if it is checked and order and room allow (R62, 03 R73). -/
def beginEntry (s : State) (i : Nat) : State :=
  match queueAt s i with
  | none => s
  | some q =>
    match q.entries.find? unstarted with
    | none => s
    | some e =>
      match e.phase with
      | .checked noop =>
        if ¬ issuable q e.seq ∨ (ordered s i e.raw ∧ ¬ earlierDone q e.seq) ∨ argsOpen s i e.seq then s
        else if noop then entryEnd s i e.seq .ok
        else
          let c : Cmd := { who := { i := i, q := q, key := i, node := false }, owner := .entry i e.seq, raw := e.raw, objs := e.objs,
                           draw := e.draw, batch := e.batch }
          match beginCmd (onEntry s i e.seq fun x => { x with phase := .running }) c with
          | (.wait, _) => s
          | (.started, s) => s
          | (.ended st addr, s) => entryEnd s i e.seq st addr
      | _ => s

/-- The entry may be checked: entries are checked in order, and none behind a PASS_BEGIN that has not started or failed
(07 R198). -/
def checkable (s : State) (i : Nat) (q : Queue) (e : Entry) : Bool :=
  issuable q e.seq
    && !(q.entries.any fun x => decide (x.seq < e.seq) && unstarted x && opOf x.raw == 2 && subOf x.raw == 0 && x.phase != .checked true)
    && (match passOf s i with | some (_, x) => !x.reading | none => true)

/-- The next entry of a queue to be checked. -/
def nextCheck (s : State) (i : Nat) : Option (Queue × Entry) :=
  match queueAt s i with
  | none => none
  | some q =>
    match q.entries.find? unchecked with
    | some e => if checkable s i q e then some (q, e) else none
    | none => none

/-- An entry is checked: rejected, or relocated, and then it starts if it may (R55, R59); bad: a read of its object-table entries
has failed. -/
def checkNow (s : State) (i : Nat) (q : Queue) (e : Entry) (bad : Option Status := none) : State :=
  let r := checkEntry s { i := i, q := q, key := i, node := false } e.seq e.raw
  match (r.1.missed bad).rejects with
  | some st => entryEnd r.2 i e.seq st (accessAddr r.2 st)
  | none => beginEntry (onEntry r.2 i e.seq fun x => { x with
      objs := r.1.objs, draw := r.1.draw, batch := rget s .SEQ_BATCH q.fn, phase := .checked r.1.zero }) i

/-- An entry whose OPCODE or SUBOP is undefined is rejected in its turn (R51). -/
def rejectUndefined (i : Nat) : Nat → State → State
  | 0, s => s
  | n + 1, s =>
    match nextCheck s i with
    | none => s
    | some (q, e) =>
      if ¬ opDefined e.raw ∨ (q.legacy ∧ ¬ legacyOp e.raw) then rejectUndefined i n (entryEnd s i e.seq .badOpcode) else s

/-- As many turns as the queue has entries. -/
def sweepUndefined (s : State) (i : Nat) : State :=
  rejectUndefined i (match queueAt s i with | some q => q.entries.length | none => 0) s

/-- The front end fetches the next entry of a queue: one already known is passed over (R44); a fetch that faults stops the
queue. -/
def fetchOne (s : State) (i : Nat) : State :=
  match queueAt s i with
  | none => s
  | some q =>
    let n := q.fetch + 1
    if knows q n then onQueue s i fun q => { q with fetch := n } else
    let r := ringEntry s q n
    let e : Entry := { seq := n, raw := if r.1 = .ok then r.2.1 else zeros 64 }
    let s := onQueue r.2.2 i fun q => { q with fetch := n, entries := insertBy (fun e => e.seq) e q.entries }
    if r.1 = .ok then sweepUndefined s i
    else entryFail s i n r.1 (q.ringBase + (if q.legacy then 32 else 64) * ((n - 1) % 2 ^ q.ringLog2))

/-- ENTRY_FETCH (R49, R61): the next entry of an ACTIVE queue that hardware schedules. -/
def execEntryFetch (i : Nat) (s : State) : Out :=
  unitStep s 0x112 fun s =>
    match queueAt s i with
    | none => s
    | some q =>
      if q.state = .active ∧ q.cls = 0 ∧ ¬ q.resident ∧ q.fetch % 2 ^ 32 ≠ q.shadow ∧ domOn s 41 then fetchOne s i else s

/-- The row of an opcode and SUBOP: the queue's next unchecked entry, if it is one of these, is checked, after misses reads of
the object cache (R60). -/
def entryRow (op sub i misses : Nat) (s : State) : Out :=
  engineStep s fun s =>
    match nextCheck s i with
    | none => s
    | some (q, e) =>
      if e.phase ≠ .fetched ∨ opOf e.raw ≠ op ∨ subOf e.raw ≠ sub then s
      else if misses = 0 then sweepUndefined (checkNow s i q e) i
      else onEntry s i e.seq fun x => { x with phase := .missing misses none }

/-- A status that a read of memory can end with. -/
def readStatus (st : Status) : Bool :=
  match st with
  | .translationFault | .permission | .integrityMismatch | .uncorrectableEcc | .domainOff => true
  | _ => false

/-- OBJECT_CACHE_MISS_READ_DONE (R60): a read returns, with its status; the last one lets the check be made, and a read that failed
rejects the entry at the check that needs its value. -/
def execObjectCacheMissReadDone (i : Nat) (st : Status) (s : State) : Out :=
  unitStep s 0x112 fun s =>
    match nextCheck s i with
    | none => s
    | some (q, e) =>
      match e.phase with
      | .missing n bad =>
        let bad := if bad.isNone ∧ readStatus st then some st else bad
        if 1 < n then onEntry s i e.seq fun x => { x with phase := .missing (n - 1) bad }
        else sweepUndefined (checkNow (onEntry s i e.seq fun x => { x with phase := .fetched }) i q e bad) i
      | _ => s

/-- DRAW_NON_INDEXED. -/
def execDrawNonIndexed (i misses : Nat) (s : State) : Out := entryRow 1 0 i misses s
/-- DRAW_INDEXED. -/
def execDrawIndexed (i misses : Nat) (s : State) : Out := entryRow 1 1 i misses s
/-- DRAW_INDIRECT. -/
def execDrawIndirect (i misses : Nat) (s : State) : Out := entryRow 1 2 i misses s
/-- BIN_PASS_BEGIN. -/
def execBinPassBegin (i misses : Nat) (s : State) : Out := entryRow 2 0 i misses s
/-- BIN_PASS_END. -/
def execBinPassEnd (i misses : Nat) (s : State) : Out := entryRow 2 1 i misses s
/-- DISPATCH_DIRECT. -/
def execDispatchDirect (i misses : Nat) (s : State) : Out := entryRow 3 0 i misses s
/-- DISPATCH_INDIRECT. -/
def execDispatchIndirect (i misses : Nat) (s : State) : Out := entryRow 3 1 i misses s
/-- DISPATCH_RESIDENT. -/
def execDispatchResident (i misses : Nat) (s : State) : Out := entryRow 3 2 i misses s
/-- ACCORD_COMMAND. -/
def execAccordCommand (i misses : Nat) (s : State) : Out := entryRow 4 0 i misses s
/-- COPY. -/
def execCopy (i misses : Nat) (s : State) : Out := entryRow 5 0 i misses s
/-- FILL. -/
def execFill (i misses : Nat) (s : State) : Out := entryRow 5 1 i misses s
/-- PRESS_DEFLATE_COMPRESS. -/
def execPressDeflateCompress (i misses : Nat) (s : State) : Out := entryRow 6 0 i misses s
/-- PRESS_PF1_COMPRESS. -/
def execPressPf1Compress (i misses : Nat) (s : State) : Out := entryRow 6 1 i misses s
/-- PRESS_DEFLATE_DECOMPRESS. -/
def execPressDeflateDecompress (i misses : Nat) (s : State) : Out := entryRow 6 2 i misses s
/-- PRESS_PF1_DECOMPRESS. -/
def execPressPf1Decompress (i misses : Nat) (s : State) : Out := entryRow 6 3 i misses s
/-- FENCE. -/
def execFence (i misses : Nat) (s : State) : Out := entryRow 7 0 i misses s
/-- WAIT_QUEUE_SEQUENCE. -/
def execWaitQueueSequence (i misses : Nat) (s : State) : Out := entryRow 8 0 i misses s
/-- WAIT_MEMORY_VALUE. -/
def execWaitMemoryValue (i misses : Nat) (s : State) : Out := entryRow 8 1 i misses s
/-- GRAPH_LAUNCH. -/
def execGraphLaunch (i misses : Nat) (s : State) : Out := entryRow 9 0 i misses s
/-- SEQ_STEP. -/
def execSeqStep (i misses : Nat) (s : State) : Out := entryRow 10 0 i misses s
/-- QUERY_CONTEXT_UTIL. -/
def execQueryContextUtil (i misses : Nat) (s : State) : Out := entryRow 11 0 i misses s
/-- QUERY_CONTEXT_MEMORY. -/
def execQueryContextMemory (i misses : Nat) (s : State) : Out := entryRow 11 1 i misses s
/-- QUERY_TIMESTAMP. -/
def execQueryTimestamp (i misses : Nat) (s : State) : Out := entryRow 11 2 i misses s
/-- QUERY_QUEUE_STATE. -/
def execQueryQueueState (i misses : Nat) (s : State) : Out := entryRow 11 3 i misses s
/-- CONTEXT_TEARDOWN_KILL. -/
def execContextTeardownKill (i misses : Nat) (s : State) : Out := entryRow 12 0 i misses s
/-- CONTEXT_TEARDOWN_DRAIN. -/
def execContextTeardownDrain (i misses : Nat) (s : State) : Out := entryRow 12 1 i misses s

/-! ### Nodes (03 R99 to R101) -/

/-- Node n of a launch has ended (R99 to R101): a failure fails the launch; with FENCE set its record is signalled with the status
(R82, R100), or waits for room, or for the queue's resumption where its write faults. COOKIE is taken after substitution (R99). A
destroyed queue has no ring. -/
def nodeEnd (s : State) (l n : Nat) (st : Status) (rec_ : List Byte) (addr : Nat := 0) : State :=
  match tget s.fe.launches l with
  | none => s
  | some x =>
    let q := launchQueue x
    -- a discarded node is no failure: its pass or its launch has been discarded
    let s := if st = .ok ∨ st = .preemptedDiscarded then s else launchFail s l n st addr
    let done (s : State) : State := launchSettle (onLaunch (if st = .ok then nodeSatisfy s l n (succsOf rec_) else s) l fun x =>
      { x with running := ndel x.running n, finished := nins x.finished n }) l
    let hold (s : State) : State := onLaunch s l fun x => { x with running := ndel x.running n, fenceWait := x.fenceWait ++ [(n, st)] }
    match (if bit (byteAt rec_ 2) 0 then queueAt s q.1 else none) with
    | none => done s
    | some k =>
      if ¬ fenceRoom k then hold s else
      let w := fenceWrite s q.1 (fieldAt (substitute rec_ x.args) 56 8) q.2 st 0
      if fencePiOf w q.1 = some k.fencePi then hold w else done (msixRaise (tailWrite w q.1) k.fn k.fenceVec)

/-- A ready node is read, checked and started where its class has room; false where it waits. -/
def nodeTry (s : State) (l n : Nat) : Bool × State :=
  match tget s.fe.launches l with
  | none => (false, s)
  | some x =>
    let o := launchQueue x
    let q := (queueAt s o.1).getD x.home
    let r := nodeFetch s q x n
    let take (s : State) : State := onLaunch s l fun x => { x with ready := x.ready.filter (· ≠ n), running := nins x.running n }
    if r.1 ≠ .ok then (true, nodeEnd (take r.2.2) l n r.1 r.2.1 r.2.2.xlt.failAddr) else
    let w : Who := { i := o.1, q := q, key := 2 ^ 14 + l, node := true }
    let raw := substitute r.2.1 x.args
    let ck := checkEntry r.2.2 w 0 raw
    match ck.1.rejects with
    | some st => (true, nodeEnd (take ck.2) l n st r.2.1 (accessAddr ck.2 st))
    | none =>
      if ck.1.zero then (true, nodeEnd (take ck.2) l n .ok r.2.1) else
      match beginCmd (take ck.2) { who := w, owner := .node l n, raw := raw, objs := ck.1.objs, draw := ck.1.draw } with
      | (.wait, _) => (false, s)
      | (.ended st a, s) => (true, nodeEnd s l n st r.2.1 a)
      | (.started, s) =>
        -- a GEOMETRY PASS_BEGIN satisfies its successors when it has started (07 R553)
        (true, if opOf raw = 2 ∧ subOf raw = 0 ∧ byteAt raw 16 = 0 then nodeSatisfy s l n (succsOf r.2.1) else s)

/-- The first ready node that can start does. -/
def nodeFirst (l : Nat) : List Nat → State → State
  | [], s => s
  | n :: t, s =>
    match nodeTry s l n with
    | (true, s) => s
    | (false, s) => nodeFirst l t s

/-- COMMAND_START (R62, 03 R73, R99). -/
def execCommandStart (x : StartOf) (s : State) : Out :=
  unitStep s 0x113 fun s =>
    match x with
    | .queue i => sweepUndefined (beginEntry s i) i
    | .launch l => match tget s.fe.launches l with | some y => nodeFirst l y.ready s | none => s

/-- The items of a command have all ended, and it has items. -/
def itemsEnded (k : Task) : Bool :=
  (match k.eng with | .shader | .accord | .copy | .press => true | _ => false) && !k.reading && !k.dropped && taskDrained k

/-- COMMAND_FINISH (R62): a started command of an entry whose last item has completed. -/
def execCommandFinish (t : Nat) (s : State) : Out :=
  unitStep s 0x113 fun s =>
    match taskAt s t with
    | none => s
    | some k =>
      match k.owner with
      | .node _ _ => s
      | .entry _ _ => if itemsEnded k then endBare (bumpFor s k) t k.status k.failAddr else s


/-- Fence records of nodes that waited are written while the ring has room (03 R100). -/
def nodeFences (l : Nat) : List (Nat × Status) → State → State
  | [], s => s
  | (n, st) :: t, s =>
    match tget s.fe.launches l with
    | none => s
    | some x =>
      match queueAt s (launchQueue x).1 with
      | none => s
      | some q =>
        if ¬ fenceRoom q then s else
        let r := nodeRead s x n
        nodeFences l t (nodeEnd (onLaunch r.2.2 l fun y => { y with fenceWait := y.fenceWait.erase (n, st) }) l n st r.2.1)

/-- GRAPH_NODE_FINISH (03 R99): node n of launch l has finished, or, for a DRAW of a GEOMETRY pass, has released its Collator
place (07 R553); a node whose fence record waits tries again (R100). -/
def execGraphNodeFinish (l n : Nat) (s : State) : Out :=
  unitStep s 0x113 fun s =>
    match tget s.fe.launches l, ownerTask s (.node l n) with
    | some x, some (t, k) =>
      let r := nodeRead s x n
      let end_ (s : State) (st : Status) : State :=
        nodeEnd (onFe s fun y => { y with tasks := tdel y.tasks t }) l n (if k.discarded then .preemptedDiscarded else st) r.2.1 k.failAddr
      if k.ended then end_ s k.status
      else if itemsEnded k then end_ (bumpFor s k) k.status
      else if k.eng = .none ∧ opOf k.raw = 1 then nodeSatisfy s l n (succsOf r.2.1)
      else s
    | some x, none => nodeFences l (x.fenceWait.filter fun e => e.1 = n) s
    | none, _ => s

/-- DB_FENCE_CI (02 R65). -/
def execDbFenceCi (f i ci : Nat) (s : State) : Out :=
  engineStep s fun s =>
    let s := dbFenceCi f i ci s
    (s.fe.launches.filter fun e => (launchQueue e.2).1 = i).foldl (fun s e => nodeFences e.1 e.2.fenceWait s) s

/-- INDIRECT_ARGS_READ_DONE (R53): the arguments of a started indirect command return and are checked as if they stood in it. -/
def execIndirectArgsReadDone (t : Nat) (s : State) : Out :=
  unitStep s 0x113 fun s =>
    match taskAt s t with
    | none => s
    | some k =>
      if ¬ (k.reading ∧ (opOf k.raw = 1 ∨ opOf k.raw = 3)) then s else
      let draw : Bool := opOf k.raw = 1
      let va := if draw then objBase k 36 + fieldAt k.raw 40 4 else objBase k 32 + fieldAt k.raw 36 4
      let r := vread s 210 7 k.fn k.asid k.ctx va (if draw then 20 else 12)
      let raw := putAt k.raw (if draw then 20 else 16) (r.2.1.take (if draw then 16 else 12))

      let c := indirectFails raw k.objs (if draw then k.draw else none)
      let fails := failIf (draw ∧ fieldAt r.2.1 16 4 ≠ 0) 1 .badOpcode ++ c.1
      let s := onTask r.2.2 t fun k => { k with reading := false }
      -- a DRAW that does not come to a stream leaves its place in the pass empty
      let end_ (s : State) (st : Status) (addr : Nat) : State :=
        onDraw (endBare s t st addr) t fun d => { d with reading := false, released := true }
      if k.discarded ∧ draw then s
      else if r.1 ≠ .ok then end_ s r.1 s.xlt.failAddr
      else match firstFail fails with
        | some st => end_ s st 0
        | none =>
          if c.2 then end_ s .ok 0
          else
            let s := onTask s t fun k => { k with raw := raw, total := if draw then 0 else gridBlocks raw }
            onDraw s t fun d => { d with raw := raw, reading := false }

end Sys2Proof.Machine
end

