-- ==== Sys2Proof/Machine/Seq.lean ====
section
/-!
DEFINITION. Machine/Seq.lean: slot commands, formations, harvests and the release of pages (10 R288 to R303, R312), and the
destruction of objects (02 R58).
-/

namespace Sys2Proof.Machine

/-! ### OBJECT_DESTROY (02 R58) -/

/-- The object may not be destroyed. -/
def objInUse (s : State) (f : Nat) (o : Obj) : Bool :=
  (liveOf s f o.idx != []) || poolUses s o
    || s.gfx.passes.any fun e => decide ((e.2.pool.idx = o.idx ∧ e.2.pool.gen = o.gen) ∨ (e.2.target.idx = o.idx ∧ e.2.target.gen = o.gen))

/-- OBJECT_DESTROY (02 R58); rsvd: a RSVD bit of the written FE_OBJ_CMD is nonzero. -/
def execObjectDestroy (f : Nat) (rsvd : Bool) (s : State) : Out :=
  oCmd s f fun s =>
    let h := fget s F.FE_OBJ_HANDLE.HANDLE f
    if rsvd then oResult s f .badOpcode h
    else match objectOf s f h with
      | none => oResult s f .staleHandle h
      | some o =>
        if objInUse s f o then oResult s f .permission h
        else
          let s := onFe s fun x => { x with objs := tdel x.objs o.idx, objGen := tset x.objGen o.idx (wrapInc o.gen 16) }
          oResult (onXlt s fun x => { x with ranges := x.ranges.filter fun r => r.obj ≠ o.idx }) f .ok h

/-! ### SEQ_SCMD (R290, R301, R312) -/

/-- SEQ_SRESULT of an operation that has ended. -/
def sResult (s : State) (f : Nat) (st : Status) (h : Nat) : State := rset s .SEQ_SRESULT (Status.code st <<< 32 + h % 2 ^ 32) f

/-- An accepted SEQ_SCMD write: discarded while BUSY is 1 (R313). -/
def sCmd (s : State) (f : Nat) (k : State → State) : Out :=
  busWrite s .SEQ_SCMD f 0 fun s => if flag s F.SEQ_SRESULT.BUSY f then s else k s

/-- SEQ_ADMIT (R290). -/
def execSeqAdmit (f : Nat) (s : State) : Out :=
  sCmd s f fun s =>
    match (upFrom (16 * fget s F.SEQ_PART.BASE 0 f) (16 * fget s F.SEQ_PART.COUNT 0 f)).find? fun i => (slotAt s i).isNone with
    | none => sResult s f .lengthRange 0
    | some i => onSeq (fset s F.SEQ_SRESULT.BUSY 1 f) fun x => { x with admitting := tset x.admitting f i }

/-- The slot that a descriptor describes (R289). -/
def slotFrom (f gen : Nat) (d : List Byte) : Slot :=
  { gen := gen, fn := f, ctx := fieldAt d 46 2, asid := fieldAt d 48 2, prompt := fieldAt d 0 8, promptLen := fieldAt d 8 4,
    maxTokens := fieldAt d 12 4, out := fieldAt d 16 8, kvBase := fieldAt d 24 8, kvLeaf := fieldAt d 32 8, kvPages := fieldAt d 40 4,
    kvUnit := fieldAt d 44 2, ring := bit (byteAt d 50) 0, keep := bit (byteAt d 50) 1, stop0 := fieldAt d 52 4, stop1 := fieldAt d 56 4,
    stream := fieldAt d 60 2 }

/-- Pages that n positions of a slot need. -/
def kvNeed (x : Slot) (n : Nat) : Nat := (n * x.kvUnit * 64 + 65535) / 65536

/-- Checks 4 to 8 of R290. -/
def admitCheck (s : State) (f : Nat) (d : List Byte) : Option Status :=
  let x := slotFrom f 0 d
  if 4 ≤ fieldAt d 50 2 ∨ 4096 ≤ x.ctx ∨ fieldAt d 62 2 ≠ 0 ∨ (x.ring ∧ x.maxTokens ≠ 0) ∨ (¬ x.ring ∧ x.maxTokens = 0) then some .badOpcode
  else if x.ctx = 0 ∨ ¬ inCtx s f x.ctx then some .permission
  else if ctxGone s x.ctx then some .staleHandle
  else if x.prompt = 2 ^ 64 - 1 ∨ x.out = 2 ^ 64 - 1 ∨ x.kvBase = 2 ^ 64 - 1 ∨ x.kvLeaf = 2 ^ 64 - 1 ∨ x.asid = 0xFFFF ∨ x.promptLen = 0 ∨ 2 ^ 26 < x.promptLen ∨ 2 ^ 24 ≤ x.maxTokens ∨ x.kvPages = 0 ∨ 2 ^ 22 < x.kvPages ∨ x.kvUnit = 0
      ∨ x.kvUnit = 0xFFFF ∨ x.stream = 0xFFFF ∨ x.kvPages < kvNeed x (x.promptLen + x.maxTokens) then some .lengthRange
  else if x.prompt % 4 ≠ 0 ∨ (¬ x.ring ∧ x.out % 4 ≠ 0) ∨ x.kvBase % 65536 ≠ 0
      ∨ x.kvLeaf % 256 ≠ 8 * (x.kvBase / 65536 % 32) then some .badAlignment
  else none

/-- SEQ_ADMIT_READ_DONE (R290). -/
def execSeqAdmitReadDone (f : Nat) (s : State) : Out :=
  unitStep s 0x114 fun s =>
    match tget s.seq.admitting f with
    | none => s
    | some i =>
      let s := onSeq s fun x => { x with admitting := tdel x.admitting f }
      let r := ipaRead s f (rget s .SEQ_SARG f) 64
      let s := r.2.2
      if r.1 ≠ .ok then sResult s f r.1 0
      else match admitCheck s f r.2.1 with
        | some st => sResult s f st 0
        | none =>
          let gen := tgetD s.seq.gens i 1
          sResult (onSeq s fun x => { x with
            slots := tset x.slots i (slotFrom f gen r.2.1)
            order := tmod x.order f [] fun l => l ++ [i] }) f .ok (sHandle i gen)

/-- A slot is in the running batch of a SEQ_STEP, which ends with its harvest: a harvest that waits for event-ring room has treated
its rows. -/
def inBatch (s : State) (i : Nat) : Bool :=
  s.seq.runs.any fun e => (match e.2.stage with | .running _ => true | _ => false) && e.2.rows.any fun r => decide (r.slot = i)

/-- A slot command on the slot named in SEQ_SARG: its status and effect. -/
def slotCmd (f : Nat) (s : State) (k : State → Nat → Slot → Status × State) : Out :=
  sCmd s f fun s =>
    let h := fget s F.SEQ_SARG.ARG f % 2 ^ 32
    match slotOf s f h with
    | none => sResult s f .staleHandle h
    | some (i, x) =>
      let r := k s i x
      sResult r.2 f r.1 h

/-- SEQ_CANCEL (R301). -/
def execSeqCancel (f : Nat) (s : State) : Out :=
  slotCmd f s fun s i x =>
    match x.state with
    | .leaving | .ended => (.ok, s)
    | _ => (.ok, if inBatch s i then onSlotS s i fun x => { x with cancel := true } else slotLeave s i 4)

/-- SEQ_HOLD (R301). -/
def execSeqHold (f : Nat) (s : State) : Out :=
  slotCmd f s fun s i x =>
    match x.state with
    | .prefill | .decode => (.ok, if inBatch s i then onSlotS s i fun x => { x with hold := true } else slotHold s i)
    | .held _ => (.ok, s)
    | _ => (.permission, s)

/-- SEQ_RESUME (R301). -/
def execSeqResume (f : Nat) (s : State) : Out :=
  slotCmd f s fun s i x =>
    match x.state with
    | .held d =>
      let s := onSlotS s i fun x => { x with state := if d then .decode else .prefill }
      (.ok, onSeq s fun y => { y with order := tmod y.order f [] fun l => l ++ [i] })
    | .prefill | .decode => (.ok, s)
    | _ => (.permission, s)

/-- SEQ_RELEASE (R301): an ENDED slot becomes FREE, after the release of its pages where it kept them. -/
def execSeqRelease (f : Nat) (s : State) : Out :=
  slotCmd f s fun s i x =>
    match x.state with
    | .ended => (.ok, if x.pages = [] then slotFree s i else onSlotS s i fun x => { x with freeing := true })
    | _ => (.permission, s)

/-- SEQ_ADD_PAGES (R301). -/
def execSeqAddPages (f : Nat) (s : State) : Out :=
  sCmd s f fun s =>
    let n := fget s F.SEQ_SARG.ARG f % 2 ^ 23
    let top := fget s F.SEQ_KV_TOP.TOP f
    let size := match kvPool s f with | some o => o.size | none => 0
    if n = 0 then sResult s f .ok top
    else if size < (top + n) * 8 then sResult s f .lengthExceedsObject top
    else if 2 ^ 22 < top + n then sResult s f .lengthRange top
    else sResult (fset s F.SEQ_KV_TOP.TOP (top + n) f) f .ok (top + n)

/-- SEQ_REMOVE_PAGES (R301). -/
def execSeqRemovePages (f : Nat) (s : State) : Out :=
  sCmd s f fun s =>
    let n := fget s F.SEQ_SARG.ARG f % 2 ^ 23
    let top := fget s F.SEQ_KV_TOP.TOP f
    if top < n then sResult s f .lengthRange top else sResult (fset s F.SEQ_KV_TOP.TOP (top - n) f) f .ok (top - n)

/-- SEQ_SCMD_UNDEFINED_OP (R312): an OP of 1 to 7 is no such write. -/
def execSeqScmdUndefinedOp (f op : Nat) (s : State) : Out :=
  sCmd s f fun s => if 1 ≤ op % 16 ∧ op % 16 ≤ 7 then s else sResult s f .badOpcode 0

/-- SEQ_KV_POOL_WRITE (R312). -/
def execSeqKvPoolWrite (f v : Nat) (s : State) : Out :=
  busWrite s .SEQ_KV_POOL f 0 fun s =>
    if fget s F.SEQ_KV_TOP.TOP f = 0 ∧ ¬ holdsPage s f then rset s .SEQ_KV_POOL (v % 2 ^ 32) f else s

/-! ### Formation (R296 to R298) -/

/-- A step fails (R302). -/
def stepFail (s : State) (t : Nat) (st : Status) (addr : Nat := 0) (index : Nat := 0xFFFF) : State := endBare (runDrop s t) t st addr index

/-- A batch being formed: its rows and tokens, and the status of a failed access. -/
structure Forming where
  rows : List SeqRow := []
  tokens : Nat := 0
  fail : Option Status := none
  deriving DecidableEq, Repr, Inhabited

/-- The missing pages of a slot are mapped in order (R292). A page whose leaf entry cannot be written stays at the top of the pool
(log 133). -/
def mapPages (i : Nat) : List Nat → State → Option Status × State
  | [], s => (none, s)
  | p :: t, s =>
    match slotAt s i with
    | none => (none, s)
    | some x =>
      let r := poolPop s x
      if r.1 ≠ .ok then (some r.1, r.2.2)
      else
        let w := leafWrite r.2.2 x p (kvLeafWord r.2.1)
        if w.1 = .ok then mapPages i t (onSlotS w.2 i fun x => { x with pages := tset x.pages p r.2.1 })
        else (some w.1, fset w.2 F.SEQ_KV_TOP.TOP (fget s F.SEQ_KV_TOP.TOP x.fn) x.fn)

/-- A row is added for a slot, once its pages are mapped; a slot that the pool cannot serve is skipped (R296). -/
def addRow (a : Forming × State) (i count : Nat) (decode : Bool) : Forming × State :=
  match slotAt a.2 i with
  | none => a
  | some x =>
    let missing := (List.range (kvNeed x (x.pos + count))).filter fun p => (tget x.pages p).isNone
    if missing ≠ [] ∧ (fget a.2 F.SEQ_KV_TOP.TOP x.fn < missing.length ∨ (kvPool a.2 x.fn).isNone) then
      (a.1, onSlotS a.2 i fun x => { x with kvWait := true })
    else
      let m := mapPages i missing a.2
      let row : SeqRow := { slot := i, pos := x.pos, count := count, last := !decode && decide (x.promptLen ≤ x.pos + count), decode := decode }
      match m.1 with
      | some st => ({ a.1 with fail := some st }, m.2)
      | none => ({ a.1 with rows := a.1.rows ++ [row], tokens := a.1.tokens + count }, onSlotS m.2 i fun x => { x with kvWait := false })

/-- Candidates of a run in join order, of a state. -/
def candidates (s : State) (r : SeqRun) (st : SlotState) : List Nat :=
  (tgetD s.seq.order r.fn []).filter fun i =>
    match slotAt s i with
    | some x => decide (x.ctx = r.ctx ∧ x.asid = r.asid ∧ x.ring = r.ring ∧ x.state = st)
    | none => false

/-- One pass of a formation. -/
def formPass (batchMax budget chunk : Nat) (ring decode : Bool) : List Nat → Forming × State → Forming × State
  | [], a => a
  | i :: t, a =>
    if a.1.fail.isSome ∨ batchMax ≤ a.1.rows.length ∨ (¬ ring ∧ budget ≤ a.1.tokens) then a else
    let rest := match slotAt a.2 i with | some x => x.promptLen - x.pos | none => 0
    let count := if decode then 1 else if ring then rest else Nat.min rest (Nat.min chunk (budget - a.1.tokens))
    formPass batchMax budget chunk ring decode t (addRow a i count decode)

/-- The step record's header (R297). -/
def stepHeader (s : State) (r : SeqRun) (f : Forming) (base step : Nat) : List Byte :=
  natLe step 8 ++ natLe f.rows.length 4 ++ natLe f.tokens 4 ++ natLe 128 4 ++ natLe (128 + (32 * f.rows.length + 127) / 128 * 128) 4
    ++ natLe s.time 8 ++ natLe base 8
    ++ natLe (if r.ring then fget s F.SEQ_RING_CFG.N else 0) 1 ++ natLe (if r.ring then fget s F.SEQ_RING_CFG.POSITION else 0) 1 ++ zeros 22

/-- A row's bytes (R297). -/
def rowBytes (s : State) (r : SeqRow) : List Byte :=
  match slotAt s r.slot with
  | none => zeros 32
  | some x =>
    natLe (sHandle r.slot x.gen) 4 ++ natLe r.pos 4 ++ natLe r.count 4
      ++ natLe (b2n (decide (r.pos = 0)) + 2 * b2n r.last + 4 * b2n r.decode) 4
      ++ natLe (if r.decode then x.out + 4 * (x.generated - 1) else x.prompt + 4 * r.pos) 8 ++ natLe x.kvBase 8

/-- Offset of the outputs in a step record. -/
def outOffset (rows : Nat) : Nat := 128 + (32 * rows + 127) / 128 * 128

/-- The bytes of a step record. -/
def stepRecord (s : State) (header : List Byte) (rows : List SeqRow) : List Byte :=
  header ++ zeros 64 ++ padTo 128 (rows.flatMap (rowBytes s)) ++ zeros (8 * rows.length)

/-- An entry of the exchange table (R307). -/
def ringExch (b : List Byte) : RingExch :=
  { send := fieldAt b 0 8, recv0 := fieldAt b 8 8, recv1 := fieldAt b 16 8, len := fieldAt b 24 8, cap := fieldAt b 32 8, signal := fieldAt b 40 8,
    progress := fieldAt b 48 8, tag := fieldAt b 56 4 }

/-- The status of an exchange outside the limits of R307. -/
def exchBad (b : List Byte) : Option Status :=
  let x := ringExch b
  if fieldAt b 60 4 ≠ 0 then some .badOpcode
  else if x.len < 65536 ∨ 2 ^ 40 < x.len then some .lengthRange
  else if x.send % 4096 ≠ 0 ∨ x.recv0 % 4096 ≠ 0 ∨ x.recv1 % 4096 ≠ 0 ∨ x.signal % 16 ≠ 0 ∨ x.progress % 8 ≠ 0 then some .badAlignment
  else none

/-- The ring engine zeroes the ARRIVED and PROGRESS words (R306 step 2). -/
def zeroRing (r : SeqRun) : List RingExch → State → Status × State
  | [], s => (.ok, s)
  | x :: t, s =>
    let a := vwrite s 210 7 r.fn r.asid r.ctx x.signal (zeros 8)
    if a.1 ≠ .ok then a else
    let b := vwrite a.2 210 7 r.fn r.asid r.ctx x.progress (zeros 8)
    if b.1 ≠ .ok then (b.1, b.2) else zeroRing r t b.2

/-- The exchanges of a ring step begin (R306, R307). -/
def ringBegin (s : State) (t : Nat) (k : Task) (r : SeqRun) : Status × State :=
  let n := fieldAt k.raw 24 4
  let tb := vread s 210 7 r.fn r.asid r.ctx (objBase k 20) (64 * n)
  let s := tb.2.2
  if tb.1 ≠ .ok then (tb.1, s) else
  let es := (List.range n).map fun i => (tb.2.1.drop (64 * i)).take 64
  match es.findSome? exchBad with
  | some st => (st, s)
  | none =>
    let z := zeroRing r (es.map ringExch) s
    if z.1 ≠ .ok then z else
    let s := fset z.2 F.SEQ_RING_STATUS.HOP 1
    let g : Ring := { task := t, fn := r.fn, ctx := r.ctx, asid := r.asid, n := fget s F.SEQ_RING_CFG.N,
                      pos := fget s F.SEQ_RING_CFG.POSITION, exch := es.map ringExch, heard := s.time }
    (.ok, onSeq s fun x => { x with aborts := [], ring := some g })

/-- SEQ_FORMATION (R296 to R298): the SEQ_STEP that runs as task t forms its next batch and launches its graph. -/
def execSeqFormation (t : Nat) (s : State) : Out :=
  unitStep s 0x114 fun s =>
    match tget s.seq.runs t, taskAt s t with
    | some r, some k =>
      if r.stage ≠ .forming then s else
      let bm := bits r.batch 50 38
      let budget := bits r.batch 37 21
      let chunk := bits r.batch 20 6
      let a0 : Forming × State := ({}, s)
      let a1 := if r.ring then a0 else formPass bm budget chunk false true (candidates s r .decode) a0
      let a := formPass bm budget chunk r.ring false (candidates s r .prefill) a1
      match a.1.fail with
      | some st => stepFail a.2 t st (accessAddr a.2 st)
      | none =>
        if a.1.rows = [] then endBare (runDrop a.2 t) t .ok else
        let base := objBase k 16
        let step := tgetD s.seq.steps r.fn 0 + 1
        let header := stepHeader a.2 r a.1 base step
        let w := vwrite a.2 210 7 r.fn r.asid r.ctx base (stepRecord a.2 header a.1.rows)
        if w.1 ≠ .ok then stepFail w.2 t w.1 w.2.xlt.failAddr else
        let formed := onSeq w.2 fun x => { x with steps := tset x.steps r.fn step }
        let g := if r.ring then ringBegin formed t k r else (.ok, formed)
        if g.1 ≠ .ok then stepFail g.2 t g.1 (accessAddr g.2 g.1) else
        match objAt k 8 with
        | some o =>
          match launchStart g.2 (.step r.q r.seq) ((queueAt g.2 r.q).getD r.home) o 0 (.bytes header) with
          | (.wait, _) => s
          | (.fail st a, s) => stepFail s t st a
          | (.ok l, s) => onSeq s fun x => { x with
              runs := tset x.runs t { r with stage := .running l, rows := a.1.rows, wrote := false } }
        | none => stepFail g.2 t .staleHandle
    | _, _ => s

/-! ### Harvest (R299, R300) -/

/-- The reason with which a token ends a slot (R299). -/
def endReason (x : Slot) (token generated : Nat) (end_ : Bool) : Option Nat :=
  if (token = x.stop0 ∧ x.stop0 ≠ 2 ^ 32 - 1) ∨ (token = x.stop1 ∧ x.stop1 ≠ 2 ^ 32 - 1) then some 1
  else if end_ then some 2
  else if generated = x.maxTokens then some 3
  else none

/-- The place where a row's token is written, if it has one. -/
def tokenAt (x : Slot) (r : SeqRow) : Option Nat :=
  if x.cancel then none
  else if r.decode then some (x.out + 4 * x.generated)
  else if r.last ∧ ¬ x.ring then some x.out
  else none

/-- The tokens of a batch are written. -/
def writeTokens (run : SeqRun) : List (SeqRow × Nat) → State → Status × State
  | [], s => (.ok, s)
  | (r, out) :: t, s =>
    match (slotAt s r.slot).bind fun x => tokenAt x r with
    | none => writeTokens run t s
    | some va =>
      let w := vwrite s 210 7 run.fn run.asid run.ctx va (natLe out 4)
      if w.1 = .ok then writeTokens run t w.2 else w

/-- A generated token's effect on a slot: the slot, its counts updated, ends or goes on (R299); the events it makes (R300). -/
def tokenDone_ (s : State) (i : Nat) (x : Slot) (pos out : Nat) : List SeqEvent × State :=
  let gen := x.generated + 1
  let h := sHandle i x.gen
  let s := onSlotS s i fun x => { x with pos := pos, generated := gen, state := .decode }
  match endReason x (out % 2 ^ 32) gen (bit out 32) with
  | some reason => ([{ handle := h, generated := gen, kind := 1, reason := reason }], slotLeave s i reason)
  | none => (if x.stream ≠ 0 ∧ gen % x.stream = 0 then [{ handle := h, generated := gen, kind := 0, reason := 0 }] else [], slotPending s i)

/-- One row is harvested. -/
def harvestRow (a : List SeqEvent × State) (w : SeqRow × Nat) : List SeqEvent × State :=
  let r := w.1
  match slotAt a.2 r.slot with
  | none => a
  | some x =>
    let h := sHandle r.slot x.gen
    let ended (s : State) (reason : Nat) : List SeqEvent × State :=
      (a.1 ++ [{ handle := h, generated := x.generated, kind := 1, reason := reason }], slotLeave s r.slot reason)
    if x.cancel then ended a.2 4
    else if r.decode then
      let y := tokenDone_ a.2 r.slot x (x.pos + 1) w.2
      (a.1 ++ y.1, y.2)
    else if ¬ r.last then (a.1, slotPending (onSlotS a.2 r.slot fun x => { x with pos := x.pos + r.count }) r.slot)
    else if x.ring then ended (onSlotS a.2 r.slot fun x => { x with pos := x.promptLen }) 5
    else
      let y := tokenDone_ a.2 r.slot x x.promptLen w.2
      (a.1 ++ y.1, y.2)

/-- Event record bytes (R300). -/
def eventBytes (s : State) (ctx : Nat) (e : SeqEvent) : List Byte :=
  natLe s.time 8 ++ natLe e.handle 4 ++ natLe e.generated 4 ++ natLe e.kind 1 ++ natLe e.reason 1 ++ natLe (ctx % 4096) 2 ++ zeros 12

/-- Events are written while the function's event ring has room; what is left waits. -/
def writeEvents (f ctx : Nat) : List SeqEvent → State → List SeqEvent × State
  | [], s => ([], s)
  | e :: t, s =>
    let pi := fget s F.SEQ_EVT_PI.PI f
    let log := fget s F.SEQ_EVT_CTL.LOG2 f
    if 2 ^ log ≤ sub32 pi (fget s F.SEQ_EVT_CI.CI f) then (e :: t, s)
    else
      let s := hostWrite s (fget s F.SEQ_EVT_BASE.BASE f / 4096 * 4096 + 32 * (pi % 2 ^ log)) (eventBytes s ctx e)
      writeEvents f ctx t (fset s F.SEQ_EVT_PI.PI ((pi + 1) % 2 ^ 32) f)

/-- A harvest writes what events it can; when none is left it sends the vector, and the step ends (R295, R300). -/
def harvestEnd (s : State) (t : Nat) : State :=
  match tget s.seq.runs t with
  | none => s
  | some r =>
    if r.stage ≠ .harvesting then s else
    let w := writeEvents r.fn r.ctx r.events s
    let wrote := r.wrote || decide (w.1.length < r.events.length)
    let s := onSeq w.2 fun x => { x with runs := tset x.runs t { r with events := w.1, wrote := wrote } }
    if w.1 ≠ [] then s else
    let s := if wrote then msixRaise s r.fn (fget s F.SEQ_EVT_CTL.VECTOR r.fn) else s
    let s := if r.ring then ringStop s else s
    if r.left ≤ 1 then endBare (onSeq s fun x => { x with runs := tdel x.runs t }) t .ok
    else onSeq s fun x => { x with runs := tset x.runs t { r with left := r.left - 1, stage := .forming, rows := [], events := [], wrote := false } }

/-- Every exchange of a ring step has completed (R306, R308). -/
def ringDone (s : State) (r : SeqRun) : Bool :=
  !r.ring || (match s.seq.ring with | some g => decide (g.exch.length ≤ g.rxEx ∧ g.exch.length ≤ g.txEx ∧ ¬ g.txBusy) || g.failed.isSome | none => true)

/-- SEQ_HARVEST (R299): the launch of a step has finished. A launch that ended other than OK fails the step at once (R302). -/
def execSeqHarvest (t : Nat) (s : State) : Out :=
  unitStep s 0x114 fun s =>
    match tget s.seq.runs t, taskAt s t with
    | some r, some k =>
      match r.stage with
      | .running l =>
        match tget s.fe.stepDone l with
        | none => s
        | some st =>
          if st.1 = .ok ∧ ¬ ringDone s r then s else
          let s := onFe s fun x => { x with stepDone := tdel x.stepDone l }
          let fail := if r.ring then (match s.seq.ring with | some g => g.failed | none => none) else none
          match fail with
          | some e => stepFail s t e
          | none =>
            if st.1 ≠ .ok then stepFail s t st.1 st.2.1 st.2.2 else
            let o := vread s 210 7 r.fn r.asid r.ctx (objBase k 16 + outOffset r.rows.length) (8 * r.rows.length)
            if o.1 ≠ .ok then stepFail o.2.2 t o.1 o.2.2.xlt.failAddr else
            let rows := r.rows.zipIdx.map fun x => (x.1, fieldAt o.2.1 (8 * x.2) 8)
            let w := writeTokens r rows o.2.2
            if w.1 ≠ .ok then stepFail w.2 t w.1 w.2.xlt.failAddr else
            let h := rows.foldl harvestRow ([], w.2)
            let events := if flag h.2 F.SEQ_EVT_CTL.EN r.fn then h.1 else []
            harvestEnd (onSeq h.2 fun x => { x with runs := tset x.runs t { r with stage := .harvesting, events := events } }) t
      | _ => s
    | _, _ => s

/-- SEQ_EVT_CI (R300): ring space is freed, and a harvest that waited goes on. -/
def execSeqEvtCi (f v : Nat) (s : State) : Out :=
  busWrite s .SEQ_EVT_CI f 0 fun s =>
    let s := rset s .SEQ_EVT_CI (v % 2 ^ 32) f
    (s.seq.runs.filter fun e => e.2.fn = f ∧ e.2.stage = .harvesting).foldl (fun s e => harvestEnd s e.1) s

/-! ### Release of pages (R293) -/

/-- A slot whose pages have been released is ENDED, or FREE where RELEASE asked for it. -/
def releaseEnd (s : State) (i : Nat) (x : Slot) : State :=
  if x.freeing then slotFree s i else onSlotS s i fun x => { x with state := .ended, rel := .none }

/-- SLOT_PAGE_RELEASE (R293 steps 1 and 2). -/
def execSlotPageRelease (i : Nat) (s : State) : Out :=
  unitStep s 0x114 fun s =>
    match slotAt s i with
    | none => s
    | some x =>
      if x.rel ≠ .none ∨ ¬ (x.state = .leaving ∨ (x.state = .ended ∧ x.freeing)) ∨ ctxGone s x.ctx then s else
      match x.pages.head?, x.pages.getLast? with
      | some a, some b =>
        let s := unmapAll s x
        let s := invRequest s { src := .slot i, op := .range x.fn x.asid (x.kvBase + 65536 * a.1) (65536 * (b.1 + 1 - a.1)) }
        onSlotS s i fun x => { x with rel := .waiting }
      | _, _ => releaseEnd s i x

/-- The invalidation of a slot's pages has not been acknowledged everywhere. -/
def slotInv (s : State) (i : Nat) : Bool :=
  s.xlt.invWaiting.any (fun v => v.src == .slot i) || (match s.xlt.invNow with | some (v, _) => v.src == .slot i | none => false)

/-- SLOT_RELEASE_ACKS_DONE (R293 step 3). -/
def execSlotReleaseAcksDone (i : Nat) (s : State) : Out :=
  unitStep s 0x114 fun s =>
    match slotAt s i with
    | none => s
    | some x =>
      if x.rel ≠ .waiting ∨ slotInv s i then s else
      let s := x.pages.foldl (fun s p => poolPush x s p.2) s
      releaseEnd (onSlotS s i fun x => { x with pages := [] }) i { x with pages := [] }

end Sys2Proof.Machine
end

