-- ==== Sys2Proof/Machine/UapOps.lean ====
section
/-!
DEFINITION. Machine/UapOps.lean: the states of a Uaper port (16 R473 to R478) and the failure of a ring exchange (10 R310),
shared by the link, the ring engine, recovery and power.
-/

namespace Sys2Proof.Machine

/-- A port's link layer. -/
def portAt (s : State) (p : Nat) : Port := tgetD s.ports p {}
/-- Changes a port's link layer. -/
def onPort (s : State) (p : Nat) (f : Port → Port) : State := { s with ports := tmod s.ports p {} f }
/-- State code of R473. -/
def uapState (s : State) (p : Nat) : Nat := fget s F.UAP_STATUS.STATE 0 p
/-- The port is UP. -/
def uapUp (s : State) (p : Nat) : Bool := uapState s p = 2

/-- A cause of UAP_IRQ_STATUS is set, and its vector sent (16 R483). -/
def uapIrq (s : State) (b : Nat) : State :=
  let s := rset s .UAP_IRQ_STATUS (rget s .UAP_IRQ_STATUS ||| 2 ^ b)
  if flag s F.UAP_IRQ_CTL.EN then msixRaise s 0 (fget s F.UAP_IRQ_CTL.VECTOR) else s

/-- A message is cut into DATA flits of a VC (16 R470). -/
def flitsOf (vc : Nat) (msg : List Byte) : List Flit :=
  let parts := chunks 192 (padTo 32 msg)
  parts.zipIdx.map fun (x : List Byte × Nat) =>
    { ty := 1, vc := vc, som := decide (x.2 = 0), eom := decide (x.2 + 1 = parts.length), slots := x.1.length / 32, payload := x.1 }

/-- A ring header (10 R309). -/
def ringHeader (tag hop origin flags status index size offset stored crc_ : Nat) : List Byte :=
  natLe tag 4 ++ natLe hop 1 ++ natLe origin 1 ++ natLe flags 1 ++ natLe status 1 ++ natLe index 4 ++ natLe size 4
    ++ natLe offset 8 ++ natLe stored 4 ++ natLe crc_ 4

/-- TAG of an exchange. -/
def ringTag (g : Ring) (i : Nat) : Nat := match g.exch[i]? with | some x => x.tag | none => 0

/-- An exchange fails (10 R310): the exchanges stop, data in flight is discarded, one ABORT goes downstream unless the failure
is an ABORT's own, which is passed on the same way, the launch is discarded, and a record is written. -/
def ringFail (s : State) (st : Status) : State :=
  match s.seq.ring with
  | none => s
  | some g =>
    if g.failed.isSome then s else
    let q := match tget s.seq.runs g.task with | some r => some (r, queueAt s r.q) | none => none
    let s := match q with
      | some (r, some q) => raiseFor s 0x114 st r.ctx r.fn (.command r.seq (qHandle r.q q.gen) 10 0 g.rxEx 0)
      | _ => s
    let s := onSeq s fun x => { x with ring := some { g with failed := some st }, inbox := [], aborts := [] }
    let s := if uapUp s 0 then
        onPort s 0 fun x => { x with tx0 := [], tx1 := x.tx1 ++ flitsOf 1 (ringHeader (ringTag g g.rxEx) g.rxHop g.pos 4 (Status.code st) 0 0 0 0 0) }
      else s
    let s := onPort s 1 fun x => { x with open0 := none }
    match q with
    | some (r, _) => match r.stage with | .running l => discardLaunch s l | _ => s
    | none => s

/-- The link layer of a port as it is when the link reaches UP (R471). -/
def portFresh : Port := { credit1 := 8, freed0 := 512 }

/-- A port moves to another state (R473). Leaving UP loses the replay buffer, the credits and what is in flight, and fails a ring
exchange (R471, R476); entering TRAINING forgets the partner's identity (UAP_PEER.VALID). -/
def uapMove (s : State) (p st : Nat) : State :=
  let old := uapState s p
  if old = st then s else
  let s := fset s F.UAP_STATUS.STATE st 0 p
  let s := if old = 2 then fset s F.UAP_STATUS.PEER_MATCH 0 0 p else s
  let s := if st = 1 then fset s F.UAP_PEER.VALID 0 0 p else s
  let s := onPort s p fun x =>
    if st = 2 then { portFresh with txPrbs := x.txPrbs, rxPrbs := x.rxPrbs }
    else if old = 2 then { txPrbs := x.txPrbs, rxPrbs := x.rxPrbs }
    else { x with waking := false, holds := 0, trains := 0, lastTrain := [], acked := 0, goods := 0 }
  let s := if old = 2 ∨ st = 2 then uapIrq s (2 + p) else s
  if old = 2 then ringFail s .domainOff else s

/-- Port p's pads are latched (18 R516). -/
def uapPads (s : State) (p : Nat) : Bool := bit (fget s F.PWR_PAD_RELEASE.UAP) p
/-- Port p is held (13 R412). -/
def uapHeld (s : State) (p : Nat) : Bool := bit (fget s F.INT_HOLD.UAPER) p

/-- A port that waits in DOWN, SLEEP or HELD enters TRAINING once it may: EN (or a wake) with its domain ON, its pads released
and its hold clear (R473, 18 R516). -/
def uapTry (s : State) (p : Nat) : State :=
  if ¬ domOpen s (48 + p) ∨ uapPads s p ∨ uapHeld s p then s
  else match uapState s p with
    | 0 => if flag s F.UAP_CTL.EN 0 p then uapMove s p 1 else s
    | 4 => if (portAt s p).waking then uapMove s p 1 else s
    | 5 => uapMove s p 1
    | _ => s

/-- A port in SLEEP is woken (R473, R478); pattern says that it sends the wake pattern. -/
def uapWakeUp (s : State) (p : Nat) (pattern : Bool) : State :=
  if uapState s p ≠ 4 then s else
  let s := if pattern then send s (.wakePattern p) else s
  uapTry (demand (onPort s p fun x => { x with waking := true }) (48 + p)) p

/-- The identity a port sends (R475). -/
def identBytes (s : State) (p : Nat) (ack : Bool) : List Byte :=
  natLe s.boot.image.serial 8 ++ natLe (fget s F.SEQ_RING_CFG.N) 1 ++ natLe (fget s F.SEQ_RING_CFG.POSITION) 1 ++ natLe p 1
    ++ natLe (fget s F.SEQ_RING_CFG.EN + 2 * b2n ack) 1

/-- PEER_MATCH of a port (R476). -/
def peerMatch (s : State) (p : Nat) : Bool :=
  let n := fget s F.SEQ_RING_CFG.N
  let pos := fget s F.SEQ_RING_CFG.POSITION
  flag s F.UAP_PEER.VALID 0 p ∧ flag s F.UAP_PEER.RING_EN 0 p ∧ fget s F.UAP_PEER.N 0 p = n ∧ fget s F.UAP_PEER.PORT 0 p = 1 - p
    ∧ fget s F.UAP_PEER.POSITION 0 p = (if p = 0 then (pos + 1) % n else (pos + n - 1) % n)

/-- PEER_MATCH is brought up to date. -/
def matchPeer (s : State) (p : Nat) : State :=
  fset s F.UAP_STATUS.PEER_MATCH (b2n (uapUp s p && peerMatch s p)) 0 p

/-- A wake event is reported to the AON wake arbiter (18 R521). -/
def wakeReport (s : State) (code detail : Nat) : State := onPwr s fun p => { p with wakes := p.wakes ++ [(code, detail)] }

/-- What a wake event does on the PCIe link (16 R463). -/
def wakePcie (s : State) : State :=
  let c := fnCfg s 0
  let set (s : State) : State := { s with hif := { s.hif with cfg := tmod s.hif.cfg 0 {} fun c => { c with pmeStatus := true } } }
  let l := fget s F.HIF_LINK.LSTATE
  if s.hif.inL2 then (if c.pmeEn then { s with boot := { s.boot with wakeN := true } } else s)
  else if c.power = 3 ∨ (2 ≤ l ∧ l ≤ 4) then
    if c.pmeEn then send (if 2 ≤ l ∧ l ≤ 4 then linkWake (set s) else set s) .pmPme else set s
  else s

/-- A wake event has been arbitrated (18 R518, R521): it is timestamped and reported, acts on the link, and leaves Sillage. Of events in
the same clock the lowest code is reported. -/
def wakeEvent (s : State) (code detail : Nat) : State :=
  let was := fget s F.PWR_WAKE_CAUSE.CAUSE
  let s := if rget s .PWR_WAKE_TIME = s.time ∧ was ≠ 0 ∧ was ≤ code then s
           else fset (fset s F.PWR_WAKE_CAUSE.CAUSE code) F.PWR_WAKE_CAUSE.DETAIL detail
  let s := rset s .PWR_WAKE_TIME s.time
  let s := wakePcie (onPwr s fun p => { p with wakeSeen := true })
  let st := fget s F.PWR_SILLAGE.STATE
  if failsafe s ∨ ¬ (st = 1 ∨ st = 2) then s else fset s F.PWR_SILLAGE.STATE 3

end Sys2Proof.Machine
end

