-- ==== Sys2Proof/Machine/Recover.lean ====
section
/-!
DEFINITION. Machine/Recover.lean: fault records, recovery at every level, fail-safe entry and package-level reset
(13 R391 to R412), as shared operations. The rows that use them stand in Integrity.lean, Hif.lean and Boot.lean.
-/

namespace Sys2Proof.Machine

/-- Changes the state of chapter 13 that no register holds. -/
def onInt (s : State) (f : IntState → IntState) : State := { s with int := f s.int }

/-! ### Units (R391, R392) -/

/-- The unit numbers of R391 that name a unit. -/
def unitDefined (u : Nat) : Bool :=
  let b := u % 4096
  let part := u / 4096
  if b < 0x80 then decide (part ≤ 5)
  else if b < 0xC0 then decide (part ≤ 2)
  else decide (part = 0) && (decide (b ≤ 0x103) || (decide (0x110 ≤ b) && decide (b ≤ 0x11B)) || (decide (0x120 ≤ b) && decide (b ≤ 0x12B)) || decide (b = 0x12F))

/-- The level and target at which a fault of a unit at a stated level is recovered: the lowest of its chain at or above the
level (R394, R413). -/
def targetOf (u level : Nat) : Nat × Nat := ((chainOf u).find? fun x => level ≤ x.1).getD (6, 0)

/-- The next target up (R392). -/
def levelUp (r : Recovery) (u : Nat) : Nat × Nat := ((chainOf u).find? fun x => r.level < x.1).getD (6, 0)

/-- The bound of a level, in ns (R395). -/
def levelBound (level : Nat) : Nat :=
  match level with | 3 => 20000 | 4 => 200000 | 5 => 2000000 | _ => 50000000

/-! ### Records (R405 to R407) -/

/-- The KIND of a detail. -/
def Detail.kind : Detail → Nat
  | .none => 0 | .shader _ => 1 | .command .. => 2 | .memory .. => 3 | .translation _ => 4 | .system .. => 5

/-- The 32 bytes of a detail. -/
def Detail.bytes : Detail → List Byte
  | .none => zeros 32
  | .shader b => b
  | .command seq q op sub ix a => natLe seq 8 ++ natLe q 4 ++ natLe op 1 ++ natLe sub 1 ++ natLe ix 2 ++ natLe a 8 ++ zeros 8
  | .memory a src pc sl way set bank ex fo =>
    natLe a 8 ++ natLe src 1 ++ natLe pc 1 ++ natLe sl 1 ++ natLe way 1 ++ natLe set 2 ++ natLe bank 2 ++ natLe ex 4 ++ natLe fo 4 ++ zeros 8
  | .translation b => b
  | .system c x arg v => natLe c 2 ++ natLe x 2 ++ natLe arg 4 ++ natLe v 8 ++ zeros 16

/-- The 64 bytes of a record with its SERIAL, WINDOW, LEVEL and FLAGS. -/
def recBytes (r : FaultRec) (serial window level flags : Nat) : List Byte :=
  natLe r.time 8 ++ natLe serial 4 ++ natLe window 4 ++ natLe r.unit 2 ++ natLe (Status.code r.status) 1 ++ natLe level 1
    ++ natLe (match r.context with | some c => c % 4096 | none => 0x8000) 2
    ++ natLe (match r.function with | some f => f % 16 | none => 0x80) 1 ++ natLe r.detail.kind 1 ++ natLe flags 1 ++ zeros 7
    ++ r.detail.bytes

/-- A record is dropped from a function's ring (R406, R407). -/
def recDrop (s : State) (f : Nat) : State := fset s F.INT_REC_STATUS.OVERFLOW 1 f

/-- A record enters the ring of function f, or is dropped and counted; a ring that is not enabled takes none (R407). -/
def recRing (s : State) (f : Nat) (bytes : List Byte) : State :=
  if ¬ flag s F.INT_REC_CTL.EN f then s else
  let pi := fget s F.INT_REC_PI.PI f
  let log2 := fget s F.INT_REC_BASE.LOG2 f
  if 2 ^ log2 ≤ sub32 pi (fget s F.INT_REC_CI.CI f) then fcount (recDrop s f) F.INT_REC_STATUS.DROPPED f
  else
    let s := hostWrite s (fget s F.INT_REC_BASE.BASE f * 4096 + 64 * (pi % 2 ^ log2)) bytes
    msixRaise (fset s F.INT_REC_PI.PI (pi + 1) f) f (fget s F.INT_REC_CTL.VECTOR f)

/-- The oldest record that firmware has not been told of is announced on channel 2 while it is empty (17 R497). -/
def notifyLiaison (s : State) : State :=
  match s.int.toFirmware with
  | [] => s
  | x :: t => if (chan s 2).full then s else chSend (onInt s fun y => { y with toFirmware := t }) 2 (x.1 % 2 ^ 24 + x.2 <<< 24)

/-- A record is written: to firmware, to the PF's ring and to a VF's (R407). During fail-safe firmware alone receives it (R410). -/
def recWrite (s : State) (r : FaultRec) (serial window level flags : Nat) : State :=
  let b := recBytes r serial window level flags
  let s := notifyLiaison (onInt s fun x => { x with toFirmware := x.toFirmware ++ [(serial, r.detail.kind)] })
  if failsafe s then s else
  let s := recRing s 0 b
  match r.function with
  | some f => if f = 0 then s else recRing s f b
  | none => s

/-- The next SERIAL is taken. -/
def takeRec (s : State) : Nat × State := (s.int.serial, onInt s fun x => { x with serial := wrapInc x.serial 32 })

/-- INT_STATE and INT_WINDOW_START show the present recoveries and window (R413). -/
def intView (s : State) : State :=
  let live := s.int.recoveries.filter fun r => r.running
  let w := s.int.window
  let s := fset s F.INT_STATE.STATE (if failsafe s then 2 else if live = [] then 0 else 1)
  let s := fset s F.INT_STATE.DEEPEST (maxD (live.map fun r => r.level))
  let s := fset s F.INT_STATE.COUNT (match w with | some x => Nat.min x.2.1 3 | none => 0)
  let s := fset s F.INT_STATE.FIRST_SERIAL (match w with | some x => x.2.2 | none => 0)
  fset s F.INT_WINDOW_START.START (match w with | some x => x.1 | none => 0)

/-! ### Fail-safe entry (R408 to R410) -/

/-- Fail-safe is entered with a cause, but not under the recovery identity, which keeps FAULT_N deasserted (19 R537): once, every hold is set, every engine stops, AER reports, and the FAILSAFE_ENTERED record
and its vector are the device's last requests. Running recoveries end with it. -/
def failsafeEnter (s : State) (cause : Nat) : State :=
  if failsafe s ∨ recoveryId s then s else
  let s := send s .aerInternal
  let t := takeRec s
  let r : FaultRec := { time := s.time, unit := 0x12F, status := .ok, level := 0, context := none, function := none, detail := .system 5 cause 0 0 }
  let s := recWrite t.2 r t.1 0 0 2
  let s := fset (fset s F.INT_FAILSAFE.ACTIVE 1) F.INT_FAILSAFE.CAUSE cause
  let s := rset s .INT_HOLD 0xFF
  let s := (List.range 4).foldl (fun s n => fset s F.DSP_OUT_STATUS.HELD 1 0 n) s
  let s := { s with dsp := { s.dsp with streams := s.dsp.streams.map fun e => (e.1, { e.2 with shroud := true }) } }
  let s := [0, 1].foldl (fun s p => uapMove s p 5) s
  let s := { s with boot := { s.boot with faultN := true } }
  intView (onInt s fun x => { x with recoveries := [], failAt := s.time, dieStep2 := false })

/-! ### Work that ends with a target (R396 to R399) -/

/-- The command or pass that a block works for fails with the fault's status (R397). -/
def failOwner (s : State) (k : Block) (st : Status) : State :=
  match k.kind with
  | .item t _ => taskFail s t st
  | .position p => passFail s p st
  | .fragment c sl => match tileAt s c sl with | some x => passFail s x.pass st | none => s

/-- The resident blocks that satisfy p are discarded; their park tokens are freed and their engines unbound. -/
def dropBlocks (s : State) (p : Block → Bool) (st : Status) : State :=
  (s.sc.blocks.filter fun e => p e.2).foldl (fun s e => dropBlock (failOwner s e.2 st) e.1) s

/-- The tiles of a raster unit are discarded and their passes fail. -/
def dropTiles (s : State) (c : Nat) (st : Status) : State :=
  (unitTiles s c).foldl (fun s e =>
    let sl := e.1 % 16
    let s := passFail s e.2.pass st
    let s := (s.sc.blocks.filter fun b => b.2.kind = .fragment c sl).foldl (fun s b => dropBlock s b.1) s
    freeTile s c sl e.2) s

/-- Started commands that satisfy p lose their items in flight and finish with the status. -/
def failTasks (s : State) (p : Task → Bool) (st : Status) : State :=
  (s.fe.tasks.filter fun e => p e.2).foldl (fun s e => onTask (taskFail s e.1 st) e.1 fun k => { k with live := [] }) s

/-- Folio banks of a cluster read zero with valid checks (11 R342). -/
def zeroFolio (s : State) (k : Nat) : State :=
  onMem s fun m => { m with
    folio := m.folio.filter fun c => c.1 / 2 ^ 22 ≠ k
    folioBad := m.folioBad.filter fun l => l / 2 ^ 15 ≠ k }

/-- The arbiters withdraw the grants and forget the asks of a unit (R396 step 1). -/
def isolate (s : State) (u : Nat) : State :=
  onMem s fun m => { m with arbiters := m.arbiters.map fun e => (e.1, { e.2 with
    holder := e.2.holder.filter fun h => h.unit ≠ u
    revoked := e.2.revoked.filter fun h => h.unit ≠ u
    waiting := e.2.waiting.filter fun h => h.unit ≠ u }) }

/-- The channels that a Control Complex core receives on (17 R498). -/
def coreChannels (c : Nat) : List Nat := if c = 0 then [0] ++ [2] ++ upFrom 8 16 else if c = 2 then [3] else if c = 3 then [6] else []

/-- A Control Complex core restarts (17 R494, R501, R502): at its ENTRY, or in the boot ROM while no firmware runs; the command
that core 0 had taken ends with the status. -/
def restartCore (s : State) (c : Nat) (st : Status) : State :=
  let s := (coreChannels c).foldl chReset (pmpReset s c)
  let s := fset (fcount s F.CCX_CORE_STATUS.RESTARTS 0 c) F.CCX_CORE_STATUS.MODE 2 0 c
  if c ≠ 0 then s else
  let s := if fget s F.CCX_FW_STATE.STATE = 1 then fset (onCcx s fun x => { x with loading := none }) F.CCX_FW_STATE.STATE 0 else s
  onCcx s fun x => { x with cmd := x.cmd.map fun b => if b.result.isNone then { b with result := some (0, st) } else b }

/-- Walks in progress are answered with the status, and nothing is cached (R396, 12 R365). -/
def dropWalks (s : State) (st : Status) : State :=
  let reqs := s.xlt.walks.flatMap fun w => w.req :: w.waiting
  onXlt s fun x => { x with
    walks := [], tc := [], micro := [], atsWait := []
    answers := x.answers ++ reqs.map fun r => (r.id, .fault st 0 r.va (accByte r.acc) 0) }

/-- A level-2 slice writes back every dirty line it holds and invalidates (R396 step 3); the way that a tag-parity record names
has been lost already. -/
def resetSlice (s : State) (k : Nat) : State := (maintWays s 3 fun key _ => decide (key / 16384 = k)).2

/-- Entries of a queue that have been fetched and not started end with the status. -/
def failFetched (s : State) (st : Status) : State :=
  s.fe.queues.foldl (fun s e => (e.2.entries.filter unstarted).foldl (fun s x => entryEnd s e.1 x.seq st) s) s

/-- Unit-level recovery resets a unit (R396, R397): its work ends and its state is reset. -/
def resetUnit (s : State) (u : Nat) (st : Status) : State :=
  let s := isolate s u
  let b := u % 4096
  let part := u / 4096
  if b < 0x80 then
    if part = 2 ∨ part = 3 then
      -- the L1 or the texture unit: accesses it had accepted are answered with the status (R390), and their group parks with them
      let s := onSc s fun x => { x with l1 := tdel x.l1 b }
      if part = 3 then s else
      (s.sc.blocks.filter fun e => e.2.core = b).foldl (fun s e => e.2.groups.foldl (fun s g =>
        match g.mem.filter fun q => !q.isLocal with
        | q :: l =>
          if g.park.isSome then s else
          let s := parkGroup s e.1 g.slot st (q.lanes.map fun l => l.thread) q.pc (match q.lanes with | l :: _ => l.addr | [] => 0)
            (decide (q.op ≠ .load)) none true (q :: l)
          onGroup s e.1 g.slot fun g => { g with mem := g.mem.filter fun q => q.isLocal }
        | [] => s) s) s
    else coreClear (dropBlocks s (fun k => decide (k.core = b)) st) b
  else if b < 0xC0 then onEngine (dropBlocks s (fun k => decide (k.engine = some (b - 0x80))) st) (b - 0x80) fun _ => {}
  else if b < 0xD0 then dropTiles s (b - 0xC0) st
  else if b < 0xE0 then
    let k := b - 0xD0
    zeroFolio (dropTiles (dropBlocks s (fun x => x.engine.any fun e => decide (e / 4 = k)) st) k st) k
  else if b < 0x100 then resetSlice s (b - 0xE0)
  else if b < 0x104 then onMem s fun m => { m with stackTbl := tdel m.stackTbl (b - 0x100) }
  else match b with
    | 0x110 | 0x111 => s.gfx.passes.foldl (fun s e => passFail (dropBlocks s (fun k => decide (k.kind = .position e.1)) st) e.1 st) s
    | 0x112 =>
      let s := s.fe.creating.foldl (fun s e => qResult s e.1 st 0) s
      failFetched (onFe s fun x => { x with creating := [] }) st
    | 0x113 =>
      let s := s.fe.launches.foldl (fun s e => discardLaunch s e.1) s
      failTasks s (fun k => decide (k.live = [])) st
    | 0x114 => s.seq.runs.foldl (fun s e => stepFail s e.1 st) s
    | 0x115 =>
      let s := s.gfx.passes.foldl (fun s e => if e.2.reuse.isSome then passFail s e.1 st else s) s
      onGfx s fun g => { g with reuse := [] }
    | 0x116 => dropWalks s st
    | 0x117 => failTasks s (fun k => decide (k.eng = .press)) st
    | 0x126 => { s with hif := { s.hif with badReads := [] } }
    | 0x127 => s
    | _ =>
      if b < 0x11C then failTasks s (fun k => decide (k.eng = .copy) && k.live.any fun i => decide (i % 4 = b - 0x118)) st
      else if b < 0x124 then
        { s with dsp := { s.dsp with pipes := s.dsp.pipes.map fun e =>
            if (e.2.stream.any fun x => decide (x / 2 = b - 0x120)) then (e.1, { e.2 with lines := [], next := 0 }) else e } }
      else if b < 0x126 then uapTry (uapMove s (b - 0x124) 0) (b - 0x124)
      else if b < 0x12C then restartCore s (b - 0x128) st
      else s

/-- Core recovery (R398): a shader core with all its parts, or an Accord engine. -/
def resetCore (s : State) (b : Nat) (st : Status) : State :=
  let s := isolate s b
  if b < 0x80 then coreClear (dropBlocks s (fun k => decide (k.core = b)) st) b
  else onEngine (dropBlocks s (fun k => decide (k.engine = some (b - 0x80))) st) (b - 0x80) fun _ => {}


/-- NOW and TARGET of a domain, with no transition in progress. -/
def domSet (s : State) (d now : Nat) : State :=
  fset (fset (fset s F.PWR_DOM_CTL.NOW now 0 d) F.PWR_DOM_CTL.TARGET now 0 d) F.PWR_DOM_CTL.PENDING 0 0 d

/-- Cluster recovery (R399): every item and tile of the cluster ends, its SHD and ACD domains are cycled, its banks keep their
owners and read zero, and outputs show their fail-safe colour until they latch. -/
def resetCluster (s : State) (k : Nat) (st : Status) : State :=
  let s := dropBlocks s (fun b => decide (b.core / 8 = k)) st
  let s := dropTiles s k st
  let s := zeroFolio s k
  let s := (upFrom (8 * k) 8).foldl coreClear s
  let s := (upFrom (4 * k) 4).foldl (fun s e => onEngine s e fun _ => {}) s
  let s := onXlt s fun x => { x with micro := x.micro.filter fun e => engineDomain e.1 ≠ k ∧ engineDomain e.1 ≠ 16 + k }
  let s := keepRegs s fun r w i => decide (r = .FOL_BANK) || decide (r.domain w i ≠ some k ∧ r.domain w i ≠ some (16 + k))
  let s := onMem s fun m => { m with handovers := m.handovers.filter fun e => e.1 / 16 ≠ k }
  let s := (List.range 16).foldl (fun s b =>
    let s := fset (fset s F.FOL_BANK.PENDING 0 k b) F.FOL_BANK.TARGET 0 k b
    if fget s F.FOL_BANK.OWNER k b = 0 then fset (fset s F.FOL_BANK.PSTATE 2 k b) F.FOL_BANK.PNOW 2 k b
    else fset s F.FOL_BANK.PNOW 0 k b) s
  let s := onPwr s fun p => { p with phases := tdel (tdel p.phases k) (16 + k) }
  let s := domSet s k 0
  let s := domSet s (16 + k) (domNow s (16 + k))
  { s with dsp := { s.dsp with streams := s.dsp.streams.map fun e => (e.1, { e.2 with lost := nins e.2.lost k }) } }

/-! ### Die recovery (R400) -/

/-- Step 1: every engine stops and every item is discarded. -/
def dieHalt (s : State) : State :=
  let s := onSc s fun _ => {}
  let s := onGfx s fun g => { g with passes := [], tiles := [] }
  let s := onSeq s fun x => { x with runs := [], ring := none, inbox := [], aborts := [] }
  let s := onFe s fun x => { x with tasks := [], launches := [], stepDone := [], gops := [], teardowns := [] }
  onMem s fun m => { m with misses := [], held := [], pcq := [], maint := none }

/-- Step 2 for one queue: its fences are signalled with the status, and it goes to KILLED. -/
def dieQueue (st : Status) (s : State) (i : Nat) : State := killQueue (tdFences s i st) i

/-- Step 2 for the first n queues that are not FREE, in index order. -/
def dieQueues (s : State) (st : Status) (n : Nat) : State := ((s.fe.queues.map Prod.fst).take n).foldl (dieQueue st) s

/-- Registers that keep their values in a die recovery: those of the AON domain, the partitions and the windows of the VFs, and the
registers of 03 R106 that firmware writes again. -/
def Reg.keptInDie (r : Reg) (w i : Nat) : Bool :=
  let blk := r.place.base / 2 ^ 20
  match r with
  | .FE_PART | .SEQ_PART | .HIF_VF_WIN | .SCH_RESERVE | .SCH_PREEMPT_CTL | .SCH_DL_BUDGET | .SCH_SCRATCH => true
  | _ => (r.domain w i).isNone && (decide (blk = 0) || decide (blk = 15) || decide (0x12 ≤ blk))

/-- The cleaning of step 3 reaches a way: its slice responds and its stack is ON. -/
def dieCleans (s : State) (dead : List Nat) (key : Nat) (l : Line) : Bool :=
  sliceOn s (key / 16384) && stackOn s (paStack (l.la * 128)) && decide (key / 16384 ∉ dead)

/-- A dirty line that the cleaning of step 3 does not reach. -/
def dieLoses (s : State) (dead : List Nat) : Bool :=
  s.mem.parkedWb ≠ [] || s.mem.ways.any fun e => e.2.dirty && !dieCleans s dead e.1 e.2

/-- Everything of the switched domains that no register holds is as after reset. -/
def clearDie (s : State) : State :=
  { s with
    fe := {}, sc := {}, gfx := {}, seq := {}, dsp := {}, intf := [], intfDone := none
    xlt := { atsEnabled := s.xlt.atsEnabled }
    mem := { hbm := s.mem.hbm, badCheck := s.mem.badCheck, poisoned := s.mem.poisoned }
    ports := [] }

/-- The pads of a domain that leaves ON latch (18 R516). -/
def latchPads (s : State) (d : Nat) : State :=
  if 36 ≤ d ∧ d ≤ 39 then fset s F.PWR_PAD_RELEASE.HBM (fget s F.PWR_PAD_RELEASE.HBM ||| 2 ^ (d - 36))
  else if 44 ≤ d ∧ d ≤ 47 then fset s F.PWR_PAD_RELEASE.DPO (fget s F.PWR_PAD_RELEASE.DPO ||| 2 ^ (d - 44))
  else if 48 ≤ d ∧ d ≤ 49 then fset s F.PWR_PAD_RELEASE.UAP (fget s F.PWR_PAD_RELEASE.UAP ||| 2 ^ (d - 48))
  else s

/-- Steps 3 to 6: the cache cleans, every switched domain is cycled, and everything but what R400 keeps is cleared. -/
def dieRest (s : State) : State :=
  let s := (maintWays s 1 (dieCleans s s.int.dieDead)).2
  let s := chReset s 4
  let s := [0, 1].foldl (fun s p => if uapState s p = 4 then s else uapMove s p (if uapHeld s p then 5 else 0)) s
  let s := (List.range 50).foldl (fun s d => if domNow s d ≠ 2 ∧ (44 ≤ d ∧ d ≤ 49) then latchPads s d else s) s
  let s := fset s F.PWR_PAD_RELEASE.HBM 0
  let s := if domOn s 41 then s else fset s F.HIF_RATE_NOW.RATE 0
  let s := clearDie (keepRegs s Reg.keptInDie)
  let s := (List.range 50).foldl (fun s d => domSet s d (if resetOn d then 0 else 2)) s
  -- every slice that is ON invalidates its ways (11 R332)
  let s := (List.range 32).foldl (fun s k => if sliceOn s k then fset s F.L2_SLICE_STATUS.STATE 1 0 k else s) s
  -- an FLR in progress has nothing left to tear down
  let s := (upFrom 1 15).foldl (fun s f => flrEnd s f) s
  onInt (onPwr s fun p => { p with phases := [], heldWrites := [], demands := [] }) fun x => { x with serial := 1, dieStep2 := false, dieDead := [] }

/-! ### Package-level reset (R411, 19 R539) -/

/-- The settings of the image that registers show (19 R531, R534, R537): power limit, boot voltage and boot duty. -/
def applyImage (s : State) : State :=
  let i := s.boot.image
  let valid := fget s F.BOOT_STATUS.RESULT = 1
  let s := fset s F.PWR_LIMIT.P_LIMIT (if valid then i.pLimit else 500)
  let s := fset s F.PWR_VDD.TARGET_MV (if valid then i.bootMv else 750)
  let s := onPwr s fun p => { p with loopTarget := if valid then i.bootMv else 750 }
  fset s F.PWR_FAN.DUTY (if valid then i.bootDuty else if recoveryId s then 100 else 0)

/-- The domains of 18 R510 are ON, unless PERST_N is asserted, CORE_PGOOD is low or the recovery identity keeps every domain OFF
(19 R537, R539, R540). -/
def resetDomains (s : State) : State :=
  let up : Bool := !s.boot.perst && s.boot.corePgood && !recoveryId s
  (List.range 50).foldl (fun s d => domSet s d (if up && resetOn d then 0 else 2)) s

/-- The PCIe link may train once PERST_N is deasserted and LINK_READY is set, or the recovery identity has been taken (19 R536,
R537). -/
def linkStart (s : State) : State :=
  let up : Bool := !s.boot.perst && (flag s F.BOOT_STATUS.LINK_READY || recoveryId s)
  { s with boot := { s.boot with linkTraining := up } }

/-- A link that was up trains again to what it had, at full width, where it may train (log 33). -/
def linkAgain (s : State) (old : Nat) : State :=
  let s := linkStart s
  if ¬ s.boot.linkTraining then s
  else
    let s := rset s .HIF_LINK old
    fset (fset s F.HIF_LINK.ACTIVE (fget s F.HIF_LINK.WIDTH)) F.HIF_LINK.LSTATE 0

/-- A stream of a held output keeps its timing generator running (R411). -/
def heldStream (s : State) (x : Nat) : Bool :=
  bit (fget s F.INT_HOLD.DISPLAY) (x / 2) && (match tget s.dsp.streams x with | some y => bit y.ctl 31 | none => false)

/-- Registers that package-level reset keeps: the time base, the holds, the BOOT block, and the timing of held outputs. -/
def keptInPackage (s : State) (r : Reg) (_ i : Nat) : Bool :=
  match r with
  | .HIF_TIME_CTL | .INT_HOLD => true
  | .DSP_TIMING_H | .DSP_TIMING_V | .DSP_PIXEL_RATE | .DSP_STREAM_LINK | .DSP_STREAM_CTL | .DSP_STREAM_STATUS => heldStream s i
  | .DSP_OUT_STATUS | .DSP_OUT_CTL => bit (fget s F.INT_HOLD.DISPLAY) i
  | _ => decide (r.place.base / 2 ^ 20 = 0x15)

/-- The words of the channels after a reset of every receiver: a native channel keeps its word, a channel in compatibility mode
discards it and reports ABORTED (17 R500, R501). -/
def resetChannels (old : Tbl Channel) (s : State) : State :=
  old.foldl (fun s e =>
    if ¬ e.2.full then s
    else if e.2.v7 then chAborted s e.1
    else chSet s e.1 e.2.word true false) s

/-- Package-level reset: everything but the time base, the image settings, the holds, host memory, the flash and the fuses. -/
def packageReset (s : State) : State :=
  let channels := s.ccx.channels
  let streams := s.dsp.streams.filter fun e => heldStream s e.1
  let f : State := keepRegs s (keptInPackage s)
  let g : State := { time := s.time, freeCtr := s.freeCtr, pending := s.pending, regs := f.regs, hostMem := s.hostMem, boot := s.boot,
                     hif := { sent := s.hif.sent }, dsp := { streams := streams } }
  let g := resetDomains (applyImage g)
  let g := [0, 1].foldl (fun g p => if uapHeld g p then fset g F.UAP_STATUS.STATE 5 0 p else g) g
  linkAgain (resetChannels channels g) (rget s .HIF_LINK)

/-- A flash operation ends with a status (19 R542). -/
def flashEnd (s : State) (st : Status) : State :=
  fset (fset { s with boot := { s.boot with op := none } } F.BOOT_FLASH_RESULT.BUSY 0) F.BOOT_FLASH_RESULT.STATUS (Status.code st)

/-- A flash operation in progress is abandoned: a read at once, another when the page program or the erase in progress ends
(19 R542). -/
def flashAbandon (s : State) : State :=
  match s.boot.op with
  | none => s
  | some o =>
    if o.op = 1 then flashEnd s .watchdog
    else { s with boot := { s.boot with op := some { o with abandoned := true } } }

/-- Package-level recovery (R411). A flash operation in progress is cut short as by PERST_N (19 R542). -/
def packageRecover (s : State) : State := packageReset (flashAbandon s)

end Sys2Proof.Machine
end

