-- ==== Sys2Proof/Machine/DspOps.lean ====
section
/-!
DEFINITION. Machine/DspOps.lean: the compositor's streams, pipes and line buffers as other blocks see them (15 R431 to R441).
-/

namespace Sys2Proof.Machine

/-- A stream of the compositor. -/
def streamAt (s : State) (x : Nat) : Stream := tgetD s.dsp.streams x {}
/-- Changes a stream. -/
def onStream (s : State) (x : Nat) (f : Stream → Stream) : State := { s with dsp := { s.dsp with streams := tmod s.dsp.streams x {} f } }
/-- A pipe's active values. -/
def pipeAt (s : State) (p : Nat) : Pipe := tgetD s.dsp.pipes p {}
/-- Changes a pipe. -/
def onPipe (s : State) (p : Nat) (f : Pipe → Pipe) : State := { s with dsp := { s.dsp with pipes := tmod s.dsp.pipes p {} f } }

/-- Bytes per pixel of a layer format (R440), 0 for a code that is none. -/
def layerBytes (c : Nat) : Nat :=
  match c with | 0x03 | 0x04 | 0x05 | 0x0E => 4 | 0x08 | 0x0D => 8 | 0x0B => 16 | _ => 0

/-- The stream is active: its timing generator runs (R432). -/
def streamOn (s : State) (x : Nat) : Bool := bit (streamAt s x).ctl 31
/-- A stream of output n is active. -/
def outputOn (s : State) (n : Nat) : Bool := streamOn s (2 * n) || streamOn s (2 * n + 1)

/-- Folio lines of one layer line: CTL and SRC give format and width (R441). -/
def layerLines (ctl src : Nat) : Nat := (bits src 15 0 * layerBytes (bits ctl 7 0) + 127) / 128 + 1

/-- A line buffer as cluster, first folio line and number of lines (R441). -/
def bufRange (ctl src buf : Nat) : Nat × Nat × Nat := (bits buf 31 28, bits buf 14 0, bits buf 27 21 * layerLines ctl src)

/-- Two line buffers share a folio line. -/
def bufsMeet (a b : Nat × Nat × Nat) : Bool := a.1 = b.1 ∧ a.2.1 < b.2.1 + b.2.2 ∧ b.2.1 < a.2.1 + a.2.2

/-- Line buffers that the active configuration of the streams that satisfy q names. -/
def activeBufs (s : State) (q : Nat → Bool) : List (Nat × Nat × Nat) :=
  (s.dsp.pipes.filter fun e => e.2.stream.any q).map fun e => bufRange e.2.ctl e.2.src e.2.buf

/-- Pipes whose shadow attaches them to a stream that satisfies q. -/
def shadowPipes (s : State) (q : Nat → Bool) : List Nat :=
  (List.range 32).filter fun p => flag s F.DSP_PIPE_CTL.EN 0 p && q (fget s F.DSP_PIPE_CTL.STREAM 0 p)

/-- Line buffer that a pipe's shadow names. -/
def shadowBuf (s : State) (p : Nat) : Nat × Nat × Nat :=
  bufRange (rget s .DSP_PIPE_CTL 0 p) (rget s .DSP_PIPE_SRC 0 p) (rget s .DSP_PIPE_BUF 0 p)

/-- A commit of the stream awaits its latch point. -/
def commitPending (s : State) (x : Nat) : Bool := flag s F.DSP_COMMIT_STATUS.PENDING 0 x

/-- The active configuration or a pending commit of output n names a line of bank b of cluster c (R441). -/
def outputUses (s : State) (n c b : Nat) : Bool :=
  let mine (x : Nat) : Bool := decide (x / 2 = n)
  let bufs := activeBufs s mine ++ (shadowPipes s fun x => mine x && commitPending s x).map (shadowBuf s)
  bufs.any fun r => bufsMeet r (c, 2048 * b, 2048)

end Sys2Proof.Machine
end

