-- ==== Sys2Proof/Machine/Transfer.lean ====
section
/-!
DEFINITION. Machine/Transfer.lean: the transfer functions, matrices and tone mapping of the compositor (15 R442, R444). A function's
exact value is formed as a rational, correct to some 2^-60; what the device forms lies within a relative 2^-16 of it, where
in that range is free (log 28).
-/

namespace Sys2Proof.Machine

/-! ### Logarithm and exponential in fixed point, 128 fraction bits -/

/-- ln 2. -/
def fxLn2 : Int := 235865763225513294137944142764154484399

/-- ln of a positive rational. -/
def fxLn (x : Rat) : Int :=
  let p : Nat := x.num.toNat
  let q : Nat := x.den
  let lp := Nat.log2 p
  let lq := Nat.log2 q
  let a : Int := p * 2 ^ (lq - lp)
  let b : Int := q * 2 ^ (lp - lq)
  let z : Int := (a - b) * 2 ^ 128 / (a + b)
  let z2 : Int := z * z / 2 ^ 128
  let r := (List.range 60).foldl (fun (t : Int × Int) k => (t.1 + t.2 / (2 * (k : Int) + 1), t.2 * z2 / 2 ^ 128)) ((0 : Int), z)
  2 * r.1 + ((lp : Int) - lq) * fxLn2

/-- e to a fixed-point power. -/
def fxExp (y : Int) : Rat :=
  let k := y / fxLn2
  let r := y % fxLn2
  let t := (List.range 50).foldl (fun (t : Int × Int) i => (t.1 + t.2, t.2 * r / 2 ^ 128 / ((i : Int) + 1))) ((0 : Int), (2 : Int) ^ 128)
  (t.1 : Rat) / 2 ^ 128 * (if 0 ≤ k then (2 : Rat) ^ k.toNat else 1 / (2 : Rat) ^ (-k).toNat)

/-- x to a rational power; 0 for x at or below 0. -/
def powR (x a : Rat) : Rat := if x ≤ 0 then 0 else fxExp (fxLn x * a.num / a.den)

/-- Natural logarithm of a positive rational. -/
def lnR (x : Rat) : Rat := (fxLn x : Rat) / 2 ^ 128

/-! ### Values and codes -/

/-- The value of a finite binary32 code. -/
def ratOf (x : Nat) : Option Rat :=
  match Fmt.b32.decode x with
  | .num _ _ _ => let r := asRatio x; some ((if r.1 then -1 else 1) * (r.2.1 : Rat) / r.2.2)
  | _ => none

/-- The binary32 code nearest a rational. -/
def b32Of (r : Rat) : Nat := (Fmt.b32.ratio .ties (decide (r < 0)) r.num.natAbs r.den 0).1

/-- A value within a relative 2^-16 of r; k says which. -/
def near16 (r : Rat) (k : Nat) : Rat := r * (1 + (((k % (2 ^ 25 + 1) : Nat) : Rat) - 2 ^ 24) / 2 ^ 40)

/-- A free binary32 code. -/
def freeCode (k : Nat) : Nat := k % 2 ^ 32

/-- A free finite factor that is not negative. -/
def freeFactor (k : Nat) : Nat := k % 0x7F80_0000

/-! ### PQ, HLG and sRGB -/

/-- Constants of SMPTE ST 2084. -/
def pqM1 : Rat := 2610 / 16384
def pqM2 : Rat := 2523 / 32
def pqC1 : Rat := 3424 / 4096
def pqC2 : Rat := 2413 / 128
def pqC3 : Rat := 2392 / 128

/-- The PQ EOTF of a signal in [0, 1], in cd/m². -/
def pqEotf (e : Rat) : Rat :=
  let n := powR e (1 / pqM2)
  10000 * powR (max (n - pqC1) 0 / (pqC2 - pqC3 * n)) (1 / pqM1)

/-- Its inverse, of a luminance in cd/m². -/
def pqInverse (l : Rat) : Rat :=
  let y := powR (l / 10000) pqM1
  powR ((pqC1 + pqC2 * y) / (1 + pqC3 * y)) pqM2

/-- Constants of the HLG OETF (ITU-R BT.2100). -/
def hlgA : Rat := 17883277 / 100000000
def hlgB : Rat := 1 - 4 * hlgA
def hlgC : Rat := 1 / 2 - hlgA * lnR (4 * hlgA)

/-- The HLG inverse OETF of a signal in [0, 1]. -/
def hlgDecode (e : Rat) : Rat :=
  if e ≤ 1 / 2 then e * e / 3
  else
    let x := (e - hlgC) / hlgA
    (fxExp (x.num * 2 ^ 128 / x.den) + hlgB) / 12

/-- The HLG OETF of a scene value in [0, 1]. -/
def hlgEncode (e : Rat) : Rat := if e ≤ 1 / 12 then powR (3 * e) (1 / 2) else hlgA * lnR (12 * e - hlgB) + hlgC

/-- The system gamma for a nominal peak (ITU-R BT.2100). -/
def hlgGamma (lw : Nat) : Rat := 12 / 10 + 42 / 100 * (lnR ((lw : Rat) / 1000) / lnR 10)

/-- BT.2020 luminance. -/
def luma (r g b : Rat) : Rat := (2627 * r + 6780 * g + 593 * b) / 10000

/-- IEC 61966-2-1 decoding and encoding. -/
def srgbToLinear (x : Rat) : Rat := if x ≤ 4045 / 100000 then x / (1292 / 100) else powR ((x + 55 / 1000) / (1055 / 1000)) (24 / 10)
def srgbFromLinear (x : Rat) : Rat :=
  if x ≤ 31308 / 10000000 then x * (1292 / 100) else 1055 / 1000 * powR x (10 / 24) - 55 / 1000

/-! ### Layer decoding (R442 step 3) -/

/-- One channel through a transfer function of its own; a value outside the function's domain gives a free code. -/
def decodeChan (tf white k x : Nat) : Nat :=
  match ratOf x with
  | none => freeCode k
  | some v =>
    match tf with
    | 0 => b32Of (near16 (srgbToLinear v) k)
    | 1 => b32Of (near16 (powR v (24 / 10)) k)
    | 2 => if v < 0 ∨ 1 < v then freeCode k else b32Of (near16 (pqEotf v / white) k)
    | _ => freeCode k

/-- The three colour channels through TF; free gives the free values. HLG acts on the three together. -/
def layerDecode (tf white : Nat) (free : Nat → Nat) (c : List Nat) : List Nat :=
  if tf = 4 then c
  else if tf = 3 then
    match c.map ratOf with
    | [some r, some g, some b] =>
      if r < 0 ∨ g < 0 ∨ b < 0 ∨ 1 < r ∨ 1 < g ∨ 1 < b then (List.range 3).map fun i => freeCode (free i)
      else
        let e := [hlgDecode r] ++ [hlgDecode g] ++ [hlgDecode b]
        let y := luma (e.getD 0 0) (e.getD 1 0) (e.getD 2 0)
        e.zipIdx.map fun x => b32Of (near16 (1000 * powR y (2 / 10) * x.1 / white) (free x.2))
    | _ => (List.range 3).map fun i => freeCode (free i)
  else c.zipIdx.map fun x => decodeChan tf white (free x.2) x.1

/-! ### Matrices (R442 step 4, R444 step 2) -/

/-- A coefficient of four decimals in binary32. -/
def coef (n : Int) : Nat := b32Of ((n : Rat) / 10000)

/-- A matrix, row by row in ten-thousandths, times a colour, in binary32 from left to right. -/
def matMul (m : List (List Int)) (c : List Nat) : List Nat :=
  m.map fun r =>
    let p := (r.zip c).map fun x => fMul (coef x.1) x.2
    fAdd (fAdd (p.getD 0 0) (p.getD 1 0)) (p.getD 2 0)

/-- BT.709 to BT.2020. -/
def to2020 : List (List Int) := [[6274, 3293, 433], [691, 9195, 114], [164, 880, 8956]]
/-- BT.2020 to BT.709. -/
def to709 : List (List Int) := [[16605, -5876, -728], [-1246, 11329, -83], [-182, -1006, 11187]]

/-! ### Tone mapping (R444 step 1) -/

/-- The EETF of ITU-R BT.2390 from [0, src] to [0, target], at m cd/m². -/
def eetf (src target : Nat) (m : Rat) : Rat :=
  let top := pqInverse src
  let e1 := (pqInverse m - pqInverse 0) / (top - pqInverse 0)
  let mx := (pqInverse target - pqInverse 0) / (top - pqInverse 0)
  let ks := 3 / 2 * mx - 1 / 2
  let e2 := if e1 < ks then e1 else
    let t := (e1 - ks) / (1 - ks)
    (2 * t ^ 3 - 3 * t ^ 2 + 1) * ks + (t ^ 3 - 2 * t ^ 2 + t) * (1 - ks) + (-2 * t ^ 3 + 3 * t ^ 2) * mx
  pqEotf (e2 * (top - pqInverse 0) + pqInverse 0)

/-- The scale of tone mapping for a colour: E(M) / M, free where M is not in (0, src]. -/
def toneScale (src target white k : Nat) (c : List Nat) : Nat :=
  match c.map ratOf with
  | [some r, some g, some b] =>
    let m := max (max r g) b * white
    if m ≤ 0 ∨ src < m then freeFactor k
    else if src ≤ target then b32Of (near16 1 k)
    else b32Of (near16 (eetf src target m / m) k)
  | _ => freeFactor k

/-- A channel above target / white is clipped to it. -/
def clipTo (target white x : Nat) : Nat := let t := fDiv (fInt target) (fInt white); if fLess t x then t else x

/-! ### Output encoding (R444 steps 3 and 4) -/

/-- The signal of one channel as OUT_TF says, none where it is free. -/
def encodeChan (tf white : Nat) (x : Nat) : Option Rat :=
  match ratOf x with
  | none => none
  | some v =>
    match tf with
    | 0 => some (srgbFromLinear (min (max v 0) 1))
    | 1 => some (powR (min (max v 0) 1) (10 / 24))
    | _ => if v < 0 ∨ 10000 < v * white then none else some (pqInverse (v * white))

/-- The signals of a colour; HLG acts on the three together. -/
def signals (tf white peak : Nat) (c : List Nat) : List (Option Rat) :=
  if tf ≠ 3 then c.map (encodeChan tf white)
  else
    match c.map ratOf with
    | [some r, some g, some b] =>
      let l := [r * white] ++ [g * white] ++ [b * white]
      let y := luma (l.getD 0 0) (l.getD 1 0) (l.getD 2 0)
      let gm := hlgGamma peak
      l.map fun f =>
        let e := powR (y / peak) ((1 - gm) / gm) * f / peak
        if e < 0 ∨ 1 < e then none else some (hlgEncode e)
    | _ => [none, none, none]

/-- Nearest natural number, ties to even. -/
def natNear (r : Rat) : Nat := if r ≤ 0 then 0 else nearest r.num.toNat r.den 1

/-- The code of a signal in bpc bits, no more than the greatest; a signal that is free gives a free code. -/
def codeOf (limited : Bool) (bpc k : Nat) (e : Option Rat) : Nat :=
  match e with
  | none => k % 2 ^ bpc
  | some v =>
    let v := near16 v k
    let n := natNear (if limited then (16 + 219 * v) * (2 : Rat) ^ (bpc - 8) else v * ((2 : Rat) ^ bpc - 1))
    if n < 2 ^ bpc then n else 2 ^ bpc - 1

end Sys2Proof.Machine
end

