-- ==== Sys2Proof/Machine/Display.lean ====
section
/-!
DEFINITION. Machine/Display.lean: commits, latch points, fetch, composition, writeback, links and AUX of the display (15).
-/

namespace Sys2Proof.Machine

/-- Causes of DSP_IRQ_STATUS raised in one step share one message; unmasked ones send it (R452). -/
def dspIrq (s : State) (causes : Nat) : State :=
  let s := rset s .DSP_IRQ_STATUS (rget s .DSP_IRQ_STATUS ||| causes)
  if flag s F.DSP_IRQ_CTL.EN ∧ without causes (rget s .DSP_IRQ_MASK) ≠ 0 then msixRaise s 0 (fget s F.DSP_IRQ_CTL.VECTOR) else s

/-! ### The checks of a commit (R432, R435, R438 to R442, R450) -/

/-- BPC of a stream's CTL in bits, 0 for the code that is none. -/
def bpcOf (ctl : Nat) : Nat := match bits ctl 23 22 with | 0 => 8 | 1 => 10 | 2 => 12 | _ => 0

/-- Total of a timing register: ACTIVE, FRONT, SYNC and BACK. -/
def timingSum (v : Nat) : Nat := bits v 63 48 + bits v 47 32 + bits v 31 16 + bits v 15 1

/-- Need of a stream in kb/s (R435). -/
def streamNeed (s : State) (x ctl : Nat) : Nat :=
  let khz := fget s F.DSP_PIXEL_RATE.KHZ 0 x
  if flag s F.DSP_STREAM_LINK.DSC_EN 0 x then khz * fget s F.DSP_STREAM_LINK.DSC_BPP 0 x / 16 else khz * 3 * bpcOf ctl

/-- Payload of output n's link in kb/s, times 33 (R435): 8b/10b or 128b/132b. -/
def payload33 (s : State) (n : Nat) : Nat :=
  let lanes := 2 ^ fget s F.DSP_OUT_CTL.LANES 0 n
  let r := match fget s F.DSP_OUT_CTL.RATE 0 n with
    | 0 => 1620000 * 8 * 33 / 10 | 1 => 2700000 * 8 * 33 / 10 | 2 => 5400000 * 8 * 33 / 10 | 3 => 8100000 * 8 * 33 / 10
    | 4 => 10000000 * 32 | 5 => 13500000 * 32 | _ => 20000000 * 32
  lanes * r

/-- The limits of R438 on a stream that a commit enables, with the other enabled stream of its output. -/
def timingOk (s : State) (x : Nat) : Bool :=
  let h := rget s .DSP_TIMING_H 0 x
  let v := rget s .DSP_TIMING_V 0 x
  let khz := fget s F.DSP_PIXEL_RATE.KHZ 0 x
  let ha := bits h 63 48
  let va := bits v 63 48
  let hb := timingSum h - ha
  let vb := timingSum v - va
  let y := x / 2 * 2 + (1 - x % 2)
  let other := if streamOn s y then fget s F.DSP_PIXEL_RATE.KHZ 0 y else 0
  let need := streamNeed s x (rget s .DSP_STREAM_CTL 0 x) + (if streamOn s y then streamNeed s y (streamAt s y).ctl else 0)
  decide (64 ≤ ha) && decide (ha ≤ 16384) && decide (ha % 8 = 0) && decide (32 ≤ hb)
    && decide (64 ≤ va) && decide (va ≤ 16384) && decide (3 ≤ vb) && decide (20 * khz ≤ vb * timingSum h * 1000)
    && decide (25000 ≤ khz) && decide (khz + other ≤ 5400000)
    && decide (ha * 10 * khz ≤ timingSum h * 1000000 * 72)
    && decide (need * 100 * 33 ≤ 97 * payload33 s (x / 2))

/-- A refusal whose status the spec does not name takes a free one of the rejections. -/
def openStatus (s : State) : Status := ([.badOpcode, .lengthRange, .lengthExceedsObject, .staleHandle, .badAlignment] : List Status).getD (Config.free s.freeCtr % 5) .badOpcode

/-- Banks that a line buffer touches. -/
def bufBanks (r : Nat × Nat × Nat) : List Nat := (List.range 16).filter fun b => bufsMeet r (r.1, 2048 * b, 2048)

/-- Pipes that would be attached to streams of output n after a commit of stream x. -/
def wouldAttach (s : State) (n x : Nat) : List (Nat × (Nat × Nat × Nat)) :=
  (List.range 32).filterMap fun p =>
    if flag s F.DSP_PIPE_CTL.EN 0 p ∧ fget s F.DSP_PIPE_CTL.STREAM 0 p = x then some (p, shadowBuf s p)
    else match (pipeAt s p).stream with
      | some y => if y / 2 = n ∧ y ≠ x then some (p, bufRange (pipeAt s p).ctl (pipeAt s p).src (pipeAt s p).buf) else none
      | none => none

/-- Checks of a pipe that a commit of stream x would attach. -/
def pipeCheck (s : State) (x p : Nat) : Option Status :=
  let ctl := rget s .DSP_PIPE_CTL 0 p
  let src := rget s .DSP_PIPE_SRC 0 p
  let code := bits ctl 7 0
  let surf := bit ctl 22
  let lines := fget s F.DSP_PIPE_BUF.LINES 0 p
  let r := shadowBuf s p
  let inRange (n : Nat) : Bool := decide (1 ≤ n) && decide (n ≤ 16384)
  if ¬ inRange (bits src 31 16) ∨ ¬ inRange (bits src 15 0) then some .lengthRange
  else if layerBytes code = 0 then some .badOpcode
  else if fget s F.DSP_PIPE_ADDR.ADDR 0 p % (if surf then 4096 else 128) ≠ 0 then some .badAlignment
  else if lines < 3 ∨ 64 < lines ∨ (surf ∧ (lines % 8 ≠ 0 ∨ lines < 16)) then some (openStatus s)
  else if 0x8000 < r.2.1 + r.2.2 then some .lengthRange
  else if (bufBanks r).any fun b => fget s F.FOL_BANK.OWNER r.1 b ≠ 0x11 + x / 2 then some .permission
  else if (wouldAttach s (x / 2) x).any fun y => y.1 ≠ p ∧ bufsMeet r y.2 then some .permission
  else if code = 4 ∧ bits ctl 18 16 ≠ 4 then some .badOpcode
  else none

/-- The checks of a commit of stream x, in the order of the rules; none where it is accepted. -/
def commitCheck (s : State) (x : Nat) : Option Status :=
  let ctl := rget s .DSP_STREAM_CTL 0 x
  let lum := rget s .DSP_STREAM_LUM 0 x
  let wb := rget s .DSP_WB_CTL 0 x
  let on := bit ctl 31
  let inLum (n : Nat) : Bool := decide (1 ≤ n) && decide (n ≤ 10000)
  let h := rget s .DSP_COMMIT_QUEUE 0 x
  let e := if bit wb 30 then 8 else 4
  if on ∧ ¬ domOn s (44 + x / 2) then some .domainOff
  else if bpcOf ctl = 0 then some (openStatus s)
  else if on ∧ ¬ streamOn s x ∧ ¬ timingOk s x then some .lengthRange
  else if ¬ inLum (bits lum 47 32) ∨ ¬ inLum (bits lum 31 16) ∨ bits lum 15 0 < 80 ∨ 500 < bits lum 15 0 then some .lengthRange
  else match (shadowPipes s fun y => decide (y = x)).findSome? (pipeCheck s x) with
    | some st => some st
    | none =>
      if bit wb 31 ∧ ¬ bit wb 30 ∧ bpcOf ctl ≠ 10 then some .badOpcode
      else if fget s F.DSP_WB_ADDR.ADDR 0 x % 128 ≠ 0 then some .badAlignment
      else if bit wb 31 ∧ bits wb 23 0 * 128 < fget s F.DSP_TIMING_H.ACTIVE 0 x * e then some (openStatus s)
      else if h ≠ 0 ∧ (queueOf s 0 h).isNone then some .staleHandle
      else none

/-- DSP_COMMIT (R445): with a commit pending it has no effect. -/
def commit (s : State) (x : Nat) : State :=
  if commitPending s x then s else
  let st := commitCheck s x
  let s := { s with freeCtr := s.freeCtr + 1 }
  match st with
  | some e => fset s F.DSP_COMMIT_STATUS.STATUS (Status.code e) 0 x
  | none =>
    let s := fset (fset s F.DSP_COMMIT_STATUS.STATUS 0 0 x) F.DSP_COMMIT_STATUS.PENDING 1 0 x
    onStream s x fun y => { y with committed := some s.time }

/-- DSP_COMMIT of stream x. -/
def execDspCommit (x : Nat) (s : State) : Out := if 8 ≤ x then .next s else busWrite s .DSP_COMMIT 0 x fun s => commit s x

/-- Nothing is pending any more. -/
def commitClear (s : State) (x : Nat) : State :=
  onStream (fset s F.DSP_COMMIT_STATUS.PENDING 0 0 x) x fun y => { y with committed := none }

/-- DSP_COMMIT_CANCEL (R445, R446). -/
def execDspCommitCancel (x : Nat) (s : State) : Out :=
  if 8 ≤ x then .next s else busWrite s .DSP_COMMIT 0 x fun s =>
    if commitPending s x then
      commitClear (onStream s x fun y => { y with cancelled := y.committed.map fun t => (t, s.time) }) x
    else s

/-- A CANCEL timestamped at the latch point finds the commit already taken (R446): at that time it is pending again. -/
def uncancel (s : State) (x : Nat) : State :=
  match (streamAt s x).cancelled with
  | some (t, c) =>
    if c = s.time ∧ (streamAt s x).committed = none then
      onStream (fset s F.DSP_COMMIT_STATUS.PENDING 1 0 x) x fun y => { y with committed := some t, cancelled := none }
    else s
  | none => s

/-! ### Latch points (R446, R447) -/

/-- The completion value of a queue before time t. -/
def seqBeforeTime (q : Queue) (t : Nat) : Nat := if q.wroteAt < t then q.seq else q.seqWas

/-- What a latch point does with a pending commit. -/
inductive LatchFate where
  | none | take | carry | drop
  deriving DecidableEq, Repr, Inhabited

/-- The fate of the pending commit of stream x at this time. -/
def latchFate (s : State) (x : Nat) : LatchFate :=
  match (streamAt s x).committed with
  | .none => .none
  | some t =>
    if s.time ≤ t then .none
    else
      let h := rget s .DSP_COMMIT_QUEUE 0 x
      if h = 0 then .take
      else match queueOf s 0 h with
        | .none => .drop
        | some (_, q) => if rget s .DSP_COMMIT_SEQ 0 x ≤ seqBeforeTime q s.time then .take else .carry

/-- A covered pipe at a commit of stream x (R447): detached, attached or given its new values. -/
def takePipe (x : Nat) (s : State) (p : Nat) : State :=
  let old := (pipeAt s p).stream
  let wants : Bool := flag s F.DSP_PIPE_CTL.EN 0 p && decide (fget s F.DSP_PIPE_CTL.STREAM 0 p = x)
  if wants ∧ (old = none ∨ old = some x) then
    let wrote := (pipeAt s p).wrote
    let v : Pipe := { stream := some x, ctl := rget s .DSP_PIPE_CTL 0 p, dst := rget s .DSP_PIPE_DST 0 p, addr := rget s .DSP_PIPE_ADDR 0 p,
                      src := rget s .DSP_PIPE_SRC 0 p, pitch := rget s .DSP_PIPE_PITCH 0 p, alpha := rget s .DSP_PIPE_ALPHA 0 p,
                      meta_ := rget s .DSP_PIPE_META 0 p, buf := rget s .DSP_PIPE_BUF 0 p }
    let s := onPipe s p fun _ => v
    let s := fset (fset s F.DSP_PIPE_STATUS.ATTACHED 1 0 p) F.DSP_PIPE_STATUS.STREAM x 0 p
    if wrote then fset s F.DSP_PIPE_STATUS.FAULTED 0 0 p else s
  else if old = some x ∧ ¬ wants then
    fset (onPipe s p fun y => { y with stream := none, lines := [], next := 0 }) F.DSP_PIPE_STATUS.ATTACHED 0 0 p
  else s

/-- A commit of stream x takes effect: every covered register takes its shadow value. -/
def takeCommit (s : State) (x : Nat) : State :=
  let was := streamOn s x
  let wrote := (streamAt s x).wbWrote
  let ctl := rget s .DSP_STREAM_CTL 0 x
  let held := flag s F.DSP_OUT_STATUS.HELD 0 (x / 2)
  let s := onStream (commitClear s x) x fun y => { y with
    ctl := ctl, lum := rget s .DSP_STREAM_LUM 0 x, bg := rget s .DSP_STREAM_BG 0 x, wbAddr := rget s .DSP_WB_ADDR 0 x
    wbCtl := rget s .DSP_WB_CTL 0 x, wbWrote := false, shroud := y.shroud && held }
  let s := if wrote then fset s F.DSP_STREAM_STATUS.WB_FAULT 0 0 x else s
  let s := fset s F.DSP_STREAM_STATUS.ACTIVE (bits ctl 31 31) 0 x
  let s := if bit ctl 31 ∧ ¬ was then fset s F.DSP_STREAM_STATUS.FRAME 0 0 x else s
  (List.range 32).foldl (takePipe x) s

/-- Clusters whose recovery has completed leave the list. -/
def lostNow (s : State) (l : List Nat) : List Nat := l.filter fun k => s.int.recoveries.any fun r => r.running && decide (r.level = 5 ∧ r.target = k)

/-- A frame of stream x begins: the time of its latch point, its count, and every line again from the first. -/
def latchTick (x : Nat) (s : State) : State :=
  let s := rset s .DSP_LATCH_TIME s.time 0 x
  let s := if streamOn s x then fset s F.DSP_STREAM_STATUS.FRAME (fget s F.DSP_STREAM_STATUS.FRAME 0 x + 1) 0 x else s
  let s := onStream s x fun y => { y with line := 0, wbSkip := false, lost := lostNow s y.lost }
  { s with dsp := { s.dsp with pipes := s.dsp.pipes.map fun e => if e.2.stream = some x then (e.1, { e.2 with lines := [], next := 0 }) else e } }

/-- LATCH_POINT of stream x. -/
def latchPoint (x : Nat) (s : State) : State :=
  let s := uncancel s x
  let fate := latchFate s x
  if 8 ≤ x ∨ ¬ (streamOn s x ∨ fate = .take ∨ fate = .drop ∨ fate = .carry) then s else
  let s := latchTick x s
  match fate with
  | .none => dspIrq s (2 ^ x)
  | .take => dspIrq (takeCommit s x) (2 ^ x + 2 ^ (8 + x))
  | .carry => dspIrq (fcount s F.DSP_COMMIT_STATUS.CARRIED 0 x) (2 ^ x)
  | .drop => dspIrq (fset (commitClear s x) F.DSP_COMMIT_STATUS.STATUS (Status.code .staleHandle) 0 x) (2 ^ x)

/-- LATCH_POINT: the timing generator runs on in fail-safe (R451). -/
def execLatchPoint (x : Nat) (s : State) : Out := powered s (latchPoint x s)

/-! ### Fetch (R439 to R441, R448, R449) -/

/-- Pixels of a row that lie in the active area, and rows that do. -/
def pipeCols (s : State) (x : Nat) (p : Pipe) : Nat := Nat.min (bits p.src 15 0) (fget s F.DSP_TIMING_H.ACTIVE 0 x - bits p.dst 15 0)
def pipeRows (s : State) (x : Nat) (p : Pipe) : Nat := Nat.min (bits p.src 31 16) (fget s F.DSP_TIMING_V.ACTIVE 0 x - bits p.dst 31 16)

/-- Bytes read by output n line by line, with the lines whose check mismatches or that are poisoned (13 R390); a status where a line
faults. -/
def dspRead (s : State) (n va len : Nat) : Status × List Byte × List Nat × State :=
  let asid := fget s F.DSP_OUT_AS.ASID 0 n
  let r := (linesOf va len).foldl (fun (a : Status × List Byte × List Nat × State) l =>
    if a.1 ≠ .ok then a else
    let y := vline a.2.2.2 (211 + n) 4 0 asid 0 (l * 128)
    if y.1 ≠ .ok ∧ y.1 ≠ .uncorrectableEcc then (y.1, a.2.1, a.2.2.1, y.2.2.2)
    else (.ok, a.2.1 ++ y.2.1, if y.2.2.1 ∨ y.1 = .uncorrectableEcc then a.2.2.1 ++ [l] else a.2.2.1, y.2.2.2)) (.ok, [], [], s)
  (r.1, (r.2.1.drop (va % 128)).take len, r.2.2.1, r.2.2.2)

/-- A row of a layer: bytes of its pixels and the pixel ranges that bad lines supply. -/
abbrev LayerRow := List Byte × List (Nat × Nat)

/-- Row y of a plain layer. -/
def plainRow (s : State) (n : Nat) (p : Pipe) (cols y : Nat) : Status × LayerRow × State :=
  let e := layerBytes (bits p.ctl 7 0)
  let a := p.addr + (bits p.src 63 48 + y) * p.pitch + bits p.src 47 32 * e
  let r := dspRead s n a (cols * e)
  let range (l : Nat) : Nat × Nat := ((Nat.max (l * 128) a - a) / e, (Nat.min (l * 128 + 128) (a + cols * e) - a + e - 1) / e)
  (r.1, (r.2.1, r.2.2.1.map range), r.2.2.2)

/-- Tile size and tiles across of a SURFACE layer. -/
def pipeTile (p : Pipe) : Nat := if bit p.ctl 21 then 32 else 64

/-- The block of 8 by 8 pixels at block column bx and block row by' of a SURFACE layer: its bytes, and for each of its rows whether a
bad line supplies it (R440). -/
def surfaceBlock (s : State) (n : Nat) (p : Pipe) (bx by' : Nat) : Status × List Byte × List Bool × State :=
  let t := pipeTile p
  let e := layerBytes (bits p.ctl 7 0)
  let across := (p.pitch + t - 1) / t
  let k := (by' * 8 / t) * across + bx * 8 / t
  let inTile := (by' % (t / 8)) * (t / 8) + bx % (t / 8)
  let base := p.addr + k * (t * t * e)
  if p.meta_ = 0 then
    let a := base + inTile * (64 * e)
    let r := dspRead s n a (64 * e)
    (r.1, r.2.1, (List.range 8).map fun j => decide ((a + j * 8 * e) / 128 ∈ r.2.2.1), r.2.2.2)
  else
    let m := dspRead s n (p.meta_ + 160 * k) 32
    if m.1 ≠ .ok then (m.1, [], [], m.2.2.2) else
    let r := dspRead m.2.2.2 n base (storedBytes (t * t * e) m.2.1)
    let data := decodeTile e (t * t * e) m.2.1 r.2.1
    let bad : Bool := m.2.2.1 != [] || r.2.2.1 != []
    (r.1, (data.drop (inTile * (64 * e))).take (64 * e), List.replicate 8 bad, r.2.2.2)

/-- The blocks of a row of blocks, one after another. -/
def surfaceBlocks (n : Nat) (p : Pipe) (by' : Nat) : List Nat → State → Status × List (Nat × List Byte × List Bool) × State
  | [], s => (.ok, [], s)
  | bx :: t, s =>
    let b := surfaceBlock s n p bx by'
    if b.1 ≠ .ok then (b.1, [], b.2.2.2)
    else
      let r := surfaceBlocks n p by' t b.2.2.2
      (r.1, (bx, b.2.1, b.2.2.1) :: r.2.1, r.2.2)

/-- Row y of a SURFACE layer from the blocks of its row of blocks. -/
def surfaceRow (p : Pipe) (cols y : Nat) (blocks : List (Nat × List Byte × List Bool)) : LayerRow :=
  let e := layerBytes (bits p.ctl 7 0)
  let sx := bits p.src 47 32
  let j := (bits p.src 63 48 + y) % 8
  let pix (i : Nat) : List Byte :=
    match blocks.find? fun b => b.1 = (sx + i) / 8 with
    | some b => (b.2.1.drop ((j * 8 + (sx + i) % 8) * e)).take e
    | none => zeros e
  let bad := (List.range cols).filter fun i => blocks.any fun b => b.1 = (sx + i) / 8 && b.2.2.getD j false
  ((List.range cols).flatMap pix, bad.map fun i => (i, i + 1))

/-- A complete row enters the pipe's buffer. -/
def storeRow (p : Nat) (s : State) (y : Nat) (r : LayerRow) : State :=
  let x := pipeAt s p
  let b := bufRange x.ctl x.src x.buf
  let n := layerLines x.ctl x.src
  let at_ := b.2.1 + (y % Nat.max 1 (bits x.buf 27 21)) * n
  let s := (chunks 128 r.1).zipIdx.foldl (fun s c => folWrite s b.1 (at_ + c.2) (c.1 ++ zeros (128 - c.1.length))) s
  onPipe s p fun x => { x with lines := x.lines ++ [{ y := y, bad := r.2 }], next := y + 1 }

/-- A fetch ends in a fault (R449). -/
def fetchFault (s : State) (p : Nat) : State := dspIrq (fset s F.DSP_PIPE_STATUS.FAULTED 1 0 p) (2 ^ 29)

/-- PIPE_LINE_FETCH of pipe p: its next layer line, or for a SURFACE layer the rows of its next row of blocks. -/
def pipeFetch (p : Nat) (s : State) : State :=
  let x := pipeAt s p
  match x.stream with
  | none => s
  | some st =>
    let rows := pipeRows s st x
    let cols := pipeCols s st x
    let n := st / 2
    let surf := bit x.ctl 22
    let step := if surf then Nat.min (8 - (bits x.src 63 48 + x.next) % 8) (rows - x.next) else 1
    if ¬ domOn s 42 ∨ recovering s (0x120 + n) ∨ ¬ streamOn s st ∨ flag s F.DSP_PIPE_STATUS.FAULTED 0 p ∨ rows ≤ x.next ∨ bits x.buf 27 21 < x.lines.length + step then s
    else if cols = 0 then (upFrom x.next step).foldl (fun s y => storeRow p s y ([], [])) s
    else if surf then
      let sx := bits x.src 47 32
      let bs := surfaceBlocks n x ((bits x.src 63 48 + x.next) / 8) (upFrom (sx / 8) ((sx + cols - 1) / 8 - sx / 8 + 1)) s
      if bs.1 ≠ .ok then fetchFault bs.2.2 p
      else (upFrom x.next step).foldl (fun s y => storeRow p s y (surfaceRow x cols y bs.2.1)) bs.2.2
    else
      let r := plainRow s n x cols x.next
      if r.1 ≠ .ok then fetchFault r.2.2 p else storeRow p r.2.2 x.next r.2.1

/-- PIPE_LINE_FETCH. -/
def execPipeLineFetch (p : Nat) (s : State) : Out := engineStep s fun s => if 32 ≤ p then s else displayStep s (pipeFetch p)

/-! ### Composition (R439, R442, R443) -/

/-- A pixel of a layer after R442: premultiplied colour and alpha. -/
def layerPixel (x : Pipe) (white : Nat) (free : Nat → Nat) (elem : Nat) : List Nat :=
  let code := bits x.ctl 7 0
  let c := (decodeElem code elem fOne).map fun v => if Fmt.b32.isNan v then 0 else v
  let a := if bits x.ctl 20 19 = 0 then fOne else fClamp (c.getD 3 fOne)
  let rgb := c.take 3
  let rgb := if bits x.ctl 20 19 = 1 then rgb.map fun v => if a = 0 then 0 else fDiv v a else rgb
  let rgb := layerDecode (bits x.ctl 18 16) white free rgb
  let rgb := if bit x.ctl 15 then rgb else matMul to2020 rgb
  let la := fDiv (fInt (x.alpha % 2 ^ 16)) (fInt 65535)
  (rgb.map fun v => fMul (fMul v a) la) ++ [fMul a la]

/-- A layer over what lies below. -/
def overlay (l b : List Nat) : List Nat :=
  let k := fSub fOne (l.getD 3 0)
  (l.zip b).map fun x => fAdd x.1 (fMul x.2 k)

/-- A pipe's part in a line: the pipe, its row if its line is complete, and its buffer's cluster. -/
structure LayerPart where
  pipe : Nat
  x : Pipe
  row : FetchedLine
  deriving DecidableEq, Repr, Inhabited

/-- The element of a layer at active column i, and whether a bad line supplies it; none where the layer does not cover it. -/
def partElem (s : State) (cols : Nat) (q : LayerPart) (i : Nat) : Option (Nat × Bool) :=
  let dx := bits q.x.dst 15 0
  if i < dx ∨ dx + cols ≤ i then none
  else
    let e := layerBytes (bits q.x.ctl 7 0)
    let b := bufRange q.x.ctl q.x.src q.x.buf
    let at_ := b.2.1 + (q.row.y % Nat.max 1 (bits q.x.buf 27 21)) * layerLines q.x.ctl q.x.src
    let a := folAddr b.1 at_ + (i - dx) * e
    some (leNat (mread 0 s.mem.folio a e), q.row.bad.any (fun r => r.1 ≤ i - dx ∧ i - dx < r.2) || (linesOf a e).any fun l => l ∈ s.mem.folioBad)

/-- One pixel: the composite, and whether a bad line supplies part of it. base is the first free value of the pixel. -/
def compositePixel (s : State) (st : Nat) (parts : List LayerPart) (bg : List Nat) (white base i : Nat) : List Nat × Bool :=
  parts.foldl (fun (a : List Nat × Bool) q =>
    match partElem s (pipeCols s st q.x) q i with
    | none => a
    | some (v, bad) => (overlay (layerPixel q.x white (fun k => Config.free (base + q.pipe * 4 + k)) v) a.1, a.2 || bad)) (bg, false)

/-- The encoder (R444): the codes of a composite. -/
def encodePixel (y : Stream) (base : Nat) (c : List Nat) : List Nat :=
  let tf := bits y.ctl 27 26
  let white := bits y.lum 15 0
  let peak := bits y.lum 31 16
  let target := if 2 ≤ tf then peak else white
  let rgb := c.take 3
  let rgb := if bit y.ctl 21 then
      let k := toneScale (bits y.lum 47 32) target white (Config.free (base + 130)) rgb
      rgb.map fun v => fMul v k
    else rgb.map (clipTo target white)
  let rgb := if bit y.ctl 25 then rgb else matMul to709 rgb
  let rgb := rgb.map fun v => if Fmt.b32.neg v then 0 else v
  (signals tf white peak rgb).zipIdx.map fun e => codeOf (bit y.ctl 24) (bpcOf y.ctl) (Config.free (base + 131 + e.2)) e.1

/-- The fail-safe colour of output n in bpc bits (19 R534). -/
def failCodes (s : State) (n bpc : Nat) : List Nat :=
  let c := s.boot.image.failColour.getD n (0, 0, 0)
  ([c.1] ++ [c.2.1] ++ [c.2.2]).map fun v => v / 2 ^ (16 - bpc)

/-- Free values that a pixel of a line may use. -/
def freePerPixel : Nat := 136

/-- The link of the stream's output carries video. -/
def linkSends (s : State) (x : Nat) : Bool :=
  decide (fget s F.DSP_OUT_STATUS.STATE 0 (x / 2) = 2) && (decide (x % 2 = 0) || flag s F.DSP_OUT_CTL.MST 0 (x / 2))

/-- Codes of a line go out on the link. -/
def sendLine (s : State) (x y : Nat) (codes : List Nat) : State := if linkSends s x then send s (.line x y codes) else s

/-- Pipes of stream x that cover line y, bottom first: ascending Z, the lower number below (R439). -/
def linePipes (s : State) (x y : Nat) : List (Nat × Pipe) :=
  let l := s.dsp.pipes.filter fun e => decide (e.2.stream = some x) && decide (bits e.2.dst 31 16 ≤ y)
    && decide (y < bits e.2.dst 31 16 + pipeRows s x e.2)
  (List.range 32).flatMap fun z => l.filter fun e => bits e.2.ctl 27 23 = z

/-- Bytes of a line for writeback (R450). -/
def wbBytes (y : Stream) (comp : List (List Nat)) (codes : List (List Nat)) : List Byte :=
  if bit y.wbCtl 30 then comp.flatMap fun c => natLe (encodeElem 8 c) 8
  else codes.flatMap fun c => natLe (c.getD 0 0 % 1024 + c.getD 1 0 % 1024 * 2 ^ 10 + c.getD 2 0 % 1024 * 2 ^ 20 + 3 * 2 ^ 30) 4

/-- A composited line waits for writeback; more than 2 lines behind, the frame's remaining lines are skipped. -/
def wbQueue (s : State) (x y : Nat) (b : List Byte) : State :=
  let st := streamAt s x
  if ¬ bit st.wbCtl 31 ∨ st.wbSkip ∨ flag s F.DSP_STREAM_STATUS.WB_FAULT 0 x then s
  else
    let l := st.wbLines ++ [(y, st.wbAddr + y * (bits st.wbCtl 23 0 * 128), b)]
    if 3 < l.length then fset (onStream s x fun z => { z with wbLines := [], wbSkip := true }) F.DSP_STREAM_STATUS.WB_INCOMPLETE 1 0 x
    else onStream s x fun z => { z with wbLines := l }

/-- Rows up to that of line y leave the buffers; a pipe that fell behind goes on with the next row. -/
def passRows (s : State) (x y : Nat) : State :=
  { s with dsp := { s.dsp with pipes := s.dsp.pipes.map fun e =>
      (if e.2.stream = some x ∧ bits e.2.dst 31 16 ≤ y then
        let r := y - bits e.2.dst 31 16
        (e.1, { e.2 with lines := e.2.lines.filter fun l => r < l.y, next := Nat.max e.2.next (r + 1) })
      else e) } }

/-- A line is composited, encoded, sent and handed to writeback (R448). -/
def scanLine (s : State) (x y : Nat) : State :=
  let st := streamAt s x
  let n := x / 2
  let cover := linePipes s x y
  let rowOf (e : Nat × Pipe) : Option FetchedLine := e.2.lines.find? fun l => l.y = y - bits e.2.dst 31 16
  let parts : List LayerPart := cover.filterMap fun e => (rowOf e).map fun r => { pipe := e.1, x := e.2, row := r }
  let under := cover.filter fun e => (rowOf e).isNone && !flag s F.DSP_PIPE_STATUS.FAULTED 0 e.1
  let w := fget s F.DSP_TIMING_H.ACTIVE 0 x
  let bg := ((List.range 3).map fun k => (convert Fmt.b16 Fmt.b32 .ties false (bits st.bg (16 * k + 15) (16 * k))).1) ++ [fOne]
  let base := s.freeCtr
  let comp := (List.range w).map fun i => compositePixel s x parts bg (bits st.lum 15 0) (base + i * freePerPixel) i
  let lost : Bool := parts.any fun q => bits q.x.buf 31 28 ∈ st.lost
  let codes := comp.zipIdx.map fun c => if lost ∨ c.1.2 then failCodes s n (bpcOf st.ctl) else encodePixel st (base + c.2 * freePerPixel) c.1.1
  let pix := comp.zipIdx.map fun c => if c.1.2 then (List.range 4).map fun k => freeCode (Config.free (base + c.2 * freePerPixel + k)) else c.1.1
  let s := { s with freeCtr := base + w * freePerPixel }
  let s := wbQueue (sendLine s x y codes.flatten) x y (wbBytes st pix codes)
  let s := (parts.filter fun q => comp.any (fun c => c.2) && q.row.bad != []).foldl (fun s _ =>
    raise (countMismatch s) { time := 0, unit := 0x120 + n, status := .integrityMismatch, level := 0, context := none, function := some 0,
                              detail := .memory 0 3 0xFF 0xFF 0xFF 0xFFFF 0xFFFF 0 0 }) s
  if under = [] then s else dspIrq (under.foldl (fun s e => fcount s F.DSP_PIPE_STATUS.UNDERRUN 0 e.1) s) (2 ^ 28)

/-- SCANOUT_LINE of stream x: its next active line. A held output, and one whose hold is cleared and that has latched no commit since,
sends its fail-safe colour and writes nothing back (R451). -/
def scanout (x : Nat) (s : State) : State :=
  let st := streamAt s x
  let y := st.line
  if 8 ≤ x ∨ ¬ streamOn s x ∨ fget s F.DSP_TIMING_V.ACTIVE 0 x ≤ y then s else
  let adv (s : State) : State := passRows (onStream s x fun z => { z with line := y + 1 }) x y
  let w := fget s F.DSP_TIMING_H.ACTIVE 0 x
  if flag s F.DSP_OUT_STATUS.HELD 0 (x / 2) ∨ st.shroud then
    adv (sendLine s x y (List.replicate w (failCodes s (x / 2) (bpcOf st.ctl))).flatten)
  else if failsafe s ∨ dieRunning s ∨ ¬ domOn s 42 then s
  else adv (scanLine s x y)

/-- SCANOUT_LINE. -/
def execScanoutLine (x : Nat) (s : State) : Out := powered s (scanout x s)

/-! ### Writeback (R450) -/

/-- WRITEBACK_LINE of stream x: the oldest line that waits. -/
def writebackLine (x : Nat) (s : State) : State :=
  let st := streamAt s x
  match st.wbLines with
  | [] => s
  | (y, a, b) :: rest =>
    if ¬ domOn s 42 then s else
    let s := onStream s x fun z => { z with wbLines := rest }
    let w := vwrite s (211 + x / 2) 4 0 (fget s F.DSP_OUT_AS.ASID 0 (x / 2)) 0 a b
    if w.1 ≠ .ok then dspIrq (fset (onStream w.2 x fun z => { z with wbLines := [] }) F.DSP_STREAM_STATUS.WB_FAULT 1 0 x) (2 ^ 29)
    else if y + 1 = fget s F.DSP_TIMING_V.ACTIVE 0 x then dspIrq (fset w.2 F.DSP_STREAM_STATUS.WB_INCOMPLETE 0 0 x) (2 ^ (16 + x))
    else w.2

/-- WRITEBACK_LINE. -/
def execWritebackLine (x : Nat) (s : State) : Out := unitStep s (0x120 + x / 2) fun s => if 8 ≤ x then s else displayStep s (writebackLine x)

/-! ### Links (R436) -/

/-- The pads of output n are latched (18 R516). -/
def dspPads (s : State) (n : Nat) : Bool := bit (fget s F.PWR_PAD_RELEASE.DPO) n

/-- State of an output's link. -/
def linkState (s : State) (n : Nat) : Nat := fget s F.DSP_OUT_STATUS.STATE 0 n

/-- HPD of output n is high. The detector lies in the AON domain (18 R516). -/
def hpdHigh (s : State) (n : Nat) : Bool := n ∈ s.boot.hpd

/-- HPD of output n takes a level. -/
def hpdSet (s : State) (n : Nat) (high : Bool) : State :=
  { s with boot := { s.boot with hpd := if high then nins s.boot.hpd n else ndel s.boot.hpd n } }

/-- An output that is DISABLED or has lost its link enters TRAINING where EN and HPD are 1 and its pads are released. -/
def linkTry (s : State) (n : Nat) : State :=
  if flag s F.DSP_OUT_CTL.EN 0 n ∧ hpdHigh s n ∧ (linkState s n = 0 ∨ linkState s n = 3) ∧ ¬ dspPads s n
      ∧ ¬ flag s F.PWR_DOM_CTL.PENDING 0 (44 + n) then
    fset s F.DSP_OUT_STATUS.STATE 1 0 n
  else s

/-- An HPD event of output n: its flag and its cause, which the compositor's registers take while its domain is ON, and a wake event
(18 R521). -/
def hpdEvent (s : State) (n : Nat) (x : Fld) : State :=
  wakeReport (if domOn s 42 then dspIrq (fset s x 1 0 n) (2 ^ (24 + n)) else s) 3 n

/-- The Display component's notice of a plug or unplug (17 R505). -/
def hotplug (s : State) (n : Nat) : State := if fwActive s then notice s 4 5 n else s

/-- An edge of HPD of output n: the level changes whatever the state of the device; in fail-safe and while the die recovers nothing
else follows (log 60). -/
def hpdEdge (s : State) (n : Nat) (high : Bool) (k : State → State) : Out :=
  let t := hpdSet s n high
  powered s (if 4 ≤ n ∨ hpdHigh s n = high then s
    else if failsafe s ∨ dieRunning s then t else k (hotplug (hpdEvent t n F.DSP_OUT_STATUS.HPD_CHANGE) n))

/-- HPD_PLUG. -/
def execHpdPlug (n : Nat) (s : State) : Out := hpdEdge s n true fun s => linkTry s n

/-- HPD_UNPLUG: HPD low for an unplug. -/
def execHpdUnplug (n : Nat) (s : State) : Out :=
  hpdEdge s n false fun s => if linkState s n = 2 then fset s F.DSP_OUT_STATUS.STATE 3 0 n else s

/-- HPD_IRQ_PULSE; lost says that the sink reports lost lock after it. -/
def execHpdIrqPulse (n : Nat) (lost : Bool) (s : State) : Out :=
  engineStep s fun s => if 4 ≤ n ∨ ¬ hpdHigh s n then s else
    let s := hpdEvent s n F.DSP_OUT_STATUS.HPD_IRQ
    if lost ∧ linkState s n = 2 then fset s F.DSP_OUT_STATUS.STATE 3 0 n else s

/-- DSP_OUT_CTL of output n takes a value (R436, R452). -/
def outCtlWrite (s : State) (n v : Nat) : State :=
  if 6 < bits v 27 24 ∨ bits v 23 22 = 3 ∨ (outputOn s n ∧ bits v 30 30 ≠ fget s F.DSP_OUT_CTL.MST 0 n) then s
  else
    let s := rset s .DSP_OUT_CTL (Reg.written .DSP_OUT_CTL (rget s .DSP_OUT_CTL 0 n) v (2 ^ 32 - 1)) 0 n
    if bit v 31 then linkTry s n else fset s F.DSP_OUT_STATUS.STATE 0 0 n

/-- DSP_OUT_CTL_WRITE. -/
def execDspOutCtlWrite (n v : Nat) (s : State) : Out := if 4 ≤ n then .next s else busWrite s .DSP_OUT_CTL 0 n fun s => outCtlWrite s n v

/-- LINK_TRAINING_DONE: ok says that training at RATE and LANES succeeds. -/
def execLinkTrainingDone (n : Nat) (ok : Bool) (s : State) : Out :=
  engineStep s fun s => if 4 ≤ n ∨ linkState s n ≠ 1 then s
    else if ok then fset s F.DSP_OUT_STATUS.STATE 2 0 n
    else fset (fset (fset s F.DSP_OUT_STATUS.STATE 0 0 n) F.DSP_OUT_CTL.EN 0 0 n) F.DSP_OUT_STATUS.TRAIN_FAIL 1 0 n

/-! ### AUX (R437) -/

/-- Bytes that an AUX write carries. -/
def auxData (s : State) (n len : Nat) : List Byte := ((List.range 4).flatMap fun i => natLe (rget s .DSP_AUX_DATA n i) 4).take len

/-- The request of a transaction is sent. -/
def auxSend (s : State) (n : Nat) (r : AuxRun) : State :=
  send s (.aux n r.op r.addr r.len (if r.op = 2 ∨ r.op = 4 then auxData s n r.len else []))

/-- DSP_AUX_CMD is written with an operation; discarded while BUSY is 1. -/
def auxStart (n op addr len : Nat) (s : State) : Out :=
  if 4 ≤ n then .next s else
  busWrite s .DSP_AUX_CMD 0 n fun s =>
    if flag s F.DSP_AUX_RESULT.BUSY 0 n then s
    else
      let r : AuxRun := { op := op, addr := addr % 2 ^ 20, len := len % 16 + 1 }
      auxSend { fset s F.DSP_AUX_RESULT.BUSY 1 0 n with dsp := { s.dsp with aux := tset s.dsp.aux n r } } n r

/-- AUX_NATIVE_READ. len is the field LEN: bytes - 1. -/
def execAuxNativeRead (n addr len : Nat) (s : State) : Out := auxStart n 1 addr len s
/-- AUX_NATIVE_WRITE. -/
def execAuxNativeWrite (n addr len : Nat) (s : State) : Out := auxStart n 2 addr len s
/-- AUX_I2C_READ. -/
def execAuxI2cRead (n addr len : Nat) (s : State) : Out := auxStart n 3 addr len s
/-- AUX_I2C_WRITE. -/
def execAuxI2cWrite (n addr len : Nat) (s : State) : Out := auxStart n 4 addr len s

/-- A transaction ends with a reply and a number of bytes. -/
def auxEnd (s : State) (n reply count : Nat) : State :=
  rset { s with dsp := { s.dsp with aux := tdel s.dsp.aux n } } .DSP_AUX_RESULT (reply % 8 * 32 + count % 32) 0 n

/-- AUX_REPLY: reply 0 ACK, 1 NACK, 2 DEFER; data is what a read returns, count the bytes a write transferred. -/
def auxReply (n reply : Nat) (data : List Byte) (count : Nat) (s : State) : State :=
  match tget s.dsp.aux n with
  | none => s
  | some r =>
    if reply = 2 ∧ r.defers < 7 then auxSend { s with dsp := { s.dsp with aux := tset s.dsp.aux n { r with defers := r.defers + 1 } } } n r
    else if r.op = 1 ∨ r.op = 3 then
      let d := if reply = 0 then data.take r.len else []
      let all := d ++ (auxData s n 16).drop d.length
      auxEnd ((List.range 4).foldl (fun s i => rset s .DSP_AUX_DATA (fieldAt all (4 * i) 4) n i) s) n reply d.length
    else auxEnd s n reply (Nat.min count r.len)

/-- AUX_REPLY. -/
def execAuxReply (n reply : Nat) (data : List Byte) (count : Nat) (s : State) : Out :=
  engineStep s fun s => if 4 ≤ n ∨ 2 < reply then s else auxReply n reply data count s

/-- AUX_TIMEOUT. -/
def execAuxTimeout (n : Nat) (s : State) : Out :=
  engineStep s fun s => if (tget s.dsp.aux n).isSome then auxEnd s n 3 0 else s

end Sys2Proof.Machine
end

