-- ==== Sys2Proof/Machine/Codec.lean ====
section
/-!
DEFINITION. Machine/Codec.lean: the two formats of the Press (14 R415 to R420, RFC 1951): decoding item by item, and the test
that a coding the compressor wrote decodes to its block. Which matches the compressor finds is stated nowhere, so the
bits of a coding are what Config.pressCode proposes (log 25).
-/

namespace Sys2Proof.Machine

/-- The bits of bytes, bit 0 of each first. -/
def toBits (bs : List Byte) : List Bool := bs.flatMap fun b => (List.range 8).map fun i => b.getLsbD i

/-- The number whose bits, least significant first, are given. -/
def bitsNat : List Bool → Nat
  | [] => 0
  | b :: t => b2n b + 2 * bitsNat t

/-- Whole bytes of a bit list whose length is a multiple of 8. -/
def toBytes (bs : List Bool) : List Byte := natLe (bitsNat bs) (bs.length / 8)

/-- What decoding the next item gives: more bits are needed, the stream is bad for a reason of R420 that so many bits show, or so
many bits are consumed, the decoder goes on in a mode and produces bytes. -/
inductive DecItem where
  | more
  | bad (reason used : Nat)
  | ok (used : Nat) (mode : DecMode) (bytes : List Byte)
  deriving DecidableEq, Repr, Inhabited

/-! ### Huffman codes (RFC 1951, 3.2.2) -/

/-- How reading one symbol ends: bits needed, no such code, or a symbol and its length. -/
inductive Sym where
  | more
  | bad
  | ok (sym used : Nat)
  deriving DecidableEq, Repr, Inhabited

/-- Symbols with a code of length n, rising. -/
def symsOf (ls : List Nat) (n : Nat) : List Nat := (List.range ls.length).filter fun i => ls.getD i 0 = n

/-- Reads a canonical code: code so far, first code of this length, length. -/
def symLoop (ls : List Nat) : Nat → Nat → Nat → Nat → List Bool → Sym
  | 0, _, _, _, _ => .bad
  | fuel + 1, code, first, len, bs =>
    match bs with
    | [] => .more
    | b :: t =>
      let code := 2 * code + b2n b
      let syms := symsOf ls len
      if code < first + syms.length then .ok (syms.getD (code - first) 0) len
      else symLoop ls fuel code (2 * (first + syms.length)) (len + 1) t

/-- The next symbol of a code. -/
def readSym (ls : List Nat) (bs : List Bool) : Sym := symLoop ls 15 0 0 1 bs

/-- Kraft sum of a code in units of 2 ^ -15. -/
def kraft (ls : List Nat) : Nat := (ls.map fun n => if n = 0 then 0 else 2 ^ (15 - n)).sum

/-- A code set is complete; a distance code may also have one code of one bit, or none (RFC 1951, 3.2.7). -/
def codeOk (ls : List Nat) (dist : Bool) : Bool :=
  kraft ls = 2 ^ 15 ∨ (dist ∧ (ls.all (· = 0) ∨ (ls.filter (· ≠ 0)) = [1]))

/-- Code lengths of the fixed codes. -/
def fixedLit : List Nat := List.replicate 144 8 ++ List.replicate 112 9 ++ List.replicate 24 7 ++ List.replicate 8 8
def fixedDist : List Nat := List.replicate 30 5

/-- Base length and extra bits of a length symbol (257 to 285). -/
def lenBase (s : Nat) : Nat × Nat :=
  if s < 265 then (s - 254, 0)
  else if s = 285 then (258, 0)
  else
    let e := (s - 261) / 4
    (3 + (4 + (s - 261) % 4) * 2 ^ e, e)

/-- Base distance and extra bits of a distance symbol (0 to 29). -/
def distBase (s : Nat) : Nat × Nat :=
  if s < 4 then (s + 1, 0) else (1 + (2 + s % 2) * 2 ^ (s / 2 - 1), s / 2 - 1)

/-- The order of the code length codes. -/
def clOrder : List Nat := [16, 17, 18, 0, 8, 7, 9, 6, 10, 5, 11, 4, 12, 3, 13, 2, 14, 1, 15]

/-- How a list of code lengths reads. -/
inductive Lens where
  | more
  | bad (used : Nat)
  | ok (ls : List Nat) (used : Nat)
  deriving DecidableEq, Repr, Inhabited

/-- Reads n code lengths under a code length code. -/
def readLens (cl : List Nat) (n : Nat) : Nat → List Nat → Nat → List Bool → Lens
  | 0, _, used, _ => .bad used
  | fuel + 1, acc, used, bs =>
    if n ≤ acc.length then (if acc.length = n then .ok acc used else .bad used) else
    match readSym cl bs with
    | .more => .more
    | .bad => .bad (used + 15)
    | .ok sym k =>
      let rest := bs.drop k
      if sym < 16 then readLens cl n fuel (acc ++ [sym]) (used + k) rest
      else
        let e := if sym = 16 then 2 else if sym = 17 then 3 else 7
        let lo := if sym = 18 then 11 else 3
        if rest.length < e then .more
        else if sym = 16 ∧ acc = [] then .bad (used + k + e)
        else
          let v := if sym = 16 then acc.getLastD 0 else 0
          readLens cl n fuel (acc ++ List.replicate (lo + bitsNat (rest.take e)) v) (used + k + e) (rest.drop e)

/-- The header of a dynamic block after its first three bits. -/
def dynHeader (bs : List Bool) (last : Bool) : DecItem :=
  if bs.length < 14 then .more else
  let hlit := 257 + bitsNat (bs.take 5)
  let hdist := 1 + bitsNat ((bs.drop 5).take 5)
  let hclen := 4 + bitsNat ((bs.drop 10).take 4)
  if 286 < hlit ∨ 30 < hdist then .bad 2 17
  else if bs.length < 14 + 3 * hclen then .more
  else
    let given := (List.range hclen).map fun i => bitsNat ((bs.drop (14 + 3 * i)).take 3)
    let cl := (List.range 19).map fun i => given.getD (clOrder.idxOf i) 0
    if ¬ codeOk cl false then .bad 2 (17 + 3 * hclen) else
    match readLens cl (hlit + hdist) 400 [] 0 (bs.drop (14 + 3 * hclen)) with
    | .more => .more
    | .bad used => .bad 2 (17 + 3 * hclen + used)
    | .ok ls used =>
      if codeOk (ls.take hlit) false ∧ codeOk (ls.drop hlit) true then
        .ok (3 + 14 + 3 * hclen + used) (.huff (ls.take hlit) (ls.drop hlit) last) []
      else .bad 2 (17 + 3 * hclen + used)

/-- n bytes copied from d behind the end of a window, byte by byte. -/
def copyBack : Nat → Nat → List Byte → List Byte → List Byte
  | 0, _, _, acc => acc
  | n + 1, d, w, acc =>
    let b := w.getD (w.length - d) 0
    copyBack n d (w ++ [b]) (acc ++ [b])

/-- One symbol of a Huffman block. win: the data produced, as far as the window reaches. -/
def huffItem (lit dist : List Nat) (last : Bool) (win : List Byte) (bs : List Bool) : DecItem :=
  match readSym lit bs with
  | .more => .more
  | .bad => .bad 2 15
  | .ok s k =>
    if s < 256 then .ok k (.huff lit dist last) (natLe s 1)
    else if s = 256 then .ok k (.block last) []
    else if 285 < s then .bad 2 k
    else
      let l := lenBase s
      let r := bs.drop k
      if r.length < l.2 then .more else
      match readSym dist (r.drop l.2) with
      | .more => .more
      | .bad => .bad 2 (k + l.2 + 15)
      | .ok d k2 =>
        if 29 < d then .bad 2 (k + l.2 + k2) else
        let q := distBase d
        let r2 := r.drop (l.2 + k2)
        if r2.length < q.2 then .more else
        let off := q.1 + bitsNat (r2.take q.2)
        if win.length < off then .bad 3 (k + l.2 + k2 + q.2)
        else .ok (k + l.2 + k2 + q.2) (.huff lit dist last) (copyBack (l.1 + bitsNat (r.take l.2)) off win [])

/-! ### PF1 (R417, R418) -/

/-- Leading ones of a bit list. -/
def onesOf : List Bool → Nat
  | true :: t => onesOf t + 1
  | _ => 0

/-- A number in code Gk: none where bits are missing, else the number and its length; a code longer than 32 bits answers
length 33. -/
def readG (k : Nat) (bs : List Bool) : Option (Nat × Nat) :=
  let q := onesOf bs
  if 32 < 2 * q + 1 + k then some (0, 33)
  else if bs.length < 2 * q + 1 + k then none
  else some (2 ^ (q + k) - 2 ^ k + bitsNat ((bs.drop (q + 1)).take (q + k)), 2 * q + 1 + k)

/-- One item of an LZ body: left bytes to produce, made bytes produced, n bits of body left. -/
def lzItem (left made n : Nat) (win : List Byte) (bs : List Bool) : DecItem :=
  if left = 0 then
    -- padding to the end of the body
    if 8 ≤ n then .bad 4 0
    else if bs.length < n then .more
    else .ok n (.block false) []
  else if n = 0 then .bad 4 0
  else match bs with
  | [] => .more
  | false :: t =>
    if n < 9 then .bad 4 n
    else if t.length < 8 then .more
    else .ok 9 (.lz (left - 1) (made + 1) (n - 9)) (natLe (bitsNat (t.take 8)) 1)
  | true :: t =>
    match readG 1 t with
    | none => .more
    | some (l, k) =>
      if 32 < k then .bad 2 (1 + k) else
      match readG 6 (t.drop k) with
      | none => .more
      | some (o, k2) =>
        if 32 < k2 then .bad 2 (1 + k + k2)
        else if n < 1 + k + k2 ∨ left < l + 3 then .bad 4 (Nat.min n (1 + k + k2))
        else if made < o + 1 then .bad 3 (1 + k + k2)
        else .ok (1 + k + k2) (.lz (left - (l + 3)) (made + (l + 3)) (n - (1 + k + k2))) (copyBack (l + 3) (o + 1) win [])

/-- A block header of PF1. -/
def pf1Header (bs : List Bool) : DecItem :=
  if bs.length < 64 then .more else
  let w := bitsNat (bs.take 32)
  let stored := bitsNat ((bs.drop 32).take 32)
  let n := w % 2 ^ 17
  let ty := w / 2 ^ 30
  if bits w 29 17 ≠ 0 then .bad 1 64
  else if ty = 3 then (if n = 0 ∧ stored = 0 then .ok 64 .trailer [] else .bad 1 64)
  else if n = 0 ∨ 65536 < n then .bad 1 64
  else if ty = 0 then (if stored = n then .ok 64 (.copy n false) [] else .bad 1 64)
  else if ty = 2 then
    (if stored ≠ 1 then .bad 1 64 else if bs.length < 72 then .more else .ok 72 (.run n (bitsNat ((bs.drop 64).take 8))) [])
  else .ok 64 (.lz n 0 (8 * stored)) []

/-! ### The stream -/

/-- Bits to the next byte boundary of the stream, from the number in hand. -/
def alignSkip (bs : List Bool) : Nat := bs.length % 8

/-- The first three bits of a DEFLATE block and what follows them. -/
def deflateHeader (bs : List Bool) : DecItem :=
  if bs.length < 3 then .more else
  let last := bs.getD 0 false
  match bitsNat ((bs.drop 1).take 2) with
  | 0 =>
    let skip := 3 + alignSkip (bs.drop 3)
    if bs.length < skip + 32 then .more
    else
      let len := bitsNat ((bs.drop skip).take 16)
      if len + bitsNat ((bs.drop (skip + 16)).take 16) = 65535 then .ok (skip + 32) (.copy len last) [] else .bad 4 (skip + 32)
  | 1 => .ok 3 (.huff fixedLit fixedDist last) []
  | 2 => dynHeader (bs.drop 3) last
  | _ => .bad 1 3

/-- The next item of a stream of a format, pf1 or DEFLATE, from a mode; the bits in hand end at a byte boundary. -/
def decNext (pf1 : Bool) (m : DecMode) (win : List Byte) (bs : List Bool) : DecItem :=
  match m with
  | .block last => if last then .ok (alignSkip bs) .trailer [] else if pf1 then pf1Header bs else deflateHeader bs
  | .copy n last =>
    if n = 0 then .ok 0 (.block last) []
    else if bs.length < 8 then .more
    else .ok 8 (.copy (n - 1) last) (natLe (bitsNat (bs.take 8)) 1)
  | .run n b => if n = 0 then .ok 0 (.block false) [] else .ok 0 (.run (n - 1) b) (natLe b 1)
  | .huff lit dist last => huffItem lit dist last win bs
  | .lz left made n => lzItem left made n win bs
  | .trailer => if bs.length < 96 then .more else .ok 96 .done []
  | .done => .ok 0 .done []

/-- The last 64 KiB of data, as far as a match of either format reaches. -/
def lastWin (bs : List Byte) : List Byte := bs.drop (bs.length - 65536)

/-- Decodes from bits alone until the mode is one that stops, the bits run out or fuel ends: the bytes and the rest. -/
def decRun (pf1 : Bool) (stops : DecMode → Bool) : Nat → DecMode → List Byte → List Bool → List Byte → Option (DecMode × List Byte × List Bool)
  | 0, _, _, _, _ => none
  | fuel + 1, m, win, bs, acc =>
    if stops m then some (m, acc, bs) else
    match decNext pf1 m win bs with
    | .ok used m2 out => decRun pf1 stops fuel m2 (lastWin (win ++ out)) (bs.drop used) (acc ++ out)
    | _ => none

/-- The bits are the LZ body of a PF1 block with these bytes. -/
def codesLz (block : List Byte) (code : List Bool) : Bool :=
  code.length % 8 = 0 ∧
  decRun true (fun m => m = .block false) (block.length + 2) (.lz block.length 0 code.length) [] code [] = some (.block false, block, [])

/-- The bits are one dynamic DEFLATE block for a chunk, after a window, with its BFINAL. -/
def codesDyn (win chunk : List Byte) (last : Bool) (code : List Bool) : Bool :=
  code.getD 0 false == last && bitsNat ((code.drop 1).take 2) == 2 &&
  match dynHeader (code.drop 3) last with
  | .ok used (.huff lit dist l) _ =>
    decRun false (fun m => m = .block last) (chunk.length + 2) (.huff lit dist l) win (code.drop used) [] == some (.block last, chunk, [])
  | _ => false

/-- The bits of a stored DEFLATE block, after n bits of the stream's last byte. -/
def storedBits (n : Nat) (chunk : List Byte) (last : Bool) : List Bool :=
  let head := [last, false, false]
  head ++ List.replicate ((8 - (n + 3) % 8) % 8) false ++ toBits (natLe chunk.length 2 ++ natLe (65535 - chunk.length) 2 ++ chunk)

/-- One block of a PF1 stream (R417, R419). -/
def pf1Block (block : List Byte) (code : List Bool) : List Byte :=
  let head (ty stored : Nat) := natLe (ty * 2 ^ 30 + block.length) 4 ++ natLe stored 4
  if block.all (fun b => b = block.headD 0) then head 2 1 ++ block.take 1
  else if codesLz block code ∧ code.length / 8 < block.length then head 1 (code.length / 8) ++ toBytes code
  else head 0 block.length ++ block

/-- The END block of a PF1 stream. -/
def pf1End : List Byte := natLe (3 * 2 ^ 30) 4 ++ zeros 4

/-- A stored block holds at most 65,535 bytes, so a 64 KiB chunk is stored as two (log 25). -/
def storedChunk (n : Nat) (chunk : List Byte) (last : Bool) : List Bool :=
  if chunk.length < 65536 then storedBits n chunk last
  else
    let a := storedBits n (chunk.take 65535) false
    a ++ storedBits ((n + a.length) % 8) (chunk.drop 65535) last

/-- One chunk of a DEFLATE stream (R416), after n bits of the stream's last byte. -/
def deflateChunk (n : Nat) (win chunk : List Byte) (last : Bool) (code : List Bool) : List Bool :=
  let st := storedChunk n chunk last
  if codesDyn win chunk last code ∧ code.length < st.length then code else st

/-- A running CRC over bytes, and its final value. -/
def crcRun (c : Nat) (bs : List Byte) : Nat := bs.foldl (crcByte 0x82F63B78) c
def crcFinal (c : Nat) : Nat := c ^^^ 0xFFFF_FFFF

end Sys2Proof.Machine
end

