-- ==== Sys2Proof/Machine/Press.lean ====
section
/-!
DEFINITION. Machine/Press.lean: PRESS jobs slice by slice (14 R421 to R428).
-/

namespace Sys2Proof.Machine

/-! ### The two sides of a job (R422, R423) -/

/-- Length of the record in front of the output. -/
def reportBytes (raw : List Byte) : Nat := if bit (byteAt raw 20) 1 then 32 else 0

/-- A folio byte address from an OFFSET of FOLIO mode. -/
def folioByte (off : Nat) : Nat := off / 2 ^ 15 * 2 ^ 22 + off % 2 ^ 15 * 128

/-- Bytes of folio memory from a byte address upwards, verified line by line (R425). -/
def folioRead (s : State) (a n : Nat) : Status × List Byte :=
  let bad : Bool := (linesOf a n).any fun l => s.mem.folioBad.contains l
  (if bad then .integrityMismatch else .ok, mread 0 s.mem.folio a n)

/-- Bytes are written to folio memory, with new checks (13 R386). -/
def folioWrite (s : State) (a : Nat) (bs : List Byte) : State :=
  onMem s fun m => { m with folio := mwrite 0 m.folio a bs, folioBad := (linesOf a bs.length).foldl ndel m.folioBad }

/-- Source bytes of a job. -/
def pressRead (s : State) (k : Task) (off n : Nat) : Status × List Byte × State :=
  if folioSide k.raw = some 8 then
    let r := folioRead s (folioByte (fieldAt k.raw 24 8) + off) n
    (r.1, r.2, if r.1 = .integrityMismatch then failedAt (countMismatch s) (folioByte (fieldAt k.raw 24 8) + off) else s)
  else vread s 215 5 k.fn k.asid k.ctx (objBase k 8 + fieldAt k.raw 24 8 + off) n

/-- Address of the source byte at an offset, for its line. -/
def pressSrcAddr (k : Task) (off : Nat) : Nat := if folioSide k.raw = some 8 then off else objBase k 8 + fieldAt k.raw 24 8 + off

/-- Bytes are written at an offset of the DST range. -/
def pressDst (s : State) (k : Task) (off : Nat) (bs : List Byte) : Status × State :=
  if bs = [] then (.ok, s)
  else if folioSide k.raw = some 12 then (.ok, folioWrite s (folioByte (fieldAt k.raw 40 8) + off) bs)
  else vwrite s 215 5 k.fn k.asid k.ctx (objBase k 12 + fieldAt k.raw 40 8 + off) bs

/-- Room for output in DST behind the record. -/
def dstRoom (k : Task) : Nat := fieldAt k.raw 48 8 - reportBytes k.raw
/-- Room for output in CHAIN. -/
def chainRoom (k : Task) : Nat := match objAt k 16 with | some o => o.size | none => 0

/-- Output bytes at position pos, DST first and then CHAIN (R423): the status, bytes written. -/
def pressWrite (s : State) (k : Task) (pos : Nat) (bs : List Byte) : Status × Nat × State :=
  let fit := bs.take (dstRoom k + chainRoom k - pos)
  let a := fit.take (dstRoom k - pos)
  let b := fit.drop (dstRoom k - pos)
  let w := pressDst s k (reportBytes k.raw + pos) a
  if w.1 ≠ .ok then (w.1, 0, w.2) else
  let s := fcount w.2 F.PRS_OUT_BYTES.COUNT 0 0 a.length
  let v := if b = [] then (.ok, s)
           else vwrite s 215 5 k.fn k.asid k.ctx (objBase k 16 + (Nat.max pos (dstRoom k) - dstRoom k)) b
  if v.1 ≠ .ok then (v.1, a.length, v.2) else
  let s := fcount v.2 F.PRS_OUT_BYTES.COUNT 0 0 b.length
  (if fit.length < bs.length then .outputOverflowUnchained else .ok, fit.length, s)

/-- The result record (R424). -/
def pressRecord (k : Task) (j : PressJob) (st : Status) : List Byte :=
  natLe (j.src - j.bits.length / 8 * b2n (2 ≤ subOf k.raw)) 8 ++ natLe (Nat.min j.out (dstRoom k)) 8 ++ natLe (j.out - dstRoom k) 8
    ++ natLe (crcFinal j.crc) 4 ++ natLe (Status.code st) 1 ++ natLe (subOf k.raw % 2) 1 ++ natLe j.reason 1 ++ zeros 1

/-- A job ends: its record, PRS_ERR and the status of its command. -/
def pressEnd (s : State) (t : Nat) (k : Task) (j : PressJob) (st : Status) : State :=
  let s := onTask s t fun k => { k with press := some j }
  let addr := accessAddr s st
  let w := if reportBytes k.raw = 0 then (.ok, s) else
    let w := pressDst s k 0 (pressRecord k j st)
    (w.1, if w.1 = .ok then fcount w.2 F.PRS_OUT_BYTES.COUNT 0 0 32 else w.2)
  let addr := if st = .ok then accessAddr w.2 w.1 else addr
  let st := if st = .ok then w.1 else st
  let s := w.2
  if st = .ok then onTask s t fun k => { k with total := k.next }
  else
    let s := rset s .PRS_ERR (2 ^ 31 + Status.code st <<< 8 + (if st = .decompressCheck then j.reason else 0))
    taskFail (onTask s t fun k => { k with total := k.next }) t st addr

/-- The job goes on with another slice. -/
def pressMore (s : State) (t : Nat) (j : PressJob) : State :=
  onTask s t fun k => { k with press := some j, total := k.next + 1 }

/-- A slice of a placed PRESS item: which coder, and the task with its item and job. -/
def pressItem (s : State) (t : Nat) (compress : Bool) : Option (Task × Nat × PressJob) :=
  match taskAt s t with
  | none => none
  | some k =>
    match k.eng, k.live, k.press with
    | .press, i :: _, some j => if compresses k = compress ∧ domOn s 43 then some (k, i, j) else none
    | _, _, _ => none

/-- What a slice row does where pressItem gives none: a slice placed before its domain left ON asks for the domain (R427). -/
def pressWaits (s : State) (t : Nat) : State :=
  match taskAt s t with
  | some k => if k.eng = .press ∧ k.live ≠ [] ∧ ¬ domOn s 43 then demand s 43 else s
  | none => s

/-- The trailer (R415). -/
def pressTrailer (orig crc : Nat) : List Byte := natLe orig 8 ++ natLe (crcFinal crc) 4

/-- PRESS_COMPRESS_SLICE (R416, R419, R426): 64 KiB of source, coded as the compressor finds it. steps: engine-busy steps. -/
def execPressCompressSlice (t steps : Nat) (s : State) : Out :=
  unitStep s 0x117 fun s =>
    match pressItem s t true with
    | none => pressWaits s t
    | some (k, i, j) =>
      let s := busySteps (itemDone s t i) k.ctx .press steps
      let n := Nat.min 65536 (fieldAt k.raw 32 8 - j.src)
      let r := pressRead s k j.src n
      if r.1 ≠ .ok then pressEnd r.2.2 t k j r.1 else
      let s := fcount r.2.2 F.PRS_IN_BYTES.COUNT 0 0 n
      let last := decide (fieldAt k.raw 32 8 ≤ j.src + n)
      let crc := crcRun j.crc r.2.1
      let tail := if last then pressTrailer (j.orig + n) crc else []
      let bits := if subOf k.raw = 1 then toBits (pf1Block r.2.1 (Config.pressCode true [] r.2.1 false) ++ (if last then pf1End else []))
                  else j.bits ++ deflateChunk j.bits.length j.window r.2.1 last (Config.pressCode false j.window r.2.1 last)
      let bits := if last then bits ++ List.replicate ((8 - bits.length % 8) % 8) false else bits
      let whole := bits.take (bits.length / 8 * 8)
      let w := pressWrite s k j.out (toBytes whole ++ tail)
      let j' : PressJob := { j with src := j.src + n, out := j.out + w.2.1, bits := bits.drop (bits.length / 8 * 8),
                                    window := lastWin (j.window ++ r.2.1), orig := j.orig + n, crc := crc }
      if w.1 ≠ .ok then pressEnd w.2.2 t k j' w.1
      else if last then pressEnd w.2.2 t k j' .ok
      else pressMore w.2.2 t j'

/-- How decoding within a slice stops. -/
inductive DecStop where
  | pause
  | finished
  | fails (st : Status) (reason : Nat)
  deriving DecidableEq, Repr, Inhabited

/-- Decodes until limit bytes are in hand, the stream ends, or it is bad; source lines are read as they are needed. -/
def decLoop (k : Task) (limit : Nat) : Nat → PressJob → State → DecStop × PressJob × State
  | 0, j, s => (.pause, j, s)
  | fuel + 1, j, s =>
    if limit ≤ j.produced.length then (.pause, j, s) else
    match decNext (subOf k.raw % 2 = 1) j.mode j.window j.bits with
    | .bad r used => (.fails .decompressCheck r, { j with reason := r, bits := j.bits.drop used }, s)
    | .more =>
      let n := Nat.min (128 - pressSrcAddr k j.src % 128) (fieldAt k.raw 32 8 - j.src)
      if n = 0 then (.fails .decompressCheck 5, { j with reason := 5, bits := [] }, s) else
      let r := pressRead s k j.src n
      if r.1 ≠ .ok then (.fails r.1 0, j, r.2.2)
      else decLoop k limit fuel { j with src := j.src + n, bits := j.bits ++ toBits r.2.1 } (fcount r.2.2 F.PRS_IN_BYTES.COUNT 0 0 n)
    | .ok used mode out =>
      if mode = .done then
        let len := bitsNat (j.bits.take 64)
        let chk := bitsNat ((j.bits.drop 64).take 32)
        let j := { j with bits := j.bits.drop used, mode := .done }
        if len ≠ j.orig then (.fails .decompressCheck 6, { j with reason := 6 }, s)
        else if chk ≠ crcFinal (crcRun j.crc j.produced) then (.fails .decompressCheck 7, { j with reason := 7 }, s)
        else (.finished, j, s)
      else
        decLoop k limit fuel { j with bits := j.bits.drop used, mode := mode, produced := j.produced ++ out, orig := j.orig + out.length,
                                      window := lastWin (j.window ++ out) } s

/-- PRESS_DECOMPRESS_SLICE (R420, R426): at most limit bytes of output, 64 KiB where it is 0 or more. -/
def execPressDecompressSlice (t limit steps : Nat) (s : State) : Out :=
  unitStep s 0x117 fun s =>
    match pressItem s t false with
    | none => pressWaits s t
    | some (k, i, j) =>
      let s := busySteps (itemDone s t i) k.ctx .press steps
      let limit := if limit = 0 then 65536 else Nat.min limit 65536
      let d := if j.mode = .done then (.finished, j, s) else decLoop k limit 262144 j s
      let j := d.2.1
      let w := pressWrite d.2.2 k j.out (j.produced.take limit)
      let j := { j with out := j.out + w.2.1, produced := j.produced.drop limit, crc := crcRun j.crc (j.produced.take w.2.1) }
      if w.1 ≠ .ok then pressEnd w.2.2 t k { j with reason := 0 } w.1
      else match d.1 with
        | .pause => pressMore w.2.2 t j
        | .finished => if j.produced = [] then pressEnd w.2.2 t k j .ok else pressMore w.2.2 t j
        | .fails st _ => pressEnd w.2.2 t k j st

end Sys2Proof.Machine
end

