-- ==== Sys2Proof/Machine/Folio.lean ====
section
/-!
DEFINITION. Machine/Folio.lean: ownership of the folio banks and the FOL window (11 R336 to R344).
-/

namespace Sys2Proof.Machine

/-! ### Ownership (R339 to R343) -/

/-- Key of a bank's hand-over. -/
def bankKey (c b : Nat) : Nat := c * 16 + b

/-- Owner codes of R339. -/
def ownerOk (x : Nat) : Bool := x ≤ 5 ∨ (8 ≤ x ∧ x ≤ 0x14)

/-- The bank's lines read zero with valid checks (R342). -/
def zeroBank (s : State) (c b : Nat) : State :=
  let lo := c * 2 ^ 22 + b * 2 ^ 18
  onMem s fun m => { m with
    folio := m.folio.filter fun e => e.1 < lo ∨ lo + 2 ^ 18 ≤ e.1
    folioBad := m.folioBad.filter fun l => l < lo / 128 ∨ lo / 128 + 2048 ≤ l }

/-- The bank takes state st, no more than its SHD domain's (R343). A bank that is OFF has lost its contents, and is zero when it is
switched on (R342). -/
def bankPower (s : State) (c b st : Nat) : State :=
  let st := Nat.max st (domNow s c)
  let s := if st = 2 then zeroBank s c b else s
  fset s F.FOL_BANK.PNOW st c b

/-- A core of the cluster already has a bank under this code, or is being given one (R339). -/
def coreHasBank (s : State) (c b x : Nat) : Bool :=
  (List.range 16).any fun k => decide (k ≠ b) &&
    (decide (fget s F.FOL_BANK.OWNER c k = x) || (flag s F.FOL_BANK.PENDING c k && decide (fget s F.FOL_BANK.TARGET c k = x)))

/-- What a write of v to FOL_BANK[c][b] does (R340, R341): the first matching row. -/
def folBankWrite (s : State) (c b v : Nat) : State :=
  let new := bits v 7 0
  let ps := bits v 29 28
  let old := fget s F.FOL_BANK.OWNER c b
  if flag s F.FOL_BANK.PENDING c b then
    if new = old then
      onMem (fset (fset s F.FOL_BANK.PENDING 0 c b) F.FOL_BANK.TARGET 0 c b) fun m => { m with handovers := tdel m.handovers (bankKey c b) }
    else s
  else if ¬ ownerOk new ∨ ps = 3 then s
  else if 8 ≤ new ∧ new < 16 ∧ coreHasBank s c b new then s
  else if old ≠ 0 ∧ new = old then s
  else if old = 0 ∧ new = 0 then bankPower (fset s F.FOL_BANK.PSTATE ps c b) c b ps
  else
    let s := fset (fset s F.FOL_BANK.PENDING 1 c b) F.FOL_BANK.TARGET new c b
    let s := fset (fset s F.FOL_BANK.SCRUB (bits v 30 30) c b) F.FOL_BANK.PSTATE ps c b
    let h : Handover := { scrub := bit v 30, pstate := ps, drained := false }
    onMem s fun m => { m with handovers := tset m.handovers (bankKey c b) h }

/-- FOL_BANK_WRITE. -/
def execFolBankWrite (c b v : Nat) (s : State) : Out :=
  if 16 ≤ c ∨ 16 ≤ b then .next s else busWrite s .FOL_BANK c b fun s => folBankWrite s c b v

/-- An accepted instruction of an engine, or a fragment instruction in progress of its block, names a line of the bank (05 R172). -/
def engineUses (s : State) (e b : Nat) : Bool :=
  let names (r : Nat × Nat) : Bool := decide (r.1 < (b + 1) * 2048) && decide (b * 2048 < r.1 + r.2)
  let g := engineAt s e
  g.queue.any (fun i => (readLines i ++ writeLines i).any names)
    || (match g.block.bind (blockAt s) with
        | some k => k.groups.any fun x => match x.fragAt with | some r => names r | none => false
        | none => false)

/-- A chunk in progress of the Press uses the bank. -/
def pressUses (s : State) (c b : Nat) : Bool :=
  let lo := c * 2 ^ 22 + b * 2 ^ 18
  s.fe.tasks.any fun e => decide (e.2.eng = .press) && e.2.live != [] &&
    (match folioSide e.2.raw with
     | some 8 => decide (folioByte (fieldAt e.2.raw 24 8) < lo + 2 ^ 18) && decide (lo < folioByte (fieldAt e.2.raw 24 8) + fieldAt e.2.raw 32 8)
     | some _ => decide (folioByte (fieldAt e.2.raw 40 8) < lo + 2 ^ 18) && decide (lo < folioByte (fieldAt e.2.raw 40 8) + fieldAt e.2.raw 48 8)
     | none => false)

/-- The owner has drained the bank, as the table of R341 says; overflow PRIVATE drains by its write-back. -/
def bankDrained (s : State) (c b : Nat) : Bool :=
  let o := fget s F.FOL_BANK.OWNER c b
  if o = 1 then (unitTiles s c).all fun e => e.2.runs.all fun r => decide ((b + 1) * 2048 ≤ r.1 ∨ r.1 + r.2 ≤ b * 2048)
  else if 2 ≤ o ∧ o ≤ 5 then !engineUses s (4 * c + (o - 2)) b
  else if o = 0x10 then !pressUses s c b
  else if 0x11 ≤ o ∧ o ≤ 0x14 then !outputUses s (o - 0x11) c b
  else true

/-- The dirty lines that core x holds in its overflow bank go to the level-2 cache, and the bank holds none (04 R117, R341). -/
def flushOverflow (s : State) (x : Nat) : State := setOvf (ovfFlush s x fun _ => true).2 x []

/-- FOL_HANDOVER_DRAINED (R341 steps 2 to 4). -/
def folHandoverDrained (c b : Nat) (s : State) : State :=
  match tget s.mem.handovers (bankKey c b) with
  | none => s
  | some h =>
    if h.drained ∨ ¬ bankDrained s c b then s else
    let o := fget s F.FOL_BANK.OWNER c b
    let s := if 8 ≤ o ∧ o < 16 then flushOverflow s (8 * c + (o - 8)) else s
    let s := if h.scrub then zeroBank s c b else s
    onMem (bankPower s c b 0) fun m => { m with handovers := tset m.handovers (bankKey c b) { h with drained := true } }

/-- FOL_HANDOVER_DRAINED. -/
def execFolHandoverDrained (c b : Nat) (s : State) : Out := unitStep s (0xD0 + c) (folHandoverDrained c b)

/-- FOL_HANDOVER_COMPLETE (R341 step 5): a hand-over to NONE then takes its PSTATE. -/
def folHandoverComplete (c b : Nat) (s : State) : State :=
  match tget s.mem.handovers (bankKey c b) with
  | none => s
  | some h =>
    if ¬ h.drained then s else
    let new := fget s F.FOL_BANK.TARGET c b
    let s := onMem s fun m => { m with handovers := tdel m.handovers (bankKey c b) }
    let s := fset (fset (fset s F.FOL_BANK.OWNER new c b) F.FOL_BANK.PENDING 0 c b) F.FOL_BANK.TARGET 0 c b
    let s := if new = 0 then bankPower s c b h.pstate else s
    -- fragment instructions that waited for the bank to change hands (05 R172)
    (upFrom (4 * c) 4).foldl (fun s e => match (engineAt s e).block with | some k => fragTries s k | none => s) s

/-- FOL_HANDOVER_COMPLETE. -/
def execFolHandoverComplete (c b : Nat) (s : State) : Out := unitStep s (0xD0 + c) (folHandoverComplete c b)

/-! ### The FOL window (R336 to R338, R344) -/

/-- Folio address of byte off of the windowed bank. -/
def winAddr (s : State) (off : Nat) : Nat := fget s F.FOL_WIN_SEL.CLUSTER * 2 ^ 22 + fget s F.FOL_WIN_SEL.BANK * 2 ^ 18 + off % 2 ^ 18

/-- The windowed bank is ON. -/
def winOn (s : State) : Bool :=
  let c := fget s F.FOL_WIN_SEL.CLUSTER
  decide (fget s F.FOL_BANK.PNOW c (fget s F.FOL_WIN_SEL.BANK) = 0) && domOn s c

/-- A word or a 64-bit access of the window: f gives the new words from the old; lost says that a lower-numbered port writes the
same word in this step. A word written regenerates the check of its line. -/
def winWrite (s : State) (off n : Nat) (lost : Bool) (f : Nat → Nat) : State :=
  if ¬ winOn s then fset s F.FOL_WIN_STATUS.DOMAIN_OFF 1
  else if lost then fcount (fset s F.FOL_WIN_STATUS.COLLIDE 1) F.FOL_WIN_STATUS.COLLISIONS
  else
    let a := winAddr s off
    let old := leNat (mread 0 s.mem.folio a n)
    onMem s fun m => { m with folio := mwrite 0 m.folio a (natLe (f old) n), folioBad := (linesOf a n).foldl ndel m.folioBad }

/-- An access of the window through the host's port: aligned, 4 or 8 bytes. -/
def winRow (off v : Nat) (wide lost : Bool) (f : Nat → Nat → Nat) (s : State) : Out :=
  let n := if wide then 8 else 4
  if off % n ≠ 0 ∨ 2 ^ 18 ≤ off then .next s
  else busWrite s .FOL_WIN_STATUS 0 0 fun s => winWrite s off n lost (fun old => f old (v % 256 ^ n))

/-- FOL_WINDOW_WRITE (R337). -/
def execFolWindowWrite (off v : Nat) (wide lost : Bool) (s : State) : Out := winRow off v wide lost (fun _ d => d) s

/-- FOL_SET_ALIAS_WRITE (R338). -/
def execFolSetAliasWrite (off v : Nat) (wide lost : Bool) (s : State) : Out := winRow off v wide lost (fun w d => w ||| d) s

/-- FOL_CLEAR_ALIAS_WRITE (R338). -/
def execFolClearAliasWrite (off v : Nat) (wide lost : Bool) (s : State) : Out := winRow off v wide lost (fun w d => without w d) s

end Sys2Proof.Machine
end

