-- ==== Sys2Proof/Machine/Hif.lean ====
section
/-!
DEFINITION. Machine/Hif.lean: the PCIe interface: BAR2, device reads, MSI-X, configuration, link power states, wake events,
function level resets (16 R454 to R465, R482).
-/

namespace Sys2Proof.Machine

/-- An error that AER reports; in fail-safe nothing more is sent (13 R410). -/
def aer (s : State) (e : AerError) : State := if failsafe s then s else send s (.aer e)

/-- A non-posted request is answered with Unsupported Request. -/
def unsupported (s : State) : State := aer (send s .unsupportedRequest) .unsupportedRequest
/-- A non-posted request is answered with Completer Abort. -/
def completerAbort (s : State) : State := aer (send s .completerAbort) .completerAbort

/-! ### BAR2 (R458) -/

/-- The window of a function: its base and size in bytes; the PF's reaches to the limit of 11 R316. -/
def bar2Window (s : State) (f : Nat) : Nat × Nat :=
  if f = 0 then (0, deviceLimit) else (fget s F.HIF_VF_WIN.BASE 0 f * 2 ^ 21, fget s F.HIF_VF_WIN.SIZE 0 f * 2 ^ 21)

/-- The byte at offset o lies outside the window or beyond the limit. -/
def bar2Outside (s : State) (f o : Nat) : Bool :=
  let w := bar2Window s f
  decide (w.2 ≤ o) || decide (deviceLimit ≤ w.1 + o)

/-- The byte's quadrant, or the HBM domain of its stack, is not ON. -/
def bar2Off (s : State) (f o : Nat) : Bool :=
  let pa := (bar2Window s f).1 + o
  !(sliceOn s (paSlice pa) && stackOn s (paStack pa))

/-- BAR2 exists and takes requests of the function. -/
def bar2There (s : State) (f : Nat) : Bool := fnExists s f && !recoveryId s && !(fnCfg s f).inFlr

/-- A condition of R458 is recorded in the function's HIF_BAR_STATUS. -/
def barStatus (s : State) (f : Nat) (x : Fld) : State := fset s x 1 f

/-- BAR2_READ of n bytes at offset o (R458, 13 R389, R390): a line that fails its check goes out with EP set. -/
def bar2Read (f o n : Nat) (s : State) : State :=
  if ¬ bar2There s f then unsupported s
  else if failsafe s then completerAbort s
  else if (upFrom o n).any (bar2Outside s f) then unsupported s
  else if (upFrom o n).any (bar2Off s f) then completerAbort (barStatus s f F.HIF_BAR_STATUS.DOMAIN_OFF)
  else
    let pa := (bar2Window s f).1 + o
    let r := devRead s 6 pa n
    if r.1 = .ok then send r.2.2 (.completion r.2.1 false)
    else
      raiseBare (send r.2.2 (.completion r.2.1 true)) 0x126 .integrityMismatch 0
        (.memory (pa / 128 * 128) 3 0xFF (paSlice pa) 0xFF 0xFFFF 0xFFFF 0 0)

/-- BAR2_READ. -/
def execBar2Read (f o n : Nat) (s : State) : Out := powered s (bar2Read f o n s)

/-- Runs of enabled bytes of a write, as offset and bytes. -/
def bar2Runs (o : Nat) (data : List (Option Byte)) : List (Nat × List Byte) :=
  (data.zipIdx.foldl (fun (x : List (Nat × List Byte)) (e : Option Byte × Nat) =>
    match e.1, x with
    | none, _ => x
    | some b, (p, bs) :: t => if p + bs.length = o + e.2 then (p, bs ++ [b]) :: t else (o + e.2, [b]) :: x
    | some b, [] => [(o + e.2, [b])]) []).reverse

/-- BAR2_WRITE of the bytes that data enables (R458, 12 R380): a write that meets a PROTECT range is discarded whole with a record;
WATCH ranges become DIRTY. -/
def bar2Write (f o : Nat) (data : List (Option Byte)) (s : State) : State :=
  let runs := bar2Runs o data
  let at_ := runs.flatMap fun r => upFrom r.1 r.2.length
  if ¬ bar2There s f ∨ failsafe s then s
  else if at_.any (bar2Outside s f) then barStatus s f F.HIF_BAR_STATUS.OUTSIDE
  else if at_.any (bar2Off s f) then barStatus s f F.HIF_BAR_STATUS.DOMAIN_OFF
  else
    let base := (bar2Window s f).1
    let hits := runs.map fun r => rangeHit s (base + r.1) r.2.length
    if hits.any fun h => h.1 then protectedWrite s o
    else
      let s := runs.foldl (fun s r => (devWrite s 6 (base + r.1) r.2).2) s
      (hits.flatMap fun h => h.2).foldl (fun s g => setDirty s g.lo) s

/-- BAR2_WRITE. -/
def execBar2Write (f o : Nat) (data : List (Option Byte)) (s : State) : Out := powered s (bar2Write f o data s)

/-! ### Device reads and MSI-X (R459, R460) -/

/-- How a device read of a host line ends. -/
def readEnd (l : Nat) (e : Option AerError) (s : State) : State :=
  match e with
  | none => { s with hif := { s.hif with badReads := ndel s.hif.badReads l } }
  | some x =>
    let s := { s with hif := { s.hif with badReads := nins s.hif.badReads l } }
    match x with
    | .poisonedTlp | .completionTimeout => aer s x
    | .completerAbort | .unsupportedRequest => s

/-- DEVICE_READ_COMPLETION (R459, 13 R386): the outstanding read of host line l has ended well, or with e. -/
def execDeviceReadCompletion (l : Nat) (e : Option AerError) (s : State) : Out := powered s (readEnd l e s)

/-- MSIX_PENDING_SEND (R460): the pending message of vector v of function f goes out once nothing masks it. -/
def execMsixPendingSend (f v : Nat) (s : State) : Out :=
  powered s (if failsafe s ∨ recoveryId s ∨ vectorCount f ≤ v ∨ ¬ msixOpen s f v ∨ (f * 2048 + v) ∉ s.hif.pba then s
    else send (linkSend { s with hif := { s.hif with pba := ndel s.hif.pba (f * 2048 + v) } } 4) (.msix f v))

/-! ### Configuration (R455 to R457, 19 R536, R537) -/

/-- Changes the configuration of a function. -/
def onCfg (s : State) (f : Nat) (k : FnCfg → FnCfg) : State := { s with hif := { s.hif with cfg := tmod s.hif.cfg f {} k } }

/-- The identity that configuration reads show: vendor, device, subsystem IDs, class code, revision. -/
def identity (s : State) : List Byte :=
  let i := s.boot.image
  if recoveryId s then natLe (fget s F.BOOT_FUSE.VENDOR) 2 ++ natLe 0x96FF 2 ++ natLe 0 2 ++ natLe 0 2 ++ natLe 0xFF0000 3 ++ natLe 0 1
  else natLe i.vendor 2 ++ natLe 0x9600 2 ++ natLe i.subVendor 2 ++ natLe i.subId 2 ++ natLe i.classCode 3 ++ natLe i.revision 1

/-- What the SR-IOV capability reads (R456): InitialVFs, TotalVFs, NumVFs, First VF Offset, VF Stride and VF Device ID, two bytes each. -/
def sriovBytes (s : State) : List Byte :=
  natLe 15 2 ++ natLe 15 2 ++ natLe s.hif.numVFs 2 ++ natLe 1 2 ++ natLe 1 2 ++ natLe 0x9600 2

/-- Size of the Expansion ROM BAR: the section's length rounded up to a power of two, 0 where there is no section (19 R538). -/
def romSize (s : State) : Nat :=
  let n := s.boot.image.optRom.length
  if n = 0 ∨ recoveryId s then 0 else 2 ^ (Nat.log2 (2 * n - 1))

/-- n bytes of the Expansion ROM: those beyond the section read as 0 (19 R538). -/
def romBytes (s : State) (o n : Nat) : List Byte :=
  if recoveryId s then [] else (List.range n).map fun i => s.boot.image.optRom.getD (o + i) 0

/-- What a configuration request does beside its answer. -/
def cfgApply (f : Nat) (r : CfgReq) (s : State) : List Byte × State :=
  match r with
  | .identity => (identity s, s)
  | .msixControl en mask => ([], if recoveryId s then s else onCfg s f fun c => { c with msixEnable := en, fnMask := mask })
  | .command mse => ([], onCfg s f fun c => { c with memSpace := mse })
  | .relaxedOrdering en => ([], onCfg s f fun c => { c with relaxedOrdering := en })
  | .power d3 en clear => ([], onCfg s f fun c => { c with
      power := if d3 then 3 else 0, pmeEn := en, pmeStatus := c.pmeStatus && !clear })
  | .sriov n mse => ([], if f ≠ 0 ∨ recoveryId s then s else
      { s with hif := { s.hif with numVFs := if s.hif.vfEnable ∨ 15 < n then s.hif.numVFs else n, vfMemSpace := mse } })
  | .vfEnable => ([], if f ≠ 0 ∨ recoveryId s then s else { s with hif := { s.hif with vfEnable := true } })
  | .ats en => ([], onXlt s fun x => { x with atsEnabled := if en then nins x.atsEnabled f else ndel x.atsEnabled f })
  | .sriovRead => (if f ≠ 0 ∨ recoveryId s then [] else sriovBytes s, s)
  | .romSize => (if f ≠ 0 then [] else natLe (romSize s) 4, s)
  | .romRead o n => (if f ≠ 0 then [] else romBytes s o n, s)
  | .turnOff => ([], { s with hif := { s.hif with inL2 := true } })

/-- PCIE_CONFIG_REQUEST (19 R536): Request Retry Status until the identity is settled; then the answer. A function that does not
exist answers Unsupported Request. -/
def execPcieConfigRequest (f : Nat) (r : CfgReq) (s : State) : Out :=
  powered s (if fget s F.BOOT_STATUS.RESULT = 0 then send s .requestRetry
    else if ¬ fnExists s f ∨ (recoveryId s ∧ f ≠ 0) then unsupported s
    else
      let x := cfgApply f r s
      send x.2 (.config x.1))

/-- RESIZABLE_BAR_CONTROL_WRITE (R457): ignored while Memory Space Enable of the function, or VF Memory Space Enable for a VF BAR, is 1. -/
def execResizableBarControlWrite (vf : Bool) (log2 : Nat) (s : State) : Out :=
  powered s (if log2 < 28 ∨ 38 < log2 ∨ recoveryId s then s
    else if vf then (if s.hif.vfMemSpace then s else { s with hif := { s.hif with vfBar2 := some log2 } })
    else if (fnCfg s 0).memSpace then s
    else onCfg s 0 fun c => { c with bar2 := some log2 })

/-! ### Link power (R462, R463) -/

/-- The next narrower L0p width. -/
def narrower (w : Nat) : Nat := w / 2

/-- Bytes that w lanes carry in 100 µs at the link's speed. -/
def laneBytes (s : State) (w : Nat) : Nat :=
  let mts := match fget s F.HIF_LINK.SPEED with | 1 => 2500 | 2 => 5000 | 3 => 8000 | 4 => 16000 | 5 => 32000 | 6 => 64000 | _ => 0
  w * mts * 100 / 8

/-- L0P_WINDOW (R462): a 100 µs window ends in which each direction carried the given bytes; the device may request the narrower
width, and granted is the host's answer. -/
def l0pWindow (up down : Nat) (granted : Bool) (s : State) : State :=
  let w := narrower (fget s F.HIF_LINK.ACTIVE)
  let low : Bool := decide (4 * up < laneBytes s w) && decide (4 * down < laneBytes s w)
  if failsafe s ∨ s.time = 0 ∨ s.time % 100000 ≠ 0 ∨ ¬ flag s F.HIF_LINK_CTL.L0P_EN ∨ w < 2 ^ fget s F.HIF_LINK_CTL.L0P_MIN
      ∨ ¬ low ∨ 1 < fget s F.HIF_LINK.LSTATE then s
  else
    let s := send s (.linkRequest false w)
    if granted then
      fset (fset { s with hif := { s.hif with waiting := (0, 0) } } F.HIF_LINK.ACTIVE w) F.HIF_LINK.LSTATE 1
    else s

/-- L0P_WINDOW. -/
def execL0pWindow (up down : Nat) (granted : Bool) (s : State) : Out := powered s (l0pWindow up down granted s)

/-- L1_IDLE_EXPIRY (R462): L1_IDLE_US have passed with no TLP and nothing waiting; granted is the host's answer. -/
def execL1IdleExpiry (granted : Bool) (s : State) : Out :=
  powered s (if failsafe s ∨ fget s F.HIF_LINK_CTL.L1_IDLE_US = 0 ∨ fget s F.HIF_LINK.SPEED = 0 ∨ 1 < fget s F.HIF_LINK.LSTATE ∨ s.hif.pba ≠ [] then s
    else
      let s := send s (.linkRequest true 0)
      if granted then fset s F.HIF_LINK.LSTATE 2 else s)

/-- The host sends a TLP or begins the exit from L1: the link is in L0. -/
def hostExit (s : State) : State :=
  let l := fget s F.HIF_LINK.LSTATE
  if 2 ≤ l ∧ l ≤ 4 then linkWake s else s

/-- WAKE_EVENT (R463, 18 R521): the reported event with this code and detail wins the AON wake arbiter; a PCIe event is reported by
its arrival, with which the link leaves L1. -/
def execWakeEvent (code detail : Nat) (s : State) : Out :=
  powered s (if code = 1 then hostExit (wakeEvent s 1 0)
    else if (code, detail) ∈ s.pwr.wakes then
      wakeEvent (onPwr s fun p => { p with wakes := p.wakes.erase (code, detail) }) code detail
    else s)

/-! ### Function level reset (R464, R465) -/

/-- A context is torn down in mode KILL at once (02 R71 steps 1 to 5). -/
def killContext (s : State) (c : Nat) : State :=
  let s := tdPreempt (tdSweep s c false) c
  let s := (s.sc.blocks.filter fun e => e.2.ctx = c).foldl (fun s e => dropBlock s e.1) s
  let s := (s.sc.saved.filter fun e => e.2.ctx = c).foldl (fun s e => dropSaved s e.1) s
  let s := (ctxQueues s c).foldl (fun s e => tdFences s e.1) s
  let s := (ctxSpaces s c).foldl (fun s x => invSweep s (.range x.1 x.2 0 (2 ^ 48))) s
  let s := tdSlots ((ctxQueues s c).foldl (fun s e => killQueue s e.1) s) c
  let cmds := match tget s.fe.teardowns c with | some t => t.cmds | none => []
  let s := onFe s fun x => { x with teardowns := tdel x.teardowns c, util := tdel x.util c }
  cmds.foldl (fun s x => match ownerTask s (.entry x.1 x.2) with | some (t, _) => endBare s t .ok | none => s) s

/-- An FLR of VF f that die-level recovery cuts short (R465): all its steps at once. Its partitions and its BAR2 window stay. -/
def flrNow (s : State) (f : Nat) : State :=
  let s := resetWindows (freeFunction ((fnContexts s f).foldl killContext s) f) f
  { s with hif := { s.hif with cfg := tdel s.hif.cfg f } }

/-- VF_FLR (R464). In fail-safe an FLR resets configuration space only (R465). -/
def execVfFlr (f : Nat) (s : State) : Out :=
  powered s (if f = 0 ∨ ¬ fnExists s f then s
    else if failsafe s then { s with hif := { s.hif with cfg := tdel s.hif.cfg f } }
    else flrStart s f)

/-- Something is done for every existing VF, and VF Enable is clear. -/
def eachVf (k : State → Nat → State) (s : State) : State :=
  let s := ((upFrom 1 15).filter fun f => fnExists s f).foldl k s
  { s with hif := { s.hif with vfEnable := false } }

/-- VF_ENABLE_CLEAR (R464): FLRs of every existing VF; in fail-safe they reset configuration space only (R465). -/
def execVfEnableClear (s : State) : Out :=
  powered s (if failsafe s then eachVf (fun s f => { s with hif := { s.hif with cfg := tdel s.hif.cfg f } }) s else eachVf flrStart s)

/-- The configuration of every function is as after reset. -/
def resetConfig (s : State) : State :=
  onXlt { s with hif := { s.hif with cfg := [], vfEnable := false, numVFs := 0, vfMemSpace := false, vfBar2 := none } } fun x =>
    { x with atsEnabled := [] }

/-- PF_FLR (R465): FLRs of every VF, then steps 1 to 6 of die-level recovery, without record or count. -/
def pfFlr (s : State) : State :=
  if failsafe s then resetConfig s else
  -- the PF is the receiver of channels 1 and 24 to 31 (17 R501)
  let s := ([1] ++ upFrom 24 8).foldl chReset s
  let s := dieHalt (eachVf flrNow s)
  let s := dieRest (dieQueues s .abandoned s.fe.queues.length)
  let s := resetConfig s
  intView { s with hif := { s.hif with msix := [], pba := [] } }

/-- PF_FLR. -/
def execPfFlr (s : State) : Out := powered s (pfFlr s)

/-! ### HIF_VF_WIN (R482) -/

/-- Two windows, as base and size, share an address. -/
def winsOverlap (a b : Nat × Nat) : Bool := a.2 ≠ 0 ∧ b.2 ≠ 0 ∧ a.1 < b.1 + b.2 ∧ b.1 < a.1 + a.2

/-- HIF_VF_WIN[f] takes a value unless a case of R482 discards it. -/
def vfWinWrite (s : State) (f v : Nat) : State :=
  let size := bits v 58 42
  let base := bits v 37 21
  let others := (upFrom 1 15).filter fun g => g ≠ f
  if f = 0 ∨ 15 < f ∨ 95232 < base + size ∨ (s.hif.vfEnable ∧ s.hif.vfMemSpace)
      ∨ others.any (fun g => winsOverlap (base, size) (fget s F.HIF_VF_WIN.BASE 0 g, fget s F.HIF_VF_WIN.SIZE 0 g)) then s
  else rset s .HIF_VF_WIN (Reg.written .HIF_VF_WIN (rget s .HIF_VF_WIN 0 f) v (2 ^ 64 - 1)) 0 f

/-- HIF_VF_WIN_WRITE. -/
def execHifVfWinWrite (f v : Nat) (s : State) : Out := busWrite s .HIF_VF_WIN 0 f fun s => vfWinWrite s f v

end Sys2Proof.Machine
end

