-- ==== Sys2Proof/Machine/Reuse.lean ====
section
/-!
DEFINITION. Machine/Reuse.lean: the tile reuse unit (09 R267 to R287): version bumps and invalidations, slots, signatures of raster
passes, and the probes and commits of compute passes.
-/

namespace Sys2Proof.Machine

/-! ### TRU_CMD and TRU_SLOT_CFG (R274, R284, R285) -/

/-- An accepted TRU_CMD write of function f: discarded while BUSY is 1 (02 R42). -/
def truCmd (s : State) (f : Nat) (k : State → State) : Out :=
  busWrite s .TRU_CMD f 0 fun s => if flag s F.TRU_RESULT.BUSY f then s else k s

/-- TRU_BUMP (R285). -/
def execTruBump (f : Nat) (s : State) : Out :=
  truCmd s f fun s =>
    match objectOf s f (rget s .TRU_ARG0 f) with
    | none => truResult s f .staleHandle 0
    | some o =>
      let s := bumpVersion s o.idx
      truResult s f .ok (tgetD s.gfx.versions o.idx 0)

/-- TRU_INVALIDATE (R285): it waits for the pass that holds the slot. -/
def execTruInvalidate (f : Nat) (s : State) : Out :=
  truCmd s f fun s =>
    let sl := fget s F.TRU_ARG1.SLOT f
    let a := fget s F.TRU_ARG1.FIRST f
    let b := fget s F.TRU_ARG1.LAST f
    if fget s F.TRU_SLOT_CFG.FUNCTION 0 sl ≠ f then truResult s f .permission 0
    else if b < a ∨ 8191 < b then truResult s f .lengthRange 0
    else if (truSlot s sl).held.isSome then
      onSlot (fset s F.TRU_RESULT.BUSY 1 f) sl fun x => { x with waiting := some (f, a, b) }
    else truResult (truClear s sl a b) f .ok 0

/-- TRU_CMD_UNDEFINED_OP (R284): an OP of 1 or 2 is no such write. -/
def execTruCmdUndefinedOp (f op : Nat) (s : State) : Out :=
  truCmd s f fun s => if op % 16 = 1 ∨ op % 16 = 2 then s else truResult s f .badOpcode 0

/-- TRU_SLOT_CFG[sl] takes a value (R274, R284): discarded with MODE 3 or while a pass holds the slot; a change of MODE or FUNCTION
unbinds the slot, and the counts of a compute slot start again. -/
def truSlotCfg (s : State) (sl v : Nat) : State :=
  if v % 4 = 3 ∨ (truSlot s sl).held.isSome then s else
  let change : Bool := decide (v % 4 ≠ fget s F.TRU_SLOT_CFG.MODE 0 sl) || decide (bits v 7 4 ≠ fget s F.TRU_SLOT_CFG.FUNCTION 0 sl)
  let s := if change then truUnbind s sl else s
  let s := if change ∨ v % 4 = 2 then rset s .TRU_SLOT_STAT 0 0 sl else s
  rset s .TRU_SLOT_CFG (Reg.written .TRU_SLOT_CFG (rget s .TRU_SLOT_CFG 0 sl) v (2 ^ 32 - 1)) 0 sl

/-- TRU_SLOT_CFG_WRITE: PF only. -/
def execTruSlotCfgWrite (sl v : Nat) (s : State) : Out :=
  busWrite s .TRU_SLOT_CFG 0 sl fun s => if 16 ≤ sl then s else truSlotCfg s sl v

/-! ### Load terms (R268, R276) -/

/-- The carry checks of n lines from an address, as a unit reads them; none where a line faults. -/
def lineChecks (engine cls vm asid ctx : Nat) : Nat → Nat → State → Except (Status × Nat) (List Byte) × State
  | 0, _, s => (.ok [], s)
  | n + 1, va, s =>
    let r := vline s engine cls vm asid ctx va
    let bad : Bool := r.2.2.1 || r.1 = .uncorrectableEcc
    if r.1 ≠ .ok ∧ r.1 ≠ .uncorrectableEcc then (.error (r.1, va), r.2.2.2)
    else
      match lineChecks engine cls vm asid ctx n (va + 128) r.2.2.2 with
      | (.ok l, s) => (.ok (natLe (carried r.2.1 bad) 4 ++ l), s)
      | e => e


/-- A reuse entry is read: none where it is not VALID. An error is counted, and an uncorrectable one reads as not VALID. -/
def truRead (s : State) (key : Nat) (ecc : TruEcc) : Option Nat × State :=
  match ecc with
  | .clean => (tget s.gfx.reuse key, s)
  | .corrected => (tget s.gfx.reuse key, fcount s F.TRU_ECC.CORRECTED)
  | .uncorrectable => (none, fcount s F.TRU_ECC.UNCORRECTED)

/-- The load term of a tile, attachment by attachment: its metadata entry, then the checks of its stored lines. -/
def loadTerm (p : Nat) (x : Pass) (n : Nat) : List (Nat × Att) → State → Option (List Byte) × State
  | [], s => (some [], s)
  | (i, a) :: t, s =>
    if ¬ a.load then loadTerm p x n t s else
    let m := vread s 210 3 x.fn x.asid x.ctx (metaAddr x.target x.surface i n) 32
    if m.1 ≠ .ok then (none, passFail m.2.2 p m.1 (metaAddr x.target x.surface i n)) else
    let lines := storedBytes (x.surface.attBytes x.tile a) m.2.1 / 128
    match lineChecks 210 3 x.fn x.asid x.ctx lines (dataAddr x.target x.surface x.tile n a) m.2.2 with
    | (.error f, s) => (none, passFail s p f.1 f.2)
    | (.ok l, s) =>
      let r := loadTerm p x n t s
      (r.1.map fun b => m.2.1 ++ l ++ b, r.2)

/-- LOAD_TERM_READ_DONE (R276): the load term of the pass's next tile without one, at its first hand-out or its comparison. -/
def execLoadTermReadDone (p : Nat) (s : State) : Out :=
  unitStep s 0x115 fun s =>
    match passAt s p with
    | none => s
    | some x =>
      if x.reuse.isNone then s else
      match (x.toHand ++ x.toCompare).find? fun n => (tget x.loadTerms n).isNone with
      | none => s
      | some n =>
        let r := loadTerm p x n x.surface.used s
        match r.1 with
        | none => r.2
        | some b => onPass r.2 p fun x => { x with loadTerms := tset x.loadTerms n b }

/-! ### Lookup and copy (R276, R277) -/

/-- REUSE_TILE_LOOKUP (R276): the next tile of a pass at its PASS_END takes the first matching outcome. ecc is what a read of its entry
meets. -/
def execReuseTileLookup (p : Nat) (ecc : TruEcc) (s : State) : Out :=
  unitStep s 0x115 fun s =>
    match passAt s p with
    | none => s
    | some x =>
      match x.toCompare, x.reuse with
      | n :: rest, some sl =>
        if (tget x.loadTerms n).isNone then s else
        let s := onPass s p fun x => { x with toCompare := rest }
        let hand (s : State) (sign : Bool) : State := onPass s p fun x => { x with
          toHand := nins x.toHand n, sign := if sign then nins x.sign n else x.sign }
        if x.everOut.contains n then
          if x.touched.contains n then hand s true else truSet s x n
        else if (listOf x n).side then hand (onPass s p fun x => { x with shaded := x.shaded + 1 }) false
        else
        let e := truRead s (sl * 8192 + n) ecc
        let s := e.2
        if e.1 = some (signature x n) then
          if x.target.base = (truSlot s sl).recordedAt then onPass s p fun x => { x with kept := x.kept + 1 }
          else onPass s p fun x => { x with toCopy := x.toCopy ++ [n] }
        else
          let s := onPass s p fun x => { x with shaded := x.shaded + 1 }
          if x.touched.contains n then hand s true else truSet (writeUntouched p n s) x n
      | _, _ => s

/-- n lines are copied with their checks by the raster unit of cluster c; a mismatch fails the pass. -/
def copyTile (c p : Nat) (x : Pass) : Nat → Nat → Nat → State → State
  | 0, _, _, s => s
  | n + 1, src, dst, s =>
    let r := vline s (192 + c) 2 x.fn x.asid x.ctx src
    let st := if r.1 = .ok ∧ r.2.2.1 then Status.integrityMismatch else r.1
    let s := r.2.2.2
    if st ≠ .ok then passFail (if st = .integrityMismatch then countMismatch s else s) p st src
    else
      let w := vwrite s (192 + c) 2 x.fn x.asid x.ctx dst r.2.1
      if w.1 ≠ .ok then passFail w.2 p w.1 dst else copyTile c p x n (src + 128) (dst + 128) w.2

/-- One attachment of a matching tile (R277): old is its entry in the recorded surface at base. -/
def copyAtt (c p : Nat) (x : Pass) (n base : Nat) (f : Surface) (s : State) (ia : Nat × Att) : State :=
  match passAt s p, (f.atts.getD ia.1 none) with
  | some y, some old =>
    if y.failed then s
    else if ia.2.store = 0 then
      let from_ := base + f.meta_ + 32 * (5 * n + ia.1)
      let m := rasRead s c p from_ 32
      match m.1 with
      | none => m.2
      | some entry =>
        let s := rasWrite m.2 c p (metaAddr x.target x.surface ia.1 n) entry
        let size := x.surface.attBytes x.tile ia.2
        copyTile c p x (storedBytes size entry / 128) (base + old.data + n * size) (dataAddr x.target x.surface x.tile n ia.2) s
    else if ia.2.store = 1 then
      let size := x.tile * x.tile * fmtBytes ia.2.format
      copyTile c p x (size / 128) (base + old.resolve + n * size) (x.target.base + ia.2.resolve + n * size) s
    else s
  | _, _ => s

/-- REUSE_TILE_COPY (R277): the raster unit of cluster c copies the next matching tile of a pass. -/
def execReuseTileCopy (c p : Nat) (s : State) : Out :=
  unitStep s (0xC0 + c) fun s =>
    match passAt s p with
    | none => s
    | some x =>
      match x.toCopy, x.reuse with
      | n :: rest, some sl =>
        if 16 ≤ c ∨ ¬ domOn s c then s else
        let old := truSlot s sl
        let s := x.surface.used.foldl (copyAtt c p x n old.recordedAt (old.recorded.getD default)) s
        onPass s p fun x => { x with toCopy := if x.failed then [] else rest, copied := x.copied + 1 }
      | _, _ => s

/-! ### Compute passes (R280 to R282) -/

/-- The eight descriptor words. -/
def ruWord (g : Group) (d n : Nat) : Nat := sreg g (d + n)

/-- What parks the group before the table is looked at (R281). -/
def ruFault (s : State) (i : Issue) (d : Nat) : Option Status :=
  let w0 := ruWord i.g d 0
  let rows := bits (ruWord i.g d 3) 31 16
  let lines := bits (ruWord i.g d 3) 15 0
  let base := ruWord i.g d 1 + ruWord i.g d 2 * 2 ^ 32
  if d % 8 ≠ 0 ∨ 16 * sUnits i.blk.prog < d + 8 then some .badOpcode
  else if bits w0 15 4 ≠ 0 ∨ bits w0 31 29 ≠ 0
      ∨ rows = 0 ∨ 4096 < rows ∨ lines = 0 ∨ 4096 < lines ∨ 65536 < rows * lines then some .badOpcode
  else if base % 128 ≠ 0 ∨ ruWord i.g d 4 % 128 ≠ 0 then some .badAlignment
  else if fget s F.TRU_SLOT_CFG.MODE 0 (w0 % 16) ≠ 2 ∨ fget s F.TRU_SLOT_CFG.FUNCTION 0 (w0 % 16) ≠ i.blk.fn then some .permission
  else none

/-- The reuse entry that word 0 names. -/
def ruKey (w0 : Nat) : Nat := w0 % 16 * 8192 + bits w0 28 16

/-- The checks of a region, row by row. -/
def ruRows (i : Issue) (base pitch lines : Nat) : Nat → Nat → State → Except (Status × Nat) (List Byte) × State
  | 0, _, s => (.ok [], s)
  | n + 1, r, s =>
    match lineChecks i.blk.core 0 i.blk.fn i.blk.asid i.blk.ctx lines (base + r * pitch) s with
    | (.ok l, s) =>
      match ruRows i base pitch lines n (r + 1) s with
      | (.ok m, s) => (.ok (l ++ m), s)
      | e => e
    | e => e

/-- RU_PROBE (R280 to R282): r receives the match. ecc is what the read of the entry meets. -/
def execRuProbe (core pipe r d : Nat) (ecc : TruEcc) (s : State) : Out :=
  if ¬ domOn s 41 then .next s else
  issue s core pipe [] false fun s i =>
    match (if 16 * sUnits i.blk.prog ≤ r then some Status.badOpcode else ruFault s i d) with
    | some st => parkAt s i st
    | none =>
      let w (n : Nat) := ruWord i.g d n
      let rows := bits (w 3) 31 16
      let lines := bits (w 3) 15 0
      match ruRows i (w 1 + w 2 * 2 ^ 32) (w 4) lines rows 0 s with
      | (.error f, s) => parkAt s i f.1 f.2
      | (.ok checks, s) =>
        let sig := crc64 (natLe rows 2 ++ natLe lines 2 ++ natLe (w 5) 4 ++ checks)
        let e := truRead s (ruKey (w 0)) ecc
        let hit : Bool := e.1 = some sig
        let s := e.2
        let s := fcount s (if hit then F.TRU_SLOT_STAT.KEPT else F.TRU_SLOT_STAT.SHADED) 0 (w 0 % 16)
        put s i (advance (setS (setS (setS i.g (d + 6) sig) (d + 7) (sig / 2 ^ 32)) r (b2n hit)) i.ts)

/-- RU_COMMIT (R281, R282). It reads no line of the region, so that none can fault. -/
def execRuCommit (core pipe d : Nat) (s : State) : Out :=
  if ¬ domOn s 41 then .next s else
  issue s core pipe [] false fun s i =>
    match ruFault s i d with
    | some st => parkAt s i st
    | none =>
      let sig := ruWord i.g d 6 + ruWord i.g d 7 * 2 ^ 32
      let s := onGfx s fun g => { g with reuse := tset g.reuse (ruKey (ruWord i.g d 0)) sig }
      put s i (advance i.g i.ts)

end Sys2Proof.Machine
end

