-- ==== Sys2Proof/Machine/Ring.lean ====
section
/-!
DEFINITION. Machine/Ring.lean: the ring engine (10 R305 to R311) and SEQ_RING_CFG (16 R475).
-/

namespace Sys2Proof.Machine

/-! ### Whole streams (14 R415 to R420) -/

/-- The body of a stream, 64 KiB at a time, each chunk coded as the compressor finds it. bits and win as they stand. -/
def streamBits (pf1 : Bool) : List (List Byte) → List Bool → List Byte → List Bool
  | [], bits, _ => if pf1 then toBits pf1End else bits
  | c :: t, bits, win =>
    if pf1 then toBits (pf1Block c (Config.pressCode true [] c false)) ++ streamBits pf1 t [] []
    else streamBits pf1 t (bits ++ deflateChunk bits.length win c t.isEmpty (Config.pressCode false win c t.isEmpty)) (lastWin (win ++ c))

/-- A whole stream over data. -/
def streamOf (pf1 : Bool) (data : List Byte) : List Byte :=
  let b := streamBits pf1 (chunks 65536 data) [] []
  toBytes (b ++ List.replicate ((8 - b.length % 8) % 8) false) ++ pressTrailer data.length (crcRun 0xFFFF_FFFF data)

/-- Decodes a whole stream: its data, where its trailer agrees with it. -/
def unstream (pf1 : Bool) : Nat → DecMode → List Byte → List Bool → List Byte → Option (List Byte)
  | 0, _, _, _, _ => none
  | fuel + 1, m, win, bs, acc =>
    match decNext pf1 m win bs with
    | .ok used m2 out =>
      if m2 = .done then
        if bitsNat (bs.take 64) = acc.length ∧ bitsNat ((bs.drop 64).take 32) = crcFinal (crcRun 0xFFFF_FFFF acc) then some acc else none
      else unstream pf1 fuel m2 (lastWin (win ++ out)) (bs.drop used) (acc ++ out)
    | _ => none

/-! ### Conditions (R308) -/

/-- Changes the ring engine. -/
def onRing (s : State) (f : Ring → Ring) : State := onSeq s fun x => { x with ring := x.ring.map f }

/-- The exchange and the hop in progress: the first whose transmit or receive has not completed (R308). -/
def Ring.now (g : Ring) : Nat × Nat :=
  if g.txEx < g.rxEx then (g.txEx, g.txHop)
  else if g.rxEx < g.txEx then (g.rxEx, g.rxHop) else (g.rxEx, Nat.min g.txHop g.rxHop)

/-- SEQ_RING_STATUS shows the exchange and the hop in progress. -/
def ringView (s : State) : State :=
  match s.seq.ring with
  | some g => fset (fset s F.SEQ_RING_STATUS.EXCHANGE g.now.1) F.SEQ_RING_STATUS.HOP g.now.2
  | none => s

/-- PROGRESS of exchange i is read; a fault fails the exchange. -/
def readProgress (s : State) (i : Nat) : State :=
  match s.seq.ring with
  | none => s
  | some g =>
    match g.exch[i]? with
    | none => s
    | some x =>
      let r := vread s 210 7 g.fn g.asid g.ctx x.progress 8
      if r.1 ≠ .ok then ringFail r.2.2 r.1 else onRing r.2.2 fun g => { g with progress := tset g.progress i (leNat r.2.1) }

/-- PROGRESS of an exchange as last read. -/
def Ring.prog (g : Ring) (i : Nat) : Nat := tgetD g.progress i 0

/-- The transmit of hop h of exchange e has completed. -/
def Ring.sent (g : Ring) (e h : Nat) : Bool := decide (h = 0) || decide (e < g.txEx) || (decide (e = g.txEx) && decide (h < g.txHop))

/-- The next transmit may start. -/
def Ring.canSend (g : Ring) : Bool :=
  g.failed.isNone && !g.txBusy && decide (g.txEx < g.exch.length) &&
    (if g.txHop = 1 then decide (1 ≤ g.prog g.txEx) else (tget g.lens (g.txEx * 16 + g.txHop - 1)).isSome)

/-- The present receive may start or has started: link credit is granted for it. -/
def Ring.canReceive (g : Ring) : Bool :=
  g.failed.isNone && decide (g.rxEx < g.exch.length) &&
    (g.rxOpen || (decide (g.rxHop ≤ g.prog g.rxEx) && g.sent g.rxEx (g.rxHop - 1)
      && (decide (2 < g.rxHop) || decide (g.rxEx = 0) || decide (g.n + 1 ≤ g.prog (g.rxEx - 1)))))

/-- The ring engine runs and allows the present receive (16 R471). -/
def receiveAllowed (s : State) : Bool := match s.seq.ring with | some g => g.canReceive | none => false

/-! ### Transmit (R308, R309) -/

/-- Messages of a block: each with its header, raw where COMPRESS is 0 or its compressed form is not smaller. -/
def messagesOf (g : Ring) (fmt log2 : Nat) (data : List Byte) : List (List Byte) :=
  let parts := chunks (2 ^ log2) data
  parts.zipIdx.map fun (x : List Byte × Nat) =>
    let z := streamOf (fmt = 1) x.1
    let raw : Bool := decide (fmt = 0) || decide (x.1.length ≤ z.length)
    let body := if raw then x.1 else z
    let origin := (g.pos + g.n - (g.txHop - 1)) % g.n
    ringHeader (ringTag g g.txEx) g.txHop origin (b2n raw + 2 * b2n (decide (x.2 + 1 = parts.length))) 0 x.2 x.1.length (x.2 * 2 ^ log2)
      body.length (if raw then crc32c x.1 else 0) ++ body

/-- RING_HOP_TRANSMIT: the next hop's block is read, its checks verified, cut into messages and handed to port 0. -/
def execRingHopTransmit (s : State) : Out :=
  unitStep s 0x114 fun s =>
    match s.seq.ring with
    | none => s
    | some g0 =>
      let s := if g0.txHop = 1 ∧ g0.failed.isNone then readProgress s g0.txEx else s
      match s.seq.ring with
      | none => s
      | some g =>
        if ¬ g.canSend then s else
        let fmt := fget s F.SEQ_RING_CFG.COMPRESS
        if ¬ (domOn s 48 ∧ uapUp s 0) then ringFail s .domainOff
        else if fmt ≠ 0 ∧ ¬ domOn s 43 then demand s 43
        else
          match g.exch[g.txEx]? with
          | none => s
          | some x =>
            let src := if g.txHop = 1 then (x.send, x.len)
                       else (if g.txHop % 2 = 0 then x.recv0 else x.recv1, tgetD g.lens (g.txEx * 16 + g.txHop - 1) 0)
            let r := vread s 220 6 g.fn g.asid g.ctx src.1 src.2
            let s := if r.1 = .integrityMismatch then countMismatch r.2.2 else r.2.2
            if r.1 ≠ .ok then ringFail s (if r.1 = .uncorrectableEcc then .integrityMismatch else r.1) else
            let flits := (messagesOf g fmt (fget s F.SEQ_RING_CFG.MSG_LOG2) r.2.1).flatMap (flitsOf 0)
            onRing (onPort s 0 fun p => { p with tx0 := p.tx0 ++ flits }) fun g => { g with txBusy := true }

/-- The last flit of a hop's block has left port 0: the transmit has completed. -/
def hopSent (s : State) : State :=
  ringView <| onRing s fun g =>
    if ¬ g.txBusy then g
    else if g.txHop + 1 < g.n then { g with txBusy := false, txHop := g.txHop + 1 }
    else { g with txBusy := false, txHop := 1, txEx := g.txEx + 1 }

/-! ### Receive (R309, R310) -/

/-- The data of a message, or the status that fails the exchange. -/
def messageData (s : State) (m : List Byte) : Except Status (List Byte) :=
  let size := fieldAt m 12 4
  let body := (m.drop 32).take (fieldAt m 24 4)
  if bit (byteAt m 6) 0 then
    if body.length ≠ size ∨ crc32c body ≠ fieldAt m 28 4 then .error .integrityMismatch else .ok body
  else
    match unstream (fget s F.SEQ_RING_CFG.COMPRESS = 1) (2 ^ 27) (.block false) [] (toBits body) [] with
    | some d => if d.length = size then .ok d else .error .decompressCheck
    | none => .error .decompressCheck

/-- The block of the present hop is complete: its length, then ARRIVED. -/
def blockArrived (s : State) (g : Ring) (x : RingExch) (len : Nat) : State :=
  let a := vwrite s 221 6 g.fn g.asid g.ctx (x.signal + 8) (natLe len 8)
  if a.1 ≠ .ok then ringFail a.2 a.1 else
  let b := vwrite a.2 221 6 g.fn g.asid g.ctx x.signal (natLe g.rxHop 8)
  if b.1 ≠ .ok then ringFail b.2 b.1 else
  ringView (onRing b.2 fun g =>
    let lens := tset g.lens (g.rxEx * 16 + g.rxHop) len
    if g.rxHop + 1 < g.n then { g with lens := lens, rxOpen := false, rxIndex := 0, rxBytes := 0, rxHop := g.rxHop + 1 }
    else { g with lens := lens, rxOpen := false, rxIndex := 0, rxBytes := 0, rxHop := 1, rxEx := g.rxEx + 1 })

/-- RING_MESSAGE_RECEIVE: the oldest message that has arrived. It waits until its receive may start (R308); while the exchanges have
failed it is discarded (R310). -/
def execRingMessageReceive (s : State) : Out :=
  unitStep s 0x114 fun s =>
    match s.seq.inbox, s.seq.ring with
    | [], _ => s
    | _, none => s
    | m :: rest, some g =>
        if g.failed.isNone ∧ ¬ g.canReceive then s else
        let s := onSeq s fun x => { x with inbox := rest }
        if g.failed.isSome then s else
        let s := onRing (fcount s F.SEQ_RING_STATUS.MESSAGES) fun g => { g with heard := s.time }
        let off := g.rxIndex * 2 ^ fget s F.SEQ_RING_CFG.MSG_LOG2
        match g.exch[g.rxEx]? with
        | none => ringFail s .badOpcode
        | some x =>
          if fieldAt m 0 4 ≠ x.tag ∨ byteAt m 4 ≠ g.rxHop ∨ fieldAt m 8 4 ≠ g.rxIndex ∨ fieldAt m 16 8 ≠ off then ringFail s .badOpcode
          else if x.cap < off + fieldAt m 12 4 then ringFail s .lengthExceedsObject
          else
            match messageData s m with
            | .error st => ringFail s st
            | .ok d =>
              let w := vwrite s 221 6 g.fn g.asid g.ctx ((if g.rxHop % 2 = 1 then x.recv0 else x.recv1) + off) d
              if w.1 ≠ .ok then ringFail w.2 w.1 else
              if bit (byteAt m 6) 1 then blockArrived w.2 g x (off + d.length)
              else onRing w.2 fun g => { g with rxOpen := true, rxIndex := g.rxIndex + 1, rxBytes := off + d.length }

/-- RING_PROGRESS_POLL: the PROGRESS words that an unmet condition depends on. -/
def execRingProgressPoll (s : State) : Out :=
  unitStep s 0x114 fun s =>
    match s.seq.ring with
    | none => s
    | some g =>
      if g.failed.isSome then s else
      let s := readProgress s g.txEx
      let s := readProgress s g.rxEx
      if 1 ≤ g.rxEx ∧ g.rxHop ≤ 2 then readProgress s (g.rxEx - 1) else s

/-- RING_ABORT_RECEIVE: the oldest ABORT; one that comes after the member has failed is neither forwarded nor acted on. -/
def execRingAbortReceive (s : State) : Out :=
  unitStep s 0x114 fun s =>
    match s.seq.aborts with
    | [] => s
    | m :: rest =>
      let s := onSeq s fun x => { x with aborts := rest }
      ringFail s ((Status.ofCode (byteAt m 7)).getD .badOpcode)

/-- RING_WATCHDOG_EXPIRY (R311). -/
def execRingWatchdogExpiry (s : State) : Out :=
  unitStep s 0x114 fun s =>
    match s.seq.ring with
    | none => s
    | some g =>
      let ms := fget s F.SEQ_RING_TIMEOUT.MS
      if ms ≠ 0 ∧ g.canReceive ∧ g.heard + 1000000 * ms ≤ s.time then ringFail s .watchdog else s

/-! ### SEQ_RING_CFG -/

/-- A value of SEQ_RING_CFG is in range (R312). -/
def ringCfgOk (v : Nat) : Bool :=
  let n := bits v 27 24
  2 ≤ n ∧ n ≤ 8 ∧ bits v 22 20 < n ∧ bits v 17 16 ≤ 2 ∧ 16 ≤ bits v 12 8 ∧ bits v 12 8 ≤ 24

/-- SEQ_RING_CFG_WRITE (R312, 16 R475): discarded while a ring step runs or out of range; ports that are UP send IDENT. -/
def execSeqRingCfgWrite (v : Nat) (s : State) : Out :=
  busWrite s .SEQ_RING_CFG 0 0 fun s =>
    if (s.seq.runs.any fun e => e.2.ring) ∨ ¬ ringCfgOk v then s else
    let s := rset s .SEQ_RING_CFG (Reg.written .SEQ_RING_CFG (rget s .SEQ_RING_CFG) v (2 ^ 32 - 1))
    [0, 1].foldl (fun s p => if uapUp s p then matchPeer (onPort s p fun x => { x with mgmt := x.mgmt ++ [1] }) p else s) s

end Sys2Proof.Machine
end

