-- ==== Sys2Proof/Machine/Rs.lean ====
section
/-!
DEFINITION. Machine/Rs.lean: the RS(64, 52) code of a Uaper flit over GF(2^8) (16 R468): field polynomial
x^8 + x^4 + x^3 + x^2 + 1, generator roots 2^0 to 2^11. A codeword is a list of 64 symbols, highest degree first (log 26).
-/

namespace Sys2Proof.Machine

/-- The product in the field. -/
def gfMul (a b : Nat) : Nat :=
  ((List.range 8).foldl (fun (x : Nat × Nat) i =>
    (if bit b i then x.1 ^^^ x.2 else x.1, if 128 ≤ x.2 then (x.2 * 2) ^^^ 0x11D else x.2 * 2)) (0, a)).1

/-- 2 ^ n in the field. -/
def gfAlpha (n : Nat) : Nat := (List.range (n % 255)).foldl (fun a _ => gfMul a 2) 1

/-- The inverse: the 254th power. -/
def gfInv (a : Nat) : Nat :=
  ((List.range 7).foldl (fun (x : Nat × Nat) _ => let q := gfMul x.1 x.1; (q, gfMul x.2 q)) (a, 1)).2

/-- The value at x of a polynomial, highest degree first. -/
def gfEval (p : List Nat) (x : Nat) : Nat := p.foldl (fun a c => gfMul a x ^^^ c) 0

/-- The value at x of a polynomial, lowest degree first. -/
def gfEvalLow (p : List Nat) (x : Nat) : Nat := gfEval p.reverse x

/-- The generator polynomial, highest degree first: the product of x - 2 ^ i. -/
def rsGen : List Nat :=
  (List.range 12).foldl (fun g i =>
    let a := g ++ [0]
    let b := 0 :: g.map (gfMul (gfAlpha i))
    a.zipWith (· ^^^ ·) b) [1]

/-- The 12 parity symbols of 52 data symbols. -/
def rsParity (data : List Nat) : List Nat :=
  let g := rsGen.tail
  data.foldl (fun r d =>
    let f := d ^^^ r.headD 0
    (r.tail ++ [0]).zipWith (fun x c => x ^^^ gfMul f c) g) (List.replicate 12 0)

/-- The 12 syndromes of a word. -/
def rsSyndromes (w : List Nat) : List Nat := (List.range 12).map fun i => gfEval w (gfAlpha i)

/-- The search for the shortest error locator: locator, previous locator, its length, shift, previous discrepancy. -/
structure RsSearch where
  c : List Nat := [1]
  b : List Nat := [1]
  len : Nat := 0
  m : Nat := 1
  d : Nat := 1
  deriving DecidableEq, Repr, Inhabited

/-- One step of the search, on syndrome n. -/
def rsSearchStep (syn : List Nat) (x : RsSearch) (n : Nat) : RsSearch :=
  let d := (List.range (x.len + 1)).foldl (fun a i => a ^^^ gfMul (x.c.getD i 0) (if i ≤ n then syn.getD (n - i) 0 else 0)) 0
  if d = 0 then { x with m := x.m + 1 }
  else
    let k := gfMul d (gfInv x.d)
    let shifted := List.replicate x.m 0 ++ x.b.map (gfMul k)
    let size := Nat.max x.c.length shifted.length
    let c := (List.range size).map fun i => x.c.getD i 0 ^^^ shifted.getD i 0
    if 2 * x.len ≤ n then { c := c, b := x.c, len := n + 1 - x.len, m := 1, d := d }
    else { x with c := c, m := x.m + 1 }

/-- The corrected word with the number of symbols corrected, where at most 6 symbols are wrong. -/
def rsDecode (w : List Nat) : Option (List Nat × Nat) :=
  let syn := rsSyndromes w
  if syn.all (· = 0) then some (w, 0) else
  let x := (List.range 12).foldl (rsSearchStep syn) {}
  if 6 < x.len then none else
  let omega := (List.range 12).map fun i => (List.range (i + 1)).foldl (fun a j => a ^^^ gfMul (x.c.getD j 0) (syn.getD (i - j) 0)) 0
  let slope := (List.range x.c.length).map fun i => if i % 2 = 0 then x.c.getD (i + 1) 0 else 0
  let fixed := w.zipIdx.map fun (e : Nat × Nat) =>
    let deg := 63 - e.2
    let inv := gfAlpha (255 - deg)
    if gfEvalLow x.c inv = 0 then
      e.1 ^^^ gfMul (gfAlpha deg) (gfMul (gfEvalLow omega inv) (gfInv (gfEvalLow slope inv)))
    else e.1
  let n := ((w.zip fixed).filter fun e => e.1 ≠ e.2).length
  if n ≤ 6 ∧ (rsSyndromes fixed).all (· = 0) then some (fixed, n) else none

/-- Codeword k of a flit: its data bytes k, k + 4, ... and its parity bytes (16 R468). -/
def rsWord (flit : List Byte) (k : Nat) : List Nat :=
  (List.range 52).map (fun i => byteAt flit (4 * i + k)) ++ (List.range 12).map fun j => byteAt flit (208 + 4 * j + k)

/-- The 256 bytes of a flit from its first 208. -/
def rsEncodeFlit (b : List Byte) : List Byte :=
  let par := (List.range 4).map fun k => rsParity ((List.range 52).map fun i => byteAt b (4 * i + k))
  b ++ (List.range 48).map fun x => BitVec.ofNat 8 ((par.getD (x % 4) []).getD (x / 4) 0)

/-- A received flit decoded: its first 208 bytes and whether a symbol was corrected; none where a codeword has more than 6 wrong
symbols. -/
def rsDecodeFlit (b : List Byte) : Option (List Byte × Bool) :=
  match rsDecode (rsWord b 0), rsDecode (rsWord b 1), rsDecode (rsWord b 2), rsDecode (rsWord b 3) with
  | some w0, some w1, some w2, some w3 =>
    let ws := [w0.1] ++ [w1.1] ++ [w2.1] ++ [w3.1]
    some ((List.range 208).map (fun x => BitVec.ofNat 8 ((ws.getD (x % 4) []).getD (x / 4) 0)), 0 < w0.2 + w1.2 + w2.2 + w3.2)
  | _, _, _, _ => none

end Sys2Proof.Machine
end

