-- ==== Sys2Proof/Machine/Uap.lean ====
section
/-!
DEFINITION. Machine/Uap.lean: the link layer of the Uaper ports: flits, acknowledgement, replay, credits, states (16 R466 to
R480). A command gives or takes the 256 bytes as they stand on the lanes, after polarity, order and skew are corrected.
-/

namespace Sys2Proof.Machine

/-! ### Lanes (R467) -/

/-- One symbol of a lane: the scrambling register and the 8 bits it gives, bit 0 first. -/
def prbsSymbol (r : Nat) : Nat × Nat :=
  (List.range 8).foldl (fun (x : Nat × Nat) i =>
    let b := b2n (bit x.1 30 != bit x.1 27)
    ((x.1 * 2 + b) % 2 ^ 31, x.2 + b <<< i)) (r, 0)

/-- The registers at the first bit of a TRAIN flit: lane number + 1. -/
def prbsSeed : List Nat := (List.range 8).map (· + 1)

/-- A flit scrambled or descrambled, with the registers after it: byte i travels on lane i mod 8. -/
def scramble (regs : List Nat) (flit : List Byte) : List Byte × List Nat :=
  flit.zipIdx.foldl (fun (x : List Byte × List Nat) e =>
    let y := prbsSymbol (x.2.getD (e.2 % 8) 0)
    (x.1 ++ [BitVec.ofNat 8 (e.1.toNat ^^^ y.2)], x.2.set (e.2 % 8) y.1)) ([], if regs.length = 8 then regs else prbsSeed)

/-! ### Flits (R468, R469) -/

/-- Acknowledgement and credit fields of a header: ACK_SEQ, NAK, ACK_VALID, CREDIT0, CREDIT1. -/
structure FlitAck where
  seq : Nat := 0
  nak : Bool := false
  valid : Bool := false
  c0 : Nat := 0
  c1 : Nat := 0
  deriving DecidableEq, Repr, Inhabited

/-- The 256 bytes of a flit. -/
def flitBytes (f : Flit) (a : FlitAck) : List Byte :=
  let h := f.ty <<< 60 + (f.vc % 2) <<< 59 + b2n f.som <<< 58 + b2n f.eom <<< 57 + f.slots % 8 <<< 54 + f.fseq % 4096 <<< 40
    + a.seq % 4096 <<< 28 + b2n a.nak <<< 27 + b2n a.valid <<< 26 + a.c0 % 1024 <<< 16 + a.c1 % 16 <<< 12
  let b := natLe h 8 ++ f.payload.take 192 ++ zeros (192 - f.payload.length)
  rsEncodeFlit (b ++ natLe (crc64 b) 8)

/-- A decoded flit with its acknowledgement fields. -/
def readFlit (b : List Byte) : Flit × FlitAck :=
  let h := fieldAt b 0 8
  ({ ty := bits h 63 60, vc := bits h 59 59, som := bit h 58, eom := bit h 57, slots := bits h 56 54, fseq := bits h 51 40,
     payload := (b.drop 8).take 192 },
   { seq := bits h 39 28, nak := bit h 27, valid := bit h 26, c0 := bits h 25 16, c1 := bits h 15 12 })

/-- The flit behind the received bytes with whether a symbol was corrected; none where the decode or the CRC fails. -/
def checkFlit (b : List Byte) : Option (List Byte × Bool) :=
  match rsDecodeFlit b with
  | some (d, c) => if fieldAt d 200 8 = crc64 (d.take 200) then some (d, c) else none
  | none => none

/-! ### Leaving UP -/

/-- The port enters RECOVERY, counted in RETRAINS (R473, R480). -/
def uapRecovery (s : State) (p : Nat) : State := uapMove (fcount s F.UAP_ERR.RETRAINS 0 p) p 3

/-- A protocol error is counted. -/
def uapProtocol (s : State) (p : Nat) : State := fcount s F.UAP_ERR.PROTOCOL 0 p

/-- The replay buffer is sent again from its oldest flit; the fourth time without progress the port enters RECOVERY (R472, R473). -/
def uapReplay (s : State) (p : Nat) : State :=
  let x := portAt s p
  if x.replay = [] then s else
  let s := fcount s F.UAP_ERR.REPLAYS 0 p
  if 4 ≤ x.replays + 1 then uapRecovery s p
  else onPort s p fun x => { x with replays := x.replays + 1, resend := x.replay.length }

/-! ### Receive -/

/-- The partner's identity (R475). -/
def uapIdentity (s : State) (p : Nat) (b : List Byte) : State :=
  let s := rset s .UAP_PEER_ID (fieldAt b 0 8) 0 p
  let s := fset (fset s F.UAP_PEER.VALID 1 0 p) F.UAP_PEER.RING_EN (byteAt b 11 % 2) 0 p
  let s := fset (fset s F.UAP_PEER.PORT (byteAt b 10) 0 p) F.UAP_PEER.N (byteAt b 8) 0 p
  matchPeer (fset s F.UAP_PEER.POSITION (byteAt b 9) 0 p) p

/-- Acknowledgement fields of a good flit (R472). -/
def uapAcked (s : State) (p : Nat) (a : FlitAck) : State :=
  if ¬ a.valid then s else
  let x := portAt s p
  let n := match x.replay with | f :: _ => (a.seq + 4097 - f.fseq) % 4096 | [] => 0
  let s := if 1 ≤ n ∧ n ≤ x.replay.length then
      onPort s p fun x => { x with replay := x.replay.drop n, resend := Nat.min x.resend (x.replay.length - n), replays := 0 }
    else s
  if a.nak then uapReplay s p else s

/-- A message has arrived whole (R470): ring data and ABORT messages reach the ring engine at port 1. -/
def uapDeliver (s : State) (p vc : Nat) (m : List Byte) : State :=
  if p ≠ 1 then s
  else onSeq s fun x => if vc = 0 then { x with inbox := x.inbox ++ [m] } else { x with aborts := x.aborts ++ [m] }

/-- The message open on a VC. -/
def Port.openOf (x : Port) (vc : Nat) : Option (List Byte) := if vc = 0 then x.open0 else x.open1
/-- Changes the message open on a VC. -/
def Port.setOpen (x : Port) (vc : Nat) (m : Option (List Byte)) : Port := if vc = 0 then { x with open0 := m } else { x with open1 := m }

/-- The exchanges of the running ring step have failed (10 R310). -/
def ringFailed (s : State) : Bool := match s.seq.ring with | some g => g.failed.isSome | none => false

/-- A DATA flit accepted in order (R470, R471, R480). What is left of a message that a failed exchange discarded is dropped
(10 R310). -/
def uapData (s : State) (p : Nat) (f : Flit) : State :=
  let x := portAt s p
  let s := onPort s p fun x => if f.vc = 0 then { x with freed0 := x.freed0 + 1 } else { x with freed1 := x.freed1 + 1 }
  if p = 1 ∧ f.vc = 0 ∧ ¬ f.som ∧ x.open0.isNone ∧ ringFailed s then s else
  let bad (s : State) : State := ringFail (onPort (uapProtocol s p) p fun x => x.setOpen f.vc none) .badOpcode
  if f.slots = 0 ∨ 6 < f.slots ∨ (f.slots < 6 ∧ ¬ f.eom) ∨ f.som = (x.openOf f.vc).isSome then bad s
  else
    let m := (x.openOf f.vc).getD [] ++ f.payload.take (32 * f.slots)
    if ¬ f.eom then onPort s p fun x => x.setOpen f.vc (some m)
    else if m.length ≠ 32 + roundUp (fieldAt m 24 4) 32 then bad s
    else uapDeliver (onPort s p fun x => x.setOpen f.vc none) p f.vc m

/-- The ring engine has no exchange that uses the link (R477). -/
def linkIdle (s : State) : Bool :=
  match s.seq.ring with
  | none => true
  | some g => g.failed.isSome || (decide (g.exch.length ≤ g.txEx) && decide (g.exch.length ≤ g.rxEx))

/-- A LINKMGT flit accepted in order (R475, R477). -/
def uapMgmt (s : State) (p : Nat) (f : Flit) : State :=
  match byteAt f.payload 0 with
  | 1 => uapIdentity s p (f.payload.drop 1)
  | 2 => onPort s p fun x => { x with mgmt := x.mgmt ++ [if linkIdle s then 3 else 4] }
  | 3 => if (portAt s p).asked then uapMove s p 4 else s
  | 4 => if (portAt s p).asked then fset (onPort s p fun x => { x with asked := false }) F.UAP_STATUS.SLEEP_NAKED 1 0 p else s
  | _ => s

/-- A DATA flit that the receiver had granted no buffer for. -/
def overGranted (x : Port) (f : Flit) : Bool :=
  decide (f.ty = 1) && (if f.vc = 0 then decide (512 ≤ x.freed0) else decide (8 ≤ x.freed1))

/-- A good flit at a port that is UP (R469 to R472, R480). -/
def uapGood (s : State) (p : Nat) (f : Flit) (a : FlitAck) : State :=
  if 4 < f.ty then uapRecovery (uapProtocol s p) p
  else if f.ty = 2 ∨ f.ty = 4 then s
  else
    let s := uapAcked s p a
    if ¬ uapUp s p then s else
    let x := portAt s p
    if 512 < x.credit0 + a.c0 ∨ 8 < x.credit1 + a.c1 then uapRecovery (uapProtocol s p) p
    else
      let s := onPort s p fun x => { x with credit0 := x.credit0 + a.c0, credit1 := x.credit1 + a.c1 }
      if f.ty = 0 then s
      else if f.fseq ≠ (x.rxLast + 1) % 4096 then onPort s p fun x => { x with ackDue := true }
      else if overGranted x f then uapRecovery (uapProtocol s p) p
      else
        let s := onPort s p fun x => { x with rxLast := f.fseq, nak := false, ackDue := true }
        if f.ty = 1 then uapData s p f else uapMgmt s p f

/-- A good TRAIN flit is counted (R474 steps 1 and 3): also as one of consecutive identical ones that carry ACK, and after 8 of those as
a good flit of step 4. -/
def trainSeen (x : Port) (b : List Byte) : Port :=
  let n := if byteAt b 11 / 2 % 2 = 0 then 0 else if b = x.lastTrain then x.acked + 1 else 1
  { x with trains := x.trains + 1, lastTrain := b, acked := if 8 ≤ x.acked then x.acked else n,
           goods := if 8 ≤ x.acked then x.goods + 1 else 0 }

/-- A good flit in any state that listens (R473, R474, R479). -/
def uapListen (s : State) (p : Nat) (b : List Byte) : State :=
  let r := readFlit b
  let f := r.1
  let s := onPort s p fun x => { x with holds := if f.ty = 4 then x.holds + 1 else 0 }
  let s := if f.ty = 2 then
      let s := uapIdentity s p f.payload
      let s := if uapState s p = 6 then uapIdentity (uapMove s p 1) p f.payload else s
      onPort s p fun x => trainSeen x f.payload
    else onPort s p fun x => if x.acked < 8 then { x with acked := 0 } else { x with goods := x.goods + 1 }
  let st := uapState s p
  if 4 ≤ (portAt s p).holds ∧ (st = 2 ∨ st = 3) then uapMove s p 6
  else if st = 2 then uapGood s p f r.2
  else s

/-- UAP_FLIT_RECEIVE: the 256 bytes of a flit from the lanes of port p. -/
def uapReceive (p : Nat) (raw : List Byte) (s : State) : State :=
  let st := uapState s p
  if ¬ domOn s (48 + p) ∨ st = 0 ∨ st = 4 ∨ st = 5 then s else
  let seeded := scramble prbsSeed raw
  let running := scramble (portAt s p).rxPrbs raw
  let train : Bool := match checkFlit seeded.1 with | some d => decide ((readFlit d.1).1.ty = 2) | none => false
  let x := if train then seeded else running
  let s := onPort s p fun y => { y with rxPrbs := x.2 }
  match checkFlit x.1 with
  | none =>
    let s := onPort s p fun y => { y with holds := 0, goods := 0, acked := if y.acked < 8 then 0 else y.acked }
    if st = 2 then onPort (fcount s F.UAP_ERR.CRC_FAIL 0 p) p fun y => { y with nak := true } else s
  | some (d, fixed) => uapListen (if fixed then fcount s F.UAP_ERR.FEC_CORRECTED 0 p else s) p d

/-- UAP_FLIT_RECEIVE (R472). -/
def execUapFlitReceive (p : Nat) (raw : List Byte) (s : State) : Out :=
  powered s (if 1 < p ∨ raw.length ≠ 256 then s else uapReceive p raw s)

/-! ### Transmit -/

/-- What a port that is UP sends next (R471, R472): a flit to be sent again, link management, an ABORT, ring data, or IDLE; with
the port after it. -/
def uapNext (s : State) (p : Nat) : Flit × Port :=
  let x := portAt s p
  match x.replay[x.replay.length - x.resend]? with
  | some f => (f, { x with resend := x.resend - 1 })
  | none =>
    let held (f : Flit) (x : Port) : Flit × Port :=
      let f := { f with fseq := x.txNext }
      (f, { x with replay := x.replay ++ [f], txNext := (x.txNext + 1) % 4096 })
    if 512 ≤ x.replay.length then ({ ty := 0 }, x)
    else match x.mgmt with
      | c :: t => held { ty := 3, payload := natLe c 1 ++ (if c = 1 then identBytes s p false else []) } { x with mgmt := t }
      | [] =>
        match x.tx1 with
        | f :: t => if 0 < x.credit1 then held f { x with tx1 := t, credit1 := x.credit1 - 1 } else
            (match x.tx0 with
             | g :: u => if 0 < x.credit0 then held g { x with tx0 := u, credit0 := x.credit0 - 1 } else ({ ty := 0 }, x)
             | [] => ({ ty := 0 }, x))
        | [] =>
          match x.tx0 with
          | g :: u => if 0 < x.credit0 then held g { x with tx0 := u, credit0 := x.credit0 - 1 } else ({ ty := 0 }, x)
          | [] => ({ ty := 0 }, x)

/-- A flit leaves port p: lastSent holds its 256 bytes, and the lanes' registers advance, seeded by a TRAIN flit (R467). -/
def uapSend (s : State) (p : Nat) (f : Flit) (a : FlitAck) : State :=
  let b := flitBytes f a
  onPort s p fun x => { x with lastSent := b, txPrbs := (scramble (if f.ty = 2 then prbsSeed else x.txPrbs) b).2 }

/-- UAP_FLIT_TRANSMIT in the port's present state (R473, R474, R479). -/
def uapTransmit (p : Nat) (s : State) : State :=
  if ¬ domOn s (48 + p) then s else
  match uapState s p with
  | 1 | 3 =>
    if 8 ≤ (portAt s p).acked then uapSend s p { ty := 0 } {}
    else uapSend s p { ty := 2, payload := identBytes s p (decide (8 ≤ (portAt s p).trains)) } {}
  | 2 =>
    let x := portAt s p
    let report0 : Bool := decide (p = 1) && receiveAllowed s
    let a : FlitAck := { seq := x.rxLast, nak := x.nak, valid := x.ackDue || x.nak, c0 := if report0 then x.freed0 else 0, c1 := x.freed1 }
    let n := uapNext s p
    let y := { n.2 with nak := false, ackDue := false, freed0 := if report0 then 0 else x.freed0, freed1 := 0 }
    let s := uapSend (onPort s p fun _ => y) p n.1 a
    if n.1.ty = 3 ∧ byteAt n.1.payload 0 = 3 then uapMove s p 4
    else if p = 0 ∧ x.tx0 ≠ [] ∧ y.tx0 = [] then hopSent s
    else s
  | 5 => uapSend s p { ty := 4 } {}
  | 6 => uapSend s p { ty := 0 } {}
  | _ => s

/-- UAP_FLIT_TRANSMIT (R467 to R472). -/
def execUapFlitTransmit (p : Nat) (s : State) : Out := powered s (if 1 < p then s else uapTransmit p s)

/-- UAP_REPLAY_TIMER (R472): 2 µs without an acknowledgement of the oldest held flit. -/
def execUapReplayTimer (p : Nat) (s : State) : Out := powered s (if 1 < p ∨ ¬ uapUp s p then s else uapReplay s p)

/-! ### States -/

/-- UAP_TRAINING_COMPLETE (R473, R474): ok says that the sequence completes, which it can once 1,024 consecutive good flits have followed
step 3; reversed and polarity are what it found. -/
def uapTrained (p : Nat) (ok reversed : Bool) (polarity : Nat) (s : State) : State :=
  let s := uapTry s p
  let st := uapState s p
  if st ≠ 1 ∧ st ≠ 3 then s
  else if ok then
    if (portAt s p).goods < 1024 ∨ ¬ domOn s (48 + p) then s else
    let s := fset (fset s F.UAP_STATUS.REVERSED (b2n reversed) 0 p) F.UAP_STATUS.POLARITY polarity 0 p
    matchPeer (uapMove s p 2) p
  else if st = 1 then s
  else
    let n := (portAt s p).fails + 1
    let s := onPort s p fun x => { x with fails := n, trains := 0, lastTrain := [], acked := 0, goods := 0 }
    if n < 3 then s
    else uapTry (uapMove (fset (fcount s F.UAP_ERR.RETRAINS 0 p) F.UAP_STATUS.LINK_FAIL 1 0 p) p 0) p

/-- UAP_TRAINING_COMPLETE. -/
def execUapTrainingComplete (p : Nat) (ok reversed : Bool) (polarity : Nat) (s : State) : Out :=
  engineStep s fun s => if 1 < p then s else uapTrained p ok reversed polarity s

/-- EN of a port takes a value (R473): 1 trains a port that is DOWN; 0 takes the port DOWN from every state but HELD. -/
def uapEn (s : State) (p : Nat) (en : Bool) : State :=
  let s := fset s F.UAP_CTL.EN (b2n en) 0 p
  if en then uapTry s p else if uapState s p = 5 then s else uapMove s p 0

/-- UAP_CTL_EN_WRITE (R473). -/
def execUapCtlEnWrite (p : Nat) (en : Bool) (s : State) : Out :=
  if 1 < p then .next s else busWrite s .UAP_CTL 0 p fun s => uapEn s p en

/-- UAP_SLEEP_REQ (R477). -/
def execUapSleepReq (p : Nat) (s : State) : Out :=
  if 1 < p then .next s else
  busWrite s .UAP_CTL 0 p fun s =>
    if ¬ uapUp s p ∨ (s.seq.runs.any fun e => e.2.ring) ∨ (portAt s p).replay ≠ [] then s
    else onPort s p fun x => { x with asked := true, mgmt := x.mgmt ++ [2] }

/-- UAP_WAKE (R478). -/
def execUapWake (p : Nat) (s : State) : Out :=
  if 1 < p then .next s else busWrite s .UAP_CTL 0 p fun s => uapWakeUp s p true

/-- UAP_WAKE_PATTERN_DETECT (R478, 18 R521): ignored by a port that is not in SLEEP. -/
def execUapWakePatternDetect (p : Nat) (s : State) : Out :=
  powered s (if 1 < p ∨ uapState s p ≠ 4 then s
    else uapWakeUp (wakeReport (uapIrq (fset s F.UAP_STATUS.WAKE_SEEN 1 0 p) p) 2 p) p false)

end Sys2Proof.Machine
end

