-- ==== Sys2Proof/Machine/RegOps.lean ====
section
/-!
DEFINITION. Machine/RegOps.lean: what a write of a value to a register does once it has reached the register: its own range and
lock rules, shared by the writes of the host and of firmware (00 R9 to R11, R15).
-/

namespace Sys2Proof.Machine

/-- The written value lies in the range the register's table gives; where it does not, the write is discarded as a whole. -/
def Reg.inRange (r : Reg) (v : Nat) : Bool :=
  match r with
  | .SCH_INTF_CTL => decide (6 ≤ bits v 3 0)
  | .ACE_CTL => decide (bits v 4 0 ≤ 16)
  | .COL_CTL => decide (1 ≤ bits v 31 16 ∧ bits v 31 16 ≤ 32768)
  | .RAS_CTL => decide (1 ≤ bits v 4 0 ∧ bits v 4 0 ≤ 16)
  | .SEQ_BATCH => decide (1 ≤ bits v 50 38 ∧ bits v 50 38 ≤ 4096 ∧ 1 ≤ bits v 37 21 ∧ bits v 37 21 ≤ 65536
      ∧ 1 ≤ bits v 20 6 ∧ bits v 20 6 ≤ 16384)
  | .SEQ_EVT_CTL => decide (6 ≤ bits v 3 0)
  | .MEM_REFRESH => decide (bits v 3 0 ≤ 8)
  | .XLT_AS_BASE => decide (bits v 4 0 ≤ 16)
  | .XLT_FLT_BASE => decide (6 ≤ bits v 3 0 ∧ bits v 3 0 ≤ 8)
  | .INT_REC_BASE => decide (6 ≤ bits v 3 0 ∧ bits v 3 0 ≤ 12)
  | .HIF_LINK_CTL => decide (bits v 30 28 ≤ 3)
  | .PWR_SILLAGE => decide (1 ≤ bits v 9 0 ∧ bits v 9 0 ≤ 1000)
  | _ => true

/-- RING_LOG2 and LOG2 of 4 bits go to 15, so that only their lower bound needs a check. Bits of a base that a write ignores
(03 R105, 10 R312). -/
def Reg.ignored (r : Reg) : Nat :=
  match r with
  | .SCH_INTF_RING | .SEQ_EVT_BASE => 0xFFF
  | _ => 0

/-- The stream whose registers hold copy i of a register of a stream's configuration: covered shadows (15 R445), and the timing and
link registers of R438. -/
def Reg.shadow (r : Reg) : Bool :=
  match r with
  | .DSP_STREAM_CTL | .DSP_STREAM_LUM | .DSP_STREAM_BG | .DSP_WB_ADDR | .DSP_WB_CTL | .DSP_COMMIT_SEQ | .DSP_COMMIT_QUEUE => true
  | _ => false

/-- A pipe's shadow register. -/
def Reg.pipeShadow (r : Reg) : Bool :=
  match r with
  | .DSP_PIPE_CTL | .DSP_PIPE_DST | .DSP_PIPE_ADDR | .DSP_PIPE_SRC | .DSP_PIPE_PITCH | .DSP_PIPE_ALPHA | .DSP_PIPE_META | .DSP_PIPE_BUF => true
  | _ => false

/-- The streams whose pending commits cover a shadow register (15 R445): the stream itself, or those that are a pipe's active or shadow
STREAM. -/
def lockedBy (s : State) (r : Reg) (i : Nat) : List Nat :=
  if r.shadow then (if commitPending s i then [i] else [])
  else if r.pipeShadow then (List.range 8).filter fun x => commitPending s x &&
    (decide (fget s F.DSP_PIPE_CTL.STREAM 0 i = x) || decide ((pipeAt s i).stream = some x))
  else []

/-- A timing or link register of an active stream, or the ASID of an output with one, takes no write (15 R438, R452). -/
def dspBusy (s : State) (r : Reg) (i : Nat) : Bool :=
  match r with
  | .DSP_TIMING_H | .DSP_TIMING_V | .DSP_PIXEL_RATE | .DSP_STREAM_LINK => streamOn s i
  | .DSP_OUT_AS => outputOn s i
  | _ => false

/-- A write of ADDR, META or WB_ADDR is remembered for the next commit (15 R445). -/
def dspWrote (s : State) (r : Reg) (i : Nat) : State :=
  match r with
  | .DSP_PIPE_ADDR | .DSP_PIPE_META => onPipe s i fun p => { p with wrote := true }
  | .DSP_WB_ADDR => onStream s i fun x => { x with wbWrote := true }
  | _ => s

/-- Firmware is LOADING from CCX_FW_ADDR: the write is discarded. -/
def regBusy (s : State) (r : Reg) : Bool :=
  match r with
  | .CCX_FW_ADDR => decide (fget s F.CCX_FW_STATE.STATE = 1)
  | _ => false

/-- A register without a row of its own takes a write of v to the bits in words (R9, R11). -/
def regStore (s : State) (r : Reg) (w i v words : Nat) : State :=
  let old := rget s r w i
  let new := r.written old (without v r.ignored) words
  if ¬ r.inRange new ∨ dspBusy s r i ∨ regBusy s r then s
  else match lockedBy s r i with
    | [] => dspWrote (rset s r new w i) r i
    | l => l.foldl (fun s x => fset s F.DSP_COMMIT_STATUS.LOCKED_WRITE 1 0 x) s

/-- All bits of a register. -/
def Reg.allBits (r : Reg) : Nat := 2 ^ r.place.width - 1

/-- A write of firmware through the register map (17 R486), under the domain rule of 18 R511. -/
def fwGate (s : State) (r : Reg) (w i : Nat) (k : State → State) : State :=
  match r.domain w i with
  | some d => if domOn s d then k s else fset s F.PWR_STATUS.OFF_ACCESS 1
  | none => k s

/-- Firmware writes a register without a row of its own. -/
def fwWrite (s : State) (r : Reg) (w i v : Nat) : State := fwGate s r w i fun s => regStore s r w i v r.allBits

/-! ### SEQ_PART (02 R35, 10 R288) -/

/-- A written SEQ_PART value is one the device discards. -/
def seqPartBad (s : State) (f v : Nat) : Bool :=
  let b := bits v 7 0
  let n := bits v 16 8
  decide (256 < b + n)
  || ((List.range 16).filter fun g => g ≠ f).any (fun g => rangesMeet b n (fget s F.SEQ_PART.BASE 0 g) (fget s F.SEQ_PART.COUNT 0 g))
  || s.seq.slots.any (fun e => decide (e.2.fn = f ∧ ¬ (16 * b ≤ e.1 ∧ e.1 < 16 * (b + n))))

/-- SEQ_PART[f] takes a value unless R35 discards it. -/
def seqPartWrite (s : State) (f v : Nat) : State := if seqPartBad s f v then s else rset s .SEQ_PART (bits v 16 0) 0 f

/-- FE_PART[f] takes a value unless R35 discards it. -/
def fePartWrite (s : State) (f v : Nat) : State := if partBad s f v then s else rset s .FE_PART (bits v 50 0) 0 f

end Sys2Proof.Machine
end

