-- ==== Sys2Proof/Machine/Power.lean ====
section
/-!
DEFINITION. Machine/Power.lean: power domains, pads, Sillage, the VDD_CORE and fan loops and telemetry (18).
-/

namespace Sys2Proof.Machine

/-! ### Domains (R509 to R515) -/

/-- AUTO is permitted (R509). -/
def autoAllowed (d : Nat) : Bool := d = 40 ∨ d = 41 ∨ d = 43 ∨ d = 48 ∨ d = 49

/-- The parent of a domain. -/
def domParent (d : Nat) : Option Nat := if 16 ≤ d ∧ d < 32 then some (d - 16) else none

/-- STATUS of a domain. -/
def domStatus (s : State) (d : Nat) (st : Status) : State := fset s F.PWR_DOM_CTL.STATUS (Status.code st) 0 d

/-- The transition a domain runs. -/
def domPhase (s : State) (d : Nat) : Option Phase := tget s.pwr.phases d

/-- A domain enters a phase of a transition. -/
def setPhase (s : State) (d : Nat) (p : Phase) : State :=
  onPwr (fset s F.PWR_DOM_CTL.PENDING 1 0 d) fun x => { x with phases := tset x.phases d p }

/-- A domain's transition is over. -/
def endPhase (s : State) (d : Nat) : State :=
  onPwr (fset s F.PWR_DOM_CTL.PENDING 0 0 d) fun x => { x with phases := tdel x.phases d }

/-- A written TARGET starts the transition that R513 gives it: none from OFF to RETENTION. -/
def domGo (s : State) (d target : Nat) : State :=
  let now := domNow s d
  if target = now ∨ (now = 2 ∧ target = 1) then s
  else if target = 0 then domUp s d
  else setPhase s d (.quiescing target)

/-- A write to PWR_DOM_CTL[d] while no transition runs (R514, R527). -/
def domApply (s : State) (d v : Nat) : State :=
  let target := v % 4
  let auto := bit v 2
  if target = 3 ∨ (auto ∧ ¬ autoAllowed d) ∨ (auto ∧ flag s F.PWR_DOM_CTL.AUTO 0 d) then s
  else
    let s := fset s F.PWR_DOM_CTL.AUTO (b2n auto) 0 d
    let orphan : Bool := match domParent d with | some p => !domOn s p | none => false
    if target = 0 ∧ ¬ domOn s d ∧ orphan then domStatus s d .permission
    else domGo (domStatus (fset s F.PWR_DOM_CTL.TARGET target 0 d) d .ok) d target

/-- A write to PWR_DOM_CTL[d] (R514): held while a transition runs, the last one counting; a write of ON while a down transition
quiesces cancels it. -/
def domCtlWrite (s : State) (d v : Nat) : State :=
  match domPhase s d with
  | none => domApply s d v
  | some p =>
    let cancel : Bool := match p with | .quiescing _ => true | _ => false
    if v % 4 = 3 ∨ (bit v 2 ∧ (¬ autoAllowed d ∨ flag s F.PWR_DOM_CTL.AUTO 0 d)) then s
    else if cancel ∧ v % 4 = 0 then
      let s := onPwr (endPhase s d) fun x => { x with heldWrites := tdel x.heldWrites d, demands := ndel x.demands d }
      domStatus (fset (fset s F.PWR_DOM_CTL.TARGET 0 0 d) F.PWR_DOM_CTL.AUTO (v / 4 % 2) 0 d) d .ok
    else onPwr s fun x => { x with heldWrites := tset x.heldWrites d v }

/-- PWR_DOM_CTL_WRITE. -/
def execPwrDomCtlWrite (d v : Nat) (s : State) : Out :=
  if 50 ≤ d then .next s else busWrite s .PWR_DOM_CTL 0 d fun s => domCtlWrite s d v

/-- What follows the end of a transition: a held write is applied, then a demand that waits is served. -/
def domSettled (s : State) (d : Nat) : State :=
  let s := match tget s.pwr.heldWrites d with
    | some v => domApply (onPwr s fun x => { x with heldWrites := tdel x.heldWrites d }) d v
    | none => s
  if d ∈ s.pwr.demands then demand (onPwr s fun x => { x with demands := ndel x.demands d }) d else s

/-- A way of a quadrant holds a dirty line. -/
def quadDirty (s : State) (q : Nat) : Bool := s.mem.ways.any fun e => decide (e.1 / 16384 / 8 = q) && e.2.dirty

/-- The front end and what stands with it are idle (R512). -/
def fexIdle (s : State) : Bool :=
  (s.fe.queues.all fun e => match e.2.state with | .idle | .stopped | .killed => (e.2.entries.all fun x => decide (e.2.stoppedAt = some x.seq) || unstarted x) | _ => false)
  && (s.fe.queues.all fun e => decide (runNow e.2 = [] ∧ (e.2.owed = [] ∨ e.2.state = .stopped)))
  && s.fe.tasks.isEmpty && s.fe.launches.isEmpty && s.fe.gops.isEmpty && s.fe.teardowns.isEmpty && s.seq.runs.isEmpty && !(chan s 4).full

/-- The quiesce condition of a domain for a target state (R512). -/
def quiesced (s : State) (d target : Nat) : Bool :=
  if d < 16 then (s.sc.blocks.all fun e => decide (e.2.core / 8 ≠ d)) && (unitTiles s d).isEmpty
    && ((List.range 16).all fun b => decide (fget s F.FOL_BANK.OWNER d b = 0) && !flag s F.FOL_BANK.PENDING d b)
    && decide (target ≤ domNow s (16 + d))
  else if d < 32 then s.sc.blocks.all fun e => match e.2.engine with | some x => decide (x / 4 ≠ d - 16) | none => true
  else if d < 36 then (s.mem.misses.all fun m => decide (paSlice (m.la * 128) / 8 ≠ d - 32)) && (decide (target = 1) || !quadDirty s (d - 32))
  else if d < 40 then !stackBusy s (d - 36) && (decide (target = 2) || (stackOf s (d - 36)).selfRefresh)
  else if d = 40 then s.gfx.passes.isEmpty
  else if d = 41 then fexIdle s
  else if d = 42 then (List.range 8).all fun x => !streamOn s x
  else if d = 43 then s.fe.tasks.all fun e => decide (e.2.eng ≠ .press) || e.2.live.isEmpty
  else if d < 48 then decide (linkState s (d - 44) = 0)
  else decide (uapState s (d - 48) = 0 ∨ uapState s (d - 48) = 4)

/-- DOMAIN_QUIESCED (R512, R513): the down transition goes on, and the domain's pads latch. -/
def execDomainQuiesced (d : Nat) (s : State) : Out :=
  powered s (match domPhase s d with
    | some (.quiescing t) => if quiesced s d t then latchPads (setPhase s d (.falling t)) d else s
    | _ => s)

/-- What a domain holds, the micro-caches of its engines included (12 R365), is lost when it goes OFF. Registers held in the AON domain stay, and so do those of FEX, its queues, objects and
slots (log 29). -/
def domLose (s : State) (d : Nat) : State :=
  let s := onXlt s fun x => { x with micro := x.micro.filter fun e => engineDomain e.1 ≠ d }
  let s := if d = 41 then s else keepRegs s fun r w i => decide (r.domain w i ≠ some d)
  if d < 16 then (upFrom (8 * d) 8).foldl coreClear s
  else if d < 32 then (upFrom (4 * (d - 16)) 4).foldl (fun s e => onEngine s e fun _ => {}) s
  else if d < 36 then onMem s fun m => { m with ways := m.ways.filter fun e => e.1 / 16384 / 8 ≠ d - 32 }
  else if d < 40 then onMem s fun m => { m with
    hbm := m.hbm.filter fun c => paStack c.1 ≠ d - 36
    badCheck := m.badCheck.filter fun l => paStack (l * 128) ≠ d - 36
    poisoned := m.poisoned.filter fun l => paStack (l * 128) ≠ d - 36
    stackTbl := tdel m.stackTbl (d - 36) }
  else if d = 41 then onXlt s fun x => { x with tc := [], walks := [], atsWait := [] }
  else if d = 42 then { s with dsp := {} }
  else if 48 ≤ d then onPort s (d - 48) fun x => { waking := x.waking }
  else s

/-- The state that other registers show of a domain. -/
def domViews (s : State) (d : Nat) : State :=
  let now := domNow s d
  if d < 16 then (List.range 16).foldl (fun s b => bankPower s d b (fget s F.FOL_BANK.PSTATE d b)) s
  else if 32 ≤ d ∧ d < 36 then (upFrom (8 * (d - 32)) 8).foldl (fun s k => fset s F.L2_SLICE_STATUS.STATE (if now = 0 then 0 else if now = 1 then 3 else 2) 0 k) s
  else if 36 ≤ d ∧ d < 40 then
    fset s F.MEM_STACK_STATUS.STATE (if now ≠ 0 then 2 else if (stackOf s (d - 36)).selfRefresh then 1 else 0) 0 (d - 36)
  else s

/-- A domain takes state t at the end of a down transition. FEX leaving ON resets the scheduler's end of channel 4 (17 R501). -/
def domDown (s : State) (d t : Nat) : State :=
  let s := domStatus (fset (endPhase s d) F.PWR_DOM_CTL.NOW t 0 d) d .ok
  let s := if t = 2 then domLose s d else s
  let s := domViews s d
  if d = 41 then chReset s 4 else s

/-- DOMAIN_DOWN_DONE (R513 step 5). -/
def execDomainDownDone (d : Nat) (s : State) : Out :=
  powered s (match domPhase s d with
    | some (.falling t) => domSettled (domDown s d t) d
    | _ => s)

/-- POWER_GOOD_RISE (R513): the initialisation of R509 begins; a quadrant that was OFF invalidates (11 R332), a stack that was OFF trains. -/
def execPowerGoodRise (d : Nat) (s : State) : Out :=
  powered s (match domPhase s d with
    | some .ramping =>
      let s := setPhase s d .initialising
      if domNow s d ≠ 2 then s
      else if 32 ≤ d ∧ d < 36 then (upFrom (8 * (d - 32)) 8).foldl (fun s k => fset s F.L2_SLICE_STATUS.STATE 1 0 k) s
      else if 36 ≤ d ∧ d < 40 then fset s F.MEM_STACK_STATUS.STATE 3 0 (d - 36)
      else s
    | _ => s)

/-- POWER_GOOD_TIMEOUT (R515): the domain stays as it was, and a record with LEVEL 0 is written. -/
def execPowerGoodTimeout (d : Nat) (s : State) : Out :=
  powered s (match domPhase s d with
    | some .ramping => domSettled (raiseBare (domStatus (endPhase s d) d .domainOff) 0x12F .domainOff 0 (.system 6 d 0 0)) d
    | _ => s)

/-- Write-backs that waited for a stack's domain go to it (11 R322). -/
def flushParked (s : State) (k : Nat) : State :=
  let go := s.mem.parkedWb.filter fun l => paStack (l.la * 128) = k
  let s := onMem s fun m => { m with parkedWb := m.parkedWb.filter fun l => paStack (l.la * 128) ≠ k }
  go.foldl hbmStore s

/-- A stack whose domain goes ON: while its pads are latched it stays in self-refresh (R516). -/
def stackUp (s : State) (k : Nat) : State :=
  flushParked (if stackPads s k then onMem s fun m => { m with stackTbl := tset m.stackTbl k { stackOf s k with selfRefresh := true } } else s) k

/-- What the contents of a domain do once it is ON. FEX switched ON from OFF clears the reuse table and unbinds its slots
(09 R273). -/
def domWake (s : State) (d : Nat) (wasOff : Bool) : State :=
  if 36 ≤ d ∧ d < 40 then domViews (stackUp s (d - 36)) d
  else if d = 41 then
    let s := fset s F.HIF_RATE_NOW.RATE 0
    if wasOff then (List.range 16).foldl truUnbind s else s
  else if 44 ≤ d ∧ d < 48 then linkTry s (d - 44)
  else if 48 ≤ d then uapTry s (d - 48)
  else domViews s d

/-- A domain is ON. -/
def domUpDone (s : State) (d : Nat) : State :=
  let wasOff := decide (domNow s d = 2)
  domWake (domStatus (fset (endPhase s d) F.PWR_DOM_CTL.NOW 0 0 d) d .ok) d wasOff

/-- A slice of the quadrant is still invalidating. -/
def invalidating (s : State) (d : Nat) : Bool :=
  decide (32 ≤ d ∧ d < 36) && (upFrom (8 * (d - 32)) 8).any fun k => decide (fget s F.L2_SLICE_STATUS.STATE 0 k = 1)

/-- DOMAIN_UP_DONE (R513). -/
def execDomainUpDone (d : Nat) (s : State) : Out :=
  powered s (match domPhase s d with
    | some .initialising => if invalidating s d then s else domSettled (domUpDone s d) d
    | _ => s)

/-- POWER_GOOD_LOST (13 R394, R405): of an ON domain; the cluster of an SHD or ACD domain is recovered, else the die. -/
def execPowerGoodLost (d : Nat) (s : State) : Out :=
  powered s (if 50 ≤ d ∨ ¬ domOn s d then s else
    raise s { time := 0, unit := 0x12F, status := .uncorrectableEcc, level := if d < 32 then 5 else 6, context := none, function := none,
              detail := .system 6 d 0 0, target := some (if d < 32 then 8 * (d % 16) else 0x110) })

/-- AUTO_IDLE_EXPIRY (R515): an AUTO domain has been quiescent for IDLE_US. -/
def execAutoIdleExpiry (d : Nat) (s : State) : Out :=
  powered s (if 50 ≤ d ∨ ¬ flag s F.PWR_DOM_CTL.AUTO 0 d ∨ ¬ domOn s d ∨ (domPhase s d).isSome ∨ fget s F.PWR_AUTO_IDLE.IDLE_US = 0 ∨ ¬ quiesced s d 2
    then s else setPhase s d (.quiescing 2))

/-! ### Pads (R516) -/

/-- The domain of bit b of PWR_PAD_RELEASE. -/
def padDomain (b : Nat) : Nat := if b < 4 then 44 + b else if b < 6 then 48 + (b - 4) else 36 + (b - 6)

/-- Bits of a written PWR_PAD_RELEASE that release pads: those of domains that are ON. -/
def padBits (s : State) (v : Nat) : List Nat := (List.range 10).filter fun b => bit v b && domOn s (padDomain b)

/-- PWR_PAD_RELEASE takes a write: links and ports that waited go on. -/
def padRelease (s : State) (v : Nat) : State :=
  let l := padBits s v
  let s := rset s .PWR_PAD_RELEASE (l.foldl (fun x b => without x (2 ^ b)) (rget s .PWR_PAD_RELEASE))
  l.foldl (fun s b => if b < 4 then linkTry s b else if b < 6 then uapTry s (b - 4) else s) s

/-- PWR_PAD_RELEASE_WRITE. -/
def execPwrPadReleaseWrite (v : Nat) (s : State) : Out := busWrite s .PWR_PAD_RELEASE 0 0 fun s => padRelease s v

/-! ### Sillage (R517 to R521) -/

/-- State code of R517. -/
def sillage (s : State) : Nat := fget s F.PWR_SILLAGE.STATE

/-- An entry is refused (R518). -/
def sillageRefused (s : State) : Bool :=
  ((List.range 50).any fun d => !(decide (36 ≤ d ∧ d < 40)) && (domOn s d || flag s F.PWR_DOM_CTL.PENDING 0 d)) || !fwRunning s || s.pwr.wakeSeen

/-- Each stack enters self-refresh and its domain starts for RETENTION (R519 step 2). -/
def stacksDown (s : State) : State :=
  (List.range 4).foldl (fun s k =>
    if domOn s (36 + k) then
      let s := onMem s fun m => { m with stackTbl := tset m.stackTbl k { stackOf s k with selfRefresh := true } }
      setPhase (fset (fset s F.MEM_STACK_STATUS.STATE 1 0 k) F.PWR_DOM_CTL.TARGET 1 0 (36 + k)) (36 + k) (.quiescing 1)
    else s) s

/-- ENTER is written while the device runs. -/
def sillageEnter (s : State) : State :=
  if sillage s ≠ 0 then s
  else if sillageRefused s then onPwr (fset s F.PWR_SILLAGE.REFUSED 1) fun p => { p with wakeSeen := false }
  else stacksDown (fset (onPwr s fun p => { p with wakeSeen := false, hpdAtEntry := s.boot.hpd }) F.PWR_SILLAGE.STATE 1)

/-- SILLAGE_ENTER: a write of v with ENTER set; its other fields are stored as those of any write. -/
def execSillageEnter (v : Nat) (s : State) : Out :=
  busWrite s .PWR_SILLAGE 0 0 fun s =>
    let new := Reg.written .PWR_SILLAGE (rget s .PWR_SILLAGE) v (2 ^ 31 - 1)
    if ¬ Reg.inRange .PWR_SILLAGE new then s else sillageEnter (rset s .PWR_SILLAGE new)

/-- No stack domain is ON or in a transition. -/
def stacksRest (s : State) : Bool := (List.range 4).all fun k => !domOn s (36 + k) && (domPhase s (36 + k)).isNone

/-- SILLAGE_ENTRY_DONE (R519 steps 3, 4). -/
def execSillageEntryDone (s : State) : Out :=
  powered s (if sillage s ≠ 1 ∨ ¬ stacksRest s then s else
    let s := fset s F.PWR_VDD.TARGET_MV 550
    let s := if flag s F.INT_HOLD.FAN then s else fset s F.PWR_FAN.DUTY (fget s F.PWR_SILLAGE.FAN_DUTY)
    let s := fset (fset s F.PWR_SILLAGE.STATE 2) F.PWR_WAKE_CAUSE.SAMPLES 0
    onPwr s fun p => { p with ccxHalted := true, sillageAt := s.time })

/-- The lowest output whose sampled HPD differs from its level at entry, with no edge reported. -/
def hpdDiffers (s : State) (hpd : List Nat) : Option Nat :=
  (List.range 4).find? fun n => decide (n ∈ hpd) != decide (n ∈ s.pwr.hpdAtEntry) && decide (n ∈ s.boot.hpd ↔ n ∈ s.pwr.hpdAtEntry)

/-- SILLAGE_SAMPLE (R520): hottest junction and stack in °C, fan speed in revolutions per minute, outputs whose HPD is high. -/
def execSillageSample (tj stack tach : Nat) (hpd : List Nat) (s : State) : Out :=
  powered s (if sillage s ≠ 2 ∨ failsafe s ∨ s.time < s.pwr.sillageAt ∨ (s.time - s.pwr.sillageAt) % (1000000 * fget s F.PWR_SILLAGE.INTERVAL_MS) ≠ 0 then s else
    let s := fcount s F.PWR_WAKE_CAUSE.SAMPLES
    if 105 < tj then failsafeEnter s 7
    else if fget s F.PWR_SILLAGE.TEMP_WAKE ≤ Nat.max tj stack then wakeReport s 4 0
    else if tach < 300 ∧ fget s F.PWR_SILLAGE.FAN_DUTY ≠ 0 then wakeReport s 5 0
    else match hpdDiffers s hpd with
      | some n => wakeReport (hpdSet s n (decide (n ∈ hpd))) 3 n
      | none => s)

/-- Firmware brings a stack's domain ON, releases its pads, and the stack leaves self-refresh (R521 step 4). -/
def stackResume (s : State) (k : Nat) : State :=
  let s := fset (endPhase s (36 + k)) F.PWR_PAD_RELEASE.HBM (without (fget s F.PWR_PAD_RELEASE.HBM) (2 ^ k))
  let s := domStatus (domSet s (36 + k) 0) (36 + k) .ok
  let s := onMem s fun m => { m with stackTbl := tset m.stackTbl k { stackOf s k with selfRefresh := false } }
  fset (flushParked s k) F.MEM_STACK_STATUS.STATE 0 0 k

/-- WAKE_SEQUENCE_DONE (R521 steps 2 to 4). -/
def execWakeSequenceDone (s : State) : Out :=
  powered s (if sillage s ≠ 3 ∨ failsafe s then s else
    let s := fset (onPwr s fun p => { p with ccxHalted := false }) F.PWR_VDD.TARGET_MV s.pwr.loopTarget
    fset ((List.range 4).foldl stackResume s) F.PWR_SILLAGE.STATE 0)

/-! ### The loops (R522 to R526) -/

/-- The set-point that the table of R523 gives, before the limits of R522. -/
def loopStep (s : State) (v : Nat) : Nat :=
  let p := fget s F.PWR_TELEM.POWER_W
  let lim := fget s F.PWR_LIMIT.P_LIMIT
  if fget s F.PWR_LIMIT.T_THROTTLE ≤ fget s F.PWR_TELEM.TJ_MAX then v - 25
  else if fget s F.PWR_LIMIT.ICC_MAX - 20 < fget s F.PWR_TELEM.CURRENT_A ∨ lim < p then
    v - Nat.max 5 (Nat.min 25 (5 * ((p - lim + 3) / 4)))
  else if p < lim - 10 then v + 5
  else v

/-- POWER_LOOP_PERIOD (R523, 17 R495): the Power component reads HIF_RATE_MIN and moves the set-point; THROTTLE is sent at the first
period whose set-point lies below V_MAX. logs are the records that firmware writes. -/
def execPowerLoopPeriod (logs : List LogMsg) (s : State) : Out :=
  powered s (if ¬ fwActive s ∨ sillage s ≠ 0 then s else
    let s := readClears s .HIF_RATE_MIN
    let vmax := fget s F.PWR_LIMIT.V_MAX
    let v := Nat.max 550 (Nat.min vmax (loopStep s (fget s F.PWR_VDD.TARGET_MV)))
    let low : Bool := decide (v < vmax)
    let first : Bool := low && !s.pwr.throttled
    let s := fset (onPwr s fun p => { p with loopTarget := v, throttled := low }) F.PWR_VDD.TARGET_MV v
    logAll (if first then notice s 1 1 v else s) logs)

/-- Fan duty in 1/D % at a temperature, with D = T_THROTTLE − 50 (R526). -/
def fanLine (fanMin throttle t : Nat) : Nat :=
  if t ≤ 50 then fanMin * (throttle - 50)
  else if throttle ≤ t then 100 * (throttle - 50)
  else fanMin * (throttle - 50) + (100 - fanMin) * (t - 50)

/-- Hottest sensor in °C. -/
def hottest (s : State) : Nat := Nat.max (fget s F.PWR_TELEM.TJ_MAX) (fget s F.PWR_TELEM.STACK_MAX)

/-- The Thermal component sets the duty of R526, unless a fan hold overrides it (13 R409). The line's fraction of a percent is rounded
down or up (log 30). -/
def fanSet (s : State) : State :=
    if flag s F.INT_HOLD.FAN then s else
    let d := fget s F.PWR_LIMIT.T_THROTTLE - 50
    let n := fanLine (fget s F.PWR_FAN.FAN_MIN) (fget s F.PWR_LIMIT.T_THROTTLE) (hottest s)
    if n % d = 0 then fset s F.PWR_FAN.DUTY (n / d)
    else
      let r := takeFree s 2
      fset r.2 F.PWR_FAN.DUTY (n / d + r.1)

/-- THERMAL_LOOP_PERIOD (R526): warn and fanFault say that firmware sends THERMAL_WARN or FAN_FAULT (17 R505), logs are the records
that it writes. -/
def execThermalLoopPeriod (warn fanFault : Bool) (logs : List LogMsg) (s : State) : Out :=
  powered s (if ¬ fwActive s ∨ sillage s ≠ 0 then s else
    let s := fanSet s
    let s := if warn then notice s 2 2 (hottest s) else s
    let s := if fanFault then notice s 2 3 (fget s F.PWR_FAN.TACH / 16) else s
    logAll s logs)

/-- VDD_FAST_TRIP (R524): a 1 µs window showed rail current above ICC_MAX. -/
def execVddFastTrip (amps : Nat) (s : State) : Out :=
  powered s (if s.time = 0 ∨ s.time % 1000 ≠ 0 ∨ amps ≤ fget s F.PWR_LIMIT.ICC_MAX then s else
    fset (fcount s F.PWR_VDD.FAST_TRIPS) F.PWR_VDD.TARGET_MV (Nat.max 550 (fget s F.PWR_VDD.TARGET_MV - 25)))

/-- A field takes a measurement, at most what it can hold. -/
def measure (s : State) (f : Fld) (v : Nat) (i : Nat := 0) : State := fset s f (Nat.min v (2 ^ (f.hi + 1 - f.lo) - 1)) 0 i

/-- TELEMETRY_WINDOW (R525): W, A, mV, hottest junction in °C, the temperature of each stack, fan speed. -/
def execTelemetryWindow (power current mv tj : Nat) (temps : List Nat) (tach : Nat) (s : State) : Out :=
  powered s (if s.time = 0 ∨ s.time % 1000 ≠ 0 then s else
    let s := measure (measure s F.PWR_TELEM.POWER_W power) F.PWR_TELEM.CURRENT_A current
    let s := measure (measure s F.PWR_TELEM.VDD_MV mv) F.PWR_TELEM.TJ_MAX tj
    let s := measure (measure s F.PWR_TELEM.STACK_MAX (maxD (temps.take 4))) F.PWR_VDD.MEASURED_MV mv
    let s := (temps.take 4).zipIdx.foldl (fun s x => measure s F.MEM_STACK_STATUS.TEMP x.1 x.2) s
    measure s F.PWR_FAN.TACH tach)

/-- A PWR_LIMIT value lies in range (R527). -/
def limitOk (s : State) (v : Nat) : Bool :=
  decide (100 ≤ bits v 47 38 ∧ bits v 47 38 ≤ (if fget s F.BOOT_STATUS.RESULT = 1 then Nat.min 600 s.boot.image.pLimitMax else 600))
  && decide (550 ≤ bits v 37 28 ∧ bits v 37 28 ≤ 900 ∧ bits v 37 28 % 5 = 0)
  && decide (100 ≤ bits v 27 18 ∧ bits v 27 18 ≤ 520) && decide (60 ≤ bits v 17 11 ∧ bits v 17 11 ≤ 100)

/-- PWR_LIMIT, or PWR_FAN, takes a value. -/
def limitStore (s : State) (fan : Bool) (v words : Nat) : State :=
  if fan then rset s .PWR_FAN (Reg.written .PWR_FAN (rget s .PWR_FAN) v words)
  else
    let new := Reg.written .PWR_LIMIT (rget s .PWR_LIMIT) v words
    if limitOk s new then rset s .PWR_LIMIT new else s

/-- A host write to PWR_LIMIT or PWR_FAN (R528): locked while firmware is RUNNING. -/
def limitWrite (s : State) (fan : Bool) (v words : Nat) : State := if fwRunning s then s else limitStore s fan v words

/-- PWR_LIMIT_WRITE: fan says that PWR_FAN is written. -/
def execPwrLimitWrite (fan : Bool) (v : Nat) (s : State) : Out :=
  busWrite s (if fan then .PWR_FAN else .PWR_LIMIT) 0 0 fun s => limitWrite s fan v (2 ^ 64 - 1)

end Sys2Proof.Machine
end

