-- ==== Sys2Proof/Machine/Ccx.lean ====
section
/-!
DEFINITION. Machine/Ccx.lean: mailboxes, loading firmware, basic-level commands, the log ring, and the Scheduler and Liaison
components (17).
-/

namespace Sys2Proof.Machine

/-! ### Channels (R496 to R501) -/

/-- What the storing of a word on a channel brings: a wake event (18 R521), a demand for FEX (18 R515). -/
def wordStored (s : State) (c : Nat) : State :=
  if c = 0 ∨ c = 6 ∨ (8 ≤ c ∧ c < 24) then wakeReport s 6 0
  else if c = 4 then demand s 41
  else s

/-- A sender write, with what its storing brings. -/
def chStore (s : State) (c word : Nat) : State :=
  let free : Bool := !(chan s c).full && chReceiverOn s c
  let s := chSend s c (word % 2 ^ 32)
  if free then wordStored s c else s

/-- What a core has written to its protection entries before an access of its own. -/
def coreSetup (s : State) (core : Option Nat) (a : CoreAccess) : State :=
  match core with | some k => a.pmp.foldl (pmpWrite k) s | none => s

/-- The access is a core's and its protection refuses it (R488). -/
def coreRefused (s : State) (core : Option Nat) (c : Nat) (a : CoreAccess) (write : Bool) : Bool :=
  match core with | some k => !chAllows s k c a.user write | none => false

/-- MAILBOX_SEND (R499 to R501): on channel 0 and 8 to 23 the sender is the host through its register; the others are hardware or
firmware, whose access passes the core's protection (R488). -/
def execMailboxSend (c word : Nat) (a : CoreAccess) (s : State) : Out :=
  if 32 ≤ c then .next s
  else match chHost c with
    | some f => busWrite s (if c = 0 then .MBX_TX0 else .MBX_CMD) f 0 fun s => if fnExists s f then chStore s c word else s
    | none => powered s (
        let s := coreSetup s (chSender c) a
        if coreRefused s (chSender c) c a true then s else chStore s c word)

/-- The kept notices of a component: the first goes to its emptied channel. -/
def sendKept (s : State) (c : Nat) : State :=
  match s.ccx.notices.find? fun n => n.1 = c with
  | none => s
  | some n => chSend (onCcx s fun x => { x with notices := x.notices.erase n }) (24 + c) (n.2.1 <<< 24 + n.2.2 % 2 ^ 24)

/-- The scheduler in FEX takes a word of channel 4: the queue's next entry is handed to the front end (R496). -/
def handed (s : State) (i : Nat) : State :=
  match queueAt s i with
  | some q => if q.cls ≠ 0 ∧ q.state = .active ∧ ¬ q.resident ∧ q.fetch % 2 ^ 32 ≠ q.shadow then fetchOne s i else s
  | none => s

/-- What the recovery sequencer does with a word of channel 5 (R497): 1 requests fail-safe, 2 package-level recovery. -/
def sequencerWord (s : State) (word : Nat) : State :=
  match word with
  | 1 => failsafeEnter s 10
  | 2 => packageRecover s
  | _ => s

/-- What follows a receiver read that emptied a channel: the sender's next word, or what the receiver does. -/
def wordTaken (s : State) (c word : Nat) : State :=
  if c = 2 then notifyLiaison s
  else if c = 5 then sequencerWord s word
  else if c = 3 then notifyScheduler (onCcx s fun x => { x with ready := nins x.ready (word % 2 ^ 14) })
  else if c = 4 then handed s (word % 2 ^ 14)
  else if 24 ≤ c then sendKept s (c - 24)
  else s

/-- A receiver read of a channel: the word, and the state. -/
def chTake (s : State) (c : Nat) : Nat × State :=
  if ¬ (chan s c).full ∨ ¬ chReceiverOn s c then (0, s)
  else
    let r := chRead s c
    (r.1, wordTaken r.2 c r.1)

/-- The host reads the data of channel 1 or 24 to 31. -/
def hostTake (s : State) (c : Nat) : State :=
  let r := chTake s c
  send r.2 (.completion (natLe r.1 4) false)

/-- MAILBOX_RECEIVE_READ (R499). -/
def execMailboxReceiveRead (c : Nat) (a : CoreAccess) (s : State) : Out :=
  if 32 ≤ c then .next s
  else if c = 1 ∨ 24 ≤ c then powered s (if failsafe s ∨ recoveryId s then s else hostTake s c)
  else powered s (
    let s := coreSetup s (chReceiver c) a
    if (failsafe s ∧ c = 4) ∨ coreRefused s (chReceiver c) c a false then s else (chTake s c).2)

/-! ### Loading firmware (R490 to R493) -/

/-- SEGMENT[k] of a header: SRAM offset and length. -/
def fwSegment (h : List Byte) (k : Nat) : Nat × Nat := (fieldAt h (48 + 8 * k) 4, fieldAt h (52 + 8 * k) 4)

/-- The segments a header names. -/
def fwSegments (h : List Byte) : List (Nat × Nat) := (List.range (fieldAt h 6 2)).map (fwSegment h)

/-- All bytes of a stretch are 0. -/
def allZero (l : List Byte) : Bool := l.all fun b => decide (b = 0)

/-- MAGIC, FORMAT, SEGMENTS, a RSVD field or an ENTRY is invalid: REASON 1. -/
def fwHeaderBad (h : List Byte) : Bool :=
  !(decide ((h.take 4).map BitVec.toNat = [0x41, 0x54, 0x46, 0x57]) && decide (fieldAt h 4 2 = 1)
    && decide (1 ≤ fieldAt h 6 2 ∧ fieldAt h 6 2 ≤ 16) && allZero ((h.drop 12).take 4) && allZero ((h.drop 273).take 47)
    && allZero ((h.drop 416).take 96) && ((List.range 4).all fun k => decide (fieldAt h (16 + 8 * k) 8 % 4 = 0 ∧ fieldAt h (16 + 8 * k) 8 < 0x20_0000)))

/-- A segment is out of range or overlaps another: REASON 2. -/
def fwSegmentsBad (h : List Byte) : Bool :=
  let l := fwSegments h
  (l.any fun x => decide (x.1 % 4096 ≠ 0 ∨ x.2 < 8 ∨ 2031616 < x.2 ∨ x.2 % 8 ≠ 0 ∨ 0x1F_0000 < x.1 + x.2))
  || (l.zipIdx.any fun a => l.zipIdx.any fun b => decide (a.2 < b.2) && rangesMeet a.1.1 a.1.2 b.1.1 b.1.2)
  || !allZero ((h.drop (48 + 8 * fieldAt h 6 2)).take (8 * (16 - fieldAt h 6 2)))

/-- Segments are read into SRAM one after another (R492 step 3); none where a read ends in error. -/
def readSegments : Nat → List (Nat × Nat) → State → Option State
  | _, [], s => some s
  | a, x :: t, s =>
    let e := hostLines s a x.2
    if e.1 then none
    else readSegments (a + x.2) t (onCcx e.2 fun c => { c with sram := mwrite 0 c.sram x.1 (hostRead s a x.2) })

/-- The reply on channel 1 (R493). -/
def loadReply (s : State) (tag reason : Nat) (st : Status) : State :=
  chSend s 1 (0x01 <<< 24 + tag <<< 16 + Status.code st <<< 8 + reason)

/-- PUBKEY and SIGNATURE of a header (R491). -/
def fwKey (h : List Byte) : List Byte := (h.drop 176).take 97
def fwSignature (h : List Byte) : List Byte := (h.drop 320).take 96

/-- The SHA-384 of the signed message: header bytes 0 to 319, then every segment's data in order (R491). -/
def fwDigest (s : State) (a : Nat) (h : List Byte) : List Byte :=
  sha384 (h.take 320 ++ hostRead s (a + 512) ((fwSegments h).map Prod.snd).sum)

/-- Steps 1 to 3 of R492. The first failure is kept. -/
def loadSteps (s : State) : State :=
  let a := rget s .CCX_FW_ADDR
  let fail (s : State) (r : Nat) (st : Status) : State := onCcx s fun x => { x with loadFail := some (r, st) }
  let e := hostLines s a 512
  let s := e.2
  let h := hostRead s a 512
  let s := onCcx s fun x => { x with loadHeader := h, loadFail := none }
  if e.1 then fail s 6 .integrityMismatch
  else if fwHeaderBad h then fail s 1 .badOpcode
  else if fwSegmentsBad h then fail s 2 .lengthRange
  else if sha384 (fwKey h) ≠ s.boot.image.keyHash then fail s 3 .permission
  else match readSegments (a + 512) (fwSegments h) s with
    | some t => onCcx t fun x => { x with loadDigest := fwDigest s a h }
    | none => fail s 6 .integrityMismatch

/-- FW_LOAD (R492, R493): the word of channel 0 is taken; while CCX_FW_STATE is not NONE it is answered with reason 7. -/
def execFwLoad (s : State) : Out :=
  let w := (chan s 0).word
  powered s (if failsafe s ∨ recoveryId s ∨ ¬ (chan s 0).full ∨ bits w 31 24 ≠ 1 then s else
    let s := (chTake s 0).2
    let tag := bits w 23 16
    if fget s F.CCX_FW_STATE.STATE ≠ 0 then loadReply s tag 7 .permission
    else loadSteps (fset (onCcx s fun x => { x with loading := some tag }) F.CCX_FW_STATE.STATE 1))

/-- What a load ends with: REASON and STATUS (R493). -/
def loadResult (s : State) : Nat × Status :=
  match s.ccx.loadFail with
  | some x => x
  | none =>
    if ¬ ecdsaOk (fwKey s.ccx.loadHeader) s.ccx.loadDigest (fwSignature s.ccx.loadHeader) then (4, .permission)
    else if fieldAt s.ccx.loadHeader 8 4 < s.boot.image.minVersion then (5, .permission)
    else (0, .ok)

/-- Firmware starts (R492 step 6): every core at its ENTRY, the log from SEQ 0 (R503). The watchdog periods that Atelier then writes
are not stated (log 31). -/
def fwStart (s : State) : State :=
  let h := s.ccx.loadHeader
  let w := (List.range 4).foldl (fun (x : List Nat × State) _ => let r := takeFree x.2 65536; (x.1 ++ [r.1], r.2)) (([] : List Nat), s)
  let s := onCcx w.2 fun x => { x with
    entry := (List.range 4).map fun k => fieldAt h (16 + 8 * k) 8
    version := fieldAt h 8 4
    wdog := w.1 }
  let s := (List.range 4).foldl (fun s c => fset s F.CCX_CORE_STATUS.MODE 1 0 c) s
  fset (fset s F.CCX_LOG_PI.PI 0) F.CCX_FW_STATE.STATE 2

/-- A failed load leaves SRAM below 0x001F_0000 zero, and the state NONE. -/
def fwAbandon (s : State) : State :=
  fset (onCcx s fun x => { x with sram := x.sram.filter fun c => decide (0x1F_0000 ≤ c.1) }) F.CCX_FW_STATE.STATE 0

/-- FW_LOAD_DONE (R492 steps 4 to 7, R493). -/
def execFwLoadDone (s : State) : Out :=
  powered s (match s.ccx.loading with
    | none => s
    | some tag =>
      if failsafe s then s else
      let r := loadResult s
      let s := onCcx s fun x => { x with loading := none, loadFail := none }
      loadReply (if r.1 = 0 then fwStart s else fwAbandon s) tag r.1 r.2)

/-! ### State faults (R487, R494) -/

/-- CCX_WATCHDOG_EXPIRY (R494): Atelier has not written CCX_WDOG of core c within its period. -/
def execCcxWatchdogExpiry (c : Nat) (s : State) : Out :=
  powered s (if 4 ≤ c ∨ ¬ fwActive s ∨ s.ccx.wdog.getD c 0 = 0 then s else raiseBare s (0x128 + c) .watchdog 3 .none)

/-- CCX_SRAM_ECC_ERROR (R487): a corrected error is counted; an uncorrectable one is a state fault of core c. -/
def execCcxSramEccError (c : Nat) (corrected : Bool) (s : State) : Out :=
  powered s (if 4 ≤ c then s
    else if corrected then fcount s F.CCX_SRAM_ECC.CORRECTED
    else raise s { time := 0, unit := 0x128 + c, status := .uncorrectableEcc, level := 3, context := none, function := none,
                   detail := .memory 0 8 0xFF 0xFF 0xFF 0xFFFF 0xFFFF 0 0, fwLost := true })

/-! ### Basic-level commands (R502, R507, R508) -/

/-- The first waiting channel of 8 to 23 after the one last served. -/
def nextChannel (s : State) : Option Nat :=
  ((List.range 16).map fun k => 8 + (s.ccx.lastServed - 8 + 1 + k) % 16).find? fun c => (chan s c).full

/-- BASIC_COMMAND_TAKE (R502). -/
def execBasicCommandTake (s : State) : Out :=
  powered s (if ¬ fwActive s ∨ s.ccx.cmd.isSome then s
    else match nextChannel s with
      | none => s
      | some c =>
        let f := c - 8
        let r := chTake s c
        let a := fget r.2 F.CCX_CMD_BASE.BASE f * 1024 + 64 * (r.1 % 16)
        let e := hostLines r.2 a 64
        let b : BasicCmd := { fn := f, word := r.1, record := hostRead e.2 a 64, lost := e.1 }
        onCcx e.2 fun x => { x with lastServed := c, cmd := some b })

/-- The record with the result in it (R502). -/
def resultRecord (b : BasicCmd) (r : Nat × Status) : List Byte :=
  natLe r.1 8 ++ natLe (Status.code r.2) 1 ++ natLe 1 1 ++ natLe (bits b.word 23 16) 1 ++ natLe (bits b.word 31 24) 1

/-- The command's vector. -/
def basicVector (s : State) (f : Nat) : State :=
  if flag s F.CCX_CMD_IRQ.EN f then msixRaise s f (fget s F.CCX_CMD_IRQ.VECTOR f) else s

/-- BASIC_COMMAND_DONE (R502): the result goes to the record, then the vector; logs are the records that firmware writes. -/
def execBasicCommandDone (logs : List LogMsg) (s : State) : Out :=
  powered s (match s.ccx.cmd with
    | none => s
    | some b =>
      if ¬ fwActive s then s else
      let s' := onCcx s fun x => { x with cmd := none }
      if b.lost then basicVector (fset (logAll s' logs) F.MBX_CMD_STATUS.ERR 1 b.fn) b.fn
      else match b.result with
        | none => s
        | some r =>
          let a := fget s' F.CCX_CMD_BASE.BASE b.fn * 1024 + 64 * (b.word % 16) + 48
          basicVector (hostWrite (logAll s' logs) a (resultRecord b r)) b.fn)

/-- The command in progress ends. -/
def basicEnd (s : State) (result : Nat) (st : Status) : State :=
  onCcx s fun x => { x with cmd := x.cmd.map fun b => { b with result := some (result, st) } }

/-- The command in progress has opcode op and has not ended. -/
def basicNow (s : State) (op : Nat) : Option BasicCmd :=
  match s.ccx.cmd with
  | some b => if fwActive s ∧ b.result.isNone ∧ ¬ b.lost ∧ bits b.word 31 24 = op then some b else none
  | none => none

/-- A command with opcode op runs: k gives its status and what it does; from a VF it ends with PERMISSION (R507). -/
def basicRun (op : Nat) (k : BasicCmd → State → Status × State) (s : State) : Out :=
  powered s (match basicNow s op with
    | none => s
    | some b =>
      if b.fn ≠ 0 then basicEnd s 0 .permission
      else
        let r := k b s
        basicEnd r.2 0 r.1)

/-- DEFAULTS of a record. -/
def BasicCmd.defaults (b : BasicCmd) : Bool := bit (byteAt b.record 47) 0

/-- The opcodes of R507 that channels 8 to 23 accept. -/
def basicOpcodes : List Nat :=
  [0x02, 0x03] ++ upFrom 0x10 15 ++ [0x20, 0x30]

/-- BASIC_UNDEFINED_OPCODE (R507): an opcode not listed, and FW_LOAD on channels 8 to 23. -/
def execBasicUndefinedOpcode (s : State) : Out :=
  powered s (match s.ccx.cmd with
    | some b => if fwActive s ∧ b.result.isNone ∧ ¬ b.lost ∧ bits b.word 31 24 ∉ basicOpcodes then basicEnd s 0 .badOpcode else s
    | none => s)

/-- FW_INFO (R508): any function. Cores running: those in no recovery and not in the boot ROM. -/
def execFwInfo (s : State) : Out :=
  powered s (match basicNow s 0x02 with
    | none => s
    | some _ =>
      let cores := (List.range 4).countP fun c => fget s F.CCX_CORE_STATUS.MODE 0 c = 1 ∨ fget s F.CCX_CORE_STATUS.MODE 0 c = 3
      basicEnd s (s.ccx.version % 2 ^ 32 + fget s F.CCX_FW_STATE.STATE <<< 32 + cores <<< 40) .ok)

/-- LOG_CONFIG (R508). -/
def logConfig (b : BasicCmd) (s : State) : Status × State :=
  let base := if b.defaults then rget s .CCX_LOG_BASE else fieldAt b.record 0 8
  let level := if b.defaults then 1 else byteAt b.record 8 % 4
  if base / 2 ^ 20 = 0 then (.badAlignment, s)
  else
    let s := rset s .CCX_LOG_BASE base
    let s := fset s F.CCX_LOG_CTL.LEVEL_MAX level
    let s := fset s F.CCX_LOG_CTL.EN 1
    (.ok, (List.range 8).foldl (fun s k => rset s .CCX_TRACE_EN (if b.defaults then 0 else fieldAt b.record (12 + 4 * k) 4) 0 k) s)

/-- LOG_CONFIG. -/
def execLogConfig (s : State) : Out := basicRun 0x03 logConfig s

/-! ### Scheduler and Liaison (R496, R497) -/

/-- The Scheduler component's queue to hand next: the best-ranked that has an entry to hand, the lowest index on a tie. -/
def pickQueue (s : State) : Option Nat :=
  let l := s.ccx.ready.filter fun i => match queueAt s i with
    | some q => q.cls ≠ 0 ∧ q.state = .active ∧ ¬ q.resident ∧ q.fetch % 2 ^ 32 ≠ q.shadow
    | none => false
  (sortBy (fun i => match queueAt s i with | some q => 16 * (3 - classRank q.cls) + (15 - Nat.min q.prio 15) | none => 0) l).head?

/-- Queues that have nothing left to hand leave the component's list; one that is idle waits for its wake. -/
def readyTrim (s : State) : State :=
  onCcx s fun x => { x with ready := x.ready.filter fun i => match queueAt s i with
    | some q => decide (q.fetch % 2 ^ 32 ≠ q.shadow)
    | none => false }

/-- SCHEDULER_PICKUP (R496): the word of channel 3 is taken, and one queue index goes to channel 4 while that is empty. -/
def execSchedulerPickup (s : State) : Out :=
  powered s (if ¬ fwActive s then s else
    let s := readyTrim (chTake s 3).2
    if (chan s 4).full then s
    else match pickQueue s with
      | none => s
      | some i => chStore s 4 i)

/-- LIAISON_REQUEST (R497): the Liaison writes a word to channel 5, and the recovery sequencer takes it at once. -/
def execLiaisonRequest (v : Nat) (s : State) : Out :=
  powered s (if ¬ fwRunning s then s else (chTake (chSend s 5 (v % 2 ^ 32)) 5).2)

end Sys2Proof.Machine
end

