-- ==== Sys2Proof/Machine/Policies.lean ====
section
/-!
DEFINITION. Machine/Policies.lean: the basic-level commands that write the registers of a chapter (00 R15). Where the spec gives a
command's ARGS no layout, the values written with DEFAULTS clear are free (log 32).
-/

namespace Sys2Proof.Machine

/-- A field of copy (w, i) is written by firmware. -/
def fwField (s : State) (f : Fld) (v : Nat) (w : Nat := 0) (i : Nat := 0) : State :=
  fwGate s f.reg w i fun s => regStore s f.reg w i (setBits (rget s f.reg w i) f.hi f.lo v) f.reg.allBits

/-- A register takes its default, or a value that the spec does not state. -/
def fwChoice (s : State) (r : Reg) (w i : Nat) (dflt : Bool) (v : Nat) : State :=
  if dflt then fwWrite s r w i v
  else
    let x := takeFree s (2 ^ r.place.width)
    fwWrite x.2 r w i x.1

/-- A field takes its default, or a value that the spec does not state. -/
def fwFieldChoice (s : State) (f : Fld) (dflt : Bool) (v : Nat) (w : Nat := 0) (i : Nat := 0) : State :=
  if dflt then fwField s f v w i
  else
    let x := takeFree s (2 ^ (f.hi + 1 - f.lo))
    fwField x.2 f x.1 w i

/-- FE_PART with three counts n and their base b. -/
def partValue (b n : Nat) : Nat := n <<< 42 + b <<< 34 + n <<< 25 + b <<< 17 + n <<< 8 + b

/-- FE_PART[f] is written by firmware. -/
def fwPart (s : State) (f b n : Nat) : State := fwGate s .FE_PART 0 f fun s => fePartWrite s f (partValue b n)

/-- FE_POLICY (02 R36): the VFs get equal ranges, the PF the remainder. The size of a range is not stated. The VFs give up their ranges
first, as R35 asks. -/
def fePolicy (_ : BasicCmd) (s : State) : Status × State :=
  let x := takeFree s 18
  let k := x.1
  let s := (upFrom 1 15).foldl (fun s f => fwPart s f 0 0) x.2
  let s := fwPart s 0 0 (256 - 15 * k)
  (.ok, (upFrom 1 15).foldl (fun s f => fwPart s f (256 - 15 * k + (f - 1) * k) k) s)

/-- FE_POLICY. -/
def execFePolicy (s : State) : Out := basicRun 0x10 fePolicy s

/-- SCH_POLICY (03 R106). The address of the scratch pool is not stated. -/
def schPolicy (b : BasicCmd) (s : State) : Status × State :=
  let d := b.defaults
  let s := fwChoice s .SCH_RESERVE 0 0 d 0
  let s := fwChoice s .SCH_PREEMPT_CTL 0 0 d 512
  let s := fwChoice s .SCH_DL_BUDGET 0 0 d 65536
  let x := takeFree s ((deviceLimit - 2 ^ 26) / 256 + 1)
  let s := fwChoice x.2 .SCH_SCRATCH 0 0 d (1024 <<< 40 + x.1)
  let s := fwFieldChoice s F.SCH_INTF_CTL.EN d 1
  (.ok, fwFieldChoice s F.SCH_INTF_CTL.THRESH d 0x018)

/-- SCH_POLICY. -/
def execSchPolicy (s : State) : Out := basicRun 0x11 schPolicy s

/-- SC_POLICY (04 R144). -/
def scPolicy (b : BasicCmd) (s : State) : Status × State :=
  (.ok, (List.range 16).foldl (fun s f => fwChoice s .SC_PARK_CTL f 0 b.defaults 0x1E) s)

/-- SC_POLICY. -/
def execScPolicy (s : State) : Out := basicRun 0x12 scPolicy s

/-- ACE_POLICY (05 R176). -/
def acePolicy (b : BasicCmd) (s : State) : Status × State := (.ok, fwFieldChoice s F.ACE_CTL.MIN_BANKS b.defaults 2)

/-- ACE_POLICY. -/
def execAcePolicy (s : State) : Out := basicRun 0x13 acePolicy s

/-- COL_POLICY (07 R225). -/
def colPolicy (b : BasicCmd) (s : State) : Status × State := (.ok, fwChoice s .COL_CTL 0 0 b.defaults (32768 <<< 16 + 64))

/-- COL_POLICY. -/
def execColPolicy (s : State) : Out := basicRun 0x14 colPolicy s

/-- RAS_POLICY (08 R266). -/
def rasPolicy (b : BasicCmd) (s : State) : Status × State := (.ok, fwChoice s .RAS_CTL 0 0 b.defaults (4096 <<< 16 + 16))

/-- RAS_POLICY. -/
def execRasPolicy (s : State) : Out := basicRun 0x15 rasPolicy s

/-- TRU_POLICY (09 R287): a slot whose OPEN is 1 keeps its configuration. -/
def truPolicy (b : BasicCmd) (s : State) : Status × State :=
  (.ok, (List.range 16).foldl (fun s k =>
    let x := if b.defaults then (if k < 12 then 1 else 2, s) else takeFree s 256
    fwGate x.2 .TRU_SLOT_CFG 0 k fun s => truSlotCfg s k x.1) s)

/-- TRU_POLICY. -/
def execTruPolicy (s : State) : Out := basicRun 0x16 truPolicy s

/-- SEQ_POLICY (10 R314): fixed values. -/
def seqPolicy (_ : BasicCmd) (s : State) : Status × State :=
  let s := (List.range 16).foldl (fun s f => fwGate s .SEQ_PART 0 f fun s => seqPartWrite s f (16 <<< 8 + 16 * f)) s
  let s := (List.range 16).foldl (fun s f => fwWrite s .SEQ_BATCH f 0 (256 <<< 38 + 8192 <<< 21 + 512 <<< 6)) s
  (.ok, fwField s F.SEQ_RING_TIMEOUT.MS 0)

/-- SEQ_POLICY. -/
def execSeqPolicy (s : State) : Out := basicRun 0x17 seqPolicy s

/-- MEM_POLICY (11 R351). -/
def memPolicy (b : BasicCmd) (s : State) : Status × State :=
  let d := b.defaults
  let s := (List.range 4).foldl (fun s k => fwFieldChoice s F.MEM_STACK_CTL.SR_IDLE_US d 1000 0 k) s
  let s := fwChoice s .MEM_REFRESH 0 0 d (2 ^ 8 + 4)
  (.ok, (List.range 8).foldl (fun s k => fwFieldChoice s F.L2_WAYMASK.MASK d (if k = 4 then 0 else 0xFFFF) 0 k) s)

/-- MEM_POLICY. -/
def execMemPolicy (s : State) : Out := basicRun 0x18 memPolicy s

/-- The owner that FOL_POLICY gives a bank. -/
def folPolicyOwner (b : Nat) : Nat := if b < 8 then 1 else 2 + (b - 8) / 2

/-- A bank is handed by firmware, SCRUB set, its PSTATE kept. -/
def fwBank (s : State) (c b owner : Nat) : State :=
  fwGate s .FOL_BANK c b fun s => folBankWrite s c b (2 ^ 30 + fget s F.FOL_BANK.PSTATE c b <<< 28 + owner)

/-- FOL_POLICY (11 R351). -/
def folPolicy (_ : BasicCmd) (s : State) : Status × State :=
  (.ok, (List.range 256).foldl (fun s n =>
    if 0x10 ≤ fget s F.FOL_BANK.OWNER (n / 16) (n % 16) then s else fwBank s (n / 16) (n % 16) (folPolicyOwner (n % 16))) s)

/-- FOL_POLICY. -/
def execFolPolicy (s : State) : Out := basicRun 0x19 folPolicy s

/-- XLT_POLICY (12 R384): fixed values. -/
def xltPolicy (_ : BasicCmd) (s : State) : Status × State :=
  let s := (List.range 16).foldl (fun s v => fwField s F.XLT_VM_CFG.INV_MODE 0 0 v) s
  (.ok, (List.range 16).foldl (fun s f =>
    if fget s F.XLT_FLT_BASE.BASE f = 0 then s else fwField (fwField s F.XLT_FLT_BASE.LOG2 8 f) F.XLT_FLT_CTL.EN 1 f) s)

/-- XLT_POLICY. -/
def execXltPolicy (s : State) : Out := basicRun 0x1A xltPolicy s

/-- INT_POLICY (13 R414): fixed values. -/
def intPolicy (_ : BasicCmd) (s : State) : Status × State :=
  let s := fwField (fwField s F.INT_CTL.AUTO_PACKAGE_MS 0) F.INT_CTL.INJECT_EN 0
  (.ok, (List.range 16).foldl (fun s f => if fget s F.INT_REC_BASE.BASE f = 0 then s else fwField s F.INT_REC_CTL.EN 1 f) s)

/-- INT_POLICY. -/
def execIntPolicy (s : State) : Out := basicRun 0x1B intPolicy s

/-- PRS_POLICY (14 R430): the mask is taken from bytes 0 and 1 of ARGS. -/
def prsPolicy (b : BasicCmd) (s : State) : Status × State :=
  let mask := if b.defaults then 0 else fieldAt b.record 0 2
  (.ok, (List.range 16).foldl (fun s c =>
    if bit mask c then fwBank s c 15 0x10
    else (List.range 16).foldl (fun s k => if fget s F.FOL_BANK.OWNER c k = 0x10 then fwBank s c k 0 else s) s) s)

/-- PRS_POLICY. -/
def execPrsPolicy (s : State) : Out := basicRun 0x1C prsPolicy s

/-- HIF_POLICY (16 R484). The place of the window size in ARGS, and its default, are not stated; a size is one that the 15 windows have
room for. The windows are emptied first, so that the new ones meet no old one. -/
def hifPolicy (_ : BasicCmd) (s : State) : Status × State :=
  let s := fwWrite s .HIF_LINK_CTL 0 0 (2 ^ 31 + 2 <<< 28 + 100 <<< 16 + 100)
  let x := takeFree s 6349
  let s := (upFrom 1 15).foldl (fun s f => vfWinWrite s f 0) x.2
  (.ok, (upFrom 1 15).foldl (fun s f => vfWinWrite s f (x.1 <<< 42 + (95232 - f * x.1) <<< 21)) s)

/-- HIF_POLICY. -/
def execHifPolicy (s : State) : Out := basicRun 0x1D hifPolicy s

/-- UAP_POLICY (16 R484). -/
def uapPolicy (_ : BasicCmd) (s : State) : Status × State :=
  let s := [0, 1].foldl (fun s p => fwGate s .UAP_CTL 0 p fun s => uapEn s p true) s
  (.ok, fwField s F.UAP_IRQ_CTL.EN 1)

/-- UAP_POLICY. -/
def execUapPolicy (s : State) : Out := basicRun 0x1E uapPolicy s

/-- The link of output n trains (15 R453 step 5). -/
def modeTrain (s : State) (n : Nat) (ok : Bool) : State :=
  if linkState s n ≠ 1 then s
  else if ok then fset s F.DSP_OUT_STATUS.STATE 2 0 n
  else fset (fset (fset s F.DSP_OUT_STATUS.STATE 0 0 n) F.DSP_OUT_CTL.EN 0 0 n) F.DSP_OUT_STATUS.TRAIN_FAIL 1 0 n

/-- Banks are handed to output n, downwards from bank 15 of cluster 15 (15 R453 step 3). -/
def modeBanks (s : State) (n count : Nat) : State :=
  (List.range (Nat.min count 256)).foldl (fun s k => fwBank s ((255 - k) / 16) ((255 - k) % 16) (0x11 + n)) s

/-- DSP_MODE_SET (15 R453): m is what firmware chose from the sink's capabilities. The command ends with the status of its commit. -/
def modeSet (m : ModeSet) (_ : BasicCmd) (s : State) : Status × State :=
  let n := m.output
  let x := m.stream
  if ¬ domOn s 42 then (.domainOff, s)
  else
    let s := if commitPending s x then commitClear s x else s
    let s := modeBanks s n m.banks
    let s := fwGate s .DSP_OUT_CTL 0 n fun s => outCtlWrite s n m.outCtl
    let s := fwWrite s .DSP_OUT_AS 0 n m.asid
    let s := fwWrite (fwWrite s .DSP_TIMING_H 0 x m.timingH) .DSP_TIMING_V 0 x m.timingV
    let s := fwWrite (fwWrite s .DSP_PIXEL_RATE 0 x m.rate) .DSP_STREAM_LINK 0 x m.link
    let s := fwWrite (fwWrite s .DSP_STREAM_CTL 0 x m.ctl) .DSP_STREAM_LUM 0 x m.lum
    let s := modeTrain s n m.trained
    let s := (List.range 32).foldl (fun s p => if fget s F.DSP_PIPE_CTL.STREAM 0 p = x then fwField s F.DSP_PIPE_CTL.EN 0 0 p else s) s
    let s := commit s x
    ((Status.ofCode (fget s F.DSP_COMMIT_STATUS.STATUS 0 x)).getD .ok, s)

/-- DSP_MODE_SET of an output and one of its streams. -/
def execDspModeSet (m : ModeSet) (s : State) : Out :=
  if 4 ≤ m.output ∨ m.stream / 2 ≠ m.output then .next s else basicRun 0x20 (modeSet m) s

/-! ### PWR_PROFILE (18 R529) -/

/-- The fields of ARGS, or the defaults. -/
def profileOf (b : BasicCmd) (s : State) : List Nat :=
  if b.defaults then [(if fget s F.BOOT_STATUS.RESULT = 1 then s.boot.image.pLimit else 500), 750, 95, 30, 100, 85, 1, 1000]
  else [fieldAt b.record 0 2, fieldAt b.record 2 2, byteAt b.record 4, byteAt b.record 5, fieldAt b.record 6 2, byteAt b.record 8,
        byteAt b.record 9, fieldAt b.record 10 2]

/-- PWR_LIMIT with the profile's fields. -/
def profileLimit (s : State) (a : List Nat) : Nat :=
  setBits (setBits (setBits (rget s .PWR_LIMIT) 47 38 (a.getD 0 0)) 37 28 (a.getD 1 0)) 17 11 (a.getD 2 0)

/-- Every field is in range. -/
def profileOk (s : State) (a : List Nat) : Bool :=
  decide (a.getD 0 0 < 1024) && decide (a.getD 1 0 < 1024) && decide (a.getD 2 0 < 128) && limitOk s (profileLimit s a)
  && decide (a.getD 3 0 ≤ 100) && decide (1 ≤ a.getD 4 0 ∧ a.getD 4 0 ≤ 1000) && decide (a.getD 6 0 ≤ 1)

/-- PWR_PROFILE. -/
def pwrProfile (b : BasicCmd) (s : State) : Status × State :=
  let a := profileOf b s
  if ¬ profileOk s a then (.lengthRange, s)
  else
    let s := rset s .PWR_LIMIT (profileLimit s a)
    let s := fset s F.PWR_FAN.FAN_MIN (a.getD 3 0)
    let s := fset (fset s F.PWR_SILLAGE.INTERVAL_MS (a.getD 4 0)) F.PWR_SILLAGE.TEMP_WAKE (a.getD 5 0)
    let s := fset s F.PWR_AUTO_IDLE.IDLE_US (a.getD 7 0)
    (.ok, ([40, 41, 43, 48, 49] : List Nat).foldl (fun s d => domCtlWrite s d (4 * a.getD 6 0 + domNow s d)) s)

/-- PWR_PROFILE. -/
def execPwrProfile (s : State) : Out := basicRun 0x30 pwrProfile s

end Sys2Proof.Machine
end

