-- ==== Sys2Proof/Machine/Boot.lean ====
section
/-!
DEFINITION. Machine/Boot.lean: power-on, the configuration image, the pins, the flash, the fuses and the SMBus target (19).
-/

namespace Sys2Proof.Machine

/-- Changes what no register holds of the boot block. -/
def onBoot (s : State) (f : Boot → Boot) : State := { s with boot := f s.boot }

/-! ### The image (R530 to R533) -/

/-- n flash bytes from an address. -/
def flashRead (s : State) (a n : Nat) : List Byte := mread 0xFF s.boot.flash a n

/-- An entry of the directory. -/
structure DirEntry where
  id : Nat
  offset : Nat
  length : Nat
  crc : Nat
  rsvd : Nat
  deriving DecidableEq, Repr

/-- Directory entry k of the first 320 bytes. -/
def dirEntry (h : List Byte) (k : Nat) : DirEntry :=
  let a := 64 + 16 * k
  { id := byteAt h a, rsvd := fieldAt h (a + 1) 3, offset := fieldAt h (a + 4) 4, length := fieldAt h (a + 8) 4, crc := fieldAt h (a + 12) 4 }

/-- The entries in use. -/
def dirUsed (h : List Byte) : List DirEntry := (List.range (Nat.min 16 (byteAt h 6))).map (dirEntry h)

/-- REASON 1: a field of the header, a RSVD byte, or the header's CRC. -/
def imageHeaderBad (h : List Byte) : Bool :=
  let len := fieldAt h 8 4
  !(decide ((h.take 4).map BitVec.toNat = [0x52, 0x4E, 0x43, 0x49]) && decide (fieldAt h 4 2 = 1) && decide (5 ≤ byteAt h 6 ∧ byteAt h 6 ≤ 8)
    && decide (byteAt h 7 ≤ 1) && decide (len % 4096 = 0 ∧ 16384 ≤ len ∧ len ≤ 33554432) && allZero ((h.drop 16).take 48)
    && ((dirUsed h).all fun e => decide (e.rsvd = 0)) && decide (fieldAt h 12 4 = crc32c (h.take 12 ++ (h.drop 16).take 304)))

/-- LENGTH that R531 gives a section. -/
def sectionFits (e : DirEntry) : Bool :=
  match e.id with
  | 1 | 2 | 3 | 4 | 5 | 7 => e.length = 64
  | 6 => e.length = 32
  | 8 => 512 ≤ e.length ∧ e.length ≤ 1048576
  | _ => false

/-- Each entry lies after the one before it, in ascending ID. -/
def dirOrdered : List DirEntry → Bool
  | a :: b :: t => decide (a.id < b.id ∧ a.offset + a.length ≤ b.offset) && dirOrdered (b :: t)
  | _ => true

/-- REASON 2: a directory entry, a required section, or a LENGTH. -/
def directoryBad (h : List Byte) : Bool :=
  let l := dirUsed h
  let len := fieldAt h 8 4
  !(dirOrdered l && (l.all fun e => sectionFits e && decide (e.offset % 4096 = 0 ∧ 4096 ≤ e.offset ∧ e.offset + e.length + 256 ≤ len))
    && (([1, 2, 3, 4, 7] : List Nat).all fun i => l.any fun e => decide (e.id = i)) && allZero ((h.drop (64 + 16 * byteAt h 6)).take (16 * (16 - byteAt h 6))))

/-- The bytes of a section. -/
def sectionBytes (s : State) (e : DirEntry) : List Byte := flashRead s e.offset e.length

/-- The bytes of the section with an ID, none where the image has none. -/
def sectionOf (s : State) (h : List Byte) (i : Nat) : Option (List Byte) := ((dirUsed h).find? fun e => e.id = i).map (sectionBytes s)

/-- The first section whose CRC fails: REASON 3. -/
def crcBad (s : State) (l : List DirEntry) : Option Nat := (l.find? fun e => crc32c (sectionBytes s e) ≠ e.crc).map DirEntry.id

/-- A field of section i lies outside its range in R531. -/
def fieldBad (i : Nat) (b : List Byte) : Bool :=
  match i with
  | 1 => !(decide (8 ≤ byteAt b 10 ∧ byteAt b 10 ≤ 0x77) && allZero ((b.drop 11).take 5) && allZero (b.drop 24))
  | 2 => !(decide (1 ≤ byteAt b 0 ∧ byteAt b 0 ≤ 6) && decide (byteAt b 1 ∈ ([1, 4, 8, 16] : List Nat)) && decide (28 ≤ byteAt b 2 ∧ byteAt b 2 ≤ 38)
      && decide (byteAt b 3 < 4) && allZero (b.drop 4))
  | 3 => !(decide (100 ≤ fieldAt b 0 2 ∧ fieldAt b 0 2 ≤ 600) && decide (100 ≤ fieldAt b 2 2 ∧ fieldAt b 2 2 ≤ fieldAt b 0 2)
      && decide (550 ≤ fieldAt b 4 2 ∧ fieldAt b 4 2 ≤ 900 ∧ fieldAt b 4 2 % 5 = 0) && decide (byteAt b 6 ≤ 100) && allZero (b.drop 7))
  | 4 => !(decide (byteAt b 0 ≤ 15) && decide (5 ≤ byteAt b 1 ∧ byteAt b 1 ≤ 50) && decide (100 ≤ fieldAt b 2 2 ∧ fieldAt b 2 2 ≤ 520)
      && allZero (b.drop 4))
  | 5 => !(decide (byteAt b 0 ≤ 3 ∨ byteAt b 0 = 0xFF) && ((List.range 4).all fun k => decide (byteAt b (1 + k) ≤ 6)) && allZero (b.drop 7))
  | 6 => !((List.range 4).all fun n => decide (fieldAt b (8 * n + 6) 2 = 0))
  | 7 => !allZero (b.drop 52)
  | _ => false

/-- The first section with such a field: REASON 4. -/
def rangeBad (s : State) (l : List DirEntry) : Option Nat := (l.find? fun e => fieldBad e.id (sectionBytes s e)).map DirEntry.id

/-- KEY_SLOT of the signature block. -/
def imageSlot (s : State) (h : List Byte) : Nat := byteAt (flashRead s (fieldAt h 8 4 - 159) 1) 0

/-- A slot can match a key: programmed, and not revoked in effect (R533, R541). -/
def slotValid (s : State) (k : Nat) : Bool :=
  decide (k < 4) && bit (fget s F.BOOT_FUSE.PROGRAMMED) k && !(bit (fget s F.BOOT_FUSE.REVOKED) k && !bit s.boot.blown k)

/-- The signature block: the last 256 bytes of the image (R532). -/
def signatureBlock (s : State) (h : List Byte) : List Byte := flashRead s (fieldAt h 8 4 - 256) 256

/-- The slots whose fused hash is that of PUBKEY (R533). -/
def imageSlots (s : State) (h : List Byte) : List Nat :=
  let k := sha384 ((signatureBlock s h).take 97)
  (List.range 4).filter fun i => s.boot.fuseKeys[i]? = some k

/-- The signature verifies over the SHA-384 of every image byte before the signature block (R532). -/
def imageSigned (s : State) (h : List Byte) : Bool :=
  let b := signatureBlock s h
  ecdsaOk (b.take 97) (sha384 (flashRead s 0 (fieldAt h 8 4 - 256))) ((b.drop 128).take 96)

/-- REASON and SECTION of the first failing check (R535), (0, 0) for a valid image: flashErr says that the flash does not answer or
reports an error. -/
def imageReason (s : State) (flashErr : Bool) : Nat × Nat :=
  let h := flashRead s 0 320
  if flashErr then (7, 0)
  else if imageHeaderBad h then (1, 0)
  else if directoryBad h then (2, 0)
  else match crcBad s (dirUsed h) with
    | some i => (3, i)
    | none => match rangeBad s (dirUsed h) with
      | some i => (4, i)
      | none =>
        if ¬ (imageSlot s h ∈ imageSlots s h ∧ slotValid s (imageSlot s h)) then (5, 0)
        else if ¬ imageSigned s h then (6, 0)
        else (0, 0)

/-- The settings of IDENT. -/
def identImage (b : List Byte) (i : Image) : Image :=
  { i with vendor := fieldAt b 0 2, subVendor := fieldAt b 2 2, subId := fieldAt b 4 2, classCode := fieldAt b 6 3, revision := byteAt b 9,
           smbus := byteAt b 10, serial := fieldAt b 16 8 }

/-- The settings of LINK. -/
def linkImage (b : List Byte) (i : Image) : Image :=
  { i with maxRate := byteAt b 0, maxWidth := byteAt b 1, bar2Log2 := byteAt b 2, sris := bit (byteAt b 3) 0, l1ss := bit (byteAt b 3) 1 }

/-- The settings of section i taken into the image that the AON domain holds (R531). -/
def takeSection (i : Nat) (b : List Byte) (m : Image) : Image :=
  match i with
  | 1 => identImage b m
  | 2 => linkImage b m
  | 3 => { m with pLimitMax := fieldAt b 0 2, pLimit := fieldAt b 2 2, bootMv := fieldAt b 4 2, bootDuty := byteAt b 6 }
  | 4 => { m with avsAddr := byteAt b 0, avsSlew := byteAt b 1, railAmps := fieldAt b 2 2 }
  | 5 => { m with console := byteAt b 0, maxLink := (List.range 4).map fun k => byteAt b (1 + k), sdrWhite := fieldAt b 5 2 }
  | 6 => { m with failColour := (List.range 4).map fun n => (fieldAt b (8 * n) 2, fieldAt b (8 * n + 2) 2, fieldAt b (8 * n + 4) 2) }
  | 7 => { m with keyHash := b.take 48, minVersion := fieldAt b 48 4 }
  | 8 => { m with optRom := b }
  | _ => m

/-- The sections of l taken in order. -/
def takeSections (s : State) (l : List DirEntry) (m : Image) : Image := l.foldl (fun m e => takeSection e.id (sectionBytes s e) m) m

/-! ### Link training (R536, R537) -/

/-- The highest rate and width the device trains to. -/
def linkLimit (s : State) : Nat × Nat := if recoveryId s then (6, 16) else (s.boot.image.maxRate, s.boot.image.maxWidth)

/-- The PCIe link trains where R536 lets it, and ends at what it negotiates: at most the device's rate and width; 64 GT/s runs in FLIT
mode. A speed of 0 says that it does not come up. -/
def linkTrain (s : State) (speed width : Nat) (flit : Bool) : State :=
  let s := linkStart s
  let speed := Nat.min speed (linkLimit s).1
  let width := Nat.min width (linkLimit s).2
  if ¬ s.boot.linkTraining ∨ speed = 0 ∨ width ∉ ([1, 4, 8, 16] : List Nat) then s
  else
    let s := fset (fset s F.HIF_LINK.SPEED speed) F.HIF_LINK.WIDTH width
    let s := fset (fset s F.HIF_LINK.ACTIVE width) F.HIF_LINK.LSTATE 0
    fset s F.HIF_LINK.FLIT (b2n (flit || speed = 6))

/-! ### AON power (R534, R539, R545) -/

/-- Flash bytes whose content an interrupted or failed program or erase leaves open (log 34). -/
def flashFree (s : State) (a n : Nat) : State :=
  let r := (List.range n).foldl (fun (x : List Byte × State) _ => let y := takeFree x.2 256; (x.1 ++ natLe y.1 1, y.2)) (([] : List Byte), s)
  onBoot r.2 fun b => { b with flash := mwrite 0xFF b.flash a r.1 }

/-- The flash bytes that an operation is changing. -/
def flashNow (o : FlashOp) : Nat × Nat := if o.op = 3 then (o.addr, 65536) else if o.op = 2 then (o.addr + 256 * o.done, 256) else (o.addr, 0)

/-- The state in which everything but the flash, the fuses, host memory and what the pins are driven to is as after AON power-on; every
switched domain is OFF until CORE_PGOOD and PERST_N let those of R510 go ON. -/
def aonFresh (s : State) (on : Bool) : State :=
  let g : State := { pending := s.pending, freeCtr := s.freeCtr, hostMem := s.hostMem, hif := { sent := s.hif.sent },
                     boot := { flash := s.boot.flash, density := s.boot.density, corePgood := s.boot.corePgood, perst := s.boot.perst,
                               hpd := s.boot.hpd, fuseKeys := s.boot.fuseKeys, aonPgood := on } }
  rset g .BOOT_FUSE (rget s .BOOT_FUSE)

/-- AON_PGOOD_RISE (R539). -/
def execAonPgoodRise (s : State) : Out := .next (if s.boot.aonPgood then s else resetDomains (aonFresh s true))

/-- AON_PGOOD_FALL (R545): loses everything. -/
def execAonPgoodFall (s : State) : Out :=
  .next (if ¬ s.boot.aonPgood then s
    else
      let s := match s.boot.op with | some o => flashFree s (flashNow o).1 (flashNow o).2 | none => s
      let s := aonFresh s false
      (List.range 50).foldl (fun s d => domSet s d 2) s)

/-- IMAGE_LINK_READY (R534 step 4): the header and the directory pass, and so do the CRCs of IDENT and LINK. The link trains to what is
given, where PERST_N is deasserted. -/
def execImageLinkReady (speed width : Nat) (flit : Bool) (s : State) : Out :=
  powered s (
    let h := flashRead s 0 320
    if fget s F.BOOT_STATUS.RESULT ≠ 0 ∨ flag s F.BOOT_STATUS.LINK_READY ∨ imageHeaderBad h ∨ directoryBad h then s
    else
      let l := (dirUsed h).filter fun e => e.id < 3
      if (crcBad s l).isSome then s
      else
        let s := onBoot s fun b => { b with image := takeSections s l b.image }
        linkTrain (fset s F.BOOT_STATUS.LINK_READY 1) speed width flit)

/-- The recovery identity is taken (R535, R537): every switched domain goes OFF. -/
def takeRecoveryId (s : State) (reason sect : Nat) : State :=
  let s := fset (fset s F.BOOT_STATUS.RESULT 2) F.BOOT_STATUS.REASON reason
  packageReset (onBoot (fset s F.BOOT_STATUS.SECTION sect) fun b => { b with image := {} })

/-- IMAGE_VERIFY_DONE (R535): see imageReason; speed, width and flit are what the link negotiates where its training starts only now. -/
def execImageVerifyDone (flashErr : Bool) (speed width : Nat) (flit : Bool) (s : State) : Out :=
  powered s (
    let h := flashRead s 0 320
    let r := imageReason s flashErr
    if fget s F.BOOT_STATUS.RESULT ≠ 0 then s
    else if r.1 ≠ 0 then
      let s' := takeRecoveryId s r.1 r.2
      if fget s' F.HIF_LINK.SPEED = 0 then linkTrain s' speed width flit else s'
    else if ¬ flag s F.BOOT_STATUS.LINK_READY then s
    else
      let s := fset (fset s F.BOOT_STATUS.RESULT 1) F.BOOT_STATUS.KEY_SLOT (imageSlot s h)
      applyImage (onBoot s fun b => { b with image := takeSections s (dirUsed h) b.image }))

/-! ### PERST_N and the supplies (R536, R539, R540, R547, 13 R408) -/

/-- PERST_N_ASSERT (R539): package-level reset; a flash operation is abandoned, and the pin's move is host activity (18 R521).
The pin is followed with AON power off too. -/
def execPerstNAssert (s : State) : Out :=
  .next (if s.boot.perst then s
    else if ¬ s.boot.aonPgood then onBoot s fun b => { b with perst := true }
    else wakeReport (packageReset (onBoot (flashAbandon s) fun b => { b with perst := true })) 1 0)

/-- PERST_N_DEASSERT (R536, R539). WAKE_N is released (16 R463). -/
def execPerstNDeassert (speed width : Nat) (flit : Bool) (s : State) : Out :=
  .next (if ¬ s.boot.perst then s
    else
      let t := onBoot s fun b => { b with perst := false, wakeN := false }
      if ¬ s.boot.aonPgood then t else linkTrain (if failsafe t then t else resetDomains t) speed width flit)

/-- CORE_PGOOD_RISE (R540). The pin is followed with AON power off too. -/
def execCorePgoodRise (s : State) : Out :=
  .next (if s.boot.corePgood then s
    else
      let s := onBoot s fun b => { b with corePgood := true }
      if failsafe s ∨ ¬ s.boot.aonPgood then s else resetDomains s)

/-- CORE_PGOOD_FALL (R540). -/
def execCorePgoodFall (s : State) : Out :=
  .next (if ¬ s.boot.corePgood then s
    else
      let t := onBoot s fun b => { b with corePgood := false }
      if s.boot.aonPgood then failsafeEnter t 6 else t)

/-- SUPPLY_OUT_OF_RANGE (13 R408): VDD_CORE at the die is measured at mv. -/
def execSupplyOutOfRange (mv : Nat) (s : State) : Out :=
  powered s (if ¬ s.boot.corePgood ∨ (550 ≤ mv ∧ mv ≤ 900) then s else failsafeEnter s 6)

/-- JUNCTION_OVER_TEMPERATURE (13 R408): a sensor reads t °C. In Sillage the sensors are read by its samples alone (18 R520). -/
def execJunctionOverTemperature (t : Nat) (s : State) : Out :=
  powered s (if t ≤ 105 ∨ sillage s = 2 then s else failsafeEnter s 7)

/-- THERMTRIP_ASSERT (R547): the hottest junction and stack sensor in °C. -/
def execThermtripAssert (tj stack : Nat) (s : State) : Out :=
  powered s (if 115 ≤ tj ∨ 110 ≤ stack then onBoot s fun b => { b with thermtrip := true } else s)

/-! ### The flash (R541, R542) -/

/-- A write to BOOT_FLASH_CMD: discarded while an operation runs (02 R42), else k. -/
def flashCmd (s : State) (k : State → State) : Out :=
  busWrite s .BOOT_FLASH_CMD 0 0 fun s => if flag s F.BOOT_FLASH_RESULT.BUSY then s else k s

/-- An operation on n bytes begins, unless its address or its range fails R542. -/
def flashBegin (s : State) (op pages unit n : Nat) : State :=
  let a := fget s F.BOOT_FLASH_ADDR.ADDR
  if a % unit ≠ 0 then flashEnd s .badAlignment
  else if pages = 0 ∨ 16 < pages ∨ s.boot.density < a + n then flashEnd s .lengthRange
  else
    let o : FlashOp := { op := op, addr := a, pages := pages }
    fset (onBoot s fun b => { b with op := some o }) F.BOOT_FLASH_RESULT.BUSY 1

/-- FLASH_READ. -/
def execFlashRead (count : Nat) (s : State) : Out := flashCmd s fun s => flashBegin s 1 (count % 256) 256 (256 * (count % 256))

/-- FLASH_PROGRAM. -/
def execFlashProgram (count : Nat) (s : State) : Out := flashCmd s fun s => flashBegin s 2 (count % 256) 256 (256 * (count % 256))

/-- FLASH_ERASE: COUNT is ignored. -/
def execFlashErase (s : State) : Out := flashCmd s fun s => flashBegin s 3 1 65536 65536

/-- FLASH_UNDEFINED_OP: OP other than 1 to 3. -/
def execFlashUndefinedOp (op : Nat) (s : State) : Out :=
  if 1 ≤ op ∧ op ≤ 3 then .next s else flashCmd s fun s => flashEnd s .badOpcode

/-- A write of v to BOOT_FLASH_CMD. -/
def flashCmdWrite (s : State) (v : Nat) : Out :=
  match bits v 3 0 with
  | 1 => execFlashRead (bits v 15 8) s
  | 2 => execFlashProgram (bits v 15 8) s
  | 3 => execFlashErase s
  | o => execFlashUndefinedOp o s

/-- A NOR flash programs by clearing bits. -/
def flashAnd (s : State) (a : Nat) (bs : List Byte) : State :=
  let old := flashRead s a bs.length
  onBoot s fun b => { b with flash := mwrite 0xFF b.flash a ((old.zip bs).map fun x => x.1 &&& x.2) }

/-- The part of an operation in progress finishes: a whole read, one page of a program, an erase. -/
def flashPart (s : State) (o : FlashOp) : State :=
  let n := 256 * o.pages
  match o.op with
  | 1 => onBoot s fun b => { b with window := mwrite 0 b.window 0 (flashRead s o.addr n) }
  | 2 => flashAnd s (o.addr + 256 * o.done) (mread 0 s.boot.window (256 * o.done) 256)
  | _ => onBoot s fun b => { b with flash := b.flash.filter fun c => ¬ (o.addr ≤ c.1 ∧ c.1 < o.addr + 65536) }

/-- FLASH_OP_DONE: fail says that the flash reports a failure. -/
def execFlashOpDone (fail : Bool) (s : State) : Out :=
  powered s (match s.boot.op with
    | none => s
    | some o =>
      if fail then flashEnd (flashFree s (flashNow o).1 (flashNow o).2) .uncorrectableEcc
      else
        let s := flashPart s o
        if o.abandoned then flashEnd s .watchdog
        else if o.op = 2 ∧ o.done + 1 < o.pages then onBoot s fun b => { b with op := some { o with done := o.done + 1 } }
        else flashEnd s .ok)

/-- FLASH_OP_TIMEOUT: a page program has run for 5 ms, or an erase for 2 s. -/
def execFlashOpTimeout (s : State) : Out :=
  powered s (match s.boot.op with
    | none => s
    | some o => if o.op = 1 then s else flashEnd (flashFree s (flashNow o).1 (flashNow o).2) .watchdog)

/-! ### Fuses (R541) -/

/-- A W1S write of a mask to REVOKED: discarded where it would leave no slot programmed and unrevoked. -/
def revokeWrite (s : State) (mask : Nat) : State :=
  let old := fget s F.BOOT_FUSE.REVOKED
  let new := old ||| mask % 16
  if without (fget s F.BOOT_FUSE.PROGRAMMED) new = 0 then s
  else onBoot (fset s F.BOOT_FUSE.REVOKED new) fun b => { b with blown := b.blown ||| without new old }

/-- BOOT_FUSE_REVOKE_WRITE. -/
def execBootFuseRevokeWrite (mask : Nat) (s : State) : Out := busWrite s .BOOT_FUSE 0 0 fun s => revokeWrite s mask

/-! ### SMBus (R543) -/

/-- The target's answer; none is a NACK. -/
def smbus (s : State) (a : Option (List Byte)) : State := send s (.smbus a)

/-- SMBUS_MAILBOX_WRITE: command 0x06 with the bytes of its block. -/
def execSmbusMailboxWrite (bytes : List Byte) (s : State) : Out :=
  powered s (if recoveryId s ∨ (chan s 6).full ∨ bytes.length ≠ 4 then smbus s none
    else smbus (chStore s 6 (fieldAt bytes 0 4)) (some []))

/-- SMBUS_MAILBOX_READ: command 0x07. -/
def execSmbusMailboxRead (s : State) : Out :=
  powered s (if recoveryId s then smbus s none
    else if ¬ (chan s 7).full then smbus s (some (natLe 0 1))
    else
      let r := chTake s 7
      smbus r.2 (some (natLe 4 1 ++ natLe r.1 4)))

/-- SMBUS_TELEMETRY_READ: command 0x10. -/
def execSmbusTelemetryRead (s : State) : Out := powered s (smbus s (some (natLe 8 1 ++ natLe (rget s .PWR_TELEM) 8)))

/-- SMBUS_BOOT_STATUS_READ: command 0x11. -/
def execSmbusBootStatusRead (s : State) : Out := powered s (smbus s (some (natLe (bits (rget s .BOOT_STATUS) 31 24) 1)))

end Sys2Proof.Machine
end

