-- ==== Sys2Proof/Machine/Integrity.lean ====
section
/-!
DEFINITION. Machine/Integrity.lean: the recovery sequencer: acceptance of fault records, escalation, the ends of recoveries and
windows, fail-safe and package-level requests, holds and injection (13 R394 to R413).
-/

namespace Sys2Proof.Machine

/-! ### Classification (R403, R404, R408) -/

/-- What a fault leads to: the level and target its recovery is set at, the recovery that it restarts one level up, or the cause of
fail-safe. -/
structure Verdict where
  level : Nat := 0
  target : Nat := 0
  cause : Nat := 0
  up : Option Recovery := none
  deriving DecidableEq, Repr, Inhabited

/-- The units of rows 2 and 3: front end, scheduler, translation, any slice. -/
def criticalUnit (u : Nat) : Bool :=
  let b := u % 4096
  decide (b = 0x112) || decide (b = 0x113) || decide (b = 0x116) || (decide (0xE0 ≤ b) && decide (b < 0x100))

/-- The recovery runs or its window contains the timestamp (R402). -/
def Recovery.open_ (r : Recovery) (t : Nat) : Bool := r.running || (decide (r.t1 ≤ t) && decide (t < r.t1 + r.bound))

/-- The deepest recovery whose target contains the unit. -/
def deepest (l : List Recovery) (u : Nat) : Option Recovery :=
  (l.filter fun r => r.holds u).foldl (fun (b : Option Recovery) r =>
    match b with | some x => if x.level < r.level then some r else b | none => some r) none

/-- The unit in whose chain the target of a record's recovery lies. -/
def FaultRec.place (r : FaultRec) : Nat := r.target.getD r.unit

/-- The verdict on a record; third: it brings the count of the fault window to 3. -/
def verdict (s : State) (r : FaultRec) (third : Bool) : Verdict :=
  if r.level = 0 then {}
  else if r.place % 4096 = 0x12F then { cause := 4 }
  else if 7 ≤ r.level then { cause := 8 }
  else if third then { cause := 1 }
  else
    let live := s.int.recoveries.filter fun x => x.open_ r.time
    if live.any fun x => decide (x.level = 6) then { cause := 2 }
    else if (criticalUnit r.place && !live.isEmpty) || (live.any fun x => decide (x.level = 3) && criticalUnit x.target) then { level := 6 }
    else match deepest live r.place with
      | some x => { level := (levelUp x r.place).1, target := (levelUp x r.place).2, up := some x }
      | none => { level := (targetOf r.place r.level).1, target := (targetOf r.place r.level).2 }

/-- The fault window after a state fault (R404), and whether it counts the fault: one in the open window joins it, one after its end
opens a new window, and one timestamped before its start, which arrived late (R406), is in no window. -/
def countFault (s : State) (t serial : Nat) : (Nat × Nat × Nat) × Bool :=
  match s.int.window with
  | some (t0, n, first) =>
    if t < t0 then ((t0, n, first), false)
    else if t < t0 + 1000000000 then ((t0, n + 1, first), true) else ((t, 1, serial), true)
  | none => ((t, 1, serial), true)

/-! ### The start of a recovery -/

/-- Firmware is lost with SRAM (17 R487): every core is in the boot ROM, SRAM reads zero, and the state is NONE. -/
def firmwareLost (s : State) : State :=
  let s := (List.range 4).foldl (fun s c => fset ((coreChannels c).foldl chReset s) F.CCX_CORE_STATUS.MODE 0 0 c) s
  fset (onCcx s fun x => { x with sram := [], cmd := none, loading := none, version := 0, entry := [0, 0, 0, 0], ready := [], wdog := [0, 0, 0, 0], notices := [], pmp := [] }) F.CCX_FW_STATE.STATE 0

/-- The front end does not respond to a die recovery that this record starts (R400). -/
def feGone (s : State) (r : FaultRec) : Bool := decide (r.unit % 4096 = 0x112) || recovering s 0x112

/-- The work of a recovery. stuck: step 2 of a die recovery stops for good after that many queues. -/
def recoverWork (s : State) (r : FaultRec) (v : Verdict) (stuck : Option Nat) (feLost : Bool) : State :=
  match v.level with
  | 3 => if r.fwLost then firmwareLost (fcount s F.CCX_CORE_STATUS.RESTARTS 0 (v.target % 4)) else resetUnit s v.target r.status
  | 4 => resetCore s v.target r.status
  | 5 => resetCluster s v.target r.status
  | _ =>
    let s := dieHalt s
    if feLost then dieRest s
    else match stuck with
      | none => dieRest (dieQueues s r.status s.fe.queues.length)
      | some n => onInt (dieQueues s r.status n) fun x => { x with dieStep2 := true }

/-- A recovery starts, or restarts one level up with its window grown (R402). A die recovery absorbs every other; dead are the slices
that will not respond to it. -/
def recoverStart (s : State) (r : FaultRec) (v : Verdict) (stuck : Option Nat) (dead : List Nat) : State :=
  let feLost := v.level = 6 ∧ feGone s r
  let lost := v.level = 6 ∧ dieLoses s dead
  let t1 := match v.up with | some x => x.t1 | none => r.time
  let bound := (match v.up with | some x => x.bound | none => 0) + levelBound v.level
  let g : Recovery := { level := v.level, target := v.target, unit := r.unit, t1 := t1, bound := bound, status := r.status, running := true,
                        feLost := feLost, dataLost := lost }
  let s := recoverWork (onInt s fun x => { x with dieDead := if v.level = 6 then dead else x.dieDead }) r v stuck feLost
  onInt s fun x => { x with recoveries := if v.level = 6 then [g] else
    (match v.up with | some y => x.recoveries.erase y | none => x.recoveries) ++ [g] }

/-! ### The rows -/

/-- FLAGS of a record (R405). -/
def recFlags (s : State) (r : FaultRec) (v : Verdict) (dead : List Nat) : Nat :=
  b2n v.up.isSome + 2 * b2n (decide (v.cause ≠ 0)) + 4 * b2n (r.dataLost || (decide (v.level = 6) && dieLoses s dead))
    + 8 * b2n (r.feLost || (decide (v.level = 6) && feGone s r)) + 16 * b2n r.fwLost

/-- OVERFLOW in every ring that a record would have entered (R406). -/
def recOverflow (s : State) (r : FaultRec) : State :=
  if failsafe s then s else
  let s := if flag s F.INT_REC_CTL.EN 0 then recDrop s 0 else s
  match r.function with
  | some f => if f ≠ 0 ∧ flag s F.INT_REC_CTL.EN f then recDrop s f else s
  | none => s

/-- The sequencer accepts the oldest waiting record. One that found its queue of 256 full is written nowhere, and everything else about
it applies (R406). -/
def acceptRecord (stuck : Option Nat) (dead : List Nat) (s : State) : State :=
  match s.int.waiting with
  | [] => s
  | r :: rest =>
    let t := takeRec (onInt s fun x => { x with waiting := rest })
    let s := t.2
    if r.level = 0 ∨ failsafe s then
      if r.lost then recOverflow s r else recWrite s r t.1 0 0 (recFlags s r {} [])
    else
      let w := countFault s r.time t.1
      let v := verdict s r (w.2 && decide (3 ≤ w.1.2.1))
      let s := onInt s fun x => { x with window := some w.1 }
      let s := if r.lost then recOverflow s r
               else recWrite s r t.1 (if w.2 then w.1.2.2 else 0) (if v.cause ≠ 0 then 7 else v.level) (recFlags s r v dead)
      if v.cause ≠ 0 then failsafeEnter s v.cause
      else
        -- the Liaison component's notice (17 R505)
        let s := intView (recoverStart s r v stuck dead)
        if fwActive s then notice s 7 8 (t.1 % 2 ^ 24) else s

/-- FAULT_RECORD_ACCEPT (R396 to R407). Of a die recovery that it starts, stuck says after how many queues step 2 stops for good, and
dead which slices do not respond. -/
def execFaultRecordAccept (stuck : Option Nat) (dead : List Nat) (s : State) : Out := powered s (acceptRecord stuck dead s)

/-- DIE_RECOVERY_FE_TIMEOUT (R400): step 2 is abandoned where it stands, with FE_LOST, and the recovery goes on. -/
def execDieRecoveryFeTimeout (s : State) : Out :=
  powered s (if ¬ s.int.dieStep2 then s else
    onInt (dieRest s) fun x => { x with recoveries := x.recoveries.map fun r => { r with feLost := true } })

/-- RECOVERY_COMPLETE (R401): recovery n of the list completes; its record is written and the target takes work again. One that comes to
the end of its window has not completed in it (R402). -/
def execRecoveryComplete (n : Nat) (s : State) : Out :=
  powered s (match s.int.recoveries[n]? with
    | none => s
    | some r =>
      if ¬ r.running ∨ s.int.dieStep2 ∨ failsafe s then s
      else if r.t1 + r.bound ≤ s.time then failsafeEnter s 3 else
      let s := onInt s fun x => { x with recoveries := x.recoveries.set n { r with running := false } }
      let d : FaultRec := { time := 0, unit := 0x12F, status := .ok, level := 0, context := none, function := none,
                            detail := .system 4 r.level 0 (s.time - r.t1), feLost := r.feLost, dataLost := r.dataLost }
      let s := raise s d
      let b := r.target % 4096
      let s := if r.level = 3 ∧ 0xE0 ≤ b ∧ b < 0x100 then retryHeld s (fun q => decide (paSlice q.pa = b - 0xE0))
               else if r.level = 3 ∧ 0x128 ≤ b ∧ b < 0x12C then fset s F.CCX_CORE_STATUS.MODE (b2n (fwRunning s)) 0 (b - 0x128)
               else s
      intView s)

/-- RECOVERY_WINDOW_EXPIRY (R402): the window of recovery n has ended. -/
def execRecoveryWindowExpiry (n : Nat) (s : State) : Out :=
  powered s (match s.int.recoveries[n]? with
    | none => s
    | some r =>
      if s.time < r.t1 + r.bound then s
      else if r.running then failsafeEnter s 3
      else intView (onInt s fun x => { x with recoveries := x.recoveries.eraseIdx n }))

/-- FAULT_WINDOW_EXPIRY (R404). -/
def execFaultWindowExpiry (s : State) : Out :=
  powered s (match s.int.window with
    | some (t0, _, _) => if s.time < t0 + 1000000000 then s else intView (onInt s fun x => { x with window := none })
    | none => s)

/-- INT_FAILSAFE_FORCE (R408, R413). -/
def execIntFailsafeForce (s : State) : Out := busWrite s .INT_FAILSAFE 0 0 fun s => failsafeEnter s 9

/-- INT_RECOVER_PACKAGE (R411): outside fail-safe the write is discarded. -/
def execIntRecoverPackage (s : State) : Out := busWrite s .INT_RECOVER 0 0 fun s => if failsafe s then packageRecover s else s

/-- AUTO_PACKAGE_EXPIRY (R411). -/
def execAutoPackageExpiry (s : State) : Out :=
  let ms := fget s F.INT_CTL.AUTO_PACKAGE_MS
  powered s (if failsafe s ∧ ms ≠ 0 ∧ s.int.failAt + 1000000 * ms ≤ s.time then packageRecover s else s)

/-- What the clearing of holds does (R412): a Uaper port may train, FAULT_N is deasserted, HELD of an output falls. -/
def holdsCleared (s : State) : State :=
  let s := (List.range 4).foldl (fun s n => if bit (fget s F.INT_HOLD.DISPLAY) n then s else fset s F.DSP_OUT_STATUS.HELD 0 0 n) s
  let s := [0, 1].foldl (fun s p => if uapState s p = 5 then uapTry s p else s) s
  { s with boot := { s.boot with faultN := s.boot.faultN && flag s F.INT_HOLD.FAULT_N } }

/-- INT_HOLD_WRITE (R412): discarded during fail-safe. -/
def execIntHoldWrite (v : Nat) (s : State) : Out :=
  busWrite s .INT_HOLD 0 0 fun s =>
    if failsafe s then s else holdsCleared (rset s .INT_HOLD (without (rget s .INT_HOLD) (v % 256)))

/-- INT_INJECT_WRITE (R413): an accepted write acts as a fault of the unit; LEVEL 0 writes the MEMORY record of R554 only. -/
def execIntInjectWrite (v : Nat) (s : State) : Out :=
  busWrite s .INT_INJECT 0 0 fun s =>
    let unit := bits v 47 32
    let level := bits v 18 16
    match Status.ofCode (bits v 31 24) with
    | none => s
    | some st =>
      if ¬ flag s F.INT_CTL.INJECT_EN ∨ ¬ unitDefined unit ∨ level = 1 ∨ level = 2 then s
      else
        let d : FaultRec := { time := 0, unit := unit, status := st, level := level, context := none, function := none,
                              detail := if level = 0 then .memory 0 3 0xFF 0xFF 0xFF 0xFFFF 0xFFFF 0 0 else .none }
        raise (if level = 0 ∧ st = .integrityMismatch then countMismatch s else s) d

end Sys2Proof.Machine
end

