-- ==== Sys2Proof/Machine/RegWrite.lean ====
section
/-!
DEFINITION. Machine/RegWrite.lean: a BAR0 write (00 R6 to R11), as each register takes it.
-/

namespace Sys2Proof.Machine

/-- One outcome after another. -/
def andThen (o : Out) (k : State → Out) : Out :=
  match o with
  | .next s => k s
  | x => x

/-- The value of a register when the bits in words take those of v. -/
def merged (s : State) (r : Reg) (w i v words : Nat) : Nat := without (rget s r w i) words ||| (v &&& words)

/-- A 64-bit register whose write acts (R9): the written words are held, and a write that takes in the low word acts on both. -/
def trigger (s : State) (r : Reg) (w i v words : Nat) (k : Nat → State → Out) : Out :=
  let n := merged s r w i v words
  andThen (busWrite s r w i fun s => rset s r n w i) fun s => if bit words 0 then k n s else .next s

/-- A write of v to FE_QCMD of function f (02 R39 to R43). -/
def feQcmdWrite (f v : Nat) (s : State) : Out :=
  match bits v 3 0 with
  | 1 => execQueueCreate f s
  | 2 => execQueueDestroy f s
  | 3 => execQueueResume f s
  | 4 => execQueueResumeSkip f s
  | o => execQcmdUndefinedOp f o s

/-- A write to FE_OBJ_CMD (02 R58, R555). -/
def feObjCmdWrite (f v : Nat) (s : State) : Out :=
  let rsvd : Bool := decide (bits v 31 4 ≠ 0)
  match bits v 3 0 with
  | 1 => execObjectCreate f rsvd s
  | 2 => execObjectDestroy f rsvd s
  | o => execObjCmdUndefinedOp f o s

/-- A write to SCH_GCMD (03 R90). -/
def schGcmdWrite (f v : Nat) (s : State) : Out :=
  match bits v 3 0 with
  | 1 => execGraphPublish f s
  | 2 => execGraphPatch f s
  | o => execGcmdUndefinedOp f o s

/-- A write to SC_REPLAY (04 R140). -/
def scReplayWrite (f v : Nat) (s : State) : Out :=
  match bits v 3 0 with
  | 1 => execScReplayReplay f (bits v 28 16) (bits v 39 32) s
  | 2 => execScReplayContinue f (bits v 28 16) (bits v 39 32) s
  | 3 => execScReplayAbort f (bits v 28 16) (bits v 39 32) s
  | 4 => execScReplayContext f (bits v 63 52) s
  | o => execScReplayUndefinedOp f o s

/-- A write to TRU_CMD (09 R284, R285). -/
def truCmdWrite (f v : Nat) (s : State) : Out :=
  match bits v 3 0 with
  | 1 => execTruBump f s
  | 2 => execTruInvalidate f s
  | o => execTruCmdUndefinedOp f o s

/-- A write to SEQ_SCMD (10 R290, R301). -/
def seqScmdWrite (f v : Nat) (s : State) : Out :=
  match bits v 3 0 with
  | 1 => execSeqAdmit f s
  | 2 => execSeqCancel f s
  | 3 => execSeqHold f s
  | 4 => execSeqResume f s
  | 5 => execSeqRelease f s
  | 6 => execSeqAddPages f s
  | 7 => execSeqRemovePages f s
  | o => execSeqScmdUndefinedOp f o s

/-- A write to L2_MAINT_CMD (11 R333, R334). -/
def l2MaintWrite (v : Nat) (s : State) : Out :=
  let scope := bits v 5 4
  if scope = 3 then execL2MaintUndefinedOp (bits v 1 0) scope s
  else match bits v 1 0 with
    | 1 => execL2MaintClean scope s
    | 2 => execL2MaintInvalidate scope s
    | 3 => execL2MaintCleanInvalidate scope s
    | o => execL2MaintUndefinedOp o scope s

/-- A write to XLT_INV_CMD (12 R375 to R377, R382). -/
def xltInvWrite (f v : Nat) (s : State) : Out :=
  match bits v 3 0 with
  | 1 => execXltInvRange f (bits v 31 16) s
  | 2 => execXltInvTag f (bits v 31 16) s
  | 3 => execXltInvVmAll f (bits v 15 12) s
  | _ => execXltInvUndefinedOp f s

/-- A write to DSP_COMMIT of a stream (15 R445): a value other than 1 and 2 is discarded. -/
def dspCommitWrite (x v : Nat) (s : State) : Out :=
  match bits v 1 0 with
  | 1 => execDspCommit x s
  | 2 => execDspCommitCancel x s
  | _ => busWrite s .DSP_COMMIT 0 x fun s => s

/-- A write to DSP_AUX_CMD of an output (15 R437): an OP that is not defined is discarded. -/
def dspAuxWrite (n v : Nat) (s : State) : Out :=
  let addr := bits v 27 8
  let len := bits v 7 4
  match bits v 31 28 with
  | 1 => execAuxNativeRead n addr len s
  | 2 => execAuxNativeWrite n addr len s
  | 3 => execAuxI2cRead n addr len s
  | 4 => execAuxI2cWrite n addr len s
  | _ => busWrite s .DSP_AUX_CMD 0 n fun s => s

/-- A write to UAP_CTL of a port (16 R473, R477, R478). -/
def uapCtlWrite (p v : Nat) (s : State) : Out :=
  andThen (execUapCtlEnWrite p (bit v 31) s) fun s =>
    andThen (if bit v 30 then execUapSleepReq p s else .next s) fun s => if bit v 29 then execUapWake p s else .next s

/-- A write to INT_RECOVER (13 R411). -/
def intRecoverWrite (v : Nat) (s : State) : Out :=
  if bits v 3 0 = 1 then execIntRecoverPackage s else busWrite s .INT_RECOVER 0 0 fun s => s

/-- A write to INT_FAILSAFE (13 R413). -/
def intFailsafeWrite (v : Nat) (s : State) : Out :=
  if bit v 0 then execIntFailsafeForce s else busWrite s .INT_FAILSAFE 0 0 fun s => s

/-- A write to PWR_SILLAGE (18 R518). -/
def sillageWrite (v : Nat) (s : State) : Out :=
  if bit v 31 then execSillageEnter v s else busWrite s .PWR_SILLAGE 0 0 fun s => regStore s .PWR_SILLAGE 0 0 v (2 ^ 32 - 1)

/-- A write of the host to the bits in words of copy (w, i) of a register. -/
def regTo (r : Reg) (w i v words : Nat) (s : State) : Out :=
  match r with
  | .FE_QCMD => feQcmdWrite w v s
  | .FE_OBJ_CMD => feObjCmdWrite w v s
  | .FE_PART => execFePartWrite i (merged s r w i v words) s
  | .SCH_GCMD => schGcmdWrite w v s
  -- locked against the host (03 R106)
  | .SCH_RESERVE | .SCH_PREEMPT_CTL | .SCH_DL_BUDGET | .SCH_SCRATCH | .SCH_DISCARD => busWrite s r w i fun s => s
  | .SC_REPLAY => trigger s r w i v words fun n s => scReplayWrite w n s
  | .TRU_CMD => truCmdWrite w v s
  | .TRU_SLOT_CFG => execTruSlotCfgWrite i v s
  | .SEQ_SCMD => seqScmdWrite w v s
  | .SEQ_KV_POOL => execSeqKvPoolWrite w v s
  | .SEQ_EVT_CI => execSeqEvtCi w v s
  | .SEQ_PART => busWrite s r w i fun s => seqPartWrite s i (merged s r w i v words)
  | .SEQ_RING_CFG => execSeqRingCfgWrite v s
  | .L2_MAINT_CMD => l2MaintWrite v s
  | .FOL_BANK => execFolBankWrite w i v s
  | .XLT_INV_CMD => xltInvWrite w v s
  | .XLT_VM_CFG => execXltVmCfgWrite i (merged s r w i v words) s
  | .INT_FAILSAFE => intFailsafeWrite v s
  | .INT_HOLD => execIntHoldWrite v s
  | .INT_RECOVER => intRecoverWrite v s
  | .INT_INJECT => trigger s r w i v words execIntInjectWrite
  | .DSP_OUT_CTL => execDspOutCtlWrite i v s
  | .DSP_AUX_CMD => dspAuxWrite i v s
  | .DSP_COMMIT => dspCommitWrite i v s
  | .UAP_CTL => uapCtlWrite i v s
  | .MBX_CMD => execMailboxSend (8 + w) v {} s
  | .MBX_TX0 => execMailboxSend 0 v {} s
  | .HIF_VF_WIN => execHifVfWinWrite i (merged s r w i v words) s
  | .PWR_DOM_CTL => execPwrDomCtlWrite i v s
  | .PWR_PAD_RELEASE => execPwrPadReleaseWrite v s
  | .PWR_LIMIT => busWrite s r w i fun s => limitWrite s false v words
  | .PWR_FAN => busWrite s r w i fun s => limitWrite s true v words
  | .PWR_SILLAGE => sillageWrite v s
  | .BOOT_FUSE => execBootFuseRevokeWrite (bits (v &&& words) 3 0) s
  | .BOOT_FLASH_CMD => flashCmdWrite s v
  | _ => busWrite s r w i fun s => regStore s r w i v words

/-- A 32-bit write to the MSI-X table of function f, whose entries have address, data and vector control words (16 R460). The recovery
identity has no table (19 R537). -/
def msixWrite (f o v : Nat) (s : State) : State :=
  let n := o / 16
  if recoveryId s ∨ vectorCount f ≤ n then s else
  let e := tgetD s.hif.msix (f * 2048 + n) {}
  let e : MsixEntry := match o / 4 % 4 with
    | 0 => { e with addr := e.addr / 2 ^ 32 * 2 ^ 32 + v }
    | 1 => { e with addr := e.addr % 2 ^ 32 + v * 2 ^ 32 }
    | 2 => { e with data := v }
    | _ => { e with masked := bit v 0 }
  { s with hif := { s.hif with msix := if e.addr = 0 ∧ e.data = 0 ∧ e.masked then tdel s.hif.msix (f * 2048 + n) else tset s.hif.msix (f * 2048 + n) e } }

/-- A write of n bytes to BOOT_FLASH_DATA (19 R541). -/
def flashDataWrite (o v n : Nat) (s : State) : Out :=
  busWrite s .BOOT_FLASH_CMD 0 0 fun s => onBoot s fun b => { b with window := mwrite 0 b.window o (natLe v n) }

/-- The windows of the PF that are no registers: the FOL window and its aliases (11 R350) and BOOT_FLASH_DATA; none elsewhere. lost: see
winWrite. -/
def pfWindow (off v n : Nat) (lost : Bool) (s : State) : Option Out :=
  let wide := decide (n = 8)
  let o := off % 2 ^ 18
  match off / 2 ^ 18 with
  | 0x35 => some (execFolWindowWrite o v wide lost s)
  | 0x36 => some (execFolSetAliasWrite o v wide lost s)
  | 0x37 => some (execFolClearAliasWrite o v wide lost s)
  | _ => if off / 4096 = 0x1501 then some (flashDataWrite (off % 4096) v n s) else none

/-- A 32-bit write of function f (R7, R8): discarded at an offset that names nothing. -/
def word32 (f off v : Nat) (lost : Bool) (s : State) : Out :=
  match findReg f off with
  | some (r, w, i, k) => if r.place.width = 64 then regTo r w i (v <<< (32 * k)) ((2 ^ 32 - 1) <<< (32 * k)) s else regTo r w i v (2 ^ 32 - 1) s
  | none =>
    if 0x1_0000 ≤ off ∧ off < 0x1_8000 then powered s (msixWrite f (off - 0x1_0000) v s)
    else match (if f = 0 then pfWindow off v 4 lost s else none) with
      | some o => o
      | none => .next s

/-- A 64-bit write of function f (R9): whole to a 64-bit register or a window, else as two 32-bit writes, the low word first. -/
def word64 (f off v : Nat) (lost : Bool) (s : State) : Out :=
  let two := andThen (word32 f off (v % 2 ^ 32) lost s) (word32 f (off + 4) (v / 2 ^ 32) lost)
  match findReg f off with
  | some (r, w, i, k) => if r.place.width = 64 ∧ k = 0 then regTo r w i v (2 ^ 64 - 1) s else two
  | none =>
    match (if f = 0 then pfWindow off v 8 lost s else none) with
    | some o => o
    | none => two

/-- REGISTER_WRITE (R6): function f writes the low bits of value, width of them, at a BAR0 offset. Another width or alignment completes
with Unsupported Request. A function that does not exist, or whose FLR runs, writes nothing (16 R456, R464). lost says that a write
of a FOL window loses its word to another port (11 R337). -/
def execRegisterWrite (f off width value : Nat) (lost : Bool) (s : State) : Out :=
  if ¬ fnExists s f ∨ (fnCfg s f).inFlr then .next s
  else if width = 32 ∧ off % 4 = 0 then word32 f off (value % 2 ^ 32) lost s
  else if width = 64 ∧ off % 8 = 0 then word64 f off (value % 2 ^ 64) lost s
  else powered s (unsupported s)

end Sys2Proof.Machine
end

