-- ==== Sys2Proof/Machine/RegRead.lean ====
section
/-!
DEFINITION. Machine/RegRead.lean: BAR0 reads (00 R6 to R11, 01 R26): what a register holds, what a read returns, and what the read does. Registers
that report on a unit are views of the state that the unit keeps.
-/

namespace Sys2Proof.Machine

/-- A mask with the bits that p holds of. -/
def maskBits (n : Nat) (p : Nat → Bool) : Nat := ((List.range n).filter p).foldl (fun m b => m + 2 ^ b) 0

/-- SC_CORE_STATUS of a core (04 R143). -/
def coreStatus (s : State) (c : Nat) : Nat :=
  let parked := (parkedGroups s).countP fun x => !x.2.1 && decide (x.2.2.1.core = c)
  b2n ((List.range 16).any fun b => decide (fget s F.FOL_BANK.OWNER (c / 8) b = 8 + c % 8)) <<< 63 + parked <<< 56 + vregFree s c <<< 47 + sregFree s c <<< 38 + localFree s c <<< 30
    + (slotsUsed s c).length <<< 23 + (coreBlocks s c).length <<< 17

/-- SC_PARKED_COUNT of a function (04 R143). -/
def parkedCount (s : State) (f : Nat) : Nat := (parkedGroups s).countP fun x => decide (x.2.2.1.fn = f)

/-- ACE_ENG_STATUS of an engine (05 R175). -/
def engineStatus (s : State) (e : Nat) : Nat :=
  let x := engineAt s e
  let bound : Nat × Nat := match x.block.bind (blockAt s) with | some k => (k.core, k.ctx) | none => (0, 0)
  b2n x.block.isSome <<< 63 + bound.1 <<< 56 + x.queue.length <<< 53 + b2n x.array.isSome <<< 52 + b2n x.mover.isSome <<< 51
    + b2n (x.faults != []) <<< 50 + maskBits 16 (fun b => decide (fget s F.FOL_BANK.OWNER (e / 4) b = 2 + e % 4)) <<< 34 + bound.2 <<< 22

/-- A pass is in a flush. -/
def flushing (x : Pass) : Bool := match x.flush with | .none => false | .storing _ => true

/-- COL_PASS_INFO (07 R224). -/
def passInfo (x : Pass) : Nat :=
  1 <<< 63 + x.mode <<< 61 + b2n (flushing x) <<< 60 + b2n x.warned <<< 59 + b2n x.failed <<< 58 + x.ctx <<< 46 + x.q <<< 32
    + Nat.min x.flushes 0xFFFF <<< 16 + x.entries

/-- RAS_UNIT_STATUS of a cluster (08 R265). -/
def rasterStatus (s : State) (c : Nat) : Nat :=
  let taken := ((unitTiles s c).map fun e => (e.2.runs.map Prod.snd).sum).sum
  let owned := maskBits 16 (rasOwns s c)
  let lines := ((List.range 16).countP fun b => rasOwns s c b) * 2048
  owned <<< 48 + (unitTiles s c).length <<< 43 + Nat.min (lines - taken) 0xFFFF <<< 27

/-- STATE of SEQ_SSTATE (10 R291). -/
def slotCode (x : SlotState) : Nat := match x with | .prefill => 1 | .decode => 2 | .held _ => 3 | .leaving => 4 | .ended => 5

/-- COMP or DECOMP of PRS_STATUS (14 R429): a placed slice runs, or waits for the domain. -/
def coderState (s : State) (compress : Bool) : Nat :=
  if s.fe.tasks.any fun e => decide (e.2.eng = .press) && (compresses e.2 == compress) && decide (e.2.live ≠ []) then
    (if domOn s 43 then 1 else 3)
  else if ¬ domOn s 43 ∧ (s.fe.tasks.any fun e => decide (e.2.eng = .press) && (compresses e.2 == compress) && decide (e.2.next < e.2.total)) then 3
  else 0

/-- SLOWDOWN (03 R103). -/
def slowdown (x : Intf) : Nat := if x.busy = 0 then 0 else Nat.min (256 * (x.busy + x.blocked) / x.busy) 0xFFFF

/-- The context charged with most of the blocked steps, the lowest on a tie. -/
def aggressor (t : Tbl Nat) : Nat :=
  (t.foldl (fun (b : Nat × Nat) e => if b.2 < e.2 then e else b) (0, 0)).1

/-- SCH_INTF_DATA0 (k = 0) or SCH_INTF_DATA1 of a function: the selected context in the last completed window (03 R103, R105). -/
def intfView (s : State) (f k : Nat) : Nat :=
  let c := fget s F.SCH_INTF_SEL.CONTEXT f
  match s.intfDone with
  | some d =>
    let x := tgetD d.sums c {}
    if ¬ inCtx s f c then 0
    else if k = 0 then (x.blocked % 2 ^ 32) <<< 32 + x.busy % 2 ^ 32
    else (d.window % 2 ^ 32) <<< 32 + 1 <<< 31 + aggressor x.by_ <<< 16 + slowdown x
  | none => 0

/-- What copy (w, i) of a register holds: the register file, or the view of the unit that the register reports on. -/
def regView (s : State) (r : Reg) (w i : Nat) : Nat :=
  match r with
  | .HIF_TIME => s.time
  | .FE_QSTATE => match queueOf s w (fget s F.FE_QSTATE_SEL.HANDLE w) with | some (_, q) => qStateWord q | none => 0
  | .SCH_INTF_DATA0 => intfView s w 0
  | .SCH_INTF_DATA1 => intfView s w 1
  | .SC_CORE_STATUS => coreStatus s (8 * w + i)
  | .SC_PARKED_COUNT => parkedCount s w
  | .ACE_ENG_STATUS => engineStatus s i
  | .COL_STATUS => s.gfx.passes.length <<< 28 + b2n (s.gfx.passes.any fun e => flushing e.2) <<< 27 + listFree s
  | .COL_PASS_INFO => match passAt s (fget s F.COL_PASS_SEL.PASS) with | some x => passInfo x | none => 0
  | .COL_PASS_POOL => match passAt s (fget s F.COL_PASS_SEL.PASS) with | some x => x.highWater <<< 21 + x.free | none => 0
  | .RAS_UNIT_STATUS => rasterStatus s i
  | .TRU_SLOT_CFG =>
    let x := truSlot s i
    rget s .TRU_SLOT_CFG 0 i + (match x.bound with | some b => 1 <<< 31 + b.1 <<< 16 | none => 0) + b2n x.held.isSome <<< 30
  | .SEQ_SSTATE =>
    match slotOf s w (fget s F.SEQ_SSTATE_SEL.HANDLE w) with
    | some (_, x) => slotCode x.state <<< 61 + x.reason <<< 58 + b2n x.kvWait <<< 57 + x.pos <<< 24 + x.generated
    | none => 0
  | .PRS_STATUS => coderState s true <<< 62 + coderState s false <<< 60
      + maskBits 16 (fun c => (List.range 16).any fun b => decide (fget s F.FOL_BANK.OWNER c b = 0x10))
  | r => rget s r w i

/-- A read of the bits in words of copy (w, i) of a register: what it returns and the state after it (R10, R11). Where the register's
domain is not ON it returns 0 and sets OFF_ACCESS (18 R511); under the recovery identity only HIF and BOOT are mapped (19 R537). A
read of a receive channel takes its word (17 R499). An RC field of both words is cleared where it is read (log 115). -/
def regRead (s : State) (r : Reg) (w i words : Nat) : Nat × State :=
  if recoveryId s ∧ ¬ r.inRecoveryId then (0, s)
  else if (match r.domain w i with | some d => domOn s d | none => true) then
    (regView s r w i &&& r.readMask &&& words, match r with
      | .MBX_RX => (chRead s i).2
      | r => readClears s r w i words)
  else (0, fset s F.PWR_STATUS.OFF_ACCESS 1)

/-- The word at offset o of the MSI-X table of function f (16 R460). -/
def msixRead (s : State) (f o : Nat) : Nat :=
  let e := tgetD s.hif.msix (f * 2048 + o / 16) {}
  if vectorCount f ≤ o / 16 then 0
  else match o / 4 % 4 with
    | 0 => e.addr % 2 ^ 32
    | 1 => e.addr / 2 ^ 32
    | 2 => e.data
    | _ => b2n e.masked

/-- A read of n bytes at an offset that names no register: the MSI-X table and PBA (16 R460), the FOL window and its aliases (11 R338,
R344), the flash page (19 R541); 0 elsewhere (R7). -/
def placeRead (s : State) (f off n : Nat) : Nat × State :=
  if recoveryId s ∧ off / 4096 ≠ 0x1501 then (0, s)
  else if 0x1_0000 ≤ off ∧ off < 0x1_8000 then (msixRead s f (off - 0x1_0000), s)
  else if 0x1_8000 ≤ off ∧ off < 0x1_8100 then
    (maskBits 32 (fun b => decide (f * 2048 + 8 * (off - 0x1_8000) + b ∈ s.hif.pba)), s)
  else if f = 0 ∧ 0x35 ≤ off / 2 ^ 18 ∧ off / 2 ^ 18 ≤ 0x37 then
    (if winOn s then (leNat (mread 0 s.mem.folio (winAddr s off) n), s) else (0, fset s F.FOL_WIN_STATUS.DOMAIN_OFF 1))
  else if f = 0 ∧ off / 4096 = 0x1501 then (leNat (mread 0 s.boot.window (off % 4096) n), s)
  else (0, s)

/-- A 32-bit read of function f (R6 to R8). -/
def read32 (f off : Nat) (s : State) : Nat × State :=
  match findReg f off with
  | some (r, w, i, k) =>
    let x := regRead s r w i ((2 ^ 32 - 1) <<< (32 * k))
    (x.1 >>> (32 * k), x.2)
  | none => placeRead s f off 4

/-- A 64-bit read of function f (R9): whole from a 64-bit register or a folio bank, else two 32-bit reads, the low word first. -/
def read64 (f off : Nat) (s : State) : Nat × State :=
  let lo := read32 f off s
  let hi := read32 f (off + 4) lo.2
  let two := (lo.1 + hi.1 <<< 32, hi.2)
  match findReg f off with
  | some (r, w, i, k) => if r.place.width = 64 ∧ k = 0 then regRead s r w i (2 ^ 64 - 1) else two
  | none => if 0x35 ≤ off / 2 ^ 18 ∧ off / 2 ^ 18 ≤ 0x37 then placeRead s f off 8 else two

/-- A BAR0 read of function f (R6 to R9): answered, or with Unsupported Request at another width or alignment, for a function that does
not exist or whose FLR runs (16 R456, R464), and with Completer Abort outside HIF and INT in fail-safe (13 R410). -/
def bar0Read (f off width : Nat) (s : State) : State :=
  let answer (n : Nat) (x : Nat × State) : State := send x.2 (.completion (natLe x.1 n) false)
  if ¬ fnExists s f ∨ (fnCfg s f).inFlr then unsupported s
  else if width = 32 ∧ off % 4 = 0 ∨ width = 64 ∧ off % 8 = 0 then
    if failsafe s ∧ off / 2 ^ 20 ≠ 0 ∧ off / 2 ^ 20 ≠ 15 then completerAbort s
    else if width = 32 then answer 4 (read32 f off s)
    else answer 8 (read64 f off s)
  else unsupported s

/-- HIF_RATE_MIN_READ (01 R26), and every other read of BAR0: the table has one row for a read of a register, and its command carries the
function, the offset and the width, so that RC fields clear and a read of bad width or alignment is refused wherever it goes (log 39).
The row's own read is the one of 32 bits at offset 0x214 by the PF. -/
def execHifRateMinRead (f off width : Nat) (s : State) : Out := powered s (bar0Read f off width s)

end Sys2Proof.Machine
end

