-- ==== Sys2Proof/Machine/System.lean ====
section
/-!
DEFINITION. Machine/System.lean: the rate monitor, the AON PLL (01 R21 to R26) and the interference windows (03 R103, R104).
-/

namespace Sys2Proof.Machine

/-- RATE_MONITOR_WINDOW (01 R21, R26): a window of 1 µs ends, and the slowest replica made rate million handshakes per second in
it. A rate below 900 enters fail-safe (13 R408), while FEX is ON (18 R520). The 12-bit RATE stays at 4095 for a faster window (log 113).
rateSeen tells a window of rate 0 from none: its 0 stays in MIN, which reads the same in both cases (log 114). -/
def execRateMonitorWindow (rate : Nat) (s : State) : Out :=
  powered s (if s.time = 0 ∨ s.time % 1000 ≠ 0 ∨ ¬ domOn s 41 then s else
    let rate := Nat.min rate 4095
    let old := fget s F.HIF_RATE_MIN.MIN
    let s := fset s F.HIF_RATE_NOW.RATE rate
    let s := fset s F.HIF_RATE_MIN.MIN (if s.hif.rateSeen then Nat.min old rate else rate)
    let s := { s with hif := { s.hif with rateSeen := true } }
    if rate < 900 then failsafeEnter s 5 else s)

/-- AON_PLL_LOCK_LOST (01 R25, 13 R554). -/
def execAonPllLockLost (s : State) : Out :=
  powered s (if flag s F.HIF_TIME_CTL.SOURCE then s else
    raiseBare (fset (fset s F.HIF_TIME_CTL.SOURCE 1) F.HIF_TIME_CTL.LOCK_LOST 1) 0x12F .ok 0 (.system 2 0 1 0))

/-- AON_PLL_LOCK_REGAINED (01 R25). -/
def execAonPllLockRegained (s : State) : Out := powered s (fset s F.HIF_TIME_CTL.SOURCE 0)

/-- The time base counts one nanosecond (01 R24); with AON power off nothing counts. -/
def tick (s : State) : State := if s.boot.aonPgood then { s with time := (s.time + 1) % 2 ^ 64 } else s

/-! ### Interference (03 R102 to R104) -/



/-- The function whose partition holds a context number. -/
def ctxFn (s : State) (c : Nat) : Nat := ((List.range 16).find? fun f =>
  16 * fget s F.FE_PART.CTX_BASE 0 f ≤ c ∧ c < 16 * fget s F.FE_PART.CTX_BASE 0 f + 16 * fget s F.FE_PART.CTX_COUNT 0 f).getD 0

/-- A record of the interference ring for context c in a window (03 R104): dropped where the ring is full. -/
def intfRecord (n : Nat) (s : State) (c : Nat) (d : Intf) : State :=
  let pi := fget s F.SCH_INTF_PI.PI
  let size := 2 ^ fget s F.SCH_INTF_CTL.RING_LOG2
  if size ≤ sub32 pi (fget s F.SCH_INTF_CI.CI) then fset s F.SCH_INTF_CTL.DROPPED 1
  else
    let b := natLe (n * 1000000) 8 ++ natLe c 2 ++ natLe (slowdown d) 2 ++ natLe (if d.blocked = 0 then 0xFFFF else aggressor d.by_) 2
      ++ natLe (ctxFn s c) 1 ++ natLe 0 1
    fset (hostWrite s (rget s .SCH_INTF_RING + 16 * (pi % size)) b) F.SCH_INTF_PI.PI (pi + 1)

/-- The values of the window that ends now, for each of the 4,096 contexts: one that summed up nothing reports 0 (R103). A window
whose end no command has marked reports nothing, and its sums go to no other window (01 R30). -/
def intfClose (s : State) : State :=
  let n := intfWindow s - 1
  let sums := tgetD s.intf n []
  let s := { s with intf := s.intf.filter fun e => n < e.1, intfDone := some { window := n, sums := sums } }
  let hot := (List.range 4096).filter fun c => fget s F.SCH_INTF_CTL.THRESH * 16 ≤ slowdown (tgetD sums c {})
  if ¬ flag s F.SCH_INTF_CTL.EN ∨ hot = [] then s
  else msixRaise (hot.foldl (fun s c => intfRecord n s c (tgetD sums c {})) s) 0 (fget s F.SCH_INTF_CTL.VECTOR)

/-- INTERFERENCE_WINDOW_END (03 R103): at a multiple of 1 ms of the time base. -/
def execInterferenceWindowEnd (s : State) : Out :=
  engineStep s fun s => if s.time = 0 ∨ s.time % 1000000 ≠ 0 ∨ ¬ domOn s 41 then s else intfClose s

end Sys2Proof.Machine
end

