-- ==== Sys2Proof/Machine/Texture.lean ====
section
/-!
DEFINITION. Machine/Texture.lean: the texture path (08 R259 to R263): image and sampler descriptors, texel addresses and filtering.
-/

namespace Sys2Proof.Machine

/-- An image descriptor (R259), its 32 bytes as one number. -/
structure Image2 where
  addr : Nat
  width : Nat
  height : Nat
  layers : Nat
  format : Nat
  ty : Nat
  levels : Nat
  flags : Nat
  sample : Nat
  stride : Nat
  meta_ : Nat
  deriving DecidableEq, Repr, Inhabited

/-- The descriptor in eight words. -/
def imageOf (v : Nat) : Image2 :=
  { addr := bits v 63 0, width := bits v 79 64 + 1, height := bits v 95 80 + 1, layers := bits v 111 96 + 1, format := bits v 119 112,
    ty := bits v 127 120, levels := bits v 135 128, flags := bits v 143 136, sample := bits v 159 144, stride := bits v 191 160,
    meta_ := bits v 255 192 }

/-- The image is a surface attachment. -/
def Image2.surface (m : Image2) : Bool := bit m.flags 0

/-- Width and height of a gathering, as powers of two (R260). -/
def gatherLog (e : Nat) : Nat × Nat :=
  match e with
  | 1 => (4, 4) | 2 => (4, 3) | 4 => (3, 3) | 8 => (3, 2) | _ => (2, 2)

/-- The index of a texel in its gathering: the low bits of u and v interleaved. -/
def gatherIndex (lu lv u v : Nat) : Nat :=
  (List.range (Nat.max lu lv)).foldl (fun a i =>
    a + (if i < lu then bits u i i * 2 ^ (i + Nat.min i lv) else 0) + (if i < lv then bits v i i * 2 ^ (i + Nat.min (i + 1) lu) else 0)) 0

/-- Width and height of level l in texels. -/
def Image2.size (m : Image2) (l : Nat) : Nat × Nat := (Nat.max 1 (m.width >>> l), Nat.max 1 (m.height >>> l))

/-- Gatherings across and down a level. -/
def Image2.gathers (m : Image2) (l : Nat) : Nat × Nat :=
  let g := gatherLog (fmtBytes m.format)
  let z := m.size l
  ((z.1 + 2 ^ g.1 - 1) / 2 ^ g.1, (z.2 + 2 ^ g.2 - 1) / 2 ^ g.2)

/-- Bytes of a level of one layer. -/
def Image2.levelBytes (m : Image2) (l : Nat) : Nat := (m.gathers l).1 * (m.gathers l).2 * 256

/-- Address of a texel outside SURFACE (R260). -/
def Image2.texel (m : Image2) (l u v z : Nat) : Nat :=
  let g := gatherLog (fmtBytes m.format)
  let start := ((List.range l).map m.levelBytes).sum
  m.addr + z * m.stride * 4096 + start + ((v / 2 ^ g.2) * (m.gathers l).1 + u / 2 ^ g.1) * 256
    + gatherIndex g.1 g.2 (u % 2 ^ g.1) (v % 2 ^ g.2) * fmtBytes m.format

/-- The descriptor breaks R259. A surface image's TYPE must be 2, as the rule says. -/
def Image2.bad (m : Image2) : Bool :=
  m.addr % 256 ≠ 0 ∨ fmtChans m.format = [] ∨ 5 < m.ty ∨ m.levels = 0 ∨ 15 < m.levels ∨ m.flags / 2 ≠ 0
    ∨ ((m.ty = 3 ∨ m.ty = 5) ∧ m.layers % 6 ≠ 0)
    ∨ m.stride * 4096 < ((List.range m.levels).map m.levelBytes).sum
    ∨ (m.surface ∧ (m.ty ≠ 2 ∨ m.levels ≠ 1 ∨ m.width % 32 ≠ 0 ∨ m.height % 32 ≠ 0 ∨ 8 ≤ m.sample))

/-- A sampler descriptor (R261), its 16 bytes as one number. -/
structure Sampler where
  mag : Nat
  min_ : Nat
  mip : Nat
  modes : List Nat
  aniso : Nat
  compare : Nat
  border : Nat
  bias : Nat
  minLod : Nat
  maxLod : Nat
  deriving DecidableEq, Repr, Inhabited

/-- The sampler in four words. -/
def samplerOf (v : Nat) : Sampler :=
  { mag := bits v 1 0, min_ := bits v 3 2, mip := bits v 5 4, modes := [bits v 10 8, bits v 13 11, bits v 18 16], aniso := bits v 23 19,
    compare := bits v 27 24, border := bits v 31 28, bias := bits v 63 32, minLod := bits v 95 64, maxLod := bits v 127 96 }

/-- A code outside its range. -/
def Sampler.bad (p : Sampler) : Bool :=
  1 < p.mag ∨ 1 < p.min_ ∨ 2 < p.mip ∨ p.modes.any (fun m => 3 < m) ∨ p.aniso = 0 ∨ 16 < p.aniso ∨ 8 < p.compare ∨ 2 < p.border

/-- A texel coordinate under an address mode: none for the border. -/
def wrapTexel (mode n : Nat) (i : Int) : Option Nat :=
  match mode with
  | 0 => some (i % (n : Int)).toNat
  | 1 => let j := (i % (2 * n : Int)).toNat; some (if j < n then j else 2 * n - 1 - j)
  | 2 => some (Nat.min i.toNat (n - 1))
  | _ => if 0 ≤ i ∧ i < n then some i.toNat else none

/-- The border colour. -/
def borderOf (p : Sampler) : List Nat :=
  match p.border with
  | 0 => [0, 0, 0, 0]
  | 1 => [0, 0, 0, fOne]
  | _ => [fOne, fOne, fOne, fOne]

/-- The floor of a finite binary32 value, and its fraction cut to 8 bits (R262). -/
def floorFrac (x : Nat) : Int × Nat :=
  let d := dy x
  let m := d.m * 2 ^ (Int.toNat (d.e + 8))
  let v : Int := if 0 ≤ d.e + 8 then m else d.m / 2 ^ (Int.toNat (-(d.e + 8)))
  (v / 256, (v % 256).toNat)

/-- What a texture read has so far: the fault that stops it, and the state. -/
abbrev TexAcc := Option (Status × Nat) × State

/-- A read of a core's texture unit, line by line through the core's L1 (R263). -/
def texRead (k : Block) (a n : Nat) (acc : TexAcc) : List Byte × TexAcc :=
  let r := (linesOf a n).foldl (fun (r : List Byte × TexAcc) l =>
    match r.2.1 with
    | some _ => r
    | none =>
      let x := vload r.2.2 k.core k.fn k.asid k.ctx (128 * l)
      if x.1 = .ok then (r.1 ++ x.2.1, none, x.2.2) else (r.1, some (x.1, Nat.max a (128 * l)), x.2.2)) ([], acc)
  (if r.2.1.isSome then zeros n else (r.1.drop (a % 128)).take n, r.2)

/-- The tile edge and samples of a SURFACE image: its descriptor does not hold them, so a free choice stands for them (log 16). -/
def surfaceShape (m : Image2) (free : Nat) : Nat × Nat :=
  (if free % 2 = 0 then 64 else 32, if m.sample = 0 then 2 ^ (free / 2 % 4) else if m.sample = 1 then 2 ^ (1 + free / 2 % 3)
    else if m.sample < 4 then 2 ^ (2 + free / 2 % 2) else 8)

/-- The stored element of a texel of a SURFACE image (R254, R259). -/
def surfaceTexel (k : Block) (m : Image2) (free u v : Nat) (acc : TexAcc) : Nat × TexAcc :=
  let sh := surfaceShape m free
  let t := sh.1
  let e := fmtBytes m.format
  let n := v / t * ((m.width + t - 1) / t) + u / t
  let size := t * t * sh.2 * e
  let entry := texRead k (m.meta_ + 160 * n) 32 acc
  let data := texRead k (m.addr + n * size) (storedBytes size entry.1) entry.2
  (fieldAt (decodeTile e size entry.1 data.1) (elemIndex t m.sample (u % t) (v % t) * e) e, data.2)

/-- A texel's four channels; those that its format lacks are free. -/
def texelChans (k : Block) (m : Image2) (free l z : Nat) (u v : Nat) (acc : TexAcc) : List Nat × TexAcc :=
  let e := fmtBytes m.format
  let r := if m.surface then surfaceTexel k m free u v acc
    else let b := texRead k (m.texel l u v z) e acc; (leNat b.1, b.2)
  (decodeElem m.format r.1 (free % 2 ^ 32), r.2)

/-- A texel as a filter takes it: the border where its coordinates lie outside, and under COMPARE the outcome of the comparison. -/
def sampleTexel (k : Block) (m : Image2) (p : Sampler) (ref free l : Nat) (z : Option Nat) (iu iv : Int) (acc : TexAcc) :
    List Nat × TexAcc :=
  let s := m.size l
  let v : Option Nat := if m.ty = 0 then some 0 else wrapTexel (p.modes.getD 1 0) s.2 iv
  let r := match wrapTexel (p.modes.getD 0 0) s.1 iu, v, z with
    | some u, some v, some z => texelChans k m free l z u v acc
    | _, _, _ => (borderOf p, acc)
  if p.compare = 8 then r
  else
    let t := r.1.headD 0
    let pass := cmpCode p.compare (fLess ref t) ((Fmt.b32.cmp .eq false ref t).1 = 1) (fLess t ref)
    ((if pass then fOne else 0) :: List.replicate 3 (free % 2 ^ 32), r.2)

/-- A weight of n / 256 in binary32. -/
def weight (n : Nat) : Nat := fInt n (-8)

/-- Two colours blended: (256 - w) / 256 of the first and w / 256 of the second. -/
def lerp (w : Nat) (a b : List Nat) : List Nat := (a.zip b).map fun x => fAdd (fMul x.1 (weight (256 - w))) (fMul x.2 (weight w))

/-- A plane of a level filtered at (u, v). -/
def filterPlane (k : Block) (m : Image2) (p : Sampler) (ref free l : Nat) (linear : Bool) (z : Option Nat) (u v : Nat) (acc : TexAcc) :
    List Nat × TexAcc :=
  let s := m.size l
  let at_ (x n : Nat) : Int × Nat := if linear then floorFrac (fSub (fMul x (fInt n)) (fInt 1 (-1))) else floorFrac (fMul x (fInt n))
  let a := at_ u s.1
  let b := at_ v s.2
  let t (i j : Int) (acc : TexAcc) := sampleTexel k m p ref free l z (a.1 + i) (b.1 + j) acc
  if ¬ linear then t 0 0 acc
  else
    let c00 := t 0 0 acc
    let c10 := t 1 0 c00.2
    if m.ty = 0 then (lerp a.2 c00.1 c10.1, c10.2)
    else
      let c01 := t 0 1 c10.2
      let c11 := t 1 1 c01.2
      (lerp b.2 (lerp a.2 c00.1 c10.1) (lerp a.2 c01.1 c11.1), c11.2)

/-- A level filtered: w selects the slice or layer. -/
def filterLevel (k : Block) (m : Image2) (p : Sampler) (ref free l : Nat) (linear : Bool) (layer u v w : Nat) (acc : TexAcc) :
    List Nat × TexAcc :=
  if m.ty = 2 ∧ ¬ m.surface then
    let n := Nat.max 1 (m.layers >>> l)
    let c := if linear then floorFrac (fSub (fMul w (fInt n)) (fInt 1 (-1))) else floorFrac (fMul w (fInt n))
    let z (i : Int) : Option Nat := wrapTexel (p.modes.getD 2 0) n (c.1 + i)
    let a := filterPlane k m p ref free l linear (z 0) u v acc
    if ¬ linear then a
    else
      let b := filterPlane k m p ref free l linear (z 1) u v a.2
      (lerp c.2 a.1 b.1, b.2)
  else filterPlane k m p ref free l linear (some layer) u v acc

/-- The layer that a coordinate names: itself where it is a whole number in range, else free (log 16). -/
def layerOf (n free x : Nat) : Nat :=
  let d := floorFrac x
  if (dy x).sub (Dy.int d.1) = Dy.int 0 (dy x).e ∨ ((dy x).sub (Dy.int d.1)).m = 0 then (if 0 ≤ d.1 ∧ d.1 < n then d.1.toNat else free % n)
  else free % n

/-- The place that the coordinates name: u, v, w, layer. A cube's face is that of the greatest coordinate; the place within the
face and ties are free (log 16). -/
def texPlace (m : Image2) (free : Nat) (c : List Nat) : Nat × Nat × Nat × Nat :=
  let x (i : Nat) := finite free (c.getD i 0)
  if m.ty = 3 ∨ m.ty = 5 then
    let mag (i : Nat) := x i % 2 ^ 31
    let best := (List.range 3).filter fun i => (List.range 3).all fun j => mag j ≤ mag i
    let axis := best.getD (free % Nat.max 1 best.length) 0
    let face := 2 * axis + b2n (bit (x axis) 31)
    let cube := if m.ty = 5 then layerOf (m.layers / 6) free (x 3) else 0
    (Dy.code Fmt.b32 .ties ⟨(free % 2 ^ 24 : Nat), -24⟩, Dy.code Fmt.b32 .ties ⟨(free / 2 ^ 24 % 2 ^ 24 : Nat), -24⟩, 0, 6 * cube + face)
  else (x 0, if m.ty = 0 then 0 else x 1, x 2, if m.ty = 4 then layerOf m.layers free (x 2) else 0)

/-- Coordinates of a type, before the reference. -/
def texDims (ty : Nat) : Nat :=
  match ty with | 0 => 1 | 1 => 2 | 5 => 4 | _ => 3

/-- One probe: its colour at a level of detail (R262). -/
def texProbe (k : Block) (m : Image2) (p : Sampler) (ref free lod : Nat) (pl : Nat × Nat × Nat × Nat) (acc : TexAcc) : List Nat × TexAcc :=
  let linear : Bool := decide ((if fLess 0 lod then p.min_ else p.mag) = 1)
  let go (l : Nat) (acc : TexAcc) := filterLevel k m p ref free (Nat.min l (m.levels - 1)) linear pl.2.2.2 pl.1 pl.2.1 pl.2.2.1 acc
  let f := floorFrac (fClamp0 lod)
  match p.mip with
  | 0 => go ((quant .ties false (f.1.toNat * 256 + f.2) (-8) 0).1) acc
  | 1 =>
    let a := go f.1.toNat acc
    if f.2 = 0 then a
    else
      let b := go (f.1.toNat + 1) a.2
      (lerp f.2 a.1 b.1, b.2)
  | _ => go 0 acc
where
  /-- Negative and other than ordinary values as 0. -/
  fClamp0 (x : Nat) : Nat := if Fmt.b32.isNan x ∨ bit x 31 then 0 else if bits x 30 23 = 255 then fInt 65536 else x

/-- The number of probes under MAX_ANISO (R262): min(MAX_ANISO, ⌈major / minor⌉). The spec gives no formula for the axes of a footprint,
so that their ratio, at least 1, is free, in 1/256 (log 16). -/
def probeCount (aniso free : Nat) : Nat := Nat.min aniso ((256 + free % 2 ^ 16 + 255) / 256)

/-- Probe i of several: the coordinates u and v moved along the major axis of the footprint, one line for all probes; its direction and
the places on it are free (log 16). -/
def probeAt (free i : Nat) (coords : List Nat) : List Nat :=
  let f (n : Nat) : Nat := finite 0 (free / 2 ^ (256 + 32 * n) % 2 ^ 32)
  (coords.take 2).mapIdx (fun j x => fFma (f (2 + i)) (f j) x) ++ coords.drop 2

/-- The four channels that a thread receives. -/
def texThread (k : Block) (g : Group) (m : Image2) (p : Sampler) (c : Nat) (src : TexLod) (t : Nat) (acc : TexAcc) : List Nat × TexAcc :=
  let f0 := Config.free acc.2.freeCtr
  let acc : TexAcc := (acc.1, { acc.2 with freeCtr := acc.2.freeCtr + 1 })
  let coords := (List.range 4).map fun i => vr g (c + i) t
  let ref := vr g (c + texDims m.ty) t
  let raw := match src with | .level r => vr g r t | .derived => f0 / 2 ^ 64 % 2 ^ 32
  let lod := fAdd raw p.bias
  let lod := if fLess lod p.minLod then p.minLod else if fLess p.maxLod lod then p.maxLod else lod
  let linear : Bool := p.mag = 1 ∨ p.min_ = 1 ∨ p.mip = 1
  let n := match src with | .level _ => 1 | .derived => probeCount p.aniso (f0 / 2 ^ 96)
  if m.format = 0x0C ∧ linear then ((List.range 4).map fun i => f0 / 2 ^ (128 + 32 * i) % 2 ^ 32, acc)
  else
    let r := (List.range n).foldl (fun (a : List Nat × TexAcc) i =>
      let pl := texPlace m f0 (if n = 1 then coords else probeAt f0 i coords)
      let q := texProbe k m p ref f0 lod pl a.2
      (if i = 0 then q.1 else (a.1.zip q.1).map fun x => fAdd x.1 x.2, q.2)) ([0, 0, 0, 0], acc)
    (if n = 1 then r.1 else r.1.map fun v => fDiv v (fInt n), r.2)

/-- TEX (R259 to R263): d first result register, c first coordinate register, im and sm first scalar registers of the image and the
sampler descriptor. A fault on a texel parks the group. -/
def execTex (core pipe d c im sm : Nat) (lod : TexLod) (s : State) : Out :=
  issue s core pipe [] true fun s i =>
    let words (r n : Nat) : Nat := (List.range n).foldl (fun a j => a + sreg i.g (r + j) * 2 ^ (32 * j)) 0
    let m := imageOf (words im 8)
    let p := samplerOf (words sm 4)
    let regs := 8 * vUnits i.blk.prog
    if regs < d + 4 ∨ regs < c + texDims m.ty ∨ 16 * sUnits i.blk.prog < im + 8 ∨ 16 * sUnits i.blk.prog < sm + 4 ∨ m.bad ∨ p.bad then
      parkAt s i .badOpcode
    else
      let r := i.ts.foldl (fun (a : Group × TexAcc) t =>
        let q := texThread i.blk i.g m p c lod t a.2
        ((List.range 4).foldl (fun g j => setV g (d + j) t (q.1.getD j 0)) a.1, q.2)) (i.g, none, s)
      match r.2.1 with
      | some f => parkAt r.2.2 i f.1 f.2
      | none => put r.2.2 i (advance r.1 i.ts)

end Sys2Proof.Machine
end

