-- ==== Sys2Proof/Machine/Dispatch.lean ====
section
/-!
DEFINITION. Machine/Dispatch.lean: the meaning of each command, one arm per constructor.
-/

namespace Sys2Proof.Machine

/-- What a command does to everything but the queue. -/
def exec (i : Instr) (s : State) : Host.Outcome State Fault Refusal :=
  match i with
  | .registerWrite f off width value lost => Sys2Proof.Machine.execRegisterWrite f off width value lost s
  | .rateMonitorWindow rate => Sys2Proof.Machine.execRateMonitorWindow rate s
  | .hifRateMinRead f off width => Sys2Proof.Machine.execHifRateMinRead f off width s
  | .aonPllLockLost => Sys2Proof.Machine.execAonPllLockLost s
  | .aonPllLockRegained => Sys2Proof.Machine.execAonPllLockRegained s
  | .fePartWrite f v => Sys2Proof.Machine.execFePartWrite f v s
  | .queueCreate f => Sys2Proof.Machine.execQueueCreate f s
  | .queueDescriptorReadDone f => Sys2Proof.Machine.execQueueDescriptorReadDone f s
  | .queueDestroy f => Sys2Proof.Machine.execQueueDestroy f s
  | .queueResume f => Sys2Proof.Machine.execQueueResume f s
  | .queueResumeSkip f => Sys2Proof.Machine.execQueueResumeSkip f s
  | .qcmdUndefinedOp f op => Sys2Proof.Machine.execQcmdUndefinedOp f op s
  | .dbWriteIndex f n w => Sys2Proof.Machine.execDbWriteIndex f n w s
  | .dbFenceCi f n ci => Sys2Proof.Machine.execDbFenceCi f n ci s
  | .queueArmSend n => Sys2Proof.Machine.execQueueArmSend n s
  | .armServe n => Sys2Proof.Machine.execArmServe n s
  | .armReturnCompare n => Sys2Proof.Machine.execArmReturnCompare n s
  | .wakeArrive n => Sys2Proof.Machine.execWakeArrive n s
  | .entryFetch n => Sys2Proof.Machine.execEntryFetch n s
  | .objectCacheMissReadDone n st => Sys2Proof.Machine.execObjectCacheMissReadDone n st s
  | .indirectArgsReadDone t => Sys2Proof.Machine.execIndirectArgsReadDone t s
  | .commandStart x => Sys2Proof.Machine.execCommandStart x s
  | .commandFinish t => Sys2Proof.Machine.execCommandFinish t s
  | .drawNonIndexed n misses => Sys2Proof.Machine.execDrawNonIndexed n misses s
  | .drawIndexed n misses => Sys2Proof.Machine.execDrawIndexed n misses s
  | .drawIndirect n misses => Sys2Proof.Machine.execDrawIndirect n misses s
  | .binPassBegin n misses => Sys2Proof.Machine.execBinPassBegin n misses s
  | .binPassEnd n misses => Sys2Proof.Machine.execBinPassEnd n misses s
  | .dispatchDirect n misses => Sys2Proof.Machine.execDispatchDirect n misses s
  | .dispatchIndirect n misses => Sys2Proof.Machine.execDispatchIndirect n misses s
  | .dispatchResident n misses => Sys2Proof.Machine.execDispatchResident n misses s
  | .accordCommand n misses => Sys2Proof.Machine.execAccordCommand n misses s
  | .copy n misses => Sys2Proof.Machine.execCopy n misses s
  | .fill n misses => Sys2Proof.Machine.execFill n misses s
  | .pressDeflateCompress n misses => Sys2Proof.Machine.execPressDeflateCompress n misses s
  | .pressPf1Compress n misses => Sys2Proof.Machine.execPressPf1Compress n misses s
  | .pressDeflateDecompress n misses => Sys2Proof.Machine.execPressDeflateDecompress n misses s
  | .pressPf1Decompress n misses => Sys2Proof.Machine.execPressPf1Decompress n misses s
  | .fence n misses => Sys2Proof.Machine.execFence n misses s
  | .waitQueueSequence n misses => Sys2Proof.Machine.execWaitQueueSequence n misses s
  | .waitMemoryValue n misses => Sys2Proof.Machine.execWaitMemoryValue n misses s
  | .waitPoll t => Sys2Proof.Machine.execWaitPoll t s
  | .waitPollReadDone t => Sys2Proof.Machine.execWaitPollReadDone t s
  | .waitTimeout t => Sys2Proof.Machine.execWaitTimeout t s
  | .graphLaunch n misses => Sys2Proof.Machine.execGraphLaunch n misses s
  | .seqStep n misses => Sys2Proof.Machine.execSeqStep n misses s
  | .queryContextUtil n misses => Sys2Proof.Machine.execQueryContextUtil n misses s
  | .queryContextMemory n misses => Sys2Proof.Machine.execQueryContextMemory n misses s
  | .queryTimestamp n misses => Sys2Proof.Machine.execQueryTimestamp n misses s
  | .queryQueueState n misses => Sys2Proof.Machine.execQueryQueueState n misses s
  | .contextTeardownKill n misses => Sys2Proof.Machine.execContextTeardownKill n misses s
  | .contextTeardownDrain n misses => Sys2Proof.Machine.execContextTeardownDrain n misses s
  | .drainTimeout c => Sys2Proof.Machine.execDrainTimeout c s
  | .teardownPreemptDone c => Sys2Proof.Machine.execTeardownPreemptDone c s
  | .teardownQuarantineEnd c => Sys2Proof.Machine.execTeardownQuarantineEnd c s
  | .objectCreate f rsvd => Sys2Proof.Machine.execObjectCreate f rsvd s
  | .objectDestroy f rsvd => Sys2Proof.Machine.execObjectDestroy f rsvd s
  | .objCmdUndefinedOp f op => Sys2Proof.Machine.execObjCmdUndefinedOp f op s
  | .completionWrite n => Sys2Proof.Machine.execCompletionWrite n s
  | .itemPlace e => Sys2Proof.Machine.execItemPlace e s
  | .preemptGraceExpiry x => Sys2Proof.Machine.execPreemptGraceExpiry x s
  | .preemptSaveDone x => Sys2Proof.Machine.execPreemptSaveDone x s
  | .schDiscard h n => Sys2Proof.Machine.execSchDiscard h n s
  | .deadlineBudgetExpiry core slot => Sys2Proof.Machine.execDeadlineBudgetExpiry core slot s
  | .graphPublish f => Sys2Proof.Machine.execGraphPublish f s
  | .graphPatch f => Sys2Proof.Machine.execGraphPatch f s
  | .gcmdUndefinedOp f op => Sys2Proof.Machine.execGcmdUndefinedOp f op s
  | .graphOpComplete f => Sys2Proof.Machine.execGraphOpComplete f s
  | .graphNodeFinish l n => Sys2Proof.Machine.execGraphNodeFinish l n s
  | .interferenceWindowEnd => Sys2Proof.Machine.execInterferenceWindowEnd s
  | .groupIssue core pipe ecc x => Sys2Proof.Machine.execGroupIssue core pipe ecc x s
  | .exit core pipe steps => Sys2Proof.Machine.execExit core pipe steps s
  | .trap core pipe => Sys2Proof.Machine.execTrap core pipe s
  | .memoryAccessReturn core slot n ecc refetch => Sys2Proof.Machine.execMemoryAccessReturn core slot n ecc refetch s
  | .barWait core pipe n => Sys2Proof.Machine.execBarWait core pipe n s
  | .barrierMismatchDetect b => Sys2Proof.Machine.execBarrierMismatchDetect b s
  | .barrierTimeout b n => Sys2Proof.Machine.execBarrierTimeout b n s
  | .accordInstruction core pipe dst d => Sys2Proof.Machine.execAccordInstruction core pipe dst d s
  | .accWait core pipe dst src => Sys2Proof.Machine.execAccWait core pipe dst src s
  | .accLoadFrag core pipe d a n => Sys2Proof.Machine.execAccLoadFrag core pipe d a n s
  | .accStoreFrag core pipe d a n => Sys2Proof.Machine.execAccStoreFrag core pipe d a n s
  | .matrixDivergenceDetect core slot => Sys2Proof.Machine.execMatrixDivergenceDetect core slot s
  | .accInfo core pipe d => Sys2Proof.Machine.execAccInfo core pipe d s
  | .accArg core pipe d n => Sys2Proof.Machine.execAccArg core pipe d n s
  | .qwait core pipe d q ix => Sys2Proof.Machine.execQwait core pipe d q ix s
  | .qwaitWake q => Sys2Proof.Machine.execQwaitWake q s
  | .qcomplete core pipe q n flags => Sys2Proof.Machine.execQcomplete core pipe q n flags s
  | .fstat core pipe d => Sys2Proof.Machine.execFstat core pipe d s
  | .tex core pipe d c im sm lod => Sys2Proof.Machine.execTex core pipe d c im sm lod s
  | .discard core pipe steps => Sys2Proof.Machine.execDiscard core pipe steps s
  | .stOrdered core pipe n addr src => Sys2Proof.Machine.execStOrdered core pipe n addr src s
  | .ruProbe core pipe r d ecc => Sys2Proof.Machine.execRuProbe core pipe r d ecc s
  | .ruCommit core pipe d => Sys2Proof.Machine.execRuCommit core pipe d s
  | .scReplayReplay f id gen => Sys2Proof.Machine.execScReplayReplay f id gen s
  | .scReplayContinue f id gen => Sys2Proof.Machine.execScReplayContinue f id gen s
  | .scReplayAbort f id gen => Sys2Proof.Machine.execScReplayAbort f id gen s
  | .scReplayContext f ctx => Sys2Proof.Machine.execScReplayContext f ctx s
  | .scReplayUndefinedOp f op => Sys2Proof.Machine.execScReplayUndefinedOp f op s
  | .shaderEccUncorrectable core => Sys2Proof.Machine.execShaderEccUncorrectable core s
  | .accordDescriptorArrive e => Sys2Proof.Machine.execAccordDescriptorArrive e s
  | .mmaStart e => Sys2Proof.Machine.execMmaStart e s
  | .mmaComplete e ecc => Sys2Proof.Machine.execMmaComplete e ecc s
  | .moverStart e => Sys2Proof.Machine.execMoverStart e s
  | .moverComplete e => Sys2Proof.Machine.execMoverComplete e s
  | .accumulatorEccError e => Sys2Proof.Machine.execAccumulatorEccError e s
  | .controlBlockReadDone p => Sys2Proof.Machine.execControlBlockReadDone p s
  | .geometryStageBatch => Sys2Proof.Machine.execGeometryStageBatch s
  | .geometryBatchAdmit steps => Sys2Proof.Machine.execGeometryBatchAdmit steps s
  | .flushTilesStored p => Sys2Proof.Machine.execFlushTilesStored p s
  | .routeBatch steps => Sys2Proof.Machine.execRouteBatch steps s
  | .blockBatch steps => Sys2Proof.Machine.execBlockBatch steps s
  | .passEndFinish p => Sys2Proof.Machine.execPassEndFinish p s
  | .tileHandout => Sys2Proof.Machine.execTileHandout s
  | .tileRecordRun c sl => Sys2Proof.Machine.execTileRecordRun c sl s
  | .fragmentOutputBlend c sl => Sys2Proof.Machine.execFragmentOutputBlend c sl s
  | .tileWriteOut c sl => Sys2Proof.Machine.execTileWriteOut c sl s
  | .tileWriteOutAccepted c sl steps => Sys2Proof.Machine.execTileWriteOutAccepted c sl steps s
  | .truBump f => Sys2Proof.Machine.execTruBump f s
  | .truInvalidate f => Sys2Proof.Machine.execTruInvalidate f s
  | .truCmdUndefinedOp f op => Sys2Proof.Machine.execTruCmdUndefinedOp f op s
  | .truSlotCfgWrite sl v => Sys2Proof.Machine.execTruSlotCfgWrite sl v s
  | .loadTermReadDone p => Sys2Proof.Machine.execLoadTermReadDone p s
  | .reuseTileLookup p ecc => Sys2Proof.Machine.execReuseTileLookup p ecc s
  | .reuseTileCopy c p => Sys2Proof.Machine.execReuseTileCopy c p s
  | .seqAdmit f => Sys2Proof.Machine.execSeqAdmit f s
  | .seqAdmitReadDone f => Sys2Proof.Machine.execSeqAdmitReadDone f s
  | .seqCancel f => Sys2Proof.Machine.execSeqCancel f s
  | .seqHold f => Sys2Proof.Machine.execSeqHold f s
  | .seqResume f => Sys2Proof.Machine.execSeqResume f s
  | .seqRelease f => Sys2Proof.Machine.execSeqRelease f s
  | .seqAddPages f => Sys2Proof.Machine.execSeqAddPages f s
  | .seqRemovePages f => Sys2Proof.Machine.execSeqRemovePages f s
  | .seqScmdUndefinedOp f op => Sys2Proof.Machine.execSeqScmdUndefinedOp f op s
  | .seqKvPoolWrite f v => Sys2Proof.Machine.execSeqKvPoolWrite f v s
  | .seqFormation t => Sys2Proof.Machine.execSeqFormation t s
  | .seqHarvest t => Sys2Proof.Machine.execSeqHarvest t s
  | .seqEvtCi f v => Sys2Proof.Machine.execSeqEvtCi f v s
  | .slotPageRelease n => Sys2Proof.Machine.execSlotPageRelease n s
  | .slotReleaseAcksDone n => Sys2Proof.Machine.execSlotReleaseAcksDone n s
  | .seqRingCfgWrite v => Sys2Proof.Machine.execSeqRingCfgWrite v s
  | .ringHopTransmit => Sys2Proof.Machine.execRingHopTransmit s
  | .ringMessageReceive => Sys2Proof.Machine.execRingMessageReceive s
  | .ringProgressPoll => Sys2Proof.Machine.execRingProgressPoll s
  | .ringAbortReceive => Sys2Proof.Machine.execRingAbortReceive s
  | .ringWatchdogExpiry => Sys2Proof.Machine.execRingWatchdogExpiry s
  | .l2RequestLookup r e => Sys2Proof.Machine.execL2RequestLookup r e s
  | .l2MissFill la rep => Sys2Proof.Machine.execL2MissFill la rep s
  | .hbmRefresh k => Sys2Proof.Machine.execHbmRefresh k s
  | .hbmSelfRefreshEntry k => Sys2Proof.Machine.execHbmSelfRefreshEntry k s
  | .hbmSelfRefreshExit k => Sys2Proof.Machine.execHbmSelfRefreshExit k s
  | .l2InvalidateDone slice => Sys2Proof.Machine.execL2InvalidateDone slice s
  | .l2MaintClean scope => Sys2Proof.Machine.execL2MaintClean scope s
  | .l2MaintInvalidate scope => Sys2Proof.Machine.execL2MaintInvalidate scope s
  | .l2MaintCleanInvalidate scope => Sys2Proof.Machine.execL2MaintCleanInvalidate scope s
  | .l2MaintUndefinedOp op scope => Sys2Proof.Machine.execL2MaintUndefinedOp op scope s
  | .l2MaintDone => Sys2Proof.Machine.execL2MaintDone s
  | .folBankWrite c b v => Sys2Proof.Machine.execFolBankWrite c b v s
  | .folHandoverDrained c b => Sys2Proof.Machine.execFolHandoverDrained c b s
  | .folHandoverComplete c b => Sys2Proof.Machine.execFolHandoverComplete c b s
  | .folWindowWrite off v wide lost => Sys2Proof.Machine.execFolWindowWrite off v wide lost s
  | .folSetAliasWrite off v wide lost => Sys2Proof.Machine.execFolSetAliasWrite off v wide lost s
  | .folClearAliasWrite off v wide lost => Sys2Proof.Machine.execFolClearAliasWrite off v wide lost s
  | .arbiterGrant kind inst asks => Sys2Proof.Machine.execArbiterGrant kind inst asks s
  | .arbiterRevoke kind inst unit beats => Sys2Proof.Machine.execArbiterRevoke kind inst unit beats s
  | .arbiterWatchdog kind inst => Sys2Proof.Machine.execArbiterWatchdog kind inst s
  | .translationLookup r micro tc => Sys2Proof.Machine.execTranslationLookup r micro tc s
  | .walkReadDone n error => Sys2Proof.Machine.execWalkReadDone n error s
  | .faultBatchClose f => Sys2Proof.Machine.execFaultBatchClose f s
  | .atsTranslationCompletion f page ok out p => Sys2Proof.Machine.execAtsTranslationCompletion f page ok out p s
  | .atsInvalidationRequest f start len tag => Sys2Proof.Machine.execAtsInvalidationRequest f start len tag s
  | .xltInvRange f asid => Sys2Proof.Machine.execXltInvRange f asid s
  | .xltInvTag f asid => Sys2Proof.Machine.execXltInvTag f asid s
  | .xltInvVmAll f vm => Sys2Proof.Machine.execXltInvVmAll f vm s
  | .xltInvUndefinedOp f => Sys2Proof.Machine.execXltInvUndefinedOp f s
  | .invalidationGrant n => Sys2Proof.Machine.execInvalidationGrant n s
  | .invalidationEngineAck e => Sys2Proof.Machine.execInvalidationEngineAck e s
  | .xltVmCfgWrite v value => Sys2Proof.Machine.execXltVmCfgWrite v value s
  | .faultRecordAccept stuck dead => Sys2Proof.Machine.execFaultRecordAccept stuck dead s
  | .dieRecoveryFeTimeout => Sys2Proof.Machine.execDieRecoveryFeTimeout s
  | .recoveryComplete n => Sys2Proof.Machine.execRecoveryComplete n s
  | .recoveryWindowExpiry n => Sys2Proof.Machine.execRecoveryWindowExpiry n s
  | .faultWindowExpiry => Sys2Proof.Machine.execFaultWindowExpiry s
  | .intFailsafeForce => Sys2Proof.Machine.execIntFailsafeForce s
  | .intRecoverPackage => Sys2Proof.Machine.execIntRecoverPackage s
  | .autoPackageExpiry => Sys2Proof.Machine.execAutoPackageExpiry s
  | .intHoldWrite v => Sys2Proof.Machine.execIntHoldWrite v s
  | .intInjectWrite v => Sys2Proof.Machine.execIntInjectWrite v s
  | .pressCompressSlice t steps => Sys2Proof.Machine.execPressCompressSlice t steps s
  | .pressDecompressSlice t limit steps => Sys2Proof.Machine.execPressDecompressSlice t limit steps s
  | .dspCommit x => Sys2Proof.Machine.execDspCommit x s
  | .dspCommitCancel x => Sys2Proof.Machine.execDspCommitCancel x s
  | .latchPoint x => Sys2Proof.Machine.execLatchPoint x s
  | .pipeLineFetch p => Sys2Proof.Machine.execPipeLineFetch p s
  | .scanoutLine x => Sys2Proof.Machine.execScanoutLine x s
  | .writebackLine x => Sys2Proof.Machine.execWritebackLine x s
  | .hpdPlug n => Sys2Proof.Machine.execHpdPlug n s
  | .hpdUnplug n => Sys2Proof.Machine.execHpdUnplug n s
  | .hpdIrqPulse n lost => Sys2Proof.Machine.execHpdIrqPulse n lost s
  | .dspOutCtlWrite n v => Sys2Proof.Machine.execDspOutCtlWrite n v s
  | .linkTrainingDone n ok => Sys2Proof.Machine.execLinkTrainingDone n ok s
  | .auxNativeRead n addr len => Sys2Proof.Machine.execAuxNativeRead n addr len s
  | .auxNativeWrite n addr len => Sys2Proof.Machine.execAuxNativeWrite n addr len s
  | .auxI2cRead n addr len => Sys2Proof.Machine.execAuxI2cRead n addr len s
  | .auxI2cWrite n addr len => Sys2Proof.Machine.execAuxI2cWrite n addr len s
  | .auxReply n reply data count => Sys2Proof.Machine.execAuxReply n reply data count s
  | .auxTimeout n => Sys2Proof.Machine.execAuxTimeout n s
  | .bar2Read f o n => Sys2Proof.Machine.execBar2Read f o n s
  | .bar2Write f o data => Sys2Proof.Machine.execBar2Write f o data s
  | .deviceReadCompletion l e => Sys2Proof.Machine.execDeviceReadCompletion l e s
  | .msixPendingSend f v => Sys2Proof.Machine.execMsixPendingSend f v s
  | .pcieConfigRequest f r => Sys2Proof.Machine.execPcieConfigRequest f r s
  | .resizableBarControlWrite vf log2 => Sys2Proof.Machine.execResizableBarControlWrite vf log2 s
  | .l0pWindow up down granted => Sys2Proof.Machine.execL0pWindow up down granted s
  | .l1IdleExpiry granted => Sys2Proof.Machine.execL1IdleExpiry granted s
  | .wakeEvent code detail => Sys2Proof.Machine.execWakeEvent code detail s
  | .vfFlr f => Sys2Proof.Machine.execVfFlr f s
  | .vfEnableClear => Sys2Proof.Machine.execVfEnableClear s
  | .pfFlr => Sys2Proof.Machine.execPfFlr s
  | .hifVfWinWrite f v => Sys2Proof.Machine.execHifVfWinWrite f v s
  | .uapFlitReceive p raw => Sys2Proof.Machine.execUapFlitReceive p raw s
  | .uapFlitTransmit p => Sys2Proof.Machine.execUapFlitTransmit p s
  | .uapReplayTimer p => Sys2Proof.Machine.execUapReplayTimer p s
  | .uapTrainingComplete p ok reversed polarity => Sys2Proof.Machine.execUapTrainingComplete p ok reversed polarity s
  | .uapCtlEnWrite p en => Sys2Proof.Machine.execUapCtlEnWrite p en s
  | .uapSleepReq p => Sys2Proof.Machine.execUapSleepReq p s
  | .uapWake p => Sys2Proof.Machine.execUapWake p s
  | .uapWakePatternDetect p => Sys2Proof.Machine.execUapWakePatternDetect p s
  | .mailboxSend c word a => Sys2Proof.Machine.execMailboxSend c word a s
  | .mailboxReceiveRead c a => Sys2Proof.Machine.execMailboxReceiveRead c a s
  | .fwLoad => Sys2Proof.Machine.execFwLoad s
  | .fwLoadDone => Sys2Proof.Machine.execFwLoadDone s
  | .ccxWatchdogExpiry c => Sys2Proof.Machine.execCcxWatchdogExpiry c s
  | .ccxSramEccError c corrected => Sys2Proof.Machine.execCcxSramEccError c corrected s
  | .basicCommandTake => Sys2Proof.Machine.execBasicCommandTake s
  | .basicCommandDone logs => Sys2Proof.Machine.execBasicCommandDone logs s
  | .basicUndefinedOpcode => Sys2Proof.Machine.execBasicUndefinedOpcode s
  | .fwInfo => Sys2Proof.Machine.execFwInfo s
  | .logConfig => Sys2Proof.Machine.execLogConfig s
  | .fePolicy => Sys2Proof.Machine.execFePolicy s
  | .schPolicy => Sys2Proof.Machine.execSchPolicy s
  | .scPolicy => Sys2Proof.Machine.execScPolicy s
  | .acePolicy => Sys2Proof.Machine.execAcePolicy s
  | .colPolicy => Sys2Proof.Machine.execColPolicy s
  | .rasPolicy => Sys2Proof.Machine.execRasPolicy s
  | .truPolicy => Sys2Proof.Machine.execTruPolicy s
  | .seqPolicy => Sys2Proof.Machine.execSeqPolicy s
  | .memPolicy => Sys2Proof.Machine.execMemPolicy s
  | .folPolicy => Sys2Proof.Machine.execFolPolicy s
  | .xltPolicy => Sys2Proof.Machine.execXltPolicy s
  | .intPolicy => Sys2Proof.Machine.execIntPolicy s
  | .prsPolicy => Sys2Proof.Machine.execPrsPolicy s
  | .hifPolicy => Sys2Proof.Machine.execHifPolicy s
  | .uapPolicy => Sys2Proof.Machine.execUapPolicy s
  | .dspModeSet m => Sys2Proof.Machine.execDspModeSet m s
  | .pwrProfile => Sys2Proof.Machine.execPwrProfile s
  | .schedulerPickup => Sys2Proof.Machine.execSchedulerPickup s
  | .liaisonRequest v => Sys2Proof.Machine.execLiaisonRequest v s
  | .powerLoopPeriod logs => Sys2Proof.Machine.execPowerLoopPeriod logs s
  | .thermalLoopPeriod warn fanFault logs => Sys2Proof.Machine.execThermalLoopPeriod warn fanFault logs s
  | .vddFastTrip amps => Sys2Proof.Machine.execVddFastTrip amps s
  | .telemetryWindow power current mv tj temps tach => Sys2Proof.Machine.execTelemetryWindow power current mv tj temps tach s
  | .pwrLimitWrite fan v => Sys2Proof.Machine.execPwrLimitWrite fan v s
  | .pwrDomCtlWrite d v => Sys2Proof.Machine.execPwrDomCtlWrite d v s
  | .domainQuiesced d => Sys2Proof.Machine.execDomainQuiesced d s
  | .domainDownDone d => Sys2Proof.Machine.execDomainDownDone d s
  | .powerGoodRise d => Sys2Proof.Machine.execPowerGoodRise d s
  | .powerGoodTimeout d => Sys2Proof.Machine.execPowerGoodTimeout d s
  | .domainUpDone d => Sys2Proof.Machine.execDomainUpDone d s
  | .powerGoodLost d => Sys2Proof.Machine.execPowerGoodLost d s
  | .autoIdleExpiry d => Sys2Proof.Machine.execAutoIdleExpiry d s
  | .pwrPadReleaseWrite v => Sys2Proof.Machine.execPwrPadReleaseWrite v s
  | .sillageEnter v => Sys2Proof.Machine.execSillageEnter v s
  | .sillageEntryDone => Sys2Proof.Machine.execSillageEntryDone s
  | .sillageSample tj stack tach hpd => Sys2Proof.Machine.execSillageSample tj stack tach hpd s
  | .wakeSequenceDone => Sys2Proof.Machine.execWakeSequenceDone s
  | .aonPgoodRise => Sys2Proof.Machine.execAonPgoodRise s
  | .imageLinkReady speed width flit => Sys2Proof.Machine.execImageLinkReady speed width flit s
  | .imageVerifyDone flashErr speed width flit => Sys2Proof.Machine.execImageVerifyDone flashErr speed width flit s
  | .perstNAssert => Sys2Proof.Machine.execPerstNAssert s
  | .perstNDeassert speed width flit => Sys2Proof.Machine.execPerstNDeassert speed width flit s
  | .corePgoodRise => Sys2Proof.Machine.execCorePgoodRise s
  | .corePgoodFall => Sys2Proof.Machine.execCorePgoodFall s
  | .supplyOutOfRange mv => Sys2Proof.Machine.execSupplyOutOfRange mv s
  | .junctionOverTemperature t => Sys2Proof.Machine.execJunctionOverTemperature t s
  | .thermtripAssert tj stack => Sys2Proof.Machine.execThermtripAssert tj stack s
  | .flashRead count => Sys2Proof.Machine.execFlashRead count s
  | .flashProgram count => Sys2Proof.Machine.execFlashProgram count s
  | .flashErase => Sys2Proof.Machine.execFlashErase s
  | .flashUndefinedOp op => Sys2Proof.Machine.execFlashUndefinedOp op s
  | .flashOpDone fail => Sys2Proof.Machine.execFlashOpDone fail s
  | .flashOpTimeout => Sys2Proof.Machine.execFlashOpTimeout s
  | .bootFuseRevokeWrite mask => Sys2Proof.Machine.execBootFuseRevokeWrite mask s
  | .smbusMailboxWrite bytes => Sys2Proof.Machine.execSmbusMailboxWrite bytes s
  | .smbusMailboxRead => Sys2Proof.Machine.execSmbusMailboxRead s
  | .smbusTelemetryRead => Sys2Proof.Machine.execSmbusTelemetryRead s
  | .smbusBootStatusRead => Sys2Proof.Machine.execSmbusBootStatusRead s
  | .aonPgoodFall => Sys2Proof.Machine.execAonPgoodFall s
  | .copyChunkDone t n steps => Sys2Proof.Machine.execCopyChunkDone t n steps s

end Sys2Proof.Machine
end

