-- ==== Sys2Proof/WellFormed.lean ====
section
/-!
DEFINITION. WellFormed.lean: the range of each operand that numbers a thing of which the block has a fixed number.
-/

namespace Sys2Proof

open Machine

/-- Functions: the PF and 15 VFs (02 R33). -/
def wfFn (f : Nat) : Bool := f < 16

/-- VFs (16 R456). -/
def wfVf (f : Nat) : Bool := 1 ≤ f ∧ f < 16

/-- VMs (12). -/
def wfVm (v : Nat) : Bool := v < 16

/-- Queues (02). -/
def wfQueue (i : Nat) : Bool := i < 16384

/-- Sequence slots (10). -/
def wfSlot (i : Nat) : Bool := i < 4096

/-- Shader cores (04). -/
def wfCore (c : Nat) : Bool := c < 128

/-- Issue pipes of a core (04). -/
def wfPipe (p : Nat) : Bool := p < 4

/-- Accord engines (05). -/
def wfEngine (e : Nat) : Bool := e < 64

/-- Clusters (00). -/
def wfCluster (c : Nat) : Bool := c < 16

/-- Folio banks of a cluster (11). -/
def wfBank (b : Nat) : Bool := b < 16

/-- Tile slots of a raster unit (08). -/
def wfTileSlot (n : Nat) : Bool := n < 16

/-- Reuse slots (09). -/
def wfReuse (n : Nat) : Bool := n < 16

/-- HBM stacks (11). -/
def wfStack (k : Nat) : Bool := k < 4

/-- Level-2 slices (11). -/
def wfSlice (n : Nat) : Bool := n < 32

/-- Display outputs (15). -/
def wfOutput (n : Nat) : Bool := n < 4

/-- Display streams (15). -/
def wfStream (x : Nat) : Bool := x < 8

/-- Layer pipes (15). -/
def wfDspPipe (p : Nat) : Bool := p < 32

/-- Uaper ports (16). -/
def wfPort (p : Nat) : Bool := p < 2

/-- A flit is 256 bytes (16 R467). -/
def wfFlit (l : List Byte) : Bool := l.length = 256

/-- Mailbox channels (17). -/
def wfChannel (c : Nat) : Bool := c < 32

/-- Control Complex cores (17). -/
def wfCcxCore (c : Nat) : Bool := c < 4

/-- Switched domains (18 R509). -/
def wfDomain (d : Nat) : Bool := d < 50

/-- Every numbering operand of the command is in range. -/
def Instr.wellFormed (i : Instr) : Bool :=
  match i with
  | .registerWrite f _ _ _ _ => wfFn f
  | .rateMonitorWindow _ => true
  | .hifRateMinRead f _ _ => wfFn f
  | .aonPllLockLost => true
  | .aonPllLockRegained => true
  | .fePartWrite f _ => wfFn f
  | .queueCreate f => wfFn f
  | .queueDescriptorReadDone f => wfFn f
  | .queueDestroy f => wfFn f
  | .queueResume f => wfFn f
  | .queueResumeSkip f => wfFn f
  | .qcmdUndefinedOp f _ => wfFn f
  | .dbWriteIndex f i _ => wfFn f && wfQueue i
  | .dbFenceCi f i _ => wfFn f && wfQueue i
  | .queueArmSend i => wfQueue i
  | .armServe i => wfQueue i
  | .armReturnCompare i => wfQueue i
  | .wakeArrive i => wfQueue i
  | .entryFetch i => wfQueue i
  | .objectCacheMissReadDone i _ => wfQueue i
  | .indirectArgsReadDone _ => true
  | .commandStart _ => true
  | .commandFinish _ => true
  | .drawNonIndexed i _ => wfQueue i
  | .drawIndexed i _ => wfQueue i
  | .drawIndirect i _ => wfQueue i
  | .binPassBegin i _ => wfQueue i
  | .binPassEnd i _ => wfQueue i
  | .dispatchDirect i _ => wfQueue i
  | .dispatchIndirect i _ => wfQueue i
  | .dispatchResident i _ => wfQueue i
  | .accordCommand i _ => wfQueue i
  | .copy i _ => wfQueue i
  | .fill i _ => wfQueue i
  | .pressDeflateCompress i _ => wfQueue i
  | .pressPf1Compress i _ => wfQueue i
  | .pressDeflateDecompress i _ => wfQueue i
  | .pressPf1Decompress i _ => wfQueue i
  | .fence i _ => wfQueue i
  | .waitQueueSequence i _ => wfQueue i
  | .waitMemoryValue i _ => wfQueue i
  | .waitPoll _ => true
  | .waitPollReadDone _ => true
  | .waitTimeout _ => true
  | .graphLaunch i _ => wfQueue i
  | .seqStep i _ => wfQueue i
  | .queryContextUtil i _ => wfQueue i
  | .queryContextMemory i _ => wfQueue i
  | .queryTimestamp i _ => wfQueue i
  | .queryQueueState i _ => wfQueue i
  | .contextTeardownKill i _ => wfQueue i
  | .contextTeardownDrain i _ => wfQueue i
  | .drainTimeout _ => true
  | .teardownPreemptDone _ => true
  | .teardownQuarantineEnd _ => true
  | .objectCreate f _ => wfFn f
  | .objectDestroy f _ => wfFn f
  | .objCmdUndefinedOp f _ => wfFn f
  | .completionWrite i => wfQueue i
  | .itemPlace _ => true
  | .preemptGraceExpiry _ => true
  | .preemptSaveDone _ => true
  | .schDiscard _ _ => true
  | .deadlineBudgetExpiry core _ => wfCore core
  | .graphPublish f => wfFn f
  | .graphPatch f => wfFn f
  | .gcmdUndefinedOp f _ => wfFn f
  | .graphOpComplete f => wfFn f
  | .graphNodeFinish _ _ => true
  | .interferenceWindowEnd => true
  | .groupIssue core pipe _ _ => wfCore core && wfPipe pipe
  | .exit core pipe _ => wfCore core && wfPipe pipe
  | .trap core pipe => wfCore core && wfPipe pipe
  | .memoryAccessReturn core _ _ _ _ => wfCore core
  | .barWait core pipe _ => wfCore core && wfPipe pipe
  | .barrierMismatchDetect _ => true
  | .barrierTimeout _ _ => true
  | .accordInstruction core pipe _ _ => wfCore core && wfPipe pipe
  | .accWait core pipe _ _ => wfCore core && wfPipe pipe
  | .accLoadFrag core pipe _ _ _ => wfCore core && wfPipe pipe
  | .accStoreFrag core pipe _ _ _ => wfCore core && wfPipe pipe
  | .matrixDivergenceDetect core _ => wfCore core
  | .accInfo core pipe _ => wfCore core && wfPipe pipe
  | .accArg core pipe _ _ => wfCore core && wfPipe pipe
  | .qwait core pipe _ _ _ => wfCore core && wfPipe pipe
  | .qwaitWake _ => true
  | .qcomplete core pipe _ _ _ => wfCore core && wfPipe pipe
  | .fstat core pipe _ => wfCore core && wfPipe pipe
  | .tex core pipe _ _ _ _ _ => wfCore core && wfPipe pipe
  | .discard core pipe _ => wfCore core && wfPipe pipe
  | .stOrdered core pipe _ _ _ => wfCore core && wfPipe pipe
  | .ruProbe core pipe _ _ _ => wfCore core && wfPipe pipe
  | .ruCommit core pipe _ => wfCore core && wfPipe pipe
  | .scReplayReplay f _ _ => wfFn f
  | .scReplayContinue f _ _ => wfFn f
  | .scReplayAbort f _ _ => wfFn f
  | .scReplayContext f _ => wfFn f
  | .scReplayUndefinedOp f _ => wfFn f
  | .shaderEccUncorrectable core => wfCore core
  | .accordDescriptorArrive e => wfEngine e
  | .mmaStart e => wfEngine e
  | .mmaComplete e _ => wfEngine e
  | .moverStart e => wfEngine e
  | .moverComplete e => wfEngine e
  | .accumulatorEccError e => wfEngine e
  | .controlBlockReadDone _ => true
  | .geometryStageBatch => true
  | .geometryBatchAdmit _ => true
  | .flushTilesStored _ => true
  | .routeBatch _ => true
  | .blockBatch _ => true
  | .passEndFinish _ => true
  | .tileHandout => true
  | .tileRecordRun c sl => wfCluster c && wfTileSlot sl
  | .fragmentOutputBlend c sl => wfCluster c && wfTileSlot sl
  | .tileWriteOut c sl => wfCluster c && wfTileSlot sl
  | .tileWriteOutAccepted c sl _ => wfCluster c && wfTileSlot sl
  | .truBump f => wfFn f
  | .truInvalidate f => wfFn f
  | .truCmdUndefinedOp f _ => wfFn f
  | .truSlotCfgWrite sl _ => wfReuse sl
  | .loadTermReadDone _ => true
  | .reuseTileLookup _ _ => true
  | .reuseTileCopy c _ => wfCluster c
  | .seqAdmit f => wfFn f
  | .seqAdmitReadDone f => wfFn f
  | .seqCancel f => wfFn f
  | .seqHold f => wfFn f
  | .seqResume f => wfFn f
  | .seqRelease f => wfFn f
  | .seqAddPages f => wfFn f
  | .seqRemovePages f => wfFn f
  | .seqScmdUndefinedOp f _ => wfFn f
  | .seqKvPoolWrite f _ => wfFn f
  | .seqFormation _ => true
  | .seqHarvest _ => true
  | .seqEvtCi f _ => wfFn f
  | .slotPageRelease i => wfSlot i
  | .slotReleaseAcksDone i => wfSlot i
  | .seqRingCfgWrite _ => true
  | .ringHopTransmit => true
  | .ringMessageReceive => true
  | .ringProgressPoll => true
  | .ringAbortReceive => true
  | .ringWatchdogExpiry => true
  | .l2RequestLookup _ _ => true
  | .l2MissFill _ _ => true
  | .hbmRefresh k => wfStack k
  | .hbmSelfRefreshEntry k => wfStack k
  | .hbmSelfRefreshExit k => wfStack k
  | .l2InvalidateDone slice => wfSlice slice
  | .l2MaintClean _ => true
  | .l2MaintInvalidate _ => true
  | .l2MaintCleanInvalidate _ => true
  | .l2MaintUndefinedOp _ _ => true
  | .l2MaintDone => true
  | .folBankWrite c b _ => wfCluster c && wfBank b
  | .folHandoverDrained c b => wfCluster c && wfBank b
  | .folHandoverComplete c b => wfCluster c && wfBank b
  | .folWindowWrite _ _ _ _ => true
  | .folSetAliasWrite _ _ _ _ => true
  | .folClearAliasWrite _ _ _ _ => true
  | .arbiterGrant _ _ _ => true
  | .arbiterRevoke _ _ _ _ => true
  | .arbiterWatchdog _ _ => true
  | .translationLookup _ _ _ => true
  | .walkReadDone _ _ => true
  | .faultBatchClose f => wfFn f
  | .atsTranslationCompletion f _ _ _ _ => wfFn f
  | .atsInvalidationRequest f _ _ _ => wfFn f
  | .xltInvRange f _ => wfFn f
  | .xltInvTag f _ => wfFn f
  | .xltInvVmAll f _ => wfFn f
  | .xltInvUndefinedOp f => wfFn f
  | .invalidationGrant _ => true
  | .invalidationEngineAck _ => true
  | .xltVmCfgWrite v _ => wfVm v
  | .faultRecordAccept _ _ => true
  | .dieRecoveryFeTimeout => true
  | .recoveryComplete _ => true
  | .recoveryWindowExpiry _ => true
  | .faultWindowExpiry => true
  | .intFailsafeForce => true
  | .intRecoverPackage => true
  | .autoPackageExpiry => true
  | .intHoldWrite _ => true
  | .intInjectWrite _ => true
  | .pressCompressSlice _ _ => true
  | .pressDecompressSlice _ _ _ => true
  | .dspCommit x => wfStream x
  | .dspCommitCancel x => wfStream x
  | .latchPoint x => wfStream x
  | .pipeLineFetch p => wfDspPipe p
  | .scanoutLine x => wfStream x
  | .writebackLine x => wfStream x
  | .hpdPlug n => wfOutput n
  | .hpdUnplug n => wfOutput n
  | .hpdIrqPulse n _ => wfOutput n
  | .dspOutCtlWrite n _ => wfOutput n
  | .linkTrainingDone n _ => wfOutput n
  | .auxNativeRead n _ _ => wfOutput n
  | .auxNativeWrite n _ _ => wfOutput n
  | .auxI2cRead n _ _ => wfOutput n
  | .auxI2cWrite n _ _ => wfOutput n
  | .auxReply n _ _ _ => wfOutput n
  | .auxTimeout n => wfOutput n
  | .bar2Read f _ _ => wfFn f
  | .bar2Write f _ _ => wfFn f
  | .deviceReadCompletion _ _ => true
  | .msixPendingSend f _ => wfFn f
  | .pcieConfigRequest f _ => wfFn f
  | .resizableBarControlWrite _ _ => true
  | .l0pWindow _ _ _ => true
  | .l1IdleExpiry _ => true
  | .wakeEvent _ _ => true
  | .vfFlr f => wfVf f
  | .vfEnableClear => true
  | .pfFlr => true
  | .hifVfWinWrite f _ => wfVf f
  | .uapFlitReceive p raw => wfPort p && wfFlit raw
  | .uapFlitTransmit p => wfPort p
  | .uapReplayTimer p => wfPort p
  | .uapTrainingComplete p _ _ _ => wfPort p
  | .uapCtlEnWrite p _ => wfPort p
  | .uapSleepReq p => wfPort p
  | .uapWake p => wfPort p
  | .uapWakePatternDetect p => wfPort p
  | .mailboxSend c _ _ => wfChannel c
  | .mailboxReceiveRead c _ => wfChannel c
  | .fwLoad => true
  | .fwLoadDone => true
  | .ccxWatchdogExpiry c => wfCcxCore c
  | .ccxSramEccError c _ => wfCcxCore c
  | .basicCommandTake => true
  | .basicCommandDone _ => true
  | .basicUndefinedOpcode => true
  | .fwInfo => true
  | .logConfig => true
  | .fePolicy => true
  | .schPolicy => true
  | .scPolicy => true
  | .acePolicy => true
  | .colPolicy => true
  | .rasPolicy => true
  | .truPolicy => true
  | .seqPolicy => true
  | .memPolicy => true
  | .folPolicy => true
  | .xltPolicy => true
  | .intPolicy => true
  | .prsPolicy => true
  | .hifPolicy => true
  | .uapPolicy => true
  | .dspModeSet _ => true
  | .pwrProfile => true
  | .schedulerPickup => true
  | .liaisonRequest _ => true
  | .powerLoopPeriod _ => true
  | .thermalLoopPeriod _ _ _ => true
  | .vddFastTrip _ => true
  | .telemetryWindow _ _ _ _ _ _ => true
  | .pwrLimitWrite _ _ => true
  | .pwrDomCtlWrite d _ => wfDomain d
  | .domainQuiesced d => wfDomain d
  | .domainDownDone d => wfDomain d
  | .powerGoodRise d => wfDomain d
  | .powerGoodTimeout d => wfDomain d
  | .domainUpDone d => wfDomain d
  | .powerGoodLost d => wfDomain d
  | .autoIdleExpiry d => wfDomain d
  | .pwrPadReleaseWrite _ => true
  | .sillageEnter _ => true
  | .sillageEntryDone => true
  | .sillageSample _ _ _ _ => true
  | .wakeSequenceDone => true
  | .aonPgoodRise => true
  | .imageLinkReady _ _ _ => true
  | .imageVerifyDone _ _ _ _ => true
  | .perstNAssert => true
  | .perstNDeassert _ _ _ => true
  | .corePgoodRise => true
  | .corePgoodFall => true
  | .supplyOutOfRange _ => true
  | .junctionOverTemperature _ => true
  | .thermtripAssert _ _ => true
  | .flashRead _ => true
  | .flashProgram _ => true
  | .flashErase => true
  | .flashUndefinedOp _ => true
  | .flashOpDone _ => true
  | .flashOpTimeout => true
  | .bootFuseRevokeWrite _ => true
  | .smbusMailboxWrite _ => true
  | .smbusMailboxRead => true
  | .smbusTelemetryRead => true
  | .smbusBootStatusRead => true
  | .aonPgoodFall => true
  | .copyChunkDone _ _ _ => true

end Sys2Proof
end

