-- ==== Sys2Proof/Safety.lean ====
section
/-!
DEFINITION. Safety.lean: what claims about the block say of a state and of a run: when a command is performed, what a step may do to
the queue and to what has been sent, and the canonical form of the memories.
-/

namespace Sys2Proof

open Machine

/-! ### When a command is performed -/

/-- The AON domain is powered (19 R545). -/
abbrev Safety.powered (s : State) : Prop := s.boot.aonPgood = true

/-- Engines run: neither fail-safe nor a die recovery has stopped them (13 R400, R409). -/
abbrev Safety.engines (s : State) : Prop := Safety.powered s ∧ failsafe s = false ∧ dieRunning s = false

/-- Unit u takes on work: engines run and no recovery of a unit that holds u runs (13 R396). -/
abbrev Safety.unitRuns (s : State) (u : Nat) : Prop := Safety.engines s ∧ recovering s u = false

/-- A BAR0 write to copy (w, i) of a register is taken: not fail-safe, not the recovery identity, no FLR of its function runs, and the
register's domain is ON (13 R410, 16 R464, 18 R511, 19 R537). -/
abbrev Safety.writable (s : State) (r : Reg) (w i : Nat) : Prop :=
  Safety.powered s ∧ failsafe s = false ∧ recoveryId s = false ∧ flrWindow s r w = false ∧ (match r.domain w i with | some d => domOn s d | none => true) = true

/-! ### Runs -/

/-- The command answers a next state. -/
def Safety.completes (c : Instr) (s : State) : Prop := ∃ t, exec c s = .next t

/-- The step answers a next state. -/
def Safety.steps (s : State) : Prop := ∃ t, step s = .next t

/-! ### Entries of a ring -/

/-- The next entry of queue i, numbered n, has been fetched, passes its checks (02 R55) and is no no-op, and order lets it start as command c from
state u, in which it is running. -/
def Safety.entryReady (s : State) (i n : Nat) (c : Cmd) (u : State) : Prop :=
  ∃ q e, nextCheck s i = some (q, e) ∧ e.phase = .fetched ∧ e.seq = n ∧
    let r := checkEntry s { i := i, q := q, key := i, node := false } n e.raw
    let t := onEntry r.2 i n fun x => { x with objs := r.1.objs, draw := r.1.draw, batch := rget s .SEQ_BATCH q.fn, phase := .checked false }
    (r.1.missed none).rejects = none ∧ r.1.zero = false ∧
    ∃ q' e', queueAt t i = some q' ∧ q'.entries.find? unstarted = some e' ∧ e'.phase = .checked false ∧ e'.seq = n ∧ e'.raw = e.raw ∧
      issuable q' n = true ∧ (ordered t i e.raw = true → earlierDone q' n = true) ∧ argsOpen t i n = false ∧
      c = { who := { i := i, q := q', key := i, node := false }, owner := .entry i n, raw := e.raw, objs := e'.objs, draw := e'.draw, batch := e'.batch } ∧
      u = onEntry t i n fun x => { x with phase := .running }

/-! ### Shader groups -/

/-- Issue pipe `pipe` of a core issues i, no thread of which waits for the operands ops, or with all set for an outstanding access; u is the
state in which its instruction is performed: the ages of the group's ready threads have been counted and the round robin has moved (04 R109,
R119, R120). -/
def Safety.issues (s : State) (core pipe : Nat) (ops : List (Nat × Nat)) (all : Bool) (i : Issue) (u : State) : Prop :=
  ∃ j, pipeNext s core pipe = some j ∧ j.ts.any (operandWaits j.g ops all) = false ∧
    let g := onThreads (onThreads j.g (liveThat j.g fun h => decide (h.wait = .none)) fun h => { h with age := h.age + 1 }) j.ts
      fun h => { h with age := 0 }
    i = { j with g := g } ∧
    u = onGroup (onSc s fun x => { x with pipes := tset x.pipes (core * 4 + pipe) g.slot }) j.b g.slot fun _ => g

/-! ### Canonical form -/

/-- Every memory is in canonical form, and the register file's keys rise: equal contents are equal data. -/
def Safety.canonical (s : State) : Prop :=
  Memory.wf 0 s.hostMem = true ∧ Memory.wf 0 s.mem.hbm = true ∧ Memory.wf 0 s.mem.folio = true ∧ Memory.wf 0 s.ccx.sram = true
  ∧ Memory.wf 0xFF s.boot.flash = true ∧ Memory.wf 0 s.boot.window = true ∧ Tbl.sorted s.regs = true

/-- What a command can never do to s: t has the same queue, has used no free value twice, has taken back nothing that was sent, and is
canonical where s is. -/
def Safety.extends_ (s t : State) : Prop :=
  t.pending = s.pending ∧ s.freeCtr ≤ t.freeCtr ∧ (∃ l, t.hif.sent = s.hif.sent ++ l) ∧ (Safety.canonical s → Safety.canonical t)

/-- AON power is off, no rise of it waits, the time base stands at 0 and every switched domain is OFF (01 R24, 18 R510, 19 R545). -/
def Safety.dark (s : State) : Prop :=
  s.boot.aonPgood = false ∧ Instr.aonPgoodRise ∉ s.pending ∧ s.time = 0 ∧ ∀ d, d < 50 → domNow s d = 2

end Sys2Proof
end

