-- ==== Sys2Proof/Certificates/Slice0/Obligations.lean ====
section
/-!
DEFINITION. Certificates/Slice0/Obligations.lean: what is claimed of the model, chapter by chapter of the spec.
-/

open Sys2Proof Sys2Proof.Machine

/-- A step takes the command at the front and performs it with the rest waiting (the model's queue, log 1). -/
def Obligations.StepRunsFrontCommand : Prop :=
  ∀ (c : Instr) (rest : List Instr) (s : State), s.pending = c :: rest → step s = exec c { s with pending := rest }

/-- The state after reset: R510's domains, R516's pads, the time base of R24 and every register at its reset value. -/
def Obligations.ResetState : Prop :=
  State.reset.pending = [] ∧ State.reset.time = 0 ∧ State.reset.hif.sent = []
  ∧ (∀ d, d < 50 → domNow State.reset d = if d = 41 ∨ (32 ≤ d ∧ d ≤ 39) then 0 else 2)
  ∧ fget State.reset F.PWR_PAD_RELEASE.DPO = 0xF ∧ fget State.reset F.PWR_PAD_RELEASE.UAP = 3 ∧ fget State.reset F.PWR_PAD_RELEASE.HBM = 0
  ∧ failsafe State.reset = false ∧ fget State.reset F.BOOT_STATUS.RESULT = 0 ∧ fget State.reset F.CCX_FW_STATE.STATE = 0
  ∧ (∀ (r : Reg) (w i : Nat), rget State.reset r w i = r.reset w i)

/-- The spec gives every command an effect: none stops. -/
def Obligations.EveryCommandCompletes : Prop := ∀ (c : Instr) (s : State), Safety.completes c s

/-- The rate monitor (R21, R26), the AON PLL (R25) and INTERFERENCE_WINDOW_END (R103). A rate above 4095 saturates by the model's choice (log 113),
and MIN tells a window of rate 0 from none by its own mark (log 114). -/
def Obligations.TimedCommands : Prop :=
  (∀ (s : State) (rate : Nat), Safety.powered s → s.time ≠ 0 → s.time % 1000 = 0 → domOn s 41 = true →
      let r := Nat.min rate 4095
      let m := fget s F.HIF_RATE_MIN.MIN
      let t := fset (fset s F.HIF_RATE_NOW.RATE r) F.HIF_RATE_MIN.MIN (if s.hif.rateSeen then Nat.min m r else r)
      let u := { t with hif := { t.hif with rateSeen := true } }
      exec (.rateMonitorWindow rate) s = .next (if r < 900 then failsafeEnter u 5 else u))
  ∧ (∀ (s : State) (f off : Nat), Safety.powered s → fnExists s f = true → (fnCfg s f).inFlr = false → failsafe s = false → off % 4 = 0 →
      exec (.hifRateMinRead f off 32) s = .next (send (read32 f off s).2 (.completion (natLe (read32 f off s).1 4) false)))
  ∧ (∀ s : State, Safety.powered s → fnExists s 0 = true → (fnCfg s 0).inFlr = false → failsafe s = false →
      ∃ t, exec (.hifRateMinRead 0 0x214 32) s = .next t ∧ t.hif.sent = s.hif.sent ++ [.completion (natLe (fget s F.HIF_RATE_MIN.MIN) 4) false]
        ∧ fget t F.HIF_RATE_MIN.MIN = 0 ∧ t.hif.rateSeen = false)
  ∧ (∀ s : State, Safety.powered s → fget s F.HIF_TIME_CTL.SOURCE = 0 →
      exec .aonPllLockLost s = .next (raiseBare (fset (fset s F.HIF_TIME_CTL.SOURCE 1) F.HIF_TIME_CTL.LOCK_LOST 1) 0x12F .ok 0 (.system 2 0 1 0)))
  ∧ (∀ s : State, Safety.powered s → exec .aonPllLockRegained s = .next (fset s F.HIF_TIME_CTL.SOURCE 0))
  ∧ (∀ s : State, Safety.engines s → s.time ≠ 0 → s.time % 1000000 = 0 → domOn s 41 = true → fget s F.SCH_INTF_CTL.EN = 0 →
      exec .interferenceWindowEnd s = .next { s with
        intf := s.intf.filter fun e => s.time / 1000000 - 1 < e.1,
        intfDone := some { window := s.time / 1000000 - 1, sums := tgetD s.intf (s.time / 1000000 - 1) [] } })
  ∧ (∀ x : Intf, slowdown x = if x.busy = 0 then 0 else Nat.min (256 * (x.busy + x.blocked) / x.busy) 0xFFFF)

/-- R42: one FE_QCMD operation of a function at a time. -/
def Obligations.QcmdBusyDiscarded : Prop :=
  ∀ (s : State) (f op : Nat), Safety.writable s .FE_QCMD f 0 → fget s F.FE_QRESULT.BUSY f = 1 →
    exec (.queueCreate f) s = .next s ∧ exec (.queueDestroy f) s = .next s ∧ exec (.queueResume f) s = .next s
    ∧ exec (.queueResumeSkip f) s = .next s ∧ exec (.qcmdUndefinedOp f op) s = .next s

/-- The operations of FE_QCMD (R39, R41, R44); the HANDLE of an undefined OP is the model's choice (log 117). -/
def Obligations.QcmdOperations : Prop :=
  ∀ (s : State) (f : Nat), Safety.writable s .FE_QCMD f 0 → fget s F.FE_QRESULT.BUSY f = 0 →
    (freeQueue s f = none → exec (.queueCreate f) s = .next (qResult s f .lengthRange 0))
    ∧ (∀ i, freeQueue s f = some i →
        exec (.queueCreate f) s = .next (onFe (fset s F.FE_QRESULT.BUSY 1 f) fun x => { x with creating := tset x.creating f i }))
    ∧ (queueOf s f (qArg s f) = none →
        exec (.queueDestroy f) s = .next (qResult s f .staleHandle (qArg s f))
        ∧ exec (.queueResume f) s = .next (qResult s f .staleHandle (qArg s f))
        ∧ exec (.queueResumeSkip f) s = .next (qResult s f .staleHandle (qArg s f)))
    ∧ (∀ i q, queueOf s f (qArg s f) = some (i, q) → q.state = .idle ∨ q.state = .stopped ∨ q.state = .killed →
        exec (.queueDestroy f) s = .next (qResult (queueFree s i q) f .ok (qArg s f)))
    ∧ (∀ i q, queueOf s f (qArg s f) = some (i, q) → q.state ≠ .idle → q.state ≠ .stopped → q.state ≠ .killed →
        exec (.queueDestroy f) s = .next (qResult s f .permission (qArg s f)))
    ∧ (∀ i q, queueOf s f (qArg s f) = some (i, q) → q.state = .stopped →
        exec (.queueResume f) s = .next (qResult (resumeAt s i (stoppedSeq q - 1)) f .ok (qArg s f)))
    ∧ (∀ i q n, queueOf s f (qArg s f) = some (i, q) → q.state = .stopped → q.stoppedAt = some n →
        exec (.queueResumeSkip f) s = .next (qResult (resumeAt (onEntry s i n fun e =>
          { e with phase := match e.phase with | .failed st => .finished st | p => p }) i n) f .ok (qArg s f)))
    ∧ (∀ i q, queueOf s f (qArg s f) = some (i, q) → q.state = .stopped → q.stoppedAt = none →
        exec (.queueResumeSkip f) s = .next (qResult (resumeAt s i q.fetch) f .ok (qArg s f)))
    ∧ (∀ i q, queueOf s f (qArg s f) = some (i, q) → q.state ≠ .stopped →
        exec (.queueResume f) s = .next (qResult s f .permission (qArg s f))
        ∧ exec (.queueResumeSkip f) s = .next (qResult s f .permission (qArg s f)))
    ∧ (∀ op, op % 16 = 0 ∨ 4 < op % 16 → exec (.qcmdUndefinedOp f op) s = .next (qResult s f .badOpcode 0))

/-- QUEUE_DESCRIPTOR_READ_DONE (R39, R40). -/
def Obligations.QueueCreateEnds : Prop :=
  ∀ (s : State) (f i : Nat), Safety.unitRuns s 0x112 → tget s.fe.creating f = some i →
    let s1 := onFe s fun x => { x with creating := tdel x.creating f }
    let r := ipaRead s1 f (rget s .FE_QARG f) 64
    let gen := tgetD r.2.2.fe.qGen i 1
    let q := queueFrom f gen r.2.1
    let s2 := onFe r.2.2 fun x => { x with queues := tset x.queues i q }
    let w := feWrite s2 q q.compl (zeros 16)
    (r.1 = .ok → descCheck r.2.2 f r.2.1 = none → w.1 = .ok →
      exec (.queueDescriptorReadDone f) s = .next (qResult w.2 f .ok (qHandle i gen)))
    ∧ (r.1 = .ok → descCheck r.2.2 f r.2.1 = none → w.1 ≠ .ok →
      exec (.queueDescriptorReadDone f) s = .next (stopNoEntry (qResult w.2 f .ok (qHandle i gen)) i w.1 q.compl))
    ∧ (q.gen = gen ∧ q.fn = f ∧ q.state = .idle ∧ q.armed = true ∧ q.pend = false ∧ q.fetch = 0 ∧ q.shadow = 0 ∧ q.seq = 0)
    ∧ (r.1 ≠ .ok → exec (.queueDescriptorReadDone f) s = .next (qResult r.2.2 f r.1 0))
    ∧ (∀ st, r.1 = .ok → descCheck r.2.2 f r.2.1 = some st → exec (.queueDescriptorReadDone f) s = .next (qResult r.2.2 f st 0))

/-- The two-phase idle of R47 and R48 and the doorbells of R46. -/
def Obligations.DoorbellsAndIdle : Prop :=
  ∀ (s : State) (i : Nat) (q : Queue), Safety.engines s → queueAt s i = some q →
    let rung := onQueue s i fun q => { q with rangAt := s.time }
    (∀ f w, fnExists s f = true → (fnCfg s f).inFlr = false → inQ s f i = true → w < 2 ^ 32 →
      q.state ≠ .drain → q.state ≠ .kill → q.state ≠ .killed →
      sub32 w q.shadow ≠ 0 → sub32 w q.shadow < 2 ^ 31 →
      (sub32 w (oldest q) ≤ 2 ^ q.ringLog2 →
        let t := onQueue rung i fun q => { q with
          shadow := w, pend := true, wake := q.wake || q.armed, armed := false, coreWake := q.coreWake || q.resident }
        exec (.dbWriteIndex f i w) s = .next (demand (if q.cls = 0 then t else notifyScheduler t) 41))
      ∧ (2 ^ q.ringLog2 < sub32 w (oldest q) →
        exec (.dbWriteIndex f i w) s = .next (stopNoEntry rung i .lengthRange w)))
    ∧ (∀ f w, inQ s f i = false → exec (.dbWriteIndex f i w) s = .next s)
    ∧ (∀ f ci, fnExists s f = true → (fnCfg s f).inFlr = false → inQ s f i = true → s.fe.launches = [] →
      exec (.dbFenceCi f i ci) s = .next (onQueue s i fun q => { q with fenceCi := ci % 2 ^ 32 }))
    ∧ (q.state = .active → q.fetch % 2 ^ 32 = q.shadow → domOn s 41 = true → recovering s 0x112 = false →
      exec (.queueArmSend i) s = .next (onQueue s i fun q => { q with state := .idleArmed, arm := .sent }))
    ∧ (q.arm = .sent →
      exec (.armServe i) s = .next (onQueue s i fun q => { q with arm := .returned q.shadow, pend := false, armed := true }))
    ∧ (∀ v, q.arm = .returned v → q.state = .idleArmed → q.wake = false → v = q.fetch % 2 ^ 32 → recovering s 0x112 = false →
      exec (.armReturnCompare i) s = .next (onQueue s i fun q => { q with state := .idle, arm := .none }))
    ∧ (∀ v, q.arm = .returned v → q.state = .idleArmed → q.wake = true ∨ v ≠ q.fetch % 2 ^ 32 → recovering s 0x112 = false →
      exec (.armReturnCompare i) s = .next (onQueue s i fun q => { q with state := .active, arm := .none, wake := false }))
    ∧ (q.wake = true → domOpen s 41 = true → q.state = .idle ∨ q.state = .idleArmed → recovering s 0x112 = false →
      exec (.wakeArrive i) s = .next (onQueue s i fun q => { q with wake := false, state := .active }))

/-- The start of each of the 28 ring commands (R50 to R73), from the state u in which its entry runs. -/
def Obligations.EntryRowsStart : Prop :=
  ∀ (s u : State) (i n : Nat) (c : Cmd), Safety.engines s → Safety.entryReady s i n c u →
    let op := opOf c.raw
    let sub := subOf c.raw
    let after : State → State := fun v => sweepUndefined v i
    let held : Task → State := fun k => (addTask u k).2
    (op = 1 → ∀ d x, c.draw = some d → passOf u i = some x → room u .collator = true →
      let k : Bool → Task := fun ind => { c.task u .collator 0 with reading := ind }
      (sub = 0 → exec (.drawNonIndexed i 0) s = .next (after (drawEnter (held (k false)) u.fe.nextTask (k false) i d)))
      ∧ (sub = 1 → exec (.drawIndexed i 0) s = .next (after (drawEnter (held (k false)) u.fe.nextTask (k false) i d)))
      ∧ (sub = 2 → exec (.drawIndirect i 0) s = .next (after (drawEnter (held (k true)) u.fe.nextTask (k true) i d))))
    ∧ (op = 2 → sub = 0 → passOf u i = none →
      let e : Eng := if byteAt c.raw 16 = 0 then .raster else .collator
      ∀ v, room u e = true → passBegin (held (c.task u e 0)) u.fe.nextTask (c.task u e 0) = (.ok, v) →
      exec (.binPassBegin i 0) s = .next (after (demand v 40)))
    ∧ (op = 2 → sub = 1 → ∀ p x, passOf u i = some (p, x) →
      (x.mode = 0 → exec (.binPassEnd i 0) s =
        .next (after (tryClose (onPass (held (c.task u .none 0)) p fun x => { x with ending := some (c.owner, u.fe.nextTask) }) p)))
      ∧ (x.mode ≠ 0 → x.closed = true → exec (.binPassEnd i 0) s = .next (after (entryEnd (passFree u p) i n .ok))))
    ∧ (op = 3 → room u .shader = true →
      (sub = 0 → exec (.dispatchDirect i 0) s = .next (after (held (c.task u .shader (gridBlocks c.raw)))))
      ∧ (sub = 1 → exec (.dispatchIndirect i 0) s = .next (after (held { c.task u .shader 0 with reading := true })))
      ∧ (sub = 2 → exec (.dispatchResident i 0) s = .next (after (held (c.task u .shader (gridBlocks c.raw))))))
    ∧ (op = 4 → sub = 0 → room u .accord = true →
      exec (.accordCommand i 0) s =
        .next (after (held (c.task u .accord (((fieldAt c.raw 28 4 + 63) / 64) * ((fieldAt c.raw 24 4 + 63) / 64))))))
    ∧ (op = 5 → room u .copy = true →
      (sub = 0 → exec (.copy i 0) s = .next (after (held (c.task u .copy ((fieldAt c.raw 32 8 + 65535) / 65536)))))
      ∧ (sub = 1 → exec (.fill i 0) s = .next (after (held (c.task u .copy ((fieldAt c.raw 32 8 + 65535) / 65536))))))
    ∧ (op = 6 → room u .press = true → pressOwns u c.raw = true →
      let v := after (held { c.task u .press 1 with press := some {} })
      (sub = 0 → exec (.pressDeflateCompress i 0) s = .next v) ∧ (sub = 1 → exec (.pressPf1Compress i 0) s = .next v)
      ∧ (sub = 2 → exec (.pressDeflateDecompress i 0) s = .next v) ∧ (sub = 3 → exec (.pressPf1Decompress i 0) s = .next v))
    ∧ (op = 7 → sub = 0 → exec (.fence i 0) s = .next (after (entryEnd u i n .ok)))
    ∧ (op = 8 → sub = 0 → ∀ j q, queueOf u c.who.q.fn (fieldAt c.raw 8 4) = some (j, q) →
      (fieldAt c.raw 16 8 ≤ q.seq → exec (.waitQueueSequence i 0) s = .next (after (entryEnd u i n .ok)))
      ∧ (q.seq < fieldAt c.raw 16 8 → q.state ≠ .killed → exec (.waitQueueSequence i 0) s = .next (after (held (c.task u .none 0)))))
    ∧ (op = 8 → sub = 1 → exec (.waitMemoryValue i 0) s = .next (after (held { c.task u .none 0 with reading := true })))
    ∧ (op = 9 → sub = 0 → ∀ g l v, tget c.objs 8 = some g →
      launchStart u (.entry i n) c.who.q g (fieldAt c.raw 16 4) (.at_ (c.base 12 + fieldAt c.raw 20 4)) = (.ok l, v) →
      exec (.graphLaunch i 0) s = .next (after (addTask v (c.task v .none 0)).2))
    ∧ (op = 10 → sub = 0 →
      let ring := bit (byteAt c.raw 28) 0
      let run : SeqRun := { q := i, seq := n, fn := c.who.q.fn, ctx := c.who.q.ctx, asid := c.who.q.asid, home := c.who.q, ring := ring,
                            batch := c.batch, left := fieldAt c.raw 12 4 }
      let starts (v : State) : State := onSeq v fun x => { x with runs := tset x.runs u.fe.nextTask run }
      let v := held (c.task u .none 0)
      (ring = false → (∀ e ∈ u.seq.runs, e.2.ctx ≠ c.who.q.ctx) → exec (.seqStep i 0) s = .next (after (starts v)))
      ∧ (ring = true → (∀ e ∈ u.seq.runs, e.2.ctx ≠ c.who.q.ctx ∧ e.2.ring = false) →
        (ringReady u = true → exec (.seqStep i 0) s =
          .next (after (starts (rset v .SEQ_RING_STATUS (2 ^ 63 + fget v F.SEQ_RING_STATUS.STATUS <<< 48)))))
        ∧ (ringReady u = false → exec (.seqStep i 0) s = .next (after (entryEnd (ringWake u) i n .domainOff)))))
    ∧ (op = 11 → ∀ o, tget c.objs 8 = some o →
      let w := queryWords u c
      let r := feWrite w.2 c.who.q (c.base 8 + fieldAt c.raw 16 8) (w.1.flatMap fun x => natLe x 8)
      let v := after (entryEnd (bumpVersion r.2 o.idx) i n r.1 (c.base 8 + fieldAt c.raw 16 8))
      (sub = 0 → exec (.queryContextUtil i 0) s = .next v) ∧ (sub = 1 → exec (.queryContextMemory i 0) s = .next v)
      ∧ (sub = 2 → exec (.queryTimestamp i 0) s = .next v) ∧ (sub = 3 → exec (.queryQueueState i 0) s = .next v))
    ∧ (op = 12 →
      let x := fieldAt c.raw 8 2 % 4096
      let us := if fieldAt c.raw 12 4 = 0 then 1000 else fieldAt c.raw 12 4
      let v := held (c.task u .none 0)
      let td : Teardown := { fn := c.who.q.fn, step := .draining (u.time + 1000 * us), cmds := [(i, n)] }
      let swept := tdSweep (onFe v fun y => { y with teardowns := tset y.teardowns x td }) x (decide (sub = 1))
      tget v.fe.teardowns x = none →
      (sub = 0 → exec (.contextTeardownKill i 0) s = .next (after (tdPreempt swept x)))
      ∧ (sub = 1 → exec (.contextTeardownDrain i 0) s = .next (after (if tdDrained swept x then tdPreempt swept x else swept))))

/-- Entries from fetch to finish (R49, R60, R62, R53). -/
def Obligations.EntryProgress : Prop :=
  ∀ s : State, Safety.engines s →
    (∀ i q, recovering s 0x112 = false → queueAt s i = some q → q.state = .active → q.cls = 0 → q.resident = false →
      q.fetch % 2 ^ 32 ≠ q.shadow → domOn s 41 = true → exec (.entryFetch i) s = .next (fetchOne s i))
    ∧ (∀ i q e m, nextCheck s i = some (q, e) → e.phase = .fetched →
      ∀ row ∈ ([(1, 0, .drawNonIndexed i m), (1, 1, .drawIndexed i m), (1, 2, .drawIndirect i m), (2, 0, .binPassBegin i m),
          (2, 1, .binPassEnd i m), (3, 0, .dispatchDirect i m), (3, 1, .dispatchIndirect i m), (3, 2, .dispatchResident i m),
          (4, 0, .accordCommand i m), (5, 0, .copy i m), (5, 1, .fill i m), (6, 0, .pressDeflateCompress i m),
          (6, 1, .pressPf1Compress i m), (6, 2, .pressDeflateDecompress i m), (6, 3, .pressPf1Decompress i m), (7, 0, .fence i m),
          (8, 0, .waitQueueSequence i m), (8, 1, .waitMemoryValue i m), (9, 0, .graphLaunch i m), (10, 0, .seqStep i m),
          (11, 0, .queryContextUtil i m), (11, 1, .queryContextMemory i m), (11, 2, .queryTimestamp i m), (11, 3, .queryQueueState i m),
          (12, 0, .contextTeardownKill i m), (12, 1, .contextTeardownDrain i m)] : List (Nat × Nat × Instr)),
        (opOf e.raw = row.1 → subOf e.raw = row.2.1 → m ≠ 0 →
          exec row.2.2 s = .next (onEntry s i e.seq fun x => { x with phase := .missing m none }))
        ∧ (opOf e.raw ≠ row.1 ∨ subOf e.raw ≠ row.2.1 → exec row.2.2 s = .next s))
    ∧ (∀ i q e m bad st, recovering s 0x112 = false → nextCheck s i = some (q, e) → e.phase = .missing m bad →
      let bad' := if bad = none ∧ readStatus st = true then some st else bad
      (1 < m → exec (.objectCacheMissReadDone i st) s = .next (onEntry s i e.seq fun x => { x with phase := .missing (m - 1) bad' }))
      ∧ (m ≤ 1 → exec (.objectCacheMissReadDone i st) s =
          .next (sweepUndefined (checkNow (onEntry s i e.seq fun x => { x with phase := .fetched }) i q e bad') i)))
    ∧ (recovering s 0x113 = false →
      (∀ i, exec (.commandStart (.queue i)) s = .next (sweepUndefined (beginEntry s i) i))
      ∧ (∀ l x n u, tget s.fe.launches l = some x → x.ready.head? = some n → nodeTry s l n = (true, u) →
        exec (.commandStart (.launch l)) s = .next u)
      ∧ (∀ t k i n, taskAt s t = some k → k.owner = .entry i n → itemsEnded k = true →
        exec (.commandFinish t) s = .next (endBare (bumpFor s k) t k.status k.failAddr))
      ∧ (∀ t k, taskAt s t = some k → k.reading = true → k.discarded = false → opOf k.raw = 1 ∨ opOf k.raw = 3 →
        let draw : Bool := opOf k.raw = 1
        let va := if draw then objBase k 36 + fieldAt k.raw 40 4 else objBase k 32 + fieldAt k.raw 36 4
        let r := vread s 210 7 k.fn k.asid k.ctx va (if draw then 20 else 12)
        let raw := putAt k.raw (if draw then 20 else 16) (r.2.1.take (if draw then 16 else 12))
        let c := indirectFails raw k.objs (if draw then k.draw else none)
        let fails := failIf (draw ∧ fieldAt r.2.1 16 4 ≠ 0) 1 .badOpcode ++ c.1
        let v := onTask r.2.2 t fun k => { k with reading := false }
        let ends : Status → Nat → State := fun st a =>
          onDraw (endBare v t st a) t fun d => { d with reading := false, released := true }
        (r.1 ≠ .ok → exec (.indirectArgsReadDone t) s = .next (ends r.1 v.xlt.failAddr))
        ∧ (∀ st, r.1 = .ok → firstFail fails = some st → exec (.indirectArgsReadDone t) s = .next (ends st 0))
        ∧ (r.1 = .ok → firstFail fails = none → c.2 = true → exec (.indirectArgsReadDone t) s = .next (ends .ok 0))
        ∧ (r.1 = .ok → firstFail fails = none → c.2 = false → exec (.indirectArgsReadDone t) s =
            .next (onDraw (onTask v t fun k => { k with raw := raw, total := if draw then 0 else gridBlocks raw }) t
              fun d => { d with raw := raw, reading := false }))))

/-- WAIT and its timeout (R52, R556), the end of a node (R99), SCH_DISCARD (R82). -/
def Obligations.WaitsNodesDiscards : Prop :=
  (∀ (s : State) (t : Nat) (k : Task), Safety.unitRuns s 0x112 → tget s.fe.tasks t = some k →
    (isWait k 1 = true → k.reading = false →
      exec (.waitPoll t) s = .next (onFe s fun x => { x with tasks := tset x.tasks t { k with reading := true } }))
    ∧ (isWait k 1 = true → k.reading = true →
      let r := vread s 210 7 k.fn k.asid k.ctx (waitAddr k) 8
      let v := onFe r.2.2 fun x => { x with tasks := tset x.tasks t { k with reading := false } }
      (r.1 = .ok → fieldAt k.raw 16 8 ≤ leNat r.2.1 → exec (.waitPollReadDone t) s = .next (endBare v t .ok))
      ∧ (r.1 = .ok → leNat r.2.1 < fieldAt k.raw 16 8 → exec (.waitPollReadDone t) s = .next v)
      ∧ (r.1 ≠ .ok → exec (.waitPollReadDone t) s = .next (endBare v t r.1 (waitAddr k))))
    ∧ (isWait k 0 = true ∨ isWait k 1 = true → fieldAt k.raw 32 4 ≠ 0 →
      (k.start + 1000 * fieldAt k.raw 32 4 ≤ s.time → exec (.waitTimeout t) s = .next (endBare s t .watchdog))
      ∧ (s.time < k.start + 1000 * fieldAt k.raw 32 4 → exec (.waitTimeout t) s = .next s)))
  ∧ (∀ (s : State) (l n t : Nat) (x : Launch) (k : Task), Safety.unitRuns s 0x113 → tget s.fe.launches l = some x →
    ownerTask s (.node l n) = some (t, k) →
    let rec_ := (nodeRead s x n).2.1
    let ends (v : State) : State :=
      nodeEnd (onFe v fun y => { y with tasks := tdel y.tasks t }) l n (if k.discarded then .preemptedDiscarded else k.status) rec_ k.failAddr
    (k.ended = true → exec (.graphNodeFinish l n) s = .next (ends s))
    ∧ (k.ended = false → itemsEnded k = true → exec (.graphNodeFinish l n) s = .next (ends (bumpFor s k))))
  ∧ (∀ (s : State) (h n : Nat) (q : Queue), Safety.writable s .SCH_DISCARD 0 0 → fwActive s = true → h ≠ 0 →
    queueAt s (h % 2 ^ 14) = some q → q.gen = h / 2 ^ 14 →
    let named (e : Nat × Task) : Bool :=
      match e.2.owner with | .entry i m => decide (i = h % 2 ^ 14 ∧ m % 2 ^ 32 = n % 2 ^ 32) | .node _ _ => false
    (∀ t k, s.fe.tasks.find? named = some (t, k) →
      exec (.schDiscard h n) s = .next (if k.cls = 1 ∨ k.cls = 2 then notice (discardCommand s t k) 3 4 k.q else discardCommand s t k))
    ∧ (s.fe.tasks.find? named = none → exec (.schDiscard h n) s = .next s))

/-- Steps 1, 3, 4 and 5 of R71. -/
def Obligations.TeardownSteps : Prop :=
  ∀ (s : State) (c : Nat) (td : Teardown), Safety.unitRuns s 0x112 → tget s.fe.teardowns c = some td →
    (∀ w, td.step = .draining w → w ≤ s.time →
      exec (.drainTimeout c) s = .next (tdPreempt ((ctxQueues s c).foldl (fun s e =>
        onQueue s e.1 fun q => if q.state = .drain then { q with state := .kill } else q) s) c))
    ∧ (∀ w, td.step = .draining w → s.time < w → exec (.drainTimeout c) s = .next s)
    ∧ (td.step = .preempting → tdIdle s c = true →
      let v := onFe s fun x => { x with tasks := x.tasks.filter fun e => ¬ (e.2.ctx = c ∧ e.2.dropped) }
      let u := (ctxQueues v c).foldl (fun s e => tdFences s e.1) v
      let sp := ctxSpaces u c
      exec (.teardownPreemptDone c) s = .next (onFe (sp.foldl (fun s x => invRequest s { src := .teardown c, op := .range x.1 x.2 0 (2 ^ 48) }) u)
        fun x => { x with teardowns := tupd x.teardowns c fun t => { t with step := .invalidating sp.length } }))
    ∧ (td.step = .preempting → tdIdle s c = false → exec (.teardownPreemptDone c) s = .next s)
    ∧ (∀ l, td.step = .invalidating l → tdInvs s c = 0 →
      exec (.teardownQuarantineEnd c) s = .next (flrEnd (td.cmds.foldl (fun s x =>
          match ownerTask s (.entry x.1 x.2) with | some (t, _) => endBare s t .ok | none => s)
        (onFe (tdSlots ((ctxQueues s c).foldl (fun s e => killQueue s e.1) s) c) fun x => { x with teardowns := tdel x.teardowns c, util := tdel x.util c })) td.fn))
    ∧ (∀ l, td.step = .invalidating l → tdInvs s c ≠ 0 → exec (.teardownQuarantineEnd c) s = .next s)

/-- FE_PART_WRITE (R35) and FE_OBJ_CMD (R555). -/
def Obligations.PartitionsAndObjects : Prop :=
  (∀ (s : State) (f v : Nat), Safety.writable s .FE_PART 0 f →
    exec (.fePartWrite f v) s = .next (if partBad s f (v % 2 ^ 51) then s else rset s .FE_PART (v % 2 ^ 51) 0 f))
  ∧ (∀ (s : State) (f i : Nat), Safety.writable s .FE_OBJ_CMD f 0 → fget s F.FE_OBJ_RESULT.BUSY f = 0 →
    let attr := rget s .FE_OBJ_ATTR f
    let size := rget s .FE_OBJ_SIZE f
    let addr := rget s .FE_OBJ_ADDR f
    let c := bits attr 11 0
    bits attr 31 20 = 0 → bit attr 15 = false → bits attr 19 16 ≤ 5 → c ≠ 0 → inCtx s f c = true → ctxGone s c = false →
    0 < size → size ≤ 2 ^ 48 → freeObj s f = some i →
    let s' := { s with gfx := { s.gfx with versions := tdel s.gfx.versions i } }
    (addr % 256 = 0 →
      exec (.objectCreate f false) s = .next (oResult (onFe s' fun x => { x with objs := (tset x.objs i
        ({ idx := i, gen := tgetD s.fe.objGen i 1, base := addr, size := size, kind := bits attr 19 16, ctx := c,
           shared := bit attr 14, write := bit attr 13, read := bit attr 12 } : Obj)) }) f .ok (oHandle i (tgetD s.fe.objGen i 1))))
    ∧ (addr % 256 ≠ 0 → exec (.objectCreate f false) s = .next (oResult s f .badAlignment 0))
    ∧ exec (.objectCreate f true) s = .next (oResult s f .badOpcode 0))
  ∧ (∀ (s : State) (f : Nat), Safety.writable s .FE_OBJ_CMD f 0 → fget s F.FE_OBJ_RESULT.BUSY f = 0 →
    let h := fget s F.FE_OBJ_HANDLE.HANDLE f
    exec (.objectDestroy f true) s = .next (oResult s f .badOpcode h)
    ∧ (objectOf s f h = none → exec (.objectDestroy f false) s = .next (oResult s f .staleHandle h))
    ∧ (∀ o, objectOf s f h = some o → objInUse s f o = true → exec (.objectDestroy f false) s = .next (oResult s f .permission h))
    ∧ (∀ o, objectOf s f h = some o → objInUse s f o = false → exec (.objectDestroy f false) s =
        .next (oResult (onXlt (onFe s fun x => { x with objs := tdel x.objs o.idx, objGen := tset x.objGen o.idx (wrapInc o.gen 16) })
          fun x => { x with ranges := x.ranges.filter fun r => r.obj ≠ o.idx }) f .ok h)))
  ∧ (∀ (s : State) (f op : Nat), Safety.writable s .FE_OBJ_CMD f 0 → fget s F.FE_OBJ_RESULT.BUSY f = 0 → op ≠ 1 → op ≠ 2 →
    exec (.objCmdUndefinedOp f op) s = .next (oResult s f .badOpcode 0))
  ∧ (∀ (s : State) (f op : Nat) (r : Bool), Safety.writable s .FE_OBJ_CMD f 0 → fget s F.FE_OBJ_RESULT.BUSY f = 1 →
    exec (.objectCreate f r) s = .next s ∧ exec (.objectDestroy f r) s = .next s ∧ exec (.objCmdUndefinedOp f op) s = .next s)

/-- COMPLETION_WRITE (R63 to R65). -/
def Obligations.CompletionAdvances : Prop :=
  ∀ (s : State) (i : Nat) (q : Queue), Safety.unitRuns s 0x112 → queueAt s i = some q → q.owed = [] →
    let irq (run : List Entry) (v : State) : State := if run.any wantsIrq then msixRaise v q.fn q.compVec else v
    (runNow q = [] → exec (.completionWrite i) s = .next s)
    ∧ (∀ last, (runNow q).getLast? = some last →
      let w := feWrite s q q.compl (natLe last.seq 8 ++ complTail q)
      let u := onQueue (seqWritten w.2 i last.seq) i fun q => { q with entries := q.entries.filter fun e => last.seq < e.seq, owed := [] }
      let owes := (runNow q).filter fun e => (fenceKind q.cont e).isSome
      (w.1 ≠ .ok → exec (.completionWrite i) s = .next (writeFault w.2 i w.1 q.compl))
      ∧ (w.1 = .ok → owes = [] → fencePiOf u i = some q.fencePi → exec (.completionWrite i) s = .next (waitsReached (irq (runNow q) u) i))
      ∧ (∀ q', queueAt u i = some q' → q'.seq = last.seq ∧ ∀ e ∈ q'.entries, last.seq < e.seq)
      ∧ (∀ e q', w.1 = .ok → owes = [e] → queueAt u i = some q' → fenceRoom q' = true →
        let k := (fenceKind q.cont e).getD 0
        let v := fenceWrite u i (fenceCookie e k) e.seq (endStatus e) k
        fencePiOf v i ≠ some q.fencePi → q'.fencePi = q.fencePi → q'.cont = q.cont →
        exec (.completionWrite i) s = .next (waitsReached (irq (runNow q) (msixRaise (tailWrite v i) q.fn q.fenceVec)) i)))

/-- R74 and R75: queue class, then PRIORITY, then round robin by queue or launch, decide which ready command is first. -/
def Obligations.BestRankFirst : Prop :=
  ∀ (s : State) (e : Eng) (t : Nat) (k : Task), (readyTasks s e).head? = some (t, k) →
    (∀ x ∈ s.fe.tasks, x.2.prio ≤ 15 ∧ turnKey x.2 < 2 ^ 30 - 1 ∧ x.2.cls < 4) → lastTurn s e ≤ 2 ^ 30 - 1 →
    (t, k) ∈ s.fe.tasks ∧ k.eng = e ∧ itemReady k = true
    ∧ ∀ x ∈ s.fe.tasks, x.2.eng = e → itemReady x.2 = true →
      classRank k.cls ≤ classRank x.2.cls
      ∧ (k.cls = x.2.cls → x.2.prio ≤ k.prio)
      ∧ (k.cls = x.2.cls → x.2.prio = k.prio →
          (lastTurn s e < turnKey x.2 → lastTurn s e < turnKey k ∧ turnKey k ≤ turnKey x.2)
          ∧ (turnKey x.2 ≤ lastTurn s e → turnKey k ≤ lastTurn s e → turnKey k ≤ turnKey x.2))

/-- The work items, the chunk rows, pre-emption and the budget. -/
def Obligations.ItemsPreemptionAndBudget : Prop :=
  (∀ s : State, Safety.unitRuns s 0x113 →
      let takes (e : Eng) (t : Nat) (k : Task) (lost : Task → Bool) : State :=
        onTask (chargeLosers (serveTurn s e (turnKey k)) e t k lost) t fun k => (takeItem k).2
      let live := liveItems s .copy fun _ => true
      (∀ t k, (readyTasks s .copy).head? = some (t, k) → live < 4 → exec (.itemPlace .copy) s = .next (takes .copy t k fun _ => live = 3))
      ∧ (4 ≤ live → exec (.itemPlace .copy) s = .next s)
      ∧ (∀ t k, domOpen s 43 = true →
        (readyTasks s .press).find? (fun x => liveItems s .press (fun k => compresses k = compresses x.2) = 0) = some (t, k) →
        exec (.itemPlace .press) s = .next (takes .press t k fun y => compresses k = compresses y))
      ∧ (domOpen s 43 = false → readyTasks s .press ≠ [] → exec (.itemPlace .press) s = .next (demand s 43))
      ∧ (∀ e t k rest p k' u c, e = .shader ∨ e = .accord → readyTasks s e = (t, k) :: rest → taskProg s t k = (some (p, k'), u) →
        nextCore u t k' p = some c →
        let x := takeItem k'
        let v := onTask (serveTurn u e (turnKey k')) t fun _ => x.2
        (∀ b, savedItem u t x.1 = some b →
          exec (.itemPlace e) s = .next (requestPreempt (chargeCores u (restoreBlock v b.1 b.2 c) k'.ctx) e))
        ∧ (savedItem u t x.1 = none →
          exec (.itemPlace e) s = .next (requestPreempt (chargeCores u (placeNew v t x.1 k' p c) k'.ctx) e)))
      ∧ (∀ e t k p k' u, e = .shader ∨ e = .accord → readyTasks s e = [(t, k)] → taskProg s t k = (some (p, k'), u) →
        nextCore u t k' p = none → exec (.itemPlace e) s = .next (requestPreempt u e))
      ∧ exec (.itemPlace .collator) s = .next (((passesBy s .collator fun _ => true).map Prod.fst).foldl placePositions s)
      ∧ exec (.itemPlace .raster) s = .next (placeFragments s))
  ∧ (∀ (s : State) (t i n : Nat) (k : Task), Safety.unitRuns s (0x118 + i % 4) → taskAt s t = some k → k.eng = .copy → i ∈ k.live →
      let r := copyChunk s k i
      let u := busySteps (itemDone r.2 t i) k.ctx .copy n
      exec (.copyChunkDone t i n) s = .next (if r.1 = .ok then u else taskFail u t r.1 u.xlt.failAddr))
  ∧ (∀ s : State, Safety.engines s →
      (∀ b k, blockAt s b = some k → k.pre = .requested → (∀ c sl, k.kind ≠ .fragment c sl) →
        let u := onBlock s b fun k => { k with pre := .saving }
        (∀ e, k.engine = some e → exec (.preemptGraceExpiry (.block b)) s = .next (onEngine u e fun x => { x with draining := true }))
        ∧ (k.engine = none → exec (.preemptGraceExpiry (.block b)) s = .next (if k.discard then dropBlock u b else u)))
      ∧ (∀ b k, blockAt s b = some k → k.pre ≠ .requested → exec (.preemptGraceExpiry (.block b)) s = .next s)
      ∧ (∀ c sl t, tileAt s c sl = some t → t.pre = .requested →
        exec (.preemptGraceExpiry (.tile c sl)) s = .next (onSc (onTile s c sl fun t => { t with pre := .saving }) fun y => { y with
          blocks := y.blocks.map fun e => if e.2.kind = .fragment c sl then (e.1, { e.2 with pre := .saving }) else e }))
      ∧ (∀ b k, blockAt s b = some k → k.pre = .saving →
        (engineStill s k = true → exec (.preemptSaveDone (.block b)) s = .next (saveBlock s b id))
        ∧ (engineStill s k = false → exec (.preemptSaveDone (.block b)) s = .next s))
      ∧ (∀ c sl t key, c < 16 → tileAt s c sl = some t → t.pre = .saving →
        (upFrom 256 4096).find? (fun k => (tget s.gfx.tiles k).isNone) = some key →
        let u := (s.sc.blocks.filter fun e => e.2.kind = .fragment c sl).foldl
          (fun s e => saveBlock s e.1 fun _ => .fragment (key / 16) (key % 16)) s
        ∀ x, tileAt u c sl = some x →
        exec (.preemptSaveDone (.tile c sl)) s = .next (moveGroups (onGfx u fun g => { g with
          tiles := tset (tdel g.tiles (c * 16 + sl)) key { x with
            pre := .none, runs := [], cores := [none, none, none, none], data := tileData u c x, bad := tileBad u c x } })
          (.fragment c sl) (.fragment (key / 16) (key % 16))))
      ∧ (∀ core slot b k g, groupIn s core slot = some (b, k, g) → fget s F.SCH_DL_BUDGET.STEPS = 0 ∨ (k.cls ≠ 1 ∧ k.cls ≠ 2) →
        exec (.deadlineBudgetExpiry core slot) s = .next s)
      ∧ (∀ core slot b k g, groupIn s core slot = some (b, k, g) → fget s F.SCH_DL_BUDGET.STEPS ≠ 0 → k.cls = 1 ∨ k.cls = 2 →
        let mine (n : Nat) (g : Group) : Bool :=
          decide (g.slot = slot) && (match g.park with | some p => decide (p.id = n) | none => false)
        let frees (v : State) : State := onSc v fun x => { x with parkIds := x.parkIds.filter fun n => ¬ k.groups.any (mine n) }
        (∀ t i, k.kind = .item t i →
          let u := onGroup (frees (taskFail s t .watchdog)) b slot fun g =>
            { g with park := none, mem := [], threads := g.threads.map fun h => { h with live := false } }
          exec (.deadlineBudgetExpiry core slot) s = .next (settle (barChecks u b) b 0))
        ∧ (∀ p, k.kind = .position p →
          exec (.deadlineBudgetExpiry core slot) s = .next (dropBlock (frees (passFail s p .watchdog)) b))
        ∧ (∀ c sl x, k.kind = .fragment c sl → tget s.gfx.tiles (c * 16 + sl) = some x →
          exec (.deadlineBudgetExpiry core slot) s = .next (dropBlock (frees (passFail s x.pass .watchdog)) b))))

/-- SCH_GCMD (R90 to R92, R552); what the result register holds while BUSY is 1 is the model's choice (log 121). -/
def Obligations.GraphOperations : Prop :=
  (∀ (s : State) (f : Nat), Safety.writable s .SCH_GCMD f 0 → fget s F.SCH_GRESULT.BUSY f = 0 →
    let b := gopBegin s f 1
    let left (v : State) (e : Option (Status × Nat)) : State := onFe v fun x => { x with gops := tset x.gops f { b.1 with failed := e } }
    (b.2 = fset s F.SCH_GRESULT.BUSY 1 f ∧ (gopBegin s f 2).2 = b.2)
    ∧ (b.1.graph = none → exec (.graphPublish f) s = .next (left b.2 (some (.staleHandle, 0))))
    ∧ (∀ g, b.1.graph = some g → gopRights g none = false ∨ liveOf b.2 f g.idx ≠ [] →
      exec (.graphPublish f) s = .next (left b.2 (some (.permission, 0))))
    ∧ (∀ g st n h r v, b.1.graph = some g → gopRights g none = true → liveOf b.2 f g.idx = [] →
      publishCheck b.2 f g = ((st, n), h, r, v) →
      (st ≠ .ok → exec (.graphPublish f) s = .next (left v (some (st, n))))
      ∧ (st = .ok → exec (.graphPublish f) s =
          .next (left (invRequest (armRange v r) { src := .graph f, op := .outputRange r.lo (r.hi - r.lo) }) none)))
    ∧ exec (.graphPatch f) s = .next (onFe (gopBegin s f 2).2 fun x => { x with gops := tset x.gops f (gopBegin s f 2).1 })
    ∧ (∀ op, op % 16 ≠ 1 → op % 16 ≠ 2 → exec (.gcmdUndefinedOp f op) s = .next (gResult s f .badOpcode 0 0)))
  ∧ (∀ (s : State) (f op : Nat), Safety.writable s .SCH_GCMD f 0 → fget s F.SCH_GRESULT.BUSY f = 1 →
    exec (.graphPublish f) s = .next s ∧ exec (.graphPatch f) s = .next s ∧ exec (.gcmdUndefinedOp f op) s = .next s)
  ∧ (∀ (s : State) (f : Nat) (op : GOp), Safety.unitRuns s 0x113 → tget s.fe.gops f = some op →
    let u := onFe s fun x => { x with gops := tdel x.gops f }
    (arming s f = true → exec (.graphOpComplete f) s = .next s)
    ∧ (arming s f = false →
      (∀ st n, op.failed = some (st, n) → exec (.graphOpComplete f) s = .next (gResult u f st n 0))
      ∧ (op.failed = none → op.graph = none → exec (.graphOpComplete f) s = .next (gResult u f .staleHandle 0 0))
      ∧ (∀ g, op.failed = none → op.graph = some g → op.op = 1 →
        (graphRange u f g.idx = none → exec (.graphOpComplete f) s = .next (gResult u f .permission 0 0))
        ∧ (∀ r, graphRange u f g.idx = some r → liveOf u f g.idx ≠ [] → exec (.graphOpComplete f) s = .next (gResult u f .permission 0 0))
        ∧ (∀ r, graphRange u f g.idx = some r → liveOf u f g.idx = [] →
          exec (.graphOpComplete f) s = .next (publishEffect u f r.lo g.idx)))
      ∧ (∀ g, op.failed = none → op.graph = some g → op.op = 2 →
        (op.stage = none → exec (.graphOpComplete f) s = .next (gResult u f .staleHandle 0 0))
        ∧ (∀ st, op.stage = some st → gopRights g (some st) = false →
          exec (.graphOpComplete f) s = .next (gResult u f .permission 0 0))
        ∧ (∀ st, op.stage = some st → gopRights g (some st) = true → graphRange u f g.idx = none →
          exec (.graphOpComplete f) s = .next (gResult u f .staleHandle 0 0))
        ∧ (∀ r st, op.stage = some st → gopRights g (some st) = true → graphRange u f g.idx = some r →
          let x := patchRun u f r.lo g st op.count op.offset
          exec (.graphOpComplete f) s = .next (gResult x.2 f x.1.1 x.1.2.1 x.1.2.2)))))

/-- R119 and R120: the cohort of the lowest program counter, unless one has waited 31 issues. -/
def Obligations.CohortChoice : Prop :=
  ∀ g : Group,
    let ready := liveThat g fun h => decide (h.wait = .none)
    let aged := ready.filter fun t => decide (31 ≤ (thr g t).age)
    (g.park.isSome = true → cohortOf g = none)
    ∧ (g.park = none → ready ≠ [] → (cohortOf g).isSome = true)
    ∧ (∀ pc ts, cohortOf g = some (pc, ts) →
      (∀ t, t ∈ ts ↔ t ∈ ready ∧ (thr g t).pc = pc) ∧ ts ≠ []
      ∧ (aged = [] → ∀ t ∈ ready, pc ≤ (thr g t).pc)
      ∧ (aged ≠ [] → (∃ t ∈ aged, (thr g t).pc = pc) ∧ ∀ t ∈ aged, pc ≤ (thr g t).pc))

/-- GROUP_ISSUE, FSTAT, EXIT and TRAP (R119, R121, R136, R142; 06 R178 to R193); the instruction stands in the command (log 12). -/
def Obligations.IssuedInstructions : Prop :=
  (∀ (s : State) (core pipe ecc d n : Nat) (x : SIns), Safety.engines s → pipeNext s core pipe = none →
    exec (.groupIssue core pipe ecc x) s = .next s ∧ exec (.fstat core pipe d) s = .next s ∧ exec (.exit core pipe n) s = .next s
    ∧ exec (.trap core pipe) s = .next s)
  ∧ (∀ (s : State) (core pipe ecc n : Nat) (x : SIns) (j : Issue), Safety.engines s → pipeNext s core pipe = some j →
    let blocks (ops : List (Nat × Nat)) (all : Bool) : State := onGroup s j.b j.g.slot fun g =>
      onThreads g (j.ts.filter (operandWaits g ops all)) fun h => { h with wait := .mem }
    (j.ts.any (operandWaits j.g x.vregs x.isFence) = true → exec (.groupIssue core pipe ecc x) s = .next (blocks x.vregs x.isFence))
    ∧ (j.ts.any (operandWaits j.g [] true) = true → exec (.exit core pipe n) s = .next (blocks [] true)))
  ∧ (∀ (s u : State) (core pipe ecc : Nat) (i : Issue) (x : SIns), Safety.engines s → Safety.issues s core pipe x.vregs x.isFence i u →
    let v := coreEcc u core ecc
    let done : State → Prop := fun t => exec (.groupIssue core pipe ecc x) s = .next t
    let fin (g : Group) : State := put v i (advance g i.ts)
    let finS (r : Group × State) : State := put r.2 i (advance r.1 i.ts)
    let lane := opnd i.g
    (x.exists i.blk.prog = false → exec (.groupIssue core pipe ecc x) s = .next (parkAt v i .badOpcode))
    ∧ (x.exists i.blk.prog = true →
      (∀ op k rm d a b, x = .float2 op k rm d a b → done (fin (perThread i.g i.ts d k.words fun t =>
        op.apply k.fmt rm (lane k a t) (if op = .scaleB then vr i.g b t else lane k b t))))
      ∧ (∀ op k rm d a, x = .float1 op k rm d a → done (fin (perThread i.g i.ts d (if op = .cls then 1 else k.words) fun t =>
        op.apply k.fmt rm (lane k a t))))
      ∧ (∀ k rm d a b c, x = .fma k rm d a b c → done (fin (perThread i.g i.ts d k.words fun t =>
        k.fmt.fma rm (lane k a t) (lane k b t) (lane k c t))))
      ∧ (∀ rm d a b c, x = .fma16x2 rm d a b c → done (fin (perThread i.g i.ts d 1 fun t =>
        let half (r h : Nat) := vr i.g r t / 2 ^ (16 * h) % 2 ^ 16
        let lo := Fmt.b16.fma rm (half a 0) (half b 0) (half c 0)
        let hi := Fmt.b16.fma rm (half a 1) (half b 1) (half c 1)
        (lo.1 + hi.1 * 2 ^ 16, lo.2 ||| hi.2))))
      ∧ (∀ op k r rm d a b c, x = .formatOf op k r rm d a b c → done (fin (perThread i.g i.ts d r.words fun t =>
        op.apply k.fmt r.fmt rm (lane k a t) (lane k b t) (lane k c t))))
      ∧ (∀ mag k d a b, x = .order mag k d a b → done (fin (perThread i.g i.ts d 1 fun t => k.fmt.total mag (lane k a t) (lane k b t))))
      ∧ (∀ c sg k d a b, x = .fcmp c sg k d a b → done (fin (perThread i.g i.ts d 1 fun t => k.fmt.cmp c sg (lane k a t) (lane k b t))))
      ∧ (∀ f d a, x = .approx f d a →
        done (finS (perThreadFree v i d (fun t k => Machine.approx f (vr i.g a t) k) fun _ => true)))
      ∧ (∀ p q rm sat d a, x = .cvt p q rm sat d a →
        done (fin (perThread i.g i.ts d q.words fun t => convert p.fmt q.fmt rm sat (lane p a t))))
      ∧ (∀ k n rm d a, x = .toInt k n rm d a → done (fin (perThread i.g i.ts d 1 fun t => Machine.toInt k.fmt n rm (lane k a t))))
      ∧ (∀ k n rm d a, x = .ofInt k n rm d a → done (fin (perThread i.g i.ts d k.words fun t => Machine.ofInt k.fmt n rm (vr i.g a t % 2 ^ n)))))
    ∧ (x.exists i.blk.prog = true →
      (∀ op d a b, x = .int op d a b → done (finS (perThreadFree v i d (fun t k => ((op.apply (vr i.g a t) (vr i.g b t)).getD k, 0))
        fun t => (op.apply (vr i.g a t) (vr i.g b t)).isNone)))
      ∧ (∀ op d a b y, x = .scalar op d a b → op.apply (sreg i.g a) (sreg i.g b) = some y → done (fin (setS i.g d y)))
      ∧ (∀ op d a b, x = .scalar op d a b → op.apply (sreg i.g a) (sreg i.g b) = none →
        done (finS (setS i.g d (takeFree v (2 ^ 32)).1, (takeFree v (2 ^ 32)).2)))
      ∧ (∀ d y, x = .imm d y → done (fin (perThread i.g i.ts d 1 fun _ => (y, 0))))
      ∧ (∀ d y, x = .scalarImm d y → done (fin (setS i.g d y)))
      ∧ (∀ d a, x = .fromScalar d a → done (fin (perThread i.g i.ts d 1 fun _ => (sreg i.g a, 0))))
      ∧ (∀ d a, x = .toScalar d a → done (fin (setS i.g d (vr i.g a (i.ts.headD 0)))))
      ∧ (∀ p, x = .branch p → done (put v i (onThreads i.g i.ts fun h => { h with pc := p })))
      ∧ (∀ a p, x = .branchIf a p → done (put v i (onThreads (advance i.g (i.ts.filter fun t => vr i.g a t = 0))
        (i.ts.filter fun t => vr i.g a t ≠ 0) fun h => { h with pc := p })))
      ∧ (∀ op n d addr src sx loc priv, x = .memory op n d addr src sx loc priv → storeBarred i.blk op loc priv = false →
        let idle : List Nat := if op = .load then [] else i.ts.filter (isHelper i.blk)
        done (put v i { advance i.g i.ts with mem := i.g.mem ++ [{
          op := op, size := n, dst := d, lanes := (lanesOf i op n addr src loc).filter fun l => l.thread ∉ idle, sx := sx, isLocal := loc,
          priv := priv && !op.isAtomic, pc := i.pc, idle := idle, ordered := false }] }))
      ∧ (∀ op n d addr src sx loc priv, x = .memory op n d addr src sx loc priv → storeBarred i.blk op loc priv = true →
        done (parkAt v i .badOpcode))
      ∧ (∀ scope, x = .fence scope → done (fin i.g))))
  ∧ (∀ (s u : State) (core pipe d : Nat) (i : Issue), Safety.engines s → Safety.issues s core pipe [(d, 1)] false i u →
    (i.lacks [(d, 1)] [] = false → exec (.fstat core pipe d) s = .next (put u i (advance
      (onThreads (i.ts.foldl (fun g t => setV g d t (thr i.g t).flags) i.g) i.ts fun h => { h with flags := 0 }) i.ts)))
    ∧ (i.lacks [(d, 1)] [] = true → exec (.fstat core pipe d) s = .next (parkAt u i .badOpcode)))
  ∧ (∀ (s u : State) (core pipe n : Nat) (i : Issue), Safety.engines s → Safety.issues s core pipe [] true i u →
    exec (.exit core pipe n) s = .next (exitThreads u i n))
  ∧ (∀ (s u : State) (core pipe : Nat) (i : Issue), Safety.engines s → Safety.issues s core pipe [] false i u →
    exec (.trap core pipe) s = .next (parkGroup u i.b i.g.slot .groupTrap i.ts i.pc))

/-- Frame of GROUP_ISSUE without memory, and of FSTAT. -/
def Obligations.RegisterInstructionFrame : Prop :=
  ∀ (s t u : State) (core pipe ecc d : Nat) (i : Issue) (x : SIns),
    (Safety.issues s core pipe x.vregs x.isFence i u → x.exists i.blk.prog = true → (∀ op n e a v sx l p, x ≠ .memory op n e a v sx l p) →
      exec (.groupIssue core pipe ecc x) s = .next t →
      t = { s with sc := { s.sc with blocks := t.sc.blocks, pipes := t.sc.pipes }, freeCtr := t.freeCtr, regs := t.regs }
      ∧ (t.regs = s.regs ∨ t.regs = (coreEcc s core ecc).regs))
    ∧ (Safety.issues s core pipe [(d, 1)] false i u → i.lacks [(d, 1)] [] = false → exec (.fstat core pipe d) s = .next t →
      t = { s with sc := { s.sc with blocks := t.sc.blocks, pipes := t.sc.pipes } })

/-- BAR_WAIT, QWAIT, QCOMPLETE, their events, and MEMORY_ACCESS_RETURN. -/
def Obligations.BarriersAndWaits : Prop :=
  (∀ (s u : State) (core pipe : Nat) (i : Issue), Safety.engines s →
    (Safety.issues s core pipe [] false i u →
      (∀ n, n < 16 → exec (.barWait core pipe n) s =
        .next (barCheck i.b (onBlock (put u i (onThreads i.g i.ts fun h => { h with wait := .bar n })) i.b fun k =>
          { k with bars := if (tget k.bars n).isSome then k.bars else tset k.bars n s.time }) n))
      ∧ (∀ n, 16 ≤ n → exec (.barWait core pipe n) s = .next (parkAt u i .badOpcode))
      ∧ (∀ q n fl, n % 2 = 1 ∨ i.lacks [] [(q, 1), (n, 2)] = true → exec (.qcomplete core pipe q n fl) s = .next (parkAt u i .badOpcode))
      ∧ (∀ q n fl, n % 2 = 0 → i.lacks [] [(q, 1), (n, 2)] = false →
        (residentQueue u i.blk (sreg i.g q) = none → exec (.qcomplete core pipe q n fl) s = .next (parkAt u i .staleHandle))
        ∧ (∀ j x, residentQueue u i.blk (sreg i.g q) = some (j, x) → exec (.qcomplete core pipe q n fl) s =
          .next (residentComplete (put u i (advance i.g i.ts)) j (sreg i.g n + sreg i.g (n + 1) * 2 ^ 32) (bit fl 0)))))
    ∧ (∀ d q ix, Safety.issues s core pipe [(d, 1)] false i u →
      (i.lacks [(d, 1)] [(q, 1), (ix, 1)] = true → exec (.qwait core pipe d q ix) s = .next (parkAt u i .badOpcode))
      ∧ (i.lacks [(d, 1)] [(q, 1), (ix, 1)] = false →
        (residentQueue u i.blk (sreg i.g q) = none → exec (.qwait core pipe d q ix) s = .next (parkAt u i .staleHandle))
        ∧ (∀ j x, residentQueue u i.blk (sreg i.g q) = some (j, x) → x.shadow ≠ sreg i.g ix →
          exec (.qwait core pipe d q ix) s = .next (put u i (advance (i.ts.foldl (fun g t => setV g d t x.shadow) i.g) i.ts)))
        ∧ (∀ j x, residentQueue u i.blk (sreg i.g q) = some (j, x) → x.shadow = sreg i.g ix →
          exec (.qwait core pipe d q ix) s =
            .next (put u i (onThreads i.g i.ts fun t => { t with wait := .qwait (sreg i.g q) d (sreg i.g ix) }))))))
  ∧ (∀ (s : State) (b : Nat) (k : Block), Safety.engines s → blockAt s b = some k →
    let openAt := (List.range 16).filter fun n => k.groups.any fun g => decide (liveThat g (fun h => decide (h.wait = .bar n)) ≠ [])
    ((∀ g ∈ k.groups, g.park = none ∧ liveThat g (fun _ => true) = atBarrier g) → 1 < openAt.length →
      exec (.barrierMismatchDetect b) s = .next (parkAll s b .barrierMismatch true atBarrier))
    ∧ ((∃ g ∈ k.groups, g.park ≠ none ∨ liveThat g (fun _ => true) ≠ atBarrier g) → exec (.barrierMismatchDetect b) s = .next s)
    ∧ (∀ n x, k.prog.barTimeout ≠ 0 → tget k.bars n = some x →
      exec (.barrierTimeout b n) s = .next (parkAll s b .watchdog false fun g => liveThat g fun h => decide (h.wait = .bar n)))
    ∧ (∀ n, k.prog.barTimeout = 0 → exec (.barrierTimeout b n) s = .next s))
  ∧ (∀ (s : State) (q : Nat) (x : Queue), Safety.engines s → queueAt s q = some x → x.coreWake = true → domOn s 41 = true →
    let wake (k : Block) : Block := { k with groups := k.groups.map fun g => wakeGroup (q + x.gen * 2 ^ 14) x.shadow g }
    exec (.qwaitWake q) s = .next (onSc (onQueue s q fun y => { y with coreWake := false }) fun y =>
      { y with blocks := y.blocks.map fun e => (e.1, wake e.2), saved := y.saved.map fun e => (e.1, wake e.2) }))
  ∧ (∀ (s : State) (core slot n ecc b : Nat) (refetch : Bool) (k : Block) (g : Group) (q0 : MReq), Safety.engines s →
    groupIn s core slot = some (b, k, g) → g.mem[n]? = some q0 → k.pre ≠ .saving → olderMeets (g.mem.take n) q0 = false →
    let q := (orderedPart s k q0).1
    let left := (orderedPart s k q0).2
    (q.threads = [] → exec (.memoryAccessReturn core slot n ecc refetch) s = .next s)
    ∧ (q.threads ≠ [] →
      let u := onGroup (coreEcc s core ecc) b slot fun g => { g with mem := restOf g.mem n left }
      let parks (v : State) (f : Status × Nat) : State := if g.park.isSome then s else
        parkGroup v b slot f.1 q.threads q.pc f.2 (q.op != .load) none true [q]
      (∀ f v, lanesCheck k q q.lanes [] u = (some f, v) → exec (.memoryAccessReturn core slot n ecc refetch) s = .next (parks v f))
      ∧ (∀ f v w vals, lanesCheck k q q.lanes [] u = (none, v) → reqRun v b k g.idx q refetch = (some f, vals, w) →
        exec (.memoryAccessReturn core slot n ecc refetch) s = .next (parks w f))
      ∧ (∀ v w vals, lanesCheck k q q.lanes [] u = (none, v) → reqRun v b k g.idx q refetch = (none, vals, w) →
        let vals' := if q.op.isAtomic then vals ++ q.idle.map fun t => (t, (takeFree w (2 ^ 64)).1) else vals
        exec (.memoryAccessReturn core slot n ecc refetch) s = .next (onGroup (if q.op.isAtomic ∧ q.idle ≠ [] then (takeFree w (2 ^ 64)).2 else w) b slot
          fun g => unblock (vals'.foldl (fun g x => setVN g q.dst x.1 (sizeWords q.size) x.2) g) q.threads))))

/-- SC_REPLAY (R140) and R116. -/
def Obligations.ReplayOperations : Prop :=
  (∀ (s : State) (f id gen : Nat), Safety.writable s .SC_REPLAY f 0 → fget s F.SC_REPLAY_RESULT.BUSY f = 0 →
    let named := (parkedGroups s).find? fun x => x.2.2.2.2.id = id % 2 ^ 13 ∧ x.2.2.2.2.gen = gen % 256 ∧ (f = 0 ∨ x.2.2.1.fn = f)
    (named = none →
      exec (.scReplayReplay f id gen) s = .next (replayResult s f .staleHandle 0)
      ∧ exec (.scReplayContinue f id gen) s = .next (replayResult s f .staleHandle 0)
      ∧ exec (.scReplayAbort f id gen) s = .next (replayResult s f .staleHandle 0))
    ∧ (∀ b sv k g p, named = some (b, sv, k, g, p) →
      exec (.scReplayReplay f id gen) s = .next (replayResult (unpark s b k g p false) f .ok 1)
      ∧ exec (.scReplayContinue f id gen) s = .next (replayResult (unpark s b k g p true) f .ok 1)
      ∧ exec (.scReplayAbort f id gen) s = .next (replayResult (abortOwner s k p.status p.addr) f .ok 1))
    ∧ (∀ c, inCtx s f (c % 4096) = false → exec (.scReplayContext f c) s = .next (replayResult s f .permission 0))
    ∧ (∀ c, inCtx s f (c % 4096) = true →
      let go := (parkedGroups s).filter fun x => x.2.2.1.ctx = c % 4096 ∧ (f = 0 ∨ x.2.2.1.fn = f)
        ∧ (x.2.2.2.2.status = .translationFault ∨ x.2.2.2.2.status = .permission)
      exec (.scReplayContext f c) s = .next (replayResult (go.foldl (fun s x => unpark s x.1 x.2.2.1 x.2.2.2.1 x.2.2.2.2 false) s) f .ok go.length))
    ∧ (∀ op, op % 16 = 0 ∨ 4 < op % 16 → exec (.scReplayUndefinedOp f op) s = .next (replayResult s f .badOpcode 0)))
  ∧ (∀ (s : State) (core : Nat), Safety.engines s → core < 128 → domOn s (core / 8) = true →
    exec (.shaderEccUncorrectable core) s = .next (raiseBare s core .uncorrectableEcc 4 (.memory 0 4 0xFF 0xFF 0xFF 0xFFFF 0xFFFF 0 0)))

/-- ACCORD, ACC_WAIT, the fragment instructions, ACC_INFO and ACC_ARG (04 R129 to R131, 05 R162 to R165, R173). -/
def Obligations.AccordInstructions : Prop :=
  (∀ (s u : State) (core pipe dst d : Nat) (i : Issue), Safety.engines s → Safety.issues s core pipe [(dst, 1)] false i u →
    (∀ e, i.blk.engine = some e → i.blk.prog.accord = true → i.lacks [(dst, 1)] [(d, 8)] = false → i.g.lost = false →
      exec (.accordInstruction core pipe dst d) s = .next (onEngine (put u i (onThreads i.g i.ts fun h => { h with wait := .accord })) e fun x =>
        { x with inflight := x.inflight ++ [{ words := (List.range 8).map fun n => sreg i.g (d + n), token := 0, group := i.g.slot,
                                              mask := i.ts, dst := dst, d := d, pc := i.pc }] }))
    ∧ (∀ e, i.blk.engine = some e → i.blk.prog.accord = true → i.lacks [(dst, 1)] [(d, 8)] = false → i.g.lost = true →
      exec (.accordInstruction core pipe dst d) s =
        .next (put (onBlock u i.b fun k => { k with token := nextToken i.blk.token, ends := tset k.ends (nextToken i.blk.token) .reissue }) i
          (advance (i.ts.foldl (fun g t => setV g dst t (nextToken i.blk.token)) i.g) i.ts)))
    ∧ (i.blk.engine = none ∨ i.blk.prog.accord = false ∨ i.lacks [(dst, 1)] [(d, 8)] = true →
      exec (.accordInstruction core pipe dst d) s = .next (parkAt u i .badOpcode)))
  ∧ (∀ (s u : State) (core pipe dst src : Nat) (i : Issue), Safety.engines s → Safety.issues s core pipe [(dst, 1), (src, 1)] false i u →
    i.lacks [(dst, 1), (src, 1)] [] = false →
    ((∀ t ∈ i.ts, tokenState u i.blk (vr i.g src t) ≠ some none) →
      exec (.accWait core pipe dst src) s = .next (put u i (i.ts.foldl (fun g t =>
        match tokenState u i.blk (vr i.g src t) with
        | some (some o) => advance (setV g dst t o) [t]
        | _ => onThreads g [t] fun h => { h with wait := .acc (vr i.g src t) dst }) i.g)))
    ∧ ((∃ t ∈ i.ts, tokenState u i.blk (vr i.g src t) = some none) → exec (.accWait core pipe dst src) s = .next (parkAt u i .badOpcode)))
  ∧ (∀ (s u : State) (core pipe d a n : Nat) (i : Issue), Safety.engines s → Safety.issues s core pipe [(d, n)] false i u →
    (∀ e, 1 ≤ n → n ≤ 8 → i.blk.engine = some e → i.lacks [(d, n)] [(a, 1)] = false →
      exec (.accLoadFrag core pipe d a n) s =
        .next (fragTry i.b (put u i (onThreads i.g i.ts fun h => { h with wait := .frag true d a n })) i.g.slot)
      ∧ exec (.accStoreFrag core pipe d a n) s =
        .next (fragTry i.b (put u i (onThreads i.g i.ts fun h => { h with wait := .frag false d a n })) i.g.slot))
    ∧ (i.blk.engine = none ∨ n = 0 ∨ 8 < n ∨ i.lacks [(d, n)] [(a, 1)] = true →
      exec (.accLoadFrag core pipe d a n) s = .next (parkAt u i .badOpcode) ∧ exec (.accStoreFrag core pipe d a n) s = .next (parkAt u i .badOpcode)))
  ∧ (∀ (s u : State) (core pipe d n : Nat) (i : Issue), Safety.engines s → Safety.issues s core pipe [] false i u → i.lacks [] [(d, 1)] = false →
    (∀ e, i.blk.engine = some e → exec (.accInfo core pipe d) s = .next (put u i
      { advance (setS i.g d (b2n i.g.lost <<< 31 + (e / 4) <<< 24 + e <<< 16 + ownedBanks u e)) i.ts with lost := false }))
    ∧ (i.blk.engine = none → exec (.accInfo core pipe d) s = .next (put u i { advance (setS i.g d 0) i.ts with lost := false }))
    ∧ (∀ t m k, i.blk.kind = .item t m → taskAt u t = some k → byteAt k.raw 0 = 4 → n < 16 →
      exec (.accArg core pipe d n) s = .next (put u i (advance (setS i.g d ((accordArgs k).getD n 0)) i.ts)))
    ∧ (∀ t m k, i.blk.kind = .item t m → taskAt u t = some k → byteAt k.raw 0 ≠ 4 ∨ 16 ≤ n →
      exec (.accArg core pipe d n) s = .next (parkAt u i .badOpcode)))
  ∧ (∀ (s : State) (core slot b : Nat) (k : Block) (g : Group) (t0 : Nat) (ts : List Nat), Safety.engines s → groupIn s core slot = some (b, k, g) →
    g.park = none → (liveThat g (fun _ => true)).filter (fun t => match (thr g t).wait with | .frag _ _ _ _ => true | _ => false) = t0 :: ts →
    let pc := ts.foldl (fun p t => Nat.min p (thr g t).pc) (thr g t0).pc
    let here := (t0 :: ts).filter fun t => decide ((thr g t).pc = pc)
    let rest := (liveThat g fun _ => true).filter fun t => decide (t ∉ here)
    (rest ≠ [] → rest.all (fun t => matrixBlocked (thr g t) pc) = true →
      exec (.matrixDivergenceDetect core slot) s = .next (parkGroup s b slot .matrixDivergence here pc))
    ∧ (rest = [] → exec (.matrixDivergenceDetect core slot) s = .next s))

/-- The engine's events (05 R154 to R172). -/
def Obligations.AccordEngines : Prop :=
  (∀ (s : State) (e b : Nat) (k : Block), Safety.unitRuns s (0x80 + e) → (engineAt s e).block = some b → blockAt s b = some k →
    let next := (engineAt s e).inflight.find? fun i => !descWaits s e k i
    ((engineAt s e).draining = true ∨ 4 ≤ (engineAt s e).queue.length ∨ next = none → exec (.accordDescriptorArrive e) s = .next s)
    ∧ (∀ i, (engineAt s e).draining = false → (engineAt s e).queue.length < 4 → next = some i →
      let rest := (engineAt s e).inflight.erase i
      (∀ st, descBad s e i = some st →
        exec (.accordDescriptorArrive e) s = .next (parkGroup (onEngine s e fun x => { x with inflight := rest }) b i.group st i.mask i.pc))
      ∧ (descBad s e i = none →
        let tok := nextToken k.token
        exec (.accordDescriptorArrive e) s =
          .next (onGroup (onBlock (onEngine s e fun x => { x with inflight := rest, queue := x.queue ++ [{ i with token := tok }] }) b fun k =>
              { k with token := tok, ends := tdel k.ends tok })
            b i.group fun g => advance (i.mask.foldl (fun g t => setV g i.dst t tok) g) i.mask))))
  ∧ (∀ (s : State) (e : Nat), Safety.unitRuns s (0x80 + e) →
    (startable (engineAt s e) true = none → exec (.mmaStart e) s = .next s)
    ∧ (∀ i b, startable (engineAt s e) true = some i →
      let v := mmaReduce s e
      let x := engineAt v e
      x.block = some b → x.faults = [] →
      (linesBad v (e / 4) [tableLines i] = true → exec (.mmaStart e) s = .next (accFault (countMismatch v) e b i .integrityMismatch 0 false))
      ∧ (linesBad v (e / 4) [tableLines i] = false →
        let line (l : Nat) : List Nat := (List.range 64).map fun n => fieldAt (folRead v (e / 4) ((tableLines i).1 + l)).1 (2 * n) 2
        let table := if (tableLines i).2 = 0 then x.table else (List.range (tableLines i).2).flatMap line
        exec (.mmaStart e) s = .next (onEngine v e fun y => { y with array := some i.token, aset := 1 - y.aset, table := table })))
    ∧ (∀ i, startable (engineAt s e) false = some i → exec (.moverStart e) s = .next (onEngine s e fun x => { x with mover := some i.token }))
    ∧ (startable (engineAt s e) false = none → exec (.moverStart e) s = .next s))
  ∧ (∀ (s : State) (e b tok : Nat) (k : Block) (i : AccIns), (engineAt s e).block = some b → blockAt s b = some k →
    insOf (engineAt s e) tok = some i → (engineAt s e).array = some tok →
    let u := busySteps (fset s F.ACE_ENG_STEPS.BUSY ((fget s F.ACE_ENG_STEPS.BUSY 0 e + mmaSteps i) % 2 ^ 64) 0 e) k.ctx .accord (mmaSteps i)
    let bad := linesBad u (e / 4) ((readLines i).filter fun r => r ≠ tableLines i)
    (bad = true → mmaReduce s e = accFault (countMismatch u) e b i .integrityMismatch 0 false)
    ∧ (bad = false →
      let acc := (List.range 4096).map fun n => mmaElem u (e / 4) (engineAt s e).table i (n / 64) (n % 64)
      mmaReduce s e = onEngine u e fun x => { x with array := none, out := some i.token, accs := tset x.accs x.aset acc }))
  ∧ (∀ (s : State) (e ecc b : Nat) (i : AccIns), Safety.engines s →
    let v := if (engineAt s e).out.isSome then s else mmaReduce s e
    let x := engineAt v e
    x.block = some b → x.out.bind (insOf x) = some i →
    let w := if ecc = 0 then v else fcount v F.ACE_ENG_ECC.CORRECTED 0 e ecc
    let acc := tgetD x.accs (if x.array.isSome then 1 - x.aset else x.aset) []
    exec (.mmaComplete e ecc) s = .next (accDone (((List.range (32 * accBits (bits (word i 1) 23 16) / 8)).map
      fun l => (bits (word i 4) 14 0 + l, mmaLine acc i l)).foldl (fun s x => folWrite s (e / 4) x.1 x.2) w) e b i))
  ∧ (∀ (s : State) (e b tok : Nat) (k : Block) (i : AccIns), Safety.engines s → (engineAt s e).block = some b → blockAt s b = some k →
    insOf (engineAt s e) tok = some i → (engineAt s e).mover = some tok →
    let load : Bool := bits (word i 0) 3 0 = 2
    let store (u : State) := if bits (word i 0) 11 10 = 2 then storeRaw u (128 + e) (e / 4) k i (List.range (bits (word i 2) 12 0))
      else storeRows u (128 + e) (e / 4) k i (rowsLines i)
    let kept : Bool := bits (word i 0) 11 10 = 1 ∧ (moveShape i).2.1 < 64
    (∀ u f, probeAll s (128 + e) k (if load then .read else .write) (moveRanges i) = (some f, u) →
      exec (.moverComplete e) s = .next (accFault u e b i f.1 f.2 (!load)))
    ∧ (∀ u, load = true → probeAll s (128 + e) k .read (moveRanges i) = (none, u) →
      (kept = true → linesBad u (e / 4) (writeLines i) = true →
        exec (.moverComplete e) s = .next (accFault (countMismatch u) e b i .integrityMismatch 0 false))
      ∧ (kept = false ∨ linesBad u (e / 4) (writeLines i) = false →
        (∀ f rows v, readRanges u (128 + e) k (moveRanges i) = (some f, rows, v) →
          exec (.moverComplete e) s = .next (accFault v e b i f.1 f.2 false))
        ∧ (∀ rows v, readRanges u (128 + e) k (moveRanges i) = (none, rows, v) →
          exec (.moverComplete e) s = .next (accDone (doLoad v (e / 4) i rows) e b i))))
    ∧ (∀ u, load = false → probeAll s (128 + e) k .write (moveRanges i) = (none, u) →
      (∀ f v, store u = (some f, v) → exec (.moverComplete e) s = .next (accFault v e b i f.1 f.2 true))
      ∧ (∀ v, store u = (none, v) → exec (.moverComplete e) s = .next (accDone v e b i))))
  ∧ (∀ (s : State) (e : Nat), Safety.engines s → e < 64 → domOn s (16 + e / 4) = true →
    exec (.accumulatorEccError e) s = .next (raiseBare s (0x80 + e) .uncorrectableEcc 4 (.memory 0 5 0xFF 0xFF 0xFF 0xFFFF 0xFFFF 0 0)))

/-- R155: an instruction does not start while an earlier one of the other unit writes a line that it reads, or reads one that it writes. -/
def Obligations.UnitOrder : Prop :=
  ∀ (x : Engine) (mma : Bool) (i : AccIns), startable x mma = some i →
    ∃ before after, x.queue = before ++ i :: after ∧ isMma i = mma
      ∧ (∀ j ∈ before, isMma j = mma → x.array = some j.token ∨ x.out = some j.token)
      ∧ ∀ j ∈ before, isMma j = !mma →
          (∀ r ∈ writeLines j, ∀ q ∈ readLines i, ∀ n, ¬ (r.1 ≤ n ∧ n < r.1 + r.2 ∧ q.1 ≤ n ∧ n < q.1 + q.2))
          ∧ (∀ r ∈ readLines j, ∀ q ∈ writeLines i, ∀ n, ¬ (r.1 ≤ n ∧ n < r.1 + r.2 ∧ q.1 ≤ n ∧ n < q.1 + q.2))

/-- The Collator's events (07 R199 to R221) and the geometry stage's batch (08 R231). -/
def Obligations.CollatorEvents : Prop :=
  (∀ (s : State) (p : Nat) (x : Pass), Safety.unitRuns s 0x111 → passAt s p = some x → x.reading = true → x.discard = false →
    let r := vread s 209 3 x.fn x.asid x.ctx x.target.base 64
    let v := r.2.2
    let y := { x with control := r.2.1 }
    let need := if y.mode = 1 then listCount y else 1
    let ends (st : Status) (a : Nat) : State := endBare (onGfx v fun g => { g with passes := tdel g.passes p }) x.task st a
    (r.1 ≠ .ok → exec (.controlBlockReadDone p) s = .next (ends r.1 v.xlt.failAddr))
    ∧ (∀ st, r.1 = .ok → firstFail ((ctlFails v y).filter fun f => decide (f.1 < 5)) = some st →
      exec (.controlBlockReadDone p) s = .next (ends st 0))
    ∧ (∀ st, r.1 = .ok → firstFail ((ctlFails v y).filter fun f => decide (f.1 < 5)) = none → ctlZero y = false →
      firstFail (ctlFails v y) = some st → exec (.controlBlockReadDone p) s = .next (ends st 0))
    ∧ (r.1 = .ok → ctlFails v y = [] → listFree v < need → exec (.controlBlockReadDone p) s = .next (passUnstart v p y))
    ∧ (r.1 = .ok → ctlFails v y = [] → ctlZero y = false → need ≤ listFree v →
      exec (.controlBlockReadDone p) s = .next (onPass (takeSerial v).2 p fun _ =>
        { y with reading := false, serial := (takeSerial v).1, entries := need })))
  ∧ (∀ (s : State) (n : Nat), Safety.engines s →
    let ready := passesBy s .collator fun x => (passWork x).isSome
    let none_ (w : ColWork) : Prop := ready = [] ∨ ∃ p x l, ready = (p, x) :: l ∧ passWork x ≠ some w
    (recovering s 0x110 = false → none_ .stage → exec .geometryStageBatch s = .next s)
    ∧ (domOpen s 40 = false → exec .geometryStageBatch s = .next s)
    ∧ (recovering s 0x111 = false → none_ .admission → exec (.geometryBatchAdmit n) s = .next s)
    ∧ (recovering s 0x111 = false → none_ .route → exec (.routeBatch n) s = .next s)
    ∧ (recovering s 0x111 = false → none_ .block → exec (.blockBatch n) s = .next s))
  ∧ (∀ (s : State) (p i : Nat) (x : Pass) (l : List (Nat × Pass)), Safety.unitRuns s 0x110 → domOpen s 40 = true →
    passesBy s .collator (fun x => (passWork x).isSome) = (p, x) :: l → passWork x = some .stage → nextDraw x = some i →
    let g := gather p 256 (x.draws.getD i default) [] (servePass s .collator x ((p, x) :: l))
    let u := onPass g.2.2 p fun x => { x with draws := x.draws.mapIdx fun j d => if j = i then { d with at_ := g.2.1.at_ } else d }
    let pairs := (g.1.flatMap fun a => a.2.2.map fun v => (v, a.1)).eraseDups
    let v := onPass u p fun x => { x with batch := if x.failed then none else some { draw := i, prims := g.1, waiting := chunks 32 pairs } }
    exec .geometryStageBatch s = .next (tryClose (releaseDraws (placePositions (if g.1 = [] then u else v) p) p) p))
  ∧ (∀ (s : State) (p n : Nat) (x : Pass) (l : List (Nat × Pass)), Safety.unitRuns s 0x111 →
    passesBy s .collator (fun x => (passWork x).isSome) = (p, x) :: l →
    let u := busySteps (servePass s .collator x ((p, x) :: l)) x.ctx .collator n
    (passWork x = some .admission →
      let held (v : State) : Nat := match passAt v p with | some y => y.held.length | none => 0
      (x.batch = none → exec (.geometryBatchAdmit n) s = .next (tryClose (releaseDraws (admitAll p (held u) u) p) p))
      ∧ (∀ b, x.batch = some b → batchDone x = true →
        exec (.geometryBatchAdmit n) s = .next (tryClose (releaseDraws (admitAll p (held (assemble u p x b)) (assemble u p x b)) p) p)))
    ∧ (passWork x = some .route →
      let m := Nat.min 64 (fieldAt x.control 0 4 - x.at_.2)
      let v := onPass ((upFrom x.at_.2 m).foldl (routeToken p x.at_.1) u) p fun y =>
        { y with at_ := if x.at_.2 + m < fieldAt x.control 0 4 then (x.at_.1, x.at_.2 + m) else (x.at_.1 + 1, 0) }
      let sweeps := if bit (byteAt x.control 7) 0 then byteAt x.control 6 else 1
      ∀ y, passAt v p = some y →
        (y.failed = true → exec (.routeBatch n) s = .next (beginEnd v p))
        ∧ (y.failed = false → y.at_.1 < sweeps → exec (.routeBatch n) s = .next v)
        ∧ (y.failed = false → sweeps ≤ y.at_.1 →
          exec (.routeBatch n) s = .next (beginEnd ((List.range (listCount y)).foldl (writeTable p) v) p)))
    ∧ (passWork x = some .block →
      let r := colRead u 209 p (x.target.base + fieldAt x.control 24 8 + 16 * x.at_.1) 16
      let m := Nat.min 64 (fieldAt x.control 4 4 - x.at_.2)
      ∀ q, r.1 = some q →
      let w := (upFrom x.at_.2 m).foldl (blockKey p x.at_.1 q) r.2
      let v := if fieldAt x.control 4 4 ≤ x.at_.2 + m
        then onPass (writeTable p w x.at_.1) p fun y => { y with at_ := (x.at_.1 + 1, 0), lists := tdel y.lists x.at_.1 }
        else onPass w p fun y => { y with at_ := (x.at_.1, x.at_.2 + m) }
      ∀ y, passAt v p = some y →
        (y.failed = true ∨ listCount y ≤ y.at_.1 → exec (.blockBatch n) s = .next (beginEnd v p))
        ∧ (y.failed = false → y.at_.1 < listCount y → exec (.blockBatch n) s = .next v)))
  ∧ (∀ (s : State) (p : Nat) (x : Pass), Safety.unitRuns s 0x111 → passAt s p = some x →
    (x.flush = .storing [] → x.toHand = [] → x.out = [] →
      exec (.flushTilesStored p) s = .next (tryClose (onPass s p fun x => { x with
        flush := .none, touched := [], stored := x.touched.foldl (fun t n => tset t n x.flushes) x.stored
        lists := (x.lists.map fun e => (e.1, ({ crc := e.2.crc, side := e.2.side } : QList))).filter fun e => decide (e.2 ≠ {})
        nextQuire := 0
        dataQ := none }) p))
    ∧ (x.flush = .none ∨ x.toHand ≠ [] ∨ x.out ≠ [] → exec (.flushTilesStored p) s = .next s))

/-- The raster units' events (08 R242 to R258), the end of a GEOMETRY pass (07 R201), TEX, DISCARD and ST_ORDERED. -/
def Obligations.RasterEvents : Prop :=
  (∀ s : State, Safety.engines s →
    let u := handFirst (tilesReady s) (tilesReady s) s
    (∀ p x, (tilesReady u).find? (fun x => (rasterFor u x.2).isNone) = some (p, x) → exec .tileHandout s = .next (requestTile u x))
    ∧ ((tilesReady u).find? (fun x => (rasterFor u x.2).isNone) = none → exec .tileHandout s = .next u)
    ∧ (∀ p x l c sl runs n, tilesReady s = (p, x) :: l → rasterFor s x = some (c, sl, runs) → savedTile s p = none → nextTile x = some n →
      let w := handTile (servePass s .raster x []) p x n c sl runs
      u = (((p, x) :: l).filter fun y => y.1 ≠ p ∧ (rasterFor s y.2).isSome ∧ (rasterFor w y.2).isNone).foldl
        (fun s y => chargeBlocked s y.2.ctx x.ctx 1) w))
  ∧ (∀ (s : State) (c sl : Nat) (t : RTile) (x : Pass), Safety.unitRuns s (0xC0 + c) → c < 16 → tileAt s c sl = some t → passAt s t.pass = some x →
    (∀ r rest, t.pre ≠ .saving → t.recs = r :: rest → (∀ f ∈ t.frags, f.late = false ∧ f.late2 = false) →
      let free := Config.free s.freeCtr
      let run := if recOpaque x r then (r :: rest).takeWhile (recOpaque x) else [r]
      let v := statesChanged { s with freeCtr := s.freeCtr + 1 } c t.pass ((run.map fun r => r.draw).eraseDups.filterMap fun n => x.draws[n]?)
      let made (t : RTile) : RTile := if recOpaque x r then opaqueRun x { t with recs := t.recs.drop run.length } free run
        else orderedPrim x { t with recs := rest } free r
      exec (.tileRecordRun c sl) s = .next (placeFragment c sl (workTile v.2 c sl fun t =>
        if v.1 then { made t with data := natLe free (made t).data.length } else made t)))
    ∧ (∀ f, t.pre ≠ .saving → t.frags.find? (fun f => (fragOuts s f).isSome ∧ ¬ t.frags.any fun g => fragFirst g f) = some f →
      let k := takeFree s (2 ^ 32)
      exec (.fragmentOutputBlend c sl) s = .next (dropDone (workTile k.2 c sl fun t => blendFrag x t f k.1 ((fragOuts s f).getD [])) c sl))
    ∧ (x.discard = true → exec (.tileWriteOut c sl) s = .next (dropTile s c sl t))
    ∧ (t.written = false → t.pre ≠ .saving → tileQuiet s c sl t = true → x.discard = false →
      let v := if tileBad s c t ≠ [] then passFail (countMismatch s) t.pass .integrityMismatch
        else x.surface.used.foldl (writeAtt c t.pass x t (tileData s c t)) s
      exec (.tileWriteOut c sl) s = .next (onTile v c sl fun t => { t with written := true }))
    ∧ (x.discard = false → tileQuiet s c sl t = false → exec (.tileWriteOut c sl) s = .next s)
    ∧ (∀ n u, t.written = true → u = fset s F.RAS_UNIT_TILES.COUNT (fget s F.RAS_UNIT_TILES.COUNT 0 c + 1) 0 c → passAt u t.pass = some x →
      let v := busySteps u x.ctx .raster n
      exec (.tileWriteOutAccepted c sl n) s =
        .next (freeTile (if t.final ∧ ¬ x.failed ∧ x.sign.contains t.tile then truSet v x t.tile else v) c sl t))
    ∧ (∀ n, t.written = false → exec (.tileWriteOutAccepted c sl n) s = .next s))
  ∧ (∀ (s : State) (p : Nat) (x : Pass), Safety.unitRuns s 0x111 → passAt s p = some x →
    (x.discard = true → passIdle x = true → exec (.passEndFinish p) s = .next (passFree s p))
    ∧ (x.discard = true → passIdle x = false → exec (.passEndFinish p) s = .next s)
    ∧ (x.discard = false → x.mode = 0 → x.failed = false →
      ∀ y, passAt (tryClose s p) p = some y → y.closed = true → y.toHand = [] → y.out = [] → y.toCompare = [] → y.toCopy = [] →
      let rest := if y.failed ∨ y.reuse.isSome then [] else (List.range (y.surface.tiles y.tile)).filter fun n => ¬ y.everOut.contains n
      let u := rest.foldl (fun s n => writeUntouched p n s) (tryClose s p)
      ∀ z, passAt u p = some z → exec (.passEndFinish p) s = .next (passFinish u p z))
    ∧ (x.discard = false → x.mode ≠ 0 → exec (.passEndFinish p) s = .next s))
  ∧ (∀ (s u : State) (core pipe : Nat) (i : Issue), Safety.engines s → Safety.issues s core pipe [] true i u →
    (∀ d c im sm lod,
      let m := imageOf ((List.range 8).foldl (fun a j => a + sreg i.g (im + j) * 2 ^ (32 * j)) 0)
      let q := samplerOf ((List.range 4).foldl (fun a j => a + sreg i.g (sm + j) * 2 ^ (32 * j)) 0)
      let regs := 8 * vUnits i.blk.prog
      let bad : Prop := regs < d + 4 ∨ regs < c + texDims m.ty ∨ 16 * sUnits i.blk.prog < im + 8 ∨ 16 * sUnits i.blk.prog < sm + 4 ∨
        m.bad = true ∨ q.bad = true
      let r := i.ts.foldl (fun (a : Group × TexAcc) t =>
        let k := texThread i.blk i.g m q c lod t a.2
        ((List.range 4).foldl (fun g j => setV g (d + j) t (k.1.getD j 0)) a.1, k.2)) (i.g, none, u)
      (bad → exec (.tex core pipe d c im sm lod) s = .next (parkAt u i .badOpcode))
      ∧ (¬ bad → r.2.1 = none → exec (.tex core pipe d c im sm lod) s = .next (put r.2.2 i (advance r.1 i.ts)))
      ∧ (∀ f, ¬ bad → r.2.1 = some f → exec (.tex core pipe d c im sm lod) s = .next (parkAt r.2.2 i f.1 f.2)))
    ∧ (∀ n c sl, i.blk.kind = .fragment c sl → bit i.blk.fragFlags 0 = true → exec (.discard core pipe n) s = .next (exitThreads u i n true))
    ∧ (∀ n c sl, i.blk.kind = .fragment c sl → bit i.blk.fragFlags 0 = false → exec (.discard core pipe n) s = .next (parkAt u i .badOpcode))
    ∧ (∀ n, (∀ c sl, i.blk.kind ≠ .fragment c sl) → exec (.discard core pipe n) s = .next (parkAt u i .badOpcode)))
  ∧ (∀ (s u : State) (core pipe n a v : Nat) (i : Issue), Safety.engines s → Safety.issues s core pipe [(a, 2), (v, sizeWords n)] false i u →
    ((SIns.memory .store n 0 a v false false false).exists i.blk.prog = true →
      exec (.stOrdered core pipe n a v) s = .next (issueMem u i .store n 0 a v false false false true))
    ∧ ((SIns.memory .store n 0 a v false false false).exists i.blk.prog = false →
      exec (.stOrdered core pipe n a v) s = .next (parkAt u i .badOpcode)))

/-- TRU commands and reuse (09 R271 to R285). -/
def Obligations.ReuseCommands : Prop :=
  (∀ (s : State) (f : Nat), Safety.writable s .TRU_CMD f 0 → fget s F.TRU_RESULT.BUSY f = 0 →
    (∀ o, objectOf s f (rget s .TRU_ARG0 f) = some o →
      exec (.truBump f) s = .next (truResult (bumpVersion s o.idx) f .ok (tgetD (bumpVersion s o.idx).gfx.versions o.idx 0)))
    ∧ (objectOf s f (rget s .TRU_ARG0 f) = none → exec (.truBump f) s = .next (truResult s f .staleHandle 0))
    ∧ (let sl := fget s F.TRU_ARG1.SLOT f
       let a := fget s F.TRU_ARG1.FIRST f
       let b := fget s F.TRU_ARG1.LAST f
       (fget s F.TRU_SLOT_CFG.FUNCTION 0 sl ≠ f → exec (.truInvalidate f) s = .next (truResult s f .permission 0))
       ∧ (fget s F.TRU_SLOT_CFG.FUNCTION 0 sl = f → b < a ∨ 8191 < b → exec (.truInvalidate f) s = .next (truResult s f .lengthRange 0))
       ∧ (fget s F.TRU_SLOT_CFG.FUNCTION 0 sl = f → a ≤ b → b ≤ 8191 → (truSlot s sl).held = none →
         exec (.truInvalidate f) s = .next (truResult (truClear s sl a b) f .ok 0))
       ∧ (fget s F.TRU_SLOT_CFG.FUNCTION 0 sl = f → a ≤ b → b ≤ 8191 → (truSlot s sl).held ≠ none →
         exec (.truInvalidate f) s = .next (onSlot (fset s F.TRU_RESULT.BUSY 1 f) sl fun x => { x with waiting := some (f, a, b) })))
    ∧ (∀ op, op % 16 ≠ 1 → op % 16 ≠ 2 → exec (.truCmdUndefinedOp f op) s = .next (truResult s f .badOpcode 0)))
  ∧ (∀ (s : State) (sl v : Nat), sl < 16 → Safety.writable s .TRU_SLOT_CFG 0 sl →
    let change : Prop := v % 4 ≠ fget s F.TRU_SLOT_CFG.MODE 0 sl ∨ bits v 7 4 ≠ fget s F.TRU_SLOT_CFG.FUNCTION 0 sl
    let stored (u : State) : State := rset u .TRU_SLOT_CFG (Reg.written .TRU_SLOT_CFG (rget u .TRU_SLOT_CFG 0 sl) v (2 ^ 32 - 1)) 0 sl
    (v % 4 = 3 ∨ (truSlot s sl).held ≠ none → exec (.truSlotCfgWrite sl v) s = .next s)
    ∧ (v % 4 ≠ 3 → (truSlot s sl).held = none → change →
      exec (.truSlotCfgWrite sl v) s = .next (stored (rset (truUnbind s sl) .TRU_SLOT_STAT 0 0 sl)))
    ∧ (v % 4 ≠ 3 → (truSlot s sl).held = none → ¬ change →
      exec (.truSlotCfgWrite sl v) s = .next (stored (if v % 4 = 2 then rset s .TRU_SLOT_STAT 0 0 sl else s))))
  ∧ (∀ (s : State) (p : Nat) (x : Pass), Safety.unitRuns s 0x115 → passAt s p = some x →
    (∀ sl n u b, x.reuse = some sl → (x.toHand ++ x.toCompare).find? (fun n => (tget x.loadTerms n).isNone) = some n →
      loadTerm p x n x.surface.used s = (some b, u) →
      exec (.loadTermReadDone p) s = .next (onPass u p fun x => { x with loadTerms := tset x.loadTerms n b }))
    ∧ (∀ sl n b rest ecc, x.reuse = some sl → x.toCompare = n :: rest → tget x.loadTerms n = some b →
      let u := onPass s p fun x => { x with toCompare := rest }
      let hand (v : State) (sign : Bool) : State := onPass v p fun x =>
        { x with toHand := nins x.toHand n, sign := if sign then nins x.sign n else x.sign }
      let shaded (v : State) : State := onPass v p fun x => { x with shaded := x.shaded + 1 }
      let e := truRead u (sl * 8192 + n) ecc
      (n ∈ x.everOut → n ∈ x.touched → exec (.reuseTileLookup p ecc) s = .next (hand u true))
      ∧ (n ∈ x.everOut → n ∉ x.touched → exec (.reuseTileLookup p ecc) s = .next (truSet u x n))
      ∧ (n ∉ x.everOut → (listOf x n).side = true → exec (.reuseTileLookup p ecc) s = .next (hand (shaded u) false))
      ∧ (n ∉ x.everOut → (listOf x n).side = false → e.1 = some (signature x n) →
        exec (.reuseTileLookup p ecc) s = .next (if x.target.base = (truSlot e.2 sl).recordedAt then onPass e.2 p fun x => { x with kept := x.kept + 1 }
          else onPass e.2 p fun x => { x with toCopy := x.toCopy ++ [n] }))
      ∧ (n ∉ x.everOut → (listOf x n).side = false → e.1 ≠ some (signature x n) →
        exec (.reuseTileLookup p ecc) s =
          .next (if n ∈ x.touched then hand (shaded e.2) true else truSet (writeUntouched p n (shaded e.2)) x n))))
  ∧ (∀ (s : State) (c p sl n : Nat) (x : Pass) (rest : List Nat), Safety.unitRuns s (0xC0 + c) → passAt s p = some x →
    x.reuse = some sl → x.toCopy = n :: rest → c < 16 → domOn s c = true →
    exec (.reuseTileCopy c p) s = .next (onPass (x.surface.used.foldl (copyAtt c p x n (truSlot s sl).recordedAt ((truSlot s sl).recorded.getD default)) s) p
      fun x => { x with toCopy := if x.failed then [] else rest, copied := x.copied + 1 }))
  ∧ (∀ (s : State) (key : Nat), truRead s key .clean = (tget s.gfx.reuse key, s)
    ∧ truRead s key .corrected = (tget s.gfx.reuse key, fcount s F.TRU_ECC.CORRECTED)
    ∧ truRead s key .uncorrectable = (none, fcount s F.TRU_ECC.UNCORRECTED))
  ∧ (∀ (s u : State) (core pipe : Nat) (i : Issue), Safety.engines s → Safety.issues s core pipe [] false i u → domOn s 41 = true →
    (∀ r d ecc, r < 16 * sUnits i.blk.prog →
      let w := ruWord i.g d
      let rows := bits (w 3) 31 16
      let lines := bits (w 3) 15 0
      (∀ st, ruFault u i d = some st → exec (.ruProbe core pipe r d ecc) s = .next (parkAt u i st))
      ∧ (∀ f v, ruFault u i d = none → ruRows i (w 1 + w 2 * 2 ^ 32) (w 4) lines rows 0 u = (.error f, v) →
        exec (.ruProbe core pipe r d ecc) s = .next (parkAt v i f.1 f.2))
      ∧ (∀ checks v, ruFault u i d = none → ruRows i (w 1 + w 2 * 2 ^ 32) (w 4) lines rows 0 u = (.ok checks, v) →
        let sig := crc64 (natLe rows 2 ++ natLe lines 2 ++ natLe (w 5) 4 ++ checks)
        let e := truRead v (ruKey (w 0)) ecc
        let hit : Bool := decide (e.1 = some sig)
        exec (.ruProbe core pipe r d ecc) s =
          .next (put (fcount e.2 (if hit then F.TRU_SLOT_STAT.KEPT else F.TRU_SLOT_STAT.SHADED) 0 (w 0 % 16)) i
            (advance (setS (setS (setS i.g (d + 6) sig) (d + 7) (sig / 2 ^ 32)) r (b2n hit)) i.ts))))
    ∧ (∀ d, ruFault u i d = none →
      exec (.ruCommit core pipe d) s = .next (put (onGfx u fun g => { g with
        reuse := tset g.reuse (ruKey (ruWord i.g d 0)) (ruWord i.g d 6 + ruWord i.g d 7 * 2 ^ 32) }) i (advance i.g i.ts)))
    ∧ (∀ d st, ruFault u i d = some st → exec (.ruCommit core pipe d) s = .next (parkAt u i st)))

/-- SEQ_SCMD (R290, R301, R312) and OBJECT_DESTROY (02 R58). -/
def Obligations.SlotCommands : Prop :=
  (∀ (s : State) (f : Nat), Safety.writable s .SEQ_SCMD f 0 → fget s F.SEQ_SRESULT.BUSY f = 0 →
    let h := fget s F.SEQ_SARG.ARG f % 2 ^ 32
    let top := fget s F.SEQ_KV_TOP.TOP f
    let n := fget s F.SEQ_SARG.ARG f % 2 ^ 23
    (∀ i, (upFrom (16 * fget s F.SEQ_PART.BASE 0 f) (16 * fget s F.SEQ_PART.COUNT 0 f)).find? (fun i => (slotAt s i).isNone) = some i →
      exec (.seqAdmit f) s = .next (onSeq (fset s F.SEQ_SRESULT.BUSY 1 f) fun x => { x with admitting := tset x.admitting f i }))
    ∧ ((upFrom (16 * fget s F.SEQ_PART.BASE 0 f) (16 * fget s F.SEQ_PART.COUNT 0 f)).find? (fun i => (slotAt s i).isNone) = none →
      exec (.seqAdmit f) s = .next (sResult s f .lengthRange 0))
    ∧ (slotOf s f h = none → ∀ c ∈ ([.seqCancel f, .seqHold f, .seqResume f, .seqRelease f] : List Instr), exec c s = .next (sResult s f .staleHandle h))
    ∧ (∀ i x, slotOf s f h = some (i, x) →
      (x.state ≠ .leaving → x.state ≠ .ended → inBatch s i = false → exec (.seqCancel f) s = .next (sResult (slotLeave s i 4) f .ok h))
      ∧ (x.state ≠ .leaving → x.state ≠ .ended → inBatch s i = true →
          exec (.seqCancel f) s = .next (sResult (onSlotS s i fun x => { x with cancel := true }) f .ok h))
      ∧ (x.state = .leaving ∨ x.state = .ended → exec (.seqCancel f) s = .next (sResult s f .ok h) ∧ exec (.seqHold f) s = .next (sResult s f .permission h)
          ∧ exec (.seqResume f) s = .next (sResult s f .permission h))
      ∧ (x.state = .prefill ∨ x.state = .decode → exec (.seqResume f) s = .next (sResult s f .ok h)
          ∧ (inBatch s i = false → exec (.seqHold f) s = .next (sResult (slotHold s i) f .ok h))
          ∧ (inBatch s i = true → exec (.seqHold f) s = .next (sResult (onSlotS s i fun x => { x with hold := true }) f .ok h)))
      ∧ (∀ d, x.state = .held d → exec (.seqHold f) s = .next (sResult s f .ok h)
          ∧ exec (.seqResume f) s = .next (sResult (onSeq (onSlotS s i fun x =>
            { x with state := if d then .decode else .prefill }) fun y => { y with order := tmod y.order f [] fun l => l ++ [i] }) f .ok h))
      ∧ (x.state = .ended → x.pages = [] → exec (.seqRelease f) s = .next (sResult (slotFree s i) f .ok h))
      ∧ (x.state = .ended → x.pages ≠ [] → exec (.seqRelease f) s = .next (sResult (onSlotS s i fun x => { x with freeing := true }) f .ok h))
      ∧ (x.state ≠ .ended → exec (.seqRelease f) s = .next (sResult s f .permission h)))
    ∧ (∀ o, kvPool s f = some o → n ≠ 0 → (top + n) * 8 ≤ o.size → top + n ≤ 2 ^ 22 →
      exec (.seqAddPages f) s = .next (sResult (fset s F.SEQ_KV_TOP.TOP (top + n) f) f .ok (top + n)))
    ∧ (n = 0 → exec (.seqAddPages f) s = .next (sResult s f .ok top))
    ∧ (∀ o, kvPool s f = some o → n ≠ 0 → o.size < (top + n) * 8 → exec (.seqAddPages f) s = .next (sResult s f .lengthExceedsObject top))
    ∧ (n ≤ top → exec (.seqRemovePages f) s = .next (sResult (fset s F.SEQ_KV_TOP.TOP (top - n) f) f .ok (top - n)))
    ∧ (top < n → exec (.seqRemovePages f) s = .next (sResult s f .lengthRange top))
    ∧ (∀ op, op % 16 = 0 ∨ 7 < op % 16 → exec (.seqScmdUndefinedOp f op) s = .next (sResult s f .badOpcode 0)))
  ∧ (∀ (s : State) (f op : Nat), Safety.writable s .SEQ_SCMD f 0 → fget s F.SEQ_SRESULT.BUSY f = 1 →
    ∀ c ∈ ([.seqAdmit f, .seqCancel f, .seqHold f, .seqResume f, .seqRelease f, .seqAddPages f, .seqRemovePages f, .seqScmdUndefinedOp f op] : List Instr),
      exec c s = .next s)
  ∧ (∀ (s : State) (f i : Nat), Safety.unitRuns s 0x114 → tget s.seq.admitting f = some i →
    let r := ipaRead (onSeq s fun x => { x with admitting := tdel x.admitting f }) f (rget s .SEQ_SARG f) 64
    (r.1 ≠ .ok → exec (.seqAdmitReadDone f) s = .next (sResult r.2.2 f r.1 0))
    ∧ (∀ st, r.1 = .ok → admitCheck r.2.2 f r.2.1 = some st → exec (.seqAdmitReadDone f) s = .next (sResult r.2.2 f st 0))
    ∧ (r.1 = .ok → admitCheck r.2.2 f r.2.1 = none →
      exec (.seqAdmitReadDone f) s = .next (sResult (onSeq r.2.2 fun x => { x with
        slots := tset x.slots i (slotFrom f (tgetD r.2.2.seq.gens i 1) r.2.1), order := tmod x.order f [] fun l => l ++ [i] }) f .ok
        (sHandle i (tgetD r.2.2.seq.gens i 1)))))
  ∧ (∀ (s : State) (f v : Nat), Safety.writable s .SEQ_KV_POOL f 0 →
    (fget s F.SEQ_KV_TOP.TOP f = 0 → holdsPage s f = false → exec (.seqKvPoolWrite f v) s = .next (rset s .SEQ_KV_POOL (v % 2 ^ 32) f))
    ∧ (fget s F.SEQ_KV_TOP.TOP f ≠ 0 ∨ holdsPage s f = true → exec (.seqKvPoolWrite f v) s = .next s))
  ∧ (∀ (s : State) (f : Nat), Safety.writable s .FE_OBJ_CMD f 0 → fget s F.FE_OBJ_RESULT.BUSY f = 0 →
    let h := fget s F.FE_OBJ_HANDLE.HANDLE f
    exec (.objectDestroy f true) s = .next (oResult s f .badOpcode h)
    ∧ (objectOf s f h = none → exec (.objectDestroy f false) s = .next (oResult s f .staleHandle h))
    ∧ (∀ o, objectOf s f h = some o → objInUse s f o = true → exec (.objectDestroy f false) s = .next (oResult s f .permission h))
    ∧ (∀ o, objectOf s f h = some o → objInUse s f o = false → exec (.objectDestroy f false) s = .next (oResult (onXlt (onFe s fun x =>
        { x with objs := tdel x.objs o.idx, objGen := tset x.objGen o.idx (wrapInc o.gen 16) }) fun x =>
        { x with ranges := x.ranges.filter fun r => decide (r.obj ≠ o.idx) }) f .ok h)))

/-- SEQ_FORMATION, SEQ_HARVEST, SEQ_EVT_CI and the release of pages (R293 to R300). -/
def Obligations.SequenceSteps : Prop :=
  (∀ (s : State) (t : Nat) (r : SeqRun) (k : Task), Safety.unitRuns s 0x114 → tget s.seq.runs t = some r → taskAt s t = some k → r.stage = .forming →
    let bm := bits r.batch 50 38
    let budget := bits r.batch 37 21
    let chunk := bits r.batch 20 6
    let d := if r.ring then ({}, s) else formPass bm budget chunk false true (candidates s r .decode) ({}, s)
    let a := formPass bm budget chunk r.ring false (candidates s r .prefill) d
    (∀ st, a.1.fail = some st → exec (.seqFormation t) s = .next (stepFail a.2 t st (accessAddr a.2 st)))
    ∧ (a.1.fail = none → a.1.rows = [] → exec (.seqFormation t) s = .next (endBare (runDrop a.2 t) t .ok))
    ∧ (a.1.fail = none → a.1.rows ≠ [] →
      let step := tgetD s.seq.steps r.fn 0 + 1
      let header := stepHeader a.2 r a.1 (objBase k 16) step
      let w := vwrite a.2 210 7 r.fn r.asid r.ctx (objBase k 16) (stepRecord a.2 header a.1.rows)
      (w.1 ≠ .ok → exec (.seqFormation t) s = .next (stepFail w.2 t w.1 w.2.xlt.failAddr))
      ∧ (w.1 = .ok →
        let formed := onSeq w.2 fun x => { x with steps := tset x.steps r.fn step }
        let g := if r.ring then ringBegin formed t k r else (.ok, formed)
        (g.1 ≠ .ok → exec (.seqFormation t) s = .next (stepFail g.2 t g.1 (accessAddr g.2 g.1)))
        ∧ (∀ o, g.1 = .ok → objAt k 8 = some o →
          let b := launchStart g.2 (.step r.q r.seq) ((queueAt g.2 r.q).getD r.home) o 0 (.bytes header)
          (b.1 = .wait → exec (.seqFormation t) s = .next s)
          ∧ (∀ st addr, b.1 = .fail st addr → exec (.seqFormation t) s = .next (stepFail b.2 t st addr))
          ∧ (∀ l, b.1 = .ok l → exec (.seqFormation t) s = .next (onSeq b.2 fun x => { x with
              runs := tset x.runs t { r with stage := .running l, rows := a.1.rows, wrote := false } }))))))
  ∧ (∀ (s : State) (t l : Nat) (r : SeqRun) (k : Task), Safety.unitRuns s 0x114 → tget s.seq.runs t = some r → taskAt s t = some k → r.stage = .running l →
    (tget s.fe.stepDone l = none → exec (.seqHarvest t) s = .next s)
    ∧ (∀ addr n, tget s.fe.stepDone l = some (.ok, addr, n) → ringDone s r = false → exec (.seqHarvest t) s = .next s)
    ∧ (∀ g st addr n e, tget s.fe.stepDone l = some (st, addr, n) → r.ring = true → s.seq.ring = some g → g.failed = some e →
      exec (.seqHarvest t) s = .next (stepFail (onFe s fun x => { x with stepDone := tdel x.stepDone l }) t e))
    ∧ (r.ring = false ∨ (∃ g, s.seq.ring = some g ∧ g.failed = none) →
      (∀ st addr n, tget s.fe.stepDone l = some (st, addr, n) → st ≠ .ok →
        exec (.seqHarvest t) s = .next (stepFail (onFe s fun x => { x with stepDone := tdel x.stepDone l }) t st addr n))
      ∧ (∀ addr n, tget s.fe.stepDone l = some (.ok, addr, n) → ringDone s r = true →
        let o := vread (onFe s fun x => { x with stepDone := tdel x.stepDone l }) 210 7 r.fn r.asid r.ctx (objBase k 16 + outOffset r.rows.length) (8 * r.rows.length)
        let rows := r.rows.zipIdx.map fun x => (x.1, fieldAt o.2.1 (8 * x.2) 8)
        let w := writeTokens r rows o.2.2
        let h := rows.foldl harvestRow ([], w.2)
        (o.1 ≠ .ok → exec (.seqHarvest t) s = .next (stepFail o.2.2 t o.1 o.2.2.xlt.failAddr))
        ∧ (o.1 = .ok → w.1 ≠ .ok → exec (.seqHarvest t) s = .next (stepFail w.2 t w.1 w.2.xlt.failAddr))
        ∧ (o.1 = .ok → w.1 = .ok →
          exec (.seqHarvest t) s = .next (harvestEnd (onSeq h.2 fun x => { x with runs := (tset x.runs t
            { r with stage := .harvesting, events := if flag h.2 F.SEQ_EVT_CTL.EN r.fn then h.1 else [] }) }) t)))))
  ∧ (∀ (s : State) (f v : Nat), Safety.writable s .SEQ_EVT_CI f 0 → exec (.seqEvtCi f v) s =
      .next ((s.seq.runs.filter fun e => decide (e.2.fn = f ∧ e.2.stage = .harvesting)).foldl (fun s e => harvestEnd s e.1) (rset s .SEQ_EVT_CI (v % 2 ^ 32) f)))
  ∧ (∀ (s : State) (i : Nat) (x : Slot), Safety.unitRuns s 0x114 → slotAt s i = some x →
    (∀ a b, x.rel = .none → x.state = .leaving ∨ (x.state = .ended ∧ x.freeing = true) → ctxGone s x.ctx = false → x.pages.head? = some a → x.pages.getLast? = some b →
      exec (.slotPageRelease i) s = .next (onSlotS (invRequest (unmapAll s x)
        { src := .slot i, op := .range x.fn x.asid (x.kvBase + 65536 * a.1) (65536 * (b.1 + 1 - a.1)) }) i fun x => { x with rel := .waiting }))
    ∧ (x.rel = .none → x.state = .leaving ∨ (x.state = .ended ∧ x.freeing = true) → ctxGone s x.ctx = false → x.pages = [] → exec (.slotPageRelease i) s = .next (releaseEnd s i x))
    ∧ (x.rel = .waiting → slotInv s i = false →
      exec (.slotReleaseAcksDone i) s = .next (releaseEnd (onSlotS (x.pages.foldl (fun s p => poolPush x s p.2) s) i fun x => { x with pages := [] }) i { x with pages := [] }))
    ∧ (x.rel = .waiting → slotInv s i = true → exec (.slotReleaseAcksDone i) s = .next s))

/-- The ring engine (R306 to R312). -/
def Obligations.RingEngine : Prop :=
  (∀ (s : State) (v : Nat), Safety.writable s .SEQ_RING_CFG 0 0 →
    ((∀ e ∈ s.seq.runs, e.2.ring = false) → ringCfgOk v = true →
      exec (.seqRingCfgWrite v) s = .next ([0, 1].foldl (fun s p => if uapUp s p then matchPeer (onPort s p fun x => { x with mgmt := x.mgmt ++ [1] }) p else s)
        (rset s .SEQ_RING_CFG (Reg.written .SEQ_RING_CFG (rget s .SEQ_RING_CFG) v (2 ^ 32 - 1)))))
    ∧ (ringCfgOk v = false ∨ (∃ e ∈ s.seq.runs, e.2.ring = true) → exec (.seqRingCfgWrite v) s = .next s))
  ∧ (∀ (s u : State) (h g : Ring), Safety.unitRuns s 0x114 → s.seq.ring = some h → u = (if h.txHop = 1 ∧ h.failed = none then readProgress s h.txEx else s) → u.seq.ring = some g →
    (g.canSend = false → exec .ringHopTransmit s = .next u)
    ∧ (g.canSend = true → domOn u 48 = false ∨ uapUp u 0 = false → exec .ringHopTransmit s = .next (ringFail u .domainOff))
    ∧ (g.canSend = true → domOn u 48 = true → uapUp u 0 = true → fget u F.SEQ_RING_CFG.COMPRESS ≠ 0 → domOn u 43 = false → exec .ringHopTransmit s = .next (demand u 43))
    ∧ (∀ x, g.canSend = true → domOn u 48 = true → uapUp u 0 = true → fget u F.SEQ_RING_CFG.COMPRESS = 0 ∨ domOn u 43 = true → g.exch[g.txEx]? = some x →
      let src := if g.txHop = 1 then (x.send, x.len) else (if g.txHop % 2 = 0 then x.recv0 else x.recv1, tgetD g.lens (g.txEx * 16 + g.txHop - 1) 0)
      let r := vread u 220 6 g.fn g.asid g.ctx src.1 src.2
      (r.1 = .ok →
        exec .ringHopTransmit s = .next (onRing (onPort r.2.2 0 fun p =>
          { p with tx0 := p.tx0 ++ (messagesOf g (fget u F.SEQ_RING_CFG.COMPRESS) (fget r.2.2 F.SEQ_RING_CFG.MSG_LOG2) r.2.1).flatMap (flitsOf 0) }) fun g => { g with txBusy := true }))
      ∧ (r.1 = .integrityMismatch → exec .ringHopTransmit s = .next (ringFail (countMismatch r.2.2) .integrityMismatch))
      ∧ (r.1 = .uncorrectableEcc → exec .ringHopTransmit s = .next (ringFail r.2.2 .integrityMismatch))
      ∧ (r.1 ≠ .ok → r.1 ≠ .integrityMismatch → r.1 ≠ .uncorrectableEcc → exec .ringHopTransmit s = .next (ringFail r.2.2 r.1))))
  ∧ (∀ (s : State) (g : Ring) (m : List Byte) (rest : List (List Byte)), Safety.unitRuns s 0x114 → s.seq.inbox = m :: rest → s.seq.ring = some g →
    (g.failed.isSome = true → exec .ringMessageReceive s = .next (onSeq s fun x => { x with inbox := rest }))
    ∧ (g.failed = none → g.canReceive = false → exec .ringMessageReceive s = .next s)
    ∧ (∀ x, g.canReceive = true → g.exch[g.rxEx]? = some x →
      let u := onRing (fcount (onSeq s fun x => { x with inbox := rest }) F.SEQ_RING_STATUS.MESSAGES) fun g => { g with heard := s.time }
      let off := g.rxIndex * 2 ^ fget u F.SEQ_RING_CFG.MSG_LOG2
      let fits := fieldAt m 0 4 = x.tag ∧ byteAt m 4 = g.rxHop ∧ fieldAt m 8 4 = g.rxIndex ∧ fieldAt m 16 8 = off
      (¬ fits → exec .ringMessageReceive s = .next (ringFail u .badOpcode))
      ∧ (fits → x.cap < off + fieldAt m 12 4 → exec .ringMessageReceive s = .next (ringFail u .lengthExceedsObject))
      ∧ (∀ st, fits → off + fieldAt m 12 4 ≤ x.cap → messageData u m = .error st → exec .ringMessageReceive s = .next (ringFail u st))
      ∧ (∀ d, fits → off + fieldAt m 12 4 ≤ x.cap → messageData u m = .ok d →
        let w := vwrite u 221 6 g.fn g.asid g.ctx ((if g.rxHop % 2 = 1 then x.recv0 else x.recv1) + off) d
        (w.1 ≠ .ok → exec .ringMessageReceive s = .next (ringFail w.2 w.1))
        ∧ (w.1 = .ok → bit (byteAt m 6) 1 = true → exec .ringMessageReceive s = .next (blockArrived w.2 g x (off + d.length)))
        ∧ (w.1 = .ok → bit (byteAt m 6) 1 = false → exec .ringMessageReceive s =
            .next (onRing w.2 fun g => { g with rxOpen := true, rxIndex := g.rxIndex + 1, rxBytes := off + d.length })))))
  ∧ (∀ (s : State) (g : Ring), Safety.unitRuns s 0x114 → s.seq.ring = some g →
    (g.failed = none →
      let u := readProgress (readProgress s g.txEx) g.rxEx
      (1 ≤ g.rxEx ∧ g.rxHop ≤ 2 → exec .ringProgressPoll s = .next (readProgress u (g.rxEx - 1)))
      ∧ (¬ (1 ≤ g.rxEx ∧ g.rxHop ≤ 2) → exec .ringProgressPoll s = .next u))
    ∧ (fget s F.SEQ_RING_TIMEOUT.MS ≠ 0 → g.canReceive = true → g.heard + 1000000 * fget s F.SEQ_RING_TIMEOUT.MS ≤ s.time →
      exec .ringWatchdogExpiry s = .next (ringFail s .watchdog))
    ∧ (s.time < g.heard + 1000000 * fget s F.SEQ_RING_TIMEOUT.MS ∨ fget s F.SEQ_RING_TIMEOUT.MS = 0 ∨ g.canReceive = false → exec .ringWatchdogExpiry s = .next s))
  ∧ (∀ (s : State) (m : List Byte) (rest : List (List Byte)) (st : Status), Safety.unitRuns s 0x114 → s.seq.aborts = m :: rest → Status.ofCode (byteAt m 7) = some st →
    exec .ringAbortReceive s = .next (ringFail (onSeq s fun x => { x with aborts := rest }) st))

/-- R317. -/
def Obligations.AddressPlacement : Prop :=
  (∀ pa, paChannel pa = (bits (pa / 256) 6 0 ^^^ bits (pa / 256) 13 7 ^^^ bits (pa / 256) 20 14)
    ∧ paOffset pa = 256 * (pa / 256 / 128) + pa % 256)
  ∧ (∀ g c, c < 128 → ∃ k, k < 128 ∧ (∀ b, b < 256 → paChannel ((128 * g + k) * 256 + b) = c)
      ∧ ∀ j, j < 128 → paChannel ((128 * g + j) * 256) = c → j = k)

/-- R330 and R331. -/
def Obligations.VictimChoice : Prop :=
  ∀ (s : State) (cls la : Nat),
    let on (n : Nat) : Bool := bit (fget s F.L2_WAYMASK.MASK 0 cls) n
    let free (n : Nat) : Bool := (tget s.mem.ways (wayKey (la * 128) n)).isNone
    let age (n : Nat) : Nat := (tgetD s.mem.ways (wayKey (la * 128) n) { la := 0 }).age
    (victim s cls la = none ↔ ∀ n, n < 16 → on n = false)
    ∧ ∀ n, victim s cls la = some n → n < 16 ∧ on n = true
      ∧ (free n = true → ∀ k, k < n → on k = true → free k = false)
      ∧ (free n = false → ∀ k, k < 16 → on k = true → free k = false ∧ age k ≤ age n ∧ (age k = age n → n ≤ k))

/-- L2_REQUEST_LOOKUP, L2_MISS_FILL, L2_INVALIDATE_DONE and the stacks' rows. -/
def Obligations.CacheAndStacks : Prop :=
  (∀ (s : State) (r : L2Req) (e : L2Err), Safety.engines s →
    let la := r.pa / 128
    let slice := paSlice r.pa
    (∀ st, l2Refusal s r.pa 1 = some st → exec (.l2RequestLookup r e) s = .next (answer s r.id st []))
    ∧ (l2Refusal s r.pa 1 = none → fget s F.L2_SLICE_STATUS.STATE 0 slice = 1 ∨ recovering s (0xE0 + slice) = true →
      exec (.l2RequestLookup r e) s = .next (onMem s fun m => { m with held := m.held ++ [r] }))
    ∧ (l2Refusal s r.pa 1 = none → fget s F.L2_SLICE_STATUS.STATE 0 slice ≠ 1 → recovering s (0xE0 + slice) = false →
      (∀ m, s.mem.misses.find? (fun m => m.la = la) = some m → m.merged.length < 8 →
        exec (.l2RequestLookup r e) s = .next (onMem s fun x => { x with misses := x.misses.map fun q =>
          if q.la = la then { q with merged := q.merged ++ [r] } else q }))
      ∧ (∀ m, s.mem.misses.find? (fun m => m.la = la) = some m → 8 ≤ m.merged.length →
        exec (.l2RequestLookup r e) s = .next (onMem s fun x => { x with held := x.held ++ [r] }))
      ∧ (s.mem.misses.find? (fun m => m.la = la) = none →
        (wayOf s la = none → fullLine r = true → exec (.l2RequestLookup r e) s = .next (serve s r))
        ∧ (∀ n, wayOf s la = some n → wayOf (wayError s la n e) la = some n → exec (.l2RequestLookup r e) s = .next (serve (wayError s la n e) r))
        ∧ (wayOf s la = none → fullLine r = false → fget s F.L2_SLICE_STATUS.MISS_BUSY 0 slice < 64 →
          exec (.l2RequestLookup r e) s = .next (pcAdmit (missBusy (onMem s fun x => { x with misses := x.misses ++ [{ la := la, primary := r }] }) slice) (paChannel r.pa)))
        ∧ (wayOf s la = none → fullLine r = false → 64 ≤ fget s F.L2_SLICE_STATUS.MISS_BUSY 0 slice →
          exec (.l2RequestLookup r e) s = .next (onMem s fun x => { x with held := x.held ++ [r] })))))
  ∧ (∀ (s : State) (la : Nat) (m : Miss), Safety.engines s → s.mem.misses.find? (fun m => m.la = la) = some m →
    let k := paStack (la * 128)
    let u := pcServe s la
    let last (v : State) : Out :=
      let x := (m.primary :: m.merged).foldl serve (fillLine v m.primary.cls la)
      let y := onMem x fun x => { x with misses := x.misses.filter fun q => decide (q.la ≠ la), poisoned := ndel x.poisoned la }
      .next (catchUp (retryHeld (pcAdmit (missBusy y (paSlice (la * 128))) (paChannel (la * 128))) fun r => decide (paSlice r.pa = paSlice (la * 128))) k)
    ((stackOf s k).selfRefresh = false ∨ stackPads s k = false → pcMay s la = true → recovering s (0x100 + k) = false → recovering s (0xE0 + paSlice (la * 128)) = false →
      exec (.l2MissFill la .clean) s = last u
      ∧ exec (.l2MissFill la .corrected) s = last (fcount u F.MEM_STACK_STATUS.CORRECTED 0 k)
      ∧ exec (.l2MissFill la .uncorrectable) s = last (rset (fcount (onMem u fun x => { x with poisoned := nins x.poisoned la })
          F.MEM_STACK_STATUS.UNCORRECTED 0 k) .MEM_ERR_ADDR (2 ^ 63 + paChannel (la * 128) <<< 38 + la * 128)))
    ∧ (∀ report, pcMay s la = false → exec (.l2MissFill la report) s = .next s))
  ∧ (∀ (s : State) (q : Nat), Safety.engines s →
    (fget s F.L2_SLICE_STATUS.STATE 0 q = 1 →
      exec (.l2InvalidateDone q) s = .next (retryHeld (fset s F.L2_SLICE_STATUS.STATE 0 0 q) fun r => decide (paSlice r.pa = q)))
    ∧ (fget s F.L2_SLICE_STATUS.STATE 0 q ≠ 1 → exec (.l2InvalidateDone q) s = .next s))
  ∧ (∀ (s : State) (k : Nat), Safety.unitRuns s (0x100 + k) →
    let refresh (n : Nat) : Out := .next (onMem s fun m => { m with stackTbl := tset m.stackTbl k { stackOf s k with postponed := n } })
    let put (b : Bool) (n : Nat) : Out := .next (fset (onMem s fun m => { m with stackTbl := tset m.stackTbl k { stackOf s k with selfRefresh := b } })
      F.MEM_STACK_STATUS.STATE n 0 k)
    (stackBusy s k = true → (stackOf s k).postponed < fget s F.MEM_REFRESH.POSTPONE → exec (.hbmRefresh k) s = refresh ((stackOf s k).postponed + 1))
    ∧ (stackBusy s k = true → fget s F.MEM_REFRESH.POSTPONE ≤ (stackOf s k).postponed → exec (.hbmRefresh k) s = refresh (stackOf s k).postponed)
    ∧ (stackBusy s k = false → exec (.hbmRefresh k) s = refresh 0)
    ∧ (stackOn s k = true → stackBusy s k = false → fget s F.MEM_STACK_CTL.SR_IDLE_US 0 k ≠ 0 → exec (.hbmSelfRefreshEntry k) s = put true 1)
    ∧ (stackOn s k = false ∨ stackBusy s k = true ∨ fget s F.MEM_STACK_CTL.SR_IDLE_US 0 k = 0 → exec (.hbmSelfRefreshEntry k) s = .next s)
    ∧ (stackOn s k = true → (stackOf s k).selfRefresh = true → stackPads s k = false → exec (.hbmSelfRefreshExit k) s = put false 0)
    ∧ (stackOn s k = false ∨ (stackOf s k).selfRefresh = false ∨ stackPads s k = true → exec (.hbmSelfRefreshExit k) s = .next s))

/-- L2_MAINT (R333, R334). -/
def Obligations.CacheMaintenance : Prop :=
  (∀ (s : State) (scope : Nat), Safety.writable s .L2_MAINT_CMD 0 0 → fget s F.L2_MAINT_RESULT.BUSY = 0 →
    let a := rget s .L2_MAINT_ARG0 % 2 ^ 38
    let n := rget s .L2_MAINT_ARG1
    let out (op : Nat) : Out :=
      let r := maintWays s op fun _ l => a ≤ l.la * 128 ∧ l.la * 128 < a + n
      let parked := (r.2.mem.parkedWb.drop s.mem.parkedWb.length).map fun l => l.la
      .next (rset (onMem r.2 fun m => { m with maint := some { op := op, skipped := false, parked := parked } }) .L2_MAINT_RESULT (2 ^ 63 + Nat.min r.1 (2 ^ 31 - 1)))
    (∀ st, maintCheck s 1 scope = some st → exec (.l2MaintClean scope) s = .next (rset s .L2_MAINT_RESULT (Status.code st <<< 32)))
    ∧ (∀ st, maintCheck s 2 scope = some st → exec (.l2MaintInvalidate scope) s = .next (rset s .L2_MAINT_RESULT (Status.code st <<< 32)))
    ∧ (∀ st, maintCheck s 3 scope = some st → exec (.l2MaintCleanInvalidate scope) s = .next (rset s .L2_MAINT_RESULT (Status.code st <<< 32)))
    ∧ (scope = 0 → maintCheck s 1 0 = none → n ≠ 0 → n ≤ 16 * 2 ^ 20 → exec (.l2MaintClean scope) s = out 1)
    ∧ (scope = 0 → maintCheck s 2 0 = none → n ≠ 0 → n ≤ 16 * 2 ^ 20 → exec (.l2MaintInvalidate scope) s = out 2)
    ∧ (scope = 0 → maintCheck s 3 0 = none → n ≠ 0 → n ≤ 16 * 2 ^ 20 → exec (.l2MaintCleanInvalidate scope) s = out 3)
    ∧ (scope = 0 → maintCheck s 1 0 = none → n = 0 → exec (.l2MaintClean scope) s = .next (rset s .L2_MAINT_RESULT 0))
    ∧ (∀ op, op = 0 ∨ scope = 3 → exec (.l2MaintUndefinedOp op scope) s = .next (rset s .L2_MAINT_RESULT (0x10 <<< 32))))
  ∧ (∀ (s : State) (op scope : Nat), Safety.writable s .L2_MAINT_CMD 0 0 → fget s F.L2_MAINT_RESULT.BUSY = 1 →
    exec (.l2MaintClean scope) s = .next s ∧ exec (.l2MaintInvalidate scope) s = .next s ∧ exec (.l2MaintCleanInvalidate scope) s = .next s
    ∧ exec (.l2MaintUndefinedOp op scope) s = .next s)
  ∧ (∀ (s : State) (m : Maint), Safety.engines s → s.mem.maint = some m →
    (s.mem.parkedWb.any (fun l => m.parked.contains l.la) = true → exec .l2MaintDone s = .next s)
    ∧ (s.mem.parkedWb.any (fun l => m.parked.contains l.la) = false → exec .l2MaintDone s = .next (onMem (fset (fset s F.L2_MAINT_RESULT.BUSY 0) F.L2_MAINT_RESULT.STATUS (if m.skipped then 0x51 else 0)) fun x => { x with maint := none })))

/-- FOL_BANK (R340 to R343) and the FOL window (R337, R338). -/
def Obligations.FolioBanks : Prop :=
  (∀ (s : State) (c b v : Nat), c < 16 → b < 16 → Safety.writable s .FOL_BANK c b →
    let old := fget s F.FOL_BANK.OWNER c b
    let new := v % 256
    let ps := bits v 29 28
    (fget s F.FOL_BANK.PENDING c b = 1 → new = old → exec (.folBankWrite c b v) s =
      .next (onMem (fset (fset s F.FOL_BANK.PENDING 0 c b) F.FOL_BANK.TARGET 0 c b) fun m => { m with handovers := tdel m.handovers (bankKey c b) }))
    ∧ (fget s F.FOL_BANK.PENDING c b = 1 → new ≠ old → exec (.folBankWrite c b v) s = .next s)
    ∧ (fget s F.FOL_BANK.PENDING c b = 0 → ownerOk new = false ∨ ps = 3 → exec (.folBankWrite c b v) s = .next s)
    ∧ (fget s F.FOL_BANK.PENDING c b = 0 → 8 ≤ new → new < 16 → coreHasBank s c b new = true → exec (.folBankWrite c b v) s = .next s)
    ∧ (fget s F.FOL_BANK.PENDING c b = 0 → old ≠ 0 → new = old → exec (.folBankWrite c b v) s = .next s)
    ∧ (fget s F.FOL_BANK.PENDING c b = 0 → old = 0 → new = 0 → ps ≠ 3 →
      exec (.folBankWrite c b v) s = .next (bankPower (fset s F.FOL_BANK.PSTATE ps c b) c b ps))
    ∧ (fget s F.FOL_BANK.PENDING c b = 0 → ownerOk new = true → ps ≠ 3 → new ≠ old → ¬ (8 ≤ new ∧ new < 16 ∧ coreHasBank s c b new = true) →
      exec (.folBankWrite c b v) s = .next (onMem (fset (fset (fset (fset s F.FOL_BANK.PENDING 1 c b) F.FOL_BANK.TARGET new c b)
          F.FOL_BANK.SCRUB (bits v 30 30) c b) F.FOL_BANK.PSTATE ps c b)
        fun m => { m with handovers := tset m.handovers (bankKey c b) { scrub := bit v 30, pstate := ps, drained := false } })))
  ∧ (∀ (s : State) (c b : Nat) (h : Handover), Safety.unitRuns s (0xD0 + c) → tget s.mem.handovers (bankKey c b) = some h →
    (h.drained = false → bankDrained s c b = true →
      let o := fget s F.FOL_BANK.OWNER c b
      let u := if 8 ≤ o ∧ o < 16 then flushOverflow s (8 * c + (o - 8)) else s
      exec (.folHandoverDrained c b) s = .next (onMem (bankPower (if h.scrub then zeroBank u c b else u) c b 0)
        fun m => { m with handovers := tset m.handovers (bankKey c b) { h with drained := true } }))
    ∧ (h.drained = false → bankDrained s c b = false → exec (.folHandoverDrained c b) s = .next s)
    ∧ (h.drained = true →
      let new := fget s F.FOL_BANK.TARGET c b
      let u := fset (fset (fset (onMem s fun m => { m with handovers := tdel m.handovers (bankKey c b) })
        F.FOL_BANK.OWNER new c b) F.FOL_BANK.PENDING 0 c b) F.FOL_BANK.TARGET 0 c b
      exec (.folHandoverComplete c b) s = .next ((upFrom (4 * c) 4).foldl (fun s e => match (engineAt s e).block with | some k => fragTries s k | none => s)
        (if new = 0 then bankPower u c b h.pstate else u)))
    ∧ (h.drained = true → exec (.folHandoverDrained c b) s = .next s)
    ∧ (h.drained = false → exec (.folHandoverComplete c b) s = .next s))
  ∧ (∀ (s : State) (off v : Nat) (wide : Bool),
    let n := if wide then 8 else 4
    let c := fget s F.FOL_WIN_SEL.CLUSTER
    let b := fget s F.FOL_WIN_SEL.BANK
    let old := leNat (mread 0 s.mem.folio (winAddr s off) n)
    let put (x : Nat) : Out := .next (onMem s fun m => { m with
      folio := mwrite 0 m.folio (winAddr s off) (natLe x n), folioBad := (linesOf (winAddr s off) n).foldl ndel m.folioBad })
    (off % n = 0 → off < 2 ^ 18 → Safety.writable s .FOL_WIN_STATUS 0 0 →
      (fget s F.FOL_BANK.PNOW c b = 0 → domOn s c = true →
        exec (.folWindowWrite off v wide false) s = put (v % 256 ^ n)
        ∧ exec (.folSetAliasWrite off v wide false) s = put (old ||| v % 256 ^ n)
        ∧ exec (.folClearAliasWrite off v wide false) s = put (old - (old &&& v % 256 ^ n))
        ∧ (∀ e ∈ ([.folWindowWrite off v wide true, .folSetAliasWrite off v wide true, .folClearAliasWrite off v wide true] : List Instr),
            exec e s = .next (fcount (fset s F.FOL_WIN_STATUS.COLLIDE 1) F.FOL_WIN_STATUS.COLLISIONS)))
      ∧ (fget s F.FOL_BANK.PNOW c b ≠ 0 ∨ domOn s c = false → ∀ lost,
        ∀ e ∈ ([.folWindowWrite off v wide lost, .folSetAliasWrite off v wide lost, .folClearAliasWrite off v wide lost] : List Instr),
          exec e s = .next (fset s F.FOL_WIN_STATUS.DOMAIN_OFF 1)))
    ∧ (off % n ≠ 0 ∨ 2 ^ 18 ≤ off → ∀ lost,
      ∀ e ∈ ([.folWindowWrite off v wide lost, .folSetAliasWrite off v wide lost, .folClearAliasWrite off v wide lost] : List Instr), exec e s = .next s))

/-- The arbiters (R345 to R349). -/
def Obligations.ArbiterRows : Prop :=
  (∀ (s : State) (kind inst : Nat), Safety.engines s →
    let k := arbKey kind inst
    let a := tgetD s.mem.arbiters k {}
    (∀ (asks : List Ask) (w : Ask), a.revoked = none → nextAsk a.last (asks.foldl addAsk a.waiting) = some w →
      let rest := (asks.foldl addAsk a.waiting).filter fun x => decide (x.unit ≠ w.unit)
      exec (.arbiterGrant kind inst asks) s = .next (rest.foldl (fun s x => chargeBlocked s x.ctx w.ctx 1)
        (onArb s k fun x => { x with holder := some w, last := w.unit, waiting := rest, revoked := none, fixed := false })))
    ∧ (∀ (asks : List Ask) (h : Ask), a.revoked = some h →
      let rest := (asks.foldl addAsk a.waiting).filter fun x => decide (x.unit ≠ h.unit)
      exec (.arbiterGrant kind inst asks) s = .next (rest.foldl (fun s x => chargeBlocked s x.ctx h.ctx 1)
        (onArb s k fun x => { x with holder := some h, last := h.unit, waiting := rest, revoked := none, fixed := true })))
    ∧ (∀ (h : Ask) (unit beats : Nat), a.holder = some h → kind ≤ 1 → a.fixed = false → a.revoked = none →
      exec (.arbiterRevoke kind inst unit beats) s = .next (chargeBlocked (onArb s k fun x =>
        { x with holder := some { unit := unit, beats := beats, ctx := 0 }, last := h.unit, revoked := some h }) h.ctx 0 (beats + 2)))
    ∧ (∀ unit beats : Nat, 1 < kind ∨ a.fixed = true → exec (.arbiterRevoke kind inst unit beats) s = .next s)
    ∧ (∀ h : Ask, a.holder = some h → a.waiting ≠ [] →
      exec (.arbiterWatchdog kind inst) s = .next (raiseBare (rset (onArb s k fun x => { x with holder := none }) .ARB_WDOG_LOG
        (2 ^ 63 + kind <<< 40 + inst <<< 32 + h.unit % 2 ^ 16 <<< 16 + Nat.min (fget s F.ARB_WDOG_LOG.COUNT + 1) 0xFFFF))
        h.unit .watchdog 3 (.system 1 (kind * 256 + inst) h.unit 0)))
    ∧ (a.waiting = [] → exec (.arbiterWatchdog kind inst) s = .next s))
  ∧ (∀ (last : Nat) (l : List Ask) (w : Ask), nextAsk last l = some w →
    w ∈ l ∧ ((∃ x ∈ l, last < x.unit) → last < w.unit))

/-- TRANSLATION_LOOKUP, WALK_READ_DONE, FAULT_BATCH_CLOSE and ATS_TRANSLATION_COMPLETION. -/
def Obligations.TranslationRows : Prop :=
  (∀ (s : State) (r : XReq) (micro tc : List Nat), Safety.unitRuns s 0x116 →
    (domOn s 41 = false → leafFor (microOf s r.engine) r.vm r.asid r.va = none → exec (.translationLookup r micro tc) s = .next s)
    ∧ (domOn s 41 = true ∨ leafFor (microOf s r.engine) r.vm r.asid r.va ≠ none →
      (2 ^ 48 ≤ r.va → exec (.translationLookup r micro tc) s = .next (xAnswer s r (.fault .translationFault 2 r.va (accByte r.acc) 0)))
      ∧ (r.va < 2 ^ 48 → 2 ^ fget s F.XLT_AS_BASE.AS_LOG2 r.vm ≤ r.asid →
        exec (.translationLookup r micro tc) s = .next (xAnswer s r (.fault .translationFault 3 r.va (accByte r.acc) 0)))
      ∧ (r.va < 2 ^ 48 → r.asid < 2 ^ fget s F.XLT_AS_BASE.AS_LOG2 r.vm →
        let u := parityDrop s r.engine micro tc
        let ends (v : State) (page log2 out : Nat) (dev : Bool) (p : Perm) (chk : Bool) (x : LeafSrc) : Out := .next (atsStep v r
          (match permFault p r.acc with | some c => .fault .permission c r.va (accByte r.acc) (lackLevel x r.acc) | none => .ok (out + (r.va - page)) dev log2 chk))
        (∀ page log2 out dev p chk x, leafFor (microOf u r.engine) r.vm r.asid r.va = some (.leaf r.vm r.asid page log2 out dev p chk x) →
          exec (.translationLookup r micro tc) s = ends u page log2 out dev p chk x)
        ∧ (leafFor (microOf u r.engine) r.vm r.asid r.va = none →
          (∀ page log2 out dev p chk x, leafFor u.xlt.tc r.vm r.asid r.va = some (.leaf r.vm r.asid page log2 out dev p chk x) →
            exec (.translationLookup r micro tc) s = ends (cacheMicro u r.engine (.leaf r.vm r.asid page log2 out dev p chk x)) page log2 out dev p chk x)
          ∧ (leafFor u.xlt.tc r.vm r.asid r.va = none →
            let same (w : Walk) : Bool := decide (w.req.vm = r.vm ∧ w.req.asid = r.asid ∧ w.req.va / 4096 = r.va / 4096)
            let joins (w : Walk) : Walk := { w with waiting := w.waiting ++ [r] }
            (u.xlt.walks.any same = true →
              exec (.translationLookup r micro tc) s = .next (onXlt u fun x => { x with walks := u.xlt.walks.map fun w => if same w then joins w else w }))
            ∧ (u.xlt.walks.any same = false → 64 ≤ u.xlt.walks.length → exec (.translationLookup r micro tc) s =
                .next (onXlt u fun x => { x with walks := u.xlt.walks.map fun w => if u.xlt.walks.getLast? = some w then joins w else w }))
            ∧ (u.xlt.walks.any same = false → u.xlt.walks.length < 64 →
              (∀ w t, walkStart u r = (.reading w, t) → exec (.translationLookup r micro tc) s = .next (onXlt t fun x => { x with walks := x.walks ++ [w] }))
              ∧ (∀ o t, walkStart u r = (.done o, t) → exec (.translationLookup r micro tc) s = .next (atsStep (fcount t F.XLT_WALKS.WALKS) r o))))))))
  ∧ (∀ (s : State) (n : Nat) (w : Walk), Safety.unitRuns s 0x116 → s.xlt.walks[n]? = some w →
    let gone (t : State) : State := onXlt t fun x => { x with walks := x.walks.eraseIdx n }
    exec (.walkReadDone n true) s = .next (walkEnd (gone s) w (.fault .translationFault 4 (walkAddr w) (walkAccess w) (walkLevel w)))
    ∧ (∀ w' t, walkWord s w (leNat (hostRead s w.readAt 8)) (leNat (hostRead s (w.readAt + 8) 8)) = (.reading w', t) →
      exec (.walkReadDone n false) s = .next (onXlt t fun x => { x with walks := x.walks.set n w' }))
    ∧ (∀ o t, walkWord s w (leNat (hostRead s w.readAt 8)) (leNat (hostRead s (w.readAt + 8) 8)) = (.done o, t) →
      exec (.walkReadDone n false) s = .next (walkEnd (gone t) w o)))
  ∧ (∀ (s : State) (f : Nat) (b : Batch), Safety.unitRuns s 0x116 → tget s.xlt.batches f = some b →
    (s.time < b.start + 20000 → exec (.faultBatchClose f) s = .next s)
    ∧ (b.start + 20000 ≤ s.time →
      let u := b.entries.foldl (fun s e => if e.merged = 0 then s else hostWrite s (fltSlot s f e.slot) (putAt e.bytes 26 (natLe e.merged 2))) s
      let v := fset u F.XLT_FLT_PI.PI ((fget u F.XLT_FLT_PI.PI f + b.entries.length) % 2 ^ 32) f
      let w := onXlt v fun x => { x with batches := tdel x.batches f, batchSerial := tset x.batchSerial f (batchNo v f) }
      exec (.faultBatchClose f) s = .next (msixRaise w f (fget w F.XLT_FLT_CTL.VECTOR f))))
  ∧ (∀ (s : State) (r : XReq) (f page pa log2 out : Nat) (p q : Perm), Safety.engines s →
    s.xlt.atsWait.find? (fun w => decide (w.1.vm = f ∧ w.2.1 / 4096 * 4096 = page)) = some (r, pa, log2, q) →
    let t := onXlt s fun x => { x with atsWait := x.atsWait.erase (r, pa, log2, q) }
    (∀ ok, (ok && (p.rd || p.wr)) = false → exec (.atsTranslationCompletion f page ok out p) s = .next (xAnswer t r (.fault .translationFault 5 r.va (accByte r.acc) 0)))
    ∧ (p.rd = true ∨ p.wr = true → permFault p r.acc = none →
      exec (.atsTranslationCompletion f page true out p) s = .next (xAnswer (cache t (.ats f page out p)) r (.ok (out + pa % 4096) false log2 false)))
    ∧ (p.rd = true ∨ p.wr = true → ∀ c, permFault p r.acc = some c →
      exec (.atsTranslationCompletion f page true out p) s = .next (xAnswer (cache t (.ats f page out p)) r (.fault .permission 5 r.va (accByte r.acc) 0))))

/-- XLT_INV (R376, R382, R383), ATS_INVALIDATION_REQUEST, INVALIDATION_GRANT, INVALIDATION_ENGINE_ACK, XLT_VM_CFG_WRITE. -/
def Obligations.InvalidationRows : Prop :=
  (∀ (s : State) (f a vm : Nat), Safety.writable s .XLT_INV_CMD f 0 → fget s F.XLT_INV_RESULT.BUSY f = 0 →
    let start := fget s F.XLT_INV_ARG0.START f
    let len := fget s F.XLT_INV_ARG1.LENGTH f
    let waits (i : Inv) : Out := .next (onXlt (fset s F.XLT_INV_RESULT.BUSY 1 f) fun x => { x with invWaiting := x.invWaiting ++ [i] })
    let ends (c : Nat) : Out := .next (rset s .XLT_INV_RESULT (c <<< 32) f)
    (start % 4096 ≠ 0 ∨ len % 4096 ≠ 0 → exec (.xltInvRange f a) s = ends (Status.code .badAlignment))
    ∧ (start % 4096 = 0 → len % 4096 = 0 →
      (2 ^ 48 < start + len → exec (.xltInvRange f a) s = ends (Status.code .lengthRange))
      ∧ (start ≤ 2 ^ 48 → len = 0 → exec (.xltInvRange f a) s = ends 0)
      ∧ (start + len ≤ 2 ^ 48 → len ≠ 0 →
        (fget s F.XLT_VM_CFG.INV_MODE 0 f = 0 → exec (.xltInvRange f a) s = waits { src := .cmd f, op := .range f a start len })
        ∧ (fget s F.XLT_VM_CFG.INV_MODE 0 f = 1 → exec (.xltInvRange f a) s = waits { src := .cmd f, op := .tag f a, escalated := true })))
    ∧ (fget s F.XLT_VM_CFG.INV_MODE 0 f = 1 → exec (.xltInvTag f a) s = waits { src := .cmd f, op := .tag f a })
    ∧ (fget s F.XLT_VM_CFG.INV_MODE 0 f = 0 → exec (.xltInvTag f a) s = waits { src := .cmd f, op := .range f a 0 (2 ^ 48), escalated := true })
    ∧ (f = 0 → exec (.xltInvVmAll f vm) s = waits { src := .cmd 0, op := .vmAll vm })
    ∧ (f ≠ 0 → exec (.xltInvVmAll f vm) s = ends (Status.code .permission))
    ∧ exec (.xltInvUndefinedOp f) s = ends (Status.code .badOpcode))
  ∧ (∀ (s : State) (f a vm : Nat), Safety.writable s .XLT_INV_CMD f 0 → fget s F.XLT_INV_RESULT.BUSY f = 1 →
    exec (.xltInvRange f a) s = .next s ∧ exec (.xltInvTag f a) s = .next s ∧ exec (.xltInvVmAll f vm) s = .next s
    ∧ exec (.xltInvUndefinedOp f) s = .next s)
  ∧ (∀ (s : State) (f start len tag : Nat), Safety.engines s →
    exec (.atsInvalidationRequest f start len tag) s =
      .next (onXlt s fun x => { x with invWaiting := x.invWaiting ++ [{ src := .ats tag, op := .hostRange f start len }] }))
  ∧ (∀ (s : State) (n : Nat) (i : Inv), Safety.unitRuns s 0x116 → s.xlt.invNow = none → s.xlt.invWaiting[n]? = some i → domOn s 41 = true →
    ∃ t, exec (.invalidationGrant n) s = .next t ∧ t.xlt.tc = s.xlt.tc.filter (fun e => decide (invHits s i.op e = false))
      ∧ t.xlt.invWaiting = s.xlt.invWaiting.eraseIdx n
      ∧ t.xlt.invNow = some (i, (List.range 222).filter fun e => domOn s (engineDomain e)))
  ∧ (∀ (s : State) (e : Nat) (i : Inv) (owe : List Nat), Safety.unitRuns s 0x116 → s.xlt.invNow = some (i, owe) →
    let rest := owe.filter fun x => decide (x ≠ e)
    let left : State := onXlt s fun x => { x with invNow := some (i, rest) }
    (rest ≠ [] → exec (.invalidationEngineAck e) s = .next left)
    ∧ (∀ f, rest = [] → i.src = .cmd f →
      exec (.invalidationEngineAck e) s = .next (rset (onXlt s fun x => { x with invNow := none }) .XLT_INV_RESULT (if i.escalated then 2 ^ 31 else 0) f))
    ∧ (∀ tag, rest = [] → i.src = .ats tag →
      exec (.invalidationEngineAck e) s = .next (send (onXlt s fun x => { x with invNow := none }) (.atsInvalidationDone tag))))
  ∧ (∀ (s : State) (v value : Nat), Safety.writable s .XLT_VM_CFG 0 v →
    let old := rget s .XLT_VM_CFG 0 v
    let new := Reg.written .XLT_VM_CFG old value (2 ^ 64 - 1)
    let t := rset s .XLT_VM_CFG new 0 v
    (bits old 63 12 = bits new 63 12 → bit old 0 = bit new 0 → exec (.xltVmCfgWrite v value) s = .next t)
    ∧ (bits old 63 12 ≠ bits new 63 12 ∨ bit old 0 ≠ bit new 0 →
      exec (.xltVmCfgWrite v value) s = .next (onXlt (invSweep t (.vmAll v)) fun x => { x with
        invWaiting := x.invWaiting ++ [{ src := .vmCfg v, op := .vmAll v }] })))

/-- FAULT_RECORD_ACCEPT (R394 to R408). That the counting comes before the ESCALATION check is DEDUCED (log 15). -/
def Obligations.FaultVerdicts : Prop :=
  (∀ (s : State) (r : FaultRec) (rest : List FaultRec) (stuck : Option Nat) (dead : List Nat), Safety.powered s → s.int.waiting = r :: rest →
    let n := s.int.serial
    let t := onInt (onInt s fun x => { x with waiting := rest }) fun x => { x with serial := wrapInc x.serial 32 }
    let w := countFault t r.time n
    let u := onInt t fun x => { x with window := some w.1 }
    let record (v : Verdict) (level : Nat) : State :=
      if r.lost then recOverflow u r else recWrite u r n (if w.2 then w.1.2.2 else 0) level (recFlags u r v dead)
    let fails (cause : Nat) : Out := .next (failsafeEnter (record { cause := cause } 7) cause)
    let starts (v : Verdict) : Out :=
      let x := intView (recoverStart (record v v.level) r v stuck dead)
      .next (if fwActive x then notice x 7 8 (n % 2 ^ 24) else x)
    (r.level = 0 ∨ failsafe s = true → exec (.faultRecordAccept stuck dead) s = .next (if r.lost then recOverflow t r else recWrite t r n 0 0 (recFlags t r {} [])))
    ∧ (r.level ≠ 0 → failsafe s = false →
      (r.place % 4096 = 0x12F → exec (.faultRecordAccept stuck dead) s = fails 4)
      ∧ (r.place % 4096 ≠ 0x12F →
        (7 ≤ r.level → exec (.faultRecordAccept stuck dead) s = fails 8)
        ∧ (r.level < 7 → w.2 = true → 3 ≤ w.1.2.1 → exec (.faultRecordAccept stuck dead) s = fails 1)
        ∧ (r.level < 7 → w.2 = false ∨ w.1.2.1 < 3 →
          let live := s.int.recoveries.filter fun x => x.open_ r.time
          let critical := (criticalUnit r.place && !live.isEmpty) || (live.any fun x => decide (x.level = 3) && criticalUnit x.target)
          (live.any (fun x => decide (x.level = 6)) = true → exec (.faultRecordAccept stuck dead) s = fails 2)
          ∧ (live.any (fun x => decide (x.level = 6)) = false →
            (critical = true → exec (.faultRecordAccept stuck dead) s = starts { level := 6 })
            ∧ (∀ x, critical = false → deepest live r.place = some x →
              exec (.faultRecordAccept stuck dead) s = starts { level := (levelUp x r.place).1, target := (levelUp x r.place).2, up := some x })
            ∧ (critical = false → deepest live r.place = none →
              exec (.faultRecordAccept stuck dead) s = starts { level := (targetOf r.place r.level).1, target := (targetOf r.place r.level).2 }))))))
  ∧ (∀ (s : State) (t n : Nat),
    (s.int.window = none → countFault s t n = ((t, 1, n), true))
    ∧ (∀ t0 c first, s.int.window = some (t0, c, first) →
      (t < t0 → countFault s t n = ((t0, c, first), false))
      ∧ (t0 ≤ t → t < t0 + 1000000000 → countFault s t n = ((t0, c + 1, first), true))
      ∧ (t0 + 1000000000 ≤ t → countFault s t n = ((t, 1, n), true))))
  ∧ (∀ (s : State) (r : FaultRec) (v : Verdict) (stuck : Option Nat) (dead : List Nat),
    ∃ g, (recoverStart s r v stuck dead).int.recoveries.getLast? = some g ∧ g.level = v.level ∧ g.target = v.target ∧ g.unit = r.unit ∧ g.status = r.status
      ∧ g.running = true ∧ (v.up = none → g.t1 = r.time ∧ g.bound = levelBound v.level)
      ∧ (∀ x, v.up = some x → g.t1 = x.t1 ∧ g.bound = x.bound + levelBound v.level))

/-- The rows of the recovery sequencer after acceptance (R400 to R413). -/
def Obligations.RecoveryRows : Prop :=
  (∀ s : State, Safety.powered s →
    (s.int.dieStep2 = true → exec .dieRecoveryFeTimeout s =
      .next (onInt (dieRest s) fun x => { x with recoveries := x.recoveries.map fun r => { r with feLost := true } }))
    ∧ (s.int.dieStep2 = false → exec .dieRecoveryFeTimeout s = .next s))
  ∧ (∀ (s : State) (n : Nat) (r : Recovery), Safety.powered s → failsafe s = false → s.int.dieStep2 = false → s.int.recoveries[n]? = some r → r.running = true →
    let b := r.target % 4096
    let u := raise (onInt s fun x => { x with recoveries := x.recoveries.set n { r with running := false } }) { time := 0, unit := 0x12F, status := .ok, level := 0, context := none, function := none, detail := .system 4 r.level 0 (s.time - r.t1), feLost := r.feLost, dataLost := r.dataLost }
    (r.t1 + r.bound ≤ s.time → exec (.recoveryComplete n) s = .next (failsafeEnter s 3))
    ∧ (s.time < r.t1 + r.bound →
      (r.level ≠ 3 ∨ b < 0xE0 ∨ (0x100 ≤ b ∧ b < 0x128) ∨ 0x12C ≤ b → exec (.recoveryComplete n) s = .next (intView u))
      ∧ (r.level = 3 → 0xE0 ≤ b → b < 0x100 → exec (.recoveryComplete n) s = .next (intView (retryHeld u fun q => decide (paSlice q.pa = b - 0xE0))))
      ∧ (r.level = 3 → 0x128 ≤ b → b < 0x12C → exec (.recoveryComplete n) s =
          .next (intView (fset u F.CCX_CORE_STATUS.MODE (b2n (fwRunning u)) 0 (b - 0x128))))))
  ∧ (∀ (s : State) (n : Nat) (r : Recovery), Safety.powered s → s.int.recoveries[n]? = some r →
    (s.time < r.t1 + r.bound → exec (.recoveryWindowExpiry n) s = .next s)
    ∧ (r.t1 + r.bound ≤ s.time → r.running = true → exec (.recoveryWindowExpiry n) s = .next (failsafeEnter s 3))
    ∧ (r.t1 + r.bound ≤ s.time → r.running = false →
      exec (.recoveryWindowExpiry n) s = .next (intView (onInt s fun x => { x with recoveries := x.recoveries.eraseIdx n }))))
  ∧ (∀ (s : State) (t0 c k : Nat), Safety.powered s → s.int.window = some (t0, c, k) →
    (s.time < t0 + 1000000000 → exec .faultWindowExpiry s = .next s)
    ∧ (t0 + 1000000000 ≤ s.time → exec .faultWindowExpiry s = .next (intView (onInt s fun x => { x with window := none }))))
  ∧ (∀ s : State, Safety.writable s .INT_FAILSAFE 0 0 → exec .intFailsafeForce s = .next (failsafeEnter s 9))
  ∧ (∀ s : State, Safety.powered s → failsafe s = true → recoveryId s = false → exec .intRecoverPackage s = .next (packageRecover s))
  ∧ (∀ s : State, Safety.writable s .INT_RECOVER 0 0 → exec .intRecoverPackage s = .next s)
  ∧ (∀ s : State, Safety.powered s →
    let ms := fget s F.INT_CTL.AUTO_PACKAGE_MS
    (failsafe s = true → ms ≠ 0 → s.int.failAt + 1000000 * ms ≤ s.time → exec .autoPackageExpiry s = .next (packageRecover s))
    ∧ (failsafe s = false ∨ ms = 0 ∨ s.time < s.int.failAt + 1000000 * ms → exec .autoPackageExpiry s = .next s))
  ∧ (∀ (s : State) (v : Nat), Safety.writable s .INT_HOLD 0 0 → v < 256 →
    exec (.intHoldWrite v) s = .next (holdsCleared (rset s .INT_HOLD (without (rget s .INT_HOLD) v))))
  ∧ (∀ (s : State) (v : Nat) (st : Status), Safety.writable s .INT_INJECT 0 0 →
    (Status.ofCode (bits v 31 24) = none → exec (.intInjectWrite v) s = .next s)
    ∧ (Status.ofCode (bits v 31 24) = some st →
      (fget s F.INT_CTL.INJECT_EN = 0 ∨ unitDefined (bits v 47 32) = false ∨ bits v 18 16 = 1 ∨ bits v 18 16 = 2 → exec (.intInjectWrite v) s = .next s)
      ∧ (fget s F.INT_CTL.INJECT_EN = 1 → unitDefined (bits v 47 32) = true → 3 ≤ bits v 18 16 →
        exec (.intInjectWrite v) s = .next (raiseBare s (bits v 47 32) st (bits v 18 16) .none))
      ∧ (fget s F.INT_CTL.INJECT_EN = 1 → unitDefined (bits v 47 32) = true → bits v 18 16 = 0 →
        exec (.intInjectWrite v) s = .next (raiseBare (if st = .integrityMismatch then countMismatch s else s) (bits v 47 32) st 0 (.memory 0 3 0xFF 0xFF 0xFF 0xFFFF 0xFFFF 0 0)))))

/-- PRESS_COMPRESS_SLICE and PRESS_DECOMPRESS_SLICE. -/
def Obligations.PressSlices : Prop :=
  (∀ (s : State) (t i steps : Nat) (k : Task) (j : PressJob), Safety.unitRuns s 0x117 → pressItem s t true = some (k, i, j) →
    let u := busySteps (itemDone s t i) k.ctx .press steps
    let n := Nat.min 65536 (fieldAt k.raw 32 8 - j.src)
    let r := pressRead u k j.src n
    (r.1 ≠ .ok → exec (.pressCompressSlice t steps) s = .next (pressEnd r.2.2 t k j r.1))
    ∧ (r.1 = .ok →
      let last := decide (fieldAt k.raw 32 8 ≤ j.src + n)
      let crc := crcRun j.crc r.2.1
      let code := if subOf k.raw = 1 then toBits (pf1Block r.2.1 (Config.pressCode true [] r.2.1 false) ++ if last then pf1End else [])
        else j.bits ++ deflateChunk j.bits.length j.window r.2.1 last (Config.pressCode false j.window r.2.1 last)
      let bits := if last then code ++ List.replicate ((8 - code.length % 8) % 8) false else code
      let w := pressWrite (fcount r.2.2 F.PRS_IN_BYTES.COUNT 0 0 n) k j.out
        (toBytes (bits.take (bits.length / 8 * 8)) ++ if last then pressTrailer (j.orig + n) crc else [])
      let j' : PressJob := { j with src := j.src + n, out := j.out + w.2.1, bits := bits.drop (bits.length / 8 * 8), window := lastWin (j.window ++ r.2.1), orig := j.orig + n, crc := crc }
      (w.1 ≠ .ok → exec (.pressCompressSlice t steps) s = .next (pressEnd w.2.2 t k j' w.1))
      ∧ (w.1 = .ok → last = true → exec (.pressCompressSlice t steps) s = .next (pressEnd w.2.2 t k j' .ok))
      ∧ (w.1 = .ok → last = false → exec (.pressCompressSlice t steps) s = .next (pressMore w.2.2 t j'))))
  ∧ (∀ (s : State) (t i limit steps : Nat) (k : Task) (j : PressJob), Safety.unitRuns s 0x117 → pressItem s t false = some (k, i, j) →
    let u := busySteps (itemDone s t i) k.ctx .press steps
    let most := if limit = 0 then 65536 else Nat.min limit 65536
    let d := if j.mode = .done then (.finished, j, u) else decLoop k most 262144 j u
    let w := pressWrite d.2.2 k d.2.1.out (d.2.1.produced.take most)
    let j' : PressJob := { d.2.1 with out := d.2.1.out + w.2.1, produced := d.2.1.produced.drop most, crc := crcRun d.2.1.crc (d.2.1.produced.take w.2.1) }
    (w.1 ≠ .ok → exec (.pressDecompressSlice t limit steps) s = .next (pressEnd w.2.2 t k { j' with reason := 0 } w.1))
    ∧ (w.1 = .ok → d.1 = .pause ∨ (d.1 = .finished ∧ j'.produced ≠ []) → exec (.pressDecompressSlice t limit steps) s = .next (pressMore w.2.2 t j'))
    ∧ (w.1 = .ok → d.1 = .finished → j'.produced = [] → exec (.pressDecompressSlice t limit steps) s = .next (pressEnd w.2.2 t k j' .ok))
    ∧ (∀ st q, w.1 = .ok → d.1 = .fails st q → exec (.pressDecompressSlice t limit steps) s = .next (pressEnd w.2.2 t k j' st)))
  ∧ (∀ (s : State) (t limit steps : Nat) (k : Task), Safety.unitRuns s 0x117 → taskAt s t = some k → k.eng = .press → k.live ≠ [] → domOn s 43 = false →
    exec (.pressCompressSlice t steps) s = .next (demand s 43) ∧ exec (.pressDecompressSlice t limit steps) s = .next (demand s 43))

/-- DSP_COMMIT, DSP_COMMIT_CANCEL and LATCH_POINT. That the latch point comes as an event at any time is the model's choice (log 28). -/
def Obligations.CommitsAndLatchPoints : Prop :=
  (∀ (s : State) (x : Nat), x < 8 → Safety.writable s .DSP_COMMIT 0 x →
    (commitPending s x = true → exec (.dspCommit x) s = .next s)
    ∧ (commitPending s x = false → ∀ e, commitCheck s x = some e →
      exec (.dspCommit x) s = .next (fset { s with freeCtr := s.freeCtr + 1 } F.DSP_COMMIT_STATUS.STATUS (Status.code e) 0 x))
    ∧ (commitPending s x = false → commitCheck s x = none → ∃ t, exec (.dspCommit x) s = .next t
      ∧ commitPending t x = true ∧ fget t F.DSP_COMMIT_STATUS.STATUS 0 x = 0 ∧ (streamAt t x).committed = some s.time
      ∧ ∀ y, y ≠ x → streamAt t y = streamAt s y)
    ∧ (commitPending s x = false → exec (.dspCommitCancel x) s = .next s)
    ∧ (commitPending s x = true → ∃ t, exec (.dspCommitCancel x) s = .next t ∧ commitPending t x = false
      ∧ (streamAt t x).committed = none ∧ (streamAt t x).ctl = (streamAt s x).ctl))
  ∧ (∀ (s : State) (x t0 : Nat), x < 8 → Safety.powered s → (streamAt s x).committed = some t0 →
    let u := latchTick x s
    let taken : Out := .next (dspIrq (takeCommit u x) (2 ^ x + 2 ^ (8 + x)))
    (s.time ≤ t0 → streamOn s x = true → exec (.latchPoint x) s = .next (dspIrq u (2 ^ x)))
    ∧ (t0 < s.time → rget s .DSP_COMMIT_QUEUE 0 x = 0 → exec (.latchPoint x) s = taken)
    ∧ (t0 < s.time → rget s .DSP_COMMIT_QUEUE 0 x ≠ 0 → queueOf s 0 (rget s .DSP_COMMIT_QUEUE 0 x) = none →
      exec (.latchPoint x) s = .next (dspIrq (fset (commitClear u x) F.DSP_COMMIT_STATUS.STATUS (Status.code .staleHandle) 0 x) (2 ^ x)))
    ∧ (∀ i q, t0 < s.time → rget s .DSP_COMMIT_QUEUE 0 x ≠ 0 → queueOf s 0 (rget s .DSP_COMMIT_QUEUE 0 x) = some (i, q) →
      let done := if q.wroteAt < s.time then q.seq else q.seqWas
      (rget s .DSP_COMMIT_SEQ 0 x ≤ done → exec (.latchPoint x) s = taken)
      ∧ (done < rget s .DSP_COMMIT_SEQ 0 x → exec (.latchPoint x) s = .next (dspIrq (fcount u F.DSP_COMMIT_STATUS.CARRIED 0 x) (2 ^ x)))))
  ∧ (∀ (s : State) (x : Nat), x < 8 → Safety.powered s → (streamAt s x).committed = none →
    (streamOn s x = true → (∀ t c, (streamAt s x).cancelled = some (t, c) → c ≠ s.time) → exec (.latchPoint x) s = .next (dspIrq (latchTick x s) (2 ^ x)))
    ∧ (∀ t, (streamAt s x).cancelled = some (t, s.time) → exec (.latchPoint x) s =
        exec (.latchPoint x) (onStream (fset s F.DSP_COMMIT_STATUS.PENDING 1 0 x) x fun y => { y with committed := some t, cancelled := none })))
  ∧ (∀ (s : State) (x : Nat), x < 8 →
    rget (latchTick x s) .DSP_LATCH_TIME 0 x = s.time % 2 ^ 64
    ∧ (streamOn s x = true → fget (latchTick x s) F.DSP_STREAM_STATUS.FRAME 0 x = (fget s F.DSP_STREAM_STATUS.FRAME 0 x + 1) % 2 ^ 32)
    ∧ (let t := takeCommit s x
       commitPending t x = false ∧ (streamAt t x).committed = none ∧ (streamAt t x).ctl = rget s .DSP_STREAM_CTL 0 x
       ∧ (streamAt t x).lum = rget s .DSP_STREAM_LUM 0 x ∧ (streamAt t x).bg = rget s .DSP_STREAM_BG 0 x
       ∧ (streamAt t x).wbAddr = rget s .DSP_WB_ADDR 0 x ∧ (streamAt t x).wbCtl = rget s .DSP_WB_CTL 0 x))
  ∧ (∀ (s : State) (causes : Nat), ∃ t, t = rset s .DSP_IRQ_STATUS (rget s .DSP_IRQ_STATUS ||| causes)
    ∧ (flag t F.DSP_IRQ_CTL.EN = true ∧ without causes (rget t .DSP_IRQ_MASK) ≠ 0 → dspIrq s causes = msixRaise t 0 (fget t F.DSP_IRQ_CTL.VECTOR))
    ∧ (flag t F.DSP_IRQ_CTL.EN = false ∨ without causes (rget t .DSP_IRQ_MASK) = 0 → dspIrq s causes = t))

/-- PIPE_LINE_FETCH, SCANOUT_LINE, WRITEBACK_LINE, the HPD and link rows and the AUX rows. -/
def Obligations.LinesAndLinks : Prop :=
  (∀ (s : State) (p st : Nat), p < 32 → Safety.engines s → domOn s 42 = true → (pipeAt s p).stream = some st → streamOn s st = true →
    fget s F.DSP_PIPE_STATUS.FAULTED 0 p = 0 → recovering s (0x120 + st / 2) = false →
    let x := pipeAt s p
    let rows := pipeRows s st x
    let cols := pipeCols s st x
    let sx := bits x.src 47 32
    let step := if bit x.ctl 22 then Nat.min (8 - (bits x.src 63 48 + x.next) % 8) (rows - x.next) else 1
    let ends (t : State) : Out := .next (if t.xlt.tcWait then s else t)
    x.next < rows → x.lines.length + step ≤ bits x.buf 27 21 →
      (cols = 0 → exec (.pipeLineFetch p) s = ends ((upFrom x.next step).foldl (fun s y => storeRow p s y ([], [])) s))
      ∧ (cols ≠ 0 → bit x.ctl 22 = false →
        let r := plainRow s (st / 2) x cols x.next
        exec (.pipeLineFetch p) s = ends (if r.1 ≠ .ok then fetchFault r.2.2 p else storeRow p r.2.2 x.next r.2.1))
      ∧ (cols ≠ 0 → bit x.ctl 22 = true →
        let b := surfaceBlocks (st / 2) x ((bits x.src 63 48 + x.next) / 8) (upFrom (sx / 8) ((sx + cols - 1) / 8 - sx / 8 + 1)) s
        exec (.pipeLineFetch p) s = ends (if b.1 ≠ .ok then fetchFault b.2.2 p
          else (upFrom x.next step).foldl (fun s y => storeRow p s y (surfaceRow x cols y b.2.1)) b.2.2)))
  ∧ (∀ (s : State) (x : Nat), x < 8 → Safety.powered s → streamOn s x = true →
    let st := streamAt s x
    st.line < fget s F.DSP_TIMING_V.ACTIVE 0 x →
    (fget s F.DSP_OUT_STATUS.HELD 0 (x / 2) = 0 → st.shroud = false → Safety.engines s → domOn s 42 = true →
      exec (.scanoutLine x) s = .next (passRows (onStream (scanLine s x st.line) x fun z => { z with line := st.line + 1 }) x st.line))
    ∧ (fget s F.DSP_OUT_STATUS.HELD 0 (x / 2) = 1 ∨ st.shroud = true → exec (.scanoutLine x) s = .next (passRows (onStream (sendLine s x st.line
        (List.replicate (fget s F.DSP_TIMING_H.ACTIVE 0 x) (failCodes s (x / 2) (bpcOf st.ctl))).flatten) x fun z => { z with line := st.line + 1 }) x st.line)))
  ∧ (∀ (s : State) (x y a : Nat) (b : List Byte) (rest : List (Nat × Nat × List Byte)), x < 8 → Safety.unitRuns s (0x120 + x / 2) → domOn s 42 = true →
    (streamAt s x).wbLines = (y, a, b) :: rest →
    let u := onStream s x fun z => { z with wbLines := rest }
    let w := vwrite u (211 + x / 2) 4 0 (fget s F.DSP_OUT_AS.ASID 0 (x / 2)) 0 a b
    let ends (t : State) : Out := .next (if t.xlt.tcWait then s else t)
    (w.1 = .ok → y + 1 ≠ fget u F.DSP_TIMING_V.ACTIVE 0 x → exec (.writebackLine x) s = ends w.2)
    ∧ (w.1 = .ok → y + 1 = fget u F.DSP_TIMING_V.ACTIVE 0 x →
      exec (.writebackLine x) s = ends (dspIrq (fset w.2 F.DSP_STREAM_STATUS.WB_INCOMPLETE 0 0 x) (2 ^ (16 + x))))
    ∧ (w.1 ≠ .ok → exec (.writebackLine x) s =
        ends (dspIrq (fset (onStream w.2 x fun z => { z with wbLines := [] }) F.DSP_STREAM_STATUS.WB_FAULT 1 0 x) (2 ^ 29))))
  ∧ (∀ (s : State) (n : Nat), n < 4 →
    let event (t : State) (f : Fld) : State := wakeReport (if domOn t 42 then dspIrq (fset t f 1 0 n) (2 ^ (24 + n)) else t) 3 n
    let told (t : State) : State := if fwActive t then notice t 4 5 n else t
    (Safety.powered s → failsafe s = true ∨ dieRunning s = true →
      (n ∉ s.boot.hpd → exec (.hpdPlug n) s = .next (hpdSet s n true)) ∧ (n ∈ s.boot.hpd → exec (.hpdUnplug n) s = .next (hpdSet s n false)))
    ∧ (Safety.engines s →
      (n ∉ s.boot.hpd → ∀ t, t = told (event (hpdSet s n true) F.DSP_OUT_STATUS.HPD_CHANGE) → exec (.hpdPlug n) s = .next (linkTry t n))
      ∧ (n ∈ s.boot.hpd → ∀ t, t = told (event (hpdSet s n false) F.DSP_OUT_STATUS.HPD_CHANGE) →
        exec (.hpdUnplug n) s = .next (if fget t F.DSP_OUT_STATUS.STATE 0 n = 2 then fset t F.DSP_OUT_STATUS.STATE 3 0 n else t))
      ∧ (n ∈ s.boot.hpd → ∀ t lost, t = event s F.DSP_OUT_STATUS.HPD_IRQ →
        exec (.hpdIrqPulse n lost) s = .next (if lost = true ∧ fget t F.DSP_OUT_STATUS.STATE 0 n = 2 then fset t F.DSP_OUT_STATUS.STATE 3 0 n else t))
      ∧ (fget s F.DSP_OUT_STATUS.STATE 0 n = 1 →
        exec (.linkTrainingDone n true) s = .next (fset s F.DSP_OUT_STATUS.STATE 2 0 n)
        ∧ exec (.linkTrainingDone n false) s = .next (fset (fset (fset s F.DSP_OUT_STATUS.STATE 0 0 n) F.DSP_OUT_CTL.EN 0 0 n) F.DSP_OUT_STATUS.TRAIN_FAIL 1 0 n))))
  ∧ (∀ (s : State) (n v : Nat), n < 4 → Safety.writable s .DSP_OUT_CTL 0 n →
    let t := rset s .DSP_OUT_CTL (Reg.written .DSP_OUT_CTL (rget s .DSP_OUT_CTL 0 n) v (2 ^ 32 - 1)) 0 n
    let mst : Prop := outputOn s n = true ∧ bits v 30 30 ≠ fget s F.DSP_OUT_CTL.MST 0 n
    (6 < bits v 27 24 ∨ bits v 23 22 = 3 ∨ mst → exec (.dspOutCtlWrite n v) s = .next s)
    ∧ (bits v 27 24 ≤ 6 → bits v 23 22 ≠ 3 → ¬ mst →
      (bit v 31 = false → exec (.dspOutCtlWrite n v) s = .next (fset t F.DSP_OUT_STATUS.STATE 0 0 n))
      ∧ (bit v 31 = true → exec (.dspOutCtlWrite n v) s = .next (linkTry t n))))
  ∧ (∀ (s : State) (n addr len : Nat), n < 4 → addr < 2 ^ 20 → len < 16 → Safety.writable s .DSP_AUX_CMD 0 n →
    let run (op : Nat) : State :=
      { fset s F.DSP_AUX_RESULT.BUSY 1 0 n with dsp := { s.dsp with aux := tset s.dsp.aux n { op := op, addr := addr, len := len + 1 } } }
    (fget s F.DSP_AUX_RESULT.BUSY 0 n = 0 →
      exec (.auxNativeRead n addr len) s = .next (send (run 1) (.aux n 1 addr (len + 1) []))
      ∧ exec (.auxNativeWrite n addr len) s = .next (send (run 2) (.aux n 2 addr (len + 1) (auxData (run 2) n (len + 1))))
      ∧ exec (.auxI2cRead n addr len) s = .next (send (run 3) (.aux n 3 addr (len + 1) []))
      ∧ exec (.auxI2cWrite n addr len) s = .next (send (run 4) (.aux n 4 addr (len + 1) (auxData (run 4) n (len + 1)))))
    ∧ (fget s F.DSP_AUX_RESULT.BUSY 0 n = 1 → ∀ c ∈ ([.auxNativeRead n addr len, .auxNativeWrite n addr len, .auxI2cRead n addr len, .auxI2cWrite n addr len] : List Instr),
        exec c s = .next s))
  ∧ (∀ (s : State) (n reply count : Nat) (data : List Byte) (r : AuxRun), n < 4 → reply ≤ 2 → Safety.engines s → tget s.dsp.aux n = some r →
    (reply = 2 → r.defers < 7 → exec (.auxReply n reply data count) s = .next (auxSend { s with dsp := { s.dsp with aux := tset s.dsp.aux n { r with defers := r.defers + 1 } } } n r))
    ∧ (reply ≠ 2 ∨ 7 ≤ r.defers → ¬ (r.op = 1 ∨ r.op = 3) → exec (.auxReply n reply data count) s = .next (auxEnd s n reply (Nat.min count r.len)))
    ∧ (reply ≠ 2 ∨ 7 ≤ r.defers → r.op = 1 ∨ r.op = 3 →
      let d := if reply = 0 then data.take r.len else []
      let all := d ++ (auxData s n 16).drop d.length
      exec (.auxReply n reply data count) s = .next (auxEnd ((List.range 4).foldl (fun s i => rset s .DSP_AUX_DATA (fieldAt all (4 * i) 4) n i) s) n reply d.length))
    ∧ exec (.auxTimeout n) s = .next (auxEnd s n 3 0))

/-- BAR2_READ, BAR2_WRITE, DEVICE_READ_COMPLETION and MSIX_PENDING_SEND. -/
def Obligations.HostMemoryRows : Prop :=
  (∀ (s : State) (f o n : Nat), Safety.powered s → bar2There s f = true → failsafe s = false →
    let out : Bool := (upFrom o n).any (bar2Outside s f)
    let off : Bool := (upFrom o n).any (bar2Off s f)
    let r := devRead s 6 ((bar2Window s f).1 + o) n
    (out = true → exec (.bar2Read f o n) s = .next (send (send s .unsupportedRequest) (.aer .unsupportedRequest)))
    ∧ (out = false → off = true →
      exec (.bar2Read f o n) s = .next (send (send (fset s F.HIF_BAR_STATUS.DOMAIN_OFF 1 f) .completerAbort) (.aer .completerAbort)))
    ∧ (out = false → off = false → r.1 = .ok → exec (.bar2Read f o n) s = .next (send r.2.2 (.completion r.2.1 false)))
    ∧ (out = false → off = false → r.1 ≠ .ok →
      let pa := (bar2Window s f).1 + o
      exec (.bar2Read f o n) s = .next (raiseBare (send r.2.2 (.completion r.2.1 true)) 0x126 .integrityMismatch 0
        (.memory (pa / 128 * 128) 3 0xFF (paSlice pa) 0xFF 0xFFFF 0xFFFF 0 0))))
  ∧ (∀ (s : State) (f o : Nat) (data : List (Option Byte)), Safety.powered s →
    (bar2There s f = false ∨ failsafe s = true → exec (.bar2Write f o data) s = .next s)
    ∧ (bar2There s f = true → failsafe s = false →
      let runs := bar2Runs o data
      let bytes := runs.flatMap fun r => upFrom r.1 r.2.length
      let base := (bar2Window s f).1
      let hits := runs.map fun r => rangeHit s (base + r.1) r.2.length
      (bytes.any (bar2Outside s f) = true → exec (.bar2Write f o data) s = .next (fset s F.HIF_BAR_STATUS.OUTSIDE 1 f))
      ∧ (bytes.any (bar2Outside s f) = false → bytes.any (bar2Off s f) = true → exec (.bar2Write f o data) s = .next (fset s F.HIF_BAR_STATUS.DOMAIN_OFF 1 f))
      ∧ (bytes.any (bar2Outside s f) = false → bytes.any (bar2Off s f) = false →
        (hits.any (fun h => h.1) = true → exec (.bar2Write f o data) s = .next (protectedWrite s o))
        ∧ (hits.any (fun h => h.1) = false → exec (.bar2Write f o data) s = .next ((hits.flatMap fun h => h.2).foldl (fun s g => setDirty s g.lo)
            (runs.foldl (fun s r => (devWrite s 6 (base + r.1) r.2).2) s))))))
  ∧ (∀ (o : Nat) (b : Byte) (bs : List Byte), bar2Runs o ((b :: bs).map some) = [(o, b :: bs)])
  ∧ (∀ (s : State) (f o n : Nat), Safety.powered s →
    (bar2There s f = false → exec (.bar2Read f o n) s = .next (unsupported s))
    ∧ (bar2There s f = true → failsafe s = true → exec (.bar2Read f o n) s = .next (send s .completerAbort)))
  ∧ (∀ (s : State) (l : Nat), Safety.powered s →
    exec (.deviceReadCompletion l none) s = .next { s with hif := { s.hif with badReads := ndel s.hif.badReads l } }
    ∧ (∀ e, e = AerError.completerAbort ∨ e = AerError.unsupportedRequest →
      exec (.deviceReadCompletion l (some e)) s = .next { s with hif := { s.hif with badReads := nins s.hif.badReads l } })
    ∧ (∀ e, failsafe s = false → e = AerError.poisonedTlp ∨ e = AerError.completionTimeout →
      exec (.deviceReadCompletion l (some e)) s = .next (send { s with hif := { s.hif with badReads := nins s.hif.badReads l } } (.aer e))))
  ∧ (∀ (s : State) (f v : Nat), Safety.powered s → failsafe s = false → recoveryId s = false → v < vectorCount f → f * 2048 + v ∈ s.hif.pba →
    (msixOpen s f v = true → exec (.msixPendingSend f v) s = .next (send (linkSend { s with hif := { s.hif with pba := ndel s.hif.pba (f * 2048 + v) } } 4) (.msix f v)))
    ∧ (msixOpen s f v = false → exec (.msixPendingSend f v) s = .next s))

/-- The configuration, link power, wake and reset rows of 16 and HIF_VF_WIN. -/
def Obligations.LinkAndFunctionRows : Prop :=
  (∀ (s : State) (f : Nat) (r : CfgReq), Safety.powered s →
    (fget s F.BOOT_STATUS.RESULT = 0 → exec (.pcieConfigRequest f r) s = .next (send s .requestRetry))
    ∧ (fget s F.BOOT_STATUS.RESULT = 1 → fnExists s f = false → failsafe s = false →
      exec (.pcieConfigRequest f r) s = .next (send (send s .unsupportedRequest) (.aer .unsupportedRequest)))
    ∧ (fget s F.BOOT_STATUS.RESULT ≠ 0 → fnExists s f = true → recoveryId s = false ∨ f = 0 → exec (.pcieConfigRequest f r) s = .next (send (cfgApply f r s).2 (.config (cfgApply f r s).1)))
    ∧ (fget s F.BOOT_STATUS.RESULT = 1 → fnExists s f = true →
      exec (.pcieConfigRequest f .identity) s = .next (send s (.config (natLe s.boot.image.vendor 2 ++ natLe 0x9600 2 ++ natLe s.boot.image.subVendor 2
        ++ natLe s.boot.image.subId 2 ++ natLe s.boot.image.classCode 3 ++ natLe s.boot.image.revision 1)))
      ∧ (∀ en mask, ∃ t, exec (.pcieConfigRequest f (.msixControl en mask)) s = .next t ∧ (fnCfg t f).msixEnable = en ∧ (fnCfg t f).fnMask = mask
        ∧ (fnCfg t f).memSpace = (fnCfg s f).memSpace ∧ ∀ g, g ≠ f → fnCfg t g = fnCfg s g)
      ∧ (∀ mse, ∃ t, exec (.pcieConfigRequest f (.command mse)) s = .next t ∧ (fnCfg t f).memSpace = mse
        ∧ (fnCfg t f).msixEnable = (fnCfg s f).msixEnable ∧ ∀ g, g ≠ f → fnCfg t g = fnCfg s g)
      ∧ (∀ en, ∃ t, exec (.pcieConfigRequest f (.ats en)) s = .next t ∧ (f ∈ t.xlt.atsEnabled ↔ en = true))))
  ∧ (∀ (s : State) (n : Nat), Safety.powered s → recoveryId s = false → 28 ≤ n → n ≤ 38 →
    ((fnCfg s 0).memSpace = false → ∃ t, exec (.resizableBarControlWrite false n) s = .next t ∧ (fnCfg t 0).bar2 = some n)
    ∧ ((fnCfg s 0).memSpace = true → exec (.resizableBarControlWrite false n) s = .next s)
    ∧ (s.hif.vfMemSpace = false → exec (.resizableBarControlWrite true n) s = .next { s with hif := { s.hif with vfBar2 := some n } })
    ∧ (s.hif.vfMemSpace = true → exec (.resizableBarControlWrite true n) s = .next s))
  ∧ (∀ (s : State) (up down : Nat), Safety.powered s → failsafe s = false →
    let w := fget s F.HIF_LINK.ACTIVE / 2
    (s.time ≠ 0 → s.time % 100000 = 0 → fget s F.HIF_LINK_CTL.L0P_EN = 1 → 2 ^ fget s F.HIF_LINK_CTL.L0P_MIN ≤ w →
      4 * up < laneBytes s w → 4 * down < laneBytes s w → fget s F.HIF_LINK.LSTATE ≤ 1 →
      exec (.l0pWindow up down true) s = .next (fset (fset { send s (.linkRequest false w) with hif := { (send s (.linkRequest false w)).hif with waiting := (0, 0) } } F.HIF_LINK.ACTIVE w) F.HIF_LINK.LSTATE 1)
      ∧ exec (.l0pWindow up down false) s = .next (send s (.linkRequest false w)))
    ∧ (fget s F.HIF_LINK_CTL.L1_IDLE_US ≠ 0 → fget s F.HIF_LINK.SPEED ≠ 0 → fget s F.HIF_LINK.LSTATE ≤ 1 → s.hif.pba = [] →
      exec (.l1IdleExpiry true) s = .next (fset (send s (.linkRequest true 0)) F.HIF_LINK.LSTATE 2)
      ∧ exec (.l1IdleExpiry false) s = .next (send s (.linkRequest true 0))))
  ∧ (∀ (s : State) (code detail : Nat), Safety.powered s → code ≠ 1 →
    ((code, detail) ∈ s.pwr.wakes → exec (.wakeEvent code detail) s = .next (wakeEvent (onPwr s fun p => { p with wakes := p.wakes.erase (code, detail) }) code detail))
    ∧ ((code, detail) ∉ s.pwr.wakes → exec (.wakeEvent code detail) s = .next s)
    ∧ exec (.wakeEvent 1 detail) s = .next (hostExit (wakeEvent s 1 0))
    ∧ rget (wakeEvent s code detail) .PWR_WAKE_TIME = s.time % 2 ^ 64
    ∧ (rget s .PWR_WAKE_TIME ≠ s.time ∨ fget s F.PWR_WAKE_CAUSE.CAUSE = 0 ∨ code < fget s F.PWR_WAKE_CAUSE.CAUSE →
      fget (wakeEvent s code detail) F.PWR_WAKE_CAUSE.CAUSE = code % 256)
    ∧ (rget s .PWR_WAKE_TIME = s.time → fget s F.PWR_WAKE_CAUSE.CAUSE ≠ 0 → fget s F.PWR_WAKE_CAUSE.CAUSE ≤ code →
      fget (wakeEvent s code detail) F.PWR_WAKE_CAUSE.CAUSE = fget s F.PWR_WAKE_CAUSE.CAUSE))
  ∧ (∀ s : State, Safety.powered s →
    let existing := (upFrom 1 15).filter fun f => fnExists s f
    (∀ f, f ≠ 0 → fnExists s f = true → failsafe s = false → (fnCfg s f).inFlr = false →
      let u := { s with hif := { s.hif with cfg := tset s.hif.cfg f { inFlr := true } } }
      exec (.vfFlr f) s = .next (flrEnd ((fnContexts u f).foldl (flrContext f) u) f))
    ∧ (∀ f, f ≠ 0 → fnExists s f = true → failsafe s = false → (fnCfg s f).inFlr = true → exec (.vfFlr f) s = .next s)
    ∧ (∀ f, f ≠ 0 → fnExists s f = true → failsafe s = true → exec (.vfFlr f) s = .next { s with hif := { s.hif with cfg := tdel s.hif.cfg f } })
    ∧ (∀ f, f = 0 ∨ fnExists s f = false → exec (.vfFlr f) s = .next s)
    ∧ (failsafe s = false → exec .vfEnableClear s = .next { existing.foldl flrStart s with hif := { (existing.foldl flrStart s).hif with vfEnable := false } })
    ∧ (∃ t, exec .vfEnableClear s = .next t ∧ t.hif.vfEnable = false)
    ∧ (failsafe s = true → exec .pfFlr s = .next (resetConfig s))
    ∧ (∃ t, exec .pfFlr s = .next t ∧ t.hif.cfg = [] ∧ t.hif.vfEnable = false ∧ t.hif.numVFs = 0))
  ∧ (∀ (s : State) (f v : Nat), 1 ≤ f → f ≤ 15 → Safety.writable s .HIF_VF_WIN 0 f →
    (95232 < bits v 37 21 + bits v 58 42 ∨ (s.hif.vfEnable = true ∧ s.hif.vfMemSpace = true) → exec (.hifVfWinWrite f v) s = .next s)
    ∧ (bits v 37 21 + bits v 58 42 ≤ 95232 → s.hif.vfMemSpace = false →
      (∀ g, 1 ≤ g → g ≤ 15 → g ≠ f → winsOverlap (bits v 37 21, bits v 58 42) (fget s F.HIF_VF_WIN.BASE 0 g, fget s F.HIF_VF_WIN.SIZE 0 g) = false) →
      exec (.hifVfWinWrite f v) s = .next (rset s .HIF_VF_WIN (Reg.written .HIF_VF_WIN (rget s .HIF_VF_WIN 0 f) v (2 ^ 64 - 1)) 0 f)))

/-- The lane scrambler of R467 is its own inverse from equal registers. -/
def Obligations.ScramblerInverse : Prop :=
  ∀ (r : List Nat) (b : List Byte), r.length = 8 →
    (scramble r (scramble r b).1).1 = b ∧ (scramble r (scramble r b).1).2 = (scramble r b).2 ∧ (scramble r b).1.length = b.length
      ∧ (scramble r b).2.length = 8

/-- The rows of the Uaper ports. -/
def Obligations.UaperPorts : Prop :=
  (∀ (s : State) (p : Nat) (raw : List Byte), p ≤ 1 → Safety.powered s → raw.length = 256 →
    let st := uapState s p
    let seeded := scramble prbsSeed raw
    let train : Bool := match checkFlit seeded.1 with | some d => decide ((readFlit d.1).1.ty = 2) | none => false
    let x := if train then seeded else scramble (portAt s p).rxPrbs raw
    let u := onPort s p fun y => { y with rxPrbs := x.2 }
    (domOn s (48 + p) = false ∨ st = 0 ∨ st = 4 ∨ st = 5 → exec (.uapFlitReceive p raw) s = .next s)
    ∧ (domOn s (48 + p) = true → st ≠ 0 → st ≠ 4 → st ≠ 5 →
      (∀ d fixed, checkFlit x.1 = some (d, fixed) → exec (.uapFlitReceive p raw) s = .next (uapListen (if fixed then fcount u F.UAP_ERR.FEC_CORRECTED 0 p else u) p d))
      ∧ (checkFlit x.1 = none → st ≠ 2 → exec (.uapFlitReceive p raw) s =
          .next (onPort u p fun y => { y with holds := 0, goods := 0, acked := if y.acked < 8 then 0 else y.acked }))
      ∧ (checkFlit x.1 = none → st = 2 → ∃ t, exec (.uapFlitReceive p raw) s = .next t
        ∧ fget t F.UAP_ERR.CRC_FAIL 0 p = Nat.min (fget s F.UAP_ERR.CRC_FAIL 0 p + 1) 0xFFFF
        ∧ (portAt t p).nak = true ∧ (portAt t p).rxLast = (portAt s p).rxLast ∧ (portAt t p).rxPrbs = x.2)
      ∧ (∀ d, st = 1 → checkFlit seeded.1 = some (d, false) → (readFlit d).1.ty = 2 → ∃ t, exec (.uapFlitReceive p raw) s = .next t
        ∧ rget t .UAP_PEER_ID 0 p = fieldAt (readFlit d).1.payload 0 8 ∧ (portAt t p).trains = (portAt s p).trains + 1)))
  ∧ (∀ (s : State) (p : Nat) (f : Flit) (a : FlitAck), uapState s p = 2 → f.ty = 1 →
    let u := uapAcked s p a
    let x := portAt u p
    uapState u p = 2 → x.credit0 + a.c0 ≤ 512 → x.credit1 + a.c1 ≤ 8 →
    let v := onPort u p fun x => { x with credit0 := x.credit0 + a.c0, credit1 := x.credit1 + a.c1 }
    (f.fseq ≠ (x.rxLast + 1) % 4096 → uapGood s p f a = onPort v p fun x => { x with ackDue := true })
    ∧ (f.fseq = (x.rxLast + 1) % 4096 → overGranted x f = true → uapGood s p f a = uapRecovery (uapProtocol v p) p)
    ∧ (f.fseq = (x.rxLast + 1) % 4096 → overGranted x f = false →
      uapGood s p f a = uapData (onPort v p fun x => { x with rxLast := f.fseq, nak := false, ackDue := true }) p f))
  ∧ (∀ (s : State) (p : Nat), p ≤ 1 → Safety.powered s → domOn s (48 + p) = true →
    let x := portAt s p
    (uapState s p = 1 ∨ uapState s p = 3 → x.acked < 8 → exec (.uapFlitTransmit p) s =
      .next (uapSend s p { ty := 2, payload := identBytes s p (decide (8 ≤ x.trains)) } {}))
    ∧ (uapState s p = 1 ∨ uapState s p = 3 → 8 ≤ x.acked → exec (.uapFlitTransmit p) s = .next (uapSend s p { ty := 0 } {}))
    ∧ (uapState s p = 0 ∨ uapState s p = 4 → exec (.uapFlitTransmit p) s = .next s)
    ∧ (uapState s p = 2 →
      let report0 : Bool := decide (p = 1) && receiveAllowed s
      let a : FlitAck := { seq := x.rxLast, nak := x.nak, valid := x.ackDue || x.nak, c0 := if report0 then x.freed0 else 0, c1 := x.freed1 }
      let n := uapNext s p
      let y := { n.2 with nak := false, ackDue := false, freed0 := if report0 then 0 else x.freed0, freed1 := 0 }
      let u := uapSend (onPort s p fun _ => y) p n.1 a
      exec (.uapFlitTransmit p) s = .next (if n.1.ty = 3 ∧ byteAt n.1.payload 0 = 3 then uapMove u p 4
        else if p = 0 ∧ x.tx0 ≠ [] ∧ y.tx0 = [] then hopSent u else u))
    ∧ (uapState s p = 5 → exec (.uapFlitTransmit p) s = .next (uapSend s p { ty := 4 } {}))
    ∧ (uapState s p = 6 → exec (.uapFlitTransmit p) s = .next (uapSend s p { ty := 0 } {}))
    ∧ (uapState s p = 2 → x.resend = 0 → x.mgmt = [] → x.tx1 = [] → x.tx0 = [] → ∃ t a, exec (.uapFlitTransmit p) s = .next t
      ∧ (portAt t p).lastSent = flitBytes { ty := 0 } a ∧ a.seq = x.rxLast ∧ a.nak = x.nak ∧ (portAt t p).replay = x.replay ∧ (portAt t p).nak = false)
    ∧ (∀ f rest, uapState s p = 2 → x.resend = 0 → x.replay.length < 512 → x.mgmt = [] → x.tx1 = f :: rest → 0 < x.credit1 → f.ty = 1 →
      ∃ t a, exec (.uapFlitTransmit p) s = .next t ∧ (portAt t p).lastSent = flitBytes { f with fseq := x.txNext } a
        ∧ (portAt t p).tx1 = rest ∧ (portAt t p).credit1 = x.credit1 - 1 ∧ (portAt t p).replay = x.replay ++ [{ f with fseq := x.txNext }]
        ∧ (portAt t p).txNext = (x.txNext + 1) % 4096))
  ∧ (∀ (s : State) (p : Nat), p ≤ 1 → Safety.powered s → uapState s p = 2 → (portAt s p).replay ≠ [] →
    let x := portAt s p
    (x.replays < 3 → exec (.uapReplayTimer p) s = .next (onPort (fcount s F.UAP_ERR.REPLAYS 0 p) p fun y =>
      { y with replays := y.replays + 1, resend := y.replay.length }))
    ∧ (3 ≤ x.replays → exec (.uapReplayTimer p) s = .next (uapMove (fcount (fcount s F.UAP_ERR.REPLAYS 0 p) F.UAP_ERR.RETRAINS 0 p) p 3)))
  ∧ (∀ (s : State) (p polarity : Nat) (reversed : Bool), p ≤ 1 → Safety.engines s →
    let u := uapTry s p
    let st := uapState u p
    let left := onPort u p fun x => { x with fails := (portAt u p).fails + 1, trains := 0, lastTrain := [], acked := 0, goods := 0 }
    (st ≠ 1 → st ≠ 3 → ∀ ok, exec (.uapTrainingComplete p ok reversed polarity) s = .next u)
    ∧ (st = 1 ∨ st = 3 →
      (1024 ≤ (portAt u p).goods → domOn u (48 + p) = true → exec (.uapTrainingComplete p true reversed polarity) s = .next (matchPeer (uapMove
        (fset (fset u F.UAP_STATUS.REVERSED (b2n reversed) 0 p) F.UAP_STATUS.POLARITY polarity 0 p) p 2) p))
      ∧ ((portAt u p).goods < 1024 ∨ domOn u (48 + p) = false → exec (.uapTrainingComplete p true reversed polarity) s = .next u)
      ∧ (st = 1 → exec (.uapTrainingComplete p false reversed polarity) s = .next u)
      ∧ (st = 3 → (portAt u p).fails < 2 → exec (.uapTrainingComplete p false reversed polarity) s = .next left)
      ∧ (st = 3 → 2 ≤ (portAt u p).fails → exec (.uapTrainingComplete p false reversed polarity) s =
          .next (uapTry (uapMove (fset (fcount left F.UAP_ERR.RETRAINS 0 p) F.UAP_STATUS.LINK_FAIL 1 0 p) p 0) p))))
  ∧ (∀ (s : State) (p : Nat), p ≤ 1 → Safety.writable s .UAP_CTL 0 p →
    exec (.uapCtlEnWrite p true) s = .next (uapTry (fset s F.UAP_CTL.EN 1 0 p) p)
    ∧ (∀ t, t = fset s F.UAP_CTL.EN 0 0 p →
      exec (.uapCtlEnWrite p false) s = .next (if uapState t p = 5 then t else uapMove t p 0))
    ∧ (uapState s p = 2 → (portAt s p).replay = [] → (∀ e ∈ s.seq.runs, e.2.ring = false) →
      exec (.uapSleepReq p) s = .next (onPort s p fun x => { x with asked := true, mgmt := x.mgmt ++ [2] }))
    ∧ (uapState s p ≠ 2 ∨ (portAt s p).replay ≠ [] ∨ (∃ e ∈ s.seq.runs, e.2.ring = true) → exec (.uapSleepReq p) s = .next s)
    ∧ (uapState s p = 4 → exec (.uapWake p) s =
      .next (uapTry (demand (onPort (send s (.wakePattern p)) p fun x => { x with waking := true }) (48 + p)) p))
    ∧ (uapState s p ≠ 4 → exec (.uapWake p) s = .next s))
  ∧ (∀ (s : State) (p : Nat), p ≤ 1 → Safety.powered s →
    (uapState s p = 4 → exec (.uapWakePatternDetect p) s =
      .next (uapWakeUp (wakeReport (uapIrq (fset s F.UAP_STATUS.WAKE_SEEN 1 0 p) p) 2 p) p false))
    ∧ (uapState s p ≠ 4 → exec (.uapWakePatternDetect p) s = .next s))

/-- The mailbox, loading, core-fault, Scheduler and Liaison rows. -/
def Obligations.MailboxAndFirmware : Prop :=
  (∀ (s : State) (c w : Nat) (a : CoreAccess),
    (∀ f, chHost c = some f → Safety.writable s (if c = 0 then .MBX_TX0 else .MBX_CMD) f 0 →
      (fnExists s f = true → exec (.mailboxSend c w a) s = .next (chStore s c w)) ∧ (fnExists s f = false → exec (.mailboxSend c w a) s = .next s))
    ∧ (c < 32 → chHost c = none → Safety.powered s →
      let u := coreSetup s (chSender c) a
      (coreRefused u (chSender c) c a true = true → exec (.mailboxSend c w a) s = .next u)
      ∧ (coreRefused u (chSender c) c a true = false → exec (.mailboxSend c w a) s = .next (chStore u c w))))
  ∧ (∀ (s : State) (c w : Nat), c < 32 → chReceiverOn s c = true →
    ((chan s c).full = false → (chan (chStore s c w) c).full = true ∧ (chan (chStore s c w) c).word = w % 2 ^ 32 ∧ ∀ d, d ≠ c → chan (chStore s c w) d = chan s d)
    ∧ ((chan s c).full = true → chStore s c w = chOverrun s c))
  ∧ (∀ (s : State) (c : Nat) (a : CoreAccess), c < 32 → Safety.powered s →
    (c = 1 ∨ 24 ≤ c → failsafe s = false → recoveryId s = false →
      exec (.mailboxReceiveRead c a) s = .next (send (chTake s c).2 (.completion (natLe (chTake s c).1 4) false)))
    ∧ (c ≠ 1 → c < 24 → failsafe s = false ∨ c ≠ 4 →
      let u := coreSetup s (chReceiver c) a
      (failsafe u = false → coreRefused u (chReceiver c) c a false = true → exec (.mailboxReceiveRead c a) s = .next u)
      ∧ (failsafe u = false → coreRefused u (chReceiver c) c a false = false → exec (.mailboxReceiveRead c a) s = .next (chTake u c).2))
    ∧ ((chan s c).full = true → chReceiverOn s c = true → chTake s c = ((chan s c).word, wordTaken (chEmpty s c) c (chan s c).word) ∧ (chan (chEmpty s c) c).full = false)
    ∧ ((chan s c).full = false → chTake s c = (0, s)))
  ∧ (∀ s : State, Safety.powered s → failsafe s = false → recoveryId s = false → (chan s 0).full = true → bits (chan s 0).word 31 24 = 1 →
    let u := (chTake s 0).2
    let tag := bits (chan s 0).word 23 16
    (fget u F.CCX_FW_STATE.STATE ≠ 0 → exec .fwLoad s = .next (loadReply u tag 7 .permission))
    ∧ (fget u F.CCX_FW_STATE.STATE = 0 → exec .fwLoad s = .next (loadSteps (fset (onCcx u fun x => { x with loading := some tag }) F.CCX_FW_STATE.STATE 1))))
  ∧ (∀ s : State,
    let a := rget s .CCX_FW_ADDR
    let e := hostLines s a 512
    let h := hostRead e.2 a 512
    let fails (r : Nat) (st : Status) : Prop := (loadSteps s).ccx.loadFail = some (r, st)
    (e.1 = true → fails 6 .integrityMismatch)
    ∧ (e.1 = false → fwHeaderBad h = true → fails 1 .badOpcode)
    ∧ (e.1 = false → fwHeaderBad h = false → fwSegmentsBad h = true → fails 2 .lengthRange)
    ∧ (e.1 = false → fwHeaderBad h = false → fwSegmentsBad h = false → sha384 (fwKey h) ≠ s.boot.image.keyHash → fails 3 .permission))
  ∧ (∀ (s : State) (tag : Nat), Safety.powered s → failsafe s = false → s.ccx.loading = some tag →
    let u := onCcx s fun x => { x with loading := none, loadFail := none }
    ((loadResult s).1 = 0 → exec .fwLoadDone s = .next (loadReply (fwStart u) tag 0 (loadResult s).2))
    ∧ ((loadResult s).1 ≠ 0 → exec .fwLoadDone s = .next (loadReply (fwAbandon u) tag (loadResult s).1 (loadResult s).2))
    ∧ (s.ccx.loadFail = none →
      (ecdsaOk (fwKey s.ccx.loadHeader) s.ccx.loadDigest (fwSignature s.ccx.loadHeader) = false → loadResult s = (4, .permission))
      ∧ (ecdsaOk (fwKey s.ccx.loadHeader) s.ccx.loadDigest (fwSignature s.ccx.loadHeader) = true →
        (fieldAt s.ccx.loadHeader 8 4 < s.boot.image.minVersion → loadResult s = (5, .permission))
        ∧ (s.boot.image.minVersion ≤ fieldAt s.ccx.loadHeader 8 4 → loadResult s = (0, .ok)))))
  ∧ (∀ s : State,
    (fget (fwStart s) F.CCX_FW_STATE.STATE = 2 ∧ (fwStart s).ccx.entry = (List.range 4).map (fun k => fieldAt s.ccx.loadHeader (16 + 8 * k) 8)
      ∧ (fwStart s).ccx.version = fieldAt s.ccx.loadHeader 8 4)
    ∧ fget (fwAbandon s) F.CCX_FW_STATE.STATE = 0 ∧ (∀ e ∈ (fwAbandon s).ccx.sram, 0x1F_0000 ≤ e.1))
  ∧ (∀ (s : State) (c : Nat), c < 4 → Safety.powered s →
    (fwActive s = true → s.ccx.wdog.getD c 0 ≠ 0 → exec (.ccxWatchdogExpiry c) s = .next (raiseBare s (0x128 + c) .watchdog 3 .none))
    ∧ exec (.ccxSramEccError c true) s = .next (fcount s F.CCX_SRAM_ECC.CORRECTED)
    ∧ exec (.ccxSramEccError c false) s = .next (raise s { time := 0, unit := 0x128 + c, status := .uncorrectableEcc, level := 3, context := none, function := none, detail := .memory 0 8 0xFF 0xFF 0xFF 0xFFFF 0xFFFF 0 0, fwLost := true }))
  ∧ (∀ s : State, Safety.powered s → fwActive s = true → ∀ t, t = readyTrim (chTake s 3).2 →
    ((chan t 4).full = true ∨ pickQueue t = none → exec .schedulerPickup s = .next t)
    ∧ (∀ i, (chan t 4).full = false → pickQueue t = some i → exec .schedulerPickup s = .next (chStore t 4 i)))
  ∧ (∀ (s : State) (v : Nat), Safety.powered s → fwRunning s = true → (chan s 5).full = false → v < 2 ^ 32 →
    let u := chEmpty (chSend s 5 v) 5
    (v = 1 → exec (.liaisonRequest v) s = .next (failsafeEnter u 10))
    ∧ (v = 2 → exec (.liaisonRequest v) s = .next (packageRecover u))
    ∧ (v ≠ 1 → v ≠ 2 → exec (.liaisonRequest v) s = .next u))

/-- The basic-level commands (17 R502, R507, R508) and the policies of 00 R15. The values of a policy whose ARGS have no layout are free (log 32). -/
def Obligations.BasicCommands : Prop :=
  (∀ (s : State) (c : Nat), Safety.powered s → fwActive s = true → s.ccx.cmd = none → nextChannel s = some c → ∃ t b, exec .basicCommandTake s = .next t
    ∧ t.ccx.cmd = some b ∧ b.fn = c - 8 ∧ b.word = (chan s c).word ∧ b.result = none ∧ (chan t c).full = false ∧ t.ccx.lastServed = c)
  ∧ (∀ (s : State) (b : BasicCmd) (logs : List LogMsg), Safety.powered s → fwActive s = true → s.ccx.cmd = some b →
    let u := onCcx s fun x => { x with cmd := none }
    (b.lost = true → exec (.basicCommandDone logs) s = .next (basicVector (fset (logAll u logs) F.MBX_CMD_STATUS.ERR 1 b.fn) b.fn))
    ∧ (∀ r, b.lost = false → b.result = some r → exec (.basicCommandDone logs) s = .next (basicVector
        (hostWrite (logAll u logs) (fget u F.CCX_CMD_BASE.BASE b.fn * 1024 + 64 * (b.word % 16) + 48) (resultRecord b r)) b.fn))
    ∧ (b.lost = false → b.result = none → exec (.basicCommandDone logs) s = .next s))
  ∧ (∀ (s : State) (b : BasicCmd), Safety.powered s → fwActive s = true → s.ccx.cmd = some b → b.result = none → b.lost = false →
    let op := bits b.word 31 24
    let ended (t : State) (result : Nat) (st : Status) : Out := .next (onCcx t fun x => { x with cmd := x.cmd.map fun b => { b with result := some (result, st) } })
    let cores := (List.range 4).countP fun c => decide (fget s F.CCX_CORE_STATUS.MODE 0 c = 1 ∨ fget s F.CCX_CORE_STATUS.MODE 0 c = 3)
    (op ∉ basicOpcodes → exec .basicUndefinedOpcode s = ended s 0 .badOpcode)
    ∧ (op = 0x02 → exec .fwInfo s = ended s (s.ccx.version % 2 ^ 32 + fget s F.CCX_FW_STATE.STATE <<< 32 + cores <<< 40) .ok)
    ∧ (b.fn ≠ 0 → ∀ m : ModeSet, m.output < 4 → m.stream / 2 = m.output →
      ∀ e ∈ ([(0x03, .logConfig), (0x10, .fePolicy), (0x11, .schPolicy), (0x12, .scPolicy), (0x13, .acePolicy), (0x14, .colPolicy), (0x15, .rasPolicy),
        (0x16, .truPolicy), (0x17, .seqPolicy), (0x18, .memPolicy), (0x19, .folPolicy), (0x1A, .xltPolicy), (0x1B, .intPolicy), (0x1C, .prsPolicy),
        (0x1D, .hifPolicy), (0x1E, .uapPolicy), (0x20, .dspModeSet m), (0x30, .pwrProfile)] : List (Nat × Instr)),
        op = e.1 → exec e.2 s = ended s 0 .permission)
    ∧ (b.fn = 0 →
      (op = 0x03 → exec .logConfig s = ended (logConfig b s).2 0 (logConfig b s).1)
      ∧ (op = 0x10 → exec .fePolicy s = ended (fePolicy b s).2 0 .ok)
      ∧ (op = 0x11 → exec .schPolicy s = ended (schPolicy b s).2 0 .ok)
      ∧ (op = 0x12 → exec .scPolicy s = ended (scPolicy b s).2 0 .ok)
      ∧ (op = 0x13 → exec .acePolicy s = ended (acePolicy b s).2 0 .ok)
      ∧ (op = 0x14 → exec .colPolicy s = ended (colPolicy b s).2 0 .ok)
      ∧ (op = 0x15 → exec .rasPolicy s = ended (rasPolicy b s).2 0 .ok)
      ∧ (op = 0x16 → exec .truPolicy s = ended (truPolicy b s).2 0 .ok)
      ∧ (op = 0x17 → exec .seqPolicy s = ended (seqPolicy b s).2 0 .ok)
      ∧ (op = 0x18 → exec .memPolicy s = ended (memPolicy b s).2 0 .ok)
      ∧ (op = 0x19 → exec .folPolicy s = ended (folPolicy b s).2 0 .ok)
      ∧ (op = 0x1A → exec .xltPolicy s = ended (xltPolicy b s).2 0 .ok)
      ∧ (op = 0x1B → exec .intPolicy s = ended (intPolicy b s).2 0 .ok)
      ∧ (op = 0x1C → exec .prsPolicy s = ended (prsPolicy b s).2 0 .ok)
      ∧ (op = 0x1D → exec .hifPolicy s = ended (hifPolicy b s).2 0 .ok)
      ∧ (op = 0x1E → exec .uapPolicy s = ended (uapPolicy b s).2 0 .ok)
      ∧ (∀ m : ModeSet, m.output < 4 → m.stream / 2 = m.output → op = 0x20 →
        exec (.dspModeSet m) s = ended (modeSet m b s).2 0 (modeSet m b s).1 ∧ (domOn s 42 = false → modeSet m b s = (.domainOff, s)))
      ∧ (op = 0x30 → exec .pwrProfile s = ended (pwrProfile b s).2 0 (pwrProfile b s).1)
      ∧ ((profileOk s (profileOf b s) = true → (pwrProfile b s).1 = .ok) ∧ (profileOk s (profileOf b s) = false → pwrProfile b s = (.lengthRange, s)))
      ∧ (b.defaults = false → (2 ^ 20 ≤ fieldAt b.record 0 8 → (logConfig b s).1 = .ok) ∧ (fieldAt b.record 0 8 < 2 ^ 20 → logConfig b s = (.badAlignment, s)))
      ∧ (b.defaults = true → domOn s 40 = true → rget (colPolicy b s).2 .COL_CTL = 32768 <<< 16 + 64 ∧ rget (rasPolicy b s).2 .RAS_CTL = 4096 <<< 16 + 16)
      ∧ (b.defaults = true → domOn s 41 = true → fget (acePolicy b s).2 F.ACE_CTL.MIN_BANKS = 2)))

/-- The rows of the power domains. -/
def Obligations.PowerDomains : Prop :=
  (∀ (s : State) (d v : Nat), d < 50 → Safety.writable s .PWR_DOM_CTL 0 d →
    let barred : Prop := v % 4 = 3 ∨ (bit v 2 = true ∧ (autoAllowed d = false ∨ flag s F.PWR_DOM_CTL.AUTO 0 d = true))
    let a := fset s F.PWR_DOM_CTL.AUTO (b2n (bit v 2)) 0 d
    let orphan : Prop := v % 4 = 0 ∧ domOn a d = false ∧ 16 ≤ d ∧ d < 32 ∧ domOn a (d - 16) = false
    let t := domStatus (fset a F.PWR_DOM_CTL.TARGET (v % 4) 0 d) d .ok
    (barred → exec (.pwrDomCtlWrite d v) s = .next s)
    ∧ (¬ barred → domPhase s d = none →
      (orphan → exec (.pwrDomCtlWrite d v) s = .next (domStatus a d .permission))
      ∧ (¬ orphan → v % 4 = domNow t d ∨ (domNow t d = 2 ∧ v % 4 = 1) → exec (.pwrDomCtlWrite d v) s = .next t)
      ∧ (v % 4 ≠ 0 → v % 4 ≠ domNow t d → ¬ (domNow t d = 2 ∧ v % 4 = 1) →
        exec (.pwrDomCtlWrite d v) s = .next (onPwr (fset t F.PWR_DOM_CTL.PENDING 1 0 d) fun x => { x with phases := tset x.phases d (.quiescing (v % 4)) }))
      ∧ (¬ orphan → v % 4 = 0 → domNow t d ≠ 0 → exec (.pwrDomCtlWrite d v) s = .next (domUp t d)))
    ∧ (¬ barred → ∀ p, domPhase s d = some p →
      (∀ k, p = .quiescing k → v % 4 = 0 → ∃ u, exec (.pwrDomCtlWrite d v) s = .next u ∧ domPhase u d = none
        ∧ tget u.pwr.heldWrites d = none ∧ fget u F.PWR_DOM_CTL.PENDING 0 d = 0 ∧ fget u F.PWR_DOM_CTL.TARGET 0 d = 0 ∧ fget u F.PWR_DOM_CTL.STATUS 0 d = 0)
      ∧ ((∀ k, p ≠ .quiescing k) ∨ v % 4 ≠ 0 →
        exec (.pwrDomCtlWrite d v) s = .next (onPwr s fun x => { x with heldWrites := tset x.heldWrites d v }))))
  ∧ (∀ (s : State) (d k : Nat), Safety.powered s → domPhase s d = some (.quiescing k) →
    (quiesced s d k = true → exec (.domainQuiesced d) s = .next (latchPads (setPhase s d (.falling k)) d))
    ∧ (quiesced s d k = false → exec (.domainQuiesced d) s = .next s))
  ∧ (∀ (s : State) (d k : Nat), d < 50 → k < 3 → Safety.powered s → domPhase s d = some (.falling k) →
    exec (.domainDownDone d) s = .next (domSettled (domDown s d k) d) ∧ domNow (domDown s d k) d = k ∧ domPhase (domDown s d k) d = none)
  ∧ (∀ (s : State) (d : Nat), d < 50 → Safety.powered s → domPhase s d = some .ramping →
    (d < 32 ∨ 40 ≤ d ∨ domNow s d ≠ 2 → exec (.powerGoodRise d) s = .next (setPhase s d .initialising))
    ∧ (32 ≤ d → d < 36 → domNow s d = 2 → ∃ t, exec (.powerGoodRise d) s = .next t ∧ domPhase t d = some .initialising
      ∧ ∀ k, k < 8 → fget t F.L2_SLICE_STATUS.STATE 0 (8 * (d - 32) + k) = 1)
    ∧ (36 ≤ d → d < 40 → domNow s d = 2 → exec (.powerGoodRise d) s = .next (fset (setPhase s d .initialising) F.MEM_STACK_STATUS.STATE 3 0 (d - 36)))
    ∧ exec (.powerGoodTimeout d) s = .next (domSettled (raiseBare (domStatus (endPhase s d) d .domainOff) 0x12F .domainOff 0 (.system 6 d 0 0)) d))
  ∧ (∀ (s : State) (d : Nat), d < 50 → Safety.powered s → domPhase s d = some .initialising →
    (invalidating s d = true → exec (.domainUpDone d) s = .next s)
    ∧ (invalidating s d = false → exec (.domainUpDone d) s = .next (domSettled (domUpDone s d) d)
      ∧ (d < 44 → domNow (domUpDone s d) d = 0 ∧ domPhase (domUpDone s d) d = none)))
  ∧ (∀ (s : State) (d : Nat), d < 50 → Safety.powered s →
    (domOn s d = true → exec (.powerGoodLost d) s = .next (raise s { time := 0, unit := 0x12F, status := .uncorrectableEcc, level := if d < 32 then 5 else 6, context := none, function := none, detail := .system 6 d 0 0, target := some (if d < 32 then 8 * (d % 16) else 0x110) }))
    ∧ (domOn s d = false → exec (.powerGoodLost d) s = .next s)
    ∧ (fget s F.PWR_DOM_CTL.AUTO 0 d = 1 → domOn s d = true → domPhase s d = none → fget s F.PWR_AUTO_IDLE.IDLE_US ≠ 0 →
      (quiesced s d 2 = true → exec (.autoIdleExpiry d) s = .next (setPhase s d (.quiescing 2)))
      ∧ (quiesced s d 2 = false → exec (.autoIdleExpiry d) s = .next s)))
  ∧ (∀ (s : State) (v : Nat), Safety.writable s .PWR_PAD_RELEASE 0 0 → ∃ t, exec (.pwrPadReleaseWrite v) s = .next t
    ∧ ∀ b, b < 10 → bit (rget t .PWR_PAD_RELEASE) b = (bit (rget s .PWR_PAD_RELEASE) b && !(bit v b && domOn s (padDomain b))))

/-- The rows of Sillage, the loops and telemetry. -/
def Obligations.SillageAndLoops : Prop :=
  (∀ (s : State) (v : Nat), Safety.writable s .PWR_SILLAGE 0 0 →
    let new := Reg.written .PWR_SILLAGE (rget s .PWR_SILLAGE) v (2 ^ 31 - 1)
    let t := rset s .PWR_SILLAGE new
    (Reg.inRange .PWR_SILLAGE new = false → exec (.sillageEnter v) s = .next s)
    ∧ (Reg.inRange .PWR_SILLAGE new = true → sillage t ≠ 0 → exec (.sillageEnter v) s = .next t)
    ∧ (Reg.inRange .PWR_SILLAGE new = true → sillage t = 0 → sillageRefused t = true →
      exec (.sillageEnter v) s = .next (onPwr (fset t F.PWR_SILLAGE.REFUSED 1) fun p => { p with wakeSeen := false }))
    ∧ (Reg.inRange .PWR_SILLAGE new = true → sillage t = 0 → sillageRefused t = false →
      exec (.sillageEnter v) s = .next (stacksDown (fset (onPwr t fun p => { p with wakeSeen := false, hpdAtEntry := s.boot.hpd }) F.PWR_SILLAGE.STATE 1))))
  ∧ (∀ s : State, Safety.powered s → sillage s = 1 → stacksRest s = true → ∃ t, exec .sillageEntryDone s = .next t ∧ sillage t = 2
    ∧ fget t F.PWR_VDD.TARGET_MV = 550 ∧ t.pwr.ccxHalted = true ∧ t.pwr.sillageAt = s.time ∧ fget t F.PWR_WAKE_CAUSE.SAMPLES = 0)
  ∧ (∀ (s : State) (tj stack tach : Nat) (hpd : List Nat), Safety.powered s → failsafe s = false → sillage s = 2 → s.pwr.sillageAt ≤ s.time →
    (s.time - s.pwr.sillageAt) % (1000000 * fget s F.PWR_SILLAGE.INTERVAL_MS) = 0 →
    let t := fcount s F.PWR_WAKE_CAUSE.SAMPLES
    (105 < tj → exec (.sillageSample tj stack tach hpd) s = .next (failsafeEnter t 7))
    ∧ (tj ≤ 105 → fget t F.PWR_SILLAGE.TEMP_WAKE ≤ Nat.max tj stack → exec (.sillageSample tj stack tach hpd) s = .next (wakeReport t 4 0))
    ∧ (tj ≤ 105 → Nat.max tj stack < fget t F.PWR_SILLAGE.TEMP_WAKE →
      (tach < 300 → fget t F.PWR_SILLAGE.FAN_DUTY ≠ 0 → exec (.sillageSample tj stack tach hpd) s = .next (wakeReport t 5 0))
      ∧ (300 ≤ tach ∨ fget t F.PWR_SILLAGE.FAN_DUTY = 0 →
        (hpdDiffers t hpd = none → exec (.sillageSample tj stack tach hpd) s = .next t)
        ∧ ∀ n, hpdDiffers t hpd = some n → exec (.sillageSample tj stack tach hpd) s = .next (wakeReport (hpdSet t n (decide (n ∈ hpd))) 3 n))))
  ∧ (∀ s : State, Safety.powered s → failsafe s = false → sillage s = 3 → ∃ t, exec .wakeSequenceDone s = .next t ∧ sillage t = 0
    ∧ t.pwr.ccxHalted = false ∧ ∀ k, k < 4 → domOn t (36 + k) = true ∧ fget t F.MEM_STACK_STATUS.STATE 0 k = 0)
  ∧ (∀ (s : State) (logs : List LogMsg), Safety.powered s → fwActive s = true → sillage s = 0 →
    let r := readClears s .HIF_RATE_MIN
    let vmax := fget r F.PWR_LIMIT.V_MAX
    let v := Nat.max 550 (Nat.min vmax (loopStep r (fget r F.PWR_VDD.TARGET_MV)))
    let u := fset (onPwr r fun p => { p with loopTarget := v, throttled := decide (v < vmax) }) F.PWR_VDD.TARGET_MV v
    (v < vmax → r.pwr.throttled = false → exec (.powerLoopPeriod logs) s = .next (logAll (notice u 1 1 v) logs))
    ∧ (vmax ≤ v ∨ r.pwr.throttled = true → exec (.powerLoopPeriod logs) s = .next (logAll u logs))
    ∧ 550 ≤ v ∧ (550 ≤ vmax → v ≤ vmax))
  ∧ (∀ (s : State) (warn fanFault : Bool) (logs : List LogMsg), Safety.powered s → fwActive s = true → sillage s = 0 →
    (let w := if warn then notice (fanSet s) 2 2 (hottest (fanSet s)) else fanSet s
    let f := if fanFault then notice w 2 3 (fget w F.PWR_FAN.TACH / 16) else w
    exec (.thermalLoopPeriod warn fanFault logs) s = .next (logAll f logs))
    ∧ (fget s F.INT_HOLD.FAN = 1 → fanSet s = s)
    ∧ (fget s F.INT_HOLD.FAN = 0 → hottest s ≤ 50 → 60 ≤ fget s F.PWR_LIMIT.T_THROTTLE →
      fanSet s = fset s F.PWR_FAN.DUTY (fget s F.PWR_FAN.FAN_MIN))
    ∧ (fget s F.INT_HOLD.FAN = 0 → 60 ≤ fget s F.PWR_LIMIT.T_THROTTLE → fget s F.PWR_LIMIT.T_THROTTLE ≤ hottest s →
      fanSet s = fset s F.PWR_FAN.DUTY 100))
  ∧ (∀ (s : State) (a : Nat), Safety.powered s → s.time ≠ 0 → s.time % 1000 = 0 →
    (a ≤ fget s F.PWR_LIMIT.ICC_MAX → exec (.vddFastTrip a) s = .next s)
    ∧ (fget s F.PWR_LIMIT.ICC_MAX < a → exec (.vddFastTrip a) s = .next
      (fset (fcount s F.PWR_VDD.FAST_TRIPS) F.PWR_VDD.TARGET_MV (Nat.max 550 (fget s F.PWR_VDD.TARGET_MV - 25)))))
  ∧ (∀ (s : State) (p c mv tj tach : Nat) (temps : List Nat), Safety.powered s → s.time ≠ 0 → s.time % 1000 = 0 → temps.length = 4 → tach < 65536 →
    p < 1024 → c < 1024 → mv < 1024 → tj < 128 → ∃ t, exec (.telemetryWindow p c mv tj temps tach) s = .next t
      ∧ fget t F.PWR_TELEM.POWER_W = p ∧ fget t F.PWR_TELEM.CURRENT_A = c ∧ fget t F.PWR_TELEM.VDD_MV = mv ∧ fget t F.PWR_TELEM.TJ_MAX = tj
      ∧ fget t F.PWR_VDD.MEASURED_MV = mv ∧ fget t F.PWR_FAN.TACH = tach ∧ (maxD temps < 128 → fget t F.PWR_TELEM.STACK_MAX = maxD temps))
  ∧ (∀ (s : State) (v : Nat), (Safety.writable s .PWR_LIMIT 0 0 →
      let new := Reg.written .PWR_LIMIT (rget s .PWR_LIMIT) v (2 ^ 64 - 1)
      (fwRunning s = true ∨ limitOk s new = false → exec (.pwrLimitWrite false v) s = .next s)
      ∧ (fwRunning s = false → limitOk s new = true → exec (.pwrLimitWrite false v) s = .next (rset s .PWR_LIMIT new)))
    ∧ (Safety.writable s .PWR_FAN 0 0 →
      (fwRunning s = true → exec (.pwrLimitWrite true v) s = .next s)
      ∧ (fwRunning s = false → exec (.pwrLimitWrite true v) s = .next (rset s .PWR_FAN (Reg.written .PWR_FAN (rget s .PWR_FAN) v (2 ^ 64 - 1))))))

/-- The rows of power-on, the image and the pins. -/
def Obligations.PowerOnAndPins : Prop :=
  (∀ s : State,
    (s.boot.aonPgood = false → ∃ t, exec .aonPgoodRise s = .next t ∧ t.boot.aonPgood = true ∧ t.time = 0 ∧ t.boot.flash = s.boot.flash
      ∧ t.hostMem = s.hostMem ∧ rget t .BOOT_FUSE = rget s .BOOT_FUSE ∧ fget t F.BOOT_STATUS.RESULT = 0
      ∧ (s.boot.perst = false → s.boot.corePgood = true → ∀ d, d < 50 → domOn t d = decide (d = 41 ∨ (32 ≤ d ∧ d ≤ 39))))
    ∧ (s.boot.aonPgood = true → exec .aonPgoodRise s = .next s)
    ∧ (s.boot.aonPgood = true → ∃ t, exec .aonPgoodFall s = .next t ∧ t.boot.aonPgood = false ∧ t.hostMem = s.hostMem
      ∧ t.mem = State.reset.mem ∧ (s.boot.op = none → t.boot.flash = s.boot.flash) ∧ ∀ d, d < 50 → domNow t d = 2)
    ∧ (s.boot.aonPgood = false → exec .aonPgoodFall s = .next s))
  ∧ (∀ (s : State) (speed width : Nat) (flit : Bool), Safety.powered s → fget s F.BOOT_STATUS.RESULT = 0 → fget s F.BOOT_STATUS.LINK_READY = 0 →
    let h := flashRead s 0 320
    (imageHeaderBad h = true ∨ directoryBad h = true → exec (.imageLinkReady speed width flit) s = .next s)
    ∧ (imageHeaderBad h = false → directoryBad h = false → (crcBad s ((dirUsed h).filter fun e => decide (e.id < 3))).isNone = true →
      let m := onBoot s fun b => { b with image := takeSections s ((dirUsed h).filter fun e => decide (e.id < 3)) b.image }
      exec (.imageLinkReady speed width flit) s = .next (linkTrain (fset m F.BOOT_STATUS.LINK_READY 1) speed width flit))
    ∧ (imageHeaderBad h = false → directoryBad h = false → (crcBad s ((dirUsed h).filter fun e => decide (e.id < 3))).isSome = true →
      exec (.imageLinkReady speed width flit) s = .next s))
  ∧ (∀ (s : State) (speed width : Nat) (flit : Bool), Safety.powered s → fget s F.BOOT_STATUS.RESULT ≠ 0 ∨ fget s F.BOOT_STATUS.LINK_READY = 1 →
    exec (.imageLinkReady speed width flit) s = .next s)
  ∧ (∀ (s : State) (err flit : Bool) (speed width : Nat), Safety.powered s →
    (fget s F.BOOT_STATUS.RESULT ≠ 0 → exec (.imageVerifyDone err speed width flit) s = .next s)
    ∧ (fget s F.BOOT_STATUS.RESULT = 0 →
      (∀ r i, imageReason s err = (r, i) → r ≠ 0 →
        let u := takeRecoveryId s r i
        (fget u F.HIF_LINK.SPEED ≠ 0 → exec (.imageVerifyDone err speed width flit) s = .next u)
        ∧ (fget u F.HIF_LINK.SPEED = 0 → exec (.imageVerifyDone err speed width flit) s = .next (linkTrain u speed width flit))
        ∧ (r < 8 → i < 16 → fget u F.BOOT_STATUS.RESULT = 2 ∧ fget u F.BOOT_STATUS.REASON = r ∧ fget u F.BOOT_STATUS.SECTION = i
          ∧ ∀ d, d < 50 → domOn u d = false))
      ∧ (imageReason s err = (0, 0) →
        let u := fset (fset s F.BOOT_STATUS.RESULT 1) F.BOOT_STATUS.KEY_SLOT (imageSlot s (flashRead s 0 320))
        (fget s F.BOOT_STATUS.LINK_READY = 0 → exec (.imageVerifyDone err speed width flit) s = .next s)
        ∧ (fget s F.BOOT_STATUS.LINK_READY = 1 → exec (.imageVerifyDone err speed width flit) s =
          .next (applyImage (onBoot u fun b => { b with image := takeSections u (dirUsed (flashRead s 0 320)) b.image }))))))
  ∧ (∀ s : State,
    (s.boot.perst = true → exec .perstNAssert s = .next s)
    ∧ (s.boot.perst = false → Safety.powered s →
      let u := packageReset (onBoot (flashAbandon s) fun b => { b with perst := true })
      exec .perstNAssert s = .next (wakeReport u 1 0) ∧ u.boot.perst = true ∧ u.time = s.time ∧ ∀ d, d < 50 → domOn u d = false)
    ∧ (s.boot.perst = false → s.boot.aonPgood = false → exec .perstNAssert s = .next (onBoot s fun b => { b with perst := true }))
    ∧ (∀ speed width flit,
      let u := onBoot s fun b => { b with perst := false, wakeN := false }
      (s.boot.perst = false → exec (.perstNDeassert speed width flit) s = .next s)
      ∧ (s.boot.perst = true → s.boot.aonPgood = false → exec (.perstNDeassert speed width flit) s = .next u)
      ∧ (s.boot.perst = true → Safety.powered s →
        (failsafe s = true → exec (.perstNDeassert speed width flit) s = .next (linkTrain u speed width flit))
        ∧ (failsafe s = false → exec (.perstNDeassert speed width flit) s = .next (linkTrain (resetDomains u) speed width flit))))
    ∧ (s.boot.corePgood = true → exec .corePgoodRise s = .next s)
    ∧ (s.boot.corePgood = false →
      let u := onBoot s fun b => { b with corePgood := true }
      (Safety.powered s → failsafe s = false → exec .corePgoodRise s = .next (resetDomains u))
      ∧ (failsafe s = true ∨ s.boot.aonPgood = false → exec .corePgoodRise s = .next u))
    ∧ (s.boot.corePgood = false → exec .corePgoodFall s = .next s)
    ∧ (s.boot.corePgood = true →
      let u := onBoot s fun b => { b with corePgood := false }
      (Safety.powered s → exec .corePgoodFall s = .next (failsafeEnter u 6))
      ∧ (s.boot.aonPgood = false → exec .corePgoodFall s = .next u)))
  ∧ (∀ s : State, Safety.powered s →
    (∀ mv, s.boot.corePgood = true → mv < 550 ∨ 900 < mv → exec (.supplyOutOfRange mv) s = .next (failsafeEnter s 6))
    ∧ (∀ mv, s.boot.corePgood = false ∨ (550 ≤ mv ∧ mv ≤ 900) → exec (.supplyOutOfRange mv) s = .next s)
    ∧ (∀ c, 105 < c → sillage s ≠ 2 → exec (.junctionOverTemperature c) s = .next (failsafeEnter s 7))
    ∧ (∀ c, c ≤ 105 ∨ sillage s = 2 → exec (.junctionOverTemperature c) s = .next s)
    ∧ (∀ tj stack, 115 ≤ tj ∨ 110 ≤ stack → exec (.thermtripAssert tj stack) s = .next { s with boot := { s.boot with thermtrip := true } })
    ∧ (∀ tj stack, tj < 115 → stack < 110 → exec (.thermtripAssert tj stack) s = .next s))

/-- The rows of the flash, the fuses and SMBus. -/
def Obligations.FlashFusesAndSmbus : Prop :=
  (∀ (s : State) (n : Nat), Safety.writable s .BOOT_FLASH_CMD 0 0 → n < 256 → fget s F.BOOT_FLASH_RESULT.BUSY = 0 →
    let a := fget s F.BOOT_FLASH_ADDR.ADDR
    let starts (o : FlashOp) : Out := .next (fset { s with boot := { s.boot with op := some o } } F.BOOT_FLASH_RESULT.BUSY 1)
    (a % 256 ≠ 0 → exec (.flashRead n) s = .next (flashEnd s .badAlignment) ∧ exec (.flashProgram n) s = .next (flashEnd s .badAlignment))
    ∧ (a % 256 = 0 → n = 0 ∨ 16 < n ∨ s.boot.density < a + 256 * n →
      exec (.flashRead n) s = .next (flashEnd s .lengthRange) ∧ exec (.flashProgram n) s = .next (flashEnd s .lengthRange))
    ∧ (a % 256 = 0 → 1 ≤ n → n ≤ 16 → a + 256 * n ≤ s.boot.density →
      exec (.flashRead n) s = starts { op := 1, addr := a, pages := n } ∧ exec (.flashProgram n) s = starts { op := 2, addr := a, pages := n })
    ∧ (a % 65536 ≠ 0 → exec .flashErase s = .next (flashEnd s .badAlignment))
    ∧ (a % 65536 = 0 → a + 65536 ≤ s.boot.density → exec .flashErase s = starts { op := 3, addr := a, pages := 1 })
    ∧ (a % 65536 = 0 → s.boot.density < a + 65536 → exec .flashErase s = .next (flashEnd s .lengthRange))
    ∧ (n = 0 ∨ 3 < n → exec (.flashUndefinedOp n) s = .next (flashEnd s .badOpcode))
    ∧ (1 ≤ n → n ≤ 3 → exec (.flashUndefinedOp n) s = .next s))
  ∧ (∀ (s : State) (n : Nat), Safety.writable s .BOOT_FLASH_CMD 0 0 → fget s F.BOOT_FLASH_RESULT.BUSY = 1 →
    exec (.flashRead n) s = .next s ∧ exec (.flashProgram n) s = .next s ∧ exec .flashErase s = .next s ∧ exec (.flashUndefinedOp n) s = .next s)
  ∧ (∀ (s : State) (o : FlashOp), Safety.powered s → s.boot.op = some o →
    (o.op = 1 → exec .flashOpTimeout s = .next s)
    ∧ (o.abandoned = true → exec (.flashOpDone false) s = .next (flashEnd (flashPart s o) .watchdog))
    ∧ (o.op = 1 → o.abandoned = false → exec (.flashOpDone false) s = .next (flashEnd { s with boot := { s.boot with
      window := mwrite 0 s.boot.window 0 (flashRead s o.addr (256 * o.pages)) } } .ok))
    ∧ (o.op = 2 → o.abandoned = false → Memory.wf 0xFF s.boot.flash = true → ∃ t, exec (.flashOpDone false) s = .next t ∧ (∀ i, i < 256 →
        mread 0xFF t.boot.flash (o.addr + 256 * o.done + i) 1 = [(mread 0xFF s.boot.flash (o.addr + 256 * o.done + i) 1).headD 0
          &&& (mread 0 s.boot.window (256 * o.done + i) 1).headD 0])
      ∧ (o.done + 1 < o.pages → t.boot.op = some { o with done := o.done + 1 }) ∧ (o.pages ≤ o.done + 1 → t.boot.op = none))
    ∧ (o.op = 3 → o.abandoned = false → exec (.flashOpDone false) s = .next (flashEnd (flashPart s o) .ok))
    ∧ (o.op = 3 → o.abandoned = false → Memory.wf 0xFF s.boot.flash = true → ∃ t, exec (.flashOpDone false) s = .next t ∧ t.boot.op = none
      ∧ (∀ b, o.addr ≤ b → b < o.addr + 65536 → mread 0xFF t.boot.flash b 1 = [0xFF])
      ∧ ∀ b, b < o.addr ∨ o.addr + 65536 ≤ b → mread 0xFF t.boot.flash b 1 = mread 0xFF s.boot.flash b 1)
    ∧ (∃ t, exec (.flashOpDone true) s = .next t ∧ t.boot.op = none ∧ fget t F.BOOT_FLASH_RESULT.STATUS = Status.code .uncorrectableEcc
      ∧ fget t F.BOOT_FLASH_RESULT.BUSY = 0)
    ∧ (o.op ≠ 1 → ∃ t, exec .flashOpTimeout s = .next t ∧ t.boot.op = none ∧ fget t F.BOOT_FLASH_RESULT.STATUS = Status.code .watchdog))
  ∧ (∀ (s : State) (fail : Bool), Safety.powered s → s.boot.op = none → exec (.flashOpDone fail) s = .next s ∧ exec .flashOpTimeout s = .next s)
  ∧ (∀ (s : State) (m : Nat), Safety.writable s .BOOT_FUSE 0 0 → m < 16 →
    let new := fget s F.BOOT_FUSE.REVOKED ||| m
    (without (fget s F.BOOT_FUSE.PROGRAMMED) new = 0 → exec (.bootFuseRevokeWrite m) s = .next s)
    ∧ (without (fget s F.BOOT_FUSE.PROGRAMMED) new ≠ 0 → ∃ t, exec (.bootFuseRevokeWrite m) s = .next t ∧ fget t F.BOOT_FUSE.REVOKED = new
      ∧ fget t F.BOOT_FUSE.PROGRAMMED = fget s F.BOOT_FUSE.PROGRAMMED))
  ∧ (∀ s : State, Safety.powered s →
    exec .smbusTelemetryRead s = .next (send s (.smbus (some (8 :: natLe (rget s .PWR_TELEM) 8))))
    ∧ exec .smbusBootStatusRead s = .next (send s (.smbus (some (natLe (bits (rget s .BOOT_STATUS) 31 24) 1))))
    ∧ (recoveryId s = true → exec .smbusMailboxRead s = .next (send s (.smbus none)) ∧ ∀ b, exec (.smbusMailboxWrite b) s = .next (send s (.smbus none)))
    ∧ (recoveryId s = false →
      ((chan s 7).full = false → exec .smbusMailboxRead s = .next (send s (.smbus (some [0]))))
      ∧ ((chan s 7).full = true → ∃ t, exec .smbusMailboxRead s = .next t
        ∧ t.hif.sent.getLast? = some (.smbus (some (4 :: natLe (chan s 7).word 4))) ∧ (chan t 7).full = false)
      ∧ (∀ b : List Byte, b.length = 4 → (chan s 6).full = false → ∃ t, exec (.smbusMailboxWrite b) s = .next t ∧ (chan t 6).full = true
        ∧ (chan t 6).word = fieldAt b 0 4 ∧ t.hif.sent.getLast? = some (.smbus (some [])))
      ∧ (∀ b : List Byte, b.length ≠ 4 ∨ (chan s 6).full = true → exec (.smbusMailboxWrite b) s = .next (send s (.smbus none)))))

/-- R9 and R11 for every field of every register. -/
def Obligations.RegisterWriteBits : Prop :=
  ∀ (r : Reg) (f : FieldDesc) (old v words b : Nat), f ∈ Reg.fields r → f.lo ≤ b → b ≤ f.hi →
    let new := r.written old v words
    (f.acc = .rw ∨ f.acc = .wo → bit new b = if bit words b then bit v b else bit old b)
    ∧ (f.acc = .ro ∨ f.acc = .rc → bit new b = bit old b)
    ∧ (f.acc = .w1c → bit new b = (bit old b && !(bit words b && bit v b)))
    ∧ (f.acc = .w1s → bit new b = (bit old b || (bit words b && bit v b)))

/-- REGISTER_WRITE (R6 to R9). -/
def Obligations.RegisterWrites : Prop :=
  ∀ (s : State) (f off v : Nat) (lost : Bool),
    (fnExists s f = false ∨ (fnCfg s f).inFlr = true → ∀ n, exec (.registerWrite f off n v lost) s = .next s)
    ∧ (fnExists s f = true → (fnCfg s f).inFlr = false →
      (∀ n, Safety.powered s → ¬ (n = 32 ∧ off % 4 = 0) → ¬ (n = 64 ∧ off % 8 = 0) →
        exec (.registerWrite f off n v lost) s = .next (unsupported s)
        ∧ (failsafe s = false → unsupported s = send (send s .unsupportedRequest) (.aer .unsupportedRequest)))
      ∧ (off % 4 = 0 → findReg f off = none → off < 0x1_0000 ∨ 0x1_8000 ≤ off → f ≠ 0 ∨ off < 0xD4_0000 ∨ 0xE0_0000 ≤ off →
        f ≠ 0 ∨ off / 4096 ≠ 0x1501 → exec (.registerWrite f off 32 v lost) s = .next s)
      ∧ (∀ r w i, off % 4 = 0 → v < 2 ^ 32 → findReg f off = some (r, w, i, 0) → r.place.width ≠ 64 →
        exec (.registerWrite f off 32 v lost) s = regTo r w i v (2 ^ 32 - 1) s)
      ∧ (∀ r w i k, off % 4 = 0 → v < 2 ^ 32 → findReg f off = some (r, w, i, k) → r.place.width = 64 →
        exec (.registerWrite f off 32 v lost) s = regTo r w i (v <<< (32 * k)) ((2 ^ 32 - 1) <<< (32 * k)) s)
      ∧ (∀ r w i, off % 8 = 0 → v < 2 ^ 64 → findReg f off = some (r, w, i, 0) → r.place.width = 64 →
        exec (.registerWrite f off 64 v lost) s = regTo r w i v (2 ^ 64 - 1) s)
      ∧ (∀ r w i k, findReg f off = some (r, w, i, k) → Safety.writable s r w i →
        r ∉ ([.FE_QCMD, .FE_OBJ_CMD, .FE_PART, .SCH_GCMD, .SCH_RESERVE, .SCH_PREEMPT_CTL, .SCH_DL_BUDGET, .SCH_SCRATCH, .SCH_DISCARD, .SC_REPLAY, .TRU_CMD,
          .TRU_SLOT_CFG, .SEQ_SCMD, .SEQ_KV_POOL, .SEQ_EVT_CI, .SEQ_PART, .SEQ_RING_CFG, .L2_MAINT_CMD, .FOL_BANK, .XLT_INV_CMD, .XLT_VM_CFG, .INT_FAILSAFE,
          .INT_HOLD, .INT_RECOVER, .INT_INJECT, .DSP_OUT_CTL, .DSP_AUX_CMD, .DSP_COMMIT, .UAP_CTL, .MBX_CMD, .MBX_TX0, .HIF_VF_WIN, .PWR_DOM_CTL,
          .PWR_PAD_RELEASE, .PWR_LIMIT, .PWR_FAN, .PWR_SILLAGE, .BOOT_FUSE, .BOOT_FLASH_CMD] : List Reg) →
        (off % 4 = 0 → v < 2 ^ 32 → k = 0 → r.place.width ≠ 64 →
          exec (.registerWrite f off 32 v lost) s = .next (regStore s r w i v (2 ^ 32 - 1)))
        ∧ (off % 4 = 0 → v < 2 ^ 32 → r.place.width = 64 →
          exec (.registerWrite f off 32 v lost) s = .next (regStore s r w i (v <<< (32 * k)) ((2 ^ 32 - 1) <<< (32 * k))))
        ∧ (off % 8 = 0 → v < 2 ^ 64 → k = 0 → r.place.width = 64 →
          exec (.registerWrite f off 64 v lost) s = .next (regStore s r w i v (2 ^ 64 - 1))))
      ∧ (∀ r w i, off % 8 = 0 → v < 2 ^ 64 → findReg f off = some (r, w, i, 0) → r.place.width ≠ 64 → ∀ t,
        exec (.registerWrite f off 32 (v % 2 ^ 32) lost) s = .next t → (fnCfg t f).inFlr = false → fnExists t f = true →
        exec (.registerWrite f off 64 v lost) s = exec (.registerWrite f (off + 4) 32 (v / 2 ^ 32) lost) t))

/-- A device without AON power stays as it is until AON power rises (R24, R545). -/
def Obligations.DarkDeviceStaysDark : Prop :=
  ∀ s t : State, Safety.dark s → step s = .next t →
    Safety.dark t ∧ t.regs = s.regs ∧ t.hostMem = s.hostMem ∧ t.boot.flash = s.boot.flash ∧ t.hif.sent = s.hif.sent

/-- Where the invariants of DarkDeviceStaysDark and StepKeepsCanonical begin. -/
def Obligations.InvariantsStart : Prop :=
  ((∀ s : State, Safety.powered s → Instr.aonPgoodRise ∉ s.pending → ∃ t, exec .aonPgoodFall s = .next t ∧ Safety.dark t)
    ∧ ¬ Safety.dark State.reset)
  ∧ (Safety.canonical State.reset)

/-- The form of the memories (equal contents are equal data), the queue, the sent messages and the free values, over every command. -/
def Obligations.StepKeepsCanonical : Prop :=
  ∀ s t : State, Safety.canonical s → step s = .next t →
    Safety.canonical t ∧ t.pending = s.pending.tail ∧ s.freeCtr ≤ t.freeCtr ∧ ∃ l, t.hif.sent = s.hif.sent ++ l

/-- R24: the time base is set to zero by the AON power-on reset and by nothing else, and counts while AON power is on; the tick as the step of an empty queue is the model's (log 1). -/
def Obligations.TimeBase : Prop :=
  ((∀ (c : Instr) (s t : State), c ≠ .aonPgoodRise → c ≠ .aonPgoodFall → exec c s = .next t → t.time = s.time)
    ∧ ∀ s : State, s.boot.aonPgood = false → ∃ t, exec .aonPgoodRise s = .next t ∧ t.time = 0)
  ∧ (∀ s : State, s.pending = [] →
      (s.boot.aonPgood = true → step s = .next { s with time := (s.time + 1) % 2 ^ 64 })
      ∧ (s.boot.aonPgood = false → step s = .next s))
end

