-- ==== Sys2Proof/Laws/Gate.lean ====
section
/-!
SUPPORT. Laws/Gate.lean: what the three gates answer, and when they turn a command away.
-/

namespace Sys2Proof.Laws

open Machine

/-- A powered event happens. -/
theorem powered_next {s : State} (h : Safety.powered s) (t : State) : powered s t = .next t := by
  have h' : s.boot.aonPgood = true := h
  simp [powered, h']

/-- With AON power off an event changes nothing. -/
theorem powered_off {s : State} (h : s.boot.aonPgood = false) (t : State) : powered s t = .next s := by
  simp [powered, h]

/-- A step of an engine that runs happens. -/
theorem engineStep_next {s : State} (h : Safety.engines s) (k : State → State) : engineStep s k = .next (k s) := by
  obtain ⟨h1, h2, h3⟩ := h
  simp [engineStep, h2, h3, powered_next h1]

/-- A step of a unit that is not under recovery happens. -/
theorem unitStep_next {s : State} {u : Nat} (h : Safety.unitRuns s u) (k : State → State) : unitStep s u k = .next (k s) := by
  simp [unitStep, engineStep_next h.1, h.2]

/-- A taken register write does what it does. -/
theorem busWrite_next {s : State} {r : Reg} {w i : Nat} (h : Safety.writable s r w i) (k : State → State) :
    busWrite s r w i k = .next (k s) := by
  obtain ⟨h1, h2, h3, h5, h4⟩ := h
  unfold busWrite
  split
  · rename_i hc; simp [h2, h3, h5] at hc
  · split
    · rename_i d hd; rw [hd] at h4; simp [h4, powered_next h1]
    · exact powered_next h1 _

/-- Every gate answers a next state. -/
theorem powered_answers (s t : State) : ∃ u, powered s t = .next u := ⟨_, rfl⟩

/-- Every step of an engine answers a next state. -/
theorem engineStep_answers (s : State) (k : State → State) : ∃ u, engineStep s k = .next u := by
  unfold engineStep powered
  split <;> exact ⟨_, rfl⟩

/-- Every register write answers a next state. -/
theorem busWrite_answers (s : State) (r : Reg) (w i : Nat) (k : State → State) : ∃ u, busWrite s r w i k = .next u := by
  unfold busWrite powered
  repeat' split
  all_goals exact ⟨_, rfl⟩

end Sys2Proof.Laws
end

