-- ==== Sys2Proof/Laws/PerInstr.lean ====
section
/-!
SUPPORT. Laws/PerInstr.lean: no statement is made of the commands one by one as syntax.
-/

namespace Sys2Proof.Laws

end Sys2Proof.Laws
end

