-- ==== Sys2Proof/Laws/Table.lean ====
section
/-!
SUPPORT. Laws/Table.lean: reading after writing in a sparse table and in a memory, and the canonical form that every operation keeps.
-/

namespace Sys2Proof.Laws

open Machine

variable {α : Type}

/-- Reading what was set. -/
@[simp] theorem tget_tset_same (t : Tbl α) (k : Nat) (v : α) : tget (tset t k v) k = some v := by
  induction t with
  | nil => simp [tset, tget]
  | cons e t ih =>
    obtain ⟨a, w⟩ := e
    unfold tset
    split
    · simp [tget]
    · split
      · simp [tget]
      · rename_i h1 h2; simp [tget, h2, ih]

/-- Setting one key leaves every other. -/
theorem tget_tset_ne (t : Tbl α) {k q : Nat} (v : α) (h : q ≠ k) : tget (tset t k v) q = tget t q := by
  induction t with
  | nil => simp [tset, tget, h]
  | cons e t ih =>
    obtain ⟨a, w⟩ := e
    unfold tset
    split
    · simp [tget, h]
    · split
      · rename_i h1 h2; subst h2
        simp [tget, h]
      · simp only [tget, ih]

/-- What was deleted is not listed. -/
@[simp] theorem tget_tdel_same (t : Tbl α) (k : Nat) : tget (tdel t k) k = none := by
  induction t with
  | nil => rfl
  | cons e t ih =>
    obtain ⟨a, w⟩ := e
    unfold tdel; split
    · exact ih
    · rename_i h1; simp [tget, h1, ih]

/-- Deleting one key leaves every other. -/
theorem tget_tdel_ne (t : Tbl α) {k q : Nat} (hq : q ≠ k) : tget (tdel t k) q = tget t q := by
  induction t with
  | nil => rfl
  | cons e t ih =>
    obtain ⟨a, w⟩ := e
    unfold tdel; split
    · rename_i h1; subst h1; simp [tget, hq, ih]
    · simp only [tget, ih]

/-- Changing one key. -/
@[simp] theorem tget_tmod_same (t : Tbl α) (k : Nat) (d : α) (f : α → α) : tget (tmod t k d f) k = some (f (tgetD t k d)) := by
  simp [tmod]

/-- Changing one key leaves every other. -/
theorem tget_tmod_ne (t : Tbl α) {k q : Nat} (d : α) (f : α → α) (h : q ≠ k) : tget (tmod t k d f) q = tget t q :=
  tget_tset_ne t _ h

/-- The first key of a table lies below the keys of the rest. -/
def Below (k : Nat) : Tbl α → Prop
  | [] => True
  | (a, _) :: _ => k < a

/-- A sorted table: its head lies below its sorted tail. -/
theorem sorted_cons {a : Nat} {w : α} {t : Tbl α} : Tbl.sorted ((a, w) :: t) = true ↔ Below a t ∧ Tbl.sorted t = true := by
  cases t with
  | nil => simp [Tbl.sorted, Below]
  | cons e t => obtain ⟨b, v⟩ := e; simp [Tbl.sorted, Below]

theorem below_tset {k q : Nat} {v : α} {t : Tbl α} (h : Below k t) (hq : k < q) : Below k (tset t q v) := by
  cases t with
  | nil => simp [tset, Below, hq]
  | cons e t =>
    obtain ⟨a, w⟩ := e
    simp only [Below] at h
    unfold tset; repeat' split
    all_goals simp [Below, hq, h]

/-- Setting keeps a table sorted. -/
theorem sorted_tset {t : Tbl α} {k : Nat} {v : α} (h : Tbl.sorted t = true) : Tbl.sorted (tset t k v) = true := by
  induction t with
  | nil => simp [tset, Tbl.sorted]
  | cons e t ih =>
    obtain ⟨a, w⟩ := e
    rw [sorted_cons] at h
    unfold tset; split
    · rename_i h1; rw [sorted_cons, sorted_cons]; exact ⟨h1, h⟩
    · split
      · rename_i h1; subst h1; rw [sorted_cons]; exact h
      · rename_i h1 h2; rw [sorted_cons]; exact ⟨below_tset h.1 (by omega), ih h.2⟩

theorem below_mono {a b : Nat} {t : Tbl α} (hab : a < b) (h : Below b t) : Below a t := by
  cases t with
  | nil => trivial
  | cons e t => exact Nat.lt_trans hab h

theorem below_tdel {k q : Nat} {t : Tbl α} (h : Below k t) (hs : Tbl.sorted t = true) : Below k (tdel t q) := by
  induction t with
  | nil => trivial
  | cons e t ih =>
    obtain ⟨a, w⟩ := e
    have h' := sorted_cons.1 hs
    unfold tdel; split
    · exact ih (below_mono h h'.1) h'.2
    · exact h

/-- Deleting keeps a table sorted. -/
theorem sorted_tdel {t : Tbl α} {k : Nat} (h : Tbl.sorted t = true) : Tbl.sorted (tdel t k) = true := by
  induction t with
  | nil => rfl
  | cons e t ih =>
    obtain ⟨a, w⟩ := e
    have h' := sorted_cons.1 h
    unfold tdel; split
    · exact ih h'.2
    · rw [sorted_cons]; exact ⟨below_tdel h'.1 h'.2, ih h'.2⟩

theorem below_filter {k : Nat} {t : Tbl α} (p : Nat × α → Bool) (h : Below k t) (hs : Tbl.sorted t = true) :
    Below k (t.filter p) := by
  induction t with
  | nil => trivial
  | cons e t ih =>
    obtain ⟨a, w⟩ := e
    have h' := sorted_cons.1 hs
    rw [List.filter_cons]; split
    · exact h
    · exact ih (below_mono h h'.1) h'.2

/-- Leaving out entries keeps a table sorted. -/
theorem sorted_filter {t : Tbl α} (p : Nat × α → Bool) (h : Tbl.sorted t = true) : Tbl.sorted (t.filter p) = true := by
  induction t with
  | nil => rfl
  | cons e t ih =>
    obtain ⟨a, w⟩ := e
    have h' := sorted_cons.1 h
    rw [List.filter_cons]; split
    · rw [sorted_cons]; exact ⟨below_filter p h'.1 h'.2, ih h'.2⟩
    · exact ih h'.2

/-! ### Memories -/

theorem all_tset {p : Nat × α → Bool} {t : Tbl α} {k : Nat} {v : α} (h : t.all p = true) (hv : p (k, v) = true) :
    (tset t k v).all p = true := by
  induction t with
  | nil => simp [tset, hv]
  | cons e t ih =>
    obtain ⟨a, w⟩ := e
    simp only [List.all_cons, Bool.and_eq_true] at h
    unfold tset; repeat' split
    all_goals simp_all

theorem all_tdel {p : Nat × α → Bool} {t : Tbl α} {k : Nat} (h : t.all p = true) : (tdel t k).all p = true := by
  induction t with
  | nil => rfl
  | cons e t ih =>
    obtain ⟨a, w⟩ := e
    simp only [List.all_cons, Bool.and_eq_true] at h
    unfold tdel; repeat' split
    all_goals simp_all

/-- A memory is canonical when its addresses rise and no byte listed is what an unlisted one reads as. -/
theorem wf_iff {d : Byte} {m : List Host.Cell} :
    Memory.wf d m = true ↔ Tbl.sorted m = true ∧ m.all (fun c => decide (c.2 ≠ d)) = true := by
  simp [Memory.wf]

/-- Writing a byte keeps a memory canonical. -/
theorem wf_mset {d : Byte} {m : List Host.Cell} {a : Nat} {b : Byte} (h : Memory.wf d m = true) : Memory.wf d (mset d m a b) = true := by
  rw [wf_iff] at h ⊢
  unfold mset; split
  · exact ⟨sorted_tdel h.1, all_tdel h.2⟩
  · rename_i hb; exact ⟨sorted_tset h.1, all_tset h.2 (by simp [hb])⟩

/-- Writing bytes keeps a memory canonical. -/
theorem wf_mwrite {d : Byte} {m : List Host.Cell} {a : Nat} {bs : List Byte} (h : Memory.wf d m = true) :
    Memory.wf d (mwrite d m a bs) = true := by
  induction bs generalizing m a with
  | nil => exact h
  | cons b bs ih => exact ih (wf_mset h)

/-- Losing bytes keeps a memory canonical. -/
theorem wf_filter {d : Byte} {m : List Host.Cell} (p : Host.Cell → Bool) (h : Memory.wf d m = true) : Memory.wf d (m.filter p) = true := by
  rw [wf_iff] at h ⊢
  refine ⟨sorted_filter p h.1, ?_⟩
  rw [List.all_eq_true] at h ⊢
  intro x hx
  exact h.2 x (List.mem_filter.1 hx).1

/-- A byte written is the byte read. -/
@[simp] theorem mget_mset_same (d : Byte) (m : List Host.Cell) (a : Nat) (b : Byte) : mget d (mset d m a b) a = b := by
  unfold mget mset tgetD; split
  · rename_i hb; rw [tget_tdel_same, hb]; rfl
  · simp

/-- Writing a byte leaves every other. -/
theorem mget_mset_ne (d : Byte) (m : List Host.Cell) {a q : Nat} (b : Byte) (hq : q ≠ a) :
    mget d (mset d m a b) q = mget d m q := by
  unfold mget mset tgetD; split
  · rw [tget_tdel_ne _ hq]
  · rw [tget_tset_ne _ _ hq]

/-- Bytes outside the stored ones read as before. -/
theorem mget_mwrite_outside {d : Byte} {m : List Host.Cell} {a q : Nat} {bs : List Byte}
    (hq : q < a ∨ a + bs.length ≤ q) : mget d (mwrite d m a bs) q = mget d m q := by
  induction bs generalizing m a with
  | nil => rfl
  | cons b bs ih =>
    simp only [List.length_cons] at hq
    rw [mwrite, ih (by omega), mget_mset_ne _ _ _ (by omega)]

/-- The stored bytes read back. -/
theorem mread_mwrite (d : Byte) (m : List Host.Cell) (a : Nat) (bs : List Byte) :
    mread d (mwrite d m a bs) a bs.length = bs := by
  induction bs generalizing m a with
  | nil => rfl
  | cons b bs ih =>
    simp only [List.length_cons, mread, mwrite]
    rw [ih, mget_mwrite_outside (by omega), mget_mset_same]

/-- Bytes read outside the stored ones are as before. -/
theorem mread_mwrite_outside {d : Byte} {m : List Host.Cell} {a q n : Nat} {bs : List Byte}
    (hq : q + n ≤ a ∨ a + bs.length ≤ q) : mread d (mwrite d m a bs) q n = mread d m q n := by
  induction n generalizing q with
  | zero => rfl
  | succ n ih => rw [mread, mread, ih (by omega), mget_mwrite_outside (by omega)]

@[simp] theorem length_mread (d : Byte) (m : List Host.Cell) (a n : Nat) : (mread d m a n).length = n := by
  induction n generalizing a with
  | zero => rfl
  | succ n ih => simp [mread, ih]

end Sys2Proof.Laws
end

