-- ==== Sys2Proof/Laws/State.lean ====
section
/-!
SUPPORT. Laws/State.lean: each field of the state after each update, so that no proof unfolds a record update.
-/

namespace Sys2Proof.Laws

open Machine

/-! ### onFe -/

@[simp] theorem onFe_pending (s : State) (f : Fe → Fe) : (onFe s f).pending = s.pending := rfl
@[simp] theorem onFe_time (s : State) (f : Fe → Fe) : (onFe s f).time = s.time := rfl
@[simp] theorem onFe_freeCtr (s : State) (f : Fe → Fe) : (onFe s f).freeCtr = s.freeCtr := rfl
@[simp] theorem onFe_regs (s : State) (f : Fe → Fe) : (onFe s f).regs = s.regs := rfl
@[simp] theorem onFe_hostMem (s : State) (f : Fe → Fe) : (onFe s f).hostMem = s.hostMem := rfl
@[simp] theorem onFe_int (s : State) (f : Fe → Fe) : (onFe s f).int = s.int := rfl
@[simp] theorem onFe_mem (s : State) (f : Fe → Fe) : (onFe s f).mem = s.mem := rfl
@[simp] theorem onFe_hif (s : State) (f : Fe → Fe) : (onFe s f).hif = s.hif := rfl
@[simp] theorem onFe_ports (s : State) (f : Fe → Fe) : (onFe s f).ports = s.ports := rfl
@[simp] theorem onFe_ccx (s : State) (f : Fe → Fe) : (onFe s f).ccx = s.ccx := rfl
@[simp] theorem onFe_pwr (s : State) (f : Fe → Fe) : (onFe s f).pwr = s.pwr := rfl
@[simp] theorem onFe_boot (s : State) (f : Fe → Fe) : (onFe s f).boot = s.boot := rfl
@[simp] theorem onFe_xlt (s : State) (f : Fe → Fe) : (onFe s f).xlt = s.xlt := rfl
@[simp] theorem onFe_fe (s : State) (f : Fe → Fe) : (onFe s f).fe = f s.fe := rfl
@[simp] theorem onFe_sc (s : State) (f : Fe → Fe) : (onFe s f).sc = s.sc := rfl
@[simp] theorem onFe_gfx (s : State) (f : Fe → Fe) : (onFe s f).gfx = s.gfx := rfl
@[simp] theorem onFe_seq (s : State) (f : Fe → Fe) : (onFe s f).seq = s.seq := rfl
@[simp] theorem onFe_dsp (s : State) (f : Fe → Fe) : (onFe s f).dsp = s.dsp := rfl
@[simp] theorem onFe_intf (s : State) (f : Fe → Fe) : (onFe s f).intf = s.intf := rfl
@[simp] theorem onFe_intfDone (s : State) (f : Fe → Fe) : (onFe s f).intfDone = s.intfDone := rfl

/-! ### onSc -/

@[simp] theorem onSc_pending (s : State) (f : Sc → Sc) : (onSc s f).pending = s.pending := rfl
@[simp] theorem onSc_time (s : State) (f : Sc → Sc) : (onSc s f).time = s.time := rfl
@[simp] theorem onSc_freeCtr (s : State) (f : Sc → Sc) : (onSc s f).freeCtr = s.freeCtr := rfl
@[simp] theorem onSc_regs (s : State) (f : Sc → Sc) : (onSc s f).regs = s.regs := rfl
@[simp] theorem onSc_hostMem (s : State) (f : Sc → Sc) : (onSc s f).hostMem = s.hostMem := rfl
@[simp] theorem onSc_int (s : State) (f : Sc → Sc) : (onSc s f).int = s.int := rfl
@[simp] theorem onSc_mem (s : State) (f : Sc → Sc) : (onSc s f).mem = s.mem := rfl
@[simp] theorem onSc_hif (s : State) (f : Sc → Sc) : (onSc s f).hif = s.hif := rfl
@[simp] theorem onSc_ports (s : State) (f : Sc → Sc) : (onSc s f).ports = s.ports := rfl
@[simp] theorem onSc_ccx (s : State) (f : Sc → Sc) : (onSc s f).ccx = s.ccx := rfl
@[simp] theorem onSc_pwr (s : State) (f : Sc → Sc) : (onSc s f).pwr = s.pwr := rfl
@[simp] theorem onSc_boot (s : State) (f : Sc → Sc) : (onSc s f).boot = s.boot := rfl
@[simp] theorem onSc_xlt (s : State) (f : Sc → Sc) : (onSc s f).xlt = s.xlt := rfl
@[simp] theorem onSc_fe (s : State) (f : Sc → Sc) : (onSc s f).fe = s.fe := rfl
@[simp] theorem onSc_sc (s : State) (f : Sc → Sc) : (onSc s f).sc = f s.sc := rfl
@[simp] theorem onSc_gfx (s : State) (f : Sc → Sc) : (onSc s f).gfx = s.gfx := rfl
@[simp] theorem onSc_seq (s : State) (f : Sc → Sc) : (onSc s f).seq = s.seq := rfl
@[simp] theorem onSc_dsp (s : State) (f : Sc → Sc) : (onSc s f).dsp = s.dsp := rfl
@[simp] theorem onSc_intf (s : State) (f : Sc → Sc) : (onSc s f).intf = s.intf := rfl
@[simp] theorem onSc_intfDone (s : State) (f : Sc → Sc) : (onSc s f).intfDone = s.intfDone := rfl

/-! ### onGfx -/

@[simp] theorem onGfx_pending (s : State) (f : Gfx → Gfx) : (onGfx s f).pending = s.pending := rfl
@[simp] theorem onGfx_time (s : State) (f : Gfx → Gfx) : (onGfx s f).time = s.time := rfl
@[simp] theorem onGfx_freeCtr (s : State) (f : Gfx → Gfx) : (onGfx s f).freeCtr = s.freeCtr := rfl
@[simp] theorem onGfx_regs (s : State) (f : Gfx → Gfx) : (onGfx s f).regs = s.regs := rfl
@[simp] theorem onGfx_hostMem (s : State) (f : Gfx → Gfx) : (onGfx s f).hostMem = s.hostMem := rfl
@[simp] theorem onGfx_int (s : State) (f : Gfx → Gfx) : (onGfx s f).int = s.int := rfl
@[simp] theorem onGfx_mem (s : State) (f : Gfx → Gfx) : (onGfx s f).mem = s.mem := rfl
@[simp] theorem onGfx_hif (s : State) (f : Gfx → Gfx) : (onGfx s f).hif = s.hif := rfl
@[simp] theorem onGfx_ports (s : State) (f : Gfx → Gfx) : (onGfx s f).ports = s.ports := rfl
@[simp] theorem onGfx_ccx (s : State) (f : Gfx → Gfx) : (onGfx s f).ccx = s.ccx := rfl
@[simp] theorem onGfx_pwr (s : State) (f : Gfx → Gfx) : (onGfx s f).pwr = s.pwr := rfl
@[simp] theorem onGfx_boot (s : State) (f : Gfx → Gfx) : (onGfx s f).boot = s.boot := rfl
@[simp] theorem onGfx_xlt (s : State) (f : Gfx → Gfx) : (onGfx s f).xlt = s.xlt := rfl
@[simp] theorem onGfx_fe (s : State) (f : Gfx → Gfx) : (onGfx s f).fe = s.fe := rfl
@[simp] theorem onGfx_sc (s : State) (f : Gfx → Gfx) : (onGfx s f).sc = s.sc := rfl
@[simp] theorem onGfx_gfx (s : State) (f : Gfx → Gfx) : (onGfx s f).gfx = f s.gfx := rfl
@[simp] theorem onGfx_seq (s : State) (f : Gfx → Gfx) : (onGfx s f).seq = s.seq := rfl
@[simp] theorem onGfx_dsp (s : State) (f : Gfx → Gfx) : (onGfx s f).dsp = s.dsp := rfl
@[simp] theorem onGfx_intf (s : State) (f : Gfx → Gfx) : (onGfx s f).intf = s.intf := rfl
@[simp] theorem onGfx_intfDone (s : State) (f : Gfx → Gfx) : (onGfx s f).intfDone = s.intfDone := rfl

/-! ### onSeq -/

@[simp] theorem onSeq_pending (s : State) (f : Seq → Seq) : (onSeq s f).pending = s.pending := rfl
@[simp] theorem onSeq_time (s : State) (f : Seq → Seq) : (onSeq s f).time = s.time := rfl
@[simp] theorem onSeq_freeCtr (s : State) (f : Seq → Seq) : (onSeq s f).freeCtr = s.freeCtr := rfl
@[simp] theorem onSeq_regs (s : State) (f : Seq → Seq) : (onSeq s f).regs = s.regs := rfl
@[simp] theorem onSeq_hostMem (s : State) (f : Seq → Seq) : (onSeq s f).hostMem = s.hostMem := rfl
@[simp] theorem onSeq_int (s : State) (f : Seq → Seq) : (onSeq s f).int = s.int := rfl
@[simp] theorem onSeq_mem (s : State) (f : Seq → Seq) : (onSeq s f).mem = s.mem := rfl
@[simp] theorem onSeq_hif (s : State) (f : Seq → Seq) : (onSeq s f).hif = s.hif := rfl
@[simp] theorem onSeq_ports (s : State) (f : Seq → Seq) : (onSeq s f).ports = s.ports := rfl
@[simp] theorem onSeq_ccx (s : State) (f : Seq → Seq) : (onSeq s f).ccx = s.ccx := rfl
@[simp] theorem onSeq_pwr (s : State) (f : Seq → Seq) : (onSeq s f).pwr = s.pwr := rfl
@[simp] theorem onSeq_boot (s : State) (f : Seq → Seq) : (onSeq s f).boot = s.boot := rfl
@[simp] theorem onSeq_xlt (s : State) (f : Seq → Seq) : (onSeq s f).xlt = s.xlt := rfl
@[simp] theorem onSeq_fe (s : State) (f : Seq → Seq) : (onSeq s f).fe = s.fe := rfl
@[simp] theorem onSeq_sc (s : State) (f : Seq → Seq) : (onSeq s f).sc = s.sc := rfl
@[simp] theorem onSeq_gfx (s : State) (f : Seq → Seq) : (onSeq s f).gfx = s.gfx := rfl
@[simp] theorem onSeq_seq (s : State) (f : Seq → Seq) : (onSeq s f).seq = f s.seq := rfl
@[simp] theorem onSeq_dsp (s : State) (f : Seq → Seq) : (onSeq s f).dsp = s.dsp := rfl
@[simp] theorem onSeq_intf (s : State) (f : Seq → Seq) : (onSeq s f).intf = s.intf := rfl
@[simp] theorem onSeq_intfDone (s : State) (f : Seq → Seq) : (onSeq s f).intfDone = s.intfDone := rfl

/-! ### onXlt -/

@[simp] theorem onXlt_pending (s : State) (f : Xlt → Xlt) : (onXlt s f).pending = s.pending := rfl
@[simp] theorem onXlt_time (s : State) (f : Xlt → Xlt) : (onXlt s f).time = s.time := rfl
@[simp] theorem onXlt_freeCtr (s : State) (f : Xlt → Xlt) : (onXlt s f).freeCtr = s.freeCtr := rfl
@[simp] theorem onXlt_regs (s : State) (f : Xlt → Xlt) : (onXlt s f).regs = s.regs := rfl
@[simp] theorem onXlt_hostMem (s : State) (f : Xlt → Xlt) : (onXlt s f).hostMem = s.hostMem := rfl
@[simp] theorem onXlt_int (s : State) (f : Xlt → Xlt) : (onXlt s f).int = s.int := rfl
@[simp] theorem onXlt_mem (s : State) (f : Xlt → Xlt) : (onXlt s f).mem = s.mem := rfl
@[simp] theorem onXlt_hif (s : State) (f : Xlt → Xlt) : (onXlt s f).hif = s.hif := rfl
@[simp] theorem onXlt_ports (s : State) (f : Xlt → Xlt) : (onXlt s f).ports = s.ports := rfl
@[simp] theorem onXlt_ccx (s : State) (f : Xlt → Xlt) : (onXlt s f).ccx = s.ccx := rfl
@[simp] theorem onXlt_pwr (s : State) (f : Xlt → Xlt) : (onXlt s f).pwr = s.pwr := rfl
@[simp] theorem onXlt_boot (s : State) (f : Xlt → Xlt) : (onXlt s f).boot = s.boot := rfl
@[simp] theorem onXlt_xlt (s : State) (f : Xlt → Xlt) : (onXlt s f).xlt = f s.xlt := rfl
@[simp] theorem onXlt_fe (s : State) (f : Xlt → Xlt) : (onXlt s f).fe = s.fe := rfl
@[simp] theorem onXlt_sc (s : State) (f : Xlt → Xlt) : (onXlt s f).sc = s.sc := rfl
@[simp] theorem onXlt_gfx (s : State) (f : Xlt → Xlt) : (onXlt s f).gfx = s.gfx := rfl
@[simp] theorem onXlt_seq (s : State) (f : Xlt → Xlt) : (onXlt s f).seq = s.seq := rfl
@[simp] theorem onXlt_dsp (s : State) (f : Xlt → Xlt) : (onXlt s f).dsp = s.dsp := rfl
@[simp] theorem onXlt_intf (s : State) (f : Xlt → Xlt) : (onXlt s f).intf = s.intf := rfl
@[simp] theorem onXlt_intfDone (s : State) (f : Xlt → Xlt) : (onXlt s f).intfDone = s.intfDone := rfl

/-! ### onMem -/

@[simp] theorem onMem_pending (s : State) (f : Mem → Mem) : (onMem s f).pending = s.pending := rfl
@[simp] theorem onMem_time (s : State) (f : Mem → Mem) : (onMem s f).time = s.time := rfl
@[simp] theorem onMem_freeCtr (s : State) (f : Mem → Mem) : (onMem s f).freeCtr = s.freeCtr := rfl
@[simp] theorem onMem_regs (s : State) (f : Mem → Mem) : (onMem s f).regs = s.regs := rfl
@[simp] theorem onMem_hostMem (s : State) (f : Mem → Mem) : (onMem s f).hostMem = s.hostMem := rfl
@[simp] theorem onMem_int (s : State) (f : Mem → Mem) : (onMem s f).int = s.int := rfl
@[simp] theorem onMem_mem (s : State) (f : Mem → Mem) : (onMem s f).mem = f s.mem := rfl
@[simp] theorem onMem_hif (s : State) (f : Mem → Mem) : (onMem s f).hif = s.hif := rfl
@[simp] theorem onMem_ports (s : State) (f : Mem → Mem) : (onMem s f).ports = s.ports := rfl
@[simp] theorem onMem_ccx (s : State) (f : Mem → Mem) : (onMem s f).ccx = s.ccx := rfl
@[simp] theorem onMem_pwr (s : State) (f : Mem → Mem) : (onMem s f).pwr = s.pwr := rfl
@[simp] theorem onMem_boot (s : State) (f : Mem → Mem) : (onMem s f).boot = s.boot := rfl
@[simp] theorem onMem_xlt (s : State) (f : Mem → Mem) : (onMem s f).xlt = s.xlt := rfl
@[simp] theorem onMem_fe (s : State) (f : Mem → Mem) : (onMem s f).fe = s.fe := rfl
@[simp] theorem onMem_sc (s : State) (f : Mem → Mem) : (onMem s f).sc = s.sc := rfl
@[simp] theorem onMem_gfx (s : State) (f : Mem → Mem) : (onMem s f).gfx = s.gfx := rfl
@[simp] theorem onMem_seq (s : State) (f : Mem → Mem) : (onMem s f).seq = s.seq := rfl
@[simp] theorem onMem_dsp (s : State) (f : Mem → Mem) : (onMem s f).dsp = s.dsp := rfl
@[simp] theorem onMem_intf (s : State) (f : Mem → Mem) : (onMem s f).intf = s.intf := rfl
@[simp] theorem onMem_intfDone (s : State) (f : Mem → Mem) : (onMem s f).intfDone = s.intfDone := rfl

/-! ### onPwr -/

@[simp] theorem onPwr_pending (s : State) (f : Pwr → Pwr) : (onPwr s f).pending = s.pending := rfl
@[simp] theorem onPwr_time (s : State) (f : Pwr → Pwr) : (onPwr s f).time = s.time := rfl
@[simp] theorem onPwr_freeCtr (s : State) (f : Pwr → Pwr) : (onPwr s f).freeCtr = s.freeCtr := rfl
@[simp] theorem onPwr_regs (s : State) (f : Pwr → Pwr) : (onPwr s f).regs = s.regs := rfl
@[simp] theorem onPwr_hostMem (s : State) (f : Pwr → Pwr) : (onPwr s f).hostMem = s.hostMem := rfl
@[simp] theorem onPwr_int (s : State) (f : Pwr → Pwr) : (onPwr s f).int = s.int := rfl
@[simp] theorem onPwr_mem (s : State) (f : Pwr → Pwr) : (onPwr s f).mem = s.mem := rfl
@[simp] theorem onPwr_hif (s : State) (f : Pwr → Pwr) : (onPwr s f).hif = s.hif := rfl
@[simp] theorem onPwr_ports (s : State) (f : Pwr → Pwr) : (onPwr s f).ports = s.ports := rfl
@[simp] theorem onPwr_ccx (s : State) (f : Pwr → Pwr) : (onPwr s f).ccx = s.ccx := rfl
@[simp] theorem onPwr_pwr (s : State) (f : Pwr → Pwr) : (onPwr s f).pwr = f s.pwr := rfl
@[simp] theorem onPwr_boot (s : State) (f : Pwr → Pwr) : (onPwr s f).boot = s.boot := rfl
@[simp] theorem onPwr_xlt (s : State) (f : Pwr → Pwr) : (onPwr s f).xlt = s.xlt := rfl
@[simp] theorem onPwr_fe (s : State) (f : Pwr → Pwr) : (onPwr s f).fe = s.fe := rfl
@[simp] theorem onPwr_sc (s : State) (f : Pwr → Pwr) : (onPwr s f).sc = s.sc := rfl
@[simp] theorem onPwr_gfx (s : State) (f : Pwr → Pwr) : (onPwr s f).gfx = s.gfx := rfl
@[simp] theorem onPwr_seq (s : State) (f : Pwr → Pwr) : (onPwr s f).seq = s.seq := rfl
@[simp] theorem onPwr_dsp (s : State) (f : Pwr → Pwr) : (onPwr s f).dsp = s.dsp := rfl
@[simp] theorem onPwr_intf (s : State) (f : Pwr → Pwr) : (onPwr s f).intf = s.intf := rfl
@[simp] theorem onPwr_intfDone (s : State) (f : Pwr → Pwr) : (onPwr s f).intfDone = s.intfDone := rfl

/-! ### onCcx -/

@[simp] theorem onCcx_pending (s : State) (f : Ccx → Ccx) : (onCcx s f).pending = s.pending := rfl
@[simp] theorem onCcx_time (s : State) (f : Ccx → Ccx) : (onCcx s f).time = s.time := rfl
@[simp] theorem onCcx_freeCtr (s : State) (f : Ccx → Ccx) : (onCcx s f).freeCtr = s.freeCtr := rfl
@[simp] theorem onCcx_regs (s : State) (f : Ccx → Ccx) : (onCcx s f).regs = s.regs := rfl
@[simp] theorem onCcx_hostMem (s : State) (f : Ccx → Ccx) : (onCcx s f).hostMem = s.hostMem := rfl
@[simp] theorem onCcx_int (s : State) (f : Ccx → Ccx) : (onCcx s f).int = s.int := rfl
@[simp] theorem onCcx_mem (s : State) (f : Ccx → Ccx) : (onCcx s f).mem = s.mem := rfl
@[simp] theorem onCcx_hif (s : State) (f : Ccx → Ccx) : (onCcx s f).hif = s.hif := rfl
@[simp] theorem onCcx_ports (s : State) (f : Ccx → Ccx) : (onCcx s f).ports = s.ports := rfl
@[simp] theorem onCcx_ccx (s : State) (f : Ccx → Ccx) : (onCcx s f).ccx = f s.ccx := rfl
@[simp] theorem onCcx_pwr (s : State) (f : Ccx → Ccx) : (onCcx s f).pwr = s.pwr := rfl
@[simp] theorem onCcx_boot (s : State) (f : Ccx → Ccx) : (onCcx s f).boot = s.boot := rfl
@[simp] theorem onCcx_xlt (s : State) (f : Ccx → Ccx) : (onCcx s f).xlt = s.xlt := rfl
@[simp] theorem onCcx_fe (s : State) (f : Ccx → Ccx) : (onCcx s f).fe = s.fe := rfl
@[simp] theorem onCcx_sc (s : State) (f : Ccx → Ccx) : (onCcx s f).sc = s.sc := rfl
@[simp] theorem onCcx_gfx (s : State) (f : Ccx → Ccx) : (onCcx s f).gfx = s.gfx := rfl
@[simp] theorem onCcx_seq (s : State) (f : Ccx → Ccx) : (onCcx s f).seq = s.seq := rfl
@[simp] theorem onCcx_dsp (s : State) (f : Ccx → Ccx) : (onCcx s f).dsp = s.dsp := rfl
@[simp] theorem onCcx_intf (s : State) (f : Ccx → Ccx) : (onCcx s f).intf = s.intf := rfl
@[simp] theorem onCcx_intfDone (s : State) (f : Ccx → Ccx) : (onCcx s f).intfDone = s.intfDone := rfl

/-! ### onInt -/

@[simp] theorem onInt_pending (s : State) (f : IntState → IntState) : (onInt s f).pending = s.pending := rfl
@[simp] theorem onInt_time (s : State) (f : IntState → IntState) : (onInt s f).time = s.time := rfl
@[simp] theorem onInt_freeCtr (s : State) (f : IntState → IntState) : (onInt s f).freeCtr = s.freeCtr := rfl
@[simp] theorem onInt_regs (s : State) (f : IntState → IntState) : (onInt s f).regs = s.regs := rfl
@[simp] theorem onInt_hostMem (s : State) (f : IntState → IntState) : (onInt s f).hostMem = s.hostMem := rfl
@[simp] theorem onInt_int (s : State) (f : IntState → IntState) : (onInt s f).int = f s.int := rfl
@[simp] theorem onInt_mem (s : State) (f : IntState → IntState) : (onInt s f).mem = s.mem := rfl
@[simp] theorem onInt_hif (s : State) (f : IntState → IntState) : (onInt s f).hif = s.hif := rfl
@[simp] theorem onInt_ports (s : State) (f : IntState → IntState) : (onInt s f).ports = s.ports := rfl
@[simp] theorem onInt_ccx (s : State) (f : IntState → IntState) : (onInt s f).ccx = s.ccx := rfl
@[simp] theorem onInt_pwr (s : State) (f : IntState → IntState) : (onInt s f).pwr = s.pwr := rfl
@[simp] theorem onInt_boot (s : State) (f : IntState → IntState) : (onInt s f).boot = s.boot := rfl
@[simp] theorem onInt_xlt (s : State) (f : IntState → IntState) : (onInt s f).xlt = s.xlt := rfl
@[simp] theorem onInt_fe (s : State) (f : IntState → IntState) : (onInt s f).fe = s.fe := rfl
@[simp] theorem onInt_sc (s : State) (f : IntState → IntState) : (onInt s f).sc = s.sc := rfl
@[simp] theorem onInt_gfx (s : State) (f : IntState → IntState) : (onInt s f).gfx = s.gfx := rfl
@[simp] theorem onInt_seq (s : State) (f : IntState → IntState) : (onInt s f).seq = s.seq := rfl
@[simp] theorem onInt_dsp (s : State) (f : IntState → IntState) : (onInt s f).dsp = s.dsp := rfl
@[simp] theorem onInt_intf (s : State) (f : IntState → IntState) : (onInt s f).intf = s.intf := rfl
@[simp] theorem onInt_intfDone (s : State) (f : IntState → IntState) : (onInt s f).intfDone = s.intfDone := rfl

/-! ### onBoot -/

@[simp] theorem onBoot_pending (s : State) (f : Boot → Boot) : (onBoot s f).pending = s.pending := rfl
@[simp] theorem onBoot_time (s : State) (f : Boot → Boot) : (onBoot s f).time = s.time := rfl
@[simp] theorem onBoot_freeCtr (s : State) (f : Boot → Boot) : (onBoot s f).freeCtr = s.freeCtr := rfl
@[simp] theorem onBoot_regs (s : State) (f : Boot → Boot) : (onBoot s f).regs = s.regs := rfl
@[simp] theorem onBoot_hostMem (s : State) (f : Boot → Boot) : (onBoot s f).hostMem = s.hostMem := rfl
@[simp] theorem onBoot_int (s : State) (f : Boot → Boot) : (onBoot s f).int = s.int := rfl
@[simp] theorem onBoot_mem (s : State) (f : Boot → Boot) : (onBoot s f).mem = s.mem := rfl
@[simp] theorem onBoot_hif (s : State) (f : Boot → Boot) : (onBoot s f).hif = s.hif := rfl
@[simp] theorem onBoot_ports (s : State) (f : Boot → Boot) : (onBoot s f).ports = s.ports := rfl
@[simp] theorem onBoot_ccx (s : State) (f : Boot → Boot) : (onBoot s f).ccx = s.ccx := rfl
@[simp] theorem onBoot_pwr (s : State) (f : Boot → Boot) : (onBoot s f).pwr = s.pwr := rfl
@[simp] theorem onBoot_boot (s : State) (f : Boot → Boot) : (onBoot s f).boot = f s.boot := rfl
@[simp] theorem onBoot_xlt (s : State) (f : Boot → Boot) : (onBoot s f).xlt = s.xlt := rfl
@[simp] theorem onBoot_fe (s : State) (f : Boot → Boot) : (onBoot s f).fe = s.fe := rfl
@[simp] theorem onBoot_sc (s : State) (f : Boot → Boot) : (onBoot s f).sc = s.sc := rfl
@[simp] theorem onBoot_gfx (s : State) (f : Boot → Boot) : (onBoot s f).gfx = s.gfx := rfl
@[simp] theorem onBoot_seq (s : State) (f : Boot → Boot) : (onBoot s f).seq = s.seq := rfl
@[simp] theorem onBoot_dsp (s : State) (f : Boot → Boot) : (onBoot s f).dsp = s.dsp := rfl
@[simp] theorem onBoot_intf (s : State) (f : Boot → Boot) : (onBoot s f).intf = s.intf := rfl
@[simp] theorem onBoot_intfDone (s : State) (f : Boot → Boot) : (onBoot s f).intfDone = s.intfDone := rfl

/-! ### Registers, messages and free values -/

@[simp] theorem rset_pending (s : State) (r : Reg) (v w i : Nat) : (rset s r v w i).pending = s.pending := by unfold rset; split <;> rfl
@[simp] theorem rset_time (s : State) (r : Reg) (v w i : Nat) : (rset s r v w i).time = s.time := by unfold rset; split <;> rfl
@[simp] theorem rset_freeCtr (s : State) (r : Reg) (v w i : Nat) : (rset s r v w i).freeCtr = s.freeCtr := by unfold rset; split <;> rfl
@[simp] theorem rset_hostMem (s : State) (r : Reg) (v w i : Nat) : (rset s r v w i).hostMem = s.hostMem := by unfold rset; split <;> rfl
@[simp] theorem rset_int (s : State) (r : Reg) (v w i : Nat) : (rset s r v w i).int = s.int := by unfold rset; split <;> rfl
@[simp] theorem rset_mem (s : State) (r : Reg) (v w i : Nat) : (rset s r v w i).mem = s.mem := by unfold rset; split <;> rfl
@[simp] theorem rset_hif (s : State) (r : Reg) (v w i : Nat) : (rset s r v w i).hif = s.hif := by unfold rset; split <;> rfl
@[simp] theorem rset_ports (s : State) (r : Reg) (v w i : Nat) : (rset s r v w i).ports = s.ports := by unfold rset; split <;> rfl
@[simp] theorem rset_ccx (s : State) (r : Reg) (v w i : Nat) : (rset s r v w i).ccx = s.ccx := by unfold rset; split <;> rfl
@[simp] theorem rset_pwr (s : State) (r : Reg) (v w i : Nat) : (rset s r v w i).pwr = s.pwr := by unfold rset; split <;> rfl
@[simp] theorem rset_boot (s : State) (r : Reg) (v w i : Nat) : (rset s r v w i).boot = s.boot := by unfold rset; split <;> rfl
@[simp] theorem rset_xlt (s : State) (r : Reg) (v w i : Nat) : (rset s r v w i).xlt = s.xlt := by unfold rset; split <;> rfl
@[simp] theorem rset_fe (s : State) (r : Reg) (v w i : Nat) : (rset s r v w i).fe = s.fe := by unfold rset; split <;> rfl
@[simp] theorem rset_sc (s : State) (r : Reg) (v w i : Nat) : (rset s r v w i).sc = s.sc := by unfold rset; split <;> rfl
@[simp] theorem rset_gfx (s : State) (r : Reg) (v w i : Nat) : (rset s r v w i).gfx = s.gfx := by unfold rset; split <;> rfl
@[simp] theorem rset_seq (s : State) (r : Reg) (v w i : Nat) : (rset s r v w i).seq = s.seq := by unfold rset; split <;> rfl
@[simp] theorem rset_dsp (s : State) (r : Reg) (v w i : Nat) : (rset s r v w i).dsp = s.dsp := by unfold rset; split <;> rfl
@[simp] theorem rset_intf (s : State) (r : Reg) (v w i : Nat) : (rset s r v w i).intf = s.intf := by unfold rset; split <;> rfl
@[simp] theorem rset_intfDone (s : State) (r : Reg) (v w i : Nat) : (rset s r v w i).intfDone = s.intfDone := by unfold rset; split <;> rfl
@[simp] theorem fset_pending (s : State) (x : Fld) (v w i : Nat) : (fset s x v w i).pending = s.pending := rset_pending ..
@[simp] theorem fset_time (s : State) (x : Fld) (v w i : Nat) : (fset s x v w i).time = s.time := rset_time ..
@[simp] theorem fset_freeCtr (s : State) (x : Fld) (v w i : Nat) : (fset s x v w i).freeCtr = s.freeCtr := rset_freeCtr ..
@[simp] theorem fset_hostMem (s : State) (x : Fld) (v w i : Nat) : (fset s x v w i).hostMem = s.hostMem := rset_hostMem ..
@[simp] theorem fset_int (s : State) (x : Fld) (v w i : Nat) : (fset s x v w i).int = s.int := rset_int ..
@[simp] theorem fset_mem (s : State) (x : Fld) (v w i : Nat) : (fset s x v w i).mem = s.mem := rset_mem ..
@[simp] theorem fset_hif (s : State) (x : Fld) (v w i : Nat) : (fset s x v w i).hif = s.hif := rset_hif ..
@[simp] theorem fset_ports (s : State) (x : Fld) (v w i : Nat) : (fset s x v w i).ports = s.ports := rset_ports ..
@[simp] theorem fset_ccx (s : State) (x : Fld) (v w i : Nat) : (fset s x v w i).ccx = s.ccx := rset_ccx ..
@[simp] theorem fset_pwr (s : State) (x : Fld) (v w i : Nat) : (fset s x v w i).pwr = s.pwr := rset_pwr ..
@[simp] theorem fset_boot (s : State) (x : Fld) (v w i : Nat) : (fset s x v w i).boot = s.boot := rset_boot ..
@[simp] theorem fset_xlt (s : State) (x : Fld) (v w i : Nat) : (fset s x v w i).xlt = s.xlt := rset_xlt ..
@[simp] theorem fset_fe (s : State) (x : Fld) (v w i : Nat) : (fset s x v w i).fe = s.fe := rset_fe ..
@[simp] theorem fset_sc (s : State) (x : Fld) (v w i : Nat) : (fset s x v w i).sc = s.sc := rset_sc ..
@[simp] theorem fset_gfx (s : State) (x : Fld) (v w i : Nat) : (fset s x v w i).gfx = s.gfx := rset_gfx ..
@[simp] theorem fset_seq (s : State) (x : Fld) (v w i : Nat) : (fset s x v w i).seq = s.seq := rset_seq ..
@[simp] theorem fset_dsp (s : State) (x : Fld) (v w i : Nat) : (fset s x v w i).dsp = s.dsp := rset_dsp ..
@[simp] theorem fset_intf (s : State) (x : Fld) (v w i : Nat) : (fset s x v w i).intf = s.intf := rset_intf ..
@[simp] theorem fset_intfDone (s : State) (x : Fld) (v w i : Nat) : (fset s x v w i).intfDone = s.intfDone := rset_intfDone ..
@[simp] theorem send_pending (s : State) (m : OutMsg) : (send s m).pending = s.pending := rfl
@[simp] theorem send_time (s : State) (m : OutMsg) : (send s m).time = s.time := rfl
@[simp] theorem send_freeCtr (s : State) (m : OutMsg) : (send s m).freeCtr = s.freeCtr := rfl
@[simp] theorem send_regs (s : State) (m : OutMsg) : (send s m).regs = s.regs := rfl
@[simp] theorem send_hostMem (s : State) (m : OutMsg) : (send s m).hostMem = s.hostMem := rfl
@[simp] theorem send_int (s : State) (m : OutMsg) : (send s m).int = s.int := rfl
@[simp] theorem send_mem (s : State) (m : OutMsg) : (send s m).mem = s.mem := rfl
@[simp] theorem send_ports (s : State) (m : OutMsg) : (send s m).ports = s.ports := rfl
@[simp] theorem send_ccx (s : State) (m : OutMsg) : (send s m).ccx = s.ccx := rfl
@[simp] theorem send_pwr (s : State) (m : OutMsg) : (send s m).pwr = s.pwr := rfl
@[simp] theorem send_boot (s : State) (m : OutMsg) : (send s m).boot = s.boot := rfl
@[simp] theorem send_xlt (s : State) (m : OutMsg) : (send s m).xlt = s.xlt := rfl
@[simp] theorem send_fe (s : State) (m : OutMsg) : (send s m).fe = s.fe := rfl
@[simp] theorem send_sc (s : State) (m : OutMsg) : (send s m).sc = s.sc := rfl
@[simp] theorem send_gfx (s : State) (m : OutMsg) : (send s m).gfx = s.gfx := rfl
@[simp] theorem send_seq (s : State) (m : OutMsg) : (send s m).seq = s.seq := rfl
@[simp] theorem send_dsp (s : State) (m : OutMsg) : (send s m).dsp = s.dsp := rfl
@[simp] theorem send_intf (s : State) (m : OutMsg) : (send s m).intf = s.intf := rfl
@[simp] theorem send_intfDone (s : State) (m : OutMsg) : (send s m).intfDone = s.intfDone := rfl
@[simp] theorem send_sent (s : State) (m : OutMsg) : (send s m).hif.sent = s.hif.sent ++ [m] := rfl
@[simp] theorem takeFree_pending (s : State) (n : Nat) : (takeFree s n).2.pending = s.pending := rfl
@[simp] theorem takeFree_time (s : State) (n : Nat) : (takeFree s n).2.time = s.time := rfl
@[simp] theorem takeFree_regs (s : State) (n : Nat) : (takeFree s n).2.regs = s.regs := rfl
@[simp] theorem takeFree_hostMem (s : State) (n : Nat) : (takeFree s n).2.hostMem = s.hostMem := rfl
@[simp] theorem takeFree_int (s : State) (n : Nat) : (takeFree s n).2.int = s.int := rfl
@[simp] theorem takeFree_mem (s : State) (n : Nat) : (takeFree s n).2.mem = s.mem := rfl
@[simp] theorem takeFree_hif (s : State) (n : Nat) : (takeFree s n).2.hif = s.hif := rfl
@[simp] theorem takeFree_ports (s : State) (n : Nat) : (takeFree s n).2.ports = s.ports := rfl
@[simp] theorem takeFree_ccx (s : State) (n : Nat) : (takeFree s n).2.ccx = s.ccx := rfl
@[simp] theorem takeFree_pwr (s : State) (n : Nat) : (takeFree s n).2.pwr = s.pwr := rfl
@[simp] theorem takeFree_boot (s : State) (n : Nat) : (takeFree s n).2.boot = s.boot := rfl
@[simp] theorem takeFree_xlt (s : State) (n : Nat) : (takeFree s n).2.xlt = s.xlt := rfl
@[simp] theorem takeFree_fe (s : State) (n : Nat) : (takeFree s n).2.fe = s.fe := rfl
@[simp] theorem takeFree_sc (s : State) (n : Nat) : (takeFree s n).2.sc = s.sc := rfl
@[simp] theorem takeFree_gfx (s : State) (n : Nat) : (takeFree s n).2.gfx = s.gfx := rfl
@[simp] theorem takeFree_seq (s : State) (n : Nat) : (takeFree s n).2.seq = s.seq := rfl
@[simp] theorem takeFree_dsp (s : State) (n : Nat) : (takeFree s n).2.dsp = s.dsp := rfl
@[simp] theorem takeFree_intf (s : State) (n : Nat) : (takeFree s n).2.intf = s.intf := rfl
@[simp] theorem takeFree_intfDone (s : State) (n : Nat) : (takeFree s n).2.intfDone = s.intfDone := rfl
@[simp] theorem takeFree_freeCtr (s : State) (n : Nat) : (takeFree s n).2.freeCtr = s.freeCtr + 1 := rfl

end Sys2Proof.Laws
end

