-- ==== Sys2Proof/Laws/Regs.lean ====
section
/-!
SUPPORT. Laws/Regs.lean: reading bit fields and registers after writing them.
-/

namespace Sys2Proof.Laws

open Machine

/-! ### Bit fields -/

/-- A number split at bits hi..lo. -/
theorem setBits_eq (v hi lo x : Nat) :
    setBits v hi lo x = 2 ^ lo * (2 ^ (hi + 1 - lo) * (v / 2 ^ lo / 2 ^ (hi + 1 - lo)) + x % 2 ^ (hi + 1 - lo)) + v % 2 ^ lo := by
  have hl := Nat.div_add_mod v (2 ^ lo)
  have hw := Nat.div_add_mod (v / 2 ^ lo) (2 ^ (hi + 1 - lo))
  unfold setBits bits
  simp only [Nat.shiftLeft_eq, Nat.shiftRight_eq_div_pow]
  generalize 2 ^ lo = L at *
  generalize 2 ^ (hi + 1 - lo) = W at *
  generalize hq : v / L = q at *
  generalize hr : q / W = a at *
  generalize hb : q % W = b at *
  generalize hy : x % W = y at *
  generalize hm : v % L = m at *
  rw [← hl, ← hw]
  rw [Nat.mul_add, Nat.mul_add, Nat.mul_comm b L, Nat.mul_comm y L]
  omega

/-- The field that was set. -/
@[simp] theorem bits_setBits_same (v hi lo x : Nat) : bits (setBits v hi lo x) hi lo = x % 2 ^ (hi + 1 - lo) := by
  rw [setBits_eq]
  unfold bits
  rw [Nat.shiftRight_eq_div_pow]
  rw [Nat.mul_add_div (Nat.two_pow_pos lo), Nat.div_eq_of_lt (Nat.mod_lt _ (Nat.two_pow_pos lo)), Nat.add_zero,
    Nat.mul_add_mod, Nat.mod_mod]

/-- A field that lies below the one set. -/
theorem bits_setBits_below (v hi lo x h l : Nat) (hlt : h < lo) : bits (setBits v hi lo x) h l = bits v h l := by
  by_cases hl : l ≤ h
  · rw [setBits_eq]
    have hv := Nat.div_add_mod v (2 ^ lo)
    unfold bits
    simp only [Nat.shiftRight_eq_div_pow]
    have key : ∀ A m : Nat, m < 2 ^ lo → (2 ^ lo * A + m) / 2 ^ l % 2 ^ (h + 1 - l) = m / 2 ^ l % 2 ^ (h + 1 - l) := by
      intro A m _
      have e : 2 ^ lo * A = 2 ^ l * (2 ^ (h + 1 - l) * (2 ^ (lo - (h + 1)) * A)) := by
        rw [← Nat.mul_assoc, ← Nat.mul_assoc, ← Nat.pow_add, ← Nat.pow_add]
        congr 2; omega
      rw [e, Nat.mul_add_div (Nat.two_pow_pos l), Nat.mul_add_mod]
    rw [key _ _ (Nat.mod_lt _ (Nat.two_pow_pos lo))]
    conv_rhs => rw [← hv, key _ _ (Nat.mod_lt _ (Nat.two_pow_pos lo))]
  · have : h + 1 - l = 0 := by omega
    simp [bits, this, Nat.mod_one]

/-- A field that lies above the one set. -/
theorem bits_setBits_above (v hi lo x h l : Nat) (hw : lo ≤ hi + 1) (hlt : hi < l) : bits (setBits v hi lo x) h l = bits v h l := by
  have key : ∀ u : Nat, u / 2 ^ l = u / 2 ^ lo / 2 ^ (hi + 1 - lo) / 2 ^ (l - (hi + 1)) := by
    intro u
    rw [Nat.div_div_eq_div_mul, Nat.div_div_eq_div_mul, ← Nat.pow_add, ← Nat.pow_add]
    congr 2; omega
  unfold bits
  rw [Nat.shiftRight_eq_div_pow, Nat.shiftRight_eq_div_pow, key, key v, setBits_eq]
  rw [Nat.mul_add_div (Nat.two_pow_pos lo), Nat.div_eq_of_lt (Nat.mod_lt _ (Nat.two_pow_pos lo)), Nat.add_zero,
    Nat.mul_add_div (Nat.two_pow_pos _), Nat.div_eq_of_lt (Nat.mod_lt x (Nat.two_pow_pos _)), Nat.add_zero]

/-- Setting a field keeps a number below a power of two above the field. -/
theorem setBits_lt (v hi lo x n : Nat) (hv : v < 2 ^ n) (hlo : lo ≤ hi + 1) (hn : hi + 1 ≤ n) : setBits v hi lo x < 2 ^ n := by
  rw [setBits_eq]
  have hx := Nat.mod_lt x (Nat.two_pow_pos (hi + 1 - lo))
  have hm := Nat.mod_lt v (Nat.two_pow_pos lo)
  have ha : v / 2 ^ lo / 2 ^ (hi + 1 - lo) < 2 ^ (n - (hi + 1)) := by
    rw [Nat.div_div_eq_div_mul, ← Nat.pow_add]
    apply Nat.div_lt_of_lt_mul
    rw [← Nat.pow_add]
    have : lo + (hi + 1 - lo) + (n - (hi + 1)) = n := by omega
    rw [this]; exact hv
  have e : 2 ^ n = 2 ^ lo * (2 ^ (hi + 1 - lo) * 2 ^ (n - (hi + 1))) := by
    rw [← Nat.pow_add, ← Nat.pow_add]; congr 1; omega
  rw [e]
  generalize 2 ^ lo = L at *
  generalize 2 ^ (hi + 1 - lo) = W at *
  generalize v / L / W = a at *
  generalize 2 ^ (n - (hi + 1)) = N at *
  generalize x % W = y at *
  generalize v % L = m at *
  have h1 : W * a + y + 1 ≤ W * N := by
    have : W * (a + 1) ≤ W * N := Nat.mul_le_mul_left W ha
    rw [Nat.mul_add, Nat.mul_one] at this; omega
  have h2 : L * (W * a + y + 1) ≤ L * (W * N) := Nat.mul_le_mul_left L h1
  rw [Nat.mul_add, Nat.mul_one] at h2
  omega

/-! ### Registers -/

/-- Two registers with the same number are the same. -/
theorem num_inj {r q : Reg} (h : r.num = q.num) : r = q := by
  have h' : r.ctorIdx = q.ctorIdx := h
  rw [← Reg.ofNat_ctorIdx r, ← Reg.ofNat_ctorIdx q, h']

/-- Copies of registers have keys of their own. -/
theorem key_inj {r q : Reg} {w i v j : Nat} (hi : i < 64) (hj : j < 64) (hw : w < 16) (hv : v < 16) (h : r.key w i = q.key v j) :
    r = q ∧ w = v ∧ i = j := by
  unfold Reg.key at h
  have h1 : r.num = q.num := by omega
  exact ⟨num_inj h1, by omega, by omega⟩

theorem fuses_lt (a b c : Nat) (h1 : a < 2 ^ 16) (h2 : b < 2 ^ 4) (h3 : c < 2 ^ 4) : a <<< 48 + b <<< 4 + c < 2 ^ 64 := by
  simp only [Nat.shiftLeft_eq, Nat.reducePow] at *; omega

/-- Every register resets to a 64-bit value. -/
theorem reset_lt (r : Reg) {w i : Nat} (hw : w < 16) : r.reset w i < 2 ^ 64 := by
  have hb : (Reg.fields r).foldl (fun v f => v + f.reset <<< f.lo) 0 < 2 ^ 64 := by cases r <;> decide
  unfold Reg.reset
  dsimp only
  split
  · split <;> decide
  · split <;> decide
  · split <;> decide
  · exact fuses_lt _ _ _ Config.fuseVendor.isLt Config.fuseProgrammed.isLt Config.fuseRevoked.isLt
  · split <;> omega
  · exact hb

/-- Every register holds a 64-bit value. -/
theorem rget_lt (s : State) (r : Reg) {w i : Nat} (hw : w < 16) : rget s r w i < 2 ^ 64 := by
  unfold rget
  split
  · exact reset_lt r hw
  · split
    · rename_i v _; exact v.isLt
    · exact reset_lt r hw

/-- A register reads what was written to it. -/
theorem rget_rset_same {s : State} {r : Reg} {v w i : Nat} (hw : w < 16) (hi : i < 64) (hv : v < 2 ^ 64) :
    rget (rset s r v w i) r w i = v := by
  have h : ¬ (16 ≤ w ∨ 64 ≤ i) := by omega
  unfold rset rget
  rw [if_neg h, if_neg h, Nat.mod_eq_of_lt hv]
  dsimp only
  by_cases hr : v = r.reset w i
  · rw [if_pos hr, tget_tdel_same]; exact hr.symm
  · rw [if_neg hr, tget_tset_same]; exact (BitVec.toNat_ofNat v 64).trans (Nat.mod_eq_of_lt hv)

/-- A write to one copy of a register leaves every other copy, and every other register. -/
theorem rget_rset_ne {s : State} {r q : Reg} {v w i x j : Nat} (h : ¬ (q = r ∧ x = w ∧ j = i)) :
    rget (rset s r v w i) q x j = rget s q x j := by
  unfold rset
  split
  · rfl
  · rename_i h1
    unfold rget
    by_cases h2 : 16 ≤ x ∨ 64 ≤ j
    · rw [if_pos h2, if_pos h2]
    · rw [if_neg h2, if_neg h2]
      have hk : q.key x j ≠ r.key w i := fun e => h (key_inj (by omega) (by omega) (by omega) (by omega) e)
      have hg : tget (if v % 2 ^ 64 = r.reset w i then tdel s.regs (r.key w i)
          else tset s.regs (r.key w i) (BitVec.ofNat 64 (v % 2 ^ 64))) (q.key x j) = tget s.regs (q.key x j) := by
        split
        · exact tget_tdel_ne _ hk
        · exact tget_tset_ne _ _ hk
      dsimp only
      rw [hg]

/-- A write keeps the register file sorted. -/
theorem sorted_rset {s : State} {r : Reg} {v w i : Nat} (hs : Tbl.sorted s.regs = true) : Tbl.sorted (rset s r v w i).regs = true := by
  unfold rset; split
  · exact hs
  · dsimp only; split
    · exact sorted_tdel hs
    · exact sorted_tset hs

/-- A field reads what was set. -/
theorem fget_fset_same {s : State} {f : Fld} {v w i : Nat} (hw : w < 16) (hi : i < 64) (hlo : f.lo ≤ f.hi + 1) (hhi : f.hi < 64) :
    fget (fset s f v w i) f w i = v % 2 ^ (f.hi + 1 - f.lo) := by
  unfold fget fset
  rw [rget_rset_same hw hi (setBits_lt _ _ _ _ _ (rget_lt s f.reg hw) hlo (by omega)), bits_setBits_same]

/-- A field of another copy or another register is as it was. -/
theorem fget_fset_ne {s : State} {f g : Fld} {v w i x j : Nat} (h : ¬ (g.reg = f.reg ∧ x = w ∧ j = i)) :
    fget (fset s f v w i) g x j = fget s g x j := by
  unfold fget fset
  rw [rget_rset_ne h]

/-- A field below the one that is set, in the same register, is as it was. -/
theorem fget_fset_below {s : State} {f g : Fld} {v w i : Nat} (hw : w < 16) (hi : i < 64) (hr : g.reg = f.reg) (hlt : g.hi < f.lo)
    (hlo : f.lo ≤ f.hi + 1) (hhi : f.hi < 64) : fget (fset s f v w i) g w i = fget s g w i := by
  unfold fget fset
  rw [hr, rget_rset_same hw hi (setBits_lt _ _ _ _ _ (rget_lt s f.reg hw) hlo (by omega)), bits_setBits_below _ _ _ _ _ _ hlt]

/-- A field above the one that is set, in the same register, is as it was. -/
theorem fget_fset_above {s : State} {f g : Fld} {v w i : Nat} (hw : w < 16) (hi : i < 64) (hr : g.reg = f.reg) (hlt : f.hi < g.lo)
    (hlo : f.lo ≤ f.hi + 1) (hhi : f.hi < 64) : fget (fset s f v w i) g w i = fget s g w i := by
  unfold fget fset
  rw [hr, rget_rset_same hw hi (setBits_lt _ _ _ _ _ (rget_lt s f.reg hw) hlo (by omega)), bits_setBits_above _ _ _ _ _ _ hlo hlt]

/-! ### Registers under an update of another part of the state -/

/-- A register reads the same in states whose register files agree. -/
theorem rget_congr {s t : State} (h : t.regs = s.regs) (r : Reg) (w i : Nat) : rget t r w i = rget s r w i := by
  unfold rget; rw [h]

/-- A field reads the same in states whose register files agree. -/
theorem fget_congr {s t : State} (h : t.regs = s.regs) (f : Fld) (w i : Nat) : fget t f w i = fget s f w i := by
  unfold fget; rw [rget_congr h]

@[simp] theorem rget_onFe (s : State) (f : Fe → Fe) (r : Reg) (w i : Nat) : rget (onFe s f) r w i = rget s r w i := rfl
@[simp] theorem fget_onFe (s : State) (f : Fe → Fe) (x : Fld) (w i : Nat) : fget (onFe s f) x w i = fget s x w i := rfl
@[simp] theorem rget_onSc (s : State) (f : Sc → Sc) (r : Reg) (w i : Nat) : rget (onSc s f) r w i = rget s r w i := rfl
@[simp] theorem fget_onSc (s : State) (f : Sc → Sc) (x : Fld) (w i : Nat) : fget (onSc s f) x w i = fget s x w i := rfl
@[simp] theorem rget_onGfx (s : State) (f : Gfx → Gfx) (r : Reg) (w i : Nat) : rget (onGfx s f) r w i = rget s r w i := rfl
@[simp] theorem fget_onGfx (s : State) (f : Gfx → Gfx) (x : Fld) (w i : Nat) : fget (onGfx s f) x w i = fget s x w i := rfl
@[simp] theorem rget_onSeq (s : State) (f : Seq → Seq) (r : Reg) (w i : Nat) : rget (onSeq s f) r w i = rget s r w i := rfl
@[simp] theorem fget_onSeq (s : State) (f : Seq → Seq) (x : Fld) (w i : Nat) : fget (onSeq s f) x w i = fget s x w i := rfl
@[simp] theorem rget_onXlt (s : State) (f : Xlt → Xlt) (r : Reg) (w i : Nat) : rget (onXlt s f) r w i = rget s r w i := rfl
@[simp] theorem fget_onXlt (s : State) (f : Xlt → Xlt) (x : Fld) (w i : Nat) : fget (onXlt s f) x w i = fget s x w i := rfl
@[simp] theorem rget_onMem (s : State) (f : Mem → Mem) (r : Reg) (w i : Nat) : rget (onMem s f) r w i = rget s r w i := rfl
@[simp] theorem fget_onMem (s : State) (f : Mem → Mem) (x : Fld) (w i : Nat) : fget (onMem s f) x w i = fget s x w i := rfl
@[simp] theorem rget_onPwr (s : State) (f : Pwr → Pwr) (r : Reg) (w i : Nat) : rget (onPwr s f) r w i = rget s r w i := rfl
@[simp] theorem fget_onPwr (s : State) (f : Pwr → Pwr) (x : Fld) (w i : Nat) : fget (onPwr s f) x w i = fget s x w i := rfl
@[simp] theorem rget_onCcx (s : State) (f : Ccx → Ccx) (r : Reg) (w i : Nat) : rget (onCcx s f) r w i = rget s r w i := rfl
@[simp] theorem fget_onCcx (s : State) (f : Ccx → Ccx) (x : Fld) (w i : Nat) : fget (onCcx s f) x w i = fget s x w i := rfl
@[simp] theorem rget_onInt (s : State) (f : IntState → IntState) (r : Reg) (w i : Nat) : rget (onInt s f) r w i = rget s r w i := rfl
@[simp] theorem fget_onInt (s : State) (f : IntState → IntState) (x : Fld) (w i : Nat) : fget (onInt s f) x w i = fget s x w i := rfl
@[simp] theorem rget_onBoot (s : State) (f : Boot → Boot) (r : Reg) (w i : Nat) : rget (onBoot s f) r w i = rget s r w i := rfl
@[simp] theorem fget_onBoot (s : State) (f : Boot → Boot) (x : Fld) (w i : Nat) : fget (onBoot s f) x w i = fget s x w i := rfl
@[simp] theorem rget_send (s : State) (m : OutMsg) (r : Reg) (w i : Nat) : rget (send s m) r w i = rget s r w i := rfl
@[simp] theorem fget_send (s : State) (m : OutMsg) (x : Fld) (w i : Nat) : fget (send s m) x w i = fget s x w i := rfl

end Sys2Proof.Laws
end

