-- ==== Sys2Proof/Tests/Slice0.lean ====
section
/-!
SUPPORT. Tests/Slice0.lean: the smoke test of WellFormed, one small test per family with values from the spec, and a witness for every
statement that has hypotheses.
-/

namespace Sys2Proof.Tests

open Sys2Proof Sys2Proof.Machine

set_option Elab.async false

/-! ### Small states -/

/-- The state after reset. -/
abbrev s0 : State := State.reset

/-- The state that an outcome leads to. -/
def after (o : Out) : State := match o with | .next t => t | _ => s0

/-- A domain made ON. -/
def on (s : State) (d : Nat) : State := domSet s d 0

/-- Firmware RUNNING. -/
def fwOn (s : State) : State := fset s F.CCX_FW_STATE.STATE 2

/-- Address space 0 of the PF is host memory, address for address. -/
def flat (s : State) : State := onXlt s fun x => { x with tc := [.leaf 0 0 0 40 0 false permAll false { perm1 := permAll }] }

/-- 64 bytes with fields as (offset, value, bytes). -/
def raw (l : List (Nat × Nat × Nat)) : List Byte := l.foldl (fun b x => putAt b x.1 (natLe x.2.1 x.2.2)) (zeros 64)

/-- Object i of context 1 of the PF: 32 MiB at 32 MiB times i + 1. -/
def obj (i kind : Nat) : Obj :=
  { idx := i, gen := 1, base := (i + 1) * 2 ^ 25, size := 2 ^ 25, kind := kind, ctx := 1, read := true, write := true }

/-- Queue 0 of the PF, ACTIVE, with entry 1 fetched. -/
def queueWith (b : List Byte) : Queue :=
  { gen := 1, fn := 0, ctx := 1, asid := 0, ringBase := 0x100000, ringLog2 := 6, compl := 0x200000, fenceBase := 0x201000, fenceLog2 := 6,
    state := .active, shadow := 1, fetch := 1, admin := true, entries := [{ seq := 1, raw := b }] }

/-- The flat address space with that queue, a queue 1 of context 2, and objects 0 to 5 of kinds 0 to 5. -/
def entryState (b : List Byte) : State :=
  onFe (flat s0) fun x => { x with
    queues := [(0, queueWith b), (1, { queueWith [] with ctx := 2, entries := [], shadow := 0, fetch := 0, seq := 7, resident := true })]
    objs := (List.range 6).map fun i => (i, obj i i) }

/-! ### Entries that start (02 R50 to R71) -/

/-- The command that queue i's next entry starts as, and the state in which it runs. -/
def nextRun (s : State) (i : Nat) : Option (Cmd × State) :=
  match nextCheck s i with
  | none => none
  | some (q, e) =>
    let r := checkEntry s { i := i, q := q, key := i, node := false } e.seq e.raw
    let t := onEntry r.2 i e.seq fun x => { x with objs := r.1.objs, draw := r.1.draw, batch := rget s .SEQ_BATCH q.fn, phase := .checked false }
    match queueAt t i with
    | none => none
    | some q' =>
      match q'.entries.find? unstarted with
      | none => none
      | some e' =>
        if e.phase = .fetched ∧ r.1.rejects = none ∧ r.1.zero = false ∧ e'.phase = .checked false ∧ e'.seq = e.seq ∧ e'.raw = e.raw
            ∧ issuable q' e.seq = true ∧ (ordered t i e.raw = true → earlierDone q' e.seq = true) ∧ argsOpen t i e.seq = false then
          some ({ who := { i := i, q := q', key := i, node := false }, owner := .entry i e.seq, raw := e.raw, objs := e'.objs, draw := e'.draw,
                  batch := e'.batch }, onEntry t i e.seq fun x => { x with phase := .running })
        else none

/-- What nextRun gives is ready in the sense of the statements. -/
theorem nextRun_ready {s : State} {i : Nat} {c : Cmd} {u : State} (h : nextRun s i = some (c, u)) :
    ∃ n, Safety.entryReady s i n c u := by
  unfold nextRun at h
  split at h
  · cases h
  · rename_i q e he
    dsimp only at h
    split at h
    · cases h
    · rename_i q' hq
      split at h
      · cases h
      · rename_i e' hf
        split at h
        · rename_i hc
          obtain ⟨h1, h2, h3, h4, h5, h6, h7, h8, h9⟩ := hc
          cases h
          exact ⟨e.seq, q, e, he, h1, rfl, h2, h3, q', e', hq, hf, h4, h5, h6, h7, h8, h9, rfl, rfl⟩
        · cases h

/-- A clause's hypotheses p met by a ready entry. -/
theorem ready_of {s : State} {i : Nat} (p : Cmd → State → Bool)
    (h : (match nextRun s i with | some x => p x.1 x.2 | none => false) = true) :
    ∃ n c u, Safety.entryReady s i n c u ∧ p c u = true := by
  split at h
  · rename_i x hx
    obtain ⟨n, hn⟩ := nextRun_ready (c := x.1) (u := x.2) hx
    exact ⟨n, x.1, x.2, hn, h⟩
  · cases h

/-- The state with bytes at a host address. -/
def put (s : State) (a : Nat) (bs : List Byte) : State := { s with hostMem := mwrite 0 s.hostMem a bs }

/-- A valid program header: code at 128, 16 vector and 16 scalar registers (04 R110). -/
def header : List Byte := raw [(0, 128, 4), (4, 16, 4), (8, 16, 2), (10, 16, 2), (25, 1, 1)]

/-- A state object naming program 1, stride 4, index size 2, point size 1.0 (08 R226). -/
def stateBytes : List Byte := [(0, 0x10001, 4), (12, 4, 2), (14, 2, 1), (60, 0x3F800000, 4)].foldl (fun b x => putAt b x.1 (natLe x.2.1 x.2.2)) (zeros 256)

/-- A GEOMETRY pass of queue 0 is open. -/
def inPass (s : State) : State :=
  let x : Pass := { key := 0, q := 0, fn := 0, ctx := 1, asid := 0, mode := 0, begin_ := .entry 0 0, task := 0, pool := obj 4 4,
                    units := 256, reserve := 16, target := obj 3 3 }
  onGfx s fun g => { g with passes := [(0, x)] }

/-- A ROUTE pass whose last batch has been taken. -/
def inRoute (s : State) : State :=
  let x : Pass := { key := 0, q := 0, fn := 0, ctx := 1, asid := 0, mode := 1, begin_ := .entry 0 0, task := 0, pool := obj 4 4,
                    units := 256, reserve := 16, target := obj 0 0, closed := true }
  onGfx s fun g => { g with passes := [(0, x)] }

/-- The state of a DRAW: program 1, state 2 and an open pass. -/
def drawing (b : List Byte) : State := inPass (put (put (entryState b) (2 * 2 ^ 25) header) (3 * 2 ^ 25) stateBytes)

/-- A ready entry meets p. -/
abbrev Starts (s : State) (p : Cmd → State → Bool) : Prop := ∃ n c u, Safety.entryReady s 0 n c u ∧ p c u = true

/-- Its OPCODE and SUBOP. -/
def isOp (op sub : Nat) (c : Cmd) : Bool := decide (opOf c.raw = op ∧ subOf c.raw = sub)

def rawDraw (sub : Nat) : List Byte := raw [(0, 1, 1), (1, sub, 1), (8, 0x10002, 4), (12, 0x10000, 4), (16, 0x10000, 4), (20, 3, 4), (24, 1, 4), (36, 0x10000, 4)]

theorem witness_entry_draw : ∀ k < 3, Starts (drawing (rawDraw k)) fun c u => isOp 1 k c && room u .collator && c.draw.isSome && (passOf u 0).isSome := by
  intro k h
  obtain rfl | rfl | rfl : k = 0 ∨ k = 1 ∨ k = 2 := by omega
  all_goals exact ready_of _ (by decide +kernel)

theorem witness_entry_pass_begin : Starts (entryState (raw [(0, 2, 1), (8, 0x10004, 4), (12, 0x10000, 4), (16, 1, 1), (20, 256, 4)])) fun c u =>
    isOp 2 0 c && (passOf u 0).isNone && room u .collator && decide (byteAt c.raw 16 = 1)
      && decide ((passBegin (addTask u (c.task u .collator 0)).2 u.fe.nextTask (c.task u .collator 0)).1 = .ok) := ready_of _ (by decide +kernel)
theorem witness_entry_pass_end : Starts (inPass (entryState (raw [(0, 2, 1), (1, 1, 1)]))) (fun c u =>
    isOp 2 1 c && (match passOf u 0 with | some x => decide (x.2.mode = 0) | none => false))
  ∧ Starts (inRoute (entryState (raw [(0, 2, 1), (1, 1, 1)]))) (fun c u =>
    isOp 2 1 c && (match passOf u 0 with | some x => decide (x.2.mode ≠ 0) && x.2.closed | none => false)) :=
  ⟨ready_of _ (by decide +kernel), ready_of _ (by decide +kernel)⟩

def rawDispatch (sub : Nat) : List Byte :=
  raw [(0, 3, 1), (1, sub, 1), (8, 0x10001, 4), (16, 1, 4), (20, 1, 4), (24, 1, 4), (28, 1, 2), (32, if sub = 1 then 0x10000 else 0, 4), (40, if sub = 2 then 0x4001 else 0, 4)]

theorem witness_entry_dispatch : ∀ k < 3, Starts (entryState (rawDispatch k)) fun c u => isOp 3 k c && room u .shader := by
  intro k h
  obtain rfl | rfl | rfl : k = 0 ∨ k = 1 ∨ k = 2 := by omega
  all_goals exact ready_of _ (by decide +kernel)

theorem witness_entry_accord : Starts (entryState (raw [(0, 4, 1), (8, 0x10001, 4), (12, 0x10000, 4), (16, 0x10000, 4), (20, 0x10002, 4), (24, 16, 4), (28, 16, 4), (32, 16, 4), (36, 1, 1), (37, 1, 1), (38, 1, 1)]))
    fun c u => isOp 4 0 c && room u .accord := ready_of _ (by decide +kernel)
theorem witness_entry_copy : Starts (entryState (raw [(0, 5, 1), (8, 0x10000, 4), (12, 0x10002, 4), (32, 2 ^ 20, 8)])) (fun c u => isOp 5 0 c && room u .copy)
    ∧ Starts (entryState (raw [(0, 5, 1), (1, 1, 1), (12, 0x10002, 4), (32, 4, 8)])) (fun c u => isOp 5 1 c && room u .copy) :=
  ⟨ready_of _ (by decide +kernel), ready_of _ (by decide +kernel)⟩

def rawPress (sub : Nat) : List Byte := raw [(0, 6, 1), (1, sub, 1), (8, 0x10000, 4), (12, 0x10002, 4), (32, 256, 8), (48, 512, 8)]

theorem witness_entry_press : ∀ k < 4, Starts (entryState (rawPress k)) fun c u => isOp 6 k c && room u .press && pressOwns u c.raw := by
  intro k h
  obtain rfl | rfl | rfl | rfl : k = 0 ∨ k = 1 ∨ k = 2 ∨ k = 3 := by omega
  all_goals exact ready_of _ (by decide +kernel)

theorem witness_entry_fence : Starts (entryState (raw [(0, 7, 1)])) fun c _ => isOp 7 0 c := ready_of _ (by decide +kernel)

def rawWait (seq : Nat) : List Byte := raw [(0, 8, 1), (8, 0x4001, 4), (16, seq, 8)]
def waitHolds (c : Cmd) (u : State) (reached : Bool) : Bool :=
  isOp 8 0 c && (match queueOf u c.who.q.fn (fieldAt c.raw 8 4) with
    | some x => decide (fieldAt c.raw 16 8 ≤ x.2.seq) == reached && x.2.state != .killed | none => false)

theorem witness_entry_wait : Starts (entryState (rawWait 7)) (fun c u => waitHolds c u true) ∧ Starts (entryState (rawWait 8)) (fun c u => waitHolds c u false)
    ∧ Starts (entryState (raw [(0, 8, 1), (1, 1, 1), (8, 0x10000, 4)])) (fun c _ => isOp 8 1 c) :=
  ⟨ready_of _ (by decide +kernel), ready_of _ (by decide +kernel), ready_of _ (by decide +kernel)⟩

theorem witness_entry_query : ∀ k < 4, Starts (entryState (raw [(0, 11, 1), (1, k, 1), (8, 0x10000, 4), (24, 1, 2), (28, if k = 3 then 0x4001 else 0, 4)])) fun c u =>
    isOp 11 k c && (tget c.objs 8).isSome
      && decide ((let w := queryWords u c; feWrite w.2 c.who.q (c.base 8 + fieldAt c.raw 16 8) (w.1.flatMap fun x => natLe x 8)).1 = .ok) := by
  intro k h
  obtain rfl | rfl | rfl | rfl : k = 0 ∨ k = 1 ∨ k = 2 ∨ k = 3 := by omega
  all_goals exact ready_of _ (by decide +kernel)

theorem witness_entry_teardown : ∀ k < 2, Starts (entryState (raw [(0, 12, 1), (1, k, 1), (8, 2, 2)])) fun c u =>
    isOp 12 k c && decide (tget (addTask u (c.task u .none 0)).2.fe.teardowns (fieldAt c.raw 8 2 % 4096) = none) := by
  intro k h
  obtain rfl | rfl : k = 0 ∨ k = 1 := by omega
  all_goals exact ready_of _ (by decide +kernel)

/-- A published graph of one node in object 5: version 1 in slot 0. -/
def graphBytes : List Byte := [(0, 1, 2), (4, 1, 4), (16, 1, 4), (20, 1, 4), (24, 1, 4), (30, 1, 1)].foldl (fun b x => putAt b x.1 (natLe x.2.1 x.2.2)) (zeros 256)

/-- That graph, armed, with 64 KiB of scratch. -/
def graphed (b : List Byte) : State :=
  let s := put (fset (entryState b) F.SCH_SCRATCH.SIZE 1) (6 * 2 ^ 25) graphBytes
  onXlt s fun x => { x with ranges := [{ fn := 0, obj := 5, lo := 6 * 2 ^ 25, hi := 7 * 2 ^ 25, protect := false }] }

theorem witness_entry_graph : Starts (graphed (raw [(0, 9, 1), (8, 0x10005, 4)])) fun c u =>
    isOp 9 0 c && (match tget c.objs 8 with
      | some g => (match (launchStart u (.entry 0 1) c.who.q g (fieldAt c.raw 16 4) (.at_ (c.base 12 + fieldAt c.raw 20 4))).1 with | .ok _ => true | _ => false)
      | none => false) := ready_of _ (by decide +kernel)

/-- A step without a ring, and one of a ring whose ports are not UP. -/
def rawStep (ring : Nat) : List Byte := raw [(0, 10, 1), (8, 0x10005, 4), (12, 1, 4), (16, 0x10000, 4), (20, 0x10000 * ring, 4), (24, ring, 4), (28, ring, 1)]

/-- Both Uaper ports UP with PEER_MATCH, and the ring enabled. -/
def ringUp (s : State) : State :=
  [0, 1].foldl (fun s p => fset (fset (on s (48 + p)) F.UAP_STATUS.STATE 2 0 p) F.UAP_STATUS.PEER_MATCH 1 0 p) (fset s F.SEQ_RING_CFG.EN 1)

theorem witness_entry_step : Starts (graphed (rawStep 0)) (fun c u => isOp 10 0 c && u.seq.runs.isEmpty && !bit (byteAt c.raw 28) 0)
    ∧ Starts (graphed (rawStep 1)) (fun c u => isOp 10 0 c && u.seq.runs.isEmpty && bit (byteAt c.raw 28) 0 && !ringReady u)
    ∧ Starts (ringUp (graphed (rawStep 1))) (fun c u => isOp 10 0 c && u.seq.runs.isEmpty && bit (byteAt c.raw 28) 0 && ringReady u) :=
  ⟨ready_of _ (by decide +kernel), ready_of _ (by decide +kernel), ready_of _ (by decide +kernel)⟩

/-! ### Where the statements' hypotheses hold (00 to 03)

One theorem for each statement that has hypotheses; where it has several clauses, each conjunct is the hypotheses of one clause. -/

/-- The option holds something that meets p. -/
def has {α : Type} (o : Option α) (p : α → Bool) : Bool := match o with | some x => p x | none => false

/-- The state at a value of the time base. -/
def at_ (s : State) (t : Nat) : State := { s with time := t }

theorem witness_StepRunsFrontCommand : ({ s0 with pending := [.hpdPlug 0] } : State).pending = .hpdPlug 0 :: [] := rfl

theorem witness_TimedCommands :
    (Safety.powered (at_ s0 1000) ∧ (at_ s0 1000).time ≠ 0 ∧ (at_ s0 1000).time % 1000 = 0 ∧ domOn (at_ s0 1000) 41 = true)
    ∧ (fnExists s0 0 = true ∧ (fnCfg s0 0).inFlr = false ∧ failsafe s0 = false ∧ fget s0 F.HIF_TIME_CTL.SOURCE = 0)
    ∧ (Safety.engines (at_ s0 1000000) ∧ (at_ s0 1000000).time % 1000000 = 0 ∧ domOn (at_ s0 1000000) 41 = true ∧ fget (at_ s0 1000000) F.SCH_INTF_CTL.EN = 0) := by
  decide +kernel

theorem witness_QcmdBusyDiscarded :
    let s := fset s0 F.FE_QRESULT.BUSY 1
    Safety.writable s .FE_QCMD 0 0 ∧ fget s F.FE_QRESULT.BUSY 0 = 1 := by decide +kernel

/-- Queue 0 of context 1 of the PF in a state, named by FE_QARG. -/
def queued (st : QState) (stopped : Option Nat := none) : State :=
  rset (onFe (flat s0) fun x => { x with queues := [(0, { queueWith [] with state := st, stoppedAt := stopped })] }) .FE_QARG 0x4000

theorem witness_QcmdOperations :
    (Safety.writable s0 .FE_QCMD 1 0 ∧ fget s0 F.FE_QRESULT.BUSY 1 = 0 ∧ freeQueue s0 1 = none)
    ∧ (Safety.writable s0 .FE_QCMD 0 0 ∧ fget s0 F.FE_QRESULT.BUSY 0 = 0 ∧ freeQueue s0 0 = some 0 ∧ queueOf s0 0 (qArg s0 0) = none)
    ∧ (∀ st ∈ [QState.idle, .stopped, .killed, .active, .drain],
        Safety.writable (queued st) .FE_QCMD 0 0 ∧ fget (queued st) F.FE_QRESULT.BUSY 0 = 0
        ∧ has (queueOf (queued st) 0 (qArg (queued st) 0)) (fun x => x.2.state == st) = true)
    ∧ has (queueOf (queued .stopped (some 3)) 0 (qArg (queued .stopped (some 3)) 0)) (fun x => x.2.stoppedAt == some 3) = true := by
  decide +kernel

/-- A CREATE of function 0 whose descriptor stands at 0x1000. -/
def creating (d : List Byte) : State :=
  put (rset (onFe (flat s0) fun x => { x with creating := [(0, 0)] }) .FE_QARG 0x1000) 0x1000 d

/-- A descriptor: ring, completion and fence addresses, logs 6 and 7, a context. -/
def descriptor (ctx : Nat) (compl : Nat := 0x200000) : List Byte := raw [(0, 0x100000, 8), (8, 6, 1), (12, ctx, 2), (16, compl, 8), (24, 0x201000, 8), (32, 7, 1)]

theorem witness_QueueCreateEnds :
    let ends (s : State) (p : Status → Option Status → Status → Bool) : Bool :=
      let s1 := onFe s fun x => { x with creating := tdel x.creating 0 }
      let r := ipaRead s1 0 (rget s .FE_QARG 0) 64
      let q := queueFrom 0 (tgetD r.2.2.fe.qGen 0 1) r.2.1
      let w := feWrite (onFe r.2.2 fun x => { x with queues := tset x.queues 0 q }) q q.compl (zeros 16)
      decide (Safety.unitRuns s 0x112) && decide (tget s.fe.creating 0 = some 0) && p r.1 (descCheck r.2.2 0 r.2.1) w.1
    (ends (creating (descriptor 1)) fun r c w => r == .ok && c.isNone && w == .ok) = true
    ∧ (ends (creating (descriptor 1 (2 ^ 44))) fun r c w => r == .ok && c.isNone && w != .ok) = true
    ∧ (ends (creating (descriptor 0)) fun r c _ => r == .ok && c.isSome) = true
    ∧ (ends (rset (creating (descriptor 1)) .FE_QARG (2 ^ 48)) fun r _ _ => r != .ok) = true := by decide +kernel

/-- Queue 0 ACTIVE with nothing left to fetch, changed by f. -/
def quiet (f : Queue → Queue) : State := onFe (flat s0) fun x => { x with queues := [(0, f { queueWith [] with entries := [], shadow := 1, fetch := 1, seq := 1 })] }

theorem witness_DoorbellsAndIdle :
    let s := quiet id
    (Safety.engines s ∧ recovering s 0x112 = false ∧ (queueAt s 0).isSome = true ∧ fnExists s 0 = true ∧ (fnCfg s 0).inFlr = false ∧ inQ s 0 0 = true ∧ inQ s 1 0 = false ∧ s.fe.launches = [] ∧ domOn s 41 = true ∧ domOpen s 41 = true)
    ∧ (has (queueAt s 0) fun q => decide (sub32 65 q.shadow ≠ 0 ∧ sub32 65 q.shadow < 2 ^ 31 ∧ sub32 65 (oldest q) ≤ 2 ^ q.ringLog2
        ∧ sub32 66 q.shadow < 2 ^ 31 ∧ 2 ^ q.ringLog2 < sub32 66 (oldest q) ∧ q.state = .active ∧ q.fetch % 2 ^ 32 = q.shadow)) = true
    ∧ (has (queueAt (quiet fun q => { q with state := .idleArmed, arm := .returned 1 }) 0) fun q =>
        decide (q.arm = .returned q.shadow ∧ q.state = .idleArmed ∧ q.wake = false ∧ q.shadow = q.fetch % 2 ^ 32)) = true
    ∧ (has (queueAt (quiet fun q => { q with state := .idleArmed, arm := .returned 2 }) 0) fun q => decide (q.state = .idleArmed ∧ q.arm = .returned 2 ∧ 2 ≠ q.fetch % 2 ^ 32)) = true
    ∧ (has (queueAt (quiet fun q => { q with state := .idle, wake := true }) 0) fun q => decide (q.wake = true ∧ q.state = .idle)) = true := by decide +kernel

/-- Queue 0 with an entry in a phase. -/
def phased (b : List Byte) (p : EPhase) : State := onFe (entryState b) fun x => { x with queues := [(0, { queueWith b with entries := [{ seq := 1, raw := b, phase := p }] })] }

/-- A started command of entry 1 of queue 0 as task 0. -/
def tasked (b : List Byte) (e : Eng) (f : Task → Task := id) : State :=
  let k : Task := { owner := .entry 0 1, q := 0, fn := 0, ctx := 1, asid := 0, cls := 0, prio := 0, eng := e, raw := b,
                    objs := [(8, obj 0 0), (12, obj 2 2), (32, obj 0 0)] }
  onFe (phased b .running) fun x => { x with nextTask := 1, tasks := [(0, f k)] }

/-- An instance of the one-node graph with its node ready. -/
def launched (f : Launch → Launch := id) (b : List Byte := []) : State :=
  onFe (graphed (raw [(0, 9, 1), (8, 0x10005, 4)])) fun x => { x with
    launches := [(0, f { owner := .entry 0 1, graph := obj 5 5, version := 1, slot := 0, args := b, home := queueWith [], scratch := 0, nodes := 1, ready := [0] })] }

theorem witness_EntryProgress :
    (let s := onFe (flat s0) fun x => { x with queues := [(0, { queueWith [] with entries := [], fetch := 0 })] }
     Safety.engines s ∧ domOn s 41 = true ∧ (has (queueAt s 0) fun q => decide (q.state = .active ∧ q.cls = 0 ∧ q.resident = false ∧ q.fetch % 2 ^ 32 ≠ q.shadow)) = true)
    ∧ (has (nextCheck (entryState (raw [(0, 5, 1)])) 0) fun x => decide (x.2.phase = .fetched ∧ opOf x.2.raw = 5 ∧ subOf x.2.raw = 0)) = true
    ∧ (∀ m ∈ [1, 2], (has (nextCheck (phased (raw [(0, 5, 1)]) (.missing m none)) 0) fun x => decide (x.2.phase = .missing m none)) = true)
    ∧ (recovering (phased (raw [(0, 5, 1)]) .fetched) 0x112 = false ∧ recovering (tasked (raw [(0, 5, 1)]) .copy) 0x113 = false)
    ∧ (readStatus .ok = false ∧ readStatus .uncorrectableEcc = true)
    ∧ (has (tget (launched).fe.launches 0) fun x => decide (x.ready.head? = some 0) && (nodeTry launched 0 0).1) = true
    ∧ (∀ e ∈ [Eng.shader, .accord, .copy, .press], (has (taskAt (tasked (raw [(0, 5, 1)]) e) 0) fun k =>
        decide (k.owner = .entry 0 1) && itemsEnded k) = true)
    ∧ (∀ n ∈ [0, 1],
        let s := put (tasked (raw [(0, 3, 1), (1, 1, 1), (36, 64, 4)]) .shader fun k => { k with reading := true }) (2 ^ 25 + 64) (natLe n 4 ++ natLe 1 4 ++ natLe 1 4)
        (has (taskAt s 0) fun k =>
          let r := vread s 210 7 k.fn k.asid k.ctx (objBase k 32 + fieldAt k.raw 36 4) 12
          let c := indirectFails (putAt k.raw 16 (r.2.1.take 12)) k.objs none
          decide (k.reading = true ∧ k.discarded = false ∧ opOf k.raw = 3 ∧ r.1 = .ok ∧ firstFail c.1 = none ∧ c.2 = decide (n = 0))) = true)
    ∧ (let s := put (tasked (raw [(0, 3, 1), (1, 1, 1), (36, 64, 4)]) .shader fun k => { k with reading := true }) (2 ^ 25 + 64) (natLe (2 ^ 32 - 1) 4)
       (has (taskAt s 0) fun k =>
          let r := vread s 210 7 k.fn k.asid k.ctx (objBase k 32 + fieldAt k.raw 36 4) 12
          decide (r.1 = .ok ∧ firstFail (indirectFails (putAt k.raw 16 (r.2.1.take 12)) k.objs none).1 ≠ none)) = true)
    ∧ (has (taskAt (tasked (raw [(0, 3, 1), (1, 1, 1)]) .shader fun k => { k with reading := true, asid := 2 ^ 20 }) 0) fun k =>
        decide ((vread s0 210 7 k.fn k.asid k.ctx (objBase k 32 + fieldAt k.raw 36 4) 12).1 ≠ .ok)) = true := by decide +kernel

/-- A WAIT for a value of memory, TIMEOUT_US 5. -/
def waiting (reading : Bool) : State := tasked (raw [(0, 8, 1), (1, 1, 1), (16, 9, 8), (32, 5, 4)]) .none fun k => { k with reading := reading }

theorem witness_WaitsNodesDiscards :
    (Safety.unitRuns (waiting false) 0x112 ∧ Safety.unitRuns (waiting true) 0x113)
    ∧ (has (tget (waiting false).fe.tasks 0) fun k => isWait k 1 && !k.reading && decide (fieldAt k.raw 32 4 ≠ 0 ∧ k.start + 1000 * fieldAt k.raw 32 4 ≤ (at_ (waiting false) 5000).time
        ∧ (at_ (waiting false) 4999).time < k.start + 1000 * fieldAt k.raw 32 4)) = true
    ∧ (∀ v ∈ [8, 9], let s := put (waiting true) (2 ^ 25) (natLe v 8)
        (has (tget s.fe.tasks 0) fun k => isWait k 1 && k.reading && decide (let r := vread s 210 7 k.fn k.asid k.ctx (waitAddr k) 8
          r.1 = .ok ∧ (fieldAt k.raw 16 8 ≤ leNat r.2.1 ↔ v = 9))) = true)
    ∧ (has (tget (waiting true).fe.tasks 0) fun k => decide ((vread s0 210 7 k.fn 9 k.ctx (waitAddr k) 8).1 ≠ .ok)) = true
    ∧ (let s := onFe (tasked (raw [(0, 5, 1)]) .copy fun k => { k with owner := .node 0 0, ended := true }) fun x => { x with launches := (launched).fe.launches }
       (tget s.fe.launches 0).isSome = true ∧ (has (ownerTask s (.node 0 0)) fun x => x.2.ended) = true)
    ∧ (let s := onFe (tasked (raw [(0, 5, 1)]) .copy fun k => { k with owner := .node 0 0 }) fun x => { x with launches := (launched).fe.launches }
       (has (ownerTask s (.node 0 0)) fun x => !x.2.ended && itemsEnded x.2) = true)
    ∧ (let s := fwOn (tasked (raw [(0, 5, 1)]) .copy)
       Safety.writable s .SCH_DISCARD 0 0 ∧ fwActive s = true ∧ (has (queueAt s 0) fun q => decide (q.gen = 0x4000 / 2 ^ 14)) = true
       ∧ (has s.fe.tasks.head? fun x => decide (s.fe.tasks.length = 1 ∧ x.2.owner = .entry 0 1 ∧ x.2.cls = 0)) = true) := by decide +kernel

/-- A teardown of context 1 in a step. -/
def tearing (st : TdStep) : State := onFe (entryState []) fun x => { x with teardowns := [(1, { fn := 0, step := st, cmds := [(1, 1)] })] }

theorem witness_TeardownSteps :
    (∀ st ∈ [TdStep.draining 5, .preempting, .invalidating 1], Safety.unitRuns (tearing st) 0x112 ∧ (has (tget (tearing st).fe.teardowns 1) fun t => decide (t.step = st)) = true)
    ∧ (5 ≤ (at_ (tearing (.draining 5)) 5).time ∧ (at_ (tearing (.draining 5)) 4).time < 5)
    ∧ (tdIdle (tearing .preempting) 1 = true ∧ tdIdle (inPass (tearing .preempting)) 1 = false)
    ∧ (tdInvs (tearing (.invalidating 1)) 1 = 0 ∧ tdInvs (invRequest (tearing (.invalidating 1)) { src := .teardown 1, op := .range 0 0 0 4096 }) 1 ≠ 0) := by
  decide +kernel

/-- FE_OBJ registers of the PF for an object of 256 bytes at an address. -/
def objArgs (a : Nat) : State := rset (rset (rset s0 .FE_OBJ_ATTR 0x3001) .FE_OBJ_SIZE 256) .FE_OBJ_ADDR a

/-- Object 4 named by FE_OBJ_HANDLE. -/
def objNamed (s : State) : State := rset s .FE_OBJ_HANDLE 0x10004

theorem witness_PartitionsAndObjects :
    (Safety.writable s0 .FE_PART 0 1)
    ∧ (∀ a ∈ [0x100, 0x80], let s := objArgs a
        let attr := rget s .FE_OBJ_ATTR 0
        Safety.writable s .FE_OBJ_CMD 0 0 ∧ fget s F.FE_OBJ_RESULT.BUSY 0 = 0 ∧ bits attr 31 20 = 0 ∧ bit attr 15 = false ∧ bits attr 19 16 ≤ 5
        ∧ bits attr 11 0 ≠ 0 ∧ inCtx s 0 (bits attr 11 0) = true ∧ ctxGone s (bits attr 11 0) = false ∧ 0 < rget s .FE_OBJ_SIZE 0
        ∧ rget s .FE_OBJ_SIZE 0 ≤ 2 ^ 48 ∧ freeObj s 0 = some 0 ∧ (rget s .FE_OBJ_ADDR 0 % 256 = 0 ↔ a = 0x100))
    ∧ (∀ x ∈ [(objNamed s0, none), (objNamed (entryState []), some false), (objNamed (inPass (entryState [])), some true)],
        Safety.writable x.1 .FE_OBJ_CMD 0 0 ∧ fget x.1 F.FE_OBJ_RESULT.BUSY 0 = 0
        ∧ (objectOf x.1 0 (fget x.1 F.FE_OBJ_HANDLE.HANDLE 0)).map (objInUse x.1 0) = x.2)
    ∧ (Safety.writable (fset s0 F.FE_OBJ_RESULT.BUSY 1) .FE_OBJ_CMD 0 0 ∧ fget (fset s0 F.FE_OBJ_RESULT.BUSY 1) F.FE_OBJ_RESULT.BUSY 0 = 1) := by decide +kernel

theorem witness_CompletionAdvances :
    (Safety.unitRuns (entryState []) 0x112 ∧ (has (queueAt (entryState []) 0) fun q => decide (runNow q = [] ∧ q.owed = [])) = true)
    ∧ (∀ f ∈ [0, 1], let s := phased (raw [(0, 5, 1), (2, f, 1)]) (.finished .ok)
       (has (queueAt s 0) fun q => has (runNow q).getLast? fun l =>
         let w := feWrite s q q.compl (natLe l.seq 8 ++ complTail q)
         let u := onQueue (seqWritten w.2 0 l.seq) 0 fun q => { q with entries := q.entries.filter fun e => l.seq < e.seq, owed := [] }
         decide (q.owed = [] ∧ w.1 = .ok) && (match (runNow q).filter fun e => (fenceKind q.cont e).isSome with
           | [] => decide (f = 0 ∧ fencePiOf u 0 = some q.fencePi)
           | [e] => let k := (fenceKind q.cont e).getD 0
             decide (f = 1 ∧ fencePiOf (fenceWrite u 0 (fenceCookie e k) e.seq (endStatus e) k) 0 ≠ some q.fencePi)
               && has (queueAt u 0) fun x => fenceRoom x && decide (x.fencePi = q.fencePi ∧ x.cont = q.cont)
           | _ => false)) = true)
    ∧ (let s := onQueue (phased (raw [(0, 5, 1)]) (.finished .ok)) 0 fun q => { q with compl := 2 ^ 50 }
       (has (queueAt s 0) fun q => has (runNow q).getLast? fun l => decide ((feWrite s q q.compl (natLe l.seq 8 ++ complTail q)).1 ≠ .ok)) = true) := by decide +kernel

/-- The flat address space is device memory. -/
def device (s : State) : State := onXlt s fun x => { x with tc := [.leaf 0 0 0 36 0 true permAll false { perm1 := permAll }] }

theorem witness_BestRankFirst :
    let s := tasked (raw [(0, 5, 1)]) .copy fun k => { k with total := 1 }
    (has (readyTasks s .copy).head? fun x => decide (x.1 = 0)) = true
    ∧ (∀ x ∈ s.fe.tasks, x.2.prio ≤ 15 ∧ turnKey x.2 < 2 ^ 30 - 1 ∧ x.2.cls < 4) ∧ lastTurn s .copy ≤ 2 ^ 30 - 1 := by decide +kernel

/-- One group in slot 0 of core 0 with two threads. -/
def group1 : Group := { slot := 0, idx := 0, threads := [{}, {}] }

/-- A program of 16 vector and 16 scalar registers. -/
def prog1 : Prog := { base := 0, codeOffset := 128, codeSize := 64, vregs := 16, sregs := 16, argSize := 0, privateBytes := 0, barTimeout := 7,
                      accord := true, resident := false, fp64 := true }

/-- Block 1, of that group, on core 0. -/
def block1 : Block := { kind := .item 0 0, core := 0, fn := 0, ctx := 1, asid := 0, q := 0, cls := 0, prog := prog1, nGroups := 1, localKib := 0, groups := [group1] }

/-- Block 1 changed by f, of task 0 on cluster 0, which is ON. -/
def running (f : Block → Block := id) : State :=
  onSc (on (tasked (raw [(0, 4, 1)]) .shader) 0) fun x => { x with blocks := [(1, f block1)] }

/-- A tile of pass 0 in slot 0 of raster unit 0, changed by f. -/
def tiled (f : RTile → RTile := id) : State :=
  onGfx (inPass (on (entryState []) 0)) fun g => { g with tiles := [(0, f { pass := 0, tile := 0, runs := [], data := [], recs := [], final := false })] }

theorem witness_ItemsPreemptionAndBudget :
    (let s := tasked (raw [(0, 5, 1)]) .copy fun k => { k with total := 1 }
     Safety.unitRuns s 0x113 ∧ (has (readyTasks s .copy).head? fun x => decide (x.1 = 0)) = true ∧ liveItems s .copy (fun _ => true) < 4)
    ∧ 4 ≤ liveItems (tasked (raw [(0, 5, 1)]) .copy fun k => { k with live := [0, 1, 2, 3] }) .copy (fun _ => true)
    ∧ (let s := on (tasked (raw [(0, 6, 1)]) .press fun k => { k with total := 1 }) 43
       domOpen s 43 = true ∧ ((readyTasks s .press).find? fun x => liveItems s .press (fun k => compresses k = compresses x.2) = 0).isSome = true)
    ∧ (let s := tasked (raw [(0, 6, 1)]) .press fun k => { k with total := 1 }
       domOpen s 43 = false ∧ readyTasks s .press ≠ [])
    ∧ (∀ d ∈ [0, 2], let s := domSet (put (tasked (raw [(0, 3, 1), (28, 1, 2)]) .shader fun k => { k with total := 1, objs := [(8, obj 1 1)] }) (2 * 2 ^ 25) header) 0 d
       (match readyTasks s .shader with
        | [x] => match taskProg s x.1 x.2 with
          | (some (p, k), u) => decide ((nextCore u x.1 k p).isSome ↔ d = 0) && decide (savedItem u x.1 (takeItem k).1 = none)
          | _ => false
        | _ => false) = true)
    ∧ (has (taskAt (tasked (raw [(0, 5, 1), (32, 4, 8)]) .copy fun k => { k with live := [0] }) 0) fun k => decide (k.eng = .copy ∧ 0 ∈ k.live)) = true
    ∧ (Safety.engines (running) ∧ ∀ p ∈ [PrePhase.none, .requested, .saving],
        (has (blockAt (running fun k => { k with pre := p }) 1) fun k => decide (k.pre = p ∧ k.engine = none ∧ k.discard = false) && engineStill (running) k) = true)
    ∧ (let s := onSc (running fun k => { k with pre := .saving, engine := some 0 }) fun x => { x with engines := [(0, { block := some 1, array := some 1 })] }
       (has (blockAt s 1) fun k => decide (k.pre = .saving) && !engineStill s k) = true)
    ∧ (∀ p ∈ [PrePhase.requested, .saving], (has (tileAt (tiled fun t => { t with pre := p }) 0 0) fun t => decide (t.pre = p)) = true
        ∧ (upFrom 256 4096).find? (fun k => (tget (tiled fun t => { t with pre := p }).gfx.tiles k).isNone) = some 256)
    ∧ ((has (groupIn (running) 0 0) fun x => decide (x.1 = 1)) = true ∧ fget (running) F.SCH_DL_BUDGET.STEPS = 0)
    ∧ (let s := fset (running fun k => { k with cls := 1 }) F.SCH_DL_BUDGET.STEPS 5
       (has (groupIn s 0 0) fun x => decide (x.1 = 1 ∧ x.2.1.cls = 1 ∧ x.2.1.kind = .item 0 0)) = true ∧ fget s F.SCH_DL_BUDGET.STEPS ≠ 0)
    ∧ (∀ e ∈ [BKind.position 0, .fragment 0 0], let s := fset (onGfx (running fun k => { k with cls := 2, kind := e }) fun g => { g with tiles := tiled.gfx.tiles }) F.SCH_DL_BUDGET.STEPS 5
       (has (groupIn s 0 0) fun x => decide (x.2.1.kind = e)) = true ∧ (tget s.gfx.tiles 0).isSome = true) := by
  decide +kernel

/-- A graph of one node, FENCE, in object 5 with arguments in device memory, and the PUBLISH and PATCH arguments. -/
def publishing (b : List Byte) (f : State → State := id) : State :=
  f (rset (device (onFe s0 fun x => { x with objs := [(0, obj 0 0), (5, { obj 5 5 with size := 4096 })] })) .SCH_GARG0 ((0x10000 <<< 32) + 0x10005)
    |> fun s => { s with mem := { s.mem with hbm := mwrite 0 s.mem.hbm (6 * 2 ^ 25) b } })

theorem witness_GraphOperations :
    let g0 := (fun s : State => decide (Safety.writable s .SCH_GCMD 0 0 ∧ fget s F.SCH_GRESULT.BUSY 0 = 0))
    g0 (publishing []) = true
    ∧ (gopBegin s0 0 1).1.graph = none
    ∧ (has (gopBegin (publishing [] fun s => onFe s fun x => { x with objs := [(5, obj 5 0)] }) 0 1).1.graph fun g => !gopRights g none) = true
    ∧ (∀ c ∈ [0, 1], let s := publishing (natLe c 2 ++ natLe 0 2 ++ natLe c 4 ++ zeros 440 ++ [5] ++ zeros 75 ++ List.replicate 32 255)
        (has (gopBegin s 0 1).1.graph fun g => gopRights g none && decide (liveOf (gopBegin s 0 1).2 0 g.idx = [])
          && decide ((publishCheck (gopBegin s 0 1).2 0 g).1.1 = .ok ↔ c = 1)) = true)
    ∧ (let s := fset s0 F.SCH_GRESULT.BUSY 1
       Safety.writable s .SCH_GCMD 0 0 ∧ fget s F.SCH_GRESULT.BUSY 0 = 1)
    ∧ (let op (o : Nat) (f : Option (Status × Nat)) : GOp := { op := o, graph := some (obj 5 5), stage := some (obj 0 0), count := 1, offset := 0, failed := f }
       let s (o : GOp) : State := onXlt (onFe s0 fun x => { x with gops := [(0, o)] }) fun x => { x with ranges := [{ fn := 0, obj := 5, lo := 0, hi := 4096, protect := false }] }
       (∀ o ∈ [op 1 (some (.badOpcode, 0)), op 1 none, op 2 none], Safety.unitRuns (s o) 0x113 ∧ tget (s o).fe.gops 0 = some o ∧ arming (s o) 0 = false
         ∧ (graphRange (s o) 0 5).isSome = true ∧ liveOf (s o) 0 5 = [] ∧ gopRights (obj 5 5) (some (obj 0 0)) = true)
       ∧ arming (invRequest (s (op 1 none)) { src := .graph 0, op := .outputRange 0 4096 }) 0 = true) := by decide +kernel

/-! ### 04 to 06 -/

/-- What a pipe issues, and the state in which it is performed. -/
def nextIssue (s : State) (core pipe : Nat) (ops : List (Nat × Nat)) (all : Bool) : Option (Issue × State) :=
  match pipeNext s core pipe with
  | none => none
  | some j =>
    if j.ts.any (operandWaits j.g ops all) then none else
    let g := onThreads (onThreads j.g (liveThat j.g fun h => decide (h.wait = .none)) fun h => { h with age := h.age + 1 }) j.ts fun h => { h with age := 0 }
    some ({ j with g := g }, onGroup (onSc s fun x => { x with pipes := tset x.pipes (core * 4 + pipe) g.slot }) j.b g.slot fun _ => g)

/-- A clause's hypotheses p met by an issue. -/
theorem issues_of {s : State} {core pipe : Nat} {ops : List (Nat × Nat)} {all : Bool} (p : Issue → State → Bool)
    (h : (match nextIssue s core pipe ops all with | some x => p x.1 x.2 | none => false) = true) :
    ∃ i u, Safety.issues s core pipe ops all i u ∧ p i u = true := by
  split at h
  · rename_i x hx
    unfold nextIssue at hx
    split at hx
    · cases hx
    · rename_i j hj
      dsimp only at hx
      split at hx
      · cases hx
      · rename_i hw
        cases hx
        exact ⟨_, _, ⟨j, hj, by simpa using hw, rfl, rfl⟩, h⟩
  · cases h

/-- Pipe 0 of core 0 issues an instruction that meets p. -/
abbrev Issues (s : State) (p : Issue → State → Bool) (ops : List (Nat × Nat) := [(0, 1)]) (all : Bool := false) : Prop :=
  ∃ i u, Safety.issues s 0 0 ops all i u ∧ p i u = true

theorem witness_CohortChoice :
    let ready (g : Group) := liveThat g fun h => decide (h.wait = .none)
    ({ group1 with park := some { id := 0, gen := 0, status := .ok, mask := 0, pc := 0 } } : Group).park.isSome = true
    ∧ (group1.park = none ∧ ready group1 ≠ [] ∧ (cohortOf group1).isSome = true)
    ∧ ((ready group1).filter (fun t => decide (31 ≤ (thr group1 t).age)) = [])
    ∧ (let g := { group1 with threads := [{ pc := 0 }, { pc := 8, age := 31 }] }
       (ready g).filter (fun t => decide (31 ≤ (thr g t).age)) = [1] ∧ cohortOf g = some (8, [1])) := by decide +kernel

/-- The group with scalar registers given and vector registers 0 and 1 of thread 0 set. -/
def withRegs (sr : Tbl W32) (v : Tbl W32 := []) : State := running fun k => { k with groups := [{ group1 with sr := sr, v := v }] }

/-- An access of thread 0 that returns to register 0 is outstanding. -/
def accessing : State :=
  running fun k => { k with groups := [{ group1 with mem := [{ op := .load, size := 4, dst := 0, lanes := [{ thread := 0, addr := 0x1000 }] }] }] }

theorem witness_IssuedInstructions :
    (Safety.engines s0 ∧ pipeNext s0 0 0 = none)
    ∧ (Safety.engines (accessing) ∧ (has (pipeNext accessing 0 0) fun j => j.ts.any (operandWaits j.g [(0, 1)] false) && j.ts.any (operandWaits j.g [] true)) = true)
    ∧ Issues (running) (fun i _ =>
      [SIns.float2 .add .b32 .ties 0 1 2, .fma .b32 .ties 0 1 2 3, .cvt .b32 .b16 .ties false 0 1, .scalar .add 0 1 2, .imm 0 5, .branch 8, .branchIf 0 8,
        .memory .load 4 0 2 0 false false false].all (fun x => x.exists i.blk.prog)
      && (IOp.apply .add (sreg i.g 1) (sreg i.g 2)).isSome && (IOp.apply .shl 1 32).isNone
      && !storeBarred i.blk .load false false
      && !(SIns.imm 200 5).exists i.blk.prog
      && !i.lacks [(0, 1)] [])
    ∧ Issues (running) (fun _ _ => true) [] true :=
  ⟨by decide +kernel, by decide +kernel, issues_of _ (by decide +kernel), issues_of _ (by decide +kernel)⟩

theorem witness_RegisterInstructionFrame :
    ∃ i u, Safety.issues (running) 0 0 (SIns.imm 0 5).vregs (SIns.imm 0 5).isFence i u ∧ ((SIns.imm 0 5).exists i.blk.prog && !i.lacks [(0, 1)] []) = true :=
  issues_of _ (by decide +kernel)

/-- Queue 1 resident and named by s0, with shadow 3; s1 is 3, s2 and s3 a number. -/
def residing (ix : Nat) : State :=
  onFe (withRegs [(0, 0x4001#32), (1, BitVec.ofNat 32 ix)]) fun x => { x with queues := [(1, { queueWith [] with resident := true, entries := [], shadow := 3, coreWake := true })] }

theorem witness_BarriersAndWaits :
    Issues (running) (fun _ _ => true) []
    ∧ (∀ ix ∈ [2, 3], Issues (residing ix) fun i u => !i.lacks [(0, 1)] [(0, 1), (1, 1)] && !i.lacks [] [(0, 1), (2, 2)]
        && has (residentQueue u i.blk (sreg i.g 0)) fun x => decide (x.2.shadow = sreg i.g 1 ↔ ix = 3))
    ∧ Issues (running) (fun i u => i.lacks [(0, 1)] [(200, 1), (1, 1)] && (residentQueue u i.blk (sreg i.g 0)).isNone)
    ∧ (let s := running fun k => { k with bars := [(0, 5)], groups := [{ group1 with threads := [{ wait := .bar 0 }, { wait := .bar 1 }] }] }
       (has (blockAt s 1) fun k => k.groups.all (fun g => decide (g.park = none ∧ liveThat g (fun _ => true) = atBarrier g)) && decide (k.prog.barTimeout ≠ 0)
         && decide (1 < ((List.range 16).filter fun n => k.groups.any fun g => decide (liveThat g (fun h => decide (h.wait = .bar n)) ≠ [])).length)
         && (tget k.bars 0).isSome) = true)
    ∧ (has (blockAt (running) 1) fun k => k.groups.any fun g => decide (liveThat g (fun _ => true) ≠ atBarrier g)) = true
    ∧ (has (blockAt (running fun k => { k with prog := { prog1 with barTimeout := 0 } }) 1) fun k => decide (k.prog.barTimeout = 0)) = true
    ∧ (Safety.engines (residing 3) ∧ (has (queueAt (residing 3) 1) fun q => q.coreWake) = true ∧ domOn (residing 3) 41 = true)
    ∧ (has (groupIn accessing 0 0) fun x => has x.2.2.mem[0]? fun q0 =>
        let q := (orderedPart accessing x.2.1 q0).1
        let r := lanesCheck x.2.1 q q.lanes [] (onGroup accessing x.1 0 id)
        decide (x.2.1.pre ≠ .saving) && !olderMeets (x.2.2.mem.take 0) q0 && decide (q.threads ≠ [])
          && r.1.isNone && (reqRun r.2 x.1 x.2.1 0 q false).1.isNone) = true := by
  refine ⟨issues_of _ (by decide +kernel), ?_, issues_of _ (by decide +kernel), by decide +kernel, by decide +kernel, by decide +kernel, by decide +kernel, by decide +kernel⟩
  intro ix h
  obtain rfl | rfl : ix = 2 ∨ ix = 3 := by simpa using h
  all_goals exact issues_of _ (by decide +kernel)

theorem witness_ReplayOperations :
    (let s := running fun k => { k with groups := [{ group1 with park := some { id := 3, gen := 2, status := .translationFault, mask := 1, pc := 0 } }] }
     Safety.writable s .SC_REPLAY 0 0 ∧ fget s F.SC_REPLAY_RESULT.BUSY 0 = 0
     ∧ ((parkedGroups s).find? fun x => x.2.2.2.2.id = 3 ∧ x.2.2.2.2.gen = 2 ∧ ((0 : Nat) = 0 ∨ x.2.2.1.fn = 0)).isSome = true
     ∧ ((parkedGroups s).find? fun x => x.2.2.2.2.id = 4 ∧ x.2.2.2.2.gen = 2 ∧ ((0 : Nat) = 0 ∨ x.2.2.1.fn = 0)) = none
     ∧ inCtx s 0 1 = true ∧ inCtx s 1 1 = false ∧ Safety.writable s .SC_REPLAY 1 0 ∧ fget s F.SC_REPLAY_RESULT.BUSY 1 = 0)
    ∧ (Safety.engines (running) ∧ domOn (running) (0 / 8) = true) := by decide +kernel

/-- Block 1 changed by f and bound to engine 0, which is changed by g; the engine's domain is ON and it owns bank 0. -/
def according (g : Engine → Engine := id) (f : Block → Block := id) : State :=
  fset (on (onSc (running fun k => f { k with engine := some 0 }) fun x => { x with engines := [(0, g { block := some 1 })] }) 16) F.FOL_BANK.OWNER 2 0 0

/-- An Accord instruction of those descriptor words with token 1. -/
def accIns (l : List Nat) (tok : Nat := 1) : AccIns := { words := l, token := tok, group := 0, mask := [0, 1], dst := 0, d := 0, pc := 0 }

/-- An MMA of 64 columns of format 1, a raw LOAD and a raw STORE of one line at 0x10000, and a STORE of one row. -/
def mma1 : AccIns := accIns [0x1010001, 0x10000, 64, 0x1000000, 0x400, 0, 0, 0]
def load1 : AccIns := accIns [0x802, 1, 1, 0, 0x10000, 0, 0, 0]
def store1 : AccIns := accIns [0x803, 1, 1, 0, 0x10000, 0, 0, 0]
def store2 : AccIns := accIns [0x10403, 1, 2, 0, 0x10000, 0, 0, 0]

theorem witness_AccordInstructions :
    (Safety.engines (according) ∧ Issues (according) fun i _ => decide (i.blk.engine = some 0 ∧ i.blk.prog.accord = true ∧ i.g.lost = false)
        && !i.lacks [(0, 1)] [(0, 8)] && !i.lacks [(0, 1)] [(0, 1)])
    ∧ (Issues (according) (fun i u => !i.lacks [(0, 1), (1, 1)] [] && i.ts.all (fun t => decide (tokenState u i.blk (vr i.g 1 t) ≠ some none))) [(0, 1), (1, 1)])
    ∧ (Issues (according id fun k => { k with groups := [{ group1 with lost := true }] }) fun i _ => decide (i.blk.engine = some 0 ∧ i.blk.prog.accord = true ∧ i.g.lost = true)
        && !i.lacks [(0, 1)] [(0, 8)])
    ∧ (Issues (running) fun i _ => decide (i.blk.engine = none))
    ∧ (Issues (according id fun k => { k with prog := { prog1 with accord := false } }) fun i _ => decide (i.blk.prog.accord = false))
    ∧ (Issues (according) (fun i u => decide (i.blk.kind = .item 0 0) && has (taskAt u 0) (fun k => decide (byteAt k.raw 0 = 4)) && !i.lacks [] [(0, 1)]) [])
    ∧ (Issues (onSc (on (tasked (raw [(0, 3, 1)]) .shader) 0) fun x => { x with blocks := [(1, block1)] }) (fun i u =>
        decide (i.blk.kind = .item 0 0) && has (taskAt u 0) fun k => decide (byteAt k.raw 0 ≠ 4)) [])
    ∧ (∀ l ∈ [[{ wait := .frag true 0 0 1 }, { wait := .frag true 0 0 1 }], [{ wait := .frag true 0 0 1 }, { wait := .bar 0 }]],
        (has (groupIn (according id fun k => { k with groups := [{ group1 with threads := l }] }) 0 0) fun x => decide (x.1 = 1 ∧ x.2.2.park = none)
          && decide ((liveThat x.2.2 fun _ => true).filter (fun t => match (thr x.2.2 t).wait with | .frag _ _ _ _ => true | _ => false) ≠ [])
          && ((liveThat x.2.2 fun _ => true).all fun t => matrixBlocked (thr x.2.2 t) 0 || decide ((thr x.2.2 t).pc = 0))) = true) := by
  refine ⟨⟨by decide +kernel, issues_of _ (by decide +kernel)⟩, issues_of _ (by decide +kernel), issues_of _ (by decide +kernel), issues_of _ (by decide +kernel),
    issues_of _ (by decide +kernel), issues_of _ (by decide +kernel), issues_of _ (by decide +kernel), by decide +kernel⟩

/-- The engine with an MMA whose products have been formed, to be written out. -/
def reduced : State := according fun x => { x with queue := [mma1], out := some 1, accs := [(0, (List.range 4096).map fun _ => 0)], aset := 1 }

theorem witness_AccordDescriptors :
    (let s := according fun x => { x with inflight := [load1] }
     Safety.unitRuns s 0x80 ∧ (engineAt s 0).block = some 1
     ∧ (has (blockAt s 1) fun k => decide ((engineAt s 0).inflight.find? (fun i => !descWaits s 0 k i) = some load1)) = true
     ∧ (engineAt s 0).draining = false ∧ (engineAt s 0).queue.length < 4 ∧ descBad s 0 load1 = none
     ∧ descBad s 0 (accIns [0]) = some .badOpcode ∧ descBad s 0 (accIns [0x802, 1, 1, 0x800, 0x10000, 0, 0, 0]) = some .permission
     ∧ descBad s 0 (accIns [0x802, 1, 1, 0, 0x10002, 0, 0, 0]) = some .badAlignment ∧ descBad s 0 mma1 = none)
    ∧ 4 ≤ (engineAt (according fun x => { x with queue := [load1, load1, load1, load1] }) 0).queue.length
    ∧ (engineAt (according) 0).inflight.find? (fun i => !descWaits (according) 0 block1 i) = none
    ∧ (let s := according fun x => { x with queue := [mma1] }
       startable (engineAt s 0) true = some mma1 ∧ (engineAt (mmaReduce s 0) 0).block = some 1 ∧ (engineAt (mmaReduce s 0) 0).faults = []
       ∧ linesBad (mmaReduce s 0) 0 [tableLines mma1] = false ∧ startable (engineAt s 0) false = none)
    ∧ (let s := according fun x => { x with queue := [load1] }
       startable (engineAt s 0) false = some load1 ∧ startable (engineAt s 0) true = none) := by decide +kernel

theorem witness_AccordEngines :
    (let s := according fun x => { x with queue := [mma1], array := some 1 }
     let u := busySteps (fset s F.ACE_ENG_STEPS.BUSY ((fget s F.ACE_ENG_STEPS.BUSY 0 0 + mmaSteps mma1) % 2 ^ 64) 0 0) 1 .accord (mmaSteps mma1)
     let lines := (readLines mma1).filter fun r => r ≠ tableLines mma1
     (engineAt s 0).block = some 1 ∧ (has (blockAt s 1) fun k => decide (k.ctx = 1)) = true ∧ insOf (engineAt s 0) 1 = some mma1
     ∧ (engineAt s 0).array = some 1 ∧ linesBad u 0 lines = false ∧ linesBad (folWrite u 0 0 (zeros 128) true) 0 lines = true)
    ∧ ((engineAt reduced 0).block = some 1 ∧ (engineAt reduced 0).out.bind (insOf (engineAt reduced 0)) = some mma1)
    ∧ (∀ i ∈ [load1, store1, store2],
        let s := onXlt (according fun x => { x with queue := [i], mover := some 1 }) fun x => { x with tc := [.leaf 0 0 0 40 0 false permAll false { perm1 := permAll }] }
        (engineAt s 0).block = some 1 ∧ insOf (engineAt s 0) 1 = some i ∧ (engineAt s 0).mover = some 1 ∧ (has (blockAt s 1) fun k =>
          let r := probeAll s 128 k .read (moveRanges i)
          let w := probeAll s 128 k .write (moveRanges i)
          if bits (word i 0) 3 0 = 2 then decide (r.1 = none ∧ linesBad r.2 0 (writeLines i) = false ∧ (readRanges r.2 128 k (moveRanges i)).1 = none)
          else if bits (word i 0) 11 10 = 2 then decide (w.1 = none ∧ (storeRaw w.2 128 0 k i (List.range (bits (word i 2) 12 0))).1 = none)
          else decide (w.1 = none ∧ (storeRows w.2 128 0 k i (rowsLines i)).1 = none)) = true)
    ∧ (let s := onXlt (according fun x => { x with queue := [load1], mover := some 1 }) fun x => { x with tc := [.leaf 0 0 0 40 0 false default false { perm1 := permAll }] }
       (has (blockAt s 1) fun k => (probeAll s 128 k .read (moveRanges load1)).1.isSome) = true)
    ∧ domOn (according) (16 + 0 / 4) = true := by decide +kernel

theorem witness_UnitOrder :
    startable { block := some 1, queue := [accIns [0x802, 1, 1, 0x700, 0x10000, 0, 0, 0] 1, { mma1 with token := 2 }] } true = some { mma1 with token := 2 } := by decide +kernel

/-! ### 07 to 09 -/

/-- A pass with nothing in it: the GEOMETRY pass of inPass. -/
def pass0 : Pass := { key := 0, q := 0, fn := 0, ctx := 1, asid := 0, mode := 0, begin_ := .entry 0 0, task := 0, pool := obj 4 4,
                      units := 256, reserve := 16, target := obj 3 3 }

/-- That pass changed by f is open; the Collator and cluster 0 are ON. -/
def passing (f : Pass → Pass := id) : State := onGfx (on (on (entryState []) 40) 0) fun g => { g with passes := [(0, f pass0)] }

/-- A control block of two tokens, one expert and one choice, with the ROUTE pass of target object 0 that reads it. -/
def routing (b : List Byte) (f : Pass → Pass := id) : State :=
  put (passing fun x => f { x with mode := 1, target := obj 0 0, control := b }) (2 ^ 25) b

def routeBlock : List Byte := raw [(0, 2, 4), (4, 1, 2), (6, 1, 1), (16, 4096, 8), (24, 8192, 8), (32, 12288, 8)]

/-- A DRAW of three points. -/
def draw0 : PassDraw := { owner := .entry 0 0, task := 0, raw := rawDraw 0, objs := [], state := default }

/-- Tile 0 changed by f in raster unit 0, of the pass changed by p. -/
def tileIn (p : Pass → Pass) (f : RTile → RTile) : State :=
  onGfx (passing p) fun g => { g with tiles := [(0, f { pass := 0, tile := 0, runs := [], data := [], recs := [], final := false })] }

/-- A fragment of that tile whose thread has exited. -/
def frag0 : Frag := { id := 0, seq := 0, draw := 0, x := 0, y := 0, cover := 1, back := false, zs := [], block := 1, thread := 0 }

theorem witness_CollatorEvents :
    (let s (b : List Byte) := routing b fun x => { x with control := [], reading := true }
     let y (b : List Byte) : Pass := { pass0 with mode := 1, target := obj 0 0, reading := true, control := b }
     let r (b : List Byte) := vread (s b) 209 3 0 0 1 (2 ^ 25) 64
     Safety.unitRuns (s routeBlock) 0x111 ∧ passAt (s routeBlock) 0 = some { y routeBlock with control := [] } ∧ (r routeBlock).1 = .ok
     ∧ ctlFails (r routeBlock).2.2 { y routeBlock with control := (r routeBlock).2.1 } = [] ∧ ctlZero (y routeBlock) = false ∧ listCount (y routeBlock) ≤ listFree (s routeBlock)
     ∧ firstFail ((ctlFails (r (putAt routeBlock 12 (natLe 1 1))).2.2 (y (putAt routeBlock 12 (natLe 1 1)))).filter fun f => decide (f.1 < 5)) = some .badOpcode
     ∧ (vread (onXlt (s routeBlock) fun x => { x with tc := [] }) 209 3 0 0 1 (2 ^ 25) 64).1 ≠ .ok)
    ∧ passesBy s0 .collator (fun x => (passWork x).isSome) = []
    ∧ (let x : Pass := { pass0 with draws := [draw0] }
       Safety.unitRuns (passing fun _ => x) 0x110 ∧ domOpen (passing fun _ => x) 40 = true
       ∧ passesBy (passing fun _ => x) .collator (fun x => (passWork x).isSome) = [(0, x)] ∧ passWork x = some .stage ∧ nextDraw x = some 0
       ∧ (gather 0 256 draw0 [] (passing fun _ => x)).1 ≠ [])
    ∧ (let x : Pass := { pass0 with held := [{ draw := 0, seq := 0, box := (0, 0, 0, 0), record := [] }] }
       passesBy (passing fun _ => x) .collator (fun x => (passWork x).isSome) = [(0, x)] ∧ passWork x = some .admission ∧ x.batch = none)
    ∧ (let x : Pass := { pass0 with batch := some { draw := 0, prims := [], waiting := [] } }
       passesBy (passing fun _ => x) .collator (fun x => (passWork x).isSome) = [(0, x)] ∧ passWork x = some .admission ∧ batchDone x = true)
    ∧ (∀ l ∈ [[], [5]], let x : Pass := { pass0 with flush := .storing [], toHand := l }
       passAt (passing fun _ => x) 0 = some x ∧ x.flush = .storing [] ∧ x.dataQ = none ∧ x.out = [])
    ∧ (let s := routing routeBlock
       let x : Pass := { pass0 with mode := 1, target := obj 0 0, control := routeBlock }
       passesBy s .collator (fun x => (passWork x).isSome) = [(0, x)] ∧ passWork x = some .route
       ∧ (has (passAt (onPass ((upFrom 0 2).foldl (routeToken 0 0) (servePass s .collator x [(0, x)])) 0 fun y => { y with at_ := (1, 0) }) 0) fun y => !y.failed) = true)
    ∧ (let b := raw [(0, 1, 4), (4, 100, 4), (24, 4096, 8), (32, 8192, 8), (48, 16384, 8)]
       let x : Pass := { pass0 with mode := 2, target := obj 0 0, control := b }
       let s := passing fun _ => x
       let r := colRead (servePass s .collator x [(0, x)]) 209 0 (2 ^ 25 + 4096) 16
       passesBy s .collator (fun x => (passWork x).isSome) = [(0, x)] ∧ passWork x = some .block ∧ (has r.1 fun q =>
          has (passAt ((upFrom 0 64).foldl (blockKey 0 0 q) r.2) 0) fun y => !y.failed && decide (y.at_.1 < listCount y)) = true) := by decide +kernel

theorem witness_RasterEvents :
    (let s (n : Nat) := onGfx (on (entryState []) n) fun g => { g with passes := [(0, { pass0 with toHand := [0], closed := true })] }
     Safety.engines (s 0) ∧ (tilesReady (s 0)).length = 1 ∧ (∀ x ∈ tilesReady (s 0), (rasterFor (s 0) x.2).isSome = true ∧ savedTile (s 0) x.1 = none ∧ nextTile x.2 = some 0)
     ∧ ((tilesReady (handFirst (tilesReady (s 40)) (tilesReady (s 40)) (s 40))).find? fun x => (rasterFor (s 40) x.2).isNone).isSome = true)
    ∧ Safety.unitRuns (tileIn id id) 0xC0
    ∧ (let s := tileIn id fun t => { t with recs := [{ seq := 0, prim := [], draw := 0 }] }
       (has (tileAt s 0 0) fun t => has t.recs.head? (recOpaque pass0) && decide (t.pass = 0 ∧ t.pre ≠ .saving ∧ ∀ f ∈ t.frags, f.late = false ∧ f.late2 = false)) = true)
    ∧ (let d : PassDraw := { draw0 with state := { draw0.state with bytes := zeros 17 ++ [4] } }
       recOpaque { pass0 with draws := [d] } { seq := 0, prim := [], draw := 0 } = false)
    ∧ (let s := onSc (tileIn id fun t => { t with frags := [frag0] }) fun x => { x with done := [(1, { block1 with outs := [(0, [])] })] }
       (has (tileAt s 0 0) fun t => decide (t.frags.find? (fun f => (fragOuts s f).isSome ∧ ¬ t.frags.any fun g => fragFirst g f) = some frag0)) = true)
    ∧ (has (tileAt (tileIn id id) 0 0) fun t => decide (t.written = false ∧ t.pre ≠ .saving ∧ tileQuiet (tileIn id id) 0 0 t = true ∧ tileBad (tileIn id id) 0 t = []) && !pass0.discard) = true
    ∧ (let s := tileIn id fun t => { t with frags := [frag0] }
       (has (tileAt s 0 0) fun t => !tileQuiet s 0 0 t) = true)
    ∧ (has (tileAt (tileIn id fun t => { t with written := true }) 0 0) fun t => t.written) = true
    ∧ (let x : Pass := { pass0 with discard := true }
       Safety.unitRuns (passing) 0x111 ∧ passAt (passing fun _ => x) 0 = some x ∧ passIdle x = true ∧ passIdle { x with out := [0] } = false)
    ∧ (let s := passing fun x => { x with ending := some (.entry 0 1, 0), target := obj 0 3 }
       (has (passAt (tryClose s 0) 0) fun y => decide (y.closed = true ∧ y.toHand = [] ∧ y.out = [] ∧ y.toCompare = [] ∧ y.toCopy = [] ∧ y.failed = false ∧ y.reuse = none
         ∧ y.discard = false ∧ y.mode = 0 ∧ (List.range (y.surface.tiles y.tile)) = [])) = true)
    ∧ ((passAt (routing routeBlock) 0).map fun x => (x.discard, decide (x.mode = 0))) = some (false, false) := by decide +kernel

/-- A group whose scalar registers name an image of one 8-bit texel per gathering at 0x10000 and a nearest sampler. -/
def sampling (s : State) : State :=
  let g : Group := { group1 with sr := [(0, 0x10000#32), (3, 0x1010000#32), (4, 1#32), (5, 1#32), (8, 0x80000#32)] }
  onSc s fun x => { x with blocks := [(1, { block1 with groups := [g] })] }

theorem witness_TextureAndFragment :
    (∀ b ∈ [true, false], Issues (sampling (if b then flat (running) else onXlt (running) fun x => { x with tc := [] })) (fun i u =>
      !i.lacks [(0, 4), (4, 2)] [(0, 8), (8, 4)] &&
      let m := imageOf ((List.range 8).foldl (fun a j => a + sreg i.g (0 + j) * 2 ^ (32 * j)) 0)
      let q := samplerOf ((List.range 4).foldl (fun a j => a + sreg i.g (8 + j) * 2 ^ (32 * j)) 0)
      decide (texDims m.ty = 2) && !m.bad && !q.bad && decide ((texThread i.blk i.g m q 4 (.level 6) 0 (none, u)).2.1.isNone = b)) [] true)
    ∧ (∀ f ∈ [0, 1], Issues (running fun k => { k with kind := .fragment 0 0, fragFlags := f }) (fun i _ =>
        decide (i.blk.kind = .fragment 0 0 ∧ i.blk.fragFlags = f)) [] true)
    ∧ (Issues (running) (fun i _ => decide (i.blk.kind = .item 0 0)) [] true)
    ∧ (Issues (running) (fun i _ => (SIns.memory .store 4 0 2 4 false false false).exists i.blk.prog && !(SIns.memory .store 4 0 2 200 false false false).exists i.blk.prog)
        [(2, 2), (4, 1)]) := by
  refine ⟨?_, ?_, issues_of _ (by decide +kernel), issues_of _ (by decide +kernel)⟩
  · intro b _
    cases b
    all_goals exact issues_of _ (by decide +kernel)
  · intro f h
    obtain rfl | rfl : f = 0 ∨ f = 1 := by simpa using h
    all_goals exact issues_of _ (by decide +kernel)

/-- A reuse pass of slot 0 changed by f, whose slot holds entry n for tile 0. -/
def reusing (f : Pass → Pass) (n : Nat) : State :=
  onGfx (passing fun x => f { x with reuse := some 0 }) fun g => { g with reuse := [(0, n)] }

theorem witness_ReuseCommands :
    (let s := rset (flat (onFe s0 fun x => { x with objs := [(0, obj 0 0)] })) .TRU_ARG0 0x10000
     Safety.writable s .TRU_CMD 0 0 ∧ fget s F.TRU_RESULT.BUSY 0 = 0 ∧ objectOf s 0 (rget s .TRU_ARG0 0) = some (obj 0 0)
     ∧ objectOf s0 0 (rget s0 .TRU_ARG0 0) = none)
    ∧ fget (fset s0 F.TRU_SLOT_CFG.FUNCTION 3 0 0) F.TRU_SLOT_CFG.FUNCTION 0 (fget s0 F.TRU_ARG1.SLOT 0) ≠ 0
    ∧ (let s := fset (fset s0 F.TRU_ARG1.FIRST 2 0) F.TRU_ARG1.LAST 1 0
       fget s F.TRU_SLOT_CFG.FUNCTION 0 0 = 0 ∧ fget s F.TRU_ARG1.SLOT 0 = 0 ∧ fget s F.TRU_ARG1.LAST 0 < fget s F.TRU_ARG1.FIRST 0)
    ∧ (let s := fset s0 F.TRU_ARG1.LAST 8191 0
       fget s F.TRU_ARG1.FIRST 0 ≤ fget s F.TRU_ARG1.LAST 0 ∧ fget s F.TRU_ARG1.LAST 0 ≤ 8191 ∧ (truSlot s 0).held = none
       ∧ (truSlot (onSlot s 0 fun x => { x with held := some 0 }) 0).held ≠ none)
    ∧ ((0 : Nat) % 16 ≠ 1 ∧ (0 : Nat) % 16 ≠ 2 ∧ Safety.writable s0 .TRU_SLOT_CFG 0 15)
    ∧ (let x : Pass := { pass0 with reuse := some 0, toHand := [0] }
       Safety.unitRuns (passing) 0x115 ∧ passAt (passing fun _ => x) 0 = some x ∧ (x.toHand ++ x.toCompare).find? (fun n => (tget x.loadTerms n).isNone) = some 0
       ∧ (loadTerm 0 x 0 x.surface.used (passing fun _ => x)).1 = some [])
    ∧ (∀ b ∈ [false, true], let x : Pass := { pass0 with reuse := some 0, toCompare := [0], loadTerms := [(0, [])], lists := [(0, { side := b })] }
       let s := reusing (fun _ => x) (signature x 0)
       passAt s 0 = some x ∧ tget x.loadTerms 0 = some [] ∧ 0 ∉ x.everOut ∧ (listOf x 0).side = b ∧ (truRead s (0 * 8192 + 0) .clean).1 = some (signature x 0) ∧ (truRead s (0 * 8192 + 0) .uncorrectable).1 = none)
    ∧ (let x : Pass := { pass0 with reuse := some 0, toCopy := [0] }
       Safety.unitRuns (passing) 0xC0 ∧ passAt (passing fun _ => x) 0 = some x ∧ domOn (passing fun _ => x) 0 = true)
    ∧ (let s := fset (on (flat (withRegs [(1, 0x10000#32), (3, 0x10001#32)])) 41) F.TRU_SLOT_CFG.MODE 2 0 0
       Safety.engines s ∧ domOn s 41 = true ∧ Issues s (fun i u => decide (8 < 16 * sUnits i.blk.prog) && (ruFault u i 0).isNone
         && match (ruRows i 0x10000 0 1 1 0 u).1 with | .ok _ => true | .error _ => false) [])
    ∧ (Issues (on (withRegs []) 41) (fun i u => decide (ruFault u i 0 = some Status.badOpcode)) []) := by
  refine ⟨by decide +kernel, by decide +kernel, by decide +kernel, by decide +kernel, by decide +kernel, by decide +kernel, by decide +kernel, by decide +kernel,
    ⟨by decide +kernel, by decide +kernel, issues_of _ (by decide +kernel)⟩, issues_of _ (by decide +kernel)⟩

/-! ### 10 and 11 -/

/-- A slot of context 1 of the PF. -/
def slot0 : Slot :=
  { gen := 1, fn := 0, ctx := 1, asid := 0, prompt := 0x10000, promptLen := 4, maxTokens := 4, out := 0x20000, kvBase := 0x30000, kvLeaf := 24,
    kvPages := 1, kvUnit := 8, ring := false, keep := false, stop0 := 0, stop1 := 0, stream := 0, state := .decode, pos := 4 }

/-- Slot 0 of the PF, changed by f, named by SEQ_SARG. -/
def slotted (f : Slot → Slot := id) : State :=
  rset (onSeq (flat s0) fun x => { x with slots := [(0, f slot0)], order := [(0, [0])] }) .SEQ_SARG 4096

/-- A batch of slot 0 with one decode row. -/
def run0 : SeqRun := { q := 0, seq := 1, fn := 0, ctx := 1, asid := 0, home := queueWith [], ring := false, batch := 2 ^ 38 + 2 ^ 21 + 2 ^ 6, left := 1 }
def row0 : SeqRow := { slot := 0, pos := 4, count := 1, last := false, decode := true }

theorem witness_SlotCommands :
    (Safety.writable (slotted) .SEQ_SCMD 0 0 ∧ fget (slotted) F.SEQ_SRESULT.BUSY 0 = 0
      ∧ ((upFrom (16 * fget (slotted) F.SEQ_PART.BASE 0 0) (16 * fget (slotted) F.SEQ_PART.COUNT 0 0)).find? (fun i => (slotAt (slotted) i).isNone)).isSome = true)
    ∧ slotOf s0 0 (fget s0 F.SEQ_SARG.ARG 0 % 2 ^ 32) = none
    ∧ (∀ x ∈ [slot0, { slot0 with state := .ended }, { slot0 with state := .held true }, { slot0 with state := .held false }, { slot0 with state := .ended, pages := [(0, 65536)] }],
        slotOf (slotted fun _ => x) 0 (fget (slotted fun _ => x) F.SEQ_SARG.ARG 0 % 2 ^ 32) = some (0, x))
    ∧ inBatch (slotted) 0 = false
    ∧ inBatch (onSeq (slotted) fun x => { x with runs := [(0, { run0 with stage := .running 3, rows := [row0] })] }) 0 = true
    ∧ (let s := rset (rset (onFe (slotted) fun x => { x with objs := [(0, obj 0 0)] }) .SEQ_KV_POOL 0x10000) .SEQ_SARG 1
       (has (kvPool s 0) fun o => decide ((fget s F.SEQ_KV_TOP.TOP 0 + 1) * 8 ≤ o.size)) = true ∧ fget s F.SEQ_SARG.ARG 0 % 2 ^ 23 = 1)
    ∧ (let s := fset (rset s0 .SEQ_SARG 1) F.SEQ_KV_TOP.TOP 1 0
       fget s F.SEQ_SARG.ARG 0 % 2 ^ 23 ≤ fget s F.SEQ_KV_TOP.TOP 0)
    ∧ (let s := rset s0 .SEQ_SARG 1
       fget s F.SEQ_KV_TOP.TOP 0 < fget s F.SEQ_SARG.ARG 0 % 2 ^ 23)
    ∧ fget (fset s0 F.SEQ_SRESULT.BUSY 1) F.SEQ_SRESULT.BUSY 0 = 1
    ∧ (let d (n : Nat) := raw [(0, 0x10000, 8), (8, n, 4), (12, 4, 4), (16, 0x20000, 8), (24, 0x30000, 8), (32, 24, 8), (40, 1, 4), (44, 8, 2), (46, 1, 2)]
       let s (n : Nat) := put (rset (onSeq (flat s0) fun x => { x with admitting := [(0, 0)] }) .SEQ_SARG 0x1000) 0x1000 (d n)
       let r (s : State) := ipaRead (onSeq s fun x => { x with admitting := tdel x.admitting 0 }) 0 (rget s .SEQ_SARG 0) 64
       Safety.unitRuns (s 4) 0x114 ∧ tget (s 4).seq.admitting 0 = some 0 ∧ (r (s 4)).1 = .ok ∧ admitCheck (r (s 4)).2.2 0 (r (s 4)).2.1 = none
       ∧ (r (s 0)).1 = .ok ∧ admitCheck (r (s 0)).2.2 0 (r (s 0)).2.1 = some .lengthRange ∧ (r (rset (s 4) .SEQ_SARG (2 ^ 48))).1 ≠ .ok)
    ∧ (Safety.writable s0 .SEQ_KV_POOL 0 0 ∧ fget s0 F.SEQ_KV_TOP.TOP 0 = 0 ∧ holdsPage s0 0 = false)
    ∧ (fget (fset s0 F.SEQ_KV_TOP.TOP 1 0) F.SEQ_KV_TOP.TOP 0 ≠ 0 ∧ holdsPage (slotted fun x => { x with pages := [(0, 65536)] }) 0 = true)
    ∧ (let s := rset (entryState []) .FE_OBJ_HANDLE 0x10000
       Safety.writable s .FE_OBJ_CMD 0 0 ∧ fget s F.FE_OBJ_RESULT.BUSY 0 = 0 ∧ objectOf s 0 (fget s F.FE_OBJ_HANDLE.HANDLE 0) = some (obj 0 0)
       ∧ objInUse s 0 (obj 0 0) = false ∧ objInUse (inRoute s) 0 (obj 0 0) = true ∧ objectOf s0 0 (fget s0 F.FE_OBJ_HANDLE.HANDLE 0) = none) := by decide +kernel

/-- A running SEQ_STEP r of queue 0, its graph in object 5 and its step record in object 0. -/
def stepping (f : Slot → Slot) (r : SeqRun) : State :=
  let k : Task := { owner := .entry 0 1, q := 0, fn := 0, ctx := 1, asid := 0, cls := 0, prio := 0, eng := .none, raw := rawStep 0,
                    objs := [(8, obj 5 5), (16, obj 0 0)] }
  onSeq (onFe (graphed []) fun x => { x with tasks := [(0, k)] }) fun x => { x with slots := [(0, f slot0)], order := [(0, [0])], runs := [(0, r)] }

theorem witness_SequenceSteps :
    (let formed (f : Slot → Slot) :=
       let s := stepping f run0
       formPass 1 1 1 false false (candidates s run0 .prefill) (formPass 1 1 1 false true (candidates s run0 .decode) ({}, s))
     let held : Slot → Slot := fun x => { x with pages := [(0, 65536)] }
     Safety.unitRuns (stepping held run0) 0x114 ∧ (taskAt (stepping held run0) 0).isSome = true ∧ (formed held).1.fail = none ∧ (formed held).1.rows = [row0]
     ∧ (formed id).1.fail = none ∧ (formed id).1.rows = []
     ∧ (let header := stepHeader (formed held).2 run0 (formed held).1 (2 ^ 25) 1
        let w := vwrite (formed held).2 210 7 0 0 1 (2 ^ 25) (stepRecord (formed held).2 header (formed held).1.rows)
        w.1 = .ok ∧ (has (queueAt w.2 0) fun q => match (launchStart w.2 (.step 0 1) q (obj 5 5) 0 (.bytes header)).1 with | .ok _ => true | _ => false) = true))
    ∧ (let s := fset (rset (onXlt (onFe (stepping id run0) fun x => { x with objs := [(1, { obj 1 0 with base := 2 ^ 47 })] }) fun x =>
          { x with tc := [.leaf 0 0 0 28 0 false permAll false { perm1 := permAll }] }) .SEQ_KV_POOL 0x10001) F.SEQ_KV_TOP.TOP 1 0
       (formPass 1 1 1 false false (candidates s run0 .prefill) (formPass 1 1 1 false true (candidates s run0 .decode) ({}, s))).1.fail.isSome = true)
    ∧ (let s := stepping id { run0 with stage := .running 3, rows := [row0] }
       tget s.fe.stepDone 3 = none
       ∧ (∀ st ∈ [Status.ok, .badOpcode], tget (onFe s fun x => { x with stepDone := [(3, (st, 0, 0))] }).fe.stepDone 3 = some (st, 0, 0))
       ∧ (let o := vread (onFe s fun x => { x with stepDone := [] }) 210 7 0 0 1 (2 ^ 25 + outOffset 1) 8
          o.1 = .ok ∧ (writeTokens run0 [(row0, fieldAt o.2.1 0 8)] o.2.2).1 = .ok))
    ∧ (Safety.writable s0 .SEQ_EVT_CI 0 0 ∧ s0.seq.runs = [])
    ∧ (∀ l ∈ [[], [(0, 65536)]], let s := slotted fun x => { x with state := .leaving, pages := l }
       (has (slotAt s 0) fun x => decide (x.rel = .none ∧ x.state = .leaving ∧ x.pages = l) && !ctxGone s x.ctx) = true)
    ∧ (let s := slotted fun x => { x with state := .leaving, rel := .waiting, pages := [(0, 65536)] }
       (has (slotAt s 0) fun x => decide (x.rel = .waiting)) = true ∧ slotInv s 0 = false
       ∧ slotInv (invRequest s { src := .slot 0, op := .range 0 0 0x30000 65536 }) 0 = true) := by decide +kernel

/-- A ring of two units with one exchange, about to receive hop 1, changed by f; port 0 and 1 UP. -/
def ringing (f : Ring → Ring := id) : State :=
  let e : RingExch := { send := 0x10000, recv0 := 0x20000, recv1 := 0x30000, len := 8, cap := 64, signal := 0x40000, progress := 0x50000, tag := 5 }
  let g : Ring := { task := 0, fn := 0, ctx := 1, asid := 0, n := 3, pos := 0, exch := [e], progress := [(0, 1)] }
  onSeq (on (ringUp (flat s0)) 41) fun x => { x with ring := some (f g) }

theorem witness_RingEngine :
    (let v := 2 * 2 ^ 24 + 16 * 2 ^ 8
     Safety.writable s0 .SEQ_RING_CFG 0 0 ∧ s0.seq.runs = [] ∧ ringCfgOk v = true ∧ ringCfgOk 0 = false
     ∧ (∀ p ∈ [0, 1], uapUp (rset s0 .SEQ_RING_CFG (Reg.written .SEQ_RING_CFG (rget s0 .SEQ_RING_CFG) v (2 ^ 32 - 1))) p = false)
     ∧ (onSeq s0 fun x => { x with runs := [(0, { run0 with ring := true })] }).seq.runs.any (fun e => e.2.ring) = true)
    ∧ (let s := fset (ringing fun g => { g with txHop := 2, lens := [(1, 8)] }) F.SEQ_RING_CFG.COMPRESS 0
       Safety.unitRuns s 0x114 ∧ (has s.seq.ring fun g => decide (1 < g.txHop) && g.canSend) = true ∧ domOn s 48 = true ∧ uapUp s 0 = true ∧ fget s F.SEQ_RING_CFG.COMPRESS = 0
       ∧ (vread s 220 6 0 0 1 0x20000 8).1 = .ok ∧ uapUp (fset s F.UAP_STATUS.STATE 0 0 0) 0 = false)
    ∧ (let m (tag last : Nat) := natLe tag 4 ++ [1, 0, BitVec.ofNat 8 (1 + 2 * last), 0] ++ natLe 0 4 ++ natLe 8 4 ++ natLe 0 8 ++ natLe 8 4 ++ natLe (crc32c (zeros 8)) 4 ++ zeros 8
       let s (m : List Byte) := onSeq (ringing) fun x => { x with inbox := [m] }
       (∀ l ∈ [0, 1], (s (m 5 l)).seq.inbox = [m 5 l] ∧ fieldAt (m 5 l) 0 4 = 5 ∧ byteAt (m 5 l) 4 = 1 ∧ fieldAt (m 5 l) 8 4 = 0 ∧ fieldAt (m 5 l) 16 8 = 0
          ∧ bit (byteAt (m 5 l) 6) 1 = (l == 1) ∧ (match messageData (s (m 5 l)) (m 5 l) with | .ok d => decide (d = zeros 8) | .error _ => false) = true
          ∧ (vwrite (s (m 5 l)) 221 6 0 0 1 0x20000 (zeros 8)).1 = .ok)
       ∧ fieldAt (m 6 0) 0 4 ≠ 5 ∧ (vwrite (onXlt (s (m 5 1)) fun x => { x with tc := [] }) 221 6 0 0 1 0x20000 (zeros 8)).1 ≠ .ok)
    ∧ (let s := fset { ringing with time := 2000000 } F.SEQ_RING_TIMEOUT.MS 1
       (has s.seq.ring fun g => decide (g.rxEx = 0 ∧ g.failed = none ∧ g.heard + 1000000 * fget s F.SEQ_RING_TIMEOUT.MS ≤ s.time) && g.canReceive) = true
       ∧ fget s F.SEQ_RING_TIMEOUT.MS ≠ 0 ∧ fget (fset s F.SEQ_RING_TIMEOUT.MS 0) F.SEQ_RING_TIMEOUT.MS = 0)
    ∧ (Status.ofCode 0x10).isSome = true := by decide +kernel

/-- No port of the reset state is UP, whatever its number. -/
theorem witness_RingEngine_ports (v p : Nat) : uapUp (rset s0 .SEQ_RING_CFG v) p = false := by
  have h : rget s0 .UAP_STATUS 0 p = 0 := by simp [s0, rget, State.reset, tget]; rfl
  have k : rget (rset s0 .SEQ_RING_CFG v) .UAP_STATUS 0 p = 0 := by rw [Laws.rget_rset_ne (by simp), h]
  exact (congrArg (fun n => decide (bits n F.UAP_STATUS.STATE.hi F.UAP_STATUS.STATE.lo = 2)) k).trans (by decide)

theorem witness_CacheAndStacks :
    let r : L2Req := { id := 0, cls := 0, pa := 0, op := .read 128 }
    let w : L2Req := { id := 0, cls := 0, pa := 0, op := .write (zeros 128) }
    let miss : Miss := { la := 0, primary := r }
    let held := fillLine s0 0 0
    Safety.engines s0 ∧ l2Refusal s0 (2 ^ 40) 1 = some .permission ∧ l2Refusal s0 r.pa 1 = none
    ∧ fget (fset s0 F.L2_SLICE_STATUS.STATE 1 0 0) F.L2_SLICE_STATUS.STATE 0 (paSlice 0) = 1
    ∧ (fget s0 F.L2_SLICE_STATUS.STATE 0 (paSlice 0) ≠ 1 ∧ recovering s0 (0xE0 + paSlice 0) = false)
    ∧ (has (wayOf held 0) fun n => decide (wayOf (wayError held 0 n default) 0 = some n)) = true ∧ wayOf s0 0 = none ∧ fullLine w = true ∧ fullLine r = false
    ∧ (s0.mem.misses = [] ∧ fget s0 F.L2_SLICE_STATUS.MISS_BUSY 0 (paSlice 0) < 64)
    ∧ ((onMem s0 fun x => { x with misses := [miss] }).mem.misses.find? (fun m => m.la = 0) = some miss ∧ miss.merged.length < 8)
    ∧ (stackOf s0 (paStack 0)).selfRefresh = false
    ∧ (stackBusy (onMem s0 fun x => { x with misses := [miss] }) (paStack 0) = true
        ∧ (stackOf s0 (paStack 0)).postponed < fget (fset s0 F.MEM_REFRESH.POSTPONE 2) F.MEM_REFRESH.POSTPONE)
    ∧ stackBusy s0 0 = false ∧ stackOn s0 0 = true
    ∧ (let s := onMem s0 fun m => { m with stackTbl := [(0, { selfRefresh := true })] }
       stackOn s 0 = true ∧ (stackOf s 0).selfRefresh = true ∧ stackPads s 0 = false)
    ∧ (let s := pcAdmit (onMem s0 fun x => { x with misses := [miss] }) (paChannel 0)
       pcMay s 0 = true ∧ pcMay s 1 = false ∧ Safety.unitRuns s (0x100 + paStack 0) ∧ recovering s (0xE0 + paSlice 0) = false)
    ∧ fget (fset s0 F.MEM_STACK_CTL.SR_IDLE_US 9 0 0) F.MEM_STACK_CTL.SR_IDLE_US 0 0 ≠ 0 := by decide +kernel

theorem witness_CacheMaintenance :
    (Safety.writable s0 .L2_MAINT_CMD 0 0 ∧ fget s0 F.L2_MAINT_RESULT.BUSY = 0)
    ∧ (∀ op ∈ [1, 2, 3], maintCheck s0 op 0 = none ∧ rget s0 .L2_MAINT_ARG1 = 0 ∧ maintCheck s0 op 3 = some .badOpcode
        ∧ maintCheck (rset s0 .L2_MAINT_ARG0 64) op 0 = some .badAlignment ∧ maintCheck (rset s0 .L2_MAINT_ARG0 31) op 1 = none
        ∧ maintCheck (rset s0 .L2_MAINT_ARG0 32) op 1 = some .lengthRange)
    ∧ (let s := rset s0 .L2_MAINT_ARG1 128
       maintCheck s 1 0 = none ∧ rget s .L2_MAINT_ARG1 ≠ 0 ∧ rget s .L2_MAINT_ARG1 ≤ 16 * 2 ^ 20)
    ∧ fget (fset s0 F.L2_MAINT_RESULT.BUSY 1) F.L2_MAINT_RESULT.BUSY = 1
    ∧ (onMem s0 fun m => { m with maint := some { op := 1, skipped := true } }).mem.maint = some { op := 1, skipped := true } := by decide +kernel

theorem witness_FolioBanks :
    (let s := fset (fset (on s0 15) F.FOL_BANK.PENDING 1 15 15) F.FOL_BANK.OWNER 5 15 15
     Safety.writable s .FOL_BANK 15 15 ∧ fget s F.FOL_BANK.PENDING 15 15 = 1 ∧ fget s F.FOL_BANK.OWNER 15 15 = 5)
    ∧ (Safety.writable (on s0 0) .FOL_BANK 0 0 ∧ fget s0 F.FOL_BANK.PENDING 0 0 = 0 ∧ fget s0 F.FOL_BANK.OWNER 0 0 = 0)
    ∧ (ownerOk 6 = false ∧ ownerOk 7 = false ∧ ownerOk 0x15 = false ∧ ownerOk 0 = true ∧ ownerOk 5 = true ∧ ownerOk 0x10 = true ∧ ownerOk 0x14 = true)
    ∧ fget (fset s0 F.FOL_BANK.OWNER 1 0 0) F.FOL_BANK.OWNER 0 0 ≠ 0 ∧ coreHasBank (fset s0 F.FOL_BANK.OWNER 8 0 0) 0 1 8 = true ∧ coreHasBank s0 0 1 8 = false
    ∧ (∀ d ∈ [false, true], let s := fset (onMem s0 fun m => { m with handovers := [(bankKey 0 0, { scrub := true, pstate := 0, drained := d })] }) F.FOL_BANK.TARGET 2 0 0
       Safety.unitRuns s 0xD0 ∧ tget s.mem.handovers (bankKey 0 0) = some { scrub := true, pstate := 0, drained := d } ∧ bankDrained s 0 0 = true
       ∧ ¬ (8 ≤ fget s F.FOL_BANK.OWNER 0 0 ∧ fget s F.FOL_BANK.OWNER 0 0 < 16) ∧ fget s F.FOL_BANK.TARGET 0 0 ≠ 0)
    ∧ bankDrained (fset (according fun x => { x with queue := [load1] }) F.FOL_BANK.OWNER 2 0 0) 0 0 = false
    ∧ (Safety.writable s0 .FOL_WIN_STATUS 0 0 ∧ fget s0 F.FOL_WIN_SEL.CLUSTER = 0 ∧ fget s0 F.FOL_WIN_SEL.BANK = 0 ∧ domOn s0 0 = false)
    ∧ (fget (fset (on s0 0) F.FOL_BANK.PNOW 0 0 0) F.FOL_BANK.PNOW 0 0 = 0 ∧ domOn (fset (on s0 0) F.FOL_BANK.PNOW 0 0 0) 0 = true) := by decide +kernel

theorem witness_ArbiterRows :
    let a (n : Nat) : Ask := { unit := n, beats := 4, ctx := n }
    let s (x : Arbiter) := onMem s0 fun m => { m with arbiters := [(arbKey 1 3, x)] }
    Safety.engines (s {}) ∧ nextAsk 2 [a 1, a 3] = some (a 3) ∧ nextAsk 3 [a 1, a 3] = some (a 1)
    ∧ (let x := tgetD (s { last := 1, waiting := [a 3] }).mem.arbiters (arbKey 1 3) {}
       x.revoked = none ∧ nextAsk x.last ([a 1, a 2].foldl addAsk x.waiting) = some (a 2))
    ∧ (tgetD (s { revoked := some (a 1) }).mem.arbiters (arbKey 1 3) {}).revoked = some (a 1)
    ∧ (let x := tgetD (s { holder := some (a 1) }).mem.arbiters (arbKey 1 3) {}
       x.holder = some (a 1) ∧ x.fixed = false ∧ x.revoked = none)
    ∧ (tgetD (s { fixed := true }).mem.arbiters (arbKey 1 3) {}).fixed = true
    ∧ (let x := tgetD (s { holder := some (a 1), waiting := [a 2] }).mem.arbiters (arbKey 1 3) {}
       x.holder = some (a 1) ∧ x.waiting ≠ []) := by decide +kernel

/-- VictimChoice: every way enabled and free, and a victim then. -/
theorem witness_VictimChoice : victim s0 0 0 = some 0 ∧ victim (fset s0 F.L2_WAYMASK.MASK 0 0 0) 0 0 = none := by decide +kernel

/-! ### 12 to 14 -/

/-- A read of 0x2000 by a copy engine. -/
def req0 : XReq := { id := 0, engine := 216, vm := 0, asid := 0, va := 0x2000, acc := .read, context := 1 }

/-- A walk of that request that reads the ASID entry of host address 0x1000. -/
def walk0 : Walk := { req := req0, aim := .asidEntry, ipa := 0, s2 := none, readAt := 0x1000 }

theorem witness_TranslationRows :
    (Safety.unitRuns s0 0x116 ∧ domOn s0 41 = true ∧ domOn (domSet s0 41 2) 41 = false ∧ leafFor (microOf (domSet s0 41 2) 216) 0 0 0x2000 = none ∧ 2 ^ 48 ≤ ({ req0 with va := 2 ^ 48 } : XReq).va)
    ∧ (req0.va < 2 ^ 48 ∧ 2 ^ fget s0 F.XLT_AS_BASE.AS_LOG2 0 ≤ 65536)
    ∧ (let s (p : Perm) := onXlt (fset s0 F.XLT_AS_BASE.AS_LOG2 4 0) fun x => { x with micro := [(216, [.leaf 0 0 0x2000 12 0x8000 true p true {}])] }
       req0.asid < 2 ^ fget (s permAll) F.XLT_AS_BASE.AS_LOG2 0
       ∧ ∀ p ∈ [permAll, { wr := true }], leafFor (microOf (s p) 216) 0 0 0x2000 = some (.leaf 0 0 0x2000 12 0x8000 true p true {}))
    ∧ (permFault permAll .read = none ∧ permFault { wr := true } .read = some 8)
    ∧ (let s (w : List Walk) := onXlt (fset s0 F.XLT_AS_BASE.AS_LOG2 4 0) fun x => { x with walks := w }
       let same (w : Walk) : Bool := decide (w.req.vm = req0.vm ∧ w.req.asid = req0.asid ∧ w.req.va / 4096 = req0.va / 4096)
       leafFor (microOf (s []) 216) 0 0 0x2000 = none ∧ leafFor (s []).xlt.tc 0 0 0x2000 = none ∧ (s [walk0]).xlt.walks.any same = true
       ∧ (let u := s (List.replicate 64 { walk0 with req := { req0 with va := 0 } })
          u.xlt.walks.any same = false ∧ 64 ≤ u.xlt.walks.length) ∧ (s []).xlt.walks.any same = false ∧ (s []).xlt.walks.length < 64 ∧ (match (walkStart (s []) req0).1 with | .reading _ => true | .done _ => false) = true
       ∧ (match (walkStart (onXlt (s []) fun x => { x with tc := [.asid 0 0 (2 ^ 47)] }) req0).1 with | .reading _ => false | .done _ => true) = true)
    ∧ (let s (v : Nat) := onXlt (put s0 0x1000 (natLe v 8)) fun x => { x with walks := [walk0] }
       (s 0).xlt.walks[0]? = some walk0
       ∧ (match (walkWord (s 0x5001) walk0 (leNat (hostRead (s 0x5001) 0x1000 8)) (leNat (hostRead (s 0x5001) 0x1008 8))).1 with | .reading _ => true | .done _ => false) = true
       ∧ (match (walkWord (s 0) walk0 (leNat (hostRead (s 0) 0x1000 8)) (leNat (hostRead (s 0) 0x1008 8))).1 with | .done _ => true | .reading _ => false) = true)
    ∧ (let s := onXlt s0 fun x => { x with batches := [(0, { start := 0, entries := [] })] }
       (has (tget s.xlt.batches 0) fun b => decide (s.time < b.start + 20000)) = true
       ∧ (has (tget (at_ s 20000).xlt.batches 0) fun b => decide (b.start + 20000 ≤ (at_ s 20000).time ∧ ∀ e ∈ b.entries, e.merged = 0)) = true)
    ∧ ((onXlt s0 fun x => { x with atsWait := [(req0, 0x2000, 12, permAll)] }).xlt.atsWait.find? (fun w => decide (w.1.vm = 0 ∧ w.2.1 / 4096 * 4096 = 0x2000))
        = some (req0, 0x2000, 12, permAll)) := by decide +kernel

theorem witness_InvalidationRows :
    (Safety.writable s0 .XLT_INV_CMD 0 0 ∧ fget s0 F.XLT_INV_RESULT.BUSY 0 = 0 ∧ fget s0 F.XLT_INV_ARG0.START 0 = 0 ∧ fget s0 F.XLT_INV_ARG1.LENGTH 0 = 0)
    ∧ fget (fset s0 F.XLT_INV_ARG0.START 0x800 0) F.XLT_INV_ARG0.START 0 % 4096 ≠ 0
    ∧ (let s := fset s0 F.XLT_INV_ARG1.LENGTH (2 ^ 48 + 4096) 0
       2 ^ 48 < fget s F.XLT_INV_ARG0.START 0 + fget s F.XLT_INV_ARG1.LENGTH 0)
    ∧ (∀ m ∈ [0, 1], let s := fset (fset s0 F.XLT_INV_ARG1.LENGTH 4096 0) F.XLT_VM_CFG.INV_MODE m 0 0
       fget s F.XLT_INV_ARG0.START 0 + fget s F.XLT_INV_ARG1.LENGTH 0 ≤ 2 ^ 48 ∧ fget s F.XLT_INV_ARG1.LENGTH 0 ≠ 0 ∧ fget s F.XLT_VM_CFG.INV_MODE 0 0 = m)
    ∧ (Safety.writable s0 .XLT_INV_CMD 15 0 ∧ fget (fset s0 F.XLT_INV_RESULT.BUSY 1) F.XLT_INV_RESULT.BUSY 0 = 1)
    ∧ (let i : Inv := { src := .ats 3, op := .vmAll 0 }
       let s := onXlt s0 fun x => { x with invWaiting := [i] }
       Safety.unitRuns s 0x116 ∧ s.xlt.invNow = none ∧ s.xlt.invWaiting[0]? = some i ∧ domOn s 41 = true)
    ∧ (∀ owe ∈ [[216], [216, 217]], ∀ c ∈ [InvSrc.ats 3, .cmd 0], let i : Inv := { src := c, op := .vmAll 0 }
       let s := onXlt s0 fun x => { x with invNow := some (i, owe) }
       s.xlt.invNow = some (i, owe) ∧ (owe.filter (fun x => decide (x ≠ 216)) = [] ↔ owe = [216]))
    ∧ (let w (v : Nat) := Reg.written .XLT_VM_CFG (rget s0 .XLT_VM_CFG 0 1) v (2 ^ 64 - 1)
       Safety.writable s0 .XLT_VM_CFG 0 1 ∧ bits (rget s0 .XLT_VM_CFG 0 1) 63 12 = bits (w 2) 63 12 ∧ bit (rget s0 .XLT_VM_CFG 0 1) 0 = bit (w 2) 0
       ∧ bit (rget s0 .XLT_VM_CFG 0 1) 0 ≠ bit (w 1) 0) := by decide +kernel

/-- A fault of a unit of a level, raised at time 5. -/
def fault (unit level : Nat) : FaultRec := { time := 5, unit := unit, status := .watchdog, level := level, context := none, function := none, detail := .none }

/-- A recovery of a level whose window is open at time 5. -/
def recovery (level : Nat) : Recovery := { level := level, target := 0, unit := 0x80, t1 := 0, bound := 1000000000, status := .watchdog, running := true }

theorem witness_FaultVerdicts :
    (∀ r ∈ [fault 0x80 0, fault 0x12F 3, fault 0x80 3, fault 0x80 6, fault 0x80 7], let s := onInt s0 fun x => { x with waiting := [r] }
       Safety.powered s ∧ s.int.waiting = r :: [] ∧ failsafe s = false ∧ s.int.window = none ∧ ∀ g ∈ s.int.recoveries, g.level = 6 → g.open_ r.time = false)
    ∧ (let s := onInt s0 fun x => { x with waiting := [fault 0x80 3], window := some (0, 2, 1), recoveries := [recovery 6] }
       s.int.window = some (0, 2, 1) ∧ s.int.recoveries.any (fun g => decide (g.level = 6) && g.open_ 5) = true)
    ∧ (let s := onInt s0 fun x => { x with waiting := [fault 0x80 3], recoveries := [recovery 3] }
       s.int.window = none ∧ (∀ g ∈ s.int.recoveries, g.level = 6 → g.open_ 5 = false) ∧ deepest [{ recovery 3 with target := 0x80 }] (fault 0x80 3).place = some { recovery 3 with target := 0x80 })
    ∧ (∀ t ∈ [4, 5, 1000000005], let s := onInt s0 fun x => { x with window := some (5, 1, 1) }
       (countFault s t 9).2 = decide (t ≠ 4)) := by decide +kernel

theorem witness_RecoveryRows :
    let one (r : Recovery) := onInt s0 fun x => { x with recoveries := [r] }
    let failed := failsafeEnter s0 9
    (Safety.powered s0 ∧ s0.int.dieStep2 = false ∧ (onInt s0 fun x => { x with dieStep2 := true }).int.dieStep2 = true)
    ∧ (failsafe (one (recovery 3)) = false ∧ (one (recovery 3)).int.recoveries[0]? = some (recovery 3) ∧ (recovery 3).target % 4096 < 0xE0)
    ∧ ((one (recovery 3)).time < (recovery 3).t1 + (recovery 3).bound ∧ (recovery 3).t1 + (recovery 3).bound ≤ (at_ (one (recovery 3)) 1000000000).time)
    ∧ (let s := onInt s0 fun x => { x with window := some (0, 1, 1) }
       s.int.window = some (0, 1, 1) ∧ s.time < 0 + 1000000000 ∧ 0 + 1000000000 ≤ (at_ s 1000000000).time)
    ∧ Safety.writable s0 .INT_FAILSAFE 0 0 ∧ Safety.writable s0 .INT_RECOVER 0 0 ∧ Safety.writable s0 .INT_HOLD 0 0 ∧ Safety.writable s0 .INT_INJECT 0 0
    ∧ (Safety.powered failed ∧ failsafe failed = true ∧ recoveryId failed = false)
    ∧ (let s := at_ (fset failed F.INT_CTL.AUTO_PACKAGE_MS 1) 1000000
       failsafe s = true ∧ fget s F.INT_CTL.AUTO_PACKAGE_MS = 1 ∧ s.int.failAt + 1000000 * 1 ≤ s.time)
    ∧ fget s0 F.INT_CTL.AUTO_PACKAGE_MS = 0
    ∧ (Status.ofCode 0xEE = none ∧ Status.ofCode 0x10 = some .badOpcode ∧ unitDefined 0x80 = true ∧ unitDefined 0x12E = false
       ∧ fget s0 F.INT_CTL.INJECT_EN = 0 ∧ fget (fset s0 F.INT_CTL.INJECT_EN 1) F.INT_CTL.INJECT_EN = 1) := by decide +kernel

/-- A placed PRESS item of SUBOP sub with a job, in the flat address space of host memory; the Press is ON. -/
def pressing (sub : Nat) (j : PressJob) (f : Task → Task := id) : State :=
  on (tasked (rawPress sub) .press fun k => f { k with total := 1, live := [0], press := some j }) 43

theorem witness_PressSlices :
    (∀ sub ∈ [0, 1], let s := pressing sub {}
       Safety.unitRuns s 0x117 ∧ (has (pressItem s 0 true) fun x =>
         let r := pressRead (busySteps (itemDone s 0 x.2.1) 1 .press 7) x.1 0 256
         let w := pressWrite r.2.2 x.1 0 []
         decide (x.1.stop = false ∧ r.1 = .ok ∧ w.1 = .ok ∧ (subOf x.1.raw = 1 ↔ sub = 1))) = true)
    ∧ (has (pressItem (pressing 0 {} fun k => { k with raw := putAt (rawPress 0) 32 (natLe 65537 4) }) 0 true) fun x =>
         decide (0 + Nat.min 65536 (fieldAt x.1.raw 32 8 - 0) < fieldAt x.1.raw 32 8)) = true
    ∧ (has (pressItem (pressing 0 {} fun k => { k with stop := true }) 0 true) fun x => x.1.stop) = true
    ∧ (let s := onXlt (pressing 0 {}) fun x => { x with tc := [] }
       (has (pressItem s 0 true) fun x => decide ((pressRead (busySteps (itemDone s 0 x.2.1) 1 .press 7) x.1 0 256).1 ≠ .ok)) = true)
    ∧ (let s := onXlt (pressing 1 { produced := [0, 0] }) fun x => { x with tc := [.leaf 0 0 (2 ^ 25) 25 (2 ^ 25) false permAll false { perm1 := permAll }] }
       (has (pressItem s 0 true) fun x =>
         let r := pressRead (busySteps (itemDone s 0 x.2.1) 1 .press 7) x.1 0 256
         decide (r.1 = .ok ∧ (pressWrite r.2.2 x.1 0 [0]).1 ≠ .ok)) = true)
    ∧ (let decoded (j : PressJob) (p : Status → DecStop → Bool) : Bool :=
         let s := pressing 3 j
         has (pressItem s 0 false) fun x =>
           let d := decLoop x.1 1 262144 j (busySteps (itemDone s 0 x.2.1) 1 .press 7)
           let w := pressWrite d.2.2 x.1 d.2.1.out (d.2.1.produced.take 1)
           !x.1.stop && p w.1 d.1
       decoded { produced := [0, 0] } (fun w d => decide (w = .ok) && match d with | .pause => true | _ => false) = true
       ∧ decoded { mode := .trailer, bits := List.replicate 96 false } (fun w d => decide (w = .ok) && match d with | .finished => true | _ => false) = true
       ∧ decoded { src := 256 } (fun w d => decide (w = .ok) && match d with | .fails _ _ => true | _ => false) = true)
    ∧ (let s := tasked (rawPress 0) .press fun k => { k with live := [0] }
       (has (taskAt s 0) fun k => decide (k.eng = .press ∧ k.live ≠ [])) = true ∧ domOn s 43 = false) := by decide +kernel

/-! ### 15 and 16 -/

/-- Stream 0 as f says, attached to DCP and output 0, with an accepted commit's luminances. -/
def showing (f : Stream → Stream := id) : State :=
  rset { on (on (flat s0) 42) 44 with dsp := { s0.dsp with streams := [(0, f {})] } } .DSP_STREAM_LUM (1000 * 2 ^ 32 + 100 * 2 ^ 16 + 80) 0 0

theorem witness_CommitsAndLatchPoints :
    (Safety.writable (showing) .DSP_COMMIT 0 0 ∧ commitPending (showing) 0 = false ∧ commitCheck (showing) 0 = none)
    ∧ (Safety.writable (on s0 42) .DSP_COMMIT 0 7 ∧ commitCheck (rset (on s0 42) .DSP_STREAM_LUM 0 0 7) 7 = some .lengthRange)
    ∧ commitPending (fset (showing) F.DSP_COMMIT_STATUS.PENDING 1 0 0) 0 = true
    ∧ (let s := showing fun x => { x with ctl := 2 ^ 31, committed := some 5 }
       (∀ t ∈ [5, 6], Safety.powered (at_ s t) ∧ streamOn (at_ s t) 0 = true ∧ (streamAt (at_ s t) 0).committed = some 5 ∧ rget (at_ s t) .DSP_COMMIT_QUEUE 0 0 = 0)
       ∧ (let u := rset (at_ s 6) .DSP_COMMIT_QUEUE 0x4000 0 0
          rget u .DSP_COMMIT_QUEUE 0 0 ≠ 0 ∧ queueOf u 0 (rget u .DSP_COMMIT_QUEUE 0 0) = none
          ∧ ∀ n ∈ [3, 4], let v := rset (onFe u fun x => { x with queues := [(0, { queueWith [] with seq := 3 })] }) .DSP_COMMIT_SEQ n 0 0
              (has (queueOf v 0 (rget v .DSP_COMMIT_QUEUE 0 0)) fun x =>
                decide (rget v .DSP_COMMIT_SEQ 0 0 ≤ (if x.2.wroteAt < v.time then x.2.seq else x.2.seqWas)) == decide (n = 3)) = true)) := by decide +kernel

/-- A mode of 8 by 8 pixels for stream 0 that is active, with layer 0 of stream 0. -/
def scanning (f : Stream → Stream := id) : State :=
  let s := showing fun x => f { x with ctl := 2 ^ 31, lum := 1000 * 2 ^ 32 + 100 * 2 ^ 16 + 80 }
  let p : Pipe := { stream := some 0, src := 8 * 2 ^ 16 + 8, addr := 0x10000, pitch := 128, buf := 4 * 2 ^ 21 }
  fset (fset { s with dsp := { s.dsp with pipes := [(0, p)] } } F.DSP_TIMING_H.ACTIVE 8 0 0) F.DSP_TIMING_V.ACTIVE 8 0 0

theorem witness_LinesAndLinks :
    (let s := scanning
     let x := pipeAt s 0
     Safety.engines s ∧ domOn s 42 = true ∧ x.stream = some 0 ∧ streamOn s 0 = true ∧ fget s F.DSP_PIPE_STATUS.FAULTED 0 0 = 0 ∧ x.next < pipeRows s 0 x
     ∧ pipeCols s 0 x ≠ 0 ∧ bit x.ctl 22 = false ∧ x.lines.length < bits x.buf 27 21)
    ∧ (let s := scanning
       (streamAt s 0).line < fget s F.DSP_TIMING_V.ACTIVE 0 0 ∧ fget s F.DSP_OUT_STATUS.HELD 0 0 = 0 ∧ (streamAt s 0).shroud = false
       ∧ fget (fset s F.DSP_OUT_STATUS.HELD 1 0 0) F.DSP_OUT_STATUS.HELD 0 0 = 1)
    ∧ (∀ y ∈ [0, 7], let s := scanning fun x => { x with wbLines := [(y, 0x100, zeros 32)] }
       let w := vwrite (onStream s 0 fun z => { z with wbLines := [] }) 211 4 0 (fget s F.DSP_OUT_AS.ASID 0 0) 0 0x100 (zeros 32)
       Safety.unitRuns s 0x120 ∧ (streamAt s 0).wbLines = [(y, 0x100, zeros 32)] ∧ w.1 = .ok ∧ (y + 1 = fget s F.DSP_TIMING_V.ACTIVE 0 0 ↔ y = 7))
    ∧ (vwrite (onXlt (scanning) fun x => { x with tc := [] }) 211 4 0 0 0 0x100 (zeros 32)).1 ≠ .ok
    ∧ (let s := on s0 42
       Safety.engines s ∧ domOn s 42 = true ∧ fwRunning s = false ∧ 3 ∉ s.boot.hpd ∧ 3 ∈ (hpdSet s 3 true).boot.hpd
       ∧ fget (fset s F.DSP_OUT_STATUS.STATE 1 0 3) F.DSP_OUT_STATUS.STATE 0 3 = 1)
    ∧ (Safety.writable (on s0 42) .DSP_OUT_CTL 0 0 ∧ outputOn (on s0 42) 0 = false)
    ∧ (Safety.writable (on s0 42) .DSP_AUX_CMD 0 0 ∧ fget (on s0 44) F.DSP_AUX_RESULT.BUSY 0 0 = 0)
    ∧ (∀ op ∈ [1, 2, 3, 4], ∀ d ∈ [0, 6], let r : AuxRun := { op := op, addr := 0, len := 16, defers := d }
       let s : State := { s0 with dsp := { s0.dsp with aux := [(3, r)] } }
       Safety.engines s ∧ tget s.dsp.aux 3 = some r ∧ r.defers < 7 ∧ (zeros 16).length = r.len) := by
  refine ⟨?_, ?_, ?_, ?_, ?_, ?_, ?_, ?_⟩ <;> decide +kernel

theorem witness_HostMemoryRows :
    (Safety.powered s0 ∧ bar2There s0 0 = true ∧ failsafe s0 = false)
    ∧ ((upFrom (deviceLimit - 1) 2).any (bar2Outside s0 0) = true ∧ (upFrom 0 4).any (bar2Outside s0 0) = false ∧ (upFrom 0 4).any (bar2Off s0 0) = false)
    ∧ (upFrom 0 4).any (bar2Off (domSet s0 32 3) 0) = true
    ∧ ((devRead s0 6 0 4).1 = .ok ∧ (devRead (devWrite s0 6 0 (zeros 128) true).2 6 0 4).1 ≠ .ok)
    ∧ ((rangeHit (onXlt s0 fun x => { x with ranges := [{ fn := 0, obj := 0, lo := 0, hi := 4096, protect := true }] }) 0 4).1 = true ∧ s0.xlt.ranges = [])
    ∧ (∀ b ∈ [true, false], let s : State := { s0 with hif := { s0.hif with pba := [3], cfg := [(0, { msixEnable := b })], msix := [(3, { addr := 0, data := 0, masked := false })] } }
       recoveryId s = false ∧ 3 < vectorCount 0 ∧ 0 * 2048 + 3 ∈ s.hif.pba ∧ msixOpen s 0 3 = b) := by decide +kernel

theorem witness_LinkAndFunctionRows :
    let settled := fset s0 F.BOOT_STATUS.RESULT 1
    let vf : State := { settled with hif := { s0.hif with vfEnable := true, numVFs := 15 } }
    (Safety.powered s0 ∧ fget s0 F.BOOT_STATUS.RESULT = 0) ∧ (fget settled F.BOOT_STATUS.RESULT = 1 ∧ fnExists settled 1 = false ∧ failsafe settled = false)
    ∧ fnExists settled 0 = true
    ∧ (recoveryId s0 = false ∧ (fnCfg s0 0).memSpace = false ∧ s0.hif.vfMemSpace = false
        ∧ (fnCfg { s0 with hif := { s0.hif with cfg := [(0, { memSpace := true })], vfMemSpace := true } } 0).memSpace = true)
    ∧ (let s := at_ (fset (fset (fset s0 F.HIF_LINK.ACTIVE 16) F.HIF_LINK.SPEED 6) F.HIF_LINK_CTL.L0P_EN 1) 100000
       s.time ≠ 0 ∧ s.time % 100000 = 0 ∧ fget s F.HIF_LINK_CTL.L0P_EN = 1 ∧ 2 ^ fget s F.HIF_LINK_CTL.L0P_MIN ≤ fget s F.HIF_LINK.ACTIVE / 2
       ∧ 4 * 1000 < laneBytes s (fget s F.HIF_LINK.ACTIVE / 2) ∧ fget s F.HIF_LINK.LSTATE ≤ 1)
    ∧ (let s := fset (fset s0 F.HIF_LINK.SPEED 6) F.HIF_LINK_CTL.L1_IDLE_US 50
       fget s F.HIF_LINK_CTL.L1_IDLE_US ≠ 0 ∧ fget s F.HIF_LINK.SPEED ≠ 0 ∧ fget s F.HIF_LINK.LSTATE ≤ 1 ∧ s.hif.pba = [])
    ∧ ((3, 2) ∈ ({ s0 with pwr := { s0.pwr with wakes := [(3, 2)] } } : State).pwr.wakes ∧ (3, 2) ∉ s0.pwr.wakes)
    ∧ (fnExists vf 15 = true ∧ failsafe vf = false ∧ failsafe (failsafeEnter vf 9) = true ∧ fnExists (failsafeEnter vf 9) 15 = true)
    ∧ (Safety.writable s0 .HIF_VF_WIN 0 15 ∧ 95232 < bits (2 ^ 42 + 95232 * 2 ^ 21) 37 21 + bits (2 ^ 42 + 95232 * 2 ^ 21) 58 42
        ∧ bits (95231 * 2 ^ 42 + 2 ^ 21) 37 21 + bits (95231 * 2 ^ 42 + 2 ^ 21) 58 42 = 95232
        ∧ (∀ g < 16, winsOverlap (1, 95231) (fget s0 F.HIF_VF_WIN.BASE 0 g, fget s0 F.HIF_VF_WIN.SIZE 0 g) = false)) := by decide +kernel

/-- A port in a state, its link layer changed by f. -/
def port (p st : Nat) (f : Port → Port := id) : State := onPort (fset (on s0 (48 + p)) F.UAP_STATUS.STATE st 0 p) p f

theorem witness_ScramblerInverse : prbsSeed.length = 8 := rfl

theorem witness_UaperPorts :
    (let raw := List.replicate 256 255#8
     Safety.powered (port 1 2) ∧ domOn (port 1 2) 49 = true ∧ raw.length = 256 ∧ uapState (port 1 2) 1 = 2 ∧ checkFlit (scramble prbsSeed raw).1 = none
     ∧ checkFlit (scramble (portAt (port 1 2) 1).rxPrbs raw).1 = none)
    ∧ (let raw := (scramble prbsSeed (flitBytes { ty := 2 } {})).1
       raw.length = 256 ∧ uapState (port 0 1) 0 = 1 ∧ (has (checkFlit (scramble prbsSeed raw).1) fun x => decide (x.2 = false ∧ (readFlit x.1).1.ty = 2)) = true)
    ∧ (∀ st ∈ [0, 1, 2, 3, 4, 5, 6], ∀ p ∈ [0, 1], uapState (port p st) p = st)
    ∧ (let x := portAt (port 0 2) 0
       x.resend = 0 ∧ x.mgmt = [] ∧ x.tx1 = [] ∧ x.tx0 = [] ∧ x.replay = [])
    ∧ (let x := portAt (port 0 2 fun x => { x with tx1 := [{ ty := 1 }], credit1 := 1 }) 0
       x.resend = 0 ∧ x.replay.length < 512 ∧ x.mgmt = [] ∧ x.tx1 = [{ ty := 1 }] ∧ 0 < x.credit1)
    ∧ (∀ n ∈ [2, 3], let x := portAt (port 0 2 fun x => { x with replay := [{ ty := 1 }], replays := n }) 0
       x.replay ≠ [] ∧ x.replays = n)
    ∧ (∀ st ∈ [1, 3], ∀ n ∈ [1023, 1024], let u := uapTry (port 0 st fun x => { x with goods := n, acked := 8, fails := n - 1022 }) 0
       Safety.engines (port 0 st) ∧ uapState u 0 = st ∧ domOn u 48 = true ∧ (portAt u 0).goods = n ∧ (portAt u 0).acked = 8 ∧ (portAt u 0).fails = n - 1022)
    ∧ (let x := portAt (uapAcked (port 0 2) 0 {}) 0
       uapState (uapAcked (port 0 2) 0 {}) 0 = 2 ∧ x.credit0 ≤ 512 ∧ x.credit1 ≤ 8 ∧ overGranted x { ty := 1, fseq := (x.rxLast + 1) % 4096 } = false)
    ∧ (Safety.writable (port 1 2) .UAP_CTL 0 1 ∧ (portAt (port 1 2) 1).replay = [] ∧ ∀ e ∈ (port 1 2).seq.runs, e.2.ring = false) := by decide +kernel

/-! ### 17 to 19 -/

/-- A fold in which every intermediate value is evaluated before the next element: a number is taken apart only once it is known. -/
def forced (f : Nat → Byte → Nat) : List Byte → Nat → Nat
  | [], c => c
  | b :: t, c => Nat.casesOn (f c b) (forced f t 0) fun n => forced f t (n + 1)

theorem forced_eq (f : Nat → Byte → Nat) (l : List Byte) : ∀ c, l.foldl f c = forced f l c := by
  induction l with
  | nil => exact fun _ => rfl
  | cons b t ih =>
    intro c
    have h : forced f (b :: t) c = Nat.casesOn (f c b) (forced f t 0) fun n => forced f t (n + 1) := rfl
    rw [List.foldl_cons, ih, h]
    cases f c b <;> rfl

/-- CRC-32C, evaluated byte by byte. -/
theorem crc32c_eq (l : List Byte) : crc32c l = forced (crcByte 0x82F63B78) l (2 ^ 32 - 1) ^^^ (2 ^ 32 - 1) := by
  rw [← forced_eq]
  rfl

/-- Bytes with fields as (offset, value, bytes). -/
def blank (n : Nat) (l : List (Nat × Nat × Nat)) : List Byte := l.foldl (fun b x => putAt b x.1 (natLe x.2.1 x.2.2)) (zeros n)

/-- The required sections of an image (19 R531): IDENT, LINK, POWER, RAILS, KEYS, each with its CRC-32C. -/
def sections : List (Nat × List Byte × Nat) :=
  [(1, blank 64 [(10, 8, 1)], 1420123695), (2, blank 64 [(0, 6, 1), (1, 16, 1), (2, 38, 1)], 4005975975),
   (3, blank 64 [(0, 600, 2), (2, 500, 2), (4, 750, 2)], 24925700), (4, blank 64 [(1, 5, 1), (2, 520, 2)], 1823707789), (7, blank 64 [], 63499111)]

/-- The first 320 bytes of an image of 24 KiB that holds them from 0x1000, each in its own 4 KiB. -/
def imageHead : List Byte :=
  let dir := sections.zipIdx.flatMap fun x => natLe x.1.1 4 ++ natLe (0x1000 * (x.2 + 1)) 4 ++ natLe 64 4 ++ natLe x.1.2.2 4
  [0x52, 0x4E, 0x43, 0x49, 1, 0, 5, 0] ++ natLe 24576 4 ++ natLe 1001156709 4 ++ zeros 48 ++ dir ++ zeros 176

/-- A public key, its SHA-384, the SHA-384 of the image's first 24,320 bytes, and the key's signature of that, computed outside the model. -/
def signedKey : List Byte :=
  natBe 0x42ca8c560f92280756d4d4e5903043a370532b246669e6110b033f9ab150d51863208e24bd70ce3738d027638bbd54cd21fc91a81a4cd7ea2ab6c205986767e830926c1bbf7eff71c25a2245d787dd8cc01731db7c2d9b1f4ab7ce1959c83624f 97
def signedKeyHash : List Byte := natBe 0x3de46d69a8e02a18320d8223d5a256f9917184c9a74850a412b124da885e85c13322d4a44e66a6bc31be7210f9c5e77d 48
def signedDigest : List Byte := natBe 0x56bad0dc73dbadb8fd4a682aedaf856a1e6d260547869632ecd0eb2b07fb20837f44f2eb8dec88d47a166db62359278f 48
def signature : List Byte :=
  natBe 0xeb4b00016a26603029275ade697e352bcffe507e3d823a1f9afd03ccf42e2d48415a62d80ed40c9168d9345efc3705f35dc5fb41d829d6ba0f03d9f8a0bf7cb7e21aad6fd81b84d3cc33c314f05b739dbd6b0685962eeb2ea76a85faa2fd098 96

/-- 17 R492, 19 R532: that signature verifies, and the same bytes in the other order do not. -/
theorem test_signature : ecdsaOk signedKey signedDigest signature = true ∧ ecdsaOk signedKey signedDigest signature.reverse = false := by decide +kernel

theorem test_key_hash : sha384 signedKey = signedKeyHash := by decide +kernel

/-- Bytes at an address, but for those that are 0xFF. -/
def cellsAt (a : Nat) (l : List Byte) : List Host.Cell := (l.zipIdx.map fun x => (a + x.2, x.1)).filter fun c => c.2 != 0xFF

/-- The image's bytes that are not 0xFF, without its signature. -/
def imageLow : List Host.Cell :=
  cellsAt 0 imageHead ++ (sections.zipIdx.flatMap fun x => cellsAt (0x1000 * (x.2 + 1)) x.1.2.1) ++ cellsAt 24320 (signedKey ++ [0])

/-- The same, with its signature or without one. -/
def imageCells (signed : Bool) : List Host.Cell := imageLow ++ if signed then cellsAt 24448 signature else []

/-- Key slot 0 programmed and not revoked, and LINK_READY as given. -/
def fused (ready : Nat) : State := fset { s0 with regs := [(Reg.key .BOOT_FUSE 0 0, 0x10#64)] } F.BOOT_STATUS.LINK_READY ready

/-- The same with that image in flash and the hashes of the key slots. -/
def imaged (ready : Nat) (keys : List (List Byte)) (signed : Bool) : State :=
  { fused ready with boot := { s0.boot with flash := imageCells signed, fuseKeys := keys } }

/-! The SHA-384 of the image, block by block: every number is known before it is used. -/

/-- Goes on with a number once it is known. -/
def forceNat {α : Type} (n : Nat) (k : Nat → α) : α := Nat.casesOn n (k 0) fun m => k (m + 1)
theorem forceNat_eq {α : Type} (n : Nat) (k : Nat → α) : forceNat n k = k n := by cases n <;> rfl

/-- Goes on with a list of numbers once they are known. -/
def forceList {α : Type} : List Nat → (List Nat → α) → α
  | [], k => k []
  | n :: t, k => forceNat n fun m => forceList t fun u => k (m :: u)
theorem forceList_eq {α : Type} (l : List Nat) : ∀ k : List Nat → α, forceList l k = k l := by
  induction l with
  | nil => exact fun _ => rfl
  | cons n t ih => exact fun k => by rw [forceList, forceNat_eq, ih]

/-- The rounds of a block, one after the other. -/
def shaRun : List Nat → Nat → Nat → Nat → Nat → Nat → Nat → Nat → Nat →
    Nat → Nat → Nat → Nat → Nat → Nat → Nat → Nat → Nat → Nat → Nat → Nat → Nat → Nat → Nat → Nat → List Nat
  | [], a, b, c, d, e, f, g, h, _, _, _, _, _, _, _, _, _, _, _, _, _, _, _, _ => [a, b, c, d] ++ [e, f, g, h]
  | k :: t, a, b, c, d, e, f, g, h, w0, w1, w2, w3, w4, w5, w6, w7, w8, w9, w10, w11, w12, w13, w14, w15 =>
    forceNat ((h + shaUp1 e + shaCh e f g + k + w0) % 2 ^ 64) fun x =>
    forceNat ((x + (shaUp0 a + shaMaj a b c) % 2 ^ 64) % 2 ^ 64) fun y =>
    forceNat ((d + x) % 2 ^ 64) fun z =>
    forceNat ((shaLow1 w14 + w9 + shaLow0 w1 + w0) % 2 ^ 64) fun n =>
    shaRun t y a b c z e f g w1 w2 w3 w4 w5 w6 w7 w8 w9 w10 w11 w12 w13 w14 w15 n

theorem shaRun_eq (ks : List Nat) : ∀ a b c d e f g h w0 w1 w2 w3 w4 w5 w6 w7 w8 w9 w10 w11 w12 w13 w14 w15,
    shaRun ks a b c d e f g h w0 w1 w2 w3 w4 w5 w6 w7 w8 w9 w10 w11 w12 w13 w14 w15
      = (ks.foldl shaRound ([a, b, c, d] ++ [e, f, g, h], [w0, w1, w2, w3, w4, w5, w6, w7, w8, w9, w10, w11, w12, w13, w14, w15])).1 := by
  induction ks with
  | nil => intros; rfl
  | cons k t ih =>
    intros
    unfold shaRun
    simp only [forceNat_eq, ih, List.foldl_cons]
    rfl

/-- The words of a block. -/
def shaWords (b : List Byte) : List Nat := (List.range 16).map fun j => beNat ((b.drop (8 * j)).take 8)

/-- The hash after blocks, of which the words are given. -/
def shaFast : List (List Nat) → List Nat → List Nat
  | [], h => h
  | w :: t, h =>
    match h, w with
    | [x0, x1, x2, x3, x4, x5, x6, x7], [w0, w1, w2, w3, w4, w5, w6, w7, w8, w9, w10, w11, w12, w13, w14, w15] =>
      forceList ((h.zip (shaRun shaK x0 x1 x2 x3 x4 x5 x6 x7 w0 w1 w2 w3 w4 w5 w6 w7 w8 w9 w10 w11 w12 w13 w14 w15)).map fun x => (x.1 + x.2) % 2 ^ 64) fun h =>
        shaFast t h
    | h, w => shaFast t ((h.zip (shaK.foldl shaRound (h, w)).1).map fun x => (x.1 + x.2) % 2 ^ 64)

theorem shaFast_eq (l : List (List Byte)) : ∀ h, l.foldl shaBlock h = shaFast (l.map shaWords) h := by
  induction l with
  | nil => exact fun _ => rfl
  | cons b t ih =>
    intro h
    rw [List.map_cons]
    unfold shaFast
    rw [List.foldl_cons]
    split
    · next e =>
      rw [forceList_eq, ← ih, shaRun_eq, ← e]
      rfl
    · rw [← ih]
      rfl

theorem mread_add (d : Byte) (m : List Host.Cell) (n k : Nat) : ∀ a, mread d m a (n + k) = mread d m a n ++ mread d m (a + n) k := by
  induction n with
  | zero => intro a; simp [mread]
  | succ n ih => intro a; rw [Nat.succ_add, mread, mread, ih, List.cons_append, Nat.add_right_comm, Nat.add_assoc]

theorem mget_gap (d : Byte) (m : List Host.Cell) (a : Nat) (h : ∀ c ∈ m, c.1 ≠ a) : mget d m a = d := by
  unfold mget tgetD
  induction m with
  | nil => rfl
  | cons c t ih =>
    rw [tget, if_neg (h c (by simp)).symm]
    exact ih fun x hx => h x (by simp [hx])

theorem mread_gap (d : Byte) (m : List Host.Cell) (n : Nat) : ∀ a, (∀ c ∈ m, c.1 < a ∨ a + n ≤ c.1) → mread d m a n = List.replicate n d := by
  induction n with
  | zero => exact fun _ _ => rfl
  | succ n ih =>
    intro a h
    rw [mread, mget_gap d m a fun c hc => by have := h c hc; omega, ih (a + 1) fun c hc => by have := h c hc; omega, List.replicate_succ]

theorem tget_filter (m : List Host.Cell) (f : Host.Cell → Bool) (a : Nat) (h : ∀ v, f (a, v) = true) : tget (m.filter f) a = tget m a := by
  induction m with
  | nil => rfl
  | cons c t ih =>
    rw [List.filter_cons]
    split
    · rw [tget, tget, ih]
    · next hc =>
      rw [tget, if_neg (by rintro rfl; exact hc (h c.2)), ih]

theorem mread_congr (d : Byte) (m u : List Host.Cell) (n : Nat) : ∀ a, (∀ q, a ≤ q → q < a + n → tget m q = tget u q) → mread d m a n = mread d u a n := by
  induction n with
  | zero => exact fun _ _ => rfl
  | succ n ih =>
    intro a h
    rw [mread, mread, ih (a + 1) fun q h1 h2 => h q (by omega) (by omega), mget, mget, tgetD, tgetD, h a (by omega) (by omega)]

/-- A read needs only the cells that it reads. -/
theorem mread_filter (d : Byte) (m : List Host.Cell) (a n : Nat) :
    mread d m a n = mread d (m.filter fun c => decide (a ≤ c.1) && decide (c.1 < a + n)) a n :=
  mread_congr d m _ n a fun q h1 h2 => (tget_filter m _ q fun v => by simp [h1, h2]).symm

theorem mread_pieces (d : Byte) (m : List Host.Cell) (a n k : Nat) :
    mread d m a (n * k) = (List.range k).flatMap fun i => mread d (m.filter fun c => decide (a + n * i ≤ c.1) && decide (c.1 < a + n * i + n)) (a + n * i) n := by
  induction k with
  | zero => rfl
  | succ k ih => rw [Nat.mul_succ, mread_add, ih, List.range_succ, List.flatMap_append, mread_filter d m (a + n * k)]; simp

/-- The blocks of a message that is read from memory. -/
theorem chunks_mread (d : Byte) (m : List Host.Cell) (n : Nat) (t : List Byte) (ht : t.length = 128) :
    chunks 128 (mread d m 0 (128 * n) ++ t) = ((List.range n).map fun i => mread d m (128 * i) 128) ++ [t] := by
  have e : (mread d m 0 (128 * n) ++ t).length = 128 * n + 128 := by simp [ht]
  have q : (128 * n + 128 + 128 - 1) / 128 = n + 1 := by omega
  rw [chunks, e, q, List.range_succ, List.map_append]
  congr 1
  · refine List.map_congr_left fun i hi => ?_
    have hn : 128 * n = 128 * i + (128 + 128 * (n - i - 1)) := by have := List.mem_range.1 hi; omega
    rw [hn, mread_add, mread_add, List.append_assoc, List.drop_append_of_le_length (by simp; omega), List.drop_of_length_le (by simp; omega), List.nil_append,
      List.append_assoc, List.take_append_of_le_length (by simp), List.take_of_length_le (by simp), Nat.zero_add]
  · rw [List.map_singleton, List.drop_append_of_le_length (by simp; omega), List.drop_of_length_le (by simp; omega), List.nil_append,
      List.take_of_length_le (by omega)]

/-- The words of block i. -/
def imageWords (i : Nat) : List Nat :=
  if i ∈ [0, 1, 2, 32, 64, 96, 128, 160] then
    shaWords (mread 0xFF ((imageCells true).filter fun c => decide (128 * i ≤ c.1) && decide (c.1 < 128 * i + 128)) (128 * i) 128)
  else List.replicate 16 (2 ^ 64 - 1)

/-- Block i of the image: few hold a byte other than 0xFF. -/
def imageBlock (i : Nat) : List Byte := if i ∈ [0, 1, 2, 32, 64, 96, 128, 160] then mread 0xFF (imageCells true) (128 * i) 128 else List.replicate 128 0xFF

theorem imageBlock_eq (i : Nat) (hi : i < 190) : mread 0xFF (imageCells true) (128 * i) 128 = imageBlock i := by
  unfold imageBlock
  split
  · rfl
  · next h =>
    have all : ∀ c ∈ imageCells true, c.1 / 128 ∈ [0, 1, 2, 32, 64, 96, 128, 160, 190, 191] := by decide +kernel
    refine mread_gap _ _ _ _ fun c hc => ?_
    have := all c hc
    simp only [List.mem_cons, List.not_mem_nil, or_false] at this h
    omega

theorem imageWords_eq : shaWords ∘ imageBlock = imageWords := by
  have h : shaWords (List.replicate 128 0xFF) = List.replicate 16 (2 ^ 64 - 1) := by decide +kernel
  funext i
  rw [Function.comp_apply, imageBlock, mread_filter, apply_ite shaWords, h]
  rfl

/-- The hash before block 32 k of the image, by hand outside the model. -/
def imageHash : Nat → List Nat
  | 0 => shaInit
  | 1 => [0x3E6BE3629D44DBB2, 0xEFDA696F2F86E19D, 0x7AC5FA591A16475D, 0x4481465134B69711] ++ [0xECB2E5E8A2433A1F, 0x98B4DDD01601E5AE, 0xDBA1067974E4582A, 0x1DA3A2518BCBC3EC]
  | 2 => [0x19742C41C8E67AF, 0x77B3158F6A1AD321, 0x12E5C7251888EBF7, 0xAFF18B524B421D19] ++ [0xE585C616C60932E6, 0xA8F302A56E62AB3D, 0x6EBCDC2C280B2F7D, 0x877491B0D682F982]
  | 3 => [0xFA1BBEC2EBE7BBC1, 0x303D4CB141391FC4, 0xF0E2F1423BDAFC3, 0x76B8825A544FF30D] ++ [0xB52EC74B464793B3, 0xFE4B833B90B5F5FD, 0xBDAD1FB4D7111D88, 0x5B32916DF2FFE05A]
  | 4 => [0xE7A1C1FEA50260C5, 0x5DC649B31B056728, 0xBB9589798402CAE4, 0xDEA64770A6052DF0] ++ [0x5650DECEC277F0EE, 0xEB682A95AD474533, 0xC918A813EFF1948A, 0xE126EF1488CE8368]
  | 5 => [0x63F6332BF6C89BA6, 0x6B56D8E114E01714, 0xBA30F6B921A610DD, 0x84125ED841336001] ++ [0x980D501D02409974, 0x5739DDE8819EA792, 0x4ADDA5F2F32D3986, 0x199CBF2BC6F5D858]
  | _ => [0xFE4EA03B0B4198E2, 0xC7E9EF49BAF75320, 0x3111B927BD952778, 0x3403A2D1C5A36E74] ++ [0x6DE630B9B26D10B3, 0xAC60922E17A57EA4, 0xB46C79B4618BB27E, 0xF62B6242E36160A6]

theorem imageHash_0 : ((List.range' 0 32).map imageBlock).foldl shaBlock (imageHash 0) = imageHash 1 := by
  rw [shaFast_eq, List.map_map, imageWords_eq]
  decide +kernel

theorem imageHash_1 : ((List.range' 32 32).map imageBlock).foldl shaBlock (imageHash 1) = imageHash 2 := by
  rw [shaFast_eq, List.map_map, imageWords_eq]
  decide +kernel

theorem imageHash_2 : ((List.range' 64 32).map imageBlock).foldl shaBlock (imageHash 2) = imageHash 3 := by
  rw [shaFast_eq, List.map_map, imageWords_eq]
  decide +kernel

theorem imageHash_3 : ((List.range' 96 32).map imageBlock).foldl shaBlock (imageHash 3) = imageHash 4 := by
  rw [shaFast_eq, List.map_map, imageWords_eq]
  decide +kernel

theorem imageHash_4 : ((List.range' 128 32).map imageBlock).foldl shaBlock (imageHash 4) = imageHash 5 := by
  rw [shaFast_eq, List.map_map, imageWords_eq]
  decide +kernel

theorem imageHash_5 : ((List.range' 160 30).map imageBlock).foldl shaBlock (imageHash 5) = imageHash 6 := by
  rw [shaFast_eq, List.map_map, imageWords_eq]
  decide +kernel

theorem imageHash_end : (([0x80] ++ zeros 111 ++ natBe (8 * 24320) 16).length = 128
    ∧ ((shaBlock (imageHash 6) ([0x80] ++ zeros 111 ++ natBe (8 * 24320) 16)).take 6).flatMap (fun x => natBe x 8) = signedDigest) := by decide +kernel

theorem image_digest : sha384 (mread 0xFF (imageCells true) 0 24320) = signedDigest := by
  have e : shaPad (mread 0xFF (imageCells true) 0 24320) = mread 0xFF (imageCells true) 0 (128 * 190) ++ ([0x80] ++ zeros 111 ++ natBe (8 * 24320) 16) := by
    rw [shaPad, Laws.length_mread, show (239 - 24320 % 128) % 128 = 111 from rfl, show (24320 : Nat) = 128 * 190 from rfl]
    simp only [List.append_assoc]
  have r : List.range 190 = List.range' 0 32 ++ List.range' 32 32 ++ List.range' 64 32 ++ List.range' 96 32 ++ List.range' 128 32 ++ List.range' 160 30 := by decide +kernel
  have m : (List.range 190).map (fun i => mread 0xFF (imageCells true) (128 * i) 128) = (List.range 190).map imageBlock :=
    List.map_congr_left fun i hi => imageBlock_eq i (List.mem_range.1 hi)
  rw [sha384, e, chunks_mread _ _ _ _ imageHash_end.1, m, r]
  simp only [List.map_append, List.foldl_append]
  rw [show shaInit = imageHash 0 from rfl, imageHash_0, imageHash_1, imageHash_2, imageHash_3, imageHash_4, imageHash_5]
  exact imageHash_end.2

/-- Before the signature the two images hold the same. -/
theorem flash_low (r : Nat) (k : List (List Byte)) (g : Bool) (a n : Nat) (h : a + n ≤ 24448) :
    flashRead (imaged r k g) a n = mread 0xFF (imageCells false) a n := by
  have e : flashRead (imaged r k g) a n = mread 0xFF (imageCells g) a n := rfl
  have high : ∀ c ∈ cellsAt 24448 signature, 24448 ≤ c.1 := by decide +kernel
  rw [e, mread_filter, mread_filter 0xFF (imageCells false)]
  refine congrArg (fun m => mread 0xFF m a n) ?_
  cases g
  · rfl
  · have z : ((cellsAt 24448 signature).filter fun c => decide (a ≤ c.1) && decide (c.1 < a + n)) = [] := by
      refine List.filter_eq_nil_iff.2 fun c hc => ?_
      have := high c hc
      simp
      omega
    rw [imageCells, imageCells, if_pos rfl, if_neg Bool.false_ne_true, List.append_nil, List.filter_append, z, List.append_nil]

theorem flash_head (r : Nat) (k : List (List Byte)) (g : Bool) : flashRead (imaged r k g) 0 320 = imageHead := by
  rw [flash_low _ _ _ _ _ (by decide), show 320 = 32 * 10 from rfl, mread_pieces]
  decide +kernel

theorem flash_sections (r : Nat) (k : List (List Byte)) (g : Bool) : (dirUsed imageHead).map (fun e => (e.id, sectionBytes (imaged r k g) e, e.crc)) = sections := by
  have d : dirUsed imageHead = (sections.zipIdx.map fun x => { id := x.1.1, rsvd := 0, offset := 0x1000 * (x.2 + 1), length := 64, crc := x.1.2.2 }) := by decide +kernel
  have f : ∀ i ∈ List.range 5, flashRead (imaged r k g) (0x1000 * (i + 1)) 64 = (sections.getD i (0, [], 0)).2.1 := by
    intro i hi
    rw [flash_low _ _ _ _ _ (by have := List.mem_range.1 hi; omega), show 64 = 32 * 2 from rfl, mread_pieces]
    revert i
    decide +kernel
  rw [d]
  simp only [sectionBytes, sections, List.zipIdx_cons, List.zipIdx_nil, List.map_cons, List.map_nil]
  simp only [f 0 (by decide), f 1 (by decide), f 2 (by decide), f 3 (by decide), f 4 (by decide), sections, List.getD_cons_zero, List.getD_cons_succ]

theorem flash_signature (r : Nat) (k : List (List Byte)) (g : Bool) : signatureBlock (imaged r k g) imageHead
    = signedKey ++ [0] ++ List.replicate 30 0xFF ++ (if g then signature else List.replicate 96 0xFF) ++ List.replicate 32 0xFF := by
  have e : signatureBlock (imaged r k g) imageHead = mread 0xFF (imageCells g) 24320 (32 * 8) := by
    rw [signatureBlock, show fieldAt imageHead 8 4 = 24576 by decide +kernel]
    rfl
  rw [e, mread_pieces]
  clear e
  revert g
  decide +kernel

theorem witness_image_header (r : Nat) (k : List (List Byte)) (g : Bool) :
    imageHeaderBad (flashRead (imaged r k g) 0 320) = false ∧ directoryBad (flashRead (imaged r k g) 0 320) = false := by
  rw [flash_head]
  refine ⟨?_, by decide +kernel⟩
  simp only [imageHeaderBad, crc32c_eq]
  decide +kernel

/-- The CRC and the fields of every section are right. -/
theorem witness_image_sections (r : Nat) (k : List (List Byte)) (g : Bool) (f : DirEntry → Bool) :
    crcBad (imaged r k g) ((dirUsed imageHead).filter f) = none ∧ rangeBad (imaged r k g) (dirUsed imageHead) = none := by
  have c : ∀ x ∈ sections, crc32c x.2.1 = x.2.2 ∧ fieldBad x.1 x.2.1 = false := by
    simp only [crc32c_eq]
    decide +kernel
  have ok : ∀ y ∈ dirUsed imageHead, crc32c (sectionBytes (imaged r k g) y) = y.crc ∧ fieldBad y.id (sectionBytes (imaged r k g) y) = false := by
    intro y hy
    have h := List.mem_map_of_mem (f := fun e => (e.id, sectionBytes (imaged r k g) e, e.crc)) hy
    rw [flash_sections] at h
    exact c _ h
  constructor
  · rw [crcBad, List.find?_eq_none.2 fun x hx => by simpa using (ok x (List.mem_filter.1 hx).1).1]
    rfl
  · rw [rangeBad, List.find?_eq_none.2 fun x hx => by simpa using (ok x hx).2]
    rfl

/-- A signature whose r is no number below the order verifies nothing. -/
theorem ecdsaOk_range (k d g : List Byte) (h : p384Order ≤ beNat (g.take 48)) : ecdsaOk k d g = false := by
  simp only [ecdsaOk, Nat.not_lt.2 h, decide_false, Bool.and_false, Bool.false_and]

theorem imaged_signed (r : Nat) (k : List (List Byte)) (g : Bool) : imageSigned (imaged r k g) imageHead = g := by
  have t : (((signedKey ++ [0] ++ List.replicate 30 0xFF ++ (if g then signature else List.replicate 96 0xFF) ++ List.replicate 32 0xFF : List Byte).drop 128).take 96
      = if g then signature else List.replicate 96 0xFF)
      ∧ (signedKey ++ [0] ++ List.replicate 30 0xFF ++ (if g then signature else List.replicate 96 0xFF) ++ List.replicate 32 0xFF : List Byte).take 97 = signedKey := by
    revert g
    decide +kernel
  rw [imageSigned, flash_signature, t.1, t.2, show fieldAt imageHead 8 4 = 24576 by decide +kernel]
  cases g
  · exact ecdsaOk_range _ _ _ (by decide +kernel)
  · rw [show 24576 - 256 = 24320 from rfl, show flashRead (imaged r k true) 0 24320 = mread 0xFF (imaged r k true).boot.flash 0 24320 from by rw [flashRead],
      show (imaged r k true).boot.flash = imageCells true from rfl, image_digest]
    exact test_signature.1

theorem imaged_slots (r : Nat) (k : List (List Byte)) (g : Bool) :
    imageSlots (imaged r k g) imageHead = (List.range 4).filter fun i => decide (k[i]? = some signedKeyHash) := by
  have t : (signedKey ++ [0] ++ List.replicate 30 0xFF ++ (if g then signature else List.replicate 96 0xFF) ++ List.replicate 32 0xFF : List Byte).take 97 = signedKey := by
    revert g
    decide +kernel
  rw [imageSlots, flash_signature, t, test_key_hash]
  rfl

theorem imaged_slot (r : Nat) (hr : r ∈ [0, 1]) (k : List (List Byte)) (g : Bool) :
    imageSlot (imaged r k g) imageHead = 0 ∧ slotValid (imaged r k g) 0 = true := by
  constructor
  · rw [imageSlot, show fieldAt imageHead 8 4 - 159 = 24417 by decide +kernel, flash_low _ _ _ _ _ (by decide), mread_filter]
    decide +kernel
  · have e (s t : State) (h : s.regs = t.regs) (b : s.boot.blown = t.boot.blown) : slotValid s 0 = slotValid t 0 := by simp only [slotValid, fget, rget, h, b]
    rw [e (imaged r k g) (imaged r [] false) rfl rfl]
    revert r
    decide +kernel

theorem imageReason_imaged (r : Nat) (hr : r ∈ [0, 1]) (k : List (List Byte)) (g : Bool) :
    imageReason (imaged r k g) false = if k[0]? = some signedKeyHash then (if g then (0, 0) else (6, 0)) else (5, 0) := by
  have w := witness_image_header r k g
  have c := witness_image_sections r k g fun _ => true
  have f : (dirUsed imageHead).filter (fun _ => true) = dirUsed imageHead := List.filter_eq_self.2 fun _ _ => rfl
  rw [flash_head] at w
  rw [f] at c
  have m : (0 ∈ imageSlots (imaged r k g) imageHead) = (k[0]? = some signedKeyHash) := by simp [imaged_slots]
  unfold imageReason
  simp only [flash_head, w.1, w.2, c.1, c.2, (imaged_slot r hr k g).1, (imaged_slot r hr k g).2, m, imaged_signed]
  by_cases h : k[0]? = some signedKeyHash <;> cases g <;> simp [h]

theorem image_valid (r : Nat) (hr : r ∈ [0, 1]) : imageReason (imaged r [signedKeyHash] true) false = (0, 0) := by simp [imageReason_imaged r hr]
theorem image_unsigned (r : Nat) (hr : r ∈ [0, 1]) : imageReason (imaged r [signedKeyHash] false) false = (6, 0) := by simp [imageReason_imaged r hr]
theorem image_no_key (r : Nat) (hr : r ∈ [0, 1]) : imageReason (imaged r [] true) false = (5, 0) := by simp [imageReason_imaged r hr]
theorem image_no_flash (s : State) : imageReason s true = (7, 0) := by simp only [imageReason, if_pos]
theorem image_blank : imageReason s0 false = (1, 0) := by
  have h : imageHeaderBad (flashRead s0 0 320) = true := by decide +kernel
  simp only [imageReason, h, if_pos, Bool.false_eq_true, if_false]

theorem witness_image_reasons : ∀ r ∈ [0, 1], imageReason (imaged r [signedKeyHash] true) false = (0, 0) ∧ imageReason (imaged r [signedKeyHash] false) false = (6, 0)
    ∧ imageReason (imaged r [] true) false = (5, 0) ∧ imageReason (imaged r [] true) true = (7, 0) ∧ imageReason s0 false = (1, 0) :=
  fun r hr => ⟨image_valid r hr, image_unsigned r hr, image_no_key r hr, image_no_flash _, image_blank⟩

theorem witness_PowerOnAndPins_image :
    (∀ k ∈ [[], [signedKeyHash]], ∀ r ∈ [0, 1], Safety.powered (imaged r k true) ∧ fget (imaged r k true) F.BOOT_STATUS.RESULT = 0
      ∧ fget (imaged r k true) F.BOOT_STATUS.LINK_READY = r ∧ fget (fset (imaged r k true) F.BOOT_STATUS.RESULT 1) F.BOOT_STATUS.RESULT ≠ 0)
    ∧ fget (takeRecoveryId s0 1 0) F.HIF_LINK.SPEED = 0 ∧ fget (takeRecoveryId (fset s0 F.HIF_LINK.SPEED 6) 1 0) F.HIF_LINK.SPEED ≠ 0 := by decide +kernel

/-- An image whose LINK section does not carry its CRC. -/
theorem witness_image_link_crc :
    let s : State := { imaged 0 [] true with boot := { (imaged 0 [] true).boot with flash := cellsAt 0 imageHead } }
    imageHeaderBad imageHead = false ∧ directoryBad imageHead = false ∧ flashRead s 0 320 = imageHead
      ∧ (crcBad s ((dirUsed imageHead).filter fun e => decide (e.id < 3))).isSome = true := by
  have w := witness_image_header 0 [] true
  rw [flash_head] at w
  refine ⟨w.1, w.2, ?_, ?_⟩
  · show mread 0xFF (cellsAt 0 imageHead) 0 (32 * 10) = imageHead
    rw [mread_pieces]
    decide +kernel
  · simp only [crcBad, crc32c_eq]
    decide +kernel

/-- Channel c holds a word. -/
def filled (s : State) (c w : Nat) : State := onCcx s fun x => { x with channels := [(c, { word := w, full := true })] }

/-- Firmware runs and performs a basic-level command of a function. -/
def commanded (fn op : Nat) (f : BasicCmd → BasicCmd := id) : State :=
  onCcx (fwOn s0) fun x => { x with cmd := some (f { fn := fn, word := op * 2 ^ 24, record := zeros 64 }) }

/-- The header of a firmware image with one segment of n bytes, and a device that has it in host memory where CCX_FW_ADDR points. -/
def fwHead (n : Nat) : List Byte := blank 512 [(0, 0x57465441, 4), (4, 1, 2), (6, 1, 2), (52, n, 4)]
def fwHost (h : List Byte) : State := { s0 with hostMem := h.zipIdx.map fun x => (x.2, x.1) }

theorem witness_MailboxAndFirmware_header :
    let e (s : State) := hostLines s (rget s .CCX_FW_ADDR) 512
    let h (s : State) := hostRead (e s).2 (rget s .CCX_FW_ADDR) 512
    ((e { s0 with hif := { s0.hif with badReads := [0] } }).1 = true)
    ∧ ((e s0).1 = false ∧ fwHeaderBad (h s0) = true)
    ∧ ((e (fwHost (fwHead 0))).1 = false ∧ h (fwHost (fwHead 0)) = fwHead 0 ∧ fwHeaderBad (fwHead 0) = false ∧ fwSegmentsBad (fwHead 0) = true)
    ∧ ((e (fwHost (fwHead 8))).1 = false ∧ h (fwHost (fwHead 8)) = fwHead 8 ∧ fwHeaderBad (fwHead 8) = false ∧ fwSegmentsBad (fwHead 8) = false)
    ∧ sha384 (fwKey (fwHead 8)) ≠ (fwHost (fwHead 8)).boot.image.keyHash := by
  refine ⟨by decide +kernel, by decide +kernel, by decide +kernel, by decide +kernel, by decide +kernel⟩

/-- A load at its end, with the key and the signature of the tests above. -/
def loaded (key sig : List Byte) (minimum : Nat) : State :=
  let s := onCcx s0 fun x => { x with loading := some 0, loadHeader := putAt (putAt (zeros 512) 176 key) 320 sig, loadDigest := signedDigest }
  { s with boot := { s.boot with image := { s.boot.image with minVersion := minimum } } }

theorem witness_MailboxAndFirmware_end :
    (∀ m, fwKey (loaded signedKey signature m).ccx.loadHeader = signedKey ∧ fwSignature (loaded signedKey signature m).ccx.loadHeader = signature
      ∧ (loaded signedKey signature m).ccx.loadDigest = signedDigest ∧ (loaded signedKey signature m).ccx.loadFail = none
      ∧ (loaded signedKey signature m).boot.image.minVersion = m)
    ∧ ecdsaOk signedKey signedDigest signature = true
    ∧ (let s := loaded signedKey signature.reverse 0
       s.ccx.loading = some 0 ∧ Safety.powered s ∧ failsafe s = false ∧ ecdsaOk (fwKey s.ccx.loadHeader) s.ccx.loadDigest (fwSignature s.ccx.loadHeader) = false)
    ∧ fieldAt (loaded signedKey signature 1).ccx.loadHeader 8 4 < 1 ∧ 0 ≤ fieldAt (loaded signedKey signature 0).ccx.loadHeader 8 4 := by
  have h : fwKey (loaded signedKey signature 0).ccx.loadHeader = signedKey ∧ fwSignature (loaded signedKey signature 0).ccx.loadHeader = signature := by decide +kernel
  exact ⟨fun _ => ⟨h.1, h.2, rfl, rfl, rfl⟩, test_signature.1, by decide +kernel, by decide +kernel, Nat.zero_le _⟩

theorem witness_MailboxAndFirmware :
    (Safety.powered s0 ∧ (∀ c < 32, chReceiverOn s0 c = true ∧ (chan s0 c).full = false ∧ (chan (filled s0 c 7) c).full = true) ∧ Safety.writable s0 .MBX_TX0 0 0
      ∧ Safety.writable s0 .MBX_CMD 0 0 ∧ chHost 0 = some 0 ∧ chHost 8 = some 0 ∧ chHost 9 = some 1 ∧ Safety.writable s0 .MBX_CMD 1 0
      ∧ fnExists s0 0 = true ∧ fnExists s0 1 = false ∧ failsafe s0 = false ∧ recoveryId s0 = false)
    ∧ (∀ u ∈ [true, false], let a : CoreAccess := { user := u }
        chHost 5 = none ∧ coreRefused (coreSetup s0 (chSender 5) a) (chSender 5) 5 a true = u
        ∧ failsafe (coreSetup s0 (chReceiver 3) a) = false ∧ coreRefused (coreSetup s0 (chReceiver 3) a) (chReceiver 3) 3 a false = u)
    ∧ (∀ k ∈ [0, 1], let s := fset (filled s0 0 (2 ^ 24)) F.CCX_FW_STATE.STATE k
       Safety.powered s ∧ failsafe s = false ∧ recoveryId s = false ∧ (chan s 0).full = true ∧ bits (chan s 0).word 31 24 = 1 ∧ fget (chTake s 0).2 F.CCX_FW_STATE.STATE = k)
    ∧ (fwActive (fwOn s0) = true ∧ (onCcx (fwOn s0) fun x => { x with wdog := [5, 0, 0, 0] }).ccx.wdog.getD 0 0 ≠ 0 ∧ fwRunning (fwOn s0) = true
      ∧ (chan (fwOn s0) 5).full = false)
    ∧ (let s (c : Nat) := onCcx (quiet fun q => { q with cls := 1, shadow := 2 }) fun x => { x with ready := [0], channels := [(c, { word := 0, full := true })] }
       pickQueue (readyTrim (chTake (s 5) 3).2) = some 0 ∧ (chan (readyTrim (chTake (s 5) 3).2) 4).full = false
       ∧ (chan (readyTrim (chTake (s 4) 3).2) 4).full = true ∧ pickQueue (readyTrim (chTake s0 3).2) = none) := by
  refine ⟨by decide +kernel, by decide +kernel, by decide +kernel, by decide +kernel, by decide +kernel⟩

theorem witness_BasicCommands :
    (fwActive (filled (fwOn s0) 8 7) = true ∧ (filled (fwOn s0) 8 7).ccx.cmd = none ∧ nextChannel (filled (fwOn s0) 8 7) = some 8)
    ∧ (∀ l ∈ [true, false], has (commanded 0 2 fun b => { b with lost := l, result := some (0, .ok) }).ccx.cmd (fun b => decide (b.lost = l ∧ b.result.isSome)) = true)
    ∧ ((0x7F : Nat) ∉ basicOpcodes ∧ ∀ op ∈ basicOpcodes, ∀ fn ∈ [0, 15], Safety.powered (commanded fn op) ∧ fwActive (commanded fn op) = true
        ∧ has (commanded fn op).ccx.cmd (fun b => decide (b.fn = fn ∧ bits b.word 31 24 = op ∧ b.result = none ∧ b.lost = false) && !b.defaults) = true)
    ∧ (2 ^ 20 ≤ fieldAt (putAt (zeros 64) 0 (natLe (2 ^ 20) 8)) 0 8 ∧ fieldAt (zeros 64) 0 8 < 2 ^ 20)
    ∧ (domOn s0 42 = false ∧ domOn (on s0 42) 42 = true ∧ domOn (on s0 40) 40 = true ∧ domOn s0 41 = true)
    ∧ (∀ d ∈ [true, false], has (commanded 0 0x30 fun b => { b with record := putAt b.record 47 (if d then [1] else [0]) }).ccx.cmd (fun b => b.defaults == d
        && profileOk (commanded 0 0x30) (profileOf b (commanded 0 0x30)) == d) = true) := by decide +kernel

/-- Domain d in a phase of its transition. -/
def moving (d : Nat) (p : Phase) : State := onPwr s0 fun x => { x with phases := [(d, p)] }

theorem witness_PowerDomains :
    (∀ d < 50, Safety.writable s0 .PWR_DOM_CTL 0 d ∧ domPhase s0 d = none)
    ∧ ((3 : Nat) % 4 = 3 ∧ bit 6 2 = true ∧ autoAllowed 36 = false ∧ autoAllowed 43 = true ∧ flag (fset s0 F.PWR_DOM_CTL.AUTO 1 0 43) F.PWR_DOM_CTL.AUTO 0 43 = true
      ∧ flag s0 F.PWR_DOM_CTL.AUTO 0 43 = false ∧ bit 2 2 = false)
    ∧ (let a (s : State) (d v : Nat) := fset s F.PWR_DOM_CTL.AUTO (b2n (bit v 2)) 0 d
       let t (d v : Nat) := domStatus (fset (a s0 d v) F.PWR_DOM_CTL.TARGET (v % 4) 0 d) d .ok
       domOn (a s0 16 0) 16 = false ∧ domOn (a s0 16 0) 0 = false ∧ domOn (a (on s0 0) 16 0) 0 = true
       ∧ 0 = domNow (t 41 0) 41 ∧ domNow (t 49 1) 49 = 2 ∧ 2 ≠ domNow (t 41 2) 41 ∧ domNow (t 41 2) 41 ≠ 2 ∧ domNow (t 49 0) 49 ≠ 0)
    ∧ (Safety.powered (moving 43 (.quiescing 2)) ∧ domPhase (moving 43 (.quiescing 2)) 43 = some (.quiescing 2) ∧ quiesced (moving 43 (.quiescing 2)) 43 2 = true
        ∧ quiesced (inPass (moving 40 (.quiescing 2))) 40 2 = false ∧ domPhase (inPass (moving 40 (.quiescing 2))) 40 = some (.quiescing 2))
    ∧ (∀ p ∈ [Phase.falling 2, .falling 0, .ramping, .initialising], ∀ d ∈ [32, 36, 49], domPhase (moving d p) d = some p ∧ Safety.powered (moving d p)
        ∧ Safety.writable (moving d p) .PWR_DOM_CTL 0 d ∧ invalidating (moving d p) d = false)
    ∧ (∀ d ∈ [32, 36], domNow (domSet (moving d .ramping) d 2) d = 2 ∧ domPhase (domSet (moving d .ramping) d 2) d = some .ramping)
    ∧ (let s := fset (moving 32 .initialising) F.L2_SLICE_STATUS.STATE 1 0 7
       domPhase s 32 = some .initialising ∧ invalidating s 32 = true)
    ∧ (domOn s0 41 = true ∧ domOn s0 0 = false)
    ∧ (let s (d : Nat) := fset (fset (on s0 d) F.PWR_DOM_CTL.AUTO 1 0 d) F.PWR_AUTO_IDLE.IDLE_US 10
       (∀ d ∈ [40, 43], fget (s d) F.PWR_DOM_CTL.AUTO 0 d = 1 ∧ domOn (s d) d = true ∧ domPhase (s d) d = none ∧ fget (s d) F.PWR_AUTO_IDLE.IDLE_US ≠ 0)
       ∧ quiesced (s 43) 43 2 = true ∧ fget (inPass (s 40)) F.PWR_DOM_CTL.AUTO 0 40 = 1 ∧ domOn (inPass (s 40)) 40 = true ∧ quiesced (inPass (s 40)) 40 2 = false)
    ∧ Safety.writable s0 .PWR_PAD_RELEASE 0 0 := by
  refine ⟨by decide +kernel, by decide +kernel, by decide +kernel, by decide +kernel, by decide +kernel, by decide +kernel, by decide +kernel, by decide +kernel,
    by decide +kernel, by decide +kernel⟩

theorem witness_SillageAndLoops :
    (let new := Reg.written .PWR_SILLAGE (rget s0 .PWR_SILLAGE) (rget s0 .PWR_SILLAGE) (2 ^ 31 - 1)
     let t (s : State) := rset s .PWR_SILLAGE new
     let rest : State := (List.range 50).foldl (fun s d => if 36 ≤ d ∧ d < 40 then s else domSet s d 2) (fwOn s0)
     Safety.writable s0 .PWR_SILLAGE 0 0 ∧ Reg.inRange .PWR_SILLAGE new = true ∧ sillage (t s0) = 0 ∧ sillageRefused (t s0) = true ∧ sillageRefused (t rest) = false
     ∧ Reg.inRange .PWR_SILLAGE (Reg.written .PWR_SILLAGE (rget s0 .PWR_SILLAGE) (2 ^ 31 - 1) (2 ^ 31 - 1)) = false
     ∧ Reg.written .PWR_SILLAGE (rget (fset s0 F.PWR_SILLAGE.STATE 2) .PWR_SILLAGE) (rget s0 .PWR_SILLAGE) (2 ^ 31 - 1) = rget (fset s0 F.PWR_SILLAGE.STATE 2) .PWR_SILLAGE)
    ∧ (let s := fset ((List.range 4).foldl (fun s k => domSet s (36 + k) 1) s0) F.PWR_SILLAGE.STATE 1
       Safety.powered s ∧ sillage s = 1 ∧ stacksRest s = true)
    ∧ (let s := fset s0 F.PWR_SILLAGE.STATE 2
       let t := fcount s F.PWR_WAKE_CAUSE.SAMPLES
       failsafe s = false ∧ sillage s = 2 ∧ s.pwr.sillageAt ≤ s.time ∧ (s.time - s.pwr.sillageAt) % (1000000 * fget s F.PWR_SILLAGE.INTERVAL_MS) = 0 ∧ fget t F.PWR_SILLAGE.TEMP_WAKE ≤ 105 ∧ 60 < fget t F.PWR_SILLAGE.TEMP_WAKE
       ∧ fget (fset t F.PWR_SILLAGE.FAN_DUTY 30) F.PWR_SILLAGE.FAN_DUTY ≠ 0 ∧ hpdDiffers t [] = none ∧ hpdDiffers t [1, 3] = some 1)
    ∧ (sillage (fset s0 F.PWR_SILLAGE.STATE 3) = 3 ∧ failsafe (fset s0 F.PWR_SILLAGE.STATE 3) = false)
    ∧ (fwActive (fwOn s0) = true ∧ sillage (fwOn s0) = 0 ∧ 550 ≤ fget (fwOn s0) F.PWR_LIMIT.V_MAX ∧ fget (fwOn s0) F.PWR_LIMIT.V_MAX ≤ 900
        ∧ (let low := readClears (fset (fset (fset (fwOn s0) F.PWR_TELEM.POWER_W 548) F.PWR_VDD.TARGET_MV 750) F.PWR_LIMIT.P_LIMIT 500) .HIF_RATE_MIN
           fwActive (fset (fset (fset (fwOn s0) F.PWR_TELEM.POWER_W 548) F.PWR_VDD.TARGET_MV 750) F.PWR_LIMIT.P_LIMIT 500) = true
           ∧ Nat.max 550 (Nat.min (fget low F.PWR_LIMIT.V_MAX) (loopStep low (fget low F.PWR_VDD.TARGET_MV))) < fget low F.PWR_LIMIT.V_MAX ∧ low.pwr.throttled = false
           ∧ (onPwr low fun p => { p with throttled := true }).pwr.throttled = true))
    ∧ (fget (fset s0 F.INT_HOLD.FAN 1) F.INT_HOLD.FAN = 1 ∧ fget s0 F.INT_HOLD.FAN = 0 ∧ hottest s0 ≤ 50 ∧ 60 ≤ fget s0 F.PWR_LIMIT.T_THROTTLE
        ∧ fget s0 F.PWR_LIMIT.T_THROTTLE ≤ hottest (fset s0 F.PWR_TELEM.TJ_MAX 127))
    ∧ ((at_ s0 1000).time ≠ 0 ∧ (at_ s0 1000).time % 1000 = 0 ∧ fget s0 F.PWR_LIMIT.ICC_MAX < 1023)
    ∧ (Safety.writable s0 .PWR_LIMIT 0 0 ∧ Safety.writable s0 .PWR_FAN 0 0 ∧ fwRunning s0 = false ∧ fwRunning (fwOn s0) = true
        ∧ limitOk s0 (Reg.written .PWR_LIMIT (rget s0 .PWR_LIMIT) (rget s0 .PWR_LIMIT) (2 ^ 64 - 1)) = true
        ∧ limitOk s0 (Reg.written .PWR_LIMIT (rget s0 .PWR_LIMIT) 0 (2 ^ 64 - 1)) = false) := by decide +kernel

theorem witness_PowerOnAndPins :
    let dark : State := { s0 with boot := { s0.boot with aonPgood := false } }
    let reset (s : State) : State := { s with boot := { s.boot with perst := true } }
    let low (s : State) : State := { s with boot := { s.boot with corePgood := false } }
    (s0.boot.aonPgood = true ∧ dark.boot.aonPgood = false ∧ dark.boot.perst = false ∧ dark.boot.corePgood = true ∧ s0.boot.op = none)
    ∧ (s0.boot.perst = false ∧ (reset s0).boot.perst = true ∧ (reset dark).boot.perst = true ∧ (reset dark).boot.aonPgood = false ∧ Safety.powered (reset s0)
      ∧ failsafe (reset s0) = false ∧ failsafe (reset (failsafeEnter s0 9)) = true ∧ Safety.powered (reset (failsafeEnter s0 9)))
    ∧ (s0.boot.corePgood = true ∧ (low s0).boot.corePgood = false ∧ Safety.powered (low s0) ∧ failsafe (low s0) = false ∧ failsafe (low (failsafeEnter s0 9)) = true
      ∧ (low dark).boot.aonPgood = false)
    ∧ sillage s0 ≠ 2 ∧ sillage (fset s0 F.PWR_SILLAGE.STATE 2) = 2 := by decide +kernel

theorem witness_FlashFusesAndSmbus :
    (Safety.writable s0 .BOOT_FLASH_CMD 0 0 ∧ fget s0 F.BOOT_FLASH_RESULT.BUSY = 0 ∧ fget s0 F.BOOT_FLASH_ADDR.ADDR % 65536 = 0
      ∧ fget s0 F.BOOT_FLASH_ADDR.ADDR + 65536 ≤ s0.boot.density ∧ fget (fset s0 F.BOOT_FLASH_ADDR.ADDR 128) F.BOOT_FLASH_ADDR.ADDR % 256 ≠ 0
      ∧ fget (fset s0 F.BOOT_FLASH_ADDR.ADDR 256) F.BOOT_FLASH_ADDR.ADDR % 65536 ≠ 0 ∧ fget (fset s0 F.BOOT_FLASH_RESULT.BUSY 1) F.BOOT_FLASH_RESULT.BUSY = 1
      ∧ s0.boot.density < fget (fset s0 F.BOOT_FLASH_ADDR.ADDR (2 ^ 25 - 256)) F.BOOT_FLASH_ADDR.ADDR + 256 * 2)
    ∧ (∀ op ∈ [1, 2, 3], let o : FlashOp := { op := op, addr := 0, pages := 2 }
       ({ s0 with boot := { s0.boot with op := some o } } : State).boot.op = some o ∧ o.abandoned = false ∧ o.done + 1 < o.pages
         ∧ ({ o with done := 1 } : FlashOp).pages ≤ ({ o with done := 1 } : FlashOp).done + 1 ∧ ({ o with abandoned := true } : FlashOp).abandoned = true)
    ∧ (Memory.wf 0xFF s0.boot.flash = true ∧ Safety.powered s0 ∧ s0.boot.op = none
      ∧ (let s := fset s0 F.BOOT_FLASH_ADDR.ADDR (2 ^ 25 - 65536)
         fget (onBoot s fun b => { b with density := 2 ^ 24 }) F.BOOT_FLASH_ADDR.ADDR % 65536 = 0
         ∧ (onBoot s fun b => { b with density := 2 ^ 24 }).boot.density < fget (onBoot s fun b => { b with density := 2 ^ 24 }) F.BOOT_FLASH_ADDR.ADDR + 65536))
    ∧ (let s : State := { s0 with regs := [(Reg.key .BOOT_FUSE 0 0, 0x30#64)] }
       Safety.writable s .BOOT_FUSE 0 0 ∧ without (fget s F.BOOT_FUSE.PROGRAMMED) (fget s F.BOOT_FUSE.REVOKED ||| 3) = 0
       ∧ without (fget s F.BOOT_FUSE.PROGRAMMED) (fget s F.BOOT_FUSE.REVOKED ||| 1) ≠ 0)
    ∧ (recoveryId (fset s0 F.BOOT_STATUS.RESULT 2) = true ∧ recoveryId s0 = false ∧ (chan s0 7).full = false ∧ (chan (filled s0 7 5) 7).full = true
        ∧ (chan s0 6).full = false) := by decide +kernel

/-! ### 01 and the invariants -/

theorem witness_RegisterWriteBits :
    ∀ a ∈ [Access.rw, .wo, .ro, .rc, .w1c, .w1s], (Reg.all.any fun r => (Reg.fields r).any fun f => decide (f.acc = a ∧ f.lo ≤ f.hi)) = true := by decide +kernel

theorem witness_RegisterWrites :
    (fnExists s0 1 = false ∧ fnExists s0 0 = true ∧ (fnCfg s0 0).inFlr = false ∧ Safety.powered s0 ∧ failsafe s0 = false)
    ∧ findReg 0 0xFF8 = none
    ∧ (has (findReg 0 0) fun x => decide (x.1.place.width ≠ 64 ∧ x.2.2.2 = 0)) = true
    ∧ (∀ k ∈ [0, 1], (has (findReg 0 (0x100000 + 4 * k)) fun x => decide (x.1 = .FE_QARG ∧ x.1.place.width = 64 ∧ x.2.2.2 = k)) = true)
    ∧ Safety.writable s0 .FE_QARG 0 0
    ∧ (match exec (.registerWrite 0 0 32 5 false) s0 with
       | .next t => decide ((fnCfg t 0).inFlr = false ∧ fnExists t 0 = true)
       | _ => false) = true := by
  refine ⟨by decide +kernel, by decide +kernel, by decide +kernel, by decide +kernel, by decide +kernel, by decide +kernel⟩

/-- Every domain OFF and no AON power. -/
def darkState : State :=
  { s0 with boot := { s0.boot with aonPgood := false }, regs := (List.range 50).map fun d => (Reg.key .PWR_DOM_CTL 0 d, BitVec.ofNat 64 (2 <<< 29 + 2)) }

theorem witness_DarkDeviceStaysDark : Safety.dark darkState := ⟨by decide, by decide, by decide, by decide +kernel⟩

theorem witness_StepKeepsCanonical : Safety.canonical s0 := ⟨by decide, by decide, by decide, by decide, by decide, by decide, by decide⟩

theorem witness_TimeBase : s0.boot.aonPgood = true ∧ s0.pending = [] := by decide

theorem witness_InvariantsStart : Safety.powered s0 ∧ Instr.aonPgoodRise ∉ s0.pending := by decide

/-! ### WellFormed: for each check a command that it refuses, at the first number out of range, and one at the last number in range -/

theorem test_wf_fn : (Instr.queueCreate 16).wellFormed = false ∧ (Instr.queueCreate 15).wellFormed = true := by decide
theorem test_wf_vf : (Instr.vfFlr 0).wellFormed = false ∧ (Instr.vfFlr 16).wellFormed = false ∧ (Instr.vfFlr 15).wellFormed = true := by decide
theorem test_wf_vm : (Instr.xltVmCfgWrite 16 0).wellFormed = false ∧ (Instr.xltVmCfgWrite 15 0).wellFormed = true := by decide
theorem test_wf_queue : (Instr.armServe 16384).wellFormed = false ∧ (Instr.armServe 16383).wellFormed = true := by decide
theorem test_wf_slot : (Instr.slotPageRelease 4096).wellFormed = false ∧ (Instr.slotPageRelease 4095).wellFormed = true := by decide
theorem test_wf_core : (Instr.discard 128 0 0).wellFormed = false ∧ (Instr.discard 127 0 0).wellFormed = true := by decide
theorem test_wf_pipe : (Instr.discard 0 4 0).wellFormed = false ∧ (Instr.discard 0 3 0).wellFormed = true := by decide
theorem test_wf_engine : (Instr.mmaStart 64).wellFormed = false ∧ (Instr.mmaStart 63).wellFormed = true := by decide
theorem test_wf_cluster : (Instr.folBankWrite 16 0 0).wellFormed = false ∧ (Instr.folBankWrite 15 0 0).wellFormed = true := by decide
theorem test_wf_bank : (Instr.folBankWrite 0 16 0).wellFormed = false ∧ (Instr.folBankWrite 0 15 0).wellFormed = true := by decide
theorem test_wf_tile_slot : (Instr.tileRecordRun 0 16).wellFormed = false ∧ (Instr.tileRecordRun 0 15).wellFormed = true := by decide
theorem test_wf_reuse : (Instr.truSlotCfgWrite 16 0).wellFormed = false ∧ (Instr.truSlotCfgWrite 15 0).wellFormed = true := by decide
theorem test_wf_stack : (Instr.hbmRefresh 4).wellFormed = false ∧ (Instr.hbmRefresh 3).wellFormed = true := by decide
theorem test_wf_slice : (Instr.l2InvalidateDone 32).wellFormed = false ∧ (Instr.l2InvalidateDone 31).wellFormed = true := by decide
theorem test_wf_output : (Instr.hpdPlug 4).wellFormed = false ∧ (Instr.hpdPlug 3).wellFormed = true := by decide
theorem test_wf_stream : (Instr.dspCommit 8).wellFormed = false ∧ (Instr.dspCommit 7).wellFormed = true := by decide
theorem test_wf_dsp_pipe : (Instr.pipeLineFetch 32).wellFormed = false ∧ (Instr.pipeLineFetch 31).wellFormed = true := by decide
theorem test_wf_port : (Instr.uapWake 2).wellFormed = false ∧ (Instr.uapWake 1).wellFormed = true := by decide
theorem test_wf_flit : (Instr.uapFlitReceive 0 []).wellFormed = false ∧ (Instr.uapFlitReceive 0 (zeros 256)).wellFormed = true := by decide +kernel
theorem test_wf_channel : (Instr.mailboxSend 32 0 {}).wellFormed = false ∧ (Instr.mailboxSend 31 0 {}).wellFormed = true := by decide
theorem test_wf_ccx_core : (Instr.ccxWatchdogExpiry 4).wellFormed = false ∧ (Instr.ccxWatchdogExpiry 3).wellFormed = true := by decide
theorem test_wf_domain : (Instr.powerGoodRise 50).wellFormed = false ∧ (Instr.powerGoodRise 49).wellFormed = true := by decide

/-! ### Small tests; the expected values are the spec's own examples, or worked out by hand from the rule that each names -/

/-- 01, after R29: of two commits around a latch point at 5,000,000,000 the one stamped 4,999,999,999 takes effect. -/
theorem test_latch_point : ∀ t ∈ [(4999999999, none), (5000000000, some 5000000000)],
    (streamAt (after (exec (.latchPoint 0) (at_ (showing fun x => { x with ctl := 2 ^ 31, committed := some t.1 }) 5000000000))) 0).committed = t.2 := by decide +kernel

/-- 01 R24: the idle step counts the time base, which wraps. -/
theorem test_idle_wraps : (after (step (at_ s0 (2 ^ 64 - 1)))).time = 0 ∧ (after (step s0)).time = 1 := by decide +kernel

/-- 02, FE_QCMD: with an OP that is none of its table ends with BAD_OPCODE, 0x10. -/
theorem test_qcmd_bad_op : rget (after (exec (.qcmdUndefinedOp 0 9) s0)) .FE_QRESULT = 0x10 <<< 32 := by decide +kernel

/-- 02 R46: an accepted DB_WRITE_INDEX is the doorbell shadow. -/
theorem test_doorbell : (has (queueAt (after (exec (.dbWriteIndex 0 0 3) (quiet id))) 0) fun q => q.shadow == 3) = true := by decide +kernel

/-- 06 R178: 1.0 + 2^-24 is a tie and goes to even; 1.0 + 3 * 2^-24 goes up. -/
theorem test_add_ties : (Fmt.b32.add .ties 0x3F800000 0x33800000).1 = 0x3F800000 ∧ (Fmt.b32.add .ties 0x3F800000 0x34400000).1 = 0x3F800002 := by decide +kernel

/-- 06 R178: the product of the largest binary32 number and 2 overflows to infinity, or saturates towards zero. -/
theorem test_mul_overflow : (Fmt.b32.mul .ties 0x7F7FFFFF 0x40000000).1 = 0x7F800000 ∧ (Fmt.b32.mul .zero 0x7F7FFFFF 0x40000000).1 = 0x7F7FFFFF := by decide +kernel

/-- 06 R178: a fused multiply-add rounds once: (1 + 2^-23)^2 - (1 + 2^-22) is 2^-46. -/
theorem test_fma_once : (Fmt.b32.fma .ties 0x3F800001 0x3F800001 0xBF800002).1 = 0x28800000 := by decide +kernel

/-- 06, Worked accumulation: 64 products of 1.0078125 give 65.0, and 2^24 + 3.75 gives 16,777,218. -/
theorem test_accumulation :
    accOut .b32 (accStep FVal.zero (headVal (treeLevels 6 (List.replicate 64 (accMul (accIn .bf16 0x3F81) (accIn .bf16 0x3F81)))))) = 0x42820000
    ∧ accOut .bf16 (accStep FVal.zero (headVal (treeLevels 6 (List.replicate 64 (accMul (accIn .bf16 0x3F81) (accIn .bf16 0x3F81)))))) = 0x4282
    ∧ accOut .b32 (accStep (accIn .b32 0x4B800000) (accIn .b32 0x40700000)) = 0x4B800001 := by decide +kernel

/-- 08, after R260: the texel (13, 6) of an RGBA8 image lies in gathering (1, 0) at index 57. -/
theorem test_gathering : gatherLog 4 = (3, 3) ∧ (13 / 8, 6 / 8) = (1, 0) ∧ gatherIndex 3 3 (13 % 8) (6 % 8) = 57 := by decide +kernel

/-- 11, after R323: PA 0x12_3456_7A80. -/
theorem test_placement : paChannel 0x1234567A80 = 0x07 ∧ paOffset 0x1234567A80 = 0x2468AC80 ∧ paLine 0x1234567A80 = 0x48D159 ∧ checkOffset 0x1234567A80 = 0x5E234564 := by
  decide +kernel

/-- 11 R338: the set and clear aliases of the FOL window. -/
theorem test_fol_alias :
    let s := fset (on s0 0) F.FOL_BANK.PNOW 0 0 0
    let t := after (exec (.folSetAliasWrite 8 0x0F0 false false) (after (exec (.folWindowWrite 8 0xF0F false false) s)))
    leNat (mread 0 t.mem.folio 8 4) = 0xFFF ∧ leNat (mread 0 (after (exec (.folClearAliasWrite 8 0xFF0 false false) t)).mem.folio 8 4) = 0x00F := by decide +kernel

/-- 12, XLT_INV_ARG0: RANGE of an unaligned START ends with BAD_ALIGNMENT. -/
theorem test_inv_alignment : bits (rget (after (exec (.xltInvRange 0 0) (fset s0 F.XLT_INV_ARG0.START 0x800))) .XLT_INV_RESULT) 39 32 = Status.code .badAlignment := by
  decide +kernel

/-- 13, after R404, case A: the third state fault of a window, at its last nanosecond, enters fail-safe with cause THIRD_FAULT. -/
theorem test_third_fault :
    let s := onInt s0 fun x => { x with waiting := [{ fault 0x80 3 with time := 5999999999 }], window := some (5000000000, 2, 1) }
    let t := after (exec (.faultRecordAccept none []) s)
    failsafe t = true ∧ fget t F.INT_FAILSAFE.CAUSE = 1 := by decide +kernel

/-- 13, after R404, case B: one nanosecond later a new window opens. -/
theorem test_new_window :
    let s := onInt s0 fun x => { x with waiting := [{ fault 0x80 3 with time := 6000000000 }], window := some (5000000000, 2, 1) }
    let t := after (exec (.faultRecordAccept none []) s)
    failsafe t = false ∧ t.int.window.map (fun w => (w.1, w.2.1)) = some (6000000000, 1) := by decide +kernel

/-- 14, after R419: the 41 bits of "abcabcabcabc", three literals and a match of length 9 at offset 3, padded to 6 bytes, in a block of 14. -/
theorem test_lz_block :
    let abc : List Byte := [97, 98, 99]
    let lit (b : Byte) : List Bool := false :: (List.range 8).map fun i => bit b.toNat i
    let code := lit 97 ++ lit 98 ++ lit 99 ++ [true] ++ [true, true, false, false, false, false] ++ [false, false, true, false, false, false, false] ++ List.replicate 7 false
    code.length = 48 ∧ (pf1Block (abc ++ abc ++ abc ++ abc) code).length = 14 := by decide +kernel

/-- 15 R437: an AUX read of 16 bytes sets BUSY. -/
theorem test_aux_busy : fget (after (exec (.auxNativeRead 0 0x100 15) (on s0 42))) F.DSP_AUX_RESULT.BUSY 0 0 = 1 := by decide +kernel

/-- 16 R477: SLEEP_REQ of a port that is DOWN does nothing. -/
theorem test_sleep_down : portAt (after (exec (.uapSleepReq 0) (port 0 0))) 0 = portAt (port 0 0) 0 := by decide +kernel

/-- 17, worked example: the word 0x112A_0003 sent on the PF's channel is held there with FULL set. -/
theorem test_mailbox : (chan (after (exec (.mailboxSend 1 0x112A0003 {}) s0)) 1).word = 0x112A0003 ∧ (chan (after (exec (.mailboxSend 1 0x112A0003 {}) s0)) 1).full = true := by
  decide +kernel

/-- 18, after R524: 548 W against a limit of 500 W moves the set-point from 750 to 725 mV. -/
theorem test_power_loop :
    let s := fset (fset (fset (fwOn s0) F.PWR_TELEM.POWER_W 548) F.PWR_VDD.TARGET_MV 750) F.PWR_LIMIT.V_MAX 750
    fget (after (exec (.powerLoopPeriod []) (fset s F.PWR_LIMIT.P_LIMIT 500))) F.PWR_VDD.TARGET_MV = 725 := by decide +kernel

/-- 19 R542: FLASH_ERASE at an address that is no multiple of 64 KiB ends with BAD_ALIGNMENT. -/
theorem test_flash_alignment : fget (after (exec .flashErase (fset s0 F.BOOT_FLASH_ADDR.ADDR 256))) F.BOOT_FLASH_RESULT.STATUS = Status.code .badAlignment := by decide +kernel

/-- 19 R531: CRC-32C of the nine digits is its published check value. -/
theorem test_crc32c : crc32c [49, 50, 51, 52, 53, 54, 55, 56, 57] = 0xE3069283 := by
  rw [crc32c_eq]
  decide +kernel

end Sys2Proof.Tests
end

/-! ## BAR0 writes: the bits of a register (O55) and the registers of the map (O56) -/

namespace Sys2Proof.Proofs

open Machine Laws

/-! ### Bits of the numbers that a register write combines -/

/-- Bit b of the model is the library's test of bit b. -/
theorem bit_eq_testBit (v b : Nat) : bit v b = v.testBit b := by
  simp [bit, bits, Nat.testBit_eq_decide_div_mod_eq, Nat.shiftRight_eq_div_pow]

/-- A sum of numbers that share no bit carries nowhere. -/
theorem testBit_add_of_disjoint {x y : Nat} (h : ∀ j, x.testBit j = true → y.testBit j = false) (b : Nat) :
    (x + y).testBit b = (x.testBit b || y.testBit b) := by
  induction b generalizing x y with
  | zero =>
    have h0 := h 0
    simp only [Nat.testBit_zero, decide_eq_true_eq, decide_eq_false_iff_not] at h0 ⊢
    rw [← Bool.decide_or, decide_eq_decide]
    omega
  | succ b ih =>
    have h0 := h 0
    simp only [Nat.testBit_zero, decide_eq_true_eq, decide_eq_false_iff_not] at h0
    have hhalf : (x + y) / 2 = x / 2 + y / 2 := by omega
    rw [Nat.testBit_add_one, Nat.testBit_add_one, Nat.testBit_add_one, hhalf]
    exact ih fun j => by simpa only [Nat.testBit_add_one] using h (j + 1)

/-- Taking the bits of a mask out of a number clears them and leaves the others. -/
theorem testBit_without (v m b : Nat) : (without v m).testBit b = (v.testBit b && !m.testBit b) := by
  have hdisj : ∀ j, (v &&& m).testBit j = true → (v ^^^ (v &&& m)).testBit j = false := fun j hj => by
    rw [Nat.testBit_and, Bool.and_eq_true] at hj
    simp [hj]
  have hsum : (v &&& m) + (v ^^^ (v &&& m)) = v := Nat.eq_of_testBit_eq fun j => by
    rw [testBit_add_of_disjoint hdisj, Nat.testBit_xor, Nat.testBit_and]
    cases v.testBit j <;> simp
  have hw : without v m = v ^^^ (v &&& m) := by unfold without; omega
  rw [hw, Nat.testBit_xor, Nat.testBit_and]
  cases v.testBit b <;> simp

/-! ### The masks of a register's fields -/

/-- Bit b belongs to the field. -/
def InField (f : FieldDesc) (b : Nat) : Prop := f.lo ≤ b ∧ b ≤ f.hi

/-- The ones of a field stand at its bits. -/
theorem testBit_fieldOnes (f : FieldDesc) (b : Nat) :
    ((2 ^ (f.hi + 1 - f.lo) - 1) <<< f.lo).testBit b = true ↔ InField f b := by
  rw [Nat.testBit_shiftLeft, Nat.testBit_two_pow_sub_one, Bool.and_eq_true, decide_eq_true_eq, decide_eq_true_eq, InField]
  omega

/-- Every register lists its fields from the high bits down, and no two of them meet. -/
theorem fields_descend (r : Reg) : (Reg.fields r).Pairwise fun f g => g.hi < f.lo := by
  cases r <;> decide

/-- A bit lies in at most one field of a register. -/
theorem field_unique {r : Reg} {f g : FieldDesc} {b : Nat} (hf : f ∈ Reg.fields r) (hg : g ∈ Reg.fields r)
    (hfb : InField f b) (hgb : InField g b) : f = g := by
  by_contra hne
  have : Std.Symm fun x y : FieldDesc => ¬ (InField x b ∧ InField y b) := ⟨fun x y hn hyx => hn hyx.symm⟩
  have happart : (Reg.fields r).Pairwise fun x y => ¬ (InField x b ∧ InField y b) :=
    (fields_descend r).imp fun {x y} hlt ⟨hx, hy⟩ => by obtain ⟨hx, -⟩ := hx; obtain ⟨-, hy⟩ := hy; omega
  exact happart.forall hf hg hne ⟨hfb, hgb⟩

/-- Adding the ones of the fields of chosen access to a mask that is clear up to the top of each of them sets just their bits. -/
theorem testBit_foldl_fieldOnes (p : Access → Bool) (fs : List FieldDesc) (m b : Nat) (hfs : fs.Pairwise fun f g => g.hi < f.lo)
    (hm : ∀ f ∈ fs, ∀ j ≤ f.hi, m.testBit j = false) :
    (fs.foldl (fun m f => if p f.acc then m + (2 ^ (f.hi + 1 - f.lo) - 1) <<< f.lo else m) m).testBit b = true
      ↔ m.testBit b = true ∨ ∃ f ∈ fs, p f.acc = true ∧ InField f b := by
  induction fs generalizing m with
  | nil => simp
  | cons f fs ih =>
    obtain ⟨hlow, hfs⟩ := List.pairwise_cons.1 hfs
    obtain ⟨hmf, hm⟩ := List.forall_mem_cons.1 hm
    simp only [List.foldl_cons, List.exists_mem_cons_iff]
    split
    next hp =>
      have hadd (j : Nat) : (m + (2 ^ (f.hi + 1 - f.lo) - 1) <<< f.lo).testBit j = true ↔ m.testBit j = true ∨ InField f j := by
        rw [testBit_add_of_disjoint, Bool.or_eq_true, testBit_fieldOnes]
        intro j hj
        rw [← Bool.not_eq_true, testBit_fieldOnes]
        intro ⟨_, hhi⟩
        simp [hmf j hhi] at hj
      rw [ih _ hfs, hadd]
      · simp [hp, or_assoc]
      · intro g hg j hj
        rw [← Bool.not_eq_true, hadd]
        rintro (hset | ⟨hlo, -⟩)
        · simp [hm g hg j hj] at hset
        · have := hlow g hg
          omega
    next hp =>
      rw [ih m hfs hm]
      simp [hp]

/-- In the bits of a field, a register's mask of chosen access codes is all ones or all zeros. -/
theorem testBit_mask {r : Reg} {f : FieldDesc} {b : Nat} (hf : f ∈ Reg.fields r) (hb : InField f b) (p : Access → Bool) :
    (r.mask p).testBit b = p f.acc := by
  rw [Bool.eq_iff_iff, Reg.mask, testBit_foldl_fieldOnes p _ 0 b (fields_descend r) (by simp)]
  constructor
  · rintro (h | ⟨g, hg, hp, hgb⟩)
    · simp at h
    · rwa [field_unique hf hg hb hgb]
  · exact fun hp => Or.inr ⟨f, hf, hp, hb⟩

/-! ### What a write leaves (R9, R11) -/

/-- What a write leaves at a bit of a field, as the access code of the field has it. -/
theorem bit_written {r : Reg} {f : FieldDesc} {b : Nat} (hf : f ∈ Reg.fields r) (hb : InField f b) (old v words : Nat) :
    bit (r.written old v words) b = match f.acc with
      | .rw | .wo => if bit words b then bit v b else bit old b
      | .ro | .rc => bit old b
      | .w1c => bit old b && !(bit words b && bit v b)
      | .w1s => bit old b || (bit words b && bit v b) := by
  simp only [bit_eq_testBit, Reg.written, Nat.testBit_or, Nat.testBit_and, testBit_without, testBit_mask hf hb]
  cases f.acc <;> cases words.testBit b <;> simp [Bool.and_comm]

/-- Settles O55: each mask of `Reg.written` holds a field of the register whole or not at all, because its fields do not meet. -/
theorem registerWriteBits : Obligations.RegisterWriteBits := by
  unfold Obligations.RegisterWriteBits
  intro r f old v words b hf hlo hhi
  have h := bit_written hf ⟨hlo, hhi⟩ old v words
  refine ⟨?_, ?_, fun ha => ?_, fun ha => ?_⟩
  · rintro (ha | ha) <;> simpa only [ha] using h
  · rintro (ha | ha) <;> simpa only [ha] using h
  · simpa only [ha] using h
  · simpa only [ha] using h

/-! ### REGISTER_WRITE by width and function (R6) -/

/-- The command is the write of its function. -/
theorem exec_registerWrite (f off width v : Nat) (lost : Bool) (s : State) :
    exec (.registerWrite f off width v lost) s = execRegisterWrite f off width v lost s := rfl

/-- A function that does not exist, or that an FLR resets, writes nothing. -/
theorem registerWrite_absent {s : State} {f : Nat} (h : fnExists s f = false ∨ (fnCfg s f).inFlr = true) (off width v : Nat) (lost : Bool) :
    exec (.registerWrite f off width v lost) s = .next s := by
  rw [exec_registerWrite, execRegisterWrite, if_pos (by simpa using h)]

section Present

variable {s : State} {f : Nat} (hf : fnExists s f = true) (hflr : (fnCfg s f).inFlr = false)

include hf hflr

/-- A write of another width or alignment is answered with Unsupported Request. -/
theorem registerWrite_unsupported {off width : Nat} (hp : Safety.powered s) (h32 : ¬ (width = 32 ∧ off % 4 = 0))
    (h64 : ¬ (width = 64 ∧ off % 8 = 0)) (v : Nat) (lost : Bool) :
    exec (.registerWrite f off width v lost) s = .next (unsupported s) := by
  rw [exec_registerWrite, execRegisterWrite, if_neg (by simp [hf, hflr]), if_neg h32, if_neg h64, powered_next hp]

/-- An aligned 32-bit write writes one word. -/
theorem registerWrite_word32 {off : Nat} (ho : off % 4 = 0) (v : Nat) (lost : Bool) :
    exec (.registerWrite f off 32 v lost) s = word32 f off (v % 2 ^ 32) lost s := by
  rw [exec_registerWrite, execRegisterWrite, if_neg (by simp [hf, hflr]), if_pos ⟨rfl, ho⟩]

/-- An aligned 64-bit write writes two words. -/
theorem registerWrite_word64 {off : Nat} (ho : off % 8 = 0) (v : Nat) (lost : Bool) :
    exec (.registerWrite f off 64 v lost) s = word64 f off (v % 2 ^ 64) lost s := by
  rw [exec_registerWrite, execRegisterWrite, if_neg (by simp [hf, hflr]), if_neg (by simp), if_pos ⟨rfl, ho⟩]

end Present

/-- Outside fail-safe Unsupported Request is answered and reported. -/
theorem unsupported_eq {s : State} (h : failsafe s = false) : unsupported s = send (send s .unsupportedRequest) (.aer .unsupportedRequest) := by
  have h' : failsafe (send s .unsupportedRequest) = false := h
  rw [unsupported, aer, h']
  rfl

/-! ### What stands at the offset (R7 to R9) -/

/-- At an offset outside its ranges the PF has no window. -/
theorem pfWindow_none {off : Nat} (hfol : off < 0xD4_0000 ∨ 0xE0_0000 ≤ off) (hflash : off / 4096 ≠ 0x1501) (v n : Nat) (lost : Bool) (s : State) :
    pfWindow off v n lost s = none := by
  unfold pfWindow
  dsimp only
  split
  · omega
  · omega
  · omega
  · rw [if_neg hflash]

/-- A word at an offset that names nothing is discarded. -/
theorem word32_unmapped {f off : Nat} (hreg : findReg f off = none) (hmsix : off < 0x1_0000 ∨ 0x1_8000 ≤ off)
    (hfol : f ≠ 0 ∨ off < 0xD4_0000 ∨ 0xE0_0000 ≤ off) (hflash : f ≠ 0 ∨ off / 4096 ≠ 0x1501) (v : Nat) (lost : Bool) (s : State) :
    word32 f off v lost s = .next s := by
  have hwin : (if f = 0 then pfWindow off v 4 lost s else none) = none := by
    split
    next h0 => exact pfWindow_none (hfol.resolve_left (not_not_intro h0)) (hflash.resolve_left (not_not_intro h0)) v 4 lost s
    next => rfl
  simp only [word32, hreg, hwin]
  rw [if_neg (by omega)]

section Register

variable {f off : Nat} {r : Reg} {w i k : Nat} (h : findReg f off = some (r, w, i, k))

include h

/-- A word of a 32-bit register is all of it. -/
theorem word32_narrow (hr : r.place.width ≠ 64) (v : Nat) (lost : Bool) (s : State) :
    word32 f off v lost s = regTo r w i v (2 ^ 32 - 1) s := by
  simp only [word32, h, if_neg hr]

/-- A word of a 64-bit register is written alone. -/
theorem word32_wide (hr : r.place.width = 64) (v : Nat) (lost : Bool) (s : State) :
    word32 f off v lost s = regTo r w i (v <<< (32 * k)) ((2 ^ 32 - 1) <<< (32 * k)) s := by
  simp only [word32, h, if_pos hr]

/-- Two words at a 64-bit register are all of it. -/
theorem word64_wide (hr : r.place.width = 64) (hk : k = 0) (v : Nat) (lost : Bool) (s : State) :
    word64 f off v lost s = regTo r w i v (2 ^ 64 - 1) s := by
  simp only [word64, h, if_pos (And.intro hr hk)]

/-- Two words at a 32-bit register are two writes, the low word first. -/
theorem word64_narrow (hr : r.place.width ≠ 64) (v : Nat) (lost : Bool) (s : State) :
    word64 f off v lost s = andThen (word32 f off (v % 2 ^ 32) lost s) (word32 f (off + 4) (v / 2 ^ 32) lost) := by
  simp only [word64, h, if_neg (fun hc : r.place.width = 64 ∧ k = 0 => hr hc.1)]

end Register

/-! ### What the register does with the write -/

/-- The registers whose writes start an action or follow a rule of their own. -/
def ruledRegs : List Reg :=
  [.FE_QCMD, .FE_OBJ_CMD, .FE_PART, .SCH_GCMD, .SCH_RESERVE, .SCH_PREEMPT_CTL, .SCH_DL_BUDGET, .SCH_SCRATCH, .SCH_DISCARD, .SC_REPLAY, .TRU_CMD,
    .TRU_SLOT_CFG, .SEQ_SCMD, .SEQ_KV_POOL, .SEQ_EVT_CI, .SEQ_PART, .SEQ_RING_CFG, .L2_MAINT_CMD, .FOL_BANK, .XLT_INV_CMD, .XLT_VM_CFG, .INT_FAILSAFE,
    .INT_HOLD, .INT_RECOVER, .INT_INJECT, .DSP_OUT_CTL, .DSP_AUX_CMD, .DSP_COMMIT, .UAP_CTL, .MBX_CMD, .MBX_TX0, .HIF_VF_WIN, .PWR_DOM_CTL,
    .PWR_PAD_RELEASE, .PWR_LIMIT, .PWR_FAN, .PWR_SILLAGE, .BOOT_FUSE, .BOOT_FLASH_CMD]

/-- A write to a register without a rule of its own is taken as the bus takes it, and stored. -/
theorem regTo_of_not_ruled {r : Reg} (hr : r ∉ ruledRegs) (w i v words : Nat) (s : State) :
    regTo r w i v words s = busWrite s r w i fun s => regStore s r w i v words := by
  unfold regTo
  split
  pick_goal -1
  · rfl
  all_goals exact absurd (by decide) hr

/-- While such a register may be written, the write is stored. -/
theorem regTo_store {s : State} {r : Reg} {w i : Nat} (hw : Safety.writable s r w i) (hr : r ∉ ruledRegs) (v words : Nat) :
    regTo r w i v words s = .next (regStore s r w i v words) := by
  rw [regTo_of_not_ruled hr, busWrite_next hw]

/-- A write that was completed is followed by the other. -/
theorem andThen_next {o : Out} {t : State} (h : o = .next t) (k : State → Out) : andThen o k = k t := by
  rw [h, andThen]

/-- Settles O56: the function and the width choose the word writes, the register map chooses the register, and the register stores. That an absent function writes nothing,
whatever the width, is the model's choice (log 37). -/
theorem registerWrites : Obligations.RegisterWrites := by
  unfold Obligations.RegisterWrites
  intro s f off v lost
  refine ⟨fun h n => registerWrite_absent h off n v lost, fun hf hflr => ⟨?_, ?_, ?_, ?_, ?_, ?_, ?_⟩⟩
  case refine_1 =>
    exact fun n hp h32 h64 => ⟨registerWrite_unsupported hf hflr hp h32 h64 v lost, unsupported_eq⟩
  case refine_2 =>
    intro ho hreg hmsix hfol hflash
    rw [registerWrite_word32 hf hflr ho, word32_unmapped hreg hmsix hfol hflash]
  case refine_3 =>
    intro r w i ho hv h hr
    rw [registerWrite_word32 hf hflr ho, Nat.mod_eq_of_lt hv, word32_narrow h hr]
  case refine_4 =>
    intro r w i k ho hv h hr
    rw [registerWrite_word32 hf hflr ho, Nat.mod_eq_of_lt hv, word32_wide h hr]
  case refine_5 =>
    intro r w i ho hv h hr
    rw [registerWrite_word64 hf hflr ho, Nat.mod_eq_of_lt hv, word64_wide h hr rfl]
  case refine_6 =>
    intro r w i k h hw hruled
    refine ⟨fun ho hv _ hr => ?_, fun ho hv hr => ?_, fun ho hv hk hr => ?_⟩
    · rw [registerWrite_word32 hf hflr ho, Nat.mod_eq_of_lt hv, word32_narrow h hr, regTo_store hw hruled]
    · rw [registerWrite_word32 hf hflr ho, Nat.mod_eq_of_lt hv, word32_wide h hr, regTo_store hw hruled]
    · rw [registerWrite_word64 hf hflr ho, Nat.mod_eq_of_lt hv, word64_wide h hr hk, regTo_store hw hruled]
  case refine_7 =>
    intro r w i ho hv h hr t hlow htflr htf
    have hhigh : v / 2 ^ 32 < 2 ^ 32 := by omega
    rw [registerWrite_word32 hf hflr (by omega), Nat.mod_mod] at hlow
    rw [registerWrite_word64 hf hflr ho, Nat.mod_eq_of_lt hv, word64_narrow h hr, andThen_next hlow,
      registerWrite_word32 htf htflr (by omega), Nat.mod_eq_of_lt hhigh]

end Sys2Proof.Proofs

/-!
## What an operation does to the time base (O60)

Only AON_PGOOD_RISE and AON_PGOOD_FALL set the time base. One frame lemma per operation on the state says so, `f_time` for f, in the order
of the model's files; each is proved from those of the operations that f is built of, so that no proof unfolds more than one definition.
The lemmas about a single write of a field are stated with `(rfl)`: as rewriting rules that count as plain equations, not as definitional
ones, they stay in the proof term, and the kernel never has to compare two whole states; `simp high` puts them before the definitional
field lemmas of Laws.
-/

namespace Sys2Proof.Proofs

open Machine Laws

/-! ### Single writes, choices and folds -/

@[simp high] theorem time_onFe (s f) : (onFe s f).time = s.time := (rfl)

@[simp high] theorem time_onSc (s f) : (onSc s f).time = s.time := (rfl)

@[simp high] theorem time_onGfx (s f) : (onGfx s f).time = s.time := (rfl)

@[simp high] theorem time_onSeq (s f) : (onSeq s f).time = s.time := (rfl)

@[simp high] theorem time_onXlt (s f) : (onXlt s f).time = s.time := (rfl)

@[simp high] theorem time_onMem (s f) : (onMem s f).time = s.time := (rfl)

@[simp high] theorem time_onPwr (s f) : (onPwr s f).time = s.time := (rfl)

@[simp high] theorem time_onCcx (s f) : (onCcx s f).time = s.time := (rfl)

@[simp high] theorem time_onInt (s f) : (onInt s f).time = s.time := (rfl)

@[simp high] theorem time_onBoot (s f) : (onBoot s f).time = s.time := (rfl)

@[simp high] theorem time_send (s m) : (send s m).time = s.time := (rfl)

@[simp high] theorem time_freeCtr (s : State) (n : Nat) : ({ s with freeCtr := n } : State).time = s.time := (rfl)

@[simp high] theorem time_takeFree (s n) : (takeFree s n).2.time = s.time := (rfl)

/-- The time of a choice between two states. -/
@[simp] theorem time_ite (c : Prop) [Decidable c] (a b : State) : (if c then a else b).time = if c then a.time else b.time := apply_ite ..

/-- The state part of a choice between two answers. -/
@[simp] theorem snd_ite {α β : Type} (c : Prop) [Decidable c] (a b : α × β) : (if c then a else b).2 = if c then a.2 else b.2 := apply_ite ..

/-- A fold whose steps keep the time keeps it. -/
@[simp] theorem foldl_time {α : Type} {f : State → α → State} (h : ∀ s a, (f s a).time = s.time) (l : List α) (s : State) :
    (l.foldl f s).time = s.time := by
  induction l generalizing s with
  | nil => rfl
  | cons a l ih => rw [List.foldl_cons, ih, h]

@[simp] theorem foldl_snd_time {α β : Type} {f : β × State → α → β × State} (h : ∀ p a, (f p a).2.time = p.2.time)
    (l : List α) (p : β × State) : (l.foldl f p).2.time = p.2.time := by
  induction l generalizing p with
  | nil => rfl
  | cons a l ih => rw [List.foldl_cons, ih, h]

@[simp] theorem foldl_snd_snd_time {α β γ : Type} {f : β × γ × State → α → β × γ × State}
    (h : ∀ p a, (f p a).2.2.time = p.2.2.time) (l : List α) (p : β × γ × State) : (l.foldl f p).2.2.time = p.2.2.time := by
  induction l generalizing p with
  | nil => rfl
  | cons a l ih => rw [List.foldl_cons, ih, h]

theorem foldl_snd_snd_snd_time {α β γ δ : Type} {f : β × γ × δ × State → α → β × γ × δ × State}
    (h : ∀ p a, (f p a).2.2.2.time = p.2.2.2.time)
    (l : List α) (p : β × γ × δ × State) : (l.foldl f p).2.2.2.time = p.2.2.2.time := by
  induction l generalizing p with
  | nil => rfl
  | cons a l ih => rw [List.foldl_cons, ih, h]

theorem time_of_eq_mk {α : Type} {p : α × State} {a : α} {t : State} (h : p = (a, t)) : t.time = p.2.time := by rw [h]

theorem time_of_eq_mk₂ {α β : Type} {p : α × β × State} {a : α} {b : β} {t : State} (h : p = (a, b, t)) : t.time = p.2.2.time := by rw [h]

theorem time_withBoot (s : State) (x) : ({ s with boot := x } : State).time = s.time := rfl

theorem time_withDsp (s : State) (x) : ({ s with dsp := x } : State).time = s.time := rfl

/-- The answer's state stands at the time of s. A predicate of its own, so that the kernel compares answers as they are written. -/
def KeepsTime {α : Type} (s : State) (r : α × State) : Prop := r.2.time = s.time

theorem keepsTime_mk {α : Type} {s t : State} (a : α) (h : t.time = s.time) : KeepsTime s (a, t) := h

theorem keepsTime_trans {α : Type} {s t : State} {r : α × State} (hr : KeepsTime t r) (ht : t.time = s.time) : KeepsTime s r := hr.trans ht

/-! ### Machine/Ops -/

@[simp] theorem fcount_time (s f w i n) : (fcount s f w i n).time = s.time := by simp [fcount]

@[simp] theorem readClears_time (s r w i words) : (readClears s r w i words).time = s.time := by
  unfold readClears
  split <;> simp

@[simp] theorem linkWake_time (s) : (linkWake s).time = s.time := by simp [linkWake]

@[simp] theorem linkSend_time (s n) : (linkSend s n).time = s.time := by
  unfold linkSend
  split <;> simp

@[simp] theorem hostWrite_time (s a bs) : (hostWrite s a bs).time = s.time := by simp [hostWrite]

@[simp] theorem msixRaise_time (s f v) : (msixRaise s f v).time = s.time := by simp [msixRaise]

@[simp] theorem raise_time (s r) : (raise s r).time = s.time := (rfl)

@[simp] theorem raiseBare_time (s unit st level d) : (raiseBare s unit st level d).time = s.time := (rfl)

@[simp] theorem raiseFor_time (s unit st ctx fn d) : (raiseFor s unit st ctx fn d).time = s.time := (rfl)

@[simp] theorem countMismatch_time (s) : (countMismatch s).time = s.time := (rfl)

/-! ### Machine/Mbox -/

@[simp] theorem keepRegs_time (s keep) : (keepRegs s keep).time = s.time := (rfl)

@[simp] theorem chSet_time (s c word full v7) : (chSet s c word full v7).time = s.time := by simp [chSet]

@[simp] theorem chSenderIrq_time (s c) : (chSenderIrq s c).time = s.time := by
  unfold chSenderIrq
  split <;> simp

@[simp] theorem chOverrun_time (s c) : (chOverrun s c).time = s.time := by simp [chOverrun]

@[simp] theorem chAborted_time (s c) : (chAborted s c).time = s.time := by simp [chAborted]

@[simp] theorem chSend_time (s c word) : (chSend s c word).time = s.time := by simp [chSend]

@[simp] theorem chEmpty_time (s c) : (chEmpty s c).time = s.time := by simp [chEmpty]

@[simp] theorem chRead_time (s c) : (chRead s c).2.time = s.time := by
  unfold chRead
  split <;> simp

@[simp] theorem chReset_time (s c) : (chReset s c).time = s.time := by
  unfold chReset
  split <;> simp

@[simp] theorem notice_time (s c event arg) : (notice s c event arg).time = s.time := by
  unfold notice
  split <;> simp

@[simp] theorem logLost_time (s) : (logLost s).time = s.time := by simp [logLost]

@[simp] theorem logWrite_time (s m) : (logWrite s m).time = s.time := by simp [logWrite]

@[simp] theorem logAll_time (s l) : (logAll s l).time = s.time := by simp [logAll]

@[simp] theorem domUp_time (s d) : (domUp s d).time = s.time := by simp [domUp]

@[simp] theorem demand_time (s d) : (demand s d).time = s.time := by fun_cases demand <;> simp

/-! ### Machine/L2 -/

@[simp] theorem stackWake_time (s k) : (stackWake s k).time = s.time := by
  unfold stackWake
  split <;> simp

@[simp] theorem hbmStore_time (s l) : (hbmStore s l).time = s.time := (rfl)

@[simp] theorem writeBack_time (s l) : (writeBack s l).time = s.time := by
  unfold writeBack
  split <;> simp

@[simp] theorem touch_time (s la n) : (touch s la n).time = s.time := by simp [touch]

@[simp] theorem setWay_time (s n l) : (setWay s n l).time = s.time := (rfl)

@[simp] theorem place_time (s cls l) : (place s cls l).time = s.time := by
  fun_cases place <;> (repeat' split) <;> simp

@[simp] theorem accessed_time (s la) : (accessed s la).time = s.time := by
  unfold accessed
  split <;> simp

@[simp] theorem install_time (s cls l) : (install s cls l).time = s.time := by simp [install]

@[simp] theorem fillLine_time (s cls la) : (fillLine s cls la).time = s.time := by
  unfold fillLine
  split <;> simp

@[simp] theorem fetchLine_time (s cls la) : (fetchLine s cls la).time = s.time := by simp [fetchLine]

@[simp] theorem storeLine_time (s l) : (storeLine s l).time = s.time := by
  unfold storeLine
  split <;> simp

@[simp] theorem devRead_time (s cls pa n) : (devRead s cls pa n).2.2.time = s.time := by
  unfold devRead
  refine foldl_snd_snd_time (fun ⟨st, bs, t⟩ la => ?_) _ _
  dsimp only
  split <;> simp

@[simp] theorem writeSegs_time (s cls la segs bad) : (writeSegs s cls la segs bad).time = s.time := by simp [writeSegs]

@[simp] theorem writeLine_time (s cls la off bs bad) : (writeLine s cls la off bs bad).time = s.time := by simp [writeLine]

@[simp] theorem devWrite_time (s cls pa bs bad) : (devWrite s cls pa bs bad).2.time = s.time := by
  unfold devWrite
  split
  · rfl
  split
  · rfl
  refine foldl_snd_time (fun ⟨st, t⟩ la => ?_) _ _
  dsimp only
  split <;> simp

@[simp] theorem hostLines_time (s a n) : (hostLines s a n).2.time = s.time := by simp [hostLines]

@[simp] theorem anyRead_time (s cls dev a n) : (anyRead s cls dev a n).2.2.time = s.time := by simp [anyRead]

@[simp] theorem anyWrite_time (s cls dev a bs bad) : (anyWrite s cls dev a bs bad).2.time = s.time := by simp [anyWrite]

@[simp] theorem devModify_time (s cls la f) : (devModify s cls la f).2.2.time = s.time := by fun_cases devModify <;> simp +zetaDelta

@[simp] theorem devAtomic_time (s cls pa o) : (devAtomic s cls pa o).2.2.time = s.time := by simp [devAtomic]

/-! ### Machine/Xlt -/

@[simp] theorem cache_time (s e) : (cache s e).time = s.time := (rfl)

@[simp] theorem cacheMicro_time (s engine e) : (cacheMicro s engine e).time = s.time := (rfl)

@[simp] theorem cacheLeaf_time (s engine e) : (cacheLeaf s engine e).time = s.time := (rfl)

@[simp] theorem resolved_time (s w out dev log2 p l2) : (resolved s w out dev log2 p l2).2.time = s.time := by fun_cases resolved <;> simp

@[simp] theorem resolveIpa_time (s w) : (resolveIpa s w).2.time = s.time := by fun_cases resolveIpa <;> simp

@[simp] theorem stage1Table_time (s w level table g64) : (stage1Table s w level table g64).2.time = s.time := by simp [stage1Table]

@[simp] theorem walkWord_time (s w v v2) : (walkWord s w v v2).2.time = s.time := by fun_cases walkWord <;> simp +zetaDelta

@[simp] theorem walkStart_time (s r) : (walkStart s r).2.time = s.time := by fun_cases walkStart <;> simp

@[simp] theorem walkRun_time (n p) : (walkRun n p).2.time = p.2.time := by
  fun_induction walkRun <;> simp +zetaDelta [*]

@[simp] theorem leafHit_time (s r) : (leafHit s r).2.time = s.time := by fun_cases leafHit <;> simp

@[simp] theorem atsWhole_time (r a) : (atsWhole r a).2.time = a.2.time := by
  unfold atsWhole
  split
  · split
    · rfl
    split
    · rfl
    dsimp only
    split <;> simp
  · rfl

@[simp] theorem translate_time (s r) : (translate s r).2.time = s.time := by
  unfold Machine.translate
  split
  · rfl
  rw [atsWhole_time]
  split <;> rename_i h <;> simp [time_of_eq_mk h]

@[simp] theorem displayStep_time {s k} (h : (k s).time = s.time) : (displayStep s k).time = s.time := by
  unfold displayStep
  dsimp only
  split <;> simp [h]

@[simp] theorem closeBatch_time (s f) : (closeBatch s f).time = s.time := by
  unfold closeBatch
  split <;> simp

@[simp] theorem fltRing_time (s r st reason addr access level) : (fltRing s r st reason addr access level).2.time = s.time := by
  fun_cases fltRing <;> simp +zetaDelta
  all_goals split <;> simp

@[simp] theorem xltFault_time (s r x) : (xltFault s r x).time = s.time := by
  unfold xltFault
  split <;> simp

@[simp] theorem setDirty_time (s lo) : (setDirty s lo).time = s.time := by simp [setDirty]

@[simp] theorem failedAt_time (s a) : (failedAt s a).time = s.time := (rfl)

@[simp] theorem vread_time (s engine cls vm asid ctx va n acc) : (vread s engine cls vm asid ctx va n acc).2.2.time = s.time := by
  unfold vread
  refine foldl_snd_snd_time (fun p x => ?_) _ _
  dsimp only
  split
  · rfl
  split <;> rename_i h <;> simp [time_of_eq_mk h]

@[simp] theorem vwrite_time (s engine cls vm asid ctx va bs bad) : (vwrite s engine cls vm asid ctx va bs bad).2.time = s.time := by
  unfold vwrite
  refine foldl_snd_time (fun p x => ?_) _ _
  dsimp only
  split
  · rfl
  split <;> rename_i h <;> simp [time_of_eq_mk h]

@[simp] theorem vline_time (s engine cls vm asid ctx va) : (vline s engine cls vm asid ctx va).2.2.2.time = s.time := by
  unfold vline
  dsimp only
  split <;> rename_i h
  · split <;> simp [time_of_eq_mk h]
  · simp [time_of_eq_mk h]
  · simp [time_of_eq_mk h]

@[simp] theorem vstore_time (s engine cls vm asid ctx va segs) : (vstore s engine cls vm asid ctx va segs).2.time = s.time := by
  fun_cases vstore <;> simp +zetaDelta <;> simp (disch := assumption) [time_of_eq_mk]

@[simp] theorem vmodify_time (s engine cls vm asid ctx va spans f acc) : (vmodify s engine cls vm asid ctx va spans f acc).2.2.time = s.time := by
  unfold vmodify
  dsimp only
  split <;> rename_i h <;> simp [time_of_eq_mk h]

@[simp] theorem ipaTarget_time (s vm ipa acc) : (ipaTarget s vm ipa acc).2.time = s.time := by
  unfold ipaTarget
  dsimp only
  split
  · rfl
  split <;> rename_i h <;> simp [time_of_eq_mk h]

@[simp] theorem tableTarget_time (n p) : (tableTarget n p).2.time = p.2.time := by
  fun_induction tableTarget <;> simp +zetaDelta [*]

@[simp] theorem ipaRead_time (s vm ipa n) : (ipaRead s vm ipa n).2.2.time = s.time := by
  unfold ipaRead
  refine foldl_snd_snd_time (fun p x => ?_) _ _
  dsimp only
  split
  · rfl
  split <;> rename_i h <;> simp [time_of_eq_mk h]

@[simp] theorem xAnswer_time (s r x) : (xAnswer s r x).time = s.time := by simp [xAnswer]

@[simp] theorem atsStep_time (s r x) : (atsStep s r x).time = s.time := by fun_cases atsStep <;> simp

@[simp] theorem parityDrop_time (s engine micro tc) : (parityDrop s engine micro tc).time = s.time := by simp [parityDrop]

@[simp] theorem translationLookup_time (r micro tc s) : (translationLookup r micro tc s).time = s.time := by
  unfold translationLookup
  split
  · rfl
  split
  · simp
  dsimp only
  split <;> rename_i h
  · simp [time_of_eq_mk h]
  · split
    · simp [time_of_eq_mk h]
    split <;> rename_i h' <;> simp [time_of_eq_mk h', time_of_eq_mk h]

@[simp] theorem walkEnd_time (s w x) : (walkEnd s w x).time = s.time := by
  unfold walkEnd
  dsimp only
  rw [foldl_time fun t r => ?_]
  · simp
  split
  · split <;> simp
  · simp

@[simp] theorem walkReadDone_time (n error s) : (walkReadDone n error s).time = s.time := by
  unfold walkReadDone
  split
  · rfl
  dsimp only
  split
  · simp
  split <;> rename_i h <;> simp [time_of_eq_mk h]

@[simp] theorem faultBatchClose_time (f s) : (faultBatchClose f s).time = s.time := by
  unfold faultBatchClose
  split <;> simp

@[simp] theorem atsTranslationCompletion_time (f page ok out p s) : (atsTranslationCompletion f page ok out p s).time = s.time := by
  unfold atsTranslationCompletion
  split <;> simp

@[simp] theorem invRequest_time (s i) : (invRequest s i).time = s.time := (rfl)

@[simp] theorem invSweep_time (s o) : (invSweep s o).time = s.time := (rfl)

@[simp] theorem invPost_time (s i) : (invPost s i).time = s.time := by
  unfold invPost
  split <;> simp

@[simp] theorem invResult_time (s f st) : (invResult s f st).time = s.time := by simp [invResult]

@[simp] theorem invBusy_time (s f) : (invBusy s f).time = s.time := by simp [invBusy]

@[simp] theorem xltInvRange_time (f asid s) : (xltInvRange f asid s).time = s.time := by simp [xltInvRange]

@[simp] theorem xltInvTag_time (f asid s) : (xltInvTag f asid s).time = s.time := by simp [xltInvTag]

@[simp] theorem xltInvVmAll_time (f vm s) : (xltInvVmAll f vm s).time = s.time := by simp [xltInvVmAll]

@[simp] theorem xltInvUndefinedOp_time (f s) : (xltInvUndefinedOp f s).time = s.time := by
  unfold xltInvUndefinedOp
  split <;> simp

@[simp] theorem atsInvalidationRequest_time (f start len tag s) : (atsInvalidationRequest f start len tag s).time = s.time := (rfl)

@[simp] theorem invalidationGrant_time (n s) : (invalidationGrant n s).time = s.time := by
  unfold invalidationGrant
  split <;> simp

@[simp] theorem invalidationEngineAck_time (e s) : (invalidationEngineAck e s).time = s.time := by
  unfold invalidationEngineAck
  split <;> simp

@[simp] theorem xltVmCfgWrite_time (v value s) : (xltVmCfgWrite v value s).time = s.time := by
  simp only [xltVmCfgWrite]
  split <;> simp

@[simp] theorem protectedWrite_time (s addr) : (protectedWrite s addr).time = s.time := (rfl)

/-! ### Machine/Fe -/

@[simp] theorem onQueue_time (s i f) : (onQueue s i f).time = s.time := (rfl)

@[simp] theorem commandRecord_time (s i q st seq op sub index addr) : (commandRecord s i q st seq op sub index addr).time = s.time := (rfl)

@[simp] theorem stopNoEntry_time (s i st addr) : (stopNoEntry s i st addr).time = s.time := by
  unfold stopNoEntry
  split <;> rfl

@[simp] theorem writeFault_time (s i st addr) : (writeFault s i st addr).time = s.time := by
  unfold writeFault
  split <;> simp

@[simp] theorem onEntry_time (s i seq f) : (onEntry s i seq f).time = s.time := (rfl)

@[simp] theorem entryFail_time (s i seq st addr index) : (entryFail s i seq st addr index).time = s.time := by
  unfold entryFail
  split <;> rfl

@[simp] theorem drainCheck_time (s i) : (drainCheck s i).time = s.time := (rfl)

@[simp] theorem entryEnd_time (s i seq st addr index) : (entryEnd s i seq st addr index).time = s.time := by
  unfold entryEnd
  split <;> simp

@[simp] theorem endBare_time (s t st addr index) : (endBare s t st addr index).time = s.time := by fun_cases endBare <;> simp

@[simp] theorem waitsReached_time (s i) : (waitsReached s i).time = s.time := by
  unfold waitsReached
  split <;> simp

@[simp] theorem waitsAbandoned_time (s i) : (waitsAbandoned s i).time = s.time := by simp [waitsAbandoned]

@[simp] theorem feWrite_time (s q va bs) : (feWrite s q va bs).2.time = s.time := by simp [feWrite]

@[simp] theorem feRead_time (s q va n) : (feRead s q va n).2.2.time = s.time := by simp [feRead]

@[simp] theorem fenceWrite_time (s i cookie seq st kind) : (fenceWrite s i cookie seq st kind).time = s.time := by
  unfold fenceWrite
  split <;> simp

@[simp] theorem tailWrite_time (s i) : (tailWrite s i).time = s.time := by
  unfold tailWrite
  split <;> simp

@[simp] theorem seqWritten_time (s i v) : (seqWritten s i v).time = s.time := (rfl)

@[simp] theorem writeOwed_time (i l s) : (writeOwed i l s).time = s.time := by
  induction l generalizing s with
  | nil => rfl
  | cons e t ih =>
    rw [writeOwed]
    split <;> simp [ih]

@[simp] theorem coverRun_time (i run s) : (coverRun i run s).time = s.time := by
  unfold coverRun
  split <;> simp

@[simp] theorem completionWrite_time (i s) : (completionWrite i s).time = s.time := by
  unfold completionWrite
  split <;> simp

@[simp] theorem qResult_time (s f st h) : (qResult s f st h).time = s.time := by simp [qResult]

@[simp] theorem resumeAt_time (s i n) : (resumeAt s i n).time = s.time := (rfl)

@[simp] theorem notifyScheduler_time (s) : (notifyScheduler s).time = s.time := by fun_cases notifyScheduler <;> simp

@[simp] theorem dbFenceCi_time (f i ci s) : (dbFenceCi f i ci s).time = s.time := by
  unfold dbFenceCi
  split <;> simp

@[simp] theorem oResult_time (s f st h) : (oResult s f st h).time = s.time := by simp [oResult]

/-! ### Machine/Memory -/

@[simp] theorem answer_time (s id st bs) : (answer s id st bs).time = s.time := (rfl)

@[simp] theorem missBusy_time (s slice) : (missBusy s slice).time = s.time := by simp [missBusy]

@[simp] theorem serve_time (s r) : (serve s r).time = s.time := by
  unfold serve
  split <;> simp

@[simp] theorem wayError_time (s la n e) : (wayError s la n e).time = s.time := by fun_cases wayError <;> simp

@[simp] theorem pcAdmit_time (s c) : (pcAdmit s c).time = s.time := (rfl)

@[simp] theorem pcServe_time (s la) : (pcServe s la).time = s.time := (rfl)

@[simp] theorem lookup_time (s r e) : (lookup s r e).time = s.time := by
  fun_cases lookup <;> simp +zetaDelta
  all_goals split <;> simp

@[simp] theorem retryHeld_time (s p) : (retryHeld s p).time = s.time := by simp [retryHeld]

@[simp] theorem l2RequestLookup_time (r e s) : (l2RequestLookup r e s).time = s.time := by simp [l2RequestLookup]

@[simp] theorem catchUp_time (s k) : (catchUp s k).time = s.time := by simp [catchUp]

@[simp] theorem l2MissFill_time (la rep s) : (l2MissFill la rep s).time = s.time := by
  unfold l2MissFill
  split
  · rfl
  dsimp only
  split
  · rfl
  cases rep <;> simp

@[simp] theorem hbmRefresh_time (k s) : (hbmRefresh k s).time = s.time := (rfl)

@[simp] theorem hbmSelfRefreshEntry_time (k s) : (hbmSelfRefreshEntry k s).time = s.time := by
  unfold hbmSelfRefreshEntry
  split <;> simp

@[simp] theorem hbmSelfRefreshExit_time (k s) : (hbmSelfRefreshExit k s).time = s.time := by
  unfold hbmSelfRefreshExit
  split <;> simp

@[simp] theorem l2InvalidateDone_time (slice s) : (l2InvalidateDone slice s).time = s.time := by
  unfold l2InvalidateDone
  split <;> simp

@[simp] theorem maintWay_time (op x k) : (maintWay op x k).2.time = x.2.time := by
  unfold maintWay
  split <;> simp

@[simp] theorem maintWays_time (s op p) : (maintWays s op p).2.time = s.time := by
  simp [maintWays]

@[simp] theorem maintain_time (op scope s) : (maintain op scope s).time = s.time := by fun_cases maintain <;> simp +zetaDelta

@[simp] theorem l2MaintClean_time (scope s) : (l2MaintClean scope s).time = s.time := by simp [l2MaintClean]

@[simp] theorem l2MaintInvalidate_time (scope s) : (l2MaintInvalidate scope s).time = s.time := by simp [l2MaintInvalidate]

@[simp] theorem l2MaintCleanInvalidate_time (scope s) : (l2MaintCleanInvalidate scope s).time = s.time := by simp [l2MaintCleanInvalidate]

@[simp] theorem l2MaintUndefinedOp_time (op scope s) : (l2MaintUndefinedOp op scope s).time = s.time := by simp [l2MaintUndefinedOp]

@[simp] theorem l2MaintDone_time (s) : (l2MaintDone s).time = s.time := by
  unfold l2MaintDone
  split <;> simp

@[simp] theorem chargeBlocked_time (s ctx aggressor n) : (chargeBlocked s ctx aggressor n).time = s.time := by
  unfold chargeBlocked
  split <;> rfl

@[simp] theorem onArb_time (s k f) : (onArb s k f).time = s.time := (rfl)

@[simp] theorem arbiterGrant_time (kind inst asks s) : (arbiterGrant kind inst asks s).time = s.time := by
  simp only [arbiterGrant]
  split <;> simp

@[simp] theorem arbiterRevoke_time (kind inst unit beats s) : (arbiterRevoke kind inst unit beats s).time = s.time := by
  simp only [arbiterRevoke]; split <;> simp

@[simp] theorem arbiterWatchdog_time (kind inst s) : (arbiterWatchdog kind inst s).time = s.time := by
  simp only [arbiterWatchdog]
  split <;> simp

/-! ### Machine/Sched -/

@[simp] theorem onTask_time (s t f) : (onTask s t f).time = s.time := (rfl)

@[simp] theorem serveTurn_time (s e turn) : (serveTurn s e turn).time = s.time := (rfl)

@[simp] theorem chargeLosers_time (s e t k p) : (chargeLosers s e t k p).time = s.time := by simp [chargeLosers]

@[simp] theorem itemDone_time (s t i) : (itemDone s t i).time = s.time := (rfl)

@[simp] theorem itemSaved_time (s t i) : (itemSaved s t i).time = s.time := (rfl)

@[simp] theorem taskFail_time (s t st addr) : (taskFail s t st addr).time = s.time := (rfl)

@[simp] theorem onPass_time (s p f) : (onPass s p f).time = s.time := (rfl)

@[simp] theorem passFail_time (s p st addr) : (passFail s p st addr).time = s.time := by simp [passFail]

@[simp] theorem busySteps_time (s c e n) : (busySteps s c e n).time = s.time := (rfl)

@[simp] theorem bumpVersion_time (s o) : (bumpVersion s o).time = s.time := (rfl)

@[simp] theorem bumpFor_time (s k) : (bumpFor s k).time = s.time := by
  unfold bumpFor
  exact foldl_time (fun t o => by split <;> simp) _ _

@[simp] theorem copyLines_time (k eng src dst n s) : (copyLines k eng src dst n s).2.time = s.time := by
  fun_induction copyLines <;> simp +zetaDelta [*]

@[simp] theorem copyChunk_time (s k i) : (copyChunk s k i).2.time = s.time := by simp [copyChunk]

/-! ### Machine/Shader -/

@[simp] theorem onBlock_time (s b f) : (onBlock s b f).time = s.time := (rfl)

@[simp] theorem onGroup_time (s b slot f) : (onGroup s b slot f).time = s.time := (rfl)

@[simp] theorem onEngine_time (s e f) : (onEngine s e f).time = s.time := (rfl)

@[simp] theorem readProg_time (s fn asid ctx o) : (readProg s fn asid ctx o).2.2.time = s.time := by simp [readProg]

@[simp] theorem enterBlock_time (s b k) : (enterBlock s b k).time = s.time := by
  simp only [enterBlock]
  split <;> simp

@[simp] theorem newBlock_time (s k) : (newBlock s k).2.time = s.time := by simp [newBlock]

@[simp] theorem setOvf_time (s c l) : (setOvf s c l).time = s.time := (rfl)

@[simp] theorem coreClear_time (s c) : (coreClear s c).time = s.time := (rfl)

@[simp] theorem ovfWrite_time (s c l) : (ovfWrite s c l).2.time = s.time := by simp [ovfWrite]

@[simp] theorem ovfFlush_time (s c p) : (ovfFlush s c p).2.time = s.time := by simp [ovfFlush]

@[simp] theorem ovfLeave_time (s c p) : (ovfLeave s c p).time = s.time := by
  unfold ovfLeave
  split <;> rfl

@[simp] theorem flushPriv_time (s b k g) : (flushPriv s b k g).2.time = s.time := by simp [flushPriv]

@[simp] theorem freeParks_time (s k) : (freeParks s k).time = s.time := (rfl)

@[simp] theorem removeBlock_time (s b) : (removeBlock s b).time = s.time := by fun_cases removeBlock <;> simp +zetaDelta

@[simp] theorem leaveOwner_time (s b k) : (leaveOwner s b k).time = s.time := by
  unfold leaveOwner
  split <;> rfl

@[simp] theorem dropBlock_time (s b) : (dropBlock s b).time = s.time := by
  unfold dropBlock
  split <;> simp

@[simp] theorem dropSaved_time (s b) : (dropSaved s b).time = s.time := by
  unfold dropSaved
  split <;> simp

@[simp] theorem discardBlocks_time (s p) : (discardBlocks s p).time = s.time := by simp [discardBlocks]

@[simp] theorem discardItems_time (s t p) : (discardItems s t p).time = s.time := by simp [discardItems]

@[simp] theorem abortOwner_time (s k st addr) : (abortOwner s k st addr).time = s.time := by fun_cases abortOwner <;> simp

@[simp] theorem put_time (s i g) : (put s i g).time = s.time := (rfl)

@[simp] theorem parkGroup_time (s b slot st ts pc addr write acc record reqs) :
    (parkGroup s b slot st ts pc addr write acc record reqs).time = s.time := by
  unfold parkGroup
  split <;> simp

@[simp] theorem parkAt_time (s i st addr) : (parkAt s i st addr).time = s.time := by simp [parkAt]

@[simp] theorem barCheck_time (b s n) : (barCheck b s n).time = s.time := by
  unfold barCheck
  split <;> simp

@[simp] theorem barChecks_time (s b) : (barChecks s b).time = s.time := by
  unfold barChecks
  split <;> simp

@[simp] theorem folWrite_time (s cluster l bs bad) : (folWrite s cluster l bs bad).time = s.time := (rfl)

@[simp] theorem fragTry_time (b s slot) : (fragTry b s slot).time = s.time := by fun_cases fragTry <;> simp +zetaDelta

@[simp] theorem fragTries_time (s b) : (fragTries s b).time = s.time := by
  unfold fragTries
  split <;> simp

@[simp] theorem endBlock_time (s b k steps) : (endBlock s b k steps).time = s.time := by
  unfold endBlock
  split <;> simp

@[simp] theorem settle_time (s b steps) : (settle s b steps).time = s.time := by
  fun_cases settle <;> simp +zetaDelta
  all_goals
    intro _
    split <;> simp

@[simp] theorem exitThreads_time (s i steps discard) : (exitThreads s i steps discard).time = s.time := by simp [exitThreads]

@[simp] theorem perThreadFree_time (s i d f need) : (perThreadFree s i d f need).2.time = s.time := by simp [perThreadFree]

@[simp] theorem issueMem_time (s i op n d addr src sx loc priv ordered) : (issueMem s i op n d addr src sx loc priv ordered).time = s.time := by
  simp [issueMem]

@[simp] theorem groupIssue_time (s i x) : (groupIssue s i x).time = s.time := by fun_cases groupIssue <;> simp +zetaDelta

@[simp] theorem coreEcc_time (s core n) : (coreEcc s core n).time = s.time := by
  unfold coreEcc
  split <;> simp

@[simp] theorem l1Use_time (s c la) : (l1Use s c la).time = s.time := (rfl)

@[simp] theorem l1Drop_time (s c p) : (l1Drop s c p).time = s.time := by simp [l1Drop]

@[simp] theorem vload_time (s core vm asid ctx va refetch) : (vload s core vm asid ctx va refetch).2.2.time = s.time := by
  fun_cases vload <;> simp +zetaDelta (disch := assumption) [time_of_eq_mk]

@[simp] theorem ovfPut_time (s c l) : (ovfPut s c l).2.time = s.time := by
  simp only [ovfPut]
  split <;> simp

@[simp] theorem ovfRead_time (s b k g line) : (ovfRead s b k g line).2.2.time = s.time := by simp [ovfRead]

@[simp] theorem ovfStore_time (s b k g line segs) : (ovfStore s b k g line segs).2.time = s.time := by simp [ovfStore]

@[simp] theorem laneCause_time (s r odd c) : (laneCause s r odd c).2.time = s.time := by
  fun_cases laneCause <;> (repeat' split) <;> simp

@[simp] theorem laneCheck_time (s k q m l) : (laneCheck s k q m l).2.2.time = s.time := by
  unfold laneCheck
  dsimp only
  split
  · simp
  split
  · simp
  split <;> rename_i h
  · simp [time_of_eq_mk h]
  · split <;> simp [time_of_eq_mk h]

@[simp] theorem lanesCheck_time (k q ls m s) : (lanesCheck k q ls m s).2.time = s.time := by
  induction ls generalizing m s with
  | nil => rfl
  | cons l t ih =>
    rw [lanesCheck]
    split <;> rename_i h <;> simp [ih, time_of_eq_mk₂ h]

@[simp] theorem loadLines_time (b k g q refetch l s) : (loadLines b k g q refetch l s).2.2.time = s.time := by
  fun_induction loadLines with
  | case1 => rfl
  | case2 => simp +zetaDelta
  | case3 n lanes t s r hr x ih =>
    rw [ih]
    simp +zetaDelta

@[simp] theorem storeLines_time (b k g q l s) : (storeLines b k g q l s).2.2.time = s.time := by
  fun_induction storeLines
  · rfl
  · simp +zetaDelta
  · rename_i ih
    simp only [ih]
    simp +zetaDelta

@[simp] theorem atomicLines_time (k q f l s) : (atomicLines k q f l s).2.2.time = s.time := by
  fun_induction atomicLines <;> simp +zetaDelta [*]

@[simp] theorem reqRun_time (s b k g q refetch) : (reqRun s b k g q refetch).2.2.time = s.time := by fun_cases reqRun <;> simp

@[simp] theorem memReturn_time (s core slot n ecc refetch) : (memReturn s core slot n ecc refetch).time = s.time := by
  unfold memReturn
  split
  · rfl
  split
  · rfl
  dsimp only
  split
  · rfl
  split
  · rfl
  split <;> rename_i h
  · simp [time_of_eq_mk h]
  · split <;> rename_i h' <;> simp [time_of_eq_mk₂ h', time_of_eq_mk h]

@[simp] theorem parkAll_time (s b st single who) : (parkAll s b st single who).time = s.time := by
  unfold parkAll
  split <;> simp

@[simp] theorem residentComplete_time (s q n irq) : (residentComplete s q n irq).time = s.time := by
  unfold residentComplete
  split <;> simp

@[simp] theorem onGroupAny_time (s b slot f) : (onGroupAny s b slot f).time = s.time := (rfl)

@[simp] theorem tokenDone_time (s b tok outcome) : (tokenDone s b tok outcome).time = s.time := (rfl)

@[simp] theorem faultTry_time (b s f) : (faultTry b s f).time = s.time := by fun_cases faultTry <;> simp

@[simp] theorem faultTries_time (s b) : (faultTries s b).time = s.time := by
  unfold faultTries
  split <;> simp

@[simp] theorem unpark_time (s b k g p skip) : (unpark s b k g p skip).time = s.time := by
  unfold unpark
  dsimp only
  rw [settle_time, fragTries_time, barChecks_time, faultTries_time]
  split
  · split <;> simp
  · simp

@[simp] theorem replayResult_time (s f st n) : (replayResult s f st n).time = s.time := by simp [replayResult]

@[simp] theorem taskProg_time (s t k) : (taskProg s t k).2.time = s.time := by fun_cases taskProg <;> simp +zetaDelta

@[simp] theorem placeNew_time (s t i k p c) : (placeNew s t i k p c).time = s.time := by simp [placeNew]

@[simp] theorem restoreBlock_time (s b k c) : (restoreBlock s b k c).time = s.time := by simp [restoreBlock]

@[simp] theorem chargeCores_time (before s ctx) : (chargeCores before s ctx).time = s.time := by
  unfold chargeCores
  split <;> simp

@[simp] theorem placeFirst_time (e l s) : (placeFirst e l s).time = s.time := by
  induction l generalizing s with
  | nil => rfl
  | cons l t ih =>
    obtain ⟨n, k⟩ := l
    rw [placeFirst]
    split <;> rename_i h
    · simp [time_of_eq_mk h]
    split
    · simp [ih, time_of_eq_mk h]
    · dsimp only
      split <;> simp [time_of_eq_mk h]

@[simp] theorem askCore_time (s c cls) : (askCore s c cls).time = s.time := by
  unfold askCore
  dsimp only
  rw [onSc_time, foldl_time fun t e => ?_]
  split <;> simp

@[simp] theorem preemptFor_time (s cls can) : (preemptFor s cls can).time = s.time := by
  unfold preemptFor
  dsimp only
  split <;> simp

@[simp] theorem requestPreempt_time (s e) : (requestPreempt s e).time = s.time := by
  unfold requestPreempt
  split
  · rfl
  split <;> simp

@[simp] theorem itemPlace_time (s e) : (itemPlace s e).time = s.time := by
  unfold itemPlace
  dsimp only
  split
  · simp
  · simp
  · split
    · split <;> simp
    · rfl
  · split
    · simp
    · split <;> simp
  · rfl

/-! ### Machine/Accord -/

@[simp] theorem reachFrag_time (s i load d a n) : (reachFrag s i load d a n).time = s.time := by
  unfold reachFrag
  split <;> simp

@[simp] theorem accFault_time (s e b i st addr write) : (accFault s e b i st addr write).time = s.time := by simp [accFault]

@[simp] theorem accDone_time (s e b i) : (accDone s e b i).time = s.time := by simp [accDone]

@[simp] theorem mmaReduce_time (s e) : (mmaReduce s e).time = s.time := by
  unfold mmaReduce
  dsimp only
  split
  · split <;> simp
  · rfl

@[simp] theorem probe_time (s engine vm asid ctx va n acc) : (probe s engine vm asid ctx va n acc).2.time = s.time := by
  unfold probe
  refine foldl_snd_time (fun ⟨f, t⟩ x => ?_) _ _
  dsimp only
  split
  · rfl
  split <;> rename_i h
  · split <;> simp [time_of_eq_mk h]
  · simp [time_of_eq_mk h]

@[simp] theorem probeAll_time (s engine k acc l) : (probeAll s engine k acc l).2.time = s.time := by
  unfold probeAll
  refine foldl_snd_time (fun ⟨f, t⟩ x => ?_) _ _
  dsimp only
  split <;> simp

@[simp] theorem readRanges_time (s engine k l) : (readRanges s engine k l).2.2.time = s.time := by
  induction l generalizing s with
  | nil => rfl
  | cons l t ih =>
    rw [readRanges]
    dsimp only
    split <;> simp [ih]

@[simp] theorem doLoad_time (s cl i rows) : (doLoad s cl i rows).time = s.time := by
  unfold doLoad
  split <;> simp

@[simp] theorem storeRows_time (s eng cl k i l) : (storeRows s eng cl k i l).2.time = s.time := by
  induction l generalizing s with
  | nil => rfl
  | cons l t ih =>
    rw [storeRows]
    dsimp only
    split
    · simp
    split <;> simp [ih]

@[simp] theorem storeRaw_time (s eng cl k i l) : (storeRaw s eng cl k i l).2.time = s.time := by
  suffices h : KeepsTime s (storeRaw s eng cl k i l) from h
  induction l generalizing s with
  | nil => exact keepsTime_mk _ rfl
  | cons l t ih =>
    rw [storeRaw]
    split
    · exact keepsTime_mk _ (countMismatch_time s)
    generalize hw : vwrite _ _ _ _ _ _ _ _ = w
    have ht : w.2.time = s.time := by rw [← hw, vwrite_time]
    clear hw
    dsimp only
    split
    · exact keepsTime_mk _ ht
    · exact keepsTime_trans (ih _) ht

/-! ### Machine/Pmp -/

@[simp] theorem pmpWrite_time (core s w) : (pmpWrite core s w).time = s.time := by
  simp only [pmpWrite]
  split <;> simp

@[simp] theorem pmpReset_time (s core) : (pmpReset s core).time = s.time := (rfl)

/-! ### Machine/Collator -/

@[simp] theorem onSlot_time (s sl f) : (onSlot s sl f).time = s.time := (rfl)

@[simp] theorem truClear_time (s sl first last) : (truClear s sl first last).time = s.time := (rfl)

@[simp] theorem truUnbind_time (s sl) : (truUnbind s sl).time = s.time := (rfl)

@[simp] theorem truResult_time (s f st version) : (truResult s f st version).time = s.time := by simp [truResult]

@[simp] theorem truPassEnd_time (s x sl) : (truPassEnd s x sl).time = s.time := by
  simp only [truPassEnd]
  split <;> simp

@[simp] theorem colWrite_time (s p va bs) : (colWrite s p va bs).time = s.time := by
  unfold colWrite
  split <;> simp

@[simp] theorem colRead_time (s eng p va n) : (colRead s eng p va n).2.time = s.time := by
  unfold colRead
  split <;> simp

@[simp] theorem quireAlloc_time (s p) : (quireAlloc s p).2.time = s.time := by
  unfold quireAlloc
  split <;> rfl

@[simp] theorem listAppend_time (s p n record first) : (listAppend s p n record first).time = s.time := by
  unfold listAppend
  split <;> simp

@[simp] theorem servePass_time (s e x losers) : (servePass s e x losers).time = s.time := by
  unfold servePass
  split <;> simp

@[simp] theorem takeSerial_time (s) : (takeSerial s).2.time = s.time := (rfl)

@[simp] theorem truHold_time (s p x) : (truHold s p x).time = s.time := by
  unfold truHold
  split <;> simp

@[simp] theorem passBegin_time (s t k) : (passBegin s t k).2.time = s.time := by fun_cases passBegin <;> simp +zetaDelta

@[simp] theorem writeTable_time (p s n) : (writeTable p s n).time = s.time := by
  unfold writeTable
  split <;> simp

@[simp] theorem beginEnd_time (s p) : (beginEnd s p).time = s.time := by
  unfold beginEnd
  split <;> simp

@[simp] theorem passUnstart_time (s p x) : (passUnstart s p x).time = s.time := (rfl)

@[simp] theorem routeChoice_time (p t words acc r) : (routeChoice p t words acc r).2.time = acc.2.time := by
  fun_cases routeChoice <;> simp +zetaDelta

@[simp] theorem routeToken_time (p sweep s t) : (routeToken p sweep s t).time = s.time := by
  unfold routeToken
  split
  · rfl
  dsimp only
  split
  · rfl
  split
  · simp
  · simp

@[simp] theorem blockKey_time (p q qrec s j) : (blockKey p q qrec s j).time = s.time := by fun_cases blockKey <;> simp +zetaDelta

@[simp] theorem gather_time (p fuel d acc s) : (gather p fuel d acc s).2.2.time = s.time := by
  induction fuel generalizing d acc s with
  | zero => rfl
  | succ n ih =>
    rw [gather]
    dsimp only
    split
    · rfl
    split <;> simp [ih]

@[simp] theorem vertexBytes_time (s p d v) : (vertexBytes s p d v).2.time = s.time := by simp [vertexBytes]

@[simp] theorem fetchVertices_time (p d l s) : (fetchVertices p d l s).2.time = s.time := by
  induction l generalizing s with
  | nil => rfl
  | cons v t ih =>
    rw [fetchVertices]
    split <;> rename_i h
    · simp [time_of_eq_mk h]
    split <;> rename_i h' <;> simp [time_of_eq_mk h', ih, time_of_eq_mk h]

@[simp] theorem placePosition_time (p s) : (placePosition p s).time = s.time := by
  unfold placePosition
  split
  · rfl
  dsimp only
  split
  · rfl
  · split <;> simp
  split
  · split
    · simp
    split
    · simp
    split <;> rename_i h <;> simp [time_of_eq_mk h]
  · rfl

@[simp] theorem placePositions_time (s p) : (placePositions s p).time = s.time := by simp [placePositions]

@[simp] theorem releaseDraw_time (s p d) : (releaseDraw s p d).time = s.time := by fun_cases releaseDraw <;> simp

@[simp] theorem releaseDraws_time (s p) : (releaseDraws s p).time = s.time := by
  unfold releaseDraws
  split
  · rfl
  refine foldl_time (fun t i => ?_) _ _
  split <;> simp

@[simp] theorem tryClose_time (s p) : (tryClose s p).time = s.time := by
  unfold tryClose
  split <;> simp

@[simp] theorem assemble_time (s p x b) : (assemble s p x b).time = s.time := by
  unfold assemble
  split <;> simp

@[simp] theorem writeData_time (s p) : (writeData s p).time = s.time := by fun_cases writeData <;> simp +zetaDelta

@[simp] theorem flushBegin_time (s p) : (flushBegin s p).time = s.time := by
  unfold flushBegin
  split
  · rfl
  dsimp only
  rw [onPass_time, fcount_time, foldl_time fun t e => ?_]
  split <;> simp

@[simp] theorem admitOne_time (s p) : (admitOne s p).time = s.time := by
  unfold admitOne
  split
  · rfl
  dsimp only
  split
  · simp
  split
  · rw [onPass_time, foldl_time fun t e => ?_, writeData_time]
    split <;> simp
  · simp

@[simp] theorem admitAll_time (p fuel s) : (admitAll p fuel s).time = s.time := by fun_induction admitAll <;> simp [*]

@[simp] theorem passFree_time (s p) : (passFree s p).time = s.time := by
  unfold passFree
  split
  · rfl
  dsimp only
  split <;> simp

@[simp] theorem passTaskEnd_time (s t) : (passTaskEnd s t).time = s.time := by fun_cases passTaskEnd <;> simp

@[simp] theorem passDiscard_time (s p) : (passDiscard s p).time = s.time := by
  unfold passDiscard
  split <;> simp

/-! ### Machine/Raster -/

@[simp] theorem onTile_time (s c sl f) : (onTile s c sl f).time = s.time := (rfl)

@[simp] theorem putTile_time (s c t old new bad) : (putTile s c t old new bad).time = s.time := by simp [putTile]

@[simp] theorem workTile_time (s c sl f) : (workTile s c sl f).time = s.time := by
  unfold workTile
  split <;> simp

@[simp] theorem rasRead_time (s c p va n) : (rasRead s c p va n).2.time = s.time := by
  unfold rasRead
  split <;> simp

@[simp] theorem rasWrite_time (s c p va bs) : (rasWrite s c p va bs).time = s.time := by
  unfold rasWrite
  split <;> simp

@[simp] theorem loadAtt_time (s c p x n i a) : (loadAtt s c p x n i a).2.time = s.time := by fun_cases loadAtt <;> simp +zetaDelta

@[simp] theorem initTile_time (c p x n l s) : (initTile c p x n l s).2.time = s.time := by
  induction l generalizing s with
  | nil => rfl
  | cons v t ih =>
    obtain ⟨i, a⟩ := v
    rw [initTile]
    dsimp only
    split
    · split <;> simp
    · simp [ih]

@[simp] theorem readList_time (c p x fuel v s) : (readList c p x fuel v s).2.time = s.time := by
  induction fuel generalizing v s with
  | zero => rfl
  | succ n ih =>
    rw [readList]
    dsimp only
    split <;> simp [ih]

@[simp] theorem fetchPrim_time (s c p x r) : (fetchPrim s c p x r).2.time = s.time := by
  simp only [fetchPrim]
  split <;> simp

@[simp] theorem fetchPrims_time (c p x n l s) : (fetchPrims c p x n l s).2.time = s.time := by
  induction l generalizing s with
  | nil => rfl
  | cons r t ih =>
    rw [fetchPrims]
    split
    · exact ih s
    split <;> rename_i h <;> simp [ih, time_of_eq_mk h]

@[simp] theorem tileRecs_time (s c p x n) : (tileRecs s c p x n).2.time = s.time := by
  fun_cases tileRecs <;> simp (disch := assumption) [time_of_eq_mk]

@[simp] theorem moveGroups_time (s a b) : (moveGroups s a b).time = s.time := (rfl)

@[simp] theorem restoreTile_time (s key x c sl runs) : (restoreTile s key x c sl runs).time = s.time := by simp [restoreTile]

@[simp] theorem handTile_time (s p x n c sl runs) : (handTile s p x n c sl runs).time = s.time := by
  unfold handTile
  dsimp only
  split <;> rename_i h
  · simp [time_of_eq_mk h]
  split <;> rename_i h' <;> simp [time_of_eq_mk h', time_of_eq_mk h]

@[simp] theorem requestTile_time (s x) : (requestTile s x).time = s.time := by fun_cases requestTile <;> simp

@[simp] theorem handFirst_time (all l s) : (handFirst all l s).time = s.time := by
  induction l generalizing s with
  | nil => rfl
  | cons r t ih =>
    obtain ⟨p, x⟩ := r
    rw [handFirst]
    split
    · exact ih s
    dsimp only
    split <;> simp [ih]

@[simp] theorem placeFragment_time (c sl s) : (placeFragment c sl s).time = s.time := by
  fun_cases placeFragment <;> simp +zetaDelta

@[simp] theorem placeFragments_time (s) : (placeFragments s).time = s.time := by simp [placeFragments]

@[simp] theorem statesChanged_time (s c p ds) : (statesChanged s c p ds).2.time = s.time := by simp [statesChanged]

@[simp] theorem dropDone_time (s c sl) : (dropDone s c sl).time = s.time := by
  unfold dropDone
  split <;> rfl

@[simp] theorem storeAtt_time (s c p x n i a data) : (storeAtt s c p x n i a data).time = s.time := by simp [storeAtt]

@[simp] theorem resolveAtt_time (s c p x n a data) : (resolveAtt s c p x n a data).time = s.time := by simp [resolveAtt]

@[simp] theorem writeAtt_time (c p x t bytes s ia) : (writeAtt c p x t bytes s ia).time = s.time := by simp [writeAtt]

@[simp] theorem freeTile_time (s c sl t) : (freeTile s c sl t).time = s.time := (rfl)

@[simp] theorem dropTile_time (s c sl t) : (dropTile s c sl t).time = s.time := by
  unfold dropTile
  split <;> rfl

@[simp] theorem truSet_time (s x n) : (truSet s x n).time = s.time := by
  unfold truSet
  split <;> rfl

@[simp] theorem writeUntouched_time (p n s) : (writeUntouched p n s).time = s.time := by
  unfold writeUntouched
  split <;> simp

@[simp] theorem passFinish_time (s p x) : (passFinish s p x).time = s.time := by
  unfold passFinish
  split <;> simp

@[simp] theorem graceBlock_time (s b) : (graceBlock s b).time = s.time := by fun_cases graceBlock <;> simp +zetaDelta

@[simp] theorem discardTokens_time (s b k) : (discardTokens s b k).time = s.time := by
  unfold discardTokens
  split <;> simp

@[simp] theorem saveBlock_time (s b kind) : (saveBlock s b kind).time = s.time := by
  fun_cases saveBlock <;> simp +zetaDelta
  all_goals repeat' split
  all_goals simp

/-! ### Machine/Check -/

@[simp] theorem contents_time (s w o off n) : (contents s w o off n).2.2.time = s.time := by simp [contents]

@[simp] theorem stateProg_time (s w h req need) : (stateProg s w h req need).2.2.time = s.time := by fun_cases stateProg <;> simp +zetaDelta

@[simp] theorem drawState_time (s w o) : (drawState s w o).2.2.time = s.time := by fun_cases drawState <;> simp +zetaDelta

@[simp] theorem contentFails_time (s w raw c) : (contentFails s w raw c).2.2.time = s.time := by fun_cases contentFails <;> simp +zetaDelta

@[simp] theorem checkEntry_time (s w seq raw) : (checkEntry s w seq raw).2.time = s.time := by
  unfold checkEntry
  split <;> simp

/-! ### Machine/Graph -/

@[simp] theorem graphRead_time (s lo off n) : (graphRead s lo off n).2.2.time = s.time := by
  simp only [graphRead]
  split <;> simp

@[simp] theorem graphWrite_time (s lo off bs) : (graphWrite s lo off bs).time = s.time := by simp [graphWrite]

@[simp] theorem readRecords_time {r} (h : ∀ s i n, (r s i n).2.2.time = s.time) (c slots l s) : (readRecords r c slots l s).2.2.time = s.time := by
  fun_induction readRecords <;> simp +zetaDelta [*]

@[simp] theorem gopRead_time (f ctx base s off n) : (gopRead f ctx base s off n).2.2.time = s.time := by simp [gopRead]

@[simp] theorem graphAddr_time (s f ctx va) : (graphAddr s f ctx va).2.time = s.time := by
  fun_cases graphAddr <;> simp (disch := assumption) [time_of_eq_mk]

@[simp] theorem gResult_time (s f st detail version) : (gResult s f st detail version).time = s.time := by simp [gResult]

@[simp] theorem publishCheck_time (s f g) : (publishCheck s f g).2.2.2.time = s.time := by
  fun_cases publishCheck <;> simp +zetaDelta <;> simp (disch := assumption) [time_of_eq_mk] <;> simp +zetaDelta

@[simp] theorem armRange_time (s g) : (armRange s g).time = s.time := by fun_cases armRange <;> simp

@[simp] theorem gopBegin_time (s f op) : (gopBegin s f op).2.time = s.time := by simp [gopBegin]

@[simp] theorem versionMade_time (s idx v) : (versionMade s idx v).time = s.time := (rfl)

@[simp] theorem publishEffect_time (s f lo idx) : (publishEffect s f lo idx).time = s.time := by simp [publishEffect]

@[simp] theorem patchRun_time (s f lo g st count off) : (patchRun s f lo g st count off).2.time = s.time := by
  fun_cases patchRun <;> simp +zetaDelta

@[simp] theorem onLaunch_time (s l f) : (onLaunch s l f).time = s.time := (rfl)

@[simp] theorem liveCountSet_time (s lo slot n) : (liveCount_ s lo slot n).time = s.time := by simp [liveCount_]

@[simp] theorem launchStart_time (s owner q g version args) : (launchStart s owner q g version args).2.time = s.time := by
  cases args <;> fun_cases launchStart <;> simp +zetaDelta

@[simp] theorem launchRelease_time (s l) : (launchRelease s l).time = s.time := by
  unfold launchRelease
  split
  · rfl
  dsimp only
  split <;> split <;> simp

@[simp] theorem launchSettle_time (s l) : (launchSettle s l).time = s.time := by fun_cases launchSettle <;> simp +zetaDelta

@[simp] theorem launchPass_time (s l failed) : (launchPass s l failed).time = s.time := by
  unfold launchPass
  split <;> simp

@[simp] theorem launchFail_time (s l n st addr) : (launchFail s l n st addr).time = s.time := by simp [launchFail]

@[simp] theorem counterDown_time (s x k) : (counterDown s x k).2.time = s.time := by simp [counterDown]

@[simp] theorem nodeSatisfy_time (s l n succ) : (nodeSatisfy s l n succ).time = s.time := by
  unfold nodeSatisfy
  split <;> simp

@[simp] theorem nodeFetch_time (s q x n) : (nodeFetch s q x n).2.2.time = s.time := by simp [nodeFetch]

@[simp] theorem nodeRead_time (s x n) : (nodeRead s x n).2.2.time = s.time := by
  unfold nodeRead
  split <;> simp

/-! ### Machine/SeqOps -/

@[simp] theorem onSlotS_time (s i f) : (onSlotS s i f).time = s.time := (rfl)

@[simp] theorem slotFree_time (s i) : (slotFree s i).time = s.time := by
  unfold slotFree
  split <;> rfl

@[simp] theorem slotLeave_time (s i reason) : (slotLeave s i reason).time = s.time := by
  unfold slotLeave
  split <;> rfl

@[simp] theorem slotHold_time (s i) : (slotHold s i).time = s.time := by fun_cases slotHold <;> simp +zetaDelta

@[simp] theorem slotPending_time (s i) : (slotPending s i).time = s.time := by
  unfold slotPending
  split <;> simp

@[simp] theorem leafWrite_time (s x i word) : (leafWrite s x i word).2.time = s.time := by
  unfold leafWrite
  dsimp only
  split <;> simp

@[simp] theorem poolPop_time (s x) : (poolPop s x).2.2.time = s.time := by
  unfold poolPop
  split <;> simp

@[simp] theorem poolPush_time (x s page) : (poolPush x s page).time = s.time := by
  unfold poolPush
  split <;> simp

@[simp] theorem unmapAll_time (s x) : (unmapAll s x).time = s.time := by simp [unmapAll]

@[simp] theorem ringStop_time (s) : (ringStop s).time = s.time := by simp [ringStop]

@[simp] theorem runDrop_time (s t) : (runDrop s t).time = s.time := by
  unfold runDrop
  split <;> simp

/-! ### Machine/Entries -/

@[simp] theorem addTask_time (s k) : (addTask s k).2.time = s.time := (rfl)

@[simp] theorem startTask_time (s c e total) : (startTask s c e total).2.time = s.time := by simp [startTask]

@[simp] theorem drawEnter_time (s t k key d) : (drawEnter s t k key d).time = s.time := by
  unfold drawEnter
  split <;> simp

@[simp] theorem onDraw_time (s t f) : (onDraw s t f).time = s.time := by simp [onDraw]

@[simp] theorem startDraw_time (s c) : (startDraw s c).2.time = s.time := by
  unfold startDraw
  split <;> simp

@[simp] theorem startPassBegin_time (s c) : (startPassBegin s c).2.time = s.time := by
  fun_cases startPassBegin <;> simp +zetaDelta (disch := assumption) [time_of_eq_mk]

@[simp] theorem startPassEnd_time (s c) : (startPassEnd s c).2.time = s.time := by
  unfold startPassEnd
  split <;> simp

@[simp] theorem startDispatch_time (s c) : (startDispatch s c).2.time = s.time := by simp [startDispatch]

@[simp] theorem startPress_time (s c) : (startPress s c).2.time = s.time := by simp [startPress]

@[simp] theorem startWait_time (s c) : (startWait s c).2.time = s.time := by fun_cases startWait <;> simp

@[simp] theorem startLaunch_time (s c) : (startLaunch s c).2.time = s.time := by
  fun_cases startLaunch <;> simp (disch := assumption) [time_of_eq_mk]

@[simp] theorem ringWake_time (s) : (ringWake s).time = s.time := by simp [ringWake]

@[simp] theorem startStep_time (s c) : (startStep s c).2.time = s.time := by
  unfold startStep
  split <;> simp

@[simp] theorem ringEntry_time (s q n) : (ringEntry s q n).2.2.time = s.time := by simp [ringEntry]

@[simp] theorem fencesOf_time (s q) : (fencesOf s q).2.time = s.time := by simp [fencesOf]

@[simp] theorem queryWords_time (s c) : (queryWords s c).2.time = s.time := by
  unfold queryWords
  split <;> simp

@[simp] theorem startQuery_time (s c) : (startQuery s c).2.time = s.time := by
  unfold startQuery
  split <;> simp

@[simp] theorem orphanWork_time (s i key) : (orphanWork s i key).time = s.time := (rfl)

@[simp] theorem queueFree_time (s i q) : (queueFree s i q).time = s.time := by
  unfold queueFree
  split <;> simp

@[simp] theorem launchDiscard_time (s l) : (launchDiscard s l).time = s.time := by simp [launchDiscard]

@[simp] theorem discardTask_time (s t) : (discardTask s t).time = s.time := by fun_cases discardTask <;> simp +zetaDelta

@[simp] theorem discardLaunch_time (s l) : (discardLaunch s l).time = s.time := by
  unfold discardLaunch
  dsimp only
  rw [foldl_time fun t n => ?_]
  · simp
  split <;> simp

@[simp] theorem discardCommand_time (s t k) : (discardCommand s t k).time = s.time := by
  fun_cases discardCommand <;> simp +zetaDelta
  split <;> simp

@[simp] theorem dropTasks_time (s c) : (dropTasks s c).time = s.time := (rfl)

@[simp] theorem tdPreempt_time (s c) : (tdPreempt s c).time = s.time := by simp [tdPreempt]

@[simp] theorem tdSweep_time (s c drain) : (tdSweep s c drain).time = s.time := by simp [tdSweep]

@[simp] theorem startTeardown_time (s c) : (startTeardown s c).2.time = s.time := by fun_cases startTeardown <;> simp +zetaDelta

@[simp] theorem tdFences_time (s i st) : (tdFences s i st).time = s.time := by
  unfold tdFences
  split
  · rfl
  dsimp only
  split
  · simp
  rw [msixRaise_time, tailWrite_time, onQueue_time, foldl_time fun t x => ?_]
  · simp
  split <;> simp

@[simp] theorem killQueue_time (s i) : (killQueue s i).time = s.time := by
  simp only [killQueue]
  split <;> simp

@[simp] theorem tdSlots_time (s c) : (tdSlots s c).time = s.time := by simp [tdSlots]

@[simp] theorem freeFunction_time (s f) : (freeFunction s f).time = s.time := by simp [freeFunction]

@[simp] theorem resetWindows_time (s f) : (resetWindows s f).time = s.time := (rfl)

@[simp] theorem flrEnd_time (s f) : (flrEnd s f).time = s.time := by simp [flrEnd]

@[simp] theorem flrContext_time (f s c) : (flrContext f s c).time = s.time := by
  unfold flrContext
  split <;> simp

@[simp] theorem flrStart_time (s f) : (flrStart s f).time = s.time := by simp [flrStart]

@[simp] theorem beginCmd_time (s c) : (beginCmd s c).2.time = s.time := by
  unfold beginCmd
  split <;> simp

@[simp] theorem beginEntry_time (s i) : (beginEntry s i).time = s.time := by
  fun_cases beginEntry <;> simp (disch := assumption) [time_of_eq_mk]

@[simp] theorem checkNow_time (s i q e bad) : (checkNow s i q e bad).time = s.time := by
  simp only [checkNow]
  split <;> simp

@[simp] theorem rejectUndefined_time (i fuel s) : (rejectUndefined i fuel s).time = s.time := by fun_induction rejectUndefined <;> simp [*]

@[simp] theorem sweepUndefined_time (s i) : (sweepUndefined s i).time = s.time := by simp [sweepUndefined]

@[simp] theorem fetchOne_time (s i) : (fetchOne s i).time = s.time := by
  unfold fetchOne
  split <;> simp

@[simp] theorem nodeEnd_time (s l n st r addr) : (nodeEnd s l n st r addr).time = s.time := by fun_cases nodeEnd <;> simp +zetaDelta

@[simp] theorem nodeTry_time (s l n) : (nodeTry s l n).2.time = s.time := by
  fun_cases nodeTry <;> simp +zetaDelta (disch := assumption) [time_of_eq_mk]

@[simp] theorem nodeFirst_time (l ns s) : (nodeFirst l ns s).time = s.time := by
  induction ns generalizing s with
  | nil => rfl
  | cons n t ih =>
    rw [nodeFirst]
    split <;> rename_i h <;> simp [ih, time_of_eq_mk h]

@[simp] theorem nodeFences_time (l ns s) : (nodeFences l ns s).time = s.time := by
  fun_induction nodeFences <;> simp +zetaDelta [*]

/-! ### Machine/Seq -/

@[simp] theorem sResult_time (s f st h) : (sResult s f st h).time = s.time := by simp [sResult]

@[simp] theorem stepFail_time (s t st addr index) : (stepFail s t st addr index).time = s.time := by simp [stepFail]

@[simp] theorem mapPages_time (i l s) : (mapPages i l s).2.time = s.time := by
  fun_induction mapPages <;> simp +zetaDelta [*]

@[simp] theorem addRow_time (a i count decode) : (addRow a i count decode).2.time = a.2.time := by
  fun_cases addRow <;> simp +zetaDelta

@[simp] theorem formPass_time (batchMax budget chunk ring decode l a) : (formPass batchMax budget chunk ring decode l a).2.time = a.2.time := by
  fun_induction formPass <;> simp +zetaDelta [*]

@[simp] theorem zeroRing_time (r l s) : (zeroRing r l s).2.time = s.time := by
  fun_induction zeroRing <;> simp +zetaDelta [*]

@[simp] theorem ringBegin_time (s t k r) : (ringBegin s t k r).2.time = s.time := by fun_cases ringBegin <;> simp +zetaDelta

@[simp] theorem writeTokens_time (run l s) : (writeTokens run l s).2.time = s.time := by
  fun_induction writeTokens <;> simp +zetaDelta [*]

@[simp] theorem seqTokenDone_time (s i x pos out) : (tokenDone_ s i x pos out).2.time = s.time := by
  simp only [tokenDone_]
  split <;> simp

@[simp] theorem harvestRow_time (a w) : (harvestRow a w).2.time = a.2.time := by
  fun_cases harvestRow <;> simp +zetaDelta

@[simp] theorem writeEvents_time (f ctx l s) : (writeEvents f ctx l s).2.time = s.time := by
  fun_induction writeEvents
  · rfl
  · rfl
  · rename_i ih
    rw [ih]
    simp +zetaDelta

@[simp] theorem harvestEnd_time (s t) : (harvestEnd s t).time = s.time := by
  unfold harvestEnd
  split <;> simp

@[simp] theorem releaseEnd_time (s i x) : (releaseEnd s i x).time = s.time := by
  unfold releaseEnd
  split <;> simp

/-! ### Machine/UapOps -/

@[simp] theorem onPort_time (s p f) : (onPort s p f).time = s.time := (rfl)

@[simp] theorem uapIrq_time (s b) : (uapIrq s b).time = s.time := by simp [uapIrq]

@[simp] theorem ringFail_time (s st) : (ringFail s st).time = s.time := by
  fun_cases ringFail <;> simp +zetaDelta
  all_goals split <;> simp

@[simp] theorem uapMove_time (s p st) : (uapMove s p st).time = s.time := by simp [uapMove]

@[simp] theorem uapTry_time (s p) : (uapTry s p).time = s.time := by fun_cases uapTry <;> simp

@[simp] theorem uapWakeUp_time (s p pattern) : (uapWakeUp s p pattern).time = s.time := by simp [uapWakeUp]

@[simp] theorem matchPeer_time (s p) : (matchPeer s p).time = s.time := by simp [matchPeer]

@[simp] theorem wakeReport_time (s code detail) : (wakeReport s code detail).time = s.time := (rfl)

@[simp] theorem wakePcie_time (s) : (wakePcie s).time = s.time := by simp [wakePcie]

@[simp] theorem wakeEvent_time (s code detail) : (wakeEvent s code detail).time = s.time := by simp [wakeEvent]

/-! ### Machine/Recover -/

@[simp] theorem recDrop_time (s f) : (recDrop s f).time = s.time := by simp [recDrop]

@[simp] theorem recRing_time (s f bytes) : (recRing s f bytes).time = s.time := by simp [recRing]

@[simp] theorem notifyLiaison_time (s) : (notifyLiaison s).time = s.time := by
  unfold notifyLiaison
  split <;> simp

@[simp] theorem recWrite_time (s r serial window level flags) : (recWrite s r serial window level flags).time = s.time := by
  unfold recWrite
  split <;> simp

@[simp] theorem takeRec_time (s) : (takeRec s).2.time = s.time := (rfl)

@[simp] theorem intView_time (s) : (intView s).time = s.time := by simp [intView]

@[simp] theorem failsafeEnter_time (s cause) : (failsafeEnter s cause).time = s.time := by
  unfold failsafeEnter
  split
  · rfl
  rw [intView_time, time_onInt]
  refine (time_withBoot _ _).trans ?_
  rw [foldl_time fun t n => uapMove_time ..]
  refine (time_withDsp _ _).trans ?_
  rw [foldl_time fun t n => fset_time .., rset_time, fset_time, fset_time, recWrite_time, takeRec_time, time_send]

@[simp] theorem failOwner_time (s k st) : (failOwner s k st).time = s.time := by fun_cases failOwner <;> simp

@[simp] theorem dropBlocks_time (s p st) : (dropBlocks s p st).time = s.time := by simp [dropBlocks]

@[simp] theorem dropTiles_time (s c st) : (dropTiles s c st).time = s.time := by simp [dropTiles]

@[simp] theorem failTasks_time (s p st) : (failTasks s p st).time = s.time := by simp [failTasks]

@[simp] theorem zeroFolio_time (s k) : (zeroFolio s k).time = s.time := (rfl)

@[simp] theorem isolate_time (s u) : (isolate s u).time = s.time := (rfl)

@[simp] theorem restartCore_time (s c st) : (restartCore s c st).time = s.time := by simp [restartCore]

@[simp] theorem dropWalks_time (s st) : (dropWalks s st).time = s.time := (rfl)

@[simp] theorem resetSlice_time (s k) : (resetSlice s k).time = s.time := by simp [resetSlice]

@[simp] theorem failFetched_time (s st) : (failFetched s st).time = s.time := by simp [failFetched]

@[simp] theorem resetUnit_time (s u st) : (resetUnit s u st).time = s.time := by
  fun_cases resetUnit <;> simp +zetaDelta
  rw [foldl_time fun t e => ?_]
  · simp
  refine foldl_time (fun t g => ?_) _ _
  split
  · split <;> simp
  · rfl

@[simp] theorem resetCore_time (s b st) : (resetCore s b st).time = s.time := by
  unfold resetCore
  split <;> simp

@[simp] theorem domSet_time (s d now) : (domSet s d now).time = s.time := by simp [domSet]

@[simp] theorem resetCluster_time (s k st) : (resetCluster s k st).time = s.time := by simp [resetCluster]

@[simp] theorem dieHalt_time (s) : (dieHalt s).time = s.time := by simp [dieHalt]

@[simp] theorem dieQueue_time (st s i) : (dieQueue st s i).time = s.time := by simp [dieQueue]

@[simp] theorem dieQueues_time (s st n) : (dieQueues s st n).time = s.time := by simp [dieQueues]

@[simp] theorem clearDie_time (s) : (clearDie s).time = s.time := (rfl)

@[simp] theorem latchPads_time (s d) : (latchPads s d).time = s.time := by simp [latchPads]

@[simp] theorem dieRest_time (s) : (dieRest s).time = s.time := by
  simp only [dieRest]
  split <;> simp

@[simp] theorem applyImage_time (s) : (applyImage s).time = s.time := by simp [applyImage]

@[simp] theorem resetDomains_time (s) : (resetDomains s).time = s.time := by simp [resetDomains]

@[simp] theorem linkStart_time (s) : (linkStart s).time = s.time := (rfl)

@[simp] theorem linkAgain_time (s old) : (linkAgain s old).time = s.time := by simp [linkAgain]

@[simp] theorem resetChannels_time (old s) : (resetChannels old s).time = s.time := by simp [resetChannels]

@[simp] theorem packageReset_time (s) : (packageReset s).time = s.time := by simp [packageReset]

@[simp] theorem flashEnd_time (s st) : (flashEnd s st).time = s.time := by simp [flashEnd]

@[simp] theorem flashAbandon_time (s) : (flashAbandon s).time = s.time := by
  unfold flashAbandon
  split <;> simp

@[simp] theorem packageRecover_time (s) : (packageRecover s).time = s.time := by simp [packageRecover]

/-! ### Machine/DspOps -/

@[simp] theorem onStream_time (s x f) : (onStream s x f).time = s.time := (rfl)

@[simp] theorem onPipe_time (s p f) : (onPipe s p f).time = s.time := (rfl)

/-! ### Machine/Display -/

@[simp] theorem dspIrq_time (s causes) : (dspIrq s causes).time = s.time := by simp [dspIrq]

@[simp] theorem commit_time (s x) : (commit s x).time = s.time := by fun_cases commit <;> simp +zetaDelta

@[simp] theorem commitClear_time (s x) : (commitClear s x).time = s.time := by simp [commitClear]

@[simp] theorem uncancel_time (s x) : (uncancel s x).time = s.time := by
  unfold uncancel
  split <;> simp

@[simp] theorem takePipe_time (x s p) : (takePipe x s p).time = s.time := by simp [takePipe]

@[simp] theorem takeCommit_time (s x) : (takeCommit s x).time = s.time := by simp [takeCommit]

@[simp] theorem latchTick_time (x s) : (latchTick x s).time = s.time := by simp [latchTick]

@[simp] theorem latchPoint_time (x s) : (latchPoint x s).time = s.time := by fun_cases latchPoint <;> simp +zetaDelta

@[simp] theorem dspRead_time (s n va len) : (dspRead s n va len).2.2.2.time = s.time := by
  unfold dspRead
  exact foldl_snd_snd_snd_time (fun a l => by dsimp only; split <;> simp) _ _

@[simp] theorem plainRow_time (s n p cols y) : (plainRow s n p cols y).2.2.time = s.time := by simp [plainRow]

@[simp] theorem surfaceBlock_time (s n p bx by') : (surfaceBlock s n p bx by').2.2.2.time = s.time := by simp [surfaceBlock]

@[simp] theorem surfaceBlocks_time (n p by' l s) : (surfaceBlocks n p by' l s).2.2.time = s.time := by
  fun_induction surfaceBlocks <;> simp +zetaDelta [*]

@[simp] theorem storeRow_time (p s y r) : (storeRow p s y r).time = s.time := by simp [storeRow]

@[simp] theorem fetchFault_time (s p) : (fetchFault s p).time = s.time := by simp [fetchFault]

@[simp] theorem pipeFetch_time (p s) : (pipeFetch p s).time = s.time := by
  simp only [pipeFetch]
  split <;> simp

@[simp] theorem sendLine_time (s x y codes) : (sendLine s x y codes).time = s.time := by simp [sendLine]

@[simp] theorem wbQueue_time (s x y b) : (wbQueue s x y b).time = s.time := by simp [wbQueue]

@[simp] theorem passRows_time (s x y) : (passRows s x y).time = s.time := (rfl)

@[simp] theorem scanLine_time (s x y) : (scanLine s x y).time = s.time := by simp [scanLine]

@[simp] theorem scanout_time (x s) : (scanout x s).time = s.time := by simp [scanout]

@[simp] theorem writebackLine_time (x s) : (writebackLine x s).time = s.time := by
  simp only [writebackLine]
  split <;> simp

@[simp] theorem hpdSet_time (s n high) : (hpdSet s n high).time = s.time := (rfl)

@[simp] theorem linkTry_time (s n) : (linkTry s n).time = s.time := by
  unfold linkTry
  split <;> simp

@[simp] theorem hpdEvent_time (s n x) : (hpdEvent s n x).time = s.time := by
  unfold hpdEvent
  split <;> simp

@[simp] theorem hotplug_time (s n) : (hotplug s n).time = s.time := by simp [hotplug]

@[simp] theorem outCtlWrite_time (s n v) : (outCtlWrite s n v).time = s.time := by simp [outCtlWrite]

@[simp] theorem auxSend_time (s n r) : (auxSend s n r).time = s.time := (rfl)

@[simp] theorem auxEnd_time (s n reply count) : (auxEnd s n reply count).time = s.time := by simp [auxEnd]

@[simp] theorem auxReply_time (n reply data count s) : (auxReply n reply data count s).time = s.time := by
  unfold auxReply
  split <;> simp

/-! ### Machine/Press -/

@[simp] theorem folioWrite_time (s a bs) : (folioWrite s a bs).time = s.time := (rfl)

@[simp] theorem pressRead_time (s k off n) : (pressRead s k off n).2.2.time = s.time := by simp [pressRead]

@[simp] theorem pressDst_time (s k off bs) : (pressDst s k off bs).2.time = s.time := by simp [pressDst]

@[simp] theorem pressWrite_time (s k pos bs) : (pressWrite s k pos bs).2.2.time = s.time := by simp [pressWrite]

@[simp] theorem pressEnd_time (s t k j st) : (pressEnd s t k j st).time = s.time := by simp [pressEnd]

@[simp] theorem pressMore_time (s t j) : (pressMore s t j).time = s.time := (rfl)

@[simp] theorem pressWaits_time (s t) : (pressWaits s t).time = s.time := by
  unfold pressWaits
  split <;> simp

@[simp] theorem decLoop_time (k limit fuel j s) : (decLoop k limit fuel j s).2.2.time = s.time := by
  fun_induction decLoop <;> simp +zetaDelta [*]

/-! ### Machine/Folio -/

@[simp] theorem zeroBank_time (s c b) : (zeroBank s c b).time = s.time := (rfl)

@[simp] theorem bankPower_time (s c b st) : (bankPower s c b st).time = s.time := by simp [bankPower]

@[simp] theorem folBankWrite_time (s c b v) : (folBankWrite s c b v).time = s.time := by simp [folBankWrite]

@[simp] theorem flushOverflow_time (s x) : (flushOverflow s x).time = s.time := by simp [flushOverflow]

@[simp] theorem folHandoverDrained_time (c b s) : (folHandoverDrained c b s).time = s.time := by
  unfold folHandoverDrained
  split <;> simp

@[simp] theorem folHandoverComplete_time (c b s) : (folHandoverComplete c b s).time = s.time := by
  unfold folHandoverComplete
  split
  · rfl
  dsimp only
  split
  · rfl
  rw [foldl_time fun t e => ?_]
  · simp
  split <;> simp

@[simp] theorem winWrite_time (s off n lost f) : (winWrite s off n lost f).time = s.time := by simp [winWrite]

/-! ### Machine/Hif -/

@[simp] theorem aer_time (s e) : (aer s e).time = s.time := by
  unfold aer
  split <;> rfl

@[simp] theorem unsupported_time (s) : (unsupported s).time = s.time := by simp [unsupported]

@[simp] theorem completerAbort_time (s) : (completerAbort s).time = s.time := by simp [completerAbort]

@[simp] theorem barStatus_time (s f x) : (barStatus s f x).time = s.time := by simp [barStatus]

@[simp] theorem bar2Read_time (f o n s) : (bar2Read f o n s).time = s.time := by simp [bar2Read]

@[simp] theorem bar2Write_time (f o data s) : (bar2Write f o data s).time = s.time := by simp [bar2Write]

@[simp] theorem readEnd_time (l e s) : (readEnd l e s).time = s.time := by fun_cases readEnd <;> simp +zetaDelta

@[simp] theorem onCfg_time (s f k) : (onCfg s f k).time = s.time := (rfl)

@[simp] theorem cfgApply_time (f r s) : (cfgApply f r s).2.time = s.time := by
  unfold cfgApply
  split <;> simp

@[simp] theorem l0pWindow_time (up down granted s) : (l0pWindow up down granted s).time = s.time := by simp [l0pWindow]

@[simp] theorem hostExit_time (s) : (hostExit s).time = s.time := by simp [hostExit]

@[simp] theorem killContext_time (s c) : (killContext s c).time = s.time := by
  unfold killContext
  dsimp only
  rw [foldl_time fun t x => ?_]
  · simp
  split <;> simp

@[simp] theorem flrNow_time (s f) : (flrNow s f).time = s.time := by simp [flrNow]

@[simp] theorem eachVf_time {k} (h : ∀ s f, (k s f).time = s.time) (s) : (eachVf k s).time = s.time := by
  simp [eachVf, h]

@[simp] theorem resetConfig_time (s) : (resetConfig s).time = s.time := (rfl)

@[simp] theorem pfFlr_time (s) : (pfFlr s).time = s.time := by
  unfold pfFlr
  split <;> simp

@[simp] theorem vfWinWrite_time (s f v) : (vfWinWrite s f v).time = s.time := by simp [vfWinWrite]

/-! ### Machine/Reuse -/

@[simp] theorem truSlotCfg_time (s sl v) : (truSlotCfg s sl v).time = s.time := by simp [truSlotCfg]

@[simp] theorem lineChecks_time (engine cls vm asid ctx n va s) : (lineChecks engine cls vm asid ctx n va s).2.time = s.time := by
  induction n generalizing va s with
  | zero => rfl
  | succ n ih =>
    rw [lineChecks]
    split
    · simp
    split <;> rename_i h
    · simp [time_of_eq_mk h, ih]
    · simp [ih]

@[simp] theorem truRead_time (s key ecc) : (truRead s key ecc).2.time = s.time := by
  unfold truRead
  split <;> simp

@[simp] theorem loadTerm_time (p x n l s) : (loadTerm p x n l s).2.time = s.time := by
  induction l generalizing s with
  | nil => rfl
  | cons e t ih =>
    obtain ⟨i, a⟩ := e
    rw [loadTerm]
    split
    · exact ih s
    dsimp only
    split
    · simp
    split <;> rename_i h <;> simp [ih, time_of_eq_mk h]

@[simp] theorem copyTile_time (c p x m src dst s) : (copyTile c p x m src dst s).time = s.time := by
  fun_induction copyTile <;> simp +zetaDelta [*]

@[simp] theorem copyAtt_time (c p x n base f s ia) : (copyAtt c p x n base f s ia).time = s.time := by fun_cases copyAtt <;> simp +zetaDelta

@[simp] theorem ruRows_time (i base pitch lines n r s) : (ruRows i base pitch lines n r s).2.time = s.time := by
  induction n generalizing r s with
  | zero => rfl
  | succ n ih =>
    rw [ruRows]
    split <;> rename_i h
    · split <;> rename_i h'
      · simp [time_of_eq_mk h', ih, time_of_eq_mk h]
      · simp [ih, time_of_eq_mk h]
    · simp

/-! ### Machine/Ring -/

@[simp] theorem onRing_time (s f) : (onRing s f).time = s.time := (rfl)

@[simp] theorem ringView_time (s) : (ringView s).time = s.time := by
  unfold ringView
  split <;> simp

@[simp] theorem readProgress_time (s i) : (readProgress s i).time = s.time := by fun_cases readProgress <;> simp +zetaDelta

@[simp] theorem hopSent_time (s) : (hopSent s).time = s.time := by simp [hopSent]

@[simp] theorem blockArrived_time (s g x len) : (blockArrived s g x len).time = s.time := by simp [blockArrived]

/-! ### Machine/Uap -/

@[simp] theorem uapRecovery_time (s p) : (uapRecovery s p).time = s.time := by simp [uapRecovery]

@[simp] theorem uapProtocol_time (s p) : (uapProtocol s p).time = s.time := by simp [uapProtocol]

@[simp] theorem uapReplay_time (s p) : (uapReplay s p).time = s.time := by simp [uapReplay]

@[simp] theorem uapIdentity_time (s p b) : (uapIdentity s p b).time = s.time := by simp [uapIdentity]

@[simp] theorem uapAcked_time (s p a) : (uapAcked s p a).time = s.time := by simp [uapAcked]

@[simp] theorem uapDeliver_time (s p vc m) : (uapDeliver s p vc m).time = s.time := by simp [uapDeliver]

@[simp] theorem uapData_time (s p f) : (uapData s p f).time = s.time := by simp [uapData]

@[simp] theorem uapMgmt_time (s p f) : (uapMgmt s p f).time = s.time := by
  unfold uapMgmt
  split <;> simp

@[simp] theorem uapGood_time (s p f a) : (uapGood s p f a).time = s.time := by simp [uapGood]

@[simp] theorem uapListen_time (s p b) : (uapListen s p b).time = s.time := by simp [uapListen]

@[simp] theorem uapReceive_time (p raw s) : (uapReceive p raw s).time = s.time := by fun_cases uapReceive <;> simp +zetaDelta

@[simp] theorem uapSend_time (s p f a) : (uapSend s p f a).time = s.time := (rfl)

@[simp] theorem uapTransmit_time (p s) : (uapTransmit p s).time = s.time := by fun_cases uapTransmit <;> simp +zetaDelta

@[simp] theorem uapTrained_time (p ok reversed polarity s) : (uapTrained p ok reversed polarity s).time = s.time := by simp [uapTrained]

@[simp] theorem uapEn_time (s p en) : (uapEn s p en).time = s.time := by simp [uapEn]

/-! ### Machine/RegOps -/

@[simp] theorem dspWrote_time (s r i) : (dspWrote s r i).time = s.time := by
  unfold dspWrote
  split <;> rfl

@[simp] theorem regStore_time (s r w i v words) : (regStore s r w i v words).time = s.time := by
  unfold regStore
  split <;> simp

@[simp] theorem fwGate_time {s k} (h : (k s).time = s.time) (r w i) : (fwGate s r w i k).time = s.time := by
  unfold fwGate
  split <;> simp [h]

@[simp] theorem fwWrite_time (s r w i v) : (fwWrite s r w i v).time = s.time := by
  simp [fwWrite]

@[simp] theorem seqPartWrite_time (s f v) : (seqPartWrite s f v).time = s.time := by
  unfold seqPartWrite
  split <;> simp

@[simp] theorem fePartWrite_time (s f v) : (fePartWrite s f v).time = s.time := by
  unfold fePartWrite
  split <;> simp

/-! ### Machine/Power -/

@[simp] theorem domStatus_time (s d st) : (domStatus s d st).time = s.time := by simp [domStatus]

@[simp] theorem setPhase_time (s d p) : (setPhase s d p).time = s.time := by simp [setPhase]

@[simp] theorem endPhase_time (s d) : (endPhase s d).time = s.time := by simp [endPhase]

@[simp] theorem domGo_time (s d target) : (domGo s d target).time = s.time := by simp [domGo]

@[simp] theorem domApply_time (s d v) : (domApply s d v).time = s.time := by simp [domApply]

@[simp] theorem domCtlWrite_time (s d v) : (domCtlWrite s d v).time = s.time := by
  unfold domCtlWrite
  split <;> simp

@[simp] theorem domSettled_time (s d) : (domSettled s d).time = s.time := by
  unfold domSettled
  split <;> simp

@[simp] theorem domLose_time (s d) : (domLose s d).time = s.time := by simp [domLose]

@[simp] theorem domViews_time (s d) : (domViews s d).time = s.time := by simp [domViews]

@[simp] theorem domDown_time (s d t) : (domDown s d t).time = s.time := by simp [domDown]

@[simp] theorem flushParked_time (s k) : (flushParked s k).time = s.time := by simp [flushParked]

@[simp] theorem stackUp_time (s k) : (stackUp s k).time = s.time := by simp [stackUp]

@[simp] theorem domWake_time (s d wasOff) : (domWake s d wasOff).time = s.time := by simp [domWake]

@[simp] theorem domUpDone_time (s d) : (domUpDone s d).time = s.time := by simp [domUpDone]

@[simp] theorem padRelease_time (s v) : (padRelease s v).time = s.time := by simp [padRelease]

@[simp] theorem stacksDown_time (s) : (stacksDown s).time = s.time := by simp [stacksDown]

@[simp] theorem sillageEnter_time (s) : (sillageEnter s).time = s.time := by simp [sillageEnter]

@[simp] theorem stackResume_time (s k) : (stackResume s k).time = s.time := by simp [stackResume]

@[simp] theorem fanSet_time (s) : (fanSet s).time = s.time := by simp [fanSet]

@[simp] theorem measure_time (s f v i) : (measure s f v i).time = s.time := by
  simp [Machine.measure]

@[simp] theorem limitStore_time (s fan v words) : (limitStore s fan v words).time = s.time := by simp [limitStore]

@[simp] theorem limitWrite_time (s fan v words) : (limitWrite s fan v words).time = s.time := by simp [limitWrite]

/-! ### Machine/Ccx -/

@[simp] theorem wordStored_time (s c) : (wordStored s c).time = s.time := by simp [wordStored]

@[simp] theorem chStore_time (s c word) : (chStore s c word).time = s.time := by simp [chStore]

@[simp] theorem coreSetup_time (s core a) : (coreSetup s core a).time = s.time := by
  unfold coreSetup
  split <;> simp

@[simp] theorem sendKept_time (s c) : (sendKept s c).time = s.time := by
  unfold sendKept
  split <;> simp

@[simp] theorem handed_time (s i) : (handed s i).time = s.time := by
  unfold handed
  split <;> simp

@[simp] theorem sequencerWord_time (s word) : (sequencerWord s word).time = s.time := by
  unfold sequencerWord
  split <;> simp

@[simp] theorem wordTaken_time (s c word) : (wordTaken s c word).time = s.time := by simp [wordTaken]

@[simp] theorem chTake_time (s c) : (chTake s c).2.time = s.time := by
  unfold chTake
  split <;> simp

@[simp] theorem hostTake_time (s c) : (hostTake s c).time = s.time := by simp [hostTake]

theorem readSegments_time {a l s t} (h : readSegments a l s = some t) : t.time = s.time := by
  induction l generalizing a s with
  | nil => simpa [readSegments] using congrArg (Option.map State.time) h.symm
  | cons x l ih =>
    unfold readSegments at h
    dsimp only at h
    split at h
    · cases h
    · simpa using ih h

@[simp] theorem loadReply_time (s tag reason st) : (loadReply s tag reason st).time = s.time := by simp [loadReply]

@[simp] theorem loadSteps_time (s) : (loadSteps s).time = s.time := by
  unfold loadSteps
  dsimp only
  split
  · simp
  split
  · simp
  split
  · simp
  split
  · simp
  split <;> rename_i h
  · simp [readSegments_time h]
  · simp

@[simp] theorem fwStart_time (s) : (fwStart s).time = s.time := by
  unfold fwStart
  dsimp only
  rw [fset_time, fset_time, foldl_time fun t c => fset_time .., onCcx_time, foldl_snd_time fun _ _ => ?_]
  simp

@[simp] theorem fwAbandon_time (s) : (fwAbandon s).time = s.time := by simp [fwAbandon]

@[simp] theorem basicVector_time (s f) : (basicVector s f).time = s.time := by
  unfold basicVector
  split <;> simp

@[simp] theorem basicEnd_time (s result st) : (basicEnd s result st).time = s.time := (rfl)

@[simp] theorem logConfig_time (b s) : (logConfig b s).2.time = s.time := by simp [logConfig]

@[simp] theorem readyTrim_time (s) : (readyTrim s).time = s.time := (rfl)

/-! ### Machine/Policies -/

@[simp] theorem fwField_time (s f v w i) : (fwField s f v w i).time = s.time := by
  simp [fwField]

@[simp] theorem fwChoice_time (s r w i dflt v) : (fwChoice s r w i dflt v).time = s.time := by
  unfold fwChoice
  split <;> simp

@[simp] theorem fwFieldChoice_time (s f dflt v w i) : (fwFieldChoice s f dflt v w i).time = s.time := by simp [fwFieldChoice]

@[simp] theorem fwPart_time (s f b n) : (fwPart s f b n).time = s.time := by
  simp [fwPart]

@[simp] theorem fePolicy_time (b s) : (fePolicy b s).2.time = s.time := by simp [fePolicy]

@[simp] theorem schPolicy_time (b s) : (schPolicy b s).2.time = s.time := by simp [schPolicy]

@[simp] theorem scPolicy_time (b s) : (scPolicy b s).2.time = s.time := by simp [scPolicy]

@[simp] theorem acePolicy_time (b s) : (acePolicy b s).2.time = s.time := by simp [acePolicy]

@[simp] theorem colPolicy_time (b s) : (colPolicy b s).2.time = s.time := by simp [colPolicy]

@[simp] theorem rasPolicy_time (b s) : (rasPolicy b s).2.time = s.time := by simp [rasPolicy]

@[simp] theorem truPolicy_time (b s) : (truPolicy b s).2.time = s.time := by
  simp [truPolicy]

@[simp] theorem seqPolicy_time (b s) : (seqPolicy b s).2.time = s.time := by
  simp [seqPolicy]

@[simp] theorem memPolicy_time (b s) : (memPolicy b s).2.time = s.time := by simp [memPolicy]

@[simp] theorem fwBank_time (s c b owner) : (fwBank s c b owner).time = s.time := by
  simp [fwBank]

@[simp] theorem folPolicy_time (b s) : (folPolicy b s).2.time = s.time := by simp [folPolicy]

@[simp] theorem xltPolicy_time (b s) : (xltPolicy b s).2.time = s.time := by simp [xltPolicy]

@[simp] theorem intPolicy_time (b s) : (intPolicy b s).2.time = s.time := by simp [intPolicy]

@[simp] theorem prsPolicy_time (b s) : (prsPolicy b s).2.time = s.time := by simp [prsPolicy]

@[simp] theorem hifPolicy_time (b s) : (hifPolicy b s).2.time = s.time := by simp [hifPolicy]

@[simp] theorem uapPolicy_time (b s) : (uapPolicy b s).2.time = s.time := by
  unfold uapPolicy
  rw [fwField_time, foldl_time fun t p => fwGate_time (uapEn_time ..) ..]

@[simp] theorem modeTrain_time (s n ok) : (modeTrain s n ok).time = s.time := by simp [modeTrain]

@[simp] theorem modeBanks_time (s n count) : (modeBanks s n count).time = s.time := by simp [modeBanks]

@[simp] theorem modeSet_time (m b s) : (modeSet m b s).2.time = s.time := by
  unfold modeSet
  dsimp only
  split
  · rfl
  simp

@[simp] theorem pwrProfile_time (b s) : (pwrProfile b s).2.time = s.time := by
  simp only [pwrProfile]
  split <;> simp

/-! ### Machine/Boot -/

@[simp] theorem linkTrain_time (s speed width flit) : (linkTrain s speed width flit).time = s.time := by simp [linkTrain]

@[simp] theorem flashFree_time (s a n) : (flashFree s a n).time = s.time := by simp [flashFree]

@[simp] theorem takeRecoveryId_time (s reason sect) : (takeRecoveryId s reason sect).time = s.time := by simp [takeRecoveryId]

@[simp] theorem flashBegin_time (s op pages unit n) : (flashBegin s op pages unit n).time = s.time := by simp [flashBegin]

@[simp] theorem flashPart_time (s o) : (flashPart s o).time = s.time := by
  unfold flashPart
  split <;> rfl

@[simp] theorem revokeWrite_time (s mask) : (revokeWrite s mask).time = s.time := by
  simp only [revokeWrite]
  split <;> simp

@[simp] theorem smbus_time (s a) : (smbus s a).time = s.time := (rfl)

/-! ### Machine/Integrity -/

@[simp] theorem firmwareLost_time (s) : (firmwareLost s).time = s.time := by simp [firmwareLost]

@[simp] theorem recoverWork_time (s r v stuck feLost) : (recoverWork s r v stuck feLost).time = s.time := by fun_cases recoverWork <;> simp +zetaDelta

@[simp] theorem recoverStart_time (s r v stuck dead) : (recoverStart s r v stuck dead).time = s.time := by simp [recoverStart]

@[simp] theorem recOverflow_time (s r) : (recOverflow s r).time = s.time := by fun_cases recOverflow <;> simp +zetaDelta

@[simp] theorem acceptRecord_time (stuck dead s) : (acceptRecord stuck dead s).time = s.time := by
  unfold acceptRecord
  split <;> simp

@[simp] theorem holdsCleared_time (s) : (holdsCleared s).time = s.time := by simp [holdsCleared]

/-! ### Machine/RegWrite -/

@[simp] theorem msixWrite_time (f o v s) : (msixWrite f o v s).time = s.time := by simp [msixWrite]

/-! ### Machine/RegRead -/

@[simp] theorem regRead_time (s r w i words) : (regRead s r w i words).2.time = s.time := by
  fun_cases regRead <;> (repeat' split) <;> simp

@[simp] theorem placeRead_time (s f off n) : (placeRead s f off n).2.time = s.time := by simp [placeRead]

@[simp] theorem read32_time (f off s) : (read32 f off s).2.time = s.time := by
  unfold read32
  split <;> simp

@[simp] theorem read64_time (f off s) : (read64 f off s).2.time = s.time := by
  unfold read64
  split <;> simp

@[simp] theorem bar0Read_time (f off width s) : (bar0Read f off width s).time = s.time := by simp [bar0Read]

/-! ### Machine/System -/

@[simp] theorem intfRecord_time (n s c d) : (intfRecord n s c d).time = s.time := by simp [intfRecord]

@[simp] theorem intfClose_time (s) : (intfClose s).time = s.time := by simp [intfClose]

end Sys2Proof.Proofs

/-!
## Commands behind a gate (O57, O60)

All commands but six happen only with AON power on. `Gated s o` says of an answer o what both invariants need: o is a next state at the
time of s, and with AON power off it is s. The gates give it for whatever keeps the time, so that a command's lemma is its gate's and the
frame lemmas above.
-/

namespace Sys2Proof.Proofs

open Machine Laws

/-! ### The gates -/

/-- What a command behind the power gate answers: a next state at the same time, and with AON power off the state itself. -/
def Gated (s : State) (o : Out) : Prop := ∃ t, o = .next t ∧ t.time = s.time ∧ (s.boot.aonPgood = false → t = s)

theorem Gated.time {s t : State} {o : Out} (h : Gated s o) (ho : o = .next t) : t.time = s.time := by
  obtain ⟨u, rfl, ht, -⟩ := h
  cases ho
  exact ht

theorem Gated.dark {s : State} {o : Out} (h : Gated s o) (hoff : s.boot.aonPgood = false) : o = .next s := by
  obtain ⟨u, rfl, -, hu⟩ := h
  rw [hu hoff]

@[simp] theorem gated_next (s : State) : Gated s (.next s) := ⟨s, rfl, rfl, fun _ => rfl⟩

@[simp] theorem gated_powered {s t : State} (h : t.time = s.time) : Gated s (powered s t) := by
  refine ⟨_, rfl, ?_, fun hoff => by simp [hoff]⟩
  split
  · exact h
  · rfl

@[simp] theorem gated_ite {s : State} {c : Prop} [Decidable c] {o p : Out} (ho : Gated s o) (hp : Gated s p) : Gated s (if c then o else p) := by
  split
  · exact ho
  · exact hp

@[simp] theorem gated_engineStep {s : State} {k : State → State} (h : (k s).time = s.time) : Gated s (engineStep s k) :=
  gated_ite (gated_next s) (gated_powered h)

@[simp] theorem gated_unitStep {s : State} {k : State → State} (u : Nat) (h : (k s).time = s.time) : Gated s (unitStep s u k) :=
  gated_engineStep (by split <;> simp [h])

@[simp] theorem gated_busWrite {s : State} {k : State → State} (r : Reg) (w i : Nat) (h : (k s).time = s.time) : Gated s (busWrite s r w i k) := by
  unfold busWrite
  split
  · exact gated_next s
  · split
    · exact gated_ite (gated_powered h) (gated_powered (fset_time ..))
    · exact gated_powered h

@[simp] theorem gated_qCmd {s : State} {k : State → State} (f : Nat) (h : (k s).time = s.time) : Gated s (qCmd s f k) :=
  gated_busWrite _ _ _ (by simp [h])

@[simp] theorem gated_oCmd {s : State} {k : State → State} (f : Nat) (h : (k s).time = s.time) : Gated s (oCmd s f k) :=
  gated_busWrite _ _ _ (by simp [h])

@[simp] theorem gated_gCmd {s : State} {k : State → State} (f : Nat) (h : (k s).time = s.time) : Gated s (gCmd s f k) :=
  gated_busWrite _ _ _ (by simp [h])

@[simp] theorem gated_sCmd {s : State} {k : State → State} (f : Nat) (h : (k s).time = s.time) : Gated s (sCmd s f k) :=
  gated_busWrite _ _ _ (by simp [h])

@[simp] theorem gated_truCmd {s : State} {k : State → State} (f : Nat) (h : (k s).time = s.time) : Gated s (truCmd s f k) :=
  gated_busWrite _ _ _ (by simp [h])

@[simp] theorem gated_flashCmd {s : State} {k : State → State} (h : (k s).time = s.time) : Gated s (flashCmd s k) :=
  gated_busWrite _ _ _ (by simp [h])

@[simp] theorem gated_slotCmd {s : State} {k : State → Nat → Slot → Status × State} (f : Nat) (h : ∀ i x, (k s i x).2.time = s.time) :
    Gated s (slotCmd f s k) :=
  gated_sCmd _ (by dsimp only; split <;> simp [h])

@[simp] theorem gated_replayOne {s : State} {k : State → (Nat × Bool × Block × Group × Park) → State} (f id gen : Nat)
    (h : ∀ x, (k s x).time = s.time) : Gated s (replayOne s f id gen k) :=
  gated_busWrite _ _ _ (by
    split
    · rfl
    split <;> simp [h])

@[simp] theorem gated_issue {s : State} {k : State → Issue → State} (core pipe : Nat) (ops : List (Nat × Nat)) (all : Bool)
    (h : ∀ t i, (k t i).time = t.time) : Gated s (issue s core pipe ops all k) :=
  gated_engineStep (by
    dsimp only
    split
    · rfl
    · split <;> simp [h])

@[simp] theorem gated_colBatch {s : State} {f : State → Nat → Pass → State} (w : ColWork) (h : ∀ t p x, (f t p x).time = t.time) :
    Gated s (colBatch s w f) :=
  gated_unitStep _ (by dsimp only; split <;> simp [h])

@[simp] theorem gated_hpdEdge {s : State} {k : State → State} (n : Nat) (high : Bool) (h : ∀ t, (k t).time = t.time) : Gated s (hpdEdge s n high k) :=
  gated_powered (by simp [h])

@[simp] theorem gated_basicRun {s : State} {k : BasicCmd → State → Status × State} (op : Nat) (h : ∀ b, (k b s).2.time = s.time) :
    Gated s (basicRun op k s) :=
  gated_powered (by split <;> simp [h])

@[simp] theorem gated_entryRow (s : State) (op sub i misses : Nat) : Gated s (entryRow op sub i misses s) :=
  gated_engineStep (by split <;> simp)

@[simp] theorem gated_auxStart (s : State) (n op addr len : Nat) : Gated s (auxStart n op addr len s) :=
  gated_ite (gated_next s) (gated_busWrite _ _ _ (by simp))

@[simp] theorem gated_winRow (s : State) (off v : Nat) (wide lost : Bool) (f : Nat → Nat → Nat) : Gated s (winRow off v wide lost f s) :=
  gated_ite (gated_next s) (gated_busWrite _ _ _ (by simp))

@[simp] theorem gated_flashDataWrite (s : State) (o v n : Nat) : Gated s (flashDataWrite o v n s) :=
  gated_busWrite _ _ _ (by simp)

/-- Two gated events, one after the other. -/
theorem gated_andThen {s : State} {o : Out} {k : State → Out} (ho : Gated s o) (hk : ∀ t, Gated t (k t)) : Gated s (andThen o k) := by
  obtain ⟨t, rfl, ht, hoff⟩ := ho
  obtain ⟨u, hu, hut, huoff⟩ := hk t
  refine ⟨u, hu, hut.trans ht, fun h => ?_⟩
  have hts := hoff h
  subst hts
  exact huoff h

theorem gated_trigger {s : State} {k : Nat → State → Out} (r : Reg) (w i v words : Nat) (h : ∀ n t, Gated t (k n t)) :
    Gated s (trigger s r w i v words k) :=
  gated_andThen (gated_busWrite _ _ _ (rset_time ..)) fun t => gated_ite (h _ t) (gated_next t)

/-! ### Machine/Xlt -/

@[simp] theorem execTranslationLookup_gated (r micro tc s) : Gated s (execTranslationLookup r micro tc s) := by simp [execTranslationLookup]

@[simp] theorem execWalkReadDone_gated (n error s) : Gated s (execWalkReadDone n error s) := by simp [execWalkReadDone]

@[simp] theorem execFaultBatchClose_gated (f s) : Gated s (execFaultBatchClose f s) := by simp [execFaultBatchClose]

@[simp] theorem execAtsTranslationCompletion_gated (f page ok out p s) : Gated s (execAtsTranslationCompletion f page ok out p s) := by
  simp [execAtsTranslationCompletion]

@[simp] theorem execXltInvRange_gated (f asid s) : Gated s (execXltInvRange f asid s) := by simp [execXltInvRange]

@[simp] theorem execXltInvTag_gated (f asid s) : Gated s (execXltInvTag f asid s) := by simp [execXltInvTag]

@[simp] theorem execXltInvVmAll_gated (f vm s) : Gated s (execXltInvVmAll f vm s) := by simp [execXltInvVmAll]

@[simp] theorem execXltInvUndefinedOp_gated (f s) : Gated s (execXltInvUndefinedOp f s) := by simp [execXltInvUndefinedOp]

@[simp] theorem execAtsInvalidationRequest_gated (f start len tag s) : Gated s (execAtsInvalidationRequest f start len tag s) := by
  simp [execAtsInvalidationRequest]

@[simp] theorem execInvalidationGrant_gated (n s) : Gated s (execInvalidationGrant n s) := by simp [execInvalidationGrant]

@[simp] theorem execInvalidationEngineAck_gated (e s) : Gated s (execInvalidationEngineAck e s) := by simp [execInvalidationEngineAck]

@[simp] theorem execXltVmCfgWrite_gated (v value s) : Gated s (execXltVmCfgWrite v value s) := by simp [execXltVmCfgWrite]

/-! ### Machine/Fe -/

@[simp] theorem execFePartWrite_gated (f v s) : Gated s (execFePartWrite f v s) := by simp [execFePartWrite]

@[simp] theorem execCompletionWrite_gated (i s) : Gated s (execCompletionWrite i s) := by simp [execCompletionWrite]

@[simp] theorem execQueueCreate_gated (f s) : Gated s (execQueueCreate f s) := by
  unfold execQueueCreate
  refine gated_qCmd _ ?_
  split <;> simp

@[simp] theorem execQueueDescriptorReadDone_gated (f s) : Gated s (execQueueDescriptorReadDone f s) := by
  unfold execQueueDescriptorReadDone
  refine gated_unitStep _ ?_
  dsimp only
  repeat' split
  all_goals simp

@[simp] theorem execQueueResume_gated (f s) : Gated s (execQueueResume f s) := by
  unfold execQueueResume
  refine gated_qCmd _ ?_
  dsimp only
  split <;> simp

@[simp] theorem execQueueResumeSkip_gated (f s) : Gated s (execQueueResumeSkip f s) := by
  unfold execQueueResumeSkip
  refine gated_qCmd _ ?_
  dsimp only
  repeat' split
  all_goals simp

@[simp] theorem execQcmdUndefinedOp_gated (f op s) : Gated s (execQcmdUndefinedOp f op s) := by simp [execQcmdUndefinedOp]

@[simp] theorem execDbWriteIndex_gated (f i w s) : Gated s (execDbWriteIndex f i w s) := by
  unfold execDbWriteIndex
  refine gated_engineStep ?_
  repeat' split
  all_goals simp

@[simp] theorem execQueueArmSend_gated (i s) : Gated s (execQueueArmSend i s) := by
  unfold execQueueArmSend
  refine gated_unitStep _ ?_
  split <;> simp

@[simp] theorem execArmServe_gated (i s) : Gated s (execArmServe i s) := by simp [execArmServe]

@[simp] theorem execArmReturnCompare_gated (i s) : Gated s (execArmReturnCompare i s) := by simp [execArmReturnCompare]

@[simp] theorem execWakeArrive_gated (i s) : Gated s (execWakeArrive i s) := by simp [execWakeArrive]

@[simp] theorem execObjectCreate_gated (f rsvd s) : Gated s (execObjectCreate f rsvd s) := by
  unfold execObjectCreate
  refine gated_oCmd _ ?_
  split <;> simp

@[simp] theorem execObjCmdUndefinedOp_gated (f op s) : Gated s (execObjCmdUndefinedOp f op s) := by simp [execObjCmdUndefinedOp]

@[simp] theorem execWaitPoll_gated (t s) : Gated s (execWaitPoll t s) := by
  unfold execWaitPoll
  refine gated_unitStep _ ?_
  split <;> simp

@[simp] theorem execWaitPollReadDone_gated (t s) : Gated s (execWaitPollReadDone t s) := by
  unfold execWaitPollReadDone
  refine gated_unitStep _ ?_
  split <;> simp

@[simp] theorem execWaitTimeout_gated (t s) : Gated s (execWaitTimeout t s) := by
  unfold execWaitTimeout
  refine gated_unitStep _ ?_
  split <;> simp

/-! ### Machine/Memory -/

@[simp] theorem execL2RequestLookup_gated (r e s) : Gated s (execL2RequestLookup r e s) := by simp [execL2RequestLookup]

@[simp] theorem execL2MissFill_gated (la rep s) : Gated s (execL2MissFill la rep s) := by simp [execL2MissFill]

@[simp] theorem execHbmRefresh_gated (k s) : Gated s (execHbmRefresh k s) := by simp [execHbmRefresh]

@[simp] theorem execHbmSelfRefreshEntry_gated (k s) : Gated s (execHbmSelfRefreshEntry k s) := by simp [execHbmSelfRefreshEntry]

@[simp] theorem execHbmSelfRefreshExit_gated (k s) : Gated s (execHbmSelfRefreshExit k s) := by simp [execHbmSelfRefreshExit]

@[simp] theorem execL2InvalidateDone_gated (slice s) : Gated s (execL2InvalidateDone slice s) := by simp [execL2InvalidateDone]

@[simp] theorem execL2MaintClean_gated (scope s) : Gated s (execL2MaintClean scope s) := by simp [execL2MaintClean]

@[simp] theorem execL2MaintInvalidate_gated (scope s) : Gated s (execL2MaintInvalidate scope s) := by simp [execL2MaintInvalidate]

@[simp] theorem execL2MaintCleanInvalidate_gated (scope s) : Gated s (execL2MaintCleanInvalidate scope s) := by simp [execL2MaintCleanInvalidate]

@[simp] theorem execL2MaintUndefinedOp_gated (op scope s) : Gated s (execL2MaintUndefinedOp op scope s) := by simp [execL2MaintUndefinedOp]

@[simp] theorem execL2MaintDone_gated (s) : Gated s (execL2MaintDone s) := by simp [execL2MaintDone]

@[simp] theorem execArbiterGrant_gated (kind inst asks s) : Gated s (execArbiterGrant kind inst asks s) := by simp [execArbiterGrant]

@[simp] theorem execArbiterRevoke_gated (kind inst unit beats s) : Gated s (execArbiterRevoke kind inst unit beats s) := by simp [execArbiterRevoke]

@[simp] theorem execArbiterWatchdog_gated (kind inst s) : Gated s (execArbiterWatchdog kind inst s) := by simp [execArbiterWatchdog]

/-! ### Machine/Sched -/

@[simp] theorem execCopyChunkDone_gated (t i steps s) : Gated s (execCopyChunkDone t i steps s) := by
  unfold execCopyChunkDone
  refine gated_unitStep _ ?_
  split <;> simp

/-! ### Machine/Shader -/

@[simp] theorem execExit_gated (core pipe steps s) : Gated s (execExit core pipe steps s) := by simp [execExit]

@[simp] theorem execTrap_gated (core pipe s) : Gated s (execTrap core pipe s) := by simp [execTrap]

@[simp] theorem execGroupIssue_gated (core pipe ecc x s) : Gated s (execGroupIssue core pipe ecc x s) := by simp [execGroupIssue]

@[simp] theorem execFstat_gated (core pipe d s) : Gated s (execFstat core pipe d s) := by simp [execFstat]

@[simp] theorem execMemoryAccessReturn_gated (core slot n ecc refetch s) : Gated s (execMemoryAccessReturn core slot n ecc refetch s) := by
  simp [execMemoryAccessReturn]

@[simp] theorem execBarWait_gated (core pipe n s) : Gated s (execBarWait core pipe n s) := by simp [execBarWait]

@[simp] theorem execBarrierMismatchDetect_gated (b s) : Gated s (execBarrierMismatchDetect b s) := by
  unfold execBarrierMismatchDetect
  refine gated_engineStep ?_
  split <;> simp

@[simp] theorem execBarrierTimeout_gated (b n s) : Gated s (execBarrierTimeout b n s) := by
  unfold execBarrierTimeout
  refine gated_engineStep ?_
  split <;> simp

@[simp] theorem execQwait_gated (core pipe d q ix s) : Gated s (execQwait core pipe d q ix s) := by
  unfold execQwait
  refine gated_issue _ _ _ _ ?_
  intro t i
  dsimp only
  repeat' split
  all_goals simp

@[simp] theorem execQwaitWake_gated (q s) : Gated s (execQwaitWake q s) := by
  unfold execQwaitWake
  refine gated_engineStep ?_
  split <;> simp

@[simp] theorem execQcomplete_gated (core pipe q n flags s) : Gated s (execQcomplete core pipe q n flags s) := by
  unfold execQcomplete
  refine gated_issue _ _ _ _ ?_
  intro t i
  repeat' split
  all_goals simp

@[simp] theorem execScReplayReplay_gated (f id gen s) : Gated s (execScReplayReplay f id gen s) := by simp [execScReplayReplay]

@[simp] theorem execScReplayContinue_gated (f id gen s) : Gated s (execScReplayContinue f id gen s) := by simp [execScReplayContinue]

@[simp] theorem execScReplayAbort_gated (f id gen s) : Gated s (execScReplayAbort f id gen s) := by simp [execScReplayAbort]

@[simp] theorem execScReplayContext_gated (f ctx s) : Gated s (execScReplayContext f ctx s) := by simp [execScReplayContext]

@[simp] theorem execScReplayUndefinedOp_gated (f op s) : Gated s (execScReplayUndefinedOp f op s) := by simp [execScReplayUndefinedOp]

@[simp] theorem execShaderEccUncorrectable_gated (core s) : Gated s (execShaderEccUncorrectable core s) := by simp [execShaderEccUncorrectable]

@[simp] theorem execDeadlineBudgetExpiry_gated (core slot s) : Gated s (execDeadlineBudgetExpiry core slot s) := by
  unfold execDeadlineBudgetExpiry
  refine gated_engineStep ?_
  repeat' split
  all_goals simp

/-! ### Machine/Accord -/

@[simp] theorem execAccordInstruction_gated (core pipe dst d s) : Gated s (execAccordInstruction core pipe dst d s) := by
  unfold execAccordInstruction
  refine gated_issue _ _ _ _ ?_
  intro t i
  split <;> simp

@[simp] theorem execAccWait_gated (core pipe dst src s) : Gated s (execAccWait core pipe dst src s) := by simp [execAccWait]

@[simp] theorem execAccLoadFrag_gated (core pipe d a n s) : Gated s (execAccLoadFrag core pipe d a n s) := by simp [execAccLoadFrag]

@[simp] theorem execAccStoreFrag_gated (core pipe d a n s) : Gated s (execAccStoreFrag core pipe d a n s) := by simp [execAccStoreFrag]

@[simp] theorem execMatrixDivergenceDetect_gated (core slot s) : Gated s (execMatrixDivergenceDetect core slot s) := by
  unfold execMatrixDivergenceDetect
  refine gated_engineStep ?_
  dsimp only
  repeat' split
  all_goals simp

@[simp] theorem execAccInfo_gated (core pipe d s) : Gated s (execAccInfo core pipe d s) := by simp [execAccInfo]

@[simp] theorem execAccArg_gated (core pipe d n s) : Gated s (execAccArg core pipe d n s) := by
  unfold execAccArg
  refine gated_issue _ _ _ _ ?_
  intro t i
  repeat' split
  all_goals simp

@[simp] theorem execAccordDescriptorArrive_gated (e s) : Gated s (execAccordDescriptorArrive e s) := by
  unfold execAccordDescriptorArrive
  refine gated_unitStep _ ?_
  dsimp only
  repeat' split
  all_goals simp

@[simp] theorem execMoverStart_gated (e s) : Gated s (execMoverStart e s) := by
  unfold execMoverStart
  refine gated_unitStep _ ?_
  split <;> simp

@[simp] theorem execMmaStart_gated (e s) : Gated s (execMmaStart e s) := by
  unfold execMmaStart
  refine gated_unitStep _ ?_
  dsimp only
  repeat' split
  all_goals simp

@[simp] theorem execMmaComplete_gated (e ecc s) : Gated s (execMmaComplete e ecc s) := by
  unfold execMmaComplete
  refine gated_engineStep ?_
  dsimp only
  split <;> simp

@[simp] theorem execMoverComplete_gated (e s) : Gated s (execMoverComplete e s) := by
  unfold execMoverComplete
  refine gated_engineStep ?_
  dsimp only
  repeat' split
  all_goals simp (disch := assumption) [time_of_eq_mk, time_of_eq_mk₂]

@[simp] theorem execAccumulatorEccError_gated (e s) : Gated s (execAccumulatorEccError e s) := by simp [execAccumulatorEccError]

/-! ### Machine/Collator -/

@[simp] theorem execControlBlockReadDone_gated (p s) : Gated s (execControlBlockReadDone p s) := by
  unfold execControlBlockReadDone
  refine gated_unitStep _ ?_
  dsimp only
  repeat' split
  all_goals simp

@[simp] theorem execRouteBatch_gated (steps s) : Gated s (execRouteBatch steps s) := by
  unfold execRouteBatch
  refine gated_colBatch _ ?_
  intro t p x
  dsimp only
  split <;> simp

@[simp] theorem execBlockBatch_gated (steps s) : Gated s (execBlockBatch steps s) := by
  unfold execBlockBatch
  refine gated_colBatch _ ?_
  intro t p x
  dsimp only
  repeat' split
  all_goals simp

@[simp] theorem execGeometryStageBatch_gated (s) : Gated s (execGeometryStageBatch s) := by
  unfold execGeometryStageBatch
  refine gated_ite (gated_next s) (gated_colBatch _ fun t p x => ?_)
  split <;> simp

@[simp] theorem execGeometryBatchAdmit_gated (steps s) : Gated s (execGeometryBatchAdmit steps s) := by
  unfold execGeometryBatchAdmit
  refine gated_colBatch _ ?_
  intro t p x
  split <;> simp

@[simp] theorem execFlushTilesStored_gated (p s) : Gated s (execFlushTilesStored p s) := by
  unfold execFlushTilesStored
  refine gated_unitStep _ ?_
  split
  · rfl
  split
  · rfl
  dsimp only
  split
  · rfl
  rw [tryClose_time, foldl_time, onPass_time]
  intro t q
  split <;> simp

/-! ### Machine/Raster -/

@[simp] theorem execTileHandout_gated (s) : Gated s (execTileHandout s) := by
  unfold execTileHandout
  refine gated_engineStep ?_
  dsimp only
  split <;> simp

@[simp] theorem execItemPlace_gated (e s) : Gated s (execItemPlace e s) := by
  unfold execItemPlace
  refine gated_unitStep _ ?_
  split <;> simp

@[simp] theorem execTileRecordRun_gated (c sl s) : Gated s (execTileRecordRun c sl s) := by
  unfold execTileRecordRun
  refine gated_unitStep _ ?_
  repeat' split
  all_goals simp

@[simp] theorem execFragmentOutputBlend_gated (c sl s) : Gated s (execFragmentOutputBlend c sl s) := by
  unfold execFragmentOutputBlend
  refine gated_unitStep _ ?_
  repeat' split
  all_goals simp

@[simp] theorem execDiscard_gated (core pipe steps s) : Gated s (execDiscard core pipe steps s) := by
  unfold execDiscard
  refine gated_issue _ _ _ _ ?_
  intro t i
  split <;> simp

@[simp] theorem execStOrdered_gated (core pipe n addr src s) : Gated s (execStOrdered core pipe n addr src s) := by simp [execStOrdered]

@[simp] theorem execTileWriteOut_gated (c sl s) : Gated s (execTileWriteOut c sl s) := by
  unfold execTileWriteOut
  refine gated_unitStep _ ?_
  repeat' split
  all_goals simp

@[simp] theorem execTileWriteOutAccepted_gated (c sl steps s) : Gated s (execTileWriteOutAccepted c sl steps s) := by
  unfold execTileWriteOutAccepted
  refine gated_unitStep _ ?_
  dsimp only
  repeat' split
  all_goals simp

@[simp] theorem execPassEndFinish_gated (p s) : Gated s (execPassEndFinish p s) := by
  unfold execPassEndFinish
  refine gated_unitStep _ ?_
  dsimp only
  repeat' split
  all_goals simp

@[simp] theorem execPreemptGraceExpiry_gated (x s) : Gated s (execPreemptGraceExpiry x s) := by
  unfold execPreemptGraceExpiry
  refine gated_engineStep ?_
  repeat' split
  all_goals simp

@[simp] theorem execPreemptSaveDone_gated (x s) : Gated s (execPreemptSaveDone x s) := by
  unfold execPreemptSaveDone
  refine gated_engineStep ?_
  dsimp only
  repeat' split
  all_goals simp

/-! ### Machine/Graph -/

@[simp] theorem execGraphPublish_gated (f s) : Gated s (execGraphPublish f s) := by
  unfold execGraphPublish
  refine gated_gCmd _ ?_
  dsimp only
  split <;> simp

@[simp] theorem execGraphPatch_gated (f s) : Gated s (execGraphPatch f s) := by simp [execGraphPatch]

@[simp] theorem execGcmdUndefinedOp_gated (f op s) : Gated s (execGcmdUndefinedOp f op s) := by simp [execGcmdUndefinedOp]

@[simp] theorem execGraphOpComplete_gated (f s) : Gated s (execGraphOpComplete f s) := by
  unfold execGraphOpComplete
  refine gated_unitStep _ ?_
  dsimp only
  repeat' split
  all_goals simp

/-! ### Machine/Entries -/

@[simp] theorem execQueueDestroy_gated (f s) : Gated s (execQueueDestroy f s) := by
  unfold execQueueDestroy
  refine gated_qCmd _ ?_
  dsimp only
  split <;> simp

@[simp] theorem execSchDiscard_gated (h n s) : Gated s (execSchDiscard h n s) := by
  unfold execSchDiscard
  refine gated_busWrite _ _ _ ?_
  repeat' split
  all_goals simp

@[simp] theorem execDrainTimeout_gated (c s) : Gated s (execDrainTimeout c s) := by
  unfold execDrainTimeout
  refine gated_unitStep _ ?_
  split <;> simp

@[simp] theorem execTeardownPreemptDone_gated (c s) : Gated s (execTeardownPreemptDone c s) := by
  unfold execTeardownPreemptDone
  refine gated_unitStep _ ?_
  repeat' split
  all_goals simp

@[simp] theorem execTeardownQuarantineEnd_gated (c s) : Gated s (execTeardownQuarantineEnd c s) := by
  unfold execTeardownQuarantineEnd
  refine gated_unitStep _ ?_
  dsimp only
  split
  · split
    · rfl
    · rw [flrEnd_time, foldl_time]
      · simp
      · intro t x
        split <;> simp
  · rfl

@[simp] theorem execEntryFetch_gated (i s) : Gated s (execEntryFetch i s) := by
  unfold execEntryFetch
  refine gated_unitStep _ ?_
  split <;> simp

@[simp] theorem execObjectCacheMissReadDone_gated (i st s) : Gated s (execObjectCacheMissReadDone i st s) := by
  unfold execObjectCacheMissReadDone
  refine gated_unitStep _ ?_
  repeat' split
  all_goals simp

@[simp] theorem execDrawNonIndexed_gated (i misses s) : Gated s (execDrawNonIndexed i misses s) := by simp [execDrawNonIndexed]

@[simp] theorem execDrawIndexed_gated (i misses s) : Gated s (execDrawIndexed i misses s) := by simp [execDrawIndexed]

@[simp] theorem execDrawIndirect_gated (i misses s) : Gated s (execDrawIndirect i misses s) := by simp [execDrawIndirect]

@[simp] theorem execBinPassBegin_gated (i misses s) : Gated s (execBinPassBegin i misses s) := by simp [execBinPassBegin]

@[simp] theorem execBinPassEnd_gated (i misses s) : Gated s (execBinPassEnd i misses s) := by simp [execBinPassEnd]

@[simp] theorem execDispatchDirect_gated (i misses s) : Gated s (execDispatchDirect i misses s) := by simp [execDispatchDirect]

@[simp] theorem execDispatchIndirect_gated (i misses s) : Gated s (execDispatchIndirect i misses s) := by simp [execDispatchIndirect]

@[simp] theorem execDispatchResident_gated (i misses s) : Gated s (execDispatchResident i misses s) := by simp [execDispatchResident]

@[simp] theorem execAccordCommand_gated (i misses s) : Gated s (execAccordCommand i misses s) := by simp [execAccordCommand]

@[simp] theorem execCopy_gated (i misses s) : Gated s (execCopy i misses s) := by simp [execCopy]

@[simp] theorem execFill_gated (i misses s) : Gated s (execFill i misses s) := by simp [execFill]

@[simp] theorem execPressDeflateCompress_gated (i misses s) : Gated s (execPressDeflateCompress i misses s) := by simp [execPressDeflateCompress]

@[simp] theorem execPressPf1Compress_gated (i misses s) : Gated s (execPressPf1Compress i misses s) := by simp [execPressPf1Compress]

@[simp] theorem execPressDeflateDecompress_gated (i misses s) : Gated s (execPressDeflateDecompress i misses s) := by
  simp [execPressDeflateDecompress]

@[simp] theorem execPressPf1Decompress_gated (i misses s) : Gated s (execPressPf1Decompress i misses s) := by simp [execPressPf1Decompress]

@[simp] theorem execFence_gated (i misses s) : Gated s (execFence i misses s) := by simp [execFence]

@[simp] theorem execWaitQueueSequence_gated (i misses s) : Gated s (execWaitQueueSequence i misses s) := by simp [execWaitQueueSequence]

@[simp] theorem execWaitMemoryValue_gated (i misses s) : Gated s (execWaitMemoryValue i misses s) := by simp [execWaitMemoryValue]

@[simp] theorem execGraphLaunch_gated (i misses s) : Gated s (execGraphLaunch i misses s) := by simp [execGraphLaunch]

@[simp] theorem execSeqStep_gated (i misses s) : Gated s (execSeqStep i misses s) := by simp [execSeqStep]

@[simp] theorem execQueryContextUtil_gated (i misses s) : Gated s (execQueryContextUtil i misses s) := by simp [execQueryContextUtil]

@[simp] theorem execQueryContextMemory_gated (i misses s) : Gated s (execQueryContextMemory i misses s) := by simp [execQueryContextMemory]

@[simp] theorem execQueryTimestamp_gated (i misses s) : Gated s (execQueryTimestamp i misses s) := by simp [execQueryTimestamp]

@[simp] theorem execQueryQueueState_gated (i misses s) : Gated s (execQueryQueueState i misses s) := by simp [execQueryQueueState]

@[simp] theorem execContextTeardownKill_gated (i misses s) : Gated s (execContextTeardownKill i misses s) := by simp [execContextTeardownKill]

@[simp] theorem execContextTeardownDrain_gated (i misses s) : Gated s (execContextTeardownDrain i misses s) := by simp [execContextTeardownDrain]

@[simp] theorem execCommandStart_gated (x s) : Gated s (execCommandStart x s) := by
  unfold execCommandStart
  refine gated_unitStep _ ?_
  repeat' split
  all_goals simp

@[simp] theorem execCommandFinish_gated (t s) : Gated s (execCommandFinish t s) := by
  unfold execCommandFinish
  refine gated_unitStep _ ?_
  repeat' split
  all_goals simp

@[simp] theorem execGraphNodeFinish_gated (l n s) : Gated s (execGraphNodeFinish l n s) := by
  unfold execGraphNodeFinish
  refine gated_unitStep _ ?_
  split <;> simp

@[simp] theorem execDbFenceCi_gated (f i ci s) : Gated s (execDbFenceCi f i ci s) := by simp [execDbFenceCi]

@[simp] theorem execIndirectArgsReadDone_gated (t s) : Gated s (execIndirectArgsReadDone t s) := by
  unfold execIndirectArgsReadDone
  refine gated_unitStep _ ?_
  dsimp only
  repeat' split
  all_goals simp

/-! ### Machine/Seq -/

@[simp] theorem execObjectDestroy_gated (f rsvd s) : Gated s (execObjectDestroy f rsvd s) := by
  unfold execObjectDestroy
  refine gated_oCmd _ ?_
  dsimp only
  repeat' split
  all_goals simp

@[simp] theorem execSeqAdmit_gated (f s) : Gated s (execSeqAdmit f s) := by
  unfold execSeqAdmit
  refine gated_sCmd _ ?_
  split <;> simp

@[simp] theorem execSeqAdmitReadDone_gated (f s) : Gated s (execSeqAdmitReadDone f s) := by
  unfold execSeqAdmitReadDone
  refine gated_unitStep _ ?_
  dsimp only
  repeat' split
  all_goals simp

@[simp] theorem execSeqCancel_gated (f s) : Gated s (execSeqCancel f s) := by
  unfold execSeqCancel
  refine gated_slotCmd _ ?_
  intro i x
  split <;> simp

@[simp] theorem execSeqHold_gated (f s) : Gated s (execSeqHold f s) := by
  unfold execSeqHold
  refine gated_slotCmd _ ?_
  intro i x
  split <;> simp

@[simp] theorem execSeqResume_gated (f s) : Gated s (execSeqResume f s) := by
  unfold execSeqResume
  refine gated_slotCmd _ ?_
  intro i x
  split <;> simp

@[simp] theorem execSeqRelease_gated (f s) : Gated s (execSeqRelease f s) := by
  unfold execSeqRelease
  refine gated_slotCmd _ ?_
  intro i x
  split <;> simp

@[simp] theorem execSeqAddPages_gated (f s) : Gated s (execSeqAddPages f s) := by simp [execSeqAddPages]

@[simp] theorem execSeqRemovePages_gated (f s) : Gated s (execSeqRemovePages f s) := by simp [execSeqRemovePages]

@[simp] theorem execSeqScmdUndefinedOp_gated (f op s) : Gated s (execSeqScmdUndefinedOp f op s) := by simp [execSeqScmdUndefinedOp]

@[simp] theorem execSeqKvPoolWrite_gated (f v s) : Gated s (execSeqKvPoolWrite f v s) := by simp [execSeqKvPoolWrite]

@[simp] theorem execSeqFormation_gated (t s) : Gated s (execSeqFormation t s) := by
  unfold execSeqFormation
  refine gated_unitStep _ ?_
  dsimp only
  repeat' split
  all_goals simp (disch := assumption) [time_of_eq_mk]

@[simp] theorem execSeqHarvest_gated (t s) : Gated s (execSeqHarvest t s) := by
  unfold execSeqHarvest
  refine gated_unitStep _ ?_
  dsimp only
  repeat' split
  all_goals simp

@[simp] theorem execSeqEvtCi_gated (f v s) : Gated s (execSeqEvtCi f v s) := by simp [execSeqEvtCi]

@[simp] theorem execSlotPageRelease_gated (i s) : Gated s (execSlotPageRelease i s) := by
  unfold execSlotPageRelease
  refine gated_unitStep _ ?_
  repeat' split
  all_goals simp

@[simp] theorem execSlotReleaseAcksDone_gated (i s) : Gated s (execSlotReleaseAcksDone i s) := by
  unfold execSlotReleaseAcksDone
  refine gated_unitStep _ ?_
  split <;> simp

/-! ### Machine/Display -/

@[simp] theorem execDspCommit_gated (x s) : Gated s (execDspCommit x s) := by simp [execDspCommit]

@[simp] theorem execDspCommitCancel_gated (x s) : Gated s (execDspCommitCancel x s) := by simp [execDspCommitCancel]

@[simp] theorem execLatchPoint_gated (x s) : Gated s (execLatchPoint x s) := by simp [execLatchPoint]

@[simp] theorem execPipeLineFetch_gated (p s) : Gated s (execPipeLineFetch p s) := by simp [execPipeLineFetch]

@[simp] theorem execScanoutLine_gated (x s) : Gated s (execScanoutLine x s) := by simp [execScanoutLine]

@[simp] theorem execWritebackLine_gated (x s) : Gated s (execWritebackLine x s) := by simp [execWritebackLine]

@[simp] theorem execHpdPlug_gated (n s) : Gated s (execHpdPlug n s) := by simp [execHpdPlug]

@[simp] theorem execHpdUnplug_gated (n s) : Gated s (execHpdUnplug n s) := by simp [execHpdUnplug]

@[simp] theorem execHpdIrqPulse_gated (n lost s) : Gated s (execHpdIrqPulse n lost s) := by simp [execHpdIrqPulse]

@[simp] theorem execDspOutCtlWrite_gated (n v s) : Gated s (execDspOutCtlWrite n v s) := by simp [execDspOutCtlWrite]

@[simp] theorem execLinkTrainingDone_gated (n ok s) : Gated s (execLinkTrainingDone n ok s) := by simp [execLinkTrainingDone]

@[simp] theorem execAuxNativeRead_gated (n addr len s) : Gated s (execAuxNativeRead n addr len s) := by simp [execAuxNativeRead]

@[simp] theorem execAuxNativeWrite_gated (n addr len s) : Gated s (execAuxNativeWrite n addr len s) := by simp [execAuxNativeWrite]

@[simp] theorem execAuxI2cRead_gated (n addr len s) : Gated s (execAuxI2cRead n addr len s) := by simp [execAuxI2cRead]

@[simp] theorem execAuxI2cWrite_gated (n addr len s) : Gated s (execAuxI2cWrite n addr len s) := by simp [execAuxI2cWrite]

@[simp] theorem execAuxReply_gated (n reply data count s) : Gated s (execAuxReply n reply data count s) := by simp [execAuxReply]

@[simp] theorem execAuxTimeout_gated (n s) : Gated s (execAuxTimeout n s) := by simp [execAuxTimeout]

/-! ### Machine/Press -/

@[simp] theorem execPressCompressSlice_gated (t steps s) : Gated s (execPressCompressSlice t steps s) := by
  unfold execPressCompressSlice
  refine gated_unitStep _ ?_
  split <;> simp

@[simp] theorem execPressDecompressSlice_gated (t limit steps s) : Gated s (execPressDecompressSlice t limit steps s) := by
  unfold execPressDecompressSlice
  refine gated_unitStep _ ?_
  dsimp only
  repeat' split
  all_goals simp

/-! ### Machine/Folio -/

@[simp] theorem execFolBankWrite_gated (c b v s) : Gated s (execFolBankWrite c b v s) := by simp [execFolBankWrite]

@[simp] theorem execFolHandoverDrained_gated (c b s) : Gated s (execFolHandoverDrained c b s) := by simp [execFolHandoverDrained]

@[simp] theorem execFolHandoverComplete_gated (c b s) : Gated s (execFolHandoverComplete c b s) := by simp [execFolHandoverComplete]

@[simp] theorem execFolWindowWrite_gated (off v wide lost s) : Gated s (execFolWindowWrite off v wide lost s) := by simp [execFolWindowWrite]

@[simp] theorem execFolSetAliasWrite_gated (off v wide lost s) : Gated s (execFolSetAliasWrite off v wide lost s) := by simp [execFolSetAliasWrite]

@[simp] theorem execFolClearAliasWrite_gated (off v wide lost s) : Gated s (execFolClearAliasWrite off v wide lost s) := by
  simp [execFolClearAliasWrite]

/-! ### Machine/Hif -/

@[simp] theorem execBar2Read_gated (f o n s) : Gated s (execBar2Read f o n s) := by simp [execBar2Read]

@[simp] theorem execBar2Write_gated (f o data s) : Gated s (execBar2Write f o data s) := by simp [execBar2Write]

@[simp] theorem execDeviceReadCompletion_gated (l e s) : Gated s (execDeviceReadCompletion l e s) := by simp [execDeviceReadCompletion]

@[simp] theorem execMsixPendingSend_gated (f v s) : Gated s (execMsixPendingSend f v s) := by simp [execMsixPendingSend]

@[simp] theorem execPcieConfigRequest_gated (f r s) : Gated s (execPcieConfigRequest f r s) := by simp [execPcieConfigRequest]

@[simp] theorem execResizableBarControlWrite_gated (vf log2 s) : Gated s (execResizableBarControlWrite vf log2 s) := by
  simp [execResizableBarControlWrite]

@[simp] theorem execL0pWindow_gated (up down granted s) : Gated s (execL0pWindow up down granted s) := by simp [execL0pWindow]

@[simp] theorem execL1IdleExpiry_gated (granted s) : Gated s (execL1IdleExpiry granted s) := by simp [execL1IdleExpiry]

@[simp] theorem execWakeEvent_gated (code detail s) : Gated s (execWakeEvent code detail s) := by simp [execWakeEvent]

@[simp] theorem execVfFlr_gated (f s) : Gated s (execVfFlr f s) := by simp [execVfFlr]

@[simp] theorem execVfEnableClear_gated (s) : Gated s (execVfEnableClear s) := by simp [execVfEnableClear]

@[simp] theorem execPfFlr_gated (s) : Gated s (execPfFlr s) := by simp [execPfFlr]

@[simp] theorem execHifVfWinWrite_gated (f v s) : Gated s (execHifVfWinWrite f v s) := by simp [execHifVfWinWrite]

/-! ### Machine/Reuse -/

@[simp] theorem execTruBump_gated (f s) : Gated s (execTruBump f s) := by
  unfold execTruBump
  refine gated_truCmd _ ?_
  split <;> simp

@[simp] theorem execTruInvalidate_gated (f s) : Gated s (execTruInvalidate f s) := by simp [execTruInvalidate]

@[simp] theorem execTruCmdUndefinedOp_gated (f op s) : Gated s (execTruCmdUndefinedOp f op s) := by simp [execTruCmdUndefinedOp]

@[simp] theorem execTruSlotCfgWrite_gated (sl v s) : Gated s (execTruSlotCfgWrite sl v s) := by simp [execTruSlotCfgWrite]

@[simp] theorem execLoadTermReadDone_gated (p s) : Gated s (execLoadTermReadDone p s) := by
  unfold execLoadTermReadDone
  refine gated_unitStep _ ?_
  dsimp only
  repeat' split
  all_goals simp

@[simp] theorem execReuseTileLookup_gated (p ecc s) : Gated s (execReuseTileLookup p ecc s) := by
  unfold execReuseTileLookup
  refine gated_unitStep _ ?_
  repeat' split
  all_goals simp

@[simp] theorem execReuseTileCopy_gated (c p s) : Gated s (execReuseTileCopy c p s) := by
  unfold execReuseTileCopy
  refine gated_unitStep _ ?_
  repeat' split
  all_goals simp

@[simp] theorem execRuProbe_gated (core pipe r d ecc s) : Gated s (execRuProbe core pipe r d ecc s) := by
  unfold execRuProbe
  refine gated_ite (gated_next s) (gated_issue _ _ _ _ fun t i => ?_)
  split
  · simp
  · dsimp only
    split <;> simp (disch := assumption) [time_of_eq_mk]

@[simp] theorem execRuCommit_gated (core pipe d s) : Gated s (execRuCommit core pipe d s) := by
  unfold execRuCommit
  refine gated_ite (gated_next s) (gated_issue _ _ _ _ fun t i => ?_)
  split <;> simp

/-! ### Machine/Ring -/

@[simp] theorem execRingHopTransmit_gated (s) : Gated s (execRingHopTransmit s) := by
  unfold execRingHopTransmit
  refine gated_unitStep _ ?_
  dsimp only
  split
  · rfl
  (repeat' split) <;> simp

@[simp] theorem execRingMessageReceive_gated (s) : Gated s (execRingMessageReceive s) := by
  unfold execRingMessageReceive
  refine gated_unitStep _ ?_
  dsimp only
  repeat' split
  all_goals simp

@[simp] theorem execRingProgressPoll_gated (s) : Gated s (execRingProgressPoll s) := by
  unfold execRingProgressPoll
  refine gated_unitStep _ ?_
  split <;> simp

@[simp] theorem execRingAbortReceive_gated (s) : Gated s (execRingAbortReceive s) := by
  unfold execRingAbortReceive
  refine gated_unitStep _ ?_
  split <;> simp

@[simp] theorem execRingWatchdogExpiry_gated (s) : Gated s (execRingWatchdogExpiry s) := by
  unfold execRingWatchdogExpiry
  refine gated_unitStep _ ?_
  split <;> simp

@[simp] theorem execSeqRingCfgWrite_gated (v s) : Gated s (execSeqRingCfgWrite v s) := by simp [execSeqRingCfgWrite]

/-! ### Machine/Uap -/

@[simp] theorem execUapFlitReceive_gated (p raw s) : Gated s (execUapFlitReceive p raw s) := by simp [execUapFlitReceive]

@[simp] theorem execUapFlitTransmit_gated (p s) : Gated s (execUapFlitTransmit p s) := by simp [execUapFlitTransmit]

@[simp] theorem execUapReplayTimer_gated (p s) : Gated s (execUapReplayTimer p s) := by simp [execUapReplayTimer]

@[simp] theorem execUapTrainingComplete_gated (p ok reversed polarity s) : Gated s (execUapTrainingComplete p ok reversed polarity s) := by
  simp [execUapTrainingComplete]

@[simp] theorem execUapCtlEnWrite_gated (p en s) : Gated s (execUapCtlEnWrite p en s) := by simp [execUapCtlEnWrite]

@[simp] theorem execUapSleepReq_gated (p s) : Gated s (execUapSleepReq p s) := by simp [execUapSleepReq]

@[simp] theorem execUapWake_gated (p s) : Gated s (execUapWake p s) := by simp [execUapWake]

@[simp] theorem execUapWakePatternDetect_gated (p s) : Gated s (execUapWakePatternDetect p s) := by simp [execUapWakePatternDetect]

/-! ### Machine/Power -/

@[simp] theorem execPwrDomCtlWrite_gated (d v s) : Gated s (execPwrDomCtlWrite d v s) := by simp [execPwrDomCtlWrite]

@[simp] theorem execDomainQuiesced_gated (d s) : Gated s (execDomainQuiesced d s) := by
  unfold execDomainQuiesced
  refine gated_powered ?_
  split <;> simp

@[simp] theorem execDomainDownDone_gated (d s) : Gated s (execDomainDownDone d s) := by
  unfold execDomainDownDone
  refine gated_powered ?_
  split <;> simp

@[simp] theorem execPowerGoodRise_gated (d s) : Gated s (execPowerGoodRise d s) := by
  unfold execPowerGoodRise
  refine gated_powered ?_
  split <;> simp

@[simp] theorem execPowerGoodTimeout_gated (d s) : Gated s (execPowerGoodTimeout d s) := by
  unfold execPowerGoodTimeout
  refine gated_powered ?_
  split <;> simp

@[simp] theorem execDomainUpDone_gated (d s) : Gated s (execDomainUpDone d s) := by
  unfold execDomainUpDone
  refine gated_powered ?_
  split <;> simp

@[simp] theorem execPowerGoodLost_gated (d s) : Gated s (execPowerGoodLost d s) := by simp [execPowerGoodLost]

@[simp] theorem execAutoIdleExpiry_gated (d s) : Gated s (execAutoIdleExpiry d s) := by simp [execAutoIdleExpiry]

@[simp] theorem execPwrPadReleaseWrite_gated (v s) : Gated s (execPwrPadReleaseWrite v s) := by simp [execPwrPadReleaseWrite]

@[simp] theorem execSillageEnter_gated (v s) : Gated s (execSillageEnter v s) := by simp [execSillageEnter]

@[simp] theorem execSillageEntryDone_gated (s) : Gated s (execSillageEntryDone s) := by simp [execSillageEntryDone]

@[simp] theorem execSillageSample_gated (tj stack tach hpd s) : Gated s (execSillageSample tj stack tach hpd s) := by
  unfold execSillageSample
  refine gated_powered ?_
  dsimp only
  repeat' split
  all_goals simp

@[simp] theorem execWakeSequenceDone_gated (s) : Gated s (execWakeSequenceDone s) := by simp [execWakeSequenceDone]

@[simp] theorem execPowerLoopPeriod_gated (logs s) : Gated s (execPowerLoopPeriod logs s) := by simp [execPowerLoopPeriod]

@[simp] theorem execThermalLoopPeriod_gated (warn fanFault logs s) : Gated s (execThermalLoopPeriod warn fanFault logs s) := by
  simp [execThermalLoopPeriod]

@[simp] theorem execVddFastTrip_gated (amps s) : Gated s (execVddFastTrip amps s) := by simp [execVddFastTrip]

@[simp] theorem execTelemetryWindow_gated (power current mv tj temps tach s) : Gated s (execTelemetryWindow power current mv tj temps tach s) := by
  simp [execTelemetryWindow]

@[simp] theorem execPwrLimitWrite_gated (fan v s) : Gated s (execPwrLimitWrite fan v s) := by simp [execPwrLimitWrite]

/-! ### Machine/Ccx -/

@[simp] theorem execMailboxSend_gated (c word a s) : Gated s (execMailboxSend c word a s) := by
  unfold execMailboxSend
  split
  · exact gated_next s
  · split <;> simp

@[simp] theorem execMailboxReceiveRead_gated (c a s) : Gated s (execMailboxReceiveRead c a s) := by
  unfold execMailboxReceiveRead
  refine gated_ite (gated_next s) (gated_ite ?_ ?_) <;> simp

@[simp] theorem execFwLoad_gated (s) : Gated s (execFwLoad s) := by simp [execFwLoad]

@[simp] theorem execFwLoadDone_gated (s) : Gated s (execFwLoadDone s) := by
  unfold execFwLoadDone
  refine gated_powered ?_
  split <;> simp

@[simp] theorem execCcxWatchdogExpiry_gated (c s) : Gated s (execCcxWatchdogExpiry c s) := by simp [execCcxWatchdogExpiry]

@[simp] theorem execCcxSramEccError_gated (c corrected s) : Gated s (execCcxSramEccError c corrected s) := by simp [execCcxSramEccError]

@[simp] theorem execBasicCommandTake_gated (s) : Gated s (execBasicCommandTake s) := by
  unfold execBasicCommandTake
  refine gated_powered ?_
  repeat' split
  all_goals simp

@[simp] theorem execBasicCommandDone_gated (logs s) : Gated s (execBasicCommandDone logs s) := by
  unfold execBasicCommandDone
  refine gated_powered ?_
  repeat' split
  all_goals simp

@[simp] theorem execBasicUndefinedOpcode_gated (s) : Gated s (execBasicUndefinedOpcode s) := by
  unfold execBasicUndefinedOpcode
  refine gated_powered ?_
  split <;> simp

@[simp] theorem execFwInfo_gated (s) : Gated s (execFwInfo s) := by
  unfold execFwInfo
  refine gated_powered ?_
  split <;> simp

@[simp] theorem execLogConfig_gated (s) : Gated s (execLogConfig s) := by simp [execLogConfig]

@[simp] theorem execSchedulerPickup_gated (s) : Gated s (execSchedulerPickup s) := by
  unfold execSchedulerPickup
  refine gated_powered ?_
  dsimp only
  repeat' split
  all_goals simp

@[simp] theorem execLiaisonRequest_gated (v s) : Gated s (execLiaisonRequest v s) := by simp [execLiaisonRequest]

/-! ### Machine/Policies -/

@[simp] theorem execFePolicy_gated (s) : Gated s (execFePolicy s) := by simp [execFePolicy]

@[simp] theorem execSchPolicy_gated (s) : Gated s (execSchPolicy s) := by simp [execSchPolicy]

@[simp] theorem execScPolicy_gated (s) : Gated s (execScPolicy s) := by simp [execScPolicy]

@[simp] theorem execAcePolicy_gated (s) : Gated s (execAcePolicy s) := by simp [execAcePolicy]

@[simp] theorem execColPolicy_gated (s) : Gated s (execColPolicy s) := by simp [execColPolicy]

@[simp] theorem execRasPolicy_gated (s) : Gated s (execRasPolicy s) := by simp [execRasPolicy]

@[simp] theorem execTruPolicy_gated (s) : Gated s (execTruPolicy s) := by simp [execTruPolicy]

@[simp] theorem execSeqPolicy_gated (s) : Gated s (execSeqPolicy s) := by simp [execSeqPolicy]

@[simp] theorem execMemPolicy_gated (s) : Gated s (execMemPolicy s) := by simp [execMemPolicy]

@[simp] theorem execFolPolicy_gated (s) : Gated s (execFolPolicy s) := by simp [execFolPolicy]

@[simp] theorem execXltPolicy_gated (s) : Gated s (execXltPolicy s) := by simp [execXltPolicy]

@[simp] theorem execIntPolicy_gated (s) : Gated s (execIntPolicy s) := by simp [execIntPolicy]

@[simp] theorem execPrsPolicy_gated (s) : Gated s (execPrsPolicy s) := by simp [execPrsPolicy]

@[simp] theorem execHifPolicy_gated (s) : Gated s (execHifPolicy s) := by simp [execHifPolicy]

@[simp] theorem execUapPolicy_gated (s) : Gated s (execUapPolicy s) := by simp [execUapPolicy]

@[simp] theorem execDspModeSet_gated (m s) : Gated s (execDspModeSet m s) := by simp [execDspModeSet]

@[simp] theorem execPwrProfile_gated (s) : Gated s (execPwrProfile s) := by simp [execPwrProfile]

/-! ### Machine/Boot -/

@[simp] theorem execImageLinkReady_gated (speed width flit s) : Gated s (execImageLinkReady speed width flit s) := by simp [execImageLinkReady]

@[simp] theorem execImageVerifyDone_gated (flashErr speed width flit s) : Gated s (execImageVerifyDone flashErr speed width flit s) := by
  simp [execImageVerifyDone]

@[simp] theorem execSupplyOutOfRange_gated (mv s) : Gated s (execSupplyOutOfRange mv s) := by simp [execSupplyOutOfRange]

@[simp] theorem execJunctionOverTemperature_gated (t s) : Gated s (execJunctionOverTemperature t s) := by simp [execJunctionOverTemperature]

@[simp] theorem execThermtripAssert_gated (tj stack s) : Gated s (execThermtripAssert tj stack s) := by simp [execThermtripAssert]

@[simp] theorem execFlashRead_gated (count s) : Gated s (execFlashRead count s) := by simp [execFlashRead]

@[simp] theorem execFlashProgram_gated (count s) : Gated s (execFlashProgram count s) := by simp [execFlashProgram]

@[simp] theorem execFlashErase_gated (s) : Gated s (execFlashErase s) := by simp [execFlashErase]

@[simp] theorem execFlashUndefinedOp_gated (op s) : Gated s (execFlashUndefinedOp op s) := by simp [execFlashUndefinedOp]

@[simp] theorem flashCmdWrite_gated (s v) : Gated s (flashCmdWrite s v) := by
  unfold flashCmdWrite
  split <;> simp

@[simp] theorem execFlashOpDone_gated (fail s) : Gated s (execFlashOpDone fail s) := by
  unfold execFlashOpDone
  refine gated_powered ?_
  split <;> simp

@[simp] theorem execFlashOpTimeout_gated (s) : Gated s (execFlashOpTimeout s) := by
  unfold execFlashOpTimeout
  refine gated_powered ?_
  split <;> simp

@[simp] theorem execBootFuseRevokeWrite_gated (mask s) : Gated s (execBootFuseRevokeWrite mask s) := by simp [execBootFuseRevokeWrite]

@[simp] theorem execSmbusMailboxWrite_gated (bytes s) : Gated s (execSmbusMailboxWrite bytes s) := by simp [execSmbusMailboxWrite]

@[simp] theorem execSmbusMailboxRead_gated (s) : Gated s (execSmbusMailboxRead s) := by simp [execSmbusMailboxRead]

@[simp] theorem execSmbusTelemetryRead_gated (s) : Gated s (execSmbusTelemetryRead s) := by simp [execSmbusTelemetryRead]

@[simp] theorem execSmbusBootStatusRead_gated (s) : Gated s (execSmbusBootStatusRead s) := by simp [execSmbusBootStatusRead]

/-! ### Machine/Integrity -/

@[simp] theorem execFaultRecordAccept_gated (stuck dead s) : Gated s (execFaultRecordAccept stuck dead s) := by simp [execFaultRecordAccept]

@[simp] theorem execDieRecoveryFeTimeout_gated (s) : Gated s (execDieRecoveryFeTimeout s) := by simp [execDieRecoveryFeTimeout]

@[simp] theorem execRecoveryComplete_gated (n s) : Gated s (execRecoveryComplete n s) := by
  unfold execRecoveryComplete
  refine gated_powered ?_
  split <;> simp

@[simp] theorem execRecoveryWindowExpiry_gated (n s) : Gated s (execRecoveryWindowExpiry n s) := by
  unfold execRecoveryWindowExpiry
  refine gated_powered ?_
  split <;> simp

@[simp] theorem execFaultWindowExpiry_gated (s) : Gated s (execFaultWindowExpiry s) := by
  unfold execFaultWindowExpiry
  refine gated_powered ?_
  split <;> simp

@[simp] theorem execIntFailsafeForce_gated (s) : Gated s (execIntFailsafeForce s) := by simp [execIntFailsafeForce]

@[simp] theorem execIntRecoverPackage_gated (s) : Gated s (execIntRecoverPackage s) := by simp [execIntRecoverPackage]

@[simp] theorem execAutoPackageExpiry_gated (s) : Gated s (execAutoPackageExpiry s) := by simp [execAutoPackageExpiry]

@[simp] theorem execIntHoldWrite_gated (v s) : Gated s (execIntHoldWrite v s) := by simp [execIntHoldWrite]

@[simp] theorem execIntInjectWrite_gated (v s) : Gated s (execIntInjectWrite v s) := by
  unfold execIntInjectWrite
  refine gated_busWrite _ _ _ ?_
  split <;> simp

/-! ### Machine/RegWrite -/

@[simp] theorem feQcmdWrite_gated (f v s) : Gated s (feQcmdWrite f v s) := by
  unfold feQcmdWrite
  split <;> simp

@[simp] theorem feObjCmdWrite_gated (f v s) : Gated s (feObjCmdWrite f v s) := by
  unfold feObjCmdWrite
  split <;> simp

@[simp] theorem schGcmdWrite_gated (f v s) : Gated s (schGcmdWrite f v s) := by
  unfold schGcmdWrite
  split <;> simp

@[simp] theorem scReplayWrite_gated (f v s) : Gated s (scReplayWrite f v s) := by
  unfold scReplayWrite
  split <;> simp

@[simp] theorem truCmdWrite_gated (f v s) : Gated s (truCmdWrite f v s) := by
  unfold truCmdWrite
  split <;> simp

@[simp] theorem seqScmdWrite_gated (f v s) : Gated s (seqScmdWrite f v s) := by
  unfold seqScmdWrite
  split <;> simp

@[simp] theorem l2MaintWrite_gated (v s) : Gated s (l2MaintWrite v s) := by
  unfold l2MaintWrite
  split <;> simp

@[simp] theorem xltInvWrite_gated (f v s) : Gated s (xltInvWrite f v s) := by
  unfold xltInvWrite
  split <;> simp

@[simp] theorem dspCommitWrite_gated (x v s) : Gated s (dspCommitWrite x v s) := by
  unfold dspCommitWrite
  split <;> simp

@[simp] theorem dspAuxWrite_gated (n v s) : Gated s (dspAuxWrite n v s) := by
  unfold dspAuxWrite
  dsimp only
  split <;> simp

@[simp] theorem uapCtlWrite_gated (p v s) : Gated s (uapCtlWrite p v s) :=
  gated_andThen (by simp) fun t => gated_andThen (by simp) fun u => by simp

@[simp] theorem intRecoverWrite_gated (v s) : Gated s (intRecoverWrite v s) := by simp [intRecoverWrite]

@[simp] theorem intFailsafeWrite_gated (v s) : Gated s (intFailsafeWrite v s) := by simp [intFailsafeWrite]

@[simp] theorem sillageWrite_gated (v s) : Gated s (sillageWrite v s) := by simp [sillageWrite]

@[simp] theorem regTo_gated (r w i v words s) : Gated s (regTo r w i v words s) := by
  unfold regTo
  split <;> simp [gated_trigger]

/-- The windows of the PF are behind the power gate too. -/
theorem pfWindow_gated {off v n : Nat} {lost : Bool} {s : State} {o : Out} (h : pfWindow off v n lost s = some o) : Gated s o := by
  unfold pfWindow at h
  dsimp only at h
  split at h
  · cases h; simp
  · cases h; simp
  · cases h; simp
  · split at h
    · cases h; simp
    · cases h

/-- The windows of the PF, or what is done where there is none. -/
theorem gated_pfWindow {f off v n : Nat} {lost : Bool} {s : State} {o : Out} (h : Gated s o) :
    Gated s (match (if f = 0 then pfWindow off v n lost s else none) with | some p => p | none => o) := by
  split
  · next p hp =>
    split at hp
    · exact pfWindow_gated hp
    · cases hp
  · exact h

@[simp] theorem word32_gated (f off v lost s) : Gated s (word32 f off v lost s) := by
  unfold word32
  split
  · exact gated_ite (by simp) (by simp)
  · exact gated_ite (by simp) (gated_pfWindow (gated_next s))

@[simp] theorem word64_gated (f off v lost s) : Gated s (word64 f off v lost s) := by
  have two : Gated s (andThen (word32 f off (v % 2 ^ 32) lost s) (word32 f (off + 4) (v / 2 ^ 32) lost)) :=
    gated_andThen (by simp) fun t => by simp
  unfold word64
  dsimp only
  split
  · exact gated_ite (by simp) two
  · exact gated_pfWindow two

@[simp] theorem execRegisterWrite_gated (f off width value lost s) : Gated s (execRegisterWrite f off width value lost s) := by
  exact gated_ite (gated_next s) (gated_ite (by simp) (gated_ite (by simp) (by simp)))

/-! ### Machine/RegRead -/

@[simp] theorem execHifRateMinRead_gated (f off width s) : Gated s (execHifRateMinRead f off width s) := by simp [execHifRateMinRead]

/-! ### Machine/System -/

@[simp] theorem execRateMonitorWindow_gated (rate s) : Gated s (execRateMonitorWindow rate s) := by simp [execRateMonitorWindow]

@[simp] theorem execAonPllLockLost_gated (s) : Gated s (execAonPllLockLost s) := by simp [execAonPllLockLost]

@[simp] theorem execAonPllLockRegained_gated (s) : Gated s (execAonPllLockRegained s) := by simp [execAonPllLockRegained]

@[simp] theorem execInterferenceWindowEnd_gated (s) : Gated s (execInterferenceWindowEnd s) := by simp [execInterferenceWindowEnd]

/-! ### Machine/Texture -/

@[simp] theorem texRead_time (k a n acc) : (texRead k a n acc).2.2.time = acc.2.time := by
  unfold texRead
  dsimp only
  rw [foldl_snd_snd_time]
  rintro ⟨bs, st, s⟩ l
  dsimp only
  split
  · rfl
  · simp

@[simp] theorem surfaceTexel_time (k m free u v acc) : (surfaceTexel k m free u v acc).2.2.time = acc.2.time := by
  simp [surfaceTexel]

@[simp] theorem texelChans_time (k m free l z u v acc) : (texelChans k m free l z u v acc).2.2.time = acc.2.time := by
  unfold texelChans
  dsimp only
  split <;> simp

@[simp] theorem sampleTexel_time (k m p ref free l z iu iv acc) : (sampleTexel k m p ref free l z iu iv acc).2.2.time = acc.2.time := by
  unfold sampleTexel
  dsimp only
  split <;> split <;> simp

@[simp] theorem filterPlane_time (k m p ref free l linear z u v acc) :
    (filterPlane k m p ref free l linear z u v acc).2.2.time = acc.2.time := by
  unfold filterPlane
  dsimp only
  repeat' split
  all_goals simp

@[simp] theorem filterLevel_time (k m p ref free l linear layer u v w acc) :
    (filterLevel k m p ref free l linear layer u v w acc).2.2.time = acc.2.time := by
  unfold filterLevel
  dsimp only
  repeat' split
  all_goals simp

@[simp] theorem texProbe_time (k m p ref free lod pl acc) : (texProbe k m p ref free lod pl acc).2.2.time = acc.2.time := by
  unfold texProbe
  dsimp only
  repeat' split
  all_goals simp

@[simp] theorem texThread_time (k g m p c src t acc) : (texThread k g m p c src t acc).2.2.time = acc.2.time := by
  unfold texThread
  lift_lets
  extract_lets f0 u acc'
  have hacc : acc'.2.time = acc.2.time := time_freeCtr acc.2 _
  clear_value acc'
  split
  · exact hacc
  · rw [foldl_snd_snd_time]
    · exact hacc
    · simp

/-- The fold over a group's threads: what each receives goes into the group. -/
theorem foldl_texThread_time (k g m p c src) (f : Machine.Group × TexAcc → Nat → Machine.Group) (l : List Nat) (a : Machine.Group × TexAcc) :
    (l.foldl (fun a t => (f a t, (texThread k g m p c src t a.2).2)) a).2.2.time = a.2.2.time := by
  induction l generalizing a with
  | nil => rfl
  | cons t l ih => rw [List.foldl_cons, ih, texThread_time]

@[simp] theorem execTex_gated (core pipe d c im sm lod s) : Gated s (execTex core pipe d c im sm lod s) := by
  unfold execTex
  refine gated_issue _ _ _ _ fun t i => ?_
  dsimp only
  split
  · exact parkAt_time ..
  · split
    · rw [parkAt_time, foldl_texThread_time]
    · rw [put_time, foldl_texThread_time]

/-! ### Every command but the six that follow a pin is behind a gate -/

/-- The commands that follow AON_PGOOD, PERST_N and CORE_PGOOD: they act with AON power off too. -/
def isPinEdge : Instr → Bool
  | .aonPgoodRise | .aonPgoodFall | .perstNAssert | .perstNDeassert .. | .corePgoodRise | .corePgoodFall => true
  | _ => false

theorem exec_gated {c : Instr} (hc : isPinEdge c = false) (s : State) : Gated s (exec c s) := by
  cases c
  case aonPgoodRise | aonPgoodFall | perstNAssert | perstNDeassert | corePgoodRise | corePgoodFall => cases hc
  all_goals simp [exec]

end Sys2Proof.Proofs

/-!
## The time base (O60)
-/

namespace Sys2Proof.Proofs

open Machine Laws

/-- AON power rising starts the time base at 0. -/
theorem aonFresh_time (s on) : (aonFresh s on).time = 0 := by
  rw [aonFresh, rset_time]

/-- The pins leave the time base as it is: their resets keep it. -/
theorem pinEdge_time {c : Instr} {s t : State} (hr : c ≠ .aonPgoodRise) (hf : c ≠ .aonPgoodFall) (hc : isPinEdge c = true)
    (h : exec c s = .next t) : t.time = s.time := by
  cases c
  case aonPgoodRise => exact absurd rfl hr
  case aonPgoodFall => exact absurd rfl hf
  case perstNAssert =>
    cases h
    split
    · rfl
    · split <;> simp
  case perstNDeassert =>
    cases h
    split
    · rfl
    · split
      · simp
      · rw [linkTrain_time]
        split <;> simp
  case corePgoodRise =>
    cases h
    split
    · rfl
    · dsimp only
      split <;> simp
  case corePgoodFall =>
    cases h
    split
    · rfl
    · dsimp only
      split <;> simp
  all_goals cases hc

/-- Settles O60: every command behind a gate keeps the time (`exec_gated`), and so does what PERST_N and CORE_PGOOD reset. That the tick is
the idle step is the model's choice (log 1). -/
theorem timeBase : Obligations.TimeBase := by
  refine ⟨⟨fun c s t hr hf h => ?_, fun s hoff => ?_⟩, fun s hp => ?_⟩
  · cases hc : isPinEdge c
    · exact (exec_gated hc s).time h
    · exact pinEdge_time hr hf hc h
  · refine ⟨_, rfl, ?_⟩
    rw [if_neg (by simp [hoff]), resetDomains_time, aonFresh_time]
  · have hstep : step s = .next (tick s) := by rw [step, hp]
    refine ⟨fun hon => ?_, fun hoff => ?_⟩
    · rw [hstep, tick, if_pos hon]
    · rw [hstep, tick, if_neg (by simp [hoff])]

end Sys2Proof.Proofs

/-!
## A device without AON power (O57)
-/

namespace Sys2Proof.Proofs

open Machine Laws

/-- t differs from s at most in the boot unit's state, there in neither the flash nor AON_PGOOD. -/
def SameButPins (s t : State) : Prop := ∃ f : Boot → Boot, t = onBoot s f ∧ (f s.boot).flash = s.boot.flash ∧ (f s.boot).aonPgood = s.boot.aonPgood

theorem SameButPins.refl (s : State) : SameButPins s s := ⟨id, rfl, rfl, rfl⟩

/-- Without AON power a pin is followed and nothing else happens. -/
theorem pinEdge_dark {c : Instr} {s t : State} (hoff : s.boot.aonPgood = false) (hr : c ≠ .aonPgoodRise) (hc : isPinEdge c = true)
    (h : exec c s = .next t) : SameButPins s t := by
  have hoff' : ¬ s.boot.aonPgood = true := by simp [hoff]
  cases c
  case aonPgoodRise => exact absurd rfl hr
  case aonPgoodFall =>
    cases h
    rw [if_pos hoff']
    exact .refl s
  case perstNAssert =>
    cases h
    split
    · exact .refl s
    · exact ⟨_, rfl, rfl, rfl⟩
  case perstNDeassert =>
    cases h
    split
    · exact .refl s
    · exact ⟨_, rfl, rfl, rfl⟩
  case corePgoodRise =>
    cases h
    split
    · exact .refl s
    · exact ⟨_, if_pos (.inr hoff'), rfl, rfl⟩
  case corePgoodFall =>
    cases h
    split
    · exact .refl s
    · exact ⟨_, rfl, rfl, rfl⟩
  all_goals cases hc

/-- Without AON power no command but its rise does more than to follow a pin. -/
theorem exec_dark {c : Instr} {s t : State} (hoff : s.boot.aonPgood = false) (hr : c ≠ .aonPgoodRise) (h : exec c s = .next t) :
    SameButPins s t := by
  cases hc : isPinEdge c
  · rw [(exec_gated hc s).dark hoff] at h
    cases h
    exact .refl s
  · exact pinEdge_dark hoff hr hc h

theorem dark_of_sameButPins {s t : State} (hs : Safety.dark s) (h : SameButPins s t) : Safety.dark t := by
  obtain ⟨f, rfl, -, hon⟩ := h
  obtain ⟨hoff, hrise, htime, hdom⟩ := hs
  exact ⟨hon.trans hoff, hrise, htime, hdom⟩

/-- Settles O57: an idle step counts nothing, and no command that can wait does more than to follow a pin (`exec_dark`). -/
theorem darkDeviceStaysDark : Obligations.DarkDeviceStaysDark := by
  intro s t hs h
  obtain ⟨hoff, hrise, htime, hdom⟩ := hs
  cases hp : s.pending with
  | nil =>
    have hst : t = s := by
      rw [step, hp] at h
      cases h
      rw [tick, if_neg (by simp [hoff])]
    subst hst
    exact ⟨⟨hoff, hrise, htime, hdom⟩, rfl, rfl, rfl, rfl⟩
  | cons c rest =>
    have hexec : exec c { s with pending := rest } = .next t := by rwa [step, hp] at h
    rw [hp, List.mem_cons, not_or] at hrise
    have hpins := exec_dark (s := { s with pending := rest }) hoff (Ne.symm hrise.1) hexec
    refine ⟨dark_of_sameButPins (s := { s with pending := rest }) ⟨hoff, hrise.2, htime, hdom⟩ hpins, ?_⟩
    obtain ⟨f, rfl, hflash, -⟩ := hpins
    exact ⟨rfl, rfl, hflash, rfl⟩

end Sys2Proof.Proofs

/-!
## The state after reset (O2)
-/

namespace Sys2Proof.Proofs

open Machine Laws

/-- No copy is listed in the register file after reset: each reads its reset value. -/
theorem rget_reset (r : Reg) (w i : Nat) : rget State.reset r w i = r.reset w i := by
  unfold rget
  split <;> rfl

theorem fget_reset (f : Fld) (w i : Nat) : fget State.reset f w i = bits (f.reg.reset w i) f.hi f.lo := by
  rw [fget, rget_reset]

/-- Settles O2. That reset is the moment after AON power-on with PERST_N deasserted, and that a register without a stated value resets
to 0, is the model's choice (log 6). -/
theorem resetState : Obligations.ResetState := by
  have hdom : ∀ d, d < 50 → domNow State.reset d = if d = 41 ∨ (32 ≤ d ∧ d ≤ 39) then 0 else 2 := by
    simp only [domNow, fget_reset]
    decide
  refine ⟨rfl, rfl, rfl, hdom, ?_, ?_, ?_, ?_, ?_, ?_, rget_reset⟩
  case refine_4 => rw [failsafe, flag, fget_reset]; decide
  all_goals rw [fget_reset]; decide

end Sys2Proof.Proofs

/-!
## Switched domains and AON power (O58)
-/

namespace Sys2Proof.Proofs

open Machine Laws

/-! ### Switched domains -/

theorem domNow_domSet_same (s : State) {d : Nat} (n : Nat) (hd : d < 64) : domNow (domSet s d n) d = n % 4 := by
  have hPending : fget (domSet s d n) F.PWR_DOM_CTL.NOW 0 d
      = fget (fset (fset s F.PWR_DOM_CTL.NOW n 0 d) F.PWR_DOM_CTL.TARGET n 0 d) F.PWR_DOM_CTL.NOW 0 d :=
    fget_fset_below (by decide) hd rfl (by decide) (by decide) (by decide)
  have hTarget : fget (fset (fset s F.PWR_DOM_CTL.NOW n 0 d) F.PWR_DOM_CTL.TARGET n 0 d) F.PWR_DOM_CTL.NOW 0 d
      = fget (fset s F.PWR_DOM_CTL.NOW n 0 d) F.PWR_DOM_CTL.NOW 0 d :=
    fget_fset_above (by decide) hd rfl (by decide) (by decide) (by decide)
  rw [domNow, hPending, hTarget, fget_fset_same (by decide) hd (by decide) (by decide)]
  rfl

theorem domNow_domSet_ne (s : State) {d e : Nat} (n : Nat) (h : e ≠ d) : domNow (domSet s d n) e = domNow s e := by
  simp [domNow, domSet, fget_fset_ne, h]

theorem rget_domSet_ne (s : State) (d n : Nat) {r : Reg} (hr : r ≠ .PWR_DOM_CTL) (w i : Nat) : rget (domSet s d n) r w i = rget s r w i := by
  have hne (t : State) (f : Fld) (hf : f.reg = .PWR_DOM_CTL) (v : Nat) : rget (fset t f v 0 d) r w i = rget t r w i :=
    rget_rset_ne fun h => hr (h.1.trans hf)
  rw [domSet, hne _ _ rfl, hne _ _ rfl, hne _ _ rfl]

/-- The domains of a list are set, each to what g says of it. -/
def domSets (s : State) (l : List Nat) (g : Nat → Nat) : State := l.foldl (fun s d => domSet s d (g d)) s

theorem domNow_domSets (g : Nat → Nat) {l : List Nat} (hl : ∀ d ∈ l, d < 64) (s : State) (e : Nat) :
    domNow (domSets s l g) e = if e ∈ l then g e % 4 else domNow s e := by
  induction l generalizing s with
  | nil => rfl
  | cons d l ih =>
    have htail := ih (fun x hx => hl x (List.mem_cons_of_mem d hx)) (domSet s d (g d))
    rw [domSets, List.foldl_cons, ← domSets, htail]
    by_cases hel : e ∈ l
    · rw [if_pos hel, if_pos (List.mem_cons_of_mem d hel)]
    · by_cases hed : e = d
      · subst hed
        rw [if_neg hel, if_pos List.mem_cons_self, domNow_domSet_same s _ (hl e List.mem_cons_self)]
      · rw [if_neg hel, if_neg (by simp [hed, hel]), domNow_domSet_ne s _ hed]

theorem rget_domSets (g : Nat → Nat) (l : List Nat) (s : State) {r : Reg} (hr : r ≠ .PWR_DOM_CTL) (w i : Nat) :
    rget (domSets s l g) r w i = rget s r w i := by
  induction l generalizing s with
  | nil => rfl
  | cons d l ih => rw [domSets, List.foldl_cons, ← domSets, ih, rget_domSet_ne s d _ hr]

/-- A part of the state that no register write changes is as it was when domains are set. -/
theorem domSets_frame {α : Type} {p : State → α} (hp : ∀ s f v w i, p (fset s f v w i) = p s) (s : State) (l : List Nat) (g : Nat → Nat) :
    p (domSets s l g) = p s := by
  induction l generalizing s with
  | nil => rfl
  | cons d l ih => rw [domSets, List.foldl_cons, ← domSets, ih, domSet, hp, hp, hp]

/-- What the domains of R510 wait for. -/
def domainsUp (s : State) : Bool := !s.boot.perst && s.boot.corePgood && !recoveryId s

theorem resetDomains_eq (s : State) : resetDomains s = domSets s (List.range 50) fun d => if domainsUp s && resetOn d then 0 else 2 := rfl

theorem domNow_resetDomains (s : State) {d : Nat} (hd : d < 50) : domNow (resetDomains s) d = if domainsUp s && resetOn d then 0 else 2 := by
  rw [resetDomains_eq, domNow_domSets _ (fun x hx => by rw [List.mem_range] at hx; omega), if_pos (List.mem_range.2 hd)]
  split <;> rfl

theorem rget_resetDomains (s : State) {r : Reg} (hr : r ≠ .PWR_DOM_CTL) (w i : Nat) : rget (resetDomains s) r w i = rget s r w i :=
  rget_domSets _ _ s hr w i

theorem resetDomains_frame {α : Type} {p : State → α} (hp : ∀ s f v w i, p (fset s f v w i) = p s) (s : State) : p (resetDomains s) = p s :=
  domSets_frame hp s _ _

/-! ### AON power -/

/-- A fall of AON power finds the flash in whatever an operation in progress leaves of it. -/
def flashLost (s : State) : State := match s.boot.op with | some o => flashFree s (flashNow o).1 (flashNow o).2 | none => s

theorem flashLost_none {s : State} (h : s.boot.op = none) : flashLost s = s := by rw [flashLost, h]

/-- A part of the state that takes neither free values nor the boot unit's state is as it was. -/
theorem flashLost_frame {α : Type} {p : State → α} (hfree : ∀ s n, p (takeFree s n).2 = p s) (hboot : ∀ s f, p (onBoot s f) = p s) (s : State) :
    p (flashLost s) = p s := by
  have hfold : ∀ (l : List Nat) (x : List Byte × State),
      p (l.foldl (fun (x : List Byte × State) _ => let y := takeFree x.2 256; (x.1 ++ natLe y.1 1, y.2)) x).2 = p x.2 := by
    intro l
    induction l with
    | nil => exact fun _ => rfl
    | cons a l ih => exact fun x => (ih _).trans (hfree x.2 256)
  unfold flashLost
  split
  · rw [flashFree, hboot, hfold]
  · rfl

theorem exec_aonPgoodFall {s : State} (hon : Safety.powered s) :
    exec .aonPgoodFall s = .next (domSets (aonFresh (flashLost s) false) (List.range 50) fun _ => 2) := by
  change execAonPgoodFall s = _
  rw [execAonPgoodFall, if_neg (by simp [hon])]
  rfl

theorem exec_aonPgoodRise {s : State} (hoff : s.boot.aonPgood = false) : exec .aonPgoodRise s = .next (resetDomains (aonFresh s true)) := by
  change execAonPgoodRise s = _
  rw [execAonPgoodRise, if_neg (by simp [hoff])]

theorem domNow_allOff (s : State) {d : Nat} (hd : d < 50) : domNow (domSets s (List.range 50) fun _ => 2) d = 2 := by
  rw [domNow_domSets _ (fun x hx => by rw [List.mem_range] at hx; omega), if_pos (List.mem_range.2 hd)]

theorem aonFresh_boot (s : State) (on : Bool) : (aonFresh s on).boot =
    { flash := s.boot.flash, density := s.boot.density, corePgood := s.boot.corePgood, perst := s.boot.perst, hpd := s.boot.hpd,
      fuseKeys := s.boot.fuseKeys, aonPgood := on } := by
  rw [aonFresh, rset_boot]

theorem aonFresh_pending (s : State) (on : Bool) : (aonFresh s on).pending = s.pending := by rw [aonFresh, rset_pending]

theorem aonFresh_hostMem (s : State) (on : Bool) : (aonFresh s on).hostMem = s.hostMem := by rw [aonFresh, rset_hostMem]

theorem aonFresh_mem (s : State) (on : Bool) : (aonFresh s on).mem = State.reset.mem := by rw [aonFresh, rset_mem]; rfl

/-- Settles O58. The canonical form of memories and register file is the model's (log 3). -/
theorem invariantsStart : Obligations.InvariantsStart := by
  refine ⟨⟨fun s hon hrise => ⟨_, exec_aonPgoodFall hon, ?_, ?_, ?_, fun d hd => domNow_allOff _ hd⟩, fun h => absurd h.1 (by decide)⟩, ?_⟩
  · rw [domSets_frame (p := fun s => s.boot) fset_boot, aonFresh_boot]
  · rw [domSets_frame (p := fun s => s.pending) fset_pending, aonFresh_pending,
      flashLost_frame (p := fun s => s.pending) takeFree_pending onBoot_pending]
    exact hrise
  · rw [domSets_frame (p := fun s => s.time) fset_time, aonFresh_time]
  · exact ⟨by decide, by decide, by decide, by decide, by decide, by decide, by decide⟩

end Sys2Proof.Proofs

/-!
## Power-on, the image and the pins (O53)
-/

namespace Sys2Proof.Proofs

open Machine Laws

/-! ### Package-level reset -/

/-- t reads register r as s does, and stands at the same level of PERST_N. -/
def KeepsReg (r : Reg) (s t : State) : Prop := (∀ w i, rget t r w i = rget s r w i) ∧ t.boot.perst = s.boot.perst

theorem KeepsReg.refl (r : Reg) (s : State) : KeepsReg r s s := ⟨fun _ _ => rfl, rfl⟩

theorem KeepsReg.trans {r : Reg} {s t u : State} (h : KeepsReg r s t) (h' : KeepsReg r t u) : KeepsReg r s u :=
  ⟨fun w i => (h'.1 w i).trans (h.1 w i), h'.2.trans h.2⟩

theorem keepsReg_of_eq {r : Reg} {s t : State} (hregs : t.regs = s.regs) (hpin : t.boot.perst = s.boot.perst) : KeepsReg r s t :=
  ⟨fun w i => rget_congr hregs r w i, hpin⟩

theorem keepsReg_rset {r q : Reg} (h : r ≠ q) (s : State) (v w i : Nat) : KeepsReg r s (rset s q v w i) :=
  ⟨fun _ _ => rget_rset_ne fun e => h e.1, by rw [rset_boot]⟩

theorem keepsReg_fset {r : Reg} {f : Fld} (h : r ≠ f.reg) (s : State) (v w i : Nat) : KeepsReg r s (fset s f v w i) := keepsReg_rset h ..

theorem keepsReg_ite {r : Reg} {s t u : State} {c : Prop} [Decidable c] (ht : KeepsReg r s t) (hu : KeepsReg r s u) :
    KeepsReg r s (if c then t else u) := by
  split
  · exact ht
  · exact hu

theorem keepsReg_foldl {α : Type} {r : Reg} {f : State → α → State} (h : ∀ s a, KeepsReg r s (f s a)) (l : List α) (s : State) :
    KeepsReg r s (l.foldl f s) := by
  induction l generalizing s with
  | nil => exact .refl r s
  | cons a l ih => exact (h s a).trans (ih _)

theorem KeepsReg.fget {s t : State} {f : Fld} (h : KeepsReg f.reg s t) (w i : Nat) : fget t f w i = fget s f w i := by
  rw [Machine.fget, Machine.fget, h.1]

theorem keepsReg_onCcx {r : Reg} (s : State) (f : Ccx → Ccx) : KeepsReg r s (onCcx s f) := keepsReg_of_eq rfl rfl

/-- Registers that the end of a package-level reset writes: the link's, the ports' and the channels'. -/
def resetTail : List Reg := [.HIF_LINK, .UAP_STATUS, .MBX_TX0_STATUS, .MBX_CMD_STATUS, .MBX_RX, .MBX_RX_STATUS]

section
variable {r : Reg} (hr : r ∉ resetTail)
include hr

theorem ne_of_resetTail {q : Reg} (hq : q ∈ resetTail) : r ≠ q := fun h => hr (h ▸ hq)

theorem keepsReg_linkWake (s : State) : KeepsReg r s (linkWake s) := keepsReg_fset (ne_of_resetTail hr (by decide)) ..

theorem keepsReg_linkSend (s : State) (n : Nat) : KeepsReg r s (linkSend s n) := by
  unfold linkSend
  split
  · refine keepsReg_ite ?_ (keepsReg_of_eq rfl rfl)
    refine .trans ?_ (keepsReg_linkWake hr _)
    refine .trans ?_ (keepsReg_fset (ne_of_resetTail hr (by decide)) ..)
    exact keepsReg_of_eq rfl rfl
  · exact keepsReg_linkWake hr s
  · exact keepsReg_linkWake hr s
  · exact keepsReg_linkWake hr s
  · exact .refl r s

theorem keepsReg_msixRaise (s : State) (f v : Nat) : KeepsReg r s (msixRaise s f v) := by
  unfold msixRaise
  refine keepsReg_ite (.refl r s) (keepsReg_ite (.refl r s) (keepsReg_ite ?_ (keepsReg_of_eq rfl rfl)))
  exact (keepsReg_linkSend hr s 4).trans (keepsReg_of_eq rfl rfl)

theorem keepsReg_chSenderIrq (s : State) (c : Nat) : KeepsReg r s (chSenderIrq s c) := by
  unfold chSenderIrq
  split
  · exact keepsReg_ite (keepsReg_msixRaise hr ..) (.refl r s)
  · exact .refl r s

theorem keepsReg_chAborted (s : State) (c : Nat) : KeepsReg r s (chAborted s c) := by
  unfold chAborted
  refine keepsReg_ite (.trans ?_ (keepsReg_chSenderIrq hr ..)) (keepsReg_ite (.trans ?_ (keepsReg_chSenderIrq hr ..)) (keepsReg_of_eq rfl rfl))
  · exact keepsReg_fset (ne_of_resetTail hr (by decide)) ..
  · exact keepsReg_fset (ne_of_resetTail hr (by decide)) ..

theorem keepsReg_chSet (s : State) (c word : Nat) (full v7 : Bool) : KeepsReg r s (chSet s c word full v7) := by
  unfold chSet
  dsimp only
  split
  · exact (keepsReg_onCcx ..).trans (keepsReg_fset (ne_of_resetTail hr (by decide)) ..)
  · split
    · exact (keepsReg_onCcx ..).trans (keepsReg_fset (ne_of_resetTail hr (by decide)) ..)
    · have hrx : r ≠ .MBX_RX := ne_of_resetTail hr (by decide)
      exact ((keepsReg_onCcx ..).trans (keepsReg_rset hrx ..)).trans (keepsReg_fset (ne_of_resetTail hr (by decide)) ..)

theorem keepsReg_resetChannels (old : Tbl Channel) (s : State) : KeepsReg r s (resetChannels old s) :=
  keepsReg_foldl (fun t _ => keepsReg_ite (.refl r t) (keepsReg_ite (keepsReg_chAborted hr ..) (keepsReg_chSet hr ..))) old s

theorem keepsReg_linkAgain (s : State) (old : Nat) : KeepsReg r s (linkAgain s old) := by
  have hlink : r ≠ .HIF_LINK := ne_of_resetTail hr (by decide)
  unfold linkAgain
  refine .trans (t := linkStart s) (keepsReg_of_eq rfl rfl) (keepsReg_ite (.refl r _) ?_)
  exact ((keepsReg_rset hlink ..).trans (keepsReg_fset hlink ..)).trans (keepsReg_fset hlink ..)

end

/-- What a package-level reset keeps of the state. -/
def packageKept (s : State) : State :=
  { time := s.time, freeCtr := s.freeCtr, pending := s.pending, regs := (keepRegs s (keptInPackage s)).regs, hostMem := s.hostMem,
    boot := s.boot, hif := { sent := s.hif.sent }, dsp := { streams := s.dsp.streams.filter fun e => heldStream s e.1 } }

/-- The held ports' state after a package-level reset. -/
def portsHeld (s : State) : State := [0, 1].foldl (fun g p => if uapHeld g p then fset g F.UAP_STATUS.STATE 5 0 p else g) s

theorem packageReset_eq (s : State) : packageReset s =
    linkAgain (resetChannels s.ccx.channels (portsHeld (resetDomains (applyImage (packageKept s))))) (rget s .HIF_LINK) := rfl

/-- After the domains are set, a package-level reset only sees to the ports, the channels and the link. -/
theorem keepsReg_packageReset {r : Reg} (hr : r ∉ resetTail) (s : State) :
    KeepsReg r (resetDomains (applyImage (packageKept s))) (packageReset s) := by
  have hports : KeepsReg r (resetDomains (applyImage (packageKept s))) (portsHeld (resetDomains (applyImage (packageKept s)))) :=
    keepsReg_foldl (fun t p => keepsReg_ite (keepsReg_fset (ne_of_resetTail hr (by decide)) ..) (.refl r t)) _ _
  rw [packageReset_eq]
  exact (hports.trans (keepsReg_resetChannels hr ..)).trans (keepsReg_linkAgain hr ..)

theorem applyImage_boot (s : State) : (applyImage s).boot = s.boot := by
  rw [applyImage, fset_boot, onPwr_boot, fset_boot, fset_boot]

theorem keepsReg_applyImage {r : Reg} (hr : r ∉ [Reg.PWR_LIMIT, .PWR_VDD, .PWR_FAN]) (s : State) : KeepsReg r s (applyImage s) := by
  simp only [List.mem_cons, List.not_mem_nil, or_false, not_or] at hr
  obtain ⟨hlimit, hvdd, hfan⟩ := hr
  have hpwr (t : State) (f : Pwr → Pwr) : KeepsReg r t (onPwr t f) := keepsReg_of_eq rfl rfl
  unfold applyImage
  exact (((keepsReg_fset hlimit ..).trans (keepsReg_fset hvdd ..)).trans (hpwr ..)).trans (keepsReg_fset hfan ..)

/-- The register file's copies under a filter that lets a copy pass. -/
theorem tget_regs_filter (m : Tbl (BitVec 64)) (f : Nat × BitVec 64 → Bool) (a : Nat) (h : ∀ v, f (a, v) = true) : tget (m.filter f) a = tget m a := by
  induction m with
  | nil => rfl
  | cons c t ih =>
    rw [List.filter_cons]
    split
    · rw [tget, tget, ih]
    · rename_i hc
      have hne : a ≠ c.1 := by
        rintro rfl
        exact hc (h c.2)
      rw [tget, if_neg hne, ih]

theorem rget_keepRegs {s : State} {keep : Reg → Nat → Nat → Bool} {r : Reg} {w i : Nat} (hmem : r ∈ Reg.all) (hkeep : keep r w i = true) :
    rget (keepRegs s keep) r w i = rget s r w i := by
  unfold rget
  split
  · rfl
  · have hnum : r.key w i / 1024 = r.num ∧ r.key w i / 64 % 16 = w ∧ r.key w i % 64 = i := by unfold Reg.key; omega
    obtain ⟨hn, hw, hi⟩ := hnum
    have hget : tget (keepRegs s keep).regs (r.key w i) = tget s.regs (r.key w i) :=
      tget_regs_filter _ _ _ fun v => List.any_eq_true.2 ⟨r, hmem, by simp [hn, hw, hi, hkeep]⟩
    rw [hget]

/-- BOOT_STATUS outlives a package-level reset. -/
theorem fget_packageKept {f : Fld} (hf : f.reg = .BOOT_STATUS) (s : State) : fget (applyImage (packageKept s)) f = fget s f := by
  have himage : fget (applyImage (packageKept s)) f = fget (packageKept s) f := (keepsReg_applyImage (by rw [hf]; decide) _).fget 0 0
  have hkept : rget (packageKept s) .BOOT_STATUS = rget s .BOOT_STATUS :=
    (rget_congr (s := keepRegs s (keptInPackage s)) rfl ..).trans (rget_keepRegs (by decide) rfl)
  rw [himage, fget, fget, hf, hkept]

theorem fget_packageReset {f : Fld} (hf : f.reg = .BOOT_STATUS) (s : State) : fget (packageReset s) f = fget s f := by
  have htail : fget (packageReset s) f = fget (resetDomains (applyImage (packageKept s))) f :=
    (keepsReg_packageReset (by rw [hf]; decide) s).fget 0 0
  have hdomains : fget (resetDomains (applyImage (packageKept s))) f = fget (applyImage (packageKept s)) f := by
    rw [fget, rget_resetDomains _ (by rw [hf]; decide), fget]
  rw [htail, hdomains, fget_packageKept hf]

theorem packageReset_perst (s : State) : (packageReset s).boot.perst = s.boot.perst := by
  rw [(keepsReg_packageReset (r := .BOOT_STATUS) (by decide) s).2, resetDomains_frame (p := fun s => s.boot) fset_boot, applyImage_boot]
  rfl

/-- With PERST_N asserted or under the recovery identity a package-level reset leaves every domain OFF. -/
theorem domOn_packageReset {s : State} (h : s.boot.perst = true ∨ recoveryId s = true) {d : Nat} (hd : d < 50) :
    domOn (packageReset s) d = false := by
  have hid : recoveryId (applyImage (packageKept s)) = recoveryId s := by
    rw [recoveryId, fget_packageKept rfl, recoveryId]
  have hup : domainsUp (applyImage (packageKept s)) = false := by
    have hboot : (applyImage (packageKept s)).boot = s.boot := applyImage_boot _
    rw [domainsUp, hboot, hid]
    cases h with
    | inl h => simp [h]
    | inr h => simp [h]
  have hnow : domNow (packageReset s) d = 2 := by
    have htail : domNow (packageReset s) d = domNow (resetDomains (applyImage (packageKept s))) d :=
      (keepsReg_packageReset (by decide) s).fget 0 d
    rw [htail, domNow_resetDomains _ hd, hup]
    rfl
  rw [domOn, hnow]
  rfl

/-! ### AON_PGOOD -/

theorem aonFresh_regs (s : State) (on : Bool) {r : Reg} (hr : r ≠ .BOOT_FUSE) (w i : Nat) : rget (aonFresh s on) r w i = r.reset w i := by
  rw [aonFresh, rget_rset_ne fun h => hr h.1]
  exact rget_reset r w i

theorem aonFresh_fuses (s : State) (on : Bool) : rget (aonFresh s on) .BOOT_FUSE = rget s .BOOT_FUSE := by
  rw [aonFresh, rget_rset_same (by decide) (by decide) (rget_lt s _ (by decide))]

theorem aonFresh_result (s : State) (on : Bool) : fget (aonFresh s on) F.BOOT_STATUS.RESULT = 0 := by
  rw [fget, aonFresh_regs s on (by decide)]
  decide

/-- What R539 says of the state after AON power has risen. -/
theorem resetDomains_aonFresh (s : State) :
    let t := resetDomains (aonFresh s true)
    t.boot.aonPgood = true ∧ t.time = 0 ∧ t.boot.flash = s.boot.flash ∧ t.hostMem = s.hostMem
    ∧ rget t .BOOT_FUSE = rget s .BOOT_FUSE ∧ fget t F.BOOT_STATUS.RESULT = 0
    ∧ (s.boot.perst = false → s.boot.corePgood = true → ∀ d, d < 50 → domOn t d = decide (d = 41 ∨ (32 ≤ d ∧ d ≤ 39))) := by
  have hboot : (resetDomains (aonFresh s true)).boot = (aonFresh s true).boot := resetDomains_frame (p := fun s => s.boot) fset_boot _
  refine ⟨by rw [hboot, aonFresh_boot], by rw [resetDomains_time, aonFresh_time], by rw [hboot, aonFresh_boot], ?_, ?_, ?_, ?_⟩
  · rw [resetDomains_frame (p := fun s => s.hostMem) fset_hostMem, aonFresh_hostMem]
  · rw [rget_resetDomains _ (by decide), aonFresh_fuses]
  · rw [fget, rget_resetDomains _ (by decide)]
    exact aonFresh_result s true
  · intro hperst hcore d hd
    have hup : domainsUp (aonFresh s true) = true := by simp [domainsUp, recoveryId, aonFresh_boot, aonFresh_result, hperst, hcore]
    rw [domOn, domNow_resetDomains _ hd, hup, Bool.true_and, resetOn]
    split <;> simp_all

/-- What R545 says of the state after AON power has fallen. -/
theorem domSets_aonLost (s : State) :
    let t := domSets (aonFresh (flashLost s) false) (List.range 50) fun _ => 2
    t.boot.aonPgood = false ∧ t.hostMem = s.hostMem ∧ t.mem = State.reset.mem ∧ (s.boot.op = none → t.boot.flash = s.boot.flash)
    ∧ ∀ d, d < 50 → domNow t d = 2 := by
  refine ⟨?_, ?_, ?_, fun hop => ?_, fun d hd => domNow_allOff _ hd⟩
  · rw [domSets_frame (p := fun s => s.boot) fset_boot, aonFresh_boot]
  · rw [domSets_frame (p := fun s => s.hostMem) fset_hostMem, aonFresh_hostMem,
      flashLost_frame (p := fun s => s.hostMem) takeFree_hostMem onBoot_hostMem]
  · rw [domSets_frame (p := fun s => s.mem) fset_mem, aonFresh_mem]
  · rw [domSets_frame (p := fun s => s.boot) fset_boot, aonFresh_boot, flashLost_none hop]

/-! ### The image -/

/-- IMAGE_LINK_READY before the image is settled and LINK_READY set: it waits for the header, the directory and the CRCs. -/
theorem exec_imageLinkReady {s : State} (hon : Safety.powered s) (hres : fget s F.BOOT_STATUS.RESULT = 0)
    (hlink : fget s F.BOOT_STATUS.LINK_READY = 0) (speed width : Nat) (flit : Bool) :
    let h := flashRead s 0 320
    let l := (dirUsed h).filter fun e => decide (e.id < 3)
    let m := onBoot s fun b => { b with image := takeSections s l b.image }
    exec (.imageLinkReady speed width flit) s = .next (if imageHeaderBad h ∨ directoryBad h ∨ (crcBad s l).isSome then s
      else linkTrain (fset m F.BOOT_STATUS.LINK_READY 1) speed width flit) := by
  change execImageLinkReady speed width flit s = _
  rw [execImageLinkReady, powered_next hon]
  by_cases hh : imageHeaderBad (flashRead s 0 320) = true ∨ directoryBad (flashRead s 0 320) = true
  · simp [hres, hlink, flag, hh, or_assoc.symm]
  · simp [hres, hlink, flag, hh, or_assoc.symm]

theorem exec_imageLinkReady_done {s : State} (hon : Safety.powered s)
    (h : fget s F.BOOT_STATUS.RESULT ≠ 0 ∨ fget s F.BOOT_STATUS.LINK_READY = 1) (speed width : Nat) (flit : Bool) :
    exec (.imageLinkReady speed width flit) s = .next s := by
  change execImageLinkReady speed width flit s = _
  rw [execImageLinkReady, powered_next hon, if_pos]
  simp only [flag, decide_eq_true_eq, ← or_assoc]
  exact .inl (.inl h)

theorem bootStatus_takeRecoveryId {f : Fld} (hf : f.reg = .BOOT_STATUS) (s : State) (r i : Nat) : fget (takeRecoveryId s r i) f =
    fget (fset (fset (fset s F.BOOT_STATUS.RESULT 2) F.BOOT_STATUS.REASON r) F.BOOT_STATUS.SECTION i) f := by
  rw [takeRecoveryId, fget_packageReset hf, fget_onBoot]

theorem takeRecoveryId_result (s : State) (r i : Nat) : fget (takeRecoveryId s r i) F.BOOT_STATUS.RESULT = 2 := by
  rw [bootStatus_takeRecoveryId rfl, fget_fset_above (by decide) (by decide) (by rfl) (by decide) (by decide) (by decide),
    fget_fset_above (by decide) (by decide) (by rfl) (by decide) (by decide) (by decide),
    fget_fset_same (by decide) (by decide) (by decide) (by decide)]
  rfl

theorem takeRecoveryId_reason (s : State) (r i : Nat) : fget (takeRecoveryId s r i) F.BOOT_STATUS.REASON = r % 2 ^ 8 := by
  rw [bootStatus_takeRecoveryId rfl, fget_fset_above (by decide) (by decide) (by rfl) (by decide) (by decide) (by decide),
    fget_fset_same (by decide) (by decide) (by decide) (by decide)]
  rfl

theorem takeRecoveryId_section (s : State) (r i : Nat) : fget (takeRecoveryId s r i) F.BOOT_STATUS.SECTION = i % 2 ^ 8 := by
  rw [bootStatus_takeRecoveryId rfl, fget_fset_same (by decide) (by decide) (by decide) (by decide)]
  rfl

/-- Under the recovery identity every domain is OFF. -/
theorem domOn_takeRecoveryId (s : State) (r i : Nat) {d : Nat} (hd : d < 50) : domOn (takeRecoveryId s r i) d = false := by
  have hid : recoveryId (takeRecoveryId s r i) = true := by rw [recoveryId, takeRecoveryId_result]; rfl
  rw [takeRecoveryId] at hid ⊢
  rw [recoveryId, fget_packageReset rfl, ← recoveryId] at hid
  exact domOn_packageReset (.inr hid) hd

theorem exec_imageVerifyDone_settled {s : State} (hon : Safety.powered s) (h : fget s F.BOOT_STATUS.RESULT ≠ 0) (err flit : Bool)
    (speed width : Nat) : exec (.imageVerifyDone err speed width flit) s = .next s := by
  change execImageVerifyDone err speed width flit s = _
  rw [execImageVerifyDone, powered_next hon, if_pos h]

theorem exec_imageVerifyDone_invalid {s : State} (hon : Safety.powered s) (h : fget s F.BOOT_STATUS.RESULT = 0) (err flit : Bool)
    (speed width : Nat) (hr : (imageReason s err).1 ≠ 0) :
    let u := takeRecoveryId s (imageReason s err).1 (imageReason s err).2
    exec (.imageVerifyDone err speed width flit) s = .next (if fget u F.HIF_LINK.SPEED = 0 then linkTrain u speed width flit else u) := by
  change execImageVerifyDone err speed width flit s = _
  rw [execImageVerifyDone, powered_next hon, if_neg (not_not.2 h), if_pos hr]

theorem exec_imageVerifyDone_valid {s : State} (hon : Safety.powered s) (h : fget s F.BOOT_STATUS.RESULT = 0) (err flit : Bool)
    (speed width : Nat) (hr : imageReason s err = (0, 0)) :
    let u := fset (fset s F.BOOT_STATUS.RESULT 1) F.BOOT_STATUS.KEY_SLOT (imageSlot s (flashRead s 0 320))
    exec (.imageVerifyDone err speed width flit) s = .next (if ¬ flag s F.BOOT_STATUS.LINK_READY then s
      else applyImage (onBoot u fun b => { b with image := takeSections u (dirUsed (flashRead s 0 320)) b.image })) := by
  change execImageVerifyDone err speed width flit s = _
  rw [execImageVerifyDone, powered_next hon, if_neg (not_not.2 h), if_neg (by simp [hr])]

/-! ### PERST_N and CORE_PGOOD -/

theorem exec_perstNAssert_powered {s : State} (hp : s.boot.perst = false) (hon : Safety.powered s) :
    exec .perstNAssert s = .next (wakeReport (packageReset (onBoot (flashAbandon s) fun b => { b with perst := true })) 1 0) := by
  change execPerstNAssert s = _
  rw [execPerstNAssert, if_neg (by simp [hp]), if_neg (not_not.2 hon)]

theorem exec_perstNAssert_unpowered {s : State} (hp : s.boot.perst = false) (hoff : s.boot.aonPgood = false) :
    exec .perstNAssert s = .next (onBoot s fun b => { b with perst := true }) := by
  change execPerstNAssert s = _
  rw [execPerstNAssert, if_neg (by simp [hp]), if_pos (by simp [hoff])]

/-- A package-level reset at the assertion of PERST_N. -/
theorem packageReset_asserted (s : State) :
    let u := packageReset (onBoot (flashAbandon s) fun b => { b with perst := true })
    u.boot.perst = true ∧ u.time = s.time ∧ ∀ d, d < 50 → domOn u d = false := by
  refine ⟨?_, ?_, fun d hd => domOn_packageReset (.inl ?_) hd⟩
  · rw [packageReset_perst, onBoot_boot]
  · rw [packageReset_time, time_onBoot, flashAbandon_time]
  · rw [onBoot_boot]

theorem exec_perstNDeassert {s : State} (hp : s.boot.perst = true) (speed width : Nat) (flit : Bool) :
    let u := onBoot s fun b => { b with perst := false, wakeN := false }
    exec (.perstNDeassert speed width flit) s =
      .next (if ¬ u.boot.aonPgood then u else linkTrain (if failsafe u then u else resetDomains u) speed width flit) := by
  change execPerstNDeassert speed width flit s = _
  rw [execPerstNDeassert, if_neg (not_not.2 hp)]
  rfl

theorem exec_corePgoodRise {s : State} (hc : s.boot.corePgood = false) :
    let u := onBoot s fun b => { b with corePgood := true }
    exec .corePgoodRise s = .next (if failsafe u ∨ ¬ u.boot.aonPgood then u else resetDomains u) := by
  change execCorePgoodRise s = _
  rw [execCorePgoodRise, if_neg (by simp [hc])]

theorem exec_corePgoodFall {s : State} (hc : s.boot.corePgood = true) :
    let u := onBoot s fun b => { b with corePgood := false }
    exec .corePgoodFall s = .next (if s.boot.aonPgood then failsafeEnter u 6 else u) := by
  change execCorePgoodFall s = _
  rw [execCorePgoodFall, if_neg (not_not.2 hc)]

theorem failsafe_onBoot (s : State) (f : Boot → Boot) : failsafe (onBoot s f) = failsafe s := by
  rw [failsafe, flag, fget_onBoot, failsafe, flag]

/-! ### Supply and temperature -/

theorem exec_supplyOutOfRange {s : State} (hon : Safety.powered s) (mv : Nat) :
    exec (.supplyOutOfRange mv) s = .next (if ¬ s.boot.corePgood ∨ (550 ≤ mv ∧ mv ≤ 900) then s else failsafeEnter s 6) :=
  powered_next hon _

theorem exec_junctionOverTemperature {s : State} (hon : Safety.powered s) (c : Nat) :
    exec (.junctionOverTemperature c) s = .next (if c ≤ 105 ∨ sillage s = 2 then s else failsafeEnter s 7) :=
  powered_next hon _

theorem exec_thermtripAssert {s : State} (hon : Safety.powered s) (tj stack : Nat) :
    exec (.thermtripAssert tj stack) s = .next (if 115 ≤ tj ∨ 110 ≤ stack then onBoot s fun b => { b with thermtrip := true } else s) :=
  powered_next hon _

/-! ### The rows together -/

/-- Settles O53. That a pin is only followed with AON power off is the model's reading (log 100). -/
theorem powerOnAndPins : Obligations.PowerOnAndPins := by
  refine ⟨fun s => ⟨fun hoff => ⟨_, exec_aonPgoodRise hoff, resetDomains_aonFresh s⟩, fun hon => ?_,
      fun hon => ⟨_, exec_aonPgoodFall hon, domSets_aonLost s⟩, fun hoff => ?_⟩,
    fun s speed width flit hon hres hlink => ?_, fun s speed width flit hon h => exec_imageLinkReady_done hon h speed width flit,
    fun s err flit speed width hon => ⟨fun h => exec_imageVerifyDone_settled hon h err flit speed width, fun h => ⟨?_, ?_⟩⟩,
    fun s => ⟨fun hp => ?_, fun hp hon => ⟨exec_perstNAssert_powered hp hon, packageReset_asserted s⟩,
      fun hp hoff => exec_perstNAssert_unpowered hp hoff, fun speed width flit => ⟨fun hp => ?_, fun hp hoff => ?_, fun hp hon => ?_⟩,
      fun hc => ?_, fun hc => ⟨fun hon hsafe => ?_, fun h => ?_⟩, fun hc => ?_, fun hc => ⟨fun hon => ?_, fun hoff => ?_⟩⟩,
    fun s hon => ⟨fun mv hc h => ?_, fun mv h => ?_, fun c hc hsil => ?_, fun c h => ?_, fun tj stack h => ?_, fun tj stack htj hstack => ?_⟩⟩
  -- AON_PGOOD at the level it already has
  · exact congrArg _ (if_pos hon)
  · exact congrArg _ (if_pos (by simp [hoff]))
  -- IMAGE_LINK_READY
  · refine ⟨fun hbad => ?_, fun hhead hdir hcrc => ?_, fun hhead hdir hcrc => ?_⟩
    · rw [exec_imageLinkReady hon hres hlink, if_pos (or_assoc.1 (.inl hbad))]
    · rw [exec_imageLinkReady hon hres hlink, if_neg]
      rw [Option.isNone_iff_eq_none] at hcrc
      simp [hhead, hdir, hcrc]
    · rw [exec_imageLinkReady hon hres hlink, if_pos (.inr (.inr hcrc))]
  -- IMAGE_VERIFY_DONE: an invalid image, a valid one
  · intro r i hri hr
    have hexec := exec_imageVerifyDone_invalid hon h err flit speed width (by rw [hri]; exact hr)
    rw [hri] at hexec
    refine ⟨fun hup => ?_, fun hdown => ?_, fun hr8 hi16 => ⟨takeRecoveryId_result s r i, ?_, ?_, fun d hd => domOn_takeRecoveryId s r i hd⟩⟩
    · rw [hexec, if_neg hup]
    · rw [hexec, if_pos hdown]
    · rw [takeRecoveryId_reason, Nat.mod_eq_of_lt (by omega)]
    · rw [takeRecoveryId_section, Nat.mod_eq_of_lt (by omega)]
  · intro hvalid
    refine ⟨fun hlink => ?_, fun hlink => ?_⟩
    · rw [exec_imageVerifyDone_valid hon h err flit speed width hvalid, if_pos (by simp [flag, hlink])]
    · rw [exec_imageVerifyDone_valid hon h err flit speed width hvalid, if_neg (by simp [flag, hlink])]
  -- PERST_N
  · exact congrArg _ (if_pos hp)
  · exact congrArg _ (if_pos (by simp [hp]))
  · rw [exec_perstNDeassert hp, if_pos (by simp [hoff])]
  · rw [exec_perstNDeassert hp, if_neg (by simp [hon]), failsafe_onBoot]
    refine ⟨fun hsafe => ?_, fun hsafe => ?_⟩
    · rw [if_pos hsafe]
    · rw [if_neg (by simp [hsafe])]
  -- CORE_PGOOD
  · exact congrArg _ (if_pos hc)
  · rw [exec_corePgoodRise hc, failsafe_onBoot, if_neg (by simp [hon, hsafe])]
  · rw [exec_corePgoodRise hc, failsafe_onBoot, if_pos (by simpa using h)]
  · exact congrArg _ (if_pos (by simp [hc]))
  · rw [exec_corePgoodFall hc, if_pos hon]
  · rw [exec_corePgoodFall hc, if_neg (by simp [hoff])]
  -- supply, junction and THERMTRIP
  · rw [exec_supplyOutOfRange hon, if_neg (by simp [hc]; omega)]
  · rw [exec_supplyOutOfRange hon, if_pos (by simpa using h)]
  · rw [exec_junctionOverTemperature hon, if_neg (by simp [hsil]; omega)]
  · rw [exec_junctionOverTemperature hon, if_pos h]
  · rw [exec_thermtripAssert hon, if_pos h]
    rfl
  · rw [exec_thermtripAssert hon, if_neg (by omega)]

end Sys2Proof.Proofs

/-!
## The rate monitor, the AON PLL and interference windows (O4)
-/

namespace Sys2Proof.Proofs

open Machine Laws

/-! ### HIF_RATE_MIN read by the PF -/

theorem findReg_rateMin : findReg 0 0x214 = some (.HIF_RATE_MIN, 0, 0, 0) := by decide

theorem maskedReads_rateMin (v : Nat) : (v &&& Reg.readMask .HIF_RATE_MIN &&& (2 ^ 32 - 1) <<< (32 * 0)) >>> (32 * 0) = bits v 11 0 := by
  have hmask : Reg.readMask .HIF_RATE_MIN &&& (2 ^ 32 - 1) <<< (32 * 0) = 2 ^ 12 - 1 := by decide
  rw [Nat.and_assoc, hmask, Nat.and_two_pow_sub_one_eq_mod]
  simp [bits]

/-- The read returns MIN, clears it and begins the next window. -/
theorem read32_rateMin (s : State) : read32 0 0x214 s = (fget s F.HIF_RATE_MIN.MIN, readClears s .HIF_RATE_MIN 0 0 (2 ^ 32 - 1)) := by
  have hdom : Reg.domain .HIF_RATE_MIN 0 0 = none := rfl
  have hid : Reg.inRecoveryId .HIF_RATE_MIN = true := rfl
  rw [read32, findReg_rateMin]
  simp only [regRead, hdom, hid, not_true_eq_false, and_false, if_false, if_true]
  rw [maskedReads_rateMin]
  rfl

theorem bits_without_low (v : Nat) : bits (without v (2 ^ 12 - 1)) 11 0 = 0 := by
  rw [without, Nat.and_two_pow_sub_one_eq_mod]
  simp only [bits, Nat.shiftRight_zero]
  omega

theorem fget_readClears_rateMin (s : State) : fget (readClears s .HIF_RATE_MIN 0 0 (2 ^ 32 - 1)) F.HIF_RATE_MIN.MIN = 0 := by
  have hmask : Reg.mask .HIF_RATE_MIN (· = .rc) &&& (2 ^ 32 - 1) = 2 ^ 12 - 1 := by decide
  rw [readClears, hmask]
  change bits (rget (rset _ .HIF_RATE_MIN _ 0 0) .HIF_RATE_MIN 0 0) 11 0 = 0
  rw [rget_rset_same (by decide) (by decide), bits_without_low]
  exact (Nat.sub_le ..).trans_lt (rget_lt _ _ (by decide))

theorem readClears_rateMin_sent (s : State) : (readClears s .HIF_RATE_MIN 0 0 (2 ^ 32 - 1)).hif.sent = s.hif.sent := by
  rw [readClears, rset_hif, if_pos rfl]

theorem readClears_rateMin_rateSeen (s : State) : (readClears s .HIF_RATE_MIN 0 0 (2 ^ 32 - 1)).hif.rateSeen = false := by
  rw [readClears, rset_hif, if_pos rfl]

/-- A 32-bit BAR0 read at an aligned offset is answered with the word there. -/
theorem exec_hifRateMinRead {s : State} {f off : Nat} (hon : Safety.powered s) (hf : fnExists s f = true) (hflr : (fnCfg s f).inFlr = false)
    (hsafe : failsafe s = false) (hal : off % 4 = 0) :
    exec (.hifRateMinRead f off 32) s = .next (send (read32 f off s).2 (.completion (natLe (read32 f off s).1 4) false)) := by
  have hread : bar0Read f off 32 s = send (read32 f off s).2 (.completion (natLe (read32 f off s).1 4) false) := by
    simp [bar0Read, hf, hflr, hsafe, hal]
  change powered s (bar0Read f off 32 s) = _
  rw [powered_next hon, hread]

/-! ### Interference windows -/

/-- A window that reports nothing ends: its sums become those of the completed one. -/
theorem intfClose_quiet {s : State} (hen : fget s F.SCH_INTF_CTL.EN = 0) :
    intfClose s = { s with
      intf := s.intf.filter fun e => s.time / 1000000 - 1 < e.1
      intfDone := some { window := s.time / 1000000 - 1, sums := tgetD s.intf (s.time / 1000000 - 1) [] } } := by
  have hflag : ∀ i d, flag { s with intf := i, intfDone := d } F.SCH_INTF_CTL.EN = false := fun i d => by
    have hen' : fget { s with intf := i, intfDone := d } F.SCH_INTF_CTL.EN = 0 := (fget_congr rfl ..).trans hen
    simp [flag, hen']
  rw [intfClose]
  rw [if_pos (.inl (by simp [hflag]))]
  rfl

/-- Settles O4. That a rate above 4095 reads 4095 (log 113) and that MIN's first window is known by its own mark (log 114) are the
model's choices. -/
theorem timedCommands : Obligations.TimedCommands := by
  refine ⟨fun s rate hon ht hus hfex => ?_, fun s f off hon hf hflr hsafe hal => exec_hifRateMinRead hon hf hflr hsafe hal,
    fun s hon hf hflr hsafe => ?_, fun s hon hsrc => ?_, fun s hon => powered_next hon _, fun s hs ht hms hfex hen => ?_, fun x => rfl⟩
  · have hgo : ¬ (s.time = 0 ∨ s.time % 1000 ≠ 0 ∨ ¬ domOn s 41 = true) := by simp [ht, hus, hfex]
    change execRateMonitorWindow rate s = _
    rw [execRateMonitorWindow, powered_next hon, if_neg hgo]
    simp only [fset_hif]
  · refine ⟨_, exec_hifRateMinRead hon hf hflr hsafe (by decide), ?_⟩
    rw [read32_rateMin]
    refine ⟨?_, fget_readClears_rateMin s, readClears_rateMin_rateSeen s⟩
    rw [← readClears_rateMin_sent s]
    rfl
  · change execAonPllLockLost s = _
    rw [execAonPllLockLost, powered_next hon, if_neg (by simp [flag, hsrc])]
  · have hgo : ¬ (s.time = 0 ∨ s.time % 1000000 ≠ 0 ∨ ¬ domOn s 41 = true) := by simp [ht, hms, hfex]
    change execInterferenceWindowEnd s = _
    rw [execInterferenceWindowEnd, engineStep_next hs, if_neg hgo, intfClose_quiet hen]

end Sys2Proof.Proofs

/-!
## Command registers, FE_QCMD, doorbells and two-phase idle (O5 to O8)
-/

namespace Sys2Proof.Proofs

open Machine Laws

/-! ### The gate of a command register: discarded while BUSY is 1 -/

/-- A write to a command register that is taken, with no operation in progress, does what it does. -/
theorem cmdWrite_idle {s : State} {r : Reg} {busy : Fld} {f : Nat} (h : Safety.writable s r f 0) (hb : fget s busy f = 0) (k : State → State) :
    busWrite s r f 0 (fun s => if flag s busy f then s else k s) = .next (k s) := by
  rw [busWrite_next h, if_neg (by simp [flag, hb])]

/-- A write to a command register while an operation is in progress is discarded. -/
theorem cmdWrite_busy {s : State} {r : Reg} {busy : Fld} {f : Nat} (h : Safety.writable s r f 0) (hb : fget s busy f = 1) (k : State → State) :
    busWrite s r f 0 (fun s => if flag s busy f then s else k s) = .next s := by
  rw [busWrite_next h, if_pos (by simp [flag, hb])]

theorem qCmd_idle {s : State} {f : Nat} (h : Safety.writable s .FE_QCMD f 0) (hb : fget s F.FE_QRESULT.BUSY f = 0) (k : State → State) :
    qCmd s f k = .next (k s) := cmdWrite_idle h hb k

theorem qCmd_busy {s : State} {f : Nat} (h : Safety.writable s .FE_QCMD f 0) (hb : fget s F.FE_QRESULT.BUSY f = 1) (k : State → State) :
    qCmd s f k = .next s := cmdWrite_busy h hb k

theorem oCmd_idle {s : State} {f : Nat} (h : Safety.writable s .FE_OBJ_CMD f 0) (hb : fget s F.FE_OBJ_RESULT.BUSY f = 0) (k : State → State) :
    oCmd s f k = .next (k s) := cmdWrite_idle h hb k

theorem oCmd_busy {s : State} {f : Nat} (h : Safety.writable s .FE_OBJ_CMD f 0) (hb : fget s F.FE_OBJ_RESULT.BUSY f = 1) (k : State → State) :
    oCmd s f k = .next s := cmdWrite_busy h hb k

theorem sCmd_idle {s : State} {f : Nat} (h : Safety.writable s .SEQ_SCMD f 0) (hb : fget s F.SEQ_SRESULT.BUSY f = 0) (k : State → State) :
    sCmd s f k = .next (k s) := cmdWrite_idle h hb k

theorem sCmd_busy {s : State} {f : Nat} (h : Safety.writable s .SEQ_SCMD f 0) (hb : fget s F.SEQ_SRESULT.BUSY f = 1) (k : State → State) :
    sCmd s f k = .next s := cmdWrite_busy h hb k

/-! ### FE_QCMD while BUSY is 1 (O5) -/

/-- Settles O5: each of the five commands passes the one gate of FE_QCMD. -/
theorem qcmdBusyDiscarded : Obligations.QcmdBusyDiscarded := by
  intro s f op h hb
  have hgate : ∀ k, qCmd s f k = .next s := qCmd_busy h hb
  change execQueueCreate f s = _ ∧ execQueueDestroy f s = _ ∧ execQueueResume f s = _ ∧ execQueueResumeSkip f s = _ ∧ execQcmdUndefinedOp f op s = _
  exact ⟨hgate _, hgate _, hgate _, hgate _, hgate _⟩

/-! ### The operations of FE_QCMD (O6) -/

/-- The stopped entry counts as finished with the status it failed with. -/
def skipped (e : Entry) : Entry := { e with phase := match e.phase with | .failed st => .finished st | p => p }

section
variable {s : State} {f i : Nat} {q : Queue} (h : Safety.writable s .FE_QCMD f 0) (hb : fget s F.FE_QRESULT.BUSY f = 0)
include h hb

theorem exec_queueCreate_full (hf : freeQueue s f = none) : exec (.queueCreate f) s = .next (qResult s f .lengthRange 0) := by
  change execQueueCreate f s = _
  rw [execQueueCreate, qCmd_idle h hb, hf]

theorem exec_queueCreate_free (hf : freeQueue s f = some i) :
    exec (.queueCreate f) s = .next (onFe (fset s F.FE_QRESULT.BUSY 1 f) fun x => { x with creating := tset x.creating f i }) := by
  change execQueueCreate f s = _
  rw [execQueueCreate, qCmd_idle h hb, hf]

theorem exec_queueDestroy_stale (hq : queueOf s f (qArg s f) = none) :
    exec (.queueDestroy f) s = .next (qResult s f .staleHandle (qArg s f)) := by
  change execQueueDestroy f s = _
  rw [execQueueDestroy, qCmd_idle h hb]
  simp only [hq]

/-- DESTROY frees a queue that is IDLE, STOPPED or KILLED. -/
theorem exec_queueDestroy_named (hq : queueOf s f (qArg s f) = some (i, q)) :
    exec (.queueDestroy f) s = .next (if q.state = .idle ∨ q.state = .stopped ∨ q.state = .killed then
      qResult (queueFree s i q) f .ok (qArg s f) else qResult s f .permission (qArg s f)) := by
  change execQueueDestroy f s = _
  rw [execQueueDestroy, qCmd_idle h hb]
  simp only [hq]

theorem exec_queueResume_stale (hq : queueOf s f (qArg s f) = none) :
    exec (.queueResume f) s = .next (qResult s f .staleHandle (qArg s f)) := by
  change execQueueResume f s = _
  rw [execQueueResume, qCmd_idle h hb]
  simp only [hq]

/-- RESUME lets a STOPPED queue go on with the stopped entry. -/
theorem exec_queueResume_named (hq : queueOf s f (qArg s f) = some (i, q)) :
    exec (.queueResume f) s = .next (if q.state = .stopped then qResult (resumeAt s i (stoppedSeq q - 1)) f .ok (qArg s f)
      else qResult s f .permission (qArg s f)) := by
  change execQueueResume f s = _
  rw [execQueueResume, qCmd_idle h hb]
  simp only [hq]

theorem exec_queueResumeSkip_stale (hq : queueOf s f (qArg s f) = none) :
    exec (.queueResumeSkip f) s = .next (qResult s f .staleHandle (qArg s f)) := by
  change execQueueResumeSkip f s = _
  rw [execQueueResumeSkip, qCmd_idle h hb]
  simp only [hq]

/-- RESUME_SKIP of a queue that no entry stopped goes on at the fetch index. -/
theorem exec_queueResumeSkip_fetch (hq : queueOf s f (qArg s f) = some (i, q)) (hst : q.state = .stopped) (hn : q.stoppedAt = none) :
    exec (.queueResumeSkip f) s = .next (qResult (resumeAt s i q.fetch) f .ok (qArg s f)) := by
  change execQueueResumeSkip f s = _
  rw [execQueueResumeSkip, qCmd_idle h hb]
  simp only [hq, hst, hn, if_true]

theorem exec_queueResumeSkip_entry {n : Nat} (hq : queueOf s f (qArg s f) = some (i, q)) (hst : q.state = .stopped) (hn : q.stoppedAt = some n) :
    exec (.queueResumeSkip f) s = .next (qResult (resumeAt (onEntry s i n skipped) i n) f .ok (qArg s f)) := by
  change execQueueResumeSkip f s = _
  rw [execQueueResumeSkip, qCmd_idle h hb]
  simp only [hq, hst, hn, if_true]
  rfl

theorem exec_queueResumeSkip_refused (hq : queueOf s f (qArg s f) = some (i, q)) (hst : q.state ≠ .stopped) :
    exec (.queueResumeSkip f) s = .next (qResult s f .permission (qArg s f)) := by
  change execQueueResumeSkip f s = _
  rw [execQueueResumeSkip, qCmd_idle h hb]
  simp only [hq, if_neg hst]

theorem exec_qcmdUndefinedOp {op : Nat} (hop : op % 16 = 0 ∨ 4 < op % 16) :
    exec (.qcmdUndefinedOp f op) s = .next (qResult s f .badOpcode 0) := by
  change execQcmdUndefinedOp f op s = _
  rw [execQcmdUndefinedOp, qCmd_idle h hb, if_neg (by omega)]

end

/-- Settles O6, row by row: the handle that FE_QARG names decides, then the state of its queue. That DESTROY and RESUME end in the accepting
step (log 43), and where a queue that no entry stopped goes on (log 41), are the model's choices. -/
theorem qcmdOperations : Obligations.QcmdOperations := by
  intro s f h hb
  refine ⟨exec_queueCreate_full h hb, fun i => exec_queueCreate_free h hb, fun hq => ?_, fun i q hq hst => ?_, fun i q hq h1 h2 h3 => ?_,
    fun i q hq hst => ?_, fun i q n => exec_queueResumeSkip_entry h hb, fun i q => exec_queueResumeSkip_fetch h hb, fun i q hq hst => ?_,
    fun op => exec_qcmdUndefinedOp h hb⟩
  · exact ⟨exec_queueDestroy_stale h hb hq, exec_queueResume_stale h hb hq, exec_queueResumeSkip_stale h hb hq⟩
  · rw [exec_queueDestroy_named h hb hq, if_pos hst]
  · rw [exec_queueDestroy_named h hb hq, if_neg (by simp [h1, h2, h3])]
  · rw [exec_queueResume_named h hb hq, if_pos hst]
  · exact ⟨by rw [exec_queueResume_named h hb hq, if_neg hst], exec_queueResumeSkip_refused h hb hq hst⟩

/-! ### The end of CREATE (O7) -/

section
variable {s : State} {f i : Nat} {r : Status × List Byte × State} (h : Safety.unitRuns s 0x112) (hi : tget s.fe.creating f = some i)
  (hread : ipaRead (onFe s fun x => { x with creating := tdel x.creating f }) f (rget s .FE_QARG f) 64 = r)
include h hi hread

theorem exec_queueDescriptorReadDone_unread (hr : r.1 ≠ .ok) : exec (.queueDescriptorReadDone f) s = .next (qResult r.2.2 f r.1 0) := by
  change execQueueDescriptorReadDone f s = _
  rw [execQueueDescriptorReadDone, unitStep_next h, hi]
  simp only [rget_onFe, hread, if_pos hr]

theorem exec_queueDescriptorReadDone_refused {st : Status} (hr : r.1 = .ok) (hd : descCheck r.2.2 f r.2.1 = some st) :
    exec (.queueDescriptorReadDone f) s = .next (qResult r.2.2 f st 0) := by
  change execQueueDescriptorReadDone f s = _
  rw [execQueueDescriptorReadDone, unitStep_next h, hi]
  simp only [rget_onFe, hread, hr, hd, ne_eq, not_true_eq_false, if_false]

/-- A descriptor that passes: the queue stands, and its completion record is written with zeros or stops it. -/
theorem exec_queueDescriptorReadDone_created {gen : Nat} {q : Queue} {w : Status × State} (hr : r.1 = .ok) (hd : descCheck r.2.2 f r.2.1 = none)
    (hgen : tgetD r.2.2.fe.qGen i 1 = gen) (hq : queueFrom f gen r.2.1 = q)
    (hw : feWrite (onFe r.2.2 fun x => { x with queues := tset x.queues i q }) q q.compl (zeros 16) = w) :
    exec (.queueDescriptorReadDone f) s = .next (if w.1 = .ok then qResult w.2 f .ok (qHandle i gen)
      else stopNoEntry (qResult w.2 f .ok (qHandle i gen)) i w.1 q.compl) := by
  change execQueueDescriptorReadDone f s = _
  rw [execQueueDescriptorReadDone, unitStep_next h, hi]
  simp only [rget_onFe, hread, hr, hd, hgen, hq, hw, ne_eq, not_true_eq_false, if_false]

end

/-- Settles O7: the read, then the checks, then the write of the completion record decide. -/
theorem queueCreateEnds : Obligations.QueueCreateEnds := by
  intro s f i h hi s1 r gen q s2 w
  have hcreated (hr : r.1 = .ok) (hd : descCheck r.2.2 f r.2.1 = none) := exec_queueDescriptorReadDone_created (w := w) h hi rfl hr hd rfl rfl rfl
  refine ⟨fun hr hd hw => ?_, fun hr hd hw => ?_, ⟨rfl, rfl, rfl, rfl, rfl, rfl, rfl, rfl⟩,
    exec_queueDescriptorReadDone_unread h hi rfl, fun st => exec_queueDescriptorReadDone_refused h hi rfl⟩
  · rw [hcreated hr hd, if_pos hw]
  · rw [hcreated hr hd, if_neg hw]

/-! ### Queues that change -/

/-- A change of a queue's table entry is decided by what it makes of that queue. -/
theorem onQueue_congr {s : State} {i : Nat} {q : Queue} {g k : Queue → Queue} (hq : queueAt s i = some q) (h : g q = k q) :
    onQueue s i g = onQueue s i k := by
  have hq' : tget s.fe.queues i = some q := hq
  simp [onQueue, onFe, tupd, hq', h]

/-- The queue that was changed, where the index has one. -/
theorem queueAt_onQueue (s : State) (i : Nat) (g : Queue → Queue) : queueAt (onQueue s i g) i = (queueAt s i).map g := by
  simp only [queueAt, onQueue, onFe_fe, tupd]
  split
  case _ hq => rw [tget_tset_same, hq, Option.map_some]
  case _ hq => rw [hq, Option.map_none]

/-! ### Doorbells (O8) -/

section
variable {s : State} {i f w : Nat} {q : Queue} (h : Safety.engines s) (hq : queueAt s i = some q)
include h hq

/-- A doorbell of a function that holds the index, of a queue that takes doorbells, that moves the shadow forward. -/
theorem exec_dbWriteIndex_forward (hf : fnExists s f = true) (hflr : (fnCfg s f).inFlr = false) (hin : inQ s f i = true) (hw : w < 2 ^ 32)
    (h1 : q.state ≠ .drain) (h2 : q.state ≠ .kill) (h3 : q.state ≠ .killed) (hne : sub32 w q.shadow ≠ 0) (hlt : sub32 w q.shadow < 2 ^ 31) :
    exec (.dbWriteIndex f i w) s = .next (
      let rung := onQueue s i fun q => { q with rangAt := s.time }
      if 2 ^ q.ringLog2 < sub32 w (oldest q) then stopNoEntry rung i .lengthRange w
      else
        let t := onQueue rung i fun q => { q with
          shadow := w, pend := true, wake := q.wake || q.armed, armed := false, coreWake := q.coreWake || q.resident }
        demand (if q.cls = 0 then t else notifyScheduler t) 41) := by
  change execDbWriteIndex f i w s = _
  rw [execDbWriteIndex, engineStep_next h, hq]
  have hfwd : ¬ (2 ^ 31 ≤ sub32 w q.shadow ∨ sub32 w q.shadow = 0) := by omega
  simp only [hf, hflr, hin, Nat.mod_eq_of_lt hw, and_self, not_true_eq_false, Bool.false_eq_true, or_self, if_false]
  cases hst : q.state with
  | drain => exact absurd hst h1
  | kill => exact absurd hst h2
  | killed => exact absurd hst h3
  | active | idleArmed | idle | stopped => simp only [if_neg hfwd]

omit hq in
/-- A doorbell in a page that is not the function's is discarded. -/
theorem exec_dbWriteIndex_outside (hin : inQ s f i = false) : exec (.dbWriteIndex f i w) s = .next s := by
  change execDbWriteIndex f i w s = _
  rw [execDbWriteIndex, engineStep_next h]
  simp only [hin, Bool.false_eq_true, and_false, not_false_eq_true, true_or, if_true]
  split <;> rfl

/-- FENCE_CI is stored; no launch waits for room in the fence ring. -/
theorem exec_dbFenceCi_noLaunch {ci : Nat} (hin : inQ s f i = true) (hl : s.fe.launches = []) :
    exec (.dbFenceCi f i ci) s = .next (onQueue s i fun q => { q with fenceCi := ci % 2 ^ 32 }) := by
  change execDbFenceCi f i ci s = _
  have hfree : dbFenceCi f i ci s = onQueue s i fun q => { q with fenceCi := ci % 2 ^ 32 } := by
    rw [dbFenceCi, hq]
    simp only [hin, if_true]
  have hnone : (onQueue s i fun q => { q with fenceCi := ci % 2 ^ 32 }).fe.launches = [] := hl
  rw [execDbFenceCi, engineStep_next h, hfree]
  simp only [hnone, List.filter_nil, List.foldl_nil]

end

/-! ### Two-phase idle -/

section
variable {s : State} {i : Nat} {q : Queue} (hq : queueAt s i = some q)
include hq

theorem exec_queueArmSend_empty (h : Safety.unitRuns s 0x112) (hst : q.state = .active) (hf : q.fetch % 2 ^ 32 = q.shadow) (hon : domOn s 41 = true) :
    exec (.queueArmSend i) s = .next (onQueue s i fun q => { q with state := .idleArmed, arm := .sent }) := by
  change execQueueArmSend i s = _
  rw [execQueueArmSend, unitStep_next h, hq]
  simp only [hst, hf, hon, and_self, if_true]

theorem exec_armServe_sent (h : Safety.engines s) (ha : q.arm = .sent) :
    exec (.armServe i) s = .next (onQueue s i fun q => { q with arm := .returned q.shadow, pend := false, armed := true }) := by
  change execArmServe i s = _
  rw [execArmServe, engineStep_next h]
  exact congrArg _ (onQueue_congr hq (if_pos ha))

/-- The comparison in the front end: idle where nothing came between, back to ACTIVE otherwise. -/
theorem exec_armReturnCompare_returned {v : Nat} (h : Safety.unitRuns s 0x112) (ha : q.arm = .returned v) (hst : q.state = .idleArmed) :
    exec (.armReturnCompare i) s = .next (if q.wake = true ∨ v ≠ q.fetch % 2 ^ 32
      then onQueue s i fun q => { q with state := .active, arm := .none, wake := false }
      else onQueue s i fun q => { q with state := .idle, arm := .none }) := by
  change execArmReturnCompare i s = _
  rw [execArmReturnCompare, unitStep_next h]
  split
  case isTrue hback => exact congrArg _ (onQueue_congr hq (by simp only [ha, hst, hback, if_true]))
  case isFalse hidle => exact congrArg _ (onQueue_congr hq (by simp only [ha, hst, hidle, if_true, if_false]))

/-- A wake that finds FEX open makes an idle queue ACTIVE. -/
theorem exec_wakeArrive_idle (h : Safety.unitRuns s 0x112) (hw : q.wake = true) (hopen : domOpen s 41 = true) (hst : q.state = .idle ∨ q.state = .idleArmed) :
    exec (.wakeArrive i) s = .next (onQueue s i fun q => { q with wake := false, state := .active }) := by
  change execWakeArrive i s = _
  rw [execWakeArrive, unitStep_next h]
  exact congrArg _ (onQueue_congr hq (by simp only [hw, hopen, hst, and_self, if_true]))

end

/-- Settles O8. The armed mark, the clearing of PEND and the ARM crossing as marks are the model's choice (log 40). -/
theorem doorbellsAndIdle : Obligations.DoorbellsAndIdle := by
  intro s i q h hq rung
  refine ⟨fun f w hf hflr hin hw h1 h2 h3 hne hlt => ⟨fun hle => ?_, fun hgt => ?_⟩, fun f w hin => exec_dbWriteIndex_outside h hin,
    fun f ci _ _ hin hl => exec_dbFenceCi_noLaunch h hq hin hl, fun hst hf hon hrec => exec_queueArmSend_empty hq ⟨h, hrec⟩ hst hf hon,
    fun ha => exec_armServe_sent hq h ha, fun v ha hst hwake hv hrec => ?_, fun v ha hst hback hrec => ?_,
    fun hw hopen hst hrec => exec_wakeArrive_idle hq ⟨h, hrec⟩ hw hopen hst⟩
  · rw [exec_dbWriteIndex_forward h hq hf hflr hin hw h1 h2 h3 hne hlt]
    exact congrArg _ (if_neg (by omega))
  · rw [exec_dbWriteIndex_forward h hq hf hflr hin hw h1 h2 h3 hne hlt]
    exact congrArg _ (if_pos hgt)
  · rw [exec_armReturnCompare_returned hq ⟨h, hrec⟩ ha hst, if_neg (by simp [hwake, hv])]
  · rw [exec_armReturnCompare_returned hq ⟨h, hrec⟩ ha hst, if_pos hback]

end Sys2Proof.Proofs

/-!
## COMPLETION_WRITE (O14)
-/

namespace Sys2Proof.Proofs

open Machine Laws

/-- The state in which the completion value of a queue has advanced over the entries up to number n, and their fence records are due. -/
def covered (s : State) (i n : Nat) : State :=
  onQueue (seqWritten s i n) i fun q => { q with entries := q.entries.filter fun e => n < e.seq, owed := [] }

/-- What a covered queue shows: SEQ, and entries beyond it only. -/
theorem queueAt_covered {s : State} {i n : Nat} {q : Queue} (hq : queueAt (covered s i n) i = some q) :
    q.seq = n ∧ ∀ e ∈ q.entries, n < e.seq := by
  rw [covered, seqWritten, queueAt_onQueue, queueAt_onQueue, Option.map_map] at hq
  obtain ⟨q₀, -, rfl⟩ := Option.map_eq_some_iff.1 hq
  refine ⟨rfl, fun e he => ?_⟩
  simpa using (List.mem_filter.1 he).2

/-- What follows the fence records of a run: bytes 8 to 15 of the completion record and the fence vector where a record has been written, then
the completion vector and the WAITs. -/
def coverEnd (q : Queue) (i : Nat) (run : List Entry) (s : State) : State :=
  let s := if fencePiOf s i = some q.fencePi then s else msixRaise (tailWrite s i) q.fn q.fenceVec
  waitsReached (if run.any wantsIrq then msixRaise s q.fn q.compVec else s) i

section
variable {s : State} {i : Nat} {q : Queue} {run : List Entry} {last : Entry} {w : Status × State}
  (hq : queueAt s i = some q) (hlast : run.getLast? = some last) (hw : feWrite s q q.compl (natLe last.seq 8 ++ complTail q) = w)
include hq hlast hw

theorem coverRun_fault (hok : w.1 ≠ .ok) : coverRun i run s = writeFault w.2 i w.1 q.compl := by
  rw [coverRun, hq]
  simp only [hlast, hw, if_pos hok]

/-- A run of a queue that owes nothing is covered, and the records its own entries owe are written. -/
theorem coverRun_written (hok : w.1 = .ok) (howed : q.owed = []) :
    coverRun i run s = coverEnd q i run (writeOwed i (run.filter fun e => (fenceKind q.cont e).isSome) (covered w.2 i last.seq)) := by
  rw [coverRun, hq]
  simp only [hlast, hw, hok, howed, ne_eq, not_true_eq_false, and_false, if_false, List.nil_append]
  rfl

end

/-- One fence record that is owed, where the ring has room and the write advances FENCE_PI. -/
theorem writeOwed_single {s : State} {i : Nat} {e : Entry} {q : Queue} (hq : queueAt s i = some q) (hroom : fenceRoom q = true)
    (hpi : fencePiOf (fenceWrite s i (fenceCookie e ((fenceKind q.cont e).getD 0)) e.seq (endStatus e) ((fenceKind q.cont e).getD 0)) i
      ≠ some q.fencePi) :
    writeOwed i [e] s = fenceWrite s i (fenceCookie e ((fenceKind q.cont e).getD 0)) e.seq (endStatus e) ((fenceKind q.cont e).getD 0) := by
  rw [writeOwed, hq]
  simp only [hroom, not_true_eq_false, if_false, if_neg hpi, writeOwed]

/-- COMPLETION_WRITE of a queue whose next run is not empty covers it. -/
theorem exec_completionWrite_run {s : State} {i : Nat} {q : Queue} (h : Safety.unitRuns s 0x112) (hq : queueAt s i = some q) (hrun : runNow q ≠ []) :
    exec (.completionWrite i) s = .next (coverRun i (runNow q) s) := by
  change execCompletionWrite i s = _
  rw [execCompletionWrite, unitStep_next h, completionWrite, hq]
  simp only [hrun, false_and, if_false]

/-- COMPLETION_WRITE with nothing finished and nothing owed does nothing. -/
theorem exec_completionWrite_nothing {s : State} {i : Nat} {q : Queue} (h : Safety.unitRuns s 0x112) (hq : queueAt s i = some q) (howed : q.owed = [])
    (hrun : runNow q = []) : exec (.completionWrite i) s = .next s := by
  change execCompletionWrite i s = _
  rw [execCompletionWrite, unitStep_next h, completionWrite, hq]
  simp only [hrun, howed, true_or, and_self, if_true]

/-- Settles O14: the run is covered, then its fence records follow, then the vectors and the WAITs. -/
theorem completionAdvances : Obligations.CompletionAdvances := by
  intro s i q h hq howed irq
  refine ⟨exec_completionWrite_nothing h hq howed, ?_⟩
  intro last hlast w u owes
  have hexec := exec_completionWrite_run h hq (fun hnil : runNow q = [] => by simp [hnil] at hlast)
  have hcover (hok : w.1 = .ok) : coverRun i (runNow q) s = coverEnd q i (runNow q) (writeOwed i owes u) := coverRun_written hq hlast rfl hok howed
  refine ⟨fun hfault => ?_, fun hok hnone hpi => ?_, fun q' => queueAt_covered, ?_⟩
  · rw [hexec, coverRun_fault hq hlast rfl hfault]
  · rw [hexec, hcover hok, hnone, coverEnd]
    simp only [writeOwed, hpi, if_true]
    rfl
  · intro e q' hok hone hq' hroom k v hpi hsame hcont
    have hwritten : writeOwed i [e] u = v := by
      rw [writeOwed_single hq' hroom (by rw [hsame, hcont]; exact hpi), hcont]
    rw [hexec, hcover hok, hone, hwritten, coverEnd]
    simp only [if_neg hpi]
    rfl

end Sys2Proof.Proofs

/-!
## FE_PART and the commands on objects (O13), WAITs, nodes and SCH_DISCARD (O11), teardowns (O12)
-/

namespace Sys2Proof.Proofs

open Machine Laws

/-! ### FE_PART -/

theorem exec_fePartWrite {s : State} {f : Nat} (h : Safety.writable s .FE_PART 0 f) (v : Nat) :
    exec (.fePartWrite f v) s = .next (if partBad s f (v % 2 ^ 51) then s else rset s .FE_PART (v % 2 ^ 51) 0 f) := by
  change execFePartWrite f v s = _
  rw [execFePartWrite, busWrite_next h]
  rfl

/-! ### OBJECT_CREATE and OBJECT_DESTROY -/

section
variable {s : State} {f : Nat} (h : Safety.writable s .FE_OBJ_CMD f 0) (hb : fget s F.FE_OBJ_RESULT.BUSY f = 0)
include h hb

theorem exec_objectCreate_rsvd : exec (.objectCreate f true) s = .next (oResult s f .badOpcode 0) := by
  change execObjectCreate f true s = _
  rw [execObjectCreate, oCmd_idle h hb]
  simp only [true_or, if_true]

/-- A sound FE_OBJ_ATTR, context and SIZE with a free index: the alignment of ADDR decides. -/
theorem exec_objectCreate_sound {attr c i : Nat} (hattr : rget s .FE_OBJ_ATTR f = attr) (hc : bits attr 11 0 = c) (hres : bits attr 31 20 = 0)
    (hres' : bit attr 15 = false) (hkind : bits attr 19 16 ≤ 5) (hc0 : c ≠ 0) (hctx : inCtx s f c = true) (hgone : ctxGone s c = false)
    (hsize : 0 < rget s .FE_OBJ_SIZE f) (hsize' : rget s .FE_OBJ_SIZE f ≤ 2 ^ 48) (hfree : freeObj s f = some i) :
    exec (.objectCreate f false) s = .next (if rget s .FE_OBJ_ADDR f % 256 ≠ 0 then oResult s f .badAlignment 0
      else oResult (onFe { s with gfx := { s.gfx with versions := tdel s.gfx.versions i } } fun x => { x with objs := (tset x.objs i
        ({ idx := i, gen := tgetD s.fe.objGen i 1, base := rget s .FE_OBJ_ADDR f, size := rget s .FE_OBJ_SIZE f, kind := bits attr 19 16, ctx := c,
           shared := bit attr 14, write := bit attr 13, read := bit attr 12 } : Obj)) }) f .ok (oHandle i (tgetD s.fe.objGen i 1))) := by
  have h1 : ¬ (false = true ∨ bits attr 31 20 ≠ 0 ∨ bit attr 15 = true ∨ 5 < bits attr 19 16) := by simp [hres, hres']; omega
  have h2 : ¬ (c = 0 ∨ ¬ inCtx s f c = true ∨ ctxGone s c = true) := by simp [hc0, hctx, hgone]
  have h3 : ¬ (rget s .FE_OBJ_SIZE f = 0 ∨ 2 ^ 48 < rget s .FE_OBJ_SIZE f) := by omega
  change execObjectCreate f false s = _
  rw [execObjectCreate, oCmd_idle h hb]
  simp only [hattr, hc, if_neg h1, if_neg h2, if_neg h3, hfree]

theorem exec_objectDestroy_rsvd :
    exec (.objectDestroy f true) s = .next (oResult s f .badOpcode (fget s F.FE_OBJ_HANDLE.HANDLE f)) := by
  change execObjectDestroy f true s = _
  rw [execObjectDestroy, oCmd_idle h hb]
  rfl

theorem exec_objectDestroy_stale (ho : objectOf s f (fget s F.FE_OBJ_HANDLE.HANDLE f) = none) :
    exec (.objectDestroy f false) s = .next (oResult s f .staleHandle (fget s F.FE_OBJ_HANDLE.HANDLE f)) := by
  change execObjectDestroy f false s = _
  rw [execObjectDestroy, oCmd_idle h hb]
  simp only [Bool.false_eq_true, if_false, ho]

/-- DESTROY of a live object: refused while it is in use, and else its index and its PATCH range are free. -/
theorem exec_objectDestroy_named {o : Obj} (ho : objectOf s f (fget s F.FE_OBJ_HANDLE.HANDLE f) = some o) :
    exec (.objectDestroy f false) s = .next (if objInUse s f o then oResult s f .permission (fget s F.FE_OBJ_HANDLE.HANDLE f)
      else oResult (onXlt (onFe s fun x => { x with objs := tdel x.objs o.idx, objGen := tset x.objGen o.idx (wrapInc o.gen 16) })
        fun x => { x with ranges := x.ranges.filter fun r => r.obj ≠ o.idx }) f .ok (fget s F.FE_OBJ_HANDLE.HANDLE f)) := by
  change execObjectDestroy f false s = _
  rw [execObjectDestroy, oCmd_idle h hb]
  simp only [Bool.false_eq_true, if_false, ho]

theorem exec_objCmdUndefinedOp {op : Nat} (h1 : op ≠ 1) (h2 : op ≠ 2) : exec (.objCmdUndefinedOp f op) s = .next (oResult s f .badOpcode 0) := by
  change execObjCmdUndefinedOp f op s = _
  rw [execObjCmdUndefinedOp, oCmd_idle h hb, if_neg (by simp [h1, h2])]

end

/-- Settles O13. That CREATE and DESTROY of an object end in the accepting step is the model's choice (log 43). -/
theorem partitionsAndObjects : Obligations.PartitionsAndObjects := by
  refine ⟨fun s f v h => exec_fePartWrite h v, ?_, ?_, fun s f op h hb => exec_objCmdUndefinedOp h hb, ?_⟩
  · intro s f i h hb attr size addr c hres hres' hkind hc0 hctx hgone hsize hsize' hfree s'
    have hexec := exec_objectCreate_sound h hb rfl rfl hres hres' hkind hc0 hctx hgone hsize hsize' hfree
    refine ⟨fun hal => ?_, fun hal => ?_, exec_objectCreate_rsvd h hb⟩
    · rw [hexec]
      exact congrArg _ (if_neg (not_not.2 hal))
    · rw [hexec]
      exact congrArg _ (if_pos hal)
  · intro s f h hb hd
    refine ⟨exec_objectDestroy_rsvd h hb, exec_objectDestroy_stale h hb, fun o ho huse => ?_, fun o ho huse => ?_⟩
    · rw [exec_objectDestroy_named h hb ho, if_pos huse]
    · rw [exec_objectDestroy_named h hb ho, if_neg (by simp [huse])]
  · intro s f op r h hb
    have hgate : ∀ k, oCmd s f k = .next s := oCmd_busy h hb
    change execObjectCreate f r s = _ ∧ execObjectDestroy f r s = _ ∧ execObjCmdUndefinedOp f op s = _
    exact ⟨hgate _, hgate _, hgate _⟩

/-! ### WAIT -/

section
variable {s : State} {t : Nat} {k : Task} (h : Safety.unitRuns s 0x112) (ht : tget s.fe.tasks t = some k)
include h ht

theorem exec_waitPoll_idle (hw : isWait k 1 = true) (hr : k.reading = false) :
    exec (.waitPoll t) s = .next (onFe s fun x => { x with tasks := tset x.tasks t { k with reading := true } }) := by
  change execWaitPoll t s = _
  rw [execWaitPoll, unitStep_next h, ht]
  simp only [hw, hr, Bool.false_eq_true, not_false_eq_true, and_self, if_true]

/-- The word that a WAIT polls has been read as r. -/
theorem exec_waitPollReadDone {r : Status × List Byte × State} {v : State} (hread : vread s 210 7 k.fn k.asid k.ctx (waitAddr k) 8 = r)
    (hv : (onFe r.2.2 fun x => { x with tasks := tset x.tasks t { k with reading := false } }) = v)
    (hw : isWait k 1 = true) (hr : k.reading = true) :
    exec (.waitPollReadDone t) s = .next (if r.1 ≠ .ok then endBare v t r.1 (waitAddr k)
      else if fieldAt k.raw 16 8 ≤ leNat r.2.1 then endBare v t .ok else v) := by
  change execWaitPollReadDone t s = _
  rw [execWaitPollReadDone, unitStep_next h, ht]
  simp only [hw, hr, and_self, not_true_eq_false, if_false, hread, hv]

/-- The timeout of a WAIT of either SUBOP that has one: WATCHDOG once it has passed. -/
theorem exec_waitTimeout {us : Nat} (hw : isWait k 0 = true ∨ isWait k 1 = true) (hus : fieldAt k.raw 32 4 = us) (h0 : us ≠ 0) :
    exec (.waitTimeout t) s = .next (if k.start + 1000 * us ≤ s.time then endBare s t .watchdog else s) := by
  change execWaitTimeout t s = _
  rw [execWaitTimeout, unitStep_next h, ht]
  simp only [hw, hus, ne_eq, h0, not_false_eq_true, true_and]

end

/-! ### The end of a node -/

/-- GRAPH_NODE_FINISH of a node whose command has ended, or whose items have. -/
theorem exec_graphNodeFinish_started {s : State} {l n t : Nat} {x : Launch} {k : Task} (h : Safety.unitRuns s 0x113)
    (hx : tget s.fe.launches l = some x) (ht : ownerTask s (.node l n) = some (t, k)) (hend : k.ended = true ∨ itemsEnded k = true) :
    exec (.graphNodeFinish l n) s = .next (nodeEnd (onFe (if k.ended then s else bumpFor s k) fun y => { y with tasks := tdel y.tasks t }) l n
      (if k.discarded then .preemptedDiscarded else k.status) (nodeRead s x n).2.1 k.failAddr) := by
  change execGraphNodeFinish l n s = _
  rw [execGraphNodeFinish, unitStep_next h, hx, ht]
  by_cases he : k.ended = true
  · simp only [he, if_true]
  · simp only [he, Bool.false_eq_true, if_false, hend.resolve_left he, if_true]

/-! ### SCH_DISCARD -/

/-- The command of an entry of queue index i with these low 32 sequence bits. -/
def namedByDiscard (i n : Nat) (e : Nat × Task) : Bool :=
  match e.2.owner with | .entry j m => decide (j = i ∧ m % 2 ^ 32 = n % 2 ^ 32) | .node _ _ => false

section
variable {s : State} {d n : Nat} {q : Queue} (h : Safety.writable s .SCH_DISCARD 0 0) (hfw : fwActive s = true) (hd : d ≠ 0)
  (hq : queueAt s (d % 2 ^ 14) = some q) (hgen : q.gen = d / 2 ^ 14)
include h hfw hd hq hgen

theorem exec_schDiscard_named {t : Nat} {k : Task} (hfind : s.fe.tasks.find? (namedByDiscard (d % 2 ^ 14) n) = some (t, k)) :
    exec (.schDiscard d n) s = .next (if k.cls = 1 ∨ k.cls = 2 then notice (discardCommand s t k) 3 4 k.q else discardCommand s t k) := by
  have hlive : ¬ (d = 0 ∨ q.gen ≠ d / 2 ^ 14) := by simp [hd, hgen]
  change execSchDiscard d n s = _
  rw [execSchDiscard, busWrite_next h, hq]
  simp only [hfw, not_true_eq_false, if_false, if_neg hlive]
  split
  case _ hsome => cases hsome.symm.trans hfind; rfl
  case _ hnone => cases hnone.symm.trans hfind

theorem exec_schDiscard_unnamed (hfind : s.fe.tasks.find? (namedByDiscard (d % 2 ^ 14) n) = none) :
    exec (.schDiscard d n) s = .next s := by
  have hlive : ¬ (d = 0 ∨ q.gen ≠ d / 2 ^ 14) := by simp [hd, hgen]
  change execSchDiscard d n s = _
  rw [execSchDiscard, busWrite_next h, hq]
  simp only [hfw, not_true_eq_false, if_false, if_neg hlive]
  split
  case _ hsome => cases hsome.symm.trans hfind
  case _ => rfl

end

/-- Settles O11. -/
theorem waitsNodesDiscards : Obligations.WaitsNodesDiscards := by
  refine ⟨fun s t k h ht => ⟨exec_waitPoll_idle h ht, ?_, ?_⟩, ?_, ?_⟩
  · intro hw hr r v
    have hexec := exec_waitPollReadDone (v := v) h ht rfl rfl hw hr
    refine ⟨fun hok hle => ?_, fun hok hlt => ?_, fun hfault => ?_⟩
    · rw [hexec, if_neg (not_not.2 hok), if_pos hle]
    · rw [hexec, if_neg (not_not.2 hok), if_neg (Nat.not_le.2 hlt)]
    · rw [hexec, if_pos hfault]
  · intro hw h0
    have hexec := exec_waitTimeout h ht hw rfl h0
    refine ⟨fun hle => ?_, fun hlt => ?_⟩
    · rw [hexec, if_pos hle]
    · rw [hexec, if_neg (by omega)]
  · intro s l n t x k h hx ht rec_ ends
    refine ⟨fun he => ?_, fun he hi => ?_⟩
    · rw [exec_graphNodeFinish_started h hx ht (.inl he), if_pos he]
    · rw [exec_graphNodeFinish_started h hx ht (.inr hi), if_neg (by simp [he])]
  · intro s d n q h hfw hd hq hgen named
    exact ⟨fun t k => exec_schDiscard_named h hfw hd hq hgen, exec_schDiscard_unnamed h hfw hd hq hgen⟩

/-! ### Teardowns -/

section
variable {s : State} {c : Nat} {td : Teardown} (h : Safety.unitRuns s 0x112) (ht : tget s.fe.teardowns c = some td)
include h ht

/-- DRAIN_TIMEOUT of a teardown that drains until w. -/
theorem exec_drainTimeout_draining {w : Nat} (hst : td.step = .draining w) :
    exec (.drainTimeout c) s = .next (if s.time < w then s else tdPreempt ((ctxQueues s c).foldl (fun s e =>
      onQueue s e.1 fun q => if q.state = .drain then { q with state := .kill } else q) s) c) := by
  obtain ⟨fn, step, cmds⟩ := td
  obtain rfl : step = .draining w := hst
  change execDrainTimeout c s = _
  rw [execDrainTimeout, unitStep_next h, ht]

/-- The state in which a teardown whose work has gone abandons the fences of its queues (R71 step 3). -/
def tdAbandoned (s : State) (c : Nat) : State :=
  let v := onFe s fun x => { x with tasks := x.tasks.filter fun e => ¬ (e.2.ctx = c ∧ e.2.dropped) }
  (ctxQueues v c).foldl (fun s e => tdFences s e.1) v

/-- TEARDOWN_PREEMPT_DONE of a teardown in step 2: nothing while work of the context runs. -/
theorem exec_teardownPreemptDone_preempting (hst : td.step = .preempting) :
    exec (.teardownPreemptDone c) s = .next (if tdIdle s c = true then
      onFe ((ctxSpaces (tdAbandoned s c) c).foldl (fun s x => invRequest s { src := .teardown c, op := .range x.1 x.2 0 (2 ^ 48) }) (tdAbandoned s c))
        fun x => { x with teardowns := tupd x.teardowns c fun t => { t with step := .invalidating (ctxSpaces (tdAbandoned s c) c).length } }
      else s) := by
  change execTeardownPreemptDone c s = _
  rw [execTeardownPreemptDone, unitStep_next h, ht]
  simp only [hst, ite_not]
  rfl

/-- A teardown command finishes with OK, where its task is still held. -/
def endTeardownCmd (s : State) (x : Nat × Nat) : State :=
  match ownerTask s (.entry x.1 x.2) with | some (t, _) => endBare s t .ok | none => s

/-- TEARDOWN_QUARANTINE_END of a teardown in step 4: nothing while an acknowledgement is missing. -/
theorem exec_teardownQuarantineEnd_invalidating {l : Nat} (hst : td.step = .invalidating l) :
    exec (.teardownQuarantineEnd c) s = .next (if tdInvs s c ≠ 0 then s else flrEnd (td.cmds.foldl endTeardownCmd
      (onFe (tdSlots ((ctxQueues s c).foldl (fun s e => killQueue s e.1) s) c) fun x => { x with teardowns := tdel x.teardowns c, util := tdel x.util c }))
      td.fn) := by
  obtain ⟨fn, step, cmds⟩ := td
  obtain rfl : step = .invalidating l := hst
  change execTeardownQuarantineEnd c s = _
  rw [execTeardownQuarantineEnd, unitStep_next h, ht]
  rfl

end

/-- Settles O12. -/
theorem teardownSteps : Obligations.TeardownSteps := by
  intro s c td h ht
  refine ⟨fun w hst hle => ?_, fun w hst hlt => ?_, fun hst hidle => ?_, fun hst hbusy => ?_, fun l hst hacked => ?_, fun l hst hopen => ?_⟩
  · rw [exec_drainTimeout_draining h ht hst, if_neg (by omega)]
  · rw [exec_drainTimeout_draining h ht hst, if_pos hlt]
  · rw [exec_teardownPreemptDone_preempting h ht hst, if_pos hidle]
    rfl
  · rw [exec_teardownPreemptDone_preempting h ht hst, if_neg (by simp [hbusy])]
  · rw [exec_teardownQuarantineEnd_invalidating h ht hst, if_neg (not_not.2 hacked)]
    rfl
  · rw [exec_teardownQuarantineEnd_invalidating h ht hst, if_pos hopen]

end Sys2Proof.Proofs

/-!
## SEQ_SCMD (O29)
-/

namespace Sys2Proof.Proofs

open Machine Laws

/-! ### Commands on a slot -/

section
variable {s : State} {f d i : Nat} {x : Slot} (h : Safety.writable s .SEQ_SCMD f 0) (hb : fget s F.SEQ_SRESULT.BUSY f = 0)
  (hd : fget s F.SEQ_SARG.ARG f % 2 ^ 32 = d)
include h hb hd

/-- A slot command whose handle names no slot. -/
theorem slotCmd_stale (hx : slotOf s f d = none) (k : State → Nat → Slot → Status × State) :
    slotCmd f s k = .next (sResult s f .staleHandle d) := by
  rw [slotCmd, sCmd_idle h hb]
  simp only [hd, hx]

/-- A slot command on the slot that its handle names. -/
theorem slotCmd_named (hx : slotOf s f d = some (i, x)) (k : State → Nat → Slot → Status × State) :
    slotCmd f s k = .next (sResult (k s i x).2 f (k s i x).1 d) := by
  rw [slotCmd, sCmd_idle h hb]
  simp only [hd, hx]

/-- The four slot commands refuse a stale handle alike. -/
theorem exec_slotCommand_stale (hx : slotOf s f d = none) :
    ∀ c ∈ ([.seqCancel f, .seqHold f, .seqResume f, .seqRelease f] : List Instr), exec c s = .next (sResult s f .staleHandle d) := by
  have hstale := slotCmd_stale h hb hd hx
  intro c hc
  simp only [List.mem_cons, List.not_mem_nil, or_false] at hc
  obtain rfl | rfl | rfl | rfl := hc
  · exact (hstale _ : execSeqCancel f s = _)
  · exact (hstale _ : execSeqHold f s = _)
  · exact (hstale _ : execSeqResume f s = _)
  · exact (hstale _ : execSeqRelease f s = _)

/-- CANCEL of a slot that has not ended: at once, or with the harvest of its batch. -/
theorem exec_seqCancel_live (hx : slotOf s f d = some (i, x)) (h1 : x.state ≠ .leaving) (h2 : x.state ≠ .ended) :
    exec (.seqCancel f) s = .next (sResult (if inBatch s i then onSlotS s i fun x => { x with cancel := true } else slotLeave s i 4) f .ok d) := by
  change execSeqCancel f s = _
  rw [execSeqCancel, slotCmd_named h hb hd hx]
  cases hst : x.state with
  | leaving => exact absurd hst h1
  | ended => exact absurd hst h2
  | prefill | decode | held => rfl

theorem exec_seqCancel_over (hx : slotOf s f d = some (i, x)) (hst : x.state = .leaving ∨ x.state = .ended) :
    exec (.seqCancel f) s = .next (sResult s f .ok d) := by
  change execSeqCancel f s = _
  rw [execSeqCancel, slotCmd_named h hb hd hx]
  obtain hst | hst := hst <;> simp only [hst]

/-- HOLD of a slot that joins batches: at once, or with the harvest of its batch. -/
theorem exec_seqHold_live (hx : slotOf s f d = some (i, x)) (hst : x.state = .prefill ∨ x.state = .decode) :
    exec (.seqHold f) s = .next (sResult (if inBatch s i then onSlotS s i fun x => { x with hold := true } else slotHold s i) f .ok d) := by
  change execSeqHold f s = _
  rw [execSeqHold, slotCmd_named h hb hd hx]
  obtain hst | hst := hst <;> simp only [hst]

theorem exec_seqHold_held (hx : slotOf s f d = some (i, x)) {b : Bool} (hst : x.state = .held b) :
    exec (.seqHold f) s = .next (sResult s f .ok d) := by
  change execSeqHold f s = _
  rw [execSeqHold, slotCmd_named h hb hd hx]
  simp only [hst]

theorem exec_seqHold_over (hx : slotOf s f d = some (i, x)) (hst : x.state = .leaving ∨ x.state = .ended) :
    exec (.seqHold f) s = .next (sResult s f .permission d) := by
  change execSeqHold f s = _
  rw [execSeqHold, slotCmd_named h hb hd hx]
  obtain hst | hst := hst <;> simp only [hst]

theorem exec_seqResume_live (hx : slotOf s f d = some (i, x)) (hst : x.state = .prefill ∨ x.state = .decode) :
    exec (.seqResume f) s = .next (sResult s f .ok d) := by
  change execSeqResume f s = _
  rw [execSeqResume, slotCmd_named h hb hd hx]
  obtain hst | hst := hst <;> simp only [hst]

/-- RESUME of a HELD slot gives it back its state, at the end of the join order. -/
theorem exec_seqResume_held (hx : slotOf s f d = some (i, x)) {b : Bool} (hst : x.state = .held b) :
    exec (.seqResume f) s = .next (sResult (onSeq (onSlotS s i fun x => { x with state := if b then .decode else .prefill })
      fun y => { y with order := tmod y.order f [] fun l => l ++ [i] }) f .ok d) := by
  change execSeqResume f s = _
  rw [execSeqResume, slotCmd_named h hb hd hx]
  simp only [hst]

theorem exec_seqResume_over (hx : slotOf s f d = some (i, x)) (hst : x.state = .leaving ∨ x.state = .ended) :
    exec (.seqResume f) s = .next (sResult s f .permission d) := by
  change execSeqResume f s = _
  rw [execSeqResume, slotCmd_named h hb hd hx]
  obtain hst | hst := hst <;> simp only [hst]

/-- RELEASE of an ENDED slot: FREE at once where it holds no page. -/
theorem exec_seqRelease_ended (hx : slotOf s f d = some (i, x)) (hst : x.state = .ended) :
    exec (.seqRelease f) s = .next (sResult (if x.pages = [] then slotFree s i else onSlotS s i fun x => { x with freeing := true }) f .ok d) := by
  change execSeqRelease f s = _
  rw [execSeqRelease, slotCmd_named h hb hd hx]
  simp only [hst]

theorem exec_seqRelease_live (hx : slotOf s f d = some (i, x)) (hst : x.state ≠ .ended) :
    exec (.seqRelease f) s = .next (sResult s f .permission d) := by
  change execSeqRelease f s = _
  rw [execSeqRelease, slotCmd_named h hb hd hx]
  cases hst' : x.state with
  | ended => exact absurd hst' hst
  | prefill | decode | held | leaving => rfl

end

/-! ### ADMIT, the pages of the pool, and undefined OPs -/

/-- The slots of a function's partition, rising. -/
def partSlots (s : State) (f : Nat) : List Nat := upFrom (16 * fget s F.SEQ_PART.BASE 0 f) (16 * fget s F.SEQ_PART.COUNT 0 f)

section
variable {s : State} {f : Nat} (h : Safety.writable s .SEQ_SCMD f 0) (hb : fget s F.SEQ_SRESULT.BUSY f = 0)
include h hb

theorem exec_seqAdmit_free {i : Nat} (hi : (partSlots s f).find? (fun i => (slotAt s i).isNone) = some i) :
    exec (.seqAdmit f) s = .next (onSeq (fset s F.SEQ_SRESULT.BUSY 1 f) fun x => { x with admitting := tset x.admitting f i }) := by
  change execSeqAdmit f s = _
  rw [partSlots] at hi
  rw [execSeqAdmit, sCmd_idle h hb, hi]

theorem exec_seqAdmit_full (hi : (partSlots s f).find? (fun i => (slotAt s i).isNone) = none) :
    exec (.seqAdmit f) s = .next (sResult s f .lengthRange 0) := by
  change execSeqAdmit f s = _
  rw [partSlots] at hi
  rw [execSeqAdmit, sCmd_idle h hb, hi]

theorem exec_seqAddPages_none (hn : fget s F.SEQ_SARG.ARG f % 2 ^ 23 = 0) :
    exec (.seqAddPages f) s = .next (sResult s f .ok (fget s F.SEQ_KV_TOP.TOP f)) := by
  change execSeqAddPages f s = _
  rw [execSeqAddPages, sCmd_idle h hb]
  exact congrArg _ (if_pos hn)

/-- ADD_PAGES with a pool object: TOP goes up where the object holds that many entries. -/
theorem exec_seqAddPages_pool {n top : Nat} {o : Obj} (hn : fget s F.SEQ_SARG.ARG f % 2 ^ 23 = n) (htop : fget s F.SEQ_KV_TOP.TOP f = top)
    (ho : kvPool s f = some o) (h0 : n ≠ 0) :
    exec (.seqAddPages f) s = .next (if o.size < (top + n) * 8 then sResult s f .lengthExceedsObject top
      else if 2 ^ 22 < top + n then sResult s f .lengthRange top
      else sResult (fset s F.SEQ_KV_TOP.TOP (top + n) f) f .ok (top + n)) := by
  change execSeqAddPages f s = _
  rw [execSeqAddPages, sCmd_idle h hb]
  simp only [hn, htop, ho, if_neg h0]

theorem exec_seqRemovePages {n top : Nat} (hn : fget s F.SEQ_SARG.ARG f % 2 ^ 23 = n) (htop : fget s F.SEQ_KV_TOP.TOP f = top) :
    exec (.seqRemovePages f) s = .next (if top < n then sResult s f .lengthRange top
      else sResult (fset s F.SEQ_KV_TOP.TOP (top - n) f) f .ok (top - n)) := by
  change execSeqRemovePages f s = _
  rw [execSeqRemovePages, sCmd_idle h hb]
  simp only [hn, htop]

theorem exec_seqScmdUndefinedOp {op : Nat} (hop : op % 16 = 0 ∨ 7 < op % 16) :
    exec (.seqScmdUndefinedOp f op) s = .next (sResult s f .badOpcode 0) := by
  change execSeqScmdUndefinedOp f op s = _
  rw [execSeqScmdUndefinedOp, sCmd_idle h hb, if_neg (by omega)]

end

/-- While BUSY is 1 all eight commands are discarded. -/
theorem exec_seqScmd_busy {s : State} {f : Nat} (op : Nat) (h : Safety.writable s .SEQ_SCMD f 0) (hb : fget s F.SEQ_SRESULT.BUSY f = 1) :
    ∀ c ∈ ([.seqAdmit f, .seqCancel f, .seqHold f, .seqResume f, .seqRelease f, .seqAddPages f, .seqRemovePages f, .seqScmdUndefinedOp f op] : List Instr),
      exec c s = .next s := by
  have hgate : ∀ k, sCmd s f k = .next s := sCmd_busy h hb
  have hslot : ∀ k, slotCmd f s k = .next s := fun k => hgate _
  intro c hc
  simp only [List.mem_cons, List.not_mem_nil, or_false] at hc
  obtain rfl | rfl | rfl | rfl | rfl | rfl | rfl | rfl := hc
  · exact (hgate _ : execSeqAdmit f s = _)
  · exact (hslot _ : execSeqCancel f s = _)
  · exact (hslot _ : execSeqHold f s = _)
  · exact (hslot _ : execSeqResume f s = _)
  · exact (hslot _ : execSeqRelease f s = _)
  · exact (hgate _ : execSeqAddPages f s = _)
  · exact (hgate _ : execSeqRemovePages f s = _)
  · exact (hgate _ : execSeqScmdUndefinedOp f op s = _)

/-! ### The end of ADMIT -/

section
variable {s : State} {f i : Nat} {r : Status × List Byte × State} (h : Safety.unitRuns s 0x114) (hi : tget s.seq.admitting f = some i)
  (hread : ipaRead (onSeq s fun x => { x with admitting := tdel x.admitting f }) f (rget s .SEQ_SARG f) 64 = r)
include h hi hread

theorem exec_seqAdmitReadDone_unread (hr : r.1 ≠ .ok) : exec (.seqAdmitReadDone f) s = .next (sResult r.2.2 f r.1 0) := by
  change execSeqAdmitReadDone f s = _
  rw [execSeqAdmitReadDone, unitStep_next h, hi]
  simp only [rget_onSeq, hread, if_pos hr]

theorem exec_seqAdmitReadDone_refused {st : Status} (hr : r.1 = .ok) (hc : admitCheck r.2.2 f r.2.1 = some st) :
    exec (.seqAdmitReadDone f) s = .next (sResult r.2.2 f st 0) := by
  change execSeqAdmitReadDone f s = _
  rw [execSeqAdmitReadDone, unitStep_next h, hi]
  simp only [rget_onSeq, hread, hr, hc, ne_eq, not_true_eq_false, if_false]

/-- A descriptor that passes: the slot has its state, at the end of the join order. -/
theorem exec_seqAdmitReadDone_admitted (hr : r.1 = .ok) (hc : admitCheck r.2.2 f r.2.1 = none) :
    exec (.seqAdmitReadDone f) s = .next (sResult (onSeq r.2.2 fun x => { x with
      slots := tset x.slots i (slotFrom f (tgetD r.2.2.seq.gens i 1) r.2.1), order := tmod x.order f [] fun l => l ++ [i] }) f .ok
      (sHandle i (tgetD r.2.2.seq.gens i 1))) := by
  change execSeqAdmitReadDone f s = _
  rw [execSeqAdmitReadDone, unitStep_next h, hi]
  simp only [rget_onSeq, hread, hr, hc, ne_eq, not_true_eq_false, if_false]

end

theorem exec_seqKvPoolWrite {s : State} {f : Nat} (h : Safety.writable s .SEQ_KV_POOL f 0) (v : Nat) :
    exec (.seqKvPoolWrite f v) s = .next (if fget s F.SEQ_KV_TOP.TOP f = 0 ∧ ¬ holdsPage s f then rset s .SEQ_KV_POOL (v % 2 ^ 32) f else s) := by
  change execSeqKvPoolWrite f v s = _
  rw [execSeqKvPoolWrite, busWrite_next h]

/-- Settles O29. That RELEASE of a slot with pages reports OK when it is accepted (log 47) and that OBJECT_DESTROY ends in its step (log 43)
are the model's choices. -/
theorem slotCommands : Obligations.SlotCommands := by
  refine ⟨?_, fun s f op => exec_seqScmd_busy op, ?_, ?_, ?_⟩
  · intro s f h hb d top n
    refine ⟨fun i => exec_seqAdmit_free h hb, exec_seqAdmit_full h hb, exec_slotCommand_stale h hb rfl, ?_, fun o ho h0 hsize hmax => ?_,
      exec_seqAddPages_none h hb, fun o ho h0 hsize => ?_, fun hle => ?_, fun hlt => ?_, fun op => exec_seqScmdUndefinedOp h hb⟩
    · intro i x hx
      refine ⟨fun h1 h2 hout => ?_, fun h1 h2 hin => ?_, fun hst => ?_, fun hst => ?_, fun b hst => ?_, fun hst hp => ?_, fun hst hp => ?_,
        exec_seqRelease_live h hb rfl hx⟩
      · rw [exec_seqCancel_live h hb rfl hx h1 h2, if_neg (by simp [hout])]
      · rw [exec_seqCancel_live h hb rfl hx h1 h2, if_pos hin]
      · exact ⟨exec_seqCancel_over h hb rfl hx hst, exec_seqHold_over h hb rfl hx hst, exec_seqResume_over h hb rfl hx hst⟩
      · refine ⟨exec_seqResume_live h hb rfl hx hst, fun hout => ?_, fun hin => ?_⟩
        · rw [exec_seqHold_live h hb rfl hx hst, if_neg (by simp [hout])]
        · rw [exec_seqHold_live h hb rfl hx hst, if_pos hin]
      · exact ⟨exec_seqHold_held h hb rfl hx hst, exec_seqResume_held h hb rfl hx hst⟩
      · rw [exec_seqRelease_ended h hb rfl hx hst, if_pos hp]
      · rw [exec_seqRelease_ended h hb rfl hx hst, if_neg hp]
    · rw [exec_seqAddPages_pool h hb rfl rfl ho h0, if_neg (Nat.not_lt.2 hsize), if_neg (Nat.not_lt.2 hmax)]
    · rw [exec_seqAddPages_pool h hb rfl rfl ho h0, if_pos hsize]
    · rw [exec_seqRemovePages h hb rfl rfl, if_neg (Nat.not_lt.2 hle)]
    · rw [exec_seqRemovePages h hb rfl rfl, if_pos hlt]
  · intro s f i h hi r
    exact ⟨exec_seqAdmitReadDone_unread h hi rfl, fun st => exec_seqAdmitReadDone_refused h hi rfl, exec_seqAdmitReadDone_admitted h hi rfl⟩
  · intro s f v h
    refine ⟨fun htop hpage => ?_, fun hheld => ?_⟩
    · rw [exec_seqKvPoolWrite h, if_pos (by simp [htop, hpage])]
    · rw [exec_seqKvPoolWrite h, if_neg (by simpa [or_iff_not_imp_left] using hheld)]
  · intro s f h hb d
    refine ⟨exec_objectDestroy_rsvd h hb, exec_objectDestroy_stale h hb, fun o ho huse => ?_, fun o ho huse => ?_⟩
    · rw [exec_objectDestroy_named h hb ho, if_pos huse]
    · rw [exec_objectDestroy_named h hb ho, if_neg (by simp [huse])]

end Sys2Proof.Proofs

/-!
## Ring entries: fetch, checks and starts (O9, O10)
-/

namespace Sys2Proof.Proofs

open Machine Laws

/-! ### The rows of the ring commands (R51) -/

/-- The rows of R51 on queue i with m misses of the object cache: OPCODE, SUBOP, command. -/
def ringRows (i m : Nat) : List (Nat × Nat × Instr) :=
  [(1, 0, .drawNonIndexed i m), (1, 1, .drawIndexed i m), (1, 2, .drawIndirect i m), (2, 0, .binPassBegin i m),
    (2, 1, .binPassEnd i m), (3, 0, .dispatchDirect i m), (3, 1, .dispatchIndirect i m), (3, 2, .dispatchResident i m),
    (4, 0, .accordCommand i m), (5, 0, .copy i m), (5, 1, .fill i m), (6, 0, .pressDeflateCompress i m),
    (6, 1, .pressPf1Compress i m), (6, 2, .pressDeflateDecompress i m), (6, 3, .pressPf1Decompress i m), (7, 0, .fence i m),
    (8, 0, .waitQueueSequence i m), (8, 1, .waitMemoryValue i m), (9, 0, .graphLaunch i m), (10, 0, .seqStep i m),
    (11, 0, .queryContextUtil i m), (11, 1, .queryContextMemory i m), (11, 2, .queryTimestamp i m), (11, 3, .queryQueueState i m),
    (12, 0, .contextTeardownKill i m), (12, 1, .contextTeardownDrain i m)]

/-- Every row is the one entry row, at its OPCODE and SUBOP. -/
theorem exec_ringRow (s : State) (i m : Nat) : ∀ row ∈ ringRows i m, exec row.2.2 s = entryRow row.1 row.2.1 i m s := by
  simp only [ringRows, List.forall_mem_cons]
  exact ⟨rfl, rfl, rfl, rfl, rfl, rfl, rfl, rfl, rfl, rfl, rfl, rfl, rfl, rfl, rfl, rfl, rfl, rfl, rfl, rfl, rfl, rfl, rfl, rfl, rfl, rfl,
    List.forall_mem_nil _⟩

section
variable {s : State} {i m op sub : Nat} {q : Queue} {e : Entry} (h : Safety.engines s) (hn : nextCheck s i = some (q, e))
include h hn

/-- An entry of another OPCODE or SUBOP is not this row's. -/
theorem entryRow_other (hop : opOf e.raw ≠ op ∨ subOf e.raw ≠ sub) : entryRow op sub i m s = .next s := by
  rw [entryRow, engineStep_next h, hn]
  simp only [if_pos (Or.inr hop : e.phase ≠ .fetched ∨ opOf e.raw ≠ op ∨ subOf e.raw ≠ sub)]

/-- Misses of the object cache: the check waits for their reads. -/
theorem entryRow_misses (hph : e.phase = .fetched) (hop : opOf e.raw = op) (hsub : subOf e.raw = sub) (hm : m ≠ 0) :
    entryRow op sub i m s = .next (onEntry s i e.seq fun x => { x with phase := .missing m none }) := by
  rw [entryRow, engineStep_next h, hn]
  simp only [hph, hop, hsub, ne_eq, not_true_eq_false, or_self, if_false, hm]

/-- Without a miss the entry is checked, and starts if it may. -/
theorem entryRow_noMiss (hph : e.phase = .fetched) (hop : opOf e.raw = op) (hsub : subOf e.raw = sub) :
    entryRow op sub i 0 s = .next (sweepUndefined (checkNow s i q e) i) := by
  rw [entryRow, engineStep_next h, hn]
  simp only [hph, hop, hsub, ne_eq, not_true_eq_false, or_self, if_false, if_true]

end

/-! ### Fetches, object cache reads and the ends of commands -/

theorem exec_entryFetch_active {s : State} {i : Nat} {q : Queue} (h : Safety.unitRuns s 0x112) (hq : queueAt s i = some q) (hst : q.state = .active)
    (hcls : q.cls = 0) (hres : q.resident = false) (hne : q.fetch % 2 ^ 32 ≠ q.shadow) (hon : domOn s 41 = true) :
    exec (.entryFetch i) s = .next (fetchOne s i) := by
  change execEntryFetch i s = _
  rw [execEntryFetch, unitStep_next h, hq]
  simp only [hst, hcls, hres, hne, hon, Bool.false_eq_true, not_false_eq_true, ne_eq, and_self, if_true]

/-- A read that an entry waits for returns: the status of the first that failed stays, and the last read has the entry checked. -/
theorem exec_objectCacheMissReadDone {s : State} {i m : Nat} {q : Queue} {e : Entry} {bad : Option Status} (h : Safety.unitRuns s 0x112)
    (hn : nextCheck s i = some (q, e)) (hph : e.phase = .missing m bad) (st : Status) :
    exec (.objectCacheMissReadDone i st) s = .next (
      let bad' := if bad = none ∧ readStatus st = true then some st else bad
      if 1 < m then onEntry s i e.seq fun x => { x with phase := .missing (m - 1) bad' }
      else sweepUndefined (checkNow (onEntry s i e.seq fun x => { x with phase := .fetched }) i q e bad') i) := by
  change execObjectCacheMissReadDone i st s = _
  rw [execObjectCacheMissReadDone, unitStep_next h, hn]
  simp only [hph, Option.isNone_iff_eq_none]

theorem exec_commandStart_queue {s : State} (h : Safety.unitRuns s 0x113) (i : Nat) :
    exec (.commandStart (.queue i)) s = .next (sweepUndefined (beginEntry s i) i) := by
  change execCommandStart (.queue i) s = _
  rw [execCommandStart, unitStep_next h]

/-- The first ready node of a launch starts where it can. -/
theorem exec_commandStart_launch {s u : State} {l n : Nat} {x : Launch} (h : Safety.unitRuns s 0x113) (hx : tget s.fe.launches l = some x)
    (hhead : x.ready.head? = some n) (htry : nodeTry s l n = (true, u)) : exec (.commandStart (.launch l)) s = .next u := by
  obtain ⟨rest, hready⟩ : ∃ rest, x.ready = n :: rest := by
    cases hr : x.ready with
    | nil => simp [hr] at hhead
    | cons a rest => exact ⟨rest, by simpa [hr] using hhead⟩
  change execCommandStart (.launch l) s = _
  rw [execCommandStart, unitStep_next h]
  simp only [hx, hready, nodeFirst, htry]

theorem exec_commandFinish_ended {s : State} {t i n : Nat} {k : Task} (h : Safety.unitRuns s 0x113) (ht : taskAt s t = some k)
    (howner : k.owner = .entry i n) (hend : itemsEnded k = true) :
    exec (.commandFinish t) s = .next (endBare (bumpFor s k) t k.status k.failAddr) := by
  change execCommandFinish t s = _
  rw [execCommandFinish, unitStep_next h]
  simp only [ht, howner, hend, if_true]

/-! ### The arguments of indirect commands -/

/-- The command is a DRAW; the other indirect command is DISPATCH. -/
def isDraw (k : Task) : Bool := opOf k.raw = 1

/-- The read of the arguments of an indirect command: 20 bytes of a DRAW, 12 of a DISPATCH. -/
def argsRead (s : State) (k : Task) : Status × List Byte × State :=
  vread s 210 7 k.fn k.asid k.ctx (if isDraw k then objBase k 36 + fieldAt k.raw 40 4 else objBase k 32 + fieldAt k.raw 36 4)
    (if isDraw k then 20 else 12)

/-- The command with the arguments bs in place of its own. -/
def argsRaw (k : Task) (bs : List Byte) : List Byte := putAt k.raw (if isDraw k then 20 else 16) (bs.take (if isDraw k then 16 else 12))

/-- What the arguments bs fail, and whether they are zero. -/
def argsCheck (k : Task) (bs : List Byte) : List (Nat × Status) × Bool :=
  let c := indirectFails (argsRaw k bs) k.objs (if isDraw k then k.draw else none)
  (failIf (isDraw k ∧ fieldAt bs 16 4 ≠ 0) 1 .badOpcode ++ c.1, c.2)

/-- The read has returned. -/
def argsHere (s : State) (t : Nat) (k : Task) : State := onTask (argsRead s k).2.2 t fun k => { k with reading := false }

/-- An indirect command that ends without coming to a stream leaves its place in the pass empty. -/
def endIndirect (s : State) (t : Nat) (st : Status) (addr : Nat) : State :=
  onDraw (endBare s t st addr) t fun d => { d with reading := false, released := true }

/-- The arguments take their place, and the command goes on. -/
def argsTaken (s : State) (t : Nat) (k : Task) : State :=
  let raw := argsRaw k (argsRead s k).2.1
  onDraw (onTask (argsHere s t k) t fun x => { x with raw := raw, total := if isDraw k then 0 else gridBlocks raw }) t
    fun d => { d with raw := raw, reading := false }

/-- The arguments have been read: the first check they fail ends the command, zero ones end it with OK, and others take their place. -/
def argsChecked (s : State) (t : Nat) (k : Task) : State :=
  match firstFail (argsCheck k (argsRead s k).2.1).1 with
  | some st => endIndirect (argsHere s t k) t st 0
  | none => if (argsCheck k (argsRead s k).2.1).2 then endIndirect (argsHere s t k) t .ok 0 else argsTaken s t k

theorem argsChecked_refused {s : State} {t : Nat} {k : Task} {st : Status} (hfail : firstFail (argsCheck k (argsRead s k).2.1).1 = some st) :
    argsChecked s t k = endIndirect (argsHere s t k) t st 0 := by
  rw [argsChecked, hfail]

theorem argsChecked_sound {s : State} {t : Nat} {k : Task} (hfail : firstFail (argsCheck k (argsRead s k).2.1).1 = none) :
    argsChecked s t k = if (argsCheck k (argsRead s k).2.1).2 then endIndirect (argsHere s t k) t .ok 0 else argsTaken s t k := by
  rw [argsChecked, hfail]

section
variable {s : State} {t : Nat} {k : Task} (h : Safety.unitRuns s 0x113) (ht : taskAt s t = some k) (hr : k.reading = true)
  (hdisc : k.discarded = false) (hop : opOf k.raw = 1 ∨ opOf k.raw = 3)
include h ht hr hdisc hop

theorem exec_indirectArgsReadDone_fault (hfault : (argsRead s k).1 ≠ .ok) :
    exec (.indirectArgsReadDone t) s = .next (endIndirect (argsHere s t k) t (argsRead s k).1 (argsHere s t k).xlt.failAddr) := by
  change execIndirectArgsReadDone t s = _
  rw [execIndirectArgsReadDone, unitStep_next h]
  simp only [ht, hr, hop, hdisc, and_self, not_true_eq_false, if_false, Bool.false_eq_true, false_and]
  exact congrArg _ (if_pos hfault)

theorem exec_indirectArgsReadDone_read (hok : (argsRead s k).1 = .ok) : exec (.indirectArgsReadDone t) s = .next (argsChecked s t k) := by
  change execIndirectArgsReadDone t s = _
  rw [execIndirectArgsReadDone, unitStep_next h]
  simp only [ht, hr, hop, hdisc, and_self, not_true_eq_false, if_false, Bool.false_eq_true, false_and]
  exact congrArg _ (if_neg (not_not.2 hok))

end

/-- Settles O10. That a row of another OPCODE leaves the state is the model's choice (log 10). -/
theorem entryProgress : Obligations.EntryProgress := by
  intro s h
  refine ⟨fun i q hrec hq hst hcls hres hne hon => exec_entryFetch_active ⟨h, hrec⟩ hq hst hcls hres hne hon, ?_, ?_, fun hrec => ?_⟩
  · intro i q e m hn hph row hrow
    rw [exec_ringRow s i m row hrow]
    exact ⟨entryRow_misses h hn hph, entryRow_other h hn⟩
  · intro i q e m bad st hrec hn hph bad'
    have hexec := exec_objectCacheMissReadDone ⟨h, hrec⟩ hn hph st
    exact ⟨fun hlt => hexec.trans (congrArg _ (if_pos hlt)), fun hle => hexec.trans (congrArg _ (if_neg (Nat.not_lt.2 hle)))⟩
  · refine ⟨exec_commandStart_queue ⟨h, hrec⟩, fun l x n u => exec_commandStart_launch ⟨h, hrec⟩,
      fun t k i n => exec_commandFinish_ended ⟨h, hrec⟩, ?_⟩
    intro t k ht hr hdisc hop draw va r raw c fails v ends
    have hread (hok : r.1 = .ok) := exec_indirectArgsReadDone_read ⟨h, hrec⟩ ht hr hdisc hop hok
    refine ⟨exec_indirectArgsReadDone_fault ⟨h, hrec⟩ ht hr hdisc hop, fun st hok hfail => ?_, fun hok hfail hzero => ?_, fun hok hfail hmore => ?_⟩
    · exact (hread hok).trans (congrArg _ (argsChecked_refused hfail))
    · exact (hread hok).trans (congrArg _ ((argsChecked_sound hfail).trans (if_pos hzero)))
    · exact (hread hok).trans (congrArg _ ((argsChecked_sound hfail).trans (if_neg (Bool.eq_false_iff.1 hmore))))

end Sys2Proof.Proofs

/-!
## The start of each ring command (O9)
-/

namespace Sys2Proof.Proofs

open Machine Laws

/-! ### From a checked entry to its start -/

/-- Entry n of queue i, whose command begins so in its turn: it has started, or it has ended at once; t where it waits. -/
def begun (t : State) (i n : Nat) : Begin × State → State
  | (.wait, _) => t
  | (.started, s) => s
  | (.ended st addr, s) => entryEnd s i n st addr

/-- The next entry of a queue, checked and allowed to start, begins as its command. -/
theorem beginEntry_checked {t : State} {i : Nat} {q : Queue} {e : Entry} (hq : queueAt t i = some q) (he : q.entries.find? unstarted = some e)
    (hph : e.phase = .checked false) (hiss : issuable q e.seq = true) (hord : ordered t i e.raw = true → earlierDone q e.seq = true)
    (hargs : argsOpen t i e.seq = false) :
    beginEntry t i = begun t i e.seq (beginCmd (onEntry t i e.seq fun x => { x with phase := .running })
      { who := { i := i, q := q, key := i, node := false }, owner := .entry i e.seq, raw := e.raw, objs := e.objs, draw := e.draw, batch := e.batch }) := by
  have hgo : ¬ (¬ issuable q e.seq = true ∨ (ordered t i e.raw = true ∧ ¬ earlierDone q e.seq = true) ∨ argsOpen t i e.seq = true) := by
    simpa [hiss, hargs] using hord
  rw [beginEntry, hq]
  simp only [he, hph, if_neg hgo, Bool.false_eq_true, if_false]
  generalize beginCmd _ _ = b
  obtain ⟨_ | _ | _, v⟩ := b <;> rfl

/-- A checked entry that is no no-op has its command begin. -/
theorem checkNow_ready {s u : State} {i n : Nat} {c : Cmd} (hr : Safety.entryReady s i n c u) :
    ∃ q e t, nextCheck s i = some (q, e) ∧ e.phase = .fetched ∧ e.raw = c.raw ∧ checkNow s i q e = begun t i n (beginCmd u c) := by
  obtain ⟨q, e, hn, hph, rfl, hrej, hzero, q', e', hq', he', hph', hseq, hraw, hiss, hord, hargs, rfl, rfl⟩ := hr
  have hbegin := beginEntry_checked hq' he' hph' (by rw [hseq]; exact hiss) (by rw [hseq, hraw]; exact hord) (by rw [hseq]; exact hargs)
  rw [hseq, hraw] at hbegin
  refine ⟨q, e, _, hn, hph, rfl, Eq.trans ?_ hbegin⟩
  rw [checkNow]
  simp only [hrej, hzero]

/-- The owner and the place of the command of a ready entry. -/
theorem entryReady_owner {s u : State} {i n : Nat} {c : Cmd} (hr : Safety.entryReady s i n c u) : c.owner = .entry i n ∧ c.who.key = i := by
  obtain ⟨q, e, -, -, -, -, -, q', e', -, -, -, -, -, -, -, -, rfl, -⟩ := hr
  exact ⟨rfl, rfl⟩

section
variable {s u : State} {i n op sub : Nat} {c : Cmd} {ins : Instr} (h : Safety.engines s) (hr : Safety.entryReady s i n c u)
  (hrow : exec ins s = entryRow op sub i 0 s) (hop : opOf c.raw = op) (hsub : subOf c.raw = sub)
include h hr hrow hop hsub

/-- The row of a ready entry has its command begin. -/
theorem exec_row_begun : ∃ t, exec ins s = .next (sweepUndefined (begun t i n (beginCmd u c)) i) := by
  obtain ⟨q, e, t, hn, hph, hraw, hcheck⟩ := checkNow_ready hr
  exact ⟨t, by rw [hrow, entryRow_noMiss h hn hph (by rw [hraw, hop]) (by rw [hraw, hsub]), hcheck]⟩

theorem exec_row_started {v : State} (hb : beginCmd u c = (.started, v)) : exec ins s = .next (sweepUndefined v i) := by
  obtain ⟨t, ht⟩ := exec_row_begun h hr hrow hop hsub
  rw [ht, hb, begun]

theorem exec_row_ended {v : State} {st : Status} {addr : Nat} (hb : beginCmd u c = (.ended st addr, v)) :
    exec ins s = .next (sweepUndefined (entryEnd v i n st addr) i) := by
  obtain ⟨t, ht⟩ := exec_row_begun h hr hrow hop hsub
  rw [ht, hb, begun]

end

/-! ### The starts, class by class -/

section
variable {u : State} {c : Cmd} {i n : Nat}

/-- A DRAW with its state, in an open pass, where the Collator has room. -/
theorem beginCmd_draw {d : DrawState} {x : Nat × Pass} {ind : Bool} (hop : opOf c.raw = 1) (hd : c.draw = some d) (hkey : c.who.key = i)
    (hx : passOf u i = some x) (hroom : room u .collator = true) (hind : decide (subOf c.raw = 2) = ind) :
    beginCmd u c = (.started, drawEnter (addTask u { c.task u .collator 0 with reading := ind }).2 u.fe.nextTask
      { c.task u .collator 0 with reading := ind } i d) := by
  simp only [beginCmd, hop, startDraw, hd, hkey, hx, hroom, not_true_eq_false, if_false, hind]
  rfl

/-- A PASS_BEGIN where no pass is open, its class has room and the pass opens. -/
theorem beginCmd_passBegin {e : Eng} {v : State} (hop : opOf c.raw = 2) (hsub : subOf c.raw = 0) (hkey : c.who.key = i) (hnone : passOf u i = none)
    (he : (if byteAt c.raw 16 = 0 then Eng.raster else .collator) = e) (hroom : room u e = true)
    (hopen : passBegin (addTask u (c.task u e 0)).2 u.fe.nextTask (c.task u e 0) = (.ok, v)) :
    beginCmd u c = (.started, demand v 40) := by
  have hopen' : passBegin (addTask u (c.task u e 0)).2 (addTask u (c.task u e 0)).1 (c.task u e 0) = (.ok, v) := hopen
  simp only [beginCmd, hop, hsub, if_true, startPassBegin, hkey, hnone, he, hroom, Option.isSome_none, Bool.false_eq_true, not_true_eq_false, or_self,
    if_false, hopen']

/-- PASS_END of a GEOMETRY pass has the pass close. -/
theorem beginCmd_passEnd_geometry {p : Nat} {x : Pass} (hop : opOf c.raw = 2) (hsub : subOf c.raw = 1) (hkey : c.who.key = i)
    (hx : passOf u i = some (p, x)) (hmode : x.mode = 0) :
    beginCmd u c = (.started, tryClose (onPass (addTask u (c.task u .none 0)).2 p fun x => { x with ending := some (c.owner, u.fe.nextTask) }) p) := by
  simp only [beginCmd, hop, hsub, one_ne_zero, if_false, startPassEnd, hkey, hx, hmode, if_true]
  rfl

/-- PASS_END of a closed ROUTE or BLOCK pass frees its record. -/
theorem beginCmd_passEnd_closed {p : Nat} {x : Pass} (hop : opOf c.raw = 2) (hsub : subOf c.raw = 1) (hkey : c.who.key = i)
    (hx : passOf u i = some (p, x)) (hmode : x.mode ≠ 0) (hclosed : x.closed = true) :
    beginCmd u c = (.ended .ok 0, passFree u p) := by
  simp only [beginCmd, hop, hsub, one_ne_zero, if_false, startPassEnd, hkey, hx, hmode, hclosed, not_true_eq_false]

/-- A DISPATCH where its class has room; an indirect one waits for its grid. -/
theorem beginCmd_dispatch {ind : Bool} (hop : opOf c.raw = 3) (hroom : room u .shader = true) (hind : decide (subOf c.raw = 1) = ind) :
    beginCmd u c = (.started, (addTask u { c.task u .shader (if ind then 0 else gridBlocks c.raw) with reading := ind }).2) := by
  simp only [beginCmd, hop, startDispatch, hroom, not_true_eq_false, if_false, hind]

/-- A command of a class with room starts as a task. -/
theorem startTask_room {e : Eng} (hroom : room u e = true) (total : Nat) : startTask u c e total = (.started, (addTask u (c.task u e total)).2) := by
  rw [startTask, if_pos hroom]

theorem beginCmd_accord (hop : opOf c.raw = 4) (hroom : room u .accord = true) :
    beginCmd u c = (.started, (addTask u (c.task u .accord (((fieldAt c.raw 28 4 + 63) / 64) * ((fieldAt c.raw 24 4 + 63) / 64)))).2) := by
  simp only [beginCmd, hop, startTask_room hroom]

theorem beginCmd_copy (hop : opOf c.raw = 5) (hroom : room u .copy = true) :
    beginCmd u c = (.started, (addTask u (c.task u .copy ((fieldAt c.raw 32 8 + 65535) / 65536))).2) := by
  simp only [beginCmd, hop, startTask_room hroom]

/-- A PRESS whose folio lines the Press owns. -/
theorem beginCmd_press (hop : opOf c.raw = 6) (hroom : room u .press = true) (howns : pressOwns u c.raw = true) :
    beginCmd u c = (.started, (addTask u { c.task u .press 1 with press := some {} }).2) := by
  simp only [beginCmd, hop, startPress, hroom, howns, not_true_eq_false, if_false]

theorem beginCmd_fence (hop : opOf c.raw = 7) : beginCmd u c = (.ended .ok 0, u) := by
  simp only [beginCmd, hop]

theorem beginCmd_wait_reached {j : Nat} {q : Queue} (hop : opOf c.raw = 8) (hsub : subOf c.raw = 0)
    (hq : queueOf u c.who.q.fn (fieldAt c.raw 8 4) = some (j, q)) (hle : fieldAt c.raw 16 8 ≤ q.seq) :
    beginCmd u c = (.ended .ok 0, u) := by
  simp only [beginCmd, hop, startWait, hsub, zero_ne_one, if_false, hq, if_pos hle]

/-- A WAIT for a value that a live queue has not reached runs. -/
theorem beginCmd_wait_open {j : Nat} {q : Queue} (hop : opOf c.raw = 8) (hsub : subOf c.raw = 0)
    (hq : queueOf u c.who.q.fn (fieldAt c.raw 8 4) = some (j, q)) (hlt : q.seq < fieldAt c.raw 16 8) (hst : q.state ≠ .killed) :
    beginCmd u c = (.started, (addTask u (c.task u .none 0)).2) := by
  simp only [beginCmd, hop, startWait, hsub, zero_ne_one, if_false, hq, if_neg (Nat.not_le.2 hlt), if_neg hst]
  exact startTask_room rfl 0

theorem beginCmd_wait_memory (hop : opOf c.raw = 8) (hsub : subOf c.raw = 1) :
    beginCmd u c = (.started, (addTask u { c.task u .none 0 with reading := true }).2) := by
  simp only [beginCmd, hop, startWait, hsub, if_true]

/-- A GRAPH_LAUNCH whose launch starts runs with it. -/
theorem beginCmd_launch {g : Obj} {l : Nat} {v : State} (hop : opOf c.raw = 9) (howner : c.owner = .entry i n) (hg : tget c.objs 8 = some g)
    (hl : launchStart u (.entry i n) c.who.q g (fieldAt c.raw 16 4) (.at_ (c.base 12 + fieldAt c.raw 20 4)) = (.ok l, v)) :
    beginCmd u c = (.started, (addTask v (c.task v .none 0)).2) := by
  simp only [beginCmd, hop, startLaunch, howner, hg, hl]
  exact startTask_room rfl 0

/-- The run of a SEQ_STEP (10 R295). -/
def stepRun (c : Cmd) (i n : Nat) : SeqRun :=
  { q := i, seq := n, fn := c.who.q.fn, ctx := c.who.q.ctx, asid := c.who.q.asid, home := c.who.q, ring := bit (byteAt c.raw 28) 0, batch := c.batch,
    left := fieldAt c.raw 12 4 }

/-- A step of a context without a run, and without a ring. -/
theorem beginCmd_step_alone (hop : opOf c.raw = 10) (howner : c.owner = .entry i n) (hring : bit (byteAt c.raw 28) 0 = false)
    (hruns : ∀ e ∈ u.seq.runs, e.2.ctx ≠ c.who.q.ctx) :
    beginCmd u c = (.started, onSeq (addTask u (c.task u .none 0)).2 fun x => { x with runs := tset x.runs u.fe.nextTask (stepRun c i n) }) := by
  have hfree : u.seq.runs.any (fun e => decide (e.2.ctx = c.who.q.ctx) || (false && e.2.ring)) = false := by simpa using hruns
  simp only [beginCmd, hop, startStep, howner, hring, hfree, Bool.false_eq_true, false_and, if_false]
  rw [stepRun, hring]
  rfl

/-- No run of the context, and no ring step under way. -/
theorem ringStep_free (hruns : ∀ e ∈ u.seq.runs, e.2.ctx ≠ c.who.q.ctx ∧ e.2.ring = false) :
    u.seq.runs.any (fun e => decide (e.2.ctx = c.who.q.ctx) || (true && e.2.ring)) = false := by
  simpa using hruns

/-- A ring step whose ring is ready sets BUSY. -/
theorem beginCmd_step_ring (hop : opOf c.raw = 10) (howner : c.owner = .entry i n) (hring : bit (byteAt c.raw 28) 0 = true)
    (hruns : ∀ e ∈ u.seq.runs, e.2.ctx ≠ c.who.q.ctx ∧ e.2.ring = false) (hready : ringReady u = true) :
    beginCmd u c = (.started, onSeq (rset (addTask u (c.task u .none 0)).2 .SEQ_RING_STATUS (2 ^ 63 + fget u F.SEQ_RING_STATUS.STATUS <<< 48))
      fun x => { x with runs := tset x.runs u.fe.nextTask (stepRun c i n) }) := by
  simp only [beginCmd, hop, startStep, howner, hring, ringStep_free hruns, hready, not_true_eq_false, and_false, Bool.false_eq_true, if_false, if_true]
  rw [stepRun, hring]
  rfl

/-- A ring step without its ring wakes the ports and ends. -/
theorem beginCmd_step_ringOff (hop : opOf c.raw = 10) (howner : c.owner = .entry i n) (hring : bit (byteAt c.raw 28) 0 = true)
    (hruns : ∀ e ∈ u.seq.runs, e.2.ctx ≠ c.who.q.ctx ∧ e.2.ring = false) (hready : ringReady u = false) :
    beginCmd u c = (.ended .domainOff 0, ringWake u) := by
  simp only [beginCmd, hop, startStep, howner, hring, ringStep_free hruns, hready, Bool.false_eq_true, not_false_eq_true, and_self, if_false, if_true]

/-- A QUERY ends with the status of its record's write. -/
theorem beginCmd_query {o : Obj} (hop : opOf c.raw = 11) (ho : tget c.objs 8 = some o) {r : Status × State}
    (hw : feWrite (queryWords u c).2 c.who.q (c.base 8 + fieldAt c.raw 16 8) ((queryWords u c).1.flatMap fun x => natLe x 8) = r) :
    beginCmd u c = (.ended r.1 (c.base 8 + fieldAt c.raw 16 8), bumpVersion r.2 o.idx) := by
  simp only [beginCmd, hop, startQuery, ho, hw]

/-- The state in which a CONTEXT_TEARDOWN has begun the teardown of its context, swept in its mode (R71 step 1). -/
def tdSwept (u : State) (c : Cmd) (i n : Nat) : State :=
  let ctx := fieldAt c.raw 8 2 % 4096
  let us := if fieldAt c.raw 12 4 = 0 then 1000 else fieldAt c.raw 12 4
  let td : Teardown := { fn := c.who.q.fn, step := .draining (u.time + 1000 * us), cmds := [(i, n)] }
  tdSweep (onFe (addTask u (c.task u .none 0)).2 fun y => { y with teardowns := tset y.teardowns ctx td }) ctx (decide (subOf c.raw = 1))

/-- A CONTEXT_TEARDOWN of a context that is not being torn down: its work is pre-empted at once but where queues drain. -/
theorem beginCmd_teardown {x : Nat} (hop : opOf c.raw = 12) (howner : c.owner = .entry i n) (hx : fieldAt c.raw 8 2 % 4096 = x)
    (hnone : tget u.fe.teardowns x = none) :
    beginCmd u c = (.started, if decide (subOf c.raw = 1) = true ∧ ¬ tdDrained (tdSwept u c i n) x = true then tdSwept u c i n
      else tdPreempt (tdSwept u c i n) x) := by
  have hnone' : tget (addTask u (c.task u .none 0)).2.fe.teardowns x = none := hnone
  simp only [beginCmd, hop, startTeardown, howner, hx, hnone', tdSwept]
  rfl

theorem beginCmd_teardown_kill {x : Nat} (hop : opOf c.raw = 12) (hsub : subOf c.raw = 0) (howner : c.owner = .entry i n)
    (hx : fieldAt c.raw 8 2 % 4096 = x) (hnone : tget u.fe.teardowns x = none) :
    beginCmd u c = (.started, tdPreempt (tdSwept u c i n) x) := by
  rw [beginCmd_teardown hop howner hx hnone, if_neg (by simp [hsub])]

theorem beginCmd_teardown_drain {x : Nat} (hop : opOf c.raw = 12) (hsub : subOf c.raw = 1) (howner : c.owner = .entry i n)
    (hx : fieldAt c.raw 8 2 % 4096 = x) (hnone : tget u.fe.teardowns x = none) :
    beginCmd u c = (.started, if tdDrained (tdSwept u c i n) x = true then tdPreempt (tdSwept u c i n) x else tdSwept u c i n) := by
  rw [beginCmd_teardown hop howner hx hnone]
  simp only [hsub, decide_true, true_and, ite_not]

end

/-- Settles O9, class by class of R51. That check and start are one step (log 10), and that a ring step without its ring wakes the ports and
ends with DOMAIN_OFF (log 65), are the model's choices. -/
theorem entryRowsStart : Obligations.EntryRowsStart := by
  intro s u i n c h hr op sub after held
  obtain ⟨howner, hkey⟩ := entryReady_owner hr
  have starts {ins : Instr} {o b : Nat} {v : State} (hrow : exec ins s = entryRow o b i 0 s) (hop : op = o) (hsub : sub = b)
      (hb : beginCmd u c = (.started, v)) : exec ins s = .next (after v) := exec_row_started h hr hrow hop hsub hb
  have ends {ins : Instr} {o b addr : Nat} {st : Status} {v : State} (hrow : exec ins s = entryRow o b i 0 s) (hop : op = o) (hsub : sub = b)
      (hb : beginCmd u c = (.ended st addr, v)) : exec ins s = .next (after (entryEnd v i n st addr)) := exec_row_ended h hr hrow hop hsub hb
  refine ⟨fun hop d x hd hx hroom => ?draw, fun hop hsub hnone => ?passBegin,
    fun hop hsub p x hx => ⟨fun hmode => ?passEndGeometry, fun hmode hclosed => ?passEndClosed⟩, fun hop hroom => ?dispatch,
    fun hop hsub hroom => starts rfl hop hsub (beginCmd_accord hop hroom), fun hop hroom => ?copy, fun hop hroom howns => ?press,
    fun hop hsub => ends rfl hop hsub (beginCmd_fence hop), fun hop hsub j q hq => ⟨fun hle => ?waitReached, fun hlt hst => ?waitOpen⟩,
    fun hop hsub => starts rfl hop hsub (beginCmd_wait_memory hop hsub),
    fun hop hsub g l v hg hl => starts rfl hop hsub (beginCmd_launch hop howner hg hl), fun hop hsub => ?step, fun hop o ho => ?query,
    fun hop => ?teardown⟩
  case draw =>
    intro k
    have hdraw {ind : Bool} := beginCmd_draw (ind := ind) hop hd hkey hx hroom
    exact ⟨fun hsub => starts rfl hop hsub (hdraw (decide_eq_false (by omega))), fun hsub => starts rfl hop hsub (hdraw (decide_eq_false (by omega))),
      fun hsub => starts rfl hop hsub (hdraw (decide_eq_true hsub))⟩
  case passBegin =>
    intro e v hroom hopen
    exact starts rfl hop hsub (beginCmd_passBegin hop hsub hkey hnone rfl hroom hopen)
  case passEndGeometry => exact starts rfl hop hsub (beginCmd_passEnd_geometry hop hsub hkey hx hmode)
  case passEndClosed => exact ends rfl hop hsub (beginCmd_passEnd_closed hop hsub hkey hx hmode hclosed)
  case dispatch =>
    have hdispatch {ind : Bool} := beginCmd_dispatch (ind := ind) hop hroom
    exact ⟨fun hsub => starts rfl hop hsub (hdispatch (decide_eq_false (by omega))), fun hsub => starts rfl hop hsub (hdispatch (decide_eq_true hsub)),
      fun hsub => starts rfl hop hsub (hdispatch (decide_eq_false (by omega)))⟩
  case copy => exact ⟨fun hsub => starts rfl hop hsub (beginCmd_copy hop hroom), fun hsub => starts rfl hop hsub (beginCmd_copy hop hroom)⟩
  case press =>
    intro v
    have hpress := beginCmd_press hop hroom howns
    exact ⟨fun hsub => starts rfl hop hsub hpress, fun hsub => starts rfl hop hsub hpress, fun hsub => starts rfl hop hsub hpress,
      fun hsub => starts rfl hop hsub hpress⟩
  case waitReached => exact ends rfl hop hsub (beginCmd_wait_reached hop hsub hq hle)
  case waitOpen => exact starts rfl hop hsub (beginCmd_wait_open hop hsub hq hlt hst)
  case step =>
    intro ring run begins v
    refine ⟨fun hring hruns => starts rfl hop hsub (beginCmd_step_alone hop howner hring hruns),
      fun hring hruns => ⟨fun hready => ?_, fun hready => ?_⟩⟩
    · exact starts rfl hop hsub (beginCmd_step_ring hop howner hring hruns hready)
    · exact ends rfl hop hsub (beginCmd_step_ringOff hop howner hring hruns hready)
  case query =>
    intro w r v
    have hquery := beginCmd_query (u := u) hop ho rfl
    exact ⟨fun hsub => ends rfl hop hsub hquery, fun hsub => ends rfl hop hsub hquery, fun hsub => ends rfl hop hsub hquery,
      fun hsub => ends rfl hop hsub hquery⟩
  case teardown =>
    intro x us v td swept hnone
    exact ⟨fun hsub => starts rfl hop hsub (beginCmd_teardown_kill hop hsub howner rfl hnone),
      fun hsub => starts rfl hop hsub (beginCmd_teardown_drain hop hsub howner rfl hnone)⟩

end Sys2Proof.Proofs

/-!
## Rank: the best ready command (O15)
-/

namespace Sys2Proof.Proofs

open Machine Laws

/-! ### A list in ascending score -/

section
variable {α : Type} (f : α → Nat)

theorem insertBy_perm (x : α) (l : List α) : (insertBy f x l).Perm (x :: l) := by
  induction l with
  | nil => exact .refl _
  | cons y t ih =>
    rw [insertBy]
    split
    · exact .refl _
    · exact (ih.cons y).trans (.swap x y t)

theorem insertBy_ascending (x : α) {l : List α} (hl : l.Pairwise fun a b => f a ≤ f b) : (insertBy f x l).Pairwise fun a b => f a ≤ f b := by
  induction l with
  | nil => exact List.pairwise_singleton _ _
  | cons y t ih =>
    obtain ⟨hy, ht⟩ := List.pairwise_cons.1 hl
    rw [insertBy]
    split
    case isTrue hxy =>
      refine List.pairwise_cons.2 ⟨fun z hz => ?_, hl⟩
      rcases List.mem_cons.1 hz with rfl | hzt
      · exact Nat.le_of_lt hxy
      · exact (Nat.le_of_lt hxy).trans (hy z hzt)
    case isFalse hyx =>
      refine List.pairwise_cons.2 ⟨fun z hz => ?_, ih ht⟩
      rcases List.mem_cons.1 ((insertBy_perm f x t).mem_iff.1 hz) with rfl | hzt
      · exact Nat.le_of_not_lt hyx
      · exact hy z hzt

/-- Elements inserted one by one into a list in ascending score stand there with its own, in ascending score. -/
theorem foldl_insertBy {acc : List α} (hacc : acc.Pairwise fun a b => f a ≤ f b) (l : List α) :
    (l.foldl (fun acc x => insertBy f x acc) acc).Perm (acc ++ l)
      ∧ (l.foldl (fun acc x => insertBy f x acc) acc).Pairwise fun a b => f a ≤ f b := by
  induction l generalizing acc with
  | nil => exact ⟨by simp, hacc⟩
  | cons x l ih =>
    obtain ⟨hperm, hasc⟩ := ih (insertBy_ascending f x hacc)
    exact ⟨hperm.trans (((insertBy_perm f x acc).append_right l).trans List.perm_middle.symm), hasc⟩

theorem sortBy_perm (l : List α) : (sortBy f l).Perm l := (foldl_insertBy f .nil l).1

theorem sortBy_ascending (l : List α) : (sortBy f l).Pairwise fun a b => f a ≤ f b := (foldl_insertBy f .nil l).2

/-- What a sorted list begins with is of the list, and of the least score there. -/
theorem head?_sortBy {l : List α} {x : α} (h : (sortBy f l).head? = some x) : x ∈ l ∧ ∀ y ∈ l, f x ≤ f y := by
  obtain ⟨t, ht⟩ := List.head?_eq_some_iff.1 h
  have hasc := sortBy_ascending f l
  rw [ht] at hasc
  refine ⟨(sortBy_perm f l).mem_iff.1 (List.mem_of_head? h), fun y hy => ?_⟩
  have hyt := (sortBy_perm f l).mem_iff.2 hy
  rw [ht] at hyt
  rcases List.mem_cons.1 hyt with rfl | hyt
  · exact Nat.le_refl _
  · exact List.rel_of_pairwise_cons hasc hyt

end

/-! ### Score (R74, R75) -/

/-- Turns from the one served last on to a turn, around the round robin: 0 for the next one. -/
def turnDistance (turn last : Nat) : Nat := (turn + 2 ^ 30 - last - 1) % 2 ^ 30

/-- A score compares queue class, then PRIORITY, then the distance in the round robin. -/
theorem rankScore_le {c p t c' p' t' last : Nat} (hp : p ≤ 15) (hp' : p' ≤ 15) (h : rankScore c p t last ≤ rankScore c' p' t' last) :
    classRank c ≤ classRank c' ∧ (c = c' → p' ≤ p) ∧ (c = c' → p' = p → turnDistance t last ≤ turnDistance t' last) := by
  have hd (turn : Nat) : turnDistance turn last < 2 ^ 30 := Nat.mod_lt _ (by decide)
  have ht := hd t
  have ht' := hd t'
  have hscore (c p t : Nat) (hp : p ≤ 15) : rankScore c p t last = classRank c * 2 ^ 40 + (15 - p) * 2 ^ 32 + turnDistance t last := by
    rw [rankScore, show p.min 15 = p from Nat.min_eq_left hp, turnDistance]
  rw [hscore c p t hp, hscore c' p' t' hp'] at h
  refine ⟨by omega, ?_, ?_⟩
  · rintro rfl
    omega
  · rintro rfl rfl
    omega

/-- A turn at no greater distance: it lies between the last one and a later turn, and does not follow a turn that has wrapped as it has. -/
theorem turnDistance_le {t t' last : Nat} (ht : t < 2 ^ 30 - 1) (ht' : t' < 2 ^ 30 - 1) (hlast : last ≤ 2 ^ 30 - 1)
    (h : turnDistance t last ≤ turnDistance t' last) : (last < t' → last < t ∧ t ≤ t') ∧ (t' ≤ last → t ≤ last → t ≤ t') := by
  have hafter {u : Nat} (hu : u < 2 ^ 30 - 1) (hlt : last < u) : turnDistance u last = u - last - 1 := by unfold turnDistance; omega
  have hwrapped {u : Nat} (hle : u ≤ last) : turnDistance u last = u + (2 ^ 30 - 1 - last) := by unfold turnDistance; omega
  refine ⟨fun hlt' => ?_, fun hle' hle => ?_⟩
  · rw [hafter ht' hlt'] at h
    by_cases hlt : last < t
    · rw [hafter ht hlt] at h
      omega
    · rw [hwrapped (by omega)] at h
      omega
  · rw [hwrapped hle, hwrapped hle'] at h
    omega

/-- Settles O15: the head of a list sorted by score has the least one, and a score orders class, PRIORITY and turn in this order. -/
theorem bestRankFirst : Obligations.BestRankFirst := by
  intro s e t k hhead hbounds hlast
  obtain ⟨hmem, hleast⟩ := head?_sortBy _ hhead
  obtain ⟨hin, hcond⟩ := List.mem_filter.1 hmem
  obtain ⟨heng, hready⟩ := of_decide_eq_true hcond
  obtain ⟨hkprio, hkturn, -⟩ := hbounds _ hin
  refine ⟨hin, heng, hready, fun x hx hxeng hxready => ?_⟩
  obtain ⟨hxprio, hxturn, -⟩ := hbounds x hx
  have hscore := hleast x (List.mem_filter.2 ⟨hx, decide_eq_true ⟨hxeng, hxready⟩⟩)
  obtain ⟨hcls, hprio, hturn⟩ := rankScore_le hkprio hxprio hscore
  exact ⟨hcls, hprio, fun hc hp => turnDistance_le hkturn hxturn hlast (hturn hc hp)⟩

end Sys2Proof.Proofs

/-!
## Items, chunks, pre-emption and the budget of deadline work (O16)
-/

namespace Sys2Proof.Proofs

open Machine Laws

/-! ### ITEM_PLACE -/

/-- ITEM_PLACE of a class whose items are those of its commands. -/
theorem exec_itemPlace {s : State} (h : Safety.unitRuns s 0x113) {e : Eng} (hcol : e ≠ .collator) (hras : e ≠ .raster) :
    exec (.itemPlace e) s = .next (itemPlace s e) := by
  change execItemPlace e s = _
  rw [execItemPlace, unitStep_next h]
  cases e with
  | collator => exact absurd rfl hcol
  | raster => exact absurd rfl hras
  | shader | accord | copy | press | none => rfl

theorem exec_itemPlace_collator {s : State} (h : Safety.unitRuns s 0x113) :
    exec (.itemPlace .collator) s = .next (((passesBy s .collator fun _ => true).map Prod.fst).foldl placePositions s) := by
  change execItemPlace .collator s = _
  rw [execItemPlace, unitStep_next h]

theorem exec_itemPlace_raster {s : State} (h : Safety.unitRuns s 0x113) : exec (.itemPlace .raster) s = .next (placeFragments s) := by
  change execItemPlace .raster s = _
  rw [execItemPlace, unitStep_next h]

/-- Command t of a class takes its next item; the ready ones that satisfy lost are charged (R102). -/
def itemTaken (s : State) (e : Eng) (t : Nat) (k : Task) (lost : Task → Bool) : State :=
  onTask (chargeLosers (serveTurn s e (turnKey k)) e t k lost) t fun k => (takeItem k).2

theorem itemPlace_copy_free {s : State} {t : Nat} {k : Task} (hk : (readyTasks s .copy).head? = some (t, k)) (hlive : liveItems s .copy (fun _ => true) < 4) :
    itemPlace s .copy = itemTaken s .copy t k fun _ => liveItems s .copy (fun _ => true) = 3 := by
  simp only [itemPlace, hk, if_pos hlive, itemTaken]

theorem itemPlace_copy_full {s : State} (hlive : 4 ≤ liveItems s .copy fun _ => true) : itemPlace s .copy = s := by
  simp only [itemPlace, if_neg (Nat.not_lt.2 hlive)]

theorem itemPlace_press_open {s : State} {t : Nat} {k : Task} (hopen : domOpen s 43 = true)
    (hk : (readyTasks s .press).find? (fun x => liveItems s .press (fun k => compresses k = compresses x.2) = 0) = some (t, k)) :
    itemPlace s .press = itemTaken s .press t k fun y => compresses k = compresses y := by
  simp only [itemPlace, hopen, hk, not_true_eq_false, if_false, itemTaken]

theorem itemPlace_press_closed {s : State} (hclosed : domOpen s 43 = false) (hne : readyTasks s .press ≠ []) : itemPlace s .press = demand s 43 := by
  simp only [itemPlace, hclosed, Bool.false_eq_true, not_false_eq_true, if_true, if_neg hne]

theorem itemPlace_block {s : State} {e : Eng} (he : e = .shader ∨ e = .accord) : itemPlace s e = requestPreempt (placeFirst e (readyTasks s e) s) e := by
  rcases he with rfl | rfl <;> rfl

section
variable {s u : State} {t : Nat} {k k' : Task} {p : Prog} (e : Eng) (rest : List (Nat × Task)) (hp : taskProg s t k = (some (p, k'), u))
include hp

/-- The state in which command t has been served, and has the item it places. -/
def itemServed (u : State) (e : Eng) (t : Nat) (k : Task) : State := onTask (serveTurn u e (turnKey k)) t fun _ => (takeItem k).2

theorem placeFirst_saved {c : Nat} {b : Nat × Block} (hc : nextCore u t k' p = some c) (hb : savedItem u t (takeItem k').1 = some b) :
    placeFirst e ((t, k) :: rest) s = chargeCores u (restoreBlock (itemServed u e t k') b.1 b.2 c) k'.ctx := by
  simp only [placeFirst, hp, hc, hb, itemServed]

theorem placeFirst_new {c : Nat} (hc : nextCore u t k' p = some c) (hb : savedItem u t (takeItem k').1 = none) :
    placeFirst e ((t, k) :: rest) s = chargeCores u (placeNew (itemServed u e t k') t (takeItem k').1 k' p c) k'.ctx := by
  simp only [placeFirst, hp, hc, hb, itemServed]

theorem placeFirst_noCore (hc : nextCore u t k' p = none) : placeFirst e ((t, k) :: rest) s = placeFirst e rest u := by
  simp only [placeFirst, hp, hc]

end

/-! ### COPY_CHUNK_DONE -/

theorem exec_copyChunkDone_live {s : State} {t i n : Nat} {k : Task} (h : Safety.unitRuns s (0x118 + i % 4)) (ht : taskAt s t = some k)
    (he : k.eng = .copy) (hi : i ∈ k.live) :
    let u := busySteps (itemDone (copyChunk s k i).2 t i) k.ctx .copy n
    exec (.copyChunkDone t i n) s = .next (if (copyChunk s k i).1 = .ok then u else taskFail u t (copyChunk s k i).1 u.xlt.failAddr) := by
  change execCopyChunkDone t i n s = _
  have hgo : ¬ (k.eng ≠ .copy ∨ i ∉ k.live) := by simp [he, hi]
  rw [execCopyChunkDone, unitStep_next h, ht]
  simp only [if_neg hgo]

/-! ### PREEMPT_GRACE_EXPIRY and PREEMPT_SAVE_DONE -/

/-- What the begin of a block's save brings: its engine drains first; without one, a block to be discarded ends. -/
def saveBegun (u : State) (b : Nat) (k : Block) : State :=
  match k.engine with
  | some e => onEngine u e fun x => { x with draining := true }
  | none => if k.discard then dropBlock u b else u

section
variable {s : State} {b : Nat} {k : Block} (h : Safety.engines s) (hk : blockAt s b = some k)
include h hk

/-- The save of a block that is not saved with a tile begins. -/
theorem exec_preemptGraceExpiry_block (hpre : k.pre = .requested) (hkind : ∀ c sl, k.kind ≠ .fragment c sl) :
    exec (.preemptGraceExpiry (.block b)) s = .next (saveBegun (onBlock s b fun k => { k with pre := .saving }) b k) := by
  change execPreemptGraceExpiry (.block b) s = _
  rw [execPreemptGraceExpiry, engineStep_next h]
  simp only [graceBlock, hk, hpre, ne_eq, not_true_eq_false, false_or]
  cases hkd : k.kind with
  | fragment c sl => exact absurd hkd (hkind c sl)
  | item t i | position p =>
    simp only [Bool.false_eq_true, and_false, if_false]
    rfl

theorem exec_preemptGraceExpiry_other (hpre : k.pre ≠ .requested) : exec (.preemptGraceExpiry (.block b)) s = .next s := by
  change execPreemptGraceExpiry (.block b) s = _
  rw [execPreemptGraceExpiry, engineStep_next h]
  simp only [graceBlock, hk, if_pos (Or.inl hpre)]

theorem exec_preemptSaveDone_block (hpre : k.pre = .saving) :
    exec (.preemptSaveDone (.block b)) s = .next (if engineStill s k = true then saveBlock s b id else s) := by
  change execPreemptSaveDone (.block b) s = _
  rw [execPreemptSaveDone, engineStep_next h]
  simp only [hk, hpre, true_and]

end

section
variable {s : State} {c sl : Nat} {t : RTile} (h : Safety.engines s) (ht : tileAt s c sl = some t)
include h ht

theorem exec_preemptGraceExpiry_tile (hpre : t.pre = .requested) :
    exec (.preemptGraceExpiry (.tile c sl)) s = .next (onSc (onTile s c sl fun t => { t with pre := .saving }) fun y => { y with
      blocks := y.blocks.map fun e => if e.2.kind = .fragment c sl then (e.1, { e.2 with pre := .saving }) else e }) := by
  change execPreemptGraceExpiry (.tile c sl) s = _
  rw [execPreemptGraceExpiry, engineStep_next h]
  simp only [ht, hpre, ne_eq, not_true_eq_false, if_false]

/-- The groups of a tile are saved with the tile's place as their kind. -/
def groupsSaved (s : State) (c sl key : Nat) : State :=
  (s.sc.blocks.filter fun e => e.2.kind = .fragment c sl).foldl (fun s e => saveBlock s e.1 fun _ => .fragment (key / 16) (key % 16)) s

/-- A tile as it is held saved, with its bytes and without its runs and cores. -/
def tileSaved (u : State) (c : Nat) (x : RTile) : RTile :=
  { x with pre := .none, runs := [], cores := [none, none, none, none], data := tileData u c x, bad := tileBad u c x }

theorem exec_preemptSaveDone_tile {key : Nat} {x : RTile} (hc : c < 16) (hpre : t.pre = .saving)
    (hkey : (upFrom 256 4096).find? (fun k => (tget s.gfx.tiles k).isNone) = some key) (hx : tileAt (groupsSaved s c sl key) c sl = some x) :
    exec (.preemptSaveDone (.tile c sl)) s = .next (moveGroups (onGfx (groupsSaved s c sl key) fun g => { g with
      tiles := tset (tdel g.tiles (c * 16 + sl)) key (tileSaved (groupsSaved s c sl key) c x) })
      (.fragment c sl) (.fragment (key / 16) (key % 16))) := by
  have hgo : ¬ (t.pre ≠ .saving ∨ 16 ≤ c) := by simp [hpre, hc]
  change execPreemptSaveDone (.tile c sl) s = _
  rw [execPreemptSaveDone, engineStep_next h]
  unfold groupsSaved at hx
  simp only [ht, if_neg hgo, hkey, hx]
  rfl

end

/-! ### DEADLINE_BUDGET_EXPIRY -/

/-- The work that a block belongs to fails with WATCHDOG: a command, or a pass. -/
def budgetFail (s : State) : BKind → State
  | .item t _ => taskFail s t .watchdog
  | .position p => passFail s p .watchdog
  | .fragment c sl => match tget s.gfx.tiles (c * 16 + sl) with | some x => passFail s x.pass .watchdog | none => s

/-- The group in a slot is parked under token n. -/
def parkedAs (slot n : Nat) (g : Group) : Bool :=
  decide (g.slot = slot) && (match g.park with | some p => decide (p.id = n) | none => false)

/-- The token of the group in a slot of a block is free. -/
def parkIdFreed (s : State) (k : Block) (slot : Nat) : State :=
  onSc s fun x => { x with parkIds := x.parkIds.filter fun n => ¬ k.groups.any (parkedAs slot n) }

/-- The group in a slot of a block ends: alone where the block is of a command's item, else with its block, leaving no output. -/
def budgetEnd (s : State) (b slot : Nat) : BKind → State
  | .item _ _ =>
    settle (barChecks (onGroup s b slot fun g => { g with park := none, mem := [], threads := g.threads.map fun h => { h with live := false } }) b) b 0
  | _ => dropBlock s b

section
variable {s : State} {core slot b : Nat} {k : Block} {g : Group} (h : Safety.engines s) (hg : groupIn s core slot = some (b, k, g))
include h hg

theorem exec_deadlineBudgetExpiry_none (hno : fget s F.SCH_DL_BUDGET.STEPS = 0 ∨ (k.cls ≠ 1 ∧ k.cls ≠ 2)) :
    exec (.deadlineBudgetExpiry core slot) s = .next s := by
  change execDeadlineBudgetExpiry core slot s = _
  have hno' : fget s F.SCH_DL_BUDGET.STEPS = 0 ∨ ¬ (k.cls = 1 ∨ k.cls = 2) := by simpa only [not_or] using hno
  rw [execDeadlineBudgetExpiry, engineStep_next h, hg]
  simp only [if_pos hno']

theorem exec_deadlineBudgetExpiry_end (hsteps : fget s F.SCH_DL_BUDGET.STEPS ≠ 0) (hcls : k.cls = 1 ∨ k.cls = 2) :
    exec (.deadlineBudgetExpiry core slot) s = .next (budgetEnd (parkIdFreed (budgetFail s k.kind) k slot) b slot k.kind) := by
  change execDeadlineBudgetExpiry core slot s = _
  have hgo : ¬ (fget s F.SCH_DL_BUDGET.STEPS = 0 ∨ ¬ (k.cls = 1 ∨ k.cls = 2)) := by simp [hsteps, hcls]
  rw [execDeadlineBudgetExpiry, engineStep_next h, hg]
  simp only [if_neg hgo]
  cases k.kind <;> rfl

end

/-- Settles O16. That DEADLINE_BUDGET_EXPIRY needs no premise on the steps its group took is deduced (log 108); which lower work
is asked to give way is the model's choice (log 129). -/
theorem itemsPreemptionAndBudget : Obligations.ItemsPreemptionAndBudget := by
  refine ⟨fun s h => ?place, fun s t i n k h ht he hi => exec_copyChunkDone_live h ht he hi, fun s h => ?engines⟩
  case place =>
    intro takes live
    have hplace {e : Eng} (hcol : e ≠ .collator) (hras : e ≠ .raster) := exec_itemPlace h hcol hras
    have hblock {e : Eng} (he : e = .shader ∨ e = .accord) : exec (.itemPlace e) s = .next (requestPreempt (placeFirst e (readyTasks s e) s) e) := by
      rw [hplace (by rcases he with rfl | rfl <;> decide) (by rcases he with rfl | rfl <;> decide), itemPlace_block he]
    refine ⟨fun t k hk hlive => ?_, fun hlive => ?_, fun t k hopen hk => ?_, fun hclosed hne => ?_, ?_, ?_,
      exec_itemPlace_collator h, exec_itemPlace_raster h⟩
    · rw [hplace (by decide) (by decide), itemPlace_copy_free hk hlive]
      rfl
    · rw [hplace (by decide) (by decide), itemPlace_copy_full hlive]
    · rw [hplace (by decide) (by decide), itemPlace_press_open hopen hk]
      rfl
    · rw [hplace (by decide) (by decide), itemPlace_press_closed hclosed hne]
    · intro e t k rest p k' u c he hready hp hc x v
      refine ⟨fun b hb => ?_, fun hb => ?_⟩
      · rw [hblock he, hready, placeFirst_saved e rest hp hc hb]
        rfl
      · rw [hblock he, hready, placeFirst_new e rest hp hc hb]
        rfl
    · intro e t k p k' u he hready hp hc
      rw [hblock he, hready, placeFirst_noCore e [] hp hc, placeFirst]
  case engines =>
    refine ⟨fun b k hk hpre hkind => ?_, fun b k hk => exec_preemptGraceExpiry_other h hk,
      fun c sl t => exec_preemptGraceExpiry_tile h, fun b k hk hpre => ⟨fun hstill => ?_, fun hbusy => ?_⟩,
      fun c sl t key hc ht hpre hkey => ?_,
      fun core slot b k g => exec_deadlineBudgetExpiry_none h, fun core slot b k g hg hsteps hcls => ?_⟩
    · intro u
      have hgrace := exec_preemptGraceExpiry_block h hk hpre hkind
      refine ⟨fun e he => ?_, fun he => ?_⟩
      · rw [hgrace, saveBegun, he]
      · rw [hgrace, saveBegun, he]
    · rw [exec_preemptSaveDone_block h hk hpre, if_pos hstill]
    · rw [exec_preemptSaveDone_block h hk hpre, if_neg (Bool.eq_false_iff.1 hbusy)]
    · intro u x
      exact exec_preemptSaveDone_tile h ht hc hpre hkey
    · intro mine frees
      have hend := exec_deadlineBudgetExpiry_end h hg hsteps hcls
      refine ⟨fun t i hkind => ?_, fun p hkind => ?_, fun c sl x hkind hx => ?_⟩
      · rw [hend, hkind]
        rfl
      · rw [hend, hkind]
        rfl
      · rw [hend, hkind, budgetFail, hx]
        rfl

end Sys2Proof.Proofs

/-!
## PUBLISH and PATCH (O17)
-/

namespace Sys2Proof.Proofs

open Machine Laws

/-! ### SCH_GCMD -/

theorem gCmd_idle {s : State} {f : Nat} (h : Safety.writable s .SCH_GCMD f 0) (hb : fget s F.SCH_GRESULT.BUSY f = 0) (k : State → State) :
    gCmd s f k = .next (k s) := cmdWrite_idle h hb k

theorem gCmd_busy {s : State} {f : Nat} (h : Safety.writable s .SCH_GCMD f 0) (hb : fget s F.SCH_GRESULT.BUSY f = 1) (k : State → State) :
    gCmd s f k = .next s := cmdWrite_busy h hb k

/-- An operation has begun, and waits for its completion with the failure found so far. -/
def gopLeft (v : State) (f : Nat) (op : GOp) (e : Option (Status × Nat)) : State := onFe v fun x => { x with gops := tset x.gops f { op with failed := e } }

section
variable {s : State} {f : Nat} (h : Safety.writable s .SCH_GCMD f 0) (hb : fget s F.SCH_GRESULT.BUSY f = 0)
include h hb

theorem exec_graphPublish_stale (hg : (gopBegin s f 1).1.graph = none) :
    exec (.graphPublish f) s = .next (gopLeft (gopBegin s f 1).2 f (gopBegin s f 1).1 (some (.staleHandle, 0))) := by
  change execGraphPublish f s = _
  rw [execGraphPublish, gCmd_idle h hb]
  simp only [hg, gopLeft]

theorem exec_graphPublish_refused {g : Obj} (hg : (gopBegin s f 1).1.graph = some g)
    (hbad : gopRights g none = false ∨ liveOf (gopBegin s f 1).2 f g.idx ≠ []) :
    exec (.graphPublish f) s = .next (gopLeft (gopBegin s f 1).2 f (gopBegin s f 1).1 (some (.permission, 0))) := by
  have hbad' : ¬ gopRights g none = true ∨ liveOf (gopBegin s f 1).2 f g.idx ≠ [] := by rwa [Bool.not_eq_true]
  change execGraphPublish f s = _
  rw [execGraphPublish, gCmd_idle h hb]
  simp only [hg, if_pos hbad', gopLeft]

/-- A graph that may be published is checked; where it passes, its range is armed and an invalidation of it asked for (R91, 12 R379). -/
theorem exec_graphPublish_checked {g : Obj} (hg : (gopBegin s f 1).1.graph = some g) (hr : gopRights g none = true)
    (hl : liveOf (gopBegin s f 1).2 f g.idx = []) {st : Status} {n : Nat} {hd : List Byte} {r : GRange} {v : State}
    (hc : publishCheck (gopBegin s f 1).2 f g = ((st, n), hd, r, v)) :
    exec (.graphPublish f) s = .next (if st ≠ .ok then gopLeft v f (gopBegin s f 1).1 (some (st, n))
      else gopLeft (invRequest (armRange v r) { src := .graph f, op := .outputRange r.lo (r.hi - r.lo) }) f (gopBegin s f 1).1 none) := by
  have hgo : ¬ (¬ gopRights g none = true ∨ liveOf (gopBegin s f 1).2 f g.idx ≠ []) := by simp [hr, hl]
  change execGraphPublish f s = _
  rw [execGraphPublish, gCmd_idle h hb]
  simp only [hg, if_neg hgo, hc, gopLeft]

theorem exec_graphPatch_idle :
    exec (.graphPatch f) s = .next (onFe (gopBegin s f 2).2 fun x => { x with gops := tset x.gops f (gopBegin s f 2).1 }) := by
  change execGraphPatch f s = _
  rw [execGraphPatch, gCmd_idle h hb]

theorem exec_gcmdUndefinedOp {op : Nat} (h1 : op % 16 ≠ 1) (h2 : op % 16 ≠ 2) :
    exec (.gcmdUndefinedOp f op) s = .next (gResult s f .badOpcode 0 0) := by
  change execGcmdUndefinedOp f op s = _
  rw [execGcmdUndefinedOp, gCmd_idle h hb, if_neg (by simp [h1, h2])]

end

/-- While BUSY is 1 all three writes are discarded. -/
theorem exec_gcmd_busy {s : State} {f : Nat} (op : Nat) (h : Safety.writable s .SCH_GCMD f 0) (hb : fget s F.SCH_GRESULT.BUSY f = 1) :
    exec (.graphPublish f) s = .next s ∧ exec (.graphPatch f) s = .next s ∧ exec (.gcmdUndefinedOp f op) s = .next s := by
  have hgate : ∀ k, gCmd s f k = .next s := gCmd_busy h hb
  change execGraphPublish f s = _ ∧ execGraphPatch f s = _ ∧ execGcmdUndefinedOp f op s = _
  exact ⟨hgate _, hgate _, hgate _⟩

/-! ### GRAPH_OP_COMPLETE -/

/-- PUBLISH of a graph takes effect, unless its range is armed no more or a launch holds it. -/
def publishEnd (u : State) (f : Nat) (g : Obj) : State :=
  match graphRange u f g.idx with
  | none => gResult u f .permission 0 0
  | some r => if liveOf u f g.idx = [] then publishEffect u f r.lo g.idx else gResult u f .permission 0 0

/-- PATCH of a graph is performed, unless a handle, the rights or the armed range are missing. -/
def patchEnd (u : State) (f : Nat) (op : GOp) (g : Obj) : State :=
  match op.stage with
  | none => gResult u f .staleHandle 0 0
  | some st =>
    if ¬ gopRights g (some st) then gResult u f .permission 0 0 else
    match graphRange u f g.idx with
    | none => gResult u f .staleHandle 0 0
    | some r =>
      let x := patchRun u f r.lo g st op.count op.offset
      gResult x.2 f x.1.1 x.1.2.1 x.1.2.2

section
variable {s : State} {f : Nat} {op : GOp} (h : Safety.unitRuns s 0x113) (hop : tget s.fe.gops f = some op)
include h hop

theorem exec_graphOpComplete_arming (ha : arming s f = true) : exec (.graphOpComplete f) s = .next s := by
  change execGraphOpComplete f s = _
  rw [execGraphOpComplete, unitStep_next h, hop]
  simp only [ha, if_true]

section
variable (ha : arming s f = false)
include ha

theorem exec_graphOpComplete_failed {st : Status} {n : Nat} (hf : op.failed = some (st, n)) :
    exec (.graphOpComplete f) s = .next (gResult (onFe s fun x => { x with gops := tdel x.gops f }) f st n 0) := by
  change execGraphOpComplete f s = _
  rw [execGraphOpComplete, unitStep_next h, hop]
  simp only [ha, hf, Bool.false_eq_true, if_false]

theorem exec_graphOpComplete_stale (hf : op.failed = none) (hg : op.graph = none) :
    exec (.graphOpComplete f) s = .next (gResult (onFe s fun x => { x with gops := tdel x.gops f }) f .staleHandle 0 0) := by
  change execGraphOpComplete f s = _
  rw [execGraphOpComplete, unitStep_next h, hop]
  simp only [ha, hf, hg, Bool.false_eq_true, if_false]

theorem exec_graphOpComplete_sound {g : Obj} (hf : op.failed = none) (hg : op.graph = some g) :
    exec (.graphOpComplete f) s = .next (if op.op = 1 then publishEnd (onFe s fun x => { x with gops := tdel x.gops f }) f g
      else patchEnd (onFe s fun x => { x with gops := tdel x.gops f }) f op g) := by
  change execGraphOpComplete f s = _
  rw [execGraphOpComplete, unitStep_next h, hop]
  simp only [ha, hf, hg, Bool.false_eq_true, if_false]
  rfl

end

end

/-- Settles O17. That STATUS, DETAIL and VERSION stand while BUSY is 1 is the model's choice (log 121); that a PUBLISH is checked when it is
accepted is deduced (log 23). -/
theorem graphOperations : Obligations.GraphOperations := by
  refine ⟨fun s f h hb => ?accept, fun s f op => exec_gcmd_busy op, fun s f op h hop => ?complete⟩
  case accept =>
    intro b left
    refine ⟨⟨rfl, rfl⟩, exec_graphPublish_stale h hb, fun g => exec_graphPublish_refused h hb, ?_, exec_graphPatch_idle h hb,
      fun op => exec_gcmdUndefinedOp h hb⟩
    intro g st n hd r v hg hr hl hc
    have hchecked := exec_graphPublish_checked h hb hg hr hl hc
    exact ⟨fun hbad => hchecked.trans (congrArg _ (if_pos hbad)), fun hok => hchecked.trans (congrArg _ (if_neg (not_not.2 hok)))⟩
  case complete =>
    intro u
    refine ⟨exec_graphOpComplete_arming h hop, fun ha => ⟨fun st n => exec_graphOpComplete_failed h hop ha,
      exec_graphOpComplete_stale h hop ha, fun g hf hg h1 => ?publish, fun g hf hg h2 => ?patch⟩⟩
    case publish =>
      have hend : exec (.graphOpComplete f) s = .next (publishEnd u f g) :=
        (exec_graphOpComplete_sound h hop ha hf hg).trans (congrArg _ (if_pos h1))
      refine ⟨fun hr => ?_, fun r hr hl => ?_, fun r hr hl => ?_⟩
      · rw [hend, publishEnd, hr]
      · rw [hend, publishEnd, hr]
        exact congrArg _ (if_neg hl)
      · rw [hend, publishEnd, hr]
        exact congrArg _ (if_pos hl)
    case patch =>
      have hend : exec (.graphOpComplete f) s = .next (patchEnd u f op g) :=
        (exec_graphOpComplete_sound h hop ha hf hg).trans (congrArg _ (if_neg (by omega)))
      refine ⟨fun hst => ?_, fun st hst hbad => ?_, fun st hst hok hr => ?_, fun r st hst hok hr => ?_⟩
      · rw [hend, patchEnd, hst]
      · rw [hend, patchEnd, hst]
        exact congrArg _ (if_pos (by simp [hbad]))
      · rw [hend, patchEnd, hst, hr]
        exact congrArg _ (if_neg (by simp [hok]))
      · rw [hend, patchEnd, hst, hr]
        exact congrArg _ (if_neg (by simp [hok]))

end Sys2Proof.Proofs

/-!
## The Collator's events (O26)
-/

namespace Sys2Proof.Proofs

open Machine Laws

/-! ### CONTROL_BLOCK_READ_DONE -/

/-- A pass whose control block fails: its record goes, and its command ends. -/
def passDropped (v : State) (p task : Nat) (st : Status) (addr : Nat) : State :=
  endBare (onGfx v fun g => { g with passes := tdel g.passes p }) task st addr

/-- List-table entries that a ROUTE or BLOCK pass takes. -/
def listNeed (y : Pass) : Nat := if y.mode = 1 then listCount y else 1

/-- A pass with its control block begins, where the list cache has room: an empty one ends at once, with its lists written. -/
def passEntered (v : State) (p : Nat) (y : Pass) : State :=
  if listFree v < listNeed y then passUnstart v p y else
  let z := { y with reading := false, serial := (takeSerial v).1, entries := listNeed y }
  let u := onPass (takeSerial v).2 p fun _ => z
  if ctlZero z then
    let w := (List.range (listCount z)).foldl (writeTable p) u
    beginEnd (if z.mode = 1 then colWrite w p (z.target.base + fieldAt z.control 32 8) (zeros (fieldAt z.control 0 4)) else w) p
  else u

/-- The first failure of the classes that come before the test for an empty pass. -/
def earlyFail (v : State) (y : Pass) : Option Status := firstFail ((ctlFails v y).filter fun f => decide (f.1 < 5))

/-- A control block that has been read is checked: a failure ends the pass's command, and an empty pass skips the later checks. -/
def controlChecked (v : State) (p : Nat) (y : Pass) : State :=
  match earlyFail v y with
  | some st => passDropped v p y.task st 0
  | none =>
    match (if ctlZero y then none else firstFail (ctlFails v y)) with
    | some st => passDropped v p y.task st 0
    | none => passEntered v p y

theorem controlChecked_early {v : State} {p : Nat} {y : Pass} {st : Status} (hfail : earlyFail v y = some st) :
    controlChecked v p y = passDropped v p y.task st 0 := by
  rw [controlChecked, hfail]

theorem controlChecked_late {v : State} {p : Nat} {y : Pass} {st : Status} (hpass : earlyFail v y = none) (hzero : ctlZero y = false)
    (hfail : firstFail (ctlFails v y) = some st) : controlChecked v p y = passDropped v p y.task st 0 := by
  rw [controlChecked, hpass, if_neg (Bool.eq_false_iff.1 hzero), hfail]

theorem controlChecked_sound {v : State} {p : Nat} {y : Pass} (hfails : ctlFails v y = []) : controlChecked v p y = passEntered v p y := by
  have hearly : earlyFail v y = none := by rw [earlyFail, hfails]; rfl
  have hnone : firstFail (ctlFails v y) = none := by rw [hfails]; rfl
  rw [controlChecked, hearly, hnone, ite_self]

theorem passEntered_waits {v : State} {y : Pass} (p : Nat) (hfree : listFree v < listNeed y) : passEntered v p y = passUnstart v p y := if_pos hfree

theorem passEntered_starts {v : State} {y : Pass} (p : Nat) (hfree : listNeed y ≤ listFree v) (hzero : ctlZero y = false) :
    passEntered v p y = onPass (takeSerial v).2 p fun _ => { y with reading := false, serial := (takeSerial v).1, entries := listNeed y } :=
  (if_neg (Nat.not_lt.2 hfree)).trans (if_neg (Bool.eq_false_iff.1 hzero))

/-- The read of a pass's control block decides first. -/
theorem exec_controlBlockReadDone {s : State} {p : Nat} {x : Pass} (h : Safety.unitRuns s 0x111) (hx : passAt s p = some x)
    (hreading : x.reading = true) (hdisc : x.discard = false) :
    let r := vread s 209 3 x.fn x.asid x.ctx x.target.base 64
    exec (.controlBlockReadDone p) s = .next (if r.1 ≠ .ok then passDropped r.2.2 p x.task r.1 r.2.2.xlt.failAddr
      else controlChecked r.2.2 p { x with control := r.2.1 }) := by
  have hgo : ¬ (¬ x.reading = true ∨ x.discard = true) := by simp [hreading, hdisc]
  change execControlBlockReadDone p s = _
  rw [execControlBlockReadDone, unitStep_next h, hx]
  exact congrArg _ (if_neg hgo)

/-! ### The batch that the Collator takes -/

section
variable {s : State} {w : ColWork} (h : Safety.unitRuns s (if w = .stage then 0x110 else 0x111)) (f : State → Nat → Pass → State)
include h

/-- No pass has a batch ready, or the best-ranked one has a batch of another kind. -/
theorem colBatch_other (hnone : passesBy s .collator (fun x => (passWork x).isSome) = []
      ∨ ∃ p x l, passesBy s .collator (fun x => (passWork x).isSome) = (p, x) :: l ∧ passWork x ≠ some w) :
    colBatch s w f = .next s := by
  rw [colBatch, unitStep_next h]
  rcases hnone with hempty | ⟨p, x, l, hbest, hother⟩
  · simp only [hempty]
  · simp only [hbest, if_pos hother]

/-- The best-ranked pass has a batch of this kind: it is served, and the batch done. -/
theorem colBatch_taken {p : Nat} {x : Pass} {l : List (Nat × Pass)}
    (hbest : passesBy s .collator (fun x => (passWork x).isSome) = (p, x) :: l) (hwork : passWork x = some w) :
    colBatch s w f = .next (f (servePass s .collator x ((p, x) :: l)) p x) := by
  rw [colBatch, unitStep_next h]
  simp only [hbest, hwork, ne_eq, not_true_eq_false, if_false]

end

/-! ### The batches -/

theorem exec_geometryStageBatch_closed {s : State} (hclosed : domOpen s 40 = false) : exec .geometryStageBatch s = .next s := by
  change execGeometryStageBatch s = _
  rw [execGeometryStageBatch, if_pos (by simp [hclosed])]

theorem exec_geometryStageBatch_other {s : State} (h : Safety.unitRuns s 0x110)
    (hnone : passesBy s .collator (fun x => (passWork x).isSome) = []
      ∨ ∃ p x l, passesBy s .collator (fun x => (passWork x).isSome) = (p, x) :: l ∧ passWork x ≠ some .stage) :
    exec .geometryStageBatch s = .next s := by
  change execGeometryStageBatch s = _
  rw [execGeometryStageBatch, colBatch_other (w := .stage) h _ hnone, ite_self]

/-- A batch gathered from DRAW i, with what the gathering has left, waits to be shaded. -/
def batchGathered (p i : Nat) (g : List (Nat × Nat × List Nat) × PassDraw × State) : State :=
  let u := onPass g.2.2 p fun x => { x with draws := x.draws.mapIdx fun j d => if j = i then { d with at_ := g.2.1.at_ } else d }
  let pairs := (g.1.flatMap fun a => a.2.2.map fun v => (v, a.1)).eraseDups
  if g.1 = [] then u
  else onPass u p fun x => { x with batch := if x.failed then none else some { draw := i, prims := g.1, waiting := chunks 32 pairs } }

/-- What routing 64 tokens brings: after the last sweep, or a failure, PASS_BEGIN finishes. -/
def routed (v : State) (p sweeps : Nat) : State :=
  match passAt v p with
  | none => v
  | some y =>
    if y.failed then beginEnd v p
    else if y.at_.1 < sweeps then v
    else beginEnd ((List.range (listCount y)).foldl (writeTable p) v) p

/-- What testing 64 key blocks brings: after the last query tile, or a failure, PASS_BEGIN finishes. -/
def blocked (v : State) (p : Nat) : State :=
  match passAt v p with
  | none => v
  | some y => if y.failed ∨ listCount y ≤ y.at_.1 then beginEnd v p else v

section
variable {s : State} {p n : Nat} {x : Pass} {l : List (Nat × Pass)}
  (hbest : passesBy s .collator (fun x => (passWork x).isSome) = (p, x) :: l)
include hbest

theorem exec_geometryStageBatch_stage {i : Nat} (h : Safety.unitRuns s 0x110) (hopen : domOpen s 40 = true) (hwork : passWork x = some .stage)
    (hi : nextDraw x = some i) :
    exec .geometryStageBatch s = .next (tryClose (releaseDraws (placePositions
      (batchGathered p i (gather p 256 (x.draws.getD i default) [] (servePass s .collator x ((p, x) :: l)))) p) p) p) := by
  change execGeometryStageBatch s = _
  rw [execGeometryStageBatch, if_neg (by simp [hopen]), colBatch_taken (w := .stage) h _ hbest hwork, hi]
  rfl

variable (h : Safety.unitRuns s 0x111)
include h

/-- Held primitives are admitted as far as the pool goes. -/
def heldAdmitted (v : State) (p : Nat) : State :=
  tryClose (releaseDraws (admitAll p (match passAt v p with | some y => y.held.length | none => 0) v) p) p

theorem exec_geometryBatchAdmit_held (hwork : passWork x = some .admission) (hb : x.batch = none) :
    exec (.geometryBatchAdmit n) s = .next (heldAdmitted (busySteps (servePass s .collator x ((p, x) :: l)) x.ctx .collator n) p) := by
  change execGeometryBatchAdmit n s = _
  rw [execGeometryBatchAdmit, colBatch_taken (w := .admission) h _ hbest hwork, hb]
  rfl

theorem exec_geometryBatchAdmit_shaded {b : GBatch} (hwork : passWork x = some .admission) (hb : x.batch = some b) (hdone : batchDone x = true) :
    exec (.geometryBatchAdmit n) s = .next (heldAdmitted (assemble (busySteps (servePass s .collator x ((p, x) :: l)) x.ctx .collator n) p x b) p) := by
  change execGeometryBatchAdmit n s = _
  rw [execGeometryBatchAdmit, colBatch_taken (w := .admission) h _ hbest hwork, hb]
  simp only [if_pos hdone]
  rfl

theorem exec_routeBatch_route (hwork : passWork x = some .route) :
    let m := Nat.min 64 (fieldAt x.control 0 4 - x.at_.2)
    exec (.routeBatch n) s = .next (routed (onPass ((upFrom x.at_.2 m).foldl (routeToken p x.at_.1)
        (busySteps (servePass s .collator x ((p, x) :: l)) x.ctx .collator n)) p fun y =>
          { y with at_ := if x.at_.2 + m < fieldAt x.control 0 4 then (x.at_.1, x.at_.2 + m) else (x.at_.1 + 1, 0) }) p
      (if bit (byteAt x.control 7) 0 then byteAt x.control 6 else 1)) := by
  change execRouteBatch n s = _
  rw [execRouteBatch, colBatch_taken (w := .route) h _ hbest hwork]
  rfl

theorem exec_blockBatch_block (hwork : passWork x = some .block) {q : List Byte} {u : State}
    (hq : colRead (busySteps (servePass s .collator x ((p, x) :: l)) x.ctx .collator n) 209 p (x.target.base + fieldAt x.control 24 8 + 16 * x.at_.1) 16
      = (some q, u)) :
    let m := Nat.min 64 (fieldAt x.control 4 4 - x.at_.2)
    let w := (upFrom x.at_.2 m).foldl (blockKey p x.at_.1 q) u
    exec (.blockBatch n) s = .next (blocked (if fieldAt x.control 4 4 ≤ x.at_.2 + m
        then onPass (writeTable p w x.at_.1) p fun y => { y with at_ := (x.at_.1 + 1, 0), lists := tdel y.lists x.at_.1 }
        else onPass w p fun y => { y with at_ := (x.at_.1, x.at_.2 + m) }) p) := by
  change execBlockBatch n s = _
  rw [execBlockBatch, colBatch_taken (w := .block) h _ hbest hwork]
  simp only [hq, decide_eq_true_eq]
  rfl

end

/-! ### FLUSH_TILES_STORED -/

section
variable {s : State} {p : Nat} {x : Pass} (h : Safety.unitRuns s 0x111) (hx : passAt s p = some x)
include h hx

/-- A flush that carries no quire ends once its tiles are stored. -/
theorem exec_flushTilesStored_end (hflush : x.flush = .storing []) (hhand : x.toHand = []) (hout : x.out = []) :
    exec (.flushTilesStored p) s = .next (tryClose (onPass s p fun x => { x with
      flush := .none, touched := [], stored := x.touched.foldl (fun t n => tset t n x.flushes) x.stored
      lists := (x.lists.map fun e => (e.1, ({ crc := e.2.crc, side := e.2.side } : QList))).filter fun e => decide (e.2 ≠ {})
      nextQuire := 0
      dataQ := none }) p) := by
  have hgo : ¬ (x.toHand ≠ [] ∨ x.out ≠ []) := by simp [hhand, hout]
  change execFlushTilesStored p s = _
  rw [execFlushTilesStored, unitStep_next h, hx]
  simp only [hflush, if_neg hgo]
  refine congrArg (fun g => Host.Outcome.next (tryClose (onPass s p g) p)) (funext fun y => ?_)
  cases y.dataQ <;> rfl

theorem exec_flushTilesStored_early (hno : x.flush = .none ∨ x.toHand ≠ [] ∨ x.out ≠ []) : exec (.flushTilesStored p) s = .next s := by
  change execFlushTilesStored p s = _
  rw [execFlushTilesStored, unitStep_next h, hx]
  cases hflush : x.flush with
  | none => simp only [hflush]
  | storing carried => simp only [hflush, if_pos (hno.resolve_left (by simp [hflush]))]

end

/-- Settles O26: the read and the checks decide a control block, and the best-ranked pass decides which batch row does anything. -/
theorem collatorEvents : Obligations.CollatorEvents := by
  refine ⟨fun s p x h hx hreading hdisc => ?control, fun s n h => ?other, ?stage, fun s p n x l h hbest => ?batch, fun s p x h hx => ?flush⟩
  case control =>
    intro r v y need ends
    have hdone := exec_controlBlockReadDone h hx hreading hdisc
    have hread (hok : r.1 = .ok) : exec (.controlBlockReadDone p) s = .next (controlChecked v p y) :=
      hdone.trans (congrArg _ (if_neg (not_not.2 hok)))
    refine ⟨fun hbad => hdone.trans (congrArg _ (if_pos hbad)), fun st hok hfail => ?_, fun st hok hpass hzero hfail => ?_,
      fun hok hfails hfree => ?_, fun hok hfails hzero hfree => ?_⟩
    · exact (hread hok).trans (congrArg _ (controlChecked_early hfail))
    · exact (hread hok).trans (congrArg _ (controlChecked_late hpass hzero hfail))
    · exact (hread hok).trans (congrArg _ ((controlChecked_sound hfails).trans (passEntered_waits p hfree)))
    · exact (hread hok).trans (congrArg _ ((controlChecked_sound hfails).trans (passEntered_starts p hfree hzero)))
  case other =>
    intro ready none_
    refine ⟨fun hrec => exec_geometryStageBatch_other ⟨h, hrec⟩, exec_geometryStageBatch_closed, fun hrec hnone => ?_, fun hrec hnone => ?_,
      fun hrec hnone => ?_⟩
    · exact (colBatch_other (w := .admission) ⟨h, hrec⟩ _ hnone : execGeometryBatchAdmit n s = _)
    · exact (colBatch_other (w := .route) ⟨h, hrec⟩ _ hnone : execRouteBatch n s = _)
    · exact (colBatch_other (w := .block) ⟨h, hrec⟩ _ hnone : execBlockBatch n s = _)
  case stage =>
    intro s p i x l h hopen hbest hwork hi
    exact exec_geometryStageBatch_stage hbest h hopen hwork hi
  case batch =>
    intro u
    refine ⟨fun hwork => ?admission, fun hwork => ?route, fun hwork => ?block⟩
    case admission =>
      exact ⟨exec_geometryBatchAdmit_held hbest h hwork, fun b => exec_geometryBatchAdmit_shaded hbest h hwork⟩
    case route =>
      intro m v sweeps y hy
      have hroute : exec (.routeBatch n) s = .next (routed v p sweeps) := exec_routeBatch_route hbest h hwork
      rw [hroute, routed, hy]
      refine ⟨fun hf => congrArg _ (if_pos hf), fun hf hmore => ?_, fun hf hlast => ?_⟩
      · exact congrArg _ ((if_neg (Bool.eq_false_iff.1 hf)).trans (if_pos hmore))
      · exact congrArg _ ((if_neg (Bool.eq_false_iff.1 hf)).trans (if_neg (Nat.not_lt.2 hlast)))
    case block =>
      intro r m q hq w v y hy
      have hblock : exec (.blockBatch n) s = .next (blocked v p) := exec_blockBatch_block hbest h hwork (u := r.2) (Prod.ext hq rfl)
      rw [hblock, blocked, hy]
      exact ⟨fun hend => congrArg _ (if_pos hend), fun hf hmore => congrArg _ (if_neg (by simp [hf, hmore]))⟩
  case flush => exact ⟨exec_flushTilesStored_end h hx, exec_flushTilesStored_early h hx⟩

end Sys2Proof.Proofs

/-!
## The cohort that a group issues (O18)

The threads that may lead an issue are the ready ones, or where some have waited 31 issues those alone. The cohort's program counter is the
least of theirs.
-/

namespace Sys2Proof.Proofs

open Machine Laws

/-- The live threads of a group that nothing blocks. -/
def readyThreads (g : Group) : List Nat := liveThat g fun h => decide (h.wait = .none)

/-- The ready threads that have been passed over 31 times (R120). -/
def agedThreads (g : Group) : List Nat := (readyThreads g).filter fun t => decide (31 ≤ (thr g t).age)

/-- The threads whose lowest program counter issues. -/
def leadThreads (g : Group) : List Nat := if agedThreads g = [] then readyThreads g else agedThreads g

theorem leadThreads_eq_ready {g : Group} (h : agedThreads g = []) : leadThreads g = readyThreads g := if_pos h

theorem leadThreads_eq_aged {g : Group} (h : agedThreads g ≠ []) : leadThreads g = agedThreads g := if_neg h

theorem leadThreads_subset {g : Group} {t : Nat} (ht : t ∈ leadThreads g) : t ∈ readyThreads g := by
  by_cases h : agedThreads g = []
  · rwa [leadThreads_eq_ready h] at ht
  · rw [leadThreads_eq_aged h] at ht
    exact (List.mem_filter.1 ht).1

theorem leadThreads_ne_nil {g : Group} (hready : readyThreads g ≠ []) : leadThreads g ≠ [] := by
  by_cases h : agedThreads g = []
  · rwa [leadThreads_eq_ready h]
  · rwa [leadThreads_eq_aged h]

theorem cohortOf_parked {g : Group} (h : g.park.isSome = true) : cohortOf g = none := if_pos h

/-- An unparked group issues the ready threads at the least program counter of its leading threads. -/
theorem cohortOf_unparked {g : Group} (h : g.park = none) : cohortOf g =
    ((leadThreads g).map fun t => (thr g t).pc).min?.map fun pc => (pc, (readyThreads g).filter fun t => (thr g t).pc = pc) := by
  have hcohort : cohortOf g = match (leadThreads g).map fun t => (thr g t).pc with
      | [] => none
      | p :: ps => some (ps.foldl Nat.min p, (readyThreads g).filter fun t => (thr g t).pc = ps.foldl Nat.min p) := by
    rw [cohortOf, if_neg (by simp [h])]
    rfl
  rw [hcohort]
  cases (leadThreads g).map fun t => (thr g t).pc with
  | nil => rfl
  | cons p ps => rw [List.min?_cons']; rfl

/-- The program counter of a cohort is one of a leading thread, and the least of them. -/
theorem cohortOf_eq_some {g : Group} {pc : Nat} {ts : List Nat} (h : cohortOf g = some (pc, ts)) :
    ts = (readyThreads g).filter (fun t => (thr g t).pc = pc) ∧ (∃ t ∈ leadThreads g, (thr g t).pc = pc)
      ∧ ∀ t ∈ leadThreads g, pc ≤ (thr g t).pc := by
  have hpark : g.park = none := by
    by_contra hne
    rw [cohortOf_parked (Option.isSome_iff_ne_none.2 hne)] at h
    exact absurd h (by simp)
  rw [cohortOf_unparked hpark, Option.map_eq_some_iff] at h
  obtain ⟨p, hmin, hp⟩ := h
  obtain ⟨rfl, rfl⟩ := Prod.mk.inj hp
  obtain ⟨hmem, hle⟩ := List.min?_eq_some_iff.1 hmin
  exact ⟨rfl, List.mem_map.1 hmem, fun t ht => hle _ (List.mem_map_of_mem ht)⟩

/-- Settles O18: the leading threads are the aged ones where there are any, else all ready ones. -/
theorem cohortChoice : Obligations.CohortChoice := by
  intro g ready aged
  refine ⟨cohortOf_parked, fun hpark hready => ?_, fun pc ts hc => ?_⟩
  · have hmin : ((leadThreads g).map fun t => (thr g t).pc).min? ≠ none := by
      simpa using leadThreads_ne_nil hready
    rw [cohortOf_unparked hpark, Option.isSome_map]
    exact Option.isSome_iff_ne_none.2 hmin
  · obtain ⟨rfl, ⟨t, hlead, hpc⟩, hleast⟩ := cohortOf_eq_some hc
    have hmem (t : Nat) : t ∈ (readyThreads g).filter (fun t => (thr g t).pc = pc) ↔ t ∈ readyThreads g ∧ (thr g t).pc = pc := by simp
    refine ⟨hmem, List.ne_nil_of_mem ((hmem t).2 ⟨leadThreads_subset hlead, hpc⟩), fun hnone => ?_, fun hsome => ?_⟩
    · rw [leadThreads_eq_ready hnone] at hleast
      exact hleast
    · rw [leadThreads_eq_aged hsome] at hlead hleast
      exact ⟨⟨t, hlead, hpc⟩, hleast⟩

end Sys2Proof.Proofs

/-!
## What a pipe's issue does (O19, O20)

One rule for the shared operation `issue`: a pipe with nothing ready, a cohort that must wait, and a cohort that performs its instruction. The
rows that issue an instruction are then read off from what they pass to it.
-/

namespace Sys2Proof.Proofs

open Machine Laws

/-! ### The shared operation -/

/-- While engines do not run, a step of theirs changes nothing. -/
theorem engineStep_stopped {s : State} (h : ¬ Safety.engines s) (k : State → State) : engineStep s k = .next s := by
  rw [engineStep]
  split
  · rfl
  next hrun =>
    rw [powered_off (Bool.eq_false_iff.2 fun hon => h ⟨hon, by simpa [not_or] using hrun⟩)]

section
variable {s u : State} {core pipe : Nat} {ops : List (Nat × Nat)} {all : Bool} {i j : Issue}

/-- A pipe with nothing ready issues nothing. -/
theorem issue_idle (h : Safety.engines s) (hnone : pipeNext s core pipe = none) (k : State → Issue → State) :
    issue s core pipe ops all k = .next s := by
  rw [issue, engineStep_next h, hnone]

/-- Threads whose operand is outstanding are found blocked, and nothing issues (R119). -/
theorem issue_blocked (h : Safety.engines s) (hnext : pipeNext s core pipe = some j) (hwait : j.ts.any (operandWaits j.g ops all) = true)
    (k : State → Issue → State) :
    issue s core pipe ops all k = .next (onGroup s j.b j.g.slot fun g =>
      onThreads g (j.ts.filter (operandWaits g ops all)) fun h => { h with wait := .mem }) := by
  rw [issue, engineStep_next h, hnext]
  exact congrArg _ (if_pos hwait)

/-- A cohort that waits for nothing performs its instruction. -/
theorem issue_performs (h : Safety.engines s) (hi : Safety.issues s core pipe ops all i u) (k : State → Issue → State) :
    issue s core pipe ops all k = .next (k u i) := by
  obtain ⟨j, hnext, hfree, rfl, rfl⟩ := hi
  rw [issue, engineStep_next h, hnext]
  exact congrArg _ (if_neg (Bool.eq_false_iff.1 hfree))

/-- Before its instruction an issue counts ages and moves the round robin. -/
theorem issues_frame (hi : Safety.issues s core pipe ops all i u) :
    ∃ bs ps, u = { s with sc := { s.sc with blocks := bs, pipes := ps } } := by
  obtain ⟨j, -, -, -, rfl⟩ := hi
  exact ⟨_, _, rfl⟩

/-- An issue takes no time. -/
theorem issues_time (hi : Safety.issues s core pipe ops all i u) : u.time = s.time := by
  obtain ⟨bs, ps, rfl⟩ := issues_frame hi
  rfl

/-- Whatever the engines do, a row that issues leaves the state or performs the instruction. -/
theorem issue_outcome {t : State} {k : State → Issue → State} (hi : Safety.issues s core pipe ops all i u)
    (ht : issue s core pipe ops all k = .next t) : t = s ∨ t = k u i := by
  by_cases h : Safety.engines s
  · rw [issue_performs h hi] at ht
    exact .inr (Host.Outcome.next.inj ht).symm
  · rw [issue, engineStep_stopped h] at ht
    exact .inl (Host.Outcome.next.inj ht).symm

end

/-! ### The rows -/

theorem exec_groupIssue_eq (core pipe ecc : Nat) (x : SIns) (s : State) : exec (.groupIssue core pipe ecc x) s =
    issue s core pipe x.vregs x.isFence fun s i => groupIssue (coreEcc s core ecc) i x := rfl

theorem exec_fstat_eq (core pipe d : Nat) (s : State) : exec (.fstat core pipe d) s = issue s core pipe [(d, 1)] false fun s i =>
    if i.lacks [(d, 1)] [] then parkAt s i .badOpcode else
    put s i (advance (onThreads (i.ts.foldl (fun g t => setV g d t (thr i.g t).flags) i.g) i.ts fun h => { h with flags := 0 }) i.ts) := rfl

theorem exec_exit_eq (core pipe n : Nat) (s : State) : exec (.exit core pipe n) s =
    issue s core pipe [] true fun s i => exitThreads s i n := rfl

theorem exec_trap_eq (core pipe : Nat) (s : State) : exec (.trap core pipe) s =
    issue s core pipe [] false fun s i => parkAt s i .groupTrap := rfl

/-! ### The errors that a core's codes correct (R116) -/

/-- Counting them changes registers alone, by what the registers hold. -/
theorem coreEcc_frame {s u : State} (h : u.regs = s.regs) (core n : Nat) : coreEcc u core n = { u with regs := (coreEcc s core n).regs } := by
  simp only [coreEcc, fcount, fset, rset, fget_congr h, rget_congr h, ← h]
  split
  · rw [← h]
  · split
    · rw [← h]
    · rfl

/-! ### Instructions without a row -/

section
variable {i : Issue} {x : SIns}

/-- An instruction that does not exist parks its group (R112). -/
theorem groupIssue_undefined (v : State) (hx : x.exists i.blk.prog = false) : groupIssue v i x = parkAt v i .badOpcode :=
  if_pos (by simp [hx])

/-- A scalar operation with a result writes it. -/
theorem groupIssue_scalar_result {op : IOp} {d a b y : Nat} (v : State) (hx : (SIns.scalar op d a b).exists i.blk.prog = true)
    (hy : op.apply (sreg i.g a) (sreg i.g b) = some y) :
    groupIssue v i (.scalar op d a b) = put v i (advance (setS i.g d y) i.ts) := by
  rw [groupIssue, if_neg (not_not.2 hx)]
  simp only [hy]

/-- One without a result writes a free value. -/
theorem groupIssue_scalar_free {op : IOp} {d a b : Nat} (v : State) (hx : (SIns.scalar op d a b).exists i.blk.prog = true)
    (hnone : op.apply (sreg i.g a) (sreg i.g b) = none) :
    groupIssue v i (.scalar op d a b) = put (takeFree v (2 ^ 32)).2 i (advance (setS i.g d (takeFree v (2 ^ 32)).1) i.ts) := by
  rw [groupIssue, if_neg (not_not.2 hx)]
  simp only [hnone]

/-- Threads that need free values use up nothing else. -/
theorem perThreadFree_eq (v : State) (i : Issue) (d : Nat) (f : Nat → Nat → Nat × Nat) (need : Nat → Bool) :
    (perThreadFree v i d f need).2 = { v with freeCtr := (perThreadFree v i d f need).2.freeCtr } := by
  rw [perThreadFree]
  refine List.foldlRecOn (motive := fun r : Group × State => r.2 = { v with freeCtr := r.2.freeCtr }) i.ts _ rfl fun r hr t _ => ?_
  dsimp only
  split
  · exact (congrArg (fun w : State => (takeFree w (2 ^ 32)).2) hr).trans rfl
  · exact hr

/-- An instruction that exists and is no access to memory puts back its group, and uses up free values. -/
theorem groupIssue_puts (v : State) (hx : x.exists i.blk.prog = true) (hmem : ∀ op n e a y sx l p, x ≠ .memory op n e a y sx l p) :
    ∃ (g : Group) (n : Nat), groupIssue v i x = put { v with freeCtr := n } i g := by
  have performs : groupIssue v i x = _ := if_neg (not_not.2 hx)
  rw [performs]
  cases x with
  | approx f d a => exact ⟨_, _, congrArg (put · i _) (perThreadFree_eq v i d _ _)⟩
  | int op d a b => exact ⟨_, _, congrArg (put · i _) (perThreadFree_eq v i d _ _)⟩
  | scalar op d a b =>
    dsimp only
    split
    · exact ⟨_, v.freeCtr, rfl⟩
    · exact ⟨_, v.freeCtr + 1, rfl⟩
  | memory op n d addr src sx loc priv => exact absurd rfl (hmem op n d addr src sx loc priv)
  | undefined => simp [SIns.exists] at hx
  | _ => exact ⟨_, v.freeCtr, rfl⟩

end

/-- Settles O20: such an instruction puts back its group, and nothing else of the state is touched on the way. -/
theorem registerInstructionFrame : Obligations.RegisterInstructionFrame := by
  refine fun s t u core pipe ecc d i x => ⟨fun hi hx hmem ht => ?_, fun hi hregs ht => ?_⟩
  · rw [exec_groupIssue_eq] at ht
    obtain rfl | rfl := issue_outcome hi ht
    · exact ⟨rfl, .inl rfl⟩
    · obtain ⟨g, n, hput⟩ := groupIssue_puts (coreEcc u core ecc) hx hmem
      obtain ⟨bs, ps, hu⟩ := issues_frame hi
      have hregs : u.regs = s.regs := by rw [hu]
      rw [hput, coreEcc_frame hregs, hu]
      exact ⟨rfl, .inr rfl⟩
  · rw [exec_fstat_eq] at ht
    obtain rfl | rfl := issue_outcome hi ht
    · rfl
    · obtain ⟨bs, ps, rfl⟩ := issues_frame hi
      rw [if_neg (Bool.eq_false_iff.1 hregs)]
      rfl

/-- Settles O19: the row of each instruction is the shared operation with that instruction's meaning. -/
theorem issuedInstructions : Obligations.IssuedInstructions := by
  refine ⟨fun s core pipe ecc d n x h hnone => ?idle, fun s core pipe ecc n x j h hnext => ?blocked, fun s u core pipe ecc i x h hi => ?issued,
    fun s u core pipe d i h hi => ?fstat, fun s u core pipe n i h hi => ?exit, fun s u core pipe i h hi => ?trap⟩
  case idle =>
    rw [exec_groupIssue_eq, exec_fstat_eq, exec_exit_eq, exec_trap_eq]
    exact ⟨issue_idle h hnone _, issue_idle h hnone _, issue_idle h hnone _, issue_idle h hnone _⟩
  case blocked =>
    rw [exec_groupIssue_eq, exec_exit_eq]
    exact ⟨fun hwait => issue_blocked h hnext hwait _, fun hwait => issue_blocked h hnext hwait _⟩
  case issued =>
    intro v
    have issued : exec (.groupIssue core pipe ecc x) s = .next (groupIssue v i x) := by rw [exec_groupIssue_eq, issue_performs h hi]
    rw [issued]
    refine ⟨fun hx => ?_, fun hx => ?_, fun hx => ?_⟩
    · rw [groupIssue_undefined v hx]
    · have performs : groupIssue v i x = _ := if_neg (not_not.2 hx)
      refine ⟨?float2, ?float1, ?fma, ?fma16x2, ?formatOf, ?order, ?fcmp, ?approx, ?cvt, ?toInt, ?ofInt⟩
      -- each clause is the arm of its instruction
      all_goals
        intros
        subst_vars
        exact congrArg _ performs
    · have performs : groupIssue v i x = _ := if_neg (not_not.2 hx)
      refine ⟨?int, ?scalar, ?scalarFree, ?imm, ?scalarImm, ?fromScalar, ?toScalar, ?branch, ?branchIf, ?memory, ?barred, ?fence⟩
      case scalar => rintro op d a b y rfl hy; exact congrArg _ (groupIssue_scalar_result v hx hy)
      case scalarFree => rintro op d a b rfl hnone; exact congrArg _ (groupIssue_scalar_free v hx hnone)
      case memory => rintro op n d addr src sx loc priv rfl hopen; exact congrArg _ (performs.trans (if_neg (Bool.eq_false_iff.1 hopen)))
      case barred => rintro op n d addr src sx loc priv rfl hbarred; exact congrArg _ (performs.trans (if_pos hbarred))
      all_goals
        intros
        subst_vars
        exact congrArg _ performs
  case fstat =>
    rw [exec_fstat_eq, issue_performs h hi]
    exact ⟨fun hregs => by rw [if_neg (Bool.eq_false_iff.1 hregs)], fun hregs => by rw [if_pos hregs]⟩
  case exit => rw [exec_exit_eq, issue_performs h hi]
  case trap => exact (exec_trap_eq core pipe s).trans (issue_performs h hi _)

end Sys2Proof.Proofs

/-!
## Barriers, resident waits and memory returns (O21)
-/

namespace Sys2Proof.Proofs

open Machine Laws

/-! ### BAR_WAIT, QWAIT and QCOMPLETE -/

section
variable {s u : State} {core pipe : Nat} {i : Issue}

/-- What BAR_WAIT does once it issues (R125). -/
theorem exec_barWait (h : Safety.engines s) (hi : Safety.issues s core pipe [] false i u) (n : Nat) : exec (.barWait core pipe n) s =
    .next (if 16 ≤ n then parkAt u i .badOpcode else
      barCheck i.b (onBlock (put u i (onThreads i.g i.ts fun h => { h with wait := .bar n })) i.b fun k =>
        { k with bars := if (tget k.bars n).isSome then k.bars else tset k.bars n u.time }) n) := by
  change execBarWait core pipe n s = _
  rw [execBarWait]
  exact issue_performs h hi _

/-- What QCOMPLETE does once it issues, on the registers it names (R135). -/
theorem exec_qcomplete (h : Safety.engines s) (hi : Safety.issues s core pipe [] false i u) (q n fl : Nat) :
    exec (.qcomplete core pipe q n fl) s = .next (if n % 2 = 1 ∨ i.lacks [] [(q, 1), (n, 2)] then parkAt u i .badOpcode else
      match residentQueue u i.blk (sreg i.g q) with
      | none => parkAt u i .staleHandle
      | some x => residentComplete (put u i (advance i.g i.ts)) x.1 (sreg i.g n + sreg i.g (n + 1) * 2 ^ 32) (bit fl 0)) := by
  change execQcomplete core pipe q n fl s = _
  rw [execQcomplete]
  exact issue_performs h hi _

/-- What QWAIT does once it issues, on the registers it names (R133). -/
theorem exec_qwait {d : Nat} (h : Safety.engines s) (hi : Safety.issues s core pipe [(d, 1)] false i u) (q ix : Nat) :
    exec (.qwait core pipe d q ix) s = .next (if i.lacks [(d, 1)] [(q, 1), (ix, 1)] then parkAt u i .badOpcode else
      match residentQueue u i.blk (sreg i.g q) with
      | none => parkAt u i .staleHandle
      | some x =>
        if x.2.shadow ≠ sreg i.g ix then put u i (advance (i.ts.foldl (fun g t => setV g d t x.2.shadow) i.g) i.ts)
        else put u i (onThreads i.g i.ts fun t => { t with wait := .qwait (sreg i.g q) d (sreg i.g ix) })) := by
  change execQwait core pipe d q ix s = _
  rw [execQwait]
  exact issue_performs h hi _

end

/-! ### The barriers of a block -/

/-- The barriers that live threads of a block wait at. -/
def waitedBarriers (k : Block) : List Nat :=
  (List.range 16).filter fun n => k.groups.any fun g => decide (liveThat g (fun h => decide (h.wait = .bar n)) ≠ [])

section
variable {s : State} {b : Nat} {k : Block} (h : Safety.engines s) (hb : blockAt s b = some k)
include h hb

theorem exec_barrierMismatchDetect_parks (hall : ∀ g ∈ k.groups, g.park = none ∧ liveThat g (fun _ => true) = atBarrier g)
    (hmany : 1 < (waitedBarriers k).length) : exec (.barrierMismatchDetect b) s = .next (parkAll s b .barrierMismatch true atBarrier) := by
  change execBarrierMismatchDetect b s = _
  rw [execBarrierMismatchDetect, engineStep_next h, hb]
  exact congrArg _ (if_pos ⟨by simpa using hall, hmany⟩)

theorem exec_barrierMismatchDetect_none (hsome : ∃ g ∈ k.groups, g.park ≠ none ∨ liveThat g (fun _ => true) ≠ atBarrier g) :
    exec (.barrierMismatchDetect b) s = .next s := by
  obtain ⟨g, hg, hgo⟩ := hsome
  change execBarrierMismatchDetect b s = _
  rw [execBarrierMismatchDetect, engineStep_next h, hb]
  refine congrArg _ (if_neg fun hall => ?_)
  have hstays := List.all_eq_true.1 hall.1 g hg
  simp only [Option.isNone_iff_eq_none, decide_eq_true_eq] at hstays
  exact hgo.elim (· hstays.1) (· hstays.2)

theorem exec_barrierTimeout_parks {n x : Nat} (hlimit : k.prog.barTimeout ≠ 0) (hopen : tget k.bars n = some x) :
    exec (.barrierTimeout b n) s = .next (parkAll s b .watchdog false fun g => liveThat g fun h => decide (h.wait = .bar n)) := by
  change execBarrierTimeout b n s = _
  rw [execBarrierTimeout, engineStep_next h, hb]
  exact congrArg _ (if_neg (by simp [hlimit, hopen]))

theorem exec_barrierTimeout_none (n : Nat) (hlimit : k.prog.barTimeout = 0) : exec (.barrierTimeout b n) s = .next s := by
  change execBarrierTimeout b n s = _
  rw [execBarrierTimeout, engineStep_next h, hb]
  exact congrArg _ (if_pos (.inl hlimit))

end

/-! ### QWAIT_WAKE -/

/-- A wake that reaches the cores (R134). -/
theorem exec_qwaitWake {s : State} {q : Nat} {x : Queue} (h : Safety.engines s) (hq : queueAt s q = some x) (hwake : x.coreWake = true)
    (hon : domOn s 41 = true) :
    let wake (k : Block) : Block := { k with groups := k.groups.map fun g => wakeGroup (q + x.gen * 2 ^ 14) x.shadow g }
    exec (.qwaitWake q) s = .next (onSc (onQueue s q fun y => { y with coreWake := false }) fun y =>
      { y with blocks := y.blocks.map fun e => (e.1, wake e.2), saved := y.saved.map fun e => (e.1, wake e.2) }) := by
  change execQwaitWake q s = _
  rw [execQwaitWake, engineStep_next h, hq]
  exact congrArg _ (if_neg (not_not.2 ⟨hwake, hon⟩))

/-! ### MEMORY_ACCESS_RETURN -/

/-- The state in which request n of a group is checked: corrected errors are counted, and what it can do now is taken from the group. -/
def accessTaken (s : State) (core slot n ecc b : Nat) (left : Option MReq) : State :=
  onGroup (coreEcc s core ecc) b slot fun g => { g with mem := restOf g.mem n left }

/-- Request q faults in v: its group parks, or keeps the request where it is parked already, as s has it. -/
def accessFaulted (s v : State) (b slot : Nat) (g : Group) (q : MReq) (f : Status × Nat) : State :=
  if g.park.isSome then s else parkGroup v b slot f.1 q.threads q.pc f.2 (q.op != .load) none true [q]

/-- Request q has been performed with these values: they are written, helper threads of an atomic get a free one, and its threads go on. -/
def accessDone (w : State) (b slot : Nat) (q : MReq) (vals : List (Nat × Nat)) : State :=
  let vals := if q.op.isAtomic then vals ++ q.idle.map fun t => (t, (takeFree w (2 ^ 64)).1) else vals
  onGroup (if q.op.isAtomic ∧ q.idle ≠ [] then (takeFree w (2 ^ 64)).2 else w) b slot fun g =>
    unblock (vals.foldl (fun g x => setVN g q.dst x.1 (sizeWords q.size) x.2) g) q.threads

/-- A taken request, from u: its lines are checked, then it is performed. -/
def accessRun (s u : State) (b slot : Nat) (k : Block) (g : Group) (q : MReq) (refetch : Bool) : State :=
  match lanesCheck k q q.lanes [] u with
  | (some f, v) => accessFaulted s v b slot g q f
  | (none, v) =>
    match reqRun v b k g.idx q refetch with
    | (some f, _, w) => accessFaulted s w b slot g q f
    | (none, vals, w) => accessDone w b slot q vals

section
variable {s u v w : State} {b slot : Nat} {k : Block} {g : Group} {q : MReq} {refetch : Bool} {f : Status × Nat} {vals : List (Nat × Nat)}

theorem accessRun_checkFails (hcheck : lanesCheck k q q.lanes [] u = (some f, v)) :
    accessRun s u b slot k g q refetch = accessFaulted s v b slot g q f := by
  rw [accessRun, hcheck]

theorem accessRun_runFails (hcheck : lanesCheck k q q.lanes [] u = (none, v)) (hrun : reqRun v b k g.idx q refetch = (some f, vals, w)) :
    accessRun s u b slot k g q refetch = accessFaulted s w b slot g q f := by
  rw [accessRun, hcheck]
  simp only [hrun]

theorem accessRun_performs (hcheck : lanesCheck k q q.lanes [] u = (none, v)) (hrun : reqRun v b k g.idx q refetch = (none, vals, w)) :
    accessRun s u b slot k g q refetch = accessDone w b slot q vals := by
  rw [accessRun, hcheck]
  simp only [hrun]

end

/-- A request that no older one of its threads holds back goes ahead with the threads that need keep no order. -/
theorem exec_memoryAccessReturn {s : State} {core slot n ecc b : Nat} {k : Block} {g : Group} {q0 : MReq} (refetch : Bool) (h : Safety.engines s)
    (hg : groupIn s core slot = some (b, k, g)) (hq : g.mem[n]? = some q0) (hpre : k.pre ≠ .saving)
    (hold : olderMeets (g.mem.take n) q0 = false) :
    let q := (orderedPart s k q0).1
    exec (.memoryAccessReturn core slot n ecc refetch) s = .next (if q.threads = [] then s else
      accessRun s (accessTaken s core slot n ecc b (orderedPart s k q0).2) b slot k g q refetch) := by
  change execMemoryAccessReturn core slot n ecc refetch s = _
  rw [execMemoryAccessReturn, engineStep_next h, memReturn, hg]
  simp only [hq]
  rw [if_neg (by simp [hpre, hold])]
  rfl

/-- Settles O21: each row by what it finds: the number of a barrier, the queue of a handle, the threads of a block, the request of a group. -/
theorem barriersAndWaits : Obligations.BarriersAndWaits := by
  refine ⟨fun s u core pipe i h => ⟨fun hi => ?barrier, fun d q ix hi => ?qwait⟩, fun s b k h hb => ?block,
    fun s q x h hq hwake hon => exec_qwaitWake h hq hwake hon, fun s core slot n ecc b refetch k g q0 h hg hq hpre hold => ?access⟩
  case barrier =>
    refine ⟨fun n hn => ?_, fun n hn => ?_, fun q n fl hbad => ?_, fun q n fl heven hregs => ⟨fun hnone => ?_, fun j x hsome => ?_⟩⟩
    · rw [exec_barWait h hi, if_neg (Nat.not_le.2 hn), issues_time hi]
    · rw [exec_barWait h hi, if_pos hn]
    · rw [exec_qcomplete h hi, if_pos hbad]
    · rw [exec_qcomplete h hi, if_neg (by simp [heven, hregs]), hnone]
    · rw [exec_qcomplete h hi, if_neg (by simp [heven, hregs]), hsome]
  case qwait =>
    refine ⟨fun hbad => ?_, fun hregs => ⟨fun hnone => ?_, fun j x hsome hne => ?_, fun j x hsome heq => ?_⟩⟩
    · rw [exec_qwait h hi, if_pos hbad]
    · rw [exec_qwait h hi, if_neg (Bool.eq_false_iff.1 hregs), hnone]
    · rw [exec_qwait h hi, if_neg (Bool.eq_false_iff.1 hregs), hsome]
      exact congrArg _ (if_pos hne)
    · rw [exec_qwait h hi, if_neg (Bool.eq_false_iff.1 hregs), hsome]
      exact congrArg _ (if_neg (not_not.2 heq))
  case block =>
    exact ⟨exec_barrierMismatchDetect_parks h hb, exec_barrierMismatchDetect_none h hb, fun n x => exec_barrierTimeout_parks h hb,
      exec_barrierTimeout_none h hb⟩
  case access =>
    have returned := exec_memoryAccessReturn (ecc := ecc) refetch h hg hq hpre hold
    refine ⟨fun hnone => returned.trans (congrArg _ (if_pos hnone)), fun hsome => ?_⟩
    have taken := returned.trans (congrArg _ (if_neg hsome))
    refine ⟨fun f v hcheck => ?_, fun f v w vals hcheck hrun => ?_, fun v w vals hcheck hrun => ?_⟩
    · exact taken.trans (congrArg _ (accessRun_checkFails hcheck))
    · exact taken.trans (congrArg _ (accessRun_runFails hcheck hrun))
    · exact taken.trans (congrArg _ (accessRun_performs hcheck hrun))

end Sys2Proof.Proofs

/-!
## SC_REPLAY and core-level faults (O22)
-/

namespace Sys2Proof.Proofs

open Machine Laws

/-- An SC_REPLAY operation of an idle replay port is performed. -/
theorem replay_idle {s : State} {f : Nat} (h : Safety.writable s .SC_REPLAY f 0) (hbusy : fget s F.SC_REPLAY_RESULT.BUSY f = 0)
    (k : State → State) : busWrite s .SC_REPLAY f 0 (fun s => if flag s F.SC_REPLAY_RESULT.BUSY f then s else k s) = .next (k s) := by
  rw [busWrite_next h, if_neg (by simp [flag, hbusy])]

/-- The parked group that PARK_ID and PARK_GEN name for function f (R140). -/
def parkNamed (s : State) (f id gen : Nat) : Option (Nat × Bool × Block × Group × Park) :=
  (parkedGroups s).find? fun x => x.2.2.2.2.id = id % 2 ^ 13 ∧ x.2.2.2.2.gen = gen % 256 ∧ (f = 0 ∨ x.2.2.1.fn = f)

section
variable {s : State} {f id gen : Nat} (h : Safety.writable s .SC_REPLAY f 0) (hbusy : fget s F.SC_REPLAY_RESULT.BUSY f = 0)
  (k : State → (Nat × Bool × Block × Group × Park) → State)
include h hbusy

/-- A token operation that names no parked group reports STALE_HANDLE. -/
theorem replayOne_stale (hnone : parkNamed s f id gen = none) : replayOne s f id gen k = .next (replayResult s f .staleHandle 0) := by
  rw [parkNamed] at hnone
  rw [replayOne, replay_idle h hbusy, hnone]

/-- One that names a parked group acts on it and reports a count of 1. -/
theorem replayOne_named {x : Nat × Bool × Block × Group × Park} (hsome : parkNamed s f id gen = some x) :
    replayOne s f id gen k = .next (replayResult (k s x) f .ok 1) := by
  rw [parkNamed] at hsome
  rw [replayOne, replay_idle h hbusy, hsome]

end

/-! ### The token operations -/

theorem exec_scReplayReplay_eq (f id gen : Nat) (s : State) : exec (.scReplayReplay f id gen) s =
    replayOne s f id gen fun s x => unpark s x.1 x.2.2.1 x.2.2.2.1 x.2.2.2.2 false := rfl

theorem exec_scReplayContinue_eq (f id gen : Nat) (s : State) : exec (.scReplayContinue f id gen) s =
    replayOne s f id gen fun s x => unpark s x.1 x.2.2.1 x.2.2.2.1 x.2.2.2.2 true := rfl

theorem exec_scReplayAbort_eq (f id gen : Nat) (s : State) : exec (.scReplayAbort f id gen) s =
    replayOne s f id gen fun s x => abortOwner s x.2.2.1 x.2.2.2.2.status x.2.2.2.2.addr := rfl

/-- Settles O22: the token operations share one rule, and SC_REPLAY_CONTEXT folds over what it selects. -/
theorem replayOperations : Obligations.ReplayOperations := by
  refine ⟨fun s f id gen h hbusy => ?replay, fun s core h hcore hon => ?fault⟩
  case replay =>
    refine ⟨fun hnone => ?_, fun b sv k g p hsome => ?_, fun c hout => ?_, fun c hin => ?_, fun op hop => ?_⟩
    · rw [exec_scReplayReplay_eq, exec_scReplayContinue_eq, exec_scReplayAbort_eq]
      exact ⟨replayOne_stale h hbusy _ hnone, replayOne_stale h hbusy _ hnone, replayOne_stale h hbusy _ hnone⟩
    · rw [exec_scReplayReplay_eq, exec_scReplayContinue_eq, exec_scReplayAbort_eq]
      have acts (act : State → (Nat × Bool × Block × Group × Park) → State) := replayOne_named h hbusy act hsome
      exact ⟨acts _, acts _, acts _⟩
    · change execScReplayContext f c s = _
      rw [execScReplayContext, replay_idle h hbusy, if_pos (by simp [hout])]
    · change execScReplayContext f c s = _
      rw [execScReplayContext, replay_idle h hbusy, if_neg (by simp [hin])]
    · change execScReplayUndefinedOp f op s = _
      rw [execScReplayUndefinedOp, busWrite_next h, if_neg (not_or.2 ⟨by simp [flag, hbusy], by omega⟩)]
  case fault =>
    change execShaderEccUncorrectable core s = _
    rw [execShaderEccUncorrectable, engineStep_next h, if_pos ⟨hcore, hon⟩]

end Sys2Proof.Proofs

/-!
## Accord instructions of a group (O23)
-/

namespace Sys2Proof.Proofs

open Machine Laws

/-! ### ACCORD and ACC_WAIT -/

section
variable {s u : State} {core pipe dst d e : Nat} {i : Issue} (h : Safety.engines s) (hi : Safety.issues s core pipe [(dst, 1)] false i u)
include h hi

/-- The descriptor leaves for the engine (R129). -/
theorem exec_accordInstruction_sends (he : i.blk.engine = some e) (hacc : i.blk.prog.accord = true) (hregs : i.lacks [(dst, 1)] [(d, 8)] = false)
    (hlost : i.g.lost = false) :
    exec (.accordInstruction core pipe dst d) s = .next (onEngine (put u i (onThreads i.g i.ts fun h => { h with wait := .accord })) e fun x =>
      { x with inflight := x.inflight ++ [{ words := (List.range 8).map fun n => sreg i.g (d + n), token := 0, group := i.g.slot,
                                            mask := i.ts, dst := dst, d := d, pc := i.pc }] }) := by
  change execAccordInstruction core pipe dst d s = _
  rw [execAccordInstruction, issue_performs h hi]
  simp only [he]
  rw [if_neg (by simp [hacc, hregs]), if_neg (Bool.eq_false_iff.1 hlost)]

/-- Under LOST the threads get a token that ends in REISSUE (05 R170). -/
theorem exec_accordInstruction_lost (he : i.blk.engine = some e) (hacc : i.blk.prog.accord = true) (hregs : i.lacks [(dst, 1)] [(d, 8)] = false)
    (hlost : i.g.lost = true) :
    exec (.accordInstruction core pipe dst d) s =
      .next (put (onBlock u i.b fun k => { k with token := nextToken i.blk.token, ends := tset k.ends (nextToken i.blk.token) .reissue }) i
        (advance (i.ts.foldl (fun g t => setV g dst t (nextToken i.blk.token)) i.g) i.ts)) := by
  change execAccordInstruction core pipe dst d s = _
  rw [execAccordInstruction, issue_performs h hi]
  simp only [he]
  rw [if_neg (by simp [hacc, hregs]), if_pos hlost]

/-- Without an engine, in another block or on missing registers the instruction does not exist. -/
theorem exec_accordInstruction_undefined (hbad : i.blk.engine = none ∨ i.blk.prog.accord = false ∨ i.lacks [(dst, 1)] [(d, 8)] = true) :
    exec (.accordInstruction core pipe dst d) s = .next (parkAt u i .badOpcode) := by
  change execAccordInstruction core pipe dst d s = _
  rw [execAccordInstruction, issue_performs h hi]
  cases he : i.blk.engine with
  | none => rfl
  | some e =>
    have hbad' : ¬ i.blk.prog.accord = true ∨ i.lacks [(dst, 1)] [(d, 8)] = true := by simpa [he] using hbad
    exact congrArg _ (if_pos hbad')

end

/-- ACC_WAIT on registers that the group holds (05 R164). -/
theorem exec_accWait {s u : State} {core pipe dst src : Nat} {i : Issue} (h : Safety.engines s)
    (hi : Safety.issues s core pipe [(dst, 1), (src, 1)] false i u) (hregs : i.lacks [(dst, 1), (src, 1)] [] = false) :
    exec (.accWait core pipe dst src) s =
      .next (if i.ts.any (fun t => tokenState u i.blk (vr i.g src t) = some none) then parkAt u i .badOpcode else
        put u i (i.ts.foldl (fun g t =>
          match tokenState u i.blk (vr i.g src t) with
          | some (some o) => advance (setV g dst t o) [t]
          | _ => onThreads g [t] fun h => { h with wait := .acc (vr i.g src t) dst }) i.g)) := by
  change execAccWait core pipe dst src s = _
  rw [execAccWait, issue_performs h hi]
  exact congrArg _ (if_congr (by simp [hregs]) rfl rfl)

/-! ### The fragment instructions -/

section
variable {u : State} {i : Issue} {d a n : Nat}

/-- A fragment instruction that exists makes its threads wait, and the group tries it (R131). -/
theorem reachFrag_waits {e : Nat} (load : Bool) (hsome : 1 ≤ n) (hmax : n ≤ 8) (he : i.blk.engine = some e)
    (hregs : i.lacks [(d, n)] [(a, 1)] = false) :
    reachFrag u i load d a n = fragTry i.b (put u i (onThreads i.g i.ts fun h => { h with wait := .frag load d a n })) i.g.slot :=
  if_neg (by simp [he, hregs]; omega)

theorem reachFrag_undefined (load : Bool) (hbad : i.blk.engine = none ∨ n = 0 ∨ 8 < n ∨ i.lacks [(d, n)] [(a, 1)] = true) :
    reachFrag u i load d a n = parkAt u i .badOpcode :=
  if_pos (by tauto)

end

theorem exec_accLoadFrag_eq (core pipe d a n : Nat) (s : State) : exec (.accLoadFrag core pipe d a n) s =
    issue s core pipe [(d, n)] false fun s i => reachFrag s i true d a n := rfl

theorem exec_accStoreFrag_eq (core pipe d a n : Nat) (s : State) : exec (.accStoreFrag core pipe d a n) s =
    issue s core pipe [(d, n)] false fun s i => reachFrag s i false d a n := rfl

/-! ### ACC_INFO and ACC_ARG -/

/-- The word that ACC_INFO writes (05 R165). -/
def accInfoWord (u : State) (i : Issue) : Nat :=
  match i.blk.engine with
  | none => 0
  | some e => b2n i.g.lost <<< 31 + (e / 4) <<< 24 + e <<< 16 + ownedBanks u e

section
variable {s u : State} {core pipe d n : Nat} {i : Issue} (h : Safety.engines s) (hi : Safety.issues s core pipe [] false i u)
  (hregs : i.lacks [] [(d, 1)] = false)
include h hi hregs

theorem exec_accInfo :
    exec (.accInfo core pipe d) s = .next (put u i { advance (setS i.g d (accInfoWord u i)) i.ts with lost := false }) := by
  change execAccInfo core pipe d s = _
  rw [execAccInfo, issue_performs h hi]
  exact congrArg _ (if_neg (Bool.eq_false_iff.1 hregs))

/-- ACC_ARG in an item of a command: the word where that is an ACCORD command, which has 16 (05 R173). -/
theorem exec_accArg {t m : Nat} {k : Task} (hkind : i.blk.kind = .item t m) (ht : taskAt u t = some k) :
    exec (.accArg core pipe d n) s = .next (if byteAt k.raw 0 = 4 ∧ n < 16 then put u i (advance (setS i.g d ((accordArgs k).getD n 0)) i.ts)
      else parkAt u i .badOpcode) := by
  change execAccArg core pipe d n s = _
  rw [execAccArg, issue_performs h hi]
  simp only [hkind, ht, hregs, Bool.false_eq_true, not_false_eq_true, and_true]

end

/-! ### MATRIX_DIVERGENCE_DETECT -/

/-- The live threads of a group that stand at a fragment instruction. -/
def atFragment (g : Group) : List Nat :=
  (liveThat g fun _ => true).filter fun t => match (thr g t).wait with | .frag _ _ _ _ => true | _ => false

/-- Of the threads at fragment instructions, those at the lowest park where every other live thread is blocked away from it (R131). -/
def divergence (s : State) (b slot : Nat) (g : Group) (frag : List Nat) : State :=
  match frag with
  | [] => s
  | t0 :: ts =>
    let pc := ts.foldl (fun p t => Nat.min p (thr g t).pc) (thr g t0).pc
    let here := frag.filter fun t => decide ((thr g t).pc = pc)
    let rest := (liveThat g fun _ => true).filter fun t => decide (t ∉ here)
    if rest ≠ [] ∧ rest.all (fun t => matrixBlocked (thr g t) pc) then parkGroup s b slot .matrixDivergence here pc else s

theorem exec_matrixDivergenceDetect {s : State} {core slot b t0 : Nat} {ts : List Nat} {k : Block} {g : Group} (h : Safety.engines s)
    (hg : groupIn s core slot = some (b, k, g)) (hpark : g.park = none) (hfrag : atFragment g = t0 :: ts) :
    exec (.matrixDivergenceDetect core slot) s = .next (divergence s b slot g (t0 :: ts)) := by
  change execMatrixDivergenceDetect core slot s = _
  rw [execMatrixDivergenceDetect, engineStep_next h, hg, ← hfrag]
  have hgoes : ¬ g.park.isSome = true := by simp [hpark]
  exact congrArg _ (if_neg hgoes)

/-- Settles O23: each accord instruction by its block's engine, its program and its registers. -/
theorem accordInstructions : Obligations.AccordInstructions := by
  refine ⟨fun s u core pipe dst d i h hi => ?accord, fun s u core pipe dst src i h hi hregs => ?wait, fun s u core pipe d a n i h hi => ?frag,
    fun s u core pipe d n i h hi hregs => ?info, fun s core slot b k g t0 ts h hg hpark hfrag => ?diverge⟩
  case accord =>
    exact ⟨fun e => exec_accordInstruction_sends h hi, fun e => exec_accordInstruction_lost h hi, exec_accordInstruction_undefined h hi⟩
  case wait =>
    rw [exec_accWait h hi hregs]
    refine ⟨fun hexist => congrArg _ (if_neg ?_), fun hnone => congrArg _ (if_pos ?_)⟩
    · simpa using hexist
    · simpa using hnone
  case frag =>
    rw [exec_accLoadFrag_eq, exec_accStoreFrag_eq, issue_performs h hi, issue_performs h hi]
    refine ⟨fun e hsome hmax he hregs => ?_, fun hbad => ?_⟩
    · rw [reachFrag_waits true hsome hmax he hregs, reachFrag_waits false hsome hmax he hregs]
      exact ⟨rfl, rfl⟩
    · rw [reachFrag_undefined true hbad, reachFrag_undefined false hbad]
      exact ⟨rfl, rfl⟩
  case info =>
    refine ⟨fun e he => ?_, fun he => ?_, fun t m k hkind ht hcmd hn => ?_, fun t m k hkind ht hbad => ?_⟩
    · rw [exec_accInfo h hi hregs, accInfoWord, he]
    · rw [exec_accInfo h hi hregs, accInfoWord, he]
    · rw [exec_accArg h hi hregs hkind ht, if_pos ⟨hcmd, hn⟩]
    · rw [exec_accArg h hi hregs hkind ht, if_neg (by omega)]
  case diverge =>
    intro pc here rest
    rw [exec_matrixDivergenceDetect h hg hpark hfrag]
    exact ⟨fun hrest hblocked => congrArg _ (if_pos ⟨hrest, hblocked⟩), fun hrest => congrArg _ (if_neg fun hgo => hgo.1 hrest)⟩

end Sys2Proof.Proofs

/-!
## Accord engines (O25, O24)
-/

namespace Sys2Proof.Proofs

open Machine Laws

/-! ### The order between the array and the mover -/

/-- Ranges that do not meet have no line in common. -/
theorem not_shared_of_linesMeet_eq_false {r q : Nat × Nat} (h : linesMeet r q = false) (n : Nat) :
    ¬ (r.1 ≤ n ∧ n < r.1 + r.2 ∧ q.1 ≤ n ∧ n < q.1 + q.2) := by
  simp only [linesMeet, decide_eq_false_iff_not] at h
  omega

/-- An instruction that j does not hold back meets no line that j writes, and writes no line that j reads. -/
theorem holdsBack_eq_false_iff {j i : AccIns} : holdsBack j i = false ↔
    (∀ r ∈ writeLines j, (∀ q ∈ readLines i, linesMeet r q = false) ∧ ∀ q ∈ writeLines i, linesMeet r q = false)
      ∧ ∀ r ∈ readLines j, ∀ q ∈ writeLines i, linesMeet r q = false := by
  simp only [holdsBack, Bool.or_eq_false_iff, List.any_eq_false, Bool.not_eq_true]

/-- The first instruction of a unit that does not run: all of the unit's before it run. -/
theorem firstOf_eq_some {mma : Bool} {runs : List Nat} {i : AccIns} {before : List AccIns} {l seen : List AccIns}
    (h : firstOf mma runs l seen = some (i, before)) :
    ∃ mid after, l = mid ++ i :: after ∧ before = seen ++ mid ∧ isMma i = mma ∧ ∀ j ∈ mid, isMma j = mma → j.token ∈ runs := by
  induction l generalizing seen with
  | nil => cases h
  | cons j t ih =>
    rw [firstOf] at h
    split at h
    next hj =>
      obtain ⟨rfl, rfl⟩ := Prod.mk.inj (Option.some.inj h)
      exact ⟨[], t, rfl, (List.append_nil _).symm, hj.1, by simp⟩
    next hj =>
      obtain ⟨mid, after, rfl, rfl, hi, hmid⟩ := ih h
      refine ⟨j :: mid, after, rfl, List.append_assoc .., hi, List.forall_mem_cons.2 ⟨fun hkind => ?_, hmid⟩⟩
      by_contra hrun
      exact hj ⟨hkind, by simpa using hrun⟩

/-- An instruction that may start is the first of its unit that does not run, and none of the other unit before it holds it back. -/
theorem startable_eq_some {x : Engine} {mma : Bool} {i : AccIns} (h : startable x mma = some i) :
    ∃ before, firstOf mma (x.array.toList ++ x.out.toList) x.queue [] = some (i, before)
      ∧ ∀ j ∈ before, isMma j = !mma → holdsBack j i = false := by
  rw [startable, Option.ite_none_left_eq_some] at h
  obtain ⟨-, h⟩ := h
  split at h
  next => cases h
  next j before hfirst =>
    obtain ⟨hfree, hj⟩ := Option.ite_none_left_eq_some.1 h
    cases hj
    refine ⟨before, hfirst, fun j hj hkind => ?_⟩
    have hother : isMma j ≠ mma := by simp [hkind]
    by_contra hback
    exact hfree (List.any_eq_true.2 ⟨j, hj, by simpa [hother] using hback⟩)

/-- Settles O25: the first instruction of a unit that does not run, unless an earlier one of the other unit meets its lines. That two writes
of one line are kept in order as well is the model's reading of R163 (log 12). -/
theorem unitOrder : Obligations.UnitOrder := by
  intro x mma i h
  obtain ⟨before, hfirst, hfree⟩ := startable_eq_some h
  obtain ⟨mid, after, hqueue, hbefore, hkind, hruns⟩ := firstOf_eq_some hfirst
  rw [List.nil_append] at hbefore
  subst hbefore
  refine ⟨before, after, hqueue, hkind, fun j hj hsame => by simpa [Option.mem_def] using hruns j hj hsame, fun j hj hother => ?_⟩
  obtain ⟨hwrites, hreads⟩ := holdsBack_eq_false_iff.1 (hfree j hj hother)
  exact ⟨fun r hr q hq => not_shared_of_linesMeet_eq_false ((hwrites r hr).1 q hq),
    fun r hr q hq => not_shared_of_linesMeet_eq_false (hreads r hr q hq)⟩

/-! ### ACCORD_DESCRIPTOR_ARRIVE -/

/-- The descriptor on its way to engine e that is next: the oldest that need not wait (R154). -/
def nextDescriptor (s : State) (e : Nat) (k : Block) : Option AccIns := (engineAt s e).inflight.find? fun i => !descWaits s e k i

section
variable {s : State} {e b : Nat} {k : Block} (h : Safety.unitRuns s (0x80 + e)) (hb : (engineAt s e).block = some b)
  (hk : blockAt s b = some k)
include h hb hk

/-- While the engine accepts nothing, or all descriptors wait, they stay on their way. -/
theorem exec_accordDescriptorArrive_waits
    (hwait : (engineAt s e).draining = true ∨ 4 ≤ (engineAt s e).queue.length ∨ nextDescriptor s e k = none) :
    exec (.accordDescriptorArrive e) s = .next s := by
  change execAccordDescriptorArrive e s = _
  rw [execAccordDescriptorArrive, unitStep_next h]
  simp only [hb, hk]
  by_cases hfull : (engineAt s e).draining = true ∨ 4 ≤ (engineAt s e).queue.length
  · rw [if_pos hfull]
  · have hnone : nextDescriptor s e k = none := by tauto
    rw [nextDescriptor] at hnone
    rw [if_neg hfull, hnone]

variable {i : AccIns} (hopen : (engineAt s e).draining = false) (hroom : (engineAt s e).queue.length < 4)
  (hi : nextDescriptor s e k = some i)
include hopen hroom hi

/-- A descriptor that fails a check parks its group. -/
theorem exec_accordDescriptorArrive_parks {st : Status} (hbad : descBad s e i = some st) :
    exec (.accordDescriptorArrive e) s =
      .next (parkGroup (onEngine s e fun x => { x with inflight := (engineAt s e).inflight.erase i }) b i.group st i.mask i.pc) := by
  change execAccordDescriptorArrive e s = _
  rw [nextDescriptor] at hi
  rw [execAccordDescriptorArrive, unitStep_next h]
  simp only [hb, hk]
  rw [if_neg (by simp [hopen, hroom]), hi]
  simp only [hbad]

/-- A sound one is accepted with the block's next token, and its cohort goes on. -/
theorem exec_accordDescriptorArrive_accepts (hgood : descBad s e i = none) :
    exec (.accordDescriptorArrive e) s =
      .next (onGroup (onBlock (onEngine s e fun x =>
            { x with inflight := (engineAt s e).inflight.erase i, queue := x.queue ++ [{ i with token := nextToken k.token }] }) b fun k' =>
          { k' with token := nextToken k.token, ends := tdel k'.ends (nextToken k.token) })
        b i.group fun g => advance (i.mask.foldl (fun g t => setV g i.dst t (nextToken k.token)) g) i.mask) := by
  change execAccordDescriptorArrive e s = _
  rw [nextDescriptor] at hi
  rw [execAccordDescriptorArrive, unitStep_next h]
  simp only [hb, hk]
  rw [if_neg (by simp [hopen, hroom]), hi]
  simp only [hgood]

end

/-! ### The starts -/

/-- The MMA starts with the accumulator set that the one before it does not use, and with its lookup table (R157). -/
def mmaStarted (v : State) (e : Nat) (i : AccIns) : State :=
  let line (l : Nat) : List Nat := (List.range 64).map fun n => fieldAt (folRead v (e / 4) ((tableLines i).1 + l)).1 (2 * n) 2
  let table := if (tableLines i).2 = 0 then (engineAt v e).table else (List.range (tableLines i).2).flatMap line
  onEngine v e fun y => { y with array := some i.token, aset := 1 - y.aset, table := table }

section
variable {s : State} {e b : Nat} {i : AccIns} (h : Safety.unitRuns s (0x80 + e))
include h

theorem exec_mmaStart_none (hnone : startable (engineAt s e) true = none) : exec (.mmaStart e) s = .next s := by
  change execMmaStart e s = _
  rw [execMmaStart, unitStep_next h, hnone]

/-- The MMA in the array goes to be written out; then the next one starts, unless a line of its lookup table is bad. -/
theorem exec_mmaStart_some (hi : startable (engineAt s e) true = some i) (hb : (engineAt (mmaReduce s e) e).block = some b)
    (hsound : (engineAt (mmaReduce s e) e).faults = []) :
    exec (.mmaStart e) s = .next (if linesBad (mmaReduce s e) (e / 4) [tableLines i] = true
      then accFault (countMismatch (mmaReduce s e)) e b i .integrityMismatch 0 false else mmaStarted (mmaReduce s e) e i) := by
  change execMmaStart e s = _
  rw [execMmaStart, unitStep_next h, hi]
  simp only [hb]
  rw [if_neg (not_not.2 hsound), mmaStarted]

theorem exec_moverStart_none (hnone : startable (engineAt s e) false = none) : exec (.moverStart e) s = .next s := by
  change execMoverStart e s = _
  rw [execMoverStart, unitStep_next h, hnone]

theorem exec_moverStart_some (hi : startable (engineAt s e) false = some i) :
    exec (.moverStart e) s = .next (onEngine s e fun x => { x with mover := some i.token }) := by
  change execMoverStart e s = _
  rw [execMoverStart, unitStep_next h, hi]

end

/-! ### The array -/

@[simp] theorem blockAt_fset (s : State) (f : Fld) (v w n b : Nat) : blockAt (fset s f v w n) b = blockAt s b := by
  rw [blockAt, fset_sc, blockAt]

/-- The steps of an MMA are charged to its engine and to its context (R166). -/
def mmaCharged (s : State) (e : Nat) (k : Block) (i : AccIns) : State :=
  busySteps (fset s F.ACE_ENG_STEPS.BUSY ((fget s F.ACE_ENG_STEPS.BUSY 0 e + mmaSteps i) % 2 ^ 64) 0 e) k.ctx .accord (mmaSteps i)

/-- The accumulator set of the MMA is full, and the MMA goes to be written out. -/
def mmaFilled (s u : State) (e : Nat) (i : AccIns) : State :=
  let acc := (List.range 4096).map fun n => mmaElem u (e / 4) (engineAt s e).table i (n / 64) (n % 64)
  onEngine u e fun x => { x with array := none, out := some i.token, accs := tset x.accs x.aset acc }

/-- An MMA in the array charges its steps, and fills its accumulator set unless a line it consumes is bad (R161, R168). -/
theorem mmaReduce_array {s : State} {e b tok : Nat} {k : Block} {i : AccIns} (hb : (engineAt s e).block = some b) (hk : blockAt s b = some k)
    (hi : insOf (engineAt s e) tok = some i) (htok : (engineAt s e).array = some tok) :
    mmaReduce s e = if linesBad (mmaCharged s e k i) (e / 4) ((readLines i).filter fun r => r ≠ tableLines i) = true
      then accFault (countMismatch (mmaCharged s e k i)) e b i .integrityMismatch 0 false else mmaFilled s (mmaCharged s e k i) e i := by
  have hins : (engineAt s e).array.bind (insOf (engineAt s e)) = some i := by rw [htok, Option.bind_some, hi]
  rw [mmaReduce]
  simp only [hb, hins, blockAt_fset, hk]
  rfl

/-- The C tile of an MMA is written from an accumulator set (R166 step 5). -/
def tileWritten (w : State) (e : Nat) (acc : List Nat) (i : AccIns) : State :=
  ((List.range (32 * accBits (bits (word i 1) 23 16) / 8)).map fun l => (bits (word i 4) 14 0 + l, mmaLine acc i l)).foldl
    (fun s x => folWrite s (e / 4) x.1 x.2) w

/-- The state in which engine e has an MMA to write out, if it has one at all: the one in the array goes there when none is. -/
def mmaOut (s : State) (e : Nat) : State := if (engineAt s e).out.isSome then s else mmaReduce s e

theorem exec_mmaComplete {s : State} {e ecc b : Nat} {i : AccIns} (h : Safety.engines s) (hb : (engineAt (mmaOut s e) e).block = some b)
    (hi : (engineAt (mmaOut s e) e).out.bind (insOf (engineAt (mmaOut s e) e)) = some i) :
    exec (.mmaComplete e ecc) s =
      let x := engineAt (mmaOut s e) e
      let w := if ecc = 0 then mmaOut s e else fcount (mmaOut s e) F.ACE_ENG_ECC.CORRECTED 0 e ecc
      .next (accDone (tileWritten w e (tgetD x.accs (if x.array.isSome then 1 - x.aset else x.aset) []) i) e b i) := by
  change execMmaComplete e ecc s = _
  rw [mmaOut] at hb hi
  rw [execMmaComplete, engineStep_next h]
  simp only [hb, hi]
  rfl

/-! ### The mover -/

/-- The instruction is a LOAD. -/
def isLoad (i : AccIns) : Bool := bits (word i 0) 3 0 = 2

/-- A LOAD of a tile under 64 columns keeps the others, and so consumes the lines that it merges into (log 152). -/
def keepsColumns (i : AccIns) : Bool := bits (word i 0) 11 10 = 1 ∧ (moveShape i).2.1 < 64

/-- What a LOAD moves once its pages are translated: nothing where a line that it merges into is bad or a read fails (R160, R168). -/
def loadMoved (u : State) (e : Nat) (k : Block) (i : AccIns) : Option (Status × Nat) × State :=
  if keepsColumns i = true ∧ linesBad u (e / 4) (writeLines i) = true then (some (.integrityMismatch, 0), countMismatch u)
  else match readRanges u (128 + e) k (moveRanges i) with
    | (some f, _, v) => (some f, v)
    | (none, rows, v) => (none, doLoad v (e / 4) i rows)

/-- What a STORE moves once its pages are translated: its raw lines, or the memory lines of its rows (R160). -/
def storeMoved (u : State) (e : Nat) (k : Block) (i : AccIns) : Option (Status × Nat) × State :=
  if bits (word i 0) 11 10 = 2 then storeRaw u (128 + e) (e / 4) k i (List.range (bits (word i 2) 12 0))
  else storeRows u (128 + e) (e / 4) k i (rowsLines i)

/-- The mover's instruction ends as its move does: it faults the engine, or its token ends. -/
def moverEnds (e b : Nat) (i : AccIns) : Option (Status × Nat) × State → State
  | (some f, v) => accFault v e b i f.1 f.2 (!isLoad i)
  | (none, v) => accDone v e b i

section
variable {u v : State} {e : Nat} {k : Block} {i : AccIns} {rows : List (List Byte)} {f : Status × Nat}

theorem loadMoved_bad (hkept : keepsColumns i = true) (hbad : linesBad u (e / 4) (writeLines i) = true) :
    loadMoved u e k i = (some (.integrityMismatch, 0), countMismatch u) := if_pos ⟨hkept, hbad⟩

variable (hsound : keepsColumns i = false ∨ linesBad u (e / 4) (writeLines i) = false)
include hsound

theorem loadMoved_fails (hread : readRanges u (128 + e) k (moveRanges i) = (some f, rows, v)) : loadMoved u e k i = (some f, v) := by
  rw [loadMoved, if_neg (not_and_or.2 (hsound.imp Bool.eq_false_iff.1 Bool.eq_false_iff.1)), hread]

theorem loadMoved_loads (hread : readRanges u (128 + e) k (moveRanges i) = (none, rows, v)) :
    loadMoved u e k i = (none, doLoad v (e / 4) i rows) := by
  rw [loadMoved, if_neg (not_and_or.2 (hsound.imp Bool.eq_false_iff.1 Bool.eq_false_iff.1)), hread]

end

section
variable {s u : State} {e b tok : Nat} {k : Block} {i : AccIns} (h : Safety.engines s) (hb : (engineAt s e).block = some b)
  (hk : blockAt s b = some k) (hi : insOf (engineAt s e) tok = some i) (htok : (engineAt s e).mover = some tok)
include h hb hk hi htok

/-- A page that is not translated faults the engine before anything is moved. -/
theorem exec_moverComplete_probeFails {f : Status × Nat}
    (hp : probeAll s (128 + e) k (if isLoad i then .read else .write) (moveRanges i) = (some f, u)) :
    exec (.moverComplete e) s = .next (accFault u e b i f.1 f.2 (!isLoad i)) := by
  change execMoverComplete e s = _
  rw [isLoad] at hp
  rw [execMoverComplete, engineStep_next h]
  simp only [hb, htok, hi, hk, hp, isLoad]

theorem exec_moverComplete_load (hload : isLoad i = true) (hp : probeAll s (128 + e) k .read (moveRanges i) = (none, u)) :
    exec (.moverComplete e) s = .next (moverEnds e b i (loadMoved u e k i)) := by
  change execMoverComplete e s = _
  have hload' : decide (bits (word i 0) 3 0 = 2) = true := hload
  rw [execMoverComplete, engineStep_next h]
  simp only [hb, htok, hi, hk, hload', if_true, hp]
  rw [loadMoved, keepsColumns]
  split
  · rw [moverEnds, hload, Bool.not_true]
  · obtain ⟨_ | f, rows, v⟩ := readRanges u (128 + e) k (moveRanges i)
    · rfl
    · simp only [moverEnds, hload, Bool.not_true]

theorem exec_moverComplete_store (hstore : isLoad i = false) (hp : probeAll s (128 + e) k .write (moveRanges i) = (none, u)) :
    exec (.moverComplete e) s = .next (moverEnds e b i (storeMoved u e k i)) := by
  change execMoverComplete e s = _
  have hstore' : decide (bits (word i 0) 3 0 = 2) = false := hstore
  rw [execMoverComplete, engineStep_next h]
  simp only [hb, htok, hi, hk, hstore', Bool.false_eq_true, if_false, hp]
  rcases hmoved : storeMoved u e k i with ⟨_ | f, v⟩ <;> rw [storeMoved] at hmoved
  · simp only [hmoved, moverEnds]
  · simp only [hmoved, moverEnds, hstore, Bool.not_false]

end

/-- A core-level fault of an engine whose domain is ON is recorded (R172). -/
theorem exec_accumulatorEccError {s : State} {e : Nat} (h : Safety.engines s) (he : e < 64) (hon : domOn s (16 + e / 4) = true) :
    exec (.accumulatorEccError e) s =
      .next (raiseBare s (0x80 + e) .uncorrectableEcc 4 (.memory 0 5 0xFF 0xFF 0xFF 0xFFFF 0xFFFF 0 0)) := by
  change execAccumulatorEccError e s = _
  rw [execAccumulatorEccError, engineStep_next h, if_pos ⟨he, hon⟩]

/-- Settles O24, row by row: what the engine holds decides which instruction the row serves, and the checks of its lines and pages decide
between its effect and a fault. That the steps of an MMA are charged when it reduces (log 54) and that a LOAD of a tile under 64 columns
verifies the lines that it merges into (log 152) are deduced. -/
theorem accordEngines : Obligations.AccordEngines := by
  refine ⟨fun s e b k h hb hk => ?arrive, fun s e h => ?starts, fun s e b tok k i hb hk hi htok => ?reduce,
    fun s e ecc b i h hb hi => exec_mmaComplete h hb hi, fun s e b tok k i h hb hk hi htok => ?mover,
    fun s e h he hon => exec_accumulatorEccError h he hon⟩
  case arrive =>
    refine ⟨exec_accordDescriptorArrive_waits h hb hk, fun i hopen hroom hi => ⟨fun st hbad => ?_, fun hgood => ?_⟩⟩
    · exact exec_accordDescriptorArrive_parks h hb hk hopen hroom hi hbad
    · exact exec_accordDescriptorArrive_accepts h hb hk hopen hroom hi hgood
  case starts =>
    refine ⟨exec_mmaStart_none h, fun i b hi hb hsound => ?_, fun i hi => exec_moverStart_some h hi, exec_moverStart_none h⟩
    have started := exec_mmaStart_some h hi hb hsound
    exact ⟨fun hbad => started.trans (congrArg _ (if_pos hbad)),
      fun hgood => started.trans (congrArg _ (if_neg (Bool.eq_false_iff.1 hgood)))⟩
  case reduce =>
    have reduced := mmaReduce_array hb hk hi htok
    exact ⟨fun hbad => reduced.trans (if_pos hbad), fun hgood => reduced.trans (if_neg (Bool.eq_false_iff.1 hgood))⟩
  case mover =>
    refine ⟨fun u f hp => exec_moverComplete_probeFails h hb hk hi htok hp, fun u (hload : isLoad i = true) hp => ?load,
      fun u (hstore : isLoad i = false) hp => ?store⟩
    case load =>
      have ends := exec_moverComplete_load h hb hk hi htok hload hp
      refine ⟨fun hkept hbad => ?_, fun hsound => ⟨fun f rows v hread => ?_, fun rows v hread => ?_⟩⟩
      · rw [ends, loadMoved_bad hkept hbad, moverEnds, hload, Bool.not_true]
      · rw [ends, loadMoved_fails hsound hread, moverEnds, hload, Bool.not_true]
      · rw [ends, loadMoved_loads hsound hread, moverEnds]
    case store =>
      have ends := exec_moverComplete_store h hb hk hi htok hstore hp
      refine ⟨fun f v (hmoved : storeMoved u e k i = _) => ?_, fun v (hmoved : storeMoved u e k i = _) => ?_⟩
      · rw [ends, hmoved, moverEnds, hstore, Bool.not_false]
      · rw [ends, hmoved, moverEnds]

end Sys2Proof.Proofs

/-!
## Raster events, texture and fragment instructions (O27)
-/

namespace Sys2Proof.Proofs

open Machine Laws

/-! ### TILE_HANDOUT -/

/-- A pass that is tried, has a tile to hand out and finds a raster unit hands it out; the passes that lose their place to it are charged. -/
theorem handFirst_hands {s : State} {p c sl n : Nat} {x : Pass} {runs : List (Nat × Nat)} (all rest : List (Nat × Pass))
    (hunit : rasterFor s x = some (c, sl, runs)) (hfresh : savedTile s p = none) (htile : nextTile x = some n) :
    let w := handTile (servePass s .raster x []) p x n c sl runs
    handFirst all ((p, x) :: rest) s = (all.filter fun y => y.1 ≠ p ∧ (rasterFor s y.2).isSome ∧ (rasterFor w y.2).isNone).foldl
      (fun s y => chargeBlocked s y.2.ctx x.ctx 1) w := by
  simp only [handFirst, hunit, hfresh, htile]

/-- The best-ranked tile that finds no raster unit asks a lower one to give way. -/
def roomAsked (u : State) : State :=
  match (tilesReady u).find? fun x => (rasterFor u x.2).isNone with
  | some (_, x) => requestTile u x
  | none => u

theorem exec_tileHandout {s : State} (h : Safety.engines s) :
    exec .tileHandout s = .next (roomAsked (handFirst (tilesReady s) (tilesReady s) s)) := by
  change execTileHandout s = _
  rw [execTileHandout, engineStep_next h]
  rfl

/-! ### The tile in a slot -/

/-- The records that one run takes: the OPAQUE ones at the head of the list, or one ORDERED record (R246). -/
def runRecords (x : Pass) (r : TRec) (rest : List TRec) : List TRec := if recOpaque x r then (r :: rest).takeWhile (recOpaque x) else [r]

/-- The tile after a run. -/
def runMade (x : Pass) (r : TRec) (rest : List TRec) (free : Nat) (t : RTile) : RTile :=
  if recOpaque x r then opaqueRun x { t with recs := t.recs.drop (runRecords x r rest).length } free (runRecords x r rest)
  else orderedPrim x { t with recs := rest } free r

/-- A run of records; v says whether a state object that it uses was written since its check, which leaves free bytes (R227). -/
def recordsRun (c sl : Nat) (x : Pass) (r : TRec) (rest : List TRec) (free : Nat) (v : Bool × State) : State :=
  placeFragment c sl (workTile v.2 c sl fun t =>
    if v.1 then { runMade x r rest free t with data := natLe free (runMade x r rest free t).data.length } else runMade x r rest free t)

section
variable {s : State} {c sl : Nat} {t : RTile} {x : Pass} (h : Safety.unitRuns s (0xC0 + c)) (ht : tileAt s c sl = some t)
include h ht

theorem exec_tileRecordRun {r : TRec} {rest : List TRec} (hx : passAt s t.pass = some x) (hc : c < 16) (hsave : t.pre ≠ .saving)
    (hrecs : t.recs = r :: rest) (hdepth : ∀ f ∈ t.frags, f.late = false ∧ f.late2 = false) :
    exec (.tileRecordRun c sl) s = .next (recordsRun c sl x r rest (Config.free s.freeCtr)
      (statesChanged { s with freeCtr := s.freeCtr + 1 } c t.pass
        (((runRecords x r rest).map fun r => r.draw).eraseDups.filterMap fun n => x.draws[n]?))) := by
  have hgo : ¬ (16 ≤ c ∨ t.pre = .saving ∨ t.frags.any (fun f => f.late ∨ f.late2) = true) := by simpa [hsave, hc] using hdepth
  change execTileRecordRun c sl s = _
  rw [execTileRecordRun, unitStep_next h, ht]
  simp only [hrecs, hx, if_neg hgo]
  rfl

theorem exec_fragmentOutputBlend {f : Frag} (hx : passAt s t.pass = some x) (hc : c < 16) (hsave : t.pre ≠ .saving)
    (hf : t.frags.find? (fun f => (fragOuts s f).isSome ∧ ¬ t.frags.any fun g => fragFirst g f) = some f) :
    let k := takeFree s (2 ^ 32)
    exec (.fragmentOutputBlend c sl) s = .next (dropDone (workTile k.2 c sl fun t => blendFrag x t f k.1 ((fragOuts s f).getD [])) c sl) := by
  have hgo : ¬ (16 ≤ c ∨ t.pre = .saving) := by simp [hsave, hc]
  change execFragmentOutputBlend c sl s = _
  rw [execFragmentOutputBlend, unitStep_next h, ht]
  simp only [hx, if_neg hgo, hf]

theorem exec_tileWriteOut_discarded (hx : passAt s t.pass = some x) (hdisc : x.discard = true) :
    exec (.tileWriteOut c sl) s = .next (dropTile s c sl t) := by
  change execTileWriteOut c sl s = _
  rw [execTileWriteOut, unitStep_next h, ht]
  simp only [hx, if_pos hdisc]

theorem exec_tileWriteOut_busy (hx : passAt s t.pass = some x) (hdisc : x.discard = false) (hbusy : tileQuiet s c sl t = false) :
    exec (.tileWriteOut c sl) s = .next s := by
  have hwait : 16 ≤ c ∨ t.written = true ∨ t.pre = .saving ∨ ¬ tileQuiet s c sl t = true := by simp [hbusy]
  change execTileWriteOut c sl s = _
  rw [execTileWriteOut, unitStep_next h, ht]
  simp only [hx, if_neg (Bool.eq_false_iff.1 hdisc), if_pos hwait]

/-- The attachments of a quiet tile are written, unless a line's check mismatches (R252, R388). -/
theorem exec_tileWriteOut_quiet (hx : passAt s t.pass = some x) (hc : c < 16) (hdisc : x.discard = false) (hnew : t.written = false)
    (hsave : t.pre ≠ .saving) (hquiet : tileQuiet s c sl t = true) :
    exec (.tileWriteOut c sl) s = .next (onTile
      (if tileBad s c t ≠ [] then passFail (countMismatch s) t.pass .integrityMismatch
        else x.surface.used.foldl (writeAtt c t.pass x t (tileData s c t)) s) c sl fun t => { t with written := true }) := by
  have hgo : ¬ (16 ≤ c ∨ t.written = true ∨ t.pre = .saving ∨ ¬ tileQuiet s c sl t = true) := by simp [hc, hnew, hsave, hquiet]
  change execTileWriteOut c sl s = _
  rw [execTileWriteOut, unitStep_next h, ht]
  simp only [hx, if_neg (Bool.eq_false_iff.1 hdisc), if_neg hgo]

theorem exec_tileWriteOutAccepted_unwritten (n : Nat) (hnew : t.written = false) : exec (.tileWriteOutAccepted c sl n) s = .next s := by
  change execTileWriteOutAccepted c sl n s = _
  rw [execTileWriteOutAccepted, unitStep_next h, ht]
  exact congrArg _ (if_pos (Bool.eq_false_iff.1 hnew))

/-- A written tile is counted and leaves its slot (R252); u is the state with the count. -/
theorem exec_tileWriteOutAccepted_written {u : State} (n : Nat) (hwritten : t.written = true)
    (hu : u = fset s F.RAS_UNIT_TILES.COUNT (fget s F.RAS_UNIT_TILES.COUNT 0 c + 1) 0 c) (hx : passAt u t.pass = some x) :
    let v := busySteps u x.ctx .raster n
    exec (.tileWriteOutAccepted c sl n) s =
      .next (freeTile (if t.final ∧ ¬ x.failed ∧ x.sign.contains t.tile then truSet v x t.tile else v) c sl t) := by
  subst hu
  change execTileWriteOutAccepted c sl n s = _
  rw [execTileWriteOutAccepted, unitStep_next h, ht]
  simp only [if_neg (not_not.2 hwritten), hx]

end

/-! ### PASS_END_FINISH -/

/-- The tiles never handed out, which a pass that has not failed and is without reuse writes at its end (R257). -/
def untouchedTiles (y : Pass) : List Nat :=
  if y.failed ∨ y.reuse.isSome then [] else (List.range (y.surface.tiles y.tile)).filter fun n => ¬ y.everOut.contains n

section
variable {s : State} {p : Nat} {x : Pass} (h : Safety.unitRuns s 0x111) (hx : passAt s p = some x)
include h hx

theorem exec_passEndFinish_discarded (hdisc : x.discard = true) :
    exec (.passEndFinish p) s = .next (if passIdle x then passFree s p else s) := by
  change execPassEndFinish p s = _
  rw [execPassEndFinish, unitStep_next h, hx]
  exact congrArg _ (if_pos hdisc)

theorem exec_passEndFinish_notGeometry (hdisc : x.discard = false) (hmode : x.mode ≠ 0) : exec (.passEndFinish p) s = .next s := by
  change execPassEndFinish p s = _
  rw [execPassEndFinish, unitStep_next h, hx]
  exact congrArg _ ((if_neg (Bool.eq_false_iff.1 hdisc)).trans (if_pos hmode))

/-- A pass that has closed and has no tile left writes its untouched tiles and finishes its commands (R201). -/
theorem exec_passEndFinish_closed {y z : Pass} (hdisc : x.discard = false) (hmode : x.mode = 0) (hok : x.failed = false)
    (hy : passAt (tryClose s p) p = some y)
    (hclosed : y.closed = true ∧ y.toHand = [] ∧ y.out = [] ∧ y.toCompare = [] ∧ y.toCopy = [])
    (hz : passAt ((untouchedTiles y).foldl (fun s n => writeUntouched p n s) (tryClose s p)) p = some z) :
    exec (.passEndFinish p) s = .next (passFinish ((untouchedTiles y).foldl (fun s n => writeUntouched p n s) (tryClose s p)) p z) := by
  have hsound : ¬ (x.failed = true ∧ passIdle x = true) := by simp [hok]
  rw [untouchedTiles] at hz ⊢
  change execPassEndFinish p s = _
  rw [execPassEndFinish, unitStep_next h, hx]
  simp only [if_neg (Bool.eq_false_iff.1 hdisc), if_neg (not_not.2 hmode), if_neg hsound, hy, if_neg (not_not.2 hclosed), hz]

end

/-! ### TEX -/

/-- The image descriptor in the scalar registers from r (R259). -/
def texImage (g : Group) (r : Nat) : Image2 := imageOf ((List.range 8).foldl (fun a j => a + sreg g (r + j) * 2 ^ (32 * j)) 0)

/-- The sampler descriptor in the scalar registers from r (R261). -/
def texSampler (g : Group) (r : Nat) : Sampler := samplerOf ((List.range 4).foldl (fun a j => a + sreg g (r + j) * 2 ^ (32 * j)) 0)

/-- Registers that the group does not hold, or an unsound descriptor. -/
def texBad (i : Issue) (d c im sm : Nat) : Prop :=
  8 * vUnits i.blk.prog < d + 4 ∨ 8 * vUnits i.blk.prog < c + texDims (texImage i.g im).ty ∨ 16 * sUnits i.blk.prog < im + 8
    ∨ 16 * sUnits i.blk.prog < sm + 4 ∨ (texImage i.g im).bad = true ∨ (texSampler i.g sm).bad = true

/-- Each thread in turn samples and receives four components (R262). -/
def texSamples (u : State) (i : Issue) (d c im sm : Nat) (lod : TexLod) : Group × TexAcc :=
  i.ts.foldl (fun a t =>
    let k := texThread i.blk i.g (texImage i.g im) (texSampler i.g sm) c lod t a.2
    ((List.range 4).foldl (fun g j => setV g (d + j) t (k.1.getD j 0)) a.1, k.2)) (i.g, none, u)

/-- A faulting sample parks the group; otherwise its threads go on with their components. -/
def texEnds (i : Issue) (r : Group × TexAcc) : State :=
  match r.2.1 with
  | some f => parkAt r.2.2 i f.1 f.2
  | none => put r.2.2 i (advance r.1 i.ts)

theorem texEnds_sound {i : Issue} {r : Group × TexAcc} (hsound : r.2.1 = none) : texEnds i r = put r.2.2 i (advance r.1 i.ts) := by
  rw [texEnds, hsound]

theorem texEnds_faults {i : Issue} {r : Group × TexAcc} {f : Status × Nat} (hfault : r.2.1 = some f) : texEnds i r = parkAt r.2.2 i f.1 f.2 := by
  rw [texEnds, hfault]

section
variable {s u : State} {core pipe d c im sm : Nat} {i : Issue} (h : Safety.engines s) (hi : Safety.issues s core pipe [] true i u)
  (lod : TexLod)
include h hi

theorem exec_tex_bad (hbad : texBad i d c im sm) : exec (.tex core pipe d c im sm lod) s = .next (parkAt u i .badOpcode) := by
  change execTex core pipe d c im sm lod s = _
  rw [execTex, issue_performs h hi]
  exact congrArg _ (if_pos hbad)

/-- On sound descriptors TEX ends by what the samples ran into. -/
theorem exec_tex_samples (hgood : ¬ texBad i d c im sm) :
    exec (.tex core pipe d c im sm lod) s = .next (texEnds i (texSamples u i d c im sm lod)) := by
  change execTex core pipe d c im sm lod s = _
  rw [execTex, issue_performs h hi]
  exact congrArg _ (if_neg hgood)

end

/-! ### DISCARD and ST_ORDERED -/

section
variable {s u : State} {core pipe : Nat} {i : Issue} (h : Safety.engines s) (hi : Safety.issues s core pipe [] true i u)
include h hi

/-- DISCARD in a fragment group ends the threads where the program may discard (R248). -/
theorem exec_discard_fragment (n : Nat) {cl sl : Nat} (hkind : i.blk.kind = .fragment cl sl) : exec (.discard core pipe n) s =
    .next (if bit i.blk.fragFlags 0 then exitThreads u i n true else parkAt u i .badOpcode) := by
  change execDiscard core pipe n s = _
  rw [execDiscard, issue_performs h hi]
  simp only [hkind]

/-- Elsewhere it does not exist. -/
theorem exec_discard_elsewhere (n : Nat) (hkind : ∀ cl sl, i.blk.kind ≠ .fragment cl sl) :
    exec (.discard core pipe n) s = .next (parkAt u i .badOpcode) := by
  change execDiscard core pipe n s = _
  rw [execDiscard, issue_performs h hi]
  split
  next cl sl hfrag => exact absurd hfrag (hkind cl sl)
  next => rfl

end

/-- An ordered store exists where a plain one of its size and registers does (R251). -/
theorem exec_stOrdered {s u : State} {core pipe n a v : Nat} {i : Issue} (h : Safety.engines s)
    (hi : Safety.issues s core pipe [(a, 2), (v, sizeWords n)] false i u) :
    exec (.stOrdered core pipe n a v) s = .next (if (SIns.memory .store n 0 a v false false false).exists i.blk.prog
      then issueMem u i .store n 0 a v false false false true else parkAt u i .badOpcode) := by
  change execStOrdered core pipe n a v s = _
  rw [execStOrdered, issue_performs h hi]

/-- Settles O27, row by row. Three choices are the model's: the bytes that a run leaves where a state object has changed are free (log 148),
TEX waits for all outstanding accesses of its threads (log 49), and DISCARD outside a fragment group is BAD_OPCODE (log 56). -/
theorem rasterEvents : Obligations.RasterEvents := by
  refine ⟨fun s h => ?handout, fun s c sl t x h hc ht hx => ?tile, fun s p x h hx => ?passEnd, fun s u core pipe i h hi => ?group,
    fun s u core pipe n a v i h hi => ?ordered⟩
  case handout =>
    intro u
    have handed : exec .tileHandout s = .next (roomAsked u) := exec_tileHandout h
    refine ⟨fun p x hnone => ?_, fun hall => ?_, fun p x l c sl runs n hready hunit hfresh htile => ?_⟩
    · rw [handed, roomAsked, hnone]
    · rw [handed, roomAsked, hall]
    · have hbest : u = handFirst ((p, x) :: l) ((p, x) :: l) s := by rw [← hready]
      exact hbest.trans (handFirst_hands _ l hunit hfresh htile)
  case tile =>
    refine ⟨fun r rest hsave hrecs hdepth => exec_tileRecordRun h ht hx hc hsave hrecs hdepth,
      fun f hsave hf => exec_fragmentOutputBlend h ht hx hc hsave hf, exec_tileWriteOut_discarded h ht hx,
      fun hnew hsave hquiet hdisc => exec_tileWriteOut_quiet h ht hx hc hdisc hnew hsave hquiet, exec_tileWriteOut_busy h ht hx,
      fun n u hwritten hu hxu => exec_tileWriteOutAccepted_written h ht n hwritten hu hxu, exec_tileWriteOutAccepted_unwritten h ht⟩
  case passEnd =>
    refine ⟨fun hdisc hidle => ?_, fun hdisc hidle => ?_, fun hdisc hmode hok y hy hclosed hhand hout hcompare hcopy => ?_,
      exec_passEndFinish_notGeometry h hx⟩
    · rw [exec_passEndFinish_discarded h hx hdisc, if_pos hidle]
    · rw [exec_passEndFinish_discarded h hx hdisc, if_neg (Bool.eq_false_iff.1 hidle)]
    · exact fun z hz => exec_passEndFinish_closed h hx hdisc hmode hok hy ⟨hclosed, hhand, hout, hcompare, hcopy⟩ hz
  case group =>
    refine ⟨fun d c im sm lod => ?tex, fun n cl sl hkind hmay => ?_, fun n cl sl hkind hnever => ?_,
      exec_discard_elsewhere h hi⟩
    case tex =>
      intro m q regs bad r
      have sampled (hgood : ¬ bad) : exec (.tex core pipe d c im sm lod) s = .next (texEnds i r) := exec_tex_samples h hi lod hgood
      exact ⟨exec_tex_bad h hi lod, fun hgood hsound => (sampled hgood).trans (congrArg _ (texEnds_sound hsound)),
        fun f hgood hfault => (sampled hgood).trans (congrArg _ (texEnds_faults hfault))⟩
    · rw [exec_discard_fragment h hi n hkind, if_pos hmay]
    · rw [exec_discard_fragment h hi n hkind, if_neg (Bool.eq_false_iff.1 hnever)]
  case ordered =>
    rw [exec_stOrdered h hi]
    exact ⟨fun hexists => congrArg _ (if_pos hexists), fun hnone => congrArg _ (if_neg (Bool.eq_false_iff.1 hnone))⟩

end Sys2Proof.Proofs

/-!
## The tile reuse unit (O28)
-/

namespace Sys2Proof.Proofs

open Machine Laws

/-! ### TRU_CMD -/

theorem truCmd_idle {s : State} {f : Nat} (h : Safety.writable s .TRU_CMD f 0) (hb : fget s F.TRU_RESULT.BUSY f = 0) (k : State → State) :
    truCmd s f k = .next (k s) := cmdWrite_idle h hb k

section
variable {s : State} {f : Nat} (h : Safety.writable s .TRU_CMD f 0) (hb : fget s F.TRU_RESULT.BUSY f = 0)
include h hb

/-- BUMP raises the version counter of the object that its handle names and reports it (R285). -/
theorem exec_truBump_named {o : Obj} (ho : objectOf s f (rget s .TRU_ARG0 f) = some o) :
    exec (.truBump f) s = .next (truResult (bumpVersion s o.idx) f .ok (tgetD (bumpVersion s o.idx).gfx.versions o.idx 0)) := by
  change execTruBump f s = _
  rw [execTruBump, truCmd_idle h hb, ho]

theorem exec_truBump_stale (ho : objectOf s f (rget s .TRU_ARG0 f) = none) : exec (.truBump f) s = .next (truResult s f .staleHandle 0) := by
  change execTruBump f s = _
  rw [execTruBump, truCmd_idle h hb, ho]

theorem exec_truCmdUndefinedOp {op : Nat} (h1 : op % 16 ≠ 1) (h2 : op % 16 ≠ 2) :
    exec (.truCmdUndefinedOp f op) s = .next (truResult s f .badOpcode 0) := by
  change execTruCmdUndefinedOp f op s = _
  rw [execTruCmdUndefinedOp, truCmd_idle h hb, if_neg (not_or.2 ⟨h1, h2⟩)]

section
variable {sl a b : Nat} (hsl : fget s F.TRU_ARG1.SLOT f = sl) (ha : fget s F.TRU_ARG1.FIRST f = a) (hlast : fget s F.TRU_ARG1.LAST f = b)
include hsl

theorem exec_truInvalidate_foreign (hf : fget s F.TRU_SLOT_CFG.FUNCTION 0 sl ≠ f) :
    exec (.truInvalidate f) s = .next (truResult s f .permission 0) := by
  subst hsl
  change execTruInvalidate f s = _
  rw [execTruInvalidate, truCmd_idle h hb]
  exact congrArg _ (if_pos hf)

include ha hlast

/-- INVALIDATE of the function's own slot is refused where FIRST to LAST is no range of entries, and waits for the pass that holds the slot (R285). -/
theorem exec_truInvalidate_own (hf : fget s F.TRU_SLOT_CFG.FUNCTION 0 sl = f) :
    exec (.truInvalidate f) s = .next (if b < a ∨ 8191 < b then truResult s f .lengthRange 0
      else if (truSlot s sl).held.isSome then onSlot (fset s F.TRU_RESULT.BUSY 1 f) sl fun x => { x with waiting := some (f, a, b) }
      else truResult (truClear s sl a b) f .ok 0) := by
  subst hsl ha hlast
  change execTruInvalidate f s = _
  rw [execTruInvalidate, truCmd_idle h hb]
  exact congrArg _ (if_neg (not_not.2 hf))

end

end

/-! ### TRU_SLOT_CFG -/

/-- The write changes MODE or FUNCTION. -/
def slotChanges (s : State) (sl v : Nat) : Prop :=
  v % 4 ≠ fget s F.TRU_SLOT_CFG.MODE 0 sl ∨ bits v 7 4 ≠ fget s F.TRU_SLOT_CFG.FUNCTION 0 sl

/-- The register's fields take the value, each as its access allows (R9). -/
def slotStored (u : State) (sl v : Nat) : State :=
  rset u .TRU_SLOT_CFG (Reg.written .TRU_SLOT_CFG (rget u .TRU_SLOT_CFG 0 sl) v (2 ^ 32 - 1)) 0 sl

section
variable {s : State} {sl v : Nat}

/-- MODE 3 is discarded, and so is any value while a pass holds the slot (R284). -/
theorem truSlotCfg_discarded (hbad : v % 4 = 3 ∨ (truSlot s sl).held ≠ none) : truSlotCfg s sl v = s :=
  if_pos (by rwa [Option.isSome_iff_ne_none])

theorem truSlotCfg_changed (hmode : v % 4 ≠ 3) (hfree : (truSlot s sl).held = none) (hch : slotChanges s sl v) :
    truSlotCfg s sl v = slotStored (rset (truUnbind s sl) .TRU_SLOT_STAT 0 0 sl) sl v := by
  have htaken : ¬ (v % 4 = 3 ∨ (truSlot s sl).held.isSome = true) := by simp [hmode, hfree]
  have hbool : (decide (v % 4 ≠ fget s F.TRU_SLOT_CFG.MODE 0 sl) || decide (bits v 7 4 ≠ fget s F.TRU_SLOT_CFG.FUNCTION 0 sl)) = true := by
    simpa [slotChanges] using hch
  simp only [truSlotCfg, if_neg htaken, hbool, if_true, true_or]
  rfl

/-- A write that keeps MODE and FUNCTION keeps the slot bound; the counts of a compute slot start again all the same (R274). -/
theorem truSlotCfg_unchanged (hmode : v % 4 ≠ 3) (hfree : (truSlot s sl).held = none) (hch : ¬ slotChanges s sl v) :
    truSlotCfg s sl v = slotStored (if v % 4 = 2 then rset s .TRU_SLOT_STAT 0 0 sl else s) sl v := by
  have htaken : ¬ (v % 4 = 3 ∨ (truSlot s sl).held.isSome = true) := by simp [hmode, hfree]
  have hbool : (decide (v % 4 ≠ fget s F.TRU_SLOT_CFG.MODE 0 sl) || decide (bits v 7 4 ≠ fget s F.TRU_SLOT_CFG.FUNCTION 0 sl)) = false := by
    simpa [slotChanges] using hch
  simp only [truSlotCfg, if_neg htaken, hbool, Bool.false_eq_true, if_false, false_or]
  rfl

end

theorem exec_truSlotCfgWrite {s : State} {sl : Nat} (hsl : sl < 16) (h : Safety.writable s .TRU_SLOT_CFG 0 sl) (v : Nat) :
    exec (.truSlotCfgWrite sl v) s = .next (truSlotCfg s sl v) := by
  change execTruSlotCfgWrite sl v s = _
  rw [execTruSlotCfgWrite, busWrite_next h, if_neg (Nat.not_le.2 hsl)]

/-! ### Load terms (R268) -/

theorem exec_loadTermReadDone {s u : State} {p sl n : Nat} {x : Pass} {b : List Byte} (h : Safety.unitRuns s 0x115)
    (hx : passAt s p = some x) (hre : x.reuse = some sl)
    (hn : (x.toHand ++ x.toCompare).find? (fun n => (tget x.loadTerms n).isNone) = some n)
    (hread : loadTerm p x n x.surface.used s = (some b, u)) :
    exec (.loadTermReadDone p) s = .next (onPass u p fun x => { x with loadTerms := tset x.loadTerms n b }) := by
  have hreuse : ¬ x.reuse.isNone = true := by simp [hre]
  change execLoadTermReadDone p s = _
  rw [execLoadTermReadDone, unitStep_next h, hx]
  simp only [if_neg hreuse, hn, hread]

/-! ### Lookup (R276) -/

/-- The tile is handed out, with or without the mark that its entry takes its signature with its last write. -/
def tileHanded (v : State) (p n : Nat) (sign : Bool) : State :=
  onPass v p fun x => { x with toHand := nins x.toHand n, sign := if sign then nins x.sign n else x.sign }

/-- One more tile of the pass is shaded. -/
def tileShaded (v : State) (p : Nat) : State := onPass v p fun x => { x with shaded := x.shaded + 1 }

/-- The tile has left the list of those to compare. -/
def tileTaken (s : State) (p : Nat) (rest : List Nat) : State := onPass s p fun x => { x with toCompare := rest }

/-- A tile that matches is kept where the surface is the recorded one, else copied. -/
def tileMatched (v : State) (p sl n : Nat) (x : Pass) : State :=
  if x.target.base = (truSlot v sl).recordedAt then onPass v p fun x => { x with kept := x.kept + 1 }
  else onPass v p fun x => { x with toCopy := x.toCopy ++ [n] }

/-- The next tile with a load term takes the first of the outcomes that fits. -/
theorem exec_reuseTileLookup {s : State} {p sl n : Nat} {x : Pass} {rest : List Nat} {b : List Byte} (h : Safety.unitRuns s 0x115)
    (hx : passAt s p = some x) (hre : x.reuse = some sl) (hcmp : x.toCompare = n :: rest) (hterm : tget x.loadTerms n = some b) (ecc : TruEcc) :
    let u := tileTaken s p rest
    let e := truRead u (sl * 8192 + n) ecc
    exec (.reuseTileLookup p ecc) s = .next
      (if x.everOut.contains n then if x.touched.contains n then tileHanded u p n true else truSet u x n
      else if (listOf x n).side then tileHanded (tileShaded u p) p n false
      else if e.1 = some (signature x n) then tileMatched e.2 p sl n x
      else if x.touched.contains n then tileHanded (tileShaded e.2 p) p n true
      else truSet (writeUntouched p n (tileShaded e.2 p)) x n) := by
  have hread : ¬ (tget x.loadTerms n).isNone = true := by simp [hterm]
  change execReuseTileLookup p ecc s = _
  rw [execReuseTileLookup, unitStep_next h, hx]
  simp only [hcmp, hre, if_neg hread]
  rfl

/-! ### Copy (R277) -/

theorem exec_reuseTileCopy {s : State} {c p sl n : Nat} {x : Pass} {rest : List Nat} (h : Safety.unitRuns s (0xC0 + c))
    (hx : passAt s p = some x) (hre : x.reuse = some sl) (hcopy : x.toCopy = n :: rest) (hc : c < 16) (hon : domOn s c = true) :
    exec (.reuseTileCopy c p) s = .next (onPass
      (x.surface.used.foldl (copyAtt c p x n (truSlot s sl).recordedAt ((truSlot s sl).recorded.getD default)) s) p
      fun x => { x with toCopy := if x.failed then [] else rest, copied := x.copied + 1 }) := by
  have hgo : ¬ (16 ≤ c ∨ ¬ domOn s c = true) := by simp [hc, hon]
  change execReuseTileCopy c p s = _
  rw [execReuseTileCopy, unitStep_next h, hx]
  simp only [hcopy, hre, if_neg hgo]

/-! ### RU_PROBE and RU_COMMIT (R280, R281) -/

/-- The region of a descriptor at scalar register d is read: the checks of its lines, row by row. -/
def regionRead (u : State) (i : Issue) (d : Nat) : Except (Status × Nat) (List Byte) × State :=
  ruRows i (ruWord i.g d 1 + ruWord i.g d 2 * 2 ^ 32) (ruWord i.g d 4) (bits (ruWord i.g d 3) 15 0) (bits (ruWord i.g d 3) 31 16) 0 u

/-- The signature of a region (R280): ROWS, ROW_LINES and EXTRA of its descriptor, then the checks of its lines. -/
def regionSignature (g : Group) (d : Nat) (checks : List Byte) : Nat :=
  crc64 (natLe (bits (ruWord g d 3) 31 16) 2 ++ natLe (bits (ruWord g d 3) 15 0) 2 ++ natLe (ruWord g d 5) 4 ++ checks)

/-- A probe counts its outcome and returns the signature in words 6 and 7 of the descriptor and the match in r. -/
def probeAnswered (v : State) (i : Issue) (r d sig : Nat) (hit : Bool) : State :=
  put (fcount v (if hit then F.TRU_SLOT_STAT.KEPT else F.TRU_SLOT_STAT.SHADED) 0 (ruWord i.g d 0 % 16)) i
    (advance (setS (setS (setS i.g (d + 6) sig) (d + 7) (sig / 2 ^ 32)) r (b2n hit)) i.ts)

section
variable {s u : State} {core pipe r d : Nat} {i : Issue} (h : Safety.engines s) (hi : Safety.issues s core pipe [] false i u)
  (hon : domOn s 41 = true)
include h hi hon

section
variable (hr : r < 16 * sUnits i.blk.prog) (ecc : TruEcc)
include hr

theorem exec_ruProbe_fault {st : Status} (hf : ruFault u i d = some st) : exec (.ruProbe core pipe r d ecc) s = .next (parkAt u i st) := by
  change execRuProbe core pipe r d ecc s = _
  rw [execRuProbe, if_neg (not_not.2 hon), issue_performs h hi]
  simp only [if_neg (Nat.not_le.2 hr), hf]

theorem exec_ruProbe_unread {f : Status × Nat} {v : State} (hf : ruFault u i d = none) (hread : regionRead u i d = (.error f, v)) :
    exec (.ruProbe core pipe r d ecc) s = .next (parkAt v i f.1 f.2) := by
  rw [regionRead] at hread
  change execRuProbe core pipe r d ecc s = _
  rw [execRuProbe, if_neg (not_not.2 hon), issue_performs h hi]
  simp only [if_neg (Nat.not_le.2 hr), hf, hread]

theorem exec_ruProbe_read {checks : List Byte} {v : State} (hf : ruFault u i d = none) (hread : regionRead u i d = (.ok checks, v)) :
    let e := truRead v (ruKey (ruWord i.g d 0)) ecc
    let sig := regionSignature i.g d checks
    exec (.ruProbe core pipe r d ecc) s = .next (probeAnswered e.2 i r d sig (decide (e.1 = some sig))) := by
  rw [regionRead] at hread
  change execRuProbe core pipe r d ecc s = _
  rw [execRuProbe, if_neg (not_not.2 hon), issue_performs h hi]
  simp only [if_neg (Nat.not_le.2 hr), hf, hread]
  rfl

end

theorem exec_ruCommit_fault {st : Status} (hf : ruFault u i d = some st) : exec (.ruCommit core pipe d) s = .next (parkAt u i st) := by
  change execRuCommit core pipe d s = _
  rw [execRuCommit, if_neg (not_not.2 hon), issue_performs h hi, hf]

theorem exec_ruCommit_sound (hf : ruFault u i d = none) :
    exec (.ruCommit core pipe d) s = .next (put (onGfx u fun g => { g with
      reuse := tset g.reuse (ruKey (ruWord i.g d 0)) (ruWord i.g d 6 + ruWord i.g d 7 * 2 ^ 32) }) i (advance i.g i.ts)) := by
  change execRuCommit core pipe d s = _
  rw [execRuCommit, if_neg (not_not.2 hon), issue_performs h hi, hf]

end

/-- Settles O28, command by command. That RU_COMMIT reads no line of its region (log 138) and the widths of 2, 2 and 4 bytes of what a
signature folds before the checks (log 20) are the model's choices. -/
theorem reuseCommands : Obligations.ReuseCommands := by
  refine ⟨fun s f h hb => ?command, fun s sl v hsl h => ?config, fun s p x h hx => ?lookup,
    fun s c p sl n x rest => exec_reuseTileCopy, fun s key => ⟨rfl, rfl, rfl⟩, fun s u core pipe i h hi hon => ?compute⟩
  case command =>
    refine ⟨fun o => exec_truBump_named h hb, exec_truBump_stale h hb, ?_, fun op => exec_truCmdUndefinedOp h hb⟩
    intro sl a b
    have own (hf : fget s F.TRU_SLOT_CFG.FUNCTION 0 sl = f) := exec_truInvalidate_own h hb rfl rfl rfl hf
    refine ⟨exec_truInvalidate_foreign h hb rfl, fun hf hbad => ?_, fun hf hab hmax hfree => ?_, fun hf hab hmax hheld => ?_⟩
    · rw [own hf, if_pos hbad]
    · rw [own hf, if_neg (not_or.2 ⟨Nat.not_lt.2 hab, Nat.not_lt.2 hmax⟩), if_neg (by simp [sl, hfree])]
    · rw [own hf, if_neg (not_or.2 ⟨Nat.not_lt.2 hab, Nat.not_lt.2 hmax⟩), if_pos (Option.isSome_iff_ne_none.2 hheld)]
  case config =>
    intro change stored
    rw [exec_truSlotCfgWrite hsl h]
    exact ⟨fun hbad => congrArg _ (truSlotCfg_discarded hbad), fun hmode hfree hch => congrArg _ (truSlotCfg_changed hmode hfree hch),
      fun hmode hfree hch => congrArg _ (truSlotCfg_unchanged hmode hfree hch)⟩
  case lookup =>
    refine ⟨fun sl n u b => exec_loadTermReadDone h hx, fun sl n b rest ecc hre hcmp hterm => ?_⟩
    rw [exec_reuseTileLookup h hx hre hcmp hterm ecc]
    simp only [List.contains_iff_mem]
    refine ⟨fun hout htouch => ?_, fun hout htouch => ?_, fun hnew hside => ?_, fun hnew hside hsame => ?_, fun hnew hside hdiff => ?_⟩
    · rw [if_pos hout, if_pos htouch]; rfl
    · rw [if_pos hout, if_neg htouch]; rfl
    · rw [if_neg hnew, if_pos hside]; rfl
    · rw [if_neg hnew, if_neg (Bool.eq_false_iff.1 hside)]
      exact congrArg _ (if_pos hsame)
    · rw [if_neg hnew, if_neg (Bool.eq_false_iff.1 hside)]
      exact congrArg _ (if_neg hdiff)
  case compute =>
    refine ⟨fun r d ecc hr => ?_, fun d => exec_ruCommit_sound h hi hon, fun d st => exec_ruCommit_fault h hi hon⟩
    exact ⟨fun st => exec_ruProbe_fault h hi hon hr ecc, fun f v => exec_ruProbe_unread h hi hon hr ecc,
      fun checks v => exec_ruProbe_read h hi hon hr ecc⟩

end Sys2Proof.Proofs

/-!
## Steps of the sequence unit and the release of pages (O30)
-/

namespace Sys2Proof.Proofs

open Machine Laws

/-! ### Formation (R296 to R298) -/

/-- The batch that a step forms: decode rows, none in a ring step, then prefill rows (R296). -/
def batchFormed (s : State) (r : SeqRun) : Forming × State :=
  formPass (bits r.batch 50 38) (bits r.batch 37 21) (bits r.batch 20 6) r.ring false (candidates s r .prefill)
    (if r.ring then ({}, s)
      else formPass (bits r.batch 50 38) (bits r.batch 37 21) (bits r.batch 20 6) false true (candidates s r .decode) ({}, s))

/-- The step record of the batch a is written (R297). -/
def recordWritten (r : SeqRun) (k : Task) (a : Forming × State) (header : List Byte) : Status × State :=
  vwrite a.2 210 7 r.fn r.asid r.ctx (objBase k 16) (stepRecord a.2 header a.1.rows)

/-- From the state that holds the step record, the step is counted, and a ring step begins its exchanges (R297, R306). -/
def stepBegun (t : Nat) (r : SeqRun) (k : Task) (step : Nat) (u : State) : Status × State :=
  let formed := onSeq u fun x => { x with steps := tset x.steps r.fn step }
  if r.ring then ringBegin formed t k r else (.ok, formed)

/-- What a formation makes of the answer to its launch. -/
def launchAnswered (s : State) (t : Nat) (r : SeqRun) (rows : List SeqRow) : LStart × State → State
  | (.wait, _) => s
  | (.fail st addr, u) => stepFail u t st addr
  | (.ok l, u) => onSeq u fun x => { x with runs := tset x.runs t { r with stage := .running l, rows := rows, wrote := false } }

section
variable {s : State} {t : Nat} {r : SeqRun} {rows : List SeqRow} {b : LStart × State}

theorem launchAnswered_wait (hb : b.1 = .wait) : launchAnswered s t r rows b = s := by
  obtain ⟨_, u⟩ := b
  subst hb
  rfl

theorem launchAnswered_fail {st : Status} {addr : Nat} (hb : b.1 = .fail st addr) :
    launchAnswered s t r rows b = stepFail b.2 t st addr := by
  obtain ⟨_, u⟩ := b
  subst hb
  rfl

theorem launchAnswered_ok {l : Nat} (hb : b.1 = .ok l) : launchAnswered s t r rows b =
    onSeq b.2 fun x => { x with runs := tset x.runs t { r with stage := .running l, rows := rows, wrote := false } } := by
  obtain ⟨_, u⟩ := b
  subst hb
  rfl

end

section
variable {s : State} {t : Nat} {r : SeqRun} {k : Task} {a : Forming × State} (h : Safety.unitRuns s 0x114)
  (hr : tget s.seq.runs t = some r) (hk : taskAt s t = some k) (hst : r.stage = .forming) (ha : batchFormed s r = a)
include h hr hk hst ha

/-- A failed access to the pages of a row fails the step. -/
theorem exec_seqFormation_unpaged {st : Status} (hf : a.1.fail = some st) :
    exec (.seqFormation t) s = .next (stepFail a.2 t st (accessAddr a.2 st)) := by
  rw [batchFormed] at ha
  change execSeqFormation t s = _
  rw [execSeqFormation, unitStep_next h, hr, hk]
  simp only [if_neg (not_not.2 hst), ha, hf]

theorem exec_seqFormation_empty (hf : a.1.fail = none) (hrows : a.1.rows = []) :
    exec (.seqFormation t) s = .next (endBare (runDrop a.2 t) t .ok) := by
  rw [batchFormed] at ha
  change execSeqFormation t s = _
  rw [execSeqFormation, unitStep_next h, hr, hk]
  simp only [if_neg (not_not.2 hst), ha, hf, if_pos hrows]

section
variable {step : Nat} {header : List Byte} {w g : Status × State} (hf : a.1.fail = none) (hrows : a.1.rows ≠ [])
  (hstep : tgetD s.seq.steps r.fn 0 + 1 = step) (hheader : stepHeader a.2 r a.1 (objBase k 16) step = header)
  (hw : recordWritten r k a header = w)
include hf hrows hstep hheader hw

theorem exec_seqFormation_unrecorded (hbad : w.1 ≠ .ok) :
    exec (.seqFormation t) s = .next (stepFail w.2 t w.1 w.2.xlt.failAddr) := by
  rw [batchFormed] at ha
  rw [recordWritten] at hw
  change execSeqFormation t s = _
  rw [execSeqFormation, unitStep_next h, hr, hk]
  simp only [if_neg (not_not.2 hst), ha, hf, if_neg hrows, hstep, hheader, hw, if_pos hbad]

section
variable (hok : w.1 = .ok) (hg : stepBegun t r k step w.2 = g)
include hok hg

/-- With its record written the step begins, unless an exchange of a ring step is not sound (R306). -/
theorem exec_seqFormation_unbegun (hbad : g.1 ≠ .ok) :
    exec (.seqFormation t) s = .next (stepFail g.2 t g.1 (accessAddr g.2 g.1)) := by
  rw [batchFormed] at ha
  rw [recordWritten] at hw
  rw [stepBegun] at hg
  change execSeqFormation t s = _
  rw [execSeqFormation, unitStep_next h, hr, hk]
  simp only [if_neg (not_not.2 hst), ha, hf, if_neg hrows, hstep, hheader, hw, if_neg (not_not.2 hok), hg, if_pos hbad]

theorem exec_seqFormation_launches (hbegun : g.1 = .ok) {o : Obj} (ho : objAt k 8 = some o) :
    exec (.seqFormation t) s = .next (launchAnswered s t r a.1.rows
      (launchStart g.2 (.step r.q r.seq) ((queueAt g.2 r.q).getD r.home) o 0 (.bytes header))) := by
  rw [batchFormed] at ha
  rw [recordWritten] at hw
  rw [stepBegun] at hg
  change execSeqFormation t s = _
  rw [execSeqFormation, unitStep_next h, hr, hk]
  simp only [if_neg (not_not.2 hst), ha, hf, if_neg hrows, hstep, hheader, hw, if_neg (not_not.2 hok), hg,
    if_neg (not_not.2 hbegun), ho]
  rfl

end

end

end

/-! ### Harvest (R299, R302) -/

/-- A failed exchange is not waited for (R302). -/
theorem ringDone_of_failed {s : State} {g : Ring} (r : SeqRun) {e : Status} (hg : s.seq.ring = some g) (he : g.failed = some e) :
    ringDone s r = true := by
  simp [ringDone, hg, he]

/-- No exchange of the step has failed. -/
def exchangesSound (s : State) (r : SeqRun) : Prop := r.ring = false ∨ ∃ g, s.seq.ring = some g ∧ g.failed = none

/-- The end of a launch is taken. -/
def launchTaken (s : State) (l : Nat) : State := onFe s fun x => { x with stepDone := tdel x.stepDone l }

/-- The results of the batch are read. -/
def resultsRead (s : State) (l : Nat) (r : SeqRun) (k : Task) : Status × List Byte × State :=
  vread (launchTaken s l) 210 7 r.fn r.asid r.ctx (objBase k 16 + outOffset r.rows.length) (8 * r.rows.length)

/-- The rows of the batch, each with its result. -/
def rowResults (s : State) (l : Nat) (r : SeqRun) (k : Task) : List (SeqRow × Nat) :=
  r.rows.zipIdx.map fun x => (x.1, fieldAt (resultsRead s l r k).2.1 (8 * x.2) 8)

/-- The tokens of the batch are written. -/
def tokensWritten (s : State) (l : Nat) (r : SeqRun) (k : Task) : Status × State :=
  writeTokens r (rowResults s l r k) (resultsRead s l r k).2.2

/-- Every row takes its effect on its slot and makes its events (R299, R300). -/
def rowsHarvested (s : State) (l : Nat) (r : SeqRun) (k : Task) : List SeqEvent × State :=
  (rowResults s l r k).foldl harvestRow ([], (tokensWritten s l r k).2)

/-- The harvest of a launch that is over and whose exchanges are sound; st is how it ended, with address and node of a failure. -/
def launchHarvested (s : State) (t l : Nat) (r : SeqRun) (k : Task) (st : Status × Nat × Nat) : State :=
  if st.1 ≠ .ok then stepFail (launchTaken s l) t st.1 st.2.1 st.2.2
  else if (resultsRead s l r k).1 ≠ .ok then
    stepFail (resultsRead s l r k).2.2 t (resultsRead s l r k).1 (resultsRead s l r k).2.2.xlt.failAddr
  else if (tokensWritten s l r k).1 ≠ .ok then
    stepFail (tokensWritten s l r k).2 t (tokensWritten s l r k).1 (tokensWritten s l r k).2.xlt.failAddr
  else
    let h := rowsHarvested s l r k
    harvestEnd (onSeq h.2 fun x => { x with
      runs := tset x.runs t { r with stage := .harvesting, events := if flag h.2 F.SEQ_EVT_CTL.EN r.fn then h.1 else [] } }) t

section
variable {s : State} {t l : Nat} {r : SeqRun} {k : Task} (h : Safety.unitRuns s 0x114) (hr : tget s.seq.runs t = some r)
  (hk : taskAt s t = some k) (hst : r.stage = .running l)
include h hr hk hst

theorem exec_seqHarvest_launchRuns (hl : tget s.fe.stepDone l = none) : exec (.seqHarvest t) s = .next s := by
  change execSeqHarvest t s = _
  rw [execSeqHarvest, unitStep_next h, hr, hk]
  simp only [hst, hl]

section
variable {st : Status × Nat × Nat} (hl : tget s.fe.stepDone l = some st)
include hl

theorem exec_seqHarvest_exchangesRun (hok : st.1 = .ok) (hd : ringDone s r = false) : exec (.seqHarvest t) s = .next s := by
  have hwaits : st.1 = .ok ∧ ¬ ringDone s r = true := ⟨hok, Bool.eq_false_iff.1 hd⟩
  change execSeqHarvest t s = _
  rw [execSeqHarvest, unitStep_next h, hr, hk]
  simp only [hst, hl, if_pos hwaits]

theorem exec_seqHarvest_exchangeFailed {g : Ring} {e : Status} (hring : r.ring = true) (hg : s.seq.ring = some g)
    (he : g.failed = some e) : exec (.seqHarvest t) s = .next (stepFail (launchTaken s l) t e) := by
  have hover : ¬ (st.1 = .ok ∧ ¬ ringDone s r = true) := fun hwaits => hwaits.2 (ringDone_of_failed r hg he)
  change execSeqHarvest t s = _
  rw [execSeqHarvest, unitStep_next h, hr, hk]
  simp only [hst, hl, if_neg hover, onFe_seq, if_pos hring, hg, he]
  rfl

theorem exec_seqHarvest_over (hs : exchangesSound s r) (hd : st.1 ≠ .ok ∨ ringDone s r = true) :
    exec (.seqHarvest t) s = .next (launchHarvested s t l r k st) := by
  have hover : ¬ (st.1 = .ok ∧ ¬ ringDone s r = true) := by simpa [or_iff_not_imp_left] using hd
  change execSeqHarvest t s = _
  rw [execSeqHarvest, unitStep_next h, hr, hk]
  obtain hring | ⟨g, hg, hsound⟩ := hs
  · simp only [hst, hl, if_neg hover, if_neg (Bool.eq_false_iff.1 hring)]
    rfl
  · simp only [hst, hl, if_neg hover, onFe_seq, hg, hsound, ite_self]
    rfl

end

end

/-- The harvests of a function that wait for room in its event ring go on (R300). -/
theorem exec_seqEvtCi {s : State} {f : Nat} (h : Safety.writable s .SEQ_EVT_CI f 0) (v : Nat) :
    exec (.seqEvtCi f v) s = .next ((s.seq.runs.filter fun e => decide (e.2.fn = f ∧ e.2.stage = .harvesting)).foldl
      (fun s e => harvestEnd s e.1) (rset s .SEQ_EVT_CI (v % 2 ^ 32) f)) := by
  change execSeqEvtCi f v s = _
  rw [execSeqEvtCi, busWrite_next h]
  simp only [rset_seq]

/-! ### Release of pages (R293) -/

/-- The slot gives up its pages: it leaves a batch, or its RELEASE waits for them. -/
def givesUpPages (x : Slot) : Prop := x.state = .leaving ∨ (x.state = .ended ∧ x.freeing = true)

/-- The pages of the slot, from the first to the last, are unmapped, and one invalidation of them is asked for. -/
def pagesUnmapped (s : State) (i : Nat) (x : Slot) (first last : Nat) : State :=
  onSlotS (invRequest (unmapAll s x) { src := .slot i, op := .range x.fn x.asid (x.kvBase + 65536 * first) (65536 * (last + 1 - first)) }) i
    fun x => { x with rel := .waiting }

/-- The pages of the slot go back to the pool. -/
def pagesPushed (s : State) (i : Nat) (x : Slot) : State :=
  onSlotS (x.pages.foldl (fun s p => poolPush x s p.2) s) i fun x => { x with pages := [] }

section
variable {s : State} {i : Nat} {x : Slot} (h : Safety.unitRuns s 0x114) (hx : slotAt s i = some x)
include h hx

section
variable (hrel : x.rel = .none) (hgives : givesUpPages x) (hctx : ctxGone s x.ctx = false)
include hrel hgives hctx

theorem exec_slotPageRelease_pages {a b : Nat × Nat} (ha : x.pages.head? = some a) (hb : x.pages.getLast? = some b) :
    exec (.slotPageRelease i) s = .next (pagesUnmapped s i x a.1 b.1) := by
  have hgo : ¬ (x.rel ≠ .none ∨ ¬ givesUpPages x ∨ ctxGone s x.ctx = true) := by simp [hrel, hgives, hctx]
  rw [givesUpPages] at hgo
  change execSlotPageRelease i s = _
  rw [execSlotPageRelease, unitStep_next h, hx]
  simp only [if_neg hgo, ha, hb]
  rfl

theorem exec_slotPageRelease_none (hp : x.pages = []) : exec (.slotPageRelease i) s = .next (releaseEnd s i x) := by
  have hgo : ¬ (x.rel ≠ .none ∨ ¬ givesUpPages x ∨ ctxGone s x.ctx = true) := by simp [hrel, hgives, hctx]
  rw [givesUpPages] at hgo
  change execSlotPageRelease i s = _
  rw [execSlotPageRelease, unitStep_next h, hx]
  simp only [if_neg hgo, hp, List.head?_nil]

end

/-- The pages are pushed once their invalidation has been acknowledged everywhere. -/
theorem exec_slotReleaseAcksDone (hrel : x.rel = .waiting) :
    exec (.slotReleaseAcksDone i) s = .next (if slotInv s i then s else releaseEnd (pagesPushed s i x) i { x with pages := [] }) := by
  change execSlotReleaseAcksDone i s = _
  rw [execSlotReleaseAcksDone, unitStep_next h, hx]
  simp only [hrel, ne_eq, not_true_eq_false, false_or]
  rfl

end

/-- Settles O30, row by row: how far a formation and a harvest come decides how the step goes on or with which status it ends. -/
theorem sequenceSteps : Obligations.SequenceSteps := by
  refine ⟨fun s t r k h hr hk hst => ?formation, fun s t l r k h hr hk hst => ?harvest, fun s f v h => exec_seqEvtCi h v,
    fun s i x h hx => ?release⟩
  case formation =>
    intro bm budget chunk d a
    refine ⟨fun st => exec_seqFormation_unpaged h hr hk hst rfl, exec_seqFormation_empty h hr hk hst rfl, fun hf hrows => ?_⟩
    intro step header w
    refine ⟨exec_seqFormation_unrecorded h hr hk hst rfl hf hrows rfl rfl rfl, fun hok => ?_⟩
    intro formed g
    refine ⟨exec_seqFormation_unbegun h hr hk hst rfl hf hrows rfl rfl rfl hok rfl, fun o hg ho => ?_⟩
    have launched := exec_seqFormation_launches h hr hk hst rfl hf hrows rfl rfl rfl hok rfl hg ho
    exact ⟨fun hb => launched.trans (congrArg _ (launchAnswered_wait hb)),
      fun st addr hb => launched.trans (congrArg _ (launchAnswered_fail hb)),
      fun l hb => launched.trans (congrArg _ (launchAnswered_ok hb))⟩
  case harvest =>
    refine ⟨exec_seqHarvest_launchRuns h hr hk hst, fun addr n hl => exec_seqHarvest_exchangesRun h hr hk hst hl rfl,
      fun g st addr n e hl => exec_seqHarvest_exchangeFailed h hr hk hst hl, fun hs => ⟨fun st addr n hl hbad => ?_, fun addr n hl hd => ?_⟩⟩
    · exact (exec_seqHarvest_over h hr hk hst hl hs (.inl hbad)).trans (congrArg _ (if_pos hbad))
    · have ended : exec (.seqHarvest t) s = .next (launchHarvested s t l r k (.ok, addr, n)) :=
        exec_seqHarvest_over h hr hk hst hl hs (.inr hd)
      rw [launchHarvested, if_neg (not_not.2 rfl)] at ended
      exact ⟨fun ho => ended.trans (congrArg _ (if_pos ho)),
        fun ho hw => ended.trans (congrArg _ ((if_neg (not_not.2 ho)).trans (if_pos hw))),
        fun ho hw => ended.trans (congrArg _ ((if_neg (not_not.2 ho)).trans (if_neg (not_not.2 hw))))⟩
  case release =>
    refine ⟨fun a b hrel hgives hctx => exec_slotPageRelease_pages h hx hrel hgives hctx, exec_slotPageRelease_none h hx,
      fun hrel hdone => ?_, fun hrel hopen => ?_⟩
    · rw [exec_slotReleaseAcksDone h hx hrel, if_neg (Bool.eq_false_iff.1 hdone)]
      rfl
    · rw [exec_slotReleaseAcksDone h hx hrel, if_pos hopen]

end Sys2Proof.Proofs

/-!
## The ring engine (O31)
-/

namespace Sys2Proof.Proofs

open Machine Laws

/-! ### SEQ_RING_CFG (R312, R475) -/

/-- A ring step runs. -/
def ringStepRuns (s : State) : Prop := ∃ e ∈ s.seq.runs, e.2.ring = true

/-- Each port that is UP sends IDENT and is matched again (R475). -/
def identsSent (s : State) : State :=
  [0, 1].foldl (fun s p => if uapUp s p then matchPeer (onPort s p fun x => { x with mgmt := x.mgmt ++ [1] }) p else s) s

section
variable {s : State} {v : Nat} (h : Safety.writable s .SEQ_RING_CFG 0 0)
include h

theorem exec_seqRingCfgWrite_taken (hfree : ¬ ringStepRuns s) (hv : ringCfgOk v = true) : exec (.seqRingCfgWrite v) s =
    .next (identsSent (rset s .SEQ_RING_CFG (Reg.written .SEQ_RING_CFG (rget s .SEQ_RING_CFG) v (2 ^ 32 - 1)))) := by
  have htaken : ¬ ((s.seq.runs.any fun e => e.2.ring) = true ∨ ¬ ringCfgOk v = true) := by
    rwa [List.any_eq_true, not_or, not_not, and_iff_left hv]
  change execSeqRingCfgWrite v s = _
  rw [execSeqRingCfgWrite, busWrite_next h, if_neg htaken]
  rfl

theorem exec_seqRingCfgWrite_discarded (hbad : ringCfgOk v = false ∨ ringStepRuns s) : exec (.seqRingCfgWrite v) s = .next s := by
  have hdiscarded : (s.seq.runs.any fun e => e.2.ring) = true ∨ ¬ ringCfgOk v = true := by
    rw [List.any_eq_true, Bool.not_eq_true]
    exact hbad.symm
  change execSeqRingCfgWrite v s = _
  rw [execSeqRingCfgWrite, busWrite_next h, if_pos hdiscarded]

end

/-! ### Transmit (R308 to R310) -/

/-- The state in which a transmit is judged: hop 1 needs PROGRESS as it now stands. -/
def hopJudged (s : State) (g : Ring) : State := if g.txHop = 1 ∧ g.failed = none then readProgress s g.txEx else s

/-- Where the block of the next hop lies, and how long it is: hop 1 sends SEND, each later one what the hop before it received. -/
def hopBlock (g : Ring) (x : RingExch) : Nat × Nat :=
  if g.txHop = 1 then (x.send, x.len)
  else (if g.txHop % 2 = 0 then x.recv0 else x.recv1, tgetD g.lens (g.txEx * 16 + g.txHop - 1) 0)

/-- The block of the next hop is read. -/
def hopRead (u : State) (g : Ring) (x : RingExch) : Status × List Byte × State :=
  vread u 220 6 g.fn g.asid g.ctx (hopBlock g x).1 (hopBlock g x).2

/-- The flits of the block's messages are handed to port 0. -/
def hopHanded (u : State) (g : Ring) (r : Status × List Byte × State) : State :=
  onRing (onPort r.2.2 0 fun p => { p with tx0 := p.tx0 ++
    (messagesOf g (fget u F.SEQ_RING_CFG.COMPRESS) (fget r.2.2 F.SEQ_RING_CFG.MSG_LOG2) r.2.1).flatMap (flitsOf 0) }) fun g => { g with txBusy := true }

section
variable {s u : State} {g₀ g : Ring} (h : Safety.unitRuns s 0x114) (hring : s.seq.ring = some g₀) (hu : hopJudged s g₀ = u)
  (hg : u.seq.ring = some g)
include h hring hu hg

theorem exec_ringHopTransmit_waits (hsend : g.canSend = false) : exec .ringHopTransmit s = .next u := by
  rw [hopJudged] at hu
  change execRingHopTransmit s = _
  rw [execRingHopTransmit, unitStep_next h, hring]
  simp only [Option.isNone_iff_eq_none, hu, hg, if_pos (Bool.eq_false_iff.1 hsend)]

section
variable (hsend : g.canSend = true)
include hsend

theorem exec_ringHopTransmit_portDown (hport : domOn u 48 = false ∨ uapUp u 0 = false) :
    exec .ringHopTransmit s = .next (ringFail u .domainOff) := by
  have hdown : ¬ (domOn u 48 = true ∧ uapUp u 0 = true) := by simpa [imp_iff_not_or] using hport
  rw [hopJudged] at hu
  change execRingHopTransmit s = _
  rw [execRingHopTransmit, unitStep_next h, hring]
  simp only [Option.isNone_iff_eq_none, hu, hg, if_neg (not_not.2 hsend), if_pos hdown]

section
variable (hport : domOn u 48 = true ∧ uapUp u 0 = true)
include hport

theorem exec_ringHopTransmit_pressOff (hfmt : fget u F.SEQ_RING_CFG.COMPRESS ≠ 0) (hpress : domOn u 43 = false) :
    exec .ringHopTransmit s = .next (demand u 43) := by
  have hdemands : fget u F.SEQ_RING_CFG.COMPRESS ≠ 0 ∧ ¬ domOn u 43 = true := ⟨hfmt, Bool.eq_false_iff.1 hpress⟩
  rw [hopJudged] at hu
  change execRingHopTransmit s = _
  rw [execRingHopTransmit, unitStep_next h, hring]
  simp only [Option.isNone_iff_eq_none, hu, hg, if_neg (not_not.2 hsend), if_neg (not_not.2 hport), if_pos hdemands]

/-- A hop that may be sent reads its block, and sends it unless the read meets a fault or a failed check. -/
theorem exec_ringHopTransmit_reads {x : RingExch} {r : Status × List Byte × State}
    (hpress : fget u F.SEQ_RING_CFG.COMPRESS = 0 ∨ domOn u 43 = true) (hx : g.exch[g.txEx]? = some x) (hr : hopRead u g x = r) :
    exec .ringHopTransmit s = .next (
      if r.1 ≠ .ok then ringFail (if r.1 = .integrityMismatch then countMismatch r.2.2 else r.2.2)
        (if r.1 = .uncorrectableEcc then .integrityMismatch else r.1)
      else hopHanded u g r) := by
  have hready : ¬ (fget u F.SEQ_RING_CFG.COMPRESS ≠ 0 ∧ ¬ domOn u 43 = true) := by simpa [or_iff_not_imp_left] using hpress
  rw [hopJudged] at hu
  rw [hopRead, hopBlock] at hr
  change execRingHopTransmit s = _
  rw [execRingHopTransmit, unitStep_next h, hring]
  simp only [Option.isNone_iff_eq_none, hu, hg, if_neg (not_not.2 hsend), if_neg (not_not.2 hport), if_neg hready, hx, hr]
  by_cases hok : r.1 = .ok
  · simp only [hok, ne_eq, not_true_eq_false, if_false, reduceCtorEq]
    rfl
  · simp only [if_pos hok]

end

end

end

/-! ### Receive (R309, R310) -/

theorem failed_of_canReceive {g : Ring} (hg : g.canReceive = true) : g.failed = none := by
  simp only [Ring.canReceive, Bool.and_eq_true, Option.isNone_iff_eq_none] at hg
  obtain ⟨⟨hsound, -⟩, -⟩ := hg
  exact hsound

/-- The oldest message is taken and counted, and the time without a message starts again (R311). -/
def messageTaken (s : State) (rest : List (List Byte)) : State :=
  onRing (fcount (onSeq s fun x => { x with inbox := rest }) F.SEQ_RING_STATUS.MESSAGES) fun g => { g with heard := s.time }

/-- Where in its block the next message has to start. -/
def messageOffset (u : State) (g : Ring) : Nat := g.rxIndex * 2 ^ fget u F.SEQ_RING_CFG.MSG_LOG2

/-- The message is the one that the receive expects (R309). -/
def messageExpected (u : State) (g : Ring) (x : RingExch) (m : List Byte) : Prop :=
  fieldAt m 0 4 = x.tag ∧ byteAt m 4 = g.rxHop ∧ fieldAt m 8 4 = g.rxIndex ∧ fieldAt m 16 8 = messageOffset u g

/-- The data of the message is written to the buffer of its hop. -/
def messageWritten (u : State) (g : Ring) (x : RingExch) (d : List Byte) : Status × State :=
  vwrite u 221 6 g.fn g.asid g.ctx ((if g.rxHop % 2 = 1 then x.recv0 else x.recv1) + messageOffset u g) d

/-- What sound data does: it is written, and with the message marked as the last one the block has arrived. -/
def messageStored (u : State) (g : Ring) (x : RingExch) (m d : List Byte) : State :=
  let w := messageWritten u g x d
  let len := messageOffset u g + d.length
  if w.1 ≠ .ok then ringFail w.2 w.1
  else if bit (byteAt m 6) 1 then blockArrived w.2 g x len
  else onRing w.2 fun g => { g with rxOpen := true, rxIndex := g.rxIndex + 1, rxBytes := len }

/-- What a message does that the receive of exchange x takes. -/
def messageTreated (u : State) (g : Ring) (x : RingExch) (m : List Byte) : State :=
  if fieldAt m 0 4 ≠ x.tag ∨ byteAt m 4 ≠ g.rxHop ∨ fieldAt m 8 4 ≠ g.rxIndex ∨ fieldAt m 16 8 ≠ messageOffset u g then
    ringFail u .badOpcode
  else if x.cap < messageOffset u g + fieldAt m 12 4 then ringFail u .lengthExceedsObject
  else match messageData u m with
    | .error st => ringFail u st
    | .ok d => messageStored u g x m d

section
variable {u : State} {g : Ring} {x : RingExch} {m : List Byte}

theorem not_unexpected (hm : messageExpected u g x m) :
    ¬ (fieldAt m 0 4 ≠ x.tag ∨ byteAt m 4 ≠ g.rxHop ∨ fieldAt m 8 4 ≠ g.rxIndex ∨ fieldAt m 16 8 ≠ messageOffset u g) := by
  simpa only [messageExpected, ne_eq, not_or, not_not] using hm

theorem messageTreated_unexpected (hm : ¬ messageExpected u g x m) : messageTreated u g x m = ringFail u .badOpcode := by
  simp only [messageExpected, not_and_or] at hm
  exact if_pos hm

section
variable (hm : messageExpected u g x m)
include hm

theorem messageTreated_tooLong (hlen : x.cap < messageOffset u g + fieldAt m 12 4) :
    messageTreated u g x m = ringFail u .lengthExceedsObject :=
  (if_neg (not_unexpected hm)).trans (if_pos hlen)

theorem messageTreated_badData {st : Status} (hlen : messageOffset u g + fieldAt m 12 4 ≤ x.cap) (hd : messageData u m = .error st) :
    messageTreated u g x m = ringFail u st := by
  rw [messageTreated, if_neg (not_unexpected hm), if_neg (Nat.not_lt.2 hlen), hd]

theorem messageTreated_sound {d : List Byte} (hlen : messageOffset u g + fieldAt m 12 4 ≤ x.cap) (hd : messageData u m = .ok d) :
    messageTreated u g x m = messageStored u g x m d := by
  rw [messageTreated, if_neg (not_unexpected hm), if_neg (Nat.not_lt.2 hlen), hd]

end

end

section
variable {s : State} {g : Ring} {m : List Byte} {rest : List (List Byte)} (h : Safety.unitRuns s 0x114) (hm : s.seq.inbox = m :: rest)
  (hg : s.seq.ring = some g)
include h hm hg

theorem exec_ringMessageReceive_failed (hf : g.failed.isSome = true) :
    exec .ringMessageReceive s = .next (onSeq s fun x => { x with inbox := rest }) := by
  have htaken : ¬ (g.failed.isNone = true ∧ ¬ g.canReceive = true) := by simp [Option.isSome_iff_ne_none.1 hf]
  change execRingMessageReceive s = _
  rw [execRingMessageReceive, unitStep_next h, hm, hg]
  simp only [if_neg htaken, if_pos hf]

theorem exec_ringMessageReceive_waits (hf : g.failed = none) (hreceive : g.canReceive = false) :
    exec .ringMessageReceive s = .next s := by
  have hwaits : g.failed.isNone = true ∧ ¬ g.canReceive = true := by simp [hf, hreceive]
  change execRingMessageReceive s = _
  rw [execRingMessageReceive, unitStep_next h, hm, hg]
  simp only [if_pos hwaits]

/-- A receive that may start or has started takes the oldest message. -/
theorem exec_ringMessageReceive_takes {x : RingExch} {u : State} (hreceive : g.canReceive = true) (hx : g.exch[g.rxEx]? = some x)
    (hu : messageTaken s rest = u) : exec .ringMessageReceive s = .next (messageTreated u g x m) := by
  have htaken : ¬ (g.failed.isNone = true ∧ ¬ g.canReceive = true) := by simp [hreceive]
  have hsound : ¬ g.failed.isSome = true := by simp [failed_of_canReceive hreceive]
  rw [messageTaken] at hu
  change execRingMessageReceive s = _
  rw [execRingMessageReceive, unitStep_next h, hm, hg]
  simp only [if_neg htaken, if_neg hsound, onSeq_time, hu, hx]
  rfl

end

/-! ### PROGRESS, ABORT and the watchdog (R308, R310, R311) -/

section
variable {s : State} {g : Ring} (h : Safety.unitRuns s 0x114) (hg : s.seq.ring = some g)
include h hg

/-- The words that a transmit and a receive wait for, and that of the exchange before where the receive still depends on it. -/
theorem exec_ringProgressPoll (hf : g.failed = none) :
    let u := readProgress (readProgress s g.txEx) g.rxEx
    exec .ringProgressPoll s = .next (if 1 ≤ g.rxEx ∧ g.rxHop ≤ 2 then readProgress u (g.rxEx - 1) else u) := by
  have hsound : ¬ g.failed.isSome = true := by simp [hf]
  change execRingProgressPoll s = _
  rw [execRingProgressPoll, unitStep_next h, hg]
  simp only [if_neg hsound]

theorem exec_ringWatchdogExpiry : exec .ringWatchdogExpiry s = .next (
    if fget s F.SEQ_RING_TIMEOUT.MS ≠ 0 ∧ g.canReceive ∧ g.heard + 1000000 * fget s F.SEQ_RING_TIMEOUT.MS ≤ s.time
    then ringFail s .watchdog else s) := by
  change execRingWatchdogExpiry s = _
  rw [execRingWatchdogExpiry, unitStep_next h, hg]

end

theorem exec_ringAbortReceive {s : State} {m : List Byte} {rest : List (List Byte)} {st : Status} (h : Safety.unitRuns s 0x114)
    (hm : s.seq.aborts = m :: rest) (hst : Status.ofCode (byteAt m 7) = some st) :
    exec .ringAbortReceive s = .next (ringFail (onSeq s fun x => { x with aborts := rest }) st) := by
  change execRingAbortReceive s = _
  rw [execRingAbortReceive, unitStep_next h, hm]
  simp only [hst, Option.getD_some]

/-- Settles O31, row by row. That a message which does not fit fails its exchange by R310's order is deduced (log 68); that a transmit read
with an uncorrectable error fails it as a failed check does is the model's choice, in neither R310 nor the log. -/
theorem ringEngine : Obligations.RingEngine := by
  refine ⟨fun s v h => ?config, fun s u g₀ g h hring hu hg => ?transmit, fun s g m rest h hm hg => ?receive, fun s g h hg => ?waits,
    fun s m rest st h => exec_ringAbortReceive h⟩
  case config =>
    refine ⟨fun hfree hv => exec_seqRingCfgWrite_taken h ?_ hv, exec_seqRingCfgWrite_discarded h⟩
    rintro ⟨e, he, hruns⟩
    exact Bool.false_ne_true ((hfree e he).symm.trans hruns)
  case transmit =>
    refine ⟨exec_ringHopTransmit_waits h hring hu.symm hg, exec_ringHopTransmit_portDown h hring hu.symm hg,
      fun hsend hon hup => exec_ringHopTransmit_pressOff h hring hu.symm hg hsend ⟨hon, hup⟩, fun x hsend hon hup hpress hx => ?_⟩
    intro src r
    have reads := exec_ringHopTransmit_reads h hring hu.symm hg hsend ⟨hon, hup⟩ hpress hx (r := r) rfl
    refine ⟨fun hr => ?_, fun hr => ?_, fun hr => ?_, fun hbad hcheck hecc => ?_⟩
    · rw [reads, if_neg (not_not.2 hr)]
      rfl
    · rw [reads, hr]
      rfl
    · rw [reads, hr]
      rfl
    · rw [reads, if_pos hbad, if_neg hcheck, if_neg hecc]
  case receive =>
    refine ⟨exec_ringMessageReceive_failed h hm hg, exec_ringMessageReceive_waits h hm hg, fun x hreceive hx => ?_⟩
    intro u off fits
    have takes := exec_ringMessageReceive_takes h hm hg hreceive hx (u := u) rfl
    refine ⟨fun hbad => ?_, fun hfits hlong => ?_, fun st hfits hlen hd => ?_, fun d hfits hlen hd => ?_⟩
    · rw [takes, messageTreated_unexpected hbad]
    · rw [takes, messageTreated_tooLong hfits hlong]
    · rw [takes, messageTreated_badData hfits hlen hd]
    · have stored := takes.trans (congrArg _ (messageTreated_sound hfits hlen hd))
      exact ⟨fun hw => stored.trans (congrArg _ (if_pos hw)),
        fun hw hlast => stored.trans (congrArg _ ((if_neg (not_not.2 hw)).trans (if_pos hlast))),
        fun hw hmore => stored.trans (congrArg _ ((if_neg (not_not.2 hw)).trans (if_neg (Bool.eq_false_iff.1 hmore))))⟩
  case waits =>
    refine ⟨fun hf => ⟨fun hbefore => ?_, fun hbefore => ?_⟩, fun hms hreceive hlate => ?_, fun hnot => ?_⟩
    · rw [exec_ringProgressPoll h hg hf, if_pos hbefore]
    · rw [exec_ringProgressPoll h hg hf, if_neg hbefore]
    · rw [exec_ringWatchdogExpiry h hg, if_pos ⟨hms, hreceive, hlate⟩]
    · rw [exec_ringWatchdogExpiry h hg, if_neg]
      rintro ⟨hms, hreceive, hlate⟩
      obtain hearly | hoff | hidle := hnot
      · exact Nat.not_lt.2 hlate hearly
      · exact hms hoff
      · exact Bool.eq_false_iff.1 hidle hreceive

end Sys2Proof.Proofs

/-!
## Placement in device memory, and the victim of a fill (O32, O33)
-/

namespace Sys2Proof.Proofs

open Machine Laws

/-! ### Placement (R317) -/

theorem paChannel_eq_bits (pa : Nat) :
    paChannel pa = (bits (pa / 256) 6 0 ^^^ bits (pa / 256) 13 7 ^^^ bits (pa / 256) 20 14) := by
  simp [paChannel, bits, Nat.shiftRight_eq_div_pow]

/-- What the number of a group adds to the pseudo-channel of its units. -/
def groupMask (g : Nat) : Nat := g % 128 ^^^ g / 128 % 128

theorem groupMask_lt (g : Nat) : groupMask g < 128 :=
  Nat.xor_lt_two_pow (n := 7) (Nat.mod_lt _ (by decide)) (Nat.mod_lt _ (by decide))

/-- Every byte of unit k of a group lies in the pseudo-channel that k gives under the group's mask. -/
theorem paChannel_unit (g : Nat) {k b : Nat} (hk : k < 128) (hb : b < 256) :
    paChannel ((128 * g + k) * 256 + b) = k ^^^ groupMask g := by
  have hu : ((128 * g + k) * 256 + b) / 256 = 128 * g + k := by omega
  have hunit : (128 * g + k) % 128 = k := by omega
  have hgroup : (128 * g + k) / 128 = g := by omega
  have hhigh : (128 * g + k) / 16384 = g / 128 := by omega
  simp only [paChannel, hu, hunit, hgroup, hhigh, groupMask, Nat.xor_assoc]

/-- Settles O32: within a group the pseudo-channel is the unit's number under a mask that only the group gives, and a mask undoes itself. -/
theorem addressPlacement : Obligations.AddressPlacement := by
  refine ⟨fun pa => ⟨paChannel_eq_bits pa, rfl⟩, fun g c hc => ?_⟩
  have hlt : c ^^^ groupMask g < 128 := Nat.xor_lt_two_pow (n := 7) hc (groupMask_lt g)
  refine ⟨c ^^^ groupMask g, hlt, fun b hb => ?_, fun j hj hjc => ?_⟩
  · rw [paChannel_unit g hlt hb, Nat.xor_xor_cancel_right]
  · have hchannel := paChannel_unit g hj (b := 0) (by decide)
    rw [Nat.add_zero, hjc] at hchannel
    rw [hchannel, Nat.xor_xor_cancel_right]

/-! ### Victims (R330, R331) -/

/-- The ways that L2_WAYMASK enables for a class, ascending. -/
def enabledWays (s : State) (cls : Nat) : List Nat := (List.range 16).filter fun n => bit (fget s F.L2_WAYMASK.MASK 0 cls) n

/-- Way n of the line's set is invalid. -/
def wayFree (s : State) (la n : Nat) : Bool := (tget s.mem.ways (wayKey (la * 128) n)).isNone

/-- The age of way n of the line's set. -/
def wayAge (s : State) (la n : Nat) : Nat := (tgetD s.mem.ways (wayKey (la * 128) n) { la := 0 }).age

/-- No enabled way of the line's set is older than way n. -/
def wayOldest (s : State) (cls la n : Nat) : Bool := (enabledWays s cls).all fun k => wayAge s la k ≤ wayAge s la n

section
variable {s : State} {cls la n : Nat}

theorem mem_enabledWays : n ∈ enabledWays s cls ↔ n < 16 ∧ bit (fget s F.L2_WAYMASK.MASK 0 cls) n = true := by
  rw [enabledWays, List.mem_filter, List.mem_range]

/-- The first enabled way of a kind is the lowest-numbered one. -/
theorem lowest_of_find?_enabledWays {p : Nat → Bool} (h : (enabledWays s cls).find? p = some n) {k : Nat} (hk : k ∈ enabledWays s cls)
    (hp : p k = true) : n ≤ k := by
  rw [enabledWays, List.find?_filter, List.find?_range_eq_some] at h
  obtain ⟨-, -, hbelow⟩ := h
  by_contra hlt
  have hnot := hbelow k (Nat.lt_of_not_le hlt)
  simp [(mem_enabledWays.1 hk).2, hp] at hnot

theorem wayOldest_iff : wayOldest s cls la n = true ↔ ∀ k ∈ enabledWays s cls, wayAge s la k ≤ wayAge s la n := by
  simp only [wayOldest, List.all_eq_true, decide_eq_true_eq]

theorem exists_wayOldest (hk : n ∈ enabledWays s cls) : ∃ k ∈ enabledWays s cls, wayOldest s cls la k = true := by
  obtain ⟨k, hk, hmax⟩ := (enabledWays s cls).toFinset.exists_max_image (wayAge s la) ⟨n, List.mem_toFinset.2 hk⟩
  exact ⟨k, List.mem_toFinset.1 hk, wayOldest_iff.2 fun j hj => hmax j (List.mem_toFinset.2 hj)⟩

/-- The victim is the first enabled way that is invalid, or else the first that is oldest. -/
theorem victim_eq : victim s cls la = ((enabledWays s cls).find? (wayFree s la)).or ((enabledWays s cls).find? (wayOldest s cls la)) := by
  change (match (enabledWays s cls).find? (wayFree s la) with
    | some n => some n
    | none => (enabledWays s cls).find? (wayOldest s cls la)) = _
  cases (enabledWays s cls).find? (wayFree s la) <;> rfl

theorem victim_eq_none_iff : victim s cls la = none ↔ ∀ n, n ∉ enabledWays s cls := by
  rw [victim_eq, Option.or_eq_none_iff, List.find?_eq_none, List.find?_eq_none]
  constructor
  · rintro ⟨-, hnone⟩ n hn
    obtain ⟨k, hk, holdest⟩ := exists_wayOldest hn
    exact hnone k hk holdest
  · exact fun hnone => ⟨fun n hn => (hnone n hn).elim, fun n hn => (hnone n hn).elim⟩

/-- A victim is the lowest-numbered invalid way, or with none invalid the lowest-numbered of the oldest. -/
theorem victim_some (h : victim s cls la = some n) : n ∈ enabledWays s cls ∧
    ((wayFree s la n = true ∧ ∀ k ∈ enabledWays s cls, wayFree s la k = true → n ≤ k)
    ∨ ((∀ k ∈ enabledWays s cls, wayFree s la k = false) ∧
      ∀ k ∈ enabledWays s cls, wayAge s la k ≤ wayAge s la n ∧ (wayAge s la k = wayAge s la n → n ≤ k))) := by
  rw [victim_eq, Option.or_eq_some_iff] at h
  obtain hfree | ⟨hfull, hold⟩ := h
  · exact ⟨List.mem_of_find?_eq_some hfree, .inl ⟨List.find?_some hfree, fun k => lowest_of_find?_enabledWays hfree⟩⟩
  · have hoverall := wayOldest_iff.1 (List.find?_some hold)
    refine ⟨List.mem_of_find?_eq_some hold, .inr ⟨fun k hk => Bool.eq_false_iff.2 (List.find?_eq_none.1 hfull k hk), fun k hk => ?_⟩⟩
    refine ⟨hoverall k hk, fun htie => lowest_of_find?_enabledWays hold hk (wayOldest_iff.2 fun j hj => ?_)⟩
    exact htie ▸ hoverall j hj

end

/-- Settles O33: the enabled ways are searched in ascending order, first for an invalid one, then for an oldest one, and where any way is
enabled the second search finds one. -/
theorem victimChoice : Obligations.VictimChoice := by
  intro s cls la on free age
  refine ⟨victim_eq_none_iff.trans ?_, fun n hn => ?_⟩
  · simp only [mem_enabledWays, not_and, Bool.not_eq_true]
    rfl
  obtain ⟨henabled, hchosen⟩ := victim_some hn
  obtain ⟨hlt, hon⟩ := mem_enabledWays.1 henabled
  refine ⟨hlt, hon, fun hfree k hk hkon => ?_, fun hvalid k hk hkon => ?_⟩
  · have hkmem : k ∈ enabledWays s cls := mem_enabledWays.2 ⟨hk.trans hlt, hkon⟩
    obtain ⟨-, hlowest⟩ | ⟨hfull, -⟩ := hchosen
    · exact Bool.eq_false_iff.2 fun hkfree => Nat.not_le.2 hk (hlowest k hkmem hkfree)
    · exact hfull k hkmem
  · have hkmem : k ∈ enabledWays s cls := mem_enabledWays.2 ⟨hk, hkon⟩
    obtain ⟨hfree, -⟩ | ⟨hfull, hold⟩ := hchosen
    · exact (Bool.false_ne_true (hvalid.symm.trans hfree)).elim
    · exact ⟨hfull k hkmem, hold k hkmem⟩

end Sys2Proof.Proofs

/-!
## The rows of the level-2 cache and of the stacks (O34)
-/

namespace Sys2Proof.Proofs

open Machine Laws

/-! ### L2_REQUEST_LOOKUP (R316, R326, R327, R330, R332) -/

/-- The request waits at its slice's input. -/
def requestHeld (s : State) (r : L2Req) : State := onMem s fun m => { m with held := m.held ++ [r] }

/-- The request joins the miss register of its line. -/
def requestMerged (s : State) (r : L2Req) : State :=
  onMem s fun m => { m with misses := m.misses.map fun q => if q.la = r.pa / 128 then { q with merged := q.merged ++ [r] } else q }

/-- The request takes a miss register, and its line enters the queue of its pseudo-channel where that has room. -/
def missStarted (s : State) (r : L2Req) : State :=
  pcAdmit (missBusy (onMem s fun m => { m with misses := m.misses ++ [{ la := r.pa / 128, primary := r }] }) (paSlice r.pa)) (paChannel r.pa)

/-- The request's slice invalidates its ways or is under recovery. -/
def sliceStopped (s : State) (r : L2Req) : Prop :=
  fget s F.L2_SLICE_STATUS.STATE 0 (paSlice r.pa) = 1 ∨ recovering s (0xE0 + paSlice r.pa) = true

theorem exec_l2RequestLookup {s : State} (h : Safety.engines s) (r : L2Req) (e : L2Err) :
    exec (.l2RequestLookup r e) s = .next (lookup s r e) :=
  engineStep_next h _

section
variable {s : State} {r : L2Req} {e : L2Err}

theorem lookup_refused {st : Status} (hr : l2Refusal s r.pa 1 = some st) : lookup s r e = answer s r.id st [] := by
  rw [lookup, hr]

section
variable (hr : l2Refusal s r.pa 1 = none)
include hr

theorem lookup_stopped (hstop : sliceStopped s r) : lookup s r e = requestHeld s r := by
  rw [lookup, hr]
  exact if_pos hstop

section
variable (hopen : ¬ sliceStopped s r)
include hopen

/-- A request whose line has a miss register joins it while it may. -/
theorem lookup_registered {m : Miss} (hm : s.mem.misses.find? (fun m => m.la = r.pa / 128) = some m) :
    lookup s r e = if m.merged.length < 8 then requestMerged s r else requestHeld s r := by
  rw [lookup, hr]
  simp only [hm]
  exact if_neg hopen

section
variable (hm : s.mem.misses.find? (fun m => m.la = r.pa / 128) = none)
include hm

theorem lookup_hit {n : Nat} (hn : wayOf s (r.pa / 128) = some n)
    (hkept : wayOf (wayError s (r.pa / 128) n e) (r.pa / 128) = some n) :
    lookup s r e = serve (wayError s (r.pa / 128) n e) r := by
  rw [lookup, hr]
  simp only [hm, hn]
  exact (if_neg hopen).trans (if_pos (.inl (Option.isSome_of_eq_some hkept)))

section
variable (hn : wayOf s (r.pa / 128) = none)
include hn

theorem lookup_fullLine (hfull : fullLine r = true) : lookup s r e = serve s r := by
  rw [lookup, hr]
  simp only [hm, hn]
  exact (if_neg hopen).trans (if_pos (.inr hfull))

/-- A first miss takes a miss register while the slice has a free one. -/
theorem lookup_firstMiss (hpart : fullLine r = false) : lookup s r e =
    if fget s F.L2_SLICE_STATUS.MISS_BUSY 0 (paSlice r.pa) < 64 then missStarted s r else requestHeld s r := by
  have hneeds : ¬ ((wayOf s (r.pa / 128)).isSome = true ∨ fullLine r = true) := by simp [hn, hpart]
  rw [lookup, hr]
  simp only [hm, hn] at hneeds ⊢
  exact (if_neg hopen).trans (if_neg hneeds)

end

end

end

end

end

/-! ### L2_MISS_FILL (R319, R320, R323, R327) -/

/-- The stack's report on the burst of a line is counted, and an uncorrectable error marks the line (R323). -/
def burstReported (s : State) (la : Nat) : HbmReport → State
  | .clean => s
  | .corrected => fcount s F.MEM_STACK_STATUS.CORRECTED 0 (paStack (la * 128))
  | .uncorrectable =>
    rset (fcount (onMem s fun m => { m with poisoned := nins m.poisoned la }) F.MEM_STACK_STATUS.UNCORRECTED 0 (paStack (la * 128)))
      .MEM_ERR_ADDR (2 ^ 63 + paChannel (la * 128) <<< 38 + la * 128)

/-- The line comes in, and its miss register answers its requests in arrival order and is free. -/
def missAnswered (s : State) (la : Nat) (m : Miss) : State :=
  onMem ((m.primary :: m.merged).foldl serve (fillLine s m.primary.cls la)) fun x =>
    { x with misses := x.misses.filter fun q => decide (q.la ≠ la), poisoned := ndel x.poisoned la }

/-- The free miss register and the place in the queue are given away, the requests held at the slice are looked up again, and a stack that
has nothing left to do catches its refreshes up. -/
def missReleased (s : State) (la : Nat) : State :=
  catchUp (retryHeld (pcAdmit (missBusy s (paSlice (la * 128))) (paChannel (la * 128))) fun r => decide (paSlice r.pa = paSlice (la * 128)))
    (paStack (la * 128))

/-- Neither latched pads nor a recovery of the controller or the slice keeps the line of address la * 128 from coming in. -/
def fillOpen (s : State) (la : Nat) : Prop :=
  ((stackOf s (paStack (la * 128))).selfRefresh = false ∨ stackPads s (paStack (la * 128)) = false)
  ∧ recovering s (0x100 + paStack (la * 128)) = false ∧ recovering s (0xE0 + paSlice (la * 128)) = false

section
variable {s : State} {la : Nat} {m : Miss} (h : Safety.engines s) (hm : s.mem.misses.find? (fun m => m.la = la) = some m)
include h hm

theorem exec_l2MissFill_served (hmay : pcMay s la = true) (hopen : fillOpen s la) (report : HbmReport) : exec (.l2MissFill la report) s =
    .next (missReleased (missAnswered (burstReported (pcServe s la) la report) la m) la) := by
  obtain ⟨hpads, hcontroller, hslice⟩ := hopen
  change execL2MissFill la report s = _
  rw [execL2MissFill, engineStep_next h, l2MissFill, hm]
  dsimp only
  rw [if_neg (by simpa [hmay, hcontroller, hslice, imp_iff_not_or] using hpads)]
  cases report <;> rfl

theorem exec_l2MissFill_notNext (report : HbmReport) (hnot : pcMay s la = false) : exec (.l2MissFill la report) s = .next s := by
  change execL2MissFill la report s = _
  rw [execL2MissFill, engineStep_next h, l2MissFill, hm]
  exact congrArg _ (if_pos (.inr (.inl (Bool.eq_false_iff.1 hnot))))

end

/-! ### L2_INVALIDATE_DONE (R332) -/

theorem exec_l2InvalidateDone {s : State} (h : Safety.engines s) (q : Nat) : exec (.l2InvalidateDone q) s = .next (
    if fget s F.L2_SLICE_STATUS.STATE 0 q = 1 then
      retryHeld (fset s F.L2_SLICE_STATUS.STATE 0 0 q) fun r => decide (paSlice r.pa = q)
    else s) :=
  engineStep_next h _

/-! ### The stacks (R321, R322) -/

/-- The stack has postponed n refreshes. -/
def refreshesPostponed (s : State) (k n : Nat) : State :=
  onMem s fun m => { m with stackTbl := tset m.stackTbl k { stackOf s k with postponed := n } }

/-- The stack is in self-refresh or not, as MEM_STACK_STATUS.STATE then shows. -/
def selfRefreshSet (s : State) (k : Nat) (b : Bool) (shown : Nat) : State :=
  fset (onMem s fun m => { m with stackTbl := tset m.stackTbl k { stackOf s k with selfRefresh := b } }) F.MEM_STACK_STATUS.STATE shown 0 k

section
variable {s : State} {k : Nat} (h : Safety.unitRuns s (0x100 + k))
include h

theorem exec_hbmRefresh_queued (hbusy : stackBusy s k = true) : exec (.hbmRefresh k) s = .next (refreshesPostponed s k (
    if (stackOf s k).postponed < fget s F.MEM_REFRESH.POSTPONE then (stackOf s k).postponed + 1 else (stackOf s k).postponed)) := by
  change execHbmRefresh k s = _
  rw [execHbmRefresh, unitStep_next h, hbmRefresh]
  simp only [if_neg (not_not.2 hbusy)]
  rfl

theorem exec_hbmRefresh_empty (hbusy : stackBusy s k = false) : exec (.hbmRefresh k) s = .next (refreshesPostponed s k 0) := by
  change execHbmRefresh k s = _
  rw [execHbmRefresh, unitStep_next h, hbmRefresh]
  simp only [if_pos (Bool.eq_false_iff.1 hbusy)]
  rfl

theorem exec_hbmSelfRefreshEntry : exec (.hbmSelfRefreshEntry k) s = .next (
    if stackOn s k = true ∧ ¬ stackBusy s k = true ∧ fget s F.MEM_STACK_CTL.SR_IDLE_US 0 k ≠ 0 then selfRefreshSet s k true 1 else s) :=
  unitStep_next h _

theorem exec_hbmSelfRefreshExit : exec (.hbmSelfRefreshExit k) s = .next (
    if stackOn s k = true ∧ (stackOf s k).selfRefresh = true ∧ ¬ stackPads s k = true then selfRefreshSet s k false 0 else s) := by
  change execHbmSelfRefreshExit k s = _
  rw [execHbmSelfRefreshExit, unitStep_next h, hbmSelfRefreshExit, stackWake]
  exact congrArg _ (ite_and ..).symm

end

/-- Settles O34, row by row: a lookup is decided by the refusals, then by the slice, then by the miss registers and at last by the ways; a
fill is one equation for the three reports. -/
theorem cacheAndStacks : Obligations.CacheAndStacks := by
  refine ⟨fun s r e h => ?lookup, fun s la m h hm => ?fill, fun s q h => ?invalidate, fun s k h => ?stack⟩
  case lookup =>
    intro la slice
    rw [exec_l2RequestLookup h]
    refine ⟨fun st hr => congrArg _ (lookup_refused hr), fun hr hstop => congrArg _ (lookup_stopped hr hstop), fun hr hready hsound => ?_⟩
    have hopen : ¬ sliceStopped s r := fun hstop => hstop.elim hready (Bool.eq_false_iff.1 hsound)
    refine ⟨fun m hm hroom => ?_, fun m hm hfull => ?_, fun hm => ⟨fun hn hline => ?_, fun n hn hkept => ?_, fun hn hpart hfree => ?_,
      fun hn hpart hnone => ?_⟩⟩
    · rw [lookup_registered hr hopen hm, if_pos hroom]
      rfl
    · rw [lookup_registered hr hopen hm, if_neg (Nat.not_lt.2 hfull)]
      rfl
    · rw [lookup_fullLine hr hopen hm hn hline]
    · rw [lookup_hit hr hopen hm hn hkept]
    · rw [lookup_firstMiss hr hopen hm hn hpart, if_pos hfree]
      rfl
    · rw [lookup_firstMiss hr hopen hm hn hpart, if_neg (Nat.not_lt.2 hnone)]
      rfl
  case fill =>
    intro k u last
    refine ⟨fun hpads hmay hcontroller hslice => ?_, exec_l2MissFill_notNext h hm⟩
    have served := exec_l2MissFill_served h hm hmay ⟨hpads, hcontroller, hslice⟩
    exact ⟨served .clean, served .corrected, served .uncorrectable⟩
  case invalidate =>
    rw [exec_l2InvalidateDone h]
    exact ⟨fun hinvalidates => congrArg _ (if_pos hinvalidates), fun hready => congrArg _ (if_neg hready)⟩
  case stack =>
    intro refresh put
    refine ⟨fun hbusy hmore => ?_, fun hbusy hfull => ?_, exec_hbmRefresh_empty h, fun hon hidle hus => ?_, fun hnot => ?_,
      fun hon hasleep hpads => ?_, fun hnot => ?_⟩
    · rw [exec_hbmRefresh_queued h hbusy, if_pos hmore]
      rfl
    · rw [exec_hbmRefresh_queued h hbusy, if_neg (Nat.not_lt.2 hfull)]
      rfl
    · rw [exec_hbmSelfRefreshEntry h, if_pos ⟨hon, Bool.eq_false_iff.1 hidle, hus⟩]
      rfl
    · rw [exec_hbmSelfRefreshEntry h, if_neg]
      rintro ⟨hon, hidle, hus⟩
      simp [hon, hidle, hus] at hnot
    · rw [exec_hbmSelfRefreshExit h, if_pos ⟨hon, hasleep, Bool.eq_false_iff.1 hpads⟩]
      rfl
    · rw [exec_hbmSelfRefreshExit h, if_neg]
      rintro ⟨hon, hasleep, hpads⟩
      simp [hon, hasleep, hpads] at hnot

end Sys2Proof.Proofs

/-!
## Cache maintenance (O35)
-/

namespace Sys2Proof.Proofs

open Machine Laws

/-- A maintenance command that ends at once shows its status (R42, R334). -/
def maintEnded (s : State) (st : Status) : State := rset s .L2_MAINT_RESULT (Status.code st <<< 32)

/-- The line lies in the RANGE of L2_MAINT_ARG0 and L2_MAINT_ARG1. -/
def inMaintRange (s : State) (l : Line) : Bool :=
  rget s .L2_MAINT_ARG0 % 2 ^ 38 ≤ l.la * 128 ∧ l.la * 128 < rget s .L2_MAINT_ARG0 % 2 ^ 38 + rget s .L2_MAINT_ARG1

/-- The operation treats every held line of the range, and stands with the number of lines written back until the controllers have accepted
those that wait. -/
def maintRange (s : State) (op : Nat) : State :=
  let r := maintWays s op fun _ l => inMaintRange s l
  let parked := (r.2.mem.parkedWb.drop s.mem.parkedWb.length).map fun l => l.la
  rset (onMem r.2 fun m => { m with maint := some { op := op, skipped := false, parked := parked } }) .L2_MAINT_RESULT
    (2 ^ 63 + Nat.min r.1 (2 ^ 31 - 1))

/-! ### What an operation does (R333, R334) -/

theorem maintain_busy {s : State} (hb : fget s F.L2_MAINT_RESULT.BUSY = 1) (op scope : Nat) : maintain op scope s = s :=
  if_pos (decide_eq_true hb)

section
variable {s : State} (hb : fget s F.L2_MAINT_RESULT.BUSY = 0)
include hb

theorem maintain_refused {op scope : Nat} {st : Status} (hst : maintCheck s op scope = some st) : maintain op scope s = maintEnded s st := by
  rw [maintain, if_neg (by simp [flag, hb]), hst]
  rfl

section
variable {op : Nat} (hok : maintCheck s op 0 = none)
include hok

theorem maintain_rangeEmpty (hn : rget s .L2_MAINT_ARG1 = 0) : maintain op 0 s = maintEnded s .ok := by
  rw [maintain, if_neg (by simp [flag, hb]), hok]
  exact if_pos ⟨rfl, hn⟩

/-- A range of at most 16 MiB is not treated as ALL. -/
theorem maintain_range (hn : rget s .L2_MAINT_ARG1 ≠ 0) (hlen : rget s .L2_MAINT_ARG1 ≤ 16 * 2 ^ 20) :
    maintain op 0 s = maintRange s op := by
  have hshort : ¬ 16 * 2 ^ 20 < rget s .L2_MAINT_ARG1 := Nat.not_lt.2 hlen
  rw [maintain, if_neg (by simp [flag, hb]), hok]
  dsimp only
  rw [if_neg fun hempty => hn hempty.2]
  simp only [hshort, OfNat.zero_ne_ofNat, and_false, or_false, false_and, if_true, if_false, decide_false, Nat.add_zero]
  rfl

end

end

theorem maintCheck_undefined {s : State} {op scope : Nat} (h : op = 0 ∨ scope = 3) : maintCheck s op scope = some .badOpcode :=
  if_pos h

/-! ### The commands -/

section
variable {s : State} (h : Safety.writable s .L2_MAINT_CMD 0 0)
include h

theorem exec_l2MaintClean (scope : Nat) : exec (.l2MaintClean scope) s = .next (maintain 1 scope s) := busWrite_next h _

theorem exec_l2MaintInvalidate (scope : Nat) : exec (.l2MaintInvalidate scope) s = .next (maintain 2 scope s) := busWrite_next h _

theorem exec_l2MaintCleanInvalidate (scope : Nat) : exec (.l2MaintCleanInvalidate scope) s = .next (maintain 3 scope s) := busWrite_next h _

theorem exec_l2MaintUndefinedOp (op scope : Nat) : exec (.l2MaintUndefinedOp op scope) s =
    .next (if op = 0 ∨ scope = 3 then maintain op scope s else s) := busWrite_next h _

end

/-! ### L2_MAINT_DONE (R333, R334) -/

section
variable {s : State} {m : Maint} (h : Safety.engines s) (hm : s.mem.maint = some m)
include h hm

theorem exec_l2MaintDone_waits (hparked : s.mem.parkedWb.any (fun l => m.parked.contains l.la) = true) :
    exec .l2MaintDone s = .next s := by
  change execL2MaintDone s = _
  rw [execL2MaintDone, engineStep_next h, l2MaintDone, hm]
  exact congrArg _ (if_pos hparked)

theorem exec_l2MaintDone_ends (hparked : s.mem.parkedWb.any (fun l => m.parked.contains l.la) = false) :
    exec .l2MaintDone s = .next (onMem (fset (fset s F.L2_MAINT_RESULT.BUSY 0) F.L2_MAINT_RESULT.STATUS
      (Status.code (if m.skipped then .domainOff else .ok))) fun x => { x with maint := none }) := by
  change execL2MaintDone s = _
  rw [execL2MaintDone, engineStep_next h, l2MaintDone, hm]
  exact congrArg _ (if_neg (Bool.eq_false_iff.1 hparked))

end

/-- Settles O35: the three operations and the undefined ones share one gate, one check and one treatment of lines. That STATUS stands at 0
while BUSY is 1 is the model's choice (log 121). -/
theorem cacheMaintenance : Obligations.CacheMaintenance := by
  refine ⟨fun s scope h hb => ?idle, fun s op scope h hb => ?busy, fun s m h hm => ⟨exec_l2MaintDone_waits h hm, fun hparked => ?ends⟩⟩
  case idle =>
    intro a n out
    refine ⟨fun st hst => ?_, fun st hst => ?_, fun st hst => ?_, ?_, ?_, ?_, ?_, fun op hop => ?_⟩
    · rw [exec_l2MaintClean h, maintain_refused hb hst, maintEnded]
    · rw [exec_l2MaintInvalidate h, maintain_refused hb hst, maintEnded]
    · rw [exec_l2MaintCleanInvalidate h, maintain_refused hb hst, maintEnded]
    · rintro rfl hok hn hlen
      rw [exec_l2MaintClean h, maintain_range hb hok hn hlen]
      rfl
    · rintro rfl hok hn hlen
      rw [exec_l2MaintInvalidate h, maintain_range hb hok hn hlen]
      rfl
    · rintro rfl hok hn hlen
      rw [exec_l2MaintCleanInvalidate h, maintain_range hb hok hn hlen]
      rfl
    · rintro rfl hok hn
      rw [exec_l2MaintClean h, maintain_rangeEmpty hb hok hn]
      rfl
    · rw [exec_l2MaintUndefinedOp h, if_pos hop, maintain_refused hb (maintCheck_undefined hop)]
      rfl
  case busy =>
    rw [exec_l2MaintClean h, exec_l2MaintInvalidate h, exec_l2MaintCleanInvalidate h, exec_l2MaintUndefinedOp h]
    simp only [maintain_busy hb, ite_self, and_self]
  case ends =>
    rw [exec_l2MaintDone_ends h hm hparked, apply_ite Status.code]
    rfl

end Sys2Proof.Proofs

/-!
## The folio banks and the FOL window (O36)
-/

namespace Sys2Proof.Proofs

open Machine Laws

/-! ### FOL_BANK (R339, R340) -/

/-- A pending hand-over is cancelled. -/
def handoverCancelled (s : State) (c b : Nat) : State :=
  onMem (fset (fset s F.FOL_BANK.PENDING 0 c b) F.FOL_BANK.TARGET 0 c b) fun m => { m with handovers := tdel m.handovers (bankKey c b) }

/-- A hand-over starts: the register shows it, and its SCRUB and PSTATE are kept with it. -/
def handoverStarted (s : State) (c b v : Nat) : State :=
  onMem (fset (fset (fset (fset s F.FOL_BANK.PENDING 1 c b) F.FOL_BANK.TARGET (v % 256) c b) F.FOL_BANK.SCRUB (bits v 30 30) c b)
      F.FOL_BANK.PSTATE (bits v 29 28) c b)
    fun m => { m with handovers := tset m.handovers (bankKey c b) { scrub := bit v 30, pstate := bits v 29 28, drained := false } }

theorem exec_folBankWrite {s : State} {c b : Nat} (hc : c < 16) (hb : b < 16) (h : Safety.writable s .FOL_BANK c b) (v : Nat) :
    exec (.folBankWrite c b v) s = .next (folBankWrite s c b v) := by
  change execFolBankWrite c b v s = _
  rw [execFolBankWrite, if_neg (by omega), busWrite_next h]

section
variable {s : State} {c b v : Nat}

/-- While a hand-over is pending, only a write that names the present owner counts: it cancels. -/
theorem folBankWrite_pending (hp : fget s F.FOL_BANK.PENDING c b = 1) : folBankWrite s c b v =
    if v % 256 = fget s F.FOL_BANK.OWNER c b then handoverCancelled s c b else s := by
  rw [folBankWrite]
  exact if_pos (decide_eq_true hp)

section
variable (hp : fget s F.FOL_BANK.PENDING c b = 0)
include hp

/-- With no hand-over pending the rows of R340 are tried in turn. -/
theorem folBankWrite_rows : folBankWrite s c b v =
    if ¬ ownerOk (v % 256) = true ∨ bits v 29 28 = 3 then s
    else if 8 ≤ v % 256 ∧ v % 256 < 16 ∧ coreHasBank s c b (v % 256) = true then s
    else if fget s F.FOL_BANK.OWNER c b ≠ 0 ∧ v % 256 = fget s F.FOL_BANK.OWNER c b then s
    else if fget s F.FOL_BANK.OWNER c b = 0 ∧ v % 256 = 0 then bankPower (fset s F.FOL_BANK.PSTATE (bits v 29 28) c b) c b (bits v 29 28)
    else handoverStarted s c b v := by
  rw [folBankWrite]
  exact if_neg (by simp [flag, hp])

theorem folBankWrite_undefined (hbad : ownerOk (v % 256) = false ∨ bits v 29 28 = 3) : folBankWrite s c b v = s := by
  rw [folBankWrite_rows hp, if_pos (by simpa using hbad)]

theorem folBankWrite_secondBank (hsecond : 8 ≤ v % 256 ∧ v % 256 < 16 ∧ coreHasBank s c b (v % 256) = true) : folBankWrite s c b v = s := by
  rw [folBankWrite_rows hp, if_pos hsecond, ite_self]

theorem folBankWrite_owner (hnew : fget s F.FOL_BANK.OWNER c b ≠ 0 ∧ v % 256 = fget s F.FOL_BANK.OWNER c b) : folBankWrite s c b v = s := by
  rw [folBankWrite_rows hp, if_pos hnew, ite_self, ite_self]

theorem folBankWrite_unowned (hold : fget s F.FOL_BANK.OWNER c b = 0) (hnew : v % 256 = 0) (hps : bits v 29 28 ≠ 3) :
    folBankWrite s c b v = bankPower (fset s F.FOL_BANK.PSTATE (bits v 29 28) c b) c b (bits v 29 28) := by
  have hdefined : ¬ (¬ ownerOk 0 = true ∨ bits v 29 28 = 3) := not_or.2 ⟨not_not.2 rfl, hps⟩
  rw [folBankWrite_rows hp, hnew, if_neg hdefined, if_neg (by omega), if_neg fun hsame => hsame.1 hold, if_pos ⟨hold, rfl⟩]

theorem folBankWrite_starts (hok : ownerOk (v % 256) = true) (hps : bits v 29 28 ≠ 3) (hnew : v % 256 ≠ fget s F.FOL_BANK.OWNER c b)
    (hsingle : ¬ (8 ≤ v % 256 ∧ v % 256 < 16 ∧ coreHasBank s c b (v % 256) = true)) : folBankWrite s c b v = handoverStarted s c b v := by
  have hdefined : ¬ (¬ ownerOk (v % 256) = true ∨ bits v 29 28 = 3) := not_or.2 ⟨not_not.2 hok, hps⟩
  rw [folBankWrite_rows hp, if_neg hdefined, if_neg hsingle, if_neg fun hsame => hnew hsame.2,
    if_neg fun hnone => hnew (hnone.2.trans hnone.1.symm)]

end

end

/-! ### Hand-overs (R341 to R343) -/

/-- The bank of the old owner, with a core's overflow lines written back. -/
def overflowWritten (s : State) (c b : Nat) : State :=
  if 8 ≤ fget s F.FOL_BANK.OWNER c b ∧ fget s F.FOL_BANK.OWNER c b < 16 then flushOverflow s (8 * c + (fget s F.FOL_BANK.OWNER c b - 8)) else s

/-- The bank is free of its old owner, ON, and zero if asked. -/
def handoverDrained (s : State) (c b : Nat) (h : Handover) : State :=
  onMem (bankPower (if h.scrub then zeroBank (overflowWritten s c b) c b else overflowWritten s c b) c b 0)
    fun m => { m with handovers := tset m.handovers (bankKey c b) { h with drained := true } }

/-- TARGET is the owner of the bank. -/
def ownerChanged (s : State) (c b : Nat) : State :=
  fset (fset (fset (onMem s fun m => { m with handovers := tdel m.handovers (bankKey c b) })
    F.FOL_BANK.OWNER (fget s F.FOL_BANK.TARGET c b) c b) F.FOL_BANK.PENDING 0 c b) F.FOL_BANK.TARGET 0 c b

/-- The blocks on the cluster's engines try their waiting fragment instructions again (05 R172). -/
def clusterFragTries (s : State) (c : Nat) : State :=
  (upFrom (4 * c) 4).foldl (fun s e => match (engineAt s e).block with | some k => fragTries s k | none => s) s

section
variable {s : State} {c b : Nat} {h : Handover} (hu : Safety.unitRuns s (0xD0 + c)) (hh : tget s.mem.handovers (bankKey c b) = some h)
include hu hh

theorem exec_folHandoverDrained_drains (hd : h.drained = false) (hb : bankDrained s c b = true) :
    exec (.folHandoverDrained c b) s = .next (handoverDrained s c b h) := by
  change execFolHandoverDrained c b s = _
  rw [execFolHandoverDrained, unitStep_next hu, folHandoverDrained, hh]
  exact congrArg _ (if_neg (by simp [hd, hb]))

theorem exec_folHandoverDrained_waits (hb : h.drained = true ∨ bankDrained s c b = false) : exec (.folHandoverDrained c b) s = .next s := by
  change execFolHandoverDrained c b s = _
  rw [execFolHandoverDrained, unitStep_next hu, folHandoverDrained, hh]
  exact congrArg _ (if_pos (by simpa using hb))

theorem exec_folHandoverComplete_completes (hd : h.drained = true) : exec (.folHandoverComplete c b) s = .next (clusterFragTries
    (if fget s F.FOL_BANK.TARGET c b = 0 then bankPower (ownerChanged s c b) c b h.pstate else ownerChanged s c b) c) := by
  change execFolHandoverComplete c b s = _
  rw [execFolHandoverComplete, unitStep_next hu, folHandoverComplete, hh]
  exact congrArg _ (if_neg (not_not.2 hd))

theorem exec_folHandoverComplete_waits (hd : h.drained = false) : exec (.folHandoverComplete c b) s = .next s := by
  change execFolHandoverComplete c b s = _
  rw [execFolHandoverComplete, unitStep_next hu, folHandoverComplete, hh]
  exact congrArg _ (if_pos (Bool.eq_false_iff.1 hd))

end

/-! ### The FOL window (R337, R338) -/

/-- The bytes of an access of the window. -/
def winBytes (wide : Bool) : Nat := if wide then 8 else 4

/-- The words of the window that an access names. -/
def winOld (s : State) (off n : Nat) : Nat := leNat (mread 0 s.mem.folio (winAddr s off) n)

/-- The words hold x, and the check of their line matches. -/
def winStored (s : State) (off n x : Nat) : State :=
  onMem s fun m => { m with
    folio := mwrite 0 m.folio (winAddr s off) (natLe x n), folioBad := (linesOf (winAddr s off) n).foldl ndel m.folioBad }

theorem winOn_iff {s : State} : winOn s = true ↔
    fget s F.FOL_BANK.PNOW (fget s F.FOL_WIN_SEL.CLUSTER) (fget s F.FOL_WIN_SEL.BANK) = 0 ∧ domOn s (fget s F.FOL_WIN_SEL.CLUSTER) = true := by
  simp [winOn]

theorem winOn_eq_false_iff {s : State} : winOn s = false ↔
    fget s F.FOL_BANK.PNOW (fget s F.FOL_WIN_SEL.CLUSTER) (fget s F.FOL_WIN_SEL.BANK) ≠ 0 ∨ domOn s (fget s F.FOL_WIN_SEL.CLUSTER) = false := by
  rw [← Bool.not_eq_true, winOn_iff, not_and_or, Bool.not_eq_true]

section
variable {s : State} {off v : Nat} {wide : Bool} {f : Nat → Nat → Nat}

theorem winRow_misaligned (hoff : off % winBytes wide ≠ 0 ∨ 2 ^ 18 ≤ off) (lost : Bool) : winRow off v wide lost f s = .next s :=
  if_pos hoff

section
variable (hoff : off % winBytes wide = 0) (hin : off < 2 ^ 18) (h : Safety.writable s .FOL_WIN_STATUS 0 0)
include hoff hin h

theorem winRow_taken (lost : Bool) : winRow off v wide lost f s =
    .next (winWrite s off (winBytes wide) lost fun old => f old (v % 256 ^ winBytes wide)) := by
  have haligned : ¬ (off % winBytes wide ≠ 0 ∨ 2 ^ 18 ≤ off) := by omega
  exact (if_neg haligned).trans (busWrite_next h _)

theorem winRow_off (hwin : winOn s = false) (lost : Bool) : winRow off v wide lost f s = .next (fset s F.FOL_WIN_STATUS.DOMAIN_OFF 1) := by
  rw [winRow_taken hoff hin h, winWrite, if_pos (Bool.eq_false_iff.1 hwin)]

section
variable (hwin : winOn s = true)
include hwin

theorem winRow_stores : winRow off v wide false f s =
    .next (winStored s off (winBytes wide) (f (winOld s off (winBytes wide)) (v % 256 ^ winBytes wide))) := by
  rw [winRow_taken hoff hin h, winWrite, if_neg (not_not.2 hwin)]
  rfl

theorem winRow_collides : winRow off v wide true f s =
    .next (fcount (fset s F.FOL_WIN_STATUS.COLLIDE 1) F.FOL_WIN_STATUS.COLLISIONS) := by
  rw [winRow_taken hoff hin h, winWrite, if_neg (not_not.2 hwin), if_pos rfl]

end

end

end

section
variable (s : State) (off v : Nat) (wide lost : Bool)

theorem exec_folWindowWrite : exec (.folWindowWrite off v wide lost) s = winRow off v wide lost (fun _ d => d) s := rfl

theorem exec_folSetAliasWrite : exec (.folSetAliasWrite off v wide lost) s = winRow off v wide lost (fun w d => w ||| d) s := rfl

theorem exec_folClearAliasWrite : exec (.folClearAliasWrite off v wide lost) s = winRow off v wide lost (fun w d => without w d) s := rfl

end

/-- A claim about every access of a row holds of the three commands of the window, which differ only in what they make of the words. -/
theorem forall_winRows {s : State} {off v : Nat} {wide lost : Bool} {o : Out} (h : ∀ f, winRow off v wide lost f s = o) :
    ∀ e ∈ ([.folWindowWrite off v wide lost, .folSetAliasWrite off v wide lost, .folClearAliasWrite off v wide lost] : List Instr),
      exec e s = o := by
  simp only [List.forall_mem_cons, exec_folWindowWrite, exec_folSetAliasWrite, exec_folClearAliasWrite, h, List.not_mem_nil, false_imp_iff,
    implies_true, and_self]

/-- Settles O36: FOL_BANK and the hand-overs row by row, and the three commands of the window through the row that they share. That
FOL_HANDOVER_DRAINED itself writes the overflow lines back, and that an odd access does nothing, is the model's choice (log 18). -/
theorem folioBanks : Obligations.FolioBanks := by
  refine ⟨fun s c b v hc hb h => ?bank, fun s c b h hu hh => ?handover, fun s off v wide => ?window⟩
  case bank =>
    intro old new ps
    rw [exec_folBankWrite hc hb h]
    refine ⟨fun hp hnew => ?_, fun hp hnew => ?_, fun hp hbad => ?_, fun hp hlo hhi hhas => ?_, fun hp hold hnew => ?_,
      fun hp hold hnew hps => ?_, fun hp hok hps hnew hsingle => ?_⟩
    · rw [folBankWrite_pending hp, if_pos hnew]
      rfl
    · rw [folBankWrite_pending hp, if_neg hnew]
    · rw [folBankWrite_undefined hp hbad]
    · rw [folBankWrite_secondBank hp ⟨hlo, hhi, hhas⟩]
    · rw [folBankWrite_owner hp ⟨hold, hnew⟩]
    · rw [folBankWrite_unowned hp hold hnew hps]
    · rw [folBankWrite_starts hp hok hps hnew hsingle]
      rfl
  case handover =>
    exact ⟨exec_folHandoverDrained_drains hu hh, fun _ hb => exec_folHandoverDrained_waits hu hh (.inr hb),
      exec_folHandoverComplete_completes hu hh, fun hd => exec_folHandoverDrained_waits hu hh (.inl hd), exec_folHandoverComplete_waits hu hh⟩
  case window =>
    intro n c b old put
    refine ⟨fun hoff hin h => ⟨fun hbank hdom => ?_, fun hnot lost => ?_⟩, fun hoff lost => forall_winRows fun f => winRow_misaligned hoff lost⟩
    · have hwin := winOn_iff.2 ⟨hbank, hdom⟩
      exact ⟨(exec_folWindowWrite ..).trans (winRow_stores hoff hin h hwin), (exec_folSetAliasWrite ..).trans (winRow_stores hoff hin h hwin),
        (exec_folClearAliasWrite ..).trans (winRow_stores hoff hin h hwin), forall_winRows fun f => winRow_collides hoff hin h hwin⟩
    · exact forall_winRows fun f => winRow_off hoff hin h (winOn_eq_false_iff.2 hnot) lost

end Sys2Proof.Proofs

/-!
## BAR2, device reads and MSI-X (O45)
-/

namespace Sys2Proof.Proofs

open Machine Laws

/-! ### Fail-safe and what is answered -/

/-- Only a write of INT_FAILSAFE can change whether the device is in fail-safe. -/
theorem failsafe_fset {x : Fld} (hx : F.INT_FAILSAFE.ACTIVE.reg ≠ x.reg) (s : State) (v w i : Nat) :
    failsafe (fset s x v w i) = failsafe s := by
  rw [failsafe, flag, fget_fset_ne fun h => hx h.1]
  rfl

theorem aer_eq {s : State} (hf : failsafe s = false) (e : AerError) : aer s e = send s (.aer e) := by
  rw [aer, hf]
  rfl

theorem completerAbort_reported {s : State} (hf : failsafe s = false) :
    completerAbort s = send (send s .completerAbort) (.aer .completerAbort) :=
  aer_eq (s := send s .completerAbort) hf .completerAbort

/-- In fail-safe nothing is reported beside the answer (R410). -/
theorem completerAbort_failsafe {s : State} (hf : failsafe s = true) : completerAbort s = send s .completerAbort :=
  if_pos (c := failsafe (send s .completerAbort) = true) hf

/-! ### BAR2_READ (R389, R458) -/

theorem exec_bar2Read {s : State} (hp : Safety.powered s) (f o n : Nat) : exec (.bar2Read f o n) s = .next (bar2Read f o n s) :=
  powered_next hp _

section
variable {s : State} {f : Nat} (o n : Nat)

theorem bar2Read_absent (hthere : bar2There s f = false) : bar2Read f o n s = unsupported s :=
  if_pos (by simp [hthere])

variable (hthere : bar2There s f = true)
include hthere

theorem bar2Read_failsafe (hf : failsafe s = true) : bar2Read f o n s = send s .completerAbort := by
  rw [bar2Read, if_neg (not_not.2 hthere), if_pos hf, completerAbort_failsafe hf]

variable {o n} (hf : failsafe s = false)
include hf

theorem bar2Read_outside (hout : (upFrom o n).any (bar2Outside s f) = true) :
    bar2Read f o n s = send (send s .unsupportedRequest) (.aer .unsupportedRequest) := by
  rw [bar2Read, if_neg (not_not.2 hthere), if_neg (Bool.eq_false_iff.1 hf), if_pos hout, unsupported_eq hf]

variable (hin : (upFrom o n).any (bar2Outside s f) = false)
include hin

theorem bar2Read_off (hoff : (upFrom o n).any (bar2Off s f) = true) :
    bar2Read f o n s = send (send (fset s F.HIF_BAR_STATUS.DOMAIN_OFF 1 f) .completerAbort) (.aer .completerAbort) := by
  have hf' : failsafe (barStatus s f F.HIF_BAR_STATUS.DOMAIN_OFF) = false := (failsafe_fset (by decide) s 1 f 0).trans hf
  rw [bar2Read, if_neg (not_not.2 hthere), if_neg (Bool.eq_false_iff.1 hf), if_neg (Bool.eq_false_iff.1 hin), if_pos hoff,
    completerAbort_reported hf', barStatus]

/-- A read that nothing turns away is a read through the level-2 cache. -/
theorem bar2Read_served (hon : (upFrom o n).any (bar2Off s f) = false) :
    bar2Read f o n s =
      let pa := (bar2Window s f).1 + o
      let r := devRead s 6 pa n
      if r.1 = .ok then send r.2.2 (.completion r.2.1 false)
      else raiseBare (send r.2.2 (.completion r.2.1 true)) 0x126 .integrityMismatch 0
        (.memory (pa / 128 * 128) 3 0xFF (paSlice pa) 0xFF 0xFFFF 0xFFFF 0 0) := by
  rw [bar2Read, if_neg (not_not.2 hthere), if_neg (Bool.eq_false_iff.1 hf), if_neg (Bool.eq_false_iff.1 hin),
    if_neg (Bool.eq_false_iff.1 hon)]

end

/-! ### BAR2_WRITE (R380, R458) -/

/-- One byte of a write, with its place in the data: a disabled byte is passed over, an enabled one that follows the last run on makes it
longer, and any other begins a run. The last run stands first. -/
def addByte (o : Nat) (runs : List (Nat × List Byte)) (e : Option Byte × Nat) : List (Nat × List Byte) :=
  match e.1, runs with
  | none, _ => runs
  | some b, (p, bs) :: t => if p + bs.length = o + e.2 then (p, bs ++ [b]) :: t else (o + e.2, [b]) :: runs
  | some b, [] => [(o + e.2, [b])]

theorem bar2Runs_eq (o : Nat) (data : List (Option Byte)) : bar2Runs o data = (data.zipIdx.foldl (addByte o) []).reverse := rfl

/-- Enabled bytes alone keep making the one run longer. -/
theorem foldl_addByte_enabled (o : Nat) (cs bs : List Byte) :
    ((cs.map some).zipIdx bs.length).foldl (addByte o) [(o, bs)] = [(o, bs ++ cs)] := by
  induction cs generalizing bs with
  | nil => simp
  | cons c cs ih =>
    have hrun : addByte o [(o, bs)] (some c, bs.length) = [(o, bs ++ [c])] := if_pos rfl
    have hlen : (bs ++ [c]).length = bs.length + 1 := by simp
    rw [List.map_cons, List.zipIdx_cons, List.foldl_cons, hrun, ← hlen, ih, List.append_assoc, List.singleton_append]

theorem bar2Runs_enabled (o : Nat) (b : Byte) (bs : List Byte) : bar2Runs o ((b :: bs).map some) = [(o, b :: bs)] := by
  rw [bar2Runs_eq, List.map_cons, List.zipIdx_cons, List.foldl_cons]
  exact congrArg List.reverse (foldl_addByte_enabled o bs [b])

theorem exec_bar2Write {s : State} (hp : Safety.powered s) (f o : Nat) (data : List (Option Byte)) :
    exec (.bar2Write f o data) s = .next (bar2Write f o data s) := powered_next hp _

/-- The offsets of the bytes that a write enables. -/
def bar2Bytes (o : Nat) (data : List (Option Byte)) : List Nat := (bar2Runs o data).flatMap fun r => upFrom r.1 r.2.length

/-- What each run of a write meets in the graph range table. -/
def bar2Hits (s : State) (f o : Nat) (data : List (Option Byte)) : List (Bool × List GRange) :=
  (bar2Runs o data).map fun r => rangeHit s ((bar2Window s f).1 + r.1) r.2.length

/-- A write that the table lets through: its runs are stored, then the WATCH ranges that they met become DIRTY. -/
def bar2Stored (s : State) (f o : Nat) (data : List (Option Byte)) : State :=
  ((bar2Hits s f o data).flatMap fun h => h.2).foldl (fun s g => setDirty s g.lo)
    ((bar2Runs o data).foldl (fun t r => (devWrite t 6 ((bar2Window s f).1 + r.1) r.2).2) s)

theorem bar2Write_eq (s : State) (f o : Nat) (data : List (Option Byte)) : bar2Write f o data s =
    if ¬ bar2There s f ∨ failsafe s then s
    else if (bar2Bytes o data).any (bar2Outside s f) then fset s F.HIF_BAR_STATUS.OUTSIDE 1 f
    else if (bar2Bytes o data).any (bar2Off s f) then fset s F.HIF_BAR_STATUS.DOMAIN_OFF 1 f
    else if (bar2Hits s f o data).any (fun h => h.1) then protectedWrite s o
    else bar2Stored s f o data := rfl

section
variable {s : State} {f o : Nat} {data : List (Option Byte)}

theorem bar2Write_discarded (h : bar2There s f = false ∨ failsafe s = true) : bar2Write f o data s = s :=
  if_pos (h.imp_left Bool.eq_false_iff.1)

variable (hthere : bar2There s f = true) (hf : failsafe s = false)
include hthere hf

/-- The write is looked at by a function that has a BAR2, outside fail-safe. -/
theorem bar2_taken : ¬ (¬ bar2There s f = true ∨ failsafe s = true) := by simp [hthere, hf]

theorem bar2Write_outside (hout : (bar2Bytes o data).any (bar2Outside s f) = true) :
    bar2Write f o data s = fset s F.HIF_BAR_STATUS.OUTSIDE 1 f := by
  rw [bar2Write_eq, if_neg (bar2_taken hthere hf), if_pos hout]

variable (hin : (bar2Bytes o data).any (bar2Outside s f) = false)
include hin

theorem bar2Write_off (hoff : (bar2Bytes o data).any (bar2Off s f) = true) :
    bar2Write f o data s = fset s F.HIF_BAR_STATUS.DOMAIN_OFF 1 f := by
  rw [bar2Write_eq, if_neg (bar2_taken hthere hf), if_neg (Bool.eq_false_iff.1 hin), if_pos hoff]

variable (hon : (bar2Bytes o data).any (bar2Off s f) = false)
include hon

theorem bar2Write_protected (hhit : (bar2Hits s f o data).any (fun h => h.1) = true) : bar2Write f o data s = protectedWrite s o := by
  rw [bar2Write_eq, if_neg (bar2_taken hthere hf), if_neg (Bool.eq_false_iff.1 hin), if_neg (Bool.eq_false_iff.1 hon), if_pos hhit]

theorem bar2Write_stored (hnone : (bar2Hits s f o data).any (fun h => h.1) = false) : bar2Write f o data s = bar2Stored s f o data := by
  rw [bar2Write_eq, if_neg (bar2_taken hthere hf), if_neg (Bool.eq_false_iff.1 hin), if_neg (Bool.eq_false_iff.1 hon),
    if_neg (Bool.eq_false_iff.1 hnone)]

end

/-! ### DEVICE_READ_COMPLETION (R459) -/

theorem exec_deviceReadCompletion {s : State} (hp : Safety.powered s) (l : Nat) (e : Option AerError) :
    exec (.deviceReadCompletion l e) s = .next (readEnd l e s) := powered_next hp _

/-- A host line whose device read has failed. -/
def badRead (l : Nat) (s : State) : State := { s with hif := { s.hif with badReads := nins s.hif.badReads l } }

theorem readEnd_unreported {e : AerError} (he : e = .completerAbort ∨ e = .unsupportedRequest) (l : Nat) (s : State) :
    readEnd l (some e) s = badRead l s := by
  rcases he with rfl | rfl <;> rfl

/-- A poisoned completion and a timeout are reported outside fail-safe. -/
theorem readEnd_reported {e : AerError} (he : e = .poisonedTlp ∨ e = .completionTimeout) (l : Nat) {s : State} (hf : failsafe s = false) :
    readEnd l (some e) s = send (badRead l s) (.aer e) := by
  have hreport : aer (badRead l s) e = send (badRead l s) (.aer e) := aer_eq (s := badRead l s) hf e
  rcases he with rfl | rfl <;> exact hreport

/-! ### MSIX_PENDING_SEND (R460) -/

section
variable {s : State} (hp : Safety.powered s) {f v : Nat}
include hp

theorem exec_msixPendingSend_masked (hopen : msixOpen s f v = false) : exec (.msixPendingSend f v) s = .next s := by
  change execMsixPendingSend f v s = _
  rw [execMsixPendingSend, powered_next hp, if_pos (by simp [hopen])]

theorem exec_msixPendingSend_open (hf : failsafe s = false) (hid : recoveryId s = false) (hv : v < vectorCount f)
    (hpend : f * 2048 + v ∈ s.hif.pba) (hopen : msixOpen s f v = true) :
    exec (.msixPendingSend f v) s =
      .next (send (linkSend { s with hif := { s.hif with pba := ndel s.hif.pba (f * 2048 + v) } } 4) (.msix f v)) := by
  change execMsixPendingSend f v s = _
  rw [execMsixPendingSend, powered_next hp, if_neg (by simp [hf, hid, Nat.not_le.2 hv, hpend, hopen])]

end

/-- Settles O45, row by row. The mark that DEVICE_READ_COMPLETION leaves on a host line is the model's choice (log 27); the record
of a BAR2 read that fails its check and the VALUE of a protected write's are deduced (log 81). -/
theorem hostMemoryRows : Obligations.HostMemoryRows := by
  refine ⟨fun s f o n hp hthere hf => ?read, fun s f o data hp => ⟨fun h => ?discarded, fun hthere hf => ?write⟩, bar2Runs_enabled,
    fun s f o n hp => ⟨fun h => ?absent, fun hthere hf => ?failsafe⟩, fun s l hp => ?ended,
    fun s f v hp hf hid hv hpend => ⟨exec_msixPendingSend_open hp hf hid hv hpend, exec_msixPendingSend_masked hp⟩⟩
  case read =>
    rw [exec_bar2Read hp]
    intro out off r
    refine ⟨fun hout => ?_, fun hin hoff => ?_, fun hin hon hok => ?_, fun hin hon hbad => ?_⟩
    · rw [bar2Read_outside hthere hf hout]
    · rw [bar2Read_off hthere hf hin hoff]
    · rw [bar2Read_served hthere hf hin hon]
      exact congrArg _ (if_pos hok)
    · rw [bar2Read_served hthere hf hin hon]
      exact congrArg _ (if_neg hbad)
  case discarded => rw [exec_bar2Write hp, bar2Write_discarded h]
  case write =>
    rw [exec_bar2Write hp]
    refine ⟨fun hout => ?_, fun hin hoff => ?_, fun hin hon => ?_⟩
    · rw [bar2Write_outside hthere hf hout]
    · rw [bar2Write_off hthere hf hin hoff]
    · exact ⟨fun hhit => congrArg _ (bar2Write_protected hthere hf hin hon hhit),
        fun hnone => congrArg _ (bar2Write_stored hthere hf hin hon hnone)⟩
  case absent => rw [exec_bar2Read hp, bar2Read_absent o n h]
  case failsafe => rw [exec_bar2Read hp, bar2Read_failsafe o n hthere hf]
  case ended =>
    simp only [exec_deviceReadCompletion hp]
    exact ⟨rfl, fun e he => congrArg _ (readEnd_unreported he l s), fun e hf he => congrArg _ (readEnd_reported he l hf)⟩

end Sys2Proof.Proofs

/-!
## Steps, completion and the lane scrambler (O1, O3, O47)
-/

namespace Sys2Proof.Proofs

open Machine Laws

/-- Settles O1. The queue of waiting commands is the model's choice (log 1). -/
theorem stepRunsFrontCommand : Obligations.StepRunsFrontCommand := by
  intro c rest s h
  rw [step, h]

/-- The six commands that follow a pin answer a next state too. -/
theorem pinEdge_completes {c : Instr} (hc : isPinEdge c = true) (s : State) : Safety.completes c s := by
  cases c
  case aonPgoodRise | aonPgoodFall | perstNAssert | perstNDeassert | corePgoodRise | corePgoodFall => exact ⟨_, rfl⟩
  all_goals cases hc

/-- Settles O3: a command behind a gate answers a next state (`exec_gated`), and a pin's edge does. That no row faults and none is refused is
the model's choice (log 11). -/
theorem everyCommandCompletes : Obligations.EveryCommandCompletes := by
  intro c s
  cases hc : isPinEdge c
  · obtain ⟨t, ht, -, -⟩ := exec_gated hc s
    exact ⟨t, ht⟩
  · exact pinEdge_completes hc s

/-- The step of `scramble` (R467): byte e.1 at place e.2 joins the bytes sent, and its lane's register moves on. -/
def scrambleByte (x : List Byte × List Nat) (e : Byte × Nat) : List Byte × List Nat :=
  let y := prbsSymbol (x.2.getD (e.2 % 8) 0)
  (x.1 ++ [BitVec.ofNat 8 (e.1.toNat ^^^ y.2)], x.2.set (e.2 % 8) y.1)

theorem scramble_eq_foldl {r : List Nat} (hr : r.length = 8) (b : List Byte) : scramble r b = b.zipIdx.foldl scrambleByte ([], r) := by
  rw [scramble, if_pos hr]
  rfl

/-- The same symbol added twice gives the byte back. -/
theorem ofNat_xor_xor (x : Byte) (n : Nat) : BitVec.ofNat 8 ((BitVec.ofNat 8 (x.toNat ^^^ n)).toNat ^^^ n) = x := by
  simp only [BitVec.ofNat_xor, BitVec.ofNat_toNat, BitVec.setWidth_eq, BitVec.xor_assoc, BitVec.xor_self, BitVec.xor_zero]

/-- What a flit's bytes from place k on are scrambled to: as many bytes, which from the same registers scramble to the flit's and leave the
same registers, since a register moves on alike for every byte. -/
theorem foldl_scrambleByte (b : List Byte) (k : Nat) (acc : List Byte) (r : List Nat) :
    ∃ out u, (b.zipIdx k).foldl scrambleByte (acc, r) = (acc ++ out, u) ∧ out.length = b.length ∧ u.length = r.length
      ∧ ∀ acc', (out.zipIdx k).foldl scrambleByte (acc', r) = (acc' ++ b, u) := by
  induction b generalizing k acc r with
  | nil => exact ⟨[], r, by simp, rfl, rfl, by simp⟩
  | cons x b ih =>
    let y := prbsSymbol (r.getD (k % 8) 0)
    let x' := BitVec.ofNat 8 (x.toNat ^^^ y.2)
    obtain ⟨out, u, hsent, hlen, hregs, hback⟩ := ih (k + 1) (acc ++ [x']) (r.set (k % 8) y.1)
    refine ⟨x' :: out, u, ?_, by simp [hlen], by simpa using hregs, fun acc' => ?_⟩
    · rw [List.zipIdx_cons, List.foldl_cons, List.append_cons]
      exact hsent
    · have hx : scrambleByte (acc', r) (x', k) = (acc' ++ [x], r.set (k % 8) y.1) :=
        congrArg (fun z => (acc' ++ [z], r.set (k % 8) y.1)) (ofNat_xor_xor x y.2)
      rw [List.zipIdx_cons, List.foldl_cons, hx, hback, ← List.append_cons]

/-- Settles O47: the registers move on alike for whatever bytes, so that the receiver adds the sender's symbols. -/
theorem scramblerInverse : Obligations.ScramblerInverse := by
  intro r b hr
  obtain ⟨out, u, hsent, hlen, hregs, hback⟩ := foldl_scrambleByte b 0 [] r
  have hb : scramble r b = (out, u) := (scramble_eq_foldl hr b).trans hsent
  have hout : scramble r out = (b, u) := (scramble_eq_foldl hr out).trans (hback [])
  rw [hb, hout]
  exact ⟨rfl, rfl, hlen, hregs.trans hr⟩

end Sys2Proof.Proofs

/-!
## Every step keeps the memories canonical (O59)

`Safety.extends_ s t` says what no command does to s: it leaves the queue, takes no free value twice, takes back no message, and keeps the
memories canonical. It is a preorder, and every operation goes only up in it. One lemma per operation on the state, `f_extends` for f, in the
order of the model's files: where s extends s₀, so does what f makes of s. Each is assembled from those of the operations that f is built
of, so that no proof unfolds more than one definition.
-/

namespace Sys2Proof.Proofs

open Machine Laws

/-! ### The preorder -/

theorem extends_refl (s : State) : Safety.extends_ s s := ⟨rfl, Nat.le_refl _, ⟨[], (List.append_nil _).symm⟩, id⟩

theorem extends_trans {s t u : State} (h : Safety.extends_ s t) (h' : Safety.extends_ t u) : Safety.extends_ s u := by
  obtain ⟨hp, hc, ⟨l, hl⟩, hm⟩ := h
  obtain ⟨hp', hc', ⟨l', hl'⟩, hm'⟩ := h'
  exact ⟨hp'.trans hp, hc.trans hc', ⟨l ++ l', by rw [hl', hl, List.append_assoc]⟩, hm' ∘ hm⟩

section

variable {s₀ s t : State}

/-- Only memories and registers change, and they stay canonical. -/
theorem extends_of_canonical (h : Safety.extends_ s₀ s) (hp : t.pending = s.pending) (hc : t.freeCtr = s.freeCtr)
    (hs : t.hif.sent = s.hif.sent) (hm : Safety.canonical s → Safety.canonical t) : Safety.extends_ s₀ t :=
  extends_trans h ⟨hp, hc.ge, ⟨[], by rw [hs, List.append_nil]⟩, hm⟩

theorem extends_of_eq_mk {α : Type} {p : α × State} {a : α} (h : p = (a, t)) (hp : Safety.extends_ s₀ p.2) : Safety.extends_ s₀ t := by
  rwa [h] at hp

theorem extends_of_eq_mk₂ {α β : Type} {p : α × β × State} {a : α} {b : β} (h : p = (a, b, t)) (hp : Safety.extends_ s₀ p.2.2) : Safety.extends_ s₀ t := by
  rwa [h] at hp

theorem extends_of_eq_mk₃ {α β γ : Type} {p : α × β × γ × State} {a : α} {b : β} {c : γ} (h : p = (a, b, c, t)) (hp : Safety.extends_ s₀ p.2.2.2) :
    Safety.extends_ s₀ t := by
  rwa [h] at hp

/-! ### Choices and folds -/

theorem ite_extends {c : Prop} [Decidable c] (hs : Safety.extends_ s₀ s) (ht : Safety.extends_ s₀ t) : Safety.extends_ s₀ (if c then s else t) := by
  split
  · exact hs
  · exact ht

theorem ite_snd_extends {α : Type} {c : Prop} [Decidable c] {p q : α × State} (hp : Safety.extends_ s₀ p.2) (hq : Safety.extends_ s₀ q.2) :
    Safety.extends_ s₀ (if c then p else q).2 := by
  split
  · exact hp
  · exact hq

theorem ite_snd_snd_extends {α β : Type} {c : Prop} [Decidable c] {p q : α × β × State} (hp : Safety.extends_ s₀ p.2.2) (hq : Safety.extends_ s₀ q.2.2) :
    Safety.extends_ s₀ (if c then p else q).2.2 := by
  split
  · exact hp
  · exact hq

/-- A fold whose steps extend extends. -/
theorem foldl_extends {α : Type} {f : State → α → State} {l : List α} (hf : ∀ t a, Safety.extends_ s₀ t → Safety.extends_ s₀ (f t a))
    (h : Safety.extends_ s₀ s) : Safety.extends_ s₀ (l.foldl f s) := by
  induction l generalizing s with
  | nil => exact h
  | cons a l ih => exact ih (hf s a h)

theorem foldl_snd_extends {α β : Type} {f : β × State → α → β × State} {l : List α} {p : β × State}
    (hf : ∀ p a, Safety.extends_ s₀ p.2 → Safety.extends_ s₀ (f p a).2) (h : Safety.extends_ s₀ p.2) : Safety.extends_ s₀ (l.foldl f p).2 := by
  induction l generalizing p with
  | nil => exact h
  | cons a l ih => exact ih (hf p a h)

theorem foldl_snd_snd_extends {α β γ : Type} {f : β × γ × State → α → β × γ × State} {l : List α} {p : β × γ × State}
    (hf : ∀ p a, Safety.extends_ s₀ p.2.2 → Safety.extends_ s₀ (f p a).2.2) (h : Safety.extends_ s₀ p.2.2) : Safety.extends_ s₀ (l.foldl f p).2.2 := by
  induction l generalizing p with
  | nil => exact h
  | cons a l ih => exact ih (hf p a h)

theorem foldl_snd_snd_snd_extends {α β γ δ : Type} {f : β × γ × δ × State → α → β × γ × δ × State} {l : List α} {p : β × γ × δ × State}
    (hf : ∀ p a, Safety.extends_ s₀ p.2.2.2 → Safety.extends_ s₀ (f p a).2.2.2) (h : Safety.extends_ s₀ p.2.2.2) : Safety.extends_ s₀ (l.foldl f p).2.2.2 := by
  induction l generalizing p with
  | nil => exact h
  | cons a l ih => exact ih (hf p a h)

/-! ### Single writes -/

theorem onFe_extends {f} (h : Safety.extends_ s₀ s) : Safety.extends_ s₀ (onFe s f) := extends_of_canonical h rfl rfl rfl id

theorem onSc_extends {f} (h : Safety.extends_ s₀ s) : Safety.extends_ s₀ (onSc s f) := extends_of_canonical h rfl rfl rfl id

theorem onGfx_extends {f} (h : Safety.extends_ s₀ s) : Safety.extends_ s₀ (onGfx s f) := extends_of_canonical h rfl rfl rfl id

theorem onSeq_extends {f} (h : Safety.extends_ s₀ s) : Safety.extends_ s₀ (onSeq s f) := extends_of_canonical h rfl rfl rfl id

theorem onXlt_extends {f} (h : Safety.extends_ s₀ s) : Safety.extends_ s₀ (onXlt s f) := extends_of_canonical h rfl rfl rfl id

theorem onPwr_extends {f} (h : Safety.extends_ s₀ s) : Safety.extends_ s₀ (onPwr s f) := extends_of_canonical h rfl rfl rfl id

theorem onInt_extends {f} (h : Safety.extends_ s₀ s) : Safety.extends_ s₀ (onInt s f) := extends_of_canonical h rfl rfl rfl id

/-- A change of the memory part under which HBM and folio memory stay canonical. -/
theorem onMem_extends_of_wf {f} (h : Safety.extends_ s₀ s) (hhbm : Memory.wf 0 s.mem.hbm = true → Memory.wf 0 (f s.mem).hbm = true)
    (hfolio : Memory.wf 0 s.mem.folio = true → Memory.wf 0 (f s.mem).folio = true) : Safety.extends_ s₀ (onMem s f) :=
  extends_of_canonical h rfl rfl rfl fun ⟨h1, h2, h3, h4, h5, h6, h7⟩ => ⟨h1, hhbm h2, hfolio h3, h4, h5, h6, h7⟩

theorem onMem_extends {f} (h : Safety.extends_ s₀ s) (hhbm : (f s.mem).hbm = s.mem.hbm) (hfolio : (f s.mem).folio = s.mem.folio) :
    Safety.extends_ s₀ (onMem s f) :=
  onMem_extends_of_wf h (hhbm ▸ id) (hfolio ▸ id)

/-- A change of the Control Complex under which its SRAM stays canonical. -/
theorem onCcx_extends_of_wf {f} (h : Safety.extends_ s₀ s) (hsram : Memory.wf 0 s.ccx.sram = true → Memory.wf 0 (f s.ccx).sram = true) :
    Safety.extends_ s₀ (onCcx s f) :=
  extends_of_canonical h rfl rfl rfl fun ⟨h1, h2, h3, h4, h5, h6, h7⟩ => ⟨h1, h2, h3, hsram h4, h5, h6, h7⟩

theorem onCcx_extends {f} (h : Safety.extends_ s₀ s) (hsram : (f s.ccx).sram = s.ccx.sram) : Safety.extends_ s₀ (onCcx s f) :=
  onCcx_extends_of_wf h (hsram ▸ id)

/-- A change of the boot unit under which the flash and its window stay canonical. -/
theorem withBoot_extends_of_wf {x} (h : Safety.extends_ s₀ s) (hflash : Memory.wf 0xFF s.boot.flash = true → Memory.wf 0xFF x.flash = true)
    (hwindow : Memory.wf 0 s.boot.window = true → Memory.wf 0 x.window = true) : Safety.extends_ s₀ { s with boot := x } :=
  extends_of_canonical h rfl rfl rfl fun ⟨h1, h2, h3, h4, h5, h6, h7⟩ => ⟨h1, h2, h3, h4, hflash h5, hwindow h6, h7⟩

theorem withBoot_extends {x} (h : Safety.extends_ s₀ s) (hflash : x.flash = s.boot.flash) (hwindow : x.window = s.boot.window) :
    Safety.extends_ s₀ { s with boot := x } :=
  withBoot_extends_of_wf h (hflash ▸ id) (hwindow ▸ id)

theorem onBoot_extends {f} (h : Safety.extends_ s₀ s) (hflash : (f s.boot).flash = s.boot.flash)
    (hwindow : (f s.boot).window = s.boot.window) : Safety.extends_ s₀ (onBoot s f) :=
  withBoot_extends h hflash hwindow

theorem withHif_extends {x : Hif} (h : Safety.extends_ s₀ s) (hsent : x.sent = s.hif.sent) : Safety.extends_ s₀ { s with hif := x } :=
  extends_of_canonical h rfl rfl hsent id

theorem withDsp_extends {x} (h : Safety.extends_ s₀ s) : Safety.extends_ s₀ { s with dsp := x } := extends_of_canonical h rfl rfl rfl id

theorem withPorts_extends {x} (h : Safety.extends_ s₀ s) : Safety.extends_ s₀ { s with ports := x } := extends_of_canonical h rfl rfl rfl id

theorem withFe_extends {x} (h : Safety.extends_ s₀ s) : Safety.extends_ s₀ { s with fe := x } := extends_of_canonical h rfl rfl rfl id

theorem withIntf_extends {x y} (h : Safety.extends_ s₀ s) : Safety.extends_ s₀ { s with intf := x, intfDone := y } := extends_of_canonical h rfl rfl rfl id

theorem onIntf_extends {c f} (h : Safety.extends_ s₀ s) : Safety.extends_ s₀ (onIntf s c f) := withIntf_extends h

theorem send_extends {m} (h : Safety.extends_ s₀ s) : Safety.extends_ s₀ (send s m) :=
  extends_trans h ⟨rfl, Nat.le_refl _, ⟨[m], rfl⟩, id⟩

/-- Free values are used up. -/
theorem withFreeCtr_extends {n : Nat} (h : Safety.extends_ s₀ s) (hn : s.freeCtr ≤ n) : Safety.extends_ s₀ { s with freeCtr := n } :=
  extends_trans h ⟨rfl, hn, ⟨[], (List.append_nil _).symm⟩, id⟩

theorem takeFree_extends {n} (h : Safety.extends_ s₀ s) : Safety.extends_ s₀ (takeFree s n).2 := withFreeCtr_extends h (Nat.le_succ _)

/-- A register write keeps the file sorted. -/
theorem rset_extends {r v w i} (h : Safety.extends_ s₀ s) : Safety.extends_ s₀ (rset s r v w i) := by
  have hfields : (rset s r v w i).pending = s.pending ∧ (rset s r v w i).freeCtr = s.freeCtr ∧ (rset s r v w i).hif = s.hif
      ∧ (rset s r v w i).hostMem = s.hostMem ∧ (rset s r v w i).mem = s.mem ∧ (rset s r v w i).ccx = s.ccx ∧ (rset s r v w i).boot = s.boot := by
    unfold rset
    split <;> simp
  obtain ⟨hp, hc, hhif, hhost, hmem, hccx, hboot⟩ := hfields
  refine extends_of_canonical h hp hc (by rw [hhif]) fun hs => ?_
  obtain ⟨h1, h2, h3, h4, h5, h6, hregs⟩ := hs
  rw [Safety.canonical, hhost, hmem, hccx, hboot]
  exact ⟨h1, h2, h3, h4, h5, h6, sorted_rset hregs⟩

theorem fset_extends {f v w i} (h : Safety.extends_ s₀ s) : Safety.extends_ s₀ (fset s f v w i) := rset_extends h

/-- Losing registers keeps the file sorted. -/
theorem keepRegs_extends {keep} (h : Safety.extends_ s₀ s) : Safety.extends_ s₀ (keepRegs s keep) :=
  extends_of_canonical h rfl rfl rfl fun ⟨h1, h2, h3, h4, h5, h6, hregs⟩ => ⟨h1, h2, h3, h4, h5, h6, sorted_filter _ hregs⟩

/-! ### Machine/Ops -/

theorem fcount_extends {s f w i n} (h : Safety.extends_ s₀ s) : Safety.extends_ s₀ (fcount s f w i n) := fset_extends h

theorem readClears_extends {s r w i words} (h : Safety.extends_ s₀ s) : Safety.extends_ s₀ (readClears s r w i words) :=
  rset_extends (ite_extends (withHif_extends h rfl) h)

theorem linkWake_extends {s} (h : Safety.extends_ s₀ s) : Safety.extends_ s₀ (linkWake s) := fset_extends h

theorem linkSend_extends {s n} (h : Safety.extends_ s₀ s) : Safety.extends_ s₀ (linkSend s n) := by
  unfold linkSend
  dsimp only
  split
  · exact ite_extends (linkWake_extends (fset_extends (withHif_extends h rfl))) (withHif_extends h rfl)
  · exact linkWake_extends h
  · exact linkWake_extends h
  · exact linkWake_extends h
  · exact h

/-- Host memory stays canonical under what the device writes. -/
theorem hostWrite_extends {s a bs} (h : Safety.extends_ s₀ s) : Safety.extends_ s₀ (hostWrite s a bs) := by
  unfold hostWrite
  refine ite_extends h (extends_of_canonical (linkSend_extends h) rfl rfl rfl ?_)
  exact fun ⟨h1, h2, h3, h4, h5, h6, h7⟩ => ⟨wf_mwrite h1, h2, h3, h4, h5, h6, h7⟩

theorem msixRaise_extends {s f v} (h : Safety.extends_ s₀ s) : Safety.extends_ s₀ (msixRaise s f v) :=
  ite_extends h (ite_extends h (ite_extends (send_extends (linkSend_extends h)) (withHif_extends h rfl)))

theorem raise_extends {s r} (h : Safety.extends_ s₀ s) : Safety.extends_ s₀ (raise s r) := extends_of_canonical h rfl rfl rfl id

theorem raiseBare_extends {s unit st level d} (h : Safety.extends_ s₀ s) : Safety.extends_ s₀ (raiseBare s unit st level d) := raise_extends h

theorem raiseFor_extends {s unit st ctx fn d} (h : Safety.extends_ s₀ s) : Safety.extends_ s₀ (raiseFor s unit st ctx fn d) := raise_extends h

theorem countMismatch_extends {s} (h : Safety.extends_ s₀ s) : Safety.extends_ s₀ (countMismatch s) := fcount_extends h

/-! ### Machine/Mbox -/

theorem chSet_extends {s c word full v7} (h : Safety.extends_ s₀ s) : Safety.extends_ s₀ (chSet s c word full v7) :=
  ite_extends (fset_extends (onCcx_extends h rfl)) (ite_extends (fset_extends (onCcx_extends h rfl)) (fset_extends (rset_extends (onCcx_extends h
    rfl))))

theorem chSenderIrq_extends {s c} (h : Safety.extends_ s₀ s) : Safety.extends_ s₀ (chSenderIrq s c) := by
  unfold chSenderIrq
  split
  · exact ite_extends (msixRaise_extends h) h
  · exact h

theorem chOverrun_extends {s c} (h : Safety.extends_ s₀ s) : Safety.extends_ s₀ (chOverrun s c) :=
  ite_extends (chSenderIrq_extends (fset_extends h)) (ite_extends (chSenderIrq_extends (fset_extends h)) (onCcx_extends h rfl))

theorem chAborted_extends {s c} (h : Safety.extends_ s₀ s) : Safety.extends_ s₀ (chAborted s c) :=
  ite_extends (chSenderIrq_extends (fset_extends h)) (ite_extends (chSenderIrq_extends (fset_extends h)) (onCcx_extends h rfl))

theorem chSend_extends {s c word} (h : Safety.extends_ s₀ s) : Safety.extends_ s₀ (chSend s c word) :=
  ite_extends (ite_extends (chAborted_extends h) h) (ite_extends (chOverrun_extends h) (ite_extends (msixRaise_extends (chSet_extends h))
    (chSet_extends h)))

theorem chEmpty_extends {s c} (h : Safety.extends_ s₀ s) : Safety.extends_ s₀ (chEmpty s c) :=
  ite_extends (chSenderIrq_extends (chSet_extends h)) (chSet_extends h)

theorem chRead_extends {s c} (h : Safety.extends_ s₀ s) : Safety.extends_ s₀ (chRead s c).2 := ite_snd_extends (chEmpty_extends h) h

theorem chReset_extends {s c} (h : Safety.extends_ s₀ s) : Safety.extends_ s₀ (chReset s c) := ite_extends (chAborted_extends (chSet_extends h)) h

theorem notice_extends {s c event arg} (h : Safety.extends_ s₀ s) : Safety.extends_ s₀ (notice s c event arg) :=
  ite_extends (onCcx_extends h rfl) (chSend_extends h)

theorem logLost_extends {s} (h : Safety.extends_ s₀ s) : Safety.extends_ s₀ (logLost s) := notice_extends (fcount_extends h)

theorem logWrite_extends {s m} (h : Safety.extends_ s₀ s) : Safety.extends_ s₀ (logWrite s m) :=
  ite_extends h (ite_extends (msixRaise_extends (fset_extends (hostWrite_extends (ite_extends (logLost_extends h) h)))) (fset_extends
    (hostWrite_extends (ite_extends (logLost_extends h) h))))

theorem logAll_extends {s l} (h : Safety.extends_ s₀ s) : Safety.extends_ s₀ (logAll s l) := foldl_extends (fun _ _ ht => logWrite_extends ht) h

theorem domUp_extends {s d} (h : Safety.extends_ s₀ s) : Safety.extends_ s₀ (domUp s d) := onPwr_extends (fset_extends h)

theorem demand_extends {s d} (h : Safety.extends_ s₀ s) : Safety.extends_ s₀ (demand s d) := by
  unfold demand
  refine ite_extends h ?_
  split
  · exact domUp_extends h
  · exact onPwr_extends h

/-! ### Machine/L2 -/

theorem stackWake_extends {s k} (h : Safety.extends_ s₀ s) : Safety.extends_ s₀ (stackWake s k) :=
  ite_extends (fset_extends (onMem_extends h rfl rfl)) h

theorem hbmStore_extends {s l} (h : Safety.extends_ s₀ s) : Safety.extends_ s₀ (hbmStore s l) :=
  onMem_extends_of_wf h wf_mwrite id

theorem writeBack_extends {s l} (h : Safety.extends_ s₀ s) : Safety.extends_ s₀ (writeBack s l) :=
  ite_extends (hbmStore_extends (stackWake_extends h)) (onMem_extends h rfl rfl)

theorem touch_extends {s la n} (h : Safety.extends_ s₀ s) : Safety.extends_ s₀ (touch s la n) := onMem_extends h rfl rfl

theorem setWay_extends {s n l} (h : Safety.extends_ s₀ s) : Safety.extends_ s₀ (setWay s n l) := onMem_extends h rfl rfl

theorem place_extends {s cls l} (h : Safety.extends_ s₀ s) : Safety.extends_ s₀ (place s cls l) := by
  unfold place
  split
  · exact setWay_extends h
  · split
    · exact ite_extends (writeBack_extends h) h
    · refine setWay_extends ?_
      split
      · exact ite_extends (writeBack_extends h) h
      · exact h

theorem accessed_extends {s la} (h : Safety.extends_ s₀ s) : Safety.extends_ s₀ (accessed s la) := by
  unfold accessed
  split
  · exact touch_extends h
  · exact h

theorem install_extends {s cls l} (h : Safety.extends_ s₀ s) : Safety.extends_ s₀ (install s cls l) := accessed_extends (place_extends h)

theorem fillLine_extends {s cls la} (h : Safety.extends_ s₀ s) : Safety.extends_ s₀ (fillLine s cls la) := by
  unfold fillLine
  split
  · exact h
  · exact place_extends (stackWake_extends h)

theorem fetchLine_extends {s cls la} (h : Safety.extends_ s₀ s) : Safety.extends_ s₀ (fetchLine s cls la) := accessed_extends (fillLine_extends h)

theorem storeLine_extends {s l} (h : Safety.extends_ s₀ s) : Safety.extends_ s₀ (storeLine s l) := by
  unfold storeLine
  split
  · exact setWay_extends h
  · exact writeBack_extends h

theorem devRead_extends {s cls pa n} (h : Safety.extends_ s₀ s) : Safety.extends_ s₀ (devRead s cls pa n).2.2 := by
  unfold devRead
  exact foldl_snd_snd_extends (fun ⟨_, _, _⟩ _ ht => by
      dsimp only
      split
      · exact ht
      · exact ite_extends (countMismatch_extends (fetchLine_extends ht)) (fetchLine_extends ht)) h

theorem writeSegs_extends {s cls la segs bad} (h : Safety.extends_ s₀ s) : Safety.extends_ s₀ (writeSegs s cls la segs bad) :=
  ite_extends (install_extends (ite_extends h (stackWake_extends h))) (ite_extends (storeLine_extends (fetchLine_extends h)) (raiseBare_extends
    (ite_extends (countMismatch_extends (storeLine_extends (fetchLine_extends h))) (storeLine_extends (fetchLine_extends h)))))

theorem writeLine_extends {s cls la off bs bad} (h : Safety.extends_ s₀ s) : Safety.extends_ s₀ (writeLine s cls la off bs bad) :=
  writeSegs_extends h

theorem devWrite_extends {s cls pa bs bad} (h : Safety.extends_ s₀ s) : Safety.extends_ s₀ (devWrite s cls pa bs bad).2 := by
  unfold devWrite
  exact ite_snd_extends h (ite_snd_extends h (foldl_snd_extends (fun ⟨_, _⟩ _ ht => by
      dsimp only
      split
      · exact ht
      · exact writeLine_extends ht) h))

theorem hostLines_extends {s a n} (h : Safety.extends_ s₀ s) : Safety.extends_ s₀ (hostLines s a n).2 :=
  ite_snd_extends (linkSend_extends h) (withHif_extends (linkSend_extends h) rfl)

theorem anyRead_extends {s cls dev a n} (h : Safety.extends_ s₀ s) : Safety.extends_ s₀ (anyRead s cls dev a n).2.2 :=
  ite_snd_snd_extends (devRead_extends h) (ite_extends (countMismatch_extends (hostLines_extends h)) (hostLines_extends h))

theorem anyWrite_extends {s cls dev a bs bad} (h : Safety.extends_ s₀ s) : Safety.extends_ s₀ (anyWrite s cls dev a bs bad).2 :=
  ite_snd_extends (devWrite_extends h) (ite_snd_extends (send_extends (countMismatch_extends h)) (hostWrite_extends h))

theorem devModify_extends {s cls la f} (h : Safety.extends_ s₀ s) : Safety.extends_ s₀ (devModify s cls la f).2.2 := by
  unfold devModify
  dsimp only
  split
  · exact h
  · split
    · exact ite_extends (fetchLine_extends h) (storeLine_extends (fetchLine_extends h))
    · exact ite_extends (countMismatch_extends (fetchLine_extends h)) (fetchLine_extends h)

theorem devAtomic_extends {s cls pa o} (h : Safety.extends_ s₀ s) : Safety.extends_ s₀ (devAtomic s cls pa o).2.2 := devModify_extends h

/-! ### Machine/Xlt -/

theorem cache_extends {s e} (h : Safety.extends_ s₀ s) : Safety.extends_ s₀ (cache s e) := onXlt_extends h

theorem cacheMicro_extends {s engine e} (h : Safety.extends_ s₀ s) : Safety.extends_ s₀ (cacheMicro s engine e) := onXlt_extends h

theorem cacheLeaf_extends {s engine e} (h : Safety.extends_ s₀ s) : Safety.extends_ s₀ (cacheLeaf s engine e) :=
  cacheMicro_extends (cache_extends h)

theorem resolved_extends {s w out dev log2 p l2} (h : Safety.extends_ s₀ s) : Safety.extends_ s₀ (resolved s w out dev log2 p l2).2 := by
  unfold resolved
  dsimp only
  split
  · refine ite_snd_extends h ?_
    split
    · exact h
    · exact ite_extends h (cacheLeaf_extends h)
  · exact ite_snd_extends h (ite_snd_extends h (ite_snd_extends h h))

theorem resolveIpa_extends {s w} (h : Safety.extends_ s₀ s) : Safety.extends_ s₀ (resolveIpa s w).2 := by
  unfold resolveIpa
  dsimp only
  refine ite_snd_extends (ite_snd_extends (ite_snd_extends h (resolved_extends h)) (resolved_extends h)) ?_
  split
  · exact resolved_extends h
  · exact h

theorem stage1Table_extends {s w level table g64} (h : Safety.extends_ s₀ s) : Safety.extends_ s₀ (stage1Table s w level table g64).2 :=
  resolveIpa_extends h

theorem walkWord_extends {s w v v2} (h : Safety.extends_ s₀ s) : Safety.extends_ s₀ (walkWord s w v v2).2 := by
  unfold walkWord
  dsimp only
  split
  · exact ite_snd_extends (fcount_extends h) (ite_snd_extends (fcount_extends h) (ite_snd_extends (ite_extends (fcount_extends h) (cache_extends
      (fcount_extends h))) (resolved_extends (ite_extends (fcount_extends h) (cache_extends (fcount_extends h))))))
  · split
    · exact ite_snd_extends (fcount_extends h) (ite_snd_extends (fcount_extends h) (stage1Table_extends (ite_extends (fcount_extends h)
        (cache_extends (fcount_extends h)))))
    · exact ite_snd_extends (fcount_extends h) (ite_snd_extends (fcount_extends h) (ite_snd_extends (stage1Table_extends (ite_extends
        (fcount_extends h) (cache_extends (fcount_extends h)))) (resolveIpa_extends (fcount_extends h))))
    · exact fcount_extends h

theorem walkStart_extends {s r} (h : Safety.extends_ s₀ s) : Safety.extends_ s₀ (walkStart s r).2 := by
  unfold walkStart
  dsimp only
  split
  · exact stage1Table_extends h
  · split
    · exact stage1Table_extends h
    · split
      · exact stage1Table_extends h
      · split
        · exact stage1Table_extends h
        · exact resolveIpa_extends h

theorem walkRun_extends {n p} (h : Safety.extends_ s₀ p.2) : Safety.extends_ s₀ (walkRun n p).2 := by
  induction n generalizing p with
  | zero => exact h
  | succ n ih =>
    unfold walkRun
    dsimp only
    split
    · exact fcount_extends h
    · exact ite_snd_extends (hostLines_extends h) (ih (walkWord_extends h))

theorem leafHit_extends {s r} (h : Safety.extends_ s₀ s) : Safety.extends_ s₀ (leafHit s r).2 := by
  unfold leafHit
  split
  · exact h
  · split
    · exact cacheMicro_extends h
    · exact h

theorem atsWhole_extends {r a} (h : Safety.extends_ s₀ a.2) : Safety.extends_ s₀ (atsWhole r a).2 := by
  unfold atsWhole
  dsimp only
  split
  · refine ite_snd_extends h ?_
    split
    · exact h
    · exact ite_snd_extends h (send_extends (onXlt_extends h))
  · exact h

theorem translate_extends {s r} (h : Safety.extends_ s₀ s) : Safety.extends_ s₀ (translate s r).2 := by
  unfold Machine.translate
  dsimp only
  split
  · exact h
  · refine atsWhole_extends ?_
    split
    · rename_i hp
      have hu := extends_of_eq_mk hp (leafHit_extends (ite_extends (onXlt_extends h) h))
      exact hu
    · rename_i hp
      have hu := extends_of_eq_mk hp (leafHit_extends (ite_extends (onXlt_extends h) h))
      exact walkRun_extends (walkStart_extends hu)

theorem displayStep_extends {s k} (h : Safety.extends_ s₀ s) (hk : Safety.extends_ s₀ (k s)) :
    Safety.extends_ s₀ (displayStep s k) := ite_extends h hk

theorem closeBatch_extends {s f} (h : Safety.extends_ s₀ s) : Safety.extends_ s₀ (closeBatch s f) := by
  unfold closeBatch
  dsimp only
  split
  · exact h
  · exact msixRaise_extends (onXlt_extends (fset_extends (foldl_extends (fun _ _ ht => ite_extends ht (hostWrite_extends ht)) h)))

theorem fltRing_extends {s r st reason addr access level} (h : Safety.extends_ s₀ s) :
    Safety.extends_ s₀ (fltRing s r st reason addr access level).2 := by
  have hclosed : Safety.extends_ s₀ (match tget s.xlt.batches r.vm with
      | some b => if b.start + 20000 ≤ s.time then closeBatch s r.vm else s
      | none => s) := by
    split
    · exact ite_extends (closeBatch_extends h) h
    · exact h
  unfold fltRing
  dsimp only
  refine ite_snd_extends h ?_
  refine ite_snd_extends (onXlt_extends hclosed) (ite_snd_extends (fcount_extends (fset_extends hclosed)) ?_)
  exact ite_extends (closeBatch_extends (onXlt_extends (hostWrite_extends hclosed))) (onXlt_extends (hostWrite_extends hclosed))

theorem xltFault_extends {s r x} (h : Safety.extends_ s₀ s) : Safety.extends_ s₀ (xltFault s r x) := by
  unfold xltFault
  dsimp only
  split
  · exact h
  · exact raise_extends (fltRing_extends h)

theorem setDirty_extends {s lo} (h : Safety.extends_ s₀ s) : Safety.extends_ s₀ (setDirty s lo) := devWrite_extends (devRead_extends h)

theorem failedAt_extends {s a} (h : Safety.extends_ s₀ s) : Safety.extends_ s₀ (failedAt s a) := onXlt_extends h

theorem vread_extends {s engine cls vm asid ctx va n acc} (h : Safety.extends_ s₀ s) :
    Safety.extends_ s₀ (vread s engine cls vm asid ctx va n acc).2.2 := by
  unfold vread
  exact foldl_snd_snd_extends (fun ⟨_, _, _⟩ _ ht => by
      dsimp only
      refine ite_snd_snd_extends ht ?_
      split
      · rename_i hp1
        have hu1 := extends_of_eq_mk hp1 (translate_extends ht)
        exact ite_extends (anyRead_extends hu1) (failedAt_extends (anyRead_extends hu1))
      · rename_i hp1
        have hu1 := extends_of_eq_mk hp1 (translate_extends ht)
        exact failedAt_extends (xltFault_extends hu1)) h

theorem vwrite_extends {s engine cls vm asid ctx va bs bad} (h : Safety.extends_ s₀ s) :
    Safety.extends_ s₀ (vwrite s engine cls vm asid ctx va bs bad).2 := by
  unfold vwrite
  exact foldl_snd_extends (fun ⟨_, _⟩ _ ht => by
      dsimp only
      refine ite_snd_extends ht ?_
      split
      · rename_i hp1
        have hu1 := extends_of_eq_mk hp1 (translate_extends ht)
        exact ite_snd_extends (failedAt_extends (xltFault_extends hu1)) (ite_extends (foldl_extends (fun _ _ ht2 => setDirty_extends ht2)
          (anyWrite_extends hu1)) (failedAt_extends (anyWrite_extends hu1)))
      · rename_i hp1
        have hu1 := extends_of_eq_mk hp1 (translate_extends ht)
        exact failedAt_extends (xltFault_extends hu1)) h

theorem vline_extends {s engine cls vm asid ctx va} (h : Safety.extends_ s₀ s) : Safety.extends_ s₀ (vline s engine cls vm asid ctx va).2.2.2 := by
  unfold vline
  dsimp only
  split
  · rename_i hp
    have hu := extends_of_eq_mk hp (translate_extends h)
    split
    · exact failedAt_extends hu
    · exact ite_extends (failedAt_extends (fetchLine_extends hu)) (fetchLine_extends hu)
  · rename_i hp
    have hu := extends_of_eq_mk hp (translate_extends h)
    exact hostLines_extends hu
  · rename_i hp
    have hu := extends_of_eq_mk hp (translate_extends h)
    exact failedAt_extends (xltFault_extends hu)

theorem vstore_extends {s engine cls vm asid ctx va segs} (h : Safety.extends_ s₀ s) :
    Safety.extends_ s₀ (vstore s engine cls vm asid ctx va segs).2 := by
  unfold vstore
  dsimp only
  split
  · rename_i hp
    have hu := extends_of_eq_mk hp (translate_extends h)
    refine ite_snd_extends (failedAt_extends (xltFault_extends hu)) ?_
    refine ite_snd_extends (foldl_extends (fun _ _ ht1 => hostWrite_extends ht1) hu) ?_
    split
    · exact failedAt_extends hu
    · exact foldl_extends (fun _ _ ht1 => foldl_extends (fun _ _ ht2 => setDirty_extends ht2) ht1) (ite_extends hu (writeSegs_extends hu))
  · rename_i hp
    have hu := extends_of_eq_mk hp (translate_extends h)
    exact failedAt_extends (xltFault_extends hu)

theorem vmodify_extends {s engine cls vm asid ctx va spans f acc} (h : Safety.extends_ s₀ s) :
    Safety.extends_ s₀ (vmodify s engine cls vm asid ctx va spans f acc).2.2 := by
  unfold vmodify
  dsimp only
  split
  · rename_i hp
    have hu := extends_of_eq_mk hp (translate_extends h)
    exact ite_snd_snd_extends (failedAt_extends (xltFault_extends hu)) (ite_snd_snd_extends (ite_snd_snd_extends (failedAt_extends
      (countMismatch_extends (hostLines_extends hu))) (foldl_extends (fun _ _ ht1 => hostWrite_extends ht1) (hostLines_extends hu))) (ite_extends
      (foldl_extends (fun _ _ ht1 => foldl_extends (fun _ _ ht2 => setDirty_extends ht2) ht1) (devModify_extends hu)) (failedAt_extends
      (devModify_extends hu))))
  · rename_i hp
    have hu := extends_of_eq_mk hp (translate_extends h)
    exact failedAt_extends (xltFault_extends hu)

theorem ipaTarget_extends {s vm ipa acc} (h : Safety.extends_ s₀ s) : Safety.extends_ s₀ (ipaTarget s vm ipa acc).2 := by
  unfold ipaTarget
  dsimp only
  refine ite_snd_extends h ?_
  split
  · rename_i hp
    have hu := extends_of_eq_mk hp (resolveIpa_extends h)
    exact hu
  · rename_i hp
    have hu := extends_of_eq_mk hp (resolveIpa_extends h)
    exact walkRun_extends hu

theorem tableTarget_extends {n p} (h : Safety.extends_ s₀ p.2) : Safety.extends_ s₀ (tableTarget n p).2 := by
  induction n generalizing p with
  | zero => exact h
  | succ n ih =>
    unfold tableTarget
    dsimp only
    split
    · exact h
    · exact ite_snd_extends h (ite_snd_extends (hostLines_extends h) (ih (walkWord_extends h)))

theorem ipaRead_extends {s vm ipa n} (h : Safety.extends_ s₀ s) : Safety.extends_ s₀ (ipaRead s vm ipa n).2.2 := by
  unfold ipaRead
  exact foldl_snd_snd_extends (fun ⟨_, _, _⟩ _ ht => by
      dsimp only
      refine ite_snd_snd_extends ht ?_
      split
      · rename_i hp1
        have hu1 := extends_of_eq_mk hp1 (ipaTarget_extends ht)
        exact ite_extends (anyRead_extends hu1) (failedAt_extends (anyRead_extends hu1))
      · rename_i hp1
        have hu1 := extends_of_eq_mk hp1 (ipaTarget_extends ht)
        exact failedAt_extends (xltFault_extends hu1)) h

theorem xAnswer_extends {s r x} (h : Safety.extends_ s₀ s) : Safety.extends_ s₀ (xAnswer s r x) := onXlt_extends (xltFault_extends h)

theorem atsStep_extends {s r x} (h : Safety.extends_ s₀ s) : Safety.extends_ s₀ (atsStep s r x) := by
  unfold atsStep
  split
  · refine ite_extends ?_ (xAnswer_extends h)
    split
    · exact xAnswer_extends h
    · exact send_extends (onXlt_extends h)
  · exact xAnswer_extends h

theorem parityDrop_extends {s engine micro tc} (h : Safety.extends_ s₀ s) : Safety.extends_ s₀ (parityDrop s engine micro tc) :=
  ite_extends h (fcount_extends (onXlt_extends h))

theorem translationLookup_extends {r micro tc s} (h : Safety.extends_ s₀ s) : Safety.extends_ s₀ (translationLookup r micro tc s) := by
  unfold translationLookup
  dsimp only
  refine ite_extends h ?_
  split
  · exact xAnswer_extends h
  · split
    · rename_i hp
      have hu := extends_of_eq_mk hp (leafHit_extends (parityDrop_extends h))
      exact atsStep_extends hu
    · rename_i hp
      have hu := extends_of_eq_mk hp (leafHit_extends (parityDrop_extends h))
      refine ite_extends (onXlt_extends hu) ?_
      split
      · rename_i hp1
        have hu1 := extends_of_eq_mk hp1 (walkStart_extends hu)
        exact onXlt_extends hu1
      · rename_i hp1
        have hu1 := extends_of_eq_mk hp1 (walkStart_extends hu)
        exact atsStep_extends (fcount_extends hu1)

theorem walkEnd_extends {s w x} (h : Safety.extends_ s₀ s) : Safety.extends_ s₀ (walkEnd s w x) := by
  unfold walkEnd
  exact foldl_extends (fun _ _ ht => by
      refine ite_extends ?_ (atsStep_extends (translate_extends ht))
      split
      · exact atsStep_extends ht
      · exact xAnswer_extends ht) (atsStep_extends (fcount_extends h))

theorem walkReadDone_extends {n error s} (h : Safety.extends_ s₀ s) : Safety.extends_ s₀ (walkReadDone n error s) := by
  unfold walkReadDone
  dsimp only
  split
  · exact h
  · refine ite_extends (walkEnd_extends (onXlt_extends h)) ?_
    split
    · rename_i hp
      have hu := extends_of_eq_mk hp (walkWord_extends h)
      exact onXlt_extends hu
    · rename_i hp
      have hu := extends_of_eq_mk hp (walkWord_extends h)
      exact walkEnd_extends (onXlt_extends hu)

theorem faultBatchClose_extends {f s} (h : Safety.extends_ s₀ s) : Safety.extends_ s₀ (faultBatchClose f s) := by
  unfold faultBatchClose
  split
  · exact ite_extends (closeBatch_extends h) h
  · exact h

theorem atsTranslationCompletion_extends {f page ok out p s} (h : Safety.extends_ s₀ s) :
    Safety.extends_ s₀ (atsTranslationCompletion f page ok out p s) := by
  unfold atsTranslationCompletion
  dsimp only
  split
  · exact ite_extends h (ite_extends (cache_extends (onXlt_extends h)) (onXlt_extends h))
  · exact ite_extends (xAnswer_extends (onXlt_extends h)) (xAnswer_extends (cache_extends (onXlt_extends h)))

theorem invRequest_extends {s i} (h : Safety.extends_ s₀ s) : Safety.extends_ s₀ (invRequest s i) := onXlt_extends h

theorem invSweep_extends {s o} (h : Safety.extends_ s₀ s) : Safety.extends_ s₀ (invSweep s o) := onXlt_extends h

theorem invPost_extends {s i} (h : Safety.extends_ s₀ s) : Safety.extends_ s₀ (invPost s i) := by
  unfold invPost
  dsimp only
  split
  · exact rset_extends (onXlt_extends h)
  · exact send_extends (onXlt_extends h)
  · exact onXlt_extends h

theorem invResult_extends {s f st} (h : Safety.extends_ s₀ s) : Safety.extends_ s₀ (invResult s f st) := rset_extends h

theorem invBusy_extends {s f} (h : Safety.extends_ s₀ s) : Safety.extends_ s₀ (invBusy s f) := fset_extends h

theorem xltInvRange_extends {f asid s} (h : Safety.extends_ s₀ s) : Safety.extends_ s₀ (xltInvRange f asid s) :=
  ite_extends h (ite_extends (invResult_extends h) (ite_extends (invResult_extends h) (ite_extends (invResult_extends h) (ite_extends
    (invRequest_extends (invBusy_extends h)) (invRequest_extends (invBusy_extends h))))))

theorem xltInvTag_extends {f asid s} (h : Safety.extends_ s₀ s) : Safety.extends_ s₀ (xltInvTag f asid s) :=
  ite_extends h (ite_extends (invRequest_extends (invBusy_extends h)) (invRequest_extends (invBusy_extends h)))

theorem xltInvVmAll_extends {f vm s} (h : Safety.extends_ s₀ s) : Safety.extends_ s₀ (xltInvVmAll f vm s) :=
  ite_extends h (ite_extends (invResult_extends h) (invRequest_extends (invBusy_extends h)))

theorem xltInvUndefinedOp_extends {f s} (h : Safety.extends_ s₀ s) : Safety.extends_ s₀ (xltInvUndefinedOp f s) :=
  ite_extends h (invResult_extends h)

theorem atsInvalidationRequest_extends {f start len tag s} (h : Safety.extends_ s₀ s) :
    Safety.extends_ s₀ (atsInvalidationRequest f start len tag s) := invRequest_extends h

theorem invalidationGrant_extends {n s} (h : Safety.extends_ s₀ s) : Safety.extends_ s₀ (invalidationGrant n s) := by
  unfold invalidationGrant
  dsimp only
  split
  · exact ite_extends (invPost_extends (onXlt_extends (invSweep_extends h))) (onXlt_extends (invSweep_extends h))
  · exact h

theorem invalidationEngineAck_extends {e s} (h : Safety.extends_ s₀ s) : Safety.extends_ s₀ (invalidationEngineAck e s) := by
  unfold invalidationEngineAck
  dsimp only
  split
  · exact h
  · exact ite_extends (invPost_extends (onXlt_extends h)) (onXlt_extends h)

theorem xltVmCfgWrite_extends {v value s} (h : Safety.extends_ s₀ s) : Safety.extends_ s₀ (xltVmCfgWrite v value s) :=
  ite_extends (rset_extends h) (invRequest_extends (invSweep_extends (rset_extends h)))

theorem protectedWrite_extends {s addr} (h : Safety.extends_ s₀ s) : Safety.extends_ s₀ (protectedWrite s addr) := raiseBare_extends h

/-! ### Machine/Fe -/

theorem onQueue_extends {s i f} (h : Safety.extends_ s₀ s) : Safety.extends_ s₀ (onQueue s i f) := onFe_extends h

theorem commandRecord_extends {s i q st seq op sub index addr} (h : Safety.extends_ s₀ s) :
    Safety.extends_ s₀ (commandRecord s i q st seq op sub index addr) := raise_extends h

theorem stopNoEntry_extends {s i st addr} (h : Safety.extends_ s₀ s) : Safety.extends_ s₀ (stopNoEntry s i st addr) := by
  unfold stopNoEntry
  dsimp only
  split
  · exact h
  · exact onQueue_extends (commandRecord_extends h)

theorem writeFault_extends {s i st addr} (h : Safety.extends_ s₀ s) : Safety.extends_ s₀ (writeFault s i st addr) := by
  unfold writeFault
  split
  · exact h
  · exact ite_extends (commandRecord_extends h) (stopNoEntry_extends h)

theorem onEntry_extends {s i seq f} (h : Safety.extends_ s₀ s) : Safety.extends_ s₀ (onEntry s i seq f) := onQueue_extends h

theorem entryFail_extends {s i seq st addr index} (h : Safety.extends_ s₀ s) : Safety.extends_ s₀ (entryFail s i seq st addr index) := by
  unfold entryFail
  dsimp only
  split
  · exact h
  · exact onQueue_extends (onEntry_extends (commandRecord_extends h))

theorem drainCheck_extends {s i} (h : Safety.extends_ s₀ s) : Safety.extends_ s₀ (drainCheck s i) := onQueue_extends h

theorem entryEnd_extends {s i seq st addr index} (h : Safety.extends_ s₀ s) : Safety.extends_ s₀ (entryEnd s i seq st addr index) := by
  unfold entryEnd
  dsimp only
  split
  · exact h
  · exact drainCheck_extends (ite_extends (onEntry_extends h) (ite_extends (onQueue_extends (onEntry_extends h)) (entryFail_extends h)))

theorem endBare_extends {s t st addr index} (h : Safety.extends_ s₀ s) : Safety.extends_ s₀ (endBare s t st addr index) := by
  unfold endBare
  dsimp only
  split
  · exact h
  · split
    · exact entryEnd_extends (onFe_extends h)
    · exact ite_extends h (onFe_extends h)

theorem waitsReached_extends {s i} (h : Safety.extends_ s₀ s) : Safety.extends_ s₀ (waitsReached s i) := by
  unfold waitsReached
  split
  · exact h
  · exact foldl_extends (fun _ _ ht => endBare_extends ht) h

theorem waitsAbandoned_extends {s i} (h : Safety.extends_ s₀ s) : Safety.extends_ s₀ (waitsAbandoned s i) :=
  foldl_extends (fun _ _ ht => endBare_extends ht) h

theorem feWrite_extends {s q va bs} (h : Safety.extends_ s₀ s) : Safety.extends_ s₀ (feWrite s q va bs).2 := vwrite_extends h

theorem feRead_extends {s q va n} (h : Safety.extends_ s₀ s) : Safety.extends_ s₀ (feRead s q va n).2.2 := vread_extends h

theorem fenceWrite_extends {s i cookie seq st kind} (h : Safety.extends_ s₀ s) : Safety.extends_ s₀ (fenceWrite s i cookie seq st kind) := by
  unfold fenceWrite
  dsimp only
  split
  · exact h
  · exact ite_extends (onQueue_extends (feWrite_extends h)) (stopNoEntry_extends (feWrite_extends h))

theorem tailWrite_extends {s i} (h : Safety.extends_ s₀ s) : Safety.extends_ s₀ (tailWrite s i) := by
  unfold tailWrite
  dsimp only
  split
  · exact h
  · exact ite_extends (feWrite_extends h) (stopNoEntry_extends (feWrite_extends h))

theorem seqWritten_extends {s i v} (h : Safety.extends_ s₀ s) : Safety.extends_ s₀ (seqWritten s i v) := onQueue_extends h

theorem writeOwed_extends {i l s} (h : Safety.extends_ s₀ s) : Safety.extends_ s₀ (writeOwed i l s) := by
  induction l generalizing s with
  | nil => exact h
  | cons e l ih =>
    unfold writeOwed
    dsimp only
    split
    · exact h
    · exact ite_extends (onQueue_extends h) (ite_extends (onQueue_extends (fenceWrite_extends h)) (ih (fenceWrite_extends h)))

theorem coverRun_extends {i run s} (h : Safety.extends_ s₀ s) : Safety.extends_ s₀ (coverRun i run s) := by
  unfold coverRun
  dsimp only
  split
  · exact h
  · exact ite_extends (writeFault_extends (feWrite_extends h)) (waitsReached_extends (ite_extends (msixRaise_extends (ite_extends (ite_extends
      (onQueue_extends (onQueue_extends (seqWritten_extends (feWrite_extends h)))) (writeOwed_extends (onQueue_extends (seqWritten_extends
      (feWrite_extends h))))) (msixRaise_extends (tailWrite_extends (ite_extends (onQueue_extends (onQueue_extends (seqWritten_extends
      (feWrite_extends h)))) (writeOwed_extends (onQueue_extends (seqWritten_extends (feWrite_extends h))))))))) (ite_extends (ite_extends
      (onQueue_extends (onQueue_extends (seqWritten_extends (feWrite_extends h)))) (writeOwed_extends (onQueue_extends (seqWritten_extends
      (feWrite_extends h))))) (msixRaise_extends (tailWrite_extends (ite_extends (onQueue_extends (onQueue_extends (seqWritten_extends
      (feWrite_extends h)))) (writeOwed_extends (onQueue_extends (seqWritten_extends (feWrite_extends h))))))))))

theorem completionWrite_extends {i s} (h : Safety.extends_ s₀ s) : Safety.extends_ s₀ (completionWrite i s) := by
  unfold completionWrite
  split
  · exact h
  · exact ite_extends h (coverRun_extends h)

theorem qResult_extends {s f st hd} (h : Safety.extends_ s₀ s) : Safety.extends_ s₀ (qResult s f st hd) := rset_extends h

theorem resumeAt_extends {s i n} (h : Safety.extends_ s₀ s) : Safety.extends_ s₀ (resumeAt s i n) := onQueue_extends h

theorem notifyScheduler_extends {s} (h : Safety.extends_ s₀ s) : Safety.extends_ s₀ (notifyScheduler s) := by
  unfold notifyScheduler
  refine ite_extends h ?_
  split
  · exact h
  · exact chSend_extends (onQueue_extends h)

theorem dbFenceCi_extends {f i ci s} (h : Safety.extends_ s₀ s) : Safety.extends_ s₀ (dbFenceCi f i ci s) := by
  unfold dbFenceCi
  split
  · exact h
  · exact ite_extends (onQueue_extends h) h

theorem oResult_extends {s f st hd} (h : Safety.extends_ s₀ s) : Safety.extends_ s₀ (oResult s f st hd) := rset_extends h

/-! ### Machine/Memory -/

theorem answer_extends {s id st bs} (h : Safety.extends_ s₀ s) : Safety.extends_ s₀ (answer s id st bs) := onMem_extends h rfl rfl

theorem missBusy_extends {s slice} (h : Safety.extends_ s₀ s) : Safety.extends_ s₀ (missBusy s slice) := fset_extends h

theorem serve_extends {s r} (h : Safety.extends_ s₀ s) : Safety.extends_ s₀ (serve s r) := by
  unfold serve
  dsimp only
  split
  · exact answer_extends (devRead_extends h)
  · exact answer_extends (devWrite_extends h)
  · exact answer_extends (devAtomic_extends h)

theorem wayError_extends {s la n e} (h : Safety.extends_ s₀ s) : Safety.extends_ s₀ (wayError s la n e) := by
  unfold wayError
  dsimp only
  split
  · exact h
  · exact fcount_extends h
  · exact fcount_extends (onMem_extends h rfl rfl)
  · split
    · exact ite_extends (raise_extends (fcount_extends (onMem_extends h rfl rfl))) (fcount_extends (onMem_extends h rfl rfl))
    · exact h

theorem pcAdmit_extends {s c} (h : Safety.extends_ s₀ s) : Safety.extends_ s₀ (pcAdmit s c) := onMem_extends h rfl rfl

theorem pcServe_extends {s la} (h : Safety.extends_ s₀ s) : Safety.extends_ s₀ (pcServe s la) := onMem_extends h rfl rfl

theorem lookup_extends {s r e} (h : Safety.extends_ s₀ s) : Safety.extends_ s₀ (lookup s r e) := by
  have hway {la : Nat} {w : Option Nat} : Safety.extends_ s₀ (match w with | some n => wayError s la n e | none => s) := by
    split
    · exact wayError_extends h
    · exact h
  unfold lookup
  dsimp only
  split
  · exact answer_extends h
  · refine ite_extends (onMem_extends h rfl rfl) ?_
    split
    · exact ite_extends (onMem_extends h rfl rfl) (onMem_extends h rfl rfl)
    · refine ite_extends (serve_extends hway) (ite_extends ?_ (onMem_extends hway rfl rfl))
      exact pcAdmit_extends (missBusy_extends (onMem_extends hway rfl rfl))

theorem retryHeld_extends {s p} (h : Safety.extends_ s₀ s) : Safety.extends_ s₀ (retryHeld s p) :=
  foldl_extends (fun _ _ ht => lookup_extends ht) (onMem_extends h rfl rfl)

theorem l2RequestLookup_extends {r e s} (h : Safety.extends_ s₀ s) : Safety.extends_ s₀ (l2RequestLookup r e s) := lookup_extends h

theorem catchUp_extends {s k} (h : Safety.extends_ s₀ s) : Safety.extends_ s₀ (catchUp s k) := ite_extends h (onMem_extends h rfl rfl)

theorem l2MissFill_extends {la rep s} (h : Safety.extends_ s₀ s) : Safety.extends_ s₀ (l2MissFill la rep s) := by
  unfold l2MissFill
  dsimp only
  split
  · exact h
  · refine ite_extends h ?_
    refine catchUp_extends ?_
    refine retryHeld_extends ?_
    refine pcAdmit_extends ?_
    refine missBusy_extends ?_
    refine onMem_extends ?_ rfl rfl
    refine foldl_extends (fun _ _ ht => serve_extends ht) ?_
    refine fillLine_extends ?_
    split
    · exact pcServe_extends h
    · exact fcount_extends (pcServe_extends h)
    · exact rset_extends (fcount_extends (onMem_extends (pcServe_extends h) rfl rfl))

theorem hbmRefresh_extends {k s} (h : Safety.extends_ s₀ s) : Safety.extends_ s₀ (hbmRefresh k s) := onMem_extends h rfl rfl

theorem hbmSelfRefreshEntry_extends {k s} (h : Safety.extends_ s₀ s) : Safety.extends_ s₀ (hbmSelfRefreshEntry k s) :=
  ite_extends (fset_extends (onMem_extends h rfl rfl)) h

theorem hbmSelfRefreshExit_extends {k s} (h : Safety.extends_ s₀ s) : Safety.extends_ s₀ (hbmSelfRefreshExit k s) :=
  ite_extends (stackWake_extends h) h

theorem l2InvalidateDone_extends {slice s} (h : Safety.extends_ s₀ s) : Safety.extends_ s₀ (l2InvalidateDone slice s) :=
  ite_extends (retryHeld_extends (fset_extends h)) h

theorem maintWay_extends {op x k} (h : Safety.extends_ s₀ x.2) : Safety.extends_ s₀ (maintWay op x k).2 := by
  unfold maintWay
  dsimp only
  split
  · exact h
  · exact ite_snd_extends (onMem_extends (ite_extends (writeBack_extends h) h) rfl rfl) (onMem_extends (ite_extends (writeBack_extends h) h) rfl
      rfl)

theorem maintWays_extends {s op p} (h : Safety.extends_ s₀ s) : Safety.extends_ s₀ (maintWays s op p).2 :=
  foldl_snd_extends (fun ⟨_, _⟩ _ ht => maintWay_extends ht) h

theorem maintain_extends {op scope s} (h : Safety.extends_ s₀ s) : Safety.extends_ s₀ (maintain op scope s) := by
  unfold maintain
  dsimp only
  refine ite_extends h ?_
  split
  · exact rset_extends h
  · exact ite_extends (rset_extends h) (rset_extends (onMem_extends (maintWays_extends h) rfl rfl))

theorem l2MaintClean_extends {scope s} (h : Safety.extends_ s₀ s) : Safety.extends_ s₀ (l2MaintClean scope s) := maintain_extends h

theorem l2MaintInvalidate_extends {scope s} (h : Safety.extends_ s₀ s) : Safety.extends_ s₀ (l2MaintInvalidate scope s) := maintain_extends h

theorem l2MaintCleanInvalidate_extends {scope s} (h : Safety.extends_ s₀ s) : Safety.extends_ s₀ (l2MaintCleanInvalidate scope s) :=
  maintain_extends h

theorem l2MaintUndefinedOp_extends {op scope s} (h : Safety.extends_ s₀ s) : Safety.extends_ s₀ (l2MaintUndefinedOp op scope s) :=
  ite_extends (maintain_extends h) h

theorem l2MaintDone_extends {s} (h : Safety.extends_ s₀ s) : Safety.extends_ s₀ (l2MaintDone s) := by
  unfold l2MaintDone
  dsimp only
  split
  · exact h
  · exact ite_extends h (onMem_extends (fset_extends (fset_extends h)) rfl rfl)

theorem chargeBlocked_extends {s ctx aggressor n} (h : Safety.extends_ s₀ s) : Safety.extends_ s₀ (chargeBlocked s ctx aggressor n) :=
  ite_extends h (onIntf_extends h)

theorem onArb_extends {s k f} (h : Safety.extends_ s₀ s) : Safety.extends_ s₀ (onArb s k f) := onMem_extends h rfl rfl

theorem arbiterGrant_extends {kind inst asks s} (h : Safety.extends_ s₀ s) : Safety.extends_ s₀ (arbiterGrant kind inst asks s) := by
  unfold arbiterGrant
  dsimp only
  split
  · exact onArb_extends h
  · exact foldl_extends (fun _ _ ht => chargeBlocked_extends ht) (onArb_extends h)

theorem arbiterRevoke_extends {kind inst unit beats s} (h : Safety.extends_ s₀ s) : Safety.extends_ s₀ (arbiterRevoke kind inst unit beats s) := by
  unfold arbiterRevoke
  dsimp only
  split
  · exact h
  · exact ite_extends h (chargeBlocked_extends (onArb_extends h))

theorem arbiterWatchdog_extends {kind inst s} (h : Safety.extends_ s₀ s) : Safety.extends_ s₀ (arbiterWatchdog kind inst s) := by
  unfold arbiterWatchdog
  dsimp only
  split
  · exact h
  · exact ite_extends h (raiseBare_extends (rset_extends (onArb_extends h)))

/-! ### Machine/Sched -/

theorem onTask_extends {s t f} (h : Safety.extends_ s₀ s) : Safety.extends_ s₀ (onTask s t f) := onFe_extends h

theorem serveTurn_extends {s e turn} (h : Safety.extends_ s₀ s) : Safety.extends_ s₀ (serveTurn s e turn) := onFe_extends h

theorem chargeLosers_extends {s e t k p} (h : Safety.extends_ s₀ s) : Safety.extends_ s₀ (chargeLosers s e t k p) :=
  foldl_extends (fun _ _ ht => chargeBlocked_extends ht) h

theorem itemDone_extends {s t i} (h : Safety.extends_ s₀ s) : Safety.extends_ s₀ (itemDone s t i) := onTask_extends h

theorem itemSaved_extends {s t i} (h : Safety.extends_ s₀ s) : Safety.extends_ s₀ (itemSaved s t i) := onTask_extends h

theorem taskFail_extends {s t st addr} (h : Safety.extends_ s₀ s) : Safety.extends_ s₀ (taskFail s t st addr) := onTask_extends h

theorem onPass_extends {s p f} (h : Safety.extends_ s₀ s) : Safety.extends_ s₀ (onPass s p f) := onGfx_extends h

theorem passFail_extends {s p st addr} (h : Safety.extends_ s₀ s) : Safety.extends_ s₀ (passFail s p st addr) :=
  onPass_extends (foldl_extends (fun _ _ ht => onTask_extends ht) h)

theorem busySteps_extends {s c e n} (h : Safety.extends_ s₀ s) : Safety.extends_ s₀ (busySteps s c e n) := onIntf_extends (onFe_extends h)

theorem bumpVersion_extends {s o} (h : Safety.extends_ s₀ s) : Safety.extends_ s₀ (bumpVersion s o) := onGfx_extends h

theorem bumpFor_extends {s k} (h : Safety.extends_ s₀ s) : Safety.extends_ s₀ (bumpFor s k) := by
  unfold bumpFor
  exact foldl_extends (fun _ _ ht => by
      split
      · exact bumpVersion_extends ht
      · exact ht) h

theorem copyLines_extends {k eng src dst n s} (h : Safety.extends_ s₀ s) : Safety.extends_ s₀ (copyLines k eng src dst n s).2 := by
  induction n generalizing src dst s with
  | zero => exact h
  | succ n ih =>
    unfold copyLines
    exact ite_snd_extends (vline_extends h) (ite_snd_extends (vwrite_extends (vline_extends h)) (ih (vwrite_extends (vline_extends h))))

theorem copyChunk_extends {s k i} (h : Safety.extends_ s₀ s) : Safety.extends_ s₀ (copyChunk s k i).2 :=
  ite_snd_extends (vwrite_extends h) (ite_snd_extends (copyLines_extends h) (ite_snd_extends (vread_extends h) (vwrite_extends (vread_extends h))))

/-! ### Machine/Shader -/

theorem onBlock_extends {s b f} (h : Safety.extends_ s₀ s) : Safety.extends_ s₀ (onBlock s b f) := onSc_extends h

theorem onGroup_extends {s b slot f} (h : Safety.extends_ s₀ s) : Safety.extends_ s₀ (onGroup s b slot f) := onBlock_extends h

theorem onEngine_extends {s e f} (h : Safety.extends_ s₀ s) : Safety.extends_ s₀ (onEngine s e f) := onSc_extends h

theorem readProg_extends {s fn asid ctx o} (h : Safety.extends_ s₀ s) : Safety.extends_ s₀ (readProg s fn asid ctx o).2.2 := vread_extends h

theorem enterBlock_extends {s b k} (h : Safety.extends_ s₀ s) : Safety.extends_ s₀ (enterBlock s b k) := by
  unfold enterBlock
  dsimp only
  split
  · exact onEngine_extends (onSc_extends h)
  · exact onSc_extends h

theorem newBlock_extends {s k} (h : Safety.extends_ s₀ s) : Safety.extends_ s₀ (newBlock s k).2 := enterBlock_extends (onSc_extends h)

theorem setOvf_extends {s c l} (h : Safety.extends_ s₀ s) : Safety.extends_ s₀ (setOvf s c l) := onSc_extends h

theorem coreClear_extends {s c} (h : Safety.extends_ s₀ s) : Safety.extends_ s₀ (coreClear s c) := onSc_extends h

theorem ovfWrite_extends {s c l} (h : Safety.extends_ s₀ s) : Safety.extends_ s₀ (ovfWrite s c l).2 := ite_snd_extends h (vstore_extends h)

theorem ovfFlush_extends {s c p} (h : Safety.extends_ s₀ s) : Safety.extends_ s₀ (ovfFlush s c p).2 :=
  setOvf_extends (foldl_snd_snd_extends (fun ⟨_, _, _⟩ _ ht => ite_snd_snd_extends (ovfWrite_extends ht) ht) h)

theorem ovfLeave_extends {s c p} (h : Safety.extends_ s₀ s) : Safety.extends_ s₀ (ovfLeave s c p) := ite_extends h (setOvf_extends h)

theorem flushPriv_extends {s b k g} (h : Safety.extends_ s₀ s) : Safety.extends_ s₀ (flushPriv s b k g).2 := ovfLeave_extends (ovfFlush_extends h)

theorem freeParks_extends {s k} (h : Safety.extends_ s₀ s) : Safety.extends_ s₀ (freeParks s k) := onSc_extends h

theorem removeBlock_extends {s b} (h : Safety.extends_ s₀ s) : Safety.extends_ s₀ (removeBlock s b) := by
  unfold removeBlock
  dsimp only
  split
  · exact h
  · split
    · exact onEngine_extends (onSc_extends (ovfLeave_extends (freeParks_extends h)))
    · exact onSc_extends (ovfLeave_extends (freeParks_extends h))

theorem leaveOwner_extends {s b k} (h : Safety.extends_ s₀ s) : Safety.extends_ s₀ (leaveOwner s b k) := by
  unfold leaveOwner
  split
  · exact itemDone_extends h
  · exact onPass_extends h
  · exact onGfx_extends h

theorem dropBlock_extends {s b} (h : Safety.extends_ s₀ s) : Safety.extends_ s₀ (dropBlock s b) := by
  unfold dropBlock
  split
  · exact h
  · exact leaveOwner_extends (removeBlock_extends h)

theorem dropSaved_extends {s b} (h : Safety.extends_ s₀ s) : Safety.extends_ s₀ (dropSaved s b) := by
  unfold dropSaved
  split
  · exact h
  · exact leaveOwner_extends (onSc_extends (freeParks_extends h))

theorem discardBlocks_extends {s p} (h : Safety.extends_ s₀ s) : Safety.extends_ s₀ (discardBlocks s p) :=
  onSc_extends (foldl_extends (fun _ _ ht => dropSaved_extends ht) h)

theorem discardItems_extends {s t p} (h : Safety.extends_ s₀ s) : Safety.extends_ s₀ (discardItems s t p) := discardBlocks_extends h

theorem abortOwner_extends {s k st addr} (h : Safety.extends_ s₀ s) : Safety.extends_ s₀ (abortOwner s k st addr) := by
  unfold abortOwner
  split
  · exact discardItems_extends (taskFail_extends h)
  · exact discardItems_extends (passFail_extends h)
  · split
    · exact discardItems_extends (passFail_extends h)
    · exact h

theorem put_extends {s i g} (h : Safety.extends_ s₀ s) : Safety.extends_ s₀ (put s i g) := onGroup_extends h

theorem parkGroup_extends {s b slot st ts pc addr write acc record reqs} (h : Safety.extends_ s₀ s) :
    Safety.extends_ s₀ (parkGroup s b slot st ts pc addr write acc record reqs) := by
  unfold parkGroup
  dsimp only
  split
  · exact h
  · exact ite_extends (abortOwner_extends (ite_extends (raise_extends h) h)) (onGroup_extends (onSc_extends (ite_extends (raise_extends h) h)))

theorem parkAt_extends {s i st addr} (h : Safety.extends_ s₀ s) : Safety.extends_ s₀ (parkAt s i st addr) := parkGroup_extends h

theorem barCheck_extends {b s n} (h : Safety.extends_ s₀ s) : Safety.extends_ s₀ (barCheck b s n) := by
  unfold barCheck
  dsimp only
  split
  · exact h
  · exact ite_extends (onBlock_extends h) (ite_extends (onBlock_extends h) h)

theorem barChecks_extends {s b} (h : Safety.extends_ s₀ s) : Safety.extends_ s₀ (barChecks s b) := by
  unfold barChecks
  split
  · exact h
  · exact foldl_extends (fun _ _ ht => barCheck_extends ht) h

theorem folWrite_extends {s cluster l bs bad} (h : Safety.extends_ s₀ s) : Safety.extends_ s₀ (folWrite s cluster l bs bad) :=
  onMem_extends_of_wf h id wf_mwrite

theorem fragTry_extends {b s slot} (h : Safety.extends_ s₀ s) : Safety.extends_ s₀ (fragTry b s slot) := by
  unfold fragTry
  dsimp only
  split
  · exact h
  · split
    · exact h
    · refine ite_extends h ?_
      split
      · exact h
      · split
        · refine ite_extends h ?_
          split
          · exact parkGroup_extends h
          · exact ite_extends (parkGroup_extends (onGroup_extends h)) (ite_extends (onGroup_extends h) (ite_extends (onGroup_extends
              (onGroup_extends h)) (ite_extends (ite_extends (parkGroup_extends (countMismatch_extends (onGroup_extends h))) (onGroup_extends
              (onGroup_extends h))) (onGroup_extends (foldl_extends (fun _ _ ht => folWrite_extends ht) (onGroup_extends h))))))
        · exact h

theorem fragTries_extends {s b} (h : Safety.extends_ s₀ s) : Safety.extends_ s₀ (fragTries s b) := by
  unfold fragTries
  split
  · exact h
  · exact foldl_extends (fun _ _ ht => fragTry_extends ht) h

theorem endBlock_extends {s b k steps} (h : Safety.extends_ s₀ s) : Safety.extends_ s₀ (endBlock s b k steps) := by
  unfold endBlock
  dsimp only
  split
  · exact itemDone_extends (busySteps_extends (removeBlock_extends h))
  · exact leaveOwner_extends (onSc_extends (busySteps_extends (removeBlock_extends h)))
  · exact onSc_extends (busySteps_extends (removeBlock_extends h))

theorem settle_extends {s b steps} (h : Safety.extends_ s₀ s) : Safety.extends_ s₀ (settle s b steps) := by
  unfold settle
  dsimp only
  split
  · exact h
  · refine ite_extends h ?_
    refine ite_extends ?_ ?_
    · refine endBlock_extends ?_
      refine ite_extends (onBlock_extends (foldl_snd_extends (fun ⟨_, _⟩ _ ht => flushPriv_extends ht) h)) ?_
      split
      · exact taskFail_extends (onBlock_extends (foldl_snd_extends (fun ⟨_, _⟩ _ ht => flushPriv_extends ht) h))
      · exact onBlock_extends (foldl_snd_extends (fun ⟨_, _⟩ _ ht => flushPriv_extends ht) h)
    · refine ite_extends (onBlock_extends (foldl_snd_extends (fun ⟨_, _⟩ _ ht => flushPriv_extends ht) h)) ?_
      split
      · exact taskFail_extends (onBlock_extends (foldl_snd_extends (fun ⟨_, _⟩ _ ht => flushPriv_extends ht) h))
      · exact onBlock_extends (foldl_snd_extends (fun ⟨_, _⟩ _ ht => flushPriv_extends ht) h)

theorem exitThreads_extends {s i steps discard} (h : Safety.extends_ s₀ s) : Safety.extends_ s₀ (exitThreads s i steps discard) :=
  settle_extends (fragTry_extends (barChecks_extends (ite_extends (onBlock_extends (put_extends h)) (put_extends h))))

theorem perThreadFree_extends {s i d f need} (h : Safety.extends_ s₀ s) : Safety.extends_ s₀ (perThreadFree s i d f need).2 :=
  foldl_snd_extends (fun _ _ ht => ite_snd_extends (takeFree_extends (n := 2 ^ 32) ht) ht) h

theorem issueMem_extends {s i op n d addr src sx loc priv ordered} (h : Safety.extends_ s₀ s) :
    Safety.extends_ s₀ (issueMem s i op n d addr src sx loc priv ordered) := ite_extends (parkAt_extends h) (put_extends h)

theorem groupIssue_extends {s i x} (h : Safety.extends_ s₀ s) : Safety.extends_ s₀ (groupIssue s i x) := by
  unfold groupIssue
  dsimp only
  refine ite_extends (parkAt_extends h) ?_
  split
  · exact put_extends h
  · exact put_extends h
  · exact put_extends h
  · exact put_extends h
  · exact put_extends h
  · exact put_extends h
  · exact put_extends h
  · exact put_extends (perThreadFree_extends h)
  · exact put_extends h
  · exact put_extends h
  · exact put_extends h
  · exact put_extends (perThreadFree_extends h)
  · split
    · exact put_extends h
    · exact put_extends (takeFree_extends h)
  · exact put_extends h
  · exact put_extends h
  · exact put_extends h
  · exact put_extends h
  · exact put_extends h
  · exact put_extends h
  · exact issueMem_extends h
  · exact put_extends h
  · exact parkAt_extends h

theorem coreEcc_extends {s core n} (h : Safety.extends_ s₀ s) : Safety.extends_ s₀ (coreEcc s core n) := ite_extends h (fcount_extends h)

theorem l1Use_extends {s c la} (h : Safety.extends_ s₀ s) : Safety.extends_ s₀ (l1Use s c la) := onSc_extends h

theorem l1Drop_extends {s c p} (h : Safety.extends_ s₀ s) : Safety.extends_ s₀ (l1Drop s c p) := ite_extends h (onSc_extends h)

theorem vload_extends {s core vm asid ctx va refetch} (h : Safety.extends_ s₀ s) : Safety.extends_ s₀ (vload s core vm asid ctx va refetch).2.2 := by
  unfold vload
  dsimp only
  split
  · rename_i hp
    have hu := extends_of_eq_mk hp (translate_extends h)
    refine ite_snd_snd_extends (l1Use_extends (ite_extends (l1Drop_extends hu) hu)) ?_
    split
    · exact failedAt_extends (ite_extends (l1Drop_extends hu) hu)
    · split
      · exact l1Use_extends (fetchLine_extends (ite_extends (l1Drop_extends hu) hu))
      · exact failedAt_extends (ite_extends (countMismatch_extends (fetchLine_extends (ite_extends (l1Drop_extends hu) hu))) (fetchLine_extends
          (ite_extends (l1Drop_extends hu) hu)))
  · rename_i hp
    have hu := extends_of_eq_mk hp (translate_extends h)
    exact ite_extends (failedAt_extends (countMismatch_extends (hostLines_extends hu))) (hostLines_extends hu)
  · rename_i hp
    have hu := extends_of_eq_mk hp (translate_extends h)
    exact failedAt_extends (xltFault_extends hu)

theorem ovfPut_extends {s c l} (h : Safety.extends_ s₀ s) : Safety.extends_ s₀ (ovfPut s c l).2 := by
  unfold ovfPut
  dsimp only
  split
  · exact setOvf_extends h
  · exact ite_extends (setOvf_extends (ovfWrite_extends h)) (ovfWrite_extends h)

theorem ovfRead_extends {s b k g line} (h : Safety.extends_ s₀ s) : Safety.extends_ s₀ (ovfRead s b k g line).2.2 :=
  ite_snd_snd_extends (ovfPut_extends h) (ite_snd_snd_extends (vread_extends h) (ovfPut_extends (vread_extends h)))

theorem ovfStore_extends {s b k g line segs} (h : Safety.extends_ s₀ s) : Safety.extends_ s₀ (ovfStore s b k g line segs).2 := ovfPut_extends h

theorem laneCause_extends {s r odd c} (h : Safety.extends_ s₀ s) : Safety.extends_ s₀ (laneCause s r odd c).2 := by
  unfold laneCause
  split
  · exact h
  · refine ite_snd_extends h ?_
    dsimp only
    split
    · exact xltFault_extends h
    · exact h

theorem laneCheck_extends {s k q m l} (h : Safety.extends_ s₀ s) : Safety.extends_ s₀ (laneCheck s k q m l).2.2 := by
  unfold laneCheck
  dsimp only
  refine ite_snd_snd_extends (laneCause_extends h) ?_
  split
  · exact laneCause_extends h
  · split
    · rename_i hp
      exact laneCause_extends (extends_of_eq_mk hp (translate_extends h))
    · rename_i hp
      have hu := extends_of_eq_mk hp (translate_extends h)
      split <;> exact laneCause_extends hu

theorem lanesCheck_extends {k q ls m s} (h : Safety.extends_ s₀ s) : Safety.extends_ s₀ (lanesCheck k q ls m s).2 := by
  induction ls generalizing m s with
  | nil => exact h
  | cons e ls ih =>
    unfold lanesCheck
    split
    · rename_i hp
      have hu := extends_of_eq_mk₂ hp (laneCheck_extends h)
      exact hu
    · rename_i hp
      have hu := extends_of_eq_mk₂ hp (laneCheck_extends h)
      exact ih hu

theorem loadLines_extends {b k g q refetch l s} (h : Safety.extends_ s₀ s) : Safety.extends_ s₀ (loadLines b k g q refetch l s).2.2 := by
  induction l generalizing s with
  | nil => exact h
  | cons e l ih =>
    obtain ⟨x₁, x₂⟩ := e
    unfold loadLines
    exact ite_snd_snd_extends (ite_snd_snd_extends (ovfRead_extends h) (vload_extends h)) (ih (ite_snd_snd_extends (ovfRead_extends h)
      (vload_extends h)))

theorem storeLines_extends {b k g q l s} (h : Safety.extends_ s₀ s) : Safety.extends_ s₀ (storeLines b k g q l s).2.2 := by
  induction l generalizing s with
  | nil => exact h
  | cons e l ih =>
    obtain ⟨x₁, x₂⟩ := e
    unfold storeLines
    exact ite_snd_snd_extends (ite_snd_extends (ovfStore_extends h) (vstore_extends h)) (ih (ite_snd_extends (ovfStore_extends h) (vstore_extends
      h)))

theorem atomicLines_extends {k q f l s} (h : Safety.extends_ s₀ s) : Safety.extends_ s₀ (atomicLines k q f l s).2.2 := by
  induction l generalizing s with
  | nil => exact h
  | cons e l ih =>
    obtain ⟨x₁, x₂⟩ := e
    unfold atomicLines
    exact ite_snd_snd_extends (vmodify_extends h) (ih (vmodify_extends h))

theorem reqRun_extends {s b k g q refetch} (h : Safety.extends_ s₀ s) : Safety.extends_ s₀ (reqRun s b k g q refetch).2.2 := by
  unfold reqRun
  dsimp only
  refine ite_snd_snd_extends ?_ ?_
  · split
    · exact h
    · exact onBlock_extends h
    · exact onBlock_extends h
  · split
    · exact loadLines_extends h
    · exact storeLines_extends h
    · exact atomicLines_extends h

theorem memReturn_extends {s core slot n ecc refetch} (h : Safety.extends_ s₀ s) : Safety.extends_ s₀ (memReturn s core slot n ecc refetch) := by
  unfold memReturn
  dsimp only
  split
  · exact h
  · split
    · exact h
    · refine ite_extends h ?_
      refine ite_extends h ?_
      split
      · rename_i hp
        have hu := extends_of_eq_mk hp (lanesCheck_extends (onGroup_extends (coreEcc_extends h)))
        exact ite_extends h (parkGroup_extends hu)
      · rename_i hp
        have hu := extends_of_eq_mk hp (lanesCheck_extends (onGroup_extends (coreEcc_extends h)))
        split
        · rename_i hp1
          have hu1 := extends_of_eq_mk₂ hp1 (reqRun_extends hu)
          exact ite_extends h (parkGroup_extends hu1)
        · rename_i hp1
          have hu1 := extends_of_eq_mk₂ hp1 (reqRun_extends hu)
          exact onGroup_extends (ite_extends (takeFree_extends hu1) hu1)

theorem parkAll_extends {s b st single who} (h : Safety.extends_ s₀ s) : Safety.extends_ s₀ (parkAll s b st single who) := by
  unfold parkAll
  dsimp only
  split
  · exact h
  · exact foldl_extends (fun _ _ ht => parkGroup_extends ht) h

theorem residentComplete_extends {s q n irq} (h : Safety.extends_ s₀ s) : Safety.extends_ s₀ (residentComplete s q n irq) := by
  unfold residentComplete
  dsimp only
  split
  · exact h
  · exact ite_extends h (ite_extends (stopNoEntry_extends (feWrite_extends h)) (waitsReached_extends (ite_extends (msixRaise_extends
      (onQueue_extends (feWrite_extends h))) (onQueue_extends (feWrite_extends h)))))

theorem onGroupAny_extends {s b slot f} (h : Safety.extends_ s₀ s) : Safety.extends_ s₀ (onGroupAny s b slot f) := onSc_extends h

theorem tokenDone_extends {s b tok outcome} (h : Safety.extends_ s₀ s) : Safety.extends_ s₀ (tokenDone s b tok outcome) := onSc_extends h

theorem faultTry_extends {b s f} (h : Safety.extends_ s₀ s) : Safety.extends_ s₀ (faultTry b s f) := by
  unfold faultTry
  split
  · exact h
  · split
    · exact h
    · split
      · exact h
      · exact ite_extends h (parkGroup_extends h)

theorem faultTries_extends {s b} (h : Safety.extends_ s₀ s) : Safety.extends_ s₀ (faultTries s b) := by
  unfold faultTries
  split
  · exact foldl_extends (fun _ _ ht => faultTry_extends ht) h
  · exact h

theorem unpark_extends {s b k g p skip} (h : Safety.extends_ s₀ s) : Safety.extends_ s₀ (unpark s b k g p skip) := by
  unfold unpark
  dsimp only
  refine settle_extends ?_
  refine fragTries_extends ?_
  refine barChecks_extends ?_
  refine faultTries_extends ?_
  split
  · split
    · exact onGroupAny_extends (onSc_extends h)
    · exact ite_extends (tokenDone_extends (onBlock_extends (onEngine_extends (onGroupAny_extends (onSc_extends h))))) (onEngine_extends
        (onGroupAny_extends (onSc_extends h)))
  · exact onGroupAny_extends (onSc_extends h)

theorem replayResult_extends {s f st n} (h : Safety.extends_ s₀ s) : Safety.extends_ s₀ (replayResult s f st n) := rset_extends h

theorem taskProg_extends {s t k} (h : Safety.extends_ s₀ s) : Safety.extends_ s₀ (taskProg s t k).2 := by
  unfold taskProg
  dsimp only
  split
  · exact h
  · split
    · exact taskFail_extends h
    · refine ite_snd_extends (taskFail_extends (readProg_extends h)) ?_
      split
      · exact taskFail_extends (readProg_extends h)
      · exact onTask_extends (readProg_extends h)

theorem placeNew_extends {s t i k p c} (h : Safety.extends_ s₀ s) : Safety.extends_ s₀ (placeNew s t i k p c) := newBlock_extends h

theorem restoreBlock_extends {s b k c} (h : Safety.extends_ s₀ s) : Safety.extends_ s₀ (restoreBlock s b k c) :=
  fragTries_extends (barChecks_extends (enterBlock_extends (onSc_extends h)))

theorem chargeCores_extends {before s ctx} (h : Safety.extends_ s₀ s) : Safety.extends_ s₀ (chargeCores before s ctx) :=
  ite_extends h (foldl_extends (fun _ _ ht => ite_extends (chargeBlocked_extends ht) ht) h)

theorem placeFirst_extends {e l s} (h : Safety.extends_ s₀ s) : Safety.extends_ s₀ (placeFirst e l s) := by
  induction l generalizing s with
  | nil => exact h
  | cons e l ih =>
    obtain ⟨x₁, x₂⟩ := e
    unfold placeFirst
    dsimp only
    split
    · rename_i hp
      have hu := extends_of_eq_mk hp (taskProg_extends h)
      exact hu
    · rename_i hp
      have hu := extends_of_eq_mk hp (taskProg_extends h)
      split
      · exact ih hu
      · split
        · exact chargeCores_extends (restoreBlock_extends (onTask_extends (serveTurn_extends hu)))
        · exact chargeCores_extends (placeNew_extends (onTask_extends (serveTurn_extends hu)))

theorem askCore_extends {s c cls} (h : Safety.extends_ s₀ s) : Safety.extends_ s₀ (askCore s c cls) := by
  unfold askCore
  exact onSc_extends (foldl_extends (fun _ _ ht => by
      split
      · exact ite_extends (onGfx_extends ht) ht
      · exact ht) h)

theorem preemptFor_extends {s cls can} (h : Safety.extends_ s₀ s) : Safety.extends_ s₀ (preemptFor s cls can) := by
  unfold preemptFor
  dsimp only
  split
  · exact h
  · exact ite_extends h (askCore_extends h)

theorem requestPreempt_extends {s e} (h : Safety.extends_ s₀ s) : Safety.extends_ s₀ (requestPreempt s e) := by
  unfold requestPreempt
  split
  · exact h
  · split
    · exact h
    · exact preemptFor_extends h

theorem itemPlace_extends {s e} (h : Safety.extends_ s₀ s) : Safety.extends_ s₀ (itemPlace s e) := by
  unfold itemPlace
  dsimp only
  split
  · exact requestPreempt_extends (placeFirst_extends h)
  · exact requestPreempt_extends (placeFirst_extends h)
  · refine ite_extends ?_ h
    split
    · exact h
    · exact onTask_extends (chargeLosers_extends (serveTurn_extends h))
  · refine ite_extends (ite_extends h (demand_extends h)) ?_
    split
    · exact h
    · exact onTask_extends (chargeLosers_extends (serveTurn_extends h))
  · exact h

/-! ### Machine/Accord -/

theorem reachFrag_extends {s i load d a n} (h : Safety.extends_ s₀ s) : Safety.extends_ s₀ (reachFrag s i load d a n) :=
  ite_extends (parkAt_extends h) (fragTry_extends (put_extends h))

theorem accFault_extends {s e b i st addr write} (h : Safety.extends_ s₀ s) : Safety.extends_ s₀ (accFault s e b i st addr write) :=
  faultTries_extends (onEngine_extends h)

theorem accDone_extends {s e b i} (h : Safety.extends_ s₀ s) : Safety.extends_ s₀ (accDone s e b i) :=
  settle_extends (fragTries_extends (tokenDone_extends (onEngine_extends h)))

theorem mmaReduce_extends {s e} (h : Safety.extends_ s₀ s) : Safety.extends_ s₀ (mmaReduce s e) := by
  unfold mmaReduce
  dsimp only
  split
  · refine ite_extends ?_ ?_
    · refine accFault_extends ?_
      refine countMismatch_extends ?_
      split
      · exact busySteps_extends (fset_extends h)
      · exact fset_extends h
    · refine onEngine_extends ?_
      split
      · exact busySteps_extends (fset_extends h)
      · exact fset_extends h
  · exact h

theorem probe_extends {s engine vm asid ctx va n acc} (h : Safety.extends_ s₀ s) : Safety.extends_ s₀ (probe s engine vm asid ctx va n acc).2 := by
  unfold probe
  exact foldl_snd_extends (fun ⟨_, _⟩ _ ht => by
      dsimp only
      split
      · exact ht
      · split
        · rename_i hp1
          have hu1 := extends_of_eq_mk hp1 (translate_extends ht)
          exact ite_snd_extends (xltFault_extends hu1) hu1
        · rename_i hp1
          have hu1 := extends_of_eq_mk hp1 (translate_extends ht)
          exact xltFault_extends hu1) h

theorem probeAll_extends {s engine k acc l} (h : Safety.extends_ s₀ s) : Safety.extends_ s₀ (probeAll s engine k acc l).2 := by
  unfold probeAll
  exact foldl_snd_extends (fun ⟨_, _⟩ _ ht => by
      dsimp only
      split
      · exact ht
      · exact probe_extends ht) h

theorem readRanges_extends {s engine k l} (h : Safety.extends_ s₀ s) : Safety.extends_ s₀ (readRanges s engine k l).2.2 := by
  induction l generalizing s with
  | nil => exact h
  | cons e l ih =>
    unfold readRanges
    exact ite_snd_snd_extends (vread_extends h) (ih (vread_extends h))

theorem doLoad_extends {s cl i rows} (h : Safety.extends_ s₀ s) : Safety.extends_ s₀ (doLoad s cl i rows) := by
  unfold doLoad
  dsimp only
  split <;> exact foldl_extends (fun _ _ ht => folWrite_extends ht) h

theorem storeRows_extends {s eng cl k i l} (h : Safety.extends_ s₀ s) : Safety.extends_ s₀ (storeRows s eng cl k i l).2 := by
  induction l generalizing s with
  | nil => exact h
  | cons e l ih =>
    unfold storeRows
    exact ite_snd_extends (countMismatch_extends h) (ite_snd_extends (ite_snd_extends (vstore_extends h) (vmodify_extends h)) (ih (ite_snd_extends
      (vstore_extends h) (vmodify_extends h))))

/-- The pair's state extends s₀. The name keeps the kernel from evaluating the pair to reach its state. -/
def ExtendsSnd (s₀ : State) {α : Type} (p : α × State) : Prop := Safety.extends_ s₀ p.2

theorem extendsSnd_mk {α : Type} (a : α) (h : Safety.extends_ s₀ s) : ExtendsSnd s₀ (a, s) := h

theorem storeRaw_extends {s eng cl k i l} (h : Safety.extends_ s₀ s) : Safety.extends_ s₀ (storeRaw s eng cl k i l).2 := by
  suffices hp : ExtendsSnd s₀ (storeRaw s eng cl k i l) from hp
  induction l generalizing s with
  | nil => exact extendsSnd_mk _ h
  | cons e l ih =>
    rw [storeRaw]
    split
    · exact extendsSnd_mk _ (countMismatch_extends h)
    generalize hw : vwrite _ _ _ _ _ _ _ _ = w
    have ht : Safety.extends_ s₀ w.2 := hw ▸ vwrite_extends h
    clear hw
    dsimp only
    split
    · exact extendsSnd_mk _ ht
    · exact ih ht

/-! ### Machine/Pmp -/

theorem pmpWrite_extends {core s w} (h : Safety.extends_ s₀ s) : Safety.extends_ s₀ (pmpWrite core s w) := ite_extends h (onCcx_extends h rfl)

theorem pmpReset_extends {s core} (h : Safety.extends_ s₀ s) : Safety.extends_ s₀ (pmpReset s core) := onCcx_extends h rfl

/-! ### Machine/Collator -/

theorem onSlot_extends {s sl f} (h : Safety.extends_ s₀ s) : Safety.extends_ s₀ (onSlot s sl f) := onGfx_extends h

theorem truClear_extends {s sl first last} (h : Safety.extends_ s₀ s) : Safety.extends_ s₀ (truClear s sl first last) := onGfx_extends h

theorem truUnbind_extends {s sl} (h : Safety.extends_ s₀ s) : Safety.extends_ s₀ (truUnbind s sl) := onSlot_extends (truClear_extends h)

theorem truResult_extends {s f st version} (h : Safety.extends_ s₀ s) : Safety.extends_ s₀ (truResult s f st version) := rset_extends h

theorem truPassEnd_extends {s x sl} (h : Safety.extends_ s₀ s) : Safety.extends_ s₀ (truPassEnd s x sl) := by
  unfold truPassEnd
  dsimp only
  split
  · exact truResult_extends (truClear_extends (onSlot_extends (fset_extends (fset_extends (fset_extends (fset_extends (ite_extends
      (truUnbind_extends h) (onSlot_extends h))))))))
  · exact onSlot_extends (fset_extends (fset_extends (fset_extends (fset_extends (ite_extends (truUnbind_extends h) (onSlot_extends h))))))

theorem colWrite_extends {s p va bs} (h : Safety.extends_ s₀ s) : Safety.extends_ s₀ (colWrite s p va bs) := by
  unfold colWrite
  dsimp only
  split
  · exact h
  · exact ite_extends h (ite_extends (vwrite_extends h) (passFail_extends (vwrite_extends h)))

theorem colRead_extends {s eng p va n} (h : Safety.extends_ s₀ s) : Safety.extends_ s₀ (colRead s eng p va n).2 := by
  unfold colRead
  dsimp only
  split
  · exact h
  · exact ite_snd_extends (vread_extends h) (passFail_extends (vread_extends h))

theorem quireAlloc_extends {s p} (h : Safety.extends_ s₀ s) : Safety.extends_ s₀ (quireAlloc s p).2 := by
  unfold quireAlloc
  dsimp only
  split
  · exact h
  · exact onPass_extends h

theorem listAppend_extends {s p n record first} (h : Safety.extends_ s₀ s) : Safety.extends_ s₀ (listAppend s p n record first) := by
  unfold listAppend
  dsimp only
  split
  · exact h
  · exact ite_extends (onPass_extends (colWrite_extends (ite_extends (quireAlloc_extends h) (colWrite_extends (quireAlloc_extends h)))))
      (onPass_extends (colWrite_extends (colWrite_extends h)))

theorem servePass_extends {s e x losers} (h : Safety.extends_ s₀ s) : Safety.extends_ s₀ (servePass s e x losers) := by
  unfold servePass
  dsimp only
  refine foldl_extends (fun _ _ ht => chargeBlocked_extends ht) ?_
  split
  · exact serveTurn_extends h
  · exact h

theorem takeSerial_extends {s} (h : Safety.extends_ s₀ s) : Safety.extends_ s₀ (takeSerial s).2 := onGfx_extends h

theorem truHold_extends {s p x} (h : Safety.extends_ s₀ s) : Safety.extends_ s₀ (truHold s p x) := by
  unfold truHold
  dsimp only
  split
  · exact h
  · exact onSlot_extends (ite_extends h (onSlot_extends (truUnbind_extends h)))

theorem passBegin_extends {s t k} (h : Safety.extends_ s₀ s) : Safety.extends_ s₀ (passBegin s t k).2 := by
  unfold passBegin
  dsimp only
  split
  · exact h
  · refine ite_snd_extends ?_ ?_
    · split
      · exact h
      · exact onGfx_extends h
    · split
      · exact h
      · refine ite_snd_extends (vread_extends h) ?_
        split
        · exact vread_extends h
        · exact ite_snd_extends (vread_extends h) (truHold_extends (onGfx_extends (takeSerial_extends (vread_extends h))))

theorem writeTable_extends {p s n} (h : Safety.extends_ s₀ s) : Safety.extends_ s₀ (writeTable p s n) := by
  unfold writeTable
  split
  · exact h
  · exact colWrite_extends h

theorem beginEnd_extends {s p} (h : Safety.extends_ s₀ s) : Safety.extends_ s₀ (beginEnd s p) := by
  unfold beginEnd
  dsimp only
  split
  · exact h
  · exact endBare_extends (bumpVersion_extends (onPass_extends h))

theorem passUnstart_extends {s p x} (h : Safety.extends_ s₀ s) : Safety.extends_ s₀ (passUnstart s p x) := onFe_extends (onGfx_extends h)

theorem routeChoice_extends {p t words acc r} (h : Safety.extends_ s₀ acc.2) : Safety.extends_ s₀ (routeChoice p t words acc r).2 := by
  unfold routeChoice
  dsimp only
  split
  · exact h
  · exact ite_snd_extends h (ite_snd_extends h (ite_snd_extends (listAppend_extends h) (onPass_extends h)))

theorem routeToken_extends {p sweep s t} (h : Safety.extends_ s₀ s) : Safety.extends_ s₀ (routeToken p sweep s t) := by
  unfold routeToken
  dsimp only
  split
  · exact h
  · refine ite_extends h ?_
    split
    · exact colRead_extends h
    · exact colWrite_extends (foldl_snd_extends (fun ⟨_, _⟩ _ ht => routeChoice_extends ht) (ite_snd_extends (colRead_extends h) (colRead_extends
        (colRead_extends h))))

theorem blockKey_extends {p q qrec s j} (h : Safety.extends_ s₀ s) : Safety.extends_ s₀ (blockKey p q qrec s j) := by
  unfold blockKey
  dsimp only
  split
  · exact h
  · refine ite_extends h ?_
    split
    · exact colRead_extends h
    · split
      · exact ite_snd_extends (colRead_extends (colRead_extends h)) (colRead_extends h)
      · split
        · exact ite_snd_extends (colRead_extends (colRead_extends h)) (colRead_extends h)
        · exact ite_extends (listAppend_extends (ite_snd_extends (colRead_extends (colRead_extends h)) (colRead_extends h))) (onPass_extends
            (ite_snd_extends (colRead_extends (colRead_extends h)) (colRead_extends h)))

theorem gather_extends {p fuel d acc s} (h : Safety.extends_ s₀ s) : Safety.extends_ s₀ (gather p fuel d acc s).2.2 := by
  induction fuel generalizing d acc s with
  | zero => exact h
  | succ fuel ih =>
    unfold gather
    dsimp only
    refine ite_snd_snd_extends h ?_
    split
    · exact ite_snd_extends (colRead_extends h) h
    · exact ih (ite_snd_extends (colRead_extends h) h)

theorem vertexBytes_extends {s p d v} (h : Safety.extends_ s₀ s) : Safety.extends_ s₀ (vertexBytes s p d v).2 :=
  ite_snd_extends h (colRead_extends h)

theorem fetchVertices_extends {p d l s} (h : Safety.extends_ s₀ s) : Safety.extends_ s₀ (fetchVertices p d l s).2 := by
  induction l generalizing s with
  | nil => exact h
  | cons e l ih =>
    unfold fetchVertices
    split
    · rename_i hp
      have hu := extends_of_eq_mk hp (vertexBytes_extends h)
      exact hu
    · rename_i hp
      have hu := extends_of_eq_mk hp (vertexBytes_extends h)
      split
      · rename_i hp1
        have hu1 := extends_of_eq_mk hp1 (ih hu)
        exact hu1
      · rename_i hp1
        have hu1 := extends_of_eq_mk hp1 (ih hu)
        exact hu1

theorem placePosition_extends {p s} (h : Safety.extends_ s₀ s) : Safety.extends_ s₀ (placePosition p s) := by
  unfold placePosition
  dsimp only
  split
  · exact h
  · split
    · exact h
    · split
      · exact chargeCores_extends (restoreBlock_extends h)
      · exact preemptFor_extends h
    · split
      · refine ite_extends (onPass_extends h) ?_
        split
        · exact preemptFor_extends h
        · split
          · rename_i hp
            have hu := extends_of_eq_mk hp (fetchVertices_extends h)
            exact onPass_extends hu
          · rename_i hp
            have hu := extends_of_eq_mk hp (fetchVertices_extends h)
            exact chargeCores_extends (onPass_extends (newBlock_extends hu))
      · exact h

theorem placePositions_extends {s p} (h : Safety.extends_ s₀ s) : Safety.extends_ s₀ (placePositions s p) :=
  foldl_extends (fun _ _ ht => placePosition_extends ht) h

theorem releaseDraw_extends {s p d} (h : Safety.extends_ s₀ s) : Safety.extends_ s₀ (releaseDraw s p d) := by
  unfold releaseDraw
  split
  · exact h
  · split
    · exact h
    · exact onTask_extends (onPass_extends h)

theorem releaseDraws_extends {s p} (h : Safety.extends_ s₀ s) : Safety.extends_ s₀ (releaseDraws s p) := by
  unfold releaseDraws
  dsimp only
  split
  · exact h
  · exact foldl_extends (fun _ _ ht => by
      split
      · exact ht
      · exact ite_extends (releaseDraw_extends ht) ht) h

theorem tryClose_extends {s p} (h : Safety.extends_ s₀ s) : Safety.extends_ s₀ (tryClose s p) := by
  unfold tryClose
  split
  · exact h
  · exact ite_extends (onPass_extends h) h

theorem assemble_extends {s p x b} (h : Safety.extends_ s₀ s) : Safety.extends_ s₀ (assemble s p x b) := by
  unfold assemble
  dsimp only
  split
  · exact h
  · exact onPass_extends (onSc_extends (foldl_snd_extends (fun ⟨_, _⟩ _ ht => withFreeCtr_extends ht ((Nat.le_succ _))) h))

theorem writeData_extends {s p} (h : Safety.extends_ s₀ s) : Safety.extends_ s₀ (writeData s p) := by
  unfold writeData
  dsimp only
  split
  · exact h
  · split
    · exact h
    · refine ite_extends h ?_
      split
      · exact h
      · exact onPass_extends (colWrite_extends (foldl_extends (fun _ _ ht => colWrite_extends ht) (ite_extends (colWrite_extends (ite_snd_extends
          (quireAlloc_extends h) h)) (ite_snd_extends (quireAlloc_extends h) h))))

theorem flushBegin_extends {s p} (h : Safety.extends_ s₀ s) : Safety.extends_ s₀ (flushBegin s p) := by
  unfold flushBegin
  dsimp only
  split
  · exact h
  · exact onPass_extends (fcount_extends (foldl_extends (fun _ _ ht => by
      split
      · exact colWrite_extends (colRead_extends ht)
      · exact colRead_extends ht) h))

theorem admitOne_extends {s p} (h : Safety.extends_ s₀ s) : Safety.extends_ s₀ (admitOne s p) := by
  unfold admitOne
  dsimp only
  split
  · exact h
  · split
    · exact writeData_extends h
    · split
      · exact onPass_extends (foldl_extends (fun _ _ ht => by
      split
      · exact listAppend_extends (ite_extends (listAppend_extends ht) ht)
      · exact listAppend_extends ht) (writeData_extends h))
      · exact onPass_extends (writeData_extends h)

theorem admitAll_extends {p fuel s} (h : Safety.extends_ s₀ s) : Safety.extends_ s₀ (admitAll p fuel s) := by
  induction fuel generalizing s with
  | zero => exact h
  | succ fuel ih =>
    unfold admitAll
    split
    · exact h
    · refine ite_extends h ?_
      split
      · exact h
      · exact ite_extends (ih (admitOne_extends h)) (flushBegin_extends h)

theorem passFree_extends {s p} (h : Safety.extends_ s₀ s) : Safety.extends_ s₀ (passFree s p) := by
  unfold passFree
  dsimp only
  split
  · exact h
  · refine onGfx_extends ?_
    refine onSc_extends ?_
    split
    · exact truPassEnd_extends h
    · exact h

theorem passTaskEnd_extends {s t} (h : Safety.extends_ s₀ s) : Safety.extends_ s₀ (passTaskEnd s t) := by
  unfold passTaskEnd
  split
  · exact h
  · split
    · exact onFe_extends h
    · exact endBare_extends h

theorem passDiscard_extends {s p} (h : Safety.extends_ s₀ s) : Safety.extends_ s₀ (passDiscard s p) := by
  unfold passDiscard
  dsimp only
  split
  · exact h
  · exact ite_extends h (foldl_extends (fun _ _ ht => passTaskEnd_extends ht) (discardItems_extends (onPass_extends h)))

/-! ### Machine/Raster -/

theorem onTile_extends {s c sl f} (h : Safety.extends_ s₀ s) : Safety.extends_ s₀ (onTile s c sl f) := onGfx_extends h

theorem putTile_extends {s c t old new bad} (h : Safety.extends_ s₀ s) : Safety.extends_ s₀ (putTile s c t old new bad) :=
  foldl_extends (fun _ _ ht => ite_extends ht (folWrite_extends ht)) h

theorem workTile_extends {s c sl f} (h : Safety.extends_ s₀ s) : Safety.extends_ s₀ (workTile s c sl f) := by
  unfold workTile
  dsimp only
  split
  · exact h
  · exact ite_extends (passFail_extends (countMismatch_extends h)) (onTile_extends (putTile_extends h))

theorem rasRead_extends {s c p va n} (h : Safety.extends_ s₀ s) : Safety.extends_ s₀ (rasRead s c p va n).2 := by
  unfold rasRead
  dsimp only
  split
  · exact h
  · exact ite_snd_extends (vread_extends h) (passFail_extends (vread_extends h))

theorem rasWrite_extends {s c p va bs} (h : Safety.extends_ s₀ s) : Safety.extends_ s₀ (rasWrite s c p va bs) := by
  unfold rasWrite
  dsimp only
  split
  · exact h
  · exact ite_extends (vwrite_extends h) (passFail_extends (vwrite_extends h))

theorem loadAtt_extends {s c p x n i a} (h : Safety.extends_ s₀ s) : Safety.extends_ s₀ (loadAtt s c p x n i a).2 := by
  unfold loadAtt
  dsimp only
  split
  · exact rasRead_extends h
  · split <;> exact rasRead_extends (rasRead_extends h)

theorem initTile_extends {c p x n l s} (h : Safety.extends_ s₀ s) : Safety.extends_ s₀ (initTile c p x n l s).2 := by
  induction l generalizing s with
  | nil => exact h
  | cons e l ih =>
    obtain ⟨x₁, x₂⟩ := e
    unfold initTile
    dsimp only
    split
    · exact ite_snd_extends (loadAtt_extends h) h
    · exact ih (ite_snd_extends (loadAtt_extends h) h)

theorem readList_extends {c p x fuel v s} (h : Safety.extends_ s₀ s) : Safety.extends_ s₀ (readList c p x fuel v s).2 := by
  induction fuel generalizing v s with
  | zero => exact h
  | succ fuel ih =>
    unfold readList
    dsimp only
    split
    · exact rasRead_extends h
    · exact ite_snd_extends (rasRead_extends h) (ih (rasRead_extends h))

theorem fetchPrim_extends {s c p x r} (h : Safety.extends_ s₀ s) : Safety.extends_ s₀ (fetchPrim s c p x r).2 := by
  unfold fetchPrim
  dsimp only
  split
  · exact rasRead_extends h
  · exact rasRead_extends (rasRead_extends h)

theorem fetchPrims_extends {c p x n l s} (h : Safety.extends_ s₀ s) : Safety.extends_ s₀ (fetchPrims c p x n l s).2 := by
  induction l generalizing s with
  | nil => exact h
  | cons e l ih =>
    unfold fetchPrims
    dsimp only
    refine ite_snd_extends (ih h) ?_
    split
    · rename_i hp
      have hu := extends_of_eq_mk hp (fetchPrim_extends h)
      exact hu
    · rename_i hp
      have hu := extends_of_eq_mk hp (fetchPrim_extends h)
      exact ih hu

theorem tileRecs_extends {s c p x n} (h : Safety.extends_ s₀ s) : Safety.extends_ s₀ (tileRecs s c p x n).2 := by
  unfold tileRecs
  dsimp only
  split
  · rename_i hp
    have hu := extends_of_eq_mk hp (ite_snd_extends h (readList_extends h))
    exact hu
  · rename_i hp
    have hu := extends_of_eq_mk hp (ite_snd_extends h (readList_extends h))
    split
    · rename_i hp1
      have hu1 := extends_of_eq_mk hp1 (ite_snd_extends hu (readList_extends hu))
      exact hu1
    · rename_i hp1
      have hu1 := extends_of_eq_mk hp1 (ite_snd_extends hu (readList_extends hu))
      exact fetchPrims_extends hu1

theorem moveGroups_extends {s a b} (h : Safety.extends_ s₀ s) : Safety.extends_ s₀ (moveGroups s a b) := onSc_extends h

theorem restoreTile_extends {s key x c sl runs} (h : Safety.extends_ s₀ s) : Safety.extends_ s₀ (restoreTile s key x c sl runs) :=
  moveGroups_extends (putTile_extends (onGfx_extends h))

theorem handTile_extends {s p x n c sl runs} (h : Safety.extends_ s₀ s) : Safety.extends_ s₀ (handTile s p x n c sl runs) := by
  unfold handTile
  dsimp only
  split
  · rename_i hp
    have hu := extends_of_eq_mk hp (initTile_extends (onPass_extends h))
    exact hu
  · rename_i hp
    have hu := extends_of_eq_mk hp (initTile_extends (onPass_extends h))
    split
    · rename_i hp1
      have hu1 := extends_of_eq_mk hp1 (tileRecs_extends hu)
      exact hu1
    · rename_i hp1
      have hu1 := extends_of_eq_mk hp1 (tileRecs_extends hu)
      exact onPass_extends (onGfx_extends (putTile_extends hu1))

theorem requestTile_extends {s x} (h : Safety.extends_ s₀ s) : Safety.extends_ s₀ (requestTile s x) := by
  unfold requestTile
  dsimp only
  split
  · exact h
  · exact ite_extends h (onTile_extends h)

theorem handFirst_extends {all l s} (h : Safety.extends_ s₀ s) : Safety.extends_ s₀ (handFirst all l s) := by
  induction l generalizing s with
  | nil => exact h
  | cons e l ih =>
    obtain ⟨x₁, x₂⟩ := e
    unfold handFirst
    dsimp only
    split
    · exact ih h
    · split
      · exact foldl_extends (fun _ _ ht => chargeBlocked_extends ht) (restoreTile_extends (servePass_extends h))
      · exact foldl_extends (fun _ _ ht => chargeBlocked_extends ht) (handTile_extends (servePass_extends h))
      · exact ih h

theorem placeFragment_extends {c sl s} (h : Safety.extends_ s₀ s) : Safety.extends_ s₀ (placeFragment c sl s) := by
  unfold placeFragment
  dsimp only
  split
  · exact h
  · split
    · exact h
    · refine ite_extends h ?_
      split
      · exact h
      · split
        · exact preemptFor_extends h
        · split
          · exact chargeCores_extends (onTile_extends (restoreBlock_extends h))
          · split
            · exact h
            · exact chargeCores_extends (onTile_extends (newBlock_extends h))
          · exact h

theorem placeFragments_extends {s} (h : Safety.extends_ s₀ s) : Safety.extends_ s₀ (placeFragments s) :=
  foldl_extends (fun _ _ ht => placeFragment_extends ht) h

theorem statesChanged_extends {s c p ds} (h : Safety.extends_ s₀ s) : Safety.extends_ s₀ (statesChanged s c p ds).2 :=
  foldl_snd_extends (fun ⟨_, _⟩ _ ht => rasRead_extends ht) h

theorem dropDone_extends {s c sl} (h : Safety.extends_ s₀ s) : Safety.extends_ s₀ (dropDone s c sl) := by
  unfold dropDone
  split
  · exact h
  · exact onSc_extends h

theorem storeAtt_extends {s c p x n i a data} (h : Safety.extends_ s₀ s) : Safety.extends_ s₀ (storeAtt s c p x n i a data) :=
  rasWrite_extends (rasWrite_extends h)

theorem resolveAtt_extends {s c p x n a data} (h : Safety.extends_ s₀ s) : Safety.extends_ s₀ (resolveAtt s c p x n a data) := rasWrite_extends h

theorem writeAtt_extends {c p x t bytes s ia} (h : Safety.extends_ s₀ s) : Safety.extends_ s₀ (writeAtt c p x t bytes s ia) :=
  ite_extends (storeAtt_extends (ite_extends (resolveAtt_extends h) h)) (ite_extends (resolveAtt_extends h) h)

theorem freeTile_extends {s c sl t} (h : Safety.extends_ s₀ s) : Safety.extends_ s₀ (freeTile s c sl t) :=
  onPass_extends (onGfx_extends (onSc_extends h))

theorem dropTile_extends {s c sl t} (h : Safety.extends_ s₀ s) : Safety.extends_ s₀ (dropTile s c sl t) := ite_extends h (freeTile_extends h)

theorem truSet_extends {s x n} (h : Safety.extends_ s₀ s) : Safety.extends_ s₀ (truSet s x n) := by
  unfold truSet
  split
  · exact h
  · exact onGfx_extends h

theorem writeUntouched_extends {p n s} (h : Safety.extends_ s₀ s) : Safety.extends_ s₀ (writeUntouched p n s) := by
  unfold writeUntouched
  dsimp only
  split
  · exact h
  · exact foldl_extends (fun _ _ ht => ite_extends ht (ite_extends (rasWrite_extends (rasWrite_extends ht)) (rasWrite_extends ht))) h

theorem passFinish_extends {s p x} (h : Safety.extends_ s₀ s) : Safety.extends_ s₀ (passFinish s p x) := by
  unfold passFinish
  dsimp only
  split
  · exact endBare_extends (foldl_extends (fun _ _ ht => endBare_extends ht) (endBare_extends (bumpVersion_extends (passFree_extends h))))
  · exact foldl_extends (fun _ _ ht => endBare_extends ht) (endBare_extends (bumpVersion_extends (passFree_extends h)))

theorem graceBlock_extends {s b} (h : Safety.extends_ s₀ s) : Safety.extends_ s₀ (graceBlock s b) := by
  unfold graceBlock
  dsimp only
  split
  · exact h
  · refine ite_extends h ?_
    split
    · exact onEngine_extends (onBlock_extends h)
    · exact ite_extends (dropBlock_extends (onBlock_extends h)) (onBlock_extends h)

theorem discardTokens_extends {s b k} (h : Safety.extends_ s₀ s) : Safety.extends_ s₀ (discardTokens s b k) := by
  unfold discardTokens
  split
  · exact foldl_extends (fun _ _ ht => tokenDone_extends (onBlock_extends ht)) h
  · exact h

theorem saveBlock_extends {s b kind} (h : Safety.extends_ s₀ s) : Safety.extends_ s₀ (saveBlock s b kind) := by
  unfold saveBlock
  dsimp only
  split
  · exact h
  refine ite_extends (dropBlock_extends h) ?_
  generalize hr : List.foldl _ _ _ = r
  have hflushed : Safety.extends_ s₀ r.2 := hr ▸ foldl_snd_extends (fun _ _ ht => flushPriv_extends ht) (discardTokens_extends h)
  clear hr
  have hfailed {st : Status} {k : BKind} : Safety.extends_ s₀ (match st, k with
      | .ok, _ => r.2
      | st, .item t _ => taskFail r.2 t st r.2.xlt.failAddr
      | _, _ => r.2) := by
    split
    · exact hflushed
    · exact taskFail_extends hflushed
    · exact hflushed
  split
  · exact hfailed
  · split
    · refine itemSaved_extends ?_
      split
      · exact onEngine_extends (onSc_extends hfailed)
      · exact onSc_extends hfailed
    · split
      · exact onEngine_extends (onSc_extends hfailed)
      · exact onSc_extends hfailed

/-! ### Machine/Check -/

theorem contents_extends {s w o off n} (h : Safety.extends_ s₀ s) : Safety.extends_ s₀ (contents s w o off n).2.2 := feRead_extends h

theorem stateProg_extends {s w hd req need} (h : Safety.extends_ s₀ s) : Safety.extends_ s₀ (stateProg s w hd req need).2.2 := by
  unfold stateProg
  dsimp only
  split
  · exact h
  · refine ite_snd_snd_extends h ?_
    refine ite_snd_snd_extends (readProg_extends h) ?_
    split <;> exact readProg_extends h

theorem drawState_extends {s w o} (h : Safety.extends_ s₀ s) : Safety.extends_ s₀ (drawState s w o).2.2 := by
  unfold drawState
  dsimp only
  refine ite_snd_snd_extends h ?_
  refine ite_snd_snd_extends (contents_extends h) ?_
  split <;> exact stateProg_extends (stateProg_extends (contents_extends h))

theorem contentFails_extends {s w raw c} (h : Safety.extends_ s₀ s) : Safety.extends_ s₀ (contentFails s w raw c).2.2 := by
  unfold contentFails
  dsimp only
  split
  · refine ite_snd_snd_extends ?_ h
    split <;> exact drawState_extends h
  · exact ite_snd_snd_extends (contents_extends h) h
  · exact ite_snd_snd_extends (contents_extends h) h
  · exact ite_snd_snd_extends (contents_extends h) h
  · exact h

theorem checkEntry_extends {s w seq raw} (h : Safety.extends_ s₀ s) : Safety.extends_ s₀ (checkEntry s w seq raw).2 :=
  ite_snd_extends h (contentFails_extends (failedAt_extends h))

/-! ### Machine/Graph -/

theorem graphRead_extends {s lo off n} (h : Safety.extends_ s₀ s) : Safety.extends_ s₀ (graphRead s lo off n).2.2 :=
  ite_extends (devRead_extends h) (failedAt_extends (devRead_extends h))

theorem graphWrite_extends {s lo off bs} (h : Safety.extends_ s₀ s) : Safety.extends_ s₀ (graphWrite s lo off bs) := devWrite_extends h

theorem readRecords_extends {r c slots l s} (hr : ∀ s i n, Safety.extends_ s₀ s → Safety.extends_ s₀ (r s i n).2.2) (h : Safety.extends_ s₀ s) :
    Safety.extends_ s₀ (readRecords r c slots l s).2.2 := by
  induction l generalizing s with
  | nil => exact h
  | cons e l ih =>
    unfold readRecords
    exact ite_snd_snd_extends (hr _ _ _ h) (ih (hr _ _ _ h))

theorem gopRead_extends {f ctx base s off n} (h : Safety.extends_ s₀ s) : Safety.extends_ s₀ (gopRead f ctx base s off n).2.2 := vread_extends h

theorem graphAddr_extends {s f ctx va} (h : Safety.extends_ s₀ s) : Safety.extends_ s₀ (graphAddr s f ctx va).2 := by
  unfold graphAddr
  split
  · rename_i hp
    have hu := extends_of_eq_mk hp (translate_extends h)
    exact hu
  · rename_i hp
    have hu := extends_of_eq_mk hp (translate_extends h)
    exact hu

theorem gResult_extends {s f st detail version} (h : Safety.extends_ s₀ s) : Safety.extends_ s₀ (gResult s f st detail version) := rset_extends h

theorem publishCheck_extends {s f g} (h : Safety.extends_ s₀ s) : Safety.extends_ s₀ (publishCheck s f g).2.2.2 := by
  unfold publishCheck
  have hread := gopRead_extends (f := f) (ctx := g.ctx) (base := g.base) (off := 0) (n := 256) h
  generalize gopRead f g.ctx g.base s 0 256 = r at hread ⊢
  have hrecs {c slots l} : Safety.extends_ s₀ (readRecords (gopRead f g.ctx g.base) c slots l r.2.2).2.2 :=
    readRecords_extends (fun _ _ _ ht => gopRead_extends ht) hread
  dsimp only
  split
  · exact h
  split
  · exact hread
  split
  · exact hread
  split
  · exact hread
  split
  · exact hrecs
  split
  · exact hrecs
  split
  · rename_i hlo
    exact extends_of_eq_mk hlo (graphAddr_extends hrecs)
  · rename_i hlo
    have hlo := extends_of_eq_mk hlo (graphAddr_extends hrecs)
    split
    · rename_i hhi
      exact extends_of_eq_mk hhi (graphAddr_extends hlo)
    · rename_i hhi
      have hhi := extends_of_eq_mk hhi (graphAddr_extends hlo)
      split <;> exact hhi

theorem armRange_extends {s g} (h : Safety.extends_ s₀ s) : Safety.extends_ s₀ (armRange s g) := by
  unfold armRange
  dsimp only
  refine ite_extends (onXlt_extends h) ?_
  split
  · exact h
  · exact onXlt_extends (setDirty_extends h)

theorem gopBegin_extends {s f op} (h : Safety.extends_ s₀ s) : Safety.extends_ s₀ (gopBegin s f op).2 := fset_extends h

theorem versionMade_extends {s idx v} (h : Safety.extends_ s₀ s) : Safety.extends_ s₀ (versionMade s idx v) := onFe_extends h

theorem publishEffect_extends {s f lo idx} (h : Safety.extends_ s₀ s) : Safety.extends_ s₀ (publishEffect s f lo idx) :=
  gResult_extends (versionMade_extends (graphWrite_extends (graphWrite_extends (graphWrite_extends (graphWrite_extends h)))))

theorem patchRun_extends {s f lo g st count off} (h : Safety.extends_ s₀ s) : Safety.extends_ s₀ (patchRun s f lo g st count off).2 := by
  unfold patchRun
  have hread := graphRead_extends (lo := lo) (off := 0) (n := 256) h
  generalize graphRead s lo 0 256 = hr at hread ⊢
  dsimp only
  refine ite_snd_extends hread (ite_snd_extends hread (ite_snd_extends hread ?_))
  generalize hm : graphRead _ _ _ _ = mr
  have hmasks : Safety.extends_ s₀ mr.2.2 := hm ▸ graphRead_extends hread
  clear hm
  refine ite_snd_extends hmasks ?_
  split
  · exact hmasks
  refine ite_snd_extends hmasks (ite_snd_extends hmasks ?_)
  generalize hs : gopRead _ _ _ _ _ _ = sr
  have hstaged : Safety.extends_ s₀ sr.2.2 := hs ▸ gopRead_extends hmasks
  clear hs
  refine ite_snd_extends hstaged (ite_snd_extends hstaged ?_)
  generalize hmp : graphRead _ _ _ _ = map
  have hmap : Safety.extends_ s₀ map.2.2 := hmp ▸ graphRead_extends hstaged
  clear hmp
  generalize hr : readRecords _ _ _ _ _ = rs
  have hrecs : Safety.extends_ s₀ rs.2.2 := hr ▸ readRecords_extends (fun _ _ _ ht => graphRead_extends ht) hmap
  clear hr
  refine ite_snd_extends hmap (ite_snd_extends hrecs ?_)
  split
  · exact hrecs
  · refine versionMade_extends (graphWrite_extends (graphWrite_extends (graphWrite_extends ?_)))
    generalize hn : graphWrite (List.foldl _ _ _) _ _ _ = u
    have hnew : Safety.extends_ s₀ u := hn ▸ graphWrite_extends (foldl_extends (fun _ _ ht => graphWrite_extends ht) hrecs)
    exact ite_extends (graphWrite_extends hnew) (graphWrite_extends hnew)

theorem onLaunch_extends {s l f} (h : Safety.extends_ s₀ s) : Safety.extends_ s₀ (onLaunch s l f) := onFe_extends h

theorem liveCountSet_extends {s lo slot n} (h : Safety.extends_ s₀ s) : Safety.extends_ s₀ (liveCount_ s lo slot n) := graphWrite_extends h

theorem launchStart_extends {s owner q g version args} (h : Safety.extends_ s₀ s) :
    Safety.extends_ s₀ (launchStart s owner q g version args).2 := by
  unfold launchStart
  split
  · exact h
  have hread := feRead_extends (q := q) (va := g.base) (n := 256) h
  generalize feRead s q g.base 256 = hr at hread ⊢
  dsimp only
  refine ite_snd_extends hread ?_
  split
  · exact hread
  split
  · exact hread
  cases args
  on_goal 1 => have hargs {va n} := feRead_extends (q := q) (va := va) (n := n) hread
  on_goal 2 => have hargs := hread
  all_goals
    refine ite_snd_extends hargs ?_
    generalize hm : feRead _ _ (_ + _) _ = mr
    have hmap : Safety.extends_ s₀ mr.2.2 := hm ▸ feRead_extends hargs
    clear hm
    refine ite_snd_extends hmap ?_
    generalize hr : readRecords _ _ _ _ _ = rr
    have hrecs : Safety.extends_ s₀ rr.2.2 := hr ▸ readRecords_extends (fun _ _ _ ht => feRead_extends ht) hmap
    clear hr
    exact ite_snd_extends hrecs (onFe_extends (onXlt_extends (graphWrite_extends (liveCountSet_extends hrecs))))

theorem launchRelease_extends {s l} (h : Safety.extends_ s₀ s) : Safety.extends_ s₀ (launchRelease s l) := by
  have hpass {u : State} {p : Option (Nat × Pass)} (hu : Safety.extends_ s₀ u) :
      Safety.extends_ s₀ (match p with | some (p, _) => passDiscard u p | none => u) := by
    split
    · exact passDiscard_extends hu
    · exact hu
  unfold launchRelease
  dsimp only
  split
  · exact h
  split
  · exact onFe_extends (hpass (onFe_extends h))
  · generalize hc : liveCount_ _ _ _ _ = u
    have hu : Safety.extends_ s₀ u := hc ▸ liveCountSet_extends (onFe_extends (hpass (onFe_extends h)))
    clear hc
    have hgone {c : Prop} [Decidable c] {lo a b d e} : Safety.extends_ s₀ (if c then graphWrite (graphWrite u lo a b) lo d e else u) :=
      ite_extends (graphWrite_extends (graphWrite_extends hu)) hu
    exact ite_extends hgone (onXlt_extends hgone)

theorem launchSettle_extends {s l} (h : Safety.extends_ s₀ s) : Safety.extends_ s₀ (launchSettle s l) := by
  unfold launchSettle
  dsimp only
  split
  · exact h
  · refine ite_extends h ?_
    split
    · split
      · exact endBare_extends (launchRelease_extends h)
      · exact launchRelease_extends h
    · exact onFe_extends (launchRelease_extends h)

theorem launchPass_extends {s l failed} (h : Safety.extends_ s₀ s) : Safety.extends_ s₀ (launchPass s l failed) := by
  unfold launchPass
  split
  · exact ite_extends h (passDiscard_extends h)
  · exact h

theorem launchFail_extends {s l n st addr} (h : Safety.extends_ s₀ s) : Safety.extends_ s₀ (launchFail s l n st addr) :=
  launchPass_extends (onLaunch_extends h)

theorem counterDown_extends {s x k} (h : Safety.extends_ s₀ s) : Safety.extends_ s₀ (counterDown s x k).2 :=
  graphWrite_extends (graphRead_extends h)

theorem nodeSatisfy_extends {s l n succ} (h : Safety.extends_ s₀ s) : Safety.extends_ s₀ (nodeSatisfy s l n succ) := by
  unfold nodeSatisfy
  dsimp only
  split
  · exact h
  · exact ite_extends h (onLaunch_extends (foldl_snd_extends (fun ⟨_, _⟩ _ ht => counterDown_extends ht) h))

theorem nodeFetch_extends {s q x n} (h : Safety.extends_ s₀ s) : Safety.extends_ s₀ (nodeFetch s q x n).2.2 :=
  ite_snd_snd_extends (feRead_extends h) (ite_snd_snd_extends (feRead_extends (feRead_extends h)) (feRead_extends (feRead_extends (feRead_extends
    h))))

theorem nodeRead_extends {s x n} (h : Safety.extends_ s₀ s) : Safety.extends_ s₀ (nodeRead s x n).2.2 := by
  unfold nodeRead
  dsimp only
  split
  · exact h
  · exact graphRead_extends (graphRead_extends (graphRead_extends h))

/-! ### Machine/SeqOps -/

theorem onSlotS_extends {s i f} (h : Safety.extends_ s₀ s) : Safety.extends_ s₀ (onSlotS s i f) := onSeq_extends h

theorem slotFree_extends {s i} (h : Safety.extends_ s₀ s) : Safety.extends_ s₀ (slotFree s i) := by
  unfold slotFree
  split
  · exact h
  · exact onSeq_extends h

theorem slotLeave_extends {s i reason} (h : Safety.extends_ s₀ s) : Safety.extends_ s₀ (slotLeave s i reason) := by
  unfold slotLeave
  dsimp only
  split
  · exact h
  · exact onSeq_extends (onSlotS_extends h)

theorem slotHold_extends {s i} (h : Safety.extends_ s₀ s) : Safety.extends_ s₀ (slotHold s i) := by
  unfold slotHold
  dsimp only
  split
  · exact h
  · split
    · exact onSeq_extends (onSlotS_extends h)
    · exact onSeq_extends (onSlotS_extends h)
    · exact h

theorem slotPending_extends {s i} (h : Safety.extends_ s₀ s) : Safety.extends_ s₀ (slotPending s i) := by
  unfold slotPending
  split
  · exact h
  · exact ite_extends (slotLeave_extends h) (ite_extends (slotHold_extends h) h)

theorem leafWrite_extends {s x i word} (h : Safety.extends_ s₀ s) : Safety.extends_ s₀ (leafWrite s x i word).2 := by
  unfold leafWrite
  dsimp only
  split
  · exact hostWrite_extends (tableTarget_extends (resolveIpa_extends h))
  · exact failedAt_extends (xltFault_extends (tableTarget_extends (resolveIpa_extends h)))
  · exact tableTarget_extends (resolveIpa_extends h)

theorem poolPop_extends {s x} (h : Safety.extends_ s₀ s) : Safety.extends_ s₀ (poolPop s x).2.2 := by
  unfold poolPop
  dsimp only
  split
  · exact h
  · exact ite_snd_snd_extends (fset_extends (vread_extends h)) (vread_extends h)

theorem poolPush_extends {x s page} (h : Safety.extends_ s₀ s) : Safety.extends_ s₀ (poolPush x s page) := by
  unfold poolPush
  dsimp only
  split
  · exact h
  · exact ite_extends (fset_extends (vwrite_extends h)) (vwrite_extends h)

theorem unmapAll_extends {s x} (h : Safety.extends_ s₀ s) : Safety.extends_ s₀ (unmapAll s x) :=
  foldl_extends (fun _ _ ht => leafWrite_extends ht) h

theorem ringStop_extends {s} (h : Safety.extends_ s₀ s) : Safety.extends_ s₀ (ringStop s) := onSeq_extends (fset_extends (fset_extends h))

theorem runDrop_extends {s t} (h : Safety.extends_ s₀ s) : Safety.extends_ s₀ (runDrop s t) := by
  unfold runDrop
  dsimp only
  split
  · exact h
  · exact foldl_extends (fun _ _ ht => slotPending_extends ht) (ite_extends (ringStop_extends (onSeq_extends h)) (onSeq_extends h))

/-! ### Machine/Entries -/

theorem addTask_extends {s k} (h : Safety.extends_ s₀ s) : Safety.extends_ s₀ (addTask s k).2 := onFe_extends h

theorem startTask_extends {s c e total} (h : Safety.extends_ s₀ s) : Safety.extends_ s₀ (startTask s c e total).2 :=
  ite_snd_extends (addTask_extends h) h

theorem drawEnter_extends {s t k key d} (h : Safety.extends_ s₀ s) : Safety.extends_ s₀ (drawEnter s t k key d) := by
  unfold drawEnter
  dsimp only
  split
  · exact h
  · exact ite_extends (onTask_extends (onPass_extends h)) (onPass_extends h)

theorem onDraw_extends {s t f} (h : Safety.extends_ s₀ s) : Safety.extends_ s₀ (onDraw s t f) :=
  foldl_extends (fun _ _ ht => ite_extends (tryClose_extends (releaseDraws_extends (onPass_extends ht))) ht) h

theorem startDraw_extends {s c} (h : Safety.extends_ s₀ s) : Safety.extends_ s₀ (startDraw s c).2 := by
  unfold startDraw
  dsimp only
  split
  · exact ite_snd_extends h (drawEnter_extends (addTask_extends h))
  · exact h

theorem startPassBegin_extends {s c} (h : Safety.extends_ s₀ s) : Safety.extends_ s₀ (startPassBegin s c).2 := by
  unfold startPassBegin
  dsimp only
  refine ite_snd_extends h ?_
  split
  · exact h
  · rename_i hp
    have hu := extends_of_eq_mk hp (passBegin_extends (addTask_extends h))
    exact onFe_extends hu
  · rename_i hp
    have hu := extends_of_eq_mk hp (passBegin_extends (addTask_extends h))
    exact demand_extends hu

theorem startPassEnd_extends {s c} (h : Safety.extends_ s₀ s) : Safety.extends_ s₀ (startPassEnd s c).2 := by
  unfold startPassEnd
  dsimp only
  split
  · exact h
  · exact ite_snd_extends (tryClose_extends (onPass_extends (addTask_extends h))) (ite_snd_extends h (passFree_extends h))

theorem startDispatch_extends {s c} (h : Safety.extends_ s₀ s) : Safety.extends_ s₀ (startDispatch s c).2 := ite_snd_extends h (addTask_extends h)

theorem startPress_extends {s c} (h : Safety.extends_ s₀ s) : Safety.extends_ s₀ (startPress s c).2 :=
  ite_snd_extends h (ite_snd_extends h (addTask_extends h))

theorem startWait_extends {s c} (h : Safety.extends_ s₀ s) : Safety.extends_ s₀ (startWait s c).2 := by
  unfold startWait
  dsimp only
  refine ite_snd_extends (addTask_extends h) ?_
  split
  · exact h
  · exact ite_snd_extends h (ite_snd_extends h (startTask_extends h))

theorem startLaunch_extends {s c} (h : Safety.extends_ s₀ s) : Safety.extends_ s₀ (startLaunch s c).2 := by
  unfold startLaunch
  split
  · split
    · rename_i hp
      have hu := extends_of_eq_mk hp (launchStart_extends h)
      exact hu
    · rename_i hp
      have hu := extends_of_eq_mk hp (launchStart_extends h)
      exact hu
    · rename_i hp
      have hu := extends_of_eq_mk hp (launchStart_extends h)
      exact startTask_extends hu
  · exact h

theorem ringWake_extends {s} (h : Safety.extends_ s₀ s) : Safety.extends_ s₀ (ringWake s) :=
  ite_extends h (foldl_extends (fun _ _ ht => ite_extends (demand_extends (send_extends (withPorts_extends ht))) ht) h)

theorem startStep_extends {s c} (h : Safety.extends_ s₀ s) : Safety.extends_ s₀ (startStep s c).2 := by
  unfold startStep
  dsimp only
  split
  · exact h
  · exact ite_snd_extends h (ite_snd_extends (ringWake_extends h) (onSeq_extends (ite_extends (rset_extends (addTask_extends h)) (addTask_extends
      h))))

theorem ringEntry_extends {s q n} (h : Safety.extends_ s₀ s) : Safety.extends_ s₀ (ringEntry s q n).2.2 := feRead_extends h

theorem fencesOf_extends {s q} (h : Safety.extends_ s₀ s) : Safety.extends_ s₀ (fencesOf s q).2 :=
  ite_snd_extends h (foldl_snd_extends (fun ⟨_, _⟩ _ ht => ite_snd_extends ht (ringEntry_extends ht)) h)

theorem queryWords_extends {s c} (h : Safety.extends_ s₀ s) : Safety.extends_ s₀ (queryWords s c).2 := by
  unfold queryWords
  dsimp only
  split
  · exact h
  · exact foldl_snd_extends (fun ⟨_, _⟩ _ ht => fencesOf_extends ht) h
  · exact h
  · exact h

theorem startQuery_extends {s c} (h : Safety.extends_ s₀ s) : Safety.extends_ s₀ (startQuery s c).2 := by
  unfold startQuery
  dsimp only
  split
  · exact bumpVersion_extends (feWrite_extends (queryWords_extends h))
  · exact feWrite_extends (queryWords_extends h)

theorem orphanWork_extends {s i key} (h : Safety.extends_ s₀ s) : Safety.extends_ s₀ (orphanWork s i key) := onSeq_extends (onFe_extends h)

theorem queueFree_extends {s i q} (h : Safety.extends_ s₀ s) : Safety.extends_ s₀ (queueFree s i q) := by
  unfold queueFree
  dsimp only
  refine waitsAbandoned_extends ?_
  refine onFe_extends ?_
  refine orphanWork_extends ?_
  split
  · exact passDiscard_extends h
  · exact h

theorem launchDiscard_extends {s l} (h : Safety.extends_ s₀ s) : Safety.extends_ s₀ (launchDiscard s l) := launchPass_extends (onLaunch_extends h)

theorem discardTask_extends {s t} (h : Safety.extends_ s₀ s) : Safety.extends_ s₀ (discardTask s t) := by
  unfold discardTask
  dsimp only
  split
  · exact h
  have hstop {f} : Safety.extends_ s₀ (onTask s t f) := onTask_extends h
  have hpass {p : Option (Nat × Pass)} {u : State} (hu : Safety.extends_ s₀ u) :
      Safety.extends_ s₀ (match p with | some (p, _) => passFail u p .preemptedDiscarded | none => u) := by
    split
    · exact passFail_extends hu
    · exact hu
  split
  · exact discardItems_extends hstop
  · exact discardItems_extends hstop
  · exact hstop
  · exact hstop
  · exact hpass hstop
  all_goals
    refine ite_extends (hpass hstop) (ite_extends (onDraw_extends (foldl_extends (fun _ _ ht => ?_) hstop)) (endBare_extends hstop))
    exact ite_extends (discardBlocks_extends (onPass_extends ht)) (onPass_extends ht)

theorem discardLaunch_extends {s l} (h : Safety.extends_ s₀ s) : Safety.extends_ s₀ (discardLaunch s l) := by
  unfold discardLaunch
  exact foldl_extends (fun _ _ ht => by
      split
      · exact ite_extends ht (discardTask_extends ht)
      · exact ht) (launchDiscard_extends h)

theorem discardCommand_extends {s t k} (h : Safety.extends_ s₀ s) : Safety.extends_ s₀ (discardCommand s t k) := by
  unfold discardCommand
  dsimp only
  split
  · exact h
  · refine ite_extends ?_ ?_
    · split
      · exact launchSettle_extends (discardLaunch_extends (onTask_extends h))
      · exact endBare_extends h
    · refine ite_extends ?_ (ite_extends (endBare_extends h) (discardTask_extends h))
      refine endBare_extends ?_
      refine runDrop_extends ?_
      split
      · exact launchSettle_extends (discardLaunch_extends h)
      · exact h

theorem dropTasks_extends {s c} (h : Safety.extends_ s₀ s) : Safety.extends_ s₀ (dropTasks s c) := onFe_extends h

theorem tdPreempt_extends {s c} (h : Safety.extends_ s₀ s) : Safety.extends_ s₀ (tdPreempt s c) := by
  unfold tdPreempt
  exact onFe_extends (foldl_extends (fun _ _ ht => onQueue_extends ht) (foldl_extends (fun _ _ ht => truUnbind_extends ht) (dropTasks_extends
    (foldl_extends (fun _ _ ht => discardItems_extends ht) (foldl_extends (fun _ _ ht => launchRelease_extends ht) (foldl_extends (fun _ _ ht =>
    passDiscard_extends ht) (foldl_extends (fun _ _ ht => unmapAll_extends ht) (foldl_extends (fun _ _ ht => runDrop_extends ht) h))))))))

theorem tdSweep_extends {s c drain} (h : Safety.extends_ s₀ s) : Safety.extends_ s₀ (tdSweep s c drain) :=
  foldl_extends (fun _ _ ht => ite_extends (drainCheck_extends (onQueue_extends ht)) ht) h

theorem startTeardown_extends {s c} (h : Safety.extends_ s₀ s) : Safety.extends_ s₀ (startTeardown s c).2 := by
  unfold startTeardown
  dsimp only
  split
  · exact h
  · split
    · exact onFe_extends (addTask_extends h)
    · exact ite_extends (tdSweep_extends (onFe_extends (addTask_extends h))) (tdPreempt_extends (tdSweep_extends (onFe_extends (addTask_extends
        h))))

theorem tdFences_extends {s i st} (h : Safety.extends_ s₀ s) : Safety.extends_ s₀ (tdFences s i st) := by
  unfold tdFences
  dsimp only
  split
  · exact h
  · exact ite_extends (onQueue_extends (fencesOf_extends h)) (msixRaise_extends (tailWrite_extends (onQueue_extends (foldl_extends (fun _ _ ht => by
      split
      · exact ht
      · exact ite_extends (fenceWrite_extends ht) (onEntry_extends (onQueue_extends ht))) (fencesOf_extends h)))))

theorem killQueue_extends {s i} (h : Safety.extends_ s₀ s) : Safety.extends_ s₀ (killQueue s i) := by
  unfold killQueue
  dsimp only
  split
  · exact onQueue_extends h
  · exact waitsAbandoned_extends (coverRun_extends (onQueue_extends h))

theorem tdSlots_extends {s c} (h : Safety.extends_ s₀ s) : Safety.extends_ s₀ (tdSlots s c) :=
  foldl_extends (fun _ _ ht => slotFree_extends (foldl_extends (fun _ _ ht1 => poolPush_extends ht1) ht)) h

theorem freeFunction_extends {s f} (h : Safety.extends_ s₀ s) : Safety.extends_ s₀ (freeFunction s f) :=
  onXlt_extends (onSeq_extends (onFe_extends (foldl_extends (fun _ _ ht => ite_extends (truUnbind_extends ht) ht) (foldl_extends (fun _ _ ht =>
    slotFree_extends ht) (foldl_extends (fun _ _ ht => onFe_extends ht) (foldl_extends (fun _ _ ht => onFe_extends ht) h))))))

theorem resetWindows_extends {s f} (h : Safety.extends_ s₀ s) : Safety.extends_ s₀ (resetWindows s f) :=
  withHif_extends (onCcx_extends (keepRegs_extends h) rfl) rfl

theorem flrEnd_extends {s f} (h : Safety.extends_ s₀ s) : Safety.extends_ s₀ (flrEnd s f) :=
  ite_extends (resetWindows_extends (freeFunction_extends h)) h

theorem flrContext_extends {f s c} (h : Safety.extends_ s₀ s) : Safety.extends_ s₀ (flrContext f s c) := by
  unfold flrContext
  dsimp only
  split
  · exact tdPreempt_extends (foldl_extends (fun _ _ ht => onQueue_extends ht) h)
  · exact h
  · exact tdPreempt_extends (tdSweep_extends (onFe_extends h))

theorem flrStart_extends {s f} (h : Safety.extends_ s₀ s) : Safety.extends_ s₀ (flrStart s f) :=
  ite_extends h (flrEnd_extends (foldl_extends (fun _ _ ht => flrContext_extends ht) (withHif_extends h rfl)))

theorem beginCmd_extends {s c} (h : Safety.extends_ s₀ s) : Safety.extends_ s₀ (beginCmd s c).2 := by
  unfold beginCmd
  split
  · exact startDraw_extends h
  · exact ite_snd_extends (startPassBegin_extends h) (startPassEnd_extends h)
  · exact startDispatch_extends h
  · exact startTask_extends h
  · exact startTask_extends h
  · exact startPress_extends h
  · exact h
  · exact startWait_extends h
  · exact startLaunch_extends h
  · exact startStep_extends h
  · exact startQuery_extends h
  · exact startTeardown_extends h

theorem beginEntry_extends {s i} (h : Safety.extends_ s₀ s) : Safety.extends_ s₀ (beginEntry s i) := by
  unfold beginEntry
  dsimp only
  split
  · exact h
  · split
    · exact h
    · split
      · refine ite_extends h ?_
        refine ite_extends (entryEnd_extends h) ?_
        split
        · exact h
        · rename_i hp
          have hu := extends_of_eq_mk hp (beginCmd_extends (onEntry_extends h))
          exact hu
        · rename_i hp
          have hu := extends_of_eq_mk hp (beginCmd_extends (onEntry_extends h))
          exact entryEnd_extends hu
      · exact h

theorem checkNow_extends {s i q e bad} (h : Safety.extends_ s₀ s) : Safety.extends_ s₀ (checkNow s i q e bad) := by
  unfold checkNow
  dsimp only
  split
  · exact entryEnd_extends (checkEntry_extends h)
  · exact beginEntry_extends (onEntry_extends (checkEntry_extends h))

theorem rejectUndefined_extends {i fuel s} (h : Safety.extends_ s₀ s) : Safety.extends_ s₀ (rejectUndefined i fuel s) := by
  induction fuel generalizing s with
  | zero => exact h
  | succ fuel ih =>
    unfold rejectUndefined
    split
    · exact h
    · exact ite_extends (ih (entryEnd_extends h)) h

theorem sweepUndefined_extends {s i} (h : Safety.extends_ s₀ s) : Safety.extends_ s₀ (sweepUndefined s i) := rejectUndefined_extends h

theorem fetchOne_extends {s i} (h : Safety.extends_ s₀ s) : Safety.extends_ s₀ (fetchOne s i) := by
  unfold fetchOne
  dsimp only
  split
  · exact h
  · exact ite_extends (onQueue_extends h) (ite_extends (sweepUndefined_extends (onQueue_extends (ringEntry_extends h))) (entryFail_extends
      (onQueue_extends (ringEntry_extends h))))

theorem nodeEnd_extends {s l n st r addr} (h : Safety.extends_ s₀ s) : Safety.extends_ s₀ (nodeEnd s l n st r addr) := by
  unfold nodeEnd
  dsimp only
  split
  · exact h
  · split
    · exact launchSettle_extends (onLaunch_extends (ite_extends (nodeSatisfy_extends (ite_extends h (launchFail_extends h))) (ite_extends h
        (launchFail_extends h))))
    · exact ite_extends (onLaunch_extends (ite_extends h (launchFail_extends h))) (ite_extends (onLaunch_extends (fenceWrite_extends (ite_extends h
        (launchFail_extends h)))) (launchSettle_extends (onLaunch_extends (ite_extends (nodeSatisfy_extends (msixRaise_extends (tailWrite_extends
        (fenceWrite_extends (ite_extends h (launchFail_extends h)))))) (msixRaise_extends (tailWrite_extends (fenceWrite_extends (ite_extends h
        (launchFail_extends h)))))))))

theorem nodeTry_extends {s l n} (h : Safety.extends_ s₀ s) : Safety.extends_ s₀ (nodeTry s l n).2 := by
  unfold nodeTry
  dsimp only
  split
  · exact h
  · refine ite_snd_extends (nodeEnd_extends (onLaunch_extends (nodeFetch_extends h))) ?_
    split
    · exact nodeEnd_extends (onLaunch_extends (checkEntry_extends (nodeFetch_extends h)))
    · refine ite_snd_extends (nodeEnd_extends (onLaunch_extends (checkEntry_extends (nodeFetch_extends h)))) ?_
      split
      · exact h
      · rename_i hp
        have hu := extends_of_eq_mk hp (beginCmd_extends (onLaunch_extends (checkEntry_extends (nodeFetch_extends h))))
        exact nodeEnd_extends hu
      · rename_i hp
        have hu := extends_of_eq_mk hp (beginCmd_extends (onLaunch_extends (checkEntry_extends (nodeFetch_extends h))))
        exact ite_extends (nodeSatisfy_extends hu) hu

theorem nodeFirst_extends {l ns s} (h : Safety.extends_ s₀ s) : Safety.extends_ s₀ (nodeFirst l ns s) := by
  induction ns generalizing s with
  | nil => exact h
  | cons e ns ih =>
    unfold nodeFirst
    split
    · rename_i hp
      have hu := extends_of_eq_mk hp (nodeTry_extends h)
      exact hu
    · rename_i hp
      have hu := extends_of_eq_mk hp (nodeTry_extends h)
      exact ih hu

theorem nodeFences_extends {l ns s} (h : Safety.extends_ s₀ s) : Safety.extends_ s₀ (nodeFences l ns s) := by
  induction ns generalizing s with
  | nil => exact h
  | cons e ns ih =>
    obtain ⟨x₁, x₂⟩ := e
    unfold nodeFences
    dsimp only
    split
    · exact h
    · split
      · exact h
      · exact ite_extends h (ih (nodeEnd_extends (onLaunch_extends (nodeRead_extends h))))

/-! ### Machine/Seq -/

theorem sResult_extends {s f st hd} (h : Safety.extends_ s₀ s) : Safety.extends_ s₀ (sResult s f st hd) := rset_extends h

theorem stepFail_extends {s t st addr index} (h : Safety.extends_ s₀ s) : Safety.extends_ s₀ (stepFail s t st addr index) :=
  endBare_extends (runDrop_extends h)

theorem mapPages_extends {i l s} (h : Safety.extends_ s₀ s) : Safety.extends_ s₀ (mapPages i l s).2 := by
  induction l generalizing s with
  | nil => exact h
  | cons e l ih =>
    unfold mapPages
    dsimp only
    split
    · exact h
    · exact ite_snd_extends (poolPop_extends h) (ite_snd_extends (ih (onSlotS_extends (leafWrite_extends (poolPop_extends h)))) (fset_extends
        (leafWrite_extends (poolPop_extends h))))

theorem addRow_extends {a i count decode} (h : Safety.extends_ s₀ a.2) : Safety.extends_ s₀ (addRow a i count decode).2 := by
  unfold addRow
  dsimp only
  split
  · exact h
  · refine ite_snd_extends (onSlotS_extends h) ?_
    split
    · exact mapPages_extends h
    · exact onSlotS_extends (mapPages_extends h)

theorem formPass_extends {batchMax budget chunk ring decode l a} (h : Safety.extends_ s₀ a.2) :
    Safety.extends_ s₀ (formPass batchMax budget chunk ring decode l a).2 := by
  induction l generalizing a with
  | nil => exact h
  | cons e l ih =>
    unfold formPass
    exact ite_snd_extends h (ih (addRow_extends h))

theorem zeroRing_extends {r l s} (h : Safety.extends_ s₀ s) : Safety.extends_ s₀ (zeroRing r l s).2 := by
  induction l generalizing s with
  | nil => exact h
  | cons e l ih =>
    unfold zeroRing
    exact ite_snd_extends (vwrite_extends h) (ite_snd_extends (vwrite_extends (vwrite_extends h)) (ih (vwrite_extends (vwrite_extends h))))

theorem ringBegin_extends {s t k r} (h : Safety.extends_ s₀ s) : Safety.extends_ s₀ (ringBegin s t k r).2 := by
  unfold ringBegin
  dsimp only
  refine ite_snd_extends (vread_extends h) ?_
  split
  · exact vread_extends h
  · exact ite_snd_extends (zeroRing_extends (vread_extends h)) (onSeq_extends (fset_extends (zeroRing_extends (vread_extends h))))

theorem writeTokens_extends {run l s} (h : Safety.extends_ s₀ s) : Safety.extends_ s₀ (writeTokens run l s).2 := by
  induction l generalizing s with
  | nil => exact h
  | cons e l ih =>
    obtain ⟨x₁, x₂⟩ := e
    unfold writeTokens
    dsimp only
    split
    · exact ih h
    · exact ite_snd_extends (ih (vwrite_extends h)) (vwrite_extends h)

theorem seqTokenDone_extends {s i x pos out} (h : Safety.extends_ s₀ s) : Safety.extends_ s₀ (tokenDone_ s i x pos out).2 := by
  unfold tokenDone_
  dsimp only
  split
  · exact slotLeave_extends (onSlotS_extends h)
  · exact slotPending_extends (onSlotS_extends h)

theorem harvestRow_extends {a w} (h : Safety.extends_ s₀ a.2) : Safety.extends_ s₀ (harvestRow a w).2 := by
  unfold harvestRow
  dsimp only
  split
  · exact h
  · exact ite_snd_extends (slotLeave_extends h) (ite_snd_extends (seqTokenDone_extends h) (ite_snd_extends (slotPending_extends (onSlotS_extends h))
      (ite_snd_extends (slotLeave_extends (onSlotS_extends h)) (seqTokenDone_extends h))))

theorem writeEvents_extends {f ctx l s} (h : Safety.extends_ s₀ s) : Safety.extends_ s₀ (writeEvents f ctx l s).2 := by
  induction l generalizing s with
  | nil => exact h
  | cons e l ih =>
    unfold writeEvents
    exact ite_snd_extends h (ih (fset_extends (hostWrite_extends h)))

theorem harvestEnd_extends {s t} (h : Safety.extends_ s₀ s) : Safety.extends_ s₀ (harvestEnd s t) := by
  unfold harvestEnd
  dsimp only
  split
  · exact h
  · exact ite_extends h (ite_extends (onSeq_extends (writeEvents_extends h)) (ite_extends (endBare_extends (onSeq_extends (ite_extends
      (ringStop_extends (ite_extends (msixRaise_extends (onSeq_extends (writeEvents_extends h))) (onSeq_extends (writeEvents_extends h))))
      (ite_extends (msixRaise_extends (onSeq_extends (writeEvents_extends h))) (onSeq_extends (writeEvents_extends h)))))) (onSeq_extends
      (ite_extends (ringStop_extends (ite_extends (msixRaise_extends (onSeq_extends (writeEvents_extends h))) (onSeq_extends (writeEvents_extends
      h)))) (ite_extends (msixRaise_extends (onSeq_extends (writeEvents_extends h))) (onSeq_extends (writeEvents_extends h)))))))

theorem releaseEnd_extends {s i x} (h : Safety.extends_ s₀ s) : Safety.extends_ s₀ (releaseEnd s i x) :=
  ite_extends (slotFree_extends h) (onSlotS_extends h)

/-! ### Machine/UapOps -/

theorem onPort_extends {s p f} (h : Safety.extends_ s₀ s) : Safety.extends_ s₀ (onPort s p f) := withPorts_extends h

theorem uapIrq_extends {s b} (h : Safety.extends_ s₀ s) : Safety.extends_ s₀ (uapIrq s b) :=
  ite_extends (msixRaise_extends (rset_extends h)) (rset_extends h)

theorem ringFail_extends {s st} (h : Safety.extends_ s₀ s) : Safety.extends_ s₀ (ringFail s st) := by
  have hports {u : State} {c : Prop} [Decidable c] {f1 f2 f3} (hu : Safety.extends_ s₀ u) :
      Safety.extends_ s₀ (onPort (if c then onPort (onSeq u f1) 0 f2 else onSeq u f1) 1 f3) :=
    onPort_extends (ite_extends (onPort_extends (onSeq_extends hu)) (onSeq_extends hu))
  unfold ringFail
  dsimp only
  split
  · exact h
  refine ite_extends h ?_
  split
  · split
    · refine discardLaunch_extends (hports ?_)
      split
      · exact raiseFor_extends h
      · exact h
    · refine hports ?_
      split
      · exact raiseFor_extends h
      · exact h
  · refine hports ?_
    split
    · exact raiseFor_extends h
    · exact h

theorem uapMove_extends {s p st} (h : Safety.extends_ s₀ s) : Safety.extends_ s₀ (uapMove s p st) :=
  ite_extends h (ite_extends (ringFail_extends (ite_extends (uapIrq_extends (onPort_extends (ite_extends (fset_extends (ite_extends (fset_extends
    (fset_extends h)) (fset_extends h))) (ite_extends (fset_extends (fset_extends h)) (fset_extends h))))) (onPort_extends (ite_extends
    (fset_extends (ite_extends (fset_extends (fset_extends h)) (fset_extends h))) (ite_extends (fset_extends (fset_extends h)) (fset_extends h))))))
    (ite_extends (uapIrq_extends (onPort_extends (ite_extends (fset_extends (ite_extends (fset_extends (fset_extends h)) (fset_extends h)))
    (ite_extends (fset_extends (fset_extends h)) (fset_extends h))))) (onPort_extends (ite_extends (fset_extends (ite_extends (fset_extends
    (fset_extends h)) (fset_extends h))) (ite_extends (fset_extends (fset_extends h)) (fset_extends h))))))

theorem uapTry_extends {s p} (h : Safety.extends_ s₀ s) : Safety.extends_ s₀ (uapTry s p) := by
  unfold uapTry
  refine ite_extends h ?_
  split
  · exact ite_extends (uapMove_extends h) h
  · exact ite_extends (uapMove_extends h) h
  · exact uapMove_extends h
  · exact h

theorem uapWakeUp_extends {s p pattern} (h : Safety.extends_ s₀ s) : Safety.extends_ s₀ (uapWakeUp s p pattern) :=
  ite_extends h (uapTry_extends (demand_extends (onPort_extends (ite_extends (send_extends h) h))))

theorem matchPeer_extends {s p} (h : Safety.extends_ s₀ s) : Safety.extends_ s₀ (matchPeer s p) := fset_extends h

theorem wakeReport_extends {s code detail} (h : Safety.extends_ s₀ s) : Safety.extends_ s₀ (wakeReport s code detail) := onPwr_extends h

theorem wakePcie_extends {s} (h : Safety.extends_ s₀ s) : Safety.extends_ s₀ (wakePcie s) :=
  ite_extends (ite_extends (withBoot_extends h rfl rfl) h) (ite_extends (ite_extends (send_extends (ite_extends (linkWake_extends (withHif_extends h
    rfl)) (withHif_extends h rfl))) (withHif_extends h rfl)) h)

theorem wakeEvent_extends {s code detail} (h : Safety.extends_ s₀ s) : Safety.extends_ s₀ (wakeEvent s code detail) :=
  ite_extends (wakePcie_extends (onPwr_extends (rset_extends (ite_extends h (fset_extends (fset_extends h)))))) (fset_extends (wakePcie_extends
    (onPwr_extends (rset_extends (ite_extends h (fset_extends (fset_extends h)))))))

/-! ### Machine/Recover -/

theorem recDrop_extends {s f} (h : Safety.extends_ s₀ s) : Safety.extends_ s₀ (recDrop s f) := fset_extends h

theorem recRing_extends {s f bytes} (h : Safety.extends_ s₀ s) : Safety.extends_ s₀ (recRing s f bytes) :=
  ite_extends h (ite_extends (fcount_extends (recDrop_extends h)) (msixRaise_extends (fset_extends (hostWrite_extends h))))

theorem notifyLiaison_extends {s} (h : Safety.extends_ s₀ s) : Safety.extends_ s₀ (notifyLiaison s) := by
  unfold notifyLiaison
  split
  · exact h
  · exact ite_extends h (chSend_extends (onInt_extends h))

theorem recWrite_extends {s r serial window level flags} (h : Safety.extends_ s₀ s) : Safety.extends_ s₀ (recWrite s r serial window level flags) := by
  unfold recWrite
  dsimp only
  refine ite_extends (notifyLiaison_extends (onInt_extends h)) ?_
  split
  · exact ite_extends (recRing_extends (notifyLiaison_extends (onInt_extends h))) (recRing_extends (recRing_extends (notifyLiaison_extends
      (onInt_extends h))))
  · exact recRing_extends (notifyLiaison_extends (onInt_extends h))

theorem takeRec_extends {s} (h : Safety.extends_ s₀ s) : Safety.extends_ s₀ (takeRec s).2 := onInt_extends h

theorem intView_extends {s} (h : Safety.extends_ s₀ s) : Safety.extends_ s₀ (intView s) :=
  fset_extends (fset_extends (fset_extends (fset_extends (fset_extends h))))

theorem faultN_extends (h : Safety.extends_ s₀ s) : Safety.extends_ s₀ { s with boot := { s.boot with faultN := true } } :=
  withBoot_extends h rfl rfl

theorem failsafeEnter_extends {s cause} (h : Safety.extends_ s₀ s) : Safety.extends_ s₀ (failsafeEnter s cause) := by
  rw [failsafeEnter]
  refine ite_extends h (intView_extends (onInt_extends (faultN_extends ?_)))
  refine foldl_extends (fun _ _ ht => uapMove_extends ht) (withDsp_extends ?_)
  refine foldl_extends (fun _ _ ht => fset_extends ht) (rset_extends (fset_extends (fset_extends ?_)))
  exact recWrite_extends (takeRec_extends (send_extends h))

theorem failOwner_extends {s k st} (h : Safety.extends_ s₀ s) : Safety.extends_ s₀ (failOwner s k st) := by
  unfold failOwner
  split
  · exact taskFail_extends h
  · exact passFail_extends h
  · split
    · exact passFail_extends h
    · exact h

theorem dropBlocks_extends {s p st} (h : Safety.extends_ s₀ s) : Safety.extends_ s₀ (dropBlocks s p st) :=
  foldl_extends (fun _ _ ht => dropBlock_extends (failOwner_extends ht)) h

theorem dropTiles_extends {s c st} (h : Safety.extends_ s₀ s) : Safety.extends_ s₀ (dropTiles s c st) :=
  foldl_extends (fun _ _ ht => freeTile_extends (foldl_extends (fun _ _ ht1 => dropBlock_extends ht1) (passFail_extends ht))) h

theorem failTasks_extends {s p st} (h : Safety.extends_ s₀ s) : Safety.extends_ s₀ (failTasks s p st) :=
  foldl_extends (fun _ _ ht => onTask_extends (taskFail_extends ht)) h

theorem zeroFolio_extends {s k} (h : Safety.extends_ s₀ s) : Safety.extends_ s₀ (zeroFolio s k) :=
  onMem_extends_of_wf h id (wf_filter _)

theorem isolate_extends {s u} (h : Safety.extends_ s₀ s) : Safety.extends_ s₀ (isolate s u) := onMem_extends h rfl rfl

theorem restartCore_extends {s c st} (h : Safety.extends_ s₀ s) : Safety.extends_ s₀ (restartCore s c st) :=
  ite_extends (fset_extends (fcount_extends (foldl_extends (fun _ _ ht => chReset_extends ht) (pmpReset_extends h)))) (onCcx_extends (ite_extends
    (fset_extends (onCcx_extends (fset_extends (fcount_extends (foldl_extends (fun _ _ ht => chReset_extends ht) (pmpReset_extends h)))) rfl))
    (fset_extends (fcount_extends (foldl_extends (fun _ _ ht => chReset_extends ht) (pmpReset_extends h))))) rfl)

theorem dropWalks_extends {s st} (h : Safety.extends_ s₀ s) : Safety.extends_ s₀ (dropWalks s st) := onXlt_extends h

theorem resetSlice_extends {s k} (h : Safety.extends_ s₀ s) : Safety.extends_ s₀ (resetSlice s k) := maintWays_extends h

theorem failFetched_extends {s st} (h : Safety.extends_ s₀ s) : Safety.extends_ s₀ (failFetched s st) :=
  foldl_extends (fun _ _ ht => foldl_extends (fun _ _ ht1 => entryEnd_extends ht1) ht) h

theorem resetUnit_extends {s u st} (h : Safety.extends_ s₀ s) : Safety.extends_ s₀ (resetUnit s u st) := by
  unfold resetUnit
  dsimp only
  refine ite_extends (ite_extends (ite_extends (onSc_extends (isolate_extends h)) (foldl_extends (fun _ _ ht => foldl_extends (fun _ _ ht1 => by
      split
      · exact ite_extends ht1 (onGroup_extends (parkGroup_extends ht1))
      · exact ht1) ht) (onSc_extends (isolate_extends h)))) (coreClear_extends (dropBlocks_extends (isolate_extends h)))) ?_
  refine ite_extends (onEngine_extends (dropBlocks_extends (isolate_extends h))) ?_
  refine ite_extends (dropTiles_extends (isolate_extends h)) ?_
  refine ite_extends (zeroFolio_extends (dropTiles_extends (dropBlocks_extends (isolate_extends h)))) ?_
  refine ite_extends (resetSlice_extends (isolate_extends h)) ?_
  refine ite_extends (onMem_extends (isolate_extends h) rfl rfl) ?_
  split
  · exact foldl_extends (fun _ _ ht => passFail_extends (dropBlocks_extends ht)) (isolate_extends h)
  · exact foldl_extends (fun _ _ ht => passFail_extends (dropBlocks_extends ht)) (isolate_extends h)
  · exact failFetched_extends (onFe_extends (foldl_extends (fun _ _ ht => qResult_extends ht) (isolate_extends h)))
  · exact failTasks_extends (foldl_extends (fun _ _ ht => discardLaunch_extends ht) (isolate_extends h))
  · exact foldl_extends (fun _ _ ht => stepFail_extends ht) (isolate_extends h)
  · exact onGfx_extends (foldl_extends (fun _ _ ht => ite_extends (passFail_extends ht) ht) (isolate_extends h))
  · exact dropWalks_extends (isolate_extends h)
  · exact failTasks_extends (isolate_extends h)
  · exact withHif_extends (isolate_extends h) rfl
  · exact isolate_extends h
  · exact ite_extends (failTasks_extends (isolate_extends h)) (ite_extends (withDsp_extends (isolate_extends h)) (ite_extends (uapTry_extends
      (uapMove_extends (isolate_extends h))) (ite_extends (restartCore_extends (isolate_extends h)) (isolate_extends h))))

theorem resetCore_extends {s b st} (h : Safety.extends_ s₀ s) : Safety.extends_ s₀ (resetCore s b st) :=
  ite_extends (coreClear_extends (dropBlocks_extends (isolate_extends h))) (onEngine_extends (dropBlocks_extends (isolate_extends h)))

theorem domSet_extends {s d now} (h : Safety.extends_ s₀ s) : Safety.extends_ s₀ (domSet s d now) := fset_extends (fset_extends (fset_extends h))

theorem resetCluster_extends {s k st} (h : Safety.extends_ s₀ s) : Safety.extends_ s₀ (resetCluster s k st) :=
  withDsp_extends (domSet_extends (domSet_extends (onPwr_extends (foldl_extends (fun _ _ ht => ite_extends (fset_extends (fset_extends (fset_extends
    (fset_extends ht)))) (fset_extends (fset_extends (fset_extends ht)))) (onMem_extends (keepRegs_extends (onXlt_extends (foldl_extends (fun _ _ ht
    => onEngine_extends ht) (foldl_extends (fun _ _ ht => coreClear_extends ht) (zeroFolio_extends (dropTiles_extends (dropBlocks_extends h)))))))
    rfl rfl)))))

theorem dieHalt_extends {s} (h : Safety.extends_ s₀ s) : Safety.extends_ s₀ (dieHalt s) :=
  onMem_extends (onFe_extends (onSeq_extends (onGfx_extends (onSc_extends h)))) rfl rfl

theorem dieQueue_extends {st s i} (h : Safety.extends_ s₀ s) : Safety.extends_ s₀ (dieQueue st s i) := killQueue_extends (tdFences_extends h)

theorem dieQueues_extends {s st n} (h : Safety.extends_ s₀ s) : Safety.extends_ s₀ (dieQueues s st n) :=
  foldl_extends (fun _ _ ht => dieQueue_extends ht) h

/-- Folio memory is emptied. -/
theorem clearDie_extends {s} (h : Safety.extends_ s₀ s) : Safety.extends_ s₀ (clearDie s) :=
  extends_of_canonical h rfl rfl rfl fun ⟨h1, h2, _, h4, h5, h6, h7⟩ => ⟨h1, h2, rfl, h4, h5, h6, h7⟩

theorem latchPads_extends {s d} (h : Safety.extends_ s₀ s) : Safety.extends_ s₀ (latchPads s d) :=
  ite_extends (fset_extends h) (ite_extends (fset_extends h) (ite_extends (fset_extends h) h))

theorem dieRest_extends {s} (h : Safety.extends_ s₀ s) : Safety.extends_ s₀ (dieRest s) := by
  unfold dieRest
  exact onInt_extends (onPwr_extends (foldl_extends (fun _ _ ht => flrEnd_extends ht) (foldl_extends (fun _ _ ht => ite_extends (fset_extends ht)
    ht) (foldl_extends (fun _ _ ht => domSet_extends ht) (clearDie_extends (keepRegs_extends (ite_extends (fset_extends (foldl_extends (fun _ _ ht
    => ite_extends (latchPads_extends ht) ht) (foldl_extends (fun _ _ ht => ite_extends ht (uapMove_extends ht)) (chReset_extends (maintWays_extends
    h))))) (fset_extends (fset_extends (foldl_extends (fun _ _ ht => ite_extends (latchPads_extends ht) ht) (foldl_extends (fun _ _ ht =>
    ite_extends ht (uapMove_extends ht)) (chReset_extends (maintWays_extends h)))))))))))))

theorem applyImage_extends {s} (h : Safety.extends_ s₀ s) : Safety.extends_ s₀ (applyImage s) :=
  fset_extends (onPwr_extends (fset_extends (fset_extends h)))

theorem resetDomains_extends {s} (h : Safety.extends_ s₀ s) : Safety.extends_ s₀ (resetDomains s) :=
  foldl_extends (fun _ _ ht => domSet_extends ht) h

theorem linkStart_extends {s} (h : Safety.extends_ s₀ s) : Safety.extends_ s₀ (linkStart s) := withBoot_extends h rfl rfl

theorem linkAgain_extends {s old} (h : Safety.extends_ s₀ s) : Safety.extends_ s₀ (linkAgain s old) :=
  ite_extends (linkStart_extends h) (fset_extends (fset_extends (rset_extends (linkStart_extends h))))

theorem resetChannels_extends {old s} (h : Safety.extends_ s₀ s) : Safety.extends_ s₀ (resetChannels old s) :=
  foldl_extends (fun _ _ ht => ite_extends ht (ite_extends (chAborted_extends ht) (chSet_extends ht))) h

/-- HBM, folio memory and the SRAM are emptied. -/
theorem packageReset_extends {s} (h : Safety.extends_ s₀ s) : Safety.extends_ s₀ (packageReset s) := by
  unfold packageReset
  refine linkAgain_extends (resetChannels_extends (foldl_extends (fun _ _ ht => ite_extends (fset_extends ht) ht)
    (resetDomains_extends (applyImage_extends ?_))))
  refine extends_of_canonical h rfl rfl rfl fun ⟨h1, _, _, _, h5, h6, h7⟩ => ⟨h1, rfl, rfl, rfl, h5, h6, ?_⟩
  exact sorted_filter _ h7

theorem flashEnd_extends {s st} (h : Safety.extends_ s₀ s) : Safety.extends_ s₀ (flashEnd s st) :=
  fset_extends (fset_extends (withBoot_extends h rfl rfl))

theorem flashAbandon_extends {s} (h : Safety.extends_ s₀ s) : Safety.extends_ s₀ (flashAbandon s) := by
  unfold flashAbandon
  dsimp only
  split
  · exact h
  · exact ite_extends (flashEnd_extends h) (withBoot_extends h rfl rfl)

theorem packageRecover_extends {s} (h : Safety.extends_ s₀ s) : Safety.extends_ s₀ (packageRecover s) :=
  packageReset_extends (flashAbandon_extends h)

/-! ### Machine/DspOps -/

theorem onStream_extends {s x f} (h : Safety.extends_ s₀ s) : Safety.extends_ s₀ (onStream s x f) := withDsp_extends h

theorem onPipe_extends {s p f} (h : Safety.extends_ s₀ s) : Safety.extends_ s₀ (onPipe s p f) := withDsp_extends h

/-! ### Machine/Display -/

theorem dspIrq_extends {s causes} (h : Safety.extends_ s₀ s) : Safety.extends_ s₀ (dspIrq s causes) :=
  ite_extends (msixRaise_extends (rset_extends h)) (rset_extends h)

theorem commit_extends {s x} (h : Safety.extends_ s₀ s) : Safety.extends_ s₀ (commit s x) := by
  unfold commit
  dsimp only
  refine ite_extends h ?_
  split
  · exact fset_extends (withFreeCtr_extends h ((Nat.le_succ _)))
  · exact onStream_extends (fset_extends (fset_extends (withFreeCtr_extends h ((Nat.le_succ _)))))

theorem commitClear_extends {s x} (h : Safety.extends_ s₀ s) : Safety.extends_ s₀ (commitClear s x) := onStream_extends (fset_extends h)

theorem uncancel_extends {s x} (h : Safety.extends_ s₀ s) : Safety.extends_ s₀ (uncancel s x) := by
  unfold uncancel
  split
  · exact ite_extends (onStream_extends (fset_extends h)) h
  · exact h

theorem takePipe_extends {x s p} (h : Safety.extends_ s₀ s) : Safety.extends_ s₀ (takePipe x s p) :=
  ite_extends (ite_extends (fset_extends (fset_extends (fset_extends (onPipe_extends h)))) (fset_extends (fset_extends (onPipe_extends h))))
    (ite_extends (fset_extends (onPipe_extends h)) h)

theorem takeCommit_extends {s x} (h : Safety.extends_ s₀ s) : Safety.extends_ s₀ (takeCommit s x) :=
  foldl_extends (fun _ _ ht => takePipe_extends ht) (ite_extends (fset_extends (fset_extends (ite_extends (fset_extends (onStream_extends
    (commitClear_extends h))) (onStream_extends (commitClear_extends h))))) (fset_extends (ite_extends (fset_extends (onStream_extends
    (commitClear_extends h))) (onStream_extends (commitClear_extends h)))))

theorem latchTick_extends {x s} (h : Safety.extends_ s₀ s) : Safety.extends_ s₀ (latchTick x s) :=
  withDsp_extends (onStream_extends (ite_extends (fset_extends (rset_extends h)) (rset_extends h)))

theorem latchPoint_extends {x s} (h : Safety.extends_ s₀ s) : Safety.extends_ s₀ (latchPoint x s) := by
  unfold latchPoint
  dsimp only
  refine ite_extends (uncancel_extends h) ?_
  split
  · exact dspIrq_extends (latchTick_extends (uncancel_extends h))
  · exact dspIrq_extends (takeCommit_extends (latchTick_extends (uncancel_extends h)))
  · exact dspIrq_extends (fcount_extends (latchTick_extends (uncancel_extends h)))
  · exact dspIrq_extends (fset_extends (commitClear_extends (latchTick_extends (uncancel_extends h))))

theorem dspRead_extends {s n va len} (h : Safety.extends_ s₀ s) : Safety.extends_ s₀ (dspRead s n va len).2.2.2 := by
  unfold dspRead
  exact foldl_snd_snd_snd_extends (fun ⟨_, _, _, _⟩ _ ht => by
      dsimp only
      split
      · exact ht
      · split <;> exact vline_extends ht) h

theorem plainRow_extends {s n p cols y} (h : Safety.extends_ s₀ s) : Safety.extends_ s₀ (plainRow s n p cols y).2.2 := dspRead_extends h

theorem surfaceBlock_extends {s n p bx by'} (h : Safety.extends_ s₀ s) : Safety.extends_ s₀ (surfaceBlock s n p bx by').2.2.2 := by
  unfold surfaceBlock
  dsimp only
  split
  · exact dspRead_extends h
  · split
    · exact dspRead_extends h
    · exact dspRead_extends (dspRead_extends h)

theorem surfaceBlocks_extends {n p by' l s} (h : Safety.extends_ s₀ s) : Safety.extends_ s₀ (surfaceBlocks n p by' l s).2.2 := by
  induction l generalizing s with
  | nil => exact h
  | cons e l ih =>
    unfold surfaceBlocks
    exact ite_snd_snd_extends (surfaceBlock_extends h) (ih (surfaceBlock_extends h))

theorem storeRow_extends {p s y r} (h : Safety.extends_ s₀ s) : Safety.extends_ s₀ (storeRow p s y r) :=
  onPipe_extends (foldl_extends (fun _ _ ht => folWrite_extends ht) h)

theorem fetchFault_extends {s p} (h : Safety.extends_ s₀ s) : Safety.extends_ s₀ (fetchFault s p) := dspIrq_extends (fset_extends h)

theorem pipeFetch_extends {p s} (h : Safety.extends_ s₀ s) : Safety.extends_ s₀ (pipeFetch p s) := by
  unfold pipeFetch
  dsimp only
  split
  · exact h
  · exact ite_extends h (ite_extends (foldl_extends (fun _ _ ht => storeRow_extends ht) h) (ite_extends (ite_extends (fetchFault_extends
      (surfaceBlocks_extends h)) (foldl_extends (fun _ _ ht => storeRow_extends ht) (surfaceBlocks_extends h))) (ite_extends (fetchFault_extends
      (plainRow_extends h)) (storeRow_extends (plainRow_extends h)))))

theorem sendLine_extends {s x y codes} (h : Safety.extends_ s₀ s) : Safety.extends_ s₀ (sendLine s x y codes) := ite_extends (send_extends h) h

theorem wbQueue_extends {s x y b} (h : Safety.extends_ s₀ s) : Safety.extends_ s₀ (wbQueue s x y b) :=
  ite_extends h (ite_extends (fset_extends (onStream_extends h)) (onStream_extends h))

theorem passRows_extends {s x y} (h : Safety.extends_ s₀ s) : Safety.extends_ s₀ (passRows s x y) := withDsp_extends h

theorem scanLine_extends {s x y} (h : Safety.extends_ s₀ s) : Safety.extends_ s₀ (scanLine s x y) := by
  unfold scanLine
  have hline {n m y b codes} : Safety.extends_ s₀ (wbQueue (sendLine { s with freeCtr := s.freeCtr + n * m } x y codes) x y b) :=
    wbQueue_extends (sendLine_extends (withFreeCtr_extends h (Nat.le_add_right _ _)))
  have hraise {l : List LayerPart} {r} {t} (ht : Safety.extends_ s₀ t) :
      Safety.extends_ s₀ (l.foldl (fun s _ => raise (countMismatch s) r) t) :=
    foldl_extends (fun _ _ ht => raise_extends (countMismatch_extends ht)) ht
  exact ite_extends (hraise hline) (dspIrq_extends (foldl_extends (fun _ _ ht => fcount_extends ht) (hraise hline)))

theorem scanout_extends {x s} (h : Safety.extends_ s₀ s) : Safety.extends_ s₀ (scanout x s) :=
  ite_extends h (ite_extends (passRows_extends (onStream_extends (sendLine_extends h))) (ite_extends h (passRows_extends (onStream_extends
    (scanLine_extends h)))))

theorem writebackLine_extends {x s} (h : Safety.extends_ s₀ s) : Safety.extends_ s₀ (writebackLine x s) := by
  unfold writebackLine
  dsimp only
  split
  · exact h
  · exact ite_extends h (ite_extends (dspIrq_extends (fset_extends (onStream_extends (vwrite_extends (onStream_extends h))))) (ite_extends
      (dspIrq_extends (fset_extends (vwrite_extends (onStream_extends h)))) (vwrite_extends (onStream_extends h))))

theorem hpdSet_extends {s n high} (h : Safety.extends_ s₀ s) : Safety.extends_ s₀ (hpdSet s n high) := withBoot_extends h rfl rfl

theorem linkTry_extends {s n} (h : Safety.extends_ s₀ s) : Safety.extends_ s₀ (linkTry s n) := ite_extends (fset_extends h) h

theorem hpdEvent_extends {s n x} (h : Safety.extends_ s₀ s) : Safety.extends_ s₀ (hpdEvent s n x) :=
  wakeReport_extends (ite_extends (dspIrq_extends (fset_extends h)) h)

theorem hotplug_extends {s n} (h : Safety.extends_ s₀ s) : Safety.extends_ s₀ (hotplug s n) := ite_extends (notice_extends h) h

theorem outCtlWrite_extends {s n v} (h : Safety.extends_ s₀ s) : Safety.extends_ s₀ (outCtlWrite s n v) :=
  ite_extends h (ite_extends (linkTry_extends (rset_extends h)) (fset_extends (rset_extends h)))

theorem auxSend_extends {s n r} (h : Safety.extends_ s₀ s) : Safety.extends_ s₀ (auxSend s n r) := send_extends h

theorem auxEnd_extends {s n reply count} (h : Safety.extends_ s₀ s) : Safety.extends_ s₀ (auxEnd s n reply count) :=
  rset_extends (withDsp_extends h)

theorem auxReply_extends {n reply data count s} (h : Safety.extends_ s₀ s) : Safety.extends_ s₀ (auxReply n reply data count s) := by
  unfold auxReply
  dsimp only
  split
  · exact h
  · exact ite_extends (auxSend_extends (withDsp_extends h)) (ite_extends (auxEnd_extends (foldl_extends (fun _ _ ht => rset_extends ht) h))
      (auxEnd_extends h))

/-! ### Machine/Press -/

theorem folioWrite_extends {s a bs} (h : Safety.extends_ s₀ s) : Safety.extends_ s₀ (folioWrite s a bs) :=
  onMem_extends_of_wf h id wf_mwrite

theorem pressRead_extends {s k off n} (h : Safety.extends_ s₀ s) : Safety.extends_ s₀ (pressRead s k off n).2.2 :=
  ite_snd_snd_extends (ite_extends (failedAt_extends (countMismatch_extends h)) h) (vread_extends h)

theorem pressDst_extends {s k off bs} (h : Safety.extends_ s₀ s) : Safety.extends_ s₀ (pressDst s k off bs).2 :=
  ite_snd_extends h (ite_snd_extends (folioWrite_extends h) (vwrite_extends h))

theorem pressWrite_extends {s k pos bs} (h : Safety.extends_ s₀ s) : Safety.extends_ s₀ (pressWrite s k pos bs).2.2 :=
  ite_snd_snd_extends (pressDst_extends h) (ite_snd_snd_extends (ite_snd_extends (fcount_extends (pressDst_extends h)) (vwrite_extends
    (fcount_extends (pressDst_extends h)))) (fcount_extends (ite_snd_extends (fcount_extends (pressDst_extends h)) (vwrite_extends (fcount_extends
    (pressDst_extends h))))))

theorem pressEnd_extends {s t k j st} (h : Safety.extends_ s₀ s) : Safety.extends_ s₀ (pressEnd s t k j st) :=
  ite_extends (onTask_extends (ite_snd_extends (onTask_extends h) (ite_extends (fcount_extends (pressDst_extends (onTask_extends h)))
    (pressDst_extends (onTask_extends h))))) (taskFail_extends (onTask_extends (rset_extends (ite_snd_extends (onTask_extends h) (ite_extends
    (fcount_extends (pressDst_extends (onTask_extends h))) (pressDst_extends (onTask_extends h)))))))

theorem pressMore_extends {s t j} (h : Safety.extends_ s₀ s) : Safety.extends_ s₀ (pressMore s t j) := onTask_extends h

theorem pressWaits_extends {s t} (h : Safety.extends_ s₀ s) : Safety.extends_ s₀ (pressWaits s t) := by
  unfold pressWaits
  split
  · exact ite_extends (demand_extends h) h
  · exact h

theorem decLoop_extends {k limit fuel j s} (h : Safety.extends_ s₀ s) : Safety.extends_ s₀ (decLoop k limit fuel j s).2.2 := by
  induction fuel generalizing j s with
  | zero => exact h
  | succ fuel ih =>
    unfold decLoop
    dsimp only
    refine ite_snd_snd_extends h ?_
    split
    · exact h
    · exact ite_snd_snd_extends h (ite_snd_snd_extends (pressRead_extends h) (ih (fcount_extends (pressRead_extends h))))
    · exact ite_snd_snd_extends (ite_snd_snd_extends h (ite_snd_snd_extends h h)) (ih h)

/-! ### Machine/Folio -/

theorem zeroBank_extends {s c b} (h : Safety.extends_ s₀ s) : Safety.extends_ s₀ (zeroBank s c b) :=
  onMem_extends_of_wf h id (wf_filter _)

theorem bankPower_extends {s c b st} (h : Safety.extends_ s₀ s) : Safety.extends_ s₀ (bankPower s c b st) :=
  fset_extends (ite_extends (zeroBank_extends h) h)

theorem folBankWrite_extends {s c b v} (h : Safety.extends_ s₀ s) : Safety.extends_ s₀ (folBankWrite s c b v) :=
  ite_extends (ite_extends (onMem_extends (fset_extends (fset_extends h)) rfl rfl) h) (ite_extends h (ite_extends h (ite_extends h (ite_extends
    (bankPower_extends (fset_extends h)) (onMem_extends (fset_extends (fset_extends (fset_extends (fset_extends h)))) rfl rfl)))))

theorem flushOverflow_extends {s x} (h : Safety.extends_ s₀ s) : Safety.extends_ s₀ (flushOverflow s x) := setOvf_extends (ovfFlush_extends h)

theorem folHandoverDrained_extends {c b s} (h : Safety.extends_ s₀ s) : Safety.extends_ s₀ (folHandoverDrained c b s) := by
  unfold folHandoverDrained
  dsimp only
  split
  · exact h
  · exact ite_extends h (onMem_extends (bankPower_extends (ite_extends (zeroBank_extends (ite_extends (flushOverflow_extends h) h)) (ite_extends
      (flushOverflow_extends h) h))) rfl rfl)

theorem folHandoverComplete_extends {c b s} (h : Safety.extends_ s₀ s) : Safety.extends_ s₀ (folHandoverComplete c b s) := by
  unfold folHandoverComplete
  dsimp only
  split
  · exact h
  · exact ite_extends h (foldl_extends (fun _ _ ht => by
      split
      · exact fragTries_extends ht
      · exact ht) (ite_extends (bankPower_extends (fset_extends (fset_extends (fset_extends (onMem_extends h rfl rfl))))) (fset_extends
          (fset_extends (fset_extends (onMem_extends h rfl rfl))))))

theorem winWrite_extends {s off n lost f} (h : Safety.extends_ s₀ s) : Safety.extends_ s₀ (winWrite s off n lost f) :=
  ite_extends (fset_extends h) (ite_extends (fcount_extends (fset_extends h)) (onMem_extends_of_wf h id wf_mwrite))

/-! ### Machine/Hif -/

theorem aer_extends {s e} (h : Safety.extends_ s₀ s) : Safety.extends_ s₀ (aer s e) := ite_extends h (send_extends h)

theorem unsupported_extends {s} (h : Safety.extends_ s₀ s) : Safety.extends_ s₀ (unsupported s) := aer_extends (send_extends h)

theorem completerAbort_extends {s} (h : Safety.extends_ s₀ s) : Safety.extends_ s₀ (completerAbort s) := aer_extends (send_extends h)

theorem barStatus_extends {s f x} (h : Safety.extends_ s₀ s) : Safety.extends_ s₀ (barStatus s f x) := fset_extends h

theorem bar2Read_extends {f o n s} (h : Safety.extends_ s₀ s) : Safety.extends_ s₀ (bar2Read f o n s) :=
  ite_extends (unsupported_extends h) (ite_extends (completerAbort_extends h) (ite_extends (unsupported_extends h) (ite_extends
    (completerAbort_extends (barStatus_extends h)) (ite_extends (send_extends (devRead_extends h)) (raiseBare_extends (send_extends (devRead_extends
    h)))))))

theorem bar2Write_extends {f o data s} (h : Safety.extends_ s₀ s) : Safety.extends_ s₀ (bar2Write f o data s) :=
  ite_extends h (ite_extends (barStatus_extends h) (ite_extends (barStatus_extends h) (ite_extends (protectedWrite_extends h) (foldl_extends (fun _
    _ ht => setDirty_extends ht) (foldl_extends (fun _ _ ht => devWrite_extends ht) h)))))

theorem readEnd_extends {l e s} (h : Safety.extends_ s₀ s) : Safety.extends_ s₀ (readEnd l e s) := by
  unfold readEnd
  dsimp only
  split
  · exact withHif_extends h rfl
  · split
    · exact aer_extends (withHif_extends h rfl)
    · exact aer_extends (withHif_extends h rfl)
    · exact withHif_extends h rfl
    · exact withHif_extends h rfl

theorem onCfg_extends {s f k} (h : Safety.extends_ s₀ s) : Safety.extends_ s₀ (onCfg s f k) := withHif_extends h rfl

theorem cfgApply_extends {f r s} (h : Safety.extends_ s₀ s) : Safety.extends_ s₀ (cfgApply f r s).2 := by
  unfold cfgApply
  dsimp only
  split
  · exact h
  · exact ite_extends h (onCfg_extends h)
  · exact onCfg_extends h
  · exact onCfg_extends h
  · exact onCfg_extends h
  · exact ite_extends h (withHif_extends h rfl)
  · exact ite_extends h (withHif_extends h rfl)
  · exact onXlt_extends h
  · exact h
  · exact h
  · exact h
  · exact withHif_extends h rfl

theorem l0pWindow_extends {up down granted s} (h : Safety.extends_ s₀ s) : Safety.extends_ s₀ (l0pWindow up down granted s) :=
  ite_extends h (ite_extends (fset_extends (fset_extends (withHif_extends (send_extends h) rfl))) (send_extends h))

theorem hostExit_extends {s} (h : Safety.extends_ s₀ s) : Safety.extends_ s₀ (hostExit s) := ite_extends (linkWake_extends h) h

theorem killContext_extends {s c} (h : Safety.extends_ s₀ s) : Safety.extends_ s₀ (killContext s c) := by
  unfold killContext
  exact foldl_extends (fun _ _ ht => by
      split
      · exact endBare_extends ht
      · exact ht) (onFe_extends (tdSlots_extends (foldl_extends (fun _ _ ht => killQueue_extends ht) (foldl_extends (fun _ _ ht => invSweep_extends
          ht) (foldl_extends (fun _ _ ht => tdFences_extends ht) (foldl_extends (fun _ _ ht => dropSaved_extends ht) (foldl_extends (fun _ _ ht =>
          dropBlock_extends ht) (tdPreempt_extends (tdSweep_extends h)))))))))

theorem flrNow_extends {s f} (h : Safety.extends_ s₀ s) : Safety.extends_ s₀ (flrNow s f) :=
  withHif_extends (resetWindows_extends (freeFunction_extends (foldl_extends (fun _ _ ht => killContext_extends ht) h))) rfl

theorem eachVf_extends {k s} (hk : ∀ s f, Safety.extends_ s₀ s → Safety.extends_ s₀ (k s f)) (h : Safety.extends_ s₀ s) :
    Safety.extends_ s₀ (eachVf k s) :=
  withHif_extends (foldl_extends hk h) rfl

theorem resetConfig_extends {s} (h : Safety.extends_ s₀ s) : Safety.extends_ s₀ (resetConfig s) := onXlt_extends (withHif_extends h rfl)

theorem msixCleared_extends (h : Safety.extends_ s₀ s) : Safety.extends_ s₀ { s with hif := { s.hif with msix := [], pba := [] } } :=
  withHif_extends h rfl

theorem pfFlr_extends {s} (h : Safety.extends_ s₀ s) : Safety.extends_ s₀ (pfFlr s) := by
  rw [pfFlr]
  refine ite_extends (resetConfig_extends h) (intView_extends (msixCleared_extends ?_))
  refine resetConfig_extends (dieRest_extends (dieQueues_extends (dieHalt_extends (eachVf_extends (fun _ _ ht => flrNow_extends ht) ?_))))
  exact foldl_extends (fun _ _ ht => chReset_extends ht) h

theorem vfWinWrite_extends {s f v} (h : Safety.extends_ s₀ s) : Safety.extends_ s₀ (vfWinWrite s f v) := ite_extends h (rset_extends h)

/-! ### Machine/Reuse -/

theorem truSlotCfg_extends {s sl v} (h : Safety.extends_ s₀ s) : Safety.extends_ s₀ (truSlotCfg s sl v) :=
  ite_extends h (rset_extends (ite_extends (rset_extends (ite_extends (truUnbind_extends h) h)) (ite_extends (truUnbind_extends h) h)))

theorem lineChecks_extends {engine cls vm asid ctx n va s} (h : Safety.extends_ s₀ s) :
    Safety.extends_ s₀ (lineChecks engine cls vm asid ctx n va s).2 := by
  induction n generalizing va s with
  | zero => exact h
  | succ n ih =>
    unfold lineChecks
    dsimp only
    refine ite_snd_extends (vline_extends h) ?_
    split
    · rename_i hp
      have hu := extends_of_eq_mk hp (ih (vline_extends h))
      exact hu
    · exact ih (vline_extends h)

theorem truRead_extends {s key ecc} (h : Safety.extends_ s₀ s) : Safety.extends_ s₀ (truRead s key ecc).2 := by
  unfold truRead
  split
  · exact h
  · exact fcount_extends h
  · exact fcount_extends h

theorem loadTerm_extends {p x n l s} (h : Safety.extends_ s₀ s) : Safety.extends_ s₀ (loadTerm p x n l s).2 := by
  induction l generalizing s with
  | nil => exact h
  | cons e l ih =>
    obtain ⟨x₁, x₂⟩ := e
    unfold loadTerm
    dsimp only
    refine ite_snd_extends (ih h) ?_
    refine ite_snd_extends (passFail_extends (vread_extends h)) ?_
    split
    · rename_i hp
      have hu := extends_of_eq_mk hp (lineChecks_extends (vread_extends h))
      exact passFail_extends hu
    · rename_i hp
      have hu := extends_of_eq_mk hp (lineChecks_extends (vread_extends h))
      exact ih hu

theorem copyTile_extends {c p x m src dst s} (h : Safety.extends_ s₀ s) : Safety.extends_ s₀ (copyTile c p x m src dst s) := by
  induction m generalizing src dst s with
  | zero => exact h
  | succ m ih =>
    unfold copyTile
    exact ite_extends (passFail_extends (ite_extends (countMismatch_extends (vline_extends h)) (vline_extends h))) (ite_extends (passFail_extends
      (vwrite_extends (vline_extends h))) (ih (vwrite_extends (vline_extends h))))

theorem copyAtt_extends {c p x n base f s ia} (h : Safety.extends_ s₀ s) : Safety.extends_ s₀ (copyAtt c p x n base f s ia) := by
  unfold copyAtt
  dsimp only
  split
  · refine ite_extends h ?_
    refine ite_extends ?_ (ite_extends (copyTile_extends h) h)
    split
    · exact rasRead_extends h
    · exact copyTile_extends (rasWrite_extends (rasRead_extends h))
  · exact h

theorem ruRows_extends {i base pitch lines n r s} (h : Safety.extends_ s₀ s) : Safety.extends_ s₀ (ruRows i base pitch lines n r s).2 := by
  induction n generalizing r s with
  | zero => exact h
  | succ n ih =>
    unfold ruRows
    split
    · rename_i hp
      have hu := extends_of_eq_mk hp (lineChecks_extends h)
      split
      · rename_i hp1
        have hu1 := extends_of_eq_mk hp1 (ih hu)
        exact hu1
      · exact ih hu
    · exact lineChecks_extends h

/-! ### Machine/Ring -/

theorem onRing_extends {s f} (h : Safety.extends_ s₀ s) : Safety.extends_ s₀ (onRing s f) := onSeq_extends h

theorem ringView_extends {s} (h : Safety.extends_ s₀ s) : Safety.extends_ s₀ (ringView s) := by
  unfold ringView
  split
  · exact fset_extends (fset_extends h)
  · exact h

theorem readProgress_extends {s i} (h : Safety.extends_ s₀ s) : Safety.extends_ s₀ (readProgress s i) := by
  unfold readProgress
  dsimp only
  split
  · exact h
  · split
    · exact h
    · exact ite_extends (ringFail_extends (vread_extends h)) (onRing_extends (vread_extends h))

theorem hopSent_extends {s} (h : Safety.extends_ s₀ s) : Safety.extends_ s₀ (hopSent s) := ringView_extends (onRing_extends h)

theorem blockArrived_extends {s g x len} (h : Safety.extends_ s₀ s) : Safety.extends_ s₀ (blockArrived s g x len) :=
  ite_extends (ringFail_extends (vwrite_extends h)) (ite_extends (ringFail_extends (vwrite_extends (vwrite_extends h))) (ringView_extends
    (onRing_extends (vwrite_extends (vwrite_extends h)))))

/-! ### Machine/Uap -/

theorem uapRecovery_extends {s p} (h : Safety.extends_ s₀ s) : Safety.extends_ s₀ (uapRecovery s p) := uapMove_extends (fcount_extends h)

theorem uapProtocol_extends {s p} (h : Safety.extends_ s₀ s) : Safety.extends_ s₀ (uapProtocol s p) := fcount_extends h

theorem uapReplay_extends {s p} (h : Safety.extends_ s₀ s) : Safety.extends_ s₀ (uapReplay s p) :=
  ite_extends h (ite_extends (uapRecovery_extends (fcount_extends h)) (onPort_extends (fcount_extends h)))

theorem uapIdentity_extends {s p b} (h : Safety.extends_ s₀ s) : Safety.extends_ s₀ (uapIdentity s p b) :=
  matchPeer_extends (fset_extends (fset_extends (fset_extends (fset_extends (fset_extends (rset_extends h))))))

theorem uapAcked_extends {s p a} (h : Safety.extends_ s₀ s) : Safety.extends_ s₀ (uapAcked s p a) :=
  ite_extends h (ite_extends (uapReplay_extends (ite_extends (onPort_extends h) h)) (ite_extends (onPort_extends h) h))

theorem uapDeliver_extends {s p vc m} (h : Safety.extends_ s₀ s) : Safety.extends_ s₀ (uapDeliver s p vc m) := ite_extends h (onSeq_extends h)

theorem uapData_extends {s p f} (h : Safety.extends_ s₀ s) : Safety.extends_ s₀ (uapData s p f) :=
  ite_extends (onPort_extends h) (ite_extends (ringFail_extends (onPort_extends (uapProtocol_extends (onPort_extends h)))) (ite_extends
    (onPort_extends (onPort_extends h)) (ite_extends (ringFail_extends (onPort_extends (uapProtocol_extends (onPort_extends h))))
    (uapDeliver_extends (onPort_extends (onPort_extends h))))))

theorem uapMgmt_extends {s p f} (h : Safety.extends_ s₀ s) : Safety.extends_ s₀ (uapMgmt s p f) := by
  unfold uapMgmt
  split
  · exact uapIdentity_extends h
  · exact onPort_extends h
  · exact ite_extends (uapMove_extends h) h
  · exact ite_extends (fset_extends (onPort_extends h)) h
  · exact h

theorem uapGood_extends {s p f a} (h : Safety.extends_ s₀ s) : Safety.extends_ s₀ (uapGood s p f a) :=
  ite_extends (uapRecovery_extends (uapProtocol_extends h)) (ite_extends h (ite_extends (uapAcked_extends h) (ite_extends (uapRecovery_extends
    (uapProtocol_extends (uapAcked_extends h))) (ite_extends (onPort_extends (uapAcked_extends h)) (ite_extends (onPort_extends (onPort_extends
    (uapAcked_extends h))) (ite_extends (uapRecovery_extends (uapProtocol_extends (onPort_extends (uapAcked_extends h)))) (ite_extends
    (uapData_extends (onPort_extends (onPort_extends (uapAcked_extends h)))) (uapMgmt_extends (onPort_extends (onPort_extends (uapAcked_extends
    h)))))))))))

theorem uapListen_extends {s p b} (h : Safety.extends_ s₀ s) : Safety.extends_ s₀ (uapListen s p b) :=
  ite_extends (uapMove_extends (ite_extends (onPort_extends (ite_extends (uapIdentity_extends (uapMove_extends (uapIdentity_extends (onPort_extends
    h)))) (uapIdentity_extends (onPort_extends h)))) (onPort_extends (onPort_extends h)))) (ite_extends (uapGood_extends (ite_extends
    (onPort_extends (ite_extends (uapIdentity_extends (uapMove_extends (uapIdentity_extends (onPort_extends h)))) (uapIdentity_extends
    (onPort_extends h)))) (onPort_extends (onPort_extends h)))) (ite_extends (onPort_extends (ite_extends (uapIdentity_extends (uapMove_extends
    (uapIdentity_extends (onPort_extends h)))) (uapIdentity_extends (onPort_extends h)))) (onPort_extends (onPort_extends h))))

theorem uapReceive_extends {p raw s} (h : Safety.extends_ s₀ s) : Safety.extends_ s₀ (uapReceive p raw s) := by
  unfold uapReceive
  dsimp only
  refine ite_extends h ?_
  split
  · exact ite_extends (onPort_extends (fcount_extends (onPort_extends (onPort_extends h)))) (onPort_extends (onPort_extends h))
  · exact uapListen_extends (ite_extends (fcount_extends (onPort_extends h)) (onPort_extends h))

theorem uapSend_extends {s p f a} (h : Safety.extends_ s₀ s) : Safety.extends_ s₀ (uapSend s p f a) := onPort_extends h

theorem uapTransmit_extends {p s} (h : Safety.extends_ s₀ s) : Safety.extends_ s₀ (uapTransmit p s) := by
  unfold uapTransmit
  dsimp only
  refine ite_extends h ?_
  split
  · exact ite_extends (uapSend_extends h) (uapSend_extends h)
  · exact ite_extends (uapSend_extends h) (uapSend_extends h)
  · exact ite_extends (uapMove_extends (uapSend_extends (onPort_extends h))) (ite_extends (hopSent_extends (uapSend_extends (onPort_extends h)))
      (uapSend_extends (onPort_extends h)))
  · exact uapSend_extends h
  · exact uapSend_extends h
  · exact h

theorem uapTrained_extends {p ok reversed polarity s} (h : Safety.extends_ s₀ s) : Safety.extends_ s₀ (uapTrained p ok reversed polarity s) :=
  ite_extends (uapTry_extends h) (ite_extends (ite_extends (uapTry_extends h) (matchPeer_extends (uapMove_extends (fset_extends (fset_extends
    (uapTry_extends h)))))) (ite_extends (uapTry_extends h) (ite_extends (onPort_extends (uapTry_extends h)) (uapTry_extends (uapMove_extends
    (fset_extends (fcount_extends (onPort_extends (uapTry_extends h)))))))))

theorem uapEn_extends {s p en} (h : Safety.extends_ s₀ s) : Safety.extends_ s₀ (uapEn s p en) :=
  ite_extends (uapTry_extends (fset_extends h)) (ite_extends (fset_extends h) (uapMove_extends (fset_extends h)))

/-! ### Machine/RegOps -/

theorem dspWrote_extends {s r i} (h : Safety.extends_ s₀ s) : Safety.extends_ s₀ (dspWrote s r i) := by
  unfold dspWrote
  split
  · exact onPipe_extends h
  · exact onPipe_extends h
  · exact onStream_extends h
  · exact h

theorem regStore_extends {s r w i v words} (h : Safety.extends_ s₀ s) : Safety.extends_ s₀ (regStore s r w i v words) := by
  unfold regStore
  dsimp only
  refine ite_extends h ?_
  split
  · exact dspWrote_extends (rset_extends h)
  · exact foldl_extends (fun _ _ ht => fset_extends ht) h

theorem fwGate_extends {s k r w i} (h : Safety.extends_ s₀ s) (hk : Safety.extends_ s₀ (k s)) :
    Safety.extends_ s₀ (fwGate s r w i k) := by
  unfold fwGate
  split
  · exact ite_extends hk (fset_extends h)
  · exact hk

theorem fwWrite_extends {s r w i v} (h : Safety.extends_ s₀ s) : Safety.extends_ s₀ (fwWrite s r w i v) := fwGate_extends h (regStore_extends h)

theorem seqPartWrite_extends {s f v} (h : Safety.extends_ s₀ s) : Safety.extends_ s₀ (seqPartWrite s f v) := ite_extends h (rset_extends h)

theorem fePartWrite_extends {s f v} (h : Safety.extends_ s₀ s) : Safety.extends_ s₀ (fePartWrite s f v) := ite_extends h (rset_extends h)

/-! ### Machine/Power -/

theorem domStatus_extends {s d st} (h : Safety.extends_ s₀ s) : Safety.extends_ s₀ (domStatus s d st) := fset_extends h

theorem setPhase_extends {s d p} (h : Safety.extends_ s₀ s) : Safety.extends_ s₀ (setPhase s d p) := onPwr_extends (fset_extends h)

theorem endPhase_extends {s d} (h : Safety.extends_ s₀ s) : Safety.extends_ s₀ (endPhase s d) := onPwr_extends (fset_extends h)

theorem domGo_extends {s d target} (h : Safety.extends_ s₀ s) : Safety.extends_ s₀ (domGo s d target) :=
  ite_extends h (ite_extends (domUp_extends h) (setPhase_extends h))

theorem domApply_extends {s d v} (h : Safety.extends_ s₀ s) : Safety.extends_ s₀ (domApply s d v) :=
  ite_extends h (ite_extends (domStatus_extends (fset_extends h)) (domGo_extends (domStatus_extends (fset_extends (fset_extends h)))))

theorem domCtlWrite_extends {s d v} (h : Safety.extends_ s₀ s) : Safety.extends_ s₀ (domCtlWrite s d v) := by
  unfold domCtlWrite
  dsimp only
  split
  · exact domApply_extends h
  · exact ite_extends h (ite_extends (domStatus_extends (fset_extends (fset_extends (onPwr_extends (endPhase_extends h))))) (onPwr_extends h))

theorem domSettled_extends {s d} (h : Safety.extends_ s₀ s) : Safety.extends_ s₀ (domSettled s d) := by
  unfold domSettled
  dsimp only
  refine ite_extends ?_ ?_
  · refine demand_extends ?_
    refine onPwr_extends ?_
    split
    · exact domApply_extends (onPwr_extends h)
    · exact h
  · split
    · exact domApply_extends (onPwr_extends h)
    · exact h

theorem domLose_extends {s d} (h : Safety.extends_ s₀ s) : Safety.extends_ s₀ (domLose s d) := by
  have hkeep {f keep} : Safety.extends_ s₀ (if d = 41 then onXlt s f else keepRegs (onXlt s f) keep) :=
    ite_extends (onXlt_extends h) (keepRegs_extends (onXlt_extends h))
  unfold domLose
  refine ite_extends (foldl_extends (fun _ _ ht => coreClear_extends ht) hkeep) (ite_extends (foldl_extends (fun _ _ ht => onEngine_extends ht) hkeep)
    (ite_extends (onMem_extends hkeep rfl rfl) (ite_extends (onMem_extends_of_wf hkeep (wf_filter _) id) (ite_extends (onXlt_extends hkeep)
    (ite_extends (withDsp_extends hkeep) (ite_extends (onPort_extends hkeep) hkeep))))))

theorem domViews_extends {s d} (h : Safety.extends_ s₀ s) : Safety.extends_ s₀ (domViews s d) :=
  ite_extends (foldl_extends (fun _ _ ht => bankPower_extends ht) h) (ite_extends (foldl_extends (fun _ _ ht => fset_extends ht) h) (ite_extends
    (fset_extends h) h))

theorem domDown_extends {s d t} (h : Safety.extends_ s₀ s) : Safety.extends_ s₀ (domDown s d t) :=
  ite_extends (chReset_extends (domViews_extends (ite_extends (domLose_extends (domStatus_extends (fset_extends (endPhase_extends h))))
    (domStatus_extends (fset_extends (endPhase_extends h)))))) (domViews_extends (ite_extends (domLose_extends (domStatus_extends (fset_extends
    (endPhase_extends h)))) (domStatus_extends (fset_extends (endPhase_extends h)))))

theorem flushParked_extends {s k} (h : Safety.extends_ s₀ s) : Safety.extends_ s₀ (flushParked s k) :=
  foldl_extends (fun _ _ ht => hbmStore_extends ht) (onMem_extends h rfl rfl)

theorem stackUp_extends {s k} (h : Safety.extends_ s₀ s) : Safety.extends_ s₀ (stackUp s k) :=
  flushParked_extends (ite_extends (onMem_extends h rfl rfl) h)

theorem domWake_extends {s d wasOff} (h : Safety.extends_ s₀ s) : Safety.extends_ s₀ (domWake s d wasOff) :=
  ite_extends (domViews_extends (stackUp_extends h)) (ite_extends (ite_extends (foldl_extends (fun _ _ ht => truUnbind_extends ht) (fset_extends h))
    (fset_extends h)) (ite_extends (linkTry_extends h) (ite_extends (uapTry_extends h) (domViews_extends h))))

theorem domUpDone_extends {s d} (h : Safety.extends_ s₀ s) : Safety.extends_ s₀ (domUpDone s d) :=
  domWake_extends (domStatus_extends (fset_extends (endPhase_extends h)))

theorem padRelease_extends {s v} (h : Safety.extends_ s₀ s) : Safety.extends_ s₀ (padRelease s v) :=
  foldl_extends (fun _ _ ht => ite_extends (linkTry_extends ht) (ite_extends (uapTry_extends ht) ht)) (rset_extends h)

theorem stacksDown_extends {s} (h : Safety.extends_ s₀ s) : Safety.extends_ s₀ (stacksDown s) :=
  foldl_extends (fun _ _ ht => ite_extends (setPhase_extends (fset_extends (fset_extends (onMem_extends ht rfl rfl)))) ht) h

theorem sillageEnter_extends {s} (h : Safety.extends_ s₀ s) : Safety.extends_ s₀ (sillageEnter s) :=
  ite_extends h (ite_extends (onPwr_extends (fset_extends h)) (stacksDown_extends (fset_extends (onPwr_extends h))))

theorem stackResume_extends {s k} (h : Safety.extends_ s₀ s) : Safety.extends_ s₀ (stackResume s k) :=
  fset_extends (flushParked_extends (onMem_extends (domStatus_extends (domSet_extends (fset_extends (endPhase_extends h)))) rfl rfl))

theorem fanSet_extends {s} (h : Safety.extends_ s₀ s) : Safety.extends_ s₀ (fanSet s) :=
  ite_extends h (ite_extends (fset_extends h) (fset_extends (takeFree_extends h)))

theorem measure_extends {s f v i} (h : Safety.extends_ s₀ s) : Safety.extends_ s₀ (measure s f v i) := fset_extends h

theorem limitStore_extends {s fan v words} (h : Safety.extends_ s₀ s) : Safety.extends_ s₀ (limitStore s fan v words) :=
  ite_extends (rset_extends h) (ite_extends (rset_extends h) h)

theorem limitWrite_extends {s fan v words} (h : Safety.extends_ s₀ s) : Safety.extends_ s₀ (limitWrite s fan v words) :=
  ite_extends h (limitStore_extends h)

/-! ### Machine/Ccx -/

theorem wordStored_extends {s c} (h : Safety.extends_ s₀ s) : Safety.extends_ s₀ (wordStored s c) :=
  ite_extends (wakeReport_extends h) (ite_extends (demand_extends h) h)

theorem chStore_extends {s c word} (h : Safety.extends_ s₀ s) : Safety.extends_ s₀ (chStore s c word) :=
  ite_extends (wordStored_extends (chSend_extends h)) (chSend_extends h)

theorem coreSetup_extends {s core a} (h : Safety.extends_ s₀ s) : Safety.extends_ s₀ (coreSetup s core a) := by
  unfold coreSetup
  split
  · exact foldl_extends (fun _ _ ht => pmpWrite_extends ht) h
  · exact h

theorem sendKept_extends {s c} (h : Safety.extends_ s₀ s) : Safety.extends_ s₀ (sendKept s c) := by
  unfold sendKept
  split
  · exact h
  · exact chSend_extends (onCcx_extends h rfl)

theorem handed_extends {s i} (h : Safety.extends_ s₀ s) : Safety.extends_ s₀ (handed s i) := by
  unfold handed
  split
  · exact ite_extends (fetchOne_extends h) h
  · exact h

theorem sequencerWord_extends {s word} (h : Safety.extends_ s₀ s) : Safety.extends_ s₀ (sequencerWord s word) := by
  unfold sequencerWord
  split
  · exact failsafeEnter_extends h
  · exact packageRecover_extends h
  · exact h

theorem wordTaken_extends {s c word} (h : Safety.extends_ s₀ s) : Safety.extends_ s₀ (wordTaken s c word) :=
  ite_extends (notifyLiaison_extends h) (ite_extends (sequencerWord_extends h) (ite_extends (notifyScheduler_extends (onCcx_extends h rfl))
    (ite_extends (handed_extends h) (ite_extends (sendKept_extends h) h))))

theorem chTake_extends {s c} (h : Safety.extends_ s₀ s) : Safety.extends_ s₀ (chTake s c).2 :=
  ite_snd_extends h (wordTaken_extends (chRead_extends h))

theorem hostTake_extends {s c} (h : Safety.extends_ s₀ s) : Safety.extends_ s₀ (hostTake s c) := send_extends (chTake_extends h)

theorem readSegments_extends {a l s t} (h : Safety.extends_ s₀ s) (ht : readSegments a l s = some t) :
    Safety.extends_ s₀ t := by
  induction l generalizing a s with
  | nil =>
    cases ht
    exact h
  | cons x l ih =>
    unfold readSegments at ht
    dsimp only at ht
    split at ht
    · cases ht
    · exact ih (onCcx_extends_of_wf (hostLines_extends h) wf_mwrite) ht

theorem loadReply_extends {s tag reason st} (h : Safety.extends_ s₀ s) : Safety.extends_ s₀ (loadReply s tag reason st) := chSend_extends h

theorem loadSteps_extends {s} (h : Safety.extends_ s₀ s) : Safety.extends_ s₀ (loadSteps s) := by
  have hh : Safety.extends_ s₀ (hostLines s (rget s .CCX_FW_ADDR) 512).2 := hostLines_extends h
  have hload {x} : Safety.extends_ s₀ (onCcx (hostLines s (rget s .CCX_FW_ADDR) 512).2 fun y => { y with loadHeader := x, loadFail := none }) :=
    onCcx_extends hh rfl
  unfold loadSteps
  refine ite_extends (onCcx_extends hload rfl) (ite_extends (onCcx_extends hload rfl) (ite_extends (onCcx_extends hload rfl)
    (ite_extends (onCcx_extends hload rfl) ?_)))
  split
  · rename_i ht
    exact onCcx_extends (readSegments_extends hload ht) rfl
  · exact onCcx_extends hload rfl

theorem fwStart_extends {s} (h : Safety.extends_ s₀ s) : Safety.extends_ s₀ (fwStart s) := by
  refine fset_extends (fset_extends (foldl_extends (fun _ _ ht => fset_extends ht) (onCcx_extends ?_ rfl)))
  exact foldl_snd_extends (fun _ _ ht => takeFree_extends (n := 65536) ht) h

theorem fwAbandon_extends {s} (h : Safety.extends_ s₀ s) : Safety.extends_ s₀ (fwAbandon s) :=
  fset_extends (onCcx_extends_of_wf h (wf_filter _))

theorem basicVector_extends {s f} (h : Safety.extends_ s₀ s) : Safety.extends_ s₀ (basicVector s f) := ite_extends (msixRaise_extends h) h

theorem basicEnd_extends {s result st} (h : Safety.extends_ s₀ s) : Safety.extends_ s₀ (basicEnd s result st) := onCcx_extends h rfl

theorem logConfig_extends {b s} (h : Safety.extends_ s₀ s) : Safety.extends_ s₀ (logConfig b s).2 :=
  ite_snd_extends h (foldl_extends (fun _ _ ht => rset_extends ht) (fset_extends (fset_extends (rset_extends h))))

theorem readyTrim_extends {s} (h : Safety.extends_ s₀ s) : Safety.extends_ s₀ (readyTrim s) := onCcx_extends h rfl

/-! ### Machine/Policies -/

theorem fwField_extends {s f v w i} (h : Safety.extends_ s₀ s) : Safety.extends_ s₀ (fwField s f v w i) := fwGate_extends h (regStore_extends h)

theorem fwChoice_extends {s r w i dflt v} (h : Safety.extends_ s₀ s) : Safety.extends_ s₀ (fwChoice s r w i dflt v) :=
  ite_extends (fwWrite_extends h) (fwWrite_extends (takeFree_extends h))

theorem fwFieldChoice_extends {s f dflt v w i} (h : Safety.extends_ s₀ s) : Safety.extends_ s₀ (fwFieldChoice s f dflt v w i) :=
  ite_extends (fwField_extends h) (fwField_extends (takeFree_extends h))

theorem fwPart_extends {s f b n} (h : Safety.extends_ s₀ s) : Safety.extends_ s₀ (fwPart s f b n) := fwGate_extends h (fePartWrite_extends h)

theorem fePolicy_extends {b s} (h : Safety.extends_ s₀ s) : Safety.extends_ s₀ (fePolicy b s).2 :=
  foldl_extends (fun _ _ ht => fwPart_extends ht) (fwPart_extends (foldl_extends (fun _ _ ht => fwPart_extends ht) (takeFree_extends h)))

theorem schPolicy_extends {b s} (h : Safety.extends_ s₀ s) : Safety.extends_ s₀ (schPolicy b s).2 :=
  fwFieldChoice_extends (fwFieldChoice_extends (fwChoice_extends (takeFree_extends (fwChoice_extends (fwChoice_extends (fwChoice_extends h))))))

theorem scPolicy_extends {b s} (h : Safety.extends_ s₀ s) : Safety.extends_ s₀ (scPolicy b s).2 :=
  foldl_extends (fun _ _ ht => fwChoice_extends ht) h

theorem acePolicy_extends {b s} (h : Safety.extends_ s₀ s) : Safety.extends_ s₀ (acePolicy b s).2 := fwFieldChoice_extends h

theorem colPolicy_extends {b s} (h : Safety.extends_ s₀ s) : Safety.extends_ s₀ (colPolicy b s).2 := fwChoice_extends h

theorem rasPolicy_extends {b s} (h : Safety.extends_ s₀ s) : Safety.extends_ s₀ (rasPolicy b s).2 := fwChoice_extends h

theorem truPolicy_extends {b s} (h : Safety.extends_ s₀ s) : Safety.extends_ s₀ (truPolicy b s).2 :=
  foldl_extends (fun _ _ ht => fwGate_extends (ite_snd_extends ht (takeFree_extends ht)) (truSlotCfg_extends (ite_snd_extends ht (takeFree_extends
    ht)))) h

theorem seqPolicy_extends {b s} (h : Safety.extends_ s₀ s) : Safety.extends_ s₀ (seqPolicy b s).2 :=
  fwField_extends (foldl_extends (fun _ _ ht => fwWrite_extends ht) (foldl_extends (fun _ _ ht => fwGate_extends ht (seqPartWrite_extends ht)) h))

theorem memPolicy_extends {b s} (h : Safety.extends_ s₀ s) : Safety.extends_ s₀ (memPolicy b s).2 :=
  foldl_extends (fun _ _ ht => fwFieldChoice_extends ht) (fwChoice_extends (foldl_extends (fun _ _ ht => fwFieldChoice_extends ht) h))

theorem fwBank_extends {s c b owner} (h : Safety.extends_ s₀ s) : Safety.extends_ s₀ (fwBank s c b owner) :=
  fwGate_extends h (folBankWrite_extends h)

theorem folPolicy_extends {b s} (h : Safety.extends_ s₀ s) : Safety.extends_ s₀ (folPolicy b s).2 := by
  simp only [folPolicy]
  exact foldl_extends (fun _ _ ht => ite_extends ht (fwBank_extends ht)) h

theorem xltPolicy_extends {b s} (h : Safety.extends_ s₀ s) : Safety.extends_ s₀ (xltPolicy b s).2 :=
  foldl_extends (fun _ _ ht => ite_extends ht (fwField_extends (fwField_extends ht))) (foldl_extends (fun _ _ ht => fwField_extends ht) h)

theorem intPolicy_extends {b s} (h : Safety.extends_ s₀ s) : Safety.extends_ s₀ (intPolicy b s).2 :=
  foldl_extends (fun _ _ ht => ite_extends ht (fwField_extends ht)) (fwField_extends (fwField_extends h))

theorem prsPolicy_extends {b s} (h : Safety.extends_ s₀ s) : Safety.extends_ s₀ (prsPolicy b s).2 :=
  foldl_extends (fun _ _ ht => ite_extends (fwBank_extends ht) (foldl_extends (fun _ _ ht1 => ite_extends (fwBank_extends ht1) ht1) ht)) h

theorem hifPolicy_extends {b s} (h : Safety.extends_ s₀ s) : Safety.extends_ s₀ (hifPolicy b s).2 :=
  foldl_extends (fun _ _ ht => vfWinWrite_extends ht) (foldl_extends (fun _ _ ht => vfWinWrite_extends ht) (takeFree_extends (fwWrite_extends h)))

theorem uapPolicy_extends {b s} (h : Safety.extends_ s₀ s) : Safety.extends_ s₀ (uapPolicy b s).2 :=
  fwField_extends (foldl_extends (fun _ _ ht => fwGate_extends ht (uapEn_extends ht)) h)

theorem modeTrain_extends {s n ok} (h : Safety.extends_ s₀ s) : Safety.extends_ s₀ (modeTrain s n ok) :=
  ite_extends h (ite_extends (fset_extends h) (fset_extends (fset_extends (fset_extends h))))

theorem modeBanks_extends {s n count} (h : Safety.extends_ s₀ s) : Safety.extends_ s₀ (modeBanks s n count) :=
  foldl_extends (fun _ _ ht => fwBank_extends ht) h

theorem modeSet_extends {m b s} (h : Safety.extends_ s₀ s) : Safety.extends_ s₀ (modeSet m b s).2 :=
  ite_snd_extends h (commit_extends (foldl_extends (fun _ _ ht => ite_extends (fwField_extends ht) ht) (modeTrain_extends (fwWrite_extends
    (fwWrite_extends (fwWrite_extends (fwWrite_extends (fwWrite_extends (fwWrite_extends (fwWrite_extends (fwGate_extends (modeBanks_extends
    (ite_extends (commitClear_extends h) h)) (outCtlWrite_extends (modeBanks_extends (ite_extends (commitClear_extends h) h))))))))))))))

theorem pwrProfile_extends {b s} (h : Safety.extends_ s₀ s) : Safety.extends_ s₀ (pwrProfile b s).2 :=
  ite_snd_extends h (foldl_extends (fun _ _ ht => domCtlWrite_extends ht) (fset_extends (fset_extends (fset_extends (fset_extends (rset_extends
    h))))))

/-! ### Machine/Boot -/

theorem linkTrain_extends {s speed width flit} (h : Safety.extends_ s₀ s) : Safety.extends_ s₀ (linkTrain s speed width flit) :=
  ite_extends (linkStart_extends h) (fset_extends (fset_extends (fset_extends (fset_extends (fset_extends (linkStart_extends h))))))

theorem flashFree_extends {s a n} (h : Safety.extends_ s₀ s) : Safety.extends_ s₀ (flashFree s a n) :=
  withBoot_extends_of_wf (foldl_snd_extends (fun ⟨_, _⟩ _ ht => takeFree_extends (n := 256) ht) h) wf_mwrite id

theorem takeRecoveryId_extends {s reason sect} (h : Safety.extends_ s₀ s) : Safety.extends_ s₀ (takeRecoveryId s reason sect) :=
  packageReset_extends (onBoot_extends (fset_extends (fset_extends (fset_extends h))) rfl rfl)

theorem flashBegin_extends {s op pages unit n} (h : Safety.extends_ s₀ s) : Safety.extends_ s₀ (flashBegin s op pages unit n) :=
  ite_extends (flashEnd_extends h) (ite_extends (flashEnd_extends h) (fset_extends (onBoot_extends h rfl rfl)))

theorem flashAnd_extends {s a bs} (h : Safety.extends_ s₀ s) : Safety.extends_ s₀ (flashAnd s a bs) :=
  withBoot_extends_of_wf h wf_mwrite id

theorem flashPart_extends {s o} (h : Safety.extends_ s₀ s) : Safety.extends_ s₀ (flashPart s o) := by
  unfold flashPart
  split
  · exact withBoot_extends_of_wf h id wf_mwrite
  · exact flashAnd_extends h
  · exact withBoot_extends_of_wf h (wf_filter _) id

theorem revokeWrite_extends {s mask} (h : Safety.extends_ s₀ s) : Safety.extends_ s₀ (revokeWrite s mask) :=
  ite_extends h (onBoot_extends (fset_extends h) rfl rfl)

theorem smbus_extends {s a} (h : Safety.extends_ s₀ s) : Safety.extends_ s₀ (smbus s a) := send_extends h

/-! ### Machine/Integrity -/

theorem firmwareLost_extends {s} (h : Safety.extends_ s₀ s) : Safety.extends_ s₀ (firmwareLost s) := by
  rw [firmwareLost]
  refine fset_extends (onCcx_extends_of_wf ?_ fun _ => rfl)
  exact foldl_extends (fun _ _ ht => fset_extends (foldl_extends (fun _ _ ht => chReset_extends ht) ht)) h

theorem recoverWork_extends {s r v stuck feLost} (h : Safety.extends_ s₀ s) : Safety.extends_ s₀ (recoverWork s r v stuck feLost) := by
  unfold recoverWork
  dsimp only
  split
  · exact ite_extends (firmwareLost_extends (fcount_extends h)) (resetUnit_extends h)
  · exact resetCore_extends h
  · exact resetCluster_extends h
  · refine ite_extends (dieRest_extends (dieHalt_extends h)) ?_
    split
    · exact dieRest_extends (dieQueues_extends (dieHalt_extends h))
    · exact onInt_extends (dieQueues_extends (dieHalt_extends h))

theorem recoverStart_extends {s r v stuck dead} (h : Safety.extends_ s₀ s) : Safety.extends_ s₀ (recoverStart s r v stuck dead) :=
  onInt_extends (recoverWork_extends (onInt_extends h))

theorem recOverflow_extends {s r} (h : Safety.extends_ s₀ s) : Safety.extends_ s₀ (recOverflow s r) := by
  unfold recOverflow
  dsimp only
  refine ite_extends h ?_
  split
  · exact ite_extends (recDrop_extends (ite_extends (recDrop_extends h) h)) (ite_extends (recDrop_extends h) h)
  · exact ite_extends (recDrop_extends h) h

theorem acceptRecord_extends {stuck dead s} (h : Safety.extends_ s₀ s) : Safety.extends_ s₀ (acceptRecord stuck dead s) := by
  unfold acceptRecord
  dsimp only
  split
  · exact h
  · exact ite_extends (ite_extends (recOverflow_extends (takeRec_extends (onInt_extends h))) (recWrite_extends (takeRec_extends (onInt_extends h))))
      (ite_extends (failsafeEnter_extends (ite_extends (recOverflow_extends (onInt_extends (takeRec_extends (onInt_extends h)))) (recWrite_extends
      (onInt_extends (takeRec_extends (onInt_extends h)))))) (ite_extends (notice_extends (intView_extends (recoverStart_extends (ite_extends
      (recOverflow_extends (onInt_extends (takeRec_extends (onInt_extends h)))) (recWrite_extends (onInt_extends (takeRec_extends (onInt_extends
      h)))))))) (intView_extends (recoverStart_extends (ite_extends (recOverflow_extends (onInt_extends (takeRec_extends (onInt_extends h))))
      (recWrite_extends (onInt_extends (takeRec_extends (onInt_extends h)))))))))

theorem holdsCleared_extends {s} (h : Safety.extends_ s₀ s) : Safety.extends_ s₀ (holdsCleared s) :=
  withBoot_extends (foldl_extends (fun _ _ ht => ite_extends (uapTry_extends ht) ht) (foldl_extends (fun _ _ ht => ite_extends ht (fset_extends ht))
    h)) rfl rfl

/-! ### Machine/RegWrite -/

theorem msixWrite_extends {f o v s} (h : Safety.extends_ s₀ s) : Safety.extends_ s₀ (msixWrite f o v s) := ite_extends h (withHif_extends h rfl)

/-! ### Machine/RegRead -/

theorem regRead_extends {s r w i words} (h : Safety.extends_ s₀ s) : Safety.extends_ s₀ (regRead s r w i words).2 := by
  unfold regRead
  refine ite_snd_extends h ?_
  refine ite_snd_extends ?_ (fset_extends h)
  dsimp only
  split
  · exact chRead_extends h
  · exact readClears_extends h

theorem placeRead_extends {s f off n} (h : Safety.extends_ s₀ s) : Safety.extends_ s₀ (placeRead s f off n).2 :=
  ite_snd_extends h (ite_snd_extends h (ite_snd_extends h (ite_snd_extends (ite_snd_extends h (fset_extends h)) (ite_snd_extends h h))))

theorem read32_extends {f off s} (h : Safety.extends_ s₀ s) : Safety.extends_ s₀ (read32 f off s).2 := by
  unfold read32
  dsimp only
  split
  · exact regRead_extends h
  · exact placeRead_extends h

theorem read64_extends {f off s} (h : Safety.extends_ s₀ s) : Safety.extends_ s₀ (read64 f off s).2 := by
  rw [read64]
  have hlo := read32_extends (f := f) (off := off) h
  generalize read32 f off s = lo at hlo ⊢
  have hhi := read32_extends (f := f) (off := off + 4) hlo
  generalize read32 f (off + 4) lo.2 = hi at hhi ⊢
  split
  · exact ite_snd_extends (regRead_extends h) hhi
  · exact ite_snd_extends (placeRead_extends h) hhi

theorem bar0Read_extends {f off width s} (h : Safety.extends_ s₀ s) : Safety.extends_ s₀ (bar0Read f off width s) :=
  ite_extends (unsupported_extends h) (ite_extends (ite_extends (completerAbort_extends h) (ite_extends (send_extends (read32_extends h))
    (send_extends (read64_extends h)))) (unsupported_extends h))

/-! ### Machine/System -/

theorem intfRecord_extends {n s c d} (h : Safety.extends_ s₀ s) : Safety.extends_ s₀ (intfRecord n s c d) :=
  ite_extends (fset_extends h) (fset_extends (hostWrite_extends h))

theorem intfClose_extends {s} (h : Safety.extends_ s₀ s) : Safety.extends_ s₀ (intfClose s) :=
  ite_extends (withIntf_extends h) (msixRaise_extends (foldl_extends (fun _ _ ht => intfRecord_extends ht) (withIntf_extends h)))

/-! ### The gates -/

/-- What a command answers to s₀'s extension: a next state that extends s₀. -/
def Extended (s₀ : State) (o : Out) : Prop := ∃ t, o = .next t ∧ Safety.extends_ s₀ t

theorem next_extended (h : Safety.extends_ s₀ s) : Extended s₀ (.next s) := ⟨s, rfl, h⟩

theorem ite_extended {c : Prop} [Decidable c] {o p : Out} (ho : Extended s₀ o) (hp : Extended s₀ p) : Extended s₀ (if c then o else p) := by
  split
  · exact ho
  · exact hp

theorem powered_extended (h : Safety.extends_ s₀ s) (ht : Safety.extends_ s₀ t) : Extended s₀ (powered s t) := next_extended (ite_extends ht h)

theorem engineStep_extended {k : State → State} (h : Safety.extends_ s₀ s) (hk : Safety.extends_ s₀ (k s)) : Extended s₀ (engineStep s k) :=
  ite_extended (next_extended h) (powered_extended h hk)

theorem unitStep_extended {u} {k : State → State} (h : Safety.extends_ s₀ s) (hk : Safety.extends_ s₀ (k s)) : Extended s₀ (unitStep s u k) :=
  engineStep_extended h (ite_extends h hk)

theorem busWrite_extended {r w i} {k : State → State} (h : Safety.extends_ s₀ s) (hk : Safety.extends_ s₀ (k s)) :
    Extended s₀ (busWrite s r w i k) := by
  refine ite_extended (next_extended h) ?_
  split
  · exact ite_extended (powered_extended h hk) (powered_extended h (fset_extends h))
  · exact powered_extended h hk

theorem qCmd_extended {f} {k : State → State} (h : Safety.extends_ s₀ s) (hk : Safety.extends_ s₀ (k s)) : Extended s₀ (qCmd s f k) :=
  busWrite_extended h (ite_extends h hk)

theorem oCmd_extended {f} {k : State → State} (h : Safety.extends_ s₀ s) (hk : Safety.extends_ s₀ (k s)) : Extended s₀ (oCmd s f k) :=
  busWrite_extended h (ite_extends h hk)

theorem gCmd_extended {f} {k : State → State} (h : Safety.extends_ s₀ s) (hk : Safety.extends_ s₀ (k s)) : Extended s₀ (gCmd s f k) :=
  busWrite_extended h (ite_extends h hk)

theorem sCmd_extended {f} {k : State → State} (h : Safety.extends_ s₀ s) (hk : Safety.extends_ s₀ (k s)) : Extended s₀ (sCmd s f k) :=
  busWrite_extended h (ite_extends h hk)

theorem truCmd_extended {f} {k : State → State} (h : Safety.extends_ s₀ s) (hk : Safety.extends_ s₀ (k s)) : Extended s₀ (truCmd s f k) :=
  busWrite_extended h (ite_extends h hk)

theorem flashCmd_extended {k : State → State} (h : Safety.extends_ s₀ s) (hk : Safety.extends_ s₀ (k s)) : Extended s₀ (flashCmd s k) :=
  busWrite_extended h (ite_extends h hk)

theorem slotCmd_extended {f} {k : State → Nat → Slot → Status × State} (h : Safety.extends_ s₀ s)
    (hk : ∀ i x, Safety.extends_ s₀ (k s i x).2) : Extended s₀ (slotCmd f s k) := by
  refine sCmd_extended h ?_
  dsimp only
  split
  · exact sResult_extends h
  · exact sResult_extends (hk _ _)

theorem replayOne_extended {f id gen} {k : State → (Nat × Bool × Block × Group × Park) → State} (h : Safety.extends_ s₀ s)
    (hk : ∀ x, Safety.extends_ s₀ (k s x)) : Extended s₀ (replayOne s f id gen k) := by
  refine busWrite_extended h (ite_extends h ?_)
  split
  · exact replayResult_extends h
  · exact replayResult_extends (hk _)

theorem issue_extended {core pipe ops all} {k : State → Issue → State} (h : Safety.extends_ s₀ s)
    (hk : ∀ t i, Safety.extends_ s₀ t → Safety.extends_ s₀ (k t i)) : Extended s₀ (issue s core pipe ops all k) := by
  refine engineStep_extended h ?_
  dsimp only
  split
  · exact h
  · exact ite_extends (onGroup_extends h) (hk _ _ (onGroup_extends (onSc_extends h)))

theorem colBatch_extended {w} {f : State → Nat → Pass → State} (h : Safety.extends_ s₀ s)
    (hf : ∀ t p x, Safety.extends_ s₀ t → Safety.extends_ s₀ (f t p x)) : Extended s₀ (colBatch s w f) := by
  refine unitStep_extended h ?_
  dsimp only
  split
  · exact h
  · exact ite_extends h (hf _ _ _ (servePass_extends h))

theorem hpdEdge_extended {n high} {k : State → State} (h : Safety.extends_ s₀ s)
    (hk : ∀ t, Safety.extends_ s₀ t → Safety.extends_ s₀ (k t)) : Extended s₀ (hpdEdge s n high k) :=
  powered_extended h (ite_extends h (ite_extends (hpdSet_extends h) (hk _ (hotplug_extends (hpdEvent_extends (hpdSet_extends h))))))

theorem basicRun_extended {op} {k : BasicCmd → State → Status × State} (h : Safety.extends_ s₀ s)
    (hk : ∀ b, Safety.extends_ s₀ (k b s).2) : Extended s₀ (basicRun op k s) := by
  refine powered_extended h ?_
  split
  · exact h
  · exact ite_extends (basicEnd_extends h) (basicEnd_extends (hk _))

theorem entryRow_extended {op sub i misses} (h : Safety.extends_ s₀ s) : Extended s₀ (entryRow op sub i misses s) := by
  refine engineStep_extended h ?_
  split
  · exact h
  · exact ite_extends h (ite_extends (sweepUndefined_extends (checkNow_extends h)) (onEntry_extends h))

theorem auxStart_extended {n op addr len} (h : Safety.extends_ s₀ s) : Extended s₀ (auxStart n op addr len s) :=
  ite_extended (next_extended h) (busWrite_extended h (ite_extends h (auxSend_extends (withDsp_extends (fset_extends h)))))

theorem winRow_extended {off v wide lost f} (h : Safety.extends_ s₀ s) : Extended s₀ (winRow off v wide lost f s) :=
  ite_extended (next_extended h) (busWrite_extended h (winWrite_extends h))

theorem flashDataWrite_extended {o v n} (h : Safety.extends_ s₀ s) : Extended s₀ (flashDataWrite o v n s) :=
  busWrite_extended h (withBoot_extends_of_wf h id wf_mwrite)

/-- Two events, one after the other. -/
theorem andThen_extended {o : Out} {k : State → Out} (ho : Extended s₀ o) (hk : ∀ t, Safety.extends_ s₀ t → Extended s₀ (k t)) :
    Extended s₀ (andThen o k) := by
  obtain ⟨t, rfl, ht⟩ := ho
  exact hk t ht

theorem trigger_extended {r w i v words} {k : Nat → State → Out} (h : Safety.extends_ s₀ s)
    (hk : ∀ n t, Safety.extends_ s₀ t → Extended s₀ (k n t)) : Extended s₀ (trigger s r w i v words k) :=
  andThen_extended (busWrite_extended h (rset_extends h)) fun _ ht => ite_extended (hk _ _ ht) (next_extended ht)

/-! ### Machine/Xlt -/

@[simp] theorem execTranslationLookup_extended {r micro tc s} (h : Safety.extends_ s₀ s) : Extended s₀ (execTranslationLookup r micro tc s) :=
  unitStep_extended h (translationLookup_extends h)

@[simp] theorem execWalkReadDone_extended {n error s} (h : Safety.extends_ s₀ s) : Extended s₀ (execWalkReadDone n error s) :=
  unitStep_extended h (walkReadDone_extends h)

@[simp] theorem execFaultBatchClose_extended {f s} (h : Safety.extends_ s₀ s) : Extended s₀ (execFaultBatchClose f s) :=
  unitStep_extended h (faultBatchClose_extends h)

@[simp] theorem execAtsTranslationCompletion_extended {f page ok out p s} (h : Safety.extends_ s₀ s) :
    Extended s₀ (execAtsTranslationCompletion f page ok out p s) := engineStep_extended h (atsTranslationCompletion_extends h)

@[simp] theorem execXltInvRange_extended {f asid s} (h : Safety.extends_ s₀ s) : Extended s₀ (execXltInvRange f asid s) :=
  busWrite_extended h (xltInvRange_extends h)

@[simp] theorem execXltInvTag_extended {f asid s} (h : Safety.extends_ s₀ s) : Extended s₀ (execXltInvTag f asid s) :=
  busWrite_extended h (xltInvTag_extends h)

@[simp] theorem execXltInvVmAll_extended {f vm s} (h : Safety.extends_ s₀ s) : Extended s₀ (execXltInvVmAll f vm s) :=
  busWrite_extended h (xltInvVmAll_extends h)

@[simp] theorem execXltInvUndefinedOp_extended {f s} (h : Safety.extends_ s₀ s) : Extended s₀ (execXltInvUndefinedOp f s) :=
  busWrite_extended h (xltInvUndefinedOp_extends h)

@[simp] theorem execAtsInvalidationRequest_extended {f start len tag s} (h : Safety.extends_ s₀ s) :
    Extended s₀ (execAtsInvalidationRequest f start len tag s) := engineStep_extended h (atsInvalidationRequest_extends h)

@[simp] theorem execInvalidationGrant_extended {n s} (h : Safety.extends_ s₀ s) : Extended s₀ (execInvalidationGrant n s) :=
  unitStep_extended h (invalidationGrant_extends h)

@[simp] theorem execInvalidationEngineAck_extended {e s} (h : Safety.extends_ s₀ s) : Extended s₀ (execInvalidationEngineAck e s) :=
  unitStep_extended h (invalidationEngineAck_extends h)

@[simp] theorem execXltVmCfgWrite_extended {v value s} (h : Safety.extends_ s₀ s) : Extended s₀ (execXltVmCfgWrite v value s) :=
  busWrite_extended h (xltVmCfgWrite_extends h)

/-! ### Machine/Fe -/

@[simp] theorem execFePartWrite_extended {f v s} (h : Safety.extends_ s₀ s) : Extended s₀ (execFePartWrite f v s) :=
  busWrite_extended h (ite_extends h (rset_extends h))

@[simp] theorem execCompletionWrite_extended {i s} (h : Safety.extends_ s₀ s) : Extended s₀ (execCompletionWrite i s) :=
  unitStep_extended h (completionWrite_extends h)

@[simp] theorem execQueueCreate_extended {f s} (h : Safety.extends_ s₀ s) : Extended s₀ (execQueueCreate f s) := by
  unfold execQueueCreate
  refine qCmd_extended h ?_
  split
  · exact qResult_extends h
  · exact onFe_extends (fset_extends h)

@[simp] theorem execQueueDescriptorReadDone_extended {f s} (h : Safety.extends_ s₀ s) : Extended s₀ (execQueueDescriptorReadDone f s) := by
  unfold execQueueDescriptorReadDone
  dsimp only
  refine unitStep_extended h ?_
  split
  · exact h
  · refine ite_extends (qResult_extends (ipaRead_extends (onFe_extends h))) ?_
    split
    · exact qResult_extends (ipaRead_extends (onFe_extends h))
    · exact ite_extends (qResult_extends (feWrite_extends (onFe_extends (ipaRead_extends (onFe_extends h))))) (stopNoEntry_extends (qResult_extends
        (feWrite_extends (onFe_extends (ipaRead_extends (onFe_extends h))))))

@[simp] theorem execQueueResume_extended {f s} (h : Safety.extends_ s₀ s) : Extended s₀ (execQueueResume f s) := by
  unfold execQueueResume
  dsimp only
  refine qCmd_extended h ?_
  split
  · exact qResult_extends h
  · exact ite_extends (qResult_extends (resumeAt_extends h)) (qResult_extends h)

@[simp] theorem execQueueResumeSkip_extended {f s} (h : Safety.extends_ s₀ s) : Extended s₀ (execQueueResumeSkip f s) := by
  unfold execQueueResumeSkip
  dsimp only
  refine qCmd_extended h ?_
  split
  · exact qResult_extends h
  · refine ite_extends ?_ (qResult_extends h)
    split
    · exact qResult_extends (resumeAt_extends h)
    · exact qResult_extends (resumeAt_extends (onEntry_extends h))

@[simp] theorem execQcmdUndefinedOp_extended {f op s} (h : Safety.extends_ s₀ s) : Extended s₀ (execQcmdUndefinedOp f op s) :=
  qCmd_extended h (ite_extends h (qResult_extends h))

@[simp] theorem execDbWriteIndex_extended {f i w s} (h : Safety.extends_ s₀ s) : Extended s₀ (execDbWriteIndex f i w s) := by
  unfold execDbWriteIndex
  dsimp only
  refine engineStep_extended h ?_
  split
  · exact h
  · refine ite_extends h ?_
    split
    · exact onQueue_extends h
    · exact onQueue_extends h
    · exact onQueue_extends h
    · exact ite_extends (onQueue_extends h) (ite_extends (stopNoEntry_extends (onQueue_extends h)) (demand_extends (ite_extends (onQueue_extends
        (onQueue_extends h)) (notifyScheduler_extends (onQueue_extends (onQueue_extends h))))))

@[simp] theorem execQueueArmSend_extended {i s} (h : Safety.extends_ s₀ s) : Extended s₀ (execQueueArmSend i s) := by
  unfold execQueueArmSend
  refine unitStep_extended h ?_
  split
  · exact h
  · exact ite_extends (onQueue_extends h) h

@[simp] theorem execArmServe_extended {i s} (h : Safety.extends_ s₀ s) : Extended s₀ (execArmServe i s) := engineStep_extended h (onQueue_extends h)

@[simp] theorem execArmReturnCompare_extended {i s} (h : Safety.extends_ s₀ s) : Extended s₀ (execArmReturnCompare i s) :=
  unitStep_extended h (onQueue_extends h)

@[simp] theorem execWakeArrive_extended {i s} (h : Safety.extends_ s₀ s) : Extended s₀ (execWakeArrive i s) :=
  unitStep_extended h (onQueue_extends h)

theorem withGfx_extends {x} (h : Safety.extends_ s₀ s) : Safety.extends_ s₀ { s with gfx := x } := extends_of_canonical h rfl rfl rfl id

@[simp] theorem execObjectCreate_extended {f rsvd s} (h : Safety.extends_ s₀ s) : Extended s₀ (execObjectCreate f rsvd s) := by
  refine oCmd_extended h ?_
  have hrefuse {st} : Safety.extends_ s₀ (oResult s f st 0) := oResult_extends h
  dsimp only
  refine ite_extends hrefuse (ite_extends hrefuse (ite_extends hrefuse ?_))
  split
  · exact hrefuse
  · exact ite_extends hrefuse (oResult_extends (onFe_extends (withGfx_extends h)))

@[simp] theorem execObjCmdUndefinedOp_extended {f op s} (h : Safety.extends_ s₀ s) : Extended s₀ (execObjCmdUndefinedOp f op s) :=
  oCmd_extended h (ite_extends h (oResult_extends h))

@[simp] theorem execWaitPoll_extended {t s} (h : Safety.extends_ s₀ s) : Extended s₀ (execWaitPoll t s) := by
  unfold execWaitPoll
  refine unitStep_extended h ?_
  split
  · exact h
  · exact ite_extends (onFe_extends h) h

@[simp] theorem execWaitPollReadDone_extended {t s} (h : Safety.extends_ s₀ s) : Extended s₀ (execWaitPollReadDone t s) := by
  unfold execWaitPollReadDone
  dsimp only
  refine unitStep_extended h ?_
  split
  · exact h
  · exact ite_extends h (ite_extends (endBare_extends (onFe_extends (vread_extends h))) (ite_extends (endBare_extends (onFe_extends (vread_extends
      h))) (onFe_extends (vread_extends h))))

@[simp] theorem execWaitTimeout_extended {t s} (h : Safety.extends_ s₀ s) : Extended s₀ (execWaitTimeout t s) := by
  unfold execWaitTimeout
  refine unitStep_extended h ?_
  split
  · exact h
  · exact ite_extends (endBare_extends h) h

/-! ### Machine/Memory -/

@[simp] theorem execL2RequestLookup_extended {r e s} (h : Safety.extends_ s₀ s) : Extended s₀ (execL2RequestLookup r e s) :=
  engineStep_extended h (l2RequestLookup_extends h)

@[simp] theorem execL2MissFill_extended {la rep s} (h : Safety.extends_ s₀ s) : Extended s₀ (execL2MissFill la rep s) :=
  engineStep_extended h (l2MissFill_extends h)

@[simp] theorem execHbmRefresh_extended {k s} (h : Safety.extends_ s₀ s) : Extended s₀ (execHbmRefresh k s) :=
  unitStep_extended h (hbmRefresh_extends h)

@[simp] theorem execHbmSelfRefreshEntry_extended {k s} (h : Safety.extends_ s₀ s) : Extended s₀ (execHbmSelfRefreshEntry k s) :=
  unitStep_extended h (hbmSelfRefreshEntry_extends h)

@[simp] theorem execHbmSelfRefreshExit_extended {k s} (h : Safety.extends_ s₀ s) : Extended s₀ (execHbmSelfRefreshExit k s) :=
  unitStep_extended h (hbmSelfRefreshExit_extends h)

@[simp] theorem execL2InvalidateDone_extended {slice s} (h : Safety.extends_ s₀ s) : Extended s₀ (execL2InvalidateDone slice s) :=
  engineStep_extended h (l2InvalidateDone_extends h)

@[simp] theorem execL2MaintClean_extended {scope s} (h : Safety.extends_ s₀ s) : Extended s₀ (execL2MaintClean scope s) :=
  busWrite_extended h (l2MaintClean_extends h)

@[simp] theorem execL2MaintInvalidate_extended {scope s} (h : Safety.extends_ s₀ s) : Extended s₀ (execL2MaintInvalidate scope s) :=
  busWrite_extended h (l2MaintInvalidate_extends h)

@[simp] theorem execL2MaintCleanInvalidate_extended {scope s} (h : Safety.extends_ s₀ s) : Extended s₀ (execL2MaintCleanInvalidate scope s) :=
  busWrite_extended h (l2MaintCleanInvalidate_extends h)

@[simp] theorem execL2MaintUndefinedOp_extended {op scope s} (h : Safety.extends_ s₀ s) : Extended s₀ (execL2MaintUndefinedOp op scope s) :=
  busWrite_extended h (l2MaintUndefinedOp_extends h)

@[simp] theorem execL2MaintDone_extended {s} (h : Safety.extends_ s₀ s) : Extended s₀ (execL2MaintDone s) :=
  engineStep_extended h (l2MaintDone_extends h)

@[simp] theorem execArbiterGrant_extended {kind inst asks s} (h : Safety.extends_ s₀ s) : Extended s₀ (execArbiterGrant kind inst asks s) :=
  engineStep_extended h (arbiterGrant_extends h)

@[simp] theorem execArbiterRevoke_extended {kind inst unit beats s} (h : Safety.extends_ s₀ s) :
    Extended s₀ (execArbiterRevoke kind inst unit beats s) := engineStep_extended h (arbiterRevoke_extends h)

@[simp] theorem execArbiterWatchdog_extended {kind inst s} (h : Safety.extends_ s₀ s) : Extended s₀ (execArbiterWatchdog kind inst s) :=
  engineStep_extended h (arbiterWatchdog_extends h)

/-! ### Machine/Sched -/

@[simp] theorem execCopyChunkDone_extended {t i steps s} (h : Safety.extends_ s₀ s) : Extended s₀ (execCopyChunkDone t i steps s) := by
  unfold execCopyChunkDone
  dsimp only
  refine unitStep_extended h ?_
  split
  · exact h
  · exact ite_extends h (ite_extends (busySteps_extends (itemDone_extends (copyChunk_extends h))) (taskFail_extends (busySteps_extends
      (itemDone_extends (copyChunk_extends h)))))

/-! ### Machine/Shader -/

@[simp] theorem execExit_extended {core pipe steps s} (h : Safety.extends_ s₀ s) : Extended s₀ (execExit core pipe steps s) :=
  issue_extended h fun _ _ ht => exitThreads_extends ht

@[simp] theorem execTrap_extended {core pipe s} (h : Safety.extends_ s₀ s) : Extended s₀ (execTrap core pipe s) :=
  issue_extended h fun _ _ ht => parkAt_extends ht

@[simp] theorem execGroupIssue_extended {core pipe ecc x s} (h : Safety.extends_ s₀ s) : Extended s₀ (execGroupIssue core pipe ecc x s) :=
  issue_extended h fun _ _ ht => groupIssue_extends (coreEcc_extends ht)

@[simp] theorem execFstat_extended {core pipe d s} (h : Safety.extends_ s₀ s) : Extended s₀ (execFstat core pipe d s) :=
  issue_extended h fun _ _ ht => ite_extends (parkAt_extends ht) (put_extends ht)

@[simp] theorem execMemoryAccessReturn_extended {core slot n ecc refetch s} (h : Safety.extends_ s₀ s) :
    Extended s₀ (execMemoryAccessReturn core slot n ecc refetch s) := engineStep_extended h (memReturn_extends h)

@[simp] theorem execBarWait_extended {core pipe n s} (h : Safety.extends_ s₀ s) : Extended s₀ (execBarWait core pipe n s) :=
  issue_extended h fun _ _ ht => ite_extends (parkAt_extends ht) (barCheck_extends (onBlock_extends (put_extends ht)))

@[simp] theorem execBarrierMismatchDetect_extended {b s} (h : Safety.extends_ s₀ s) : Extended s₀ (execBarrierMismatchDetect b s) := by
  unfold execBarrierMismatchDetect
  dsimp only
  refine engineStep_extended h ?_
  split
  · exact h
  · exact ite_extends (parkAll_extends h) h

@[simp] theorem execBarrierTimeout_extended {b n s} (h : Safety.extends_ s₀ s) : Extended s₀ (execBarrierTimeout b n s) := by
  unfold execBarrierTimeout
  refine engineStep_extended h ?_
  split
  · exact h
  · exact ite_extends h (parkAll_extends h)

@[simp] theorem execQwait_extended {core pipe d q ix s} (h : Safety.extends_ s₀ s) : Extended s₀ (execQwait core pipe d q ix s) := by
  unfold execQwait
  refine issue_extended h fun _ _ ht => ?_
  dsimp only
  refine ite_extends (parkAt_extends ht) ?_
  split
  · exact parkAt_extends ht
  · exact ite_extends (put_extends ht) (put_extends ht)

@[simp] theorem execQwaitWake_extended {q s} (h : Safety.extends_ s₀ s) : Extended s₀ (execQwaitWake q s) := by
  unfold execQwaitWake
  dsimp only
  refine engineStep_extended h ?_
  split
  · exact h
  · exact ite_extends h (onSc_extends (onQueue_extends h))

@[simp] theorem execQcomplete_extended {core pipe q n flags s} (h : Safety.extends_ s₀ s) : Extended s₀ (execQcomplete core pipe q n flags s) := by
  unfold execQcomplete
  refine issue_extended h fun _ _ ht => ?_
  refine ite_extends (parkAt_extends ht) ?_
  split
  · exact parkAt_extends ht
  · exact residentComplete_extends (put_extends ht)

@[simp] theorem execScReplayReplay_extended {f id gen s} (h : Safety.extends_ s₀ s) : Extended s₀ (execScReplayReplay f id gen s) :=
  replayOne_extended h fun _ => unpark_extends h

@[simp] theorem execScReplayContinue_extended {f id gen s} (h : Safety.extends_ s₀ s) : Extended s₀ (execScReplayContinue f id gen s) :=
  replayOne_extended h fun _ => unpark_extends h

@[simp] theorem execScReplayAbort_extended {f id gen s} (h : Safety.extends_ s₀ s) : Extended s₀ (execScReplayAbort f id gen s) :=
  replayOne_extended h fun _ => abortOwner_extends h

@[simp] theorem execScReplayContext_extended {f ctx s} (h : Safety.extends_ s₀ s) : Extended s₀ (execScReplayContext f ctx s) :=
  busWrite_extended h (ite_extends h (ite_extends (replayResult_extends h) (replayResult_extends (foldl_extends (fun _ _ ht => unpark_extends ht)
    h))))

@[simp] theorem execScReplayUndefinedOp_extended {f op s} (h : Safety.extends_ s₀ s) : Extended s₀ (execScReplayUndefinedOp f op s) :=
  busWrite_extended h (ite_extends h (replayResult_extends h))

@[simp] theorem execShaderEccUncorrectable_extended {core s} (h : Safety.extends_ s₀ s) : Extended s₀ (execShaderEccUncorrectable core s) :=
  engineStep_extended h (ite_extends (raiseBare_extends h) h)

@[simp] theorem execDeadlineBudgetExpiry_extended {core slot s} (h : Safety.extends_ s₀ s) : Extended s₀ (execDeadlineBudgetExpiry core slot s) := by
  unfold execDeadlineBudgetExpiry
  dsimp only
  refine engineStep_extended h ?_
  split
  · exact h
  · refine ite_extends h ?_
    split
    · refine settle_extends ?_
      refine barChecks_extends ?_
      refine onGroup_extends ?_
      refine onSc_extends ?_
      split
      · exact taskFail_extends h
      · exact passFail_extends h
      · split
        · exact passFail_extends h
        · exact h
    · refine dropBlock_extends ?_
      refine onSc_extends ?_
      split
      · exact taskFail_extends h
      · exact passFail_extends h
      · split
        · exact passFail_extends h
        · exact h

/-! ### Machine/Accord -/

@[simp] theorem execAccordInstruction_extended {core pipe dst d s} (h : Safety.extends_ s₀ s) :
    Extended s₀ (execAccordInstruction core pipe dst d s) := by
  unfold execAccordInstruction
  refine issue_extended h fun _ _ ht => ?_
  dsimp only
  split
  · exact parkAt_extends ht
  · exact ite_extends (parkAt_extends ht) (ite_extends (put_extends (onBlock_extends ht)) (onEngine_extends (put_extends ht)))

@[simp] theorem execAccWait_extended {core pipe dst src s} (h : Safety.extends_ s₀ s) : Extended s₀ (execAccWait core pipe dst src s) :=
  issue_extended h fun _ _ ht => ite_extends (parkAt_extends ht) (put_extends ht)

@[simp] theorem execAccLoadFrag_extended {core pipe d a n s} (h : Safety.extends_ s₀ s) : Extended s₀ (execAccLoadFrag core pipe d a n s) :=
  issue_extended h fun _ _ ht => reachFrag_extends ht

@[simp] theorem execAccStoreFrag_extended {core pipe d a n s} (h : Safety.extends_ s₀ s) : Extended s₀ (execAccStoreFrag core pipe d a n s) :=
  issue_extended h fun _ _ ht => reachFrag_extends ht

@[simp] theorem execMatrixDivergenceDetect_extended {core slot s} (h : Safety.extends_ s₀ s) :
    Extended s₀ (execMatrixDivergenceDetect core slot s) := by
  unfold execMatrixDivergenceDetect
  dsimp only
  refine engineStep_extended h ?_
  split
  · exact h
  · refine ite_extends h ?_
    split
    · exact h
    · exact ite_extends (parkGroup_extends h) h

@[simp] theorem execAccInfo_extended {core pipe d s} (h : Safety.extends_ s₀ s) : Extended s₀ (execAccInfo core pipe d s) :=
  issue_extended h fun _ _ ht => ite_extends (parkAt_extends ht) (put_extends ht)

@[simp] theorem execAccArg_extended {core pipe d n s} (h : Safety.extends_ s₀ s) : Extended s₀ (execAccArg core pipe d n s) := by
  unfold execAccArg
  refine issue_extended h fun _ _ ht => ?_
  split
  · split
    · exact ite_extends (put_extends ht) (parkAt_extends ht)
    · exact parkAt_extends ht
  · exact parkAt_extends ht

@[simp] theorem execAccordDescriptorArrive_extended {e s} (h : Safety.extends_ s₀ s) : Extended s₀ (execAccordDescriptorArrive e s) := by
  unfold execAccordDescriptorArrive
  dsimp only
  refine unitStep_extended h ?_
  split
  · exact h
  · split
    · exact h
    · refine ite_extends h ?_
      split
      · exact h
      · split
        · exact parkGroup_extends (onEngine_extends h)
        · exact onGroup_extends (onBlock_extends (onEngine_extends h))

@[simp] theorem execMoverStart_extended {e s} (h : Safety.extends_ s₀ s) : Extended s₀ (execMoverStart e s) := by
  unfold execMoverStart
  refine unitStep_extended h ?_
  split
  · exact h
  · exact onEngine_extends h

@[simp] theorem execMmaStart_extended {e s} (h : Safety.extends_ s₀ s) : Extended s₀ (execMmaStart e s) := by
  unfold execMmaStart
  dsimp only
  refine unitStep_extended h ?_
  split
  · exact h
  · split
    · exact mmaReduce_extends h
    · exact ite_extends (mmaReduce_extends h) (ite_extends (accFault_extends (countMismatch_extends (mmaReduce_extends h))) (onEngine_extends
        (mmaReduce_extends h)))

@[simp] theorem execMmaComplete_extended {e ecc s} (h : Safety.extends_ s₀ s) : Extended s₀ (execMmaComplete e ecc s) := by
  unfold execMmaComplete
  dsimp only
  refine engineStep_extended h ?_
  split
  · exact accDone_extends (foldl_extends (fun _ _ ht => folWrite_extends ht) (ite_extends (ite_extends h (mmaReduce_extends h)) (fcount_extends
      (ite_extends h (mmaReduce_extends h)))))
  · exact ite_extends h (mmaReduce_extends h)

@[simp] theorem execMoverComplete_extended {e s} (h : Safety.extends_ s₀ s) : Extended s₀ (execMoverComplete e s) := by
  unfold execMoverComplete
  dsimp only
  refine engineStep_extended h ?_
  split
  · split
    · split
      · rename_i hp
        have hu := extends_of_eq_mk hp (probeAll_extends h)
        exact accFault_extends hu
      · rename_i hp
        have hu := extends_of_eq_mk hp (probeAll_extends h)
        refine ite_extends ?_ ?_
        · refine ite_extends (accFault_extends (countMismatch_extends hu)) ?_
          split
          · rename_i hp1
            have hu1 := extends_of_eq_mk₂ hp1 (readRanges_extends hu)
            exact accFault_extends hu1
          · rename_i hp1
            have hu1 := extends_of_eq_mk₂ hp1 (readRanges_extends hu)
            exact accDone_extends (doLoad_extends hu1)
        · split
          · rename_i hp1
            have hu1 := extends_of_eq_mk hp1 (ite_snd_extends (storeRaw_extends hu) (storeRows_extends hu))
            exact accFault_extends hu1
          · rename_i hp1
            have hu1 := extends_of_eq_mk hp1 (ite_snd_extends (storeRaw_extends hu) (storeRows_extends hu))
            exact accDone_extends hu1
    · exact h
  · exact h

@[simp] theorem execAccumulatorEccError_extended {e s} (h : Safety.extends_ s₀ s) : Extended s₀ (execAccumulatorEccError e s) :=
  engineStep_extended h (ite_extends (raiseBare_extends h) h)

/-! ### Machine/Collator -/

@[simp] theorem execControlBlockReadDone_extended {p s} (h : Safety.extends_ s₀ s) : Extended s₀ (execControlBlockReadDone p s) := by
  unfold execControlBlockReadDone
  dsimp only
  refine unitStep_extended h ?_
  split
  · exact h
  · refine ite_extends h ?_
    refine ite_extends (endBare_extends (onGfx_extends (vread_extends h))) ?_
    split
    · exact endBare_extends (onGfx_extends (vread_extends h))
    · split
      · exact endBare_extends (onGfx_extends (vread_extends h))
      · exact ite_extends (passUnstart_extends (vread_extends h)) (ite_extends (beginEnd_extends (ite_extends (colWrite_extends (foldl_extends (fun
          _ _ ht => writeTable_extends ht) (onPass_extends (takeSerial_extends (vread_extends h))))) (foldl_extends (fun _ _ ht =>
          writeTable_extends ht) (onPass_extends (takeSerial_extends (vread_extends h)))))) (onPass_extends (takeSerial_extends (vread_extends h))))

@[simp] theorem execRouteBatch_extended {steps s} (h : Safety.extends_ s₀ s) : Extended s₀ (execRouteBatch steps s) := by
  refine colBatch_extended h fun s p x ht => ?_
  dsimp only
  generalize hs : onPass _ _ _ = u
  have hu : Safety.extends_ s₀ u := hs ▸ onPass_extends (foldl_extends (fun _ _ hv => routeToken_extends hv) (busySteps_extends ht))
  clear hs
  split
  · exact hu
  · exact ite_extends (beginEnd_extends hu) (ite_extends hu (beginEnd_extends (foldl_extends (fun _ _ hv => writeTable_extends hv) hu)))

@[simp] theorem execBlockBatch_extended {steps s} (h : Safety.extends_ s₀ s) : Extended s₀ (execBlockBatch steps s) := by
  refine colBatch_extended h fun s p x ht => ?_
  dsimp only
  generalize hr : colRead _ _ _ _ _ = r
  have hread : Safety.extends_ s₀ r.2 := hr ▸ colRead_extends (busySteps_extends ht)
  clear hr
  have hlast {c : Prop} [Decidable c] {u q f g} (hu : Safety.extends_ s₀ u) :
      Safety.extends_ s₀ (if c then onPass (writeTable p u q) p f else onPass u p g) :=
    ite_extends (onPass_extends (writeTable_extends hu)) (onPass_extends hu)
  obtain ⟨qrec, u⟩ := r
  cases qrec <;> dsimp only
  · split
    · exact hlast hread
    · exact ite_extends (beginEnd_extends (hlast hread)) (hlast hread)
  · have hkeys {q qrec l} : Safety.extends_ s₀ (List.foldl (blockKey p q qrec) u l) := foldl_extends (fun _ _ hv => blockKey_extends hv) hread
    split
    · exact hlast hkeys
    · exact ite_extends (beginEnd_extends (hlast hkeys)) (hlast hkeys)

@[simp] theorem execGeometryStageBatch_extended {s} (h : Safety.extends_ s₀ s) : Extended s₀ (execGeometryStageBatch s) := by
  unfold execGeometryStageBatch
  refine ite_extended (next_extended h) (colBatch_extended h fun _ _ _ ht => ?_)
  dsimp only
  split
  · exact ht
  · exact tryClose_extends (releaseDraws_extends (placePositions_extends (ite_extends (onPass_extends (gather_extends ht)) (onPass_extends
      (onPass_extends (gather_extends ht))))))

@[simp] theorem execGeometryBatchAdmit_extended {steps s} (h : Safety.extends_ s₀ s) : Extended s₀ (execGeometryBatchAdmit steps s) := by
  unfold execGeometryBatchAdmit
  refine colBatch_extended h fun _ _ _ ht => ?_
  dsimp only
  refine tryClose_extends ?_
  refine releaseDraws_extends ?_
  refine admitAll_extends ?_
  split
  · exact ite_extends (assemble_extends (busySteps_extends ht)) (busySteps_extends ht)
  · exact busySteps_extends ht

@[simp] theorem execFlushTilesStored_extended {p s} (h : Safety.extends_ s₀ s) : Extended s₀ (execFlushTilesStored p s) := by
  unfold execFlushTilesStored
  dsimp only
  refine unitStep_extended h ?_
  split
  · exact h
  · split
    · exact h
    · exact ite_extends h (tryClose_extends (foldl_extends (fun _ _ ht => by
      split
      · exact colWrite_extends (colRead_extends ht)
      · exact colRead_extends ht) (onPass_extends h)))

/-! ### Machine/Raster -/

@[simp] theorem execTileHandout_extended {s} (h : Safety.extends_ s₀ s) : Extended s₀ (execTileHandout s) := by
  unfold execTileHandout
  dsimp only
  refine engineStep_extended h ?_
  split
  · exact requestTile_extends (handFirst_extends h)
  · exact handFirst_extends h

@[simp] theorem execItemPlace_extended {e s} (h : Safety.extends_ s₀ s) : Extended s₀ (execItemPlace e s) := by
  unfold execItemPlace
  refine unitStep_extended h ?_
  split
  · exact foldl_extends (fun _ _ ht => placePositions_extends ht) h
  · exact placeFragments_extends h
  · exact itemPlace_extends h

@[simp] theorem execTileRecordRun_extended {c sl s} (h : Safety.extends_ s₀ s) : Extended s₀ (execTileRecordRun c sl s) := by
  unfold execTileRecordRun
  dsimp only
  refine unitStep_extended h ?_
  split
  · exact h
  · split
    · exact ite_extends h (placeFragment_extends (workTile_extends (statesChanged_extends (withFreeCtr_extends h ((Nat.le_succ _))))))
    · exact h

@[simp] theorem execFragmentOutputBlend_extended {c sl s} (h : Safety.extends_ s₀ s) : Extended s₀ (execFragmentOutputBlend c sl s) := by
  unfold execFragmentOutputBlend
  dsimp only
  refine unitStep_extended h ?_
  split
  · exact h
  · split
    · exact h
    · refine ite_extends h ?_
      split
      · exact h
      · exact dropDone_extends (workTile_extends (takeFree_extends h))

@[simp] theorem execDiscard_extended {core pipe steps s} (h : Safety.extends_ s₀ s) : Extended s₀ (execDiscard core pipe steps s) := by
  unfold execDiscard
  refine issue_extended h fun _ _ ht => ?_
  split
  · exact ite_extends (exitThreads_extends ht) (parkAt_extends ht)
  · exact parkAt_extends ht

@[simp] theorem execStOrdered_extended {core pipe n addr src s} (h : Safety.extends_ s₀ s) : Extended s₀ (execStOrdered core pipe n addr src s) :=
  issue_extended h fun _ _ ht => ite_extends (issueMem_extends ht) (parkAt_extends ht)

@[simp] theorem execTileWriteOut_extended {c sl s} (h : Safety.extends_ s₀ s) : Extended s₀ (execTileWriteOut c sl s) := by
  unfold execTileWriteOut
  dsimp only
  refine unitStep_extended h ?_
  split
  · exact h
  · split
    · exact freeTile_extends h
    · exact ite_extends (dropTile_extends h) (ite_extends h (onTile_extends (ite_extends (passFail_extends (countMismatch_extends h)) (foldl_extends
        (fun _ _ ht => writeAtt_extends ht) h))))

@[simp] theorem execTileWriteOutAccepted_extended {c sl steps s} (h : Safety.extends_ s₀ s) : Extended s₀ (execTileWriteOutAccepted c sl steps s) := by
  unfold execTileWriteOutAccepted
  dsimp only
  refine unitStep_extended h ?_
  split
  · exact h
  · refine ite_extends h ?_
    split
    · exact freeTile_extends (fset_extends h)
    · exact freeTile_extends (ite_extends (truSet_extends (busySteps_extends (fset_extends h))) (busySteps_extends (fset_extends h)))

@[simp] theorem execPassEndFinish_extended {p s} (h : Safety.extends_ s₀ s) : Extended s₀ (execPassEndFinish p s) := by
  unfold execPassEndFinish
  dsimp only
  refine unitStep_extended h ?_
  split
  · exact h
  · refine ite_extends (ite_extends (passFree_extends h) h) ?_
    refine ite_extends h ?_
    split
    · exact tryClose_extends (ite_extends (onPass_extends h) h)
    · refine ite_extends (tryClose_extends (ite_extends (onPass_extends h) h)) ?_
      split
      · exact passFinish_extends (foldl_extends (fun _ _ ht => writeUntouched_extends ht) (tryClose_extends (ite_extends (onPass_extends h) h)))
      · exact foldl_extends (fun _ _ ht => writeUntouched_extends ht) (tryClose_extends (ite_extends (onPass_extends h) h))

@[simp] theorem execPreemptGraceExpiry_extended {x s} (h : Safety.extends_ s₀ s) : Extended s₀ (execPreemptGraceExpiry x s) := by
  unfold execPreemptGraceExpiry
  dsimp only
  refine engineStep_extended h ?_
  split
  · exact graceBlock_extends h
  · split
    · exact h
    · exact ite_extends h (onSc_extends (onTile_extends h))

@[simp] theorem execPreemptSaveDone_extended {x s} (h : Safety.extends_ s₀ s) : Extended s₀ (execPreemptSaveDone x s) := by
  unfold execPreemptSaveDone
  dsimp only
  refine engineStep_extended h ?_
  split
  · split
    · exact h
    · exact ite_extends (saveBlock_extends h) h
  · split
    · exact h
    · refine ite_extends h ?_
      split
      · exact h
      · split
        · exact foldl_extends (fun _ _ ht => saveBlock_extends ht) h
        · exact moveGroups_extends (onGfx_extends (foldl_extends (fun _ _ ht => saveBlock_extends ht) h))

/-! ### Machine/Graph -/

@[simp] theorem execGraphPublish_extended {f s} (h : Safety.extends_ s₀ s) : Extended s₀ (execGraphPublish f s) := by
  unfold execGraphPublish
  dsimp only
  refine gCmd_extended h ?_
  split
  · exact onFe_extends (gopBegin_extends h)
  · exact ite_extends (onFe_extends (gopBegin_extends h)) (ite_extends (onFe_extends (publishCheck_extends (gopBegin_extends h))) (onFe_extends
      (invRequest_extends (armRange_extends (publishCheck_extends (gopBegin_extends h))))))

@[simp] theorem execGraphPatch_extended {f s} (h : Safety.extends_ s₀ s) : Extended s₀ (execGraphPatch f s) :=
  gCmd_extended h (onFe_extends (gopBegin_extends h))

@[simp] theorem execGcmdUndefinedOp_extended {f op s} (h : Safety.extends_ s₀ s) : Extended s₀ (execGcmdUndefinedOp f op s) :=
  gCmd_extended h (ite_extends h (gResult_extends h))

@[simp] theorem execGraphOpComplete_extended {f s} (h : Safety.extends_ s₀ s) : Extended s₀ (execGraphOpComplete f s) := by
  unfold execGraphOpComplete
  dsimp only
  refine unitStep_extended h ?_
  split
  · exact h
  · refine ite_extends h ?_
    split
    · exact gResult_extends (onFe_extends h)
    · exact gResult_extends (onFe_extends h)
    · refine ite_extends ?_ ?_
      · split
        · exact gResult_extends (onFe_extends h)
        · exact ite_extends (publishEffect_extends (onFe_extends h)) (gResult_extends (onFe_extends h))
      · split
        · exact gResult_extends (onFe_extends h)
        · refine ite_extends (gResult_extends (onFe_extends h)) ?_
          split
          · exact gResult_extends (onFe_extends h)
          · exact gResult_extends (patchRun_extends (onFe_extends h))

/-! ### Machine/Entries -/

@[simp] theorem execQueueDestroy_extended {f s} (h : Safety.extends_ s₀ s) : Extended s₀ (execQueueDestroy f s) := by
  unfold execQueueDestroy
  dsimp only
  refine qCmd_extended h ?_
  split
  · exact qResult_extends h
  · exact ite_extends (qResult_extends (queueFree_extends h)) (qResult_extends h)

@[simp] theorem execSchDiscard_extended {p n s} (h : Safety.extends_ s₀ s) : Extended s₀ (execSchDiscard p n s) := by
  unfold execSchDiscard
  dsimp only
  refine busWrite_extended h ?_
  refine ite_extends h ?_
  split
  · exact h
  · refine ite_extends h ?_
    split
    · exact ite_extends (notice_extends (discardCommand_extends h)) (discardCommand_extends h)
    · exact h

@[simp] theorem execDrainTimeout_extended {c s} (h : Safety.extends_ s₀ s) : Extended s₀ (execDrainTimeout c s) := by
  unfold execDrainTimeout
  dsimp only
  refine unitStep_extended h ?_
  split
  · exact ite_extends h (tdPreempt_extends (foldl_extends (fun _ _ ht => onQueue_extends ht) h))
  · exact h

@[simp] theorem execTeardownPreemptDone_extended {c s} (h : Safety.extends_ s₀ s) : Extended s₀ (execTeardownPreemptDone c s) := by
  refine unitStep_extended h ?_
  dsimp only
  split
  · exact h
  split
  · exact h
  · rename_i u hready
    have hu : Safety.extends_ s₀ u := by
      split at hready
      · split at hready
        · exact Option.some.inj hready ▸ tdPreempt_extends h
        · exact absurd hready (Option.some_ne_none u).symm
      · exact Option.some.inj hready ▸ h
      · exact absurd hready (Option.some_ne_none u).symm
    refine ite_extends hu (onFe_extends (foldl_extends (fun _ _ ht => invRequest_extends ht) ?_))
    exact foldl_extends (fun _ _ ht => tdFences_extends ht) (onFe_extends hu)

@[simp] theorem execTeardownQuarantineEnd_extended {c s} (h : Safety.extends_ s₀ s) : Extended s₀ (execTeardownQuarantineEnd c s) := by
  unfold execTeardownQuarantineEnd
  dsimp only
  refine unitStep_extended h ?_
  split
  · exact ite_extends h (flrEnd_extends (foldl_extends (fun _ _ ht => by
      split
      · exact endBare_extends ht
      · exact ht) (onFe_extends (tdSlots_extends (foldl_extends (fun _ _ ht => killQueue_extends ht) h)))))
  · exact h

@[simp] theorem execEntryFetch_extended {i s} (h : Safety.extends_ s₀ s) : Extended s₀ (execEntryFetch i s) := by
  unfold execEntryFetch
  refine unitStep_extended h ?_
  split
  · exact h
  · exact ite_extends (fetchOne_extends h) h

@[simp] theorem execObjectCacheMissReadDone_extended {i st s} (h : Safety.extends_ s₀ s) : Extended s₀ (execObjectCacheMissReadDone i st s) := by
  unfold execObjectCacheMissReadDone
  dsimp only
  refine unitStep_extended h ?_
  split
  · exact h
  · split
    · exact ite_extends (onEntry_extends h) (sweepUndefined_extends (checkNow_extends (onEntry_extends h)))
    · exact h

@[simp] theorem execDrawNonIndexed_extended {i misses s} (h : Safety.extends_ s₀ s) : Extended s₀ (execDrawNonIndexed i misses s) :=
  entryRow_extended h

@[simp] theorem execDrawIndexed_extended {i misses s} (h : Safety.extends_ s₀ s) : Extended s₀ (execDrawIndexed i misses s) := entryRow_extended h

@[simp] theorem execDrawIndirect_extended {i misses s} (h : Safety.extends_ s₀ s) : Extended s₀ (execDrawIndirect i misses s) := entryRow_extended h

@[simp] theorem execBinPassBegin_extended {i misses s} (h : Safety.extends_ s₀ s) : Extended s₀ (execBinPassBegin i misses s) := entryRow_extended h

@[simp] theorem execBinPassEnd_extended {i misses s} (h : Safety.extends_ s₀ s) : Extended s₀ (execBinPassEnd i misses s) := entryRow_extended h

@[simp] theorem execDispatchDirect_extended {i misses s} (h : Safety.extends_ s₀ s) : Extended s₀ (execDispatchDirect i misses s) :=
  entryRow_extended h

@[simp] theorem execDispatchIndirect_extended {i misses s} (h : Safety.extends_ s₀ s) : Extended s₀ (execDispatchIndirect i misses s) :=
  entryRow_extended h

@[simp] theorem execDispatchResident_extended {i misses s} (h : Safety.extends_ s₀ s) : Extended s₀ (execDispatchResident i misses s) :=
  entryRow_extended h

@[simp] theorem execAccordCommand_extended {i misses s} (h : Safety.extends_ s₀ s) : Extended s₀ (execAccordCommand i misses s) :=
  entryRow_extended h

@[simp] theorem execCopy_extended {i misses s} (h : Safety.extends_ s₀ s) : Extended s₀ (execCopy i misses s) := entryRow_extended h

@[simp] theorem execFill_extended {i misses s} (h : Safety.extends_ s₀ s) : Extended s₀ (execFill i misses s) := entryRow_extended h

@[simp] theorem execPressDeflateCompress_extended {i misses s} (h : Safety.extends_ s₀ s) : Extended s₀ (execPressDeflateCompress i misses s) :=
  entryRow_extended h

@[simp] theorem execPressPf1Compress_extended {i misses s} (h : Safety.extends_ s₀ s) : Extended s₀ (execPressPf1Compress i misses s) :=
  entryRow_extended h

@[simp] theorem execPressDeflateDecompress_extended {i misses s} (h : Safety.extends_ s₀ s) : Extended s₀ (execPressDeflateDecompress i misses s) :=
  entryRow_extended h

@[simp] theorem execPressPf1Decompress_extended {i misses s} (h : Safety.extends_ s₀ s) : Extended s₀ (execPressPf1Decompress i misses s) :=
  entryRow_extended h

@[simp] theorem execFence_extended {i misses s} (h : Safety.extends_ s₀ s) : Extended s₀ (execFence i misses s) := entryRow_extended h

@[simp] theorem execWaitQueueSequence_extended {i misses s} (h : Safety.extends_ s₀ s) : Extended s₀ (execWaitQueueSequence i misses s) :=
  entryRow_extended h

@[simp] theorem execWaitMemoryValue_extended {i misses s} (h : Safety.extends_ s₀ s) : Extended s₀ (execWaitMemoryValue i misses s) :=
  entryRow_extended h

@[simp] theorem execGraphLaunch_extended {i misses s} (h : Safety.extends_ s₀ s) : Extended s₀ (execGraphLaunch i misses s) := entryRow_extended h

@[simp] theorem execSeqStep_extended {i misses s} (h : Safety.extends_ s₀ s) : Extended s₀ (execSeqStep i misses s) := entryRow_extended h

@[simp] theorem execQueryContextUtil_extended {i misses s} (h : Safety.extends_ s₀ s) : Extended s₀ (execQueryContextUtil i misses s) :=
  entryRow_extended h

@[simp] theorem execQueryContextMemory_extended {i misses s} (h : Safety.extends_ s₀ s) : Extended s₀ (execQueryContextMemory i misses s) :=
  entryRow_extended h

@[simp] theorem execQueryTimestamp_extended {i misses s} (h : Safety.extends_ s₀ s) : Extended s₀ (execQueryTimestamp i misses s) :=
  entryRow_extended h

@[simp] theorem execQueryQueueState_extended {i misses s} (h : Safety.extends_ s₀ s) : Extended s₀ (execQueryQueueState i misses s) :=
  entryRow_extended h

@[simp] theorem execContextTeardownKill_extended {i misses s} (h : Safety.extends_ s₀ s) : Extended s₀ (execContextTeardownKill i misses s) :=
  entryRow_extended h

@[simp] theorem execContextTeardownDrain_extended {i misses s} (h : Safety.extends_ s₀ s) : Extended s₀ (execContextTeardownDrain i misses s) :=
  entryRow_extended h

@[simp] theorem execCommandStart_extended {x s} (h : Safety.extends_ s₀ s) : Extended s₀ (execCommandStart x s) := by
  unfold execCommandStart
  refine unitStep_extended h ?_
  split
  · exact sweepUndefined_extends (beginEntry_extends h)
  · split
    · exact nodeFirst_extends h
    · exact h

@[simp] theorem execCommandFinish_extended {t s} (h : Safety.extends_ s₀ s) : Extended s₀ (execCommandFinish t s) := by
  unfold execCommandFinish
  refine unitStep_extended h ?_
  split
  · exact h
  · split
    · exact h
    · exact ite_extends (endBare_extends (bumpFor_extends h)) h

@[simp] theorem execGraphNodeFinish_extended {l n s} (h : Safety.extends_ s₀ s) : Extended s₀ (execGraphNodeFinish l n s) := by
  unfold execGraphNodeFinish
  dsimp only
  refine unitStep_extended h ?_
  split
  · exact ite_extends (nodeEnd_extends (onFe_extends h)) (ite_extends (nodeEnd_extends (onFe_extends (bumpFor_extends h))) (ite_extends
      (nodeSatisfy_extends h) h))
  · exact nodeFences_extends h
  · exact h

@[simp] theorem execDbFenceCi_extended {f i ci s} (h : Safety.extends_ s₀ s) : Extended s₀ (execDbFenceCi f i ci s) :=
  engineStep_extended h (foldl_extends (fun _ _ ht => nodeFences_extends ht) (dbFenceCi_extends h))

@[simp] theorem execIndirectArgsReadDone_extended {t s} (h : Safety.extends_ s₀ s) : Extended s₀ (execIndirectArgsReadDone t s) := by
  unfold execIndirectArgsReadDone
  dsimp only
  refine unitStep_extended h ?_
  split
  · exact h
  · refine ite_extends h ?_
    refine ite_extends (onTask_extends (vread_extends h)) ?_
    refine ite_extends (onDraw_extends (endBare_extends (onTask_extends (vread_extends h)))) ?_
    split
    · exact onDraw_extends (endBare_extends (onTask_extends (vread_extends h)))
    · exact ite_extends (onDraw_extends (endBare_extends (onTask_extends (vread_extends h)))) (onDraw_extends (onTask_extends (onTask_extends
        (vread_extends h))))

/-! ### Machine/Seq -/

@[simp] theorem execObjectDestroy_extended {f rsvd s} (h : Safety.extends_ s₀ s) : Extended s₀ (execObjectDestroy f rsvd s) := by
  unfold execObjectDestroy
  dsimp only
  refine oCmd_extended h ?_
  refine ite_extends (oResult_extends h) ?_
  split
  · exact oResult_extends h
  · exact ite_extends (oResult_extends h) (oResult_extends (onXlt_extends (onFe_extends h)))

@[simp] theorem execSeqAdmit_extended {f s} (h : Safety.extends_ s₀ s) : Extended s₀ (execSeqAdmit f s) := by
  unfold execSeqAdmit
  refine sCmd_extended h ?_
  split
  · exact sResult_extends h
  · exact onSeq_extends (fset_extends h)

@[simp] theorem execSeqAdmitReadDone_extended {f s} (h : Safety.extends_ s₀ s) : Extended s₀ (execSeqAdmitReadDone f s) := by
  unfold execSeqAdmitReadDone
  dsimp only
  refine unitStep_extended h ?_
  split
  · exact h
  · refine ite_extends (sResult_extends (ipaRead_extends (onSeq_extends h))) ?_
    split
    · exact sResult_extends (ipaRead_extends (onSeq_extends h))
    · exact sResult_extends (onSeq_extends (ipaRead_extends (onSeq_extends h)))

@[simp] theorem execSeqCancel_extended {f s} (h : Safety.extends_ s₀ s) : Extended s₀ (execSeqCancel f s) := by
  unfold execSeqCancel
  refine slotCmd_extended h fun _ ht => ?_
  split
  · exact h
  · exact h
  · exact ite_extends (onSlotS_extends h) (slotLeave_extends h)

@[simp] theorem execSeqHold_extended {f s} (h : Safety.extends_ s₀ s) : Extended s₀ (execSeqHold f s) := by
  unfold execSeqHold
  refine slotCmd_extended h fun _ ht => ?_
  split
  · exact ite_extends (onSlotS_extends h) (slotHold_extends h)
  · exact ite_extends (onSlotS_extends h) (slotHold_extends h)
  · exact h
  · exact h

@[simp] theorem execSeqResume_extended {f s} (h : Safety.extends_ s₀ s) : Extended s₀ (execSeqResume f s) := by
  unfold execSeqResume
  refine slotCmd_extended h fun _ ht => ?_
  dsimp only
  split
  · exact onSeq_extends (onSlotS_extends h)
  · exact h
  · exact h
  · exact h

@[simp] theorem execSeqRelease_extended {f s} (h : Safety.extends_ s₀ s) : Extended s₀ (execSeqRelease f s) := by
  unfold execSeqRelease
  refine slotCmd_extended h fun _ ht => ?_
  split
  · exact ite_extends (slotFree_extends h) (onSlotS_extends h)
  · exact h

@[simp] theorem execSeqAddPages_extended {f s} (h : Safety.extends_ s₀ s) : Extended s₀ (execSeqAddPages f s) :=
  sCmd_extended h (ite_extends (sResult_extends h) (ite_extends (sResult_extends h) (ite_extends (sResult_extends h) (sResult_extends (fset_extends
    h)))))

@[simp] theorem execSeqRemovePages_extended {f s} (h : Safety.extends_ s₀ s) : Extended s₀ (execSeqRemovePages f s) :=
  sCmd_extended h (ite_extends (sResult_extends h) (sResult_extends (fset_extends h)))

@[simp] theorem execSeqScmdUndefinedOp_extended {f op s} (h : Safety.extends_ s₀ s) : Extended s₀ (execSeqScmdUndefinedOp f op s) :=
  sCmd_extended h (ite_extends h (sResult_extends h))

@[simp] theorem execSeqKvPoolWrite_extended {f v s} (h : Safety.extends_ s₀ s) : Extended s₀ (execSeqKvPoolWrite f v s) :=
  busWrite_extended h (ite_extends (rset_extends h) h)

@[simp] theorem execSeqFormation_extended {t s} (h : Safety.extends_ s₀ s) : Extended s₀ (execSeqFormation t s) := by
  refine unitStep_extended h ?_
  dsimp only
  split
  · rename_i r k _ _
    refine ite_extends h ?_
    generalize hf : formPass _ _ _ _ _ _ _ = a
    have ha : Safety.extends_ s₀ a.2 := hf ▸ formPass_extends (ite_snd_extends h (formPass_extends h))
    clear hf
    split
    · exact stepFail_extends ha
    refine ite_extends (endBare_extends (runDrop_extends ha)) ?_
    generalize hw : vwrite _ _ _ _ _ _ _ _ = w
    have hw : Safety.extends_ s₀ w.2 := hw ▸ vwrite_extends ha
    refine ite_extends (stepFail_extends hw) ?_
    generalize hg : (if r.ring = true then ringBegin _ _ _ _ else _) = g
    have hg : Safety.extends_ s₀ g.2 := hg ▸ ite_snd_extends (ringBegin_extends (onSeq_extends hw)) (onSeq_extends hw)
    refine ite_extends (stepFail_extends hg) ?_
    split
    · split
      · exact h
      · rename_i hl
        exact stepFail_extends (extends_of_eq_mk hl (launchStart_extends hg))
      · rename_i hl
        exact onSeq_extends (extends_of_eq_mk hl (launchStart_extends hg))
    · exact stepFail_extends hg
  · exact h

@[simp] theorem execSeqHarvest_extended {t s} (h : Safety.extends_ s₀ s) : Extended s₀ (execSeqHarvest t s) := by
  refine unitStep_extended h ?_
  dsimp only
  split
  · split
    · split
      · exact h
      · refine ite_extends h ?_
        have hdone {f} : Safety.extends_ s₀ (onFe s f) := onFe_extends h
        split
        · exact stepFail_extends hdone
        · refine ite_extends (stepFail_extends hdone) (ite_extends (stepFail_extends (vread_extends hdone)) ?_)
          generalize hw : writeTokens _ _ _ = w
          have hw : Safety.extends_ s₀ w.2 := hw ▸ writeTokens_extends (vread_extends hdone)
          refine ite_extends (stepFail_extends hw) (harvestEnd_extends (onSeq_extends ?_))
          exact foldl_snd_extends (fun _ _ ht => harvestRow_extends ht) hw
    · exact h
  · exact h

@[simp] theorem execSeqEvtCi_extended {f v s} (h : Safety.extends_ s₀ s) : Extended s₀ (execSeqEvtCi f v s) :=
  busWrite_extended h (foldl_extends (fun _ _ ht => harvestEnd_extends ht) (rset_extends h))

@[simp] theorem execSlotPageRelease_extended {i s} (h : Safety.extends_ s₀ s) : Extended s₀ (execSlotPageRelease i s) := by
  unfold execSlotPageRelease
  dsimp only
  refine unitStep_extended h ?_
  split
  · exact h
  · refine ite_extends h ?_
    split
    · exact onSlotS_extends (invRequest_extends (unmapAll_extends h))
    · exact releaseEnd_extends h

@[simp] theorem execSlotReleaseAcksDone_extended {i s} (h : Safety.extends_ s₀ s) : Extended s₀ (execSlotReleaseAcksDone i s) := by
  unfold execSlotReleaseAcksDone
  dsimp only
  refine unitStep_extended h ?_
  split
  · exact h
  · exact ite_extends h (releaseEnd_extends (onSlotS_extends (foldl_extends (fun _ _ ht => poolPush_extends ht) h)))

/-! ### Machine/Display -/

@[simp] theorem execDspCommit_extended {x s} (h : Safety.extends_ s₀ s) : Extended s₀ (execDspCommit x s) :=
  ite_extended (next_extended h) (busWrite_extended h (commit_extends h))

@[simp] theorem execDspCommitCancel_extended {x s} (h : Safety.extends_ s₀ s) : Extended s₀ (execDspCommitCancel x s) :=
  ite_extended (next_extended h) (busWrite_extended h (ite_extends (commitClear_extends (onStream_extends h)) h))

@[simp] theorem execLatchPoint_extended {x s} (h : Safety.extends_ s₀ s) : Extended s₀ (execLatchPoint x s) :=
  powered_extended h (latchPoint_extends h)

@[simp] theorem execPipeLineFetch_extended {p s} (h : Safety.extends_ s₀ s) : Extended s₀ (execPipeLineFetch p s) :=
  engineStep_extended h (ite_extends h (displayStep_extends h (pipeFetch_extends h)))

@[simp] theorem execScanoutLine_extended {x s} (h : Safety.extends_ s₀ s) : Extended s₀ (execScanoutLine x s) :=
  powered_extended h (scanout_extends h)

@[simp] theorem execWritebackLine_extended {x s} (h : Safety.extends_ s₀ s) : Extended s₀ (execWritebackLine x s) :=
  unitStep_extended h (ite_extends h (displayStep_extends h (writebackLine_extends h)))

@[simp] theorem execHpdPlug_extended {n s} (h : Safety.extends_ s₀ s) : Extended s₀ (execHpdPlug n s) :=
  hpdEdge_extended h fun _ ht => linkTry_extends ht

@[simp] theorem execHpdUnplug_extended {n s} (h : Safety.extends_ s₀ s) : Extended s₀ (execHpdUnplug n s) :=
  hpdEdge_extended h (fun _ ht => ite_extends (fset_extends ht) ht)

@[simp] theorem execHpdIrqPulse_extended {n lost s} (h : Safety.extends_ s₀ s) : Extended s₀ (execHpdIrqPulse n lost s) :=
  engineStep_extended h (ite_extends h (ite_extends (fset_extends (hpdEvent_extends h)) (hpdEvent_extends h)))

@[simp] theorem execDspOutCtlWrite_extended {n v s} (h : Safety.extends_ s₀ s) : Extended s₀ (execDspOutCtlWrite n v s) :=
  ite_extended (next_extended h) (busWrite_extended h (outCtlWrite_extends h))

@[simp] theorem execLinkTrainingDone_extended {n ok s} (h : Safety.extends_ s₀ s) : Extended s₀ (execLinkTrainingDone n ok s) :=
  engineStep_extended h (ite_extends h (ite_extends (fset_extends h) (fset_extends (fset_extends (fset_extends h)))))

@[simp] theorem execAuxNativeRead_extended {n addr len s} (h : Safety.extends_ s₀ s) : Extended s₀ (execAuxNativeRead n addr len s) :=
  auxStart_extended h

@[simp] theorem execAuxNativeWrite_extended {n addr len s} (h : Safety.extends_ s₀ s) : Extended s₀ (execAuxNativeWrite n addr len s) :=
  auxStart_extended h

@[simp] theorem execAuxI2cRead_extended {n addr len s} (h : Safety.extends_ s₀ s) : Extended s₀ (execAuxI2cRead n addr len s) := auxStart_extended h

@[simp] theorem execAuxI2cWrite_extended {n addr len s} (h : Safety.extends_ s₀ s) : Extended s₀ (execAuxI2cWrite n addr len s) :=
  auxStart_extended h

@[simp] theorem execAuxReply_extended {n reply data count s} (h : Safety.extends_ s₀ s) : Extended s₀ (execAuxReply n reply data count s) :=
  engineStep_extended h (ite_extends h (auxReply_extends h))

@[simp] theorem execAuxTimeout_extended {n s} (h : Safety.extends_ s₀ s) : Extended s₀ (execAuxTimeout n s) :=
  engineStep_extended h (ite_extends (auxEnd_extends h) h)

/-! ### Machine/Press -/

@[simp] theorem execPressCompressSlice_extended {t steps s} (h : Safety.extends_ s₀ s) : Extended s₀ (execPressCompressSlice t steps s) := by
  unfold execPressCompressSlice
  dsimp only
  refine unitStep_extended h ?_
  split
  · exact pressWaits_extends h
  · exact ite_extends (pressEnd_extends (pressRead_extends (busySteps_extends (itemDone_extends h)))) (ite_extends (pressEnd_extends
      (pressWrite_extends (fcount_extends (pressRead_extends (busySteps_extends (itemDone_extends h)))))) (ite_extends (pressEnd_extends
      (pressWrite_extends (fcount_extends (pressRead_extends (busySteps_extends (itemDone_extends h)))))) (pressMore_extends (pressWrite_extends
      (fcount_extends (pressRead_extends (busySteps_extends (itemDone_extends h))))))))

@[simp] theorem execPressDecompressSlice_extended {t limit steps s} (h : Safety.extends_ s₀ s) :
    Extended s₀ (execPressDecompressSlice t limit steps s) := by
  unfold execPressDecompressSlice
  dsimp only
  refine unitStep_extended h ?_
  split
  · exact pressWaits_extends h
  · refine ite_extends (pressEnd_extends (pressWrite_extends (ite_snd_snd_extends (busySteps_extends (itemDone_extends h)) (decLoop_extends
      (busySteps_extends (itemDone_extends h)))))) ?_
    split
    · exact pressMore_extends (pressWrite_extends (ite_snd_snd_extends (busySteps_extends (itemDone_extends h)) (decLoop_extends (busySteps_extends
        (itemDone_extends h)))))
    · exact ite_extends (pressEnd_extends (pressWrite_extends (ite_snd_snd_extends (busySteps_extends (itemDone_extends h)) (decLoop_extends
        (busySteps_extends (itemDone_extends h)))))) (pressMore_extends (pressWrite_extends (ite_snd_snd_extends (busySteps_extends
        (itemDone_extends h)) (decLoop_extends (busySteps_extends (itemDone_extends h))))))
    · exact pressEnd_extends (pressWrite_extends (ite_snd_snd_extends (busySteps_extends (itemDone_extends h)) (decLoop_extends (busySteps_extends
        (itemDone_extends h)))))

/-! ### Machine/Folio -/

@[simp] theorem execFolBankWrite_extended {c b v s} (h : Safety.extends_ s₀ s) : Extended s₀ (execFolBankWrite c b v s) :=
  ite_extended (next_extended h) (busWrite_extended h (folBankWrite_extends h))

@[simp] theorem execFolHandoverDrained_extended {c b s} (h : Safety.extends_ s₀ s) : Extended s₀ (execFolHandoverDrained c b s) :=
  unitStep_extended h (folHandoverDrained_extends h)

@[simp] theorem execFolHandoverComplete_extended {c b s} (h : Safety.extends_ s₀ s) : Extended s₀ (execFolHandoverComplete c b s) :=
  unitStep_extended h (folHandoverComplete_extends h)

@[simp] theorem execFolWindowWrite_extended {off v wide lost s} (h : Safety.extends_ s₀ s) : Extended s₀ (execFolWindowWrite off v wide lost s) :=
  winRow_extended h

@[simp] theorem execFolSetAliasWrite_extended {off v wide lost s} (h : Safety.extends_ s₀ s) :
    Extended s₀ (execFolSetAliasWrite off v wide lost s) := winRow_extended h

@[simp] theorem execFolClearAliasWrite_extended {off v wide lost s} (h : Safety.extends_ s₀ s) :
    Extended s₀ (execFolClearAliasWrite off v wide lost s) := winRow_extended h

/-! ### Machine/Hif -/

@[simp] theorem execBar2Read_extended {f o n s} (h : Safety.extends_ s₀ s) : Extended s₀ (execBar2Read f o n s) :=
  powered_extended h (bar2Read_extends h)

@[simp] theorem execBar2Write_extended {f o data s} (h : Safety.extends_ s₀ s) : Extended s₀ (execBar2Write f o data s) :=
  powered_extended h (bar2Write_extends h)

@[simp] theorem execDeviceReadCompletion_extended {l e s} (h : Safety.extends_ s₀ s) : Extended s₀ (execDeviceReadCompletion l e s) :=
  powered_extended h (readEnd_extends h)

@[simp] theorem execMsixPendingSend_extended {f v s} (h : Safety.extends_ s₀ s) : Extended s₀ (execMsixPendingSend f v s) :=
  powered_extended h (ite_extends h (send_extends (linkSend_extends (withHif_extends h rfl))))

@[simp] theorem execPcieConfigRequest_extended {f r s} (h : Safety.extends_ s₀ s) : Extended s₀ (execPcieConfigRequest f r s) :=
  powered_extended h (ite_extends (send_extends h) (ite_extends (unsupported_extends h) (send_extends (cfgApply_extends h))))

@[simp] theorem execResizableBarControlWrite_extended {vf log2 s} (h : Safety.extends_ s₀ s) :
    Extended s₀ (execResizableBarControlWrite vf log2 s) :=
  powered_extended h (ite_extends h (ite_extends (ite_extends h (withHif_extends h rfl)) (ite_extends h (onCfg_extends h))))

@[simp] theorem execL0pWindow_extended {up down granted s} (h : Safety.extends_ s₀ s) : Extended s₀ (execL0pWindow up down granted s) :=
  powered_extended h (l0pWindow_extends h)

@[simp] theorem execL1IdleExpiry_extended {granted s} (h : Safety.extends_ s₀ s) : Extended s₀ (execL1IdleExpiry granted s) :=
  powered_extended h (ite_extends h (ite_extends (fset_extends (send_extends h)) (send_extends h)))

@[simp] theorem execWakeEvent_extended {code detail s} (h : Safety.extends_ s₀ s) : Extended s₀ (execWakeEvent code detail s) :=
  powered_extended h (ite_extends (hostExit_extends (wakeEvent_extends h)) (ite_extends (wakeEvent_extends (onPwr_extends h)) h))

@[simp] theorem execVfFlr_extended {f s} (h : Safety.extends_ s₀ s) : Extended s₀ (execVfFlr f s) :=
  powered_extended h (ite_extends h (ite_extends (withHif_extends h rfl) (flrStart_extends h)))

@[simp] theorem execVfEnableClear_extended {s} (h : Safety.extends_ s₀ s) : Extended s₀ (execVfEnableClear s) :=
  powered_extended h (ite_extends (eachVf_extends (fun _ _ ht => withHif_extends ht rfl) h) (eachVf_extends (fun _ _ ht => flrStart_extends ht) h))

@[simp] theorem execPfFlr_extended {s} (h : Safety.extends_ s₀ s) : Extended s₀ (execPfFlr s) := powered_extended h (pfFlr_extends h)

@[simp] theorem execHifVfWinWrite_extended {f v s} (h : Safety.extends_ s₀ s) : Extended s₀ (execHifVfWinWrite f v s) :=
  busWrite_extended h (vfWinWrite_extends h)

/-! ### Machine/Reuse -/

@[simp] theorem execTruBump_extended {f s} (h : Safety.extends_ s₀ s) : Extended s₀ (execTruBump f s) := by
  unfold execTruBump
  dsimp only
  refine truCmd_extended h ?_
  split
  · exact truResult_extends h
  · exact truResult_extends (bumpVersion_extends h)

@[simp] theorem execTruInvalidate_extended {f s} (h : Safety.extends_ s₀ s) : Extended s₀ (execTruInvalidate f s) :=
  truCmd_extended h (ite_extends (truResult_extends h) (ite_extends (truResult_extends h) (ite_extends (onSlot_extends (fset_extends h))
    (truResult_extends (truClear_extends h)))))

@[simp] theorem execTruCmdUndefinedOp_extended {f op s} (h : Safety.extends_ s₀ s) : Extended s₀ (execTruCmdUndefinedOp f op s) :=
  truCmd_extended h (ite_extends h (truResult_extends h))

@[simp] theorem execTruSlotCfgWrite_extended {sl v s} (h : Safety.extends_ s₀ s) : Extended s₀ (execTruSlotCfgWrite sl v s) :=
  busWrite_extended h (ite_extends h (truSlotCfg_extends h))

@[simp] theorem execLoadTermReadDone_extended {p s} (h : Safety.extends_ s₀ s) : Extended s₀ (execLoadTermReadDone p s) := by
  unfold execLoadTermReadDone
  dsimp only
  refine unitStep_extended h ?_
  split
  · exact h
  · refine ite_extends h ?_
    split
    · exact h
    · split
      · exact loadTerm_extends h
      · exact onPass_extends (loadTerm_extends h)

@[simp] theorem execReuseTileLookup_extended {p ecc s} (h : Safety.extends_ s₀ s) : Extended s₀ (execReuseTileLookup p ecc s) := by
  unfold execReuseTileLookup
  dsimp only
  refine unitStep_extended h ?_
  split
  · exact h
  · split
    · exact ite_extends h (ite_extends (ite_extends (onPass_extends (onPass_extends h)) (truSet_extends (onPass_extends h))) (ite_extends
        (onPass_extends (onPass_extends (onPass_extends h))) (ite_extends (ite_extends (onPass_extends (truRead_extends (onPass_extends h)))
        (onPass_extends (truRead_extends (onPass_extends h)))) (ite_extends (onPass_extends (onPass_extends (truRead_extends (onPass_extends h))))
        (truSet_extends (writeUntouched_extends (onPass_extends (truRead_extends (onPass_extends h)))))))))
    · exact h

@[simp] theorem execReuseTileCopy_extended {c p s} (h : Safety.extends_ s₀ s) : Extended s₀ (execReuseTileCopy c p s) := by
  unfold execReuseTileCopy
  dsimp only
  refine unitStep_extended h ?_
  split
  · exact h
  · split
    · exact ite_extends h (onPass_extends (foldl_extends (fun _ _ ht => copyAtt_extends ht) h))
    · exact h

@[simp] theorem execRuProbe_extended {core pipe r d ecc s} (h : Safety.extends_ s₀ s) : Extended s₀ (execRuProbe core pipe r d ecc s) := by
  refine ite_extended (next_extended h) (issue_extended h fun _ _ ht => ?_)
  dsimp only
  split
  · exact parkAt_extends ht
  · split
    · rename_i hp
      exact parkAt_extends (extends_of_eq_mk hp (ruRows_extends ht))
    · rename_i hp
      exact put_extends (fcount_extends (truRead_extends (extends_of_eq_mk hp (ruRows_extends ht))))

@[simp] theorem execRuCommit_extended {core pipe d s} (h : Safety.extends_ s₀ s) : Extended s₀ (execRuCommit core pipe d s) := by
  unfold execRuCommit
  refine ite_extended (next_extended h) (issue_extended h fun _ _ ht => ?_)
  dsimp only
  split
  · exact parkAt_extends ht
  · exact put_extends (onGfx_extends ht)

/-! ### Machine/Ring -/

@[simp] theorem execRingHopTransmit_extended {s} (h : Safety.extends_ s₀ s) : Extended s₀ (execRingHopTransmit s) := by
  unfold execRingHopTransmit
  dsimp only
  refine unitStep_extended h ?_
  split
  · exact h
  · split
    · exact ite_extends (readProgress_extends h) h
    · refine ite_extends (ite_extends (readProgress_extends h) h) ?_
      refine ite_extends (ringFail_extends (ite_extends (readProgress_extends h) h)) ?_
      refine ite_extends (demand_extends (ite_extends (readProgress_extends h) h)) ?_
      split
      · exact ite_extends (readProgress_extends h) h
      · exact ite_extends (ringFail_extends (ite_extends (countMismatch_extends (vread_extends (ite_extends (readProgress_extends h) h)))
          (vread_extends (ite_extends (readProgress_extends h) h)))) (onRing_extends (onPort_extends (ite_extends (countMismatch_extends
          (vread_extends (ite_extends (readProgress_extends h) h))) (vread_extends (ite_extends (readProgress_extends h) h)))))

@[simp] theorem execRingMessageReceive_extended {s} (h : Safety.extends_ s₀ s) : Extended s₀ (execRingMessageReceive s) := by
  unfold execRingMessageReceive
  dsimp only
  refine unitStep_extended h ?_
  split
  · exact h
  · exact h
  · refine ite_extends h ?_
    refine ite_extends (onSeq_extends h) ?_
    split
    · exact ringFail_extends (onRing_extends (fcount_extends (onSeq_extends h)))
    · refine ite_extends (ringFail_extends (onRing_extends (fcount_extends (onSeq_extends h)))) ?_
      refine ite_extends (ringFail_extends (onRing_extends (fcount_extends (onSeq_extends h)))) ?_
      split
      · exact ringFail_extends (onRing_extends (fcount_extends (onSeq_extends h)))
      · exact ite_extends (ringFail_extends (vwrite_extends (onRing_extends (fcount_extends (onSeq_extends h))))) (ite_extends (blockArrived_extends
          (vwrite_extends (onRing_extends (fcount_extends (onSeq_extends h))))) (onRing_extends (vwrite_extends (onRing_extends (fcount_extends
          (onSeq_extends h))))))

@[simp] theorem execRingProgressPoll_extended {s} (h : Safety.extends_ s₀ s) : Extended s₀ (execRingProgressPoll s) := by
  unfold execRingProgressPoll
  dsimp only
  refine unitStep_extended h ?_
  split
  · exact h
  · exact ite_extends h (ite_extends (readProgress_extends (readProgress_extends (readProgress_extends h))) (readProgress_extends
      (readProgress_extends h)))

@[simp] theorem execRingAbortReceive_extended {s} (h : Safety.extends_ s₀ s) : Extended s₀ (execRingAbortReceive s) := by
  unfold execRingAbortReceive
  dsimp only
  refine unitStep_extended h ?_
  split
  · exact h
  · exact ringFail_extends (onSeq_extends h)

@[simp] theorem execRingWatchdogExpiry_extended {s} (h : Safety.extends_ s₀ s) : Extended s₀ (execRingWatchdogExpiry s) := by
  unfold execRingWatchdogExpiry
  dsimp only
  refine unitStep_extended h ?_
  split
  · exact h
  · exact ite_extends (ringFail_extends h) h

@[simp] theorem execSeqRingCfgWrite_extended {v s} (h : Safety.extends_ s₀ s) : Extended s₀ (execSeqRingCfgWrite v s) :=
  busWrite_extended h (ite_extends h (foldl_extends (fun _ _ ht => ite_extends (matchPeer_extends (onPort_extends ht)) ht) (rset_extends h)))

/-! ### Machine/Uap -/

@[simp] theorem execUapFlitReceive_extended {p raw s} (h : Safety.extends_ s₀ s) : Extended s₀ (execUapFlitReceive p raw s) :=
  powered_extended h (ite_extends h (uapReceive_extends h))

@[simp] theorem execUapFlitTransmit_extended {p s} (h : Safety.extends_ s₀ s) : Extended s₀ (execUapFlitTransmit p s) :=
  powered_extended h (ite_extends h (uapTransmit_extends h))

@[simp] theorem execUapReplayTimer_extended {p s} (h : Safety.extends_ s₀ s) : Extended s₀ (execUapReplayTimer p s) :=
  powered_extended h (ite_extends h (uapReplay_extends h))

@[simp] theorem execUapTrainingComplete_extended {p ok reversed polarity s} (h : Safety.extends_ s₀ s) :
    Extended s₀ (execUapTrainingComplete p ok reversed polarity s) := engineStep_extended h (ite_extends h (uapTrained_extends h))

@[simp] theorem execUapCtlEnWrite_extended {p en s} (h : Safety.extends_ s₀ s) : Extended s₀ (execUapCtlEnWrite p en s) :=
  ite_extended (next_extended h) (busWrite_extended h (uapEn_extends h))

@[simp] theorem execUapSleepReq_extended {p s} (h : Safety.extends_ s₀ s) : Extended s₀ (execUapSleepReq p s) :=
  ite_extended (next_extended h) (busWrite_extended h (ite_extends h (onPort_extends h)))

@[simp] theorem execUapWake_extended {p s} (h : Safety.extends_ s₀ s) : Extended s₀ (execUapWake p s) :=
  ite_extended (next_extended h) (busWrite_extended h (uapWakeUp_extends h))

@[simp] theorem execUapWakePatternDetect_extended {p s} (h : Safety.extends_ s₀ s) : Extended s₀ (execUapWakePatternDetect p s) :=
  powered_extended h (ite_extends h (uapWakeUp_extends (wakeReport_extends (uapIrq_extends (fset_extends h)))))

/-! ### Machine/Power -/

@[simp] theorem execPwrDomCtlWrite_extended {d v s} (h : Safety.extends_ s₀ s) : Extended s₀ (execPwrDomCtlWrite d v s) :=
  ite_extended (next_extended h) (busWrite_extended h (domCtlWrite_extends h))

@[simp] theorem execDomainQuiesced_extended {d s} (h : Safety.extends_ s₀ s) : Extended s₀ (execDomainQuiesced d s) := by
  unfold execDomainQuiesced
  refine powered_extended h ?_
  split
  · exact ite_extends (latchPads_extends (setPhase_extends h)) h
  · exact h

@[simp] theorem execDomainDownDone_extended {d s} (h : Safety.extends_ s₀ s) : Extended s₀ (execDomainDownDone d s) := by
  unfold execDomainDownDone
  refine powered_extended h ?_
  split
  · exact domSettled_extends (domDown_extends h)
  · exact h

@[simp] theorem execPowerGoodRise_extended {d s} (h : Safety.extends_ s₀ s) : Extended s₀ (execPowerGoodRise d s) := by
  unfold execPowerGoodRise
  dsimp only
  refine powered_extended h ?_
  split
  · exact ite_extends (setPhase_extends h) (ite_extends (foldl_extends (fun _ _ ht => fset_extends ht) (setPhase_extends h)) (ite_extends
      (fset_extends (setPhase_extends h)) (setPhase_extends h)))
  · exact h

@[simp] theorem execPowerGoodTimeout_extended {d s} (h : Safety.extends_ s₀ s) : Extended s₀ (execPowerGoodTimeout d s) := by
  unfold execPowerGoodTimeout
  refine powered_extended h ?_
  split
  · exact domSettled_extends (raiseBare_extends (domStatus_extends (endPhase_extends h)))
  · exact h

@[simp] theorem execDomainUpDone_extended {d s} (h : Safety.extends_ s₀ s) : Extended s₀ (execDomainUpDone d s) := by
  unfold execDomainUpDone
  refine powered_extended h ?_
  split
  · exact ite_extends h (domSettled_extends (domUpDone_extends h))
  · exact h

@[simp] theorem execPowerGoodLost_extended {d s} (h : Safety.extends_ s₀ s) : Extended s₀ (execPowerGoodLost d s) :=
  powered_extended h (ite_extends h (raise_extends h))

@[simp] theorem execAutoIdleExpiry_extended {d s} (h : Safety.extends_ s₀ s) : Extended s₀ (execAutoIdleExpiry d s) :=
  powered_extended h (ite_extends h (setPhase_extends h))

@[simp] theorem execPwrPadReleaseWrite_extended {v s} (h : Safety.extends_ s₀ s) : Extended s₀ (execPwrPadReleaseWrite v s) :=
  busWrite_extended h (padRelease_extends h)

@[simp] theorem execSillageEnter_extended {v s} (h : Safety.extends_ s₀ s) : Extended s₀ (execSillageEnter v s) :=
  busWrite_extended h (ite_extends h (sillageEnter_extends (rset_extends h)))

@[simp] theorem execSillageEntryDone_extended {s} (h : Safety.extends_ s₀ s) : Extended s₀ (execSillageEntryDone s) :=
  powered_extended h (ite_extends h (onPwr_extends (fset_extends (fset_extends (ite_extends (fset_extends h) (fset_extends (fset_extends h)))))))

@[simp] theorem execSillageSample_extended {tj stack tach hpd s} (h : Safety.extends_ s₀ s) : Extended s₀ (execSillageSample tj stack tach hpd s) := by
  unfold execSillageSample
  dsimp only
  refine powered_extended h ?_
  refine ite_extends h ?_
  refine ite_extends (failsafeEnter_extends (fcount_extends h)) ?_
  refine ite_extends (wakeReport_extends (fcount_extends h)) ?_
  refine ite_extends (wakeReport_extends (fcount_extends h)) ?_
  split
  · exact wakeReport_extends (hpdSet_extends (fcount_extends h))
  · exact fcount_extends h

@[simp] theorem execWakeSequenceDone_extended {s} (h : Safety.extends_ s₀ s) : Extended s₀ (execWakeSequenceDone s) :=
  powered_extended h (ite_extends h (fset_extends (foldl_extends (fun _ _ ht => stackResume_extends ht) (fset_extends (onPwr_extends h)))))

@[simp] theorem execPowerLoopPeriod_extended {logs s} (h : Safety.extends_ s₀ s) : Extended s₀ (execPowerLoopPeriod logs s) :=
  powered_extended h (ite_extends h (logAll_extends (ite_extends (notice_extends (fset_extends (onPwr_extends (readClears_extends h))))
    (fset_extends (onPwr_extends (readClears_extends h))))))

@[simp] theorem execThermalLoopPeriod_extended {warn fanFault logs s} (h : Safety.extends_ s₀ s) :
    Extended s₀ (execThermalLoopPeriod warn fanFault logs s) :=
  powered_extended h (ite_extends h (logAll_extends (ite_extends (notice_extends (ite_extends (notice_extends (fanSet_extends h)) (fanSet_extends
    h))) (ite_extends (notice_extends (fanSet_extends h)) (fanSet_extends h)))))

@[simp] theorem execVddFastTrip_extended {amps s} (h : Safety.extends_ s₀ s) : Extended s₀ (execVddFastTrip amps s) :=
  powered_extended h (ite_extends h (fset_extends (fcount_extends h)))

@[simp] theorem execTelemetryWindow_extended {power current mv tj temps tach s} (h : Safety.extends_ s₀ s) :
    Extended s₀ (execTelemetryWindow power current mv tj temps tach s) :=
  powered_extended h (ite_extends h (measure_extends (foldl_extends (fun _ _ ht => measure_extends ht) (measure_extends (measure_extends
    (measure_extends (measure_extends (measure_extends (measure_extends h)))))))))

@[simp] theorem execPwrLimitWrite_extended {fan v s} (h : Safety.extends_ s₀ s) : Extended s₀ (execPwrLimitWrite fan v s) :=
  busWrite_extended h (limitWrite_extends h)

/-! ### Machine/Ccx -/

@[simp] theorem execMailboxSend_extended {c word a s} (h : Safety.extends_ s₀ s) : Extended s₀ (execMailboxSend c word a s) := by
  unfold execMailboxSend
  dsimp only
  refine ite_extended (next_extended h) ?_
  split
  · exact busWrite_extended h (ite_extends (chStore_extends h) h)
  · exact powered_extended h (ite_extends (coreSetup_extends h) (chStore_extends (coreSetup_extends h)))

@[simp] theorem execMailboxReceiveRead_extended {c a s} (h : Safety.extends_ s₀ s) : Extended s₀ (execMailboxReceiveRead c a s) :=
  ite_extended (next_extended h) (ite_extended (powered_extended h (ite_extends h (hostTake_extends h))) (powered_extended h (ite_extends
    (coreSetup_extends h) (chTake_extends (coreSetup_extends h)))))

@[simp] theorem execFwLoad_extended {s} (h : Safety.extends_ s₀ s) : Extended s₀ (execFwLoad s) :=
  powered_extended h (ite_extends h (ite_extends (loadReply_extends (chTake_extends h)) (loadSteps_extends (fset_extends (onCcx_extends
    (chTake_extends h) rfl)))))

@[simp] theorem execFwLoadDone_extended {s} (h : Safety.extends_ s₀ s) : Extended s₀ (execFwLoadDone s) := by
  unfold execFwLoadDone
  dsimp only
  refine powered_extended h ?_
  split
  · exact h
  · exact ite_extends h (loadReply_extends (ite_extends (fwStart_extends (onCcx_extends h rfl)) (fwAbandon_extends (onCcx_extends h rfl))))

@[simp] theorem execCcxWatchdogExpiry_extended {c s} (h : Safety.extends_ s₀ s) : Extended s₀ (execCcxWatchdogExpiry c s) :=
  powered_extended h (ite_extends h (raiseBare_extends h))

@[simp] theorem execCcxSramEccError_extended {c corrected s} (h : Safety.extends_ s₀ s) : Extended s₀ (execCcxSramEccError c corrected s) :=
  powered_extended h (ite_extends h (ite_extends (fcount_extends h) (raise_extends h)))

@[simp] theorem execBasicCommandTake_extended {s} (h : Safety.extends_ s₀ s) : Extended s₀ (execBasicCommandTake s) := by
  unfold execBasicCommandTake
  dsimp only
  refine powered_extended h ?_
  refine ite_extends h ?_
  split
  · exact h
  · exact onCcx_extends (hostLines_extends (chTake_extends h)) rfl

@[simp] theorem execBasicCommandDone_extended {logs s} (h : Safety.extends_ s₀ s) : Extended s₀ (execBasicCommandDone logs s) := by
  unfold execBasicCommandDone
  dsimp only
  refine powered_extended h ?_
  split
  · exact h
  · refine ite_extends h ?_
    refine ite_extends (basicVector_extends (fset_extends (logAll_extends (onCcx_extends h rfl)))) ?_
    split
    · exact h
    · exact basicVector_extends (hostWrite_extends (logAll_extends (onCcx_extends h rfl)))

@[simp] theorem execBasicUndefinedOpcode_extended {s} (h : Safety.extends_ s₀ s) : Extended s₀ (execBasicUndefinedOpcode s) := by
  unfold execBasicUndefinedOpcode
  refine powered_extended h ?_
  split
  · exact ite_extends (basicEnd_extends h) h
  · exact h

@[simp] theorem execFwInfo_extended {s} (h : Safety.extends_ s₀ s) : Extended s₀ (execFwInfo s) := by
  unfold execFwInfo
  dsimp only
  refine powered_extended h ?_
  split
  · exact h
  · exact basicEnd_extends h

@[simp] theorem execLogConfig_extended {s} (h : Safety.extends_ s₀ s) : Extended s₀ (execLogConfig s) :=
  basicRun_extended h fun _ => logConfig_extends h

@[simp] theorem execSchedulerPickup_extended {s} (h : Safety.extends_ s₀ s) : Extended s₀ (execSchedulerPickup s) := by
  unfold execSchedulerPickup
  dsimp only
  refine powered_extended h ?_
  refine ite_extends h ?_
  refine ite_extends (readyTrim_extends (chTake_extends h)) ?_
  split
  · exact readyTrim_extends (chTake_extends h)
  · exact chStore_extends (readyTrim_extends (chTake_extends h))

@[simp] theorem execLiaisonRequest_extended {v s} (h : Safety.extends_ s₀ s) : Extended s₀ (execLiaisonRequest v s) :=
  powered_extended h (ite_extends h (chTake_extends (chSend_extends h)))

/-! ### Machine/Policies -/

@[simp] theorem execFePolicy_extended {s} (h : Safety.extends_ s₀ s) : Extended s₀ (execFePolicy s) :=
  basicRun_extended h fun _ => fePolicy_extends h

@[simp] theorem execSchPolicy_extended {s} (h : Safety.extends_ s₀ s) : Extended s₀ (execSchPolicy s) :=
  basicRun_extended h fun _ => schPolicy_extends h

@[simp] theorem execScPolicy_extended {s} (h : Safety.extends_ s₀ s) : Extended s₀ (execScPolicy s) :=
  basicRun_extended h fun _ => scPolicy_extends h

@[simp] theorem execAcePolicy_extended {s} (h : Safety.extends_ s₀ s) : Extended s₀ (execAcePolicy s) :=
  basicRun_extended h fun _ => acePolicy_extends h

@[simp] theorem execColPolicy_extended {s} (h : Safety.extends_ s₀ s) : Extended s₀ (execColPolicy s) :=
  basicRun_extended h fun _ => colPolicy_extends h

@[simp] theorem execRasPolicy_extended {s} (h : Safety.extends_ s₀ s) : Extended s₀ (execRasPolicy s) :=
  basicRun_extended h fun _ => rasPolicy_extends h

@[simp] theorem execTruPolicy_extended {s} (h : Safety.extends_ s₀ s) : Extended s₀ (execTruPolicy s) :=
  basicRun_extended h fun _ => truPolicy_extends h

@[simp] theorem execSeqPolicy_extended {s} (h : Safety.extends_ s₀ s) : Extended s₀ (execSeqPolicy s) :=
  basicRun_extended h fun _ => seqPolicy_extends h

@[simp] theorem execMemPolicy_extended {s} (h : Safety.extends_ s₀ s) : Extended s₀ (execMemPolicy s) :=
  basicRun_extended h fun _ => memPolicy_extends h

@[simp] theorem execFolPolicy_extended {s} (h : Safety.extends_ s₀ s) : Extended s₀ (execFolPolicy s) :=
  basicRun_extended h fun _ => folPolicy_extends h

@[simp] theorem execXltPolicy_extended {s} (h : Safety.extends_ s₀ s) : Extended s₀ (execXltPolicy s) :=
  basicRun_extended h fun _ => xltPolicy_extends h

@[simp] theorem execIntPolicy_extended {s} (h : Safety.extends_ s₀ s) : Extended s₀ (execIntPolicy s) :=
  basicRun_extended h fun _ => intPolicy_extends h

@[simp] theorem execPrsPolicy_extended {s} (h : Safety.extends_ s₀ s) : Extended s₀ (execPrsPolicy s) :=
  basicRun_extended h fun _ => prsPolicy_extends h

@[simp] theorem execHifPolicy_extended {s} (h : Safety.extends_ s₀ s) : Extended s₀ (execHifPolicy s) :=
  basicRun_extended h fun _ => hifPolicy_extends h

@[simp] theorem execUapPolicy_extended {s} (h : Safety.extends_ s₀ s) : Extended s₀ (execUapPolicy s) :=
  basicRun_extended h fun _ => uapPolicy_extends h

@[simp] theorem execDspModeSet_extended {m s} (h : Safety.extends_ s₀ s) : Extended s₀ (execDspModeSet m s) :=
  ite_extended (next_extended h) (basicRun_extended h (fun _ => modeSet_extends h))

@[simp] theorem execPwrProfile_extended {s} (h : Safety.extends_ s₀ s) : Extended s₀ (execPwrProfile s) :=
  basicRun_extended h fun _ => pwrProfile_extends h

/-! ### Machine/Boot -/

@[simp] theorem execImageLinkReady_extended {speed width flit s} (h : Safety.extends_ s₀ s) : Extended s₀ (execImageLinkReady speed width flit s) :=
  powered_extended h (ite_extends h (ite_extends h (linkTrain_extends (fset_extends (onBoot_extends h rfl rfl)))))

@[simp] theorem execImageVerifyDone_extended {flashErr speed width flit s} (h : Safety.extends_ s₀ s) :
    Extended s₀ (execImageVerifyDone flashErr speed width flit s) :=
  powered_extended h (ite_extends h (ite_extends (ite_extends (linkTrain_extends (takeRecoveryId_extends h)) (takeRecoveryId_extends h))
    (ite_extends h (applyImage_extends (onBoot_extends (fset_extends (fset_extends h)) rfl rfl)))))

@[simp] theorem execSupplyOutOfRange_extended {mv s} (h : Safety.extends_ s₀ s) : Extended s₀ (execSupplyOutOfRange mv s) :=
  powered_extended h (ite_extends h (failsafeEnter_extends h))

@[simp] theorem execJunctionOverTemperature_extended {t s} (h : Safety.extends_ s₀ s) : Extended s₀ (execJunctionOverTemperature t s) :=
  powered_extended h (ite_extends h (failsafeEnter_extends h))

@[simp] theorem execThermtripAssert_extended {tj stack s} (h : Safety.extends_ s₀ s) : Extended s₀ (execThermtripAssert tj stack s) :=
  powered_extended h (ite_extends (onBoot_extends h rfl rfl) h)

@[simp] theorem execFlashRead_extended {count s} (h : Safety.extends_ s₀ s) : Extended s₀ (execFlashRead count s) :=
  flashCmd_extended h (flashBegin_extends h)

@[simp] theorem execFlashProgram_extended {count s} (h : Safety.extends_ s₀ s) : Extended s₀ (execFlashProgram count s) :=
  flashCmd_extended h (flashBegin_extends h)

@[simp] theorem execFlashErase_extended {s} (h : Safety.extends_ s₀ s) : Extended s₀ (execFlashErase s) :=
  flashCmd_extended h (flashBegin_extends h)

@[simp] theorem execFlashUndefinedOp_extended {op s} (h : Safety.extends_ s₀ s) : Extended s₀ (execFlashUndefinedOp op s) :=
  ite_extended (next_extended h) (flashCmd_extended h (flashEnd_extends h))

@[simp] theorem flashCmdWrite_extended {s v} (h : Safety.extends_ s₀ s) : Extended s₀ (flashCmdWrite s v) := by
  unfold flashCmdWrite
  split
  · exact execFlashRead_extended h
  · exact execFlashProgram_extended h
  · exact execFlashErase_extended h
  · exact execFlashUndefinedOp_extended h

@[simp] theorem execFlashOpDone_extended {fail s} (h : Safety.extends_ s₀ s) : Extended s₀ (execFlashOpDone fail s) := by
  unfold execFlashOpDone
  dsimp only
  refine powered_extended h ?_
  split
  · exact h
  · exact ite_extends (flashEnd_extends (flashFree_extends h)) (ite_extends (flashEnd_extends (flashPart_extends h)) (ite_extends (onBoot_extends
      (flashPart_extends h) rfl rfl) (flashEnd_extends (flashPart_extends h))))

@[simp] theorem execFlashOpTimeout_extended {s} (h : Safety.extends_ s₀ s) : Extended s₀ (execFlashOpTimeout s) := by
  unfold execFlashOpTimeout
  refine powered_extended h ?_
  split
  · exact h
  · exact ite_extends h (flashEnd_extends (flashFree_extends h))

@[simp] theorem execBootFuseRevokeWrite_extended {mask s} (h : Safety.extends_ s₀ s) : Extended s₀ (execBootFuseRevokeWrite mask s) :=
  busWrite_extended h (revokeWrite_extends h)

@[simp] theorem execSmbusMailboxWrite_extended {bytes s} (h : Safety.extends_ s₀ s) : Extended s₀ (execSmbusMailboxWrite bytes s) :=
  powered_extended h (ite_extends (smbus_extends h) (smbus_extends (chStore_extends h)))

@[simp] theorem execSmbusMailboxRead_extended {s} (h : Safety.extends_ s₀ s) : Extended s₀ (execSmbusMailboxRead s) :=
  powered_extended h (ite_extends (smbus_extends h) (ite_extends (smbus_extends h) (smbus_extends (chTake_extends h))))

@[simp] theorem execSmbusTelemetryRead_extended {s} (h : Safety.extends_ s₀ s) : Extended s₀ (execSmbusTelemetryRead s) :=
  powered_extended h (smbus_extends h)

@[simp] theorem execSmbusBootStatusRead_extended {s} (h : Safety.extends_ s₀ s) : Extended s₀ (execSmbusBootStatusRead s) :=
  powered_extended h (smbus_extends h)

/-! ### Machine/Integrity -/

@[simp] theorem execFaultRecordAccept_extended {stuck dead s} (h : Safety.extends_ s₀ s) : Extended s₀ (execFaultRecordAccept stuck dead s) :=
  powered_extended h (acceptRecord_extends h)

@[simp] theorem execDieRecoveryFeTimeout_extended {s} (h : Safety.extends_ s₀ s) : Extended s₀ (execDieRecoveryFeTimeout s) :=
  powered_extended h (ite_extends h (onInt_extends (dieRest_extends h)))

@[simp] theorem execRecoveryComplete_extended {n s} (h : Safety.extends_ s₀ s) : Extended s₀ (execRecoveryComplete n s) := by
  unfold execRecoveryComplete
  dsimp only
  refine powered_extended h ?_
  split
  · exact h
  · exact ite_extends h (ite_extends (failsafeEnter_extends h) (intView_extends (ite_extends (retryHeld_extends (raise_extends (onInt_extends h)))
      (ite_extends (fset_extends (raise_extends (onInt_extends h))) (raise_extends (onInt_extends h))))))

@[simp] theorem execRecoveryWindowExpiry_extended {n s} (h : Safety.extends_ s₀ s) : Extended s₀ (execRecoveryWindowExpiry n s) := by
  unfold execRecoveryWindowExpiry
  refine powered_extended h ?_
  split
  · exact h
  · exact ite_extends h (ite_extends (failsafeEnter_extends h) (intView_extends (onInt_extends h)))

@[simp] theorem execFaultWindowExpiry_extended {s} (h : Safety.extends_ s₀ s) : Extended s₀ (execFaultWindowExpiry s) := by
  unfold execFaultWindowExpiry
  refine powered_extended h ?_
  split
  · exact ite_extends h (intView_extends (onInt_extends h))
  · exact h

@[simp] theorem execIntFailsafeForce_extended {s} (h : Safety.extends_ s₀ s) : Extended s₀ (execIntFailsafeForce s) :=
  busWrite_extended h (failsafeEnter_extends h)

@[simp] theorem execIntRecoverPackage_extended {s} (h : Safety.extends_ s₀ s) : Extended s₀ (execIntRecoverPackage s) :=
  busWrite_extended h (ite_extends (packageRecover_extends h) h)

@[simp] theorem execAutoPackageExpiry_extended {s} (h : Safety.extends_ s₀ s) : Extended s₀ (execAutoPackageExpiry s) :=
  powered_extended h (ite_extends (packageRecover_extends h) h)

@[simp] theorem execIntHoldWrite_extended {v s} (h : Safety.extends_ s₀ s) : Extended s₀ (execIntHoldWrite v s) :=
  busWrite_extended h (ite_extends h (holdsCleared_extends (rset_extends h)))

@[simp] theorem execIntInjectWrite_extended {v s} (h : Safety.extends_ s₀ s) : Extended s₀ (execIntInjectWrite v s) := by
  unfold execIntInjectWrite
  dsimp only
  refine busWrite_extended h ?_
  split
  · exact h
  · exact ite_extends h (raise_extends (ite_extends (countMismatch_extends h) h))

/-! ### Machine/RegWrite -/

@[simp] theorem feQcmdWrite_extended {f v s} (h : Safety.extends_ s₀ s) : Extended s₀ (feQcmdWrite f v s) := by
  unfold feQcmdWrite
  split
  · exact execQueueCreate_extended h
  · exact execQueueDestroy_extended h
  · exact execQueueResume_extended h
  · exact execQueueResumeSkip_extended h
  · exact execQcmdUndefinedOp_extended h

@[simp] theorem feObjCmdWrite_extended {f v s} (h : Safety.extends_ s₀ s) : Extended s₀ (feObjCmdWrite f v s) := by
  unfold feObjCmdWrite
  dsimp only
  split
  · exact execObjectCreate_extended h
  · exact execObjectDestroy_extended h
  · exact execObjCmdUndefinedOp_extended h

@[simp] theorem schGcmdWrite_extended {f v s} (h : Safety.extends_ s₀ s) : Extended s₀ (schGcmdWrite f v s) := by
  unfold schGcmdWrite
  split
  · exact execGraphPublish_extended h
  · exact execGraphPatch_extended h
  · exact execGcmdUndefinedOp_extended h

@[simp] theorem scReplayWrite_extended {f v s} (h : Safety.extends_ s₀ s) : Extended s₀ (scReplayWrite f v s) := by
  unfold scReplayWrite
  split
  · exact execScReplayReplay_extended h
  · exact execScReplayContinue_extended h
  · exact execScReplayAbort_extended h
  · exact execScReplayContext_extended h
  · exact execScReplayUndefinedOp_extended h

@[simp] theorem truCmdWrite_extended {f v s} (h : Safety.extends_ s₀ s) : Extended s₀ (truCmdWrite f v s) := by
  unfold truCmdWrite
  split
  · exact execTruBump_extended h
  · exact execTruInvalidate_extended h
  · exact execTruCmdUndefinedOp_extended h

@[simp] theorem seqScmdWrite_extended {f v s} (h : Safety.extends_ s₀ s) : Extended s₀ (seqScmdWrite f v s) := by
  unfold seqScmdWrite
  split
  · exact execSeqAdmit_extended h
  · exact execSeqCancel_extended h
  · exact execSeqHold_extended h
  · exact execSeqResume_extended h
  · exact execSeqRelease_extended h
  · exact execSeqAddPages_extended h
  · exact execSeqRemovePages_extended h
  · exact execSeqScmdUndefinedOp_extended h

@[simp] theorem l2MaintWrite_extended {v s} (h : Safety.extends_ s₀ s) : Extended s₀ (l2MaintWrite v s) := by
  unfold l2MaintWrite
  dsimp only
  refine ite_extended (execL2MaintUndefinedOp_extended h) ?_
  split
  · exact execL2MaintClean_extended h
  · exact execL2MaintInvalidate_extended h
  · exact execL2MaintCleanInvalidate_extended h
  · exact execL2MaintUndefinedOp_extended h

@[simp] theorem xltInvWrite_extended {f v s} (h : Safety.extends_ s₀ s) : Extended s₀ (xltInvWrite f v s) := by
  unfold xltInvWrite
  split
  · exact execXltInvRange_extended h
  · exact execXltInvTag_extended h
  · exact execXltInvVmAll_extended h
  · exact execXltInvUndefinedOp_extended h

@[simp] theorem dspCommitWrite_extended {x v s} (h : Safety.extends_ s₀ s) : Extended s₀ (dspCommitWrite x v s) := by
  unfold dspCommitWrite
  split
  · exact execDspCommit_extended h
  · exact execDspCommitCancel_extended h
  · exact busWrite_extended h h

@[simp] theorem dspAuxWrite_extended {n v s} (h : Safety.extends_ s₀ s) : Extended s₀ (dspAuxWrite n v s) := by
  unfold dspAuxWrite
  dsimp only
  split
  · exact execAuxNativeRead_extended h
  · exact execAuxNativeWrite_extended h
  · exact execAuxI2cRead_extended h
  · exact execAuxI2cWrite_extended h
  · exact busWrite_extended h h

@[simp] theorem intRecoverWrite_extended {v s} (h : Safety.extends_ s₀ s) : Extended s₀ (intRecoverWrite v s) :=
  ite_extended (execIntRecoverPackage_extended h) (busWrite_extended h h)

@[simp] theorem intFailsafeWrite_extended {v s} (h : Safety.extends_ s₀ s) : Extended s₀ (intFailsafeWrite v s) :=
  ite_extended (execIntFailsafeForce_extended h) (busWrite_extended h h)

@[simp] theorem sillageWrite_extended {v s} (h : Safety.extends_ s₀ s) : Extended s₀ (sillageWrite v s) :=
  ite_extended (execSillageEnter_extended h) (busWrite_extended h (regStore_extends h))

theorem uapCtlWrite_extended {p v s} (h : Safety.extends_ s₀ s) : Extended s₀ (uapCtlWrite p v s) :=
  andThen_extended (execUapCtlEnWrite_extended h) fun _ ht =>
    andThen_extended (ite_extended (execUapSleepReq_extended ht) (next_extended ht)) fun _ hu =>
      ite_extended (execUapWake_extended hu) (next_extended hu)

theorem regTo_extended {r w i v words s} (h : Safety.extends_ s₀ s) : Extended s₀ (regTo r w i v words s) := by
  unfold regTo
  split
  · exact feQcmdWrite_extended h
  · exact feObjCmdWrite_extended h
  · exact execFePartWrite_extended h
  · exact schGcmdWrite_extended h
  · exact busWrite_extended h h
  · exact busWrite_extended h h
  · exact busWrite_extended h h
  · exact busWrite_extended h h
  · exact busWrite_extended h h
  · exact trigger_extended h fun _ _ ht => scReplayWrite_extended ht
  · exact truCmdWrite_extended h
  · exact execTruSlotCfgWrite_extended h
  · exact seqScmdWrite_extended h
  · exact execSeqKvPoolWrite_extended h
  · exact execSeqEvtCi_extended h
  · exact busWrite_extended h (seqPartWrite_extends h)
  · exact execSeqRingCfgWrite_extended h
  · exact l2MaintWrite_extended h
  · exact execFolBankWrite_extended h
  · exact xltInvWrite_extended h
  · exact execXltVmCfgWrite_extended h
  · exact intFailsafeWrite_extended h
  · exact execIntHoldWrite_extended h
  · exact intRecoverWrite_extended h
  · exact trigger_extended h fun _ _ ht => execIntInjectWrite_extended ht
  · exact execDspOutCtlWrite_extended h
  · exact dspAuxWrite_extended h
  · exact dspCommitWrite_extended h
  · exact uapCtlWrite_extended h
  · exact execMailboxSend_extended h
  · exact execMailboxSend_extended h
  · exact execHifVfWinWrite_extended h
  · exact execPwrDomCtlWrite_extended h
  · exact execPwrPadReleaseWrite_extended h
  · exact busWrite_extended h (limitWrite_extends h)
  · exact busWrite_extended h (limitWrite_extends h)
  · exact sillageWrite_extended h
  · exact execBootFuseRevokeWrite_extended h
  · exact flashCmdWrite_extended h
  · exact busWrite_extended h (regStore_extends h)

/-- The windows of the PF. -/
theorem pfWindow_extended {off v n lost s o} (h : Safety.extends_ s₀ s) (ho : pfWindow off v n lost s = some o) : Extended s₀ o := by
  unfold pfWindow at ho
  dsimp only at ho
  split at ho
  · cases ho
    exact execFolWindowWrite_extended h
  · cases ho
    exact execFolSetAliasWrite_extended h
  · cases ho
    exact execFolClearAliasWrite_extended h
  · split at ho
    · cases ho
      exact flashDataWrite_extended h
    · cases ho

/-- The PF has the windows, a VF has none. -/
theorem window_extended {f off v n lost s o} (h : Safety.extends_ s₀ s)
    (ho : (if f = 0 then pfWindow off v n lost s else none) = some o) : Extended s₀ o := by
  split at ho
  · exact pfWindow_extended h ho
  · cases ho

theorem word32_extended {f off v lost s} (h : Safety.extends_ s₀ s) : Extended s₀ (word32 f off v lost s) := by
  unfold word32
  split
  · exact ite_extended (regTo_extended h) (regTo_extended h)
  · refine ite_extended (powered_extended h (msixWrite_extends h)) ?_
    split
    · next ho => exact window_extended h ho
    · exact next_extended h

theorem word64_extended {f off v lost s} (h : Safety.extends_ s₀ s) : Extended s₀ (word64 f off v lost s) := by
  have two : Extended s₀ (andThen (word32 f off (v % 2 ^ 32) lost s) (word32 f (off + 4) (v / 2 ^ 32) lost)) :=
    andThen_extended (word32_extended h) fun _ ht => word32_extended ht
  unfold word64
  dsimp only
  split
  · exact ite_extended (regTo_extended h) two
  · split
    · next ho => exact window_extended h ho
    · exact two

@[simp] theorem execRegisterWrite_extended {f off width value lost s} (h : Safety.extends_ s₀ s) :
    Extended s₀ (execRegisterWrite f off width value lost s) :=
  ite_extended (next_extended h) (ite_extended (word32_extended h) (ite_extended (word64_extended h) (powered_extended h (unsupported_extends h))))

/-! ### Machine/RegRead -/

@[simp] theorem execHifRateMinRead_extended {f off width s} (h : Safety.extends_ s₀ s) : Extended s₀ (execHifRateMinRead f off width s) :=
  powered_extended h (bar0Read_extends h)

/-! ### Machine/System -/

@[simp] theorem execRateMonitorWindow_extended {rate s} (h : Safety.extends_ s₀ s) : Extended s₀ (execRateMonitorWindow rate s) :=
  powered_extended h (ite_extends h (ite_extends (failsafeEnter_extends (withHif_extends (fset_extends (fset_extends h)) rfl)) (withHif_extends
    (fset_extends (fset_extends h)) rfl)))

@[simp] theorem execAonPllLockLost_extended {s} (h : Safety.extends_ s₀ s) : Extended s₀ (execAonPllLockLost s) :=
  powered_extended h (ite_extends h (raiseBare_extends (fset_extends (fset_extends h))))

@[simp] theorem execAonPllLockRegained_extended {s} (h : Safety.extends_ s₀ s) : Extended s₀ (execAonPllLockRegained s) :=
  powered_extended h (fset_extends h)

@[simp] theorem execInterferenceWindowEnd_extended {s} (h : Safety.extends_ s₀ s) : Extended s₀ (execInterferenceWindowEnd s) :=
  engineStep_extended h (ite_extends h (intfClose_extends h))

/-! ### Machine/Texture -/

theorem texRead_extends {k a n} {acc : TexAcc} (h : Safety.extends_ s₀ acc.2) : Safety.extends_ s₀ (texRead k a n acc).2.2 := by
  refine foldl_snd_snd_extends (fun _ _ ht => ?_) h
  split
  · exact ht
  · exact ite_snd_snd_extends (vload_extends ht) (vload_extends ht)

theorem surfaceTexel_extends {k m free u v} {acc : TexAcc} (h : Safety.extends_ s₀ acc.2) :
    Safety.extends_ s₀ (surfaceTexel k m free u v acc).2.2 := texRead_extends (texRead_extends h)

theorem texelChans_extends {k m free l z u v} {acc : TexAcc} (h : Safety.extends_ s₀ acc.2) :
    Safety.extends_ s₀ (texelChans k m free l z u v acc).2.2 := ite_snd_snd_extends (surfaceTexel_extends h) (texRead_extends h)

theorem sampleTexel_extends {k m p ref free l z iu iv} {acc : TexAcc} (h : Safety.extends_ s₀ acc.2) :
    Safety.extends_ s₀ (sampleTexel k m p ref free l z iu iv acc).2.2 := by
  unfold sampleTexel
  refine ite_snd_snd_extends ?_ ?_ <;>
  · split
    · exact texelChans_extends h
    · exact h

theorem filterPlane_extends {k m p ref free l linear z u v} {acc : TexAcc} (h : Safety.extends_ s₀ acc.2) :
    Safety.extends_ s₀ (filterPlane k m p ref free l linear z u v acc).2.2 :=
  ite_snd_snd_extends (sampleTexel_extends h)
    (ite_snd_snd_extends (sampleTexel_extends (sampleTexel_extends h))
      (sampleTexel_extends (sampleTexel_extends (sampleTexel_extends (sampleTexel_extends h)))))

theorem filterLevel_extends {k m p ref free l linear layer u v w} {acc : TexAcc} (h : Safety.extends_ s₀ acc.2) :
    Safety.extends_ s₀ (filterLevel k m p ref free l linear layer u v w acc).2.2 :=
  ite_snd_snd_extends (ite_snd_snd_extends (filterPlane_extends h) (filterPlane_extends (filterPlane_extends h))) (filterPlane_extends h)

theorem texProbe_extends {k m p ref free lod pl} {acc : TexAcc} (h : Safety.extends_ s₀ acc.2) :
    Safety.extends_ s₀ (texProbe k m p ref free lod pl acc).2.2 := by
  unfold texProbe
  dsimp only
  split
  · exact filterLevel_extends h
  · exact ite_snd_snd_extends (filterLevel_extends h) (filterLevel_extends (filterLevel_extends h))
  · exact filterLevel_extends h

theorem texThread_extends {k g m p c src t} {acc : TexAcc} (h : Safety.extends_ s₀ acc.2) :
    Safety.extends_ s₀ (texThread k g m p c src t acc).2.2 :=
  ite_snd_snd_extends (withFreeCtr_extends h (Nat.le_succ _))
    (foldl_snd_snd_extends (fun _ _ ht => texProbe_extends ht) (withFreeCtr_extends h (Nat.le_succ _)))

theorem foldl_texThread_extends {k g m p c src} {f : Group × TexAcc → Nat → Group} {l : List Nat} {a : Group × TexAcc}
    (h : Safety.extends_ s₀ a.2.2) :
    Safety.extends_ s₀ (l.foldl (fun a t => (f a t, (texThread k g m p c src t a.2).2)) a).2.2 :=
  foldl_snd_snd_extends (fun _ _ ht => texThread_extends ht) h

@[simp] theorem execTex_extended {core pipe d c im sm lod s} (h : Safety.extends_ s₀ s) : Extended s₀ (execTex core pipe d c im sm lod s) := by
  refine issue_extended h fun _ _ ht => ?_
  dsimp only
  split
  · exact parkAt_extends ht
  · split
    · exact parkAt_extends (foldl_texThread_extends ht)
    · exact put_extends (foldl_texThread_extends ht)

/-! ### Every command but the six that follow a pin is behind a gate -/

/-! ### The pins -/

theorem aonFresh_extends {s on} (h : Safety.extends_ s₀ s) : Safety.extends_ s₀ (aonFresh s on) := by
  refine rset_extends (extends_of_canonical h rfl rfl rfl fun hm => ?_)
  obtain ⟨hhost, -, -, -, hflash, -, -⟩ := hm
  exact ⟨hhost, rfl, rfl, rfl, hflash, rfl, rfl⟩

@[simp] theorem execAonPgoodRise_extended {s} (h : Safety.extends_ s₀ s) : Extended s₀ (execAonPgoodRise s) :=
  next_extended (ite_extends h (resetDomains_extends (aonFresh_extends h)))

@[simp] theorem execAonPgoodFall_extended {s} (h : Safety.extends_ s₀ s) : Extended s₀ (execAonPgoodFall s) := by
  refine next_extended (ite_extends h (foldl_extends (fun _ _ ht => domSet_extends ht) (aonFresh_extends ?_)))
  split
  · exact flashFree_extends h
  · exact h

@[simp] theorem execPerstNAssert_extended {s} (h : Safety.extends_ s₀ s) : Extended s₀ (execPerstNAssert s) :=
  next_extended (ite_extends h (ite_extends (onBoot_extends h rfl rfl)
    (wakeReport_extends (packageReset_extends (onBoot_extends (flashAbandon_extends h) rfl rfl)))))

@[simp] theorem execPerstNDeassert_extended {speed width flit s} (h : Safety.extends_ s₀ s) :
    Extended s₀ (execPerstNDeassert speed width flit s) := by
  have ht : Safety.extends_ s₀ (onBoot s fun b => { b with perst := false, wakeN := false }) := onBoot_extends h rfl rfl
  exact next_extended (ite_extends h (ite_extends ht (linkTrain_extends (ite_extends ht (resetDomains_extends ht)))))

@[simp] theorem execCorePgoodRise_extended {s} (h : Safety.extends_ s₀ s) : Extended s₀ (execCorePgoodRise s) := by
  have ht : Safety.extends_ s₀ (onBoot s fun b => { b with corePgood := true }) := onBoot_extends h rfl rfl
  exact next_extended (ite_extends h (ite_extends ht (resetDomains_extends ht)))

@[simp] theorem execCorePgoodFall_extended {s} (h : Safety.extends_ s₀ s) : Extended s₀ (execCorePgoodFall s) := by
  have ht : Safety.extends_ s₀ (onBoot s fun b => { b with corePgood := false }) := onBoot_extends h rfl rfl
  exact next_extended (ite_extends h (ite_extends (failsafeEnter_extends ht) ht))

/-! ### Every step -/

theorem exec_extended {c : Instr} (h : Safety.extends_ s₀ s) : Extended s₀ (exec c s) := by
  cases c <;> simp [exec, h]

end

/-- The tick of an idle block changes the time alone. -/
theorem tick_extends (s : State) : Safety.extends_ s (tick s) :=
  ite_extends (extends_of_canonical (extends_refl s) rfl rfl rfl id) (extends_refl s)

/-- Settles O59: whatever command is at the front, it goes up in the preorder from the state with the rest waiting (`exec_extended`), and so does
the tick of an empty queue. The canonical form, the queue and the free values are the model's (logs 1 to 3). -/
theorem stepKeepsCanonical : Obligations.StepKeepsCanonical := by
  intro s t hs ht
  rw [step] at ht
  split at ht
  · rename_i c rest hpending
    obtain ⟨u, hu, hp, hc, hsent, hm⟩ := exec_extended (c := c) (extends_refl { s with pending := rest })
    cases hu.symm.trans ht
    exact ⟨hm hs, by rw [hp, hpending]; rfl, hc, hsent⟩
  · rename_i hpending
    cases ht
    obtain ⟨hp, hc, hsent, hm⟩ := tick_extends s
    exact ⟨hm hs, by rw [hp, hpending]; rfl, hc, hsent⟩

end Sys2Proof.Proofs

/-!
## A fault record meets its verdict (O40)

`verdict` decides by a row of conditions, of which the first that holds counts: one lemma per row. Acceptance then records what the verdict
says and enters fail-safe or starts the recovery.
-/

namespace Sys2Proof.Proofs

open Machine Laws

/-! ### The rows of the verdict -/

section

variable {s : State} {r : FaultRec} {third : Bool}

theorem verdict_sequencer (hl : r.level ≠ 0) (hseq : r.place % 4096 = 0x12F) : verdict s r third = { cause := 4 } := by
  rw [verdict, if_neg hl, if_pos hseq]

theorem verdict_package (hl : r.level ≠ 0) (hseq : r.place % 4096 ≠ 0x12F) (h7 : 7 ≤ r.level) : verdict s r third = { cause := 8 } := by
  rw [verdict, if_neg hl, if_neg hseq, if_pos h7]

theorem verdict_third (hl : r.level ≠ 0) (hseq : r.place % 4096 ≠ 0x12F) (h7 : r.level < 7) : verdict s r true = { cause := 1 } := by
  rw [verdict, if_neg hl, if_neg hseq, if_neg (Nat.not_le.mpr h7), if_pos rfl]

/-- The recoveries that run or whose window holds the record's timestamp. -/
def liveAt (s : State) (t : Nat) : List Recovery := s.int.recoveries.filter fun x => x.open_ t

/-- A critical unit is concerned while another recovery is open. -/
def criticalAt (live : List Recovery) (u : Nat) : Bool :=
  (criticalUnit u && !live.isEmpty) || (live.any fun x => decide (x.level = 3) && criticalUnit x.target)

/-- A state fault below package level, not of the sequencer and not the third: the open recoveries decide. -/
theorem verdict_recovery (hl : r.level ≠ 0) (hseq : r.place % 4096 ≠ 0x12F) (h7 : r.level < 7) : verdict s r false =
    if (liveAt s r.time).any fun x => decide (x.level = 6) then { cause := 2 }
    else if criticalAt (liveAt s r.time) r.place then { level := 6 }
    else match deepest (liveAt s r.time) r.place with
      | some x => { level := (levelUp x r.place).1, target := (levelUp x r.place).2, up := some x }
      | none => { level := (targetOf r.place r.level).1, target := (targetOf r.place r.level).2 } := by
  rw [verdict, if_neg hl, if_neg hseq, if_neg (Nat.not_le.mpr h7), if_neg Bool.false_ne_true]
  rfl

section

variable (hl : r.level ≠ 0) (hseq : r.place % 4096 ≠ 0x12F) (h7 : r.level < 7)

include hl hseq h7

theorem verdict_escalation (h6 : ((liveAt s r.time).any fun x => decide (x.level = 6)) = true) : verdict s r false = { cause := 2 } := by
  rw [verdict_recovery hl hseq h7, if_pos h6]

variable (h6 : ((liveAt s r.time).any fun x => decide (x.level = 6)) = false)

include h6

theorem verdict_critical (hc : criticalAt (liveAt s r.time) r.place = true) : verdict s r false = { level := 6 } := by
  rw [verdict_recovery hl hseq h7, if_neg (h6 ▸ Bool.false_ne_true), if_pos hc]

variable (hc : criticalAt (liveAt s r.time) r.place = false)

include hc

theorem verdict_levelUp {x : Recovery} (hx : deepest (liveAt s r.time) r.place = some x) :
    verdict s r false = { level := (levelUp x r.place).1, target := (levelUp x r.place).2, up := some x } := by
  rw [verdict_recovery hl hseq h7, if_neg (h6 ▸ Bool.false_ne_true), if_neg (hc ▸ Bool.false_ne_true), hx]

theorem verdict_target (hx : deepest (liveAt s r.time) r.place = none) :
    verdict s r false = { level := (targetOf r.place r.level).1, target := (targetOf r.place r.level).2 } := by
  rw [verdict_recovery hl hseq h7, if_neg (h6 ▸ Bool.false_ne_true), if_neg (hc ▸ Bool.false_ne_true), hx]

end

end

/-! ### The fault window -/

section

variable {s : State} {t t0 c first : Nat}

theorem countFault_closed (h : s.int.window = none) (t n : Nat) : countFault s t n = ((t, 1, n), true) := by
  rw [countFault, h]

theorem countFault_early (h : s.int.window = some (t0, c, first)) (ht : t < t0) (n : Nat) : countFault s t n = ((t0, c, first), false) := by
  rw [countFault, h]
  exact if_pos ht

theorem countFault_joins (h : s.int.window = some (t0, c, first)) (ht : t0 ≤ t) (hend : t < t0 + 1000000000) (n : Nat) :
    countFault s t n = ((t0, c + 1, first), true) := by
  rw [countFault, h]
  exact (if_neg (Nat.not_lt.mpr ht)).trans (if_pos hend)

theorem countFault_late (h : s.int.window = some (t0, c, first)) (hend : t0 + 1000000000 ≤ t) (n : Nat) :
    countFault s t n = ((t, 1, n), true) := by
  rw [countFault, h]
  exact (if_neg (by omega)).trans (if_neg (Nat.not_lt.mpr hend))

end

/-! ### Acceptance -/

theorem exec_faultRecordAccept {s : State} (hp : Safety.powered s) (stuck : Option Nat) (dead : List Nat) :
    exec (.faultRecordAccept stuck dead) s = .next (acceptRecord stuck dead s) := powered_next hp _

/-- The oldest record is taken with its serial number; rest still waits. -/
def recordTaken (s : State) (rest : List FaultRec) : State :=
  onInt (onInt s fun x => { x with waiting := rest }) fun x => { x with serial := wrapInc x.serial 32 }

/-- The fault window is as the record left it. -/
def faultCounted (s : State) (r : FaultRec) (rest : List FaultRec) : State :=
  onInt (recordTaken s rest) fun x => { x with window := some (countFault (recordTaken s rest) r.time s.int.serial).1 }

/-- The record is written with its verdict, or counted as lost. -/
def verdictRecorded (s : State) (r : FaultRec) (rest : List FaultRec) (dead : List Nat) (v : Verdict) (level : Nat) : State :=
  let w := countFault (recordTaken s rest) r.time s.int.serial
  if r.lost then recOverflow (faultCounted s r rest) r
  else recWrite (faultCounted s r rest) r s.int.serial (if w.2 then w.1.2.2 else 0) level (recFlags (faultCounted s r rest) r v dead)

/-- The verdict on the oldest record. -/
def nextVerdict (s : State) (r : FaultRec) (rest : List FaultRec) : Verdict :=
  let w := countFault (recordTaken s rest) r.time s.int.serial
  verdict (recordTaken s rest) r (w.2 && decide (3 ≤ w.1.2.1))

section

variable {s : State} {r : FaultRec} {rest : List FaultRec} (hwait : s.int.waiting = r :: rest) (stuck : Option Nat) (dead : List Nat)

include hwait

/-- A record that starts nothing: of level 0, or taken during fail-safe. -/
theorem acceptRecord_noVerdict (h : r.level = 0 ∨ failsafe s = true) : acceptRecord stuck dead s =
    if r.lost then recOverflow (recordTaken s rest) r
    else recWrite (recordTaken s rest) r s.int.serial 0 0 (recFlags (recordTaken s rest) r {} []) := by
  rw [acceptRecord, hwait]
  exact if_pos h

/-- A record that is judged. -/
theorem acceptRecord_verdict (hl : r.level ≠ 0) (hf : failsafe s = false) : acceptRecord stuck dead s =
    let v := nextVerdict s r rest
    let u := verdictRecorded s r rest dead v (if v.cause ≠ 0 then 7 else v.level)
    if v.cause ≠ 0 then failsafeEnter u v.cause
    else
      let x := intView (recoverStart u r v stuck dead)
      if fwActive x then notice x 7 8 (s.int.serial % 2 ^ 24) else x := by
  have hjudged : ¬ (r.level = 0 ∨ failsafe s = true) := by simp [hl, hf]
  rw [acceptRecord, hwait]
  exact if_neg hjudged

theorem acceptRecord_failsafe (hl : r.level ≠ 0) (hf : failsafe s = false) {cause : Nat} (hv : nextVerdict s r rest = { cause := cause })
    (hc : cause ≠ 0) : acceptRecord stuck dead s = failsafeEnter (verdictRecorded s r rest dead { cause := cause } 7) cause := by
  rw [acceptRecord_verdict hwait stuck dead hl hf, hv]
  dsimp only
  rw [if_pos hc, if_pos hc]

theorem acceptRecord_recovery (hl : r.level ≠ 0) (hf : failsafe s = false) {v : Verdict} (hv : nextVerdict s r rest = v) (hc : v.cause = 0) :
    acceptRecord stuck dead s =
      let x := intView (recoverStart (verdictRecorded s r rest dead v v.level) r v stuck dead)
      if fwActive x then notice x 7 8 (s.int.serial % 2 ^ 24) else x := by
  rw [acceptRecord_verdict hwait stuck dead hl hf, hv]
  dsimp only
  rw [if_neg (not_not_intro hc), if_neg (not_not_intro hc)]

end

/-- The recovery that `recoverStart` adds. -/
def startedRecovery (s : State) (r : FaultRec) (v : Verdict) (dead : List Nat) : Recovery :=
  { level := v.level, target := v.target, unit := r.unit
    t1 := match v.up with | some x => x.t1 | none => r.time
    bound := (match v.up with | some x => x.bound | none => 0) + levelBound v.level
    status := r.status, running := true
    feLost := v.level = 6 ∧ feGone s r
    dataLost := v.level = 6 ∧ dieLoses s dead }

/-- It stands last, also where a die recovery absorbs the others. -/
theorem recoverStart_getLast (s : State) (r : FaultRec) (v : Verdict) (stuck : Option Nat) (dead : List Nat) :
    (recoverStart s r v stuck dead).int.recoveries.getLast? = some (startedRecovery s r v dead) := by
  rw [recoverStart]
  dsimp only [onInt_int]
  split
  · exact List.getLast?_singleton
  · exact List.getLast?_concat

theorem startedRecovery_first {v : Verdict} (hup : v.up = none) (s : State) (r : FaultRec) (dead : List Nat) :
    (startedRecovery s r v dead).t1 = r.time ∧ (startedRecovery s r v dead).bound = levelBound v.level := by
  simp only [startedRecovery, hup, Nat.zero_add, and_self]

theorem startedRecovery_up {v : Verdict} {x : Recovery} (hup : v.up = some x) (s : State) (r : FaultRec) (dead : List Nat) :
    (startedRecovery s r v dead).t1 = x.t1 ∧ (startedRecovery s r v dead).bound = x.bound + levelBound v.level := by
  simp only [startedRecovery, hup, and_self]

/-- Settles O40. The window's edges and the fault before it are the model's (logs 15 and 151): a fault of an earlier timestamp than the open
window is in no window. -/
theorem faultVerdicts : Obligations.FaultVerdicts := by
  refine ⟨fun s r rest stuck dead hp hwait => ?_, fun s t n => ⟨fun h => countFault_closed h t n, fun t0 c first h => ⟨fun ht => countFault_early h ht n,
    fun ht hend => countFault_joins h ht hend n, fun hend => countFault_late h hend n⟩⟩, fun s r v stuck dead => ⟨startedRecovery s r v dead,
    recoverStart_getLast s r v stuck dead, rfl, rfl, rfl, rfl, rfl, fun h => startedRecovery_first h s r dead, fun x h => startedRecovery_up h s r dead⟩⟩
  rw [exec_faultRecordAccept hp]
  intro n t w u record fails starts
  have hfails {cause : Nat} (hl : r.level ≠ 0) (hf : failsafe s = false) (hv : nextVerdict s r rest = { cause := cause }) (hc : cause ≠ 0) :
      Host.Outcome.next (acceptRecord stuck dead s) = fails cause := congrArg _ (acceptRecord_failsafe hwait stuck dead hl hf hv hc)
  have hstarts {v : Verdict} (hl : r.level ≠ 0) (hf : failsafe s = false) (hv : nextVerdict s r rest = v) (hc : v.cause = 0) :
      Host.Outcome.next (acceptRecord stuck dead s) = starts v := congrArg _ (acceptRecord_recovery hwait stuck dead hl hf hv hc)
  refine ⟨fun h => congrArg _ (acceptRecord_noVerdict hwait stuck dead h), fun hl hf => ⟨fun hseq => ?_, fun hseq => ⟨fun h7 => ?_,
    fun h7 hw hthird => ?_, fun h7 hw => ?_⟩⟩⟩
  · exact hfails hl hf (verdict_sequencer hl hseq) (by decide)
  · exact hfails hl hf (verdict_package hl hseq h7) (by decide)
  · have hcount : (w.2 && decide (3 ≤ w.1.2.1)) = true := by rw [hw, decide_eq_true hthird, Bool.and_self]
    exact hfails hl hf ((congrArg _ hcount).trans (verdict_third hl hseq h7)) (by decide)
  · intro live critical
    have hcount : (w.2 && decide (3 ≤ w.1.2.1)) = false := by
      rw [Bool.and_eq_false_iff, decide_eq_false_iff_not, Nat.not_le]
      exact hw
    have hv {v : Verdict} (hv : verdict (recordTaken s rest) r false = v) : nextVerdict s r rest = v := (congrArg _ hcount).trans hv
    exact ⟨fun h6 => hfails hl hf (hv (verdict_escalation hl hseq h7 h6)) (by decide), fun h6 =>
      ⟨fun hc => hstarts hl hf (hv (verdict_critical hl hseq h7 h6 hc)) rfl,
        fun x hc hx => hstarts hl hf (hv (verdict_levelUp hl hseq h7 h6 hc hx)) rfl,
        fun hc hx => hstarts hl hf (hv (verdict_target hl hseq h7 h6 hc hx)) rfl⟩⟩

end Sys2Proof.Proofs

/-!
## Commits and latch points (O43)
-/

namespace Sys2Proof.Proofs

open Machine Laws

/-! ### Streams and pipes -/

section

variable (s : State)

theorem streamAt_onStream_same (x : Nat) (f : Stream → Stream) : streamAt (onStream s x f) x = f (streamAt s x) := by
  simp [streamAt, onStream, tmod, tgetD]

theorem streamAt_onStream_ne {x y : Nat} (h : y ≠ x) (f : Stream → Stream) : streamAt (onStream s x f) y = streamAt s y := by
  simp only [streamAt, onStream, tmod, tgetD, tget_tset_ne _ _ h]

theorem streamAt_fset (g : Fld) (v w i x : Nat) : streamAt (fset s g v w i) x = streamAt s x := by
  rw [streamAt, fset_dsp, streamAt]

theorem streamAt_rset (r : Reg) (v w i x : Nat) : streamAt (rset s r v w i) x = streamAt s x := by
  rw [streamAt, rset_dsp, streamAt]

theorem fget_onStream (x : Nat) (f : Stream → Stream) (g : Fld) (w i : Nat) : fget (onStream s x f) g w i = fget s g w i :=
  fget_congr rfl g w i

end

/-- A register holds the low 64 bits of what is written. -/
theorem rget_rset_mod {s : State} {r : Reg} {v w i : Nat} (hw : w < 16) (hi : i < 64) : rget (rset s r v w i) r w i = v % 2 ^ 64 := by
  have h : rset s r v w i = rset s r (v % 2 ^ 64) w i := by
    unfold rset
    rw [Nat.mod_mod]
  rw [h, rget_rset_same hw hi (Nat.mod_lt _ (Nat.two_pow_pos 64))]

/-! ### Commits -/

section

variable {s : State} {x : Nat} (hx : x < 8)

include hx

theorem commitPending_fset (v : Nat) : commitPending (fset s F.DSP_COMMIT_STATUS.PENDING v 0 x) x = decide (v % 2 = 1) := by
  rw [commitPending, flag, fget_fset_same (by decide) (by omega) (by decide) (by decide)]
  rfl

theorem exec_dspCommit (h : Safety.writable s .DSP_COMMIT 0 x) : exec (.dspCommit x) s = .next (commit s x) := by
  change execDspCommit x s = _
  rw [execDspCommit, if_neg (Nat.not_le.mpr hx), busWrite_next h]

theorem exec_dspCommitCancel (h : Safety.writable s .DSP_COMMIT 0 x) : exec (.dspCommitCancel x) s = .next (if commitPending s x then
    commitClear (onStream s x fun y => { y with cancelled := y.committed.map fun t => (t, s.time) }) x else s) := by
  change execDspCommitCancel x s = _
  rw [execDspCommitCancel, if_neg (Nat.not_le.mpr hx), busWrite_next h]

theorem commitPending_commitClear : commitPending (commitClear s x) x = false := by
  rw [commitPending, flag, commitClear, fget_onStream]
  exact commitPending_fset hx 0

end

section

variable {s : State} {x : Nat}

theorem streamAt_commitClear : streamAt (commitClear s x) x = { streamAt s x with committed := none } := by
  rw [commitClear, streamAt_onStream_same, streamAt_fset]

theorem commit_pending (h : commitPending s x = true) : commit s x = s := if_pos h

theorem commit_refused (h : commitPending s x = false) {e : Status} (he : commitCheck s x = some e) :
    commit s x = fset { s with freeCtr := s.freeCtr + 1 } F.DSP_COMMIT_STATUS.STATUS (Status.code e) 0 x := by
  rw [commit, if_neg (h ▸ Bool.false_ne_true), he]

/-- The state of a commit that its check has accepted. -/
def commitAccepted (s : State) (x : Nat) : State :=
  onStream (fset (fset { s with freeCtr := s.freeCtr + 1 } F.DSP_COMMIT_STATUS.STATUS 0 0 x) F.DSP_COMMIT_STATUS.PENDING 1 0 x) x
    fun y => { y with committed := some s.time }

theorem commit_accepted (h : commitPending s x = false) (he : commitCheck s x = none) : commit s x = commitAccepted s x := by
  rw [commit, if_neg (h ▸ Bool.false_ne_true), he]
  simp only [commitAccepted, fset_time]

theorem commitPending_commitAccepted (hx : x < 8) : commitPending (commitAccepted s x) x = true := by
  rw [commitPending, flag, commitAccepted, fget_onStream]
  exact commitPending_fset hx 1

/-- STATUS reads 0: PENDING lies above it in the same register. -/
theorem status_commitAccepted (hx : x < 8) : fget (commitAccepted s x) F.DSP_COMMIT_STATUS.STATUS 0 x = 0 := by
  have hbelow (u : State) : fget (fset u F.DSP_COMMIT_STATUS.PENDING 1 0 x) F.DSP_COMMIT_STATUS.STATUS 0 x = fget u F.DSP_COMMIT_STATUS.STATUS 0 x :=
    fget_fset_below (by decide) (by omega) rfl (by decide) (by decide) (by decide)
  rw [commitAccepted, fget_onStream, hbelow, fget_fset_same (by decide) (by omega) (by decide) (by decide)]
  exact Nat.zero_mod _

theorem committed_commitAccepted : (streamAt (commitAccepted s x) x).committed = some s.time := by
  rw [commitAccepted, streamAt_onStream_same]

theorem streamAt_commitAccepted_ne {y : Nat} (h : y ≠ x) : streamAt (commitAccepted s x) y = streamAt s y := by
  rw [commitAccepted, streamAt_onStream_ne _ h, streamAt_fset, streamAt_fset]
  rfl

end

/-! ### Latch points -/

section

variable {s : State} {x : Nat}

theorem exec_latchPoint (hp : Safety.powered s) (x : Nat) : exec (.latchPoint x) s = .next (latchPoint x s) := powered_next hp _

theorem uncancel_committed {t0 : Nat} (h : (streamAt s x).committed = some t0) : uncancel s x = s := by
  rw [uncancel]
  split
  · exact if_neg fun hc => by simp [h] at hc
  · rfl

theorem uncancel_other (h : ∀ t c, (streamAt s x).cancelled = some (t, c) → c ≠ s.time) : uncancel s x = s := by
  rw [uncancel]
  split
  · next t c hc => exact if_neg fun hnow => h t c hc hnow.1
  · rfl

/-- A cancelled commit is pending again at the time of its CANCEL. -/
theorem uncancel_now {t : Nat} (hnone : (streamAt s x).committed = none) (h : (streamAt s x).cancelled = some (t, s.time)) : uncancel s x =
    onStream (fset s F.DSP_COMMIT_STATUS.PENDING 1 0 x) x fun y => { y with committed := some t, cancelled := none } := by
  rw [uncancel, h]
  exact if_pos ⟨rfl, hnone⟩

theorem latchFate_none (h : (streamAt s x).committed = none) : latchFate s x = .none := by
  rw [latchFate, h]

section

variable {t0 : Nat} (h : (streamAt s x).committed = some t0)

include h

theorem latchFate_early (ht : s.time ≤ t0) : latchFate s x = .none := by
  rw [latchFate, h]
  exact if_pos ht

theorem latchFate_unconditional (ht : t0 < s.time) (hq : rget s .DSP_COMMIT_QUEUE 0 x = 0) : latchFate s x = .take := by
  rw [latchFate, h]
  exact (if_neg (Nat.not_le.mpr ht)).trans (if_pos hq)

theorem latchFate_gone (ht : t0 < s.time) (hq : rget s .DSP_COMMIT_QUEUE 0 x ≠ 0)
    (hgone : queueOf s 0 (rget s .DSP_COMMIT_QUEUE 0 x) = none) : latchFate s x = .drop := by
  rw [latchFate, h]
  dsimp only
  rw [if_neg (Nat.not_le.mpr ht), if_neg hq, hgone]

theorem latchFate_queue {i : Nat} {q : Queue} (ht : t0 < s.time) (hq : rget s .DSP_COMMIT_QUEUE 0 x ≠ 0)
    (hlive : queueOf s 0 (rget s .DSP_COMMIT_QUEUE 0 x) = some (i, q)) : latchFate s x =
    if rget s .DSP_COMMIT_SEQ 0 x ≤ (if q.wroteAt < s.time then q.seq else q.seqWas) then .take else .carry := by
  rw [latchFate, h]
  dsimp only
  rw [if_neg (Nat.not_le.mpr ht), if_neg hq, hlive]
  rfl

end

/-- A latch point of a stream that is active or has a commit to settle. -/
theorem latchPoint_eq (hx : x < 8) (hu : uncancel s x = s) (hf : streamOn s x = true ∨ latchFate s x ≠ .none) : latchPoint x s =
    match latchFate s x with
    | .none => dspIrq (latchTick x s) (2 ^ x)
    | .take => dspIrq (takeCommit (latchTick x s) x) (2 ^ x + 2 ^ (8 + x))
    | .carry => dspIrq (fcount (latchTick x s) F.DSP_COMMIT_STATUS.CARRIED 0 x) (2 ^ x)
    | .drop => dspIrq (fset (commitClear (latchTick x s) x) F.DSP_COMMIT_STATUS.STATUS (Status.code .staleHandle) 0 x) (2 ^ x) := by
  have hgo : ¬ (8 ≤ x ∨ ¬ (streamOn s x = true ∨ latchFate s x = .take ∨ latchFate s x = .drop ∨ latchFate s x = .carry)) := by
    rcases hf with hf | hf
    · simp [hf, hx]
    · cases hfate : latchFate s x <;> simp_all
  rw [latchPoint, hu]
  exact (if_neg hgo).trans (by cases latchFate s x <;> rfl)

theorem latchTime_latchTick (hx : x < 8) : rget (latchTick x s) .DSP_LATCH_TIME 0 x = s.time % 2 ^ 64 := by
  have hset : rget (rset s .DSP_LATCH_TIME s.time 0 x) .DSP_LATCH_TIME 0 x = s.time % 2 ^ 64 := rget_rset_mod (by decide) (by omega)
  rw [latchTick]
  dsimp only
  split
  · exact (rget_rset_ne fun e => absurd e.1 (by decide)).trans hset
  · exact hset

theorem frame_latchTick (hx : x < 8) (hon : streamOn s x = true) :
    fget (latchTick x s) F.DSP_STREAM_STATUS.FRAME 0 x = (fget s F.DSP_STREAM_STATUS.FRAME 0 x + 1) % 2 ^ 32 := by
  have hon' : streamOn (rset s .DSP_LATCH_TIME s.time 0 x) x = true := by rw [streamOn, streamAt_rset]; exact hon
  rw [latchTick]
  dsimp only
  rw [if_pos hon']
  refine (fget_congr (s := fset _ _ _ _ _) rfl _ _ _).trans ((fget_fset_same (by decide) (by omega) (by decide) (by decide)).trans ?_)
  rw [fget, fget, rget_rset_ne fun e => absurd e.1 (by decide)]
  rfl

end

/-! ### A commit takes effect -/

/-- t has the streams of s, and its commits are pending alike. -/
def KeepsCommits (s t : State) : Prop := t.dsp.streams = s.dsp.streams ∧ KeepsReg .DSP_COMMIT_STATUS s t

theorem KeepsCommits.refl (s : State) : KeepsCommits s s := ⟨rfl, .refl _ s⟩

theorem KeepsCommits.trans {s t u : State} (h : KeepsCommits s t) (h' : KeepsCommits t u) : KeepsCommits s u :=
  ⟨h'.1.trans h.1, h.2.trans h'.2⟩

theorem keepsCommits_fset {f : Fld} (h : Reg.DSP_COMMIT_STATUS ≠ f.reg) (s : State) (v w i : Nat) : KeepsCommits s (fset s f v w i) :=
  ⟨by rw [fset_dsp], keepsReg_fset h ..⟩

theorem keepsCommits_ite {s t u : State} {c : Prop} [Decidable c] (ht : KeepsCommits s t) (hu : KeepsCommits s u) :
    KeepsCommits s (if c then t else u) := by
  split
  · exact ht
  · exact hu

theorem keepsCommits_onPipe (s : State) (p : Nat) (f : Pipe → Pipe) : KeepsCommits s (onPipe s p f) := ⟨rfl, keepsReg_of_eq rfl rfl⟩

theorem keepsCommits_takePipe (x : Nat) (s : State) (p : Nat) : KeepsCommits s (takePipe x s p) := by
  have hstatus {t : State} {f : Fld} (hf : Reg.DSP_COMMIT_STATUS ≠ f.reg) (h : KeepsCommits s t) (v : Nat) : KeepsCommits s (fset t f v 0 p) :=
    h.trans (keepsCommits_fset hf ..)
  have hvalues (f : Pipe → Pipe) : KeepsCommits s (onPipe s p f) := keepsCommits_onPipe s p f
  rw [takePipe]
  refine keepsCommits_ite (keepsCommits_ite ?_ ?_) (keepsCommits_ite ?_ (.refl s))
  · exact hstatus (by decide) (hstatus (by decide) (hstatus (by decide) (hvalues _) 1) x) 0
  · exact hstatus (by decide) (hstatus (by decide) (hvalues _) 1) x
  · exact hstatus (by decide) (hvalues _) 0

theorem keepsCommits_takePipes (x : Nat) (l : List Nat) (s : State) : KeepsCommits s (l.foldl (takePipe x) s) := by
  induction l generalizing s with
  | nil => exact .refl s
  | cons p l ih => exact (keepsCommits_takePipe x s p).trans (ih _)

/-- The stream's values after a commit: the shadow registers'. -/
def committedStream (s : State) (x : Nat) : Stream :=
  { streamAt s x with
    committed := none, ctl := rget s .DSP_STREAM_CTL 0 x, lum := rget s .DSP_STREAM_LUM 0 x, bg := rget s .DSP_STREAM_BG 0 x
    wbAddr := rget s .DSP_WB_ADDR 0 x, wbCtl := rget s .DSP_WB_CTL 0 x, wbWrote := false
    shroud := (streamAt s x).shroud && flag s F.DSP_OUT_STATUS.HELD 0 (x / 2) }

/-- After the stream has its values, a commit only sets its status and the pipes'. -/
theorem keepsCommits_takeCommit (s : State) (x : Nat) :
    KeepsCommits (onStream (commitClear s x) x fun _ => committedStream s x) (takeCommit s x) := by
  have hstream : (onStream (commitClear s x) x fun y => { y with
      ctl := rget s .DSP_STREAM_CTL 0 x, lum := rget s .DSP_STREAM_LUM 0 x, bg := rget s .DSP_STREAM_BG 0 x, wbAddr := rget s .DSP_WB_ADDR 0 x
      wbCtl := rget s .DSP_WB_CTL 0 x, wbWrote := false, shroud := y.shroud && flag s F.DSP_OUT_STATUS.HELD 0 (x / 2) })
      = onStream (commitClear s x) x fun _ => committedStream s x := by
    rw [onStream, onStream, tmod, tmod]
    have := streamAt_commitClear (s := s) (x := x)
    rw [streamAt] at this
    rw [this]
    rfl
  have hstatus {t u : State} {f : Fld} (hf : Reg.DSP_COMMIT_STATUS ≠ f.reg) (h : KeepsCommits t u) (v : Nat) : KeepsCommits t (fset u f v 0 x) :=
    h.trans (keepsCommits_fset hf ..)
  rw [takeCommit, hstream]
  refine .trans ?_ (keepsCommits_takePipes ..)
  have hfault := keepsCommits_ite (c := (streamAt s x).wbWrote = true)
    (hstatus (f := F.DSP_STREAM_STATUS.WB_FAULT) (by decide) (.refl (onStream (commitClear s x) x fun _ => committedStream s x)) 0) (.refl _)
  exact keepsCommits_ite (hstatus (by decide) (hstatus (by decide) hfault _) 0) (hstatus (by decide) hfault _)

theorem streamAt_takeCommit (s : State) (x : Nat) : streamAt (takeCommit s x) x = committedStream s x := by
  rw [streamAt, (keepsCommits_takeCommit s x).1]
  exact streamAt_onStream_same ..

theorem commitPending_takeCommit (s : State) {x : Nat} (hx : x < 8) : commitPending (takeCommit s x) x = false := by
  rw [commitPending, flag, KeepsReg.fget (f := F.DSP_COMMIT_STATUS.PENDING) (keepsCommits_takeCommit s x).2, fget_onStream]
  exact commitPending_commitClear hx

/-! ### Interrupts -/

theorem dspIrq_raised {s t : State} {causes : Nat} (ht : t = rset s .DSP_IRQ_STATUS (rget s .DSP_IRQ_STATUS ||| causes))
    (h : flag t F.DSP_IRQ_CTL.EN = true ∧ without causes (rget t .DSP_IRQ_MASK) ≠ 0) :
    dspIrq s causes = msixRaise t 0 (fget t F.DSP_IRQ_CTL.VECTOR) := by
  subst ht
  exact if_pos h

theorem dspIrq_quiet {s t : State} {causes : Nat} (ht : t = rset s .DSP_IRQ_STATUS (rget s .DSP_IRQ_STATUS ||| causes))
    (h : flag t F.DSP_IRQ_CTL.EN = false ∨ without causes (rget t .DSP_IRQ_MASK) = 0) : dspIrq s causes = t := by
  subst ht
  refine if_neg fun ⟨hen, hmask⟩ => ?_
  rcases h with h | h
  · exact Bool.false_ne_true (h.symm.trans hen)
  · exact hmask h

/-- Settles O43. That the latch point comes as an event at any time is the model's choice (log 28). -/
theorem commitsAndLatchPoints : Obligations.CommitsAndLatchPoints := by
  refine ⟨fun s x hx hw => ⟨fun h => ?_, fun h e he => ?_, fun h he => ?_, fun h => ?_, fun h => ?_⟩, fun s x t0 hx hp hc => ?_,
    fun s x hx hp hc => ⟨fun hon hother => ?_, fun t ht => ?_⟩, fun s x hx => ⟨latchTime_latchTick hx, frame_latchTick hx, ?_⟩,
    fun s causes => ⟨_, rfl, fun h => dspIrq_raised rfl h, fun h => dspIrq_quiet rfl h⟩⟩
  · rw [exec_dspCommit hx hw, commit_pending h]
  · rw [exec_dspCommit hx hw, commit_refused h he]
  · exact ⟨_, by rw [exec_dspCommit hx hw, commit_accepted h he], commitPending_commitAccepted hx, status_commitAccepted hx,
      committed_commitAccepted, fun y hy => streamAt_commitAccepted_ne hy⟩
  · rw [exec_dspCommitCancel hx hw, if_neg (h ▸ Bool.false_ne_true)]
  · refine ⟨_, by rw [exec_dspCommitCancel hx hw, if_pos h], commitPending_commitClear hx, ?_, ?_⟩
    · rw [streamAt_commitClear]
    · rw [streamAt_commitClear, streamAt_onStream_same]
  · intro u taken
    rw [exec_latchPoint hp]
    have hu := uncancel_committed hc
    have htaken (hf : latchFate s x = .take) : Host.Outcome.next (latchPoint x s) = taken := by
      rw [latchPoint_eq hx hu (.inr (by rw [hf]; decide)), hf]
    refine ⟨fun ht hon => ?_, fun ht hq => htaken (latchFate_unconditional hc ht hq), fun ht hq hgone => ?_, fun i q ht hq hlive => ?_⟩
    · rw [latchPoint_eq hx hu (.inl hon), latchFate_early hc ht]
    · have hf := latchFate_gone hc ht hq hgone
      rw [latchPoint_eq hx hu (.inr (by rw [hf]; decide)), hf]
    · have hf := latchFate_queue hc ht hq hlive
      refine ⟨fun hseq => htaken (hf.trans (if_pos hseq)), fun hseq => ?_⟩
      have hcarry := hf.trans (if_neg (Nat.not_le.mpr hseq))
      rw [latchPoint_eq hx hu (.inr (by rw [hcarry]; decide)), hcarry]
  · rw [exec_latchPoint hp, latchPoint_eq hx (uncancel_other hother) (.inl hon), latchFate_none hc]
  · have hback := uncancel_now hc ht
    have hpending : uncancel (uncancel s x) x = uncancel s x := by
      refine uncancel_committed (t0 := t) ?_
      rw [hback, streamAt_onStream_same]
    have hp' : Safety.powered (uncancel s x) := by rw [hback]; exact (congrArg Boot.aonPgood (fset_boot ..)).trans hp
    rw [← hback, exec_latchPoint hp, exec_latchPoint hp', latchPoint, latchPoint, hpending]
  · intro t
    exact ⟨commitPending_takeCommit s hx, by rw [streamAt_takeCommit]; rfl, by rw [streamAt_takeCommit]; rfl, by rw [streamAt_takeCommit]; rfl,
      by rw [streamAt_takeCommit]; rfl, by rw [streamAt_takeCommit]; rfl, by rw [streamAt_takeCommit]; rfl⟩

end Sys2Proof.Proofs

/-!
## Basic-level commands (O50): a policy keeps the bits above its register

The model's registers are 64-bit words, and a write keeps the bits that belong to no field. `COL_CTL` is 32 bits wide: where a state holds a
bit above them, COL_POLICY with DEFAULTS leaves it, and the register is not at its default.
-/

namespace Sys2Proof.Proofs

open Machine Laws

/-- COL_POLICY from the PF, with DEFAULTS set in the last byte of its record. -/
def colPolicyDefaults : BasicCmd := { fn := 0, word := 0x14 <<< 24, record := zeros 47 ++ [1] }

/-- Firmware runs that command, the Collator's domain is ON, and bit 40 of the word that holds COL_CTL is set. -/
def wideColCtl : State :=
  rset (fset (domSet (onCcx State.reset fun x => { x with cmd := some colPolicyDefaults }) 40 0) F.CCX_FW_STATE.STATE 2) .COL_CTL (2 ^ 40)

/-- What the policy leaves in the register: the default, and bit 40. -/
theorem colCtl_wideColCtl : rget (colPolicy colPolicyDefaults wideColCtl).2 .COL_CTL = 2 ^ 40 + (32768 <<< 16 + 64) := by decide +kernel

/-- Refutes O50: after COL_POLICY with DEFAULTS, COL_CTL is not at its default where a bit above its 32 was set before. The statement speaks of
every state, also of those that no write of the model leads to. (That an undefined opcode ends with BAD_OPCODE from a VF too, and what ARGS
without a layout write, are the model's own: logs 96 and 32.) -/
theorem not_basicCommands : ¬ Obligations.BasicCommands := by
  intro ⟨_, _, hrows⟩
  obtain ⟨-, -, -, hpf⟩ := hrows wideColCtl colPolicyDefaults (by decide +kernel) (by decide +kernel) rfl rfl rfl
  obtain ⟨-, -, -, -, -, -, -, -, -, -, -, -, -, -, -, -, -, -, -, -, hdefaults, -⟩ := hpf rfl
  obtain ⟨hcol, -⟩ := hdefaults (by decide) (by decide +kernel)
  exact absurd (colCtl_wideColCtl.symm.trans hcol) (by decide)

end Sys2Proof.Proofs

/-!
## The ends of recoveries, holds and injection (O41)
-/

namespace Sys2Proof.Proofs

open Machine Laws

/-! ### Die recovery, the ends of recoveries and windows -/

section

variable {s : State} (hp : Safety.powered s)

include hp

theorem exec_dieRecoveryFeTimeout_step2 (h : s.int.dieStep2 = true) : exec .dieRecoveryFeTimeout s =
    .next (onInt (dieRest s) fun x => { x with recoveries := x.recoveries.map fun r => { r with feLost := true } }) := by
  change execDieRecoveryFeTimeout s = _
  rw [execDieRecoveryFeTimeout, powered_next hp, if_neg (not_not_intro h)]

theorem exec_dieRecoveryFeTimeout_other (h : s.int.dieStep2 = false) : exec .dieRecoveryFeTimeout s = .next s := by
  change execDieRecoveryFeTimeout s = _
  rw [execDieRecoveryFeTimeout, powered_next hp, if_pos (h ▸ Bool.false_ne_true)]

/-- Recovery n no longer runs, and its RECOVERY_DONE record waits. -/
def recoveryDone (s : State) (n : Nat) (r : Recovery) : State :=
  raise (onInt s fun x => { x with recoveries := x.recoveries.set n { r with running := false } })
    { time := 0, unit := 0x12F, status := .ok, level := 0, context := none, function := none, detail := .system 4 r.level 0 (s.time - r.t1),
      feLost := r.feLost, dataLost := r.dataLost }

section

variable {n : Nat} {r : Recovery} (hn : s.int.recoveries[n]? = some r)

include hn

theorem exec_recoveryComplete (hf : failsafe s = false) (hstep : s.int.dieStep2 = false) (hrun : r.running = true) :
    exec (.recoveryComplete n) s = .next (if r.t1 + r.bound ≤ s.time then failsafeEnter s 3
      else
        let u := recoveryDone s n r
        let b := r.target % 4096
        intView (if r.level = 3 ∧ 0xE0 ≤ b ∧ b < 0x100 then retryHeld u fun q => decide (paSlice q.pa = b - 0xE0)
          else if r.level = 3 ∧ 0x128 ≤ b ∧ b < 0x12C then fset u F.CCX_CORE_STATUS.MODE (b2n (fwRunning u)) 0 (b - 0x128) else u)) := by
  have hon : ¬ (¬ r.running = true ∨ s.int.dieStep2 = true ∨ failsafe s = true) := by simp [hrun, hstep, hf]
  change execRecoveryComplete n s = _
  rw [execRecoveryComplete, powered_next hp, hn]
  exact congrArg _ (if_neg hon)

theorem exec_recoveryWindowExpiry : exec (.recoveryWindowExpiry n) s = .next (if s.time < r.t1 + r.bound then s
    else if r.running then failsafeEnter s 3 else intView (onInt s fun x => { x with recoveries := x.recoveries.eraseIdx n })) := by
  change execRecoveryWindowExpiry n s = _
  rw [execRecoveryWindowExpiry, powered_next hp, hn]

end

theorem exec_faultWindowExpiry {t0 c k : Nat} (h : s.int.window = some (t0, c, k)) : exec .faultWindowExpiry s =
    .next (if s.time < t0 + 1000000000 then s else intView (onInt s fun x => { x with window := none })) := by
  change execFaultWindowExpiry s = _
  rw [execFaultWindowExpiry, powered_next hp, h]

theorem exec_autoPackageExpiry : exec .autoPackageExpiry s =
    .next (if failsafe s ∧ fget s F.INT_CTL.AUTO_PACKAGE_MS ≠ 0 ∧ s.int.failAt + 1000000 * fget s F.INT_CTL.AUTO_PACKAGE_MS ≤ s.time
      then packageRecover s else s) := powered_next hp _

/-- INT_RECOVER takes writes in fail-safe too. -/
theorem busWrite_intRecover (hid : recoveryId s = false) (k : State → State) : busWrite s .INT_RECOVER 0 0 k = .next (k s) := by
  have htaken : ¬ ((failsafe s = true ∧ ¬ Reg.INT_RECOVER.inFailsafe = true) ∨ (recoveryId s = true ∧ ¬ Reg.INT_RECOVER.inRecoveryId = true)
      ∨ flrWindow s .INT_RECOVER 0 = true) := by
    have hfs : Reg.INT_RECOVER.inFailsafe = true := by decide
    have hflr : flrWindow s .INT_RECOVER 0 = false := rfl
    simp [hid, hfs, hflr]
  rw [busWrite, if_neg htaken]
  exact powered_next hp _

theorem exec_intRecoverPackage_failsafe (hf : failsafe s = true) (hid : recoveryId s = false) :
    exec .intRecoverPackage s = .next (packageRecover s) := by
  change execIntRecoverPackage s = _
  rw [execIntRecoverPackage, busWrite_intRecover hp hid, if_pos hf]

end

/-! ### Registers -/

section

variable {s : State}

theorem exec_intFailsafeForce (h : Safety.writable s .INT_FAILSAFE 0 0) : exec .intFailsafeForce s = .next (failsafeEnter s 9) :=
  busWrite_next h fun s => failsafeEnter s 9

theorem exec_intRecoverPackage_run (h : Safety.writable s .INT_RECOVER 0 0) : exec .intRecoverPackage s = .next s := by
  have hf : ¬ failsafe s = true := h.2.1 ▸ Bool.false_ne_true
  change execIntRecoverPackage s = _
  rw [execIntRecoverPackage, busWrite_next h, if_neg hf]

theorem exec_intHoldWrite (h : Safety.writable s .INT_HOLD 0 0) {v : Nat} (hv : v < 256) :
    exec (.intHoldWrite v) s = .next (holdsCleared (rset s .INT_HOLD (without (rget s .INT_HOLD) v))) := by
  have hf : ¬ failsafe s = true := h.2.1 ▸ Bool.false_ne_true
  change execIntHoldWrite v s = _
  rw [execIntHoldWrite, busWrite_next h, if_neg hf, Nat.mod_eq_of_lt hv]

section

variable (h : Safety.writable s .INT_INJECT 0 0) {v : Nat}

include h

theorem exec_intInjectWrite_undefined (hst : Status.ofCode (bits v 31 24) = none) : exec (.intInjectWrite v) s = .next s := by
  change execIntInjectWrite v s = _
  rw [execIntInjectWrite, busWrite_next h]
  dsimp only
  rw [hst]

/-- An injection whose status is defined: the record is one of the unit, with the detail of a memory fault where it has level 0. -/
theorem exec_intInjectWrite {st : Status} (hst : Status.ofCode (bits v 31 24) = some st) : exec (.intInjectWrite v) s = .next (
    if ¬ flag s F.INT_CTL.INJECT_EN ∨ ¬ unitDefined (bits v 47 32) ∨ bits v 18 16 = 1 ∨ bits v 18 16 = 2 then s
    else raiseBare (if bits v 18 16 = 0 ∧ st = .integrityMismatch then countMismatch s else s) (bits v 47 32) st (bits v 18 16)
      (if bits v 18 16 = 0 then .memory 0 3 0xFF 0xFF 0xFF 0xFFFF 0xFFFF 0 0 else .none)) := by
  change execIntInjectWrite v s = _
  rw [execIntInjectWrite, busWrite_next h]
  dsimp only
  rw [hst]
  rfl

end

end

/-- Settles O41. -/
theorem recoveryRows : Obligations.RecoveryRows := by
  refine ⟨fun s hp => ⟨exec_dieRecoveryFeTimeout_step2 hp, exec_dieRecoveryFeTimeout_other hp⟩, fun s n r hp hf hstep hn hrun => ?complete,
    fun s n r hp hn => ?window, fun s t0 c k hp h => ?fault, fun s h => exec_intFailsafeForce h, fun s hp hf hid => exec_intRecoverPackage_failsafe hp hf hid,
    fun s h => exec_intRecoverPackage_run h, fun s hp => ?auto, fun s v h hv => exec_intHoldWrite h hv, fun s v st h => ⟨exec_intInjectWrite_undefined h,
    fun hst => ?inject⟩⟩
  case complete =>
    rw [exec_recoveryComplete hp hn hf hstep hrun]
    intro b u
    refine ⟨fun hend => by rw [if_pos hend], fun hlive => ?_⟩
    rw [if_neg (Nat.not_le.mpr hlive)]
    refine ⟨fun hunit => ?_, fun h3 hlo hhi => ?_, fun h3 hlo hhi => ?_⟩
    · have hslice : ¬ (r.level = 3 ∧ 0xE0 ≤ r.target % 4096 ∧ r.target % 4096 < 0x100) := by omega
      have hcore : ¬ (r.level = 3 ∧ 0x128 ≤ r.target % 4096 ∧ r.target % 4096 < 0x12C) := by omega
      dsimp only
      rw [if_neg hslice, if_neg hcore]
      rfl
    · dsimp only
      rw [if_pos ⟨h3, hlo, hhi⟩]
      rfl
    · have hslice : ¬ (r.level = 3 ∧ 0xE0 ≤ r.target % 4096 ∧ r.target % 4096 < 0x100) := by omega
      dsimp only
      rw [if_neg hslice, if_pos ⟨h3, hlo, hhi⟩]
      rfl
  case window =>
    rw [exec_recoveryWindowExpiry hp hn]
    refine ⟨fun hlive => by rw [if_pos hlive], fun hend hrun => ?_, fun hend hrun => ?_⟩
    · rw [if_neg (Nat.not_lt.mpr hend), if_pos hrun]
    · rw [if_neg (Nat.not_lt.mpr hend), if_neg (hrun ▸ Bool.false_ne_true)]
  case fault =>
    rw [exec_faultWindowExpiry hp h]
    exact ⟨fun hlive => by rw [if_pos hlive], fun hend => by rw [if_neg (Nat.not_lt.mpr hend)]⟩
  case auto =>
    intro ms
    rw [exec_autoPackageExpiry hp]
    refine ⟨fun hf hms hend => by rw [if_pos ⟨hf, hms, hend⟩], fun hnot => ?_⟩
    refine congrArg _ (if_neg fun ⟨hf, hms, hend⟩ => ?_)
    rcases hnot with h | h | h
    · exact Bool.false_ne_true (h.symm.trans hf)
    · exact hms h
    · exact Nat.not_le.mpr h hend
  case inject =>
    rw [exec_intInjectWrite h hst]
    have hon {k : Nat} (hk : fget s F.INT_CTL.INJECT_EN = k) : flag s F.INT_CTL.INJECT_EN = decide (k = 1) := by rw [flag, hk]
    refine ⟨fun hoff => ?_, fun hen hunit hlevel => ?_, fun hen hunit hlevel => ?_⟩
    · refine congrArg _ (if_pos ?_)
      rcases hoff with hen | hunit | hlevel
      · exact .inl (hon hen ▸ Bool.false_ne_true)
      · exact .inr (.inl (hunit ▸ Bool.false_ne_true))
      · exact .inr (.inr hlevel)
    all_goals
      have hgo : ¬ (¬ flag s F.INT_CTL.INJECT_EN = true ∨ ¬ unitDefined (bits v 47 32) = true ∨ bits v 18 16 = 1 ∨ bits v 18 16 = 2) := by
        rw [hon hen, hunit]
        simp only [decide_true, not_true_eq_false, false_or]
        omega
      rw [if_neg hgo]
    · have h0 : bits v 18 16 ≠ 0 := by omega
      rw [if_neg fun h => h0 h.1, if_neg h0]
    · simp only [hlevel, true_and, if_true]

end Sys2Proof.Proofs

/-!
## PRESS slices (O42)
-/

namespace Sys2Proof.Proofs

open Machine Laws

section

variable {s : State} {t : Nat} (h : Safety.unitRuns s 0x117)

include h

/-- A slice that has no work asks for its domain, or does nothing. -/
theorem exec_pressCompressSlice_waits (hn : pressItem s t true = none) (steps : Nat) :
    exec (.pressCompressSlice t steps) s = .next (pressWaits s t) := by
  change execPressCompressSlice t steps s = _
  rw [execPressCompressSlice, unitStep_next h, hn]

theorem exec_pressDecompressSlice_waits (hn : pressItem s t false = none) (limit steps : Nat) :
    exec (.pressDecompressSlice t limit steps) s = .next (pressWaits s t) := by
  change execPressDecompressSlice t limit steps s = _
  rw [execPressDecompressSlice, unitStep_next h, hn]

end

theorem pressItem_off {s : State} (hoff : domOn s 43 = false) (t : Nat) (compress : Bool) : pressItem s t compress = none := by
  rw [pressItem]
  split
  · rfl
  · split
    · exact if_neg fun hon => Bool.false_ne_true (hoff.symm.trans hon.2)
    · rfl

theorem pressWaits_off {s : State} {t : Nat} {k : Task} (hk : taskAt s t = some k) (heng : k.eng = .press) (hlive : k.live ≠ [])
    (hoff : domOn s 43 = false) : pressWaits s t = demand s 43 := by
  rw [pressWaits, hk]
  exact if_pos ⟨heng, hlive, hoff ▸ Bool.false_ne_true⟩

/-- Settles O42. The compressor's code is a value of the configuration (log 25). -/
theorem pressSlices : Obligations.PressSlices := by
  refine ⟨fun s t i steps k j h hitem => ?compress, fun s t i limit steps k j h hitem => ?decompress,
    fun s t limit steps k h hk heng hlive hoff => ?off⟩
  case compress =>
    intro u n r
    have hexec : exec (.pressCompressSlice t steps) s = execPressCompressSlice t steps s := rfl
    rw [execPressCompressSlice, unitStep_next h, hitem] at hexec
    refine ⟨fun hr => hexec.trans (congrArg _ (if_pos hr)), fun hr => ?_⟩
    intro last crc code bits w j'
    have hwrite := hexec.trans (congrArg _ (if_neg (not_not_intro hr)))
    exact ⟨fun hw => hwrite.trans (congrArg _ (if_pos hw)),
      fun hw hlast => hwrite.trans (congrArg _ ((if_neg (not_not_intro hw)).trans (if_pos hlast))),
      fun hw hlast => hwrite.trans (congrArg _ ((if_neg (not_not_intro hw)).trans (if_neg (ne_true_of_eq_false hlast))))⟩
  case decompress =>
    intro u most d w j'
    have hexec : exec (.pressDecompressSlice t limit steps) s = execPressDecompressSlice t limit steps s := rfl
    rw [execPressDecompressSlice, unitStep_next h, hitem] at hexec
    have hrest (hw : w.1 = .ok) : exec (.pressDecompressSlice t limit steps) s = .next (match d.1 with
        | .pause => pressMore w.2.2 t j'
        | .finished => if j'.produced = [] then pressEnd w.2.2 t k j' .ok else pressMore w.2.2 t j'
        | .fails st _ => pressEnd w.2.2 t k j' st) := hexec.trans (congrArg _ (if_neg (not_not_intro hw)))
    refine ⟨fun hw => hexec.trans (congrArg _ (if_pos hw)), fun hw hd => ?_, fun hw hd hdone => ?_, fun st q hw hd => ?_⟩
    · rcases hd with hd | ⟨hd, hmore⟩
      · rw [hrest hw, hd]
      · rw [hrest hw, hd]
        exact congrArg _ (if_neg hmore)
    · rw [hrest hw, hd]
      exact congrArg _ (if_pos hdone)
    · rw [hrest hw, hd]
  case off =>
    rw [exec_pressCompressSlice_waits h (pressItem_off hoff t _), exec_pressDecompressSlice_waits h (pressItem_off hoff t _),
      pressWaits_off hk heng hlive hoff]
    exact ⟨rfl, rfl⟩

end Sys2Proof.Proofs

/-!
## Lines, links and AUX (O44)
-/

namespace Sys2Proof.Proofs

open Machine Laws

theorem flag_eq_false {s : State} {f : Fld} {w i : Nat} (h : fget s f w i = 0) : flag s f w i = false := by
  rw [flag, h]
  rfl

theorem flag_eq_true {s : State} {f : Fld} {w i : Nat} (h : fget s f w i = 1) : flag s f w i = true := decide_eq_true h

/-! ### Fetch, scanout and writeback -/

/-- What a display unit's event leaves: nothing where it waits for the translation cache. -/
def unlessWaiting (s t : State) : State := if t.xlt.tcWait then s else t

section

variable {s : State} {p st : Nat}

theorem exec_pipeLineFetch (hp : p < 32) (h : Safety.engines s) : exec (.pipeLineFetch p) s = .next (unlessWaiting s (pipeFetch p s)) := by
  change execPipeLineFetch p s = _
  rw [execPipeLineFetch, engineStep_next h, if_neg (Nat.not_le.mpr hp)]
  rfl

/-- Rows that the next fetch of an attached pipe brings. -/
def fetchStep (s : State) (st : Nat) (x : Pipe) : Nat :=
  if bit x.ctl 22 then Nat.min (8 - (bits x.src 63 48 + x.next) % 8) (pipeRows s st x - x.next) else 1

/-- The blocks of the next row of blocks of a SURFACE layer. -/
def nextBlocks (s : State) (st : Nat) (x : Pipe) : Status × List (Nat × List Byte × List Bool) × State :=
  let sx := bits x.src 47 32
  surfaceBlocks (st / 2) x ((bits x.src 63 48 + x.next) / 8) (upFrom (sx / 8) ((sx + pipeCols s st x - 1) / 8 - sx / 8 + 1)) s

section

variable (hdom : domOn s 42 = true) (hst : (pipeAt s p).stream = some st) (hon : streamOn s st = true)
  (hfault : fget s F.DSP_PIPE_STATUS.FAULTED 0 p = 0) (hrec : recovering s (0x120 + st / 2) = false)
  (hrows : (pipeAt s p).next < pipeRows s st (pipeAt s p))
  (hroom : (pipeAt s p).lines.length + fetchStep s st (pipeAt s p) ≤ bits (pipeAt s p).buf 27 21)

include hdom hst hon hfault hrec hrows hroom

/-- A fetch of a pipe that has room and rows left. -/
theorem pipeFetch_runs : pipeFetch p s =
    let x := pipeAt s p
    if pipeCols s st x = 0 then (upFrom x.next (fetchStep s st x)).foldl (fun s y => storeRow p s y ([], [])) s
    else if bit x.ctl 22 then
      let b := nextBlocks s st x
      if b.1 ≠ .ok then fetchFault b.2.2 p
      else (upFrom x.next (fetchStep s st x)).foldl (fun t y => storeRow p t y (surfaceRow x (pipeCols s st x) y b.2.1)) b.2.2
    else
      let r := plainRow s (st / 2) x (pipeCols s st x) x.next
      if r.1 ≠ .ok then fetchFault r.2.2 p else storeRow p r.2.2 x.next r.2.1 := by
  have hgo : ¬ (¬ domOn s 42 = true ∨ recovering s (0x120 + st / 2) = true ∨ ¬ streamOn s st = true
      ∨ flag s F.DSP_PIPE_STATUS.FAULTED 0 p = true ∨ pipeRows s st (pipeAt s p) ≤ (pipeAt s p).next
      ∨ bits (pipeAt s p).buf 27 21 < (pipeAt s p).lines.length + fetchStep s st (pipeAt s p)) := by
    simp [hdom, hrec, hon, flag_eq_false hfault, hrows, hroom]
  rw [pipeFetch, hst]
  dsimp only
  exact if_neg hgo

theorem pipeFetch_uncovered (hcols : pipeCols s st (pipeAt s p) = 0) : pipeFetch p s =
    (upFrom (pipeAt s p).next (fetchStep s st (pipeAt s p))).foldl (fun s y => storeRow p s y ([], [])) s :=
  (pipeFetch_runs hdom hst hon hfault hrec hrows hroom).trans (if_pos hcols)

theorem pipeFetch_plain (hcols : pipeCols s st (pipeAt s p) ≠ 0) (hsurf : bit (pipeAt s p).ctl 22 = false) : pipeFetch p s =
    let r := plainRow s (st / 2) (pipeAt s p) (pipeCols s st (pipeAt s p)) (pipeAt s p).next
    if r.1 ≠ .ok then fetchFault r.2.2 p else storeRow p r.2.2 (pipeAt s p).next r.2.1 :=
  (pipeFetch_runs hdom hst hon hfault hrec hrows hroom).trans ((if_neg hcols).trans (if_neg (ne_true_of_eq_false hsurf)))

theorem pipeFetch_surface (hcols : pipeCols s st (pipeAt s p) ≠ 0) (hsurf : bit (pipeAt s p).ctl 22 = true) : pipeFetch p s =
    let x := pipeAt s p
    let b := nextBlocks s st x
    if b.1 ≠ .ok then fetchFault b.2.2 p
    else (upFrom x.next (fetchStep s st x)).foldl (fun t y => storeRow p t y (surfaceRow x (pipeCols s st x) y b.2.1)) b.2.2 :=
  (pipeFetch_runs hdom hst hon hfault hrec hrows hroom).trans ((if_neg hcols).trans (if_pos hsurf))

end

end

section

variable {s : State} {x : Nat}

/-- The next line of a stream is reached: the rows up to it leave the buffers. -/
def lineDone (s : State) (x y : Nat) : State := passRows (onStream s x fun z => { z with line := y + 1 }) x y

/-- A line in the fail-safe colour of the stream's output. -/
def failLine (s : State) (x : Nat) : State :=
  sendLine s x (streamAt s x).line (List.replicate (fget s F.DSP_TIMING_H.ACTIVE 0 x) (failCodes s (x / 2) (bpcOf (streamAt s x).ctl))).flatten

/-- Scanout of an active line: in the fail-safe colour on a held output. -/
theorem scanout_active (hx : x < 8) (hon : streamOn s x = true) (hline : (streamAt s x).line < fget s F.DSP_TIMING_V.ACTIVE 0 x) : scanout x s =
    if flag s F.DSP_OUT_STATUS.HELD 0 (x / 2) ∨ (streamAt s x).shroud then lineDone (failLine s x) x (streamAt s x).line
    else if failsafe s ∨ dieRunning s ∨ ¬ domOn s 42 then s else lineDone (scanLine s x (streamAt s x).line) x (streamAt s x).line := by
  have hgo : ¬ (8 ≤ x ∨ ¬ streamOn s x = true ∨ fget s F.DSP_TIMING_V.ACTIVE 0 x ≤ (streamAt s x).line) := by simp [hx, hon, hline]
  rw [scanout]
  exact if_neg hgo

theorem exec_scanoutLine (hp : Safety.powered s) (x : Nat) : exec (.scanoutLine x) s = .next (scanout x s) := powered_next hp _

theorem exec_writebackLine (hx : x < 8) (h : Safety.unitRuns s (0x120 + x / 2)) :
    exec (.writebackLine x) s = .next (unlessWaiting s (writebackLine x s)) := by
  change execWritebackLine x s = _
  rw [execWritebackLine, unitStep_next h, if_neg (Nat.not_le.mpr hx)]
  rfl

/-- Writeback of the oldest line that waits. -/
theorem writebackLine_cons {y a : Nat} {b : List Byte} {rest : List (Nat × Nat × List Byte)} (hdom : domOn s 42 = true)
    (hl : (streamAt s x).wbLines = (y, a, b) :: rest) : writebackLine x s =
    let u := onStream s x fun z => { z with wbLines := rest }
    let w := vwrite u (211 + x / 2) 4 0 (fget s F.DSP_OUT_AS.ASID 0 (x / 2)) 0 a b
    if w.1 ≠ .ok then dspIrq (fset (onStream w.2 x fun z => { z with wbLines := [] }) F.DSP_STREAM_STATUS.WB_FAULT 1 0 x) (2 ^ 29)
    else if y + 1 = fget u F.DSP_TIMING_V.ACTIVE 0 x then dspIrq (fset w.2 F.DSP_STREAM_STATUS.WB_INCOMPLETE 0 0 x) (2 ^ (16 + x))
    else w.2 := by
  rw [writebackLine, hl]
  exact if_neg (not_not_intro hdom)

end

/-! ### Hot plug and links -/

section

variable {s : State} {n : Nat}

section

variable (hn : n < 4) (high : Bool) (k : State → State) (hchange : hpdHigh s n ≠ high)

include hn hchange

/-- In fail-safe and while the die recovers only the level changes. -/
theorem hpdEdge_stopped (hp : Safety.powered s) (h : failsafe s = true ∨ dieRunning s = true) : hpdEdge s n high k = .next (hpdSet s n high) := by
  have hgo : ¬ (4 ≤ n ∨ hpdHigh s n = high) := by simp [hn, hchange]
  rw [hpdEdge, powered_next hp, if_neg hgo]
  exact congrArg _ (if_pos h)

theorem hpdEdge_runs (h : Safety.engines s) :
    hpdEdge s n high k = .next (k (hotplug (hpdEvent (hpdSet s n high) n F.DSP_OUT_STATUS.HPD_CHANGE) n)) := by
  obtain ⟨hp, hf, hd⟩ := h
  have hgo : ¬ (4 ≤ n ∨ hpdHigh s n = high) := by simp [hn, hchange]
  have hrun : ¬ (failsafe s = true ∨ dieRunning s = true) := by simp [hf, hd]
  rw [hpdEdge, powered_next hp, if_neg hgo]
  exact congrArg _ (if_neg hrun)

end

theorem hpdHigh_ne_true (h : n ∉ s.boot.hpd) : hpdHigh s n ≠ true := by simpa [hpdHigh] using h

theorem hpdHigh_ne_false (h : n ∈ s.boot.hpd) : hpdHigh s n ≠ false := by simpa [hpdHigh] using h

theorem exec_hpdIrqPulse (hn : n < 4) (h : Safety.engines s) (hhigh : n ∈ s.boot.hpd) (lost : Bool) : exec (.hpdIrqPulse n lost) s =
    let t := hpdEvent s n F.DSP_OUT_STATUS.HPD_IRQ
    .next (if lost = true ∧ fget t F.DSP_OUT_STATUS.STATE 0 n = 2 then fset t F.DSP_OUT_STATUS.STATE 3 0 n else t) := by
  have hgo : ¬ (4 ≤ n ∨ ¬ hpdHigh s n = true) := by simp [hn, hpdHigh, hhigh]
  change execHpdIrqPulse n lost s = _
  rw [execHpdIrqPulse, engineStep_next h, if_neg hgo]
  rfl

theorem exec_linkTrainingDone (hn : n < 4) (h : Safety.engines s) (htrain : fget s F.DSP_OUT_STATUS.STATE 0 n = 1) (ok : Bool) :
    exec (.linkTrainingDone n ok) s = .next (if ok then fset s F.DSP_OUT_STATUS.STATE 2 0 n
      else fset (fset (fset s F.DSP_OUT_STATUS.STATE 0 0 n) F.DSP_OUT_CTL.EN 0 0 n) F.DSP_OUT_STATUS.TRAIN_FAIL 1 0 n) := by
  have hgo : ¬ (4 ≤ n ∨ linkState s n ≠ 1) := by simp [hn, linkState, htrain]
  change execLinkTrainingDone n ok s = _
  rw [execLinkTrainingDone, engineStep_next h, if_neg hgo]

theorem exec_dspOutCtlWrite (hn : n < 4) (h : Safety.writable s .DSP_OUT_CTL 0 n) (v : Nat) :
    exec (.dspOutCtlWrite n v) s = .next (outCtlWrite s n v) := by
  change execDspOutCtlWrite n v s = _
  rw [execDspOutCtlWrite, if_neg (Nat.not_le.mpr hn), busWrite_next h]

end

/-! ### AUX -/

section

variable {s : State} {n : Nat}

/-- A transaction of output n runs. -/
def auxBusy (s : State) (n : Nat) (r : AuxRun) : State :=
  { fset s F.DSP_AUX_RESULT.BUSY 1 0 n with dsp := { s.dsp with aux := tset s.dsp.aux n r } }

section

variable {addr len : Nat} (hn : n < 4) (h : Safety.writable s .DSP_AUX_CMD 0 n)

include hn h

theorem auxStart_busy (hbusy : fget s F.DSP_AUX_RESULT.BUSY 0 n = 1) (op : Nat) : auxStart n op addr len s = .next s := by
  rw [auxStart, if_neg (Nat.not_le.mpr hn), busWrite_next h, if_pos (flag_eq_true hbusy)]

theorem auxStart_free (haddr : addr < 2 ^ 20) (hlen : len < 16) (hbusy : fget s F.DSP_AUX_RESULT.BUSY 0 n = 0) (op : Nat) :
    auxStart n op addr len s = .next (auxSend (auxBusy s n { op := op, addr := addr, len := len + 1 }) n { op := op, addr := addr, len := len + 1 }) := by
  rw [auxStart, if_neg (Nat.not_le.mpr hn), busWrite_next h, if_neg (ne_true_of_eq_false (flag_eq_false hbusy)), Nat.mod_eq_of_lt haddr,
    Nat.mod_eq_of_lt hlen]
  rfl

end

section

variable {r : AuxRun} (hn : n < 4) (h : Safety.engines s) (hr : tget s.dsp.aux n = some r)

include hn h hr

theorem exec_auxReply {reply : Nat} (hreply : reply ≤ 2) (data : List Byte) (count : Nat) : exec (.auxReply n reply data count) s = .next (
    if reply = 2 ∧ r.defers < 7 then auxSend { s with dsp := { s.dsp with aux := tset s.dsp.aux n { r with defers := r.defers + 1 } } } n r
    else if r.op = 1 ∨ r.op = 3 then
      let d := if reply = 0 then data.take r.len else []
      let all := d ++ (auxData s n 16).drop d.length
      auxEnd ((List.range 4).foldl (fun s i => rset s .DSP_AUX_DATA (fieldAt all (4 * i) 4) n i) s) n reply d.length
    else auxEnd s n reply (Nat.min count r.len)) := by
  have hgo : ¬ (4 ≤ n ∨ 2 < reply) := by omega
  change execAuxReply n reply data count s = _
  rw [execAuxReply, engineStep_next h, if_neg hgo, auxReply, hr]

omit hn in
theorem exec_auxTimeout : exec (.auxTimeout n) s = .next (auxEnd s n 3 0) := by
  change execAuxTimeout n s = _
  rw [execAuxTimeout, engineStep_next h, hr]
  rfl

end

end

/-- Settles O44. That fail-safe and a die recovery follow the level alone is deduced (logs 60 and 91). -/
theorem linesAndLinks : Obligations.LinesAndLinks := by
  refine ⟨fun s p st hp h hdom hst hon hfault hrec => ?fetch, fun s x hx hp hon => ?scanout, fun s x y a b rest hx h hdom hl => ?writeback,
    fun s n hn => ?hpd, fun s n v hn h => ?outCtl, fun s n addr len hn haddr hlen h => ?aux, fun s n reply count data r hn hreply h hr => ?reply⟩
  case fetch =>
    intro x rows cols sx step ends hrows hroom
    rw [exec_pipeLineFetch hp h]
    refine ⟨fun hcols => congrArg (fun t => Host.Outcome.next (unlessWaiting s t)) (pipeFetch_uncovered hdom hst hon hfault hrec hrows hroom hcols),
      fun hcols hsurf => congrArg (fun t => Host.Outcome.next (unlessWaiting s t)) (pipeFetch_plain hdom hst hon hfault hrec hrows hroom hcols hsurf),
      fun hcols hsurf => ?_⟩
    intro b
    have hs := pipeFetch_surface hdom hst hon hfault hrec hrows hroom hcols hsurf
    exact congrArg (fun t => Host.Outcome.next (unlessWaiting s t)) hs
  case scanout =>
    intro st hline
    rw [exec_scanoutLine hp, scanout_active hx hon hline]
    refine ⟨fun hheld hshroud ⟨_, hf, hd⟩ hdom => congrArg _ ?_, fun hheld => congrArg _ (if_pos ?_)⟩
    · have hfree : ¬ (flag s F.DSP_OUT_STATUS.HELD 0 (x / 2) = true ∨ (streamAt s x).shroud = true) := by
        rw [flag_eq_false hheld, show (streamAt s x).shroud = false from hshroud]
        decide
      have hrun : ¬ (failsafe s = true ∨ dieRunning s = true ∨ ¬ domOn s 42 = true) := by simp [hf, hd, hdom]
      exact (if_neg hfree).trans (if_neg hrun)
    · exact hheld.imp flag_eq_true id
  case writeback =>
    intro u w ends
    rw [exec_writebackLine hx h, writebackLine_cons hdom hl]
    refine ⟨fun hw hmore => congrArg (fun t => Host.Outcome.next (unlessWaiting s t)) ((if_neg (not_not_intro hw)).trans (if_neg hmore)),
      fun hw hlast => congrArg (fun t => Host.Outcome.next (unlessWaiting s t)) ((if_neg (not_not_intro hw)).trans (if_pos hlast)),
      fun hw => congrArg (fun t => Host.Outcome.next (unlessWaiting s t)) (if_pos hw)⟩
  case hpd =>
    intro event told
    refine ⟨fun hp hstop => ⟨fun hlow => ?_, fun hhigh => ?_⟩, fun h => ⟨fun hlow t ht => ?_, fun hhigh t ht => ?_, fun hhigh t lost ht => ?_,
      fun htrain => ⟨exec_linkTrainingDone hn h htrain true, exec_linkTrainingDone hn h htrain false⟩⟩⟩
    · exact hpdEdge_stopped hn true _ (hpdHigh_ne_true hlow) hp hstop
    · exact hpdEdge_stopped hn false _ (hpdHigh_ne_false hhigh) hp hstop
    · subst ht
      exact hpdEdge_runs hn true _ (hpdHigh_ne_true hlow) h
    · subst ht
      exact hpdEdge_runs hn false _ (hpdHigh_ne_false hhigh) h
    · subst ht
      exact exec_hpdIrqPulse hn h hhigh lost
  case outCtl =>
    intro t mst
    rw [exec_dspOutCtlWrite hn h]
    refine ⟨fun hbad => congrArg _ (if_pos hbad), fun hrate hlanes hmst => ?_⟩
    have hok : ¬ (6 < bits v 27 24 ∨ bits v 23 22 = 3 ∨ (outputOn s n = true ∧ bits v 30 30 ≠ fget s F.DSP_OUT_CTL.MST 0 n)) := by
      rintro (h | h | h)
      · exact Nat.not_lt.mpr hrate h
      · exact hlanes h
      · exact hmst h
    exact ⟨fun hen => congrArg _ ((if_neg hok).trans (if_neg (ne_true_of_eq_false hen))), fun hen => congrArg _ ((if_neg hok).trans (if_pos hen))⟩
  case aux =>
    intro run
    refine ⟨fun hbusy => ⟨auxStart_free hn h haddr hlen hbusy 1, auxStart_free hn h haddr hlen hbusy 2, auxStart_free hn h haddr hlen hbusy 3,
      auxStart_free hn h haddr hlen hbusy 4⟩, fun hbusy c hc => ?_⟩
    simp only [List.mem_cons, List.not_mem_nil, or_false] at hc
    rcases hc with rfl | rfl | rfl | rfl
    · exact auxStart_busy hn h hbusy 1
    · exact auxStart_busy hn h hbusy 2
    · exact auxStart_busy hn h hbusy 3
    · exact auxStart_busy hn h hbusy 4
  case reply =>
    rw [exec_auxReply hn h hr hreply]
    have hend (hlast : reply ≠ 2 ∨ 7 ≤ r.defers) : ¬ (reply = 2 ∧ r.defers < 7) := by omega
    exact ⟨fun h2 hdefers => congrArg _ (if_pos ⟨h2, hdefers⟩), fun hlast hop => congrArg _ ((if_neg (hend hlast)).trans (if_neg hop)),
      fun hlast hop => congrArg _ ((if_neg (hend hlast)).trans (if_pos hop)), exec_auxTimeout h hr⟩

end Sys2Proof.Proofs

/-!
## Configuration, link power, wake events and resets (O46)
-/

namespace Sys2Proof.Proofs

open Machine Laws

/-! ### Configuration -/

section

variable {s : State} {f : Nat}

theorem mem_nins (l : List Nat) (q : Nat) : q ∈ nins l q := by
  induction l with
  | nil => exact List.mem_singleton_self q
  | cons k t ih =>
    rw [nins]
    split
    · exact List.mem_cons_self
    · split
      · next h => exact h ▸ List.mem_cons_self
      · exact List.mem_cons_of_mem k ih

theorem not_mem_ndel (l : List Nat) (q : Nat) : q ∉ ndel l q := fun h => by simpa using (List.mem_filter.mp h).2

theorem exec_pcieConfigRequest (hp : Safety.powered s) (r : CfgReq) : exec (.pcieConfigRequest f r) s = .next (
    if fget s F.BOOT_STATUS.RESULT = 0 then send s .requestRetry
    else if ¬ fnExists s f ∨ (recoveryId s ∧ f ≠ 0) then unsupported s
    else send (cfgApply f r s).2 (.config (cfgApply f r s).1)) := powered_next hp _

/-- A request to a function that answers. -/
theorem exec_pcieConfigRequest_answered (hp : Safety.powered s) (hres : fget s F.BOOT_STATUS.RESULT ≠ 0) (hf : fnExists s f = true)
    (hid : recoveryId s = false ∨ f = 0) (r : CfgReq) : exec (.pcieConfigRequest f r) s = .next (send (cfgApply f r s).2 (.config (cfgApply f r s).1)) := by
  have hgo : ¬ (¬ fnExists s f = true ∨ (recoveryId s = true ∧ f ≠ 0)) := by
    rintro (h | ⟨h, h0⟩)
    · exact h hf
    · exact hid.elim (fun hid => ne_true_of_eq_false hid h) h0
  rw [exec_pcieConfigRequest hp, if_neg hres, if_neg hgo]

theorem exec_pcieConfigRequest_absent (hp : Safety.powered s) (hres : fget s F.BOOT_STATUS.RESULT ≠ 0) (hf : fnExists s f = false)
    (hfs : failsafe s = false) (r : CfgReq) : exec (.pcieConfigRequest f r) s = .next (send (send s .unsupportedRequest) (.aer .unsupportedRequest)) := by
  rw [exec_pcieConfigRequest hp, if_neg hres, if_pos (.inl (ne_true_of_eq_false hf)), unsupported, aer_eq (s := send s .unsupportedRequest) hfs]

theorem fnCfg_onCfg_same (s : State) (f : Nat) (k : FnCfg → FnCfg) : fnCfg (onCfg s f k) f = k (fnCfg s f) := by
  simp [fnCfg, onCfg, tgetD]

theorem fnCfg_onCfg_ne (s : State) {f g : Nat} (k : FnCfg → FnCfg) (h : g ≠ f) : fnCfg (onCfg s f k) g = fnCfg s g := by
  rw [fnCfg, fnCfg, tgetD, tgetD, onCfg, tget_tmod_ne _ _ _ h]

theorem fnCfg_send (s : State) (m : OutMsg) (f : Nat) : fnCfg (send s m) f = fnCfg s f := rfl

theorem recoveryId_eq_false (h : fget s F.BOOT_STATUS.RESULT = 1) : recoveryId s = false := by
  rw [recoveryId, h]
  rfl

theorem cfgApply_identity (hid : recoveryId s = false) : cfgApply f .identity s =
    (natLe s.boot.image.vendor 2 ++ natLe 0x9600 2 ++ natLe s.boot.image.subVendor 2
        ++ natLe s.boot.image.subId 2 ++ natLe s.boot.image.classCode 3 ++ natLe s.boot.image.revision 1, s) :=
  congrArg (·, s) (if_neg (ne_true_of_eq_false hid))

theorem cfgApply_msixControl (hid : recoveryId s = false) (en mask : Bool) :
    cfgApply f (.msixControl en mask) s = ([], onCfg s f fun c => { c with msixEnable := en, fnMask := mask }) :=
  congrArg ([], ·) (if_neg (ne_true_of_eq_false hid))

theorem mem_atsEnabled (en : Bool) : f ∈ (cfgApply f (.ats en) s).2.xlt.atsEnabled ↔ en = true := by
  cases en
  · exact ⟨fun h => absurd h (not_mem_ndel _ f), fun h => absurd h Bool.false_ne_true⟩
  · exact ⟨fun _ => rfl, fun _ => mem_nins _ f⟩

/-! ### The link's power states -/

theorem exec_resizableBarControlWrite (hp : Safety.powered s) (hid : recoveryId s = false) {n : Nat} (hlo : 28 ≤ n) (hhi : n ≤ 38) (vf : Bool) :
    exec (.resizableBarControlWrite vf n) s = .next (if vf then (if s.hif.vfMemSpace then s else { s with hif := { s.hif with vfBar2 := some n } })
      else if (fnCfg s 0).memSpace then s else onCfg s 0 fun c => { c with bar2 := some n }) := by
  have hgo : ¬ (n < 28 ∨ 38 < n ∨ recoveryId s = true) := by
    simp [hid, hlo, hhi]
  exact (powered_next hp _).trans (congrArg _ (if_neg hgo))

/-- The end of a window in which half the lanes would have done. -/
theorem exec_l0pWindow {up down : Nat} (hp : Safety.powered s) (hf : failsafe s = false) (h0 : s.time ≠ 0) (hwin : s.time % 100000 = 0)
    (hen : fget s F.HIF_LINK_CTL.L0P_EN = 1) (hmin : 2 ^ fget s F.HIF_LINK_CTL.L0P_MIN ≤ fget s F.HIF_LINK.ACTIVE / 2)
    (hup : 4 * up < laneBytes s (fget s F.HIF_LINK.ACTIVE / 2)) (hdown : 4 * down < laneBytes s (fget s F.HIF_LINK.ACTIVE / 2))
    (hl : fget s F.HIF_LINK.LSTATE ≤ 1) (granted : Bool) : exec (.l0pWindow up down granted) s =
    let w := fget s F.HIF_LINK.ACTIVE / 2
    let t := send s (.linkRequest false w)
    .next (if granted then fset (fset { t with hif := { t.hif with waiting := (0, 0) } } F.HIF_LINK.ACTIVE w) F.HIF_LINK.LSTATE 1 else t) := by
  have hgo : ¬ (failsafe s = true ∨ s.time = 0 ∨ s.time % 100000 ≠ 0 ∨ ¬ flag s F.HIF_LINK_CTL.L0P_EN = true
      ∨ narrower (fget s F.HIF_LINK.ACTIVE) < 2 ^ fget s F.HIF_LINK_CTL.L0P_MIN
      ∨ ¬ (decide (4 * up < laneBytes s (narrower (fget s F.HIF_LINK.ACTIVE))) && decide (4 * down < laneBytes s (narrower (fget s F.HIF_LINK.ACTIVE)))) = true
      ∨ 1 < fget s F.HIF_LINK.LSTATE) := by
    simp [narrower, hf, h0, hwin, flag_eq_true hen, hmin, hup, hdown, hl]
  exact (powered_next hp _).trans (congrArg _ (if_neg hgo))

theorem exec_l1IdleExpiry (hp : Safety.powered s) (hf : failsafe s = false) (hidle : fget s F.HIF_LINK_CTL.L1_IDLE_US ≠ 0)
    (hspeed : fget s F.HIF_LINK.SPEED ≠ 0) (hl : fget s F.HIF_LINK.LSTATE ≤ 1) (hpba : s.hif.pba = []) (granted : Bool) :
    exec (.l1IdleExpiry granted) s =
      .next (if granted then fset (send s (.linkRequest true 0)) F.HIF_LINK.LSTATE 2 else send s (.linkRequest true 0)) := by
  have hgo : ¬ (failsafe s = true ∨ fget s F.HIF_LINK_CTL.L1_IDLE_US = 0 ∨ fget s F.HIF_LINK.SPEED = 0 ∨ 1 < fget s F.HIF_LINK.LSTATE ∨ s.hif.pba ≠ []) := by
    simp [hf, hidle, hspeed, hl, hpba]
  exact (powered_next hp _).trans (congrArg _ (if_neg hgo))

end

/-! ### Wake events -/

section

variable {s : State} {code detail : Nat}

/-- The cause that a wake event records: the lowest code of those in the same clock. -/
def wakeMarked (s : State) (code detail : Nat) : State :=
  if rget s .PWR_WAKE_TIME = s.time ∧ fget s F.PWR_WAKE_CAUSE.CAUSE ≠ 0 ∧ fget s F.PWR_WAKE_CAUSE.CAUSE ≤ code then s
  else fset (fset s F.PWR_WAKE_CAUSE.CAUSE code) F.PWR_WAKE_CAUSE.DETAIL detail

theorem wakeMarked_time : (wakeMarked s code detail).time = s.time := by
  rw [wakeMarked]
  split
  · rfl
  · rw [fset_time, fset_time]

theorem keepsReg_wakePcie {r : Reg} (hr : r ∉ resetTail) (s : State) : KeepsReg r s (wakePcie s) := by
  have hcfg (s : State) : KeepsReg r s (onCfg s 0 fun c => { c with pmeStatus := true }) := keepsReg_of_eq rfl rfl
  unfold wakePcie
  refine keepsReg_ite (keepsReg_ite (keepsReg_of_eq rfl rfl) (.refl r s)) (keepsReg_ite (keepsReg_ite ?_ (hcfg s)) (.refl r s))
  exact (keepsReg_ite ((hcfg s).trans (keepsReg_linkWake hr _)) (hcfg s)).trans (keepsReg_of_eq rfl rfl)

/-- After the cause and the time, a wake event writes the link's and Sillage's registers only. -/
theorem keepsReg_wakeEvent {r : Reg} (hr : r ∉ resetTail) (hsil : r ≠ .PWR_SILLAGE) :
    KeepsReg r (rset (wakeMarked s code detail) .PWR_WAKE_TIME (wakeMarked s code detail).time) (wakeEvent s code detail) := by
  have hseen (s : State) : KeepsReg r s (wakePcie (onPwr s fun p => { p with wakeSeen := true })) :=
    (keepsReg_of_eq rfl rfl).trans (keepsReg_wakePcie hr _)
  exact (hseen _).trans (keepsReg_ite (.refl r _) (keepsReg_fset hsil ..))

theorem rget_wakeEvent_time : rget (wakeEvent s code detail) .PWR_WAKE_TIME = s.time % 2 ^ 64 := by
  rw [(keepsReg_wakeEvent (by decide) (by decide)).1, rget_rset_mod (by decide) (by decide), wakeMarked_time]

theorem fget_wakeEvent_cause : fget (wakeEvent s code detail) F.PWR_WAKE_CAUSE.CAUSE = fget (wakeMarked s code detail) F.PWR_WAKE_CAUSE.CAUSE := by
  rw [(keepsReg_wakeEvent (by decide) (by decide)).fget, fget, fget, rget_rset_ne (by decide)]

theorem wakeEvent_first (h : rget s .PWR_WAKE_TIME ≠ s.time ∨ fget s F.PWR_WAKE_CAUSE.CAUSE = 0 ∨ code < fget s F.PWR_WAKE_CAUSE.CAUSE) :
    fget (wakeEvent s code detail) F.PWR_WAKE_CAUSE.CAUSE = code % 256 := by
  have hgo : ¬ (rget s .PWR_WAKE_TIME = s.time ∧ fget s F.PWR_WAKE_CAUSE.CAUSE ≠ 0 ∧ fget s F.PWR_WAKE_CAUSE.CAUSE ≤ code) := by
    rintro ⟨htime, hcause, hle⟩
    rcases h with h | h | h
    · exact h htime
    · exact hcause h
    · exact Nat.not_lt.mpr hle h
  rw [fget_wakeEvent_cause, wakeMarked, if_neg hgo, fget_fset_above (f := F.PWR_WAKE_CAUSE.DETAIL) (g := F.PWR_WAKE_CAUSE.CAUSE)
    (by decide) (by decide) rfl (by decide) (by decide) (by decide)]
  exact fget_fset_same (by decide) (by decide) (by decide) (by decide)

theorem wakeEvent_kept (htime : rget s .PWR_WAKE_TIME = s.time) (hcause : fget s F.PWR_WAKE_CAUSE.CAUSE ≠ 0)
    (hle : fget s F.PWR_WAKE_CAUSE.CAUSE ≤ code) : fget (wakeEvent s code detail) F.PWR_WAKE_CAUSE.CAUSE = fget s F.PWR_WAKE_CAUSE.CAUSE := by
  rw [fget_wakeEvent_cause, wakeMarked, if_pos ⟨htime, hcause, hle⟩]

theorem exec_wakeEvent (hp : Safety.powered s) (code detail : Nat) : exec (.wakeEvent code detail) s = .next (
    if code = 1 then hostExit (wakeEvent s 1 0)
    else if (code, detail) ∈ s.pwr.wakes then wakeEvent (onPwr s fun p => { p with wakes := p.wakes.erase (code, detail) }) code detail
    else s) := powered_next hp _

end

/-! ### Resets of functions -/

section

variable {s : State} {f : Nat}

theorem exec_vfFlr (hp : Safety.powered s) (f : Nat) : exec (.vfFlr f) s = .next (if f = 0 ∨ ¬ fnExists s f then s
    else if failsafe s then { s with hif := { s.hif with cfg := tdel s.hif.cfg f } } else flrStart s f) := powered_next hp _

theorem exec_vfFlr_exists (hp : Safety.powered s) (h0 : f ≠ 0) (hf : fnExists s f = true) : exec (.vfFlr f) s =
    .next (if failsafe s then { s with hif := { s.hif with cfg := tdel s.hif.cfg f } } else flrStart s f) := by
  have hgo : ¬ (f = 0 ∨ ¬ fnExists s f = true) := by simp [h0, hf]
  rw [exec_vfFlr hp, if_neg hgo]

theorem exec_vfEnableClear (hp : Safety.powered s) : exec .vfEnableClear s = .next (
    if failsafe s then eachVf (fun s f => { s with hif := { s.hif with cfg := tdel s.hif.cfg f } }) s else eachVf flrStart s) := powered_next hp _

theorem eachVf_vfEnable (k : State → Nat → State) (s : State) : (eachVf k s).hif.vfEnable = false := rfl

theorem exec_pfFlr (hp : Safety.powered s) : exec .pfFlr s = .next (pfFlr s) := powered_next hp _

theorem intView_hif (s : State) : (intView s).hif = s.hif := by simp [intView]

/-- However it goes, a PF FLR ends with the configuration at its reset. -/
theorem pfFlr_config (s : State) : (pfFlr s).hif.cfg = [] ∧ (pfFlr s).hif.vfEnable = false ∧ (pfFlr s).hif.numVFs = 0 := by
  rw [pfFlr]
  split
  · exact ⟨rfl, rfl, rfl⟩
  · rw [intView_hif]
    exact ⟨rfl, rfl, rfl⟩

/-! ### Windows -/

theorem vfWinWrite_refused {v : Nat} (h : 95232 < bits v 37 21 + bits v 58 42 ∨ (s.hif.vfEnable = true ∧ s.hif.vfMemSpace = true)) :
    vfWinWrite s f v = s :=
  if_pos (.inr (.inr (h.imp id .inl)))

theorem vfWinWrite_taken {v : Nat} (hlo : 1 ≤ f) (hhi : f ≤ 15) (hsize : bits v 37 21 + bits v 58 42 ≤ 95232) (hmem : s.hif.vfMemSpace = false)
    (hfree : ∀ g, 1 ≤ g → g ≤ 15 → g ≠ f →
      winsOverlap (bits v 37 21, bits v 58 42) (fget s F.HIF_VF_WIN.BASE 0 g, fget s F.HIF_VF_WIN.SIZE 0 g) = false) :
    vfWinWrite s f v = rset s .HIF_VF_WIN (Reg.written .HIF_VF_WIN (rget s .HIF_VF_WIN 0 f) v (2 ^ 64 - 1)) 0 f := by
  have hany : ((upFrom 1 15).filter fun g => g ≠ f).any
      (fun g => winsOverlap (bits v 37 21, bits v 58 42) (fget s F.HIF_VF_WIN.BASE 0 g, fget s F.HIF_VF_WIN.SIZE 0 g)) = false := by
    rw [List.any_eq_false]
    intro g hg
    obtain ⟨hin, hne⟩ := List.mem_filter.mp hg
    have hrange : 1 ≤ g ∧ g ≤ 15 := by
      have := List.mem_range'_1.mp hin
      omega
    exact ne_true_of_eq_false (hfree g hrange.1 hrange.2 (by simpa using hne))
  have hgo : ¬ (f = 0 ∨ 15 < f ∨ 95232 < bits v 37 21 + bits v 58 42 ∨ (s.hif.vfEnable = true ∧ s.hif.vfMemSpace = true)
      ∨ ((upFrom 1 15).filter fun g => g ≠ f).any
        (fun g => winsOverlap (bits v 37 21, bits v 58 42) (fget s F.HIF_VF_WIN.BASE 0 g, fget s F.HIF_VF_WIN.SIZE 0 g)) = true) := by
    rw [hany, hmem]
    simp
    omega
  exact if_neg hgo

end

/-- Settles O46. That half the lanes is the next narrower width is the model's choice (log 80), that a PF FLR resets configuration is
presumed (log 82). -/
theorem linkAndFunctionRows : Obligations.LinkAndFunctionRows := by
  refine ⟨fun s f r hp => ?config, fun s n hp hid hlo hhi => ?bar, fun s up down hp hf => ?link, fun s code detail hp hcode => ?wake,
    fun s hp => ?flr, fun s f v hlo hhi h => ?window⟩
  case config =>
    refine ⟨fun h0 => (exec_pcieConfigRequest hp r).trans (congrArg _ (if_pos h0)),
      fun h1 hf hfs => exec_pcieConfigRequest_absent hp (by omega) hf hfs r,
      fun h0 hf hid => exec_pcieConfigRequest_answered hp h0 hf hid r, fun h1 hf => ?_⟩
    have hid := recoveryId_eq_false h1
    have hans (r : CfgReq) := exec_pcieConfigRequest_answered hp (by omega) hf (.inl hid) r
    refine ⟨?_, fun en mask => ⟨_, hans _, ?_⟩, fun mse => ⟨_, hans _, ?_⟩, fun en => ⟨_, hans _, mem_atsEnabled en⟩⟩
    · rw [hans, cfgApply_identity hid]
    · rw [cfgApply_msixControl hid, fnCfg_send, fnCfg_onCfg_same]
      exact ⟨rfl, rfl, rfl, fun g hg => fnCfg_onCfg_ne s (fun c => { c with msixEnable := en, fnMask := mask }) hg⟩
    · rw [cfgApply, fnCfg_send, fnCfg_onCfg_same]
      exact ⟨rfl, rfl, fun g hg => fnCfg_onCfg_ne s (fun c => { c with memSpace := mse }) hg⟩
  case bar =>
    have hwrite := exec_resizableBarControlWrite hp hid hlo hhi
    refine ⟨fun hmem => ⟨_, hwrite false, ?_⟩, fun hmem => (hwrite false).trans (congrArg _ (if_pos hmem)),
      fun hmem => (hwrite true).trans (congrArg _ (if_neg (ne_true_of_eq_false hmem))), fun hmem => (hwrite true).trans (congrArg _ (if_pos hmem))⟩
    rw [if_neg (by decide), if_neg (ne_true_of_eq_false hmem), fnCfg_onCfg_same]
  case link =>
    refine ⟨fun h0 hwin hen hmin hup hdown hl => ?_, fun hidle hspeed hl hpba => ?_⟩
    · exact ⟨exec_l0pWindow hp hf h0 hwin hen hmin hup hdown hl true, exec_l0pWindow hp hf h0 hwin hen hmin hup hdown hl false⟩
    · exact ⟨exec_l1IdleExpiry hp hf hidle hspeed hl hpba true, exec_l1IdleExpiry hp hf hidle hspeed hl hpba false⟩
  case wake =>
    refine ⟨fun hin => ?_, fun hout => ?_, exec_wakeEvent hp 1 detail, rget_wakeEvent_time, wakeEvent_first, wakeEvent_kept⟩
    · rw [exec_wakeEvent hp, if_neg hcode, if_pos hin]
    · rw [exec_wakeEvent hp, if_neg hcode, if_neg hout]
  case flr =>
    refine ⟨fun f h0 hf hfs hflr => ?_, fun f h0 hf hfs hflr => ?_, fun f h0 hf hfs => ?_, fun f h => ?_, fun hfs => ?_, ?_, fun hfs => ?_,
      ⟨_, exec_pfFlr hp, pfFlr_config s⟩⟩
    · rw [exec_vfFlr_exists hp h0 hf, if_neg (ne_true_of_eq_false hfs)]
      exact congrArg _ (if_neg (ne_true_of_eq_false hflr))
    · rw [exec_vfFlr_exists hp h0 hf, if_neg (ne_true_of_eq_false hfs)]
      exact congrArg _ (if_pos hflr)
    · rw [exec_vfFlr_exists hp h0 hf, if_pos hfs]
    · rw [exec_vfFlr hp, if_pos (h.imp id ne_true_of_eq_false)]
    · exact (exec_vfEnableClear hp).trans (congrArg _ (if_neg (ne_true_of_eq_false hfs)))
    · refine ⟨_, exec_vfEnableClear hp, ?_⟩
      split
      · exact eachVf_vfEnable ..
      · exact eachVf_vfEnable ..
    · exact (exec_pfFlr hp).trans (congrArg _ (if_pos hfs))
  case window =>
    have hwrite : exec (.hifVfWinWrite f v) s = .next (vfWinWrite s f v) := busWrite_next h fun s => vfWinWrite s f v
    rw [hwrite]
    exact ⟨fun hbad => congrArg _ (vfWinWrite_refused hbad), fun hsize hmem hfree => congrArg _ (vfWinWrite_taken hlo hhi hsize hmem hfree)⟩

end Sys2Proof.Proofs

/-!
## Uaper ports (O48)
-/

namespace Sys2Proof.Proofs

open Machine Laws

/-! ### The port's link layer and its registers -/

section

variable (s : State) (p : Nat)

theorem portAt_onPort_same (k : Port → Port) : portAt (onPort s p k) p = k (portAt s p) := by
  simp [portAt, onPort, tgetD]

theorem portAt_fset (f : Fld) (v w i q : Nat) : portAt (fset s f v w i) q = portAt s q := by
  rw [portAt, portAt, fset_ports]

theorem uapState_onPort (k : Port → Port) (q : Nat) : uapState (onPort s p k) q = uapState s q := rfl

theorem portAt_uapIdentity (b : List Byte) : portAt (uapIdentity s p b) p = portAt s p := by
  simp only [portAt, uapIdentity, matchPeer, fset_ports, rset_ports]

/-- The partner's identity goes to the registers that hold it and leaves the port's state. -/
theorem uapState_uapIdentity {s : State} {p : Nat} (hp : p ≤ 1) (b : List Byte) : uapState (uapIdentity s p b) p = uapState s p := by
  have hmatch (t : State) : uapState (matchPeer t p) p = uapState t p :=
    fget_fset_above (f := F.UAP_STATUS.PEER_MATCH) (g := F.UAP_STATUS.STATE) (by decide) (by omega) rfl (by decide) (by decide) (by decide)
  rw [uapIdentity, hmatch]
  have hpeer {f : Fld} (hf : f.reg = .UAP_PEER) (t : State) (v : Nat) : uapState (fset t f v 0 p) p = uapState t p :=
    fget_fset_ne fun h => absurd (h.1.trans hf) (by decide)
  rw [hpeer rfl, hpeer rfl, hpeer rfl, hpeer rfl, hpeer rfl, uapState, fget, rget_rset_ne fun h => absurd h.1 (by decide)]
  rfl

theorem rget_uapIdentity {s : State} {p : Nat} (hp : p ≤ 1) (b : List Byte) : rget (uapIdentity s p b) .UAP_PEER_ID 0 p = fieldAt b 0 8 % 2 ^ 64 := by
  have hother {f : Fld} (hf : f.reg ≠ .UAP_PEER_ID) (t : State) (v : Nat) : rget (fset t f v 0 p) .UAP_PEER_ID 0 p = rget t .UAP_PEER_ID 0 p :=
    rget_rset_ne fun h => hf h.1.symm
  rw [uapIdentity, matchPeer, hother (by decide), hother (by decide), hother (by decide), hother (by decide), hother (by decide), hother (by decide),
    rget_rset_mod (by decide) (by omega)]

end

theorem leNat_lt (l : List Byte) : leNat l < 256 ^ l.length := by
  induction l with
  | nil => exact Nat.one_pos
  | cons b l ih =>
    have hb : b.toNat < 256 := b.isLt
    rw [leNat, List.length_cons, Nat.pow_succ]
    omega

theorem fieldAt_lt (l : List Byte) (a : Nat) : fieldAt l a 8 < 2 ^ 64 := by
  have hlen : ((l.drop a).take 8).length ≤ 8 := List.length_take_le 8 _
  calc fieldAt l a 8 < 256 ^ ((l.drop a).take 8).length := leNat_lt _
    _ ≤ 256 ^ 8 := Nat.pow_le_pow_right (by decide) hlen
    _ = 2 ^ 64 := rfl

/-! ### Receiving -/

section

variable {s : State} {p : Nat} {raw : List Byte}

/-- The flit is a TRAIN flit of lanes that start from the seed. -/
def trainFlit (raw : List Byte) : Bool :=
  match checkFlit (scramble prbsSeed raw).1 with
  | some d => decide ((readFlit d.1).1.ty = 2)
  | none => false

/-- What the lanes give of a flit, and their registers after it. -/
def laneRead (s : State) (p : Nat) (raw : List Byte) : List Byte × List Nat :=
  if trainFlit raw then scramble prbsSeed raw else scramble (portAt s p).rxPrbs raw

/-- The port after the lanes have read a flit. -/
def laneMoved (s : State) (p : Nat) (raw : List Byte) : State := onPort s p fun y => { y with rxPrbs := (laneRead s p raw).2 }

theorem portAt_laneMoved (s : State) (p : Nat) (raw : List Byte) :
    portAt (laneMoved s p raw) p = { portAt s p with rxPrbs := (laneRead s p raw).2 } := portAt_onPort_same ..

/-- A flit that fails its check ends what was counted of the good ones. -/
def badFlit (s : State) (p : Nat) : State := onPort s p fun y => { y with holds := 0, goods := 0, acked := if y.acked < 8 then 0 else y.acked }

theorem exec_uapFlitReceive (hp : p ≤ 1) (h : Safety.powered s) (hraw : raw.length = 256) : exec (.uapFlitReceive p raw) s = .next (uapReceive p raw s) := by
  have hgo : ¬ (1 < p ∨ raw.length ≠ 256) := by omega
  exact (powered_next h _).trans (congrArg _ (if_neg hgo))

theorem uapReceive_resting (h : domOn s (48 + p) = false ∨ uapState s p = 0 ∨ uapState s p = 4 ∨ uapState s p = 5) : uapReceive p raw s = s :=
  if_pos (h.imp ne_true_of_eq_false id)

section

variable (hdom : domOn s (48 + p) = true) (h0 : uapState s p ≠ 0) (h4 : uapState s p ≠ 4) (h5 : uapState s p ≠ 5)

include hdom h0 h4 h5

theorem uapReceive_listening : uapReceive p raw s = match checkFlit (laneRead s p raw).1 with
    | none => if uapState s p = 2 then
        onPort (fcount (badFlit (laneMoved s p raw) p) F.UAP_ERR.CRC_FAIL 0 p) p fun y => { y with nak := true } else badFlit (laneMoved s p raw) p
    | some (d, fixed) => uapListen (if fixed then fcount (laneMoved s p raw) F.UAP_ERR.FEC_CORRECTED 0 p else laneMoved s p raw) p d := by
  have hgo : ¬ (¬ domOn s (48 + p) = true ∨ uapState s p = 0 ∨ uapState s p = 4 ∨ uapState s p = 5) := by simp [hdom, h0, h4, h5]
  exact if_neg hgo

theorem uapReceive_good {d : List Byte} {fixed : Bool} (hc : checkFlit (laneRead s p raw).1 = some (d, fixed)) : uapReceive p raw s =
    uapListen (if fixed then fcount (laneMoved s p raw) F.UAP_ERR.FEC_CORRECTED 0 p else laneMoved s p raw) p d := by
  rw [uapReceive_listening hdom h0 h4 h5, hc]

theorem uapReceive_bad (hc : checkFlit (laneRead s p raw).1 = none) : uapReceive p raw s = if uapState s p = 2 then
    onPort (fcount (badFlit (laneMoved s p raw) p) F.UAP_ERR.CRC_FAIL 0 p) p fun y => { y with nak := true } else badFlit (laneMoved s p raw) p := by
  rw [uapReceive_listening hdom h0 h4 h5, hc]

end

/-- A port that is UP counts a flit that fails its check and asks for a replay. -/
theorem badFlit_counted (hp : p ≤ 1) (s : State) :
    let t := onPort (fcount (badFlit s p) F.UAP_ERR.CRC_FAIL 0 p) p fun y => { y with nak := true }
    fget t F.UAP_ERR.CRC_FAIL 0 p = Nat.min (fget s F.UAP_ERR.CRC_FAIL 0 p + 1) 0xFFFF
      ∧ (portAt t p).nak = true ∧ (portAt t p).rxLast = (portAt s p).rxLast ∧ (portAt t p).rxPrbs = (portAt s p).rxPrbs := by
  intro t
  have hport : portAt t p = { portAt (badFlit s p) p with nak := true } := by
    rw [portAt_onPort_same, fcount, portAt_fset]
  have hcount : fget t F.UAP_ERR.CRC_FAIL 0 p = Nat.min (fget s F.UAP_ERR.CRC_FAIL 0 p + 1) 0xFFFF % 2 ^ 16 :=
    fget_fset_same (s := badFlit s p) (f := F.UAP_ERR.CRC_FAIL) (by decide) (by omega) (by decide) (by decide)
  have hmin : Nat.min (fget s F.UAP_ERR.CRC_FAIL 0 p + 1) 0xFFFF ≤ 0xFFFF := Nat.min_le_right _ _
  rw [hport, badFlit, portAt_onPort_same, hcount]
  exact ⟨Nat.mod_eq_of_lt (by omega), rfl, rfl, rfl⟩

/-- A TRAIN flit in TRAINING gives the partner's identity and counts. -/
theorem uapListen_train (hp : p ≤ 1) {b : List Byte} (hty : (readFlit b).1.ty = 2) (h1 : uapState s p = 1) : uapListen s p b =
    onPort (uapIdentity (onPort s p fun x => { x with holds := 0 }) p (readFlit b).1.payload) p fun x => trainSeen x (readFlit b).1.payload := by
  have hstate : uapState (uapIdentity (onPort s p fun x => { x with holds := 0 }) p (readFlit b).1.payload) p = 1 :=
    (uapState_uapIdentity hp _).trans h1
  simp only [uapListen, hty, uapState_onPort, hstate, reduceIte, Nat.reduceEqDiff, or_false, and_false]

theorem trained_identity (hp : p ≤ 1) (b : List Byte) :
    let t := onPort (uapIdentity (onPort s p fun x => { x with holds := 0 }) p b) p fun x => trainSeen x b
    rget t .UAP_PEER_ID 0 p = fieldAt b 0 8 % 2 ^ 64 ∧ (portAt t p).trains = (portAt s p).trains + 1 := by
  intro t
  have hport : portAt t p = trainSeen { portAt s p with holds := 0 } b := by
    rw [portAt_onPort_same, portAt_uapIdentity, portAt_onPort_same]
  rw [hport]
  exact ⟨rget_uapIdentity hp b, rfl⟩

end

/-- A good DATA flit at a port that is UP, once its acknowledgements and credits are taken. -/
theorem uapGood_data {s : State} {p : Nat} {f : Flit} {a : FlitAck} (hty : f.ty = 1) (hup : uapState (uapAcked s p a) p = 2)
    (h0 : (portAt (uapAcked s p a) p).credit0 + a.c0 ≤ 512) (h1 : (portAt (uapAcked s p a) p).credit1 + a.c1 ≤ 8) : uapGood s p f a =
    let x := portAt (uapAcked s p a) p
    let v := onPort (uapAcked s p a) p fun x => { x with credit0 := x.credit0 + a.c0, credit1 := x.credit1 + a.c1 }
    if f.fseq ≠ (x.rxLast + 1) % 4096 then onPort v p fun x => { x with ackDue := true }
    else if overGranted x f then uapRecovery (uapProtocol v p) p
    else uapData (onPort v p fun x => { x with rxLast := f.fseq, nak := false, ackDue := true }) p f := by
  have hcredit : ¬ (512 < (portAt (uapAcked s p a) p).credit0 + a.c0 ∨ 8 < (portAt (uapAcked s p a) p).credit1 + a.c1) := by omega
  have hup' : uapUp (uapAcked s p a) p = true := decide_eq_true hup
  simp only [uapGood, hty, hup', hcredit, reduceIte, Nat.reduceLT, not_true_eq_false, or_false, OfNat.one_ne_ofNat,
    one_ne_zero]

/-! ### Sending -/

section

variable {s : State} {p : Nat}

theorem exec_uapFlitTransmit (hp : p ≤ 1) (h : Safety.powered s) : exec (.uapFlitTransmit p) s = .next (uapTransmit p s) :=
  (powered_next h _).trans (congrArg _ (if_neg (Nat.not_lt.mpr hp)))

/-- What a flit from p acknowledges, and the credits it returns: those of VC 0 at port 1 only while the ring may receive. -/
def sentAck (s : State) (p : Nat) : FlitAck :=
  let x := portAt s p
  { seq := x.rxLast, nak := x.nak, valid := x.ackDue || x.nak, c0 := if decide (p = 1) && receiveAllowed s then x.freed0 else 0, c1 := x.freed1 }

/-- The port after a flit with its acknowledgement. -/
def sentPort (s : State) (p : Nat) : Port :=
  { (uapNext s p).2 with nak := false, ackDue := false, freed0 := if decide (p = 1) && receiveAllowed s then 0 else (portAt s p).freed0, freed1 := 0 }

/-- A port that is UP has sent its next flit. -/
def flitSent (s : State) (p : Nat) : State := uapSend (onPort s p fun _ => sentPort s p) p (uapNext s p).1 (sentAck s p)

section

variable (hdom : domOn s (48 + p) = true)

include hdom

theorem uapTransmit_on : uapTransmit p s = match uapState s p with
    | 1 | 3 => if 8 ≤ (portAt s p).acked then uapSend s p { ty := 0 } {}
      else uapSend s p { ty := 2, payload := identBytes s p (decide (8 ≤ (portAt s p).trains)) } {}
    | 2 => if (uapNext s p).1.ty = 3 ∧ byteAt (uapNext s p).1.payload 0 = 3 then uapMove (flitSent s p) p 4
      else if p = 0 ∧ (portAt s p).tx0 ≠ [] ∧ (sentPort s p).tx0 = [] then hopSent (flitSent s p) else flitSent s p
    | 5 => uapSend s p { ty := 4 } {}
    | 6 => uapSend s p { ty := 0 } {}
    | _ => s := if_neg (not_not_intro hdom)

theorem uapTransmit_training (h : uapState s p = 1 ∨ uapState s p = 3) : uapTransmit p s =
    if 8 ≤ (portAt s p).acked then uapSend s p { ty := 0 } {}
    else uapSend s p { ty := 2, payload := identBytes s p (decide (8 ≤ (portAt s p).trains)) } {} := by
  rw [uapTransmit_on hdom]
  rcases h with h | h
  · rw [h]
    rfl
  · rw [h]
    rfl

theorem uapTransmit_resting (h : uapState s p = 0 ∨ uapState s p = 4) : uapTransmit p s = s := by
  rw [uapTransmit_on hdom]
  rcases h with h | h
  · rw [h]
    rfl
  · rw [h]
    rfl

theorem uapTransmit_up (h : uapState s p = 2) : uapTransmit p s =
    if (uapNext s p).1.ty = 3 ∧ byteAt (uapNext s p).1.payload 0 = 3 then uapMove (flitSent s p) p 4
    else if p = 0 ∧ (portAt s p).tx0 ≠ [] ∧ (sentPort s p).tx0 = [] then hopSent (flitSent s p) else flitSent s p := by
  rw [uapTransmit_on hdom, h]
  rfl

theorem uapTransmit_held (h : uapState s p = 5) : uapTransmit p s = uapSend s p { ty := 4 } {} := by
  rw [uapTransmit_on hdom, h]
  rfl

theorem uapTransmit_peerHeld (h : uapState s p = 6) : uapTransmit p s = uapSend s p { ty := 0 } {} := by
  rw [uapTransmit_on hdom, h]
  rfl

/-- A flit that neither sleeps nor ends what waits on VC 0 is only sent. -/
theorem uapTransmit_plain (h : uapState s p = 2) (hty : (uapNext s p).1.ty ≠ 3) (htx : (sentPort s p).tx0 = (portAt s p).tx0) :
    uapTransmit p s = flitSent s p := by
  have hsleep : ¬ ((uapNext s p).1.ty = 3 ∧ byteAt (uapNext s p).1.payload 0 = 3) := fun h => hty h.1
  have hhop : ¬ (p = 0 ∧ (portAt s p).tx0 ≠ [] ∧ (sentPort s p).tx0 = []) := fun h => h.2.1 (htx ▸ h.2.2)
  rw [uapTransmit_up hdom h, if_neg hsleep, if_neg hhop]

end

theorem portAt_flitSent : portAt (flitSent s p) p = { sentPort s p with
    lastSent := flitBytes (uapNext s p).1 (sentAck s p)
    txPrbs := (scramble (if (uapNext s p).1.ty = 2 then prbsSeed else (sentPort s p).txPrbs) (flitBytes (uapNext s p).1 (sentAck s p))).2 } := by
  rw [flitSent, uapSend, portAt_onPort_same, portAt_onPort_same]

theorem replay_done (hres : (portAt s p).resend = 0) : (portAt s p).replay[(portAt s p).replay.length - (portAt s p).resend]? = none := by
  rw [hres]
  exact List.getElem?_eq_none (Nat.le_refl _)

/-- A port with nothing to send sends IDLE. -/
theorem uapNext_idle (hres : (portAt s p).resend = 0) (hm : (portAt s p).mgmt = []) (h1 : (portAt s p).tx1 = []) (h0 : (portAt s p).tx0 = []) :
    uapNext s p = ({ ty := 0 }, portAt s p) := by
  simp only [uapNext, replay_done hres, hm, h1, h0, ite_self]

/-- A sequenced flit of VC 1 takes a credit and waits in the replay buffer for its acknowledgement. -/
theorem uapNext_tx1 {f : Flit} {rest : List Flit} (hres : (portAt s p).resend = 0) (hlen : (portAt s p).replay.length < 512)
    (hm : (portAt s p).mgmt = []) (h1 : (portAt s p).tx1 = f :: rest) (hc : 0 < (portAt s p).credit1) : uapNext s p =
    ({ f with fseq := (portAt s p).txNext }, { portAt s p with
      tx1 := rest
      credit1 := (portAt s p).credit1 - 1
      replay := (portAt s p).replay ++ [{ f with fseq := (portAt s p).txNext }]
      txNext := ((portAt s p).txNext + 1) % 4096 }) := by
  simp only [uapNext, replay_done hres, hm, h1, if_neg (Nat.not_le.mpr hlen), if_pos hc]

end

/-! ### Replay, training and sleep -/

section

variable {s : State} {p : Nat}

theorem exec_uapReplayTimer (hp : p ≤ 1) (h : Safety.powered s) (hup : uapState s p = 2) (hreplay : (portAt s p).replay ≠ []) :
    exec (.uapReplayTimer p) s = .next (if 4 ≤ (portAt s p).replays + 1 then uapRecovery (fcount s F.UAP_ERR.REPLAYS 0 p) p
      else onPort (fcount s F.UAP_ERR.REPLAYS 0 p) p fun x => { x with replays := x.replays + 1, resend := x.replay.length }) := by
  have hgo : ¬ (1 < p ∨ ¬ uapUp s p = true) := by simp [hp, uapUp, hup]
  exact (powered_next h _).trans (congrArg _ ((if_neg hgo).trans (if_neg hreplay)))

theorem exec_uapTrainingComplete (hp : p ≤ 1) (h : Safety.engines s) (ok reversed : Bool) (polarity : Nat) :
    exec (.uapTrainingComplete p ok reversed polarity) s = .next (uapTrained p ok reversed polarity s) := by
  change execUapTrainingComplete p ok reversed polarity s = _
  rw [execUapTrainingComplete, engineStep_next h, if_neg (Nat.not_lt.mpr hp)]

theorem uapTrained_elsewhere (h1 : uapState (uapTry s p) p ≠ 1) (h3 : uapState (uapTry s p) p ≠ 3) (ok reversed : Bool) (polarity : Nat) :
    uapTrained p ok reversed polarity s = uapTry s p := if_pos ⟨h1, h3⟩

theorem uapTrained_training (h : uapState (uapTry s p) p = 1 ∨ uapState (uapTry s p) p = 3) (ok reversed : Bool) (polarity : Nat) :
    uapTrained p ok reversed polarity s =
    let u := uapTry s p
    let left := onPort u p fun x => { x with fails := (portAt u p).fails + 1, trains := 0, lastTrain := [], acked := 0, goods := 0 }
    if ok then
      if (portAt u p).goods < 1024 ∨ ¬ domOn u (48 + p) then u else
      matchPeer (uapMove (fset (fset u F.UAP_STATUS.REVERSED (b2n reversed) 0 p) F.UAP_STATUS.POLARITY polarity 0 p) p 2) p
    else if uapState u p = 1 then u
    else if (portAt u p).fails + 1 < 3 then left
    else uapTry (uapMove (fset (fcount left F.UAP_ERR.RETRAINS 0 p) F.UAP_STATUS.LINK_FAIL 1 0 p) p 0) p := by
  have hgo : ¬ (uapState (uapTry s p) p ≠ 1 ∧ uapState (uapTry s p) p ≠ 3) := by omega
  exact if_neg hgo

section

variable (hp : p ≤ 1) (h : Safety.writable s .UAP_CTL 0 p)

include hp h

theorem exec_uapCtlEnWrite (en : Bool) : exec (.uapCtlEnWrite p en) s = .next (uapEn s p en) :=
  (if_neg (Nat.not_lt.mpr hp)).trans (busWrite_next h fun s => uapEn s p en)

theorem exec_uapSleepReq : exec (.uapSleepReq p) s = .next (
    if ¬ uapUp s p ∨ (s.seq.runs.any fun e => e.2.ring) ∨ (portAt s p).replay ≠ [] then s
    else onPort s p fun x => { x with asked := true, mgmt := x.mgmt ++ [2] }) :=
  (if_neg (Nat.not_lt.mpr hp)).trans (busWrite_next h _)

theorem exec_uapWake : exec (.uapWake p) s = .next (uapWakeUp s p true) :=
  (if_neg (Nat.not_lt.mpr hp)).trans (busWrite_next h fun s => uapWakeUp s p true)

end

theorem exec_uapWakePatternDetect (hp : p ≤ 1) (h : Safety.powered s) : exec (.uapWakePatternDetect p) s = .next (
    if uapState s p ≠ 4 then s else uapWakeUp (wakeReport (uapIrq (fset s F.UAP_STATUS.WAKE_SEEN 1 0 p) p) 2 p) p false) := by
  refine (powered_next h _).trans (congrArg _ ?_)
  have hin : ¬ 1 < p := Nat.not_lt.mpr hp
  simp only [hin, false_or]

end

/-- Settles O48. That a flit out of order is discarded and acknowledged, and that failed checks count in UP alone, is the model's choice
(log 21). -/
theorem uaperPorts : Obligations.UaperPorts := by
  refine ⟨fun s p raw hp h hraw => ?receive, fun s p f a hup hty => ?data, fun s p hp h hdom => ?transmit, fun s p hp h hup hreplay => ?replay,
    fun s p polarity reversed hp h => ?train, fun s p hp h => ?ctl, fun s p hp h => ?detect⟩
  case receive =>
    intro st seeded train x u
    rw [exec_uapFlitReceive hp h hraw]
    refine ⟨fun hrest => congrArg _ (uapReceive_resting hrest), fun hdom h0 h4 h5 => ⟨fun d fixed hc => congrArg _ (uapReceive_good hdom h0 h4 h5 hc),
      fun hc h2 => congrArg _ ((uapReceive_bad hdom h0 h4 h5 hc).trans (if_neg h2)), fun hc h2 => ⟨_, rfl, ?_⟩, fun d h1 hc hty => ⟨_, rfl, ?_⟩⟩⟩
    · rw [uapReceive_bad hdom h0 h4 h5 hc, if_pos h2]
      have hcounted := badFlit_counted hp (laneMoved s p raw)
      rw [portAt_laneMoved] at hcounted
      exact hcounted
    · have htrain : trainFlit raw = true := by
        rw [trainFlit, hc]
        exact decide_eq_true hty
      have hread : laneRead s p raw = scramble prbsSeed raw := if_pos htrain
      have hcheck : checkFlit (laneRead s p raw).1 = some (d, false) := hread ▸ hc
      rw [uapReceive_good hdom h0 h4 h5 hcheck, if_neg Bool.false_ne_true, uapListen_train (s := laneMoved s p raw) hp hty h1]
      obtain ⟨hid, hseen⟩ := trained_identity (s := laneMoved s p raw) hp (readFlit d).1.payload
      rw [portAt_laneMoved] at hseen
      have hlt : fieldAt (readFlit d).1.payload 0 8 < 2 ^ 64 := fieldAt_lt _ 0
      exact ⟨hid.trans (Nat.mod_eq_of_lt hlt), hseen⟩
  case data =>
    intro u x hup' h0 h1 v
    rw [uapGood_data hty hup' h0 h1]
    exact ⟨fun hseq => if_pos hseq, fun hseq hover => (if_neg (not_not_intro hseq)).trans (if_pos hover),
      fun hseq hover => (if_neg (not_not_intro hseq)).trans (if_neg (ne_true_of_eq_false hover))⟩
  case transmit =>
    intro x
    rw [exec_uapFlitTransmit hp h]
    refine ⟨fun hst hseen => ?_, fun hst hseen => ?_, fun hst => congrArg _ (uapTransmit_resting hdom hst), fun hst => congrArg _ (uapTransmit_up hdom hst),
      fun hst => congrArg _ (uapTransmit_held hdom hst), fun hst => congrArg _ (uapTransmit_peerHeld hdom hst),
      fun hst hres hm h1 h0 => ⟨flitSent s p, sentAck s p, ?_⟩, fun f rest hst hres hlen hm h1 hc hty => ⟨flitSent s p, sentAck s p, ?_⟩⟩
    · exact congrArg _ ((uapTransmit_training hdom hst).trans (if_neg (Nat.not_le.mpr hseen)))
    · exact congrArg _ ((uapTransmit_training hdom hst).trans (if_pos hseen))
    · have hnext := uapNext_idle hres hm h1 h0
      rw [uapTransmit_plain hdom hst (by rw [hnext]; exact (by decide : (0 : Nat) ≠ 3)) (by rw [sentPort, hnext]), portAt_flitSent, sentPort, hnext]
      exact ⟨rfl, rfl, rfl, rfl, rfl, rfl⟩
    · have hnext := uapNext_tx1 hres hlen hm h1 hc
      rw [uapTransmit_plain hdom hst (by rw [hnext]; exact hty ▸ (by decide : (1 : Nat) ≠ 3)) (by rw [sentPort, hnext]), portAt_flitSent, sentPort, hnext]
      exact ⟨rfl, rfl, rfl, rfl, rfl, rfl⟩
  case replay =>
    intro x
    rw [exec_uapReplayTimer hp h hup hreplay]
    exact ⟨fun hfew => congrArg _ (if_neg (Nat.not_le.mpr (Nat.succ_lt_succ hfew))), fun hmany => congrArg _ (if_pos (Nat.succ_le_succ hmany))⟩
  case train =>
    intro u st left
    have hother (h3 : st = 3) : ¬ uapState u p = 1 := fun h1 => absurd (h1.symm.trans h3) (by decide)
    have hexec (ok : Bool) := exec_uapTrainingComplete hp h ok reversed polarity
    refine ⟨fun h1 h3 ok => (hexec ok).trans (congrArg _ (uapTrained_elsewhere h1 h3 ok reversed polarity)), fun hst => ?_⟩
    rw [hexec, hexec, uapTrained_training hst, uapTrained_training hst]
    refine ⟨fun hgoods hdom => congrArg _ ((if_pos rfl).trans (if_neg ?_)),
      fun hout => congrArg _ ((if_pos rfl).trans (if_pos (hout.imp id ne_true_of_eq_false))),
      fun h1 => congrArg _ ((if_neg Bool.false_ne_true).trans (if_pos h1)), fun h3 hfew => congrArg _ ?_, fun h3 hmany => congrArg _ ?_⟩
    · exact fun hout => hout.elim (Nat.not_lt.mpr hgoods) fun hoff => hoff hdom
    · exact (if_neg Bool.false_ne_true).trans ((if_neg (hother h3)).trans (if_pos (Nat.succ_lt_succ hfew)))
    · exact (if_neg Bool.false_ne_true).trans ((if_neg (hother h3)).trans (if_neg (Nat.not_lt.mpr (Nat.succ_le_succ hmany))))
  case ctl =>
    have hen := exec_uapCtlEnWrite hp h
    have hsleep := exec_uapSleepReq hp h
    have hwake := exec_uapWake hp h
    refine ⟨hen true, fun t ht => ?_, fun hup hreplay hring => hsleep.trans (congrArg _ (if_neg ?_)), fun hbusy => hsleep.trans (congrArg _ (if_pos ?_)),
      fun h4 => hwake.trans (congrArg _ (if_neg (not_not_intro h4))), fun h4 => hwake.trans (congrArg _ (if_pos h4))⟩
    · subst ht
      exact hen false
    · simp [uapUp, hup, hreplay]
      exact fun a b hmem => hring (a, b) hmem
    · rcases hbusy with hbusy | hbusy | ⟨e, hmem, hring⟩
      · exact .inl (by simp [uapUp, hbusy])
      · exact .inr (.inr hbusy)
      · exact .inr (.inl (List.any_eq_true.mpr ⟨e, hmem, hring⟩))
  case detect =>
    rw [exec_uapWakePatternDetect hp h]
    exact ⟨fun h4 => congrArg _ (if_neg (not_not_intro h4)), fun h4 => congrArg _ (if_pos h4)⟩

end Sys2Proof.Proofs

/-!
## Mailboxes and firmware (O49)
-/

namespace Sys2Proof.Proofs

open Machine Laws

/-! ### What leaves the Control Complex -/

section

/-- What no register and nothing of the host's interface is part of, a send on the link leaves. -/
theorem linkSend_frame {α : Type} {p : State → α} (hfset : ∀ s f v w i, p (fset s f v w i) = p s) (hhif : ∀ (s : State) h, p { s with hif := h } = p s)
    (s : State) (n : Nat) : p (linkSend s n) = p s := by
  have hwake (s : State) : p (linkWake s) = p s := hfset ..
  unfold linkSend
  split
  · simp only [apply_ite p, hwake, hfset, hhif, ite_self]
  all_goals simp only [hwake]

variable (s : State)

theorem linkSend_ccx (n : Nat) : (linkSend s n).ccx = s.ccx := linkSend_frame (p := fun s => s.ccx) fset_ccx (fun _ _ => rfl) s n

theorem linkSend_boot (n : Nat) : (linkSend s n).boot = s.boot := linkSend_frame (p := fun s => s.boot) fset_boot (fun _ _ => rfl) s n

theorem hostLines_boot (a n : Nat) : (hostLines s a n).2.boot = s.boot := by
  unfold hostLines
  dsimp only
  split
  · exact linkSend_boot s 0
  · exact linkSend_boot s 0

theorem msixRaise_ccx (f v : Nat) : (msixRaise s f v).ccx = s.ccx := by
  unfold msixRaise
  split
  · rfl
  · split
    · rfl
    · split
      · exact linkSend_ccx s 4
      · rfl

theorem chSenderIrq_ccx (c : Nat) : (chSenderIrq s c).ccx = s.ccx := by
  unfold chSenderIrq
  split
  · split
    · exact msixRaise_ccx ..
    · rfl
  · rfl

theorem demand_ccx (d : Nat) : (demand s d).ccx = s.ccx := by
  unfold demand
  split
  · rfl
  · split
    · exact fset_ccx ..
    · rfl

theorem wordStored_ccx (c : Nat) : (wordStored s c).ccx = s.ccx := by
  unfold wordStored
  split
  · rfl
  · split
    · exact demand_ccx s 41
    · rfl

end

/-! ### Channels -/

section

variable (s : State)

theorem chan_congr {t : State} (h : t.ccx = s.ccx) (c : Nat) : chan t c = chan s c := by rw [chan, chan, h]

theorem chSet_ccx (c word : Nat) (full v7 : Bool) : (chSet s c word full v7).ccx =
    { s.ccx with channels := tmod s.ccx.channels c {} fun h => { h with word := word, full := full, v7 := v7 } } := by
  unfold chSet
  dsimp only
  split
  · exact fset_ccx ..
  · split
    · exact fset_ccx ..
    · exact (fset_ccx ..).trans (rset_ccx ..)

theorem chan_chSet_same (c word : Nat) (full v7 : Bool) :
    chan (chSet s c word full v7) c = { chan s c with word := word, full := full, v7 := v7 } := by
  simp [chan, chSet_ccx, tgetD]

theorem chan_chSet_ne {c d : Nat} (word : Nat) (full v7 : Bool) (h : d ≠ c) : chan (chSet s c word full v7) d = chan s d := by
  rw [chan, chan, chSet_ccx, tgetD, tgetD, tget_tmod_ne _ _ _ h]

/-- An emptied channel is not full. -/
theorem chan_chEmpty_full (c : Nat) : (chan (chEmpty s c) c).full = false := by
  have hset : (chan (chSet s c 0 false (chan s c).v7) c).full = false := by rw [chan_chSet_same]
  have hirq (irq : Bool) (t : State) : chan (if irq then chSenderIrq t c else t) c = chan t c := by
    split
    · exact chan_congr _ (chSenderIrq_ccx ..) c
    · rfl
  exact (congrArg Channel.full (hirq _ _)).trans hset

variable {s} {c w : Nat}

theorem chSend_full (hon : chReceiverOn s c = true) (hfull : (chan s c).full = true) : chSend s c w = chOverrun s c := by
  rw [chSend, if_neg (not_not_intro hon), if_pos hfull]

/-- A word sent on an empty channel is in it. -/
theorem chSend_empty (hon : chReceiverOn s c = true) (hfull : (chan s c).full = false) :
    (chSend s c w).ccx = (chSet s c w true (bit (rget s .MBX_MODE) c)).ccx := by
  rw [chSend, if_neg (not_not_intro hon), if_neg (ne_true_of_eq_false hfull)]
  dsimp only
  split
  · exact msixRaise_ccx ..
  · rfl

theorem chStore_full (hon : chReceiverOn s c = true) (hfull : (chan s c).full = true) : chStore s c w = chOverrun s c := by
  rw [chStore, hfull]
  exact chSend_full hon hfull

theorem chStore_empty (hon : chReceiverOn s c = true) (hfull : (chan s c).full = false) :
    (chStore s c w).ccx = (chSet s c (w % 2 ^ 32) true (bit (rget s .MBX_MODE) c)).ccx := by
  rw [chStore, hfull, hon]
  exact (wordStored_ccx ..).trans (chSend_empty hon hfull)

theorem chTake_full (hfull : (chan s c).full = true) (hon : chReceiverOn s c = true) :
    chTake s c = ((chan s c).word, wordTaken (chEmpty s c) c (chan s c).word) := by
  have hgo : ¬ (¬ (chan s c).full = true ∨ ¬ chReceiverOn s c = true) := by simp [hfull, hon]
  have hread : chRead s c = ((chan s c).word, chEmpty s c) := if_pos hfull
  rw [chTake, if_neg hgo, hread]

theorem chTake_empty (hfull : (chan s c).full = false) : chTake s c = (0, s) := if_pos (.inl (ne_true_of_eq_false hfull))

end

/-! ### Sends and reads -/

section

variable {s : State} {c w : Nat} {a : CoreAccess}

theorem lt_of_chHost {f : Nat} (h : chHost c = some f) : c < 32 := by
  unfold chHost at h
  split at h
  · omega
  · split at h
    · omega
    · cases h

theorem exec_mailboxSend_host {f : Nat} (hc : chHost c = some f) (h : Safety.writable s (if c = 0 then .MBX_TX0 else .MBX_CMD) f 0) :
    exec (.mailboxSend c w a) s = .next (if fnExists s f then chStore s c w else s) := by
  change execMailboxSend c w a s = _
  rw [execMailboxSend, if_neg (Nat.not_le.mpr (lt_of_chHost hc)), hc]
  exact busWrite_next h fun s => if fnExists s f then chStore s c w else s

theorem exec_mailboxSend_core (hlt : c < 32) (hc : chHost c = none) (h : Safety.powered s) : exec (.mailboxSend c w a) s =
    let u := coreSetup s (chSender c) a
    .next (if coreRefused u (chSender c) c a true then u else chStore u c w) := by
  change execMailboxSend c w a s = _
  rw [execMailboxSend, if_neg (Nat.not_le.mpr hlt), hc]
  exact powered_next h _

theorem exec_mailboxReceiveRead_host (hlt : c < 32) (h : Safety.powered s) (hc : c = 1 ∨ 24 ≤ c) (hf : failsafe s = false) (hid : recoveryId s = false) :
    exec (.mailboxReceiveRead c a) s = .next (hostTake s c) := by
  have hgo : ¬ (failsafe s = true ∨ recoveryId s = true) := by simp [hf, hid]
  change execMailboxReceiveRead c a s = _
  rw [execMailboxReceiveRead, if_neg (Nat.not_le.mpr hlt), if_pos hc, powered_next h, if_neg hgo]

theorem exec_mailboxReceiveRead_core (hlt : c < 24) (h1 : c ≠ 1) (h : Safety.powered s) : exec (.mailboxReceiveRead c a) s =
    let u := coreSetup s (chReceiver c) a
    .next (if (failsafe u = true ∧ c = 4) ∨ coreRefused u (chReceiver c) c a false = true then u else (chTake u c).2) := by
  change execMailboxReceiveRead c a s = _
  rw [execMailboxReceiveRead, if_neg (by omega), if_neg (by omega), powered_next h]

end

/-! ### Loading firmware -/

section

variable {s : State}

theorem exec_fwLoad (h : Safety.powered s) (hf : failsafe s = false) (hid : recoveryId s = false) (hfull : (chan s 0).full = true)
    (hop : bits (chan s 0).word 31 24 = 1) : exec .fwLoad s =
    let u := (chTake s 0).2
    let tag := bits (chan s 0).word 23 16
    .next (if fget u F.CCX_FW_STATE.STATE ≠ 0 then loadReply u tag 7 .permission
      else loadSteps (fset (onCcx u fun x => { x with loading := some tag }) F.CCX_FW_STATE.STATE 1)) := by
  have hgo : ¬ (failsafe s = true ∨ recoveryId s = true ∨ ¬ (chan s 0).full = true ∨ bits (chan s 0).word 31 24 ≠ 1) := by
    simp [hf, hid, hfull, hop]
  exact (powered_next h _).trans (congrArg _ (if_neg hgo))

/-- The first check that fails is the one that is kept. -/
theorem loadSteps_fails :
    let a := rget s .CCX_FW_ADDR
    let e := hostLines s a 512
    let h := hostRead e.2 a 512
    let kept (t : State) (x : Nat × Status) : Prop := t.ccx.loadFail = some x
    (e.1 = true → kept (loadSteps s) (6, .integrityMismatch))
    ∧ (e.1 = false → fwHeaderBad h = true → kept (loadSteps s) (1, .badOpcode))
    ∧ (e.1 = false → fwHeaderBad h = false → fwSegmentsBad h = true → kept (loadSteps s) (2, .lengthRange))
    ∧ (e.1 = false → fwHeaderBad h = false → fwSegmentsBad h = false → sha384 (fwKey h) ≠ s.boot.image.keyHash → kept (loadSteps s) (3, .permission)) := by
  intro a e h kept
  have hboot : e.2.boot = s.boot := hostLines_boot s a 512
  unfold loadSteps
  refine ⟨fun he => ?_, fun he hh => ?_, fun he hh hs => ?_, fun he hh hs hk => ?_⟩
  · exact congrArg (fun t : State => t.ccx.loadFail) (if_pos he)
  · exact congrArg (fun t : State => t.ccx.loadFail) ((if_neg (ne_true_of_eq_false he)).trans (if_pos hh))
  · exact congrArg (fun t : State => t.ccx.loadFail)
      ((if_neg (ne_true_of_eq_false he)).trans ((if_neg (ne_true_of_eq_false hh)).trans (if_pos hs)))
  · have hkey : sha384 (fwKey h) ≠ e.2.boot.image.keyHash := hboot ▸ hk
    exact congrArg (fun t : State => t.ccx.loadFail)
      ((if_neg (ne_true_of_eq_false he)).trans ((if_neg (ne_true_of_eq_false hh)).trans ((if_neg (ne_true_of_eq_false hs)).trans (if_pos hkey))))

theorem exec_fwLoadDone {tag : Nat} (h : Safety.powered s) (hf : failsafe s = false) (hl : s.ccx.loading = some tag) : exec .fwLoadDone s =
    let u := onCcx s fun x => { x with loading := none, loadFail := none }
    .next (loadReply (if (loadResult s).1 = 0 then fwStart u else fwAbandon u) tag (loadResult s).1 (loadResult s).2) := by
  change execFwLoadDone s = _
  rw [execFwLoadDone, powered_next h, hl]
  exact congrArg _ (if_neg (ne_true_of_eq_false hf))

/-- With no step failed, the signature and the version decide. -/
theorem loadResult_checked (hfail : s.ccx.loadFail = none) : loadResult s =
    if ¬ ecdsaOk (fwKey s.ccx.loadHeader) s.ccx.loadDigest (fwSignature s.ccx.loadHeader) then (4, .permission)
    else if fieldAt s.ccx.loadHeader 8 4 < s.boot.image.minVersion then (5, .permission)
    else (0, .ok) := by
  rw [loadResult, hfail]

theorem foldl_fset_ccx (f : Fld) (v w : Nat) (l : List Nat) (s : State) : (l.foldl (fun s c => fset s f v w c) s).ccx = s.ccx := by
  induction l generalizing s with
  | nil => rfl
  | cons c l ih => exact (ih _).trans (fset_ccx ..)

theorem fwStart_state (s : State) : fget (fwStart s) F.CCX_FW_STATE.STATE = 2 :=
  fget_fset_same (f := F.CCX_FW_STATE.STATE) (by decide) (by decide) (by decide) (by decide)

theorem fwStart_ccx (s : State) : (fwStart s).ccx.entry = (List.range 4).map (fun k => fieldAt s.ccx.loadHeader (16 + 8 * k) 8)
    ∧ (fwStart s).ccx.version = fieldAt s.ccx.loadHeader 8 4 := by
  unfold fwStart
  dsimp only
  rw [fset_ccx, fset_ccx, foldl_fset_ccx]
  exact ⟨rfl, rfl⟩

theorem fwAbandon_state (s : State) : fget (fwAbandon s) F.CCX_FW_STATE.STATE = 0 :=
  fget_fset_same (f := F.CCX_FW_STATE.STATE) (by decide) (by decide) (by decide) (by decide)

theorem fwAbandon_sram (s : State) : ∀ e ∈ (fwAbandon s).ccx.sram, 0x1F_0000 ≤ e.1 := by
  intro e he
  rw [fwAbandon, fset_ccx] at he
  exact of_decide_eq_true (List.mem_filter.mp he).2

end

/-! ### Core faults, the Scheduler and the Liaison -/

section

variable {s : State}

theorem exec_ccxWatchdogExpiry {c : Nat} (hc : c < 4) (h : Safety.powered s) (hact : fwActive s = true) (hw : s.ccx.wdog.getD c 0 ≠ 0) :
    exec (.ccxWatchdogExpiry c) s = .next (raiseBare s (0x128 + c) .watchdog 3 .none) := by
  have hgo : ¬ (4 ≤ c ∨ ¬ fwActive s = true ∨ s.ccx.wdog.getD c 0 = 0) := by
    rintro (h4 | hact' | hw')
    · omega
    · exact hact' hact
    · exact hw hw'
  exact (powered_next h _).trans (congrArg _ (if_neg hgo))

theorem exec_ccxSramEccError {c : Nat} (hc : c < 4) (h : Safety.powered s) (corrected : Bool) : exec (.ccxSramEccError c corrected) s =
    .next (if corrected then fcount s F.CCX_SRAM_ECC.CORRECTED
      else raise s { time := 0, unit := 0x128 + c, status := .uncorrectableEcc, level := 3, context := none, function := none,
                     detail := .memory 0 8 0xFF 0xFF 0xFF 0xFFFF 0xFFFF 0 0, fwLost := true }) :=
  (powered_next h _).trans (congrArg _ (if_neg (Nat.not_le.mpr hc)))

theorem exec_schedulerPickup (h : Safety.powered s) (hact : fwActive s = true) : exec .schedulerPickup s =
    let t := readyTrim (chTake s 3).2
    .next (if (chan t 4).full then t else match pickQueue t with | none => t | some i => chStore t 4 i) :=
  (powered_next h _).trans (congrArg _ (if_neg (not_not_intro hact)))

/-- The recovery sequencer takes what the Liaison writes at once. -/
theorem exec_liaisonRequest {v : Nat} (h : Safety.powered s) (hrun : fwRunning s = true) (hfull : (chan s 5).full = false) (hv : v < 2 ^ 32) :
    exec (.liaisonRequest v) s = .next (sequencerWord (chEmpty (chSend s 5 v) 5) v) := by
  have hchan : chan (chSend s 5 v) 5 = { chan s 5 with word := v, full := true, v7 := bit (rget s .MBX_MODE) 5 } := by
    rw [chan_congr _ (chSend_empty rfl hfull), chan_chSet_same]
  have hword : (chan (chSend s 5 v) 5).word = v := by rw [hchan]
  have htake : chTake (chSend s 5 v) 5 = (v, sequencerWord (chEmpty (chSend s 5 v) 5) v) := by
    rw [chTake_full (by rw [hchan]) rfl, hword]
    rfl
  change execLiaisonRequest v s = _
  rw [execLiaisonRequest, powered_next h, if_neg (not_not_intro hrun), Nat.mod_eq_of_lt hv, htake]

theorem sequencerWord_other {v : Nat} (h1 : v ≠ 1) (h2 : v ≠ 2) (s : State) : sequencerWord s v = s := by
  unfold sequencerWord
  split
  · exact absurd rfl h1
  · exact absurd rfl h2
  · rfl

end

/-- Settles O49. That a core writes its protection entries in the command itself, and which queue the Scheduler picks, is the model's choice
(logs 149 and 31). -/
theorem mailboxAndFirmware : Obligations.MailboxAndFirmware := by
  refine ⟨fun s c w a => ?send, fun s c w hlt hon => ?store, fun s c a hlt h => ?read, fun s h hf hid hfull hop => ?load, fun s => loadSteps_fails,
    fun s tag h hf hl => ?done, fun s => ⟨⟨fwStart_state s, fwStart_ccx s⟩, fwAbandon_state s, fwAbandon_sram s⟩, fun s c hc h => ?fault,
    fun s h hact t ht => ?scheduler, fun s v h hrun hfull hv => ?liaison⟩
  case send =>
    refine ⟨fun f hc h => ?_, fun hlt hc h => ?_⟩
    · rw [exec_mailboxSend_host hc h]
      exact ⟨fun hf => congrArg _ (if_pos hf), fun hf => congrArg _ (if_neg (ne_true_of_eq_false hf))⟩
    · intro u
      rw [exec_mailboxSend_core hlt hc h]
      exact ⟨fun hr => congrArg _ (if_pos hr), fun hr => congrArg _ (if_neg (ne_true_of_eq_false hr))⟩
  case store =>
    refine ⟨fun hfull => ?_, chStore_full hon⟩
    have hchan (d : Nat) := chan_congr _ (chStore_empty (w := w) hon hfull) d
    rw [hchan c, chan_chSet_same]
    exact ⟨rfl, rfl, fun d hd => (hchan d).trans (chan_chSet_ne _ _ _ _ hd)⟩
  case read =>
    refine ⟨exec_mailboxReceiveRead_host hlt h, fun h1 h24 hstop => ?_, fun hfull hon => ⟨chTake_full hfull hon, chan_chEmpty_full s c⟩, chTake_empty⟩
    intro u
    rw [exec_mailboxReceiveRead_core h24 h1 h]
    refine ⟨fun hf hr => congrArg _ (if_pos (.inr hr)), fun hf hr => congrArg _ (if_neg ?_)⟩
    rintro (⟨hf', -⟩ | hr')
    · exact ne_true_of_eq_false hf hf'
    · exact ne_true_of_eq_false hr hr'
  case load =>
    intro u tag
    rw [exec_fwLoad h hf hid hfull hop]
    exact ⟨fun hst => congrArg _ (if_pos hst), fun hst => congrArg _ (if_neg (not_not_intro hst))⟩
  case done =>
    intro u
    rw [exec_fwLoadDone h hf hl]
    refine ⟨fun h0 => ?_, fun h0 => ?_, fun hfail => ?_⟩
    · dsimp only
      rw [if_pos h0, h0]
    · dsimp only
      rw [if_neg h0]
    · rw [loadResult_checked hfail]
      refine ⟨fun hsig => if_pos (ne_true_of_eq_false hsig), fun hsig => ?_⟩
      rw [if_neg (not_not_intro hsig)]
      exact ⟨fun hold => if_pos hold, fun hnew => if_neg (Nat.not_lt.mpr hnew)⟩
  case fault =>
    exact ⟨exec_ccxWatchdogExpiry hc h, exec_ccxSramEccError hc h true, exec_ccxSramEccError hc h false⟩
  case scheduler =>
    subst ht
    rw [exec_schedulerPickup h hact]
    refine ⟨fun hnone => ?_, fun i hfull hpick => ?_⟩
    · dsimp only
      split
      · rfl
      · next hfull => rw [hnone.resolve_left hfull]
    · dsimp only
      rw [if_neg (ne_true_of_eq_false hfull), hpick]
  case liaison =>
    intro u
    rw [exec_liaisonRequest h hrun hfull hv]
    refine ⟨fun h1 => ?_, fun h2 => ?_, fun h1 h2 => congrArg _ (sequencerWord_other h1 h2 _)⟩
    · subst h1
      rfl
    · subst h2
      rfl

end Sys2Proof.Proofs

/-!
## Power domains and pads (O51)
-/

namespace Sys2Proof.Proofs

open Machine Laws

/-! ### A write to PWR_DOM_CTL -/

section

variable {s : State} {d v : Nat}

/-- The device discards a written value: a reserved TARGET, or an AUTO that is not permitted or already set. -/
def domBarred (s : State) (d v : Nat) : Prop := v % 4 = 3 ∨ (bit v 2 = true ∧ (autoAllowed d = false ∨ flag s F.PWR_DOM_CTL.AUTO 0 d = true))

/-- The domain with the written AUTO. -/
def autoTaken (s : State) (d v : Nat) : State := fset s F.PWR_DOM_CTL.AUTO (b2n (bit v 2)) 0 d

/-- An ACD domain that is not ON is asked ON while its SHD domain is not ON. -/
def domOrphan (s : State) (d v : Nat) : Prop :=
  v % 4 = 0 ∧ domOn (autoTaken s d v) d = false ∧ 16 ≤ d ∧ d < 32 ∧ domOn (autoTaken s d v) (d - 16) = false

/-- The domain with the written TARGET, STATUS OK. -/
def targetTaken (s : State) (d v : Nat) : State := domStatus (fset (autoTaken s d v) F.PWR_DOM_CTL.TARGET (v % 4) 0 d) d .ok

theorem exec_pwrDomCtlWrite (hd : d < 50) (h : Safety.writable s .PWR_DOM_CTL 0 d) : exec (.pwrDomCtlWrite d v) s = .next (domCtlWrite s d v) :=
  (if_neg (Nat.not_le.mpr hd)).trans (busWrite_next h fun s => domCtlWrite s d v)

theorem domBarred_iff : domBarred s d v ↔
    v % 4 = 3 ∨ (bit v 2 = true ∧ ¬ autoAllowed d = true) ∨ (bit v 2 = true ∧ flag s F.PWR_DOM_CTL.AUTO 0 d = true) := by
  rw [domBarred, and_or_left, Bool.not_eq_true]

theorem domApply_barred (h : domBarred s d v) : domApply s d v = s := if_pos (domBarred_iff.mp h)

theorem orphan_iff (a : State) : (match domParent d with | some p => !domOn a p | none => false) = true ↔ 16 ≤ d ∧ d < 32 ∧ domOn a (d - 16) = false := by
  unfold domParent
  split
  · next p hp =>
    split at hp
    · next hd =>
      cases hp
      simp [hd]
    · cases hp
  · next hp =>
    split at hp
    · cases hp
    · next hd => exact ⟨fun h => absurd h Bool.false_ne_true, fun h => absurd ⟨h.1, h.2.1⟩ hd⟩

theorem domApply_orphan (hb : ¬ domBarred s d v) (ho : domOrphan s d v) : domApply s d v = domStatus (autoTaken s d v) d .permission := by
  obtain ⟨htarget, hoff, hparent⟩ := ho
  exact (if_neg (mt domBarred_iff.mpr hb)).trans (if_pos ⟨htarget, ne_true_of_eq_false hoff, (orphan_iff _).mpr hparent⟩)

theorem domApply_taken (hb : ¬ domBarred s d v) (ho : ¬ domOrphan s d v) : domApply s d v = domGo (targetTaken s d v) d (v % 4) :=
  (if_neg (mt domBarred_iff.mpr hb)).trans
    (if_neg fun ⟨htarget, hoff, hparent⟩ => ho ⟨htarget, eq_false_of_ne_true hoff, (orphan_iff _).mp hparent⟩)

theorem domCtlWrite_none (h : domPhase s d = none) : domCtlWrite s d v = domApply s d v := by
  rw [domCtlWrite, h]

theorem domCtlWrite_barred (h : domBarred s d v) : domCtlWrite s d v = s := by
  unfold domCtlWrite
  split
  · exact domApply_barred h
  · refine if_pos (h.imp id fun ⟨hauto, hno⟩ => ⟨hauto, hno.imp (fun hdeny => ne_true_of_eq_false hdeny) id⟩)

theorem not_barred (h : ¬ domBarred s d v) : ¬ (v % 4 = 3 ∨ (bit v 2 = true ∧ (¬ autoAllowed d = true ∨ flag s F.PWR_DOM_CTL.AUTO 0 d = true))) := by
  rw [Bool.not_eq_true]
  exact h

/-- A transition that still quiesces is cancelled. -/
def domCancelled (s : State) (d v : Nat) : State :=
  domStatus (fset (fset (onPwr (endPhase s d) fun x => { x with heldWrites := tdel x.heldWrites d, demands := ndel x.demands d })
    F.PWR_DOM_CTL.TARGET 0 0 d) F.PWR_DOM_CTL.AUTO (v / 4 % 2) 0 d) d .ok

theorem domCtlWrite_cancel {k : Nat} (hb : ¬ domBarred s d v) (h : domPhase s d = some (.quiescing k)) (hon : v % 4 = 0) :
    domCtlWrite s d v = domCancelled s d v := by
  rw [domCtlWrite, h]
  exact (if_neg (not_barred hb)).trans (if_pos ⟨rfl, hon⟩)

theorem domCtlWrite_held {p : Phase} (hb : ¬ domBarred s d v) (h : domPhase s d = some p) (hno : (∀ k, p ≠ .quiescing k) ∨ v % 4 ≠ 0) :
    domCtlWrite s d v = onPwr s fun x => { x with heldWrites := tset x.heldWrites d v } := by
  rw [domCtlWrite, h]
  refine (if_neg (not_barred hb)).trans (if_neg ?_)
  rintro ⟨hq, hon⟩
  rcases hno with hno | hno
  · cases p with
    | quiescing k => exact hno k rfl
    | falling | ramping | initialising => exact absurd hq Bool.false_ne_true
  · exact hno hon

/-- What a cancelled transition leaves. -/
theorem domCancelled_reads (hd : d < 50) : domPhase (domCancelled s d v) d = none ∧ tget (domCancelled s d v).pwr.heldWrites d = none
    ∧ fget (domCancelled s d v) F.PWR_DOM_CTL.PENDING 0 d = 0 ∧ fget (domCancelled s d v) F.PWR_DOM_CTL.TARGET 0 d = 0
    ∧ fget (domCancelled s d v) F.PWR_DOM_CTL.STATUS 0 d = 0 := by
  have h64 : d < 64 := by omega
  have hpwr : (domCancelled s d v).pwr =
      { s.pwr with phases := tdel s.pwr.phases d, heldWrites := tdel s.pwr.heldWrites d, demands := ndel s.pwr.demands d } := by
    simp only [domCancelled, domStatus, endPhase, fset_pwr, onPwr]
  have hsame {f : Fld} (t : State) (x : Nat) (hlo : f.lo ≤ f.hi + 1) (hhi : f.hi < 64) : fget (fset t f x 0 d) f 0 d = x % 2 ^ (f.hi + 1 - f.lo) :=
    fget_fset_same (by decide) h64 hlo hhi
  have habove {f g : Fld} (t : State) (x : Nat) (hr : g.reg = f.reg) (hlt : f.hi < g.lo) (hlo : f.lo ≤ f.hi + 1) (hhi : f.hi < 64) :
      fget (fset t f x 0 d) g 0 d = fget t g 0 d := fget_fset_above (by decide) h64 hr hlt hlo hhi
  have hbelow {f g : Fld} (t : State) (x : Nat) (hr : g.reg = f.reg) (hlt : g.hi < f.lo) (hlo : f.lo ≤ f.hi + 1) (hhi : f.hi < 64) :
      fget (fset t f x 0 d) g 0 d = fget t g 0 d := fget_fset_below (by decide) h64 hr hlt hlo hhi
  refine ⟨?_, ?_, ?_, ?_, ?_⟩
  · rw [domPhase, hpwr, tget_tdel_same]
  · rw [hpwr, tget_tdel_same]
  · rw [domCancelled, domStatus, habove (f := F.PWR_DOM_CTL.STATUS) (g := F.PWR_DOM_CTL.PENDING) _ _ rfl (by decide) (by decide) (by decide),
      habove (f := F.PWR_DOM_CTL.AUTO) (g := F.PWR_DOM_CTL.PENDING) _ _ rfl (by decide) (by decide) (by decide),
      habove (f := F.PWR_DOM_CTL.TARGET) (g := F.PWR_DOM_CTL.PENDING) _ _ rfl (by decide) (by decide) (by decide)]
    exact hsame s 0 (by decide) (by decide)
  · rw [domCancelled, domStatus, hbelow (f := F.PWR_DOM_CTL.STATUS) (g := F.PWR_DOM_CTL.TARGET) _ _ rfl (by decide) (by decide) (by decide),
      hbelow (f := F.PWR_DOM_CTL.AUTO) (g := F.PWR_DOM_CTL.TARGET) _ _ rfl (by decide) (by decide) (by decide)]
    exact hsame _ 0 (by decide) (by decide)
  · rw [domCancelled, domStatus]
    exact hsame _ _ (by decide) (by decide)

end

/-! ### What keeps the domains' states -/

/-- t has every domain in the state and the phase that it has in s. -/
def KeepsDomains (s t : State) : Prop := (∀ w i, rget t .PWR_DOM_CTL w i = rget s .PWR_DOM_CTL w i) ∧ t.pwr.phases = s.pwr.phases

theorem KeepsDomains.refl (s : State) : KeepsDomains s s := ⟨fun _ _ => rfl, rfl⟩

theorem KeepsDomains.trans {s t u : State} (h : KeepsDomains s t) (h' : KeepsDomains t u) : KeepsDomains s u :=
  ⟨fun w i => (h'.1 w i).trans (h.1 w i), h'.2.trans h.2⟩

theorem KeepsDomains.now {s t : State} (h : KeepsDomains s t) (d : Nat) : domNow t d = domNow s d :=
  congrArg (bits · F.PWR_DOM_CTL.NOW.hi F.PWR_DOM_CTL.NOW.lo) (h.1 0 d)

theorem KeepsDomains.phase {s t : State} (h : KeepsDomains s t) (d : Nat) : domPhase t d = domPhase s d := by
  rw [domPhase, domPhase, h.2]

theorem keepsDomains_of_eq {s t : State} (hregs : t.regs = s.regs) (hpwr : t.pwr = s.pwr) : KeepsDomains s t :=
  ⟨fun w i => rget_congr hregs _ w i, congrArg Pwr.phases hpwr⟩

theorem keepsDomains_rset {r : Reg} (h : r ≠ .PWR_DOM_CTL) (s : State) (v w i : Nat) : KeepsDomains s (rset s r v w i) :=
  ⟨fun _ _ => rget_rset_ne fun e => h e.1.symm, by rw [rset_pwr]⟩

theorem keepsDomains_fset {f : Fld} (h : f.reg ≠ .PWR_DOM_CTL) (s : State) (v w i : Nat) : KeepsDomains s (fset s f v w i) := keepsDomains_rset h ..

theorem keepsDomains_ite {s t u : State} {c : Prop} [Decidable c] (ht : KeepsDomains s t) (hu : KeepsDomains s u) : KeepsDomains s (if c then t else u) := by
  split
  · exact ht
  · exact hu

theorem keepsDomains_foldl {α : Type} {k : State → α → State} (h : ∀ s a, KeepsDomains s (k s a)) (l : List α) (s : State) :
    KeepsDomains s (l.foldl k s) := by
  induction l generalizing s with
  | nil => exact .refl s
  | cons a l ih => exact (h s a).trans (ih _)

theorem keepsDomains_keepRegs {keep : Reg → Nat → Nat → Bool} (h : ∀ w i, keep .PWR_DOM_CTL w i = true) (s : State) : KeepsDomains s (keepRegs s keep) :=
  ⟨fun w i => rget_keepRegs (by decide) (h w i), rfl⟩

theorem keepsDomains_bankPower (s : State) (c b st : Nat) : KeepsDomains s (bankPower s c b st) :=
  .trans (keepsDomains_ite (keepsDomains_of_eq (t := zeroBank s c b) rfl rfl) (.refl s)) (keepsDomains_fset (f := F.FOL_BANK.PNOW) (by decide) ..)

theorem keepsDomains_domLose (s : State) (d : Nat) : KeepsDomains s (domLose s d) := by
  have hregs (t : State) : KeepsDomains t (if d = 41 then t else keepRegs t fun r w i => decide (r.domain w i ≠ some d)) :=
    keepsDomains_ite (.refl t) (keepsDomains_keepRegs (fun _ _ => rfl) t)
  have hmicro : KeepsDomains s (onXlt s fun x => { x with micro := x.micro.filter fun e => engineDomain e.1 ≠ d }) := keepsDomains_of_eq rfl rfl
  unfold domLose
  refine (hmicro.trans (hregs _)).trans ?_
  refine keepsDomains_ite (keepsDomains_foldl (fun t c => keepsDomains_of_eq (t := coreClear t c) rfl rfl) ..) ?_
  refine keepsDomains_ite (keepsDomains_foldl (fun t e => keepsDomains_of_eq (t := onEngine t e fun _ => {}) rfl rfl) ..) ?_
  refine keepsDomains_ite (keepsDomains_of_eq rfl rfl) (keepsDomains_ite (keepsDomains_of_eq rfl rfl) ?_)
  refine keepsDomains_ite (keepsDomains_of_eq rfl rfl) (keepsDomains_ite (keepsDomains_of_eq rfl rfl) ?_)
  exact keepsDomains_ite (keepsDomains_of_eq rfl rfl) (.refl _)

theorem keepsDomains_domViews (s : State) (d : Nat) : KeepsDomains s (domViews s d) := by
  unfold domViews
  refine keepsDomains_ite (keepsDomains_foldl (fun t b => keepsDomains_bankPower ..) ..) ?_
  refine keepsDomains_ite (keepsDomains_foldl (fun t k => keepsDomains_fset (by decide) ..) ..) ?_
  exact keepsDomains_ite (keepsDomains_fset (by decide) ..) (.refl s)

/-- The scheduler's end of channel 4 has no register of a domain. -/
theorem keepsDomains_chReset (s : State) : KeepsDomains s (chReset s 4) := by
  have hset (t : State) : KeepsDomains t (chSet t 4 0 false true) := by
    unfold chSet
    dsimp only
    rw [if_neg (by decide), if_neg (by decide)]
    refine .trans ?_ (keepsDomains_fset (f := F.MBX_RX_STATUS.FULL) (by decide) ..)
    refine .trans ?_ (keepsDomains_rset (r := .MBX_RX) (by decide) ..)
    exact keepsDomains_of_eq rfl rfl
  have habort (t : State) : KeepsDomains t (chAborted t 4) := by
    unfold chAborted
    rw [if_neg (by decide), if_neg (by decide)]
    exact keepsDomains_of_eq rfl rfl
  exact keepsDomains_ite ((hset s).trans (habort _)) (.refl s)

theorem keepsDomains_flushParked (s : State) (k : Nat) : KeepsDomains s (flushParked s k) :=
  .trans (keepsDomains_of_eq rfl rfl) (keepsDomains_foldl (fun t l => keepsDomains_of_eq (t := hbmStore t l) rfl rfl) ..)

theorem keepsDomains_stackUp (s : State) (k : Nat) : KeepsDomains s (stackUp s k) := by
  unfold stackUp
  refine .trans ?_ (keepsDomains_flushParked _ k)
  exact keepsDomains_ite (keepsDomains_of_eq rfl rfl) (.refl s)

theorem keepsDomains_domWake {d : Nat} (hd : d < 44) (s : State) (wasOff : Bool) : KeepsDomains s (domWake s d wasOff) := by
  unfold domWake
  refine keepsDomains_ite ((keepsDomains_stackUp ..).trans (keepsDomains_domViews ..)) (keepsDomains_ite ?_ ?_)
  · refine .trans (keepsDomains_fset (f := F.HIF_RATE_NOW.RATE) (by decide) s 0 0 0) (keepsDomains_ite ?_ (.refl _))
    exact keepsDomains_foldl (fun t sl => keepsDomains_of_eq (t := truUnbind t sl) rfl rfl) ..
  · rw [if_neg (by omega), if_neg (by omega)]
    exact keepsDomains_domViews s d

/-! ### The steps of a transition -/

section

variable {s : State} {d k : Nat}

/-- The transition is over, and the domain is in state k. -/
def domArrived (s : State) (d k : Nat) : State := domStatus (fset (endPhase s d) F.PWR_DOM_CTL.NOW k 0 d) d .ok

theorem domArrived_now (hd : d < 50) (hk : k < 4) : domNow (domArrived s d k) d = k := by
  have hstatus : domNow (domArrived s d k) d = domNow (fset (endPhase s d) F.PWR_DOM_CTL.NOW k 0 d) d :=
    fget_fset_above (f := F.PWR_DOM_CTL.STATUS) (g := F.PWR_DOM_CTL.NOW) (by decide) (by omega) rfl (by decide) (by decide) (by decide)
  have hset : domNow (fset (endPhase s d) F.PWR_DOM_CTL.NOW k 0 d) d = k % 4 :=
    fget_fset_same (f := F.PWR_DOM_CTL.NOW) (by decide) (by omega) (by decide) (by decide)
  rw [hstatus, hset, Nat.mod_eq_of_lt hk]

theorem domArrived_phase : domPhase (domArrived s d k) d = none := by
  simp only [domPhase, domArrived, domStatus, endPhase, fset_pwr, onPwr, tget_tdel_same]

theorem keepsDomains_domDown (s : State) (d k : Nat) : KeepsDomains (domArrived s d k) (domDown s d k) :=
  ((keepsDomains_ite (keepsDomains_domLose ..) (.refl _)).trans (keepsDomains_domViews ..)).trans (keepsDomains_ite (keepsDomains_chReset _) (.refl _))

theorem domNow_setPhase (hd : d < 50) (p : Phase) : domNow (setPhase s d p) d = domNow s d :=
  fget_fset_below (f := F.PWR_DOM_CTL.PENDING) (g := F.PWR_DOM_CTL.NOW) (by decide) (by omega) rfl (by decide) (by decide) (by decide)

theorem domPhase_setPhase (p : Phase) : domPhase (setPhase s d p) d = some p := by
  simp only [domPhase, setPhase, onPwr, fset_pwr, tget_tset_same]

theorem exec_domainQuiesced (h : Safety.powered s) (hp : domPhase s d = some (.quiescing k)) :
    exec (.domainQuiesced d) s = .next (if quiesced s d k then latchPads (setPhase s d (.falling k)) d else s) := by
  change execDomainQuiesced d s = _
  rw [execDomainQuiesced, powered_next h, hp]

theorem exec_domainDownDone (h : Safety.powered s) (hp : domPhase s d = some (.falling k)) :
    exec (.domainDownDone d) s = .next (domSettled (domDown s d k) d) := by
  change execDomainDownDone d s = _
  rw [execDomainDownDone, powered_next h, hp]

/-- The slices of a quadrant invalidate. -/
def slicesInvalidating (s : State) (d : Nat) : State := (upFrom (8 * (d - 32)) 8).foldl (fun s k => fset s F.L2_SLICE_STATUS.STATE 1 0 k) s

theorem exec_powerGoodRise (hd : d < 50) (h : Safety.powered s) (hp : domPhase s d = some .ramping) : exec (.powerGoodRise d) s =
    let t := setPhase s d .initialising
    .next (if domNow s d ≠ 2 then t else if 32 ≤ d ∧ d < 36 then slicesInvalidating t d
      else if 36 ≤ d ∧ d < 40 then fset t F.MEM_STACK_STATUS.STATE 3 0 (d - 36) else t) := by
  change execPowerGoodRise d s = _
  rw [execPowerGoodRise, powered_next h, hp]
  dsimp only
  rw [domNow_setPhase hd]
  rfl

theorem fget_foldl_fset {f : Fld} (hlo : f.lo ≤ f.hi + 1) (hhi : f.hi < 64) (v : Nat) {k : Nat} (hk : k < 64) (l : List Nat) (s : State) (hl : k ∈ l) :
    fget (l.foldl (fun s k => fset s f v 0 k) s) f 0 k = v % 2 ^ (f.hi + 1 - f.lo) := by
  induction l generalizing s with
  | nil => cases hl
  | cons a l ih =>
    by_cases hin : k ∈ l
    · exact ih _ hin
    · have hkeep (t : State) (ha : ∀ a ∈ l, a ≠ k) : fget (l.foldl (fun s k => fset s f v 0 k) t) f 0 k = fget t f 0 k := by
        clear ih hl hin
        induction l generalizing t with
        | nil => rfl
        | cons a l ih =>
          refine (ih _ fun b hb => ha b (List.mem_cons_of_mem a hb)).trans (fget_fset_ne fun e => ?_)
          exact ha a List.mem_cons_self e.2.2.symm
      have hka : k = a := (List.mem_cons.mp hl).resolve_right hin
      subst hka
      exact (hkeep _ fun a ha e => hin (e ▸ ha)).trans (fget_fset_same (by decide) hk hlo hhi)

theorem keepsDomains_slicesInvalidating : KeepsDomains s (slicesInvalidating s d) :=
  keepsDomains_foldl (fun t k => keepsDomains_fset (f := F.L2_SLICE_STATUS.STATE) (by decide) ..) ..

theorem slicesInvalidating_state (hlo : 32 ≤ d) (hhi : d < 36) (hk : k < 8) :
    fget (slicesInvalidating s d) F.L2_SLICE_STATUS.STATE 0 (8 * (d - 32) + k) = 1 :=
  fget_foldl_fset (f := F.L2_SLICE_STATUS.STATE) (by decide) (by decide) 1 (by omega) _ s (List.mem_range'_1.mpr (by omega))

theorem exec_powerGoodTimeout (h : Safety.powered s) (hp : domPhase s d = some .ramping) : exec (.powerGoodTimeout d) s =
    .next (domSettled (raiseBare (domStatus (endPhase s d) d .domainOff) 0x12F .domainOff 0 (.system 6 d 0 0)) d) := by
  change execPowerGoodTimeout d s = _
  rw [execPowerGoodTimeout, powered_next h, hp]

theorem exec_domainUpDone (h : Safety.powered s) (hp : domPhase s d = some .initialising) :
    exec (.domainUpDone d) s = .next (if invalidating s d then s else domSettled (domUpDone s d) d) := by
  change execDomainUpDone d s = _
  rw [execDomainUpDone, powered_next h, hp]

theorem keepsDomains_domUpDone (hd : d < 44) (s : State) : KeepsDomains (domArrived s d 0) (domUpDone s d) := keepsDomains_domWake hd ..

theorem exec_powerGoodLost (hd : d < 50) (h : Safety.powered s) : exec (.powerGoodLost d) s = .next (if ¬ domOn s d then s else
    raise s { time := 0, unit := 0x12F, status := .uncorrectableEcc, level := if d < 32 then 5 else 6, context := none, function := none,
              detail := .system 6 d 0 0, target := some (if d < 32 then 8 * (d % 16) else 0x110) }) := by
  have hin : ¬ 50 ≤ d := Nat.not_le.mpr hd
  refine (powered_next h _).trans (congrArg _ ?_)
  simp only [hin, false_or]

theorem exec_autoIdleExpiry (hd : d < 50) (h : Safety.powered s) (hauto : fget s F.PWR_DOM_CTL.AUTO 0 d = 1) (hon : domOn s d = true)
    (hp : domPhase s d = none) (hidle : fget s F.PWR_AUTO_IDLE.IDLE_US ≠ 0) :
    exec (.autoIdleExpiry d) s = .next (if ¬ quiesced s d 2 then s else setPhase s d (.quiescing 2)) := by
  have hin : ¬ 50 ≤ d := Nat.not_le.mpr hd
  refine (powered_next h _).trans (congrArg _ ?_)
  simp only [hin, flag_eq_true hauto, hon, hp, hidle, not_true_eq_false, Option.isSome_none, Bool.false_eq_true, false_or]

end

/-! ### Pads -/

section

variable {s : State}

theorem keepsReg_uapTry {r : Reg} (hstatus : r ≠ .UAP_STATUS) (hpeer : r ≠ .UAP_PEER) (s : State) (p : Nat) : KeepsReg r s (uapTry s p) := by
  have htrain (h1 : uapState s p ≠ 1) (h2 : uapState s p ≠ 2) : KeepsReg r s (uapMove s p 1) := by
    have hirq : ¬ (uapState s p = 2 ∨ (1 : Nat) = 2) := by omega
    unfold uapMove
    simp only [if_neg h1, if_neg h2, if_neg hirq, reduceIte]
    exact ((keepsReg_fset hstatus ..).trans (keepsReg_fset hpeer ..)).trans (keepsReg_of_eq rfl rfl)
  unfold uapTry
  refine keepsReg_ite (.refl r s) ?_
  split
  · next h => exact keepsReg_ite (htrain (by omega) (by omega)) (.refl r s)
  · next h => exact keepsReg_ite (htrain (by omega) (by omega)) (.refl r s)
  · next h => exact htrain (by omega) (by omega)
  · exact .refl r s

theorem keepsReg_linkTry {r : Reg} (h : r ≠ .DSP_OUT_STATUS) (s : State) (n : Nat) : KeepsReg r s (linkTry s n) :=
  keepsReg_ite (keepsReg_fset h ..) (.refl r s)

theorem testBit_foldl_without (l : List Nat) (v b : Nat) :
    (l.foldl (fun x b => without x (2 ^ b)) v).testBit b = (v.testBit b && decide (b ∉ l)) := by
  induction l generalizing v with
  | nil => simp
  | cons a l ih =>
    rw [List.foldl_cons, ih, testBit_without, Nat.testBit_two_pow]
    by_cases ha : a = b
    · simp [ha]
    · simp [ha, Ne.symm ha]

theorem mem_padBits {v b : Nat} (hb : b < 10) : b ∈ padBits s v ↔ (bit v b && domOn s (padDomain b)) = true := by
  rw [padBits, List.mem_filter, List.mem_range]
  exact and_iff_right hb

/-- Released pads are those of domains that are ON, and no others. -/
theorem bit_padRelease {v b : Nat} (hb : b < 10) :
    bit (rget (padRelease s v) .PWR_PAD_RELEASE) b = (bit (rget s .PWR_PAD_RELEASE) b && !(bit v b && domOn s (padDomain b))) := by
  have hkeep (l : List Nat) (t : State) :
      KeepsReg .PWR_PAD_RELEASE t (l.foldl (fun s b => if b < 4 then linkTry s b else if b < 6 then uapTry s (b - 4) else s) t) :=
    keepsReg_foldl (fun t b => keepsReg_ite (keepsReg_linkTry (by decide) ..) (keepsReg_ite (keepsReg_uapTry (by decide) (by decide) ..) (.refl _ t))) l t
  have hrelease : decide (b ∉ padBits s v) = !(bit v b && domOn s (padDomain b)) := by
    rw [decide_not, Bool.eq_iff_iff.mpr (decide_eq_true_iff.trans (mem_padBits hb))]
  rw [padRelease, (hkeep _ _).1, rget_rset_mod (by decide) (by decide), bit_eq_testBit, Nat.testBit_mod_two_pow, testBit_foldl_without, hrelease,
    decide_eq_true (by omega : b < 64), Bool.true_and, bit_eq_testBit, bit_eq_testBit]

end

/-- Settles O51. That TARGET alone is stored for a RETENTION that OFF cannot take, and that the last held write counts, is deduced (log 93). -/
theorem powerDomains : Obligations.PowerDomains := by
  refine ⟨fun s d v hd h => ?write, fun s d k h hp => ?quiesced, fun s d k hd hk h hp => ?down, fun s d hd h hp => ?rise, fun s d hd h hp => ?up,
    fun s d hd h => ?lost, fun s v h => ⟨_, busWrite_next h fun s => padRelease s v, fun b hb => bit_padRelease hb⟩⟩
  case write =>
    intro barred a orphan t
    rw [exec_pwrDomCtlWrite hd h]
    refine ⟨fun hb => congrArg _ (domCtlWrite_barred hb), fun hb hnone => ?_,
      fun hb p hp => ⟨fun k hk hon => ?_, fun hno => congrArg _ (domCtlWrite_held hb hp hno)⟩⟩
    · rw [domCtlWrite_none hnone]
      refine ⟨fun ho => congrArg _ (domApply_orphan hb ho), fun ho hsame => ?_, fun htarget hmove hret => ?_, fun ho htarget hmove => ?_⟩
      · rw [domApply_taken hb ho]
        exact congrArg _ (if_pos hsame)
      · rw [domApply_taken hb fun ho => htarget ho.1]
        exact congrArg _ ((if_neg (fun hsame => hsame.elim hmove hret)).trans (if_neg htarget))
      · have hgo : ¬ (v % 4 = domNow t d ∨ (domNow t d = 2 ∧ v % 4 = 1)) := by
          rw [htarget]
          exact fun hsame => hsame.elim (fun h0 => hmove h0.symm) fun hret => absurd hret.2 (by decide)
        rw [domApply_taken hb ho]
        exact congrArg _ ((if_neg hgo).trans (if_pos htarget))
    · subst hk
      rw [domCtlWrite_cancel hb hp hon]
      exact ⟨_, rfl, domCancelled_reads hd⟩
  case quiesced =>
    rw [exec_domainQuiesced h hp]
    exact ⟨fun hq => congrArg _ (if_pos hq), fun hq => congrArg _ (if_neg (ne_true_of_eq_false hq))⟩
  case down =>
    have hkeep := keepsDomains_domDown s d k
    exact ⟨exec_domainDownDone h hp, (hkeep.now d).trans (domArrived_now hd (by omega)), (hkeep.phase d).trans domArrived_phase⟩
  case rise =>
    rw [exec_powerGoodRise hd h hp, exec_powerGoodTimeout h hp]
    refine ⟨fun hother => congrArg _ ?_, fun hlo hhi hoff => ⟨slicesInvalidating (setPhase s d .initialising) d, congrArg _ ?_, ?_, fun k hk => ?_⟩,
      fun hlo hhi hoff => congrArg _ ?_, rfl⟩
    · by_cases hoff : domNow s d = 2
      · have hquad : ¬ (32 ≤ d ∧ d < 36) := by omega
        have hstack : ¬ (36 ≤ d ∧ d < 40) := by omega
        rw [if_neg (not_not_intro hoff), if_neg hquad, if_neg hstack]
      · rw [if_pos hoff]
    · rw [if_neg (not_not_intro hoff), if_pos ⟨hlo, hhi⟩]
    · exact (keepsDomains_slicesInvalidating.phase d).trans (domPhase_setPhase _)
    · exact slicesInvalidating_state hlo hhi hk
    · have hquad : ¬ (32 ≤ d ∧ d < 36) := by omega
      rw [if_neg (not_not_intro hoff), if_neg hquad, if_pos ⟨hlo, hhi⟩]
  case up =>
    rw [exec_domainUpDone h hp]
    refine ⟨fun hinv => congrArg _ (if_pos hinv), fun hinv => ⟨congrArg _ (if_neg (ne_true_of_eq_false hinv)), fun h44 => ?_⟩⟩
    have hkeep := keepsDomains_domUpDone h44 s
    exact ⟨(hkeep.now d).trans (domArrived_now hd (by decide)), (hkeep.phase d).trans domArrived_phase⟩
  case lost =>
    rw [exec_powerGoodLost hd h]
    refine ⟨fun hon => congrArg _ (if_neg (not_not_intro hon)), fun hon => congrArg _ (if_pos (ne_true_of_eq_false hon)), fun hauto hon hnone hidle => ?_⟩
    rw [exec_autoIdleExpiry hd h hauto hon hnone hidle]
    exact ⟨fun hq => congrArg _ (if_neg (not_not_intro hq)), fun hq => congrArg _ (if_pos (ne_true_of_eq_false hq))⟩

end Sys2Proof.Proofs

/-!
## Sillage, the loops and telemetry (O52)
-/

namespace Sys2Proof.Proofs

open Machine Laws

/-! ### Fields beside the one that is written -/

/-- A write of field f at any copy leaves field g of the first copy. -/
def apart (f g : Fld) : Bool := decide (g.reg ≠ f.reg ∨ g.hi < f.lo ∨ f.hi < g.lo) && decide (f.lo ≤ f.hi + 1 ∧ f.hi < 64)

theorem fget_fset_apart {s : State} {f g : Fld} {v : Nat} (h : apart f g = true) : fget (fset s f v) g = fget s g := by
  simp only [apart, Bool.and_eq_true, decide_eq_true_eq] at h
  obtain ⟨hapart, hlo, hhi⟩ := h
  by_cases hr : g.reg = f.reg
  · rcases hapart with hne | hlt | hlt
    · exact absurd hr hne
    · exact fget_fset_below (by decide) (by decide) hr hlt hlo hhi
    · exact fget_fset_above (by decide) (by decide) hr hlt hlo hhi
  · exact fget_fset_ne fun e => hr e.1

/-! ### Entry -/

section

variable {s : State} {v : Nat}

/-- PWR_SILLAGE as a write of v leaves it. -/
def sillageNew (s : State) (v : Nat) : Nat := Reg.written .PWR_SILLAGE (rget s .PWR_SILLAGE) v (2 ^ 31 - 1)

theorem exec_sillageEnter (h : Safety.writable s .PWR_SILLAGE 0 0) : exec (.sillageEnter v) s = .next (
    if ¬ Reg.inRange .PWR_SILLAGE (sillageNew s v) then s else sillageEnter (rset s .PWR_SILLAGE (sillageNew s v))) := by
  change execSillageEnter v s = _
  rw [execSillageEnter, busWrite_next h]
  rfl

theorem exec_sillageEnter_taken (h : Safety.writable s .PWR_SILLAGE 0 0) (hr : Reg.inRange .PWR_SILLAGE (sillageNew s v) = true) :
    exec (.sillageEnter v) s = .next (sillageEnter (rset s .PWR_SILLAGE (sillageNew s v))) :=
  (exec_sillageEnter h).trans (congrArg _ (if_neg (not_not_intro hr)))

theorem sillageEnter_elsewhere (h : sillage s ≠ 0) : sillageEnter s = s := if_pos h

theorem sillageEnter_refused (h : sillage s = 0) (hr : sillageRefused s = true) :
    sillageEnter s = onPwr (fset s F.PWR_SILLAGE.REFUSED 1) fun p => { p with wakeSeen := false } :=
  (if_neg (not_not_intro h)).trans (if_pos hr)

theorem sillageEnter_starts (h : sillage s = 0) (hr : sillageRefused s = false) :
    sillageEnter s = stacksDown (fset (onPwr s fun p => { p with wakeSeen := false, hpdAtEntry := s.boot.hpd }) F.PWR_SILLAGE.STATE 1) :=
  (if_neg (not_not_intro h)).trans (if_neg (ne_true_of_eq_false hr))

/-- The set-point and the fan of Sillage. -/
def sillageSupply (s : State) : State :=
  let t := fset s F.PWR_VDD.TARGET_MV 550
  if flag t F.INT_HOLD.FAN then t else fset t F.PWR_FAN.DUTY (fget t F.PWR_SILLAGE.FAN_DUTY)

/-- The registers of the device in Sillage. -/
def sillageShown (s : State) : State := fset (fset (sillageSupply s) F.PWR_SILLAGE.STATE 2) F.PWR_WAKE_CAUSE.SAMPLES 0

/-- The device is in Sillage. -/
def sillageIn (s : State) : State := onPwr (sillageShown s) fun p => { p with ccxHalted := true, sillageAt := (sillageShown s).time }

theorem exec_sillageEntryDone (h : Safety.powered s) (h1 : sillage s = 1) (hrest : stacksRest s = true) :
    exec .sillageEntryDone s = .next (sillageIn s) := by
  have hgo : ¬ (sillage s ≠ 1 ∨ ¬ stacksRest s = true) := by simp [h1, hrest]
  change execSillageEntryDone s = _
  rw [execSillageEntryDone, powered_next h, if_neg hgo]
  simp only [sillageIn, sillageShown, sillageSupply]

theorem sillageSupply_time : (sillageSupply s).time = s.time := by
  simp only [sillageSupply, apply_ite State.time, fset_time, ite_self]

theorem sillageSupply_target : fget (sillageSupply s) F.PWR_VDD.TARGET_MV = 550 := by
  have hset : fget (fset s F.PWR_VDD.TARGET_MV 550) F.PWR_VDD.TARGET_MV = 550 :=
    fget_fset_same (f := F.PWR_VDD.TARGET_MV) (by decide) (by decide) (by decide) (by decide)
  unfold sillageSupply
  dsimp only
  split
  · exact hset
  · exact (fget_fset_apart (by decide)).trans hset

theorem sillageIn_reads : sillage (sillageIn s) = 2 ∧ fget (sillageIn s) F.PWR_VDD.TARGET_MV = 550 ∧ (sillageIn s).pwr.ccxHalted = true
    ∧ (sillageIn s).pwr.sillageAt = s.time ∧ fget (sillageIn s) F.PWR_WAKE_CAUSE.SAMPLES = 0 := by
  refine ⟨?_, ?_, rfl, ?_, ?_⟩
  · rw [sillage, sillageIn, fget_onPwr, sillageShown, fget_fset_apart (by decide)]
    exact fget_fset_same (f := F.PWR_SILLAGE.STATE) (by decide) (by decide) (by decide) (by decide)
  · rw [sillageIn, fget_onPwr, sillageShown, fget_fset_apart (by decide), fget_fset_apart (by decide), sillageSupply_target]
  · rw [sillageIn, onPwr, sillageShown, fset_time, fset_time, sillageSupply_time]
  · rw [sillageIn, fget_onPwr, sillageShown]
    exact fget_fset_same (f := F.PWR_WAKE_CAUSE.SAMPLES) (by decide) (by decide) (by decide) (by decide)

end

/-! ### Samples -/

section

variable {s : State}

theorem exec_sillageSample (h : Safety.powered s) (hf : failsafe s = false) (h2 : sillage s = 2) (hat : s.pwr.sillageAt ≤ s.time)
    (hint : (s.time - s.pwr.sillageAt) % (1000000 * fget s F.PWR_SILLAGE.INTERVAL_MS) = 0) (tj stack tach : Nat) (hpd : List Nat) :
    exec (.sillageSample tj stack tach hpd) s =
    let t := fcount s F.PWR_WAKE_CAUSE.SAMPLES
    .next (if 105 < tj then failsafeEnter t 7
      else if fget t F.PWR_SILLAGE.TEMP_WAKE ≤ Nat.max tj stack then wakeReport t 4 0
      else if tach < 300 ∧ fget t F.PWR_SILLAGE.FAN_DUTY ≠ 0 then wakeReport t 5 0
      else match hpdDiffers t hpd with
        | some n => wakeReport (hpdSet t n (decide (n ∈ hpd))) 3 n
        | none => t) := by
  have hgo : ¬ (sillage s ≠ 2 ∨ failsafe s = true ∨ s.time < s.pwr.sillageAt
      ∨ (s.time - s.pwr.sillageAt) % (1000000 * fget s F.PWR_SILLAGE.INTERVAL_MS) ≠ 0) := by
    simp [h2, hf, hat, hint]
  exact (powered_next h _).trans (congrArg _ (if_neg hgo))

end

/-! ### The wake sequence -/

section

variable {s : State} {j k : Nat}

/-- Stack k is in service. -/
def Resumed (s : State) (k : Nat) : Prop := domOn s (36 + k) = true ∧ fget s F.MEM_STACK_STATUS.STATE 0 k = 0

/-- A stack's domain is ON and its pads are released. -/
def stackPowered (s : State) (k : Nat) : State :=
  domStatus (domSet (fset (endPhase s (36 + k)) F.PWR_PAD_RELEASE.HBM (without (fget s F.PWR_PAD_RELEASE.HBM) (2 ^ k))) (36 + k) 0) (36 + k) .ok

/-- Self-refresh ends, and write-backs that waited go to the stack. -/
def stackServed (s : State) (k : Nat) : State :=
  flushParked (onMem s fun m => { m with stackTbl := tset m.stackTbl k { stackOf s k with selfRefresh := false } }) k

theorem stackResume_eq (s : State) (k : Nat) : stackResume s k = fset (stackServed (stackPowered s k) k) F.MEM_STACK_STATUS.STATE 0 0 k := rfl

theorem keepsDomains_stackResume (s : State) (k : Nat) : KeepsDomains (stackPowered s k) (stackResume s k) := by
  rw [stackResume_eq, stackServed]
  refine .trans (.trans ?_ (keepsDomains_flushParked ..)) (keepsDomains_fset (f := F.MEM_STACK_STATUS.STATE) (by decide) ..)
  exact keepsDomains_of_eq rfl rfl

theorem flushParked_regs (s : State) (k : Nat) : (flushParked s k).regs = s.regs := by
  have hstore (l : List Line) (t : State) : (l.foldl hbmStore t).regs = t.regs := by
    induction l generalizing t with
    | nil => rfl
    | cons a l ih => exact ih (hbmStore t a)
  exact hstore _ _

theorem flushParked_pwr (s : State) (k : Nat) : (flushParked s k).pwr = s.pwr := by
  have hstore (l : List Line) (t : State) : (l.foldl hbmStore t).pwr = t.pwr := by
    induction l generalizing t with
    | nil => rfl
    | cons a l ih => exact ih (hbmStore t a)
  exact hstore _ _

theorem domNow_stackPowered_same (hk : k < 4) : domNow (stackPowered s k) (36 + k) = 0 := by
  have hstatus (t : State) : domNow (domStatus t (36 + k) .ok) (36 + k) = domNow t (36 + k) :=
    fget_fset_above (f := F.PWR_DOM_CTL.STATUS) (g := F.PWR_DOM_CTL.NOW) (by decide) (by omega) rfl (by decide) (by decide) (by decide)
  rw [stackPowered, hstatus, domNow_domSet_same _ _ (by omega)]

theorem domNow_stackPowered_ne (hne : j ≠ k) : domNow (stackPowered s k) (36 + j) = domNow s (36 + j) := by
  have hidx : 36 + j ≠ 36 + k := by omega
  have hother {f : Fld} (t : State) (v : Nat) : domNow (fset t f v 0 (36 + k)) (36 + j) = domNow t (36 + j) := fget_fset_ne fun e => hidx e.2.2
  have hend (t : State) : domNow (endPhase t (36 + k)) (36 + j) = domNow t (36 + j) := hother ..
  have hpads (t : State) (v : Nat) : domNow (fset t F.PWR_PAD_RELEASE.HBM v) (36 + j) = domNow t (36 + j) := fget_fset_ne fun e => absurd e.1 (by decide)
  rw [stackPowered, domStatus, hother, domNow_domSet_ne _ _ hidx, hpads, hend]

theorem stackState_stackResume_ne (hne : j ≠ k) :
    fget (stackResume s k) F.MEM_STACK_STATUS.STATE 0 j = fget s F.MEM_STACK_STATUS.STATE 0 j := by
  have hserved (t : State) : fget (stackServed t k) F.MEM_STACK_STATUS.STATE 0 j = fget t F.MEM_STACK_STATUS.STATE 0 j :=
    fget_congr (flushParked_regs ..) ..
  have hother {f : Fld} (hf : f.reg ≠ .MEM_STACK_STATUS) (t : State) (v i : Nat) :
      fget (fset t f v 0 i) F.MEM_STACK_STATUS.STATE 0 j = fget t F.MEM_STACK_STATUS.STATE 0 j := fget_fset_ne fun e => hf e.1.symm
  have hset (t : State) (v i : Nat) : fget (domSet t i v) F.MEM_STACK_STATUS.STATE 0 j = fget t F.MEM_STACK_STATUS.STATE 0 j :=
    congrArg (bits · F.MEM_STACK_STATUS.STATE.hi F.MEM_STACK_STATUS.STATE.lo) (rget_domSet_ne t i v (by decide) 0 j)
  have hend (t : State) (i : Nat) : fget (endPhase t i) F.MEM_STACK_STATUS.STATE 0 j = fget t F.MEM_STACK_STATUS.STATE 0 j := hother (by decide) ..
  rw [stackResume_eq, fget_fset_ne fun e => hne e.2.2, hserved, stackPowered, domStatus, hother (by decide), hset, hother (by decide), hend]

theorem resumed_stackResume (hk : k < 4) : Resumed (stackResume s k) k :=
  ⟨decide_eq_true (((keepsDomains_stackResume s k).now _).trans (domNow_stackPowered_same hk)),
    fget_fset_same (f := F.MEM_STACK_STATUS.STATE) (by decide) (by omega) (by decide) (by decide)⟩

/-- A stack that is in service stays so as others follow. -/
theorem Resumed.stackResume (hj : j < 4) (h : Resumed s j) (k : Nat) : Resumed (Machine.stackResume s k) j := by
  by_cases hjk : j = k
  · exact hjk ▸ resumed_stackResume hj
  · obtain ⟨hon, hstate⟩ := h
    have hnow : domNow (Machine.stackResume s k) (36 + j) = domNow s (36 + j) :=
      ((keepsDomains_stackResume s k).now _).trans (domNow_stackPowered_ne hjk)
    exact ⟨decide_eq_true (hnow.trans (of_decide_eq_true hon)), (stackState_stackResume_ne hjk).trans hstate⟩

theorem Resumed.foldl (hj : j < 4) (h : Resumed s j) (l : List Nat) : Resumed (l.foldl Machine.stackResume s) j := by
  induction l generalizing s with
  | nil => exact h
  | cons k l ih => exact ih (h.stackResume hj k)

theorem resumed_foldl {l : List Nat} (hk : k < 4) (hin : k ∈ l) (s : State) : Resumed (l.foldl stackResume s) k := by
  induction l generalizing s with
  | nil => cases hin
  | cons a l ih =>
    rcases List.mem_cons.mp hin with rfl | hin
    · exact (resumed_stackResume hk).foldl hk l
    · exact ih hin _

theorem stackResume_ccxHalted (s : State) (k : Nat) : (stackResume s k).pwr.ccxHalted = s.pwr.ccxHalted := by
  have hserved (t : State) : (stackServed t k).pwr = t.pwr := flushParked_pwr ..
  have hend : (endPhase s (36 + k)).pwr.ccxHalted = s.pwr.ccxHalted := by
    rw [endPhase, onPwr, fset_pwr]
  rw [stackResume_eq, fset_pwr, hserved, stackPowered, domStatus, fset_pwr, domSet, fset_pwr, fset_pwr, fset_pwr, fset_pwr, hend]

theorem foldl_stackResume_ccxHalted (l : List Nat) (s : State) : (l.foldl stackResume s).pwr.ccxHalted = s.pwr.ccxHalted := by
  induction l generalizing s with
  | nil => rfl
  | cons k l ih => exact (ih _).trans (stackResume_ccxHalted s k)

/-- The device has left Sillage. -/
def sillageLeft (s : State) : State :=
  let t := onPwr s fun p => { p with ccxHalted := false }
  fset ((List.range 4).foldl stackResume (fset t F.PWR_VDD.TARGET_MV t.pwr.loopTarget)) F.PWR_SILLAGE.STATE 0

theorem exec_wakeSequenceDone (h : Safety.powered s) (hf : failsafe s = false) (h3 : sillage s = 3) : exec .wakeSequenceDone s = .next (sillageLeft s) := by
  have hgo : ¬ (sillage s ≠ 3 ∨ failsafe s = true) := by simp [h3, hf]
  exact (powered_next h _).trans (congrArg _ (if_neg hgo))

theorem sillageLeft_reads : sillage (sillageLeft s) = 0 ∧ (sillageLeft s).pwr.ccxHalted = false
    ∧ ∀ k, k < 4 → domOn (sillageLeft s) (36 + k) = true ∧ fget (sillageLeft s) F.MEM_STACK_STATUS.STATE 0 k = 0 := by
  unfold sillageLeft
  refine ⟨?_, ?_, fun k hk => ?_⟩
  · exact fget_fset_same (f := F.PWR_SILLAGE.STATE) (by decide) (by decide) (by decide) (by decide)
  · dsimp only
    rw [fset_pwr, foldl_stackResume_ccxHalted, fset_pwr]
    rfl
  · obtain ⟨hon, hstate⟩ := resumed_foldl hk (List.mem_range.mpr hk) (fset (onPwr s fun p => { p with ccxHalted := false }) F.PWR_VDD.TARGET_MV s.pwr.loopTarget)
    exact ⟨decide_eq_true (((keepsDomains_fset (f := F.PWR_SILLAGE.STATE) (by decide) ..).now _).trans (of_decide_eq_true hon)),
      (fget_fset_ne fun e => absurd e.1 (by decide)).trans hstate⟩

end

/-! ### The loops -/

section

variable {s : State}

theorem exec_powerLoopPeriod (h : Safety.powered s) (hact : fwActive s = true) (h0 : sillage s = 0) (logs : List LogMsg) :
    exec (.powerLoopPeriod logs) s =
    let r := readClears s .HIF_RATE_MIN
    let vmax := fget r F.PWR_LIMIT.V_MAX
    let v := Nat.max 550 (Nat.min vmax (loopStep r (fget r F.PWR_VDD.TARGET_MV)))
    let u := fset (onPwr r fun p => { p with loopTarget := v, throttled := decide (v < vmax) }) F.PWR_VDD.TARGET_MV v
    .next (logAll (if (decide (v < vmax) && !r.pwr.throttled) = true then notice u 1 1 v else u) logs) := by
  have hgo : ¬ (¬ fwActive s = true ∨ sillage s ≠ 0) := by simp [hact, h0]
  exact (powered_next h _).trans (congrArg _ (if_neg hgo))

theorem exec_thermalLoopPeriod (h : Safety.powered s) (hact : fwActive s = true) (h0 : sillage s = 0) (warn fanFault : Bool) (logs : List LogMsg) :
    exec (.thermalLoopPeriod warn fanFault logs) s =
    let w := if warn then notice (fanSet s) 2 2 (hottest (fanSet s)) else fanSet s
    let f := if fanFault then notice w 2 3 (fget w F.PWR_FAN.TACH / 16) else w
    .next (logAll f logs) := by
  have hgo : ¬ (¬ fwActive s = true ∨ sillage s ≠ 0) := by simp [hact, h0]
  exact (powered_next h _).trans (congrArg _ (if_neg hgo))

theorem fanSet_held (h : fget s F.INT_HOLD.FAN = 1) : fanSet s = s := if_pos (flag_eq_true h)

/-- Where the line is a whole number of percent, the duty is that number. -/
theorem fanSet_exact {n : Nat} (h : fget s F.INT_HOLD.FAN = 0) (hpos : 60 ≤ fget s F.PWR_LIMIT.T_THROTTLE)
    (hline : fanLine (fget s F.PWR_FAN.FAN_MIN) (fget s F.PWR_LIMIT.T_THROTTLE) (hottest s) = n * (fget s F.PWR_LIMIT.T_THROTTLE - 50)) :
    fanSet s = fset s F.PWR_FAN.DUTY n := by
  have hd : 0 < fget s F.PWR_LIMIT.T_THROTTLE - 50 := by omega
  unfold fanSet
  dsimp only
  rw [if_neg (ne_true_of_eq_false (flag_eq_false h)), hline, if_pos (Nat.mul_mod_left _ _), Nat.mul_div_cancel _ hd]

theorem fanLine_cold {fanMin throttle t : Nat} (h : t ≤ 50) : fanLine fanMin throttle t = fanMin * (throttle - 50) := if_pos h

theorem fanLine_hot {fanMin throttle t : Nat} (h : 50 < t) (hhot : throttle ≤ t) : fanLine fanMin throttle t = 100 * (throttle - 50) :=
  (if_neg (Nat.not_le.mpr h)).trans (if_pos hhot)

theorem exec_vddFastTrip {a : Nat} (h : Safety.powered s) (h0 : s.time ≠ 0) (hus : s.time % 1000 = 0) :
    exec (.vddFastTrip a) s = .next (if a ≤ fget s F.PWR_LIMIT.ICC_MAX then s else
      fset (fcount s F.PWR_VDD.FAST_TRIPS) F.PWR_VDD.TARGET_MV (Nat.max 550 (fget s F.PWR_VDD.TARGET_MV - 25))) := by
  refine (powered_next h _).trans (congrArg _ ?_)
  simp only [h0, hus, ne_eq, not_true_eq_false, false_or]

end

/-! ### Telemetry -/

section

variable {s : State}

theorem fget_measure_same {f : Fld} {v : Nat} (hlo : f.lo ≤ f.hi + 1) (hhi : f.hi < 64) (hv : v < 2 ^ (f.hi + 1 - f.lo)) : fget (measure s f v) f = v := by
  have hmin : Nat.min v (2 ^ (f.hi + 1 - f.lo) - 1) = v := Nat.min_eq_left (by omega)
  rw [Machine.measure, fget_fset_same (by decide) (by decide) hlo hhi, hmin, Nat.mod_eq_of_lt hv]

theorem fget_measure_apart {f g : Fld} {v : Nat} (h : apart f g = true) : fget (measure s f v) g = fget s g := fget_fset_apart h

/-- The measurements of the registers of the rail and the die. -/
def railMeasured (s : State) (power current mv tj stack : Nat) : State :=
  measure (measure (measure (measure (measure (measure s F.PWR_TELEM.POWER_W power) F.PWR_TELEM.CURRENT_A current) F.PWR_TELEM.VDD_MV mv)
    F.PWR_TELEM.TJ_MAX tj) F.PWR_TELEM.STACK_MAX stack) F.PWR_VDD.MEASURED_MV mv

/-- The measurements of the stacks. -/
def stacksMeasured (s : State) (temps : List Nat) : State := temps.zipIdx.foldl (fun s x => measure s F.MEM_STACK_STATUS.TEMP x.1 x.2) s

theorem exec_telemetryWindow (h : Safety.powered s) (h0 : s.time ≠ 0) (hus : s.time % 1000 = 0) (power current mv tj tach : Nat) (temps : List Nat) :
    exec (.telemetryWindow power current mv tj temps tach) s =
      .next (measure (stacksMeasured (railMeasured s power current mv tj (maxD (temps.take 4))) (temps.take 4)) F.PWR_FAN.TACH tach) := by
  have hgo : ¬ (s.time = 0 ∨ s.time % 1000 ≠ 0) := by simp [h0, hus]
  exact (powered_next h _).trans (congrArg _ (if_neg hgo))

theorem fget_stacksMeasured {f : Fld} (hf : f.reg ≠ .MEM_STACK_STATUS) (temps : List Nat) : fget (stacksMeasured s temps) f = fget s f := by
  have hstack (t : State) (x : Nat × Nat) : KeepsReg f.reg t (measure t F.MEM_STACK_STATUS.TEMP x.1 x.2) := keepsReg_fset hf ..
  exact (keepsReg_foldl hstack temps.zipIdx s).fget 0 0

section

variable {power current mv tj stack tach : Nat} {temps : List Nat}

/-- The telemetry registers read what was measured. -/
theorem telemetry_reads (hp : power < 1024) (hc : current < 1024) (hmv : mv < 1024) (htj : tj < 128) (htach : tach < 65536) :
    let t := measure (stacksMeasured (railMeasured s power current mv tj stack) temps) F.PWR_FAN.TACH tach
    fget t F.PWR_TELEM.POWER_W = power ∧ fget t F.PWR_TELEM.CURRENT_A = current ∧ fget t F.PWR_TELEM.VDD_MV = mv ∧ fget t F.PWR_TELEM.TJ_MAX = tj
      ∧ fget t F.PWR_VDD.MEASURED_MV = mv ∧ fget t F.PWR_FAN.TACH = tach ∧ (stack < 128 → fget t F.PWR_TELEM.STACK_MAX = stack) := by
  intro t
  have htail {f : Fld} (hfan : apart F.PWR_FAN.TACH f = true) (hf : f.reg ≠ .MEM_STACK_STATUS) : fget t f = fget (railMeasured s power current mv tj stack) f :=
    (fget_measure_apart hfan).trans (fget_stacksMeasured hf temps)
  have hskip {f g : Fld} {u : State} {v : Nat} (h : apart f g = true) : fget (measure u f v) g = fget u g := fget_measure_apart h
  refine ⟨?_, ?_, ?_, ?_, ?_, ?_, fun hstack => ?_⟩
  · rw [htail (by decide) (by decide), railMeasured, hskip (by decide), hskip (by decide), hskip (by decide), hskip (by decide), hskip (by decide)]
    exact fget_measure_same (f := F.PWR_TELEM.POWER_W) (by decide) (by decide) hp
  · rw [htail (by decide) (by decide), railMeasured, hskip (by decide), hskip (by decide), hskip (by decide), hskip (by decide)]
    exact fget_measure_same (f := F.PWR_TELEM.CURRENT_A) (by decide) (by decide) hc
  · rw [htail (by decide) (by decide), railMeasured, hskip (by decide), hskip (by decide), hskip (by decide)]
    exact fget_measure_same (f := F.PWR_TELEM.VDD_MV) (by decide) (by decide) hmv
  · rw [htail (by decide) (by decide), railMeasured, hskip (by decide), hskip (by decide)]
    exact fget_measure_same (f := F.PWR_TELEM.TJ_MAX) (by decide) (by decide) (Nat.lt_trans htj (by decide))
  · rw [htail (by decide) (by decide), railMeasured]
    exact fget_measure_same (f := F.PWR_VDD.MEASURED_MV) (by decide) (by decide) hmv
  · exact fget_measure_same (f := F.PWR_FAN.TACH) (by decide) (by decide) htach
  · rw [htail (by decide) (by decide), railMeasured, hskip (by decide)]
    exact fget_measure_same (f := F.PWR_TELEM.STACK_MAX) (by decide) (by decide) (Nat.lt_trans hstack (by decide))

end

/-! ### Limits -/

theorem exec_pwrLimitWrite_limit {v : Nat} (h : Safety.writable s .PWR_LIMIT 0 0) :
    exec (.pwrLimitWrite false v) s = .next (limitWrite s false v (2 ^ 64 - 1)) := busWrite_next h fun s => limitWrite s false v (2 ^ 64 - 1)

theorem exec_pwrLimitWrite_fan {v : Nat} (h : Safety.writable s .PWR_FAN 0 0) :
    exec (.pwrLimitWrite true v) s = .next (limitWrite s true v (2 ^ 64 - 1)) := busWrite_next h fun s => limitWrite s true v (2 ^ 64 - 1)

theorem limitWrite_locked {fan : Bool} {v words : Nat} (h : fwRunning s = true) : limitWrite s fan v words = s := if_pos h

theorem limitWrite_open {fan : Bool} {v words : Nat} (h : fwRunning s = false) : limitWrite s fan v words = limitStore s fan v words :=
  if_neg (ne_true_of_eq_false h)

end

/-- Settles O52. That a sampled level becomes the pin's, and that a fan hold overrides the loop, is deduced (log 94); the loops run without a check of
their time (log 95). -/
theorem sillageAndLoops : Obligations.SillageAndLoops := by
  refine ⟨fun s v h => ?enter, fun s h h1 hrest => ⟨_, exec_sillageEntryDone h h1 hrest, sillageIn_reads⟩,
    fun s tj stack tach hpd h hf h2 hat hint => ?sample, fun s h hf h3 => ⟨_, exec_wakeSequenceDone h hf h3, sillageLeft_reads⟩,
    fun s logs h hact h0 => ?power, fun s warn fanFault logs h hact h0 => ?thermal, fun s a h h0 hus => ?trip,
    fun s p c mv tj tach temps h h0 hus hlen htach hp hc hmv htj => ?telemetry, fun s v => ⟨fun h => ?limit, fun h => ?fan⟩⟩
  case enter =>
    intro new t
    refine ⟨fun hr => (exec_sillageEnter h).trans (congrArg _ (if_pos (ne_true_of_eq_false hr))), fun hr hst => ?_, fun hr hst href => ?_, fun hr hst href => ?_⟩
    · exact (exec_sillageEnter_taken h hr).trans (congrArg _ (sillageEnter_elsewhere hst))
    · exact (exec_sillageEnter_taken h hr).trans (congrArg _ (sillageEnter_refused hst href))
    · have hpins : t.boot.hpd = s.boot.hpd := congrArg Boot.hpd (rset_boot ..)
      rw [← hpins]
      exact (exec_sillageEnter_taken h hr).trans (congrArg _ (sillageEnter_starts hst href))
  case sample =>
    intro t
    rw [exec_sillageSample h hf h2 hat hint]
    refine ⟨fun hhot => congrArg _ (if_pos hhot), fun hcool hheat => congrArg _ ((if_neg (Nat.not_lt.mpr hcool)).trans (if_pos hheat)), fun hcool hcold => ?_⟩
    have hpast : ¬ 105 < tj ∧ ¬ fget t F.PWR_SILLAGE.TEMP_WAKE ≤ Nat.max tj stack := ⟨Nat.not_lt.mpr hcool, Nat.not_le.mpr hcold⟩
    refine ⟨fun hslow hduty => congrArg _ ((if_neg hpast.1).trans ((if_neg hpast.2).trans (if_pos ⟨hslow, hduty⟩))), fun hfan => ?_⟩
    have hspin : ¬ (tach < 300 ∧ fget t F.PWR_SILLAGE.FAN_DUTY ≠ 0) := fun ⟨hslow, hduty⟩ => hfan.elim (Nat.not_le.mpr hslow) hduty
    refine ⟨fun hnone => congrArg _ ((if_neg hpast.1).trans ((if_neg hpast.2).trans ((if_neg hspin).trans ?_))),
      fun n hsome => congrArg _ ((if_neg hpast.1).trans ((if_neg hpast.2).trans ((if_neg hspin).trans ?_)))⟩
    · rw [hnone]
    · rw [hsome]
  case power =>
    intro r vmax v u
    rw [exec_powerLoopPeriod h hact h0]
    refine ⟨fun hlow hfirst => congrArg (fun x => Host.Outcome.next (logAll x logs)) (if_pos ?_),
      fun hno => congrArg (fun x => Host.Outcome.next (logAll x logs)) (if_neg ?_), Nat.le_max_left .., fun hmax => Nat.max_le.mpr ⟨hmax, Nat.min_le_left ..⟩⟩
    · rw [Bool.and_eq_true, decide_eq_true_eq, hfirst]
      exact ⟨hlow, rfl⟩
    · rw [Bool.and_eq_true, decide_eq_true_eq]
      rintro ⟨hlow, hfirst⟩
      rcases hno with hno | hno
      · exact Nat.not_lt.mpr hno hlow
      · rw [hno] at hfirst
        exact Bool.false_ne_true hfirst
  case thermal =>
    refine ⟨exec_thermalLoopPeriod h hact h0 warn fanFault logs, fanSet_held, fun hfree hcold hpos => fanSet_exact hfree hpos (fanLine_cold hcold),
      fun hfree hpos hhot => fanSet_exact hfree hpos (fanLine_hot (by omega) hhot)⟩
  case trip =>
    rw [exec_vddFastTrip h h0 hus]
    exact ⟨fun hok => congrArg _ (if_pos hok), fun hover => congrArg _ (if_neg (Nat.not_le.mpr hover))⟩
  case telemetry =>
    have htake : temps.take 4 = temps := List.take_of_length_le (by omega)
    refine ⟨_, exec_telemetryWindow h h0 hus p c mv tj tach temps, ?_⟩
    rw [htake]
    exact telemetry_reads hp hc hmv htj htach
  case limit =>
    intro new
    rw [exec_pwrLimitWrite_limit h]
    refine ⟨fun hno => congrArg _ ?_, fun hrun hok => congrArg _ ((limitWrite_open hrun).trans (if_pos hok))⟩
    cases hrun : fwRunning s with
    | true => exact limitWrite_locked hrun
    | false => exact (limitWrite_open hrun).trans (if_neg (ne_true_of_eq_false (hno.resolve_left (by rw [hrun]; decide))))
  case fan =>
    rw [exec_pwrLimitWrite_fan h]
    exact ⟨fun hrun => congrArg _ (limitWrite_locked hrun), fun hrun => congrArg _ (limitWrite_open hrun)⟩

end Sys2Proof.Proofs

/-!
## The flash, the fuses and SMBus (O54)
-/

namespace Sys2Proof.Proofs

open Machine Laws

/-! ### Flash commands -/

section

variable {s : State} (h : Safety.writable s .BOOT_FLASH_CMD 0 0)

include h

theorem flashCmd_free (hb : fget s F.BOOT_FLASH_RESULT.BUSY = 0) (k : State → State) : flashCmd s k = .next (k s) :=
  (busWrite_next h _).trans (congrArg _ (if_neg (ne_true_of_eq_false (flag_eq_false hb))))

theorem flashCmd_busy (hb : fget s F.BOOT_FLASH_RESULT.BUSY = 1) (k : State → State) : flashCmd s k = .next s :=
  (busWrite_next h _).trans (congrArg _ (if_pos (flag_eq_true hb)))

end

section

variable {s : State} {op pages unit n : Nat}

/-- An operation runs. -/
def flashRuns (s : State) (o : FlashOp) : State := fset { s with boot := { s.boot with op := some o } } F.BOOT_FLASH_RESULT.BUSY 1

theorem flashBegin_misaligned (ha : fget s F.BOOT_FLASH_ADDR.ADDR % unit ≠ 0) : flashBegin s op pages unit n = flashEnd s .badAlignment := if_pos ha

theorem flashBegin_outside (ha : fget s F.BOOT_FLASH_ADDR.ADDR % unit = 0)
    (hr : pages = 0 ∨ 16 < pages ∨ s.boot.density < fget s F.BOOT_FLASH_ADDR.ADDR + n) : flashBegin s op pages unit n = flashEnd s .lengthRange :=
  (if_neg (not_not_intro ha)).trans (if_pos hr)

theorem flashBegin_runs (ha : fget s F.BOOT_FLASH_ADDR.ADDR % unit = 0) (hlo : 1 ≤ pages) (hhi : pages ≤ 16)
    (hr : fget s F.BOOT_FLASH_ADDR.ADDR + n ≤ s.boot.density) :
    flashBegin s op pages unit n = flashRuns s { op := op, addr := fget s F.BOOT_FLASH_ADDR.ADDR, pages := pages } := by
  have hgo : ¬ (pages = 0 ∨ 16 < pages ∨ s.boot.density < fget s F.BOOT_FLASH_ADDR.ADDR + n) := by
    rintro (h | h | h)
    · omega
    · omega
    · exact Nat.not_lt.mpr hr h
  exact (if_neg (not_not_intro ha)).trans (if_neg hgo)

end

section

variable {s : State} (h : Safety.writable s .BOOT_FLASH_CMD 0 0)

include h

section

variable (hb : fget s F.BOOT_FLASH_RESULT.BUSY = 0)

include hb

theorem exec_flashRead {n : Nat} (hn : n < 256) : exec (.flashRead n) s = .next (flashBegin s 1 n 256 (256 * n)) := by
  change flashCmd s (fun s => flashBegin s 1 (n % 256) 256 (256 * (n % 256))) = _
  rw [flashCmd_free h hb, Nat.mod_eq_of_lt hn]

theorem exec_flashProgram {n : Nat} (hn : n < 256) : exec (.flashProgram n) s = .next (flashBegin s 2 n 256 (256 * n)) := by
  change flashCmd s (fun s => flashBegin s 2 (n % 256) 256 (256 * (n % 256))) = _
  rw [flashCmd_free h hb, Nat.mod_eq_of_lt hn]

theorem exec_flashErase : exec .flashErase s = .next (flashBegin s 3 1 65536 65536) := flashCmd_free h hb fun s => flashBegin s 3 1 65536 65536

theorem exec_flashUndefinedOp {n : Nat} (hn : n = 0 ∨ 3 < n) : exec (.flashUndefinedOp n) s = .next (flashEnd s .badOpcode) := by
  have hgo : ¬ (1 ≤ n ∧ n ≤ 3) := by omega
  exact (if_neg hgo).trans (flashCmd_free h hb fun s => flashEnd s .badOpcode)

end

/-- With BUSY 1 a command is discarded. -/
theorem exec_flash_busy (hb : fget s F.BOOT_FLASH_RESULT.BUSY = 1) (n : Nat) :
    exec (.flashRead n) s = .next s ∧ exec (.flashProgram n) s = .next s ∧ exec .flashErase s = .next s ∧ exec (.flashUndefinedOp n) s = .next s := by
  have hbusy := flashCmd_busy h hb
  refine ⟨hbusy fun s => flashBegin s 1 (n % 256) 256 (256 * (n % 256)), hbusy fun s => flashBegin s 2 (n % 256) 256 (256 * (n % 256)),
    hbusy fun s => flashBegin s 3 1 65536 65536, ?_⟩
  change execFlashUndefinedOp n s = _
  unfold execFlashUndefinedOp
  split
  · rfl
  · exact hbusy _

end

/-! ### Ends of flash operations -/

section

variable {s : State} {o : FlashOp}

theorem exec_flashOpDone (h : Safety.powered s) (ho : s.boot.op = some o) (fail : Bool) : exec (.flashOpDone fail) s = .next (
    if fail then flashEnd (flashFree s (flashNow o).1 (flashNow o).2) .uncorrectableEcc
    else if o.abandoned then flashEnd (flashPart s o) .watchdog
    else if o.op = 2 ∧ o.done + 1 < o.pages then onBoot (flashPart s o) fun b => { b with op := some { o with done := o.done + 1 } }
    else flashEnd (flashPart s o) .ok) := by
  change execFlashOpDone fail s = _
  rw [execFlashOpDone, powered_next h, ho]

theorem exec_flashOpDone_ok (h : Safety.powered s) (ho : s.boot.op = some o) (hab : o.abandoned = false) : exec (.flashOpDone false) s = .next (
    if o.op = 2 ∧ o.done + 1 < o.pages then onBoot (flashPart s o) fun b => { b with op := some { o with done := o.done + 1 } }
    else flashEnd (flashPart s o) .ok) := by
  rw [exec_flashOpDone h ho, if_neg Bool.false_ne_true, if_neg (ne_true_of_eq_false hab)]

theorem exec_flashOpTimeout (h : Safety.powered s) (ho : s.boot.op = some o) : exec .flashOpTimeout s = .next (
    if o.op = 1 then s else flashEnd (flashFree s (flashNow o).1 (flashNow o).2) .watchdog) := by
  change execFlashOpTimeout s = _
  rw [execFlashOpTimeout, powered_next h, ho]

theorem flash_without_operation (h : Safety.powered s) (ho : s.boot.op = none) (fail : Bool) :
    exec (.flashOpDone fail) s = .next s ∧ exec .flashOpTimeout s = .next s := by
  refine ⟨?_, ?_⟩
  · change execFlashOpDone fail s = _
    rw [execFlashOpDone, powered_next h, ho]
  · change execFlashOpTimeout s = _
    rw [execFlashOpTimeout, powered_next h, ho]

theorem onBoot_op_flash (s : State) (x : Option FlashOp) : (onBoot s fun b => { b with op := x }).boot.flash = s.boot.flash := rfl

theorem flashEnd_flash (s : State) (st : Status) : (flashEnd s st).boot.flash = s.boot.flash := by
  rw [flashEnd, fset_boot, fset_boot]

theorem flashEnd_boot (s : State) (st : Status) : (flashEnd s st).boot = { s.boot with op := none } := by
  rw [flashEnd, fset_boot, fset_boot]

theorem flashEnd_busy (s : State) (st : Status) : fget (flashEnd s st) F.BOOT_FLASH_RESULT.BUSY = 0 := by
  rw [flashEnd, fget_fset_apart (by decide)]
  exact fget_fset_same (f := F.BOOT_FLASH_RESULT.BUSY) (by decide) (by decide) (by decide) (by decide)

theorem flashEnd_status (s : State) (st : Status) (hst : Status.code st < 256) :
    fget (flashEnd s st) F.BOOT_FLASH_RESULT.STATUS = Status.code st := by
  have hset : fget (flashEnd s st) F.BOOT_FLASH_RESULT.STATUS = Status.code st % 256 :=
    fget_fset_same (f := F.BOOT_FLASH_RESULT.STATUS) (by decide) (by decide) (by decide) (by decide)
  rw [hset, Nat.mod_eq_of_lt hst]

theorem flashEnd_op (s : State) (st : Status) : (flashEnd s st).boot.op = none := by
  rw [flashEnd_boot]

theorem flashPart_read (hop : o.op = 1) : flashPart s o =
    { s with boot := { s.boot with window := mwrite 0 s.boot.window 0 (flashRead s o.addr (256 * o.pages)) } } := by
  rw [flashPart, hop]
  rfl

theorem flashPart_program (hop : o.op = 2) :
    flashPart s o = flashAnd s (o.addr + 256 * o.done) (mread 0 s.boot.window (256 * o.done) 256) := by
  rw [flashPart, hop]
  rfl

theorem flashPart_erase (hop : o.op = 3) :
    flashPart s o = onBoot s fun b => { b with flash := b.flash.filter fun c => ¬ (o.addr ≤ c.1 ∧ c.1 < o.addr + 65536) } := by
  rw [flashPart, hop]
  rfl

theorem mread_one (d : Byte) (m : List Host.Cell) (a : Nat) : mread d m a 1 = [mget d m a] := rfl

theorem getElem?_mread (d : Byte) (m : List Host.Cell) {i n : Nat} (hi : i < n) (a : Nat) : (mread d m a n)[i]? = some (mget d m (a + i)) := by
  induction n generalizing a i with
  | zero => omega
  | succ n ih =>
    cases i with
    | zero => rfl
    | succ i =>
      rw [mread, List.getElem?_cons_succ, ih (Nat.lt_of_succ_lt_succ hi), Nat.add_right_comm, Nat.add_assoc]

theorem mget_mwrite_inside (d : Byte) (m : List Host.Cell) (a : Nat) (bs : List Byte) {i : Nat} (hi : i < bs.length) :
    some (mget d (mwrite d m a bs) (a + i)) = bs[i]? := by
  rw [← getElem?_mread d _ hi, mread_mwrite]

/-- A page program leaves the bits that the flash and the page both have. -/
theorem mread_flashAnd (s : State) (a w : Nat) {i : Nat} (hi : i < 256) : mread 0xFF (flashAnd s a (mread 0 s.boot.window w 256)).boot.flash (a + i) 1
    = [(mread 0xFF s.boot.flash (a + i) 1).headD 0 &&& (mread 0 s.boot.window (w + i) 1).headD 0] := by
  have hold := getElem?_mread 0xFF s.boot.flash hi a
  have hnew := getElem?_mread 0 s.boot.window hi w
  have hpage : (((mread 0xFF s.boot.flash a 256).zip (mread 0 s.boot.window w 256)).map fun x => x.1 &&& x.2)[i]? =
      some (mget 0xFF s.boot.flash (a + i) &&& mget 0 s.boot.window (w + i)) := by
    rw [List.getElem?_map, List.zip, List.getElem?_zipWith, hold, hnew]
    rfl
  have hlen : i < (((mread 0xFF s.boot.flash a 256).zip (mread 0 s.boot.window w 256)).map fun x => x.1 &&& x.2).length := by simpa using hi
  have hget := (mget_mwrite_inside 0xFF s.boot.flash a _ hlen).trans hpage
  rw [mread_one, mread_one, mread_one, List.headD_cons, List.headD_cons, flashAnd, length_mread, onBoot_boot, flashRead, Option.some.inj hget]

theorem tget_filter_kept {α : Type} (m : Tbl α) {f : Nat × α → Bool} {a : Nat} (h : ∀ v, f (a, v) = true) : tget (m.filter f) a = tget m a := by
  induction m with
  | nil => rfl
  | cons c m ih =>
    by_cases hc : f c = true
    · rw [List.filter_cons_of_pos hc, tget, tget, ih]
    · have hne : a ≠ c.1 := by
        rintro rfl
        exact hc (h c.2)
      rw [List.filter_cons_of_neg hc, ih, tget, if_neg hne]

theorem tget_filter_dropped {α : Type} (m : Tbl α) {f : Nat × α → Bool} {a : Nat} (h : ∀ v, f (a, v) = false) : tget (m.filter f) a = none := by
  induction m with
  | nil => rfl
  | cons c m ih =>
    by_cases hc : f c = true
    · have hne : a ≠ c.1 := by
        rintro rfl
        exact ne_true_of_eq_false (h c.2) hc
      rw [List.filter_cons_of_pos hc, tget, if_neg hne, ih]
    · rw [List.filter_cons_of_neg hc, ih]

/-- An erase leaves 64 KiB of 0xFF, and every other byte. -/
theorem mread_erased (m : List Host.Cell) (a b : Nat) :
    let t := m.filter fun c => decide ¬ (a ≤ c.1 ∧ c.1 < a + 65536)
    (a ≤ b → b < a + 65536 → mread 0xFF t b 1 = [0xFF]) ∧ (b < a ∨ a + 65536 ≤ b → mread 0xFF t b 1 = mread 0xFF m b 1) := by
  intro t
  refine ⟨fun hlo hhi => ?_, fun hout => ?_⟩
  · have hgone : tget t b = none := tget_filter_dropped m fun v => decide_eq_false (not_not_intro ⟨hlo, hhi⟩)
    rw [mread_one, mget, tgetD, hgone]
    rfl
  · have hkept : tget t b = tget m b := tget_filter_kept m fun v => decide_eq_true (by omega)
    rw [mread_one, mread_one, mget, mget, tgetD, tgetD, hkept]

end

/-! ### Fuses and SMBus -/

section

variable {s : State}

/-- A kept revocation adds its slots and leaves what is programmed. -/
theorem revokeWrite_kept {m : Nat} (hm : m < 16) (hleft : without (fget s F.BOOT_FUSE.PROGRAMMED) (fget s F.BOOT_FUSE.REVOKED ||| m) ≠ 0) :
    fget (revokeWrite s m) F.BOOT_FUSE.REVOKED = fget s F.BOOT_FUSE.REVOKED ||| m
      ∧ fget (revokeWrite s m) F.BOOT_FUSE.PROGRAMMED = fget s F.BOOT_FUSE.PROGRAMMED := by
  have hold : fget s F.BOOT_FUSE.REVOKED < 2 ^ 4 := Nat.mod_lt _ (by decide)
  have hnew : (fget s F.BOOT_FUSE.REVOKED ||| m) < 2 ^ 4 := Nat.or_lt_two_pow hold hm
  have hset : fget (fset s F.BOOT_FUSE.REVOKED (fget s F.BOOT_FUSE.REVOKED ||| m)) F.BOOT_FUSE.REVOKED = (fget s F.BOOT_FUSE.REVOKED ||| m) % 2 ^ 4 :=
    fget_fset_same (f := F.BOOT_FUSE.REVOKED) (by decide) (by decide) (by decide) (by decide)
  rw [revokeWrite, Nat.mod_eq_of_lt hm, if_neg hleft, fget_onBoot, fget_onBoot, hset, Nat.mod_eq_of_lt hnew, fget_fset_apart (by decide)]
  exact ⟨rfl, rfl⟩

theorem revokeWrite_discarded {m : Nat} (hm : m < 16) (hnone : without (fget s F.BOOT_FUSE.PROGRAMMED) (fget s F.BOOT_FUSE.REVOKED ||| m) = 0) :
    revokeWrite s m = s := by
  rw [revokeWrite, Nat.mod_eq_of_lt hm]
  exact if_pos hnone

theorem exec_bootFuseRevokeWrite (h : Safety.writable s .BOOT_FUSE 0 0) (m : Nat) : exec (.bootFuseRevokeWrite m) s = .next (revokeWrite s m) :=
  busWrite_next h fun s => revokeWrite s m

theorem exec_smbusMailboxRead (h : Safety.powered s) : exec .smbusMailboxRead s = .next (if recoveryId s then smbus s none
    else if ¬ (chan s 7).full then smbus s (some (natLe 0 1))
    else smbus (chTake s 7).2 (some (natLe 4 1 ++ natLe (chTake s 7).1 4))) := powered_next h _

theorem exec_smbusMailboxWrite (h : Safety.powered s) (b : List Byte) : exec (.smbusMailboxWrite b) s = .next (
    if recoveryId s ∨ (chan s 6).full ∨ b.length ≠ 4 then smbus s none else smbus (chStore s 6 (fieldAt b 0 4)) (some [])) := powered_next h _

theorem exec_smbusTelemetryRead (h : Safety.powered s) : exec .smbusTelemetryRead s = .next (send s (.smbus (some (8 :: natLe (rget s .PWR_TELEM) 8)))) := by
  have hcount : natLe 8 1 = [8] := rfl
  change execSmbusTelemetryRead s = _
  rw [execSmbusTelemetryRead, powered_next h, hcount, List.singleton_append, smbus]

theorem exec_smbusBootStatusRead (h : Safety.powered s) :
    exec .smbusBootStatusRead s = .next (send s (.smbus (some (natLe (bits (rget s .BOOT_STATUS) 31 24) 1)))) := powered_next h _

/-- SMBus takes the word of channel 7 and empties it. -/
theorem exec_smbusMailboxRead_full (h : Safety.powered s) (hid : recoveryId s = false) (hfull : (chan s 7).full = true) :
    exec .smbusMailboxRead s = .next (smbus (chEmpty s 7) (some (4 :: natLe (chan s 7).word 4))) := by
  have htake : chTake s 7 = ((chan s 7).word, chEmpty s 7) := chTake_full hfull rfl
  rw [exec_smbusMailboxRead h, if_neg (ne_true_of_eq_false hid), if_neg (not_not_intro hfull), htake]
  rfl

theorem exec_smbusMailboxWrite_taken (h : Safety.powered s) (hid : recoveryId s = false) (hfull : (chan s 6).full = false) {b : List Byte}
    (hb : b.length = 4) : exec (.smbusMailboxWrite b) s = .next (smbus (chStore s 6 (fieldAt b 0 4)) (some [])) := by
  have hgo : ¬ (recoveryId s = true ∨ (chan s 6).full = true ∨ b.length ≠ 4) := by simp [hid, hfull, hb]
  rw [exec_smbusMailboxWrite h, if_neg hgo]

theorem chan_smbus (s : State) (a : Option (List Byte)) (c : Nat) : chan (smbus s a) c = chan s c := rfl

theorem getLast?_smbus (s : State) (a : Option (List Byte)) : (smbus s a).hif.sent.getLast? = some (.smbus a) := List.getLast?_concat ..

theorem chan_chStore_six (hfull : (chan s 6).full = false) {b : List Byte} (hb : b.length = 4) :
    (chan (chStore s 6 (fieldAt b 0 4)) 6).full = true ∧ (chan (chStore s 6 (fieldAt b 0 4)) 6).word = fieldAt b 0 4 := by
  have hfield : fieldAt b 0 4 = leNat b := congrArg leNat (List.take_of_length_le (Nat.le_of_eq hb))
  have hlt : fieldAt b 0 4 < 2 ^ 32 := by
    rw [hfield]
    exact (leNat_lt b).trans_eq (by rw [hb]; rfl)
  rw [chan_congr _ (chStore_empty rfl hfull), chan_chSet_same]
  exact ⟨rfl, Nat.mod_eq_of_lt hlt⟩

end

/-- Settles O54. That an abandoned operation ends with WATCHDOG and that a command is discarded while BUSY is deduced (log 101), that
a program leaves the bits that are set in both is presumed (log 34). -/
theorem flashFusesAndSmbus : Obligations.FlashFusesAndSmbus := by
  refine ⟨fun s n h hn hb => ?start, fun s n h hb => exec_flash_busy h hb n, fun s o h ho => ?done, fun s fail h ho => flash_without_operation h ho fail,
    fun s m h hm => ?fuse, fun s h => ?smbus⟩
  case start =>
    intro a starts
    rw [exec_flashRead h hb hn, exec_flashProgram h hb hn, exec_flashErase h hb]
    refine ⟨fun ha => ⟨congrArg _ (flashBegin_misaligned ha), congrArg _ (flashBegin_misaligned ha)⟩, fun ha hr => ?_, fun ha hlo hhi hr => ?_,
      fun ha => congrArg _ (flashBegin_misaligned ha), fun ha hr => congrArg _ (flashBegin_runs ha (by decide) (by decide) hr),
      fun ha hr => congrArg _ (flashBegin_outside ha (.inr (.inr hr))), exec_flashUndefinedOp h hb, fun hlo hhi => if_pos ⟨hlo, hhi⟩⟩
    · exact ⟨congrArg _ (flashBegin_outside ha hr), congrArg _ (flashBegin_outside ha hr)⟩
    · exact ⟨congrArg _ (flashBegin_runs ha hlo hhi hr), congrArg _ (flashBegin_runs ha hlo hhi hr)⟩
  case done =>
    have hdone := exec_flashOpDone_ok h ho
    refine ⟨fun hop => (exec_flashOpTimeout h ho).trans (congrArg _ (if_pos hop)), fun hab => ?_, fun hop hab => ?_, fun hop hab hwf => ?_, fun hop hab => ?_,
      fun hop hab hwf => ?_, ⟨_, exec_flashOpDone h ho true, ?_⟩, fun hop => ⟨_, exec_flashOpTimeout h ho, ?_⟩⟩
    · rw [exec_flashOpDone h ho, if_neg Bool.false_ne_true, if_pos hab]
    · rw [hdone hab, if_neg fun hmore => absurd (hop.symm.trans hmore.1) (by decide), flashPart_read hop]
    · rw [hdone hab, flashPart_program hop]
      refine ⟨_, rfl, ?_⟩
      by_cases hmore : o.done + 1 < o.pages
      · rw [if_pos ⟨hop, hmore⟩, onBoot_op_flash]
        exact ⟨fun i hi => mread_flashAnd s _ _ hi, fun _ => rfl, fun hlast => absurd hmore (Nat.not_lt.mpr hlast)⟩
      · rw [if_neg fun hgo => hmore hgo.2, flashEnd_flash, flashEnd_op]
        exact ⟨fun i hi => mread_flashAnd s _ _ hi, fun hgo => absurd hgo hmore, fun _ => rfl⟩
    · rw [hdone hab, if_neg fun hmore => absurd (hop.symm.trans hmore.1) (by decide)]
    · refine ⟨_, hdone hab, ?_⟩
      rw [if_neg fun hmore => absurd (hop.symm.trans hmore.1) (by decide), flashPart_erase hop, flashEnd_flash, flashEnd_op, onBoot_boot]
      exact ⟨rfl, fun b => (mread_erased s.boot.flash o.addr b).1, fun b => (mread_erased s.boot.flash o.addr b).2⟩
    · rw [if_pos rfl]
      exact ⟨flashEnd_op .., flashEnd_status _ _ (by decide), flashEnd_busy ..⟩
    · rw [if_neg hop]
      exact ⟨flashEnd_op .., flashEnd_status _ _ (by decide)⟩
  case fuse =>
    intro new
    have hwrite := exec_bootFuseRevokeWrite h m
    exact ⟨fun hnone => hwrite.trans (congrArg _ (revokeWrite_discarded hm hnone)), fun hleft => ⟨_, hwrite, revokeWrite_kept hm hleft⟩⟩
  case smbus =>
    refine ⟨exec_smbusTelemetryRead h, exec_smbusBootStatusRead h, fun hid => ⟨?_, fun b => ?_⟩,
      fun hid => ⟨fun hfull => ?_, fun hfull => ?_, fun b hb hfull => ?_, fun b hno => ?_⟩⟩
    · exact (exec_smbusMailboxRead h).trans (congrArg _ (if_pos hid))
    · exact (exec_smbusMailboxWrite h b).trans (congrArg _ (if_pos (.inl hid)))
    · exact (exec_smbusMailboxRead h).trans (congrArg _ ((if_neg (ne_true_of_eq_false hid)).trans (if_pos (ne_true_of_eq_false hfull))))
    · refine ⟨_, exec_smbusMailboxRead_full h hid hfull, getLast?_smbus .., ?_⟩
      rw [chan_smbus, chan_chEmpty_full]
    · obtain ⟨hnow, hword⟩ := chan_chStore_six hfull hb
      refine ⟨_, exec_smbusMailboxWrite_taken h hid hfull hb, ?_, ?_, getLast?_smbus ..⟩
      · rw [chan_smbus, hnow]
      · rw [chan_smbus, hword]
    · exact (exec_smbusMailboxWrite h b).trans (congrArg _ (if_pos (.inr hno.symm)))

end Sys2Proof.Proofs
